-- ==== Sys2Proof/Word.lean ====
section
/-! DEFINITION. The words the part computes with: bytes, 16-, 32- and 64-bit words, and byte strings
(little-endian everywhere, R6). -/

namespace Sys2Proof

/-- One byte. -/
abbrev Byte := BitVec 8
/-- A 16-bit word: status codes (R49), swarm context ids (R69). -/
abbrev W16 := BitVec 16
/-- A 32-bit word: every register (R58), handles (R72), requester source ids (R174). -/
abbrev W32 := BitVec 32
/-- A 64-bit word: fence words (R89), swarm time (R218). -/
abbrev W64 := BitVec 64
/-- A run of bytes, lowest address first. -/
abbrev Bytes := List Byte

end Sys2Proof
end

