-- ==== Sys2Proof/Packet.lean ====
section
/-! DEFINITION. The records that commands carry from outside: a packet header of the on-package network (R175), a
request of a region port (R237), a collective join (R225), and the measured inputs of the HM1. -/

namespace Sys2Proof

/-- The header flit of R175, without its inline bytes. -/
structure PacketHeader where
  cls     : BitVec 4
  vn      : BitVec 2
  urg     : BitVec 2
  age     : Byte
  retry   : Bool
  src     : W32
  dest    : BitVec 48
  txid    : W16
  context : W16
  status  : W16
deriving DecidableEq, Repr, Inhabited

/-- A whole packet (R175): its header, LA, CHECK, OPERAND and INLINE, and the data flits, each of 64 bytes. -/
structure Packet where
  head    : PacketHeader
  la      : BitVec 4 := 0
  check   : W32 := 0
  operand : W64 := 0
  inl     : Bytes := []
  data    : List Bytes := []
deriving DecidableEq, Repr, Inhabited

/-- A request that user logic puts on the REQ channel of a region port, with its WDATA beats (R237, R238). -/
structure RegionRequest where
  op    : BitVec 3
  addr  : BitVec 48
  beats : BitVec 4
  tag   : BitVec 6
  check : W32
  value : BitVec 63
  data  : Bytes
deriving DecidableEq, Repr, Inhabited

/-- The join that a collective unit receives from a tree partner (R225). -/
structure CollJoin where
  sender : Nat
  collId : W32
  op     : BitVec 4
  count  : BitVec 24
  param  : W16
  mask   : W16
  root   : BitVec 4
  arms   : Nat
  family : W16
deriving DecidableEq, Repr, Inhabited

/-- A CSI-2 short packet that ends a frame: its virtual channel, and whether its header was corrected (R257). -/
structure CameraEnd where
  vc        : BitVec 4
  corrected : Bool
deriving DecidableEq, Repr, Inhabited

/-- What the die that samples FRAME_DONE at a tick sees (R272): the line; whether a die of another member is HELD and released; whether a
member has told this coordinator that S came too late; and the S that has come from the coordinator. -/
structure DoneSample where
  line   : Bool
  others : Bool
  late   : Bool
  named  : Option W64
deriving DecidableEq, Repr, Inhabited

/-- One CSI-2 long packet as the receiver of a camera port delivers it (R257). -/
structure CameraPacket where
  vc        : BitVec 4
  dt        : Byte
  payload   : Bytes
  crcOk     : Bool
  headerOk  : Bool
  corrected : Bool
deriving DecidableEq, Repr, Inhabited

/-- One burst of the power line as a receiver hears it (R463, R464): the phase of each of its four sub-symbols (true: reversed), its in-band
envelope, and the largest in-band envelope from 0.05 ms before the burst to its end. -/
structure PlcBurst where
  phases : List Bool
  level  : Nat
  peak   : Nat
deriving DecidableEq, Repr, Inhabited

/-- What AC lock is judged by (R406): the half-cycle RMS of VA1 in 0.01 V and the frequency in mHz. -/
structure AcMeasure where
  rms : Nat
  mhz : Nat
deriving DecidableEq, Repr, Inhabited

/-- The raw codes of one measurement interval, one list per channel 0-9 of R402, with what the interval's end says
of its AC cycles: their number, the duration in 1/64 of an AC sample period (R406), and whether lock was lost. -/
structure IntervalCodes where
  codes    : List (List (BitVec 24))
  cycles   : Nat
  duration : Nat
  partialInterval : Bool
  hot      : Bool
  /-- AC samples that precede a tariff switch inside the interval (R442), when there is one. -/
  split    : Option Nat
deriving DecidableEq, Repr, Inhabited

end Sys2Proof
end

