-- ==== Sys2Proof/Syntax.lean ====
section
/-! DEFINITION. The commands of the block: one constructor for each row of spec/opcode_table.json, in the table's order.
An operand names the unit that the command reaches (a mailbox m, a queue q, a die and a cell, a Holmi link l ...), the
source that acts (a requester source id of R174), the value written, or what is measured or received at a pin. -/

namespace Sys2Proof

/-- One command or event of the part, after spec/opcode_table.json. -/
inductive Instr where
  /-- MBX_REQ_TAIL_WRITE (R37): The host writes REQ_TAIL to publish requests, and a tail more than 16 ahead of the head freezes the mailbox. -/
  | mbxReqTailWrite (src : W32) (m : Nat) (v : W32)
  /-- MBX_RSP_HEAD_WRITE (R38): The host writes RSP_HEAD to free response slots, and a head beyond the tail freezes the mailbox. -/
  | mbxRspHeadWrite (src : W32) (m : Nat) (v : W32)
  /-- MBX_DOORBELL (R36): A write to HIVE.MBX.DOORBELL names a mailbox whose REQ_TAIL has advanced. -/
  | mbxDoorbell (src : W32) (v : W32)
  /-- RING_RESET (R35): Setting CTRL.RING_RESET zeroes all four ring indices, discards unread responses and clears RING_FAULT. -/
  | ringReset (src : W32) (m : Nat) (v : W32)
  /-- EVENT_DELIVER (R47): A queued event is written to the response ring once a free, unreserved slot exists. -/
  | eventDeliver (m : Nat)
  /-- CMD_DONE (R43): An accepted long-running command completes and sends one CMD_DONE with its final status. -/
  | cmdDone (m : Nat) (tag : Byte)
  /-- GET_CAPS (R53): Returns the firmware line, silicon revision, node, own mailbox and its role, the group bitmap and the removed-opcode count. -/
  | getCaps (m : Nat)
  /-- GET_OPCODE_INFO (R53): Returns the highest card version, the permitted roles and the request and response lengths of an opcode. -/
  | getOpcodeInfo (m : Nat)
  /-- MBX_GRANT (R53): The Owner binds an Agent mailbox to a requester source id with a permission mask and a context quota. -/
  | mbxGrant (m : Nat)
  /-- MBX_REVOKE (R53): The Owner unbinds an Agent mailbox, refusing if contexts exist or destroying them, as the mode selects. -/
  | mbxRevoke (m : Nat)
  /-- EVENT_MASK (R53): Sets the mailbox event mask and returns the previous mask. -/
  | eventMask (m : Nat)
  /-- CTX_CREATE (R69): Creates an idle context on a node with a priority, a hang patience and an optional PCIe VF. -/
  | ctxCreate (m : Nat)
  /-- CTX_DESTROY (R54): Resets a context, poisons its unsignalled fences with 0x2007 and frees its objects. -/
  | ctxDestroy (m : Nat)
  /-- MO_CREATE (R77): Creates a zero-filled memory object with the permissions, placement and size requested. -/
  | moCreate (m : Nat)
  /-- MO_DESTROY (R54): Frees a memory object and increments the generation of its entry, refusing while REFS is nonzero. -/
  | moDestroy (m : Nat)
  /-- MO_LOCK (R76): Sets or clears LOCKED on an object, and is refused on objects that carry KEEPER_LOCK. -/
  | moLock (m : Nat)
  /-- QUEUE_CREATE (R54): Creates a queue with a target, a ring, a completion fence and a unit mask, and returns its doorbell address. -/
  | queueCreate (m : Nat)
  /-- QUEUE_DESTROY (R88): Drains or abandons a queue and then frees it. -/
  | queueDestroy (m : Nat)
  /-- FENCE_CREATE (R54): Creates a fence with an initial value below 2^63. -/
  | fenceCreate (m : Nat)
  /-- FENCE_RECYCLE (R89): Clears the poison of a poisoned fence and sets a value above its last normal value. -/
  | fenceRecycle (m : Nat)
  /-- MONITOR_ALLOC (R94): Reserves a contiguous run of fence-monitor slots for a context. -/
  | monitorAlloc (m : Nat)
  /-- JOB_LOAD (R54): Copies a job image into a Keeper-locked object and writes its SHA-384 job image hash. -/
  | jobLoad (m : Nat)
  /-- REG_READ (R55): Reads up to 12 consecutive registers, clearing RC fields under R12. -/
  | regRead (m : Nat)
  /-- REG_WRITE (R509): Writes the masked bits of a register, with per-access-code effects. -/
  | regWrite (m : Nat)
  /-- REG_STAGE (R509): Writes the masked bits of RWS fields into a staged block's staging copy and takes the staging hold. -/
  | regStage (m : Nat)
  /-- COMMIT (R62): Checks a staged block and schedules its staging copy for application at the block's safe boundary. -/
  | commit (m : Nat)
  /-- STAGE_DISCARD (R61): Reloads the staging copy from the values in force and releases the staging hold. -/
  | stageDiscard (m : Nat)
  /-- COMMIT_APPLY (R62): At the safe boundary, the in-force copy takes the staging values and the generation increments. -/
  | commitApply (block : W32)
  /-- PKG_STATE (R348): Moves the package to PARKED, STANDBY, READY or ACTIVE. -/
  | pkgState (m : Nat)
  /-- DOMAIN_CTRL (R345): Gates or ungates a power domain and sets its wake-on-access bit. -/
  | domainCtrl (m : Nat)
  /-- CLOCK_SET (R356): Sets the data-plane clock of the dies in the mask. -/
  | clockSet (m : Nat)
  /-- WAKE_CONFIG (R352): Arms wake sources and sets the RTC alarm. -/
  | wakeConfig (m : Nat)
  /-- LINK_CONFIG (R231): Takes a swarm-link port down, brings it up or retrains it, by drain-and-switch. -/
  | linkConfig (m : Nat)
  /-- SWARM_STATUS (R56): Returns the nodes present, the coordinator, the port states and the swarm generation. -/
  | swarmStatus (m : Nat)
  /-- FRAME_LOAD (R267): Loads a frame image as a full start or a partial load, or makes a start request. -/
  | frameLoad (m : Nat)
  /-- FRAME_READBACK (R278): Compares the CRC of every frame of the named regions with the one recorded at load. -/
  | frameReadback (m : Nat) (upset : List Nat)
  /-- FAULT_READ (R293): Copies fault records from an index into a destination object. -/
  | faultRead (m : Nat)
  /-- FAULT_POLICY (R57): A catalogue entry that rejects every checked request with 0x1009. -/
  | faultPolicy (m : Nat)
  /-- CTX_RESET (R295): Resets a context on request with code 0x5004. -/
  | ctxReset (m : Nat)
  /-- DIE_RECOVER (R298): Starts die recovery of a Comb or Frame die on request. -/
  | dieRecover (m : Nat)
  /-- UPDATE_APPLY (R337): Verifies a signed delta and writes and checks the inactive slot or its NOR partition. -/
  | updateApply (m : Nat) (verifyOk : Bool)
  /-- SLOT_SWITCH (R338): Rewrites the option copy to select a boot slot, as a trial or a confirmation. -/
  | slotSwitch (m : Nat)
  /-- ATTEST (R333): Writes an alias-signed attestation report with the alias and device certificates. -/
  | attest (m : Nat)
  /-- KEY_RAM_WRITE (R334): Unwraps a key blob with the key-wrap key into a key RAM slot. -/
  | keyRamWrite (m : Nat)
  /-- SETTINGS (R339): Gets a setting, or sets it by appending a record to the data area. -/
  | settings (m : Nat)
  /-- HM1_MSG (R493): Relays one message to an HM1 over its Holmi link and returns the reply. -/
  | hm1Msg (m : Nat)
  /-- HM1_STATUS (R57): Returns the link state, seal state, firmware line, silicon revision and identity of an HM1. -/
  | hm1Status (m : Nat)
  /-- SELF_TEST (R501): Runs the selected memory, logic, link and flash self-tests and returns or retires resources. -/
  | selfTest (m : Nat) (cut : W32) (failing : List W32)
  /-- LIFETIME_READ (R505): Copies the lifetime counters, the safety log and the erase counts into a destination object. -/
  | lifetimeRead (m : Nat)
  /-- SAFETY_STATUS (R396): Returns the 32 function state bytes of the safety island's published area. -/
  | safetyStatus (m : Nat)
  /-- DIRECT_REGISTER_WRITE (R508): A direct write to a register that has no row of its own, taken or rejected by the access rules. -/
  | directRegisterWrite (src : W32) (addr : BitVec 48) (v : W32)
  /-- QUEUE_DOORBELL (R84): The host writes a queue's submission count, which is accepted, ignored or halts the queue. -/
  | queueDoorbell (src : W32) (q : Nat) (v : W32)
  /-- KERNEL (R131): Starts a KERNEL descriptor once its wait is met, dealing its items out to the queue's cells. -/
  | kernel (q : Nat)
  /-- COPY (R82): Starts a COPY descriptor that moves whole parcels with their checks. -/
  | copy (q : Nat)
  /-- SELECT (R155): Starts a SELECT descriptor on the queue's select engines. -/
  | selectDescriptor (q : Nat)
  /-- TILE (R248): Starts a TILE descriptor on the queue's matrix tiles. -/
  | tile (q : Nat)
  /-- BARRIER (R82): A BARRIER descriptor performs only its wait and its signal. -/
  | barrier (q : Nat)
  /-- NOP_DESCRIPTOR (R82): A NOP descriptor performs only its wait and its signal. -/
  | nopDescriptor (q : Nat)
  /-- DESCRIPTOR_FINISH (R135): A descriptor's work and PUTs complete, and its report word is written. -/
  | descriptorFinish (q : Nat) (d : W32)
  /-- DESCRIPTOR_RETIRE (R85): A descriptor retires in number order, applies its signal and advances the completion fence. -/
  | descriptorRetire (q : Nat)
  /-- FENCE_SET_PORT (R90): An aligned 8-byte write to a fence's SET port signals the fence. -/
  | fenceSetPort (src : W32) (i : Nat) (bytes : Nat) (v : W64)
  /-- FENCE_ADD_PORT (R90): An aligned 8-byte write to a fence's ADD port signals the fence. -/
  | fenceAddPort (src : W32) (i : Nat) (size : Nat) (v : W64)
  /-- FENCE_SIGNAL (R91): The fence unit applies one arriving signal to a fence, raising, poisoning or rejecting it. -/
  | fenceSignal
  /-- MONITOR_ARM (R95): Setting ARM checks the slot's settings and arms it, or sets FIRED_ERROR. -/
  | monitorArm (src : W32) (k : Nat) (v : W32)
  /-- MONITOR_DISARM (R94): Setting DISARM returns the slot to IDLE without firing. -/
  | monitorDisarm (src : W32) (k : Nat) (v : W32)
  /-- MONITOR_FIRE (R96): A change that meets the target writes the notification, raises the interrupt and sets FIRED. -/
  | monitorFire (k : Nat)
  /-- MONITOR_CLOSING_EVALUATE (R101): A watched plain word is evaluated once after its domain's CLOSING ends, and the slot fires or fails with 0x2005. -/
  | monitorClosingEvaluate (k : Nat)
  /-- NOP (R138): Cell instruction with no effect. -/
  | nopInstr (die cell : Nat)
  /-- END (R138): Ends the item once its outstanding GET and PUT operations have completed. -/
  | endItem (die cell : Nat)
  /-- JMP (R138): Continues at instruction IMM. -/
  | jmp (die cell : Nat)
  /-- BR (R138): Continues at IMM when the comparison chosen by C holds. -/
  | br (die cell : Nat)
  /-- SYS (R138): Reads a system value such as the item number or swarm time into a scalar register. -/
  | sys (die cell : Nat)
  /-- LI (R138): Loads a sign-extended immediate. -/
  | li (die cell : Nat)
  /-- LIH (R138): Loads the immediate into bits [63:32] of a scalar register. -/
  | lih (die cell : Nat)
  /-- ADD (R138): Scalar addition modulo 2^64. -/
  | add (die cell : Nat)
  /-- SUB (R138): Scalar subtraction modulo 2^64. -/
  | sub (die cell : Nat)
  /-- AND (R138): Scalar bitwise AND. -/
  | andInstr (die cell : Nat)
  /-- OR (R138): Scalar bitwise OR. -/
  | orInstr (die cell : Nat)
  /-- XOR (R138): Scalar bitwise XOR. -/
  | xorInstr (die cell : Nat)
  /-- SHL (R138): Scalar shift left by s[B] modulo 64. -/
  | shl (die cell : Nat)
  /-- SHR (R138): Scalar logical shift right. -/
  | shr (die cell : Nat)
  /-- SRA (R138): Scalar arithmetic shift right. -/
  | sra (die cell : Nat)
  /-- MUL (R138): Scalar multiply, keeping the low 64 bits. -/
  | mul (die cell : Nat)
  /-- ADDI (R138): Adds an immediate to a scalar register. -/
  | addi (die cell : Nat)
  /-- LDA (R138): Loads 8 bytes from the argument buffer. -/
  | lda (die cell : Nat)
  /-- LDS (R138): Loads 8 bytes from the cell store. -/
  | lds (die cell : Nat)
  /-- STS (R138): Stores 8 bytes into the cell store. -/
  | sts (die cell : Nat)
  /-- VLD (R138): Loads 32 FP32 values into a vector register. -/
  | vld (die cell : Nat)
  /-- VST (R138): Stores 32 FP32 values from a vector register. -/
  | vst (die cell : Nat)
  /-- VLDN (R138): Loads 32 elements of a narrow format and converts them exactly to FP32. -/
  | vldn (die cell : Nat)
  /-- VSTN (R138): Converts a vector to a narrow format and stores 32 elements. -/
  | vstn (die cell : Nat)
  /-- VADD (R126): Lane-wise FP32 addition. -/
  | vadd (die cell : Nat)
  /-- VSUB (R126): Lane-wise FP32 subtraction. -/
  | vsub (die cell : Nat)
  /-- VMUL (R126): Lane-wise FP32 multiplication. -/
  | vmul (die cell : Nat)
  /-- VFMA (R126): Lane-wise FP32 fused multiply-add. -/
  | vfma (die cell : Nat)
  /-- VDIV (R146): Lane-wise correctly rounded FP32 division. -/
  | vdiv (die cell : Nat)
  /-- VSQRT (R146): Lane-wise correctly rounded FP32 square root. -/
  | vsqrt (die cell : Nat)
  /-- VMIN (R126): Lane-wise minimum, with −0 ordered below +0. -/
  | vmin (die cell : Nat)
  /-- VMAX (R126): Lane-wise maximum. -/
  | vmax (die cell : Nat)
  /-- VEXP2 (R146): Lane-wise correctly rounded 2^x. -/
  | vexp2 (die cell : Nat)
  /-- VLOG2 (R146): Lane-wise correctly rounded log2. -/
  | vlog2 (die cell : Nat)
  /-- VRCP (R146): Lane-wise correctly rounded reciprocal. -/
  | vrcp (die cell : Nat)
  /-- VRSQRT (R146): Lane-wise correctly rounded reciprocal square root. -/
  | vrsqrt (die cell : Nat)
  /-- VTANH (R146): Lane-wise correctly rounded tanh. -/
  | vtanh (die cell : Nat)
  /-- VBCAST (R138): Broadcasts the low 32 bits of a scalar register to every lane. -/
  | vbcast (die cell : Nat)
  /-- VRSUM (R147): Reduces the 32 lanes exactly under the window rule into lane 0. -/
  | vrsum (die cell : Nat)
  /-- SETNUM (R138): Sets the cell's NUMCTL. -/
  | setnum (die cell : Nat)
  /-- AMAX (R506): Raises the accumulator anchors over a k-slice. -/
  | amax (die cell : Nat)
  /-- MMA (R143): Adds the product terms of a k-slice into an accumulator tile. -/
  | mma (die cell : Nat)
  /-- ACLR (R138): Clears every entry of an accumulator tile. -/
  | aclr (die cell : Nat)
  /-- STACC (R144): Writes an accumulator tile in partial form. -/
  | stacc (die cell : Nat)
  /-- ACCADD (R144): Adds a stored partial form exactly into an accumulator tile. -/
  | accadd (die cell : Nat)
  /-- STANC (R506): Writes the 4,096 anchors of an accumulator tile. -/
  | stanc (die cell : Nat)
  /-- LDANC (R506): Loads anchors, replacing those in force or taking the maximum with them. -/
  | ldanc (die cell : Nat)
  /-- FIN (R145): Finishes each accumulator entry into the output format with scales and an optional addend. -/
  | fin (die cell : Nat)
  /-- GET (R150): Starts a copy of parcels from a swarm address into the cell store. -/
  | get (die cell : Nat)
  /-- PUT (R150): Starts a copy of parcels from the cell store to a swarm address. -/
  | put (die cell : Nat)
  /-- DMA_COMPLETE (R150): An outstanding GET or PUT completes, freeing its ranges for waiting instructions. -/
  | dmaComplete (die cell : Nat) (i : Nat)
  /-- WAITF (R149): Starts a wait on a fence, holding further issue until the wait is met. -/
  | waitf (die cell : Nat)
  /-- WAITF_RELEASE (R149): The fence reaches its target, the observed word is written, and TRAP stops the item if the fence is poisoned. -/
  | waitfRelease (die cell : Nat)
  /-- SIGF (R148): Signals a fence as a release after every earlier write of the cell. -/
  | sigf (die cell : Nat)
  /-- COLL_CLAIM (R223): CLAIM claims a free collective slot for OWNER. -/
  | collClaim (src : W32) (die k : Nat) (v : W32)
  /-- COLL_RELEASE (R223): RELEASE returns a slot to FREE. -/
  | collRelease (src : W32) (die k : Nat) (v : W32)
  /-- COLL_ARM (R225): ARM checks the slot's settings, arms it and starts the join. -/
  | collArm (src : W32) (die k : Nat) (v : W32)
  /-- COLL_ABORT (R223): ABORT fails the collective on every member with 0x5004. -/
  | collAbort (src : W32) (die k : Nat) (v : W32)
  /-- COLL_INPUT_WRITE (R222): A whole-parcel write of a contribution into the slot's input window. -/
  | collInputWrite (src : W32) (die k : Nat) (off : Nat) (data : Bytes)
  /-- COLL_JOIN (R225): A join from a tree partner arrives and is matched, held or failed. -/
  | collJoin (die k : Nat) (j : CollJoin)
  /-- COLL_ABSORB (R226): A position absorbs its partner's contribution by the operation's combination. -/
  | collAbsorb (die k : Nat) (data : Bytes)
  /-- COLL_RESULT (R227): A member writes the result and signals its fence, and the slot becomes DONE. -/
  | collResult (die k : Nat) (reached : Bool) (data : Bytes)
  /-- ERR_RSP (R189): A requester receives an error response and acts on it according to RETRY. -/
  | errRsp (die router : Nat) (h : PacketHeader)
  /-- RETRY_TIMER (R189): 4,096 cycles after a RETRY 1 response, the unit sends the same request again. -/
  | retryTimer (die cell : Nat) (i : Nat)
  /-- LIVELOCK_RESCUE (R187): After 256 lost arbitrations at AGE 255, the header is granted ahead of the other rules. -/
  | livelockRescue (die router : Nat) (age : Byte) (lost : Nat)
  /-- STALL_DETECT (R187): A header that has not advanced for 2^20 cycles sends a FAULT_NOTICE that hangs its context. -/
  | stallDetect (die router : Nat) (h : PacketHeader)
  /-- DOMAIN_CLOSED (R190): A CLOSING domain's accepted work drains and the domain becomes CLOSED. -/
  | domainClosed (d : Nat)
  /-- DOMAIN_UP (R190): A WAKING domain reports ready and becomes UP. -/
  | domainUp (d : Nat) (ready : Bool)
  /-- DOMAIN_WAKE (R344): The Keeper ungates a domain on a DOMAIN_NOTICE once its CLOSING has completed. -/
  | domainWake (d : Nat)
  /-- ROUTE_SWITCH_DRAIN_END (R198): The affected route entries drain, the staged entries take force and held packets are released. -/
  | routeSwitchDrainEnd (die : Nat)
  /-- PORT_TRAINING_STEP_TIMEOUT (R203): A training step exceeds its limit and the attempt fails. -/
  | portTrainingStepTimeout (p : Nat)
  /-- PORT_TRAINING_RETRY (R203): 100 ms after a failed attempt, training restarts at DETECT, or the port goes OFF after four attempts. -/
  | portTrainingRetry (p : Nat)
  /-- IDENT (R204): The peer's IDENT is checked and the link accepted, or the port goes OFF with IDENT_MISMATCH. -/
  | ident (p : Nat) (node : BitVec 2) (port : BitVec 3) (version : Byte) (delay : W16)
  /-- LINK_FLIT_RECEIVE (R207): A link flit is delivered or discarded, with NAK and replay handling. -/
  | linkFlitReceive (p : Nat) (flit : Bytes)
  /-- LINK_IDLE_TIMEOUT (R208): No valid flit for 1,000 ns takes the port out of UP. -/
  | linkIdleTimeout (p : Nat)
  /-- LANE_LOCK_LOSS (R208): A lane losing lock takes the port out of UP. -/
  | laneLockLoss (p : Nat) (lane : Nat)
  /-- HANDOVER (R211): A failed port hands its replayed and queued traffic to its partner port in order. -/
  | handover (p : Nat) (delivered : BitVec 12)
  /-- HANDOVER_ROUTE_SWITCH (R211): Within 1 ms the Keeper moves the route entries to the partner port, the failed port goes OFF and retraining starts. -/
  | handoverRouteSwitch (p : Nat)
  /-- NODE_LOSS (R215): Both links to a member are down, so survivors poison fences and schedule re-formation. -/
  | nodeLoss (n : Nat)
  /-- NODE_LOSS_HOLD_DOWN (R215): The 2,000 ms hold-down ends and re-formation starts. -/
  | nodeLossHoldDown
  /-- FORMATION (R213): The swarm runs the gather, choose, time, routes and announce phases. -/
  | formation (links : BitVec 6) (times : List W64)
  /-- FIRST_FORMATION_WAIT (R213): The first formation starts when every expected port is UP or 2,000 ms have passed. -/
  | firstFormationWait (links : BitVec 6) (times : List W64) (waited : Bool)
  /-- NODE_REJOIN (R217): A node gains links that enlarge the member set, and a formation includes it. -/
  | nodeRejoin (links : BitVec 6) (times : List W64)
  /-- TIME_SEND (R219): Every 8,192 ns the coordinator sends a TIME control flit to each member. -/
  | timeSend
  /-- TIME_RECEIVE (R219): A TIME flit updates the node's offset and rate trim and its LOCKED state. -/
  | timeReceive (p : Nat) (sent : W64)
  /-- REGION_PORT_REQUEST (R238): User logic presents a READ, WRITE, WRITE_PASS, SET or ADD on the region port. -/
  | regionPortRequest (k : Nat) (r : RegionRequest)
  /-- REGION_PORT_RESPONSE (R238): The response to a region-port request is returned to user logic. -/
  | regionPortResponse (k : Nat) (tag : BitVec 6)
  /-- TGT_REQUEST (R240): A network request into a region window is presented to user logic on TGT. -/
  | tgtRequest (k : Nat) (h : PacketHeader) (write : Bool) (beats : BitVec 4) (data : Bytes)
  /-- TGR_ANSWER (R240): User logic answers a TGT request, and the port forwards the answer. -/
  | tgrAnswer (k : Nat) (status : W16) (data : Bytes)
  /-- TGT_TIMEOUT (R240): A TGT request unanswered for 65,536 FCLK cycles is answered with 0x5003. -/
  | tgtTimeout (k : Nat)
  /-- REGION_BIND_WRITE (R236): A write to FRAME.REGk.BIND rebinds the region's ports for later requests. -/
  | regionBindWrite (m : Nat)
  /-- TILE_PORT_ACCESS (R246): A region's tile port reads or writes a beat in the tile stores of its row. -/
  | tilePortAccess (k row : Nat) (r : RegionRequest)
  /-- INGEST_ENABLE (R254): Setting ENABLE checks the channel settings and starts the ingest channel. -/
  | ingestEnable (m : Nat)
  /-- INGEST_DISABLE (R259): Clearing ENABLE completes the open buffer with INCOMPLETE and raises its fence. -/
  | ingestDisable (m : Nat)
  /-- INGEST_RELEASED_WRITE (R255): The host returns buffers by writing RELEASED, or the write is ignored and sets BAD_RELEASE. -/
  | ingestReleasedWrite (src : W32) (c : Nat) (v : W32)
  /-- FRAME_START (R257): A CSI-2 Frame Start opens a free buffer and stamps T_FIRST, or the frame is dropped. -/
  | frameStart (c : Nat) (vc : BitVec 4) (frameNo : W16) (corrected : Bool)
  /-- LONG_PACKET (R257): A CSI-2 long packet is written as a line of the open buffer. -/
  | longPacket (c : Nat) (p : CameraPacket)
  /-- FRAME_END (R257): A CSI-2 Frame End completes the buffer, writes its header and raises the fence. -/
  | frameEnd (c : Nat) (p : CameraEnd)
  /-- ETHERNET_FRAME_RECEIVE (R258): A received Ethernet frame is written as a record into the open buffer. -/
  | ethernetFrameReceive (c : Nat) (frame : Bytes) (fcsOk : Bool)
  /-- INGEST_FLUSH_TIMER (R258): FLUSH × 1,024 ns after its first record, an Ethernet buffer completes. -/
  | ingestFlushTimer (c : Nat)
  /-- SEGMENT_CHECKED (R268): A fetched segment checks and its frames are committed, or the load fails. -/
  | segmentChecked
  /-- REGION_DRAIN_END (R274): A draining region's accepted requests end, or 10 ms pass, and the region becomes LOADING. -/
  | regionDrainEnd
  /-- REGION_RESET_RELEASE (R274): 1 ms after the last commit, a partially loaded region is released and becomes RUNNING. -/
  | regionResetRelease
  /-- FRAME_DONE_SAMPLE (R272): At each tick the coordinator samples FRAME_DONE and, on two high samples, sends a start time S. -/
  | frameDoneSample (x : DoneSample)
  /-- FRAME_DONE_START (R272): At swarm time S, the armed die releases reset in every HELD region and opens their ports. -/
  | frameDoneStart
  /-- START_REQUEST_TIMEOUT (R273): A start request whose die has not started within 5,000 ms ends with 0x2001. -/
  | startRequestTimeout
  /-- LPDDR_CHECK_FAIL (R283): An LPDDR fetch fails its parcel check and is read once more. -/
  | lpddrCheckFail (src : W32) (ctx : W16) (addr : BitVec 48) (secondOk : Bool)
  /-- RESIDUE_MISMATCH (R285): A residue mismatch stops the unit and faults its context with 0x5002. -/
  | residueMismatch (unitKind : Nat) (die inst : Nat) (expected found : Byte)
  /-- HANG_DETECT (R286): At each tick, a descriptor older than its patience hangs its context with 0x5003. -/
  | hangDetect
  /-- CONTEXT_RESET (R295): The recovery sequencer kills, samples, drains, clears and poisons a context, then releases it. -/
  | contextReset (c : Nat)
  /-- CONTEXT_RESET_DRAIN_TIMEOUT (R298): A reset drain on a reachable die that has not ended within 20 µs starts die recovery. -/
  | contextResetDrainTimeout (c die : Nat)
  /-- DIE_RECOVERY (R298): The Keeper resets, retrains and restores a Comb or Frame die within 1,500 ms. -/
  | dieRecovery (die : Nat) (refreshOk : Bool) (failing : List Nat)
  /-- FLASH_READ (R305): A port READ fetches 32 bytes into DATA0–DATA7. -/
  | flashRead (src : W32) (p : Nat) (ecc : Nat)
  /-- FLASH_PROGRAM (R305): A port PROGRAM writes and verifies one 32-byte unit. -/
  | flashProgram (src : W32) (p : Nat)
  /-- FLASH_ERASE (R305): A port ERASE journals START, erases and verifies a sector, then journals DONE. -/
  | flashErase (src : W32) (p : Nat)
  /-- FLASH_SUSPEND (R311): An explicit SUSPEND holds the port's erase. -/
  | flashSuspend (src : W32) (p : Nat)
  /-- FLASH_RESUME (R305): RESUME continues the port's suspended erase. -/
  | flashResume (src : W32) (p : Nat)
  /-- BLANK_CHECK (R305): Checks that every unit of a sector reads 0xFF. -/
  | blankCheck (src : W32) (p : Nat) (ecc : Nat)
  /-- FLASH_OPERATION_DONE (R305): A program or erase completes or fails verify, and RESULT and the sector state are set. -/
  | flashOperationDone (b : Nat) (ok : Bool)
  /-- FLASH_WINDOW_READ (R309): The Keeper reads a parcel through the flash read window. -/
  | flashWindowRead (addr : BitVec 24) (ecc : Nat)
  /-- FLASH_AUTO_SUSPEND (R308): A read waiting on an erase that has run 500 µs suspends it automatically. -/
  | flashAutoSuspend (b : Nat)
  /-- FLASH_AUTO_RESUME (R308): 2 µs after the last pending read, an automatically suspended erase resumes. -/
  | flashAutoResume (b : Nat)
  /-- PACKAGE_RESET (R348): Package reset is released 1 ms after PWR_GOOD rises. -/
  | packageReset (strap : BitVec 2) (recoveryLow : Bool)
  /-- BOOT_CHAIN (R324): The ROM and Keeper choose and verify a slot, then bring up the safety island, dies, LPDDR, frame and partitions. -/
  | bootChain
  /-- RECOVERY_HELLO (R342): The recovery HELLO returns the serial number, revision, counter and reason for entry. -/
  | recoveryHello (msg : Bytes)
  /-- RECOVERY_ERASE (R342): Erases slot area A and its journal entries. -/
  | recoveryErase (msg : Bytes)
  /-- RECOVERY_WRITE (R342): Programs data into slot A. -/
  | recoveryWrite (msg : Bytes)
  /-- RECOVERY_INSTALL (R342): Verifies slot A as a bundle and writes both option copies. -/
  | recoveryInstall (msg : Bytes)
  /-- RECOVERY_RESET (R342): Performs a package reset from recovery mode. -/
  | recoveryReset (msg : Bytes)
  /-- VBAT_RISE (R348): VBAT rising above 2.2 V takes the package from OFF to PARKED. -/
  | vbatRise
  /-- WAKE_SOURCE (R352): An armed wake source latches its cause and starts the package from PARKED or STANDBY. -/
  | wakeSource (cause : Nat) (unit : Nat)
  /-- PWR_EN_LOWER (R350): 10 ms after PARKED entry's CMD_DONE, PWR_EN falls and every rail except VBAT is removed. -/
  | pwrEnLower
  /-- PARTITION_HALTED (R349): A partition writes 1 to its HALTED bit for STANDBY entry. -/
  | partitionHalted (src : W32) (n : Nat) (v : W32)
  /-- PARTITION_HALT_TIMEOUT (R349): A partition that has not halted within 1,000 ms is held in reset. -/
  | partitionHaltTimeout (n : Nat)
  /-- SUPPLY_STATE_CHANGE (R358): SUPPLY_SENSE crosses a threshold for its time, and the supply state changes with its actions. -/
  | supplyStateChange (volts : Nat)
  /-- BROWNOUT_RESET (R358): PWR_GOOD low for 10 µs resets every domain except 56 and latches BROWNOUT. -/
  | brownoutReset
  /-- THROTTLE_TICK (R360): At each tick the Keeper raises or lowers each die's throttle level. -/
  | throttleTick (temps : List W16) (watts : Nat)
  /-- THERMAL_HOLD (R361): At 128 °C a die is held at level 8 by hardware until it cools below 125 °C. -/
  | thermalHold (die : Nat) (temp : W16)
  /-- THERMAL_TRIP (R361): At 135 °C the package resets every domain except 56 and latches THERMAL_TRIP. -/
  | thermalTrip (die : Nat) (temp : W16)
  /-- PME_TURN_OFF (R362): The host's PME_Turn_Off is acknowledged ahead of D3cold. -/
  | pmeTurnOff
  /-- PERST_ASSERT (R362): PERST# asserted completes D3cold entry, and domain 61 is gated. -/
  | perstAssert
  /-- PERST_DEASSERT (R363): PERST# deasserted starts the host exit, and WAKE# is withdrawn within 100 µs. -/
  | perstDeassert
  /-- WAKE_ASSERT (R363): A held device wake asserts WAKE# no sooner than 1 ms after PERST#. -/
  | wakeAssert
  /-- ISLAND_START (R366): The safety island checks its parameter set, runs start diagnostics and enters its initial states. -/
  | islandStart (badPairs : Byte)
  /-- HARDWARE_SAFE_STATE (R365): A lockstep, clock, ECC or parameter fault de-energises every pair and resets the island. -/
  | hardwareSafeState (reason : Nat)
  /-- WINDOW_WATCHDOG_EXPIRY (R365): The island's window watchdog expires and forces the hardware safe state. -/
  | windowWatchdogExpiry
  /-- CLOCK_SUPERVISOR_CHECK (R364): Every 1 ms the island compares its oscillator with REF_IN and the 32.768 kHz clock. -/
  | clockSupervisorCheck (refPpm xtalPpm : Int)
  /-- PARAMETER_CRC_CHECK (R367): Every 1,000 ms the parameter-set CRC is checked. -/
  | parameterCrcCheck
  /-- IO_CYCLE (R372): Every 2 ms the island filters inputs, evaluates functions, handles resets and drives the output pairs. -/
  | ioCycle (highOn lowOn : Byte)
  /-- TEST_PULSE (R373): A test pulse samples its inputs and finds cross-connections. -/
  | testPulse (tp : Nat) (raw : W16)
  /-- OUTPUT_DARK_TEST (R375): Every 1,000 ms each switch of an energised pair is turned off for 0.5 ms and read back. -/
  | outputDarkTest (p : Nat) (low : Bool) (readOn : Bool)
  /-- STOP_MONITOR (R381): Every 10 ms a stopping MODE 1 function compares the speed with its envelope. -/
  | stopMonitor (f : Nat)
  /-- BLACK_CHANNEL_FRAME (R388): A received safety frame is accepted, delivered, compared or discarded. -/
  | blackChannelFrame (net : Nat) (ident : W32) (frame : Bytes)
  /-- INBOX_SUBMIT (R395): A write to offset 44 of an inbox slot submits its 48 bytes as a frame. -/
  | inboxSubmit (src : W32) (n : Nat) (v : W32)
  /-- CONNECTION_SEND (R391): Every PERIOD ms the island sends a connection's frame on both networks. -/
  | connectionSend (c : Nat)
  /-- COMPARISON_WINDOW (R392): A comparison window closes without the other copy, which is counted in MISSED. -/
  | comparisonWindow (c : Nat)
  /-- CONNECTION_LOST (R389): No new frame for DEADLINE ms makes the connection LOST. -/
  | connectionLost (c : Nat)
  /-- CONNECTION_DEGRADED (R393): A network without completed comparisons for LOSS_TIME makes the connection DEGRADED. -/
  | connectionDegraded (c : Nat) (netB : Bool)
  /-- DEGRADED_LIMIT (R393): A connection DEGRADED for DEGRADED_LIMIT s demands. -/
  | degradedLimit (c : Nat)
  /-- INTERVAL_END (R409): At a measurement interval end, quantities are computed and whole mWh handed to billing. -/
  | intervalEnd (l : Nat) (x : IntervalCodes)
  /-- FREQUENCY_WINDOW (R408): Each 10 s window reports the measured frequency. -/
  | frequencyWindow (l : Nat) (cycles : Nat) (micros : Nat) (lost : Bool)
  /-- PQ_EVENT (R411): A sag, swell or interruption ends and its record is sent and kept. -/
  | pqEvent (l : Nat) (rms : List Nat)
  /-- CAL_APPLIED (R415): At the interval boundary the metrology core applies a calibration set and logs it. -/
  | calApplied (l : Nat)
  /-- CAL_EN_CHANGE (R420): A CAL_EN level held for 50 ms opens or closes the seal. -/
  | calEnChange (l : Nat) (high : Bool)
  /-- CHECKSUM_CHECK (R421): At start and every 24 h the metrology image digest is checked against its reference. -/
  | checksumCheck (l : Nat)
  /-- FIREWALL_HIT (R418): An interface-core write to metrology resources is refused and counted. -/
  | firewallHit (l : Nat)
  /-- POWER_FAIL (R423): VMAIN below threshold ends the interval and saves residues and registers. -/
  | powerFail (l : Nat) (x : IntervalCodes)
  /-- ENERGY_SNAPSHOT (R423): Every 60 s the metrology core writes an energy snapshot. -/
  | energySnapshot (l : Nat)
  /-- MET_READ (R419): Returns a group of metrology values for the last completed interval. -/
  | metRead (l : Nat)
  /-- PQ_CONFIG (R419): Sets the power-quality thresholds. -/
  | pqConfig (l : Nat)
  /-- PQ_READ (R419): Returns a power-quality record. -/
  | pqRead (l : Nat)
  /-- MET_UPDATE (R419): Writes a chunk of a new metrology image while OPEN. -/
  | metUpdate (l : Nat)
  /-- BILL_READ (R453): Returns a billing register and its rollover count. -/
  | billRead (l : Nat)
  /-- RECORD_READ (R453): Returns a 48-byte piece of a signed record. -/
  | recordRead (l : Nat)
  /-- METER_SIGN (R449): Writes a signed reading record with the nonce given. -/
  | meterSign (l : Nat)
  /-- CREDIT_ADD (R445): Checks a credit token and adds its amount. -/
  | creditAdd (l : Nat)
  /-- CREDIT_READ (R453): Returns the credit and its state. -/
  | creditRead (l : Nat)
  /-- LOG_READ (R453): Returns half of a legal log entry. -/
  | logRead (l : Nat)
  /-- TAMPER_READ (R447): Returns a tamper-log entry and the overflow count. -/
  | tamperRead (l : Nat)
  /-- LOG_ARCHIVE (R451): Empties the protected log part against a matching digest and writes ARCHIVED. -/
  | logArchive (l : Nat)
  /-- TIME_SET (R452): Sets the HM1 RTC within the limits of the seal state. -/
  | timeSet (l : Nat)
  /-- CERT_READ (R448): Returns a piece of the signing-key certificate. -/
  | certRead (l : Nat)
  /-- SESSION_CONFIG (R425): Sets the port's roles, connector and limits while IDLE. -/
  | sessionConfig (l : Nat)
  /-- AUTHORISE (R435): Authorises an outlet session by a method and binds its digest. -/
  | authorise (l : Nat)
  /-- START_INLET (R428): Switches in 1.3 kΩ to signal readiness in the inlet role. -/
  | startInlet (l : Nat)
  /-- CLOSE (R431): Runs the pre-checks and closes the contactors. -/
  | closeContactors (l : Nat) (rdcOk : Bool)
  /-- STOP (R429): Starts an orderly stop with cause 1. -/
  | stop (l : Nat)
  /-- SET_LIMIT (R426): Sets the host's current limit, which changes the offered duty. -/
  | setLimit (l : Nat)
  /-- SESSION_STATUS (R453): Returns the state of the session, pilot, contactors, insulation and credit. -/
  | sessionStatus (l : Nat)
  /-- CONTACTOR_RESET (R432): Lifts the WELDED lockout when both contactors read open. -/
  | contactorReset (l : Nat) (mirrors : BitVec 2)
  /-- PILOT_STATE (R426): A new control-pilot state is taken and moves the session. -/
  | pilotState (l : Nat) (plateau : Int) (negative : Int) (duty : Nat) (rdcOk : Bool)
  /-- PP_LOST (R427): A proximity resistance outside its bands or a band change stops the session. -/
  | ppLost (l : Nat) (ohms : Nat)
  /-- CONTACTOR_CHECK (R430): A disagreement between command and mirror contact is found and acted on. -/
  | contactorCheck (l : Nat) (mirrors : BitVec 2)
  /-- STOP_GRACE_TIMEOUT (R429): DISC_GRACE ms after an orderly stop began, the contactors open under load. -/
  | stopGraceTimeout (l : Nat)
  /-- INSULATION (R433): Each insulation reading is compared with the warning and fault levels. -/
  | insulation (l : Nat) (kohm : Nat) (checkOk : Bool)
  /-- RDC_TRIP (R434): A residual-current trip during a session causes an immediate stop. -/
  | rdcTrip (l : Nat)
  /-- TARIFF_SWITCH (R442): A tariff switch splits the interval sum between the old and new tariff registers. -/
  | tariffSwitch (l : Nat) (x : IntervalCodes)
  /-- COVER_OPEN (R446): COVER# open for 50 ms starts tamper kind 6. -/
  | coverOpen (l : Nat)
  /-- LINK_HOLD_EXPIRY (R455): A Holmi link down for LINK_HOLD ms stops the session in order with cause 9. -/
  | linkHoldExpiry (l : Nat)
  /-- HM1_WAKE (R457): In sealed standby a plug, cover, power-line or RTC event raises the Holmi-link wake. -/
  | hm1Wake (l : Nat) (reason : Byte)
  /-- HM1_MAIN_SUPPLY_TIMEOUT (R457): Without main supply within 10,000 ms, the HM1 returns to sealed standby. -/
  | hm1MainSupplyTimeout (l : Nat)
  /-- PLC_FRAME_RECEIVE (R470): A decoded power-line frame is accepted, acknowledged, delivered or relayed. -/
  | plcFrameReceive (l node : Nat) (preamble bursts : List PlcBurst)
  /-- PLC_ACCESS (R471): After 8 + B idle crossings the node starts its preamble. -/
  | plcAccess (l node : Nat) (idle : Nat)
  /-- PLC_ACK_SLOT (R472): The acknowledgement slot passes, and the frame is retried or dropped. -/
  | plcAckSlot (l node : Nat) (bursts : List PlcBurst)
  /-- PLC_HELLO (R473): Every HELLO_PERIOD seconds a node sends HELLO. -/
  | plcHello (l node : Nat)
  /-- ROUTE_REQ (R474): The coordinator floods a ROUTE_REQ at start, periodically or on discovery. -/
  | routeReq (l : Nat)
  /-- ROUTE_REQ_REBROADCAST (R474): After its wait, a pod rebroadcasts a ROUTE_REQ. -/
  | routeReqRebroadcast (l node : Nat)
  /-- ROUTE_REP (R474): 200 crossings later, a pod sends ROUTE_REP to its parent. -/
  | routeRep (l node : Nat)
  /-- ROUTE_EXPIRY (R476): A route record unrefreshed for 2 × ROUTE_PERIOD is removed. -/
  | routeExpiry (l : Nat) (pod : Nat)
  /-- ROUTE_ERR (R476): A ROUTE_ERR removes the coordinator record and schedules a flood 10 s later. -/
  | routeErr (l : Nat) (pod : Nat)
  /-- WAKE_PATTERN (R477): The wake comparators recognise the power-line wake pattern for this NET_ID. -/
  | wakePattern (l : Nat) (bits : Byte)
  /-- PLC_CONFIG (R478): Sets the power-line role, NET_ID, level and periods. -/
  | plcConfig (l : Nat)
  /-- PLC_SEND (R478): Queues a DATA frame to a pod. -/
  | plcSend (l : Nat)
  /-- PLC_ROUTE_READ (R478): Returns the coordinator's route record for a pod. -/
  | plcRouteRead (l : Nat)
  /-- PLC_STATS (R480): Returns the nine power-line counters and clears their flags. -/
  | plcStats (l : Nat)
  /-- PLC_DISCOVER (R478): Starts a route discovery. -/
  | plcDiscover (l : Nat)
  /-- HOLMI_FRAME_RECEIVE (R492): A Holmi link frame is accepted or discarded, and its channel acted on. -/
  | holmiFrameReceive (l : Nat) (atHm1 : Bool) (frame : Bytes)
  /-- HOLMI_RESEND_TIMER (R492): 1 ms without acknowledgement resends unacknowledged frames in order. -/
  | holmiResendTimer (l : Nat) (atHm1 : Bool)
  /-- HOLMI_ACK_ONLY_TIMER (R492): 1 ms without other traffic sends an ACK_ONLY frame. -/
  | holmiAckOnlyTimer (l : Nat) (atHm1 : Bool)
  /-- HOLMI_LINK_DOWN (R492): No frame accepted for 10 ms takes the Holmi link down. -/
  | holmiLinkDown (l : Nat) (atHm1 : Bool)
  /-- HOLMI_REPLY_TIMEOUT (R493): No reply within 1.8 ms answers the message with 0x5009. -/
  | holmiReplyTimeout (l : Nat)
  /-- HLINK_WAKE (R490): HLl_WAKE# low for 100 µs latches the Holmi wake. -/
  | hlinkWake (l : Nat)
  /-- RELAY_ENABLE (R494): Setting RELAY_CTRL.ENABLE checks the rings and starts relaying. -/
  | relayEnable (m : Nat)
  /-- TX_TAIL_WRITE (R494): The host publishes TX relay entries, or the write is ignored with BAD_INDEX. -/
  | txTailWrite (src : W32) (l : Nat) (v : W32)
  /-- RX_HEAD_WRITE (R494): The host consumes RX relay entries, or the write is ignored with BAD_INDEX. -/
  | rxHeadWrite (src : W32) (l : Nat) (v : W32)
  /-- PATTERN_ENABLE (R500): Setting CTRL.ENABLE starts a pattern group, or is refused when the interface carries traffic. -/
  | patternEnable (m : Nat)
  /-- CHECKER_LOCK_LOSS (R499): 16 errors within 64 bits lose checker lock, counted in LOCK_LOSSES. -/
  | checkerLockLoss (die g : Nat) (before bits : List (List Bool))
  /-- VBAT_LOSS (R347): VBAT falls below 1.8 V, the package enters OFF and the key RAM and always-on registers are lost. -/
  | vbatLoss
  /-- PCIE_LINK_UP (R354): The PCIe link comes up and every PCIe-bound mailbox receives WAKE_CAUSE ahead of its queued events. -/
  | pcieLinkUp
  /-- HOST_ACCESS (R74): An application core or PCIe requester reads or writes a memory address, checked under R74–R78 with parcel checks attached or verified. -/
  | hostAccess (src : W32) (write : Bool) (addr : BitVec 48) (size : Nat) (data : Bytes)
  /-- UCIE_RETRAIN (R288): A die-link module retrains after link errors and is counted as an event of its resource. -/
  | ucieRetrain (dieA dieB modul : Nat)
  /-- LANE_LOCK (R203): Receiver detection completes and all four lanes lock during training, advancing the port toward DESKEW and IDENT. -/
  | laneLock (p : Nat) (lanes : BitVec 4)
  /-- CHECKER_LOCKED (R499): A pattern checker sees 64 consecutive error-free bits and declares LOCKED. -/
  | checkerLocked (die g : Nat) (bits : List (List Bool))
  /-- LIFETIME_RECORD (R505): Every 10 minutes the Keeper writes the lifetime record to the flash data area. -/
  | lifetimeRecord
  /-- SRAM_MARCH_TEST (R399): Every 1,000 ms the safety island march-tests one 1 KiB block of its SRAM and enters the hardware safe state on failure. -/
  | sramMarchTest (pass : Bool)
  /-- SAFE_INPUT_SAMPLE (R372): Every 1 ms the island samples every safe input and advances its filter and OSSD pulse handling. -/
  | safeInputSample (raw : W16)
  /-- THERMAL_HOLD_RELEASE (R361): A held die's sensor reads below 125 °C and hardware releases the level-8 hold. -/
  | thermalHoldRelease (die : Nat) (temp : W16)
  /-- THERMAL_TRIP_RESTART (R361): After a thermal trip, domain 56 starts the package again once every sensor reads below 110 °C. -/
  | thermalTripRestart (temps : List W16)
  /-- AC_LOCK (R406): AC lock on VA1 is gained or lost, changing interval formation and stopping or resuming power-line transmission. -/
  | acLock (l : Nat) (x : AcMeasure)
  /-- PQ_EVENT_START (R411): A half-cycle RMS crosses a sag, swell or interruption threshold and a power-quality event begins. -/
  | pqEventStart (l : Nat) (rms : List Nat)
  /-- METROLOGY_START (R423): When the HM1 main supply returns, the metrology core starts, restores the newer valid energy record and logs any ENERGY_RESTORED gap. -/
  | metrologyStart (l : Nat)
  /-- COVER_CLOSE (R446): COVER# is closed for 50 ms and tamper kind 6 ends, writing a tamper-log entry and sending TAMPER. -/
  | coverClose (l : Nat)
  /-- FUSE_WRITE (R503): The debug port instruction FUSE_WRITE programs or refuses a fuse field while ROM_PHASE is 1. -/
  | fuseWrite (field : Nat) (lock : Bool) (v : List Bool)
  /-- DEBUG_UNLOCK (R504): The debug port receives a signed challenge response that opens processor debug, counted in DEBUG_UNLOCKS. -/
  | debugUnlock (pubkey : Bytes) (signature : Bytes)
deriving DecidableEq, Repr

end Sys2Proof
end

