-- ==== Sys2Proof/Decode.lean ====
section
/-! DEFINITION. The command that a word spells. No row of spec/opcode_table.json gives bits, so no word spells one: commands
reach the part as register writes, mailbox requests, packets and pins, which the operands of `Instr` carry. -/

namespace Sys2Proof

/-- The command spelled by a word of the table's bits: none, since the table gives no row any bits. -/
def decodeTableWord (_nbits _w : Nat) : Option Instr := none

end Sys2Proof
end

