-- ==== Sys2Proof/Config.lean ====
section
/-! DEFINITION. What the manual names and leaves open: the free values, uninterpreted. Nothing in Lean can evaluate one,
so a statement holds for every value of each. -/

namespace Sys2Proof.Config

/-- The n-th free 64-bit value: a value the manual does not state (assumption log 2). -/
opaque freeWord : Nat → W64
/-- The n-th free byte. -/
opaque freeByte : Nat → Byte
/-- SHA-384 of a byte string, named by R28, R263, R321; a standard function the manual does not define. -/
opaque sha384 : Bytes → Bytes
/-- SHA-256 of a byte string, named by R415, R421, R448. -/
opaque sha256 : Bytes → Bytes
/-- ECDSA P-384 verification: public key, message, signature (R263, R320, R335). -/
opaque ecdsaVerify : Bytes → Bytes → Bytes → Bool
/-- The n-th ECDSA signature of a message by a key of the part; key 0 the alias key (R333), key 1 + l the signing
key of HM1 l (R448). -/
opaque ecdsaSign : Nat → Nat → Bytes → Bytes
/-- AES-256-GCM decryption: key, IV, additional data, ciphertext, tag; none where the tag fails (R264, R334). -/
opaque gcmOpen : Bytes → Bytes → Bytes → Bytes → Bytes → Option Bytes
/-- The reference digest that a metrology image's header carries (R419, R421), whose place in the header the manual does not give. -/
opaque metReference : Bytes → Bytes
/-- AES-CMAC under the credit key of an HM1 (R445). -/
opaque creditMac : Nat → Bytes → Bytes
/-- The alias certificate that the ROM makes over a boot's measurements (R332), of the report bytes that hold them. -/
opaque aliasCertificate : Bytes → Bytes
/-- The fixed 16-tap fractional-delay filter of R403, whose taps the manual does not give: PHASE and the samples. -/
opaque delayFilter : Int → List Int → List Int
/-- A lane result whose rounding the model's bounds do not settle (assumption log 24). -/
opaque transcendental : Nat → W32 → Bool → W32
/-- Which of two equally near paths the decoder of the power line keeps at a step and state (R468, assumption log 82). -/
opaque viterbiTie : Nat → Nat → Bool
/-- Certificates and other production data: kind and instance (R332, R448). -/
opaque productionBytes : Nat → Nat → Bytes
/-- The fixed production fields of the fuse bank and option area that the manual fills at production (R503). -/
opaque productionWord : Nat → W64

end Sys2Proof.Config
end

