-- ==== Sys2Proof/Machine/Bits.lean ====
section
/-! DEFINITION. Byte strings, bit fields, counters and check codes (R6, R59, R206, R281, R386). -/

namespace Sys2Proof.Machine

/-- Byte `i` of a string, 0 beyond its end. -/
def byteAt (l : Bytes) (i : Nat) : Byte := l.getD i 0

/-- The little-endian number in bytes `i` to `i + n − 1` (R6). -/
def leNat (l : Bytes) (i : Nat) : Nat → Nat
  | 0 => 0
  | n + 1 => (byteAt l i).toNat + 256 * leNat l (i + 1) n

/-- The 16-bit field at byte `i`. -/
def le16 (l : Bytes) (i : Nat) : W16 := BitVec.ofNat 16 (leNat l i 2)
/-- The 32-bit field at byte `i`. -/
def le32 (l : Bytes) (i : Nat) : W32 := BitVec.ofNat 32 (leNat l i 4)
/-- The 64-bit field at byte `i`. -/
def le64 (l : Bytes) (i : Nat) : W64 := BitVec.ofNat 64 (leNat l i 8)

/-- `n` bytes of a number, low byte first (R6). -/
def toLE : Nat → Nat → Bytes
  | 0, _ => []
  | n + 1, v => BitVec.ofNat 8 v :: toLE n (v / 256)

/-- The signed number in `n` bytes at byte `i`. -/
def leInt (l : Bytes) (i n : Nat) : Int :=
  let v := leNat l i n
  if v < 2 ^ (8 * n - 1) then (v : Int) else (v : Int) - 2 ^ (8 * n)

/-- `n` bytes of a signed number. -/
def intLE (n : Nat) (v : Int) : Bytes := toLE n (v % 2 ^ (8 * n)).toNat

/-- `n` bytes from byte `i`, padded with 0. -/
def slice (l : Bytes) (i n : Nat) : Bytes :=
  let t := (l.drop i).take n
  t ++ List.replicate (n - t.length) 0

/-- `n` zero bytes. -/
def zeros (n : Nat) : Bytes := List.replicate n 0

/-- All bytes of `l` from `i` to `j − 1` are 0. -/
def zeroIn (l : Bytes) (i j : Nat) : Bool := ((l.drop i).take (j - i)).all (· == 0)

/-- `l` with `x` written from byte `i` on. -/
def patch (l : Bytes) (i : Nat) (x : Bytes) : Bytes := l.take i ++ x ++ l.drop (i + x.length)

/-- Field [hi:lo] of a word as a number. -/
def field {w : Nat} (x : BitVec w) (hi lo : Nat) : Nat := (x.toNat / 2 ^ lo) % 2 ^ (hi + 1 - lo)

/-- Bit `i` of a word. -/
def bitOf {w : Nat} (x : BitVec w) (i : Nat) : Bool := x.getLsbD i

/-- 1 or 0. -/
def b2n (b : Bool) : Nat := if b then 1 else 0

/-- The word with bit `i` written. -/
def setBit {w : Nat} (x : BitVec w) (i : Nat) (b : Bool) : BitVec w :=
  if b then x ||| BitVec.ofNat w (2 ^ i) else x &&& ~~~(BitVec.ofNat w (2 ^ i))

/-- Saturating counter (R59): stops at its maximum. -/
def satAdd {w : Nat} (x : BitVec w) (n : Nat) : BitVec w :=
  if x.toNat + n < 2 ^ w then BitVec.ofNat w (x.toNat + n) else BitVec.allOnes w

/-- Whether a count arrives that a saturating counter can no longer take (R59). -/
def satLost {w : Nat} (x : BitVec w) (n : Nat) : Bool := decide (2 ^ w ≤ x.toNat + n)

/-- Saturation of a number to `w` bits. -/
def satNat (w n : Nat) : BitVec w := if n < 2 ^ w then BitVec.ofNat w n else BitVec.allOnes w

/-- One bit of a reflected 32-bit CRC. -/
def crc32Bit (poly c : W32) : W32 := if c.getLsbD 0 then (c >>> 1) ^^^ poly else c >>> 1

/-- One byte of a reflected 32-bit CRC. -/
def crc32Byte (poly c : W32) (b : Byte) : W32 :=
  let f := crc32Bit poly
  f (f (f (f (f (f (f (f (c ^^^ b.zeroExtend 32))))))))

/-- A reflected 32-bit CRC with initial value and final XOR all ones; `poly` is the reflected polynomial. -/
def crc32 (poly : W32) (l : Bytes) : W32 := (l.foldl (crc32Byte poly) 0xFFFFFFFF) ^^^ 0xFFFFFFFF

/-- CRC-32C (R281): polynomial 0x1EDC_6F41, reflected. -/
def crc32c (l : Bytes) : W32 := crc32 0x82F63B78 l

/-- The black-channel check (R386): polynomial 0x741B_8CD7, reflected. -/
def crcBlack (l : Bytes) : W32 := crc32 0xEB31D82E l

/-- One bit of the CRC-64 of R206, most significant bit first. -/
def crc64Bit (c : W64) : W64 := if c.getMsbD 0 then (c <<< 1) ^^^ 0x42F0E1EBA9EA3693 else c <<< 1

/-- One byte of the CRC-64. -/
def crc64Byte (c : W64) (b : Byte) : W64 :=
  let f := crc64Bit
  f (f (f (f (f (f (f (f (c ^^^ (b.zeroExtend 64 <<< 56)))))))))

/-- The CRC-64 of R206: initial value all ones (assumption log 5 on bit order and final XOR). -/
def crc64 (l : Bytes) : W64 := l.foldl crc64Byte (BitVec.allOnes 64)

/-- The largest number whose square is at most `n`, found by halving from `hi`. -/
def isqrtGo (n : Nat) : Nat → Nat → Nat → Nat
  | 0, lo, _ => lo
  | k + 1, lo, hi =>
    let mid := (lo + hi) / 2
    if mid * mid ≤ n then isqrtGo n k mid hi else isqrtGo n k lo mid

/-- Integer square root. -/
def isqrt (n : Nat) : Nat := isqrtGo n (Nat.log2 n + 2) 0 (2 ^ (Nat.log2 n / 2 + 1))

/-- Consecutive numbers from `a`, `n` of them. -/
def upFrom (a : Nat) : Nat → List Nat
  | 0 => []
  | n + 1 => a :: upFrom (a + 1) n

end Sys2Proof.Machine
end

