-- ==== Sys2Proof/Machine/Tbl.lean ====
section
/-! DEFINITION. Tables: large numbered arrays (registers, memory, objects) as sorted lists that hold only what differs
from a default, so that equal tables are equal data. -/

namespace Sys2Proof.Machine

/-- A table from numbers to values: keys strictly rising, no entry equal to the table's default. -/
abbrev Tbl (α : Type) := List (Nat × α)

/-- What key `k` holds, where an unlisted key holds `d`. -/
def Tbl.get {α : Type} (d : α) : Tbl α → Nat → α
  | [], _ => d
  | (j, x) :: t, k => if j = k then x else Tbl.get d t k

/-- The table with key `k` removed. -/
def Tbl.del {α : Type} : Tbl α → Nat → Tbl α
  | [], _ => []
  | (j, x) :: t, k => if j = k then Tbl.del t k else (j, x) :: Tbl.del t k

/-- The table with `k` listed as holding `v`. -/
def Tbl.put {α : Type} : Tbl α → Nat → α → Tbl α
  | [], k, v => [(k, v)]
  | (j, x) :: t, k, v =>
    if j = k then (k, v) :: t else if k < j then (k, v) :: (j, x) :: t else (j, x) :: Tbl.put t k v

/-- The table with `v` written at `k`; writing the default removes the entry. -/
def Tbl.set {α : Type} [DecidableEq α] (d : α) (t : Tbl α) (k : Nat) (v : α) : Tbl α :=
  if v = d then Tbl.del t k else Tbl.put t k v

/-- The table with `f` applied at `k`. -/
def Tbl.modify {α : Type} [DecidableEq α] (d : α) (t : Tbl α) (k : Nat) (f : α → α) : Tbl α :=
  Tbl.set d t k (f (Tbl.get d t k))

/-- Every key is above `lo`, keys rise strictly, and no entry is the default. -/
def Tbl.above {α : Type} [DecidableEq α] (d : α) : Option Nat → Tbl α → Bool
  | _, [] => true
  | none, (k, x) :: t => decide (x ≠ d) && Tbl.above d (some k) t
  | some lo, (k, x) :: t => decide (lo < k) && decide (x ≠ d) && Tbl.above d (some k) t

/-- The canonical form: keys strictly rising and no entry equal to the default. -/
def Tbl.wf {α : Type} [DecidableEq α] (d : α) (t : Tbl α) : Bool := Tbl.above d none t

/-- The first key from `k` on, among `n`, whose value satisfies `p`. -/
def Tbl.findFrom {α : Type} (d : α) (t : Tbl α) (p : α → Bool) (k : Nat) : Nat → Option Nat
  | 0 => none
  | n + 1 => if p (Tbl.get d t k) then some k else Tbl.findFrom d t p (k + 1) n

/-- The number of listed entries that satisfy `p`. -/
def Tbl.count {α : Type} (t : Tbl α) (p : Nat → α → Bool) : Nat := (t.filter (fun e => p e.1 e.2)).length

/-- The listed keys that satisfy `p`, in rising order. -/
def Tbl.keys {α : Type} (t : Tbl α) (p : Nat → α → Bool) : List Nat := (t.filter (fun e => p e.1 e.2)).map (·.1)

/-- `f` applied to every listed value (an entry that becomes the default leaves the table). -/
def Tbl.mapAll {α : Type} [DecidableEq α] (d : α) (f : Nat → α → α) (t : Tbl α) : Tbl α :=
  (t.map (fun e => (e.1, f e.1 e.2))).filter (fun e => decide (e.2 ≠ d))

end Sys2Proof.Machine
end

