-- ==== Sys2Proof/Machine/StateKeeper.lean ====
section
/-! DEFINITION. State of the Keeper: mailboxes, events, accepted commands, staged blocks (chapter 02). -/

namespace Sys2Proof.Machine

/-- An event waiting in a mailbox's queue (R47, R48). -/
structure Event where
  code    : W16
  payload : Bytes
deriving DecidableEq, Repr, Inhabited

/-- A command in progress, by the mailbox that sent it, its opcode and its tag (R42, R43). -/
structure CmdRef where
  m      : Nat
  opcode : W16
  tag    : Byte
deriving DecidableEq, Repr, Inhabited

/-- The outcome of an accepted command, kept for its CMD_DONE (R43, R48). -/
structure CmdResult where
  status : W16
  time   : W64
  extra  : Bytes
deriving DecidableEq, Repr, Inhabited

/-- A long-running command answered ACCEPTED and not yet reported by CMD_DONE (R43). -/
structure Accepted where
  opcode : W16
  tag    : Byte
  result : Option CmdResult
deriving DecidableEq, Repr, Inhabited

/-- One mailbox: the registers of R35, its binding (R32, R53), its event mask and queue (R46, R47), its accepted
commands (R43), and the last fault record read through it (R293). -/
structure Mbx where
  reqTail : BitVec 5 := 0
  reqHead : BitVec 5 := 0
  rspTail : BitVec 5 := 0
  rspHead : BitVec 5 := 0
  ringFault : Bool := false
  foreignOvf : Bool := false
  evtLostOvf : Bool := false
  foreignWrites : Byte := 0
  evtLost : Byte := 0
  /-- The bound requester source id (R32); none while STATUS.BOUND is 0. -/
  bound : Option W32 := none
  groups : W64 := 0
  quota : Nat := 0
  mask : W64 := 0
  /-- A doorbell has named the mailbox since the Keeper last found it without requests (R36, R39). -/
  rung : Bool := false
  events : List Event := []
  /-- Events dropped since the last EVENTS_LOST (R47). -/
  dropped : Nat := 0
  /-- Event sequence number of the next event delivered (R47). -/
  seq : Byte := 0
  accepted : List Accepted := []
  /-- Request-ring indices of requests published with a tag that was in use (R42). -/
  clash : List (BitVec 5) := []
  /-- A request taken up whose response waits for an HM1 (R493). -/
  waiting : Option CmdRef := none
  /-- MBX_REVOKE in progress: no further request is taken up (R53). -/
  revoking : Option CmdRef := none
  /-- The index after the last fault record read through the mailbox (R293). -/
  faultNext : W32 := 0
deriving DecidableEq, Repr, Inhabited

/-- One staged block (R60-R62): the copies are register images, keyed by word offset in the block. -/
structure StagedBlock where
  inForce : Tbl W32 := []
  staging : Tbl W32 := []
  gen : W16 := 0
  /-- The mailbox that holds the staging (R61). -/
  holder : Option Nat := none
  /-- The accepted COMMIT that waits for the block's safe boundary (R62). -/
  pending : Option CmdRef := none
  /-- The pending COMMIT has been applied, and its CMD_DONE has not been sent (R62). -/
  applied : Bool := false
  /-- The pending COMMIT's mailbox was revoked, so its CMD_DONE is discarded (R61). -/
  orphan : Bool := false
  /-- HM1 blocks: reason for the last refused COMMIT, REFUSAL of R414. -/
  refusal : BitVec 2 := 0
deriving DecidableEq, Repr, Inhabited

/-- What an error response is to the host (R66, R189): an access-fault exception of a core, an Unsupported Request completion on PCIe. -/
inductive HostFail where
  | accessFault | unsupportedRequest
deriving DecidableEq, Repr, Inhabited

/-- The answer of the last direct access, as its requester sees it (R66). -/
structure HostRsp where
  status : W16 := 0
  data   : Bytes := []
  /-- What the requester takes of a status other than 0 (R189). -/
  fail   : Option HostFail := none
  /-- The access has been presented on TGT and its answer has not come (R240). -/
  waiting : Bool := false
deriving DecidableEq, Repr, Inhabited

/-- The Keeper's own state. -/
structure Keeper where
  mbx : Tbl Mbx := []
  blocks : Tbl StagedBlock := []
  /-- The mailbox of 2-31 served last, and the mailboxes that the round in progress has still to come to (R39). -/
  lastServed : Nat := 1
  round : List Nat := []
  /-- High halves that reads of low halves latched (R58), by the swarm address of the low half. -/
  latches : Tbl (Option W32) := []
  /-- MSI-X entries raised so far: the function's or partition's source id and the vector (R96, R488), oldest first. -/
  irqs : List (W32 × Nat) := []
  /-- MBX_VECTOR of function f: [10:0] VECTOR, [11] ENABLE (R488). -/
  vectors : Tbl W32 := []
  /-- The answer of the last direct access. -/
  rsp : HostRsp := {}
  /-- Port writes that the PCIe port holds until the earlier writes of their function are acknowledged (R181), oldest first: source, address,
  size and data. -/
  heldWrites : List (W32 × Nat × Nat × Bytes) := []
  /-- Management ticks since package reset (R7), the model's count of them. -/
  tick : Nat := 0
  /-- Sources whose LOCK_VIOLATION has been sent in this management tick (R78). -/
  reported : List W32 := []
  /-- VIOLATIONS and its flag (R79). -/
  violations : W32 := 0
  violationsOvf : Bool := false
deriving DecidableEq, Repr, Inhabited

end Sys2Proof.Machine
end

