-- ==== Sys2Proof/Machine/StateObjects.lean ====
section
/-! DEFINITION. State of the shared objects: contexts, memory objects, queues, fences, monitor slots, memory (chapter 03). -/

namespace Sys2Proof.Machine

/-- The states of a context (R70). IDLE and ACTIVE differ only in whether a queue of the context has unretired descriptors,
which the queues tell (`ctxState`); a context at rest stores `idle`. -/
inductive CtxState where
  | idle | active | resetting | destroying
deriving DecidableEq, Repr, Inhabited

/-- A fault record: the header fields of R291 and the sample of R292. -/
structure FaultRecord where
  index : W32 := 0
  code : W16 := 0
  context : W16 := 0
  kind : Byte := 0
  flags : Byte := 0
  action : Byte := 0
  source : W32 := 0
  time : W64 := 0
  address : W64 := 0
  queue : W16 := 0xFFFF
  descriptor : W32 := 0xFFFFFFFF
  resource : W32 := 0
  events : W16 := 0
  missed : W16 := 0
  expected : W64 := 0
  found : W64 := 0
  pc : W32 := 0
  item : W32 := 0
  numctl : W16 := 0
  sampleBad : W16 := 0
  sregs : List W64 := []
  sample : Bytes := []
  /-- A mailbox has read the record (for LOST of R293). -/
  read : Bool := false
deriving DecidableEq, Repr, Inhabited

/-- One context of this node (R69, R70). -/
structure Ctx where
  live : Bool := false
  state : CtxState := .idle
  /-- The creating mailbox, by node and number (R70). -/
  node : Nat := 0
  mailbox : Nat := 0
  priority : BitVec 2 := 0
  patience : W16 := 0
  vf : Nat := 0
  /-- While RESETTING: the record of the fault that started the reset (R295). -/
  fault : Option FaultRecord := none
  /-- The resource counted for it (R288), when there is one. -/
  counted : Option W32 := none
  /-- Commands that the reset or the destroy ends (R43, R45). -/
  done : List CmdRef := []
deriving DecidableEq, Repr, Inhabited

/-- One memory-object table entry (R73), with the fence's full last normal value (R89) and a job image's hash (R28). -/
structure MotEntry where
  base : Nat := 0
  gen : W16 := 1
  size : Nat := 0
  perm : BitVec 4 := 0
  kind : Nat := 0
  lock : BitVec 4 := 0
  owner : W16 := 0
  creator : Byte := 0
  place : Nat := 0
  refs : W32 := 0
  shadow : Nat := 0
  /-- Nodes whose contexts have signalled the fence since its creation or last recycle (R300). -/
  signalled : BitVec 4 := 0
  imageBytes : Nat := 0
deriving DecidableEq, Repr, Inhabited

/-- Where a signal comes from (R90): it decides what a rejection does (R91). `region` is the request of a region port with its tag, `unit` a
collective slot, an ingest channel or a relay; `remote` is a requester of another node. -/
inductive Origin where
  | port (src : W32)
  | descriptor (q : Nat) (d : W32)
  | completion (q : Nat)
  | cell (die cell : Nat)
  | region (k : Nat) (tag : BitVec 6)
  | unit
  | remote (src : W32)
deriving DecidableEq, Repr, Inhabited

/-- A signal on its way to the fence unit (R90, R91). -/
structure Signal where
  fence : Nat
  add : Bool
  value : W64
  origin : Origin
  /-- Swarm context id of the work that signals; of no use for a port. -/
  ctx : W16 := 0
deriving DecidableEq, Repr, Inhabited

/-- The progress of an access to a region window (R240), whose parcels are presented on TGT one after another: whether one is presented, the
bytes done and read so far, and the code that user logic or the timeout has answered. -/
structure WindowJob where
  asked : Bool := false
  done : Nat := 0
  got : Bytes := []
  code : W16 := 0
deriving DecidableEq, Repr, Inhabited

/-- A descriptor that has started and not yet retired (R81, R85). -/
structure Desc where
  num : W32
  /-- Its 64 bytes as the queue read them (Ordering 4 of R98). -/
  bytes : Bytes
  /-- The parameter block of a SELECT or TILE descriptor, read at its start (R157, R251). -/
  params : Bytes := []
  /-- Management tick of its start (R286). -/
  started : Nat
  /-- Its work and its report word are done (R135). -/
  finished : Bool := false
  /-- The units it runs on, by their number on this node: cells 32 × die + cell, engines 8 × die + engine, tiles (R134,
  R154, R247). -/
  units : List Nat := []
  /-- It has failed after its start with this code (R149), so it does not retire (R83). -/
  failed : Option W16 := none
  /-- A COPY from or to a region window: its reads and its writes so far (R240). -/
  winRead : WindowJob := {}
  winWrite : WindowJob := {}
deriving DecidableEq, Repr, Inhabited

/-- The states of a queue (R86). -/
inductive QueueState where
  | ready | hold | halted | draining
deriving DecidableEq, Repr, Inhabited

/-- One queue (R80-R88). -/
structure Queue where
  live : Bool := false
  ctx : W16 := 0
  /-- The mailbox that created it (R84). -/
  creator : Nat := 0
  target : Nat := 0
  log2 : Nat := 0
  ring : W32 := 0
  fence : W32 := 0
  unitMask : W64 := 0
  state : QueueState := .ready
  submitted : W32 := 0
  retired : W32 := 0
  /-- Descriptors started so far, which is also the number of the next to start. -/
  startedCount : W32 := 0
  /-- The completion fence is raised to this value plus the number retired since (R85, R297). -/
  fenceBase : Nat := 0
  retiredBase : W32 := 0
  /-- S when the reset of its context began (R297). -/
  holdMark : W32 := 0
  /-- The completion fence was poisoned by a context reset and has not been recycled, so nothing starts (R297). -/
  blocked : Bool := false
  /-- No further descriptor starts: HALTED (R83), or a destroy that discards what has not started (R88). -/
  stopped : Bool := false
  dropped : W16 := 0
  droppedOvf : Bool := false
  inflight : List Desc := []
  /-- QUEUE_DESTROY in progress: its command and whether the completion fence is poisoned with 0x2008 at its end (R88). -/
  destroy : Option (CmdRef × Bool) := none
deriving DecidableEq, Repr, Inhabited

/-- The states of a monitor slot (R94). -/
inductive SlotState where
  | idle | armed | fired | firedError
deriving DecidableEq, Repr, Inhabited

/-- One fence-monitor slot (R94), with the context it is given to and the last word it observed (R96). -/
structure Slot where
  ctx : Option W16 := none
  watch : BitVec 48 := 0
  target : BitVec 63 := 0
  notify : BitVec 48 := 0
  vector : W16 := 0xFFFF
  plain : Bool := false
  state : SlotState := .idle
  seen : W64 := 0
deriving DecidableEq, Repr, Inhabited

/-- The shared objects of this node. -/
structure Objects where
  ctxs : Tbl Ctx := []
  mot : Tbl MotEntry := []
  /-- The fence words (R67, R89), by table index. -/
  fences : Tbl W64 := []
  queues : Tbl Queue := []
  slots : Tbl Slot := []
  /-- Signals that have arrived and are not yet applied, oldest first (R91). -/
  signals : List Signal := []
deriving DecidableEq, Repr, Inhabited

/-- The memories of the package by swarm address, and the parcels whose stored check does not match their bytes
(R64, R281, R283). -/
structure Memory where
  bytes : Tbl Byte := []
  bad : Tbl Bool := []
deriving DecidableEq, Repr, Inhabited

end Sys2Proof.Machine
end

