-- ==== Sys2Proof/Machine/StateCompute.lean ====
section
/-! DEFINITION. State of the units that compute: tensor cells (chapter 05), select engines (chapter 06), matrix tiles
(chapter 09) and collective slots (chapter 08). -/

namespace Sys2Proof.Machine

/-- The states of a cell, in the code order of R152 (7 is not used). -/
inductive CellState where
  | idle | running | waiting | stalled | faulted | gated | resetting
deriving DecidableEq, Repr, Inhabited

/-- The mode of an accumulator entry (R143): none, direct in a group (1 FP16, 2 8-bit float, 3 INT), or anchored, with
its anchor where it has one. -/
inductive AccMode where
  | none
  | direct (group : Nat)
  | anchored (e : Option Int)
deriving DecidableEq, Repr, Inhabited

/-- One accumulator entry: the contents of the partial form of R144, and whether an MMA has added a term to it (R506). -/
structure AccEntry where
  mode : AccMode := .none
  value : BitVec 192 := 0
  /-- 0 finite, 1 +infinity, 2 −infinity, 3 NaN. -/
  cls : BitVec 2 := 0
  allNegZero : Bool := true
  invalid : Bool := false
  truncated : Bool := false
  posInf : Bool := false
  negInf : Bool := false
  touched : Bool := false
deriving DecidableEq, Repr, Inhabited

/-- What a cell runs: the descriptor, its items and the program (R131-R134). -/
structure CellJob where
  queue : Nat
  desc : W32
  ctx : W16
  /-- Swarm address of the first instruction word, and the number of words. -/
  code : Nat
  words : Nat
  entry : Nat
  items : Nat
  /-- The current item, the N of R134 and this cell's position among the queue's cells. -/
  item : Nat
  n : Nat
  position : Nat
  numctl : W16
  /-- The item has stopped (R149): nothing further issues, and the GET and PUT operations already issued end. -/
  stopped : Bool := false
deriving DecidableEq, Repr, Inhabited

/-- An outstanding GET or PUT (R150). -/
structure Dma where
  isGet : Bool
  loc : Nat
  addr : Nat
  bytes : Nat
  /-- A response with RETRY 1 came back, so the request is sent again (R189). -/
  retry : Bool := false
  /-- Its progress where it names a region window (R240). -/
  win : WindowJob := {}
  /-- A 17th GET or PUT waits for this one, the oldest (R136). -/
  awaited : Bool := false
deriving DecidableEq, Repr, Inhabited

/-- A WAITF in progress (R149). -/
structure CellWait where
  addr : Nat
  target : W64
  dest : Nat
  trap : Bool
deriving DecidableEq, Repr, Inhabited

/-- One tensor cell. Its store is in memory (R64). -/
structure Cell where
  state : CellState := .idle
  invalid : Bool := false
  overflow : Bool := false
  truncated : Bool := false
  context : BitVec 10 := 0
  item : BitVec 16 := 0
  pc : BitVec 20 := 0
  /-- Issue has run past instruction 2²⁰ − 1 of an image of that length (R132, R139), where PC has no further value. -/
  past : Bool := false
  itemsDone : W32 := 0
  s : Tbl W64 := []
  /-- Lane j of register v is at 32v + j. -/
  v : Tbl W32 := []
  args : Tbl Byte := []
  numctl : W16 := 0
  /-- Entry e of tile a is at 4096a + e. -/
  acc : Tbl AccEntry := []
  job : Option CellJob := none
  dma : List Dma := []
  wait : Option CellWait := none
deriving DecidableEq, Repr, Inhabited

/-- The states of a select engine, in the code order of R171. -/
inductive SelState where
  | idle | streaming | merging | stalled | faulted | gated | resetting
deriving DecidableEq, Repr, Inhabited

/-- One select engine (R171). -/
structure SelEngine where
  state : SelState := .idle
  context : BitVec 10 := 0
  fill : BitVec 11 := 0
  keysIn : W32 := 0
  inserts : W32 := 0
  job : Option (Nat × Nat) := none
deriving DecidableEq, Repr, Inhabited

/-- The states of a matrix tile, in the code order of R253. -/
inductive TileState where
  | idle | anchoring | running | stalled | faulted | gated | resetting | finishing
deriving DecidableEq, Repr, Inhabited

/-- One matrix tile (R253). Its store is in memory (R64). -/
structure TileUnit where
  state : TileState := .idle
  invalid : Bool := false
  overflow : Bool := false
  truncated : Bool := false
  context : BitVec 10 := 0
  item : BitVec 16 := 0
  itemsDone : W32 := 0
  job : Option (Nat × Nat) := none
deriving DecidableEq, Repr, Inhabited

/-- The states of a collective slot (R223), in code order. -/
inductive CollState where
  | free | claimed | armed | done | failed
deriving DecidableEq, Repr, Inhabited

/-- One collective slot (R223): its settings registers by name, and the progress of an armed collective (R225, R226). -/
structure CollSlot where
  owner : BitVec 10 := 0
  state : CollState := .free
  op : BitVec 4 := 0
  members : W16 := 0
  root : BitVec 4 := 0
  collId : W32 := 0
  count : BitVec 24 := 0
  param : W16 := 0
  result : BitVec 48 := 0
  fence : BitVec 48 := 0
  value : BitVec 63 := 0
  missed : W16 := 0
  code : W16 := 0
  /-- The slot's input window, by byte, and the parcels written since ARM. -/
  input : Tbl Byte := []
  written : Tbl Bool := []
  /-- Arms of the slot since package reset (the join carries it, R225). -/
  arms : Nat := 0
  /-- Partners whose join has been matched, and partners absorbed so far (R226). -/
  joined : List Nat := []
  absorbed : List Nat := []
  /-- The position's running value, and the result that a root on this package has sent it (R226). -/
  value0 : Bytes := []
  arrived : Option Bytes := none
  /-- Management tick of ARM (R225, R286). -/
  armedAt : Nat := 0
deriving DecidableEq, Repr, Inhabited

/-- The units that compute. Cell c of Comb die d is at 32d + c, engine e at 8d + e, slot k at 16d + k. -/
structure Compute where
  cells : Tbl Cell := []
  engines : Tbl SelEngine := []
  tiles : Tbl TileUnit := []
  slots : Tbl CollSlot := []
  /-- Joins that name a collective no slot has armed yet, by global slot (R225). -/
  heldJoins : List (Nat × Sys2Proof.CollJoin) := []
deriving DecidableEq, Repr, Inhabited

end Sys2Proof.Machine
end

