-- ==== Sys2Proof/Machine/StateFaults.lean ====
section
/-! DEFINITION. State of the fault log, windowed counting, context reset and die recovery (chapter 11). -/

namespace Sys2Proof.Machine

/-- The states of a Comb or Frame die (R298, R289). -/
inductive DieState where
  | inService | recovering | retired
deriving DecidableEq, Repr, Inhabited

/-- A die in service or in recovery. -/
structure Die where
  state : DieState := .inService
  /-- The context that faulted first on the die (R291). -/
  firstCtx : W16 := 0
  /-- DIE_RECOVER commands that the recovery ends. -/
  cmds : List CmdRef := []
deriving DecidableEq, Repr, Inhabited

/-- The fault log, its registers, and the counting of R288 and R289. -/
structure Faults where
  /-- Records held, oldest first, at most 128. -/
  log : List FaultRecord := []
  next : W32 := 0
  lost : W16 := 0
  lostOvf : Bool := false
  ctxResets : W16 := 0
  ctxOvf : Bool := false
  dieRecoveries : Byte := 0
  dieOvf : Bool := false
  /-- Times (management ticks) of the counted events of a resource, newest first. -/
  windows : List (W32 × List Nat) := []
  /-- Resources retired (R289), kept in the flash data area. -/
  retired : List W32 := []
  dies : Tbl Die := []
deriving DecidableEq, Repr, Inhabited

end Sys2Proof.Machine
end

