-- ==== Sys2Proof/Machine/StateFrame.lean ====
section
/-! DEFINITION. State of the Frame die: regions, region ports and ingest (chapter 09), and the configuration controller
(chapter 10). -/

namespace Sys2Proof.Machine

/-- The configuration states of a region, in code order (R279). -/
inductive RegionState where
  | blank | draining | loading | held | running | failed
deriving DecidableEq, Repr, Inhabited

/-- A request of a region port that awaits its response (R238): its tag, the answer to give, whether that answer has come, and the request
where it is to be sent again (R189, R241). -/
structure PortPending where
  tag : BitVec 6
  status : W16
  data : Bytes
  checkOk : Bool
  check : W32
  ready : Bool := true
  again : Option RegionRequest := none
deriving DecidableEq, Repr, Inhabited

/-- A response as user logic sees it on RSP (R238, R239). -/
structure PortResponse where
  tag : BitVec 6
  status : W16
  data : Bytes := []
  check : W32 := 0
  checkOk : Bool := false
deriving DecidableEq, Repr, Inhabited

/-- Who waits for the answer of a TGT request (R240): a requester of the network, a core or function of this package with the bytes it asked for,
a request of a region port, a GET or PUT of a cell, or a COPY. -/
inductive TgtOwner where
  | net (h : PacketHeader)
  | host (n : Nat)
  | port (k : Nat) (tag : BitVec 6)
  | cell (die cell : Nat)
  | copy (q : Nat) (d : W32)
deriving DecidableEq, Repr, Inhabited

/-- A request presented on TGT, or answered by the timeout and still owed a late answer (R240). -/
structure TgtPending where
  src : W32
  context : W16
  write : Bool
  offset : Nat
  beats : BitVec 4
  data : Bytes
  late : Bool := false
  owner : TgtOwner := .host 0
deriving DecidableEq, Repr, Inhabited

/-- One region with its ports (R235-R243) and its configuration (R268-R279). -/
structure Region where
  bindContext : BitVec 10 := 0
  bindValid : Bool := false
  tgtTimeouts : W16 := 0
  tgtTimeoutsOvf : Bool := false
  open_ : Bool := false
  parcelsOut : W32 := 0
  outstanding : List PortPending := []
  /-- The last response returned to user logic. -/
  lastRsp : Option PortResponse := none
  tgt : List TgtPending := []
  /-- The last answer that the port gave a network requester: its source, status and data. -/
  tgtAnswer : Option (W32 × W16 × Bytes) := none
  /-- The value at which the port holds STIME while the node is not LOCKED (R242). -/
  stime : W64 := 0
  state : RegionState := .blank
  imageId : W64 := 0
deriving DecidableEq, Repr, Inhabited

/-- The buffer that a channel is filling (R255-R258). -/
structure OpenBuffer where
  index : Nat
  first : W64
  last : W64 := 0
  /-- Data bytes after the header so far, and units written. -/
  bytes : Nat := 0
  units : Nat := 0
  flags : Byte := 0
  frameNo : W16 := 0
  vc : Byte := 0
  dt : Option Byte := none
  badCount : Nat := 0
  firstBad : W32 := 0xFFFFFFFF
  eccFixed : Nat := 0
  dropped : Nat := 0
deriving DecidableEq, Repr, Inhabited

/-- One beat of ING (R261): ING_DATA with SOF, EOF, LINE_START, ABORT, ING_TIME and ING_CHECK where they are valid. -/
structure IngBeat where
  data : Bytes
  sof : Bool := false
  eof : Bool := false
  lineStart : Bool := false
  abort : Bool := false
  time : Option W64 := none
  check : Option W32 := none
deriving DecidableEq, Repr, Inhabited

/-- One ingest channel (R254-R261). -/
structure Channel where
  enable : Bool := false
  toRegion : Bool := false
  region : BitVec 3 := 0
  vc : BitVec 4 := 0
  bind : BitVec 10 := 0
  ring : W32 := 0
  bufCount : BitVec 13 := 0
  bufParcels : W16 := 0
  stride : W16 := 0
  flush : W16 := 0
  fence : BitVec 48 := 0
  filled : W32 := 0
  released : W32 := 0
  drops : W16 := 0
  dropsOvf : Bool := false
  badRelease : Bool := false
  badUnits : BitVec 14 := 0
  badUnitsOvf : Bool := false
  other : BitVec 15 := 0
  otherOvf : Bool := false
  buffer : Option OpenBuffer := none
  /-- The frame in progress is discarded (R257). -/
  discarding : Bool := false
  /-- Frames dropped since the previous header (R256). -/
  droppedSince : Nat := 0
  /-- A stream to a region is inside a frame, and the bytes it has put on ING since package reset (R261). -/
  streaming : Bool := false
  streamed : Nat := 0
  /-- The beats of the frame that the channel has streamed last, oldest first, and the bytes of the parcel that its next beats complete. -/
  beats : List IngBeat := []
  parcel : Bytes := []
deriving DecidableEq, Repr, Inhabited

/-- Where a load stands (R270, R274). -/
inductive LoadStage where
  | draining | loading | releasing
deriving DecidableEq, Repr, Inhabited

/-- A load in progress (R267-R274): its command, unless the boot chain started it; the image object's extent; the header as
copied; the key or digest of the next segment; and what has been loaded so far. -/
structure FrameLoad where
  cmd : Option CmdRef
  base : Nat
  size : Nat
  part : Bool
  hold : Bool
  header : Bytes
  key : Bytes
  regions : List Nat
  stage : LoadStage
  segment : Nat := 0
  offset : Nat := 256
  writes : Nat := 0
  /-- The entry of the two staging buffers (R76), where there was room for them, and the segment fetched ahead into the other buffer, with whether
  its parcels checked (R268). -/
  staging : Option Nat := none
  ahead : Option (Bytes × Bool) := none
deriving DecidableEq, Repr, Inhabited

/-- The configuration controller (R262-R279). -/
structure Config where
  load : Option FrameLoad := none
  /-- Configuration frames by address (region × 2^21 + index); one not listed holds 0. -/
  frames : Tbl Bytes := []
  doneLine : Bool := false
  driving : Bool := true
  mismatches : W16 := 0
  mismatchesOvf : Bool := false
  loadFails : BitVec 14 := 0
  loadFailsOvf : Bool := false
  /-- IFACE in force (R263). -/
  iface : Bytes := []
  /-- Consecutive ticks at which FRAME_DONE was high (R272). -/
  highSamples : Nat := 0
  startAt : Option W64 := none
  /-- Loads whose CMD_DONE reports S when the die starts, and the start request (R272, R273). -/
  startCmds : List CmdRef := []
  startRequest : Option CmdRef := none
  /-- The last S that this Keeper, as coordinator, has sent; and whether it has told its coordinator that an S came too late (R272). -/
  sentStart : Option W64 := none
  toldLate : Bool := false
deriving DecidableEq, Repr, Inhabited

/-- The Frame die. -/
structure Frame where
  regions : Tbl Region := []
  channels : Tbl Channel := []
  cfg : Config := {}
deriving DecidableEq, Repr, Inhabited

end Sys2Proof.Machine
end

