-- ==== Sys2Proof/Machine/StateHive.lean ====
section
/-! DEFINITION. State of the Hive die: embedded flash (chapter 12), boot, identity and update (chapter 13), power, clocks
and the always-on domain (chapter 14). -/

namespace Sys2Proof.Machine

/-- The states of RESULT.STATE of a flash port (R307), in code order. -/
inductive PortResult where
  | idle | busy | done | error
deriving DecidableEq, Repr, Inhabited

/-- One flash command port (R304-R307). -/
structure FlashPort where
  addr : BitVec 24 := 0
  info : Bool := false
  data : Tbl W32 := []
  result : PortResult := .idle
  ignored : Bool := false
  code : W16 := 0
  /-- A command that passed its checks and waits for its bank (R306): OP, and what the code of the unit will find. -/
  waiting : Option (Nat × Nat) := none
deriving DecidableEq, Repr, Inhabited

/-- BANKb.STATUS.ACTIVITY (R307), in code order. -/
inductive BankActivity where
  | idle | programming | erasing | suspended
deriving DecidableEq, Repr, Inhabited

/-- One flash bank (R307, R308). -/
structure FlashBank where
  activity : BankActivity := .idle
  port : Bool := false
  auto : Bool := false
  /-- The Keeper suspended its erase at the supply's early warning (R311). -/
  warned : Bool := false
  sector : BitVec 11 := 0
  eccCorrected : W16 := 0
  suspends : Byte := 0
  eccOvf : Bool := false
  suspOvf : Bool := false
  /-- The operation acts on the info block. -/
  info : Bool := false
  /-- The unit being programmed: byte address in the array, and its bytes. -/
  unitAddr : Nat := 0
  unitData : Bytes := []
  /-- Window reads that wait for the bank (R308), at most 16: parcel address, and what the code of the unit will find. -/
  pending : List (Nat × Nat) := []
  /-- Unit of the journal, 0-255 over info sectors 1 and 2, that the next entry takes (R312). -/
  journalPos : Nat := 0
deriving DecidableEq, Repr, Inhabited

/-- The embedded flash (R301-R316). The main array is keyed by byte address, the info block of bank b by 2^15 × b plus
offset; a byte not listed reads 0xFF. -/
structure Flash where
  main : Tbl Byte := []
  info : Tbl Byte := []
  ports : Tbl FlashPort := []
  banks : Tbl FlashBank := []
  /-- Sector states by code (R314), by global sector. -/
  sectors : Tbl (BitVec 2) := []
  erases : Tbl W32 := []
  /-- Sectors whose latest journal entry is a START (R313): an erase that has not finished. -/
  started : Tbl Bool := []
  journalSeq : W32 := 0
  romPhase : Bool := true
deriving DecidableEq, Repr, Inhabited

/-- A protection entry (R316). -/
structure Protect where
  first : Nat := 0
  count : Nat := 0
  owner : Nat := 0
  noAuto : Bool := false
deriving DecidableEq, Repr, Inhabited

/-- A partition entry of BOOT_CONFIG (R328). -/
structure PartEntry where
  cores : W16 := 0
  die : Nat := 0
  present : Bool := false
  start : Bool := false
  restart : Bool := false
  component : Nat := 0
  base : Nat := 0
  sizeMib : Nat := 0
  entry : Nat := 0
deriving DecidableEq, Repr, Inhabited

/-- The option area in force, as the loader loaded it (R317, R318, R328). The values after reset are the defaults of R318. -/
structure OptionArea where
  /-- 0, 1, or 3 for defaults. -/
  copy : BitVec 2 := 3
  valid0 : Bool := false
  valid1 : Bool := false
  sequence : W16 := 0
  ownerSource : W32 := 0
  swarmSize : Nat := 1
  activeSlot : Bool := false
  trial : Bool := false
  frameKeyDigest : Bytes := []
  firmwareKeyDigest : Bytes := []
  protect : List Protect := [{ first := 0, count := 4096, owner := 3, noAuto := false }]
  parts : List PartEntry := []
  frameComponent : Nat := 0xFF
  frameKeySource : Byte := 0
  frameHold : Bool := false
  trialAttempts : Nat := 1
  norMib : Nat := 0
  norA : Nat := 0
  norB : Nat := 0
  lpddrGib : List Nat := [0, 0, 0, 0]
  /-- The 4,096 bytes of the copy in force. -/
  raw : Bytes := []
deriving DecidableEq, Repr, Inhabited

/-- A settings record in force (R339). -/
structure Setting where
  format : Byte
  value : Bytes
  seq : W32
deriving DecidableEq, Repr, Inhabited

/-- Boot, identity and update (R320-R343). -/
structure Boot where
  step : BitVec 4 := 0
  slot : Bool := false
  trial : Bool := false
  rolledBack : Bool := false
  recovered : Bool := false
  attempt : BitVec 3 := 0
  firstCode : W16 := 0
  started : W16 := 0
  /-- The stamp register of each application core of the node, by core (R174). -/
  stamps : Tbl W32 := []
  /-- The reset vector of each application core (R324). -/
  resetVectors : Tbl (BitVec 48) := []
  failed : W16 := 0
  running : BitVec 7 := 0
  settingsReset : W16 := 0
  settingsOvf : Bool := false
  opt : OptionArea := {}
  /-- Boot-log units written: option SEQUENCE, slot, trial count (R325). -/
  bootLog : List (W16 × Bool × Nat) := []
  settings : List (Nat × Setting) := []
  settingSeq : W32 := 0
  /-- The migration record (R340): option SEQUENCE and the ids reset. -/
  migration : List Nat := []
  migrationSeq : W16 := 0
  /-- RECOVERY_REQ# was low at the release of package reset (R341), and a recovery install has completed since the last boot. -/
  strapLow : Bool := false
  installed : Bool := false
  /-- Recovery mode, with the reason of R342 (1 option, 2 slots, 3 strap). -/
  recovery : Option Nat := none
  /-- The answer to the last recovery message (R342). -/
  recoveryAnswer : Bytes := []
  /-- SHA-384 of the running manifest, the KEEPER copy and the SAFETY copy (R333). -/
  manifestDigest : Bytes := []
  keeperDigest : Bytes := []
  safetyDigest : Bytes := []
  /-- Serial NOR content by byte address. -/
  nor : Tbl Byte := []
  /-- Key RAM slots 0-7 (R265, R334). -/
  keyRam : Tbl Bytes := []
  /-- Signatures made so far. -/
  signatures : Nat := 0
deriving DecidableEq, Repr, Inhabited

/-- Package states (R347), in code order. -/
inductive PkgState where
  | off | parked | standby | ready | active
deriving DecidableEq, Repr, Inhabited

/-- Supply states (R358), in code order. -/
inductive SupplyState where
  | normal | warning | hold | overvoltage
deriving DecidableEq, Repr, Inhabited

/-- The PLLs of R355: one for the Hive, a data-plane PLL per Comb die and for the Frame die, a memory PLL per Comb die, one per
SerDes group, and the swarm-time reference of R218. The SerDes groups follow the supplies that R357 names for VDD_SER: the swarm
links of a Comb die, PCIe, Ethernet and A-PHY (assumption log 81). -/
inductive Pll where
  | hive | data (die : Nat) | memory (die : Nat) | swarmLinks (die : Nat) | pcie | ethernet | aphy | swarmTime
deriving DecidableEq, Repr, Inhabited

/-- The power manager, clocks and the always-on domain (R344-R363). -/
structure Power where
  pkg : PkgState := .standby
  supply : SupplyState := .normal
  volts : BitVec 12 := 0
  halted : W16 := 0
  tj : Tbl W16 := []
  level : Tbl (BitVec 4) := []
  thermalHold : BitVec 6 := 0
  /-- Ticks for which each die has been cool and the package under 95 % (R360). -/
  coolTicks : Tbl Nat := []
  /-- Package power of the last ten ticks (R360), newest first. -/
  watts : List Nat := []
  /-- Data-plane clock set by CLOCK_SET, in MHz, by die (R356). -/
  clock : Tbl Nat := []
  wakeEnable : W32 := 0x00000181
  wakeCause : W32 := 0
  rtc : BitVec 48 := 0
  rtcFrac : BitVec 15 := 0
  /-- Ns carried between RTC fractions. -/
  rtcResidue : Nat := 0
  alarm : BitVec 48 := 0
  vbat : Bool := true
  pwrEn : Bool := true
  /-- PARKED entry is under way and PWR_EN is still up (R350). -/
  parking : Bool := false
  /-- A package-state transition in progress (R348), with its command when one asked for it. -/
  goal : Option (Option CmdRef × PkgState) := none
  /-- DOMAIN_CTRL commands in progress, by domain; true for an ungate. -/
  domCmds : List (CmdRef × Nat × Bool) := []
  /-- Partitions that STANDBY entry still waits for (R349). -/
  halting : W16 := 0
  /-- Resume interrupts raised to partitions at the exit from STANDBY (R349). -/
  resumeIrq : W16 := 0
  /-- Package reset is held: after brownout, thermal trip, PARKED or OFF, until PACKAGE_RESET releases it (R348, R357). -/
  resetHeld : Bool := false
  /-- A thermal trip keeps the package from starting until it has cooled (R361). -/
  tripped : Bool := false
  /-- A wake source latched while PARKED entry was under way. -/
  startAfterPark : Bool := false
  /-- Domains that were up before STANDBY entry (R349). -/
  upBefore : List Nat := []
  /-- PCIe: link in L0 or L1, PME_Turn_Off acknowledged, PERST# asserted, WAKE# asserted, a wake held (R362, R363). -/
  pcieUp : Bool := false
  turnOff : Bool := false
  perst : Bool := true
  wakePin : Bool := false
  wakeHeld : Bool := false
  /-- Ports of domain 62 that are up, and an xSPI command in progress (R345). -/
  port62Up : Bool := false
  xspiBusy : Bool := false
  /-- PWR_GOOD fell (R358): the package starts again once the board supply has been above 16.5 V for 10 ms. -/
  browned : Bool := false
  /-- The ring oscillator gives 100 MHz (R355). -/
  ring : Bool := true
  /-- The PLLs that run (R355). -/
  plls : List Pll := [.hive, .pcie, .ethernet, .swarmTime]
deriving DecidableEq, Repr, Inhabited

end Sys2Proof.Machine
end

