-- ==== Sys2Proof/Machine/StateHolmi.lean ====
section
/-! DEFINITION. State of the Holmi links and of the HM1 at the far end of each (chapters 16-19): metrology, billing, the session,
the power-line nodes of its bus, and the link ends with the relay registers. -/

namespace Sys2Proof.Machine

/-! ### The link (R490-R494) -/

/-- One end of a Holmi link (R491, R492). -/
structure HolmiEnd where
  up : Bool := false
  /-- This end has accepted the other's hello, and has sent its own, since the link was last down. -/
  heard : Bool := false
  greeted : Bool := false
  txSeq : Byte := 0
  /-- SEQ expected next. -/
  rxSeq : Byte := 0
  /-- Unacknowledged frames, oldest first, at most 8. -/
  unacked : List Bytes := []
  /-- Channel and payload of what waits for the link or for room among the 8. -/
  out : List (Nat × Bytes) := []
  /-- Events dropped from a full queue while the link was down (R493). -/
  lost : Nat := 0
  /-- Frames put on the wire and not yet taken at the other end, oldest first. -/
  wire : List Bytes := []
deriving DecidableEq, Repr, Inhabited

/-- The relay registers of a link (R494). -/
structure Relay where
  context : BitVec 10 := 0
  enable : Bool := false
  count : Byte := 0
  txRing : W32 := 0
  rxRing : W32 := 0
  rxFence : BitVec 48 := 0
  txTail : W32 := 0
  txHead : W32 := 0
  rxTail : W32 := 0
  rxHead : W32 := 0
  badIndex : Bool := false
  rxDropsOvf : Bool := false
  txBadOvf : Bool := false
  rxDrops : W16 := 0
  txBad : BitVec 12 := 0
deriving DecidableEq, Repr, Inhabited

/-- Whose message the link carries: a mailbox's HM1_MSG, or a staged commit of a block number (R415, R439, R493). -/
inductive MsgUse where
  | mailbox (m : Nat)
  | commit (blk : Nat)
deriving DecidableEq, Repr, Inhabited

/-- What the package's Keeper knows of the HM1 on a link (R415, R492, R493). -/
structure HolmiSeen where
  /-- The message sent and not yet answered. -/
  msg : Option MsgUse := none
  /-- The seal state byte last reported, and the hello's firmware line, silicon revision and identity. -/
  sealByte : Byte := 0x01
  hello : Bytes := []
deriving DecidableEq, Repr, Inhabited

/-! ### Metrology (chapter 16) -/

/-- An open power-quality event (R411): its phases, start, extreme value in 0.01 V, and whether an interruption lies in it. -/
structure PqOpen where
  phases : BitVec 3
  start : Nat
  extreme : Nat
  inner : Bool := false
deriving DecidableEq, Repr, Inhabited

/-- A record kept in a ring, with whether it has been read. -/
structure Kept where
  seq : W32
  bytes : Bytes
  read : Bool := false
deriving DecidableEq, Repr, Inhabited

/-- Results of the last completed interval (R406, R407): the values of groups 0 to 2 of MET_READ as bytes. -/
structure MetResult where
  seq : W32 := 0
  /-- RTC seconds of the end. -/
  at_ : Nat := 0
  flags : W16 := 0
  phases : List Bytes := []
  totals : Bytes := []
  dc : Bytes := []
deriving DecidableEq, Repr, Inhabited

/-- A staged set that the metrology core holds until its boundary (R415, R439): generation and register values. -/
structure HeldSet where
  gen : W16
  words : List W32
  /-- The HM1's RTC when it received the set (R60). -/
  at_ : Nat := 0
  /-- An interval boundary has passed since then (R415). -/
  due : Bool := false
deriving DecidableEq, Repr, Inhabited

/-- A billing register (R437): milliwatt-hours, rollover count and its sticky flag. -/
structure BillReg where
  mwh : Nat := 0
  rolls : W16 := 0
  ovf : Bool := false
deriving DecidableEq, Repr, Inhabited

/-- What power fail and snapshots save, and a restore brings back together (R423, R438). -/
structure Energy where
  /-- Residues in product units: phases 1-3, total, DC; delivered at 2a, received at 2a + 1 (R409). -/
  residues : Tbl Nat := []
  seq : W32 := 0
  regs : Tbl BillReg := []
  /-- Credit in milli-units, the credit cost accumulator and the session cost in 10⁻⁶ milli-units (R443). -/
  credit : Int := 0
  creditCost : Nat := 0
  sessionCost : Nat := 0
  /-- Session milliwatt-hours by tariff 0-7 (R449). -/
  perTariff : Tbl Nat := []
deriving DecidableEq, Repr, Inhabited

/-- A saved energy record with its RTC time. -/
structure Saved where
  at_ : Nat
  energy : Energy
deriving DecidableEq, Repr, Inhabited

/-- A tamper kind's tracker (R446): consecutive intervals against its present state, and whether it is in force. -/
structure TamperTrack where
  run : Nat := 0
  on : Bool := false
deriving DecidableEq, Repr, Inhabited

/-- An aggregate of intervals (R408, R411): how many, the sums of the squares of Urms and Irms of phases 1 to 3, of Inrms and of the frequency
as the intervals reported them, and whether an interval of it was FLAGGED. Its values are the square roots of the means. -/
structure Aggregate where
  count : Nat := 0
  squares : List Nat := []
  flagged : Bool := false
deriving DecidableEq, Repr, Inhabited

/-- The metrology core. -/
structure Metrology where
  /-- Calibration (40 channel words, START, START_DC, BYPASS, NOMINAL) and tariff tables in force, by word offset; production or
  reset values where not listed. -/
  cal : Tbl W32 := []
  calGen : W16 := 0
  calHeld : Option HeldSet := none
  /-- A calibration set was lost with the supply since the last link-up (R415). -/
  setLost : Bool := false
  tar : Tbl W32 := []
  tarGen : W16 := 0
  tarHeld : Option HeldSet := none
  locked : Bool := false
  /-- AC lock was lost or regained in the interval in progress (R406); it was lost in the frequency window in progress (R408). -/
  lockMoved : Bool := false
  lockLost : Bool := false
  /-- An event was open in the interval in progress (FLAGGED of R411). -/
  flagged : Bool := false
  last : MetResult := {}
  freq : W32 := 0
  /-- The aggregates of R408 in progress and last completed: 150/180 cycles, and 10 minutes of the RTC. -/
  short : Aggregate := {}
  long : Aggregate := {}
  lastShort : Option Aggregate := none
  lastLong : Option Aggregate := none
  energy : Energy := {}
  /-- Power fail's record in the energy RAM, and its snapshot, until the next start; the newest snapshot of every 60 s. -/
  ram : Option Saved := none
  slot : Option Saved := none
  minute : Option Saved := none
  /-- The main supply is within its range. -/
  main : Bool := true
  udin : W32 := 23000
  sag : W16 := 900
  swell : W16 := 1100
  intr : W16 := 50
  hyst : W16 := 20
  /-- Open events of types 1, 2, 3. -/
  open_ : Tbl (Option PqOpen) := []
  pqRing : List Kept := []
  pqSeq : W32 := 0
  pqLost : W16 := 0
  pqLostOvf : Bool := false
  hits : W16 := 0
  hitsOvf : Bool := false
  sealed_ : Bool := true
  /-- The level of CAL_EN that has held for 50 ms (R420). -/
  calEn : Bool := false
  metFault : Bool := false
  legalId : Bytes := []
  /-- Bytes of the metrology image written since production, by offset in sectors 0-127. -/
  image : Tbl Byte := []
  /-- The tariff in force, 0-7 (R441). -/
  tariff : Nat := 0
  creditState : Nat := 3
  /-- Ids of the last 64 tokens accepted, newest first (R445). -/
  tokens : List Nat := []
  /-- Trackers: kind 1 by phase at 0-2, kinds 2-5 at 3-6 (R446). -/
  tampers : Tbl TamperTrack := []
  cover : Bool := false
  tamperLog : List Kept := []
  tamperSeq : W32 := 0
  tamperLost : W16 := 0
  tamperOvf : Bool := false
  records : List Kept := []
  recordSeq : W32 := 0
  /-- The legal event log (R450): the protected part with its two fillings, and the ordinary ring, oldest first. -/
  prot : List Bytes := []
  refusable : Nat := 0
  reserve : Nat := 0
  ordinary : List Bytes := []
  /-- Number of entries and signature of the last ARCHIVED (R451). -/
  archived : Option (Nat × Bytes) := none
  legalSeq : W32 := 0
  /-- RTC time of the last change applied while SEALED (R452). -/
  lastSet : Option Nat := none
  signatures : Nat := 0
deriving DecidableEq, Repr, Inhabited

/-! ### The session (R425-R436) -/

/-- Session states (R428), in code order. -/
inductive SessState where
  | idle | connected | authorised | energising | flowing | stopping | fault
deriving DecidableEq, Repr, Inhabited

/-- The charging port and its session. -/
structure Session where
  /-- SESSION_CONFIG (R425), kept in interface data. -/
  inletOk : Bool := false
  outletOk : Bool := false
  connector : Nat := 0
  freeOk : Bool := false
  ventOk : Bool := false
  maxA : W16 := 0
  tClose : W16 := 100
  tOpen : W16 := 100
  discGrace : W16 := 3000
  linkHold : W16 := 2000
  state : SessState := .idle
  outlet : Bool := false
  ident : W32 := 0
  nextId : W32 := 0
  method : Byte := 0
  digest : Bytes := []
  /-- Pilot state A to F as 0-5, none 6; the duty read or driven, in 0.1 %. -/
  pilot : Nat := 6
  duty : W16 := 0
  /-- Proximity rating in A, 0 none. -/
  rating : Nat := 0
  hostLimit : Option W16 := none
  /-- Inlet: 1.3 kΩ switched in. -/
  ready : Bool := false
  /-- Contactors commanded closed, mirrors read closed, agreement seen since the command, and checks since it. -/
  cmd : BitVec 2 := 0
  mirror : BitVec 2 := 3
  agreed : BitVec 2 := 3
  since : Nat := 0
  /-- Consecutive checks, one every ms, at which both mirrors read closed with both contactors commanded open (R432). -/
  closedFor : Nat := 0
  lockout : Bool := false
  kohm : W32 := 0
  level : Nat := 0
  measured : Bool := false
  /-- The stop in progress or last made (R429), and whether it is an immediate one. -/
  cause : Byte := 0
  immediate : Bool := false
  excess : Nat := 0
  /-- RTC seconds and register value (mWh) at CONNECTED, and whether the session's record has been written (R449). -/
  start : Nat := 0
  regStart : Nat := 0
  recorded : Bool := true
  kinds : W16 := 0
  linkLoss : Bool := false
  restored : Bool := false
  outOfClass : Bool := false
  faulted : Bool := false
deriving DecidableEq, Repr, Inhabited

/-! ### The power line (chapter 18) -/

/-- A frame that a node has to send (R471, R472): its bytes (46), attempts made, and whether it is on the line or waits for its
acknowledgement slot; `own` marks a PLC_SEND of the coordinator's host. -/
structure PlcTx where
  bytes : Bytes
  attempts : Nat := 0
  sent : Bool := false
  own : Bool := false
deriving DecidableEq, Repr, Inhabited

/-- What a node knows of a neighbour (R473): the last hello counter and the last 16, newest at bit 0. -/
structure PlcNeighbour where
  last : Option W16 := none
  got : W16 := 0
deriving DecidableEq, Repr, Inhabited

/-- A route record (R474): next hop, hops, cost and age in ticks. -/
structure PlcRoute where
  next : Nat
  hops : Nat
  cost : Nat
  age : Nat := 0
deriving DecidableEq, Repr, Inhabited

/-- One node of the bus: 0 the coordinator, the HM1 itself; 1-31 the pods. -/
structure PlcNode where
  seq : Byte := 0
  hello : W16 := 0
  queue : List PlcTx := []
  neighbours : Tbl PlcNeighbour := []
  routes : Tbl (Option PlcRoute) := []
  /-- SEQ of the last 8 DATA frames by source, newest first (R470). -/
  seen : Tbl (List Byte) := []
  /-- The discovery in hand (R474): its id, candidates as (cost, hops, address) best first, rebroadcasts made, the frame of one
  that is due, and whether a ROUTE_REP is due. -/
  disc : Option W16 := none
  candidates : List (Nat × Nat × Nat) := []
  rebroadcasts : Nat := 0
  due : Option Bytes := none
  repDue : Bool := false
  /-- The payload last delivered to the node's host (pods). -/
  delivered : Bytes := []
  /-- An acknowledgement has been sent for the last frame accepted. -/
  acked : Bool := false
  /-- In-band envelopes of the last 16 bursts received, newest first (R464). -/
  levels : List Nat := []
  /-- The bursts of the last frame or acknowledgement sent, four sub-symbols each, true where the carrier is reversed (R463). -/
  air : List (List Bool) := []
  /-- Counters in the order of R480, and their sticky flags. -/
  counters : Tbl W32 := []
  ovf : W16 := 0
deriving DecidableEq, Repr, Inhabited

/-- The power-line link of an HM1. -/
structure Plc where
  on : Bool := false
  netId : Byte := 0
  level : Byte := 0
  helloPeriod : W16 := 0
  routePeriod : Nat := 0
  nodes : Tbl PlcNode := []
  discovery : W16 := 0
  /-- A flood that ROUTE_ERR has scheduled (R476). -/
  floodDue : Bool := false
deriving DecidableEq, Repr, Inhabited

/-- One HM1. -/
structure Hm1 where
  /-- RTC since 2000-01-01 in units of 1/32,768,000 s. -/
  rtc : Nat := 0
  met : Metrology := {}
  ses : Session := {}
  plc : Plc := {}
  /-- The HM1_MSG message accepted and not yet answered. -/
  inbox : Option Bytes := none
  /-- Sealed standby (R424), the wake raised and its reason (R457). -/
  waking : Bool := false
deriving DecidableEq, Repr, Inhabited

/-- The HM1s and their links. -/
structure Holmi where
  pkg : Tbl HolmiEnd := []
  far : Tbl HolmiEnd := []
  relays : Tbl Relay := []
  seen : Tbl HolmiSeen := []
  hm1 : Tbl Hm1 := []
deriving DecidableEq, Repr, Inhabited

end Sys2Proof.Machine
end

