-- ==== Sys2Proof/Machine/StateIsland.lean ====
section
/-! DEFINITION. State of the safety island (chapter 15). -/

namespace Sys2Proof.Machine

/-- A safe-input record (R368). -/
structure InputParam where
  tp : Nat := 0xFF
  filter : Nat := 1
  ossd : Bool := false
deriving DecidableEq, Repr, Inhabited

/-- A function record (R369); `typ` 0 unused, 1 stop, 2 ESTOP, 3 GUARD, 4 TWO_HAND, 5 LIGHT_CURTAIN. -/
structure FuncParam where
  typ : Nat := 0
  flags : Byte := 0
  mode : Nat := 0
  /-- Bytes 3-6: TORQUE_OUT, STOPREQ_OUT, SPEED_CONN, RESET_IN, or IN_A to IN_D. -/
  b3 : Nat := 0
  b4 : Nat := 0
  b5 : Nat := 0
  b6 : Nat := 0
  funcDemand : W32 := 0
  connDemand : W32 := 0
  /-- DECEL or DISC; T_DELAY or SYNC; V_TOL; V_STILL; T_STILL; T_MAX. -/
  w16 : Nat := 0
  w18 : Nat := 0
  vTol : Nat := 0
  vStill : Nat := 0
  tStill : Nat := 0
  tMax : Nat := 0
deriving DecidableEq, Repr, Inhabited

/-- A connection record (R370); `dir` 0 unused, 1 receive, 2 send. -/
structure ConnParam where
  dir : Nat := 0
  kind : Nat := 0
  netA : Nat := 0
  netB : Nat := 0
  connId : W32 := 0
  addrA : W32 := 0
  addrB : W32 := 0
  period : Nat := 0
  deadline : Nat := 0
  window : Nat := 0
  lossTime : Nat := 0
  degradedLimit : Nat := 0
  resetAllowed : Bool := false
  source : W32 := 0
deriving DecidableEq, Repr, Inhabited

/-- A parameter set that passed R371. -/
structure ParamSet where
  paramId : W32 := 0
  inputs : List InputParam := []
  funcs : List FuncParam := []
  conns : List ConnParam := []
deriving DecidableEq, Repr, Inhabited

/-- The states of a safety function, in the code order of R396. -/
inductive FuncState where
  | unused | startup | run | stopping | safe | fault
deriving DecidableEq, Repr, Inhabited

/-- One safety function. -/
structure SafetyFunc where
  state : FuncState := .unused
  cause : BitVec 4 := 0
  /-- STOPPING: ms since t₀, v₀, and ms since standstill began (R380, R381). -/
  elapsed : Nat := 0
  v0 : Nat := 0
  still : Option Nat := none
  /-- FAULT by discrepancy ends once both channels have demanded together (R377). -/
  bothDemanded : Bool := false
  /-- Ms for which the channels have disagreed. -/
  disagree : Nat := 0
  /-- TWO_HAND (R378): both were released; ms since the first button was actuated; illegal combination time. -/
  released : Bool := false
  since : Option Nat := none
  /-- Stop functions: the RESET_IN pulse so far in ms, and whether it is high (R383). -/
  resetHigh : Option Nat := none
  /-- Stop functions: what demanded in the last I/O cycle, an evaluation function by its number, a connection by 32 + its number (R380). -/
  demands : List Nat := []
deriving DecidableEq, Repr, Inhabited

/-- One safe input: raw level, filtered level, ms for which the raw value has differed, low time under OSSD, and a
test-pulse fault (R372, R373). -/
structure SafeInput where
  raw : Bool := false
  filtered : Bool := false
  held : Nat := 0
  low : Nat := 0
  pulseFault : Bool := false
deriving DecidableEq, Repr, Inhabited

/-- One output pair (R374, R375). -/
structure OutputPair where
  energised : Bool := false
  faulted : Bool := false
  badReads : Nat := 0
deriving DecidableEq, Repr, Inhabited

/-- One black-channel connection (R388-R394). Its published state is FAULT, LOST, DEGRADED or OK, in that order. -/
structure Conn where
  lost : Bool := false
  fault : Bool := false
  degraded : Bool := false
  /-- The network that DEGRADED runs without (false A, true B), and whether DEGRADED_LIMIT has passed. -/
  degradedB : Bool := false
  pastLimit : Bool := false
  missedA : Byte := 0
  missedB : Byte := 0
  stale : Byte := 0
  gaps : W16 := 0
  late : W16 := 0
  missedAOvf : Bool := false
  missedBOvf : Bool := false
  staleOvf : Bool := false
  gapsOvf : Bool := false
  lateOvf : Bool := false
  /-- The SEQ last delivered, none before the first frame since the island started, and that frame. -/
  lastSeq : Option W16 := none
  frame : Bytes := []
  /-- Open comparison windows, oldest first: the SEQ and the network of the copy delivered (R392). -/
  windows : List (W16 × Bool) := []
  /-- Consecutive SEQ values that compared equal (R394), and the tick of the first of an unbroken run of completed
  comparisons (R393). -/
  equalRun : Nat := 0
  equalSince : Option Nat := none
  /-- The last payload delivered: STOP and RESET, or speed and VALID (R390). -/
  stop : Bool := false
  reset : Bool := false
  speed : Int := 0
  valid : Bool := false
  /-- Send connections: the next SEQ (R391). -/
  txSeq : W16 := 0
deriving DecidableEq, Repr, Inhabited

/-- A log entry of R397. -/
structure IslandLog where
  rtc : BitVec 48
  frac : BitVec 15
  func : Byte
  cause : Byte
  source : Byte
  state : Byte
  seq : W32
deriving DecidableEq, Repr, Inhabited

/-- The safety island. -/
structure Island where
  /-- The boot chain has released the island with a verified copy (R324 step 4). -/
  released : Bool := false
  /-- Released from reset (R324 step 4, R365). -/
  up : Bool := false
  /-- Held in reset until the next package reset, after three hardware safe states in 60 s (R365). -/
  held : Bool := false
  /-- The parameter set as found in the SAFETY copy (R367), and as accepted by R371. -/
  image : Bytes := []
  params : Option ParamSet := none
  funcs : Tbl SafetyFunc := []
  inputs : Tbl SafeInput := []
  pairs : Tbl OutputPair := []
  conns : Tbl Conn := []
  inbox : Tbl W32 := []
  starts : W32 := 0
  startsOvf : Bool := false
  log : List IslandLog := []
  logSeq : W32 := 0
  /-- Entries appended to the safety-area ring (R397, R505). -/
  flashLog : List IslandLog := []
  /-- Ticks of the hardware safe states in the last 60 s. -/
  safeStates : List Nat := []
  /-- Frames that the island has put on its networks: network code and the 48 bytes, newest last. -/
  sent : List (Nat × Bytes) := []
deriving DecidableEq, Repr, Inhabited

end Sys2Proof.Machine
end

