-- ==== Sys2Proof/Machine/StateNetwork.lean ====
section
/-! DEFINITION. State of the on-package network (chapter 07), the swarm links, swarm time and formation (chapter 08). -/

namespace Sys2Proof.Machine

/-- The states of a power domain at its boundary, in the code order of R346 (R190). -/
inductive DomState where
  | up | closing | closed | waking
deriving DecidableEq, Repr, Inhabited

/-- One power domain (R190, R192, R346). -/
structure Domain where
  state : DomState := .up
  woa : Bool := false
  wakesOvf : Bool := false
  wakes : W16 := 0
  /-- A DOMAIN_NOTICE wake request has been sent and the domain is not yet UP again (R192). -/
  notice : Bool := false
  /-- The last wake failed, so later requests are answered with RETRY 0 (R192). -/
  wakeFailed : Bool := false
deriving DecidableEq, Repr, Inhabited

/-- One router's registers (R199). -/
structure Router where
  flits : W32 := 0
  stalls : W32 := 0
  rescues : BitVec 12 := 0
  stray : BitVec 12 := 0
  stallsOvf : Bool := false
  rescuesOvf : Bool := false
  strayOvf : Bool := false
deriving DecidableEq, Repr, Inhabited

/-- A packet in a buffer of the mesh, or in an injection queue (R175, R182): its header, its number of data flits, the output port that
the previous router allocated for it (LA), the cycles towards its next unit of AGE (R185), and the arbitrations lost in a row at AGE
255 (R187). -/
structure Flight where
  head : PacketHeader
  data : Nat
  la : Nat
  waited : Nat := 0
  lost : Nat := 0
deriving DecidableEq, Repr, Inhabited

/-- An output port (R182, R186): the input port that won it last, and the cycles for which the data flits of that packet follow. -/
structure OutPort where
  last : Nat := 6
  busy : Nat := 0
deriving DecidableEq, Repr, Inhabited

/-- A FENCE_SIGNAL that a port holds while the entry it needs is switched (step 1 of R198): the die, the entry, and the signal. -/
structure HeldSignal where
  die : Nat
  entry : Nat
  addr : Nat
  add : Bool
  value : W64
  origin : Origin
  ctx : W16
deriving DecidableEq, Repr, Inhabited

/-- A FAULT_NOTICE as the Keeper receives it (R176, R187, R193): die, router, port, virtual network, source id, context and code. -/
structure Notice where
  die : Nat
  router : Nat
  port : Nat
  vn : Nat
  src : W32
  context : W16
  code : W16
deriving DecidableEq, Repr, Inhabited

/-- The on-package network. Router r of die d is at 64d + r. -/
structure Network where
  doms : Tbl Domain := []
  routers : Tbl Router := []
  /-- The buffers of the input ports, oldest header first (R182): port q of router r on die d and virtual network v at
  4(8(64d + r) + q) + v. -/
  bufs : Tbl (List Flight) := []
  /-- The output ports, at 8(64d + r) + port (R186). -/
  outs : Tbl OutPort := []
  /-- VN 0 requests and MGMT_REQ for whose response their requester keeps space (R177): source id, TXID, whether on VN 3, target die. -/
  awaiting : List (W32 × W16 × Bool × Nat) := []
  /-- Signals held at ports during a route-table switch, oldest first (R198). -/
  held : List HeldSignal := []
  /-- The last FAULT_NOTICE that reached the Keeper. -/
  notice : Option Notice := none
  /-- The die whose route-table switch runs, and those that wait for it (R198); 8 + die for entries that the Keeper has staged itself. -/
  switching : Option Nat := none
  waiting : List Nat := []
  /-- Entries that the Keeper has staged itself, by die, until their switch ends (R196, R213). -/
  installs : Tbl (Tbl W32) := []
deriving DecidableEq, Repr, Inhabited

/-- The states of a swarm-link port, in the code order of R232. -/
inductive PortState where
  | off | detect | equalise | deskew | ident | delay | up | handover
deriving DecidableEq, Repr, Inhabited

/-- A DATA or CONTROL flit without its header and CRC (R206): KIND, the virtual network of its packet, and the slots in use, each of
64 bytes; of a CONTROL flit, the subtype and payload. -/
structure LinkFlit where
  kind : BitVec 2
  vn : Nat := 0
  slots : List Bytes
deriving DecidableEq, Repr, Inhabited

/-- One swarm-link port (R203-R211, R232). -/
structure SlinkPort where
  state : PortState := .off
  peerNode : BitVec 2 := 0
  peerPort : BitVec 3 := 0
  laneLock : BitVec 4 := 0
  identMismatch : Bool := false
  retired : Bool := false
  replays : W16 := 0
  trains : Byte := 0
  replaysOvf : Bool := false
  trainsOvf : Bool := false
  delayNs : W16 := 0
  flitsTx : W32 := 0
  /-- Attempts of R203 that have failed since the port was last brought up. -/
  failedAttempts : Nat := 0
  /-- A failed attempt waits 100 ms before it restarts at DETECT. -/
  retryWait : Bool := false
  /-- LINK_CONFIG or the Keeper has the port held down. -/
  configuredOff : Bool := false
  /-- The SEQ of the next DATA or CONTROL flit to send (R206). -/
  txSeq : BitVec 12 := 0
  /-- The SEQ expected next, and the flits in the replay buffer, oldest first (R207). -/
  rxSeq : BitVec 12 := 0
  replay : List LinkFlit := []
  /-- A discarded flit was answered with NAK and the expected SEQ has not arrived since. -/
  nakSent : Bool := false
  /-- NAKs sent and received in a row with no advance of ACK (R208). -/
  naksSent : Nat := 0
  naksReceived : Nat := 0
  /-- Flits since the last MARKER received (R205). -/
  sinceMarker : Nat := 0
  /-- Network flits of a packet that has not wholly arrived (R206). -/
  rxPacket : List Bytes := []
  /-- The ingress: packets that wait there for an entry that is switched (R198, R209), oldest first. -/
  ingress : List Packet := []
  /-- Flits that wait while the replay buffer is full or their credits are used, those handed over from the partner first (R207, R209,
  R211). -/
  queued : List LinkFlit := []
  /-- Credits held for the ingress of the peer, and network flits taken from the own ingress whose credits go back with the next flit, by
  virtual network (R206, R209). -/
  credits : List Nat := [96, 96, 32, 32]
  owed : List Nat := [0, 0, 0, 0]
  /-- The last flit put on the lanes, in the layout of R206. -/
  wire : Bytes := []
  /-- DELAY round trips completed in the attempt (R203). -/
  delays : Nat := 0
  /-- IDENT has failed, so the port is not retried until LINK_CONFIG brings it up (R204). -/
  noRetry : Bool := false
  /-- The LINK_CONFIG that waits for this port to come up (R231). -/
  cmd : Option CmdRef := none
  /-- Whether this port relays to its partner (step 3 of R211). -/
  relaying : Bool := false
deriving DecidableEq, Repr, Inhabited

/-- What the swarm's Keeper knows of formation, and swarm time (R212-R221). -/
structure Swarm where
  ports : Tbl SlinkPort := []
  /-- The strapped node number of this package. -/
  node : Nat := 0
  /-- Members of the swarm, one bit per node; this node is always one. -/
  members : BitVec 4 := 1
  coordinator : Nat := 0
  generation : W32 := 0
  /-- The first formation after package reset has run (R213). -/
  formed : Bool := false
  /-- A formation runs (R216). -/
  forming : Bool := false
  /-- Another formation is needed once this one ends (R216). -/
  formAgain : Bool := false
  /-- Members lost, in hold-down (R215). -/
  lost : BitVec 4 := 0
  /-- Swarm time in ns, and its register set (R218, R221). -/
  time : W64 := 0
  running : Bool := false
  offset : W16 := 0
  locked : Bool := false
  alarms : BitVec 14 := 0
  alarmsOvf : Bool := false
  inRange : Nat := 0
  outOfRange : Nat := 0
  /-- Rate trim in ppm (R219). -/
  trim : Int := 0
deriving DecidableEq, Repr, Inhabited

end Sys2Proof.Machine
end

