-- ==== Sys2Proof/Machine/StateTest.lean ====
section
/-! DEFINITION. State of test, fuses and lifetime recording (chapter 20). -/

namespace Sys2Proof.Machine

/-- The checker of one lane (R499): the last bits of its pattern, the run of bits without error, and which of the last 64 bits were wrong. -/
structure LaneCheck where
  reg : List Bool := []
  run : Nat := 0
  locked : Bool := false
  recent : List Bool := []
deriving DecidableEq, Repr, Inhabited

/-- One pattern group (R500), with its generator's register, most significant bit first, and the checkers of its lanes. -/
structure PatGroup where
  enable : Bool := false
  pattern : BitVec 3 := 0
  invert : Bool := false
  refused : Bool := false
  locked : Bool := false
  lanes : W16 := 0xFFFF
  user : W64 := 0
  errors : W32 := 0
  bits : W64 := 0
  lockLosses : W16 := 0
  errorsOvf : Bool := false
  lossesOvf : Bool := false
  gen : List Bool := []
  checks : Tbl LaneCheck := []
deriving DecidableEq, Repr, Inhabited

/-- One fuse field (R503): its blown bits, by bit of the field, and its lock. -/
structure FuseField where
  bits : Tbl Bool := []
  lock : Bool := false
deriving DecidableEq, Repr, Inhabited

/-- Thermal-cycle tracking of one die (R505), in 0.5 °C steps: the last minimum, and the maximum since it once the die
has risen 40 °C above it. -/
structure ThermalTrack where
  low : Int := 0
  high : Option Int := none
  started : Bool := false
deriving DecidableEq, Repr, Inhabited

/-- Test and lifetime. Group g of die d is at 64d + g. -/
structure Test where
  pats : Tbl PatGroup := []
  fuses : Tbl FuseField := []
  /-- Status shift of the last FUSE_WRITE: it was ignored (R503). -/
  fuseStatus : Bool := false
  /-- Lifetime counter i of byte 16 + 4i, and its sticky overflow flags OVF (R505). -/
  counters : Tbl W32 := []
  ovf : W32 := 0
  tjHigh : W16 := 0
  tjLow : W16 := 0
  track : Tbl ThermalTrack := []
  /-- Ticks towards the next minute of each minute counter. -/
  minuteTicks : Tbl Nat := []
  /-- The record as last written to the flash data area: its counters and OVF. -/
  saved : Tbl W32 := []
  savedOvf : W32 := 0
  savedHigh : W16 := 0
  savedLow : W16 := 0
  /-- Processor debug is open (R504). -/
  debugOpen : Bool := false
deriving DecidableEq, Repr, Inhabited

end Sys2Proof.Machine
end

