-- ==== Sys2Proof/Machine/State.lean ====
section
/-! DEFINITION. The state of the block: one KZ6 package and its Holmi HM1s, the reasons a step can stop, and reset. -/

namespace Sys2Proof.Machine

/-- Why the block stops. -/
inductive Fault where
  /-- The command names a unit that the part does not have (a mailbox above 31, a cell of a fifth Comb die ...). Raised by
  every meaning that takes an index; safe: the hardware has no such unit to act on. -/
  | noSuchUnit
deriving DecidableEq, Repr

/-- Why a command has no meaning. -/
inductive Refusal where
  /-- A command not modelled yet, by its mnemonic. Raised by `exec` only; safe: nothing is said of the command. -/
  | notModelled (mnemonic : String)
deriving DecidableEq, Repr

/-- The whole state: every register, buffer, counter, mode and pin of the part, the free-value counter, and the commands
that wait, first in, first out. -/
structure State where
  keeper : Keeper := {}
  obj : Objects := {}
  mem : Memory := {}
  cmp : Compute := {}
  net : Network := {}
  swarm : Swarm := {}
  frame : Frame := {}
  faults : Faults := {}
  flash : Flash := {}
  boot : Boot := {}
  power : Power := {}
  island : Island := {}
  holmi : Holmi := {}
  test : Test := {}
  /-- The model's own: free values drawn so far (assumption log 2). -/
  free : Nat := 0
  pending : List Sys2Proof.Instr := []
deriving DecidableEq, Repr

/-- Mailboxes 0 and 1 at package reset (R32, R35, R46): the Owner is the PCIe physical function of node 0, the default of R318, and
mailbox 1 is the safety island. -/
def resetMailboxes : Tbl Mbx :=
  [(0, { bound := some 116, groups := BitVec.allOnes 64, quota := 256, mask := BitVec.allOnes 64 }), (1, { bound := some 52 })]

/-- Domain `d` of the Comb and Frame dies at package reset (R345, R347): CLOSED, with wake-on-access set for cell groups, select
engines, memories and tile groups. -/
def resetDomain (d : Nat) : Domain :=
  { state := .closed, woa := (d < 48 && (d % 12 ≤ 8 || d % 12 == 10)) || d == 54 || d == 55 }

/-- The part right after package reset of a package strapped as node 0: registers at their reset values, the Hive's domains UP and
every Comb and Frame domain CLOSED, no command waiting. -/
def State.reset : State :=
  { keeper := { mbx := resetMailboxes }, net := { doms := (List.range 56).map (fun d => (d, resetDomain d)) } }

end Sys2Proof.Machine
end

