-- ==== Sys2Proof/Machine/Ops.lean ====
section
/-! DEFINITION. The shared operations: outcomes, free values, addresses and memory (R63-R67), access checks (R74-R78),
events (R46-R48), fences and signals (R89-R91), the fault log and windowed counting (R288-R293), and the start of a
context reset (R294, R295). -/

namespace Sys2Proof.Machine

/-- The outcome of every meaning: the effect when the command names units that exist, else a stop. Each command advances
the free-value counter (assumption log 2). -/
def inRange (c : Bool) (t : State) : Host.Outcome State Fault Refusal :=
  if c then .next { t with free := t.free + 1 } else .fault .noSuchUnit

/-- Free value `i` of the command in progress (assumption log 2). -/
def freeW (s : State) (i : Nat) : W64 := Sys2Proof.Config.freeWord (2 ^ 64 * s.free + i)

/-- Free byte `i` of the command in progress (assumption log 2). -/
def freeB (s : State) (i : Nat) : Byte := Sys2Proof.Config.freeByte (2 ^ 64 * s.free + i)

/-- The state with `f` applied when `c` holds. -/
def when (c : Bool) (f : State → State) (s : State) : State := if c then f s else s

/-! ### Addresses (R63, R64) -/

/-- Swarm address of a die-local address. -/
def swarmAddr (node die loc : Nat) : Nat := node * 2 ^ 46 + die * 2 ^ 43 + loc
/-- Node of a swarm address. -/
def addrNode (a : Nat) : Nat := a / 2 ^ 46 % 4
/-- Die of a swarm address. -/
def addrDie (a : Nat) : Nat := a / 2 ^ 43 % 8
/-- Die-local part of a swarm address. -/
def addrLoc (a : Nat) : Nat := a % 2 ^ 43

/-- Swarm address on this node. -/
def here (s : State) (die loc : Nat) : Nat := swarmAddr s.swarm.node die loc

/-- The ranges of R64. -/
inductive Range where
  | lpddr | cellStore (m : Nat) | tileStore | window (k : Nat) | sram | flash | regs | unpopulated
deriving DecidableEq, Repr

/-- Bytes of LPDDR5X installed on a Comb die (R65, R328). -/
def capacity (s : State) (die : Nat) : Nat := s.boot.opt.lpddrGib.getD die 0 * 2 ^ 30

/-- The range of R64 that a die-local address lies in. -/
def rangeOf (s : State) (die loc : Nat) : Range :=
  if 5 < die then .unpopulated
  else if 0x01000000000 ≤ loc ∧ loc < 0x02000000000 then .regs
  else if die < 4 then
    if loc < capacity s die ∧ loc < 0x00800000000 then .lpddr
    else if 0x00800000000 ≤ loc ∧ loc < 0x00804000000 ∧ (loc - 0x00800000000) % 0x200000 < 0x180000 then
      .cellStore ((loc - 0x00800000000) / 0x200000)
    else .unpopulated
  else if die = 4 then
    if 0x00800000000 ≤ loc ∧ loc < 0x00801800000 then .tileStore
    else if 0x00900000000 ≤ loc ∧ loc < 0x009E0000000 then .window ((loc - 0x00900000000) / 0x20000000)
    else .unpopulated
  else if 0x00800000000 ≤ loc ∧ loc < 0x00800200000 then .sram
  else if 0x00C00000000 ≤ loc ∧ loc < 0x00C01000000 then .flash
  else .unpopulated

/-- Whether a node is a member of this swarm (R66, R216). -/
def nodePresent (s : State) (n : Nat) : Bool := n == s.swarm.node || bitOf s.swarm.members n

/-- Die-local start of the fence area of the Hive (R67). -/
def fenceBaseLoc : Nat := 0x00800100000

/-- The fence table index of a swarm address in this node's fence area. -/
def fenceIndex (s : State) (a : Nat) : Option Nat :=
  if addrNode a = s.swarm.node ∧ addrDie a = 5 ∧ a < 2 ^ 48 ∧ fenceBaseLoc ≤ addrLoc a ∧ addrLoc a < fenceBaseLoc + 0x80000
  then some ((addrLoc a - fenceBaseLoc) / 8) else none

/-- Swarm address of fence word `i` of this node. -/
def fenceAddr (s : State) (i : Nat) : Nat := here s 5 (fenceBaseLoc + 8 * i)

/-- The word of fence `i`. -/
def fenceWord (s : State) (i : Nat) : W64 := Tbl.get 0 s.obj.fences i

/-! ### Memory -/

/-- One byte of the swarm's memory: a fence word's byte, a byte of this package, or a free value for another node. -/
def memByte (s : State) (a : Nat) : Byte :=
  match fenceIndex s a with
  | some i => BitVec.ofNat 8 ((fenceWord s i).toNat / 2 ^ (8 * (a % 8)))
  | none => if addrNode a = s.swarm.node then Tbl.get 0 s.mem.bytes a else freeB s a

/-- `n` bytes from swarm address `a`. -/
def memRead (s : State) (a : Nat) : Nat → Bytes
  | 0 => []
  | n + 1 => memByte s a :: memRead s (a + 1) n

/-- A little-endian number of `n` bytes at swarm address `a`. -/
def memNat (s : State) (a n : Nat) : Nat := leNat (memRead s a n) 0 n

/-- Bytes written into a byte table. -/
def putBytes (d : Byte) (t : Tbl Byte) (a : Nat) : Bytes → Tbl Byte
  | [] => t
  | x :: l => putBytes d (Tbl.set d t a x) (a + 1) l

/-- Parcels that `n` bytes from `a` cover whole. -/
def wholeParcels (a n : Nat) : List Nat := (upFrom (a / 256) (n / 256 + 2)).filter (fun p => a ≤ 256 * p && 256 * p + 256 ≤ a + n)

/-- Parcels that `n` bytes from `a` touch. -/
def parcelsOf (a n : Nat) : List Nat := if n = 0 then [] else upFrom (a / 256) ((a + n - 1) / 256 + 1 - a / 256)

/-- Bytes written to memory of this node; a parcel written whole has a valid check again (R283). Bytes for another node
leave the package. -/
def memWrite (s : State) (a : Nat) (l : Bytes) : State :=
  if addrNode a = s.swarm.node ∧ a < 2 ^ 48 then
    { s with mem := { bytes := putBytes 0 s.mem.bytes a l,
                      bad := (wholeParcels a l.length).foldl (fun t p => Tbl.set false t p false) s.mem.bad } }
  else s

/-- Whether every parcel that the bytes touch passes its check (R281-R283). -/
def checksOk (s : State) (a n : Nat) : Bool := (parcelsOf a n).all (fun p => !(Tbl.get false s.mem.bad p))

/-! ### Contexts, sources and handles -/

/-- A requester source id (R174). -/
def mkSrc (node die unit inst sub : Nat) : W32 :=
  BitVec.ofNat 32 (node + 4 * die + 32 * unit + 2 ^ 10 * inst + 2 ^ 17 * sub)

/-- UNIT of a requester source id (R174). -/
def srcUnit (x : W32) : Nat := field x 9 5
/-- SUB of a requester source id. -/
def srcSub (x : W32) : Nat := field x 23 17
/-- NODE of a requester source id. -/
def srcNode (x : W32) : Nat := field x 1 0
/-- The Keeper's source id. -/
def keeperSrc (s : State) : W32 := mkSrc s.swarm.node 5 0 0 0

/-- Mailbox `m`. -/
def getMbx (s : State) (m : Nat) : Mbx := Tbl.get {} s.keeper.mbx m
/-- The state with mailbox `m` written. -/
def setMbx (s : State) (m : Nat) (x : Mbx) : State := { s with keeper := { s.keeper with mbx := Tbl.set {} s.keeper.mbx m x } }
/-- Context number `c` of this node. -/
def getCtx (s : State) (c : Nat) : Ctx := Tbl.get {} s.obj.ctxs c
/-- The state with context `c` written. -/
def setCtx (s : State) (c : Nat) (x : Ctx) : State := { s with obj := { s.obj with ctxs := Tbl.set {} s.obj.ctxs c x } }
/-- Memory-object table entry `i`. -/
def getMot (s : State) (i : Nat) : MotEntry := Tbl.get {} s.obj.mot i
/-- The state with entry `i` written. -/
def setMot (s : State) (i : Nat) (x : MotEntry) : State := { s with obj := { s.obj with mot := Tbl.set {} s.obj.mot i x } }
/-- Queue `q`. -/
def getQueue (s : State) (q : Nat) : Queue := Tbl.get {} s.obj.queues q
/-- The state with queue `q` written. -/
def setQueue (s : State) (q : Nat) (x : Queue) : State := { s with obj := { s.obj with queues := Tbl.set {} s.obj.queues q x } }
/-- Monitor slot `k`. -/
def getSlot (s : State) (k : Nat) : Slot := Tbl.get {} s.obj.slots k
/-- The state with slot `k` written. -/
def setSlot (s : State) (k : Nat) (x : Slot) : State := { s with obj := { s.obj with slots := Tbl.set {} s.obj.slots k x } }
/-- Fence word `i` written. -/
def setFence (s : State) (i : Nat) (x : W64) : State := { s with obj := { s.obj with fences := Tbl.set 0 s.obj.fences i x } }

/-- The context number on this node of a swarm context id, if it is one (R69). -/
def localCtx (s : State) (id : Nat) : Option Nat :=
  if id < 1024 ∧ id / 256 = s.swarm.node ∧ (getCtx s (id % 256)).live then some (id % 256) else none

/-- Swarm context id of context number `c` of this node. -/
def ctxId (s : State) (c : Nat) : Nat := 256 * s.swarm.node + c

/-- Whether a source is the one bound to the mailbox that created context `c` (R74). -/
def srcOfCtx (s : State) (src : W32) (c : Nat) : Bool :=
  (getCtx s c).live && (getCtx s c).node == s.swarm.node && (getMbx s (getCtx s c).mailbox).bound == some src

/-- Whether source ids of a context's mailbox, or its PCIe function, may ring for it (R84). -/
def srcRings (s : State) (src : W32) (c : Nat) : Bool :=
  srcOfCtx s src c || ((getCtx s c).vf ≠ 0 && src == mkSrc s.swarm.node 5 3 0 (getCtx s c).vf)

/-- The entry that a handle resolves to (R72). -/
def resolve (s : State) (h : W32) : Option Nat :=
  let i := field h 15 0
  let e := getMot s i
  if e.kind ≠ 0 ∧ e.gen.toNat = field h 31 16 then some i else none

/-- Handle of entry `i`. -/
def handleOf (s : State) (i : Nat) : W32 := BitVec.ofNat 32 (i + 65536 * (getMot s i).gen.toNat)

/-- Bytes of an object (R73). -/
def motBytes (e : MotEntry) : Nat := if e.kind = 2 then 8 else 256 * e.size

/-- The entry whose object contains the `n` bytes from `a`. -/
def objectAt (s : State) (a n : Nat) : Option (Nat × MotEntry) :=
  s.obj.mot.find? (fun e => e.2.kind ≠ 0 && e.2.base ≤ a && a + n ≤ e.2.base + motBytes e.2)

/-! ### Access checks (R66, R74-R76) -/

/-- Who makes an access: the Keeper; a unit at work for a context, with whether PERM cell use is needed and the die on which its requests
enter the network; or a source that is an application-core partition, a PCIe function or another unit. -/
inductive Requester where
  | keeper
  | unit (ctx : Nat) (cellUse : Bool) (die : Nat)
  | src (id : W32)
deriving DecidableEq, Repr

/-- The partitions whose carve-outs `n` bytes of LPDDR touch (R75, R328). -/
def carveOuts (s : State) (die loc n : Nat) : List Nat :=
  (upFrom 0 16).filter (fun i =>
    let p := s.boot.opt.parts.getD i {}
    p.present && p.die == die && p.base < loc + n && loc < p.base + p.sizeMib * 2 ^ 20)

/-- Whether `n` bytes of LPDDR lie wholly in the carve-out of partition `i`. -/
def inCarveOut (s : State) (i die loc n : Nat) : Bool :=
  let p := s.boot.opt.parts.getD i {}
  p.present && p.die == die && decide (p.base ≤ loc ∧ loc + n ≤ p.base + p.sizeMib * 2 ^ 20)

/-- The source id that the Keeper stamps into partition `n` (R174, R328). -/
def partSrc (s : State) (n : Nat) : W32 :=
  let p := s.boot.opt.parts.getD n {}
  mkSrc s.swarm.node (((upFrom 0 16).find? (fun i => bitOf p.cores i)).getD 0 / 4) 2 0 n

/-- Whether a local port of this node stamps a requester with this id (R174): a core as its stamp register says, a PCIe function,
the safety island and the debug unit with the ids of the table. -/
def stampsId (s : State) (src : W32) : Bool :=
  match srcUnit src with
  | 1 => src == mkSrc s.swarm.node 5 1 0 0
  | 2 => s.boot.stamps.any (fun e => e.2 == src)
  | 3 => srcSub src < 16 && src == mkSrc s.swarm.node 5 3 0 (srcSub src)
  | 12 => field src 4 2 < 6 && src == mkSrc s.swarm.node (field src 4 2) 12 0 0
  | _ => false

/-- Whether a CREATOR byte names the mailbox that created a context, by node and number (R70, R73). -/
def sameMaker (x : Ctx) (creator : Byte) : Bool := x.mailbox == field creator 6 2 && x.node == field creator 1 0

/-- Whether a requester belongs to the owning context, or to its family where the object is shared (R74). -/
def belongs (s : State) (r : Requester) (e : MotEntry) : Bool :=
  match r with
  | .keeper => true
  | .unit c _ _ => e.owner.toNat == c || (bitOf e.perm 3 &&
      (match localCtx s c with
       | some k => sameMaker (getCtx s k) e.creator
       | none => bitOf (freeW s 1) 0))
  | .src id => field e.creator 1 0 == s.swarm.node && (getMbx s (field e.creator 6 2)).bound == some id

/-! ### Routes between dies (R173, R178-R180, R195, R198) -/

/-- Block id of the fault-policy block of this node (R60, R290). -/
def kpolId (s : State) : Nat := s.swarm.node + 256 * 5 + 65536 * 2

/-- A staged block's record by its id. -/
def getBlock (s : State) (id : Nat) : StagedBlock := Tbl.get {} s.keeper.blocks id
/-- The state with a staged block written. -/
def setBlock (s : State) (id : Nat) (b : StagedBlock) : State :=
  { s with keeper := { s.keeper with blocks := Tbl.set {} s.keeper.blocks id b } }

/-- Id of the route-table block of a die of this node (R60, R195). -/
def routeId (s : State) (die : Nat) : Nat := s.swarm.node + 256 * die + 65536
/-- Id of the calibration block (16) or tariff block (17) of the HM1 on link `l` (R414, R439). -/
def hm1BlockId (s : State) (blk l : Nat) : Nat := s.swarm.node + 256 * (8 + l) + 65536 * blk

/-- Whether two dies have a die link (R173), in either order. -/
def linked (a b : Nat) : Bool :=
  let lo := min a b
  let hi := max a b
  lo < hi && hi < 6 && !(lo == 0 && hi == 3) && !(lo == 1 && hi == 2)

/-- Reset value of route entry `k` of a die (R195, R196): VALID 0 for another node; this node's dies directly, or through
COMB1 or COMB0. -/
def routeDefault (node die k : Nat) : W32 :=
  let d := k % 8
  if k / 8 % 4 ≠ node ∨ 5 < d then 0x3F0
  else
    let next := if d = die ∨ linked die d then d else if die = 0 ∨ die = 3 then 1 else 0
    BitVec.ofNat 32 (1 + 2 * next + 0x3F0)

/-- Reset value of register `off` (a word offset) of a staged block (R195, R288, R290, R414, R439). -/
def blockDefault (id off : Nat) : W32 :=
  match id / 65536 % 256 with
  | 1 => routeDefault (id % 256) (id / 256 % 256) off
  | 2 => if off < 6 then 3 + 60 * 256 + 2 ^ 24 else if off = 6 then 9 + 600 * 256 + 2 ^ 24 else if off = 7 then 3 + 60 * 256
         else 100 + 2 ^ 16
  | 16 => if off < 40 then
            let v := (Sys2Proof.Config.productionWord (1024 + 64 * (id / 256 % 256) + off)).toNat
            match off % 4 with
            | 0 => BitVec.ofNat 32 (1 + v % (2 ^ 31 - 1))
            | 1 => BitVec.ofNat 32 ((v % (2 ^ 21 + 1) + 2 ^ 24 - 2 ^ 20) % 2 ^ 24)
            | 2 => BitVec.ofNat 32 (v % 2 ^ 16)
            | _ => 0
          else if off = 40 then 250 else if off = 41 then 5000 else if off = 42 then 2000 + 200 * 65536 else 0
  | _ => 0

/-- Register `off` of a staged block in force. -/
def blockGet (s : State) (id off : Nat) : W32 := Tbl.get (blockDefault id off) (getBlock s id).inForce off

/-- The power domain that holds an address of this node (R344). -/
def domainOf (s : State) (die loc : Nat) : Nat :=
  match rangeOf s die loc with
  | .lpddr => 12 * die + 10
  | .cellStore m => 12 * die + m / 4
  | .tileStore => if (loc - 0x00800000000) / 0x40000 < 48 then 54 else 55
  | .window k => if k = 0 then 49 else 51 + (k - 1) / 2
  | _ => if die < 4 then 12 * die + 11 else if die = 4 then 48 else 60

/-- Domain `d`. -/
def getDom (s : State) (d : Nat) : Domain := Tbl.get {} s.net.doms d
/-- The state with domain `d` written. -/
def setDom (s : State) (d : Nat) (x : Domain) : State := { s with net := { s.net with doms := Tbl.set {} s.net.doms d x } }
/-- The PLLs in the order of R355. -/
def allPlls : List Pll :=
  [.hive] ++ (upFrom 0 5).map Pll.data ++ (upFrom 0 4).map Pll.memory ++ (upFrom 0 4).map Pll.swarmLinks
    ++ [.pcie, .ethernet, .aphy, .swarmTime]

/-- The domains that need a PLL (R344, R355, assumption log 81). -/
def pllDomains : Pll → List Nat
  | .hive => upFrom 57 7
  | .data n => if n < 4 then upFrom (12 * n) 10 ++ [12 * n + 11] else upFrom 48 8
  | .memory n => [12 * n + 10]
  | .swarmLinks n => [12 * n + 11]
  | .pcie => [61]
  | .ethernet => [62]
  | .aphy => [50]
  | .swarmTime => [60]

/-- A PLL starts when the first domain that needs it begins WAKING, and stops when the last such domain is CLOSED (R355). -/
def settlePlls (s : State) : State :=
  { s with power := { s.power with
      plls := allPlls.filter (fun p => (pllDomains p).any (fun d => (getDom s d).state != .closed)) } }

/-- Die `d` of this node. -/
def getDie (s : State) (d : Nat) : Die := Tbl.get {} s.faults.dies d

/-- The domain of a die's routers and die-link ports (R344). -/
def netDomain (die : Nat) : Nat := if die < 4 then 12 * die + 11 else if die = 4 then 48 else 60

/-- NEXT_DIE of a route entry (R195). -/
def nextDie (r : W32) : Nat := field r 3 1

/-- The entry of die `d`'s table for virtual network `v` and the destination of an address (R195). -/
def routeIndex (v a : Nat) : Nat := 32 * v + 8 * addrNode a + addrDie a

/-- An entry whose staged value differs from the one in force, while the switch of its die runs (R198). -/
def entrySwitching (s : State) (d k : Nat) : Bool :=
  (s.net.switching == some d && Tbl.get (blockDefault (routeId s d) k) (getBlock s (routeId s d)).staging k != blockGet s (routeId s d) k)
    || (s.net.switching == some (8 + d) && Tbl.get (blockGet s (routeId s d) k) (Tbl.get [] s.net.installs d) k != blockGet s (routeId s d) k)

/-- What a die does with a packet (R179, R180, R195): it has arrived, leaves through a swarm-link port, crosses to another die, or is
refused with a code. -/
inductive Leg where
  | here | port (p : Nat) | die (d : Nat) | refused (code : W16)
deriving DecidableEq, Repr

/-- The port that an entry for another node names for an address (R180): port B where SPLIT is set and address bit [8] is 1, else port
A. -/
def splitPort (r : W32) (a : Nat) : Nat := if bitOf r 10 ∧ a / 256 % 2 = 1 then field r 9 7 else field r 6 4

/-- The leg of a packet of virtual network `v` at die `d` (R179, R180, R195, R198). -/
def legAt (s : State) (v d a : Nat) : Leg :=
  let k := routeIndex v a
  let r := blockGet s (routeId s d) k
  if addrNode a = s.swarm.node ∧ addrDie a = d then .here
  else if entrySwitching s d k then .refused 0x2006
  else if ¬ bitOf r 0 then .refused (if addrNode a = s.swarm.node then 0x1006 else 0x5008)
  else if addrNode a ≠ s.swarm.node ∧ nextDie r = d then (if splitPort r a < 6 then .port (splitPort r a) else .refused 0x5008)
  else .die (nextDie r)

/-- Whether a die is in recovery or retired (R298, R289). -/
def dieDown (s : State) (d : Nat) : Bool := decide (d < 5) && (getDie s d).state != .inService

/-- Where a packet is stopped on its way: a code (0 where it gets through), and the domain at whose boundary 0x2005 is answered. A die in
recovery answers 0x5007 at the ports that face it; a network domain that is not UP answers 0x2005 there; a packet crosses at most
three die links (R179, R190, chapter 07). -/
def pathStop (s : State) (v a : Nat) : Nat → Nat → W16 × Nat
  | 0, d => match legAt s v d a with
    | .refused c => (c, 0)
    | .die _ => (0x1006, 0)
    | _ => (0, 0)
  | n + 1, d => match legAt s v d a with
    | .refused c => (c, 0)
    | .die e =>
      if dieDown s e then (0x5007, 0)
      else if (getDom s (netDomain e)).state ≠ .up then (0x2005, netDomain e)
      else pathStop s v a n e
    | _ => (0, 0)

/-! ### Reach (R63, R66, R190-R193) -/

/-- The die whose local port injects a requester's packets (R173, R174). -/
def reqDie : Requester → Nat
  | .keeper => 5
  | .unit _ _ d => d
  | .src id => field id 4 2

/-- Whether unit `u` of a descriptor of type `typ` lies in domain `d` (R127, R234). -/
def unitInDomain (typ u d : Nat) : Bool :=
  match typ with
  | 1 => u / 32 * 12 + u % 32 / 4 == d
  | 3 => u / 8 * 12 + 8 == d
  | 4 => (if u < 48 then 54 else 55) == d
  | _ => false

/-- Whether a queue has work that a domain has accepted (R191): a descriptor that has started on its units and not finished. -/
def acceptedIn (x : Queue) (d : Nat) : Bool :=
  x.inflight.any (fun e => !e.finished && e.units.any (fun u => unitInDomain (byteAt e.bytes 0).toNat u d))

/-- Whether a domain takes a request (R190, R191): it is UP, or CLOSING with work of the request's context. -/
def domainTakes (s : State) (r : Requester) (d : Nat) : Bool :=
  match (getDom s d).state, r with
  | .up, _ => true
  | .closing, .unit c _ _ => s.obj.queues.any (fun e => e.2.live && e.2.ctx.toNat == c && acceptedIn e.2 d)
  | _, _ => false

/-- Where a request to an address is stopped: a code, or 0, and the domain at whose boundary 0x2005 is answered: the swarm address space,
node, die and range (R63, R66), the way there (R179, R195), die recovery, and the boundary of the domain that holds the address (R190). -/
def reachStop (s : State) (r : Requester) (a n : Nat) : W16 × Nat :=
  if 2 ^ 48 ≤ a ∨ 2 ^ 48 < a + n ∨ n = 0 then (0x1006, 0)
  else if ¬ nodePresent s (addrNode a) then (0x5008, 0)
  else if addrNode a ≠ s.swarm.node then pathStop s 0 a 3 (reqDie r)
  else
    let die := addrDie a
    let g := rangeOf s die (addrLoc a)
    if g = .unpopulated ∨ addrNode (a + n - 1) ≠ addrNode a ∨ addrDie (a + n - 1) ≠ die
       ∨ rangeOf s die (addrLoc (a + n - 1)) ≠ g then (0x1006, 0)
    else if dieDown s die then (0x5007, 0)
    else if (pathStop s 0 a 3 (reqDie r)).1 ≠ 0 then pathStop s 0 a 3 (reqDie r)
    else if ¬ domainTakes s r (domainOf s die (addrLoc a)) then (0x2005, domainOf s die (addrLoc a))
    else (0, 0)

/-- The code with which a request to an address is stopped before its permission is looked at, or 0. -/
def reachCheck (s : State) (r : Requester) (a n : Nat) : W16 := (reachStop s r a n).1

/-! ### Collective input windows (R222) -/

/-- Element bytes of an operation (R224). -/
def collElem (op : BitVec 4) : Nat :=
  match op.toNat with
  | 0 => 0
  | 1 => 2
  | 2 => 32
  | 3 | 8 => 8
  | 9 | 10 => 1
  | _ => 4

/-- Contribution size of a slot (R224). -/
def collSize (x : CollSlot) : Nat := x.count.toNat * collElem x.op

/-- The slot, 16 × die + k, whose input window holds an address of this node (R222). -/
def collWindow (s : State) (a : Nat) : Option Nat :=
  let l := addrLoc a
  if addrNode a = s.swarm.node ∧ a < 2 ^ 48 ∧ addrDie a < 4 ∧ 0x01100000000 ≤ l ∧ l < 0x01110000000 then
    some (16 * addrDie a + (l - 0x01100000000) / 0x1000000)
  else none

/-- Whether a source id belongs to a context by its swarm context id (R74); that of another node is a free value. -/
def srcOwns (s : State) (src : W32) (id : Nat) : Bool :=
  match localCtx s id with
  | some c => srcOfCtx s src c
  | none => decide (id / 256 ≠ s.swarm.node ∧ id < 1024) && nodePresent s (id / 256) && bitOf (freeW s 5) 0

/-- The check of an access to the input window of slot `k` (R222): whole parcels below the contribution size, by the OWNER
context, while the slot is ARMED. -/
def collInputCheck (s : State) (r : Requester) (k a n : Nat) (write : Bool) : W16 :=
  let x : CollSlot := Tbl.get {} s.cmp.slots k
  let off := addrLoc a % 0x1000000
  let own : Bool := match r with
    | .keeper => true
    | .unit c _ _ => c == x.owner.toNat
    | .src id => srcOwns s id x.owner.toNat
  if ¬ write then 0x4001
  else if off % 256 ≠ 0 ∨ n % 256 ≠ 0 ∨ (collSize x + 255) / 256 * 256 < off + n then 0x100A
  else if ¬ own then 0x4001
  else if x.state ≠ .armed then 0x2001
  else 0

/-- Whether a write answered with a code at an address is counted under R78: a permission or a lock, or an input window (R222). -/
def countedRefusal (s : State) (code : W16) (a : Nat) : Bool :=
  code == 0x4001 || code == 0x4002 || ((collWindow s a).isSome && (code == 0x2001 || code == 0x100A))

/-- PERM, cell use and the locks of an object for an access by a requester that belongs to it (R74, R76): the Keeper alone passes
KEEPER_LOCK, which is its own. -/
def objectCheck (r : Requester) (e : MotEntry) (write : Bool) : W16 :=
  let cell : Bool := match r with
    | .unit _ c _ => c
    | _ => false
  if (write ∧ ¬ bitOf e.perm 1 ∧ ¬ (r = .keeper ∧ bitOf e.lock 1)) ∨ (¬ write ∧ ¬ bitOf e.perm 0) ∨ (cell ∧ ¬ bitOf e.perm 2) then 0x4001
  else if write ∧ (bitOf e.lock 0 ∨ (bitOf e.lock 1 ∧ r ≠ .keeper)) then 0x4002
  else 0

/-- The permission check of R74-R76, R67 and R222 on this node. A carve-out takes an access of its own partition that lies wholly in it,
and no other (R75); what lies in no object is open to the Keeper alone, whose private memory it is (R67, R74). -/
def permCheck (s : State) (r : Requester) (a n : Nat) (write : Bool) : W16 :=
  if (collWindow s a).isSome then collInputCheck s r ((collWindow s a).getD 0) a n write
  else if fenceIndex s a ≠ none ∧ write ∧ r ≠ .keeper then 0x4002
  else
    match (if rangeOf s (addrDie a) (addrLoc a) = .lpddr then carveOuts s (addrDie a) (addrLoc a) n else []) with
    | p :: l => if r = .keeper ∨ (r = .src (partSrc s p) ∧ l = [] ∧ inCarveOut s p (addrDie a) (addrLoc a) n) then 0 else 0x4001
    | [] =>
      match objectAt s a n with
      | none => if r = .keeper then 0 else 0x4001
      | some (_, e) => if ¬ belongs s r e then 0x4001 else objectCheck r e write

/-- A status drawn from those that a rule allows, where it does not say which (assumption log 2). -/
def pickStatus (s : State) (i : Nat) (l : List W16) : W16 := l.getD ((freeW s i).toNat % l.length) 0

/-- What another node's network or targets may answer an access with (R49, R66, R188). -/
def remoteCodes : List W16 := [0, 0x1006, 0x2001, 0x2005, 0x2006, 0x4001, 0x4002, 0x5001, 0x5007, 0x100A]

/-- The status of an access: 0, or the code it is answered with. What another node answers is one of the codes of `remoteCodes`
(assumption log 3). -/
def accessCheck (s : State) (r : Requester) (a n : Nat) (write : Bool) : W16 :=
  let c := reachCheck s r a n
  if c ≠ 0 then c
  else if addrNode a ≠ s.swarm.node then pickStatus s a remoteCodes
  else permCheck s r a n write

/-- A domain that is not UP and whose wake-on-access bit is set has one wake notice sent for it (R192). -/
def noticeOf (d : Nat) (s : State) : State :=
  let x := getDom s d
  if x.state ≠ .up ∧ x.woa ∧ ¬ x.notice then setDom s d { x with notice := true } else s

/-- A request that meets a boundary which answers 0x2005: the wake notice of that domain (R192). -/
def noticeDomain (s : State) (r : Requester) (a : Nat) : State :=
  let x := reachStop s r a 1
  if x.1 = 0x2005 ∧ addrNode a = s.swarm.node then noticeOf x.2 s else s

/-- Whether a boundary's answer 0x2005 carries RETRY 1 (R188, R190, R192): while WAKING, and otherwise where a wake is started. -/
def wakeRetry (x : Domain) : Bool := x.state == .waking || (x.woa && !x.wakeFailed)

/-- Whether an answer to a request carries RETRY 1 (R188): 0x2006 always, 0x2005 as its boundary says; of another node's boundary that is
a free value. -/
def retryOne (s : State) (r : Requester) (code : W16) (a : Nat) : Bool :=
  code == 0x2006 || (code == 0x2005 &&
    (if addrNode a = s.swarm.node then wakeRetry (getDom s (reachStop s r a 1).2) else bitOf (freeW s (a + 1)) 0))

/-! ### Events (R46-R48) -/

/-- Whether an event can be dropped from a full queue: not CMD_DONE, WAKE_CAUSE or EVENTS_LOST (R46, R47). -/
def maskable (code : W16) : Bool := code ≠ 0xE001 && code ≠ 0xE002 && code ≠ 0xE009

/-- A queue with its oldest maskable event dropped, if it has one (R47). -/
def dropOldest : List Event → Option (List Event)
  | [] => none
  | e :: l => if maskable e.code then some l else (dropOldest l).map (e :: ·)

/-- A mailbox's queue made to have a place (R47): the queue holds 32 and keeps the places that accepted commands have reserved; where it
is full its oldest maskable event is dropped and counted. -/
def makeRoom (x : Mbx) : Mbx :=
  if x.events.length + x.accepted.length < 32 then x
  else match dropOldest x.events with
    | some l => { x with events := l, evtLost := satAdd x.evtLost 1, evtLostOvf := x.evtLostOvf || satLost x.evtLost 1, dropped := x.dropped + 1 }
    | none => x

/-- An event arriving at the queue of one mailbox (R47). Where nothing in a full queue may be dropped, a maskable event is itself lost. -/
def arrive (x : Mbx) (e : Event) : Mbx :=
  let y := makeRoom x
  if x.bound = none then x
  else if y.events.length + y.accepted.length < 32 ∨ ¬ maskable e.code then { y with events := y.events ++ [e] }
  else { y with evtLost := satAdd y.evtLost 1, evtLostOvf := y.evtLostOvf || satLost y.evtLost 1, dropped := y.dropped + 1 }

/-- An event that goes before all that wait (R48). -/
def arriveFirst (x : Mbx) (e : Event) : Mbx :=
  let y := makeRoom x
  if x.bound = none then x else { y with events := e :: y.events }

/-- An event sent to mailbox `m`. -/
def sendTo (m : Nat) (code : W16) (payload : Bytes) (s : State) : State := setMbx s m (arrive (getMbx s m) ⟨code, payload⟩)

/-- An event about an object: to the mailbox that created it and to mailbox 0 (R46). -/
def sendAbout (m : Nat) (code : W16) (payload : Bytes) (s : State) : State :=
  let s := sendTo m code payload s
  if m = 0 then s else sendTo 0 code payload s

/-- An event about a context's object: to the mailbox of this node that created it and to mailbox 0; that of another node is told by its
own Keeper (R46, R70). -/
def sendMaker (x : Ctx) (code : W16) (payload : Bytes) (s : State) : State :=
  if x.node = s.swarm.node then sendAbout x.mailbox code payload s else sendTo 0 code payload s

/-- An event that a rule sends to mailbox 0, under its mask (R46). -/
def sendOwner (code : W16) (payload : Bytes) (s : State) : State :=
  if bitOf (getMbx s 0).mask (code.toNat % 256) then sendTo 0 code payload s else s

/-- Every other event: to each bound mailbox whose mask has the bit of the code's low byte (R46). -/
def broadcast (code : W16) (payload : Bytes) (s : State) : State :=
  (upFrom 0 32).foldl (fun s m =>
    if bitOf (getMbx s m).mask (code.toNat % 256) then sendTo m code payload s else s) s

/-- WAKE_CAUSE sent to mailboxes, which clears exactly the causes of its image (R353, R354). -/
def sendWakeCause (ms : List Nat) (atFront : Bool) (s : State) : State :=
  let e : Event := ⟨0xE002, toLE 4 s.power.wakeCause.toNat ++ toLE 6 s.power.rtc.toNat⟩
  let s := ms.foldl (fun s m =>
    setMbx s m (if atFront then arriveFirst (getMbx s m) e else arrive (getMbx s m) e)) s
  { s with power := { s.power with wakeCause := 0 } }

/-- LOCK_VIOLATION and the violation count of a write rejected under R74 or R76 (R78); `creator` is the creating mailbox of
the target object, when there is one. -/
def violation (src : W32) (a : Nat) (creator : Option Nat) (s : State) : State :=
  let k := s.keeper
  let s := { s with keeper := { k with violations := satAdd k.violations 1,
                                       violationsOvf := k.violationsOvf || satLost k.violations 1 } }
  if s.keeper.reported.contains src then s
  else
    let p := toLE 4 src.toNat ++ toLE 8 a
    let s := { s with keeper := { s.keeper with reported := src :: s.keeper.reported } }
    match creator with
    | some m => sendAbout m 0xE00C p s
    | none => sendOwner 0xE00C p s

/-- Whether two extents overlap. -/
def overlaps (a n b m : Nat) : Bool := a < b + m && b < a + n

/-- The mailboxes whose rings `n` bytes from an address of this node touch (R35, R67). -/
def ringsOf (s : State) (a n : Nat) : List Nat :=
  (upFrom 0 32).filter (fun m => overlaps a n (here s 5 (0x00800000000 + 0x800 * m)) 0x800)

/-- A write by a source that mailbox `m` is not bound to, counted and reported (R33). -/
def foreignCount (src : W32) (m a : Nat) (s : State) : State :=
  let x := getMbx s m
  sendOwner 0xE00C (toLE 4 src.toNat ++ toLE 8 a)
    (setMbx s m { x with foreignWrites := satAdd x.foreignWrites 1, foreignOvf := x.foreignOvf || satLost x.foreignWrites 1 })

/-- A refused write that touches the rings of mailboxes `ms`, or of none. -/
def countRefused (src : W32) (a : Nat) (creator : Option Nat) (s : State) : List Nat → State
  | [] => violation src a creator s
  | ms => ms.foldl (fun s m => foreignCount src m a s) s

/-- A unit's write that was refused, counted and reported: in FOREIGN_WRITES where it touches ring slots (R33), else under R78. -/
def refusedWrite (src : W32) (a n : Nat) (creator : Option Nat) (s : State) : State := countRefused src a creator s (ringsOf s a n)

/-- The answer of a direct access, as its requester sees it (R66). -/
def answer (status : W16) (data : Bytes) (s : State) : State := { s with keeper := { s.keeper with rsp := { status := status, data := data } } }

/-- What a requester takes of a status (R66, R189): a core and a PCIe function do not see the code. -/
def hostFail (src : W32) (status : W16) : Option HostFail :=
  if status = 0 then none else if srcUnit src = 2 then some .accessFault else if srcUnit src = 3 then some .unsupportedRequest else none

/-- The answer of an access of the host, with what its requester takes of it. -/
def asSeen (src : W32) (s : State) : State :=
  { s with keeper := { s.keeper with rsp := { s.keeper.rsp with fail := hostFail src s.keeper.rsp.status } } }

/-- A direct write rejected under R78: counted, reported, answered 0x4001 (or another code). -/
def refuseWrite (src : W32) (a : Nat) (creator : Option Nat) (code : W16) (s : State) : State :=
  violation src a creator (answer code [] s)

/-- The mailbox of this node that an entry's CREATOR names (R73), if it names one. -/
def ownCreator (s : State) (e : MotEntry) : Option Nat := if field e.creator 1 0 = s.swarm.node then some (field e.creator 6 2) else none

/-- The creating mailbox of the object at an address. -/
def creatorAt (s : State) (a n : Nat) : Option Nat := (objectAt s a n).bind (fun e => ownCreator s e.2)

/-- Source id of a requester, for R78. -/
def reqSrc (s : State) : Requester → W32
  | .keeper => keeperSrc s
  | .unit c _ _ => mkSrc (c / 256) 5 7 0 0
  | .src id => id

/-! ### The fault log and windowed counting (R288-R293) -/

/-- A record appended to the log of 128; the oldest is overwritten, and counted in LOST when no mailbox has read it. -/
def record (r : FaultRecord) (s : State) : State :=
  let f := s.faults
  let r := { r with index := f.next, time := s.swarm.time }
  let f := if f.log.length < 128 then f
    else match f.log with
      | [] => f
      | o :: l => if o.read then { f with log := l }
                  else { f with log := l, lost := satAdd f.lost 1, lostOvf := f.lostOvf || satLost f.lost 1 }
  { s with faults := { f with log := f.log ++ [r], next := f.next + 1 } }

/-- Index that the next record takes. -/
def nextIndex (s : State) : Nat := s.faults.next.toNat

/-- FAULT payload (R48). -/
def faultPayload (ctx code : W16) (index : Nat) : Bytes := toLE 2 ctx.toNat ++ toLE 2 code.toNat ++ toLE 4 index

/-- CLASSc of the fault-policy block in force (R290). -/
def policyClass (s : State) (c : Nat) : W32 := blockGet s (kpolId s) c
/-- DEFAULT_MS and SAMPLE in force. -/
def policyPatience (s : State) : W32 := blockGet s (kpolId s) 8

/-- A context in context reset, a destroy included (R45, R70). -/
def inReset (x : Ctx) : Bool := x.state == .resetting || x.state == .destroying

/-- A resource id of R288. -/
def resourceId (cls idx : Nat) : W32 := BitVec.ofNat 32 (cls * 2 ^ 28 + idx)

/-- Ticks of the events of a resource. -/
def windowOf (s : State) (res : W32) : List Nat := ((s.faults.windows.find? (fun e => e.1 == res)).map (·.2)).getD []

/-- One counted event of a resource (R288, R289): the state, the events in the window, whether it is declared lasting and
whether it is retired by it. Events of one tick count once. -/
def countEvent (res : W32) (s : State) : State × Nat × Bool × Bool :=
  let p := policyClass s (field res 31 28)
  let now := s.keeper.tick
  let old := windowOf s res
  let l := if old.head? = some now then old else now :: old
  let live := l.filter (fun t => now - t ≤ 1000 * field p 23 8)
  let lasting := field p 7 0 ≠ 0 && field p 7 0 ≤ live.length
  let retire := lasting && bitOf p 24
  ({ s with faults := { s.faults with
      windows := (res, live) :: s.faults.windows.filter (fun e => e.1 ≠ res),
      retired := if retire && !s.faults.retired.contains res then res :: s.faults.retired else s.faults.retired } },
   live.length, lasting, retire)

/-- A record with the outcome of counting its resource filled in, and written. -/
def recordCounted (res : W32) (r : FaultRecord) (s : State) : State :=
  let (s, n, lasting, retired) := countEvent res s
  record { r with resource := res, events := satNat 16 n,
                  flags := setBit (setBit r.flags 4 lasting) 5 retired } s

/-- The resource against which a failed check at an address is counted (R288). -/
def checkResource (s : State) (a : Nat) : Option W32 :=
  let d := addrDie a
  match rangeOf s d (addrLoc a) with
  | .lpddr => some (resourceId 3 ((s.swarm.node * 4 + d) * 2 ^ 23 + addrLoc a / 4096))
  | .cellStore m => some (resourceId 0 (s.swarm.node * 128 + d * 32 + m))
  | .tileStore => some (resourceId 2 (s.swarm.node * 96 + (addrLoc a - 0x00800000000) / 0x40000))
  | _ => none

/-- A record, and the event of its resource where it has one (R288). -/
def recordOf (res : Option W32) (r : FaultRecord) (s : State) : State :=
  match res with
  | some x => recordCounted x r s
  | none => record r s

/-- A parcel check that fails on a read of `n` bytes, answered to its requester (R30, R282, R283): recorded, for a core as a machine check, and counted
against the resource of the parcel that failed. -/
def failedRead (src : W32) (ctx : W16) (a n : Nat) (s : State) : State :=
  let p := ((parcelsOf a n).find? (fun p => Tbl.get false s.mem.bad p)).getD (a / 256)
  recordOf (checkResource s (256 * p)) { code := 0x5001, kind := if srcUnit src = 2 then 11 else 1, source := src, context := ctx,
                                         address := BitVec.ofNat 64 a, action := 6 } s

/-- Whether a resource is retired (R289). -/
def isRetired (s : State) (cls idx : Nat) : Bool := s.faults.retired.contains (resourceId cls idx)

/-- A fault tied to no context: NO_CONTEXT set, sent as FAULT to mailbox 0. -/
def systemFault (r : FaultRecord) (s : State) : State :=
  let i := nextIndex s
  let s := record { r with flags := setBit r.flags 0 true, context := 0 } s
  sendOwner 0xE003 (faultPayload 0 r.code i) s

/-! ### Fences and signals (R89-R91, R97) -/

/-- A fence poisoned with a code: its low 48 bits keep the last normal value, whose full value stays in the entry shadow.
A poisoned fence is left as it is. -/
def poison (i : Nat) (code : W16) (s : State) : State :=
  let w := fenceWord s i
  if bitOf w 63 then s
  else
    let s := setMot s i { getMot s i with shadow := w.toNat }
    setFence s i (BitVec.ofNat 64 (2 ^ 63 + code.toNat * 2 ^ 48 + w.toNat % 2 ^ 48))

/-- A fence's word made by R91: the new word, or the rejection's code. `kind` is LOCK[3:2]. -/
def signalResult (w : W64) (kind : Nat) (add : Bool) (v : W64) : Sum W64 W16 :=
  if bitOf w 63 then .inl w
  else if add ∧ v = 0 then .inr 0x1006
  else if kind ≠ 0 ∧ kind ≠ (if add then 2 else 1) then .inr 0x1006
  else
    let x := w.toNat
    let y := if add then x + v.toNat else max x v.toNat
    if y < 2 ^ 63 then .inl (BitVec.ofNat 64 y)
    else .inl (BitVec.ofNat 64 (2 ^ 63 + 0x1008 * 2 ^ 48 + x % 2 ^ 48))

/-- An accepted signal applied to live fence `i` (R91): the state, and the rejection's code or 0. -/
def applySignal (i : Nat) (add : Bool) (v : W64) (s : State) : State × W16 :=
  let e := getMot s i
  let w := fenceWord s i
  match signalResult w (field e.lock 3 2) add v with
  | .inr c => (s, c)
  | .inl w' =>
    if bitOf w 63 then (s, 0)
    else
      let e := { e with lock := setBit (setBit e.lock 2 (!add)) 3 add,
                        shadow := if bitOf w' 63 then w.toNat else e.shadow }
      (setFence (setMot s i e) i w', 0)

/-- A signal queued at the fence unit of this node; one for another node leaves the package. -/
def pushSignal (g : Signal) (s : State) : State := { s with obj := { s.obj with signals := s.obj.signals ++ [g] } }

/-- A live fence entry of this node at an address, 8-byte aligned (R90). -/
def liveFence (s : State) (a : Nat) : Option Nat :=
  match fenceIndex s a with
  | some i => if a % 8 = 0 ∧ (getMot s i).kind = 2 then some i else none
  | none => none

/-- Whether a context belongs to the family of a fence's owner (R90). -/
def inFamily (s : State) (c : Nat) (i : Nat) : Bool :=
  match localCtx s c with
  | some k => sameMaker (getCtx s k) (getMot s i).creator
  | none => bitOf (freeW s (2 + c)) 0

/-! ### Faulting a context (R294, R295) -/

/-- A fault of context `id` at a unit: the first one starts the context reset, with the record that the reset completes; a
fault that arrives while the context is RESETTING is recorded as SECONDARY. -/
def faultCtx (id : Nat) (r : FaultRecord) (counted : Option W32) (s : State) : State :=
  match localCtx s id with
  | none => record { r with context := BitVec.ofNat 16 id } s
  | some c =>
    let x := getCtx s c
    let r := { r with context := BitVec.ofNat 16 id }
    if inReset x then
      recordOf counted { r with flags := setBit r.flags 2 true } s
    else
      let s := setCtx s c { x with state := .resetting, fault := some { r with action := 2 }, counted := counted }
      { s with obj := { s.obj with queues := Tbl.mapAll {} (fun _ q =>
          if q.live ∧ q.ctx.toNat = id then
            { q with state := if q.state = .ready then .hold else q.state, holdMark := q.submitted } else q) s.obj.queues } }

/-- A queue halted by a failed descriptor check (R83): no further descriptor starts; the descriptor's signal fence and the
completion fence are poisoned with the code; a record is written and FAULT sent. A DRAINING queue discards what has not
started (R88). -/
def haltQueue (q : Nat) (d : W32) (code : W16) (sigFence : Option Nat) (s : State) : State :=
  let x := getQueue s q
  if ¬ x.live then s else
  let s := setQueue s q { x with state := if x.state = .draining then .draining else .halted, stopped := true }
  let s := match sigFence with
    | some i => poison i code s
    | none => s
  let s := match resolve s x.fence with
    | some i => poison i code s
    | none => s
  let i := nextIndex s
  let s := record { code := code, context := x.ctx, kind := 6, action := 1, source := mkSrc s.swarm.node 5 7 0 0,
                    queue := BitVec.ofNat 16 q, descriptor := d } s
  match localCtx s x.ctx.toNat with
  | some c => sendMaker (getCtx s c) 0xE003 (faultPayload x.ctx code i) s
  | none => s

/-- A lifetime counter of R505 counted once: saturating, with its flag in OVF. -/
def lifeCount (i : Nat) (s : State) : State :=
  let x := Tbl.get 0 s.test.counters i
  { s with test := { s.test with counters := Tbl.set 0 s.test.counters i (satAdd x 1),
                                 ovf := if satLost x 1 then setBit s.test.ovf i true else s.test.ovf } }

/-! ### Placement (R77, R245, R329, R288) -/

/-- The lowest 256-byte aligned start in [lo, hi) from which `size` bytes overlap none of the blocks. -/
def allocIn (blocks : List (Nat × Nat)) (lo hi size : Nat) : Option Nat :=
  let c := (lo :: blocks.map (fun b => (b.1 + b.2 + 255) / 256 * 256)).filter (fun a =>
    lo ≤ a && a + size ≤ hi && blocks.all (fun b => !overlaps a size b.1 b.2))
  c.foldl (fun m a => some (match m with
    | none => a
    | some x => min x a)) none

/-- What an LPDDR placement must avoid on a Comb die, as swarm extents: objects, carve-outs, retired pages. -/
def lpddrBlocks (s : State) (die : Nat) : List (Nat × Nat) :=
  (s.obj.mot.filter (fun e => e.2.kind ≠ 0 && addrDie e.2.base == die && addrNode e.2.base == s.swarm.node)).map (fun e => (e.2.base, motBytes e.2))
  ++ (s.boot.opt.parts.filter (fun p => p.present && p.die == die)).map (fun p => (here s die p.base, p.sizeMib * 2 ^ 20))
  ++ (s.faults.retired.filter (fun r => field r 31 28 == 3 && field r 27 23 == s.swarm.node * 4 + die)).map (fun r => (here s die (4096 * field r 22 0), 4096))

/-- Place `size` bytes of LPDDR on a Comb die, below its parcel-check region (R65); the lowest place (assumption log 23). -/
def placeLpddr (s : State) (die size : Nat) : Option Nat :=
  allocIn (lpddrBlocks s die) (here s die 0) (here s die (capacity s die / 64 * 63)) size

/-- The lowest free entry of the memory-object table. -/
def freeEntry (s : State) : Option Nat := Tbl.findFrom {} s.obj.mot (fun e => e.kind == 0) 0 65536

/-- A Keeper system object (KIND 5, KEEPER_LOCK) of `n` bytes in a free entry and at a free place (R76). R73 gives it no OWNER and no CREATOR;
both stay 0 (DESIGN CHOICE, assumption log 79). -/
def keeperEntry (n : Nat) (s : State) : Option Nat → Option Nat → State × Option Nat
  | some i, some a =>
    (setMot s i { getMot s i with base := a, size := (n + 255) / 256, perm := 1, kind := 5, lock := 2, imageBytes := n }, some i)
  | _, _ => (s, none)

/-- A Keeper system object of `n` bytes of LPDDR of COMB0 (R323). -/
def keeperObject (n : Nat) (s : State) : State × Option Nat := keeperEntry n s (freeEntry s) (placeLpddr s 0 (256 * ((n + 255) / 256)))

/-- A Keeper system object that holds a copy of bytes (R323). -/
def keeperCopy (l : Bytes) (s : State) : State × Option Nat :=
  match keeperObject l.length s with
  | (t, some i) => (memWrite t (getMot t i).base l, some i)
  | (t, none) => (t, none)

/-- An entry freed: its generation rises, skipping 0 (R72, R73). -/
def freeMot (i : Nat) (s : State) : State :=
  let g := (getMot s i).gen
  setMot s i { gen := if g = 0xFFFF then 1 else g + 1 }

/-! ### CMD_DONE -/

/-- The outcome of an accepted command, which CMD_DONE will carry (R43, R48); outcomes stand in the order of completion. -/
def finishCmd (c : CmdRef) (status : W16) (extra : Bytes) (s : State) : State :=
  let x := getMbx s c.m
  let mine := fun (a : Accepted) => a.opcode == c.opcode && a.tag == c.tag && a.result == none
  setMbx s c.m { x with accepted := x.accepted.filter (fun a => !mine a) ++ (x.accepted.filter mine).map (fun a =>
    { a with result := some { status := status, time := s.swarm.time, extra := extra } }) }

/-- Whether a long-running command of an opcode has been accepted and CMD_DONE has not reported it: it still runs (assumption log 64). -/
def cmdPending (s : State) (op : W16) : Bool := s.keeper.mbx.any (fun e => e.2.accepted.any (fun a => a.opcode == op))

/-- An interrupt raised to a source (R96, R488). -/
def raiseIrq (target : W32) (vector : Nat) (s : State) : State :=
  { s with keeper := { s.keeper with irqs := s.keeper.irqs ++ [(target, vector)] } }

end Sys2Proof.Machine
end

