-- ==== Sys2Proof/Machine/Mesh.lean ====
section
/-! DEFINITION. The router meshes of the package (R173-R187): attachment, X-then-Y routes with look-ahead, buffers and credits, the
grants of an output port, AGE, and the packets of an access. A command's packets travel within the command (assumption log 76). -/

namespace Sys2Proof.Machine

/-! ### Routers and their registers (R173, R199) -/

/-- Router `r` of die `d`. -/
def getRouter (s : State) (d r : Nat) : Router := Tbl.get {} s.net.routers (64 * d + r)
/-- The state with a router written. -/
def setRouter (s : State) (d r : Nat) (x : Router) : State := { s with net := { s.net with routers := Tbl.set {} s.net.routers (64 * d + r) x } }

/-- Packets discarded at a router, counted in STRAY (R199). -/
def countStray (d r n : Nat) (s : State) : State :=
  let x := getRouter s d r
  setRouter s d r { x with stray := satAdd x.stray n, strayOvf := x.strayOvf || satLost x.stray n }

/-- Routers of a die (R173). -/
def routersOf (die : Nat) : Nat := if die < 4 then 36 else if die = 4 then 16 else 8

/-- Columns of a die's mesh (R173). -/
def columns (die : Nat) : Nat := if die < 4 then 6 else 4

/-- The router in column `x` and row `y` (R173). -/
def routerAt (die x y : Nat) : Nat := columns die * y + x

/-! ### Attachment (R173, R244) -/

/-- The router of a die's link to die `e`. -/
def dieLinkAt (die e : Nat) : Nat :=
  if die < 4 then
    if e = 4 then routerAt die 1 0 else if e = 5 then routerAt die 2 0 else if e = die ^^^ 1 then routerAt die 5 0 else routerAt die 0 5
  else if die = 4 then
    match e with
    | 0 => routerAt 4 0 0
    | 1 => routerAt 4 3 0
    | 2 => routerAt 4 0 3
    | 3 => routerAt 4 3 3
    | _ => routerAt 4 1 0
  else if e < 4 then routerAt 5 e 0 else routerAt 5 0 1

/-- The die at the other end of the link of a router, where it has one. -/
def linkEnd (die r : Nat) : Option Nat := (upFrom 0 6).find? (fun e => linked die e && dieLinkAt die e == r)

/-- The router of swarm-link port `p`, where the collective unit of the die stands too. -/
def slinkAt (p : Nat) : Nat := if p < 4 then routerAt 0 4 0 else routerAt 0 4 5

/-- Router and local port of cell `m`: two cells to a router. -/
def cellAt (m : Nat) : Nat × Nat := (routerAt 0 (1 + m / 2 % 4) (1 + m / 8), m % 2)

/-- The gateway of the tile mesh that serves tile `t` (R244). -/
def gatewayAt (t : Nat) : Nat × Nat := (routerAt 4 (if t % 8 < 4 then 0 else 3) (if t / 8 < 6 then 1 else 2), 0)

/-- The router of fabric region port `k`; the static region at (2,0). -/
def regionAt (k : Nat) : Nat × Nat := if k = 0 then (routerAt 4 2 0, 0) else (routerAt 4 (1 + (k - 1) % 2) (1 + (k - 1) / 2), 0)

/-- Router and local port of the registers at a die-local address; which blocks of the Hive share a local port is the model's choice
(assumption log 76). -/
def regsAt (die loc : Nat) : Nat × Nat :=
  if die < 4 then (if (0x01008000000 ≤ loc ∧ loc < 0x01009000000) ∨ 0x01100000000 ≤ loc then (slinkAt 0, 0) else (routerAt die 1 5, 0))
  else if die = 4 then (routerAt 4 1 0, 0)
  else if loc < 0x01002000000 ∨ (0x01004000000 ≤ loc ∧ loc < 0x01005000000) then (routerAt 5 1 1, 0)
  else if loc < 0x01003000000 then (routerAt 5 3 0, 0)
  else if loc < 0x01004000000 then (routerAt 5 0 0, 0)
  else if loc < 0x01005100000 then (routerAt 5 0 1, 0)
  else (routerAt 5 3 1, 0)

/-- Router and local port of the target of a die-local address (R173, R178): an LPDDR address at the router of its channel (R129), a
cell store at its cell's, Hive SRAM at the port of its parcel. -/
def targetAt (s : State) (die loc : Nat) : Nat × Nat :=
  match rangeOf s die loc with
  | .lpddr => (routerAt die 0 (1 + loc / 256 % 8 / 2), loc / 256 % 2)
  | .cellStore m => cellAt m
  | .tileStore => gatewayAt ((loc - 0x00800000000) / 0x40000)
  | .window k => regionAt k
  | .sram => (routerAt 5 (1 + loc / 256 % 2) 0, 0)
  | .flash => (routerAt 5 2 1, 1)
  | _ => regsAt die loc

/-- Router and local port of a unit by its source id (R173, R174). -/
def unitAt (src : W32) : Nat × Nat :=
  let inst := field src 16 10
  match srcUnit src with
  | 0 => (routerAt 5 0 0, 0)
  | 1 => (routerAt 5 0 1, 0)
  | 2 => (routerAt 0 0 0, 0)
  | 3 => (routerAt 5 2 1, 0)
  | 4 => cellAt inst
  | 5 => (routerAt 0 5 (1 + inst / 2), inst % 2)
  | 6 => gatewayAt inst
  | 7 => (routerAt 5 1 1, 0)
  | 8 => (routerAt 5 3 0, 0)
  | 9 => (routerAt 5 1 1, 0)
  | 10 => regionAt inst
  | 11 => (routerAt 4 2 0, 1)
  | 12 => if field src 4 2 < 4 then (routerAt 0 1 5, 0) else (routerAt 5 3 1, 0)
  | _ => (routerAt 5 3 1, 0)

/-! ### Classes and routes (R176, R178, R179) -/

/-- A class that is issued, on its own virtual network (R176). -/
def classOk (h : PacketHeader) : Bool :=
  match h.cls.toNat with
  | 0 | 1 | 2 => h.vn == 0
  | 4 | 5 | 6 => h.vn == 1
  | 8 | 9 | 10 | 11 => h.vn == 2
  | 12 | 13 | 14 | 15 => h.vn == 3
  | _ => false

/-- A packet that goes back to the requester of its SRC: a response, or MGMT_RSP (R175, R176). -/
def isResponse (h : PacketHeader) : Bool := h.vn == 1 || h.cls == 13

/-- The address that routes a packet (R179, R180): DEST; of a response, its requester's node and die, with bit [8] of DEST. -/
def routeAddr (h : PacketHeader) : Nat :=
  if isResponse h then swarmAddr (srcNode h.src) (field h.src 4 2) (256 * (h.dest.toNat / 256 % 2)) else h.dest.toNat

/-- Router and local port at which a packet leaves the mesh of its last die. -/
def goalAt (s : State) (h : PacketHeader) : Nat × Nat :=
  if isResponse h then unitAt h.src else targetAt s (addrDie h.dest.toNat) (addrLoc h.dest.toNat)

/-- The output port towards router `t` (R178): west or east until the column matches, then north or south, then `last`. -/
def towards (die r t last : Nat) : Nat :=
  let w := columns die
  if r % w < t % w then 3 else if t % w < r % w then 5 else if r / w < t / w then 4 else if t / w < r / w then 2 else last

/-- Whether a neighbouring die is closed to packets: in recovery, or its network domain not UP (R190, chapter 07). -/
def dieShut (s : State) (e : Nat) : Bool := dieDown s e || (getDom s (netDomain e)).state != .up

/-- The output port that a packet uses at a router (R178, R179). One that is refused, or meets a boundary, leaves at a local port there. -/
def outPort (s : State) (h : PacketHeader) (die r : Nat) : Nat :=
  match legAt s h.vn.toNat die (routeAddr h) with
  | .here => towards die r (goalAt s h).1 (goalAt s h).2
  | .port p => towards die r (slinkAt p) 0
  | .die e => towards die r (dieLinkAt die e) (if dieShut s e then 0 else 6)
  | .refused _ => 0

/-- Die, router and input port that an output port leads to; none for a local port, where the packet leaves the mesh (R173). -/
def neighbour (die r o : Nat) : Option (Nat × Nat × Nat) :=
  let w := columns die
  match o with
  | 2 => some (die, r - w, 4)
  | 3 => some (die, r + 1, 5)
  | 4 => some (die, r + w, 2)
  | 5 => some (die, r - 1, 3)
  | 6 => (linkEnd die r).map (fun e => (e, dieLinkAt e die, 6))
  | _ => none

/-! ### Buffers and credits (R177, R182) -/

/-- Number of the buffer of an input port for a virtual network. -/
def bufNo (die r q v : Nat) : Nat := 4 * (8 * (64 * die + r) + q) + v

/-- Flits that a buffer holds (R182): die-link ingress, or mesh input and local injection queue. -/
def bufSize (q v : Nat) : Nat := if q = 6 then (if v < 2 then 32 else 16) else if v < 2 then 10 else 4

/-- Flits of a packet: its header and data flits. -/
def Flight.size (f : Flight) : Nat := 1 + f.data

/-- Flits in a buffer; the upstream router holds a credit for each slot that is free. -/
def bufUsed (n : Network) (k : Nat) : Nat := ((Tbl.get [] n.bufs k).map Flight.size).sum

/-- Whether the downstream buffer of an output has room for the whole packet (R182). A local endpoint always sinks it (R177). -/
def hasRoom (n : Network) (die r o : Nat) (f : Flight) : Bool :=
  match neighbour die r o with
  | none => true
  | some (e, t, q) => decide (bufUsed n (bufNo e t q f.head.vn.toNat) + f.size ≤ bufSize q f.head.vn.toNat)

/-- The headers at the front of a router's buffers: input port, and packet. -/
def heads (n : Network) (die r : Nat) : List (Nat × Flight) :=
  (upFrom 0 7).flatMap (fun q => (upFrom 0 4).filterMap (fun v => ((Tbl.get [] n.bufs (bufNo die r q v)).head?).map (fun f => (q, f))))

/-! ### Arbitration, age and the livelock detector (R185-R187) -/

/-- The rank of a header at an output (R186, R187): VN 3; a header rescued; AGE of 128 and above by AGE; URG, then AGE; and last the
input port that follows the last winner. -/
def rank (last q : Nat) (f : Flight) : Nat :=
  let age := f.head.age.toNat
  8 * (if f.head.vn = 3 then 0x40000 else if age = 255 ∧ 256 ≤ f.lost then 0x30000 else if 128 ≤ age then 0x20000 + age
       else 256 * f.head.urg.toNat + age)
  + (6 - (q + 6 - last) % 7)

/-- The header that output `o` grants in a cycle, of those that want it and have the credits (R186). -/
def granted (n : Network) (die r o : Nat) : Option (Nat × Flight) :=
  let out := Tbl.get {} n.outs (8 * (64 * die + r) + o)
  if out.busy ≠ 0 then none
  else ((heads n die r).filter (fun e => e.2.la == o && hasRoom n die r o e.2)).foldl (fun b e =>
    match b with
    | none => some e
    | some w => if rank out.last w.1 w.2 < rank out.last e.1 e.2 then some e else b) none

/-- One cycle of waiting (R185, R187): AGE rises after 16, saturating; a header of AGE 255 that has lost an arbitration counts it. -/
def waitOne (lost : Bool) (f : Flight) : Flight :=
  { f with head := { f.head with age := if f.waited = 15 then satAdd f.head.age 1 else f.head.age }, waited := (f.waited + 1) % 16,
           lost := if lost ∧ f.head.age = 255 then f.lost + 1 else f.lost }

/-- A response that has reached its requester frees the space kept for it (R177). -/
def arrived (h : PacketHeader) (n : Network) : Network :=
  if isResponse h then { n with awaiting := n.awaiting.filter (fun e => !(e.1 == h.src && e.2.1 == h.txid)) } else n

/-- A header granted (R182, R187, R199): it leaves its buffer, its flits follow on the next cycles and are counted, and it stands in the
buffer of the next router with the output port that it is to use there; a rescue is counted. -/
def advance (s : State) (die r o q : Nat) (f : Flight) (n : Network) : Network :=
  let k := bufNo die r q f.head.vn.toNat
  let x := Tbl.get {} n.routers (64 * die + r)
  let saved := f.head.age = 255 ∧ 256 ≤ f.lost ∧ f.head.vn ≠ 3
  let x := { x with flits := x.flits + BitVec.ofNat 32 f.size, rescues := if saved then satAdd x.rescues 1 else x.rescues,
                    rescuesOvf := x.rescuesOvf || (saved && satLost x.rescues 1) }
  let n := { n with bufs := Tbl.set [] n.bufs k (Tbl.get [] n.bufs k).tail, routers := Tbl.set {} n.routers (64 * die + r) x,
                    outs := Tbl.set {} n.outs (8 * (64 * die + r) + o) { last := q, busy := f.data } }
  match neighbour die r o with
  | none => arrived f.head n
  | some (e, t, p) =>
    let j := bufNo e t p f.head.vn.toNat
    { n with bufs := Tbl.set [] n.bufs j (Tbl.get [] n.bufs j ++ [{ f with la := outPort s f.head e t, lost := 0 }]) }

/-- The routers with a header that waits, as 64 × die + router. -/
def busyRouters (n : Network) : List Nat := (n.bufs.map (fun e => e.1 / 32)).eraseDups

/-- One cycle of the network: each output port grants one header (R186), those that lose or lack credits wait (R185, R199). -/
def netCycle (s : State) (n : Network) : Network :=
  let gs := (busyRouters n).flatMap (fun k => (upFrom 0 7).filterMap (fun o => (granted n (k / 64) (k % 64) o).map (fun e => (k, o, e.1, e.2))))
  let n1 := { n with
    bufs := Tbl.mapAll [] (fun k l =>
      let lost := fun (f : Flight) => gs.any (fun g => g.1 == k / 32 && g.2.1 == f.la)
      match l with
      | [] => []
      | f :: l => (if gs.any (fun g => bufNo (g.1 / 64) (g.1 % 64) g.2.2.1 g.2.2.2.head.vn.toNat == k) then f else waitOne (lost f) f)
          :: l.map (waitOne false)) n.bufs
    routers := (busyRouters n).foldl (fun t k =>
      if (heads n (k / 64) (k % 64)).any (fun e => !hasRoom n (k / 64) (k % 64) e.2.la e.2) then
        Tbl.modify {} t k (fun x => { x with stalls := satAdd x.stalls 1, stallsOvf := x.stallsOvf || satLost x.stalls 1 })
      else t) n.routers
    outs := Tbl.mapAll {} (fun _ x => { x with busy := x.busy - 1 }) n.outs }
  gs.foldl (fun n g => advance s (g.1 / 64) (g.1 % 64) g.2.1 g.2.2.1 g.2.2.2 n) n1

/-! ### Packets sent (R175, R177, R188) -/

/-- A packet to be sent: the die, router and local port at which it is injected. -/
structure Sent where
  die : Nat
  router : Nat
  port : Nat
  head : PacketHeader
  data : Nat
deriving DecidableEq, Repr

/-- Whether a packet can be injected (R177, R182): room in the injection queue, and at most 16 MGMT_REQ of a requester outstanding per
target. -/
def mayInject (n : Network) (x : Sent) : Bool :=
  decide (bufUsed n (bufNo x.die x.router x.port x.head.vn.toNat) + 1 + x.data ≤ bufSize x.port x.head.vn.toNat)
    && (x.head.cls != 12 || decide ((n.awaiting.filter (fun e => e.1 == x.head.src && e.2.2.1 && e.2.2.2 == addrDie x.head.dest.toNat)).length < 16))

/-- A packet injected (R177, R178, R185): with the AGE of its header, 0 unless a swarm link brought it; its first output port is looked up, and
the space for its response kept. -/
def inject (s : State) (x : Sent) (n : Network) : Network :=
  let k := bufNo x.die x.router x.port x.head.vn.toNat
  { n with
    bufs := Tbl.set [] n.bufs k (Tbl.get [] n.bufs k ++ [{ head := x.head, data := x.data, la := outPort s x.head x.die x.router }])
    awaiting := if x.head.vn = 0 ∨ x.head.cls = 12 then n.awaiting ++ [(x.head.src, x.head.txid, x.head.cls == 12, addrDie x.head.dest.toNat)]
      else n.awaiting }

/-- The network run until every packet sent has left it: a header is injected in a cycle where it fits. -/
def netRun (s : State) : Nat → List Sent → Network → Network
  | 0, _, n => n
  | k + 1, [], n => if n.bufs.isEmpty then { n with outs := Tbl.mapAll {} (fun _ x => { x with busy := 0 }) n.outs } else netRun s k [] (netCycle s n)
  | k + 1, x :: l, n => if mayInject n x then netRun s k l (netCycle s (inject s x n)) else netRun s k (x :: l) (netCycle s n)

/-- Packets carried through the meshes of this package. -/
def carry (l : List Sent) (s : State) : State := { s with net := netRun s (100 * (l.length + 1)) l s.net }

/-- URG of a context's packets (R176): its priority; of a context of another node, a free value. -/
def urgOf (s : State) (ctx : Nat) : BitVec 2 :=
  match localCtx s ctx with
  | some c => (getCtx s c).priority
  | none => if ctx = 0 then 0 else BitVec.ofNat 2 (freeW s 8).toNat

/-- The header of a packet (R175, R176): CLASS on its own virtual network, URG of its context or 3 on VN 3, AGE 0. -/
def makeHeader (s : State) (cls : Nat) (src : W32) (dest ctx txid : Nat) (status : W16) (retry : Bool) : PacketHeader :=
  let vn : BitVec 2 := if cls < 4 then 0 else if cls < 8 then 1 else if cls < 12 then 2 else 3
  { cls := BitVec.ofNat 4 cls, vn := vn, urg := if vn = 3 then 3 else urgOf s ctx, age := 0, retry := retry, src := src, dest := BitVec.ofNat 48 dest,
    txid := BitVec.ofNat 16 txid, context := BitVec.ofNat 16 ctx, status := status }

/-- Where a packet of this package stops on its way, as die and router (R188, R190): its target, or the router that answers for a boundary
or an entry; none where it leaves through a swarm-link port. -/
def stopAt (s : State) (h : PacketHeader) : Nat → Nat → Nat → Option (Nat × Nat)
  | 0, d, r => some (d, r)
  | n + 1, d, r => match legAt s h.vn.toNat d (routeAddr h) with
    | .here => some (d, (goalAt s h).1)
    | .port _ => none
    | .die e => if dieShut s e then some (d, dieLinkAt d e) else stopAt s h n e (dieLinkAt e d)
    | .refused _ => some (d, r)

/-- The pieces of an access (R175): a read asks for one parcel at a time; a write carries whole parcels, and the rest as inline bytes of
one aligned 32-byte span each. -/
def piecesOf (write : Bool) (a n : Nat) : List (Nat × Nat) :=
  (parcelsOf a n).flatMap (fun p =>
    let lo := max a (256 * p)
    let hi := min (a + n) (256 * p + 256)
    if ¬ write ∨ hi - lo = 256 then [(lo, hi - lo)]
    else (upFrom (lo / 32) ((hi - 1) / 32 + 1 - lo / 32)).map (fun b => (max lo (32 * b), min hi (32 * b + 32) - max lo (32 * b))))

/-- Data flits that carry `n` bytes: none where they fit inline (R175). -/
def dataFlits (n : Nat) : Nat := if n ≤ 32 then 0 else 4

/-- The packets of an access by a unit of this node, and their answers with a status (R175, R188): READ with READ_DATA, WRITE or PORT_WRITE
(`cls`) with WRITE_ACK, or ERR_RSP. -/
def tripOf (s : State) (cls : Nat) (src : W32) (ctx : Nat) (l : List (Nat × Nat)) (status : W16) (retry : Bool) : List Sent :=
  let die := field src 4 2
  let u := unitAt src
  let reqs := (l.zip (upFrom 0 l.length)).map (fun e =>
    ({ die := die, router := u.1, port := u.2, head := makeHeader s cls src e.1.1 ctx e.2 0 false, data := if cls = 0 then 0 else dataFlits e.1.2 } : Sent))
  let rsps := (l.zip (upFrom 0 l.length)).filterMap (fun e =>
    (stopAt s (makeHeader s cls src e.1.1 ctx e.2 0 false) 4 die u.1).map (fun t =>
      ({ die := t.1, router := t.2, port := 0,
         head := makeHeader s (if status ≠ 0 then 6 else if cls = 0 then 4 else 5) src e.1.1 ctx e.2 status retry,
         data := if status = 0 ∧ cls = 0 then dataFlits e.1.2 else 0 } : Sent)))
  reqs ++ rsps

/-- The packets of a memory access by a unit of this node, carried. -/
def carryAccess (src : W32) (ctx : Nat) (write : Bool) (a n : Nat) (status : W16) (retry : Bool) (s : State) : State :=
  if a < 2 ^ 48 ∧ srcNode src = s.swarm.node ∧ field src 4 2 < 6 then
    carry (tripOf s (if write then 1 else 0) src ctx (piecesOf write a n) status retry) s
  else s

/-- A packet of one header from a unit of this node, carried: a signal, an interrupt, a notice (R176). -/
def carryOne (cls : Nat) (src : W32) (ctx dest : Nat) (s : State) : State :=
  if dest < 2 ^ 48 ∧ srcNode src = s.swarm.node ∧ field src 4 2 < 6 then
    carry [{ die := field src 4 2, router := (unitAt src).1, port := (unitAt src).2, head := makeHeader s cls src dest ctx 0 0 false, data := 0 }] s
  else s

/-- A FAULT_NOTICE that reaches the Keeper (R176, R187, R193). -/
def faultNotice (x : Notice) (s : State) : State := { s with net := { s.net with notice := some x } }

/-- Packets that are in the mesh of a die under an entry of its route table (step 2 of R198). -/
def entryCount (s : State) (d k : Nat) : Nat :=
  ((s.net.bufs.filter (fun e => e.1 / 2048 == d)).map (fun e =>
    (e.2.filter (fun f => routeIndex f.head.vn.toNat (routeAddr f.head) == k)).length)).sum

/-- Whether the drain of a die's switch has ended (step 2 of R198): no packet is in the mesh under an affected entry. -/
def drained (s : State) (d : Nat) : Bool := (upFrom 0 128).all (fun k => !entrySwitching s d k || entryCount s d k == 0)

/-! ### Whole packets (R175, R281) -/

/-- The header flit of a packet (R175). -/
def headerFlit (p : Packet) : Bytes :=
  let h := p.head
  toLE 1 (h.cls.toNat + 16 * h.vn.toNat + 64 * h.urg.toNat) ++ [h.age]
    ++ toLE 1 (p.data.length % 8 + 8 * b2n h.retry + 16 * p.la.toNat) ++ [0] ++ toLE 4 h.src.toNat ++ toLE 6 h.dest.toNat
    ++ toLE 2 h.txid.toNat ++ toLE 2 h.context.toNat ++ toLE 2 h.status.toNat ++ toLE 4 p.check.toNat ++ toLE 8 p.operand.toNat
    ++ slice (p.inl ++ zeros 32) 0 32

/-- The flits of a packet, header first. -/
def packetFlits (p : Packet) : List Bytes := headerFlit p :: p.data

/-- The header of a network packet as its flit carries it (R175). -/
def parseHeader (f : Bytes) : PacketHeader :=
  let b0 := byteAt f 0
  { cls := BitVec.ofNat 4 (field b0 3 0), vn := BitVec.ofNat 2 (field b0 5 4), urg := BitVec.ofNat 2 (field b0 7 6), age := byteAt f 1,
    retry := bitOf (byteAt f 2) 3, src := le32 f 4, dest := BitVec.ofNat 48 (leNat f 8 6), txid := le16 f 14, context := le16 f 16,
    status := le16 f 18 }

/-- A packet from its flits. -/
def parsePacket (f : Bytes) (data : List Bytes) : Packet :=
  { head := parseHeader f, la := BitVec.ofNat 4 (field (byteAt f 2) 7 4), check := le32 f 20, operand := le64 f 24, inl := slice f 32 32, data := data }

/-- Inline bytes with those outside the OPERAND mask as 0 (R281). -/
def masked (p : Packet) : Bytes := (upFrom 0 32).map (fun i => if bitOf p.operand i then byteAt p.inl i else 0)

/-- The check that a packet's CHECK field must hold (R281): of its data flits, or of header bytes 24-63. -/
def checkOf (p : Packet) : W32 :=
  if p.data = [] then crc32c (toLE 8 p.operand.toNat ++ (if p.head.cls = 1 then masked p else slice (p.inl ++ zeros 32) 0 32))
  else crc32c p.data.flatten

/-- A packet with its CHECK. -/
def withCheck (p : Packet) : Packet := { p with check := checkOf p }

/-- 64-byte flits of a parcel's bytes. -/
def dataOf (l : Bytes) : List Bytes := (upFrom 0 4).map (fun i => slice l (64 * i) 64)

/-- A WRITE packet of one piece (R175): a whole parcel in data flits, or inline bytes under their mask, which stand at the offset of their
byte in the aligned 32-byte span that DEST names. -/
def writePacket (h : PacketHeader) (l : Bytes) : Packet :=
  if l.length = 256 then withCheck { head := h, data := dataOf l }
  else
    let o := h.dest.toNat % 32
    withCheck { head := { h with dest := BitVec.ofNat 48 (h.dest.toNat - o) },
                operand := BitVec.ofNat 64 (2 ^ o * (2 ^ l.length - 1)), inl := zeros o ++ l ++ zeros (32 - o - l.length) }

/-- An answer packet (R175, R188). -/
def answerPacket (h : PacketHeader) (cls : BitVec 4) (status : W16) (retry : Bool) (l : Bytes) : Packet :=
  let r : PacketHeader := { h with cls := cls, vn := 1, age := 0, retry := retry, status := status }
  if l.length = 256 then withCheck { head := r, data := dataOf l } else withCheck { head := r, inl := l ++ zeros (32 - l.length) }

end Sys2Proof.Machine
end

