-- ==== Sys2Proof/Machine/Links.lean ====
section
/-! DEFINITION. Swarm-link ports: their flits, replay and credits (R206-R209), the packets that leave through them (R179, R180), a port
that leaves UP (R208, R211), signals on their way to a fence unit (R90, R193, R198), and the Keeper's own route switches (R196, R198). -/

namespace Sys2Proof.Machine

/-! ### Ports and their wiring (R173, R200, R202) -/

/-- Swarm-link ports that a Comb die carries (R173). -/
def portsOfDie (d : Nat) : List Nat := if d < 2 then [d, d + 4] else if d < 4 then [d] else []

/-- The die that carries a port (R200). -/
def portDie (p : Nat) : Nat := if p < 4 then p else p - 4

/-- Port `p`. -/
def getSlink (s : State) (p : Nat) : SlinkPort := Tbl.get {} s.swarm.ports p
/-- The state with port `p` written. -/
def setSlink (s : State) (p : Nat) (x : SlinkPort) : State := { s with swarm := { s.swarm with ports := Tbl.set {} s.swarm.ports p x } }

/-- A pattern group (R500). -/
def getPat (s : State) (die g : Nat) : PatGroup := Tbl.get {} s.test.pats (64 * die + g)
/-- The state with a pattern group written. -/
def setPat (s : State) (die g : Nat) (x : PatGroup) : State := { s with test := { s.test with pats := Tbl.set {} s.test.pats (64 * die + g) x } }

/-- The partner of a port: the other port to the same peer (R200, R214). -/
def partner (p : Nat) : Nat := match p with
  | 0 => 3
  | 3 => 0
  | 1 => 2
  | 2 => 1
  | 4 => 5
  | _ => 4

/-- The node that port `p` of this node faces (R200). -/
def peerNode (s : State) (p : Nat) : Nat :=
  s.swarm.node ^^^ (if p = 0 ∨ p = 3 then 1 else if p = 1 ∨ p = 2 then 2 else 3)

/-- Whether a port faces an expected peer (R202). -/
def expectedPort (s : State) (p : Nat) : Bool :=
  decide (s.swarm.node < s.boot.opt.swarmSize ∧ peerNode s p < s.boot.opt.swarmSize)

/-! ### Link flits (R206, R207, R209) -/

/-- A link flit in the layout of R206, as the port sends it next. -/
def flitBytes (x : SlinkPort) (f : LinkFlit) : Bytes :=
  let h : Nat := f.kind.toNat + 4 * x.txSeq.toNat + 2 ^ 14 * (x.rxSeq - 1).toNat + 2 ^ 26 * b2n x.nakSent + 2 ^ 27 * (2 ^ f.slots.length - 1)
    + 2 ^ 32 * leNat (x.owed.map (fun n => BitVec.ofNat 8 n)) 0 4
  let body := toLE 8 h ++ slice ((f.slots.map (fun l => slice (l ++ zeros 64) 0 64)).flatten ++ zeros 256) 0 256
  body ++ toLE 8 (crc64 body).toNat

/-- Credits for network flits of virtual network `v` added or taken. -/
def linkCredit (l : List Nat) (v n : Nat) : List Nat := l.set v (l.getD v 0 + n)

/-- Credits of the peer's ingress that a flit uses (R209). -/
def flitCost (f : LinkFlit) : Nat := if f.kind = 0 then f.slots.length else 0

/-- Whether a port may send a flit now (R207, R209): room in the replay buffer, and credits for its slots. -/
def canSend (x : SlinkPort) (f : LinkFlit) : Bool := decide (x.replay.length < 64 ∧ flitCost f ≤ x.credits.getD f.vn 0)

/-- A DATA or CONTROL flit put on the lanes, with the acknowledgement and the credits to return, and kept for replay. -/
def putOnWire (x : SlinkPort) (f : LinkFlit) : SlinkPort :=
  { x with replay := x.replay ++ [f], txSeq := x.txSeq + 1, flitsTx := x.flitsTx + 1, credits := x.credits.set f.vn (x.credits.getD f.vn 0 - flitCost f),
           owed := [0, 0, 0, 0], wire := flitBytes x f }

/-- A DATA or CONTROL flit to be sent on a port: it waits while the replay buffer is full, its credits are used, or a flit of its own kind and
virtual network waits (R177, R207, R209). -/
def offerFlit (x : SlinkPort) (f : LinkFlit) : SlinkPort :=
  if canSend x f ∧ ¬ x.queued.any (fun g => g.kind == f.kind && g.vn == f.vn) then putOnWire x f else { x with queued := x.queued ++ [f] }

/-- A flit sent on a port. -/
def sendFlit (p : Nat) (f : LinkFlit) (s : State) : State := setSlink s p (offerFlit (getSlink s p) f)

/-- The flits that wait at a port, offered again in their order. -/
def pumpPort (x : SlinkPort) : SlinkPort := x.queued.foldl offerFlit { x with queued := [] }

/-- A CONTROL flit: its subtype (1 IDENT, 2 DELAY, 3 TIME, 4 HANDOVER) and what follows it (R206). -/
def controlFlit (subtype : Byte) (l : Bytes) : LinkFlit := { kind := 2, slots := [subtype :: l] }

/-- A list cut into pieces of four. -/
def inFours {α : Type} : Nat → List α → List (List α)
  | 0, _ => []
  | _, [] => []
  | n + 1, l => l.take 4 :: inFours n (l.drop 4)

/-- The DATA flits of a packet: consecutive slots, on into the next flit (R206); each packet begins a flit (assumption log 33). -/
def dataFlitsOf (k : Packet) : List LinkFlit := (inFours 2 (packetFlits k)).map (fun l => { kind := 0, vn := k.head.vn.toNat, slots := l })

/-- A packet given to a port by the mesh: sent while the port is UP; queued for hand-over while a port in HANDOVER waits for the last SEQ
delivered, and then relayed to the partner behind what was handed over (R211); a port that is down discards it, counted in STRAY. -/
def linkSend (p : Nat) (k : Packet) (s : State) : State :=
  let x := getSlink s p
  match x.state with
  | .up => (dataFlitsOf k).foldl (fun s f => sendFlit p f s) s
  | .handover => if x.relaying then (dataFlitsOf k).foldl (fun s f => sendFlit (partner p) f s) s
      else setSlink s p { x with queued := x.queued ++ dataFlitsOf k }
  | _ => countStray (portDie p) (slinkAt p) 1 s

/-- The swarm-link port through which packets of virtual network `v` from die `d` to an address of another node leave (R179, R180). -/
def exitPort (s : State) (v a : Nat) : Nat → Nat → Option Nat
  | 0, d => match legAt s v d a with
    | .port p => some p
    | _ => none
  | n + 1, d => match legAt s v d a with
    | .port p => some p
    | .die e => if dieShut s e then none else exitPort s v a n e
    | _ => none

/-- A packet for another node that leaves from router `r` of die `d` (R179): through the mesh and its swarm-link port; one with no way there is
discarded and counted. -/
def sendAway (d r : Nat) (k : Packet) (s : State) : State :=
  match exitPort s k.head.vn.toNat (routeAddr k.head) 3 d with
  | some p => linkSend p k (carry [{ die := d, router := r, port := 0, head := k.head, data := k.data.length }] s)
  | none => countStray d r 1 s

/-- The answer to a packet of another node (R175, R188). -/
def replyTo (d r : Nat) (h : PacketHeader) (cls : BitVec 4) (status : W16) (retry : Bool) (l : Bytes) (s : State) : State :=
  sendAway d r (answerPacket h cls status retry l) s

/-- The packets of an access to another node, put on the port that its route names (R179, R206): READ, or WRITE with its bytes. -/
def sendAccess (src : W32) (ctx : Nat) (write : Bool) (a n : Nat) (l : Bytes) (s : State) : State :=
  if addrNode a = s.swarm.node ∨ 2 ^ 48 ≤ a then s
  else ((piecesOf write a n).zip (upFrom 0 (n + 1))).foldl (fun s e =>
    match exitPort s 0 e.1.1 3 (field src 4 2) with
    | none => s
    | some p =>
      let h := makeHeader s (if write then 1 else 0) src e.1.1 ctx e.2 0 false
      linkSend p (if write then writePacket h (slice l (e.1.1 - a) e.1.2)
        else withCheck { head := h, operand := if e.1.2 = 256 then 0 else BitVec.ofNat 64 e.1.2 }) s) s

/-! ### Ports that train and that leave UP (R203, R204, R208, R211) -/

/-- A training attempt starts at DETECT, counted in TRAINS (R203, R232). -/
def startTraining (p : Nat) (s : State) : State :=
  let x := getSlink s p
  setSlink s p { x with state := .detect, laneLock := 0, retryWait := false, trains := satAdd x.trains 1,
                        trainsOvf := x.trainsOvf || satLost x.trains 1, replay := [], queued := [], rxPacket := [], delays := 0 }

/-- Whether the pattern group of a swarm-link port is enabled (R498, R500): while it is, the port does not train. -/
def portPattern (s : State) (p : Nat) : Bool := (getPat s (portDie p) (if p < 4 then 0 else 1)).enable

/-- A port brought up afresh, when it may train (R202, R203, R204, R500). -/
def bringUp (p : Nat) (s : State) : State :=
  let x := getSlink s p
  if expectedPort s p ∧ ¬ x.retired ∧ ¬ x.configuredOff ∧ ¬ x.noRetry ∧ ¬ portPattern s p then
    startTraining p (setSlink s p { x with failedAttempts := 0 })
  else s

/-- A port that goes down with nothing handed over. -/
def portOff (x : SlinkPort) : SlinkPort :=
  { x with state := .off, laneLock := 0, replay := [], queued := [], rxPacket := [], relaying := false }

/-- A port leaves UP (R208): HANDOVER when its partner is UP, over which it sends the SEQ of the last flit that it delivered (R211); else OFF,
with a partner that was itself in HANDOVER. -/
def leaveUp (p : Nat) (s : State) : State :=
  let x := getSlink s p
  let y := getSlink s (partner p)
  if x.state ≠ .up then s
  else if y.state = .up then
    sendFlit (partner p) (controlFlit 4 (toLE 2 (x.rxSeq - 1).toNat)) (setSlink s p { x with state := .handover, laneLock := 0 })
  else
    let s := setSlink s p (portOff x)
    if y.state = .handover then setSlink s (partner p) (portOff y) else s

/-! ### Signals on their way (R90, R177, R193, R198, R220) -/

/-- Address of the SET or ADD port of the fence at a fence address (R68), which a FENCE_SIGNAL names (assumption log 76). -/
def portOfFence (a : Nat) (add : Bool) : Nat :=
  swarmAddr (addrNode a) 5 ((if add then 0x01002100000 else 0x01002000000) + (addrLoc a - fenceBaseLoc))

/-- Where a packet is held on its way because the entry it needs is switched (R198): die and entry. -/
def heldAt (s : State) (v a : Nat) : Nat → Nat → Option (Nat × Nat)
  | 0, d => match legAt s v d a with
    | .refused c => if c = 0x2006 then some (d, routeIndex v a) else none
    | _ => none
  | n + 1, d => match legAt s v d a with
    | .refused c => if c = 0x2006 then some (d, routeIndex v a) else none
    | .die e => if dieShut s e then none else heldAt s v a n e
    | _ => none

/-- A fence signal on its way from unit `src`, where its route gives `code` (R188), its address the fence `fence` of this node, and its route
the swarm-link port `port`: it reaches the fence unit, or leaves through the port. It is held where the entry it needs is switched (R198), and
until the node is LOCKED when it leaves for another node (R220); a gated destination faults its context with 0x2005 (R193); otherwise, with no
way there, it is discarded and counted in STRAY (R215). -/
def signalOn (src : W32) (a : Nat) (add : Bool) (v : W64) (o : Origin) (ctx : W16) (s : State) (code : W16) (fence port : Option Nat) : State :=
  let die := field src 4 2
  let goal := portOfFence a add
  if addrNode a ≠ s.swarm.node ∧ ¬ s.swarm.locked then
    { s with net := { s.net with held := s.net.held ++ [{ die := die, entry := 128, addr := a, add := add, value := v, origin := o, ctx := ctx }] } }
  else if code = 0x2006 then
    let k := (heldAt s 2 goal 3 die).getD (die, routeIndex 2 goal)
    { s with net := { s.net with held := s.net.held ++ [{ die := k.1, entry := k.2, addr := a, add := add, value := v, origin := o, ctx := ctx }] } }
  else if code = 0x2005 then
    let n : Notice := { die := die, router := (unitAt src).1, port := 0, vn := 2, src := src, context := ctx, code := 0x2005 }
    faultCtx ctx.toNat { code := 0x2005, kind := 5, source := src, address := BitVec.ofNat 64 a } none (faultNotice n s)
  else if code ≠ 0 ∨ ¬ nodePresent s (addrNode a) then countStray die (unitAt src).1 1 s
  else match fence, port with
    | some i, _ => pushSignal { fence := i, add := add, value := v, origin := o, ctx := ctx } (carryOne 8 src ctx.toNat goal s)
    | none, some p => linkSend p (withCheck { head := makeHeader s 8 src goal ctx.toNat 0 0 false, operand := v }) (carryOne 8 src ctx.toNat goal s)
    | none, none => s

/-- A fence signal sent by a unit of this node, by its route (R90, R176). -/
def routeSignal (src : W32) (a : Nat) (add : Bool) (v : W64) (o : Origin) (ctx : W16) (s : State) : State :=
  let die := field src 4 2
  let goal := portOfFence a add
  signalOn src a add v o ctx s (pathStop s 2 goal 3 die).1 (fenceIndex s a) (exitPort s 2 goal 3 die)

/-- A signal sent by work of context `ctx` on unit `src` to a fence address: to the fence unit of this node, at once where the unit stands on
the Hive with it, or to another node. An address of this node in no fence sends none. -/
def sendSignal (src : W32) (a : Nat) (add : Bool) (v : W64) (o : Origin) (ctx : W16) (s : State) : State :=
  match fenceIndex s a with
  | some i => if field src 4 2 = 5 then pushSignal { fence := i, add := add, value := v, origin := o, ctx := ctx } s else routeSignal src a add v o ctx s
  | none => if addrNode a = s.swarm.node ∨ 2 ^ 48 ≤ a then s else routeSignal src a add v o ctx s

/-- The requester source id under which a signal of this node travels. -/
def originSrc (s : State) (die : Nat) : Origin → W32
  | .port src => src
  | .remote src => src
  | .cell d c => mkSrc s.swarm.node d 4 c 0
  | .region k _ => mkSrc s.swarm.node 4 10 k 0
  | _ => mkSrc s.swarm.node die (if die = 5 then 7 else 10) 0 0

/-- The held signals sent again, in their order (step 3 of R198, R220). -/
def releaseHeld (s : State) : State :=
  s.net.held.foldl (fun s h => sendSignal (originSrc s h.die h.origin) h.addr h.add h.value h.origin h.ctx s) { s with net := { s.net with held := [] } }

/-! ### The Keeper's own route switches (R196, R198, R211, R213) -/

/-- A list with the value at a place replaced in a table of route entries. -/
def putEntries (id : Nat) (t : Tbl W32) (l : Tbl W32) : Tbl W32 := l.foldl (fun t e => Tbl.set (blockDefault id e.1) t e.1 e.2) t

/-- The entries that the Keeper has staged for a die take effect (step 3 of R198). A host's staging copy follows where it had not changed the
entry, so that its own COMMIT does not undo them. -/
def applyInstall (d : Nat) (s : State) : State :=
  let id := routeId s d
  let b := getBlock s id
  let l := Tbl.get [] s.net.installs d
  let mine := l.filter (fun e => Tbl.get (blockDefault id e.1) b.staging e.1 == Tbl.get (blockDefault id e.1) b.inForce e.1)
  let s := setBlock s id { b with inForce := putEntries id b.inForce l, gen := b.gen + 1,
                                  staging := if b.holder.isSome then putEntries id b.staging mine else b.staging }
  { s with net := { s.net with installs := Tbl.set [] s.net.installs d [] } }

/-- The next switch that waits begins (R198); one of the Keeper's own ends where nothing is in the mesh under its entries. -/
def nextSwitch : Nat → State → State
  | 0, s => s
  | n + 1, s =>
    match s.net.waiting with
    | [] => { s with net := { s.net with switching := none } }
    | x :: l =>
      let s := { s with net := { s.net with switching := some x, waiting := l } }
      if 8 ≤ x ∧ drained s (x - 8) then nextSwitch n (applyInstall (x - 8) s) else s

/-- Entries that the Keeper stages and commits for a die, by drain-and-switch (R196, R213): at once where no switch runs in the package and
nothing is in the mesh under them, else when their turn comes. -/
def keeperRoutes (d : Nat) (l : Tbl W32) (s : State) : State :=
  let id := routeId s d
  let l := l.filter (fun e => e.2 != blockGet s id e.1)
  if l = [] then s
  else
    let s := { s with net := { s.net with installs := Tbl.set [] s.net.installs d (l.foldl (fun t e => Tbl.put t e.1 e.2) (Tbl.get [] s.net.installs d)) } }
    if s.net.switching == some (8 + d) || s.net.waiting.contains (8 + d) then s
    else
      let s := { s with net := { s.net with waiting := s.net.waiting ++ [8 + d] } }
      if s.net.switching.isNone then nextSwitch (s.net.waiting.length + 1) s else s

end Sys2Proof.Machine
end

