-- ==== Sys2Proof/Machine/Recover.lean ====
section
/-! DEFINITION. Context reset, die recovery and the fault events (chapter 11). -/

namespace Sys2Proof.Machine

/-- Cell `c` of Comb die `d`. -/
def getCell (s : State) (d c : Nat) : Cell := Tbl.get {} s.cmp.cells (32 * d + c)
/-- The state with a cell written. -/
def setCell (s : State) (d c : Nat) (x : Cell) : State := { s with cmp := { s.cmp with cells := Tbl.set {} s.cmp.cells (32 * d + c) x } }
/-- Collective slot by its number 16 × die + k. -/
def getColl (s : State) (n : Nat) : CollSlot := Tbl.get {} s.cmp.slots n
/-- The state with a collective slot written. -/
def setColl (s : State) (n : Nat) (x : CollSlot) : State := { s with cmp := { s.cmp with slots := Tbl.set {} s.cmp.slots n x } }
/-- Region `k`. -/
def getRegion (s : State) (k : Nat) : Region := Tbl.get {} s.frame.regions k
/-- The state with region `k` written. -/
def setRegion (s : State) (k : Nat) (x : Region) : State := { s with frame := { s.frame with regions := Tbl.set {} s.frame.regions k x } }
/-- Swarm address of a cell store. -/
def cellStore (s : State) (d c : Nat) : Nat := here s d (0x00800000000 + 0x200000 * c)
/-- Swarm address of a tile store. -/
def tileStore (s : State) (t : Nat) : Nat := here s 4 (0x00800000000 + 0x40000 * t)

/-! ### Collectives that fail (R229) -/

/-- The slots of this package that take part in the same arming of a collective as slot `n`, itself included. -/
def sameColl (s : State) (n : Nat) : Tbl CollSlot :=
  let x := getColl s n
  s.cmp.slots.filter (fun e => (e.2.state == .armed || e.2.state == .done) && e.2.collId == x.collId && e.2.members == x.members
    && e.2.arms == x.arms && (x.state == .armed || x.state == .done))

/-- A collective fails on every member slot of this package (R228, R229): FAILED with the code and MISSED, and each fence not yet
signalled poisoned. One that has signalled every fence here is left. -/
def collFailWith (n : Nat) (code missed : W16) (s : State) : State :=
  let l := sameColl s n
  if l.any (fun e => e.2.state == .armed) then
    l.foldl (fun s e =>
      let s := setColl s e.1 { e.2 with state := .failed, code := code, missed := missed, input := [], written := [], value0 := [], arrived := none }
      if e.2.state = .armed then
        match liveFence s e.2.fence.toNat with
        | some i => poison i code s
        | none => s
      else s) s
  else s

/-- A collective fails with a code (R229). -/
def collFail (n : Nat) (code : W16) (s : State) : State := collFailWith n code 0 s

/-- Whole parcels written into the input window of slot `n` from byte `off` (R222): a parcel written twice fails the collective. -/
def inputStore (n off : Nat) (l : Bytes) (s : State) : State :=
  (upFrom 0 (l.length / 256)).foldl (fun s i =>
    let x := getColl s n
    let p := off / 256 + i
    if x.state ≠ .armed then s
    else if Tbl.get false x.written p then collFail n 0x1006 s
    else setColl s n { x with input := putBytes 0 x.input (256 * p) (slice l (256 * i) 256), written := Tbl.set false x.written p true }) s

/-- A write that has passed its checks, to memory or to an input window. -/
def writeMem (a : Nat) (l : Bytes) (s : State) : State :=
  match collWindow s a with
  | some n => inputStore n (addrLoc a % 0x1000000) l s
  | none => memWrite s a l

/-! ### Context reset (R294-R297) -/

/-- The parcels of a store that a sample takes (R292): `n` of them from the one that holds ADDRESS, or from offset 0, round the store's end. -/
def sampleParcels (r : FaultRecord) (base size n : Nat) : List Nat :=
  let a := r.address.toNat
  let start := if base ≤ a ∧ a < base + size then (a - base) / 256 else 0
  (upFrom 0 n).map (fun i => base + 256 * ((start + i) % (size / 256)))

/-- Parcels as they are found, and SAMPLE_BAD, the first of them being sample parcel `k` (R291). -/
def copiedParcels (s : State) (k : Nat) (l : List Nat) : Bytes × W16 :=
  ((l.map (fun a => memRead s a 256)).flatten,
   BitVec.ofNat 16 (((upFrom 0 l.length).zip l).foldl (fun n e => n + (if Tbl.get false s.mem.bad (e.2 / 256) then 2 ^ (k + e.1) else 0)) 0))

/-- The sample of a faulting unit in 15 parcels, with SAMPLE_BAD (R292). How far an engine's list had come is not stated: its entries are free
values (assumption log 85). -/
def sampleOf (s : State) (r : FaultRecord) : Option (Bytes × W16) :=
  let die := field r.source 4 2
  let inst := field r.source 16 10
  if bitOf (policyPatience s) 16 then
    match srcUnit r.source with
    | 4 =>
      let v := ((upFrom 0 128).map (fun i => toLE 4 (Tbl.get 0 (getCell s die inst).v i).toNat)).flatten
      let l := copiedParcels s 3 (sampleParcels r (cellStore s die inst) 0x180000 13)
      some (v ++ l.1, l.2)
    | 5 => some ((upFrom 64 3840).map (freeB s), 0)
    | 6 => some (copiedParcels s 1 (sampleParcels r (tileStore s inst) 0x40000 15))
    | _ => none
  else none

/-- The record of a fault completed with its sample (R292, step 3 of R295). -/
def withSample (s : State) (r : FaultRecord) : FaultRecord :=
  match sampleOf s r with
  | some l => { r with sample := l.1, sampleBad := l.2, flags := setBit r.flags 3 true }
  | none => r

/-- Units of a context cleared (step 5 of R295); stores and memory are kept. -/
def clearUnits (id : Nat) (s : State) : State :=
  let c := s.cmp
  let ofCell := fun (x : Cell) => (x.job.map (fun j => j.ctx.toNat)).getD 1024 == id
  let ofQueue := fun (j : Option (Nat × Nat)) => match j with
    | some (q, _) => (getQueue s q).ctx.toNat == id
    | none => false
  { s with cmp := { c with
      cells := Tbl.mapAll {} (fun _ x => if ofCell x then { itemsDone := x.itemsDone } else x) c.cells,
      engines := Tbl.mapAll {} (fun _ x => if ofQueue x.job then { keysIn := x.keysIn, inserts := x.inserts } else x) c.engines,
      tiles := Tbl.mapAll {} (fun _ x => if ofQueue x.job then { itemsDone := x.itemsDone } else x) c.tiles } }

/-- Collective slots of a context: a collective that has not signalled every member fails with the code, and the slots are
cleared (step 5 of R295, R229). -/
def clearSlots (id : Nat) (code : W16) (s : State) : State :=
  (s.cmp.slots.filter (fun e => e.2.owner.toNat == id && e.2.state != .free)).foldl
    (fun s e => let s := collFail e.1 code s
                setColl s e.1 (if (getColl s e.1).state = .failed then getColl s e.1 else { arms := e.2.arms })) s

/-- Whether a signal on its way belongs to a context (step 2 of R295). -/
def signalOfCtx (id : Nat) (g : Signal) : Bool :=
  match g.origin with
  | .port _ => false
  | _ => g.ctx.toNat == id

/-- Whether a signal that a route switch holds belongs to a context. -/
def heldOfCtx (id : Nat) (g : HeldSignal) : Bool :=
  match g.origin with
  | .port _ => false
  | _ => g.ctx.toNat == id

/-- Signals of a context discarded at the fence unit, Hive router (3,0), those that a route switch holds among them, and counted in its STRAY. -/
def killSignals (id : Nat) (s : State) : State :=
  let n := (s.obj.signals.filter (signalOfCtx id)).length + (s.net.held.filter (heldOfCtx id)).length
  countStray 5 3 n { s with obj := { s.obj with signals := s.obj.signals.filter (fun g => !signalOfCtx id g) },
                            net := { s.net with held := s.net.held.filter (fun g => !heldOfCtx id g) } }

/-- The descriptor that lies in slot d of a queue's ring, as 64 bytes. -/
def ringBytes (s : State) (x : Queue) (d : Nat) : Bytes :=
  match resolve s x.ring with
  | some i => memRead s ((getMot s i).base + 64 * (d % 2 ^ x.log2)) 64
  | none => zeros 64

/-- The local signal fence that a descriptor names, when SIGNAL is valid. -/
def signalFence (s : State) (b : Bytes) : Option Nat :=
  if bitOf (byteAt b 1) 1 then liveFence s (leNat b 24 8) else none

/-- Fences that the descriptors submitted and not retired would have signalled (R296). -/
def queuedFences (s : State) (x : Queue) : List Nat :=
  let n := (x.holdMark - x.retired).toNat
  (x.inflight.filterMap (fun d => signalFence s d.bytes))
    ++ (upFrom x.startedCount.toNat (n - (x.startedCount - x.retired).toNat)).filterMap (fun d => signalFence s (ringBytes s x d))

/-- The poisoning of step 6 (R296). -/
def poisonCtx (id : Nat) (code : W16) (s : State) : State :=
  let own := s.obj.mot.filter (fun e => e.2.kind == 2 && e.2.owner.toNat == id)
  let qs := s.obj.queues.filter (fun e => e.2.live && e.2.ctx.toNat == id)
  let l := own.map (·.1) ++ (qs.map (fun e => (resolve s e.2.fence).toList ++ queuedFences s e.2)).flatten
  l.foldl (fun s i => poison i code s) s

/-- A queue freed (R88): its ring's REFS falls (an entry that no queue uses any more is a data object again, assumption
log 41), its id is free, and the destroy command ends. -/
def freeQueue (q : Nat) (s : State) : State :=
  let x := getQueue s q
  let s := setQueue s q {}
  let s := match resolve s x.ring with
    | some i =>
      let e := getMot s i
      setMot s i { e with refs := e.refs - 1, kind := if s.obj.queues.any (fun y => y.2.live && y.2.ring == x.ring) then e.kind else 1 }
    | none => s
  match x.destroy with
  | some (c, _) => finishCmd c 0 [] s
  | none => s

/-- What a queue of a reset context does at step 6 (R297). -/
def resetQueue (s : State) (q : Nat) : State :=
  let x := getQueue s q
  let y := { x with retired := x.holdMark, startedCount := x.holdMark, inflight := [], blocked := true, stopped := x.state == .halted,
                    state := if x.state = .hold then .ready else x.state }
  let s := setQueue s q y
  if x.state = .draining then freeQueue q s else s

/-- The object that an armed slot watches counts it in REFS no longer (R73). -/
def unwatch (x : Slot) (s : State) : State :=
  if x.state = .armed then
    match objectAt s x.watch.toNat 8 with
    | some (i, e) => setMot s i { e with refs := e.refs - 1 }
    | none => s
  else s

/-- Whether a context was created through mailbox `m` of this node (R70). -/
def madeBy (s : State) (m : Nat) (x : Ctx) : Bool := x.node == s.swarm.node && x.mailbox == m

/-- What the revoke of mailbox `m` does to a staged block that it holds (R61): a COMMIT not yet applied is applied without its CMD_DONE,
one already applied is complete, and a staging without one is discarded. -/
def revokeBlock (m : Nat) (b : StagedBlock) : StagedBlock :=
  if b.holder = some m then
    (if b.pending.isSome ∧ ¬ b.applied then { b with orphan := true }
     else { b with holder := none, staging := [], pending := none, applied := false })
  else b

/-- MBX_REVOKE completes when no context of the mailbox is left (R53): the mailbox is unbound, and its stagings go as R61 says. A freeze
lasts (R38). That its ring indices, its doorbell, its waiting events and its waiting request go with the binding is the model's choice:
DESIGN CHOICE, assumption log 75. -/
def finishRevoke (m : Nat) (s : State) : State :=
  let x := getMbx s m
  match x.revoking with
  | some c =>
    if s.obj.ctxs.any (fun e => e.2.live && madeBy s m e.2) then s
    else
      let s := setMbx s m
        { ringFault := x.ringFault, foreignWrites := x.foreignWrites, foreignOvf := x.foreignOvf, evtLost := x.evtLost, evtLostOvf := x.evtLostOvf, seq := x.seq }
      let s := { s with keeper := { s.keeper with blocks := Tbl.mapAll {} (fun _ b => revokeBlock m b) s.keeper.blocks } }
      finishCmd c 0 [] s
  | none => s

/-- CTX_DESTROY at its end (R54, R88, R97): every fence of the context not yet poisoned takes 0x2007, its queues and slots are
freed, and its objects leave the table. -/
def destroyCtx (c : Nat) (s : State) : State :=
  let x := getCtx s c
  let id := ctxId s c
  let s := clearUnits id (clearSlots id 0x2007 (killSignals id s))
  let own := fun (e : Nat × MotEntry) => e.2.kind != 0 && e.2.owner.toNat == id
  let s := ((s.obj.mot.filter (fun e => own e && e.2.kind == 2)).map (·.1)).foldl (fun s i => poison i 0x2007 s) s
  let s := ((s.obj.queues.filter (fun e => e.2.live && e.2.ctx.toNat == id)).map (·.1)).foldl (fun s q => freeQueue q s) s
  let s := (s.obj.slots.filter (fun e => e.2.ctx == some (BitVec.ofNat 16 id))).foldl (fun s e => setSlot (unwatch e.2 s) e.1 {}) s
  let s := ((s.obj.mot.filter own).map (·.1)).foldl (fun s i => freeMot i s) s
  let s := x.done.foldl (fun s k => finishCmd k 0 [] s) (setCtx s c {})
  finishRevoke x.mailbox s

/-- CONTEXT_RESET (R295): steps 2 to 7 of a context that is RESETTING (one whose mailbox is being revoked is then destroyed), or
the destroy of one that is DESTROYING. -/
def contextReset (c : Nat) (s : State) : State :=
  let x := getCtx s c
  match x.live, x.state, x.fault with
  | true, .destroying, _ => destroyCtx c s
  | true, .resetting, some r =>
    let id := ctxId s c
    let r := withSample s r
    let s := killSignals id s
    let s := clearUnits id (clearSlots id r.code s)
    let s := poisonCtx id r.code s
    let s := ((s.obj.queues.filter (fun e => e.2.live && e.2.ctx.toNat == id)).map (·.1)).foldl resetQueue s
    let i := nextIndex s
    let s := recordOf x.counted r s
    let f := s.faults
    let s := { s with faults := { f with ctxResets := satAdd f.ctxResets 1, ctxOvf := f.ctxOvf || satLost f.ctxResets 1 } }
    let s := lifeCount 10 s
    let next := if x.node = s.swarm.node ∧ (getMbx s x.mailbox).revoking.isSome then CtxState.destroying else .idle
    let s := setCtx s c { x with state := next, fault := none, counted := none, done := [] }
    let s := sendMaker x 0xE003 (faultPayload (BitVec.ofNat 16 id) r.code i) s
    x.done.foldl (fun s k => finishCmd k 0 [] s) s
  | _, _, _ => s

def execContextReset (c : Nat) (s : State) : Host.Outcome State Fault Refusal :=
  inRange (decide (c < 256)) (contextReset c s)

/-! ### Die recovery (R298, R289) -/

/-- Whether context `c` has work on a die (R298). -/
def workOnDie (s : State) (c d : Nat) : Bool :=
  let id := ctxId s c
  s.obj.queues.any (fun e => e.2.live && e.2.ctx.toNat == id && e.2.inflight.any (fun x => !x.finished &&
      ((byteAt x.bytes 0 == 1 && x.units.any (fun u => u / 32 == d)) || (byteAt x.bytes 0 == 3 && x.units.any (fun u => u / 8 == d))
        || (byteAt x.bytes 0 == 4 && d == 4))))
    || s.obj.mot.any (fun e => e.2.kind ≠ 0 && e.2.owner.toNat == id && addrDie e.2.base == d)
    || (upFrom 0 16).any (fun p => bitOf s.boot.started p && srcOfCtx s (partSrc s p) c
        && (upFrom 0 4).any (fun k => bitOf (s.boot.opt.parts.getD p {}).cores (4 * d + k)))

/-- Live contexts of this node. -/
def liveCtxs (s : State) : List Nat := s.obj.ctxs.filterMap (fun e => if e.2.live then some e.1 else none)

/-- A die's collectives fail with 0x5007 (R229). -/
def dieCollFail (d : Nat) (s : State) : State :=
  (s.cmp.slots.filter (fun e => e.1 / 16 == d)).foldl (fun s e => collFail e.1 0x5007 s) s

/-- Die recovery starts (R298): ports leave UP, every context with work on the die is reset with 0x5007, the die's own
record is written, and one event is counted against the die. -/
def startRecovery (d : Nat) (first : Option W16) (cmds : List CmdRef) (s : State) : State :=
  if d < 5 ∧ (getDie s d).state = .inService then
    let s := (portsOfDie d).foldl (fun s p => leaveUp p s) s
    let work := (liveCtxs s).filter (fun c => workOnDie s c d)
    let first := match first, work with
      | some id, _ => id
      | none, c :: _ => BitVec.ofNat 16 (ctxId s c)
      | none, [] => 0
    let s := { s with faults := { s.faults with dies := Tbl.set {} s.faults.dies d { state := .recovering, firstCtx := first, cmds := cmds } } }
    let s := dieCollFail d s
    work.foldl (fun s c => faultCtx (ctxId s c) { code := 0x5007, kind := 12, source := keeperSrc s } none s) s
  else match (getDie s d).state with
    | .recovering => { s with faults := { s.faults with dies := Tbl.modify {} s.faults.dies d (fun x => { x with cmds := x.cmds ++ cmds }) } }
    | _ => s

/-- CONTEXT_RESET_DRAIN_TIMEOUT (R298): the drain on a reachable die has not ended. -/
def execContextResetDrainTimeout (c die : Nat) (s : State) : Host.Outcome State Fault Refusal :=
  inRange (decide (c < 256 ∧ die < 5)) (if (getCtx s c).live ∧ inReset (getCtx s c)
    then startRecovery die (some (BitVec.ofNat 16 (ctxId s c))) [] s else s)

/-- Regions BLANK and ingest channels disabled, as a Frame die returns from recovery or is retired (R289, R298). -/
def blankFrame (s : State) : State :=
  { s with frame := { s.frame with
      regions := Tbl.mapAll {} (fun _ r => { r with state := .blank, open_ := false, outstanding := [], tgt := [] }) s.frame.regions,
      channels := Tbl.mapAll {} (fun _ c => { c with enable := false, buffer := none, discarding := false, streaming := false }) s.frame.channels,
      cfg := { s.frame.cfg with load := none, frames := [], startAt := none } } }

/-- Units of a die reset: registers and accumulators are lost, stores kept. -/
def clearDie (d : Nat) (s : State) : State :=
  { s with cmp := { s.cmp with
      cells := Tbl.mapAll {} (fun k x => if k / 32 = d then { itemsDone := x.itemsDone } else x) s.cmp.cells,
      engines := Tbl.mapAll {} (fun k x => if k / 8 = d then { keysIn := x.keysIn, inserts := x.inserts } else x) s.cmp.engines,
      tiles := if d = 4 then Tbl.mapAll {} (fun _ x => { itemsDone := x.itemsDone }) s.cmp.tiles else s.cmp.tiles,
      slots := Tbl.mapAll {} (fun k x => if k / 16 = d then {} else x) s.cmp.slots } }

/-- Every object placed on a die filled with zeros and valid checks, and its owners' records marked CONTENT_LOST (R298). -/
def loseContent (d : Nat) (s : State) : State :=
  let objs := (s.obj.mot.filter (fun e => e.2.kind ≠ 0 && addrDie e.2.base == d && e.2.place == 0)).map (·.2)
  let inObj := fun (a : Nat) => objs.any (fun o => o.base ≤ a && a < o.base + motBytes o)
  let owners := objs.map (fun o => o.owner)
  { s with
    mem := { bytes := s.mem.bytes.filter (fun e => !inObj e.1), bad := s.mem.bad.filter (fun e => !inObj (256 * e.1)) },
    faults := { s.faults with log := s.faults.log.map (fun r =>
      if r.code = 0x5007 ∧ owners.contains r.context then { r with flags := setBit r.flags 6 true } else r) } }

/-- A failing parcel found as the recovered die's memory is read (R283, R298). -/
def badParcel (d : Nat) (s : State) (p : Nat) : State :=
  let a := here s d (256 * p)
  let s := { s with mem := { s.mem with bad := Tbl.set false s.mem.bad (a / 256) true } }
  recordCounted (resourceId 3 ((s.swarm.node * 4 + d) * 2 ^ 23 + p / 16))
    { code := 0x5001, kind := 1, flags := 1, action := 6, source := keeperSrc s, address := BitVec.ofNat 64 a } s

/-- DIE_RECOVERY (R298): the die returns to service within 1,500 ms, or stays down when the recovery retires it (R288). -/
def dieRecovery (d : Nat) (refreshOk : Bool) (failing : List Nat) (s : State) : State :=
  let x := getDie s d
  if x.state = .recovering ∧ (liveCtxs s).all (fun c => ¬ inReset (getCtx s c) ∨ ¬ workOnDie s c d) then
    let s := clearDie d s
    let s := if refreshOk ∨ d = 4 then s else loseContent d s
    let s := if d < 4 then failing.foldl (fun s p => badParcel d s p) s else blankFrame s
    let i := nextIndex s
    let res := resourceId 4 (s.swarm.node * 6 + d)
    let s := recordCounted res { code := 0x5007, kind := 12, flags := 1, action := 3, context := x.firstCtx, source := keeperSrc s } s
    let f := s.faults
    let st := if f.retired.contains res then DieState.retired else .inService
    let s := { s with faults := { f with
      dieRecoveries := satAdd f.dieRecoveries 1, dieOvf := f.dieOvf || satLost f.dieRecoveries 1,
      dies := Tbl.set {} f.dies d { state := st } } }
    let s := lifeCount 11 s
    let s := (portsOfDie d).foldl (fun s p => bringUp p s) s
    let s := sendOwner 0xE003 (faultPayload 0 0x5007 i) s
    x.cmds.foldl (fun s c => finishCmd c 0 [] s) s
  else s

/-! ### Events that fault or count (R283-R288) -/

/-- Resource of the unit that a source id names (R288). -/
def unitResource (src : W32) : Option W32 :=
  let die := field src 4 2
  let inst := field src 16 10
  match srcUnit src with
  | 4 => some (resourceId 0 (srcNode src * 128 + die * 32 + inst))
  | 5 => some (resourceId 1 (srcNode src * 32 + die * 8 + inst))
  | 6 => some (resourceId 2 (srcNode src * 96 + inst))
  | _ => none

/-- LPDDR_CHECK_FAIL (R283): the second read checks, or the requester receives 0x5001. -/
def lpddrCheckFail (src : W32) (ctx : W16) (addr : BitVec 48) (secondOk : Bool) (s : State) : State :=
  let a := addr.toNat
  let d := addrDie a
  if addrNode a = s.swarm.node ∧ rangeOf s d (addrLoc a) = .lpddr then
    let res := resourceId 3 ((s.swarm.node * 4 + d) * 2 ^ 23 + addrLoc a / 4096)
    let r : FaultRecord := { code := 0x5001, kind := 1, source := src, context := ctx, address := BitVec.ofNat 64 a, action := 6 }
    if secondOk then recordCounted res { r with flags := 2 } s
    else
      let s := { s with mem := { s.mem with bad := Tbl.set false s.mem.bad (a / 256) true } }
      if 4 ≤ srcUnit src ∧ srcUnit src ≤ 7 ∨ srcUnit src = 10 then faultCtx ctx.toNat r (some res) s
      else
        let s := { s with keeper := { s.keeper with rsp := { status := 0x5001 } } }
        recordCounted res (if srcUnit src = 2 then { r with kind := 11 } else r) s
  else s

def execLpddrCheckFail (src : W32) (ctx : W16) (addr : BitVec 48) (secondOk : Bool) (s : State) : Host.Outcome State Fault Refusal :=
  inRange true (lpddrCheckFail src ctx addr secondOk s)

/-- The context that a unit works for. -/
def unitCtx (s : State) (unitKind die inst : Nat) : Option W16 :=
  let ofQ := fun (j : Option (Nat × Nat)) => j.map (fun q => (getQueue s q.1).ctx)
  match unitKind with
  | 4 => (getCell s die inst).job.map (fun j => j.ctx)
  | 5 => ofQ (Tbl.get {} s.cmp.engines (8 * die + inst)).job
  | 6 => ofQ (Tbl.get {} s.cmp.tiles inst).job
  | _ => none

/-- RESIDUE_MISMATCH (R285): `unitKind` is the UNIT code of R174 (4 cell, 5 engine, 6 tile), or 0 for collective slot `inst`
of a die. -/
def residueMismatch (unitKind die inst : Nat) (expected found : Byte) (s : State) : State :=
  let r : FaultRecord := { code := 0x5002, kind := 2, expected := expected.zeroExtend 64, found := found.zeroExtend 64 }
  if unitKind = 0 then
    let n := 16 * die + inst
    let x := getColl s n
    if x.state = .armed then
      let owners := (sameColl s n).map (fun e => e.2.owner.toNat)
      owners.foldl (fun s o => faultCtx o { r with source := mkSrc s.swarm.node die 0 0 0 } none s) (collFail n 0x5002 s)
    else s
  else
    match unitCtx s unitKind die inst with
    | some c =>
      let src := mkSrc s.swarm.node die unitKind inst 0
      let x := getCell s die inst
      let r := if unitKind = 4 then { r with pc := x.pc.zeroExtend 32, item := x.item.zeroExtend 32, numctl := x.numctl,
                                             sregs := (upFrom 1 16).map (Tbl.get 0 x.s) } else r
      faultCtx c.toNat { r with source := src } (unitResource src) s
    | none => s

def execResidueMismatch (unitKind die inst : Nat) (expected found : Byte) (s : State) : Host.Outcome State Fault Refusal :=
  inRange (decide ((unitKind = 0 ∧ die < 4 ∧ inst < 16) ∨ (unitKind = 4 ∧ die < 4 ∧ inst < 32) ∨ (unitKind = 5 ∧ die < 4 ∧ inst < 8)
    ∨ (unitKind = 6 ∧ die = 4 ∧ inst < 96))) (residueMismatch unitKind die inst expected found s)

/-- Hang patience of a context in ms (R286). -/
def patienceOf (s : State) (c : Nat) : Nat :=
  let p := (getCtx s c).patience.toNat
  if p = 0 then field (policyPatience s) 15 0 else p

/-- The unit a hung descriptor is charged to: the first of its units that still works (assumption log 9). -/
def hungUnit (s : State) (x : Desc) : W32 :=
  match x.units.head? with
  | none => mkSrc s.swarm.node 5 7 0 0
  | some u => match (byteAt x.bytes 0).toNat with
    | 1 => mkSrc s.swarm.node (u / 32 % 4) 4 (u % 32) 0
    | 3 => mkSrc s.swarm.node (u / 8 % 4) 5 (u % 8) 0
    | _ => mkSrc s.swarm.node 4 6 u 0

/-- The hang of one queue's descriptors at a tick. -/
def hangQueue (s : State) (q : Nat) : State :=
  let x := getQueue s q
  match localCtx s x.ctx.toNat, x.inflight.find? (fun d => decide (patienceOf s (x.ctx.toNat % 256) < s.keeper.tick - d.started)) with
  | some c, some d =>
    if x.live ∧ ¬ inReset (getCtx s c) then
      let src := hungUnit s d
      faultCtx x.ctx.toNat { code := 0x5003, kind := 3, source := src, queue := BitVec.ofNat 16 q, descriptor := d.num }
        (unitResource src) s
    else s
  | _, _ => s

/-- Member global die ids of a MASK, ascending (R226). -/
def collMembers (x : CollSlot) : List Nat := (upFrom 0 16).filter (bitOf x.members)

/-- The children that position `i` of `p` absorbs, in the order of the levels (R226). -/
def collChildren (p i : Nat) : List Nat :=
  (upFrom 0 4).filterMap (fun l => if i % 2 ^ (l + 1) = 0 ∧ i + 2 ^ l < p then some (i + 2 ^ l) else none)

/-- The position that absorbs position `i` above 0. -/
def collParent (i : Nat) : Nat := ((upFrom 0 4).find? (fun l => i % 2 ^ (l + 1) ≠ 0)).map (fun l => i - 2 ^ l) |>.getD 0

/-- Position of slot `n` among its members. -/
def collPos (s : State) (n : Nat) (x : CollSlot) : Nat := ((collMembers x).filter (fun m => decide (m < s.swarm.node * 4 + n / 16))).length

/-- The tree partners of slot `n`, as global die ids. -/
def collPartners (s : State) (n : Nat) (x : CollSlot) : List Nat :=
  let ms := collMembers x
  let i := collPos s n x
  (collChildren ms.length i ++ (if i = 0 then [] else [collParent i])).map (fun j => ms.getD j 0)

/-- Whether every tree partner's join has been matched (R225). -/
def joinsDone (s : State) (n : Nat) (x : CollSlot) : Bool := (collPartners s n x).all (fun m => x.joined.contains m)

/-- The hang of one collective slot that waits for its partners' joins at a tick (R225). -/
def hangSlot (s : State) (n : Nat) : State :=
  let x := getColl s n
  match localCtx s x.owner.toNat with
  | some c =>
    if x.state = .armed ∧ ¬ joinsDone s n x ∧ patienceOf s c < s.keeper.tick - x.armedAt ∧ ¬ inReset (getCtx s c) then
      faultCtx x.owner.toNat { code := 0x5003, kind := 3, source := mkSrc s.swarm.node (n / 16) 7 0 0 } none s
    else s
  | none => s

/-- HANG_DETECT (R286, R225): at a management tick, every descriptor or join wait older than its context's patience hangs the
context. -/
def execHangDetect (s : State) : Host.Outcome State Fault Refusal :=
  inRange true ((s.cmp.slots.map (·.1)).foldl hangSlot ((s.obj.queues.map (·.1)).foldl hangQueue s))

/-- A pair of dies with a die link, the lower first (R173). -/
def dieLink (a b : Nat) : Bool := a < b && linked a b

/-- A die retired because no module of a link of it remains (R289): the loss starts its recovery (R298), which resets the contexts with work on it,
and it stays down; a DIE_RECOVER that waits for it ends with 0x2001. -/
def retireDie (d : Nat) (s : State) : State :=
  let res := resourceId 4 (s.swarm.node * 6 + d)
  let s := startRecovery d none [] s
  let cmds := (getDie s d).cmds
  let s := { s with faults := { s.faults with
    retired := if s.faults.retired.contains res then s.faults.retired else res :: s.faults.retired,
    dies := Tbl.modify {} s.faults.dies d (fun x => { x with state := .retired, cmds := [] }) } }
  cmds.foldl (fun s c => finishCmd c 0x2001 [] s) (if d = 4 then blankFrame s else s)

/-- UCIE_RETRAIN (R288, R289): one event of the module, with a record; where no module remains, one die is retired. -/
def ucieRetrain (a b m : Nat) (s : State) : State :=
  let idx := s.swarm.node * 64 + (a * 6 + b) * 2
  let s := recordCounted (resourceId 5 (idx + m)) { code := 0x5008, kind := 7, flags := 1, action := 4, source := keeperSrc s } s
  if isRetired s 5 idx ∧ isRetired s 5 (idx + 1) then retireDie (if b = 5 then a else b) s else s

def execUcieRetrain (dieA dieB modul : Nat) (s : State) : Host.Outcome State Fault Refusal :=
  inRange (dieLink dieA dieB && decide (modul < 2)) (ucieRetrain dieA dieB modul s)

end Sys2Proof.Machine
end

