-- ==== Sys2Proof/Machine/FrameDie.lean ====
section
/-! DEFINITION. The Frame die: region ports, tile ports and sensor ingest (chapter 09). -/

namespace Sys2Proof.Machine

/-! ### Writes and reads by a unit -/

/-- The context that a requester's packets name (R175). -/
def reqCtx : Requester → Nat
  | .unit c _ _ => c
  | _ => 0

/-- The packets of an access, with its answer: through the meshes of this package, and on a swarm link where it is for another node (R175,
R179). -/
def sendPackets (r : Requester) (src : W32) (write : Bool) (a n : Nat) (l : Bytes) (c : W16) (s : State) : State :=
  let t := if reachCheck s r a n = 0 then sendAccess src (reqCtx r) write a n l s else s
  carryAccess src (reqCtx r) write a n c (retryOne s r c a) t

/-- The effect of a write by a requester: checked under R74, merged only into a parcel whose check verifies (R141, R282), and handled under
R78 when it is rejected. The status is 0 when the bytes were written. -/
def takeWrite (r : Requester) (src : W32) (a : Nat) (l : Bytes) (s : State) : State × W16 :=
  let c := accessCheck s r a l.length true
  if countedRefusal s c a then (refusedWrite src a l.length (creatorAt s a l.length) s, c)
  else if c ≠ 0 then (noticeDomain s r a, c)
  else if (parcelsOf a l.length).any (fun p => Tbl.get false s.mem.bad p && !(wholeParcels a l.length).contains p)
  then (failedRead src 0 a l.length s, 0x5001)
  else (writeMem a l s, 0)

/-- A write by a requester through the network. -/
def unitWrite (r : Requester) (src : W32) (a : Nat) (l : Bytes) (s : State) : State × W16 :=
  let (t, c) := takeWrite r src a l s
  (sendPackets r src true a l.length l c t, c)

/-- The effect of a read by a requester, checked under R74; the flag says whether the parcels' checks verified. -/
def takeRead (r : Requester) (a n : Nat) (s : State) : State × W16 × Bytes × Bool :=
  let c := accessCheck s r a n false
  if c ≠ 0 then (noticeDomain s r a, c, [], true) else (s, 0, memRead s a n, checksOk s a n)

/-- A read by a requester through the network. -/
def unitRead (r : Requester) (src : W32) (a n : Nat) (s : State) : State × W16 × Bytes × Bool :=
  let (t, c, l, ok) := takeRead r a n s
  (sendPackets r src false a n [] (if c = 0 ∧ ¬ ok then 0x5001 else c) t, c, l, ok)

/-! ### Region windows (R240, R276) -/

/-- Whether a network requester belongs to the family of a region's context (R240); of a context of another node that is a
free value (assumption log 3). -/
def tgtAllowed (s : State) (k : Nat) (h : PacketHeader) : Bool :=
  match localCtx s (getRegion s k).bindContext.toNat with
  | none => false
  | some c =>
    if 4 ≤ srcUnit h.src then
      (match localCtx s h.context.toNat with
       | some d => (getCtx s d).mailbox == (getCtx s c).mailbox && (getCtx s d).node == (getCtx s c).node
       | none => bitOf (freeW s 6) 0)
    else srcUnit h.src == 0 || srcOfCtx s h.src c

/-- The status with which the port's router or the port answers a window request, or 0 when it is presented on TGT. -/
def tgtStatus (s : State) (k : Nat) (h : PacketHeader) : W16 :=
  match (getRegion s k).state with
  | .blank | .failed => 0x2001
  | .draining | .loading | .held => 0x2006
  | .running => if ¬ (getRegion s k).bindValid then 0x2001 else if ¬ tgtAllowed s k h then 0x4001 else 0

/-- A core or function of this package that waits. -/
def ofHost : TgtOwner → Bool
  | .host _ => true
  | _ => false

/-- A request presented on TGT for an owner, or answered at once (R240). -/
def tgtPresent (k : Nat) (h : PacketHeader) (owner : TgtOwner) (write : Bool) (beats : BitVec 4) (data : Bytes) (s : State) : State :=
  let x := getRegion s k
  let c := tgtStatus s k h
  if c ≠ 0 then setRegion s k { x with tgtAnswer := some (h.src, c, []) }
  else setRegion s k { x with tgt := x.tgt ++ [{ src := h.src, context := h.context, write := write, beats := beats,
                                                 offset := h.dest.toNat % 0x20000000, data := data, owner := owner }] }

/-- TGT_REQUEST (R240): a request that the network delivers into the window. -/
def tgtRequest (k : Nat) (h : PacketHeader) (write : Bool) (beats : BitVec 4) (data : Bytes) (s : State) : State :=
  tgtPresent k h (.net h) write beats data s

def execTgtRequest (k : Nat) (h : PacketHeader) (write : Bool) (beats : BitVec 4) (data : Bytes) (s : State) :
    Host.Outcome State Fault Refusal := inRange (decide (k < 7)) (tgtRequest k h write beats data s)

/-- The region of this node whose window holds `n` bytes at an address (R64, R240). -/
def windowAt (s : State) (a n : Nat) : Option Nat :=
  if addrNode a ≠ s.swarm.node ∨ 2 ^ 48 ≤ a ∨ n = 0 then none
  else match rangeOf s (addrDie a) (addrLoc a) with
    | .window k => if rangeOf s (addrDie (a + n - 1)) (addrLoc (a + n - 1)) = .window k then some k else none
    | _ => none

/-- Quarters of a parcel that `n` bytes from `a` touch, as REQ_BEATS and TGT_BEATS mark them. -/
def beatsOf (a n : Nat) : BitVec 4 :=
  (upFrom 0 4).foldl (fun b q => setBit b q (decide (a % 256 / 64 ≤ q ∧ q ≤ (a % 256 + n - 1) / 64))) 0

/-- The next step of a unit's access to a region window (R240): where the network reaches it, the next parcel is presented on TGT. The status is
0, or what the request is answered with instead. -/
def windowStep (k : Nat) (r : Requester) (src : W32) (owner : TgtOwner) (write : Bool) (a n : Nat) (l : Bytes) (j : WindowJob) (s : State) :
    State × WindowJob × W16 :=
  if j.code ≠ 0 then (s, j, j.code)
  else if j.asked ∨ n ≤ j.done then (s, j, 0)
  else
    let b := a + j.done
    let m := min (256 - b % 256) (n - j.done)
    let h := makeHeader s (if write then 1 else 0) src b (reqCtx r) 0 0 false
    let c := if reachCheck s r b m ≠ 0 then reachCheck s r b m else tgtStatus s k h
    if c ≠ 0 then (noticeDomain s r b, j, c)
    else (tgtPresent k h owner write (beatsOf b m) (slice l j.done m) (carryAccess src (reqCtx r) write b m 0 false s), { j with asked := true }, 0)

/-- The oldest TGT request that has had no answer, marked late. -/
def markLate : List TgtPending → Option (TgtPending × List TgtPending)
  | [] => none
  | q :: l => if q.late then (markLate l).map (fun r => (r.1, q :: r.2)) else some (q, { q with late := true } :: l)

/-! ### Region ports (R235-R242) -/

/-- STIME as the port of region `k` presents it (R242): swarm time, or the last value while the node is not LOCKED. -/
def presentedTime (s : State) (k : Nat) : W64 := if s.swarm.locked then s.swarm.time else (getRegion s k).stime

/-- Source id of region `k`'s ports (R236). -/
def regionSrc (s : State) (k : Nat) : W32 := mkSrc s.swarm.node 4 10 k 0

/-- Quarters that REQ_BEATS marks, ascending. -/
def quarters (b : BitVec 4) : List Nat := (upFrom 0 4).filter (bitOf b)

/-- The status at once of a request (R238, R235, R236, R242, R246), or 0; `fence` says that the port is the region port, which has SET and ADD
and tags of its own. -/
def portAtOnce (s : State) (k : Nat) (r : RegionRequest) (fence : Bool) : W16 :=
  let x := getRegion s k
  let n := x.bindContext.toNat
  if fence ∧ x.outstanding.any (fun p => p.tag == r.tag) then 0x1003
  else if r.addr.toNat % (if r.op.toNat < 3 then 256 else 8) ≠ 0 then 0x100A
  else if (r.op.toNat < 3 ∧ r.beats = 0) ∨ (r.op.toNat = 2 ∧ r.beats ≠ 15) ∨ 4 < r.op.toNat ∨ (3 ≤ r.op.toNat ∧ ¬ fence) then 0x1006
  else if ¬ x.open_ then 0x2006
  else if ¬ x.bindValid then 0x4001
  else if n / 256 ≠ s.swarm.node then (if nodePresent s (n / 256) then 0x4001 else 0x5008)
  else if localCtx s n = none then 0x4001
  else if 3 ≤ r.op.toNat ∧ ¬ s.swarm.locked then 0x6004
  else 0

/-- An answer to come of a port. -/
def portPending (r : RegionRequest) (c : W16) (d : Bytes) (check : W32) (ok : Bool) : PortPending :=
  { tag := r.tag, status := c, data := d, checkOk := ok, check := check }

/-- A request that waits to be sent again (R189, R241). -/
def portAgain (r : RegionRequest) : PortPending := { tag := r.tag, status := 0, data := [], checkOk := false, check := 0, ready := false, again := some r }

/-- The requester that a port of region `k` is (R235). -/
def portWho (s : State) (k : Nat) : Requester := .unit (getRegion s k).bindContext.toNat false 4

/-- A write of a port; `net` says that it passes through the network. -/
def portPut (net : Bool) (k a : Nat) (l : Bytes) (s : State) : State × W16 :=
  if net then unitWrite (portWho s k) (regionSrc s k) a l s else takeWrite (portWho s k) (regionSrc s k) a l s

/-- The answer of a port's write from the state `s`. An answer with RETRY 1 has it sent again (R189). -/
def portDone (k : Nat) (r : RegionRequest) (s : State) (p : State × W16) : State × PortPending :=
  if retryOne s (portWho s k) p.2 r.addr.toNat then (p.1, portAgain r)
  else (if p.2 = 0 then setRegion p.1 k { getRegion p.1 k with parcelsOut := (getRegion p.1 k).parcelsOut + 1 } else p.1, portPending r p.2 [] 0 true)

/-- The answer of a port's READ (R238). -/
def portRead (k : Nat) (r : RegionRequest) (s : State) (p : State × W16 × Bytes × Bool) : State × PortPending :=
  let (t, c, d, ok) := p
  let a := r.addr.toNat
  let data := if c = 0 then ((quarters r.beats).map (fun q => slice d (64 * q) 64)).flatten else []
  if retryOne s (portWho s k) c a then (t, portAgain r)
  else (if c = 0 ∧ ¬ ok then failedRead (regionSrc s k) ((getRegion s k).bindContext.zeroExtend 16) a 256 t else t,
    portPending r c data (if ok then crc32c d else (freeW s 5).truncate 32) ok)

/-- A port's WRITE: a whole parcel, or the quarters that REQ_BEATS marks (R238). -/
def portPutAll (net : Bool) (k : Nat) (r : RegionRequest) (s : State) : State × W16 :=
  let a := r.addr.toNat
  let qs := quarters r.beats
  if qs.length = 4 then portPut net k a (slice r.data 0 256) s
  else (upFrom 0 qs.length).foldl (fun p i => if p.2 = 0 then portPut net k (a + 64 * qs.getD i 0) (slice r.data (64 * i) 64) p.1 else p) (s, (0 : W16))

/-- The effect of a READ, WRITE or WRITE_PASS of a port and its answer (R238, R239). -/
def portAccess (net : Bool) (k : Nat) (r : RegionRequest) (s : State) : State × PortPending :=
  let a := r.addr.toNat
  match r.op.toNat with
  | 0 => portRead k r s (if net then unitRead (portWho s k) (regionSrc s k) a 256 s else takeRead (portWho s k) a 256 s)
  | 1 => portDone k r s (portPutAll net k r s)
  | _ =>
    if crc32c (slice r.data 0 256) ≠ r.check then (s, portPending r 0x5001 [] 0 true)
    else portDone k r s (portPut net k a (slice r.data 0 256) s)

/-- A SET or ADD of a region port to an address of this node, in a fence or in none: sent where the fence is of the context's family, else
refused and counted (R74, R78). -/
def portSignalHere (k : Nat) (r : RegionRequest) (sent s : State) : Option Nat → State × PortPending
  | some i =>
    if inFamily s (getRegion s k).bindContext.toNat i then (sent, { portPending r 0 [] 0 true with ready := false })
    else (violation (regionSrc s k) r.addr.toNat (creatorAt s r.addr.toNat 8) s, portPending r 0x4001 [] 0 true)
  | none => (violation (regionSrc s k) r.addr.toNat none s, portPending r 0x4001 [] 0 true)

/-- The effect of a SET or ADD of a region port (R238, R241): a signal, whose answer is what the fence unit makes of it. -/
def portSignal (k : Nat) (r : RegionRequest) (s : State) : State × PortPending :=
  let who := portWho s k
  let a := r.addr.toNat
  let sent := sendSignal (regionSrc s k) a (decide (r.op = 4)) (r.value.zeroExtend 64) (.region k r.tag) ((getRegion s k).bindContext.zeroExtend 16) s
  let c := reachCheck s who a 8
  if retryOne s who c a then (noticeDomain s who a, portAgain r)
  else if addrNode a ≠ s.swarm.node then (if c = 0 then sent else s, portPending r (accessCheck s who a 8 true) [] 0 true)
  else portSignalHere k r sent s (liveFence s a)

/-- A request of a region port to the window of a region (R240): presented on TGT, or answered. -/
def portWindow (k j : Nat) (r : RegionRequest) (s : State) : State × PortPending :=
  let who := portWho s k
  let a := r.addr.toNat
  let h := makeHeader s (if r.op = 0 then 0 else 1) (regionSrc s k) a (reqCtx who) 0 0 false
  let c := if reachCheck s who a 256 ≠ 0 then reachCheck s who a 256 else tgtStatus s j h
  if r.op.toNat = 2 ∧ crc32c (slice r.data 0 256) ≠ r.check then (s, portPending r 0x5001 [] 0 true)
  else if retryOne s who c a then (noticeDomain s who a, portAgain r)
  else if c ≠ 0 then (s, portPending r c [] 0 true)
  else (tgtPresent j h (.port k r.tag) (r.op != 0) r.beats r.data s, { portPending r 0 [] 0 true with ready := false })

/-- Whether a write of region port `k` with a tag stands on TGT of a window. -/
def writeOnTgt (s : State) (k : Nat) (tag : BitVec 6) : Bool :=
  s.frame.regions.any (fun e => e.2.tgt.any (fun q => q.write && !q.late && q.owner == .port k tag))

/-- Whether an earlier request of the port holds this one back (R241): a write still to be sent, before a SET or ADD or to the same parcel; a
write not yet answered by user logic of a window, before a SET or ADD. -/
def portBehind (s : State) (k : Nat) (r : RegionRequest) : Bool :=
  ((getRegion s k).outstanding.takeWhile (fun p => p.tag != r.tag)).any (fun p => match p.again with
    | some q => 3 ≤ r.op.toNat || q.addr.toNat / 256 == r.addr.toNat / 256
    | none => 3 ≤ r.op.toNat && writeOnTgt s k p.tag)

/-- The effect of a READ, WRITE or WRITE_PASS of a region port, to a region's window or not. -/
def portParcel (k : Nat) (r : RegionRequest) (s : State) : Option Nat → State × PortPending
  | some j => portWindow k j r s
  | none => portAccess true k r s

/-- The effect of an accepted request of a region port and its answer (R238, R239, R241). -/
def portEffect (k : Nat) (r : RegionRequest) (s : State) : State × PortPending :=
  if portBehind s k r then (s, portAgain r)
  else if 3 ≤ r.op.toNat then portSignal k r s
  else portParcel k r s (windowAt s r.addr.toNat 256)

/-- REGION_PORT_REQUEST: answered at once, or accepted with its response to come; a port that holds 64 requests takes none. -/
def regionPortRequest (k : Nat) (r : RegionRequest) (s : State) : State :=
  if 64 ≤ (getRegion s k).outstanding.length then s
  else
    let c := portAtOnce s k r true
    if c ≠ 0 then setRegion s k { getRegion s k with lastRsp := some { tag := r.tag, status := c } }
    else
      let (s, p) := portEffect k r s
      setRegion s k { getRegion s k with outstanding := (getRegion s k).outstanding ++ [p] }

def execRegionPortRequest (k : Nat) (r : RegionRequest) (s : State) : Host.Outcome State Fault Refusal :=
  inRange (decide (k < 7)) (regionPortRequest k r s)

/-- The answer of an outstanding request as it comes in: from the fence unit, from user logic of a window, or when it is sent again. -/
def portAnswered (k : Nat) (tag : BitVec 6) (f : PortPending → PortPending) (s : State) : State :=
  let x := getRegion s k
  setRegion s k { x with outstanding := x.outstanding.map (fun p => if p.tag = tag then f p else p) }

/-- The response to a request whose answer has come, given to user logic. -/
def portRespond (k : Nat) (p : PortPending) (s : State) : State :=
  let x := getRegion s k
  setRegion s k { x with
    outstanding := x.outstanding.filter (fun q => q.tag != p.tag),
    lastRsp := some { tag := p.tag, status := p.status, data := p.data, check := p.check, checkOk := p.checkOk } }

/-- REGION_PORT_RESPONSE (R238, R189): the response to the request with `tag`; one that was answered with RETRY 1 is sent again. -/
def regionPortResponse (k : Nat) (tag : BitVec 6) (s : State) : State :=
  match (getRegion s k).outstanding.find? (fun p => p.tag == tag) with
  | none => s
  | some p => match p.again with
    | some r =>
      let (t, q) := portEffect k r s
      let t := portAnswered k tag (fun _ => q) t
      if q.ready then portRespond k q t else t
    | none => if p.ready then portRespond k p s else s

def execRegionPortResponse (k : Nat) (tag : BitVec 6) (s : State) : Host.Outcome State Fault Refusal :=
  inRange (decide (k < 7)) (regionPortResponse k tag s)

/-- TILE_PORT_ACCESS (R246): a READ, WRITE or WRITE_PASS in the tile stores of the row, not through the network; one that meets a waking tile
group is sent again (R189). -/
def tilePortAccess (k row : Nat) (r : RegionRequest) (s : State) : State :=
  let a := r.addr.toNat
  let c := portAtOnce s k r false
  let rsp := fun (s : State) (p : PortResponse) => setRegion s k { getRegion s k with lastRsp := some p }
  if c ≠ 0 then rsp s { tag := r.tag, status := c }
  else if a < tileStore s (8 * row) ∨ tileStore s (8 * row + 8) < a + 256 then rsp s { tag := r.tag, status := 0x1006 }
  else
    let (s, p) := portAccess false k r s
    if p.ready then rsp s { tag := r.tag, status := p.status, data := p.data, check := p.check, checkOk := p.checkOk } else s

def execTilePortAccess (k row : Nat) (r : RegionRequest) (s : State) : Host.Outcome State Fault Refusal :=
  inRange (decide (1 ≤ k ∧ k < 7 ∧ (row = 2 * (k - 1) ∨ row = 2 * k - 1))) (tilePortAccess k row r s)

/-! ### The answers of user logic on TGR (R240) -/

/-- The quarters of an answer at their places in the parcel. -/
def placeQuarters (b : BitVec 4) (l : Bytes) : Bytes :=
  (upFrom 0 4).flatMap (fun q => if bitOf b q then slice l (64 * ((quarters b).takeWhile (fun p => p < q)).length) 64 else zeros 64)

/-- A window access whose parcel has been answered. -/
def windowAnswered (status : W16) (l : Bytes) (j : WindowJob) : WindowJob :=
  if status ≠ 0 then { j with asked := false, code := status }
  else { j with asked := false, done := j.done + 256, got := j.got ++ l }

/-- The answer of a direct access as its core or function sees it (R66): the bytes it asked for, once every parcel of it is answered. -/
def hostAnswered (q : TgtPending) (status : W16) (l : Bytes) (s : State) : State :=
  let r := s.keeper.rsp
  let more := s.frame.regions.any (fun e => e.2.tgt.any (fun t => ofHost t.owner && !t.late && t.src == q.src))
  asSeen q.src { s with keeper := { s.keeper with rsp :=
      { status := if r.waiting ∧ r.status ≠ 0 then r.status else status, data := (if r.waiting then r.data else []) ++ l, waiting := more } } }

/-- The GET or PUT of a cell whose parcel has been answered. -/
def dmaAnswered (q : TgtPending) (status : W16) (l : Bytes) : List Dma → List Dma
  | [] => []
  | d :: ds =>
    if d.win.asked ∧ d.isGet ≠ q.write ∧ (d.addr + d.win.done) % 0x20000000 = q.offset then { d with win := windowAnswered status l d.win } :: ds
    else d :: dmaAnswered q status l ds

/-- The COPY whose parcel has been answered. -/
def copyAnswered (n : W32) (write : Bool) (status : W16) (l : Bytes) (x : Queue) : Queue :=
  { x with inflight := x.inflight.map (fun e =>
      if e.num ≠ n then e
      else if write then { e with winWrite := windowAnswered status [] e.winWrite }
      else { e with winRead := windowAnswered status l e.winRead }) }

/-- The answer of a TGT request, given to the requester that waits for it (R240, R175). -/
def tgtAnswered (k : Nat) (q : TgtPending) (status : W16) (data : Bytes) (s : State) : State :=
  let l := if q.write ∨ status ≠ 0 then [] else data
  let s := setRegion s k { getRegion s k with tgtAnswer := some (q.src, status, l) }
  match q.owner with
  | .net h =>
    if srcNode h.src = s.swarm.node then s
    else replyTo 4 (regionAt k).1 h (if status ≠ 0 then 6 else if q.write then 5 else 4) status false (if l = [] then [] else placeQuarters q.beats l) s
  | .host n => hostAnswered q status (if l = [] then [] else slice l (q.offset % 64) n) s
  | .port j tag => portAnswered j tag (fun p => { p with
      status := status, data := l, check := if l.length = 256 then crc32c l else (freeW s 5).truncate 32, checkOk := true, ready := true }) s
  | .cell d c => let x : Cell := Tbl.get {} s.cmp.cells (32 * d + c)
    { s with cmp := { s.cmp with cells := Tbl.set {} s.cmp.cells (32 * d + c) { x with dma := dmaAnswered q status l x.dma } } }
  | .copy n d => setQueue s n (copyAnswered d q.write status l (getQueue s n))

/-- TGR_ANSWER (R240): the oldest request is answered; the late answer to one that the timeout answered has no effect. -/
def tgrAnswer (k : Nat) (status : W16) (data : Bytes) (s : State) : State :=
  let x := getRegion s k
  match x.tgt with
  | [] => s
  | q :: rest =>
    let t := setRegion s k { x with tgt := rest }
    if q.late then t else tgtAnswered k q status data t

/-- TGT_TIMEOUT (R240): answered 0x5003 and counted. -/
def tgtTimeout (k : Nat) (s : State) : State :=
  let x := getRegion s k
  match markLate x.tgt with
  | none => s
  | some (q, l) => tgtAnswered k q 0x5003 [] (setRegion s k { x with
      tgt := l, tgtTimeouts := satAdd x.tgtTimeouts 1, tgtTimeoutsOvf := x.tgtTimeoutsOvf || satLost x.tgtTimeouts 1 })

/-! ### Sensor ingest (R254-R261) -/

/-- Channel `c`. -/
def getChan (s : State) (c : Nat) : Channel := Tbl.get {} s.frame.channels c
/-- The state with channel `c` written. -/
def setChan (s : State) (c : Nat) (x : Channel) : State := { s with frame := { s.frame with channels := Tbl.set {} s.frame.channels c x } }

/-- The checks of setting ENABLE (R254): 0, or the code the REG_WRITE is answered with; what a fence of another node answers is a free one of
its codes (assumption log 3). -/
def ingestCheck (s : State) (c : Nat) (x : Channel) : W16 :=
  let n := x.bind.toNat
  if x.bufCount.toNat < 2 ∨ 4096 < x.bufCount.toNat ∨ x.bufParcels.toNat < 2 ∨ (c < 16 ∧ x.stride = 0) ∨ (16 ≤ c ∧ x.flush = 0)
     ∨ 6 < x.region.toNat then 0x1006
  else match resolve s x.ring with
    | none => 0x1004
    | some i =>
      let e := getMot s i
      if e.kind ≠ 1 ∨ ¬ bitOf e.perm 1 ∨ e.size < x.bufCount.toNat * x.bufParcels.toNat then 0x1004
      else if localCtx s n = none ∨ permCheck s (.unit n false 4) e.base 256 true ≠ 0 then 0x4001
      else if addrNode x.fence.toNat ≠ s.swarm.node then pickStatus s 3 [0, 0x1006, 0x1004, 0x4001]
      else match liveFence s x.fence.toNat with
        | none => 0x1004
        | some f => if inFamily s n f then 0 else 0x4001

/-- A buffer's address (R255). -/
def bufferBase (s : State) (x : Channel) (b : Nat) : Option Nat :=
  (resolve s x.ring).map (fun i => (getMot s i).base + b * x.bufParcels.toNat * 256)

/-- Source id of the ingest (R174). -/
def ingestSrc (s : State) : W32 := mkSrc s.swarm.node 4 11 0 0

/-- An ingest write (R255, UNIT 11, BIND.CONTEXT): the parcels that it touches get the checks that the ingest has made from its receive buffer,
and none is verified (R259, R282). -/
def ingestWrite (c : Nat) (off : Nat) (l : Bytes) (b : Nat) (s : State) : State :=
  match bufferBase s (getChan s c) b with
  | none => s
  | some base =>
    let a := base + off
    let who := Requester.unit (getChan s c).bind.toNat false 4
    let code := accessCheck s who a l.length true
    let t := if countedRefusal s code a then refusedWrite (ingestSrc s) a l.length (creatorAt s a l.length) s
      else if code ≠ 0 then noticeDomain s who a
      else writeMem a l { s with mem := { s.mem with bad := (parcelsOf a l.length).foldl (fun t p => Tbl.set false t p false) s.mem.bad } }
    sendPackets who (ingestSrc s) true a l.length l code t

/-- The header parcel of R256. -/
def headerBytes (c : Nat) (x : Channel) (b : OpenBuffer) (flags : Byte) (last : W64) : Bytes :=
  let h := toLE 2 c ++ [if c < 16 then 1 else 2, flags] ++ toLE 4 x.filled.toNat ++ toLE 8 b.first.toNat ++ toLE 8 last.toNat
    ++ toLE 4 b.bytes ++ toLE 4 b.units ++ toLE 4 x.droppedSince ++ toLE 2 b.frameNo.toNat ++ [b.vc, b.dt.getD 0]
    ++ toLE 4 b.badCount ++ toLE 4 b.firstBad.toNat ++ toLE 4 b.eccFixed
  slice h 0 256

/-- A buffer completed (R255): the header written last, FILLED, and the channel's fence raised by ADD 1. -/
def completeBuffer (c : Nat) (incomplete : Bool) (s : State) : State :=
  let x := getChan s c
  match x.buffer with
  | none => s
  | some b =>
    let flags := b.flags ||| (if incomplete then 4 else 0) ||| (if x.droppedSince ≠ 0 then 8 else 0)
    let s := ingestWrite c 0 (headerBytes c x b flags b.last) b.index s
    let s := setChan s c { x with buffer := none, filled := x.filled + 1, droppedSince := 0 }
    sendSignal (ingestSrc s) x.fence.toNat true 1 .unit (x.bind.zeroExtend 16) s

/-- A frame dropped (R257, R258, R260). -/
def dropFrame (c : Nat) (s : State) : State :=
  let x := getChan s c
  setChan s c { x with drops := satAdd x.drops 1, dropsOvf := x.dropsOvf || satLost x.drops 1, droppedSince := x.droppedSince + 1,
                       discarding := decide (c < 16) }

/-- Whether a buffer is free (R255). -/
def bufferFree (x : Channel) : Bool := decide ((x.filled - x.released).toNat < x.bufCount.toNat)

/-- A free buffer opened. -/
def openBuffer (c : Nat) (frameNo : W16) (vc : Nat) (s : State) : State :=
  let x := getChan s c
  setChan s c { x with
    discarding := false,
    buffer := some { index := x.filled.toNat % x.bufCount.toNat, first := s.swarm.time, last := s.swarm.time, frameNo := frameNo, vc := BitVec.ofNat 8 vc } }

/-- A packet of another virtual channel (R257). -/
def countOther (c : Nat) (s : State) : State :=
  let x := getChan s c
  setChan s c { x with other := satAdd x.other 1, otherOvf := x.otherOvf || satLost x.other 1 }

/-- One bad line or frame counted (R257, R258). -/
def countBad (c : Nat) (s : State) : State :=
  let x := getChan s c
  let y := { x with badUnits := satAdd x.badUnits 1, badUnitsOvf := x.badUnitsOvf || satLost x.badUnits 1 }
  setChan s c { y with buffer := y.buffer.map (fun b => { b with
    badCount := b.badCount + 1, flags := b.flags ||| 2,
    firstBad := if b.firstBad = 0xFFFFFFFF then BitVec.ofNat 32 b.units else b.firstBad }) }

/-- One corrected packet header counted. -/
def countEccFixed (c : Nat) (s : State) : State :=
  let x := getChan s c
  setChan s c { x with buffer := x.buffer.map (fun b => { b with eccFixed := b.eccFixed + 1 }) }

/-! ### ING (R261); the shape of its beats is the model's where R261 does not give it (assumption log 77) -/

/-- A beat that marks the start or the end of a stream and carries no data. -/
def ingMark (x : Channel) (b : IngBeat) : Channel := { x with beats := (if b.sof then [] else x.beats) ++ [b], parcel := [], streaming := !b.eof }

/-- One beat of data, with ING_CHECK on the fourth of a parcel. -/
def ingBeat (line : Bool) (x : Channel) (l : Bytes) : Channel :=
  let p := x.parcel ++ l
  { x with beats := x.beats ++ [{ data := l, lineStart := line, check := if p.length = 256 then some (crc32c p) else none }],
           parcel := if p.length = 256 then [] else p }

/-- A line or record streamed: beats of 64 bytes, the last filled with zeros. -/
def ingData (line : Bool) (l : Bytes) (x : Channel) : Channel :=
  let y := (upFrom 0 ((l.length + 63) / 64)).foldl (fun x i => ingBeat (line && i == 0) x (slice l (64 * i) 64)) x
  { y with streamed := y.streamed + l.length }

/-- A stream that ends: with ING_EOF, and ING_ABORT where it is cut short. -/
def ingEnd (abort : Bool) (x : Channel) : Channel := if x.streaming then ingMark x { data := [], eof := true, abort := abort } else x

/-- Whether the 64 KiB receive buffer fills because user logic holds ING_READY low: a free value (assumption log 77). -/
def ingFull (s : State) : Bool := bitOf (freeW s 9) 0

/-- The region that a channel streams to takes data. -/
def ingOpen (s : State) (x : Channel) : Bool := (getRegion s x.region.toNat).state == .running

/-- FRAME_START (R257, R260, R261): what is open is completed with INCOMPLETE, and the frame opens a free buffer or a stream, or is dropped. -/
def frameStart (c : Nat) (vc : BitVec 4) (frameNo : W16) (corrected : Bool) (s : State) : State :=
  let x := getChan s c
  if ¬ x.enable then s
  else if vc ≠ x.vc then countOther c s
  else
    let s := completeBuffer c true (setChan s c (ingEnd true x))
    let x := getChan s c
    if ¬ s.swarm.locked then dropFrame c s
    else if x.toRegion then
      if ingOpen s x then setChan s c { ingMark x { data := [], sof := true, time := some s.swarm.time } with discarding := false }
      else dropFrame c s
    else if bufferFree x then when corrected (countEccFixed c) (openBuffer c frameNo vc.toNat s)
    else dropFrame c s

def execFrameStart (c : Nat) (vc : BitVec 4) (frameNo : W16) (corrected : Bool) (s : State) : Host.Outcome State Fault Refusal :=
  inRange (decide (c < 16)) (frameStart c vc frameNo corrected s)

/-- The open buffer's flags with TRUNCATED set. -/
def setTruncated (c : Nat) (s : State) : State :=
  setChan s c { getChan s c with buffer := (getChan s c).buffer.map (fun b => { b with flags := b.flags ||| 1 }) }

/-- A line written at its stride (R257). -/
def writeLine (c : Nat) (p : CameraPacket) (b : OpenBuffer) (s : State) : State :=
  let x := getChan s c
  let stride := 64 * x.stride.toNat
  let off := 256 + b.units * stride
  if 256 * x.bufParcels.toNat < off + stride then setTruncated c s
  else
    let s := ingestWrite c off (if p.crcOk then slice (p.payload.take stride) 0 stride else zeros stride) b.index s
    let s := if p.crcOk ∧ stride < p.payload.length then setTruncated c s else s
    let s := if p.crcOk then s else countBad c s
    setChan s c { getChan s c with buffer := (getChan s c).buffer.map (fun b => { b with
      units := b.units + 1, bytes := b.bytes + stride, last := s.swarm.time, dt := some (b.dt.getD p.dt) }) }

/-- A line streamed to the region (R261): as R257 lays it out, without padding; or the rest of the frame discarded. -/
def streamLine (c : Nat) (p : CameraPacket) (s : State) : State :=
  let x := getChan s c
  if ingFull s then dropFrame c (setChan s c (ingEnd true x))
  else
    let l := p.payload.take (64 * x.stride.toNat)
    let s := setChan s c (ingData true (if p.crcOk then l else zeros l.length) x)
    if p.crcOk then s else countBad c s

/-- LONG_PACKET (R257). -/
def longPacket (c : Nat) (p : CameraPacket) (s : State) : State :=
  let x := getChan s c
  if ¬ x.enable then s
  else if p.headerOk ∧ p.vc ≠ x.vc then countOther c s
  else if x.discarding then s
  else if ¬ p.headerOk then countBad c s
  else
    let s := when p.corrected (countEccFixed c) s
    match (getChan s c).buffer with
    | some b => writeLine c p b s
    | none => if x.streaming then streamLine c p s else s

def execLongPacket (c : Nat) (p : CameraPacket) (s : State) : Host.Outcome State Fault Refusal :=
  inRange (decide (c < 16)) (longPacket c p s)

/-- FRAME_END (R257): T_LAST, and the buffer is completed; or the stream ends. -/
def frameEnd (c : Nat) (p : CameraEnd) (s : State) : State :=
  let x := getChan s c
  if ¬ x.enable then s
  else if p.vc ≠ x.vc then countOther c s
  else
    let s := setChan s c { ingEnd false x with discarding := false, buffer := x.buffer.map (fun b => { b with last := s.swarm.time }) }
    completeBuffer c false (when p.corrected (countEccFixed c) s)

def execFrameEnd (c : Nat) (p : CameraEnd) (s : State) : Host.Outcome State Fault Refusal :=
  inRange (decide (c < 16)) (frameEnd c p s)

/-- ENABLE cleared (R259): an open buffer is completed with INCOMPLETE, a stream ends, and the channel stops. -/
def stopChannel (c : Nat) (s : State) : State :=
  let s := completeBuffer c true (setChan s c (ingEnd true (getChan s c)))
  setChan s c { getChan s c with enable := false, discarding := false, streaming := false }

/-- An Ethernet record: the 64-byte header and the frame padded to 64 bytes (R258). -/
def etherRecord (s : State) (c : Nat) (frame : Bytes) (fcsOk : Bool) : Bytes :=
  let n := (frame.length + 63) / 64 * 64
  slice (toLE 8 s.swarm.time.toNat ++ toLE 2 frame.length ++ [BitVec.ofNat 8 (c - 16), if fcsOk then 0 else 1]) 0 64
    ++ (if fcsOk then slice frame 0 n else zeros n)

/-- ETHERNET_FRAME_RECEIVE (R258, R260). -/
def ethernetFrameReceive (c : Nat) (frame : Bytes) (fcsOk : Bool) (s : State) : State :=
  let x := getChan s c
  if ¬ x.enable ∨ 1522 < frame.length then s
  else if ¬ s.swarm.locked then dropFrame c s
  else if x.toRegion then
    if ¬ ingOpen s x then dropFrame c s
    else
      let y := ingMark x { data := [], sof := true, time := some s.swarm.time }
      if ingFull s then dropFrame c (setChan s c (ingEnd true y))
      else
        let s := setChan s c (ingEnd false (ingData false (etherRecord s c frame fcsOk) y))
        if fcsOk then s else countBad c s
  else
    let r := etherRecord s c frame fcsOk
    let room := fun (b : OpenBuffer) => decide (256 + b.bytes + r.length ≤ 256 * x.bufParcels.toNat)
    let s := match x.buffer with
      | some b => if room b then s else completeBuffer c false s
      | none => s
    let s := if (getChan s c).buffer.isNone ∧ bufferFree (getChan s c) then openBuffer c 0 0 s else s
    match (getChan s c).buffer with
    | none => dropFrame c s
    | some b =>
      if ¬ room b then s
      else
        let s := ingestWrite c (256 + b.bytes) r b.index s
        let s := if fcsOk then s else countBad c s
        setChan s c { getChan s c with buffer := (getChan s c).buffer.map (fun b => { b with
          units := b.units + 1, bytes := b.bytes + r.length, last := s.swarm.time }) }

def execEthernetFrameReceive (c : Nat) (frame : Bytes) (fcsOk : Bool) (s : State) : Host.Outcome State Fault Refusal :=
  inRange (decide (16 ≤ c ∧ c < 20)) (ethernetFrameReceive c frame fcsOk s)

/-- INGEST_FLUSH_TIMER (R258). -/
def execIngestFlushTimer (c : Nat) (s : State) : Host.Outcome State Fault Refusal :=
  inRange (decide (16 ≤ c ∧ c < 20)) (completeBuffer c false s)

/-- A count taken by RELEASED, or ignored (R255). -/
def takeReleased (c : Nat) (v : W32) (s : State) : State :=
  let x := getChan s c
  if (v - x.released).toNat ≤ (x.filled - x.released).toNat then setChan s c { x with released := v } else setChan s c { x with badRelease := true }

/-- INGEST_RELEASED_WRITE (R254, R255). -/
def ingestReleasedWrite (src : W32) (c : Nat) (v : W32) (s : State) : State :=
  let x := getChan s c
  let ok : Bool := match localCtx s x.bind.toNat with
    | some k => srcOfCtx s src k
    | none => false
  if ¬ ok then refuseWrite src (here s 4 (0x01000200000 + 0x100 * c + 0x20)) none 0x4001 s
  else takeReleased c v (answer 0 [] s)

def execIngestReleasedWrite (src : W32) (c : Nat) (v : W32) (s : State) : Host.Outcome State Fault Refusal :=
  inRange (decide (c < 20)) (ingestReleasedWrite src c v s)

end Sys2Proof.Machine
end

