-- ==== Sys2Proof/Machine/Fences.lean ====
section
/-! DEFINITION. Fence ports and the fence unit (R90, R91), waits (R93, R300) and fence-monitor slots (R94-R96, R101). -/

namespace Sys2Proof.Machine

/-! ### Signals (R90, R91) -/

/-- The word that a waiter sees at a fence address (R93): a local fence's word; for a member that was lost, a word poisoned with
0x5005 (R300); for another node, a free value. -/
def waitWord (s : State) (a : Nat) : W64 :=
  if addrNode a ≠ s.swarm.node ∧ bitOf s.swarm.lost (addrNode a) then
    BitVec.ofNat 64 (2 ^ 63 + 0x5005 * 2 ^ 48 + (freeW s 3).toNat % 2 ^ 48)
  else match fenceIndex s a with
    | some i => fenceWord s i
    | none => freeW s 3

/-- What a signal naming a fence address is answered before it is sent (R90, R66): outside the family, or no live fence, 0x4001;
what another node answers is its own affair. -/
def signalCheck (s : State) (r : Requester) (ctx a : Nat) : W16 :=
  let c := reachCheck s r a 8
  if c ≠ 0 then c
  else if addrNode a ≠ s.swarm.node then 0
  else match liveFence s a with
    | some i => if inFamily s ctx i then 0 else 0x4001
    | none => 0x4001

/-- The check of an address that a descriptor or a cell program waits on (R63, R507): outside the swarm address space 0x1006; of a member
that was lost, none, for the wait is then released (R300); on this node it lies in a live fence of the family, or 0x1004. -/
def waitCheck (s : State) (r : Requester) (ctx a : Nat) : W16 :=
  if 2 ^ 48 ≤ a then 0x1006
  else if addrNode a ≠ s.swarm.node ∧ bitOf s.swarm.lost (addrNode a) then 0
  else if reachCheck s r a 8 ≠ 0 ∨ addrNode a ≠ s.swarm.node then accessCheck s r a 8 false
  else match liveFence s a with
    | some i => if inFamily s ctx i then 0 else 0x1004
    | none => 0x1004

/-- A write to a fence port (R68, R90): one aligned 8-byte write is a signal; any other size is answered 0x100A. -/
def fencePort (src : W32) (i size : Nat) (v : W64) (add : Bool) (s : State) : State :=
  if size ≠ 8 then answer 0x100A [] s
  else pushSignal { fence := i, add := add, value := v, origin := .port src } (answer 0 [] s)

def execFenceSetPort (src : W32) (i size : Nat) (v : W64) (s : State) : Host.Outcome State Fault Refusal :=
  inRange (decide (i < 65536)) (fencePort src i size v false s)

def execFenceAddPort (src : W32) (i size : Nat) (v : W64) (s : State) : Host.Outcome State Fault Refusal :=
  inRange (decide (i < 65536)) (fencePort src i size v true s)

/-- Whether a source is bound to the mailbox that a CREATOR byte names (R74, R90); what a mailbox of another node is bound to is free. -/
def boundTo (s : State) (creator : Byte) (src : W32) : Bool :=
  if field creator 1 0 = s.swarm.node then (getMbx s (field creator 6 2)).bound == some src else bitOf (freeW s 6) 0

/-- Whether a signal comes from the fence's family (R90): a source of its mailbox, or a unit at work for a context of the family. -/
def fromFamily (s : State) (g : Signal) : Bool :=
  match g.origin with
  | .port src => boundTo s (getMot s g.fence).creator src
  | .remote src => if srcUnit src = 2 ∨ srcUnit src = 3 then boundTo s (getMot s g.fence).creator src else inFamily s g.ctx.toNat g.fence
  | _ => inFamily s g.ctx.toNat g.fence

/-- Source id of a signal's sender, for R78. -/
def signalSrc (s : State) (g : Signal) : W32 :=
  match g.origin with
  | .port src => src
  | .remote src => src
  | .cell d c => mkSrc s.swarm.node d 4 c 0
  | .region k _ => regionSrc s k
  | _ => mkSrc s.swarm.node 5 7 0 0

/-- What a rejected signal does to its sender (R91, R83, R78); a region port answers its request with the code (R238). -/
def signalRejected (g : Signal) (code : W16) (s : State) : State :=
  match g.origin with
  | .port _ => answer code [] s
  | .descriptor q d => haltQueue q d code none s
  | .completion q => haltQueue q 0xFFFFFFFF code none s
  | .cell d c =>
    let x := getCell s d c
    let s := setCell s d c { x with state := .faulted }
    faultCtx g.ctx.toNat { code := code, kind := 5, source := mkSrc s.swarm.node d 4 c 0, address := BitVec.ofNat 64 (fenceAddr s g.fence),
                           pc := x.pc.zeroExtend 32, item := x.item.zeroExtend 32, numctl := x.numctl, sregs := (upFrom 1 16).map (Tbl.get 0 x.s) } none s
  | .region k tag => portAnswered k tag (fun p => { p with status := code, ready := true }) s
  | .unit => s
  | .remote _ => s

/-- Whether the fence unit may take a signal: a node that is not LOCKED signals no fence until it is (R26, R220); what other nodes signal is
taken. -/
def signalDue (s : State) (g : Signal) : Bool :=
  s.swarm.locked || match g.origin with
    | .remote _ => true
    | _ => false

/-- The fence unit applies the signal that arrived first (R91). -/
def fenceSignal (s : State) : State :=
  match s.obj.signals.find? (signalDue s) with
  | none => s
  | some g =>
    let s := { s with obj := { s.obj with signals := s.obj.signals.eraseP (signalDue s) } }
    let e := getMot s g.fence
    let creator := if e.kind = 2 then ownCreator s e else none
    let count := violation (signalSrc s g) (fenceAddr s g.fence) creator
    if e.kind ≠ 2 ∨ ¬ fromFamily s g then signalRejected g 0x4001 (count s)
    else
      let (t, code) := applySignal g.fence g.add g.value s
      if code ≠ 0 then
        match g.origin with
        | .port _ => signalRejected g code (count t)
        | .remote _ => signalRejected g code (count t)
        | _ => signalRejected g code t
      else
        let node := match g.origin with
          | .port src => srcNode src
          | .remote src => srcNode src
          | _ => field g.ctx 9 8
        let t := setMot t g.fence { getMot t g.fence with signalled := setBit (getMot t g.fence).signalled node true }
        match g.origin with
        | .region k tag => portAnswered k tag (fun p => { p with ready := true }) t
        | _ => t

/-! ### Fence-monitor slots (R94-R96, R101) -/

/-- The watched word as the slot observes it. -/
def watchedWord (s : State) (x : Slot) : W64 :=
  if x.plain then (if addrNode x.watch.toNat = s.swarm.node then BitVec.ofNat 64 (memNat s x.watch.toNat 8) else freeW s 3)
  else waitWord s x.watch.toNat

/-- The interrupt target of a context (R488). -/
def irqTarget (s : State) (ctx : W16) : Option W32 :=
  match localCtx s ctx.toNat with
  | some c =>
    let x := getCtx s c
    if x.vf ≠ 0 then some (mkSrc s.swarm.node 5 3 0 x.vf)
    else if x.node = s.swarm.node then (getMbx s x.mailbox).bound else none
  | none => none

/-- Swarm address of slot `k`'s registers (R68). -/
def slotAddr (s : State) (k : Nat) : Nat := here s 5 (0x01004000000 + 32 * k)

/-- A record that names a slot and a code, as ARM or firing fails (R95, R96): the slot is named by its register address. -/
def slotRecord (k : Nat) (ctx : W16) (code : W16) (s : State) : State :=
  let i := nextIndex s
  let s := record { code := code, context := ctx, kind := 5, action := 6, source := mkSrc s.swarm.node 5 8 0 0,
                    address := BitVec.ofNat 64 (slotAddr s k) } s
  match localCtx s ctx.toNat with
  | some c => sendMaker (getCtx s c) 0xE003 (faultPayload ctx code i) s
  | none => s

/-- A write of a slot rejected for permission or a lock is counted under R78. -/
def violationIf (code : W16) (src : W32) (a : Nat) (s : State) : State :=
  if countedRefusal s code a then violation src a (creatorAt s a 8) s else s

/-- Slot `k` fires with word `w` (R96): the notification is written, then the interrupt is raised, then the state changes; a
notification that is rejected leaves a record and FIRED_ERROR. -/
def fireSlot (k : Nat) (w : W64) (to_ : SlotState) (s : State) : State :=
  let x := getSlot s k
  let ctx := x.ctx.getD 0
  let n := x.notify.toNat
  let code := if n = 0 then 0 else accessCheck s (.unit ctx.toNat false 5) n 8 true
  let s := unwatch x s
  let s := if code ≠ 0 then slotRecord k ctx code (violationIf code (mkSrc s.swarm.node 5 8 0 0) n s)
    else if n = 0 then s else memWrite s n (toLE 8 w.toNat)
  let s := match irqTarget s ctx with
    | some t => if x.vector = 0xFFFF then s else raiseIrq t x.vector.toNat s
    | none => s
  setSlot s k { x with state := if code ≠ 0 then .firedError else to_, seen := w }
/-- A slot fires for another reason than its target (R96): a poisoned word with the code and the last value observed. -/
def fireSlotError (k : Nat) (code : W16) (seen : W64) (s : State) : State :=
  fireSlot k (BitVec.ofNat 64 (2 ^ 63 + code.toNat * 2 ^ 48 + seen.toNat % 2 ^ 48)) .firedError s

/-- A populated address of the swarm address space (check 3 of R95). -/
def populated (s : State) (a : Nat) : W16 :=
  let c := reachCheck s (.unit 0 false 5) a 8
  if c = 0x1006 ∨ c = 0x5008 then c else 0

/-- The checks of ARM, in order (R95). -/
def armCheck (s : State) (ctx : Nat) (x : Slot) : W16 :=
  let a := x.watch.toNat
  let n := x.notify.toNat
  let r : Requester := .unit ctx false 5
  let mine := addrNode a = s.swarm.node
  let kindBad := if ¬ mine then bitOf (freeW s 4) 0
    else if x.plain then (match objectAt s a 8 with
      | some (_, e) => e.kind ≠ 1
      | none => true)
    else (liveFence s a).isNone
  let readCode : W16 := if mine then permCheck s r a 8 false else if bitOf (freeW s 4) 1 then 0x4001 else 0
  let writeCode : W16 := if n = 0 then 0 else if addrNode n = s.swarm.node then permCheck s r n 8 true
    else if bitOf (freeW s 4) 2 then 0x4001 else 0
  if a % 8 ≠ 0 ∨ n % 8 ≠ 0 then 0x100A
  else if 2047 < x.vector.toNat ∧ x.vector ≠ 0xFFFF then 0x1006
  else if populated s a ≠ 0 then populated s a
  else if n ≠ 0 ∧ populated s n ≠ 0 then populated s n
  else if kindBad then 0x1004
  else if readCode ≠ 0 then 0x4001
  else writeCode

/-- ARM (R95): the slot is armed, and fires at once when its target is already met; or it fails. -/
def armSlot (k : Nat) (ctx : W16) (s : State) : State :=
  let x := getSlot s k
  let code := armCheck s ctx.toNat x
  if code ≠ 0 then slotRecord k ctx code (setSlot s k { x with state := .firedError })
  else
    let w := watchedWord s x
    let s := match objectAt s x.watch.toNat 8 with
      | some (i, e) => setMot s i { e with refs := satAdd e.refs 1 }
      | none => s
    let s := setSlot s k { x with state := .armed, seen := w }
    if x.target.toNat ≤ w.toNat then fireSlot k w .fired s else s

/-- Whether a source may write a slot's registers (R94). -/
def slotAllowed (s : State) (src : W32) (k : Nat) : Bool :=
  match (getSlot s k).ctx with
  | some c => (localCtx s c.toNat).any (srcOfCtx s src)
  | none => false

/-- The mailbox that created a slot's context, for R78. -/
def slotCreator (s : State) (k : Nat) : Option Nat :=
  ((getSlot s k).ctx.bind (fun c => localCtx s c.toNat)).bind (fun c =>
    if (getCtx s c).node = s.swarm.node then some (getCtx s c).mailbox else none)

/-- CTRL of a slot written (R94), `v` for its fields and `o` for its ones: while ARMED only DISARM acts; DISARM with ARM acts alone. -/
def slotCtrl (k : Nat) (v o : W32) (s : State) : State :=
  let x := getSlot s k
  let y := if x.state = .armed then x else { x with vector := v.truncate 16, plain := bitOf v 16 }
  if bitOf o 18 then setSlot (unwatch x s) k { y with state := .idle }
  else if bitOf o 17 ∧ x.state ≠ .armed then
    match x.ctx with
    | some c => armSlot k c (setSlot s k y)
    | none => setSlot s k y
  else setSlot s k y

/-- A direct write to CTRL, from the slot's sources alone (R94). -/
def writeSlotCtrl (src : W32) (k : Nat) (v : W32) (s : State) : State :=
  if ¬ slotAllowed s src k then refuseWrite src (slotAddr s k + 0x18) (slotCreator s k) 0x4001 s
  else slotCtrl k v v (answer 0 [] s)

def execMonitorArm (src : W32) (k : Nat) (v : W32) (s : State) : Host.Outcome State Fault Refusal :=
  inRange (decide (k < 4096)) (writeSlotCtrl src k v s)

def execMonitorDisarm (src : W32) (k : Nat) (v : W32) (s : State) : Host.Outcome State Fault Refusal :=
  inRange (decide (k < 4096)) (writeSlotCtrl src k v s)

/-- MONITOR_FIRE (R96): an armed slot observes its word, and fires when the target is met (R93). -/
def monitorFire (k : Nat) (s : State) : State :=
  let x := getSlot s k
  if x.state = .armed then
    let w := watchedWord s x
    if x.target.toNat ≤ w.toNat then fireSlot k w .fired s else setSlot s k { x with seen := w }
  else s

def execMonitorFire (k : Nat) (s : State) : Host.Outcome State Fault Refusal := inRange (decide (k < 4096)) (monitorFire k s)

/-- Whether an armed slot watches a plain word of domain `d` (R101). -/
def watchesDomain (s : State) (d : Nat) (x : Slot) : Bool :=
  x.state == .armed && x.plain && addrNode x.watch.toNat == s.swarm.node
    && domainOf s (addrDie x.watch.toNat) (addrLoc x.watch.toNat) == d

/-- The evaluation of a plain word whose domain has completed its accepted requests (R101). -/
def closingEvaluate (k : Nat) (s : State) : State :=
  let x := getSlot s k
  let w := watchedWord s x
  if x.target.toNat ≤ w.toNat then fireSlot k w .fired s else fireSlotError k 0x2005 w s

end Sys2Proof.Machine
end

