-- ==== Sys2Proof/Machine/Numbers.lean ====
section
/-! DEFINITION. Number formats, exact values, rounding and conversion (R102-R116), NUMCTL (R106, R107), and the max-anchored
window (R117-R122). -/

namespace Sys2Proof.Machine

/-! ### Exact values and formats (R102, R103) -/

/-- An exact value: NaN, an infinity, or ± m × 2^e. -/
inductive Num where
  | nan
  | inf (neg : Bool)
  | fin (neg : Bool) (m : Nat) (e : Int)
deriving DecidableEq, Repr, Inhabited

/-- A float format: mantissa bits, least exponent, and the codes of the largest finite value, infinity and the canonical NaN. -/
structure Fmt where
  width : Nat
  mant  : Nat
  emin  : Int
  top   : Nat
  inf   : Nat
  nan   : Nat
deriving DecidableEq, Repr

def fp32 : Fmt := ⟨32, 23, -126, 0x7F7FFFFF, 0x7F800000, 0x7FC00000⟩
def bf16 : Fmt := ⟨16, 7, -126, 0x7F7F, 0x7F80, 0x7FC0⟩
def fp16 : Fmt := ⟨16, 10, -14, 0x7BFF, 0x7C00, 0x7E00⟩
def z8e4 : Fmt := ⟨8, 3, -6, 0x7D, 0x7E, 0x7F⟩
def z8e5 : Fmt := ⟨8, 2, -14, 0x7B, 0x7C, 0x7E⟩

/-- The float format of a FMT code (R106). -/
def floatFmt : Nat → Option Fmt
  | 0 => some fp32
  | 1 => some bf16
  | 2 => some fp16
  | 3 => some z8e4
  | 4 => some z8e5
  | _ => none

/-- Bits of an element of a FMT code (R106): 7 is INT32. -/
def fmtBits : Nat → Nat
  | 0 => 32
  | 1 => 16
  | 2 => 16
  | 3 => 8
  | 4 => 8
  | 5 => 8
  | 6 => 4
  | _ => 32

/-- The value of a float code. -/
def decodeFloat (f : Fmt) (c : Nat) : Num :=
  let neg := c / 2 ^ (f.width - 1) % 2 = 1
  let b := c % 2 ^ (f.width - 1)
  let e := b / 2 ^ f.mant
  let m := b % 2 ^ f.mant
  if b = f.inf then .inf neg
  else if f.inf < b then .nan
  else if e = 0 then .fin neg m (f.emin - f.mant)
  else .fin neg (m + 2 ^ f.mant) (f.emin - f.mant + (e - 1))

/-- A signed number as an exact value. -/
def ofInt (v : Int) (e : Int) : Num := .fin (v < 0) v.natAbs e

/-- The two's-complement value of a code. -/
def signedOf (w c : Nat) : Int := if c < 2 ^ (w - 1) then c else (c : Int) - 2 ^ w

/-- The value of a code of format `k` of R106, INT32 included. -/
def decodeFmt (k c : Nat) : Num :=
  match floatFmt k with
  | some f => decodeFloat f c
  | none => ofInt (signedOf (fmtBits k) c) 0

/-- FP32 code to value. -/
def f32 (x : W32) : Num := decodeFloat fp32 x.toNat

/-! ### Rounding (R108, R109, R111) -/

/-- floor(log₂(n/d)) of a positive fraction. -/
def floorLog2 (n d : Nat) : Int :=
  let l : Int := (Nat.log2 n : Int) - Nat.log2 d
  let below := if 0 ≤ l then n < d * 2 ^ l.toNat else n * 2 ^ (-l).toNat < d
  if below then l - 1 else l

/-- A fraction rounded to an integer: to nearest with ties to even, or toward zero. -/
def roundInt (rtz : Bool) (n d : Nat) : Nat :=
  let q := n / d
  let r := n % d
  if rtz then q else if d < 2 * r ∨ (2 * r = d ∧ q % 2 = 1) then q + 1 else q

/-- The magnitude code that a positive fraction rounds to, with the exponent unbounded above. -/
def roundCode (f : Fmt) (rtz : Bool) (n d : Nat) : Nat :=
  let l := floorLog2 n d
  let q : Int := (if l < f.emin then f.emin else l) - f.mant
  let k := if 0 ≤ q then roundInt rtz n (d * 2 ^ q.toNat) else roundInt rtz (n * 2 ^ (-q).toNat) d
  (q + f.mant - f.emin).toNat * 2 ^ f.mant + k

/-- A sign put on a magnitude code. -/
def withSign (f : Fmt) (neg : Bool) (c : Nat) : Nat := if neg then c + 2 ^ (f.width - 1) else c

/-- A magnitude code bounded under R109: the code, and whether it overflowed. -/
def capCode (f : Fmt) (rtz sat neg : Bool) (c : Nat) : Nat × Bool :=
  if f.top < c then (withSign f neg (if rtz || sat then f.top else f.inf), true) else (withSign f neg c, false)

/-- ± n/d rounded once to a float format (R108, R109). -/
def roundFrac (f : Fmt) (rtz sat neg : Bool) (n d : Nat) : Nat × Bool :=
  if n = 0 then (withSign f neg 0, false) else capCode f rtz sat neg (roundCode f rtz n d)

/-- m × 2^e as a fraction. -/
def fracOf (m : Nat) (e : Int) : Nat × Nat := if 0 ≤ e then (m * 2 ^ e.toNat, 1) else (m, 2 ^ (-e).toNat)

/-- A rounded code with the flags INVALID and OVERFLOW of R112 that it raises. -/
structure Rounded where
  code     : Nat
  invalid  : Bool := false
  overflow : Bool := false
deriving DecidableEq, Repr

/-- An exact result rounded to a float format; an infinite one stays infinite (R126, assumption log 43). -/
def roundNum (f : Fmt) (rtz sat : Bool) : Num → Rounded
  | .nan => { code := f.nan }
  | .inf neg => { code := withSign f neg f.inf }
  | .fin neg m e =>
    let (n, d) := fracOf m e
    let (c, o) := roundFrac f rtz sat neg n d
    { code := c, overflow := o }

/-- A value converted to a w-bit integer format (R111). -/
def roundToInt (w : Nat) (rtz : Bool) : Num → Rounded
  | .nan => { code := 0, invalid := true }
  | .inf neg => { code := if neg then 2 ^ (w - 1) else 2 ^ (w - 1) - 1, overflow := true }
  | .fin neg m e =>
    let (n, d) := fracOf m e
    let k := roundInt rtz n d
    if neg then (if 2 ^ (w - 1) < k then { code := 2 ^ (w - 1), overflow := true } else { code := (2 ^ w - k) % 2 ^ w })
    else if 2 ^ (w - 1) ≤ k then { code := 2 ^ (w - 1) - 1, overflow := true } else { code := k }

/-- A reduction's result in the output format `k` (R115, R123). -/
def roundOut (k : Nat) (rtz sat : Bool) (x : Num) : Rounded :=
  match floatFmt k with
  | some f => roundNum f rtz sat x
  | none => roundToInt (fmtBits k) rtz x

/-- A conversion to format `k` (R109, R113): an infinite input becomes the largest finite value under SAT. -/
def convertTo (k : Nat) (rtz sat : Bool) (x : Num) : Rounded :=
  match floatFmt k, x with
  | some f, .inf neg => if sat then { code := withSign f neg f.top, overflow := true } else { code := withSign f neg f.inf }
  | _, _ => roundOut k rtz sat x

/-! ### Exact arithmetic (R110, R116, R126) -/

/-- The negated value. -/
def Num.neg : Num → Num
  | .nan => .nan
  | .inf n => .inf (!n)
  | .fin n m e => .fin (!n) m e

/-- An exact product, and whether it is infinity × 0. -/
def mulNum : Num → Num → Num × Bool
  | .nan, _ => (.nan, false)
  | _, .nan => (.nan, false)
  | .inf a, .inf b => (.inf (a ^^ b), false)
  | .inf a, .fin b m _ => if m = 0 then (.nan, true) else (.inf (a ^^ b), false)
  | .fin a m _, .inf b => if m = 0 then (.nan, true) else (.inf (a ^^ b), false)
  | .fin a m e, .fin b n f => (.fin (a ^^ b) (m * n) (e + f), false)

/-- A finite value as a multiple of 2^e. -/
def scaledInt (neg : Bool) (m : Nat) (e base : Int) : Int :=
  let k : Int := (m : Int) * 2 ^ (e - base).toNat
  if neg then -k else k

/-- An exact sum, and whether it is a sum of infinities of opposite signs. -/
def addNum : Num → Num → Num × Bool
  | .nan, _ => (.nan, false)
  | _, .nan => (.nan, false)
  | .inf a, .inf b => if a = b then (.inf a, false) else (.nan, true)
  | .inf a, .fin _ _ _ => (.inf a, false)
  | .fin _ _ _, .inf b => (.inf b, false)
  | .fin a m e, .fin b n f =>
    let base := min e f
    let v := scaledInt a m e base + scaledInt b n f base
    if v = 0 then (.fin (m == 0 && n == 0 && a && b) 0 0, false) else (ofInt v base, false)

/-- Exact a × b + c; infinity × 0 beside a NaN addend is a NaN input (R112). -/
def fmaNum (a b c : Num) : Num × Bool :=
  let (p, i) := mulNum a b
  if i then (.nan, c ≠ .nan)
  else addNum p c

/-! ### NUMCTL (R106, R107) -/

/-- The fields of a NUMCTL word. -/
structure NumCtl where
  a     : Nat
  b     : Nat
  out   : Nat
  rtz   : Bool
  sat   : Bool
  split : Nat
deriving DecidableEq, Repr

/-- The fields of a NUMCTL word. -/
def numctl (w : W16) : NumCtl :=
  ⟨field w 3 0, field w 7 4, field w 11 8, bitOf w 12, bitOf w 13, field w 15 14⟩

/-- The group of a format pair: 0 FP32, 1 FP16 and BF16, 2 8-bit float, 3 INT; none outside the groups of R107. -/
def pairGroup (a b : Nat) : Option Nat :=
  if a = 0 ∧ b = 0 then some 0
  else if (a = 1 ∨ a = 2) ∧ (b = 1 ∨ b = 2) then some 1
  else if (a = 3 ∨ a = 4) ∧ (b = 3 ∨ b = 4) then some 2
  else if (a = 5 ∨ a = 6) ∧ (b = 5 ∨ b = 6) then some 3
  else none

/-- Whether a NUMCTL word satisfies R107, as far as the word alone tells. -/
def numctlOk (w : W16) : Bool :=
  let n := numctl w
  match pairGroup n.a n.b with
  | some g => (if g = 0 then n.split == 1 || n.split == 2 else n.split == 0) && decide (n.out ≤ 7) && (n.out != 7 || g == 3)
  | none => false

/-- Whether block scales may go with a NUMCTL word (R107). -/
def blocksOk (w : W16) : Bool :=
  let n := numctl w
  match pairGroup n.a n.b with
  | some g => 2 ≤ g && n.out != 7
  | none => false

/-! ### Product terms (R114-R118) -/

/-- A value times a block scale (R105, R114). -/
def blockScaled (b : Byte) (x : Num) : Num :=
  if b = 0xFF then .nan
  else match x with
    | .fin n m e => .fin n m (e + ((b.toNat : Int) - 127))
    | y => y

/-- A value cut toward zero to a BF16 value (R117). -/
def cutBf16 : Num → Num
  | .fin neg m e =>
    if m = 0 then .fin neg 0 0
    else
      let (n, d) := fracOf m e
      decodeFloat bf16 (withSign bf16 neg (roundCode bf16 true n d))
  | x => x

/-- The three pieces of an FP32 operand (R117). A piece x − x₁ or x − x₁ − x₂ that is exactly zero is +0, whose sign R117 does not give (DESIGN CHOICE,
assumption log 78). -/
def split3 (x : Num) : List Num :=
  match x with
  | .fin neg 0 _ => [.fin neg 0 0, .fin neg 0 0, .fin neg 0 0]
  | .fin _ _ _ =>
    let a := cutBf16 x
    let r := (addNum x a.neg).1
    let b := cutBf16 r
    let c := cutBf16 (addNum r b.neg).1
    [a, b, c]
  | _ => [x, .fin false 0 0, .fin false 0 0]

/-- Whether a value is a zero. -/
def Num.isZero : Num → Bool
  | .fin _ m _ => m == 0
  | _ => false

/-- The sign of a value; NaN counts as positive. -/
def Num.sign : Num → Bool
  | .nan => false
  | .inf n => n
  | .fin n _ _ => n

/-- The partial products of R118 as pairs of piece numbers. -/
def passes : Nat → List (Nat × Nat)
  | 1 => [(0, 0), (0, 1), (1, 0)]
  | _ => [(0, 0), (0, 1), (1, 0), (0, 2), (1, 1), (2, 0)]

/-- Whether a value is infinite or NaN. -/
def Num.special : Num → Bool
  | .fin _ _ _ => false
  | _ => true

/-- The terms of one pair of elements, each with whether it is infinity × 0 (R112, R115, R118). The special values of a·b arise from a₁b₁ as for an
unsplit product, so an infinity times a nonzero operand whose first piece is zero is infinite. -/
def termsOf (split : Nat) (a b : Num) : List (Num × Bool) :=
  if split = 0 then [mulNum a b]
  else
    let x := split3 a
    let y := split3 b
    (passes split).map (fun p =>
      let u := x.getD p.1 .nan
      let v := y.getD p.2 .nan
      if p = (0, 0) ∧ (a.special ∨ b.special) then mulNum a b
      else if p ≠ (0, 0) ∧ (u.isZero ∨ v.isZero) then (.fin (u.sign ^^ v.sign) 0 0, false) else mulNum u v)

/-- e(p) of a finite nonzero term (R120). -/
def expOf : Num → Option Int
  | .fin _ m e => if m = 0 then none else some ((Nat.log2 m : Int) + e)
  | _ => none

/-- The larger of two anchors, none yielding to any (R506). -/
def maxAnchor : Option Int → Option Int → Option Int
  | none, y => y
  | x, none => x
  | some a, some b => some (max a b)

/-- A finite magnitude as a multiple of 2^base, cut toward zero, and whether bits were lost. -/
def cutTo (m : Nat) (e base : Int) : Nat × Bool :=
  let k := e - base
  if 0 ≤ k then (m * 2 ^ k.toNat, false) else (m / 2 ^ (-k).toNat, m % 2 ^ (-k).toNat != 0)

/-! ### A whole reduction (R120, R121) -/

/-- The sum of a reduction, with INVALID and TRUNCATED of its terms (R112). -/
structure Window where
  sum       : Num
  invalid   : Bool
  truncated : Bool
deriving DecidableEq, Repr

/-- The window sum of a list of terms. -/
def windowSum (l : List (Num × Bool)) : Window :=
  let ts := l.map (·.1)
  let pos := ts.contains (.inf false)
  let neg := ts.contains (.inf true)
  let base := ((ts.foldl (fun a t => maxAnchor a (expOf t)) none).getD 0) - 127
  let cut := ts.map (fun t => match t with
    | .fin s m e =>
      let (k, lost) := cutTo m e base
      ((if s then -(k : Int) else k), lost)
    | _ => ((0 : Int), false))
  let v := cut.foldl (fun a c => a + c.1) 0
  let allNegZero := ts.all (fun t => t.isZero && t.sign)
  { sum := if ts.contains .nan ∨ (pos ∧ neg) then .nan else if pos then .inf false else if neg then .inf true
           else if v = 0 then .fin allNegZero 0 0 else ofInt v base,
    invalid := l.any (·.2) || (pos && neg),
    truncated := cut.any (·.2) }

end Sys2Proof.Machine
end

