-- ==== Sys2Proof/Machine/Lanes.lean ====
section
/-! DEFINITION. The element-wise operations of the vector unit on FP32 lanes (R126, R146, R147). Roots are rounded from integer
square roots; 2^x, log₂ and tanh from rational bounds, both of which are rounded: where the two roundings differ the lane takes
a free value (assumption log 24). -/

namespace Sys2Proof.Machine

/-- Rounding settings of a lane operation. -/
structure Rnd where
  rtz : Bool
  sat : Bool
deriving DecidableEq, Repr

/-- Rounding settings of a NUMCTL word. -/
def rndOf (w : W16) : Rnd := ⟨bitOf w 12, bitOf w 13⟩

/-- An exact value rounded to FP32, with an invalid operation noted. -/
def lane (r : Rnd) (x : Num × Bool) : Rounded := { roundNum fp32 r.rtz r.sat x.1 with invalid := x.2 }

/-- An invalid operation's canonical NaN. -/
def laneNan : Rounded := { code := fp32.nan, invalid := true }

/-- ± n/d rounded to FP32. -/
def laneFrac (r : Rnd) (neg : Bool) (n d : Nat) : Rounded :=
  let (c, o) := roundFrac fp32 r.rtz r.sat neg n d
  { code := c, overflow := o }

def laneAdd (r : Rnd) (a b : W32) : Rounded := lane r (addNum (f32 a) (f32 b))
def laneSub (r : Rnd) (a b : W32) : Rounded := lane r (addNum (f32 a) (f32 b).neg)
def laneMul (r : Rnd) (a b : W32) : Rounded := lane r (mulNum (f32 a) (f32 b))
def laneFma (r : Rnd) (a b c : W32) : Rounded := lane r (fmaNum (f32 a) (f32 b) (f32 c))

/-- IEEE division (R126): 0/0 and infinity/infinity are invalid; x/0 is an exact infinity. -/
def divNum (r : Rnd) (x y : Num) : Rounded :=
  let neg := x.sign ^^ y.sign
  match x, y with
  | .nan, _ => { code := fp32.nan }
  | _, .nan => { code := fp32.nan }
  | .inf _, .inf _ => laneNan
  | .inf _, .fin _ _ _ => { code := withSign fp32 neg fp32.inf }
  | .fin _ _ _, .inf _ => { code := withSign fp32 neg 0 }
  | .fin _ m e, .fin _ n f =>
    if n = 0 then (if m = 0 then laneNan else { code := withSign fp32 neg fp32.inf })
    else
      let (p, q) := fracOf m (e - f)
      laneFrac r neg p (q * n)

def laneDiv (r : Rnd) (a b : W32) : Rounded := divNum r (f32 a) (f32 b)

/-- VRCP (R146). -/
def laneRcp (r : Rnd) (a : W32) : Rounded := divNum r (.fin false 1 0) (f32 a)

/-- The square root of n/d rounded to FP32. -/
def rootFrac (r : Rnd) (n d : Nat) : Rounded :=
  let h := floorLog2 n d / 2
  let q : Int := h - fp32.mant
  let (p, s) := if 0 ≤ q then (n, d * 4 ^ q.toNat) else (n * 4 ^ (-q).toNat, d)
  let k := isqrt (p / s)
  let up := !r.rtz && decide (s * (4 * k * k + 4 * k + 1) < 4 * p)
  { code := (q + fp32.mant - fp32.emin).toNat * 2 ^ fp32.mant + (if up then k + 1 else k) }

/-- VSQRT (R146): −0 stays −0; a negative input is invalid. -/
def laneSqrt (r : Rnd) (a : W32) : Rounded :=
  match f32 a with
  | .nan => { code := fp32.nan }
  | .inf neg => if neg then laneNan else { code := fp32.inf }
  | .fin neg m e =>
    if m = 0 then { code := withSign fp32 neg 0 }
    else if neg then laneNan
    else
      let (n, d) := fracOf m e
      rootFrac r n d

/-- VRSQRT (R146). -/
def laneRsqrt (r : Rnd) (a : W32) : Rounded :=
  match f32 a with
  | .nan => { code := fp32.nan }
  | .inf neg => if neg then laneNan else { code := 0 }
  | .fin neg m e =>
    if m = 0 then { code := withSign fp32 neg fp32.inf }
    else if neg then laneNan
    else
      let (n, d) := fracOf m e
      rootFrac r d n

/-- Whether value x lies below value y, −0 below +0; neither is NaN. -/
def numBelow (x y : Num) : Bool :=
  match x, y with
  | .inf a, .inf b => a && !b
  | .inf a, _ => a
  | _, .inf b => !b
  | .fin a m e, .fin b n f =>
    let base := min e f
    let u := scaledInt a m e base
    let v := scaledInt b n f base
    decide (u < v) || (u == v && a && !b)
  | _, _ => false

/-- VMIN and VMAX (R126): the operand that is not NaN when just one is. -/
def laneMinMax (big : Bool) (a b : W32) : Rounded :=
  match f32 a, f32 b with
  | .nan, .nan => { code := fp32.nan }
  | .nan, _ => { code := b.toNat }
  | _, .nan => { code := a.toNat }
  | x, y => { code := if (if big then numBelow x y else numBelow y x) then b.toNat else a.toNat }

/-! ### Transcendental bounds: fixed point with 128 fraction bits -/

/-- 2^128. -/
def one128 : Nat := 2 ^ 128
/-- floor(2^128 × ln 2). -/
def ln2Lo : Nat := 235865763225513294137944142764154484399

/-- Taylor sum of e^y for y in [0, 1), from term k on; rounded down. -/
def expLo (y : Nat) : Nat → Nat → Nat → Nat
  | 0, _, _ => 0
  | n + 1, k, t => t + expLo y n (k + 1) (t * y / (one128 * k))

/-- The same rounded up, with the terms left out bounded. -/
def expHi (y : Nat) : Nat → Nat → Nat → Nat
  | 0, _, _ => 2
  | n + 1, k, t => t + expHi y n (k + 1) (t * y / (one128 * k) + 1)

/-- A pair of bounds rounded: the lane when they agree, else a free value. -/
def agree (op : Nat) (r : Rnd) (a : W32) (lo hi : Rounded) : Rounded :=
  if lo = hi then lo
  else { code := (Sys2Proof.Config.transcendental op a r.rtz).toNat, overflow := hi.overflow }

/-- VEXP2 (R146). -/
def laneExp2 (r : Rnd) (a : W32) : Rounded :=
  match f32 a with
  | .nan => { code := fp32.nan }
  | .inf neg => { code := if neg then 0 else fp32.inf }
  | .fin neg m e =>
    if m = 0 then { code := 0x3F800000 }
    else if (expOf (.fin neg m e)).getD 0 < -30 then { code := if neg && r.rtz then 0x3F7FFFFF else 0x3F800000 }
    else if 8 ≤ (expOf (.fin neg m e)).getD 0 then
      (if neg then laneFrac r false 1 (2 ^ 200) else laneFrac r false (2 ^ 200) 1)
    else
      let d : Nat := 2 ^ (-e).toNat
      let v : Int := (if neg then -1 else 1) * (m : Int) * 2 ^ e.toNat
      let n : Int := v / (d : Int)
      let f : Nat := (v % (d : Int)).toNat
      let out := fun (x : Nat) =>
        let (p, q) := fracOf x (n - 128)
        laneFrac r false p q
      if f = 0 then out one128
      else agree 0 r a (out (expLo (f * ln2Lo / d) 40 1 one128)) (out (expHi (f * (ln2Lo + 1) / d + 1) 40 1 one128))

/-- Sum of z^(2i+1)/(2i+1) from the power t on, rounded down. -/
def atanhLo (zz : Nat) : Nat → Nat → Nat → Nat
  | 0, _, _ => 0
  | n + 1, k, t => t / k + atanhLo zz n (k + 2) (t * zz / one128)

/-- The same rounded up. -/
def atanhHi (zz : Nat) : Nat → Nat → Nat → Nat
  | 0, _, _ => 2
  | n + 1, k, t => t / k + 1 + atanhHi zz n (k + 2) (t * zz / one128 + 1)

/-- VLOG2 (R146): ±0 gives −infinity; negative inputs are invalid. -/
def laneLog2 (r : Rnd) (a : W32) : Rounded :=
  match f32 a with
  | .nan => { code := fp32.nan }
  | .inf neg => if neg then laneNan else { code := fp32.inf }
  | .fin neg m e =>
    if m = 0 then { code := withSign fp32 true fp32.inf }
    else if neg then laneNan
    else
      let l := Nat.log2 m
      let k : Int := (l : Int) + e
      let b := 2 ^ l
      let out := fun (frac : Nat) =>
        let v : Int := k * one128 + frac
        laneFrac r (decide (v < 0)) v.natAbs one128
      if m = b then out 0
      else
        let z := (m - b) * one128 / (m + b)
        let lo := 2 * atanhLo (z * z / one128) 60 1 z
        let hi := 2 * atanhHi ((z + 1) * (z + 1) / one128 + 1) 60 1 (z + 1)
        agree 1 r a (out (lo * one128 / (ln2Lo + 1))) (out (hi * one128 / ln2Lo + 1))

/-- The square of a fixed-point bound, n times. -/
def squareLo : Nat → Nat → Nat
  | 0, x => x
  | n + 1, x => squareLo n (x * x / one128)

def squareHi : Nat → Nat → Nat
  | 0, x => x
  | n + 1, x => squareHi n (x * x / one128 + 1)

/-- VTANH (R146). -/
def laneTanh (r : Rnd) (a : W32) : Rounded :=
  match f32 a with
  | .nan => { code := fp32.nan }
  | .inf neg => { code := withSign fp32 neg 0x3F800000 }
  | .fin neg m e =>
    let k := (expOf (.fin neg m e)).getD 0
    if m = 0 then { code := withSign fp32 neg 0 }
    else if 4 ≤ k then laneFrac r neg (2 ^ 40 - 1) (2 ^ 40)
    else
      let d : Nat := 2 ^ (-e).toNat
      let n := m * 2 ^ e.toNat
      if k < -6 then
        let term := fun (c i : Nat) => c * n ^ i * d ^ (11 - i)
        let hi := term 155925 1 + term 20790 5 + term 3410 9 - term 51975 3 - term 8415 7
        let lo := hi - term 1382 11
        let den := 155925 * d ^ 11
        agree 2 r a (laneFrac r neg lo den) (laneFrac r neg hi den)
      else
        let y := 2 * n * one128 / (32 * d)
        let lo := squareLo 5 (expLo y 40 1 one128)
        let hi := squareHi 5 (expHi (y + 1) 40 1 one128)
        agree 2 r a (laneFrac r neg (lo - one128) (lo + one128)) (laneFrac r neg (hi - one128) (hi + one128))

/-- VRSUM (R147): the reduction of the lanes, rounded once to FP32, with its three flags. -/
def laneSum (r : Rnd) (l : List W32) : Rounded × Bool :=
  let w := windowSum (l.map (fun x => (f32 x, false)))
  let x := roundNum fp32 r.rtz r.sat w.sum
  ({ x with invalid := w.invalid }, w.truncated)

end Sys2Proof.Machine
end

