-- ==== Sys2Proof/Machine/Cells.lean ====
section
/-! DEFINITION. Tensor cells (chapter 05): fetch and issue (R136-R139), the scalar, load and store, and vector instructions
(R138, R140, R141, R146). A command of an instruction issues it when it is the one at the cell's PC. -/

namespace Sys2Proof.Machine

/-! ### The instruction word (R137) -/

/-- The fields of an instruction word. -/
structure Ins where
  opc     : Nat
  d       : Nat
  a       : Nat
  b       : Nat
  c       : Nat
  waitall : Bool
  rsv     : Nat
  imm     : Nat
deriving DecidableEq, Repr

def insOf (w : W64) : Ins := ⟨field w 7 0, field w 12 8, field w 17 13, field w 22 18, field w 27 23, bitOf w 28, field w 31 29, field w 63 32⟩

/-- The operations of R138. -/
def isOp (o : Nat) : Bool :=
  decide (o ≤ 4 ∨ (0x10 ≤ o ∧ o ≤ 0x1E) ∨ (0x20 ≤ o ∧ o ≤ 0x32) ∨ (0x40 ≤ o ∧ o ≤ 0x48) ∨ (0x50 ≤ o ∧ o ≤ 0x53))

/-- Which of the fields D, A, B, C an operation uses, and which bits of IMM. -/
structure Uses where
  d   : Bool := false
  a   : Bool := false
  b   : Bool := false
  c   : Bool := false
  imm : Nat := 0
deriving DecidableEq, Repr

/-- Whether a field that the operation does not use is 0 (R137). -/
def unusedZero (u : Uses) (i : Ins) : Bool :=
  i.rsv == 0 && (u.d || i.d == 0) && (u.a || i.a == 0) && (u.b || i.b == 0) && (u.c || i.c == 0) && decide (i.imm < 2 ^ u.imm)

/-- IMM sign-extended to 64 bits (R138). -/
def simm (i : Ins) : W64 := (BitVec.ofNat 32 i.imm).signExtend 64

/-! ### Registers -/

/-- Scalar register: s0 reads 0. -/
def Cell.sreg (x : Cell) (i : Nat) : W64 := if i = 0 then 0 else Tbl.get 0 x.s i
/-- Scalar register written; s0 stays 0. -/
def Cell.setS (x : Cell) (i : Nat) (v : W64) : Cell := if i = 0 then x else { x with s := Tbl.set 0 x.s i v }
/-- The lanes of a vector register. -/
def Cell.vreg (x : Cell) (i : Nat) : List W32 := (upFrom (32 * i) 32).map (Tbl.get 0 x.v)
/-- A vector register written. -/
def Cell.setV (x : Cell) (i : Nat) (l : List W32) : Cell :=
  { x with v := ((upFrom (32 * i) 32).zip l).foldl (fun t e => Tbl.set 0 t e.1 e.2) x.v }
/-- Sticky flags of R112 raised. -/
def Cell.raise (x : Cell) (invalid overflow truncated : Bool) : Cell :=
  { x with invalid := x.invalid || invalid, overflow := x.overflow || overflow, truncated := x.truncated || truncated }

/-! ### Issue -/

/-- What an instruction answers: it waits for a resource (with a change of its cell, or none), faults its context (`write` for an access that writes), takes effect on the rest of the state and its
cell, which then goes on at the next instruction or at a target, or has done all there is to do. -/
inductive Issue where
  | stall
  | hold (x : Cell)
  | fault (code : W16) (addr : Nat) (write : Bool := false)
  | next (s : State) (x : Cell)
  | goto (s : State) (x : Cell) (pc : Nat)
  | done (s : State)

/-- A cell, its job and the instruction it issues. -/
structure Unit1 where
  die  : Nat
  cell : Nat
  x    : Cell
  j    : CellJob
  i    : Ins

/-- KIND of a unit's fault by its code (R291). -/
def faultKind (code : W16) : Byte := if code = 0x5001 then 1 else if code = 0x4001 ∨ code = 0x4002 then 13 else 5

/-- A cell faults its context (R139, R291); a write that was refused is counted and reported (R33, R78). -/
def faultCell (u : Unit1) (code : W16) (addr : Nat) (write : Bool) (s : State) : State :=
  let r : FaultRecord :=
    { code := code, kind := faultKind code, source := mkSrc s.swarm.node u.die 4 u.cell 0, address := BitVec.ofNat 64 addr,
      queue := BitVec.ofNat 16 u.j.queue, descriptor := u.j.desc, pc := u.x.pc.zeroExtend 32, item := u.x.item.zeroExtend 32,
      numctl := u.x.numctl, sregs := (upFrom 1 16).map (Tbl.get 0 u.x.s) }
  let s := setCell s u.die u.cell { u.x with state := .faulted }
  let s := if write ∧ countedRefusal s code addr then refusedWrite r.source addr 1 (creatorAt s addr 1) s else s
  faultCtx u.j.ctx.toNat r (if code = 0x5001 then checkResource s addr else none) s

/-- The cell issues the instruction at its PC, when that is operation `op` (R136-R139). -/
def issue (op : Nat) (uses : Uses) (run : Unit1 → State → Issue) (die cell : Nat) (s : State) : State :=
  let x := getCell s die cell
  match x.job with
  | none => s
  | some j =>
    let running := (x.state = .running ∨ x.state = .stalled) ∧ (localCtx s j.ctx.toNat).any (fun c => !inReset (getCtx s c))
    let pa := j.code + 8 * x.pc.toNat
    let u : Unit1 := { die := die, cell := cell, x := x, j := j, i := insOf (BitVec.ofNat 64 (memNat s pa 8)) }
    if ¬ running ∨ j.stopped then s
    else if j.words ≤ x.pc.toNat ∨ x.past then faultCell u 0x1006 0 false s
    else if ¬ checksOk s pa 8 then faultCell u 0x5001 pa false s
    else if isOp u.i.opc ∧ u.i.opc ≠ op then s
    else if ¬ isOp u.i.opc then faultCell u 0x1006 0 false s
    else if ¬ unusedZero uses u.i then faultCell u 0x1005 0 false s
    else if u.i.waitall ∧ x.dma ≠ [] then setCell s die cell { x with state := .stalled }
    else match run u s with
      | .stall => setCell s die cell { x with state := .stalled }
      | .hold x => setCell s die cell { x with state := .stalled }
      | .fault code a write => faultCell u code a write s
      | .next s x => setCell s die cell { x with state := if x.wait.isSome then .waiting else .running, pc := x.pc + 1, past := x.pc.toNat = 0xFFFFF }
      | .goto s x pc => setCell s die cell { x with state := .running, pc := BitVec.ofNat 20 pc, past := false }
      | .done s => s

/-- Whether a cell exists. -/
def cellOk (die cell : Nat) : Bool := decide (die < 4 ∧ cell < 32)

/-- An instruction that only changes its cell. -/
def onCell (f : Unit1 → Cell) (u : Unit1) (s : State) : Issue := .next s (f u)

/-! ### Items (R134, R135) -/

/-- A cell at the start of an item. -/
def startItem (x : Cell) (j : CellJob) (item : Nat) : Cell :=
  let c : Cell := { invalid := x.invalid, overflow := x.overflow, truncated := x.truncated, itemsDone := x.itemsDone, args := x.args,
                    state := .running, context := j.ctx.truncate 10, item := BitVec.ofNat 16 item, pc := BitVec.ofNat 20 j.entry,
                    numctl := j.numctl, job := some { j with item := item } }
  (c.setS 1 (BitVec.ofNat 64 item)).setS 2 (BitVec.ofNat 64 j.items)

/-- A cell that has no further item of its descriptor: its flags stay for the report word. -/
def stopCell (x : Cell) : Cell :=
  { invalid := x.invalid, overflow := x.overflow, truncated := x.truncated, itemsDone := x.itemsDone, context := x.context, item := x.item, pc := x.pc }

/-- END: the item ends once its GET and PUT operations have completed, and the cell's next item starts. -/
def endItem (u : Unit1) (s : State) : State :=
  let x := { u.x with itemsDone := u.x.itemsDone + 1 }
  let next := u.j.item + u.j.n
  setCell s u.die u.cell (if next < u.j.items then startItem x u.j next else stopCell x)

/-! ### Control and scalar instructions (R138) -/

def execNopInstr (die cell : Nat) (s : State) : Host.Outcome State Fault Refusal :=
  inRange (cellOk die cell) (issue 0x00 {} (onCell (fun u => u.x)) die cell s)

/-- END waits while a GET or PUT is outstanding. -/
def endIns (u : Unit1) (s : State) : Issue := if u.x.dma ≠ [] then .stall else .done (endItem u s)

def execEndItem (die cell : Nat) (s : State) : Host.Outcome State Fault Refusal := inRange (cellOk die cell) (issue 0x01 {} endIns die cell s)

/-- A jump, to a target below the instruction count (R139). -/
def jumpTo (u : Unit1) (s : State) (x : Cell) (t : Nat) : Issue := if u.j.words ≤ t then .fault 0x1006 0 else .goto s x t

def execJmp (die cell : Nat) (s : State) : Host.Outcome State Fault Refusal :=
  inRange (cellOk die cell) (issue 0x02 { imm := 32 } (fun u s => jumpTo u s u.x u.i.imm) die cell s)

/-- The comparisons of BR. -/
def brCompare (c : Nat) (a b : W64) : Option Bool :=
  match c with
  | 0 => some (a == b)
  | 1 => some (a != b)
  | 2 => some (a.slt b)
  | 3 => some (!a.slt b)
  | 4 => some (a.ult b)
  | 5 => some (!a.ult b)
  | _ => none

/-- BR: the target is checked whether or not the branch is taken, and a comparison above 5, for which R138 gives none, faults with 0x1006
(DESIGN CHOICE, assumption log 44). -/
def branch (u : Unit1) (s : State) : Issue :=
  match brCompare u.i.c (u.x.sreg u.i.a) (u.x.sreg u.i.b) with
  | none => .fault 0x1006 0
  | some t => if u.j.words ≤ u.i.imm then .fault 0x1006 0 else if t then .goto s u.x u.i.imm else .next s u.x

def execBr (die cell : Nat) (s : State) : Host.Outcome State Fault Refusal :=
  inRange (cellOk die cell) (issue 0x03 { a := true, b := true, c := true, imm := 32 } branch die cell s)

/-- The system values of SYS. -/
def sysValue (u : Unit1) (s : State) : Option W64 :=
  match u.i.imm with
  | 0 => some (BitVec.ofNat 64 u.j.item)
  | 1 => some (BitVec.ofNat 64 u.j.items)
  | 2 => some (BitVec.ofNat 64 (s.swarm.node * 128 + u.die * 32 + u.cell))
  | 3 => some (BitVec.ofNat 64 u.j.n)
  | 4 => some (BitVec.ofNat 64 u.j.position)
  | 5 => some s.swarm.time
  | _ => none

/-- SYS: a value above 5, for which R138 gives none, faults with 0x1006 (DESIGN CHOICE, assumption log 44). -/
def sysIns (u : Unit1) (s : State) : Issue :=
  match sysValue u s with
  | some v => .next s (u.x.setS u.i.d v)
  | none => .fault 0x1006 0

def execSys (die cell : Nat) (s : State) : Host.Outcome State Fault Refusal :=
  inRange (cellOk die cell) (issue 0x04 { d := true, imm := 32 } sysIns die cell s)

def execLi (die cell : Nat) (s : State) : Host.Outcome State Fault Refusal :=
  inRange (cellOk die cell) (issue 0x10 { d := true, imm := 32 } (onCell (fun u => u.x.setS u.i.d (simm u.i))) die cell s)

/-- LIH: the low half is kept. -/
def lihValue (imm : Nat) (v : W64) : W64 := BitVec.ofNat 64 (imm * 2 ^ 32 + v.toNat % 2 ^ 32)

def execLih (die cell : Nat) (s : State) : Host.Outcome State Fault Refusal :=
  inRange (cellOk die cell) (issue 0x11 { d := true, imm := 32 }
    (onCell (fun u => u.x.setS u.i.d (lihValue u.i.imm (u.x.sreg u.i.d)))) die cell s)

/-- A scalar operation on s[A] and s[B]. -/
def alu (f : W64 → W64 → W64) : Unit1 → State → Issue := onCell (fun u => u.x.setS u.i.d (f (u.x.sreg u.i.a) (u.x.sreg u.i.b)))

/-- The fields of the three-register operations. -/
def usesAlu : Uses := { d := true, a := true, b := true }

def execAdd (die cell : Nat) (s : State) : Host.Outcome State Fault Refusal := inRange (cellOk die cell) (issue 0x12 usesAlu (alu (· + ·)) die cell s)
def execSub (die cell : Nat) (s : State) : Host.Outcome State Fault Refusal := inRange (cellOk die cell) (issue 0x13 usesAlu (alu (· - ·)) die cell s)
def execAndInstr (die cell : Nat) (s : State) : Host.Outcome State Fault Refusal :=
  inRange (cellOk die cell) (issue 0x14 usesAlu (alu (· &&& ·)) die cell s)
def execOrInstr (die cell : Nat) (s : State) : Host.Outcome State Fault Refusal :=
  inRange (cellOk die cell) (issue 0x15 usesAlu (alu (· ||| ·)) die cell s)
def execXorInstr (die cell : Nat) (s : State) : Host.Outcome State Fault Refusal :=
  inRange (cellOk die cell) (issue 0x16 usesAlu (alu (· ^^^ ·)) die cell s)
def execShl (die cell : Nat) (s : State) : Host.Outcome State Fault Refusal :=
  inRange (cellOk die cell) (issue 0x17 usesAlu (alu (fun a b => a <<< (b.toNat % 64))) die cell s)
def execShr (die cell : Nat) (s : State) : Host.Outcome State Fault Refusal :=
  inRange (cellOk die cell) (issue 0x18 usesAlu (alu (fun a b => a >>> (b.toNat % 64))) die cell s)
def execSra (die cell : Nat) (s : State) : Host.Outcome State Fault Refusal :=
  inRange (cellOk die cell) (issue 0x19 usesAlu (alu (fun a b => a.sshiftRight (b.toNat % 64))) die cell s)
def execMul (die cell : Nat) (s : State) : Host.Outcome State Fault Refusal := inRange (cellOk die cell) (issue 0x1A usesAlu (alu (· * ·)) die cell s)

def execAddi (die cell : Nat) (s : State) : Host.Outcome State Fault Refusal :=
  inRange (cellOk die cell) (issue 0x1B { d := true, a := true, imm := 32 }
    (onCell (fun u => u.x.setS u.i.d (u.x.sreg u.i.a + simm u.i))) die cell s)

/-- LDA: 8 bytes of the argument buffer. R138 names no code for an offset that is no multiple of 8, which faults with 0x100A, nor for one of 256
or more, which faults with 0x1006 (DESIGN CHOICE, assumption log 44). -/
def lda (u : Unit1) (s : State) : Issue :=
  if u.i.imm % 8 ≠ 0 then .fault 0x100A 0
  else if 256 ≤ u.i.imm then .fault 0x1006 0
  else .next s (u.x.setS u.i.d (BitVec.ofNat 64 (leNat ((upFrom u.i.imm 8).map (Tbl.get 0 u.x.args)) 0 8)))

def execLda (die cell : Nat) (s : State) : Host.Outcome State Fault Refusal :=
  inRange (cellOk die cell) (issue 0x1C { d := true, imm := 32 } lda die cell s)

/-! ### The cell store (R136, R139-R141) -/

/-- Whether an access to the own store, whose swarm address is `base`, waits for an outstanding GET or PUT: read against write, or write against
anything. A GET or PUT has its local range outstanding, and its swarm range where that lies in the own store too (R136, R100). -/
def hazard (base : Nat) (x : Cell) (off n : Nat) (write : Bool) : Bool :=
  x.dma.any (fun d => (overlaps off n d.loc d.bytes && (write || d.isGet)) || (overlaps (base + off) n d.addr d.bytes && (write || !d.isGet)))

/-- An own-store access: its alignment, its range, a hazard, R74, and the parcel checks it uses. -/
def ownAccess (u : Unit1) (off n align : Nat) (write : Bool) (s : State) (f : Nat → Issue) : Issue :=
  let a := cellStore s u.die u.cell + off
  if off % align ≠ 0 then .fault 0x100A (if off < 0x200000 then a else 0)
  else if 0x180000 < off + n then .fault 0x1006 (if off < 0x200000 then a else 0)
  else if hazard (cellStore s u.die u.cell) u.x off n write then .stall
  else
    let c := permCheck s (.unit u.j.ctx.toNat true u.die) a n write
    let used := if write then (parcelsOf a n).filter (fun p => !(wholeParcels a n).contains p) else parcelsOf a n
    if c ≠ 0 then .fault c a write
    else if ¬ used.all (fun p => !(Tbl.get false s.mem.bad p)) then .fault 0x5001 a
    else f a

/-- A read of `n` bytes of the own store, used by `f`. -/
def loadOwn (u : Unit1) (off n align : Nat) (s : State) (f : Bytes → Issue) : Issue :=
  ownAccess u off n align false s (fun a => f (memRead s a n))

/-- Bytes written to the own store. -/
def storeOwn (u : Unit1) (off align : Nat) (l : Bytes) (x : Cell) (s : State) : Issue :=
  ownAccess u off l.length align true s (fun a => .next (memWrite s a l) x)

/-- s[A] + IMM. -/
def offsetAI (u : Unit1) : Nat := (u.x.sreg u.i.a + simm u.i).toNat

def execLds (die cell : Nat) (s : State) : Host.Outcome State Fault Refusal :=
  inRange (cellOk die cell) (issue 0x1D { d := true, a := true, imm := 32 }
    (fun u s => loadOwn u (offsetAI u) 8 8 s (fun l => .next s (u.x.setS u.i.d (le64 l 0)))) die cell s)

def execSts (die cell : Nat) (s : State) : Host.Outcome State Fault Refusal :=
  inRange (cellOk die cell) (issue 0x1E { a := true, b := true, imm := 32 }
    (fun u s => storeOwn u (offsetAI u) 8 (toLE 8 (u.x.sreg u.i.b).toNat) u.x s) die cell s)

/-- 32 little-endian 32-bit values. -/
def lanesOf (l : Bytes) : List W32 := (upFrom 0 32).map (fun i => le32 l (4 * i))
/-- The bytes of 32-bit values. -/
def lanesLE (l : List W32) : Bytes := (l.map (fun x => toLE 4 x.toNat)).flatten

def execVld (die cell : Nat) (s : State) : Host.Outcome State Fault Refusal :=
  inRange (cellOk die cell) (issue 0x20 { d := true, a := true, imm := 32 }
    (fun u s => loadOwn u (offsetAI u) 128 128 s (fun l => .next s (u.x.setV u.i.d (lanesOf l)))) die cell s)

def execVst (die cell : Nat) (s : State) : Host.Outcome State Fault Refusal :=
  inRange (cellOk die cell) (issue 0x21 { a := true, b := true, imm := 32 }
    (fun u s => storeOwn u (offsetAI u) 128 (lanesLE (u.x.vreg u.i.b)) u.x s) die cell s)

/-- Element `i` of a run of elements of format `k`, INT4 packed under R104. -/
def elemAt (k : Nat) (l : Bytes) (i : Nat) : Nat :=
  if k = 6 then (byteAt l (i / 2)).toNat / 16 ^ (i % 2) % 16 else leNat l (i * (fmtBits k / 8)) (fmtBits k / 8)

/-- Bytes of `n` elements of format `k`. -/
def elemBytes (k n : Nat) : Nat := (n * fmtBits k + 7) / 8

/-- Two codes to a byte, the even index low (R104). -/
def packNibbles : List Nat → Bytes
  | [] => []
  | [a] => [BitVec.ofNat 8 a]
  | a :: b :: l => BitVec.ofNat 8 (a + 16 * b) :: packNibbles l

/-- A run of codes of format `k` as bytes. -/
def packElems (k : Nat) (l : List Nat) : Bytes := if k = 6 then packNibbles l else (l.map (toLE (fmtBits k / 8))).flatten

/-- One element widened to FP32 (R113). -/
def widen (k c : Nat) : W32 := if k = 0 then BitVec.ofNat 32 c else BitVec.ofNat 32 (roundNum fp32 false false (decodeFmt k c)).code

/-- VLDN: IMM[3:0] is the format, and s[A] the offset. -/
def vldn (u : Unit1) (s : State) : Issue :=
  let k := u.i.imm
  if 6 < k then .fault 0x1006 0
  else loadOwn u (u.x.sreg u.i.a).toNat (elemBytes k 32) (elemBytes k 32) s (fun l =>
    .next s (u.x.setV u.i.d ((upFrom 0 32).map (fun i => widen k (elemAt k l i)))))

def execVldn (die cell : Nat) (s : State) : Host.Outcome State Fault Refusal :=
  inRange (cellOk die cell) (issue 0x22 { d := true, a := true, imm := 4 } vldn die cell s)

/-- VSTN: IMM[3:0] format, IMM[4] RTZ, IMM[5] SAT; FP32 to FP32 is no conversion. -/
def vstn (u : Unit1) (s : State) : Issue :=
  let k := u.i.imm % 16
  let conv := fun (x : W32) => if k = 0 then { code := x.toNat } else convertTo k (u.i.imm / 16 % 2 == 1) (u.i.imm / 32 % 2 == 1) (f32 x)
  let l := (u.x.vreg u.i.b).map conv
  if 6 < k then .fault 0x1006 0
  else storeOwn u (u.x.sreg u.i.a).toNat (elemBytes k 32) (packElems k (l.map (·.code)))
    (u.x.raise (l.any (·.invalid)) (l.any (·.overflow)) false) s

def execVstn (die cell : Nat) (s : State) : Host.Outcome State Fault Refusal :=
  inRange (cellOk die cell) (issue 0x23 { a := true, b := true, imm := 6 } vstn die cell s)

/-! ### The vector unit (R126, R146, R147) -/

/-- Lanes written to v[D], with the flags they raise. -/
def putLanes (u : Unit1) (l : List Rounded) : Cell :=
  (u.x.setV u.i.d (l.map (fun r => BitVec.ofNat 32 r.code))).raise (l.any (·.invalid)) (l.any (·.overflow)) false

/-- A lane-wise operation on v[A]. -/
def lanes1 (f : Rnd → W32 → Rounded) : Unit1 → State → Issue :=
  onCell (fun u => putLanes u ((u.x.vreg u.i.a).map (f (rndOf u.x.numctl))))

/-- A lane-wise operation on v[A] and v[B]. -/
def lanes2 (f : Rnd → W32 → W32 → Rounded) : Unit1 → State → Issue :=
  onCell (fun u => putLanes u (((u.x.vreg u.i.a).zip (u.x.vreg u.i.b)).map (fun e => f (rndOf u.x.numctl) e.1 e.2)))

/-- The fields of the two-register operations. -/
def uses1 : Uses := { d := true, a := true }

def execVadd (die cell : Nat) (s : State) : Host.Outcome State Fault Refusal := inRange (cellOk die cell) (issue 0x24 usesAlu (lanes2 laneAdd) die cell s)
def execVsub (die cell : Nat) (s : State) : Host.Outcome State Fault Refusal := inRange (cellOk die cell) (issue 0x25 usesAlu (lanes2 laneSub) die cell s)
def execVmul (die cell : Nat) (s : State) : Host.Outcome State Fault Refusal := inRange (cellOk die cell) (issue 0x26 usesAlu (lanes2 laneMul) die cell s)

/-- VFMA: v[A] × v[B] + v[C]. -/
def vfma : Unit1 → State → Issue :=
  onCell (fun u => putLanes u (((u.x.vreg u.i.a).zip ((u.x.vreg u.i.b).zip (u.x.vreg u.i.c))).map
    (fun e => laneFma (rndOf u.x.numctl) e.1 e.2.1 e.2.2)))

def execVfma (die cell : Nat) (s : State) : Host.Outcome State Fault Refusal :=
  inRange (cellOk die cell) (issue 0x27 { d := true, a := true, b := true, c := true } vfma die cell s)
def execVdiv (die cell : Nat) (s : State) : Host.Outcome State Fault Refusal := inRange (cellOk die cell) (issue 0x28 usesAlu (lanes2 laneDiv) die cell s)
def execVsqrt (die cell : Nat) (s : State) : Host.Outcome State Fault Refusal := inRange (cellOk die cell) (issue 0x29 uses1 (lanes1 laneSqrt) die cell s)
def execVmin (die cell : Nat) (s : State) : Host.Outcome State Fault Refusal :=
  inRange (cellOk die cell) (issue 0x2A usesAlu (lanes2 (fun _ => laneMinMax false)) die cell s)
def execVmax (die cell : Nat) (s : State) : Host.Outcome State Fault Refusal :=
  inRange (cellOk die cell) (issue 0x2B usesAlu (lanes2 (fun _ => laneMinMax true)) die cell s)
def execVexp2 (die cell : Nat) (s : State) : Host.Outcome State Fault Refusal := inRange (cellOk die cell) (issue 0x2C uses1 (lanes1 laneExp2) die cell s)
def execVlog2 (die cell : Nat) (s : State) : Host.Outcome State Fault Refusal := inRange (cellOk die cell) (issue 0x2D uses1 (lanes1 laneLog2) die cell s)
def execVrcp (die cell : Nat) (s : State) : Host.Outcome State Fault Refusal := inRange (cellOk die cell) (issue 0x2E uses1 (lanes1 laneRcp) die cell s)
def execVrsqrt (die cell : Nat) (s : State) : Host.Outcome State Fault Refusal :=
  inRange (cellOk die cell) (issue 0x2F uses1 (lanes1 laneRsqrt) die cell s)
def execVtanh (die cell : Nat) (s : State) : Host.Outcome State Fault Refusal := inRange (cellOk die cell) (issue 0x30 uses1 (lanes1 laneTanh) die cell s)

def execVbcast (die cell : Nat) (s : State) : Host.Outcome State Fault Refusal :=
  inRange (cellOk die cell) (issue 0x31 uses1
    (onCell (fun u => u.x.setV u.i.d (List.replicate 32 ((u.x.sreg u.i.a).truncate 32)))) die cell s)

/-- VRSUM: lane 0 takes the reduction, the others +0. -/
def vrsum (u : Unit1) : Cell :=
  let (r, t) := laneSum (rndOf u.x.numctl) (u.x.vreg u.i.a)
  (u.x.setV u.i.d (BitVec.ofNat 32 r.code :: List.replicate 31 0)).raise r.invalid r.overflow t

def execVrsum (die cell : Nat) (s : State) : Host.Outcome State Fault Refusal := inRange (cellOk die cell) (issue 0x32 uses1 (onCell vrsum) die cell s)

/-- SETNUM: the word must satisfy R107. -/
def setnum (u : Unit1) (s : State) : Issue :=
  let w : W16 := BitVec.ofNat 16 u.i.imm
  if numctlOk w then .next s { u.x with numctl := w } else .fault 0x1006 0

def execSetnum (die cell : Nat) (s : State) : Host.Outcome State Fault Refusal :=
  inRange (cellOk die cell) (issue 0x40 { imm := 16 } setnum die cell s)

end Sys2Proof.Machine
end

