-- ==== Sys2Proof/Machine/Matrix.lean ====
section
/-! DEFINITION. The accumulator (R142-R145, R506): entries, product terms into them, anchors, the partial form, and finishing;
and the cell instructions over it. Matrix tiles and the ACC_SUM collective use the same entries (R224, R250). -/

namespace Sys2Proof.Machine

/-! ### One entry (R143, R144) -/

/-- An entry's value as an integer. -/
def AccEntry.int (e : AccEntry) : Int := e.value.toInt

/-- Classes combined (R121). -/
def joinClass (a b : BitVec 2) : BitVec 2 := if a = 0 then b else if b = 0 ∨ a = b then a else 3

/-- Unit exponent of a direct group (R143). -/
def groupUnit : Nat → Int
  | 1 => -48
  | 2 => -32
  | _ => 0

/-- The direct group of an MMA without block scales (R143): an FP16 pair, an 8-bit float pair or an INT pair. -/
def directGroup (n : NumCtl) (block : Bool) : Option Nat :=
  if block then none
  else match pairGroup n.a n.b with
    | some 1 => if n.a = 2 ∧ n.b = 2 then some 1 else none
    | some 2 => some 2
    | some 3 => some 3
    | _ => none

/-- Weight exponent of an entry's integer; none for an anchored entry without an anchor. -/
def AccEntry.base (e : AccEntry) : Option Int :=
  match e.mode with
  | .direct g => some (groupUnit g)
  | .anchored (some a) => some (a - 127)
  | _ => none

/-- One term added to an entry that has its mode; none is a fault. -/
def addTerm (e : AccEntry) (t : Num × Bool) : Option AccEntry :=
  let e := { e with touched := true, allNegZero := e.allNegZero && t.1.isZero && t.1.sign, invalid := e.invalid || t.2 }
  match t.1 with
  | .nan => some { e with cls := 3 }
  | .inf neg => some { e with cls := joinClass e.cls (if neg then 2 else 1), posInf := e.posInf || !neg, negInf := e.negInf || neg }
  | .fin neg m x =>
    if m = 0 then some e
    else
      let above := match e.mode with
        | .anchored (some a) => decide (a < (Nat.log2 m : Int) + x)
        | _ => false
      match e.base, above with
      | some b, false =>
        let (k, lost) := cutTo m x b
        some { e with value := BitVec.ofInt 192 (e.int + (if neg then -(k : Int) else k)), truncated := e.truncated || lost }
      | _, _ => none

/-- Terms added in turn. -/
def addTerms : AccEntry → List (Num × Bool) → Option AccEntry
  | e, [] => some e
  | e, t :: l => match addTerm e t with
    | some e => addTerms e l
    | none => none

/-- MMA into one entry: an entry with no mode takes one; direct entries take only their own group (R143). A pair that would take direct mode adds to
an entry in anchored mode as anchored terms, which R143 can be read to refuse (DESIGN CHOICE, assumption log 78). -/
def mmaEntry (g : Option Nat) (l : List (Num × Bool)) (e : AccEntry) : Option AccEntry :=
  match e.mode, g with
  | .none, some k => addTerms { e with mode := .direct k } l
  | .none, none => addTerms { e with mode := .anchored none } l
  | .direct k, some k' => if k = k' then addTerms e l else none
  | .direct _, none => none
  | .anchored _, _ => addTerms e l

/-- An anchored entry given an anchor; changing it after an MMA is a fault (R143). -/
def setAnchor (e : AccEntry) (a : Option Int) : Option AccEntry :=
  if e.touched ∧ e.mode ≠ .anchored a then none else some { e with mode := .anchored a }

/-- AMAX on one entry (R506). -/
def amaxEntry (l : List (Num × Bool)) (e : AccEntry) : Option AccEntry :=
  let top := l.foldl (fun a t => maxAnchor a (expOf t.1)) none
  match e.mode with
  | .none => setAnchor e top
  | .anchored a => setAnchor e (maxAnchor a top)
  | .direct _ => none

/-- The ANCHOR code of an entry (R144, R506). -/
def anchorCode (e : AccEntry) : W16 :=
  match e.mode with
  | .anchored (some a) => BitVec.ofInt 16 a
  | .direct _ => 0x7FFF
  | _ => 0x8000

/-- LDANC on one entry (R506). -/
def ldancEntry (maximum : Bool) (code : W16) (e : AccEntry) : Option AccEntry :=
  if code = 0x7FFF then
    match e.mode with
    | .anchored _ => none
    | _ => some e
  else
    let v : Option Int := if code = 0x8000 then none else some code.toInt
    match e.mode with
    | .direct _ => if v = none then some e else none
    | .none => setAnchor e v
    | .anchored a => setAnchor e (if maximum then maxAnchor a v else v)

/-- GROUP of an entry. -/
def groupOf (e : AccEntry) : Nat := match e.mode with
  | .direct g => g
  | _ => 0

/-- EFLAGS of an entry (R144). -/
def eflags (e : AccEntry) : Nat := b2n e.allNegZero + 2 * b2n e.invalid + 4 * b2n e.truncated + 8 * b2n e.posInf + 16 * b2n e.negInf

/-- An entry in partial form: 32 bytes (R144). -/
def packEntry (e : AccEntry) : Bytes :=
  toLE 24 e.value.toNat ++ toLE 2 (anchorCode e).toNat ++ toLE 1 e.cls.toNat ++ toLE 1 (eflags e) ++ toLE 1 (groupOf e) ++ zeros 3

/-- The checks of one entry's partial form (R144): 0x1005, 0x1006 or 0. -/
def partialBad (l : Bytes) : W16 :=
  let anchor := le16 l 24
  let group := leNat l 28 1
  if field (byteAt l 27) 7 5 ≠ 0 ∨ ¬ zeroIn l 29 32 then 0x1005
  else if 3 < leNat l 26 1 ∨ 3 < group ∨ (anchor = 0x7FFF ∧ group = 0) ∨ (anchor ≠ 0x7FFF ∧ group ≠ 0)
      ∨ (anchor = 0x8000 ∧ leNat l 0 24 ≠ 0) then 0x1006
  else 0

/-- The entry that a well-formed partial form stands for. -/
def unpackEntry (l : Bytes) : AccEntry :=
  let f := byteAt l 27
  let anchor := le16 l 24
  { mode := if anchor = 0x7FFF then .direct (leNat l 28 1) else if anchor = 0x8000 then .none else .anchored (some anchor.toInt),
    value := BitVec.ofNat 192 (leNat l 0 24), cls := BitVec.ofNat 2 (leNat l 26 1),
    allNegZero := bitOf f 0, invalid := bitOf f 1, truncated := bitOf f 2, posInf := bitOf f 3, negInf := bitOf f 4 }

/-- The mode of two entries added, when they agree (R144). -/
def joinMode : AccMode → AccMode → Option AccMode
  | m, .none => some m
  | .none, m => some m
  | .direct g, .direct h => if g = h then some (.direct g) else none
  | .anchored a, .anchored b => if b = none ∨ a = b then some (.anchored a) else if a = none then some (.anchored b) else none
  | _, _ => none

/-- ACCADD of one entry (R144): the values added exactly, flags combined; none is a fault. -/
def addEntry (e p : AccEntry) : Option AccEntry :=
  (joinMode e.mode p.mode).map (fun m =>
    { mode := m, value := e.value + p.value, cls := joinClass e.cls p.cls, allNegZero := e.allNegZero && p.allNegZero,
      invalid := e.invalid || p.invalid, truncated := e.truncated || p.truncated, posInf := e.posInf || p.posInf,
      negInf := e.negInf || p.negInf, touched := e.touched || decide (p.mode ≠ .none) })

/-- S of an entry (R121). -/
def entrySum (e : AccEntry) : Num :=
  match e.cls.toNat with
  | 1 => .inf false
  | 2 => .inf true
  | 3 => .nan
  | _ => if e.value = 0 then .fin e.allNegZero 0 0 else ofInt e.int (e.base.getD 0)

/-- An entry finished (R115, R123, R145): s_A × s_B × S + C, rounded once, with the flags of the final step and the entry. -/
def finishEntry (n : NumCtl) (sa sb : W32) (c : Option W32) (e : AccEntry) : Rounded × Bool :=
  let s := entrySum e
  let (p, i1) := mulNum (f32 sa) (f32 sb)
  let (q, i2) := mulNum p s
  let (x, i3) := match c with
    | some v => addNum q (if n.out = 7 then ofInt v.toInt 0 else f32 v)
    | none => (q, false)
  let r := roundOut n.out n.rtz n.sat x
  ({ r with invalid := r.invalid || i1 || i2 || i3 || e.invalid || (e.posInf && e.negInf) }, e.truncated)

/-! ### Tiles of entries -/

/-- The product terms of entry (r, c) over `k` steps of operand panels of height `h`, with block scales when there are any (R142,
R249): element (r, k) of A at index h × k + r, element (k, c) of B at h × k + c. -/
def entryTerms (n : NumCtl) (h k : Nat) (a b : Bytes) (scales : Option (Bytes × Bytes)) (r c : Nat) : List (Num × Bool) :=
  ((upFrom 0 k).map (fun i =>
    let x := decodeFmt n.a (elemAt n.a a (h * i + r))
    let y := decodeFmt n.b (elemAt n.b b (h * i + c))
    match scales with
    | some (sa, sb) =>
      termsOf n.split (blockScaled (byteAt sa (h * (i / 32) + r)) x) (blockScaled (byteAt sb (h * (i / 32) + c)) y)
    | none => termsOf n.split x y)).flatten

/-- A function applied to every entry of tile `a` of an accumulator; none when one faults. -/
def mapTile (f : Nat → AccEntry → Option AccEntry) (a : Nat) : Nat → Tbl AccEntry → Option (Tbl AccEntry)
  | 0, t => some t
  | n + 1, t => match f n (Tbl.get {} t (4096 * a + n)) with
    | some e => mapTile f a n (Tbl.set {} t (4096 * a + n) e)
    | none => none

/-- The 4,096 entries of tile `a` of a cell, in row-major order. -/
def tileEntries (x : Cell) (a : Nat) : List AccEntry := (upFrom (4096 * a) 4096).map (Tbl.get {} x.acc)

/-- An instruction over an accumulator tile, whose index must be 0-3 (R137). -/
def onTile (u : Unit1) (f : Issue) : Issue := if 3 < u.i.d then .fault 0x1006 0 else f

/-- A tile changed entry by entry, or the fault 0x1006. -/
def putTile (u : Unit1) (f : Nat → AccEntry → Option AccEntry) (s : State) : Issue :=
  match mapTile f u.i.d 4096 u.x.acc with
  | some t => .next s { u.x with acc := t }
  | none => .fault 0x1006 0

/-! ### The instructions -/

/-- The operand panels and scales of MMA and AMAX (R142), read from the own store, for `f`. A slice length of 0, and block scales under a NUMCTL
whose formats R107 does not let have them, fault with 0x1006, for which R142 and R139 give no code (DESIGN CHOICE, assumption log 78). -/
def withPanels (u : Unit1) (s : State) (f : NumCtl → Nat → Bytes → Bytes → Option (Bytes × Bytes) → Issue) : Issue :=
  let n := numctl u.x.numctl
  let k := u.i.imm % 65536
  let block := u.i.imm / 65536 % 2 = 1
  onTile u (
    if k = 0 ∨ (block ∧ (k % 32 ≠ 0 ∨ ¬ blocksOk u.x.numctl)) then .fault 0x1006 0
    else
      loadOwn u (u.x.sreg u.i.a).toNat (elemBytes n.a (64 * k)) 64 s (fun a =>
        loadOwn u (u.x.sreg u.i.b).toNat (elemBytes n.b (64 * k)) 64 s (fun b =>
          if block then
            let v := (u.x.sreg u.i.c).toNat
            loadOwn u (v % 2 ^ 32) (2 * k) 64 s (fun sa => loadOwn u (v / 2 ^ 32) (2 * k) 64 s (fun sb => f n k a b (some (sa, sb))))
          else f n k a b none)))

/-- The fields of MMA, AMAX and FIN. -/
def usesMma : Uses := { d := true, a := true, b := true, c := true, imm := 17 }

/-- AMAX. -/
def amax (u : Unit1) (s : State) : Issue :=
  withPanels u s (fun n k a b sc => putTile u (fun i e => amaxEntry (entryTerms n 64 k a b sc (i / 64) (i % 64)) e) s)

def execAmax (die cell : Nat) (s : State) : Host.Outcome State Fault Refusal := inRange (cellOk die cell) (issue 0x41 usesMma amax die cell s)

/-- MMA. -/
def mma (u : Unit1) (s : State) : Issue :=
  withPanels u s (fun n k a b sc =>
    putTile u (fun i e => mmaEntry (directGroup n sc.isSome) (entryTerms n 64 k a b sc (i / 64) (i % 64)) e) s)

def execMma (die cell : Nat) (s : State) : Host.Outcome State Fault Refusal := inRange (cellOk die cell) (issue 0x42 usesMma mma die cell s)

/-- ACLR. -/
def aclr (u : Unit1) (s : State) : Issue :=
  onTile u (.next s { u.x with acc := u.x.acc.filter (fun e => e.1 / 4096 ≠ u.i.d) })

def execAclr (die cell : Nat) (s : State) : Host.Outcome State Fault Refusal := inRange (cellOk die cell) (issue 0x43 { d := true } aclr die cell s)

/-- STACC: 128 KiB of partial form at s[A]. -/
def stacc (u : Unit1) (s : State) : Issue :=
  onTile u (storeOwn u (u.x.sreg u.i.a).toNat 256 ((tileEntries u.x u.i.d).map packEntry).flatten u.x s)

def execStacc (die cell : Nat) (s : State) : Host.Outcome State Fault Refusal := inRange (cellOk die cell) (issue 0x44 uses1 stacc die cell s)

/-- ACCADD: a stored partial form added exactly; a malformed entry faults with its code. -/
def accadd (u : Unit1) (s : State) : Issue :=
  onTile u (loadOwn u (u.x.sreg u.i.a).toNat 131072 256 s (fun l =>
    match ((upFrom 0 4096).map (fun i => partialBad (slice l (32 * i) 32))).find? (· ≠ 0) with
    | some c => .fault c 0
    | none => putTile u (fun i e => addEntry e (unpackEntry (slice l (32 * i) 32))) s))

def execAccadd (die cell : Nat) (s : State) : Host.Outcome State Fault Refusal := inRange (cellOk die cell) (issue 0x45 uses1 accadd die cell s)

/-- STANC: the 4,096 anchors at s[A]. -/
def stanc (u : Unit1) (s : State) : Issue :=
  onTile u (storeOwn u (u.x.sreg u.i.a).toNat 256 ((tileEntries u.x u.i.d).map (fun e => toLE 2 (anchorCode e).toNat)).flatten u.x s)

def execStanc (die cell : Nat) (s : State) : Host.Outcome State Fault Refusal := inRange (cellOk die cell) (issue 0x46 uses1 stanc die cell s)

/-- LDANC: anchors from s[A]; IMM 0 replaces, 1 takes the maximum. -/
def ldanc (u : Unit1) (s : State) : Issue :=
  onTile u (if 1 < u.i.imm then .fault 0x1006 0
    else loadOwn u (u.x.sreg u.i.a).toNat 8192 256 s (fun l => putTile u (fun i e => ldancEntry (u.i.imm == 1) (le16 l (2 * i)) e) s))

def execLdanc (die cell : Nat) (s : State) : Host.Outcome State Fault Refusal :=
  inRange (cellOk die cell) (issue 0x47 { d := true, a := true, imm := 32 } ldanc die cell s)

/-- FP32 1.0. -/
def f32One : W32 := 0x3F800000

/-- FIN: entries finished into s[A], with scales from s[B] and addends at s[C] when IMM[0] is set. -/
def fin (u : Unit1) (s : State) : Issue :=
  let n := numctl u.x.numctl
  let v := (u.x.sreg u.i.b).toNat
  let sa : W32 := BitVec.ofNat 32 v
  let sb : W32 := BitVec.ofNat 32 (v / 2 ^ 32)
  let es := tileEntries u.x u.i.d
  let out := fun (c : Nat → Option W32) =>
    let l := ((upFrom 0 4096).zip es).map (fun e => finishEntry n sa sb (c e.1) e.2)
    storeOwn u (u.x.sreg u.i.a).toNat 256 (packElems n.out (l.map (fun r => r.1.code)))
      (u.x.raise (l.any (fun r => r.1.invalid)) (l.any (fun r => r.1.overflow)) (l.any (fun r => r.2))) s
  onTile u (
    if n.out = 7 ∧ (sa ≠ f32One ∨ sb ≠ f32One) then .fault 0x1006 0
    else if u.i.imm = 1 then loadOwn u (u.x.sreg u.i.c).toNat 16384 256 s (fun l => out (fun i => some (le32 l (4 * i))))
    else out (fun _ => none))

def execFin (die cell : Nat) (s : State) : Host.Outcome State Fault Refusal :=
  inRange (cellOk die cell) (issue 0x48 { d := true, a := true, b := true, c := true, imm := 1 } fin die cell s)

end Sys2Proof.Machine
end

