-- ==== Sys2Proof/Machine/CellMove.lean ====
section
/-! DEFINITION. GET and PUT (R150), WAITF (R149) and SIGF (R148) of a cell program, and their completion. -/

namespace Sys2Proof.Machine

/-- A GET or PUT issued: alignment, range, the limit of 16, where a 17th waits for the oldest (R136), hazards on its own range and on a swarm range
in the own store, and R74 and the parcel checks on the own store. -/
def issueDma (isGet : Bool) (u : Unit1) (s : State) : Issue :=
  let loc := (u.x.sreg u.i.a).toNat
  let addr := (u.x.sreg u.i.b).toNat
  let n := (u.x.sreg u.i.c).toNat
  let base := cellStore s u.die u.cell
  if n % 256 ≠ 0 ∨ addr % 256 ≠ 0 then .fault 0x100A addr
  else if n < 256 ∨ 0x180000 < n ∨ 2 ^ 48 ≤ addr then .fault 0x1006 addr
  else if u.x.dma.any (·.awaited) then .stall
  else if 16 ≤ u.x.dma.length then .hold { u.x with dma := (u.x.dma.take 1).map (fun d => { d with awaited := true }) ++ u.x.dma.drop 1 }
  else if base ≤ addr ∧ addr < base + 0x180000 ∧ hazard base u.x (addr - base) n (!isGet) then .stall
  else ownAccess u loc n 256 isGet s (fun _ => .next s { u.x with dma := u.x.dma ++ [{ isGet := isGet, loc := loc, addr := addr, bytes := n }] })

/-- The fields of GET and PUT. -/
def usesDma : Uses := { a := true, b := true, c := true }

def execGet (die cell : Nat) (s : State) : Host.Outcome State Fault Refusal := inRange (cellOk die cell) (issue 0x50 usesDma (issueDma true) die cell s)
def execPut (die cell : Nat) (s : State) : Host.Outcome State Fault Refusal := inRange (cellOk die cell) (issue 0x51 usesDma (issueDma false) die cell s)

/-- The bytes of a GET or PUT moved (R150): whole parcels with their checks. -/
def moveDma (die cell : Nat) (d : Dma) (s : State) : State :=
  let own := cellStore s die cell + d.loc
  if d.isGet then memWrite s own (memRead s d.addr d.bytes) else writeMem d.addr (memRead s own d.bytes) s

/-- The cell once operation `i` has completed: waiting instructions may issue; one that has stopped ends with its last operation (R149). -/
def dmaDone (i : Nat) (x : Cell) : Cell :=
  let y := { x with dma := x.dma.eraseIdx i }
  if x.job.any (·.stopped) then (if y.dma = [] then stopCell y else y)
  else { y with state := if x.state = .stalled then .running else x.state }

/-- A GET or PUT from or to a region window (R240): its next parcel is presented on TGT, and it completes when the last is answered. -/
def dmaWindow (k : Nat) (u : Unit1) (i : Nat) (d : Dma) (s : State) : State :=
  let r : Requester := .unit u.j.ctx.toNat true u.die
  let own := cellStore s u.die u.cell + d.loc
  let (t, w, c) := windowStep k r (mkSrc s.swarm.node u.die 4 u.cell 0) (.cell u.die u.cell) (!d.isGet) d.addr d.bytes
    (if d.isGet then [] else memRead s own d.bytes) d.win s
  if d.win.code = 0 ∧ retryOne s r c d.addr then t
  else if c ≠ 0 then faultCell u c d.addr (!d.isGet) t
  else if d.bytes ≤ w.done then setCell (if d.isGet then memWrite t own (slice w.got 0 d.bytes) else t) u.die u.cell (dmaDone i u.x)
  else setCell t u.die u.cell { u.x with dma := u.x.dma.set i { d with win := w } }

/-- DMA_COMPLETE (R150): outstanding operation `i` completes under R74, R30 and R189, and its packets have crossed the network (R175). -/
def dmaComplete (die cell i : Nat) (s : State) : State :=
  let x := getCell s die cell
  match x.job, x.dma[i]? with
  | some j, some d =>
    let live := (localCtx s j.ctx.toNat).any (fun c => !inReset (getCtx s c))
    let u : Unit1 := { die := die, cell := cell, x := x, j := j, i := insOf 0 }
    let r : Requester := .unit j.ctx.toNat true die
    let src := mkSrc s.swarm.node die 4 cell 0
    let code := accessCheck s r d.addr d.bytes (!d.isGet)
    let bad := d.isGet && addrNode d.addr == s.swarm.node && !checksOk s d.addr d.bytes
    let s := if live ∧ ¬ d.retry ∧ windowAt s d.addr d.bytes = none then
        sendPackets r src (!d.isGet) d.addr d.bytes (memRead s (cellStore s die cell + d.loc) d.bytes) (if code = 0 ∧ bad then 0x5001 else code) s
      else s
    if ¬ live ∨ d.retry then s
    else match windowAt s d.addr d.bytes with
      | some k => dmaWindow k u i d s
      | none =>
        if retryOne s r code d.addr then noticeDomain s r d.addr
        else if code ≠ 0 then faultCell u code d.addr (!d.isGet) s
        else if bad then faultCell u 0x5001 d.addr false s
        else setCell (moveDma die cell d s) die cell (dmaDone i x)
  | _, _ => s

def execDmaComplete (die cell i : Nat) (s : State) : Host.Outcome State Fault Refusal :=
  inRange (cellOk die cell && decide (i < 16)) (dmaComplete die cell i s)

/-- An address that must name a fence of the context's family to be signalled (R90, R507): 0x1004 where no such fence lies. -/
def fenceNamed (s : State) (r : Requester) (ctx a : Nat) : W16 :=
  let c := reachCheck s r a 8
  if c ≠ 0 then c
  else if addrNode a ≠ s.swarm.node then 0
  else match liveFence s a with
    | some i => if inFamily s ctx i then 0 else 0x1004
    | none => 0x1004

/-- WAITF: the wait starts. -/
def waitf (u : Unit1) (s : State) : Issue :=
  let a := (u.x.sreg u.i.a).toNat
  let t := u.x.sreg u.i.b
  let c := waitCheck s (.unit u.j.ctx.toNat true u.die) u.j.ctx.toNat a
  if a % 8 ≠ 0 then .fault 0x100A a
  else if bitOf t 63 then .fault 0x1006 a
  else if c ≠ 0 then .fault c a
  else .next s { u.x with wait := some { addr := a, target := t, dest := u.i.d, trap := u.i.imm == 1 } }

def execWaitf (die cell : Nat) (s : State) : Host.Outcome State Fault Refusal :=
  inRange (cellOk die cell) (issue 0x52 { d := true, a := true, b := true, imm := 1 } waitf die cell s)

/-- The signal fence of a descriptor when it passes its check (R83). -/
def goodSignalFence (s : State) (ctx : Nat) (b : Bytes) : Option Nat := (signalFence s b).filter (inFamily s ctx)

/-- A started descriptor that fails with a code (R149, R83): it will not retire, and its queue halts. -/
def failDesc (q : Nat) (d : W32) (code : W16) (s : State) : State :=
  let x := getQueue s q
  match x.inflight.find? (fun e => e.num == d) with
  | some e =>
    if e.failed.isSome then s
    else
      let s := setQueue s q { x with inflight := x.inflight.map (fun e => if e.num = d then { e with failed := some code } else e) }
      haltQueue q d code (goodSignalFence s x.ctx.toNat e.bytes) s
  | none => s

/-- WAITF_RELEASE (R149, R93): the observed word is written; with TRAP, a poisoned fence stops the item, whose
issued GET and PUT operations still end, and fails the descriptor. -/
def waitfRelease (die cell : Nat) (s : State) : State :=
  let x := getCell s die cell
  match x.job, x.wait with
  | some j, some w =>
    let live := (localCtx s j.ctx.toNat).any (fun c => !inReset (getCtx s c))
    let v := waitWord s w.addr
    if ¬ live ∨ v.toNat < w.target.toNat then s
    else
      let y : Cell := { x.setS w.dest v with wait := none, state := .running }
      if w.trap ∧ bitOf v 63 then
        failDesc j.queue j.desc (BitVec.ofNat 16 (field v 62 48))
          (setCell s die cell (if y.dma = [] then stopCell y else { y with job := some { j with stopped := true }, state := .stalled }))
      else setCell s die cell y
  | _, _ => s

def execWaitfRelease (die cell : Nat) (s : State) : Host.Outcome State Fault Refusal := inRange (cellOk die cell) (waitfRelease die cell s)

/-- SIGF: after every earlier write of the cell, the signal is sent to the fence unit (R148, R90); one for another node that cannot reach it is
discarded on its way (R215). -/
def sigf (u : Unit1) (s : State) : Issue :=
  let a := (u.x.sreg u.i.a).toNat
  if u.x.dma ≠ [] then .stall
  else if a % 8 ≠ 0 then .fault 0x100A a
  else
    let c := fenceNamed s (.unit u.j.ctx.toNat true u.die) u.j.ctx.toNat a
    if (addrNode a ≠ s.swarm.node ∧ a < 2 ^ 48) ∨ c = 0 ∨ (fenceIndex s a).isSome then
      .next (sendSignal (mkSrc s.swarm.node u.die 4 u.cell 0) a (u.i.imm == 1) (u.x.sreg u.i.b) (.cell u.die u.cell) u.j.ctx s) u.x
    else .fault c a

def execSigf (die cell : Nat) (s : State) : Host.Outcome State Fault Refusal :=
  inRange (cellOk die cell) (issue 0x53 { a := true, b := true, imm := 1 } sigf die cell s)

end Sys2Proof.Machine
end

