-- ==== Sys2Proof/Machine/Keeper.lean ====
section
/-! DEFINITION. Mailboxes (R32-R48): rings, doorbells, take-up and checking of requests, responses, events, CMD_DONE, and the
discovery commands (R53). -/

namespace Sys2Proof.Machine

/-! ### The catalogue (R52-R57) -/

/-- A card: opcode, roles (1 Owner, 2 Agent, 4 Safety), request and response length, and the request bytes that no field
names. -/
structure Card where
  op     : Nat
  roles  : Nat
  reqLen : Nat
  rspLen : Nat
  holes  : List Nat := []
deriving DecidableEq, Repr

/-- Cards of R53 and R54. -/
def objectCards : List Card :=
  [⟨0x0001, 7, 0, 22, []⟩, ⟨0x0002, 7, 2, 6, []⟩, ⟨0x0003, 1, 18, 0, [1, 6, 7]⟩, ⟨0x0004, 1, 2, 0, []⟩, ⟨0x0005, 7, 8, 8, []⟩,
   ⟨0x0101, 3, 5, 2, []⟩, ⟨0x0102, 3, 2, 0, []⟩, ⟨0x0103, 3, 16, 12, [7]⟩, ⟨0x0104, 3, 4, 0, []⟩, ⟨0x0105, 3, 5, 0, []⟩,
   ⟨0x0106, 3, 20, 10, []⟩, ⟨0x0107, 3, 3, 0, []⟩, ⟨0x0108, 3, 16, 12, [2, 3, 4, 5, 6, 7]⟩, ⟨0x0109, 3, 16, 0, [4, 5, 6, 7]⟩,
   ⟨0x010A, 3, 4, 2, []⟩, ⟨0x010B, 3, 20, 0, [2, 3]⟩]

/-- Cards of R55 and R56. -/
def systemCards : List Card :=
  [⟨0x0201, 7, 9, 48, []⟩, ⟨0x0202, 3, 16, 0, []⟩, ⟨0x0203, 3, 16, 0, []⟩, ⟨0x0204, 3, 6, 0, []⟩, ⟨0x0205, 3, 4, 0, []⟩,
   ⟨0x0301, 1, 1, 0, []⟩, ⟨0x0302, 1, 3, 0, []⟩, ⟨0x0303, 1, 4, 0, [1]⟩, ⟨0x0304, 1, 16, 0, [4, 5, 6, 7]⟩,
   ⟨0x0401, 1, 2, 0, []⟩, ⟨0x0402, 7, 0, 12, []⟩, ⟨0x0501, 1, 7, 0, []⟩, ⟨0x0502, 1, 1, 0, []⟩]

/-- Cards of R57. -/
def serviceCards : List Card :=
  [⟨0x0601, 7, 8, 8, []⟩, ⟨0x0602, 1, 0, 0, []⟩, ⟨0x0603, 3, 2, 0, []⟩, ⟨0x0604, 1, 1, 0, []⟩, ⟨0x0701, 1, 16, 0, [4, 5, 6, 7]⟩,
   ⟨0x0702, 1, 2, 0, []⟩, ⟨0x0703, 3, 36, 2, []⟩, ⟨0x0704, 1, 8, 0, [1, 2, 3]⟩, ⟨0x0705, 1, 56, 56, [1, 5, 6, 7]⟩,
   ⟨0x0801, 3, 54, 54, []⟩, ⟨0x0802, 7, 1, 40, []⟩, ⟨0x0901, 1, 4, 0, []⟩, ⟨0x0902, 7, 4, 2, []⟩, ⟨0x0A01, 7, 0, 32, []⟩]

/-- The card of an opcode of line 3.2. -/
def card (op : Nat) : Option Card := (objectCards ++ systemCards ++ serviceCards).find? (fun c => c.op == op)

/-- The codes that a card lists, without those that R52 gives every command (R53-R57). -/
def cardCodes (op : Nat) : List W16 :=
  match op with
  | 0x0003 | 0x0004 => [0x1006, 0x2004]
  | 0x0101 => [0x1006, 0x2004, 0x3001, 0x3006]
  | 0x0102 | 0x0603 => [0x1004, 0x2002]
  | 0x0103 => [0x100A, 0x1006, 0x3003, 0x3005]
  | 0x0104 => [0x1004, 0x2002, 0x2004, 0x4002]
  | 0x0105 => [0x1004, 0x2002, 0x4001]
  | 0x0106 => [0x1004, 0x1006, 0x3002]
  | 0x0107 => [0x1006, 0x2002]
  | 0x0108 => [0x1006, 0x3003]
  | 0x0109 => [0x1004, 0x1006, 0x2001]
  | 0x010A => [0x1006, 0x3004]
  | 0x010B => [0x1004, 0x2001, 0x3005, 0x5001]
  | 0x0201 => [0x1006, 0x100A, 0x2005]
  | 0x0202 => [0x1004, 0x1006, 0x100A, 0x1009, 0x2005, 0x4002]
  | 0x0203 => [0x1006, 0x100A, 0x1009, 0x2002, 0x6003]
  | 0x0204 => [0x1006, 0x2001, 0x2002, 0x2003, 0x3008, 0x4005, 0x6003, 0x5009]
  | 0x0205 => [0x2002, 0x6003]
  | 0x0301 | 0x0302 | 0x0401 | 0x0604 | 0x0901 => [0x1006, 0x2001]
  | 0x0303 | 0x0304 | 0x0802 => [0x1006]
  | 0x0501 => [0x1004, 0x2001, 0x4003]
  | 0x0502 => [0x2001]
  | 0x0601 | 0x0703 | 0x0902 => [0x1004]
  | 0x0602 => [0x1009]
  | 0x0701 => [0x4003, 0x4004, 0x500B, 0x6002]
  | 0x0702 => [0x2001, 0x4004]
  | 0x0704 => [0x4003]
  | 0x0705 => [0x1006, 0x6002]
  | 0x0801 => [0x1006, 0x3008, 0x4005, 0x5009]
  | _ => [0x1004]

/-- The role of a mailbox (R32), in the bits of GET_OPCODE_INFO. -/
def roleOf (m : Nat) : Nat := if m = 0 then 1 else if m = 1 then 4 else 2

/-! ### Writing to the response ring (R35, R40, R488) -/

/-- Swarm address of the request ring of mailbox `m` (R35). -/
def ringAddr (s : State) (m : Nat) : Nat := here s 5 (0x00800000000 + 0x800 * m)

/-- The interrupt of a response for a mailbox bound to a PCIe function (R488). -/
def mbxIrq (m : Nat) (s : State) : State :=
  match (getMbx s m).bound with
  | some src =>
    let v := Tbl.get 0 s.keeper.vectors (srcSub src)
    if srcUnit src = 3 ∧ bitOf v 11 then raiseIrq src (field v 10 0) s else s
  | none => s

/-- A message written into the response ring, with RSP_TAIL advanced. -/
def putMsg (m : Nat) (op : W16) (flags tag : Byte) (status : W16) (p : Bytes) (s : State) : State :=
  let x := getMbx s m
  let msg := toLE 2 op.toNat ++ [flags, tag] ++ toLE 2 p.length ++ toLE 2 status.toNat ++ slice p 0 56
  let s := memWrite s (ringAddr s m + 0x400 + 64 * (x.rspTail.toNat % 16)) msg
  mbxIrq m (setMbx s m { x with rspTail := x.rspTail + 1 })

/-- The response to a request (R37, R40, R41): bytes 0-3 of the request as they were read, with FLAGS[1:0] those of a response. -/
def respond (m : Nat) (op : W16) (flags tag : Byte) (status : W16) (p : Bytes) (s : State) : State :=
  putMsg m op ((flags &&& 0xFC) ||| 1) tag status p s

/-- Response slots neither unread nor reserved for a request taken up (R39, R47). -/
def freeSlots (x : Mbx) : Nat := 16 - (x.rspTail - x.rspHead).toNat - b2n x.waiting.isSome

/-! ### Take-up (R37-R45) -/

/-- A request that has passed R44 up to the role: its mailbox, opcode, tag and payload. -/
structure Req where
  m      : Nat
  opcode : W16
  tag    : Byte
  p      : Bytes
deriving DecidableEq, Repr

/-- What a command's own checks and effect answer: it is held (R45), held with an effect that the hold has (a wake notice), its
response waits, or it is answered. -/
inductive Ans where
  | hold
  | keep (s : State)
  | wait (s : State)
  | done (s : State) (status : W16) (p : Bytes)

/-- Tags of the commands of a mailbox that await CMD_DONE, its event not yet delivered included (R42, R43). -/
def awaitingTags (x : Mbx) : List Byte :=
  x.accepted.map (·.tag) ++ (x.events.filter (fun e => e.code == 0xE001)).map (fun e => byteAt e.payload 2)

/-- Tags that a mailbox may not use (R42): of the request whose response waits, and of the commands that await CMD_DONE. -/
def busyTags (x : Mbx) : List Byte := x.waiting.toList.map (·.tag) ++ awaitingTags x

/-- Whether a mailbox has 8 accepted commands that await CMD_DONE (R43). -/
def pendingFull (s : State) (m : Nat) : Bool := 8 ≤ (awaitingTags (getMbx s m)).length

/-- Steps 1-6 of R44: the code of the first check that fails, or 0. -/
def preCheck (s : State) (m : Nat) (b : Bytes) : W16 :=
  let flags := byteAt b 2
  if flags &&& 0x1F ≠ 0 then 0x1007
  else match card (leNat b 0 2) with
    | none => 0x1001
    | some c =>
      if field flags 7 5 ≠ 1 then 0x100B
      else if (busyTags (getMbx s m)).contains (byteAt b 3) ∨ (getMbx s m).clash.contains (getMbx s m).reqHead then 0x1003
      else if leNat b 4 2 ≠ c.reqLen then 0x1002
      else if c.roles &&& roleOf m = 0 then 0x4001
      else 0

/-- The Keeper serves mailboxes from step 6 of the boot chain on (R324). -/
def serving (s : State) : Bool := 6 ≤ s.boot.step.toNat

/-- A request of the mailbox can be taken up: it is bound, rung and not frozen, no answer of it waits, its ring holds a request, and a
response slot is free (R38, R39). -/
def takeable (x : Mbx) : Bool :=
  x.bound.isSome && !x.ringFault && x.rung && x.waiting.isNone && x.revoking.isNone && x.reqTail != x.reqHead
    && decide ((x.reqTail - x.reqHead).toNat ≤ 16) && freeSlots x != 0

/-- The order of a round (R39): mailbox 0, mailbox 1, then 2-31 in rotation after the last one served. -/
def roundOrder (last : Nat) : List Nat := 0 :: 1 :: (upFrom (last + 1) (31 - last) ++ upFrom 2 (last - 1))

/-- The round in which the next request is taken up: the one in progress, or, where it has none left to serve, a new one. -/
def roundOf (s : State) : List Nat :=
  if s.keeper.round.any (fun m => takeable (getMbx s m)) then s.keeper.round else roundOrder s.keeper.lastServed

/-- The mailbox that the Keeper serves next (R39). -/
def nextServed (s : State) : Option Nat := (roundOf s).find? (fun m => takeable (getMbx s m))

/-- The round gone on past mailbox `m`. -/
def roundPast (m : Nat) (s : State) : State :=
  { s with keeper := { s.keeper with round := ((roundOf s).dropWhile (fun k => k != m)).drop 1 } }

/-- The request at REQ_HEAD of mailbox `m` taken up: REQ_HEAD advances, and the round goes on. -/
def takenUp (m : Nat) (s : State) : State :=
  let x := getMbx s m
  let t := setMbx (roundPast m s) m { x with reqHead := x.reqHead + 1, clash := x.clash.filter (· ≠ x.reqHead) }
  { t with keeper := { t.keeper with lastServed := if 2 ≤ m then m else t.keeper.lastServed } }

/-- A request put back at the head of its ring, to be taken up again (R45): the round has gone on past its mailbox. -/
def putBack (m : Nat) (s t : State) : State :=
  setMbx { t with keeper := { t.keeper with lastServed := s.keeper.lastServed } } m
    { getMbx t m with reqHead := (getMbx s m).reqHead, clash := (getMbx s m).clash }

/-- The Keeper takes up the request at REQ_HEAD of mailbox `m` as the command `op`, when it is that mailbox's turn (R39). A request for
another command of the catalogue is left for that command's own row; one with an unknown opcode is taken up and rejected (assumption log
30). -/
def takeUp (op : Nat) (act : Req → State → Ans) (m : Nat) (s : State) : State :=
  let x := getMbx s m
  if serving s ∧ x.rung ∧ x.reqTail = x.reqHead then setMbx s m { x with rung := false }
  else if ¬ serving s ∨ nextServed s ≠ some m then s
  else
    let b := memRead s (ringAddr s m + 64 * (x.reqHead.toNat % 16)) 64
    let o := leNat b 0 2
    if o ≠ op ∧ (card o).isSome then s
    else
      let t := takenUp m s
      let reply := respond m (le16 b 0) (byteAt b 2) (byteAt b 3)
      let code := preCheck s m b
      if code ≠ 0 then reply code [] t
      else
        let r : Req := { m := m, opcode := le16 b 0, tag := byteAt b 3, p := b.drop 8 }
        match act r t with
        | .hold => roundPast m s
        | .keep t => putBack m s t
        | .wait t => setMbx t m { getMbx t m with waiting := some { m := m, opcode := r.opcode, tag := r.tag } }
        | .done t status p => reply status p t

/-- A command whose card's unnamed request bytes must be 0 (step 7 of R44). -/
def takeUpCard (op : Nat) (act : Req → State → Ans) (m : Nat) (s : State) : State :=
  takeUp op (fun r s =>
    if (((card op).map Card.holes).getD []).all (fun i => byteAt r.p i == 0) then act r s else .done s 0x1005 []) m s

/-- A rejection: no side effect. -/
def reject (s : State) (code : W16) : Ans := .done s code []
/-- An answer 0x0000. -/
def okay (s : State) (p : Bytes) : Ans := .done s 0 p

/-- The command reference of a request. -/
def Req.ref (r : Req) : CmdRef := { m := r.m, opcode := r.opcode, tag := r.tag }

/-- Acceptance of a long-running command (R43), with its effect `f`; the limit of 8 is checked by the caller. Its CMD_DONE reserves a place
in the event queue (R47). -/
def accepted (r : Req) (f : CmdRef → State → State) (s : State) : Ans :=
  let x := makeRoom (getMbx s r.m)
  .done (f r.ref (setMbx s r.m { x with accepted := x.accepted ++ [{ opcode := r.opcode, tag := r.tag, result := none }] })) 1 []

/-- A long-running command accepted unless 8 are pending (R43, R44 step 9). -/
def acceptOr (r : Req) (f : CmdRef → State → State) (s : State) : Ans :=
  if pendingFull s r.m then reject s 0x3007 else accepted r f s

/-- `n` free bytes from free value `i` on. -/
def freeBytes (s : State) (i : Nat) (n : Nat) : Bytes := (upFrom i n).map (freeB s)

/-- Whether a swarm link to a node carries traffic (R45, R203, R211). -/
def linkTo (s : State) (n : Nat) : Bool :=
  (upFrom 0 6).any (fun p => let x := getSlink s p; x.state == .up && x.peerNode.toNat == n)

/-- The answer of a command that names an object of another node (R45): 0x5008 where no link to it is up, 0x6004 while the swarm
re-forms, else what its Keeper answers, one of the codes of the card (assumption log 3). -/
def remoteAnswer (r : Req) (node rspLen : Nat) (long : Bool) (s : State) : Ans :=
  if ¬ nodePresent s node ∨ ¬ linkTo s node then reject s 0x5008
  else if s.swarm.forming then reject s 0x6004
  else
    let codes := cardCodes r.opcode.toNat
    if long then
      if bitOf (freeW s 11) 0 then
        acceptOr r (fun c s => finishCmd c (pickStatus s 10 (0 :: codes)) (freeBytes s 12 (field (freeW s 12) 4 0)) s) s
      else reject s (pickStatus s 10 codes)
    else
      let st := pickStatus s 10 (0 :: codes)
      .done s st (if st = 0 then freeBytes s 12 rspLen else [])

/-- Whether the sender may act on an object that mailbox `creator` of this node created (R34). -/
def mine (r : Req) (creator : Nat) : Bool := r.m == 0 || r.m == creator

/-- Whether the sender may act on a context, or on an entry, by the node and mailbox that created it (R34, R70, R73). -/
def mineCtx (r : Req) (s : State) (x : Ctx) : Bool := r.m == 0 || madeBy s r.m x
def mineObj (r : Req) (s : State) (e : MotEntry) : Bool := r.m == 0 || ownCreator s e == some r.m

/-- A command whose data lie in a domain that is not UP, or behind a switch, waits until they can be reached, with the wake notice of
R192; on a die that is down it is answered 0x5007 (assumption log 41). -/
def whenAwake (a n : Nat) (f : State → Ans) (s : State) : Ans :=
  let c := reachCheck s .keeper a n
  if c = 0 then f s else if c = 0x5007 then reject s c else .keep (noticeDomain s .keeper a)

/-- A swarm context id named by a command: 0x1005 for set bits [15:10] (R69), another node's context, a context of this node
while it is in reset (R45), an unknown one (0x1004), or context number `c`. -/
def withCtx (r : Req) (id rspLen : Nat) (long : Bool) (f : Nat → State → Ans) (s : State) : Ans :=
  if 1024 ≤ id then reject s 0x1005
  else if id / 256 ≠ s.swarm.node then remoteAnswer r (id / 256) rspLen long s
  else match localCtx s id with
    | none => reject s 0x1004
    | some c => if inReset (getCtx s c) then .hold else f c s

/-! ### Mailbox registers (R33-R38) -/

/-- A direct write from a source that is not bound to the mailbox (R33). -/
def foreignWrite (src : W32) (m a : Nat) (s : State) : State := foreignCount src m a (answer 0x4001 [] s)

/-- A mailbox frozen (R38): RING_FAULT, and MBX_RING_FAULT when it was not frozen before. -/
def freeze (m : Nat) (s : State) : State :=
  let x := getMbx s m
  if x.ringFault then s else sendOwner 0xE00B [BitVec.ofNat 8 m] (setMbx s m { x with ringFault := true })

/-- Die-local address of register `off` of mailbox `m` (R36). -/
def mbxReg (m off : Nat) : Nat := 0x01000000000 + 0x20 * m + off

/-- The request-ring index `k` places after REQ_HEAD, and the tag that stands in its slot. -/
def ringIndex (x : Mbx) (k : Nat) : BitVec 5 := x.reqHead + BitVec.ofNat 5 k
def slotTag (s : State) (m : Nat) (i : BitVec 5) : Byte := byteAt (memRead s (ringAddr s m + 64 * (i.toNat % 16)) 4) 3

/-- The requests of a ring that were published with a tag in use (R42), once REQ_TAIL is `t`: those found before, and those newly
published whose tag an earlier request of the ring or a command of the mailbox bears. -/
def clashes (s : State) (m : Nat) (t : BitVec 5) : List (BitVec 5) :=
  let x := getMbx s m
  let old := (x.reqTail - x.reqHead).toNat
  let n := (t - x.reqHead).toNat
  x.clash.filter (fun i => decide ((i - x.reqHead).toNat < min old n))
    ++ ((upFrom old (n - old)).filter (fun k =>
      let g := slotTag s m (ringIndex x k)
      (busyTags x).contains g || (upFrom 0 k).any (fun j => slotTag s m (ringIndex x j) == g))).map (ringIndex x)

/-- A write to REQ_TAIL (R37, R38, R42). -/
def writeReqTail (m : Nat) (v : W32) (s : State) : State :=
  let x := getMbx s m
  let t : BitVec 5 := v.truncate 5
  let s := setMbx s m { x with reqTail := t, clash := if (t - x.reqHead).toNat ≤ 16 then clashes s m t else x.clash }
  if 16 < (t - x.reqHead).toNat then freeze m s else s

/-- A write to RSP_HEAD (R38): a head not between its old value and RSP_TAIL is beyond the tail (assumption log 31). -/
def writeRspHead (m : Nat) (v : W32) (s : State) : State :=
  let x := getMbx s m
  let h : BitVec 5 := v.truncate 5
  let s := setMbx s m { x with rspHead := h }
  if (x.rspTail - x.rspHead).toNat < (h - x.rspHead).toNat then freeze m s else s

/-- A write of 1 to CTRL.RING_RESET (R35). That a doorbell rung before it goes with the requests is the model's choice: DESIGN CHOICE,
assumption log 75. -/
def writeMbxCtrl (m : Nat) (v : W32) (s : State) : State :=
  if bitOf v 0 then
    let x := getMbx s m
    setMbx s m { x with reqTail := 0, reqHead := 0, rspTail := 0, rspHead := 0, ringFault := false, rung := false, clash := [] }
  else s

/-- A write to a mailbox register at offset `off` by `src`, taken from the bound source only (R33). -/
def mbxWrite (src : W32) (m off : Nat) (f : State → State) (s : State) : State :=
  if (getMbx s m).bound = some src then f { s with keeper := { s.keeper with rsp := {} } }
  else foreignWrite src m (here s 5 (mbxReg m off)) s

def execMbxReqTailWrite (src : W32) (m : Nat) (v : W32) (s : State) : Host.Outcome State Fault Refusal :=
  inRange (decide (m < 32)) (mbxWrite src m 0 (writeReqTail m v) s)

def execMbxRspHeadWrite (src : W32) (m : Nat) (v : W32) (s : State) : Host.Outcome State Fault Refusal :=
  inRange (decide (m < 32)) (mbxWrite src m 0xC (writeRspHead m v) s)

def execRingReset (src : W32) (m : Nat) (v : W32) (s : State) : Host.Outcome State Fault Refusal :=
  inRange (decide (m < 32)) (mbxWrite src m 0x14 (writeMbxCtrl m v) s)

/-- MBX_DOORBELL (R36): the mailbox that the value names is rung, by its bound source only. -/
def mbxDoorbell (src : W32) (v : W32) (s : State) : State :=
  let m := field v 4 0
  if (getMbx s m).bound = some src then setMbx { s with keeper := { s.keeper with rsp := {} } } m { getMbx s m with rung := true }
  else foreignWrite src m (here s 5 0x01000000400) s

def execMbxDoorbell (src : W32) (v : W32) (s : State) : Host.Outcome State Fault Refusal := inRange true (mbxDoorbell src v s)

/-! ### Events and CMD_DONE (R43, R47, R48) -/

/-- EVENT_DELIVER (R47): EVENTS_LOST first when events were dropped, else the oldest event. -/
def eventDeliver (m : Nat) (s : State) : State :=
  let x := getMbx s m
  let put := fun (code : W16) (p : Bytes) (x : Mbx) =>
    putMsg m code 0x22 x.seq (if code = 0xE001 then le16 p 4 else 0) p (setMbx s m { x with seq := x.seq + 1 })
  if ¬ serving s ∨ x.bound = none ∨ x.ringFault ∨ freeSlots x = 0 then s
  else if x.dropped ≠ 0 then put 0xE009 (toLE 4 (min x.dropped (2 ^ 32 - 1))) { x with dropped := 0 }
  else match x.events with
    | [] => s
    | e :: l => put e.code e.payload { x with events := l }

def execEventDeliver (m : Nat) (s : State) : Host.Outcome State Fault Refusal := inRange (decide (m < 32)) (eventDeliver m s)

/-- The staging of a block whose COMMIT has been applied is released by its CMD_DONE (R61, R62). -/
def releaseCommits (p : CmdRef → Bool) (s : State) : State :=
  { s with keeper := { s.keeper with blocks := Tbl.mapAll {} (fun _ b =>
      if b.applied && b.pending.any p then { b with staging := [], holder := none, pending := none, applied := false } else b) s.keeper.blocks } }

/-- CMD_DONE (R43): the accepted command that completed first among those of the mailbox is reported, when it has this tag. -/
def cmdDone (m : Nat) (tag : Byte) (s : State) : State :=
  let x := getMbx s m
  match x.accepted.find? (fun a => a.result.isSome) with
  | some { opcode := op, tag := t, result := some r } =>
    if t = tag then
      let p := toLE 2 op.toNat ++ [t, 0] ++ toLE 2 r.status.toNat ++ [0, 0] ++ toLE 8 r.time.toNat ++ r.extra
      releaseCommits (fun c => c == { m := m, opcode := op, tag := tag })
        (setMbx s m { x with accepted := x.accepted.filter (fun a => a.tag != tag), events := x.events ++ [⟨0xE001, p⟩] })
    else s
  | _ => s

def execCmdDone (m : Nat) (tag : Byte) (s : State) : Host.Outcome State Fault Refusal := inRange (decide (m < 32)) (cmdDone m tag s)

/-! ### Discovery (R53) -/

/-- GET_CAPS: firmware line 3.2, build and silicon revision of the part, node, members, mailbox, role, groups, no removals. -/
def getCaps (r : Req) (s : State) : Ans :=
  okay s ([3, 2] ++ toLE 2 (Config.productionWord 1).toNat ++ toLE 2 (Config.productionWord 0).toNat
    ++ [BitVec.ofNat 8 s.swarm.node, s.swarm.members.zeroExtend 8, BitVec.ofNat 8 r.m, BitVec.ofNat 8 (roleOf r.m), 0, 0]
    ++ toLE 8 (getMbx s r.m).groups.toNat ++ toLE 2 0)

def execGetCaps (m : Nat) (s : State) : Host.Outcome State Fault Refusal := inRange (decide (m < 32)) (takeUpCard 0x0001 getCaps m s)

/-- GET_OPCODE_INFO. -/
def getOpcodeInfo (r : Req) (s : State) : Ans :=
  match card (leNat r.p 0 2) with
  | some c => okay s ([1, BitVec.ofNat 8 c.roles] ++ toLE 2 c.reqLen ++ toLE 2 c.rspLen)
  | none => okay s ([0xFF] ++ zeros 5)

def execGetOpcodeInfo (m : Nat) (s : State) : Host.Outcome State Fault Refusal :=
  inRange (decide (m < 32)) (takeUpCard 0x0002 getOpcodeInfo m s)

/-- MBX_GRANT: mailbox 2-31 bound to a partition or PCIe function (R32), indices 0, mask 0. A freeze lasts (R38). That the mailbox starts
with no doorbell rung, no event, no command and no request waiting is the model's choice: DESIGN CHOICE, assumption log 75. -/
def mbxGrant (r : Req) (s : State) : Ans :=
  let m := leNat r.p 0 1
  let src := le32 r.p 2
  let q := leNat r.p 16 2
  if field src 31 24 ≠ 0 then reject s 0x1005
  else if m < 2 ∨ 31 < m ∨ q < 1 ∨ 256 < q ∨ (srcUnit src ≠ 2 ∧ srcUnit src ≠ 3) then reject s 0x1006
  else
    let x := getMbx s m
    if x.bound.isSome then reject s 0x2004
    else okay (setMbx s m { x with bound := some src, groups := le64 r.p 8, quota := q, mask := 0, reqTail := 0, reqHead := 0,
                                   rspTail := 0, rspHead := 0, rung := false, clash := [], events := [], accepted := [],
                                   dropped := 0, waiting := none }) []

def execMbxGrant (m : Nat) (s : State) : Host.Outcome State Fault Refusal := inRange (decide (m < 32)) (takeUpCard 0x0003 mbxGrant m s)

/-- EVENT_MASK: the new mask; the previous one is returned. -/
def eventMask (r : Req) (s : State) : Ans :=
  let x := getMbx s r.m
  okay (setMbx s r.m { x with mask := le64 r.p 0 }) (toLE 8 x.mask.toNat)

def execEventMask (m : Nat) (s : State) : Host.Outcome State Fault Refusal := inRange (decide (m < 32)) (takeUpCard 0x0005 eventMask m s)

end Sys2Proof.Machine
end

