-- ==== Sys2Proof/Machine/Objects.lean ====
section
/-! DEFINITION. The mailbox commands of contexts, memory objects, queues, fences, monitor slots and job images (R53, R54, R69-R101). -/

namespace Sys2Proof.Machine

/-! ### Mailboxes and contexts (R53, R54, R69, R70) -/

/-- The context enters its destroy: its units stop issuing and its queues enter HOLD, as in step 1 of R295; CONTEXT_RESET
completes it. A context in reset is destroyed after its reset. -/
def beginDestroy (c : Nat) (cmd : Option CmdRef) (s : State) : State :=
  let x := getCtx s c
  let s := setCtx s c { x with state := if inReset x then x.state else .destroying, done := x.done ++ cmd.toList }
  let id := ctxId s c
  let hold := fun (_ : Nat) (q : Queue) =>
    if q.live ∧ q.ctx.toNat = id ∧ ¬ inReset x then
      { q with state := if q.state = .ready then .hold else q.state, holdMark := q.submitted } else q
  { s with obj := { s.obj with queues := Tbl.mapAll {} hold s.obj.queues } }

/-- MBX_REVOKE (R53): untaken requests are discarded, contexts are destroyed as by CTX_DESTROY, and the mailbox is unbound. -/
def mbxRevoke (r : Req) (s : State) : Ans :=
  let m := leNat r.p 0 1
  let mode := leNat r.p 1 1
  let x := getMbx s m
  let ctxs := (liveCtxs s).filter (fun c => madeBy s m (getCtx s c))
  if m < 2 ∨ 31 < m ∨ 1 < mode ∨ x.bound = none then reject s 0x1006
  else if x.revoking.isSome ∨ (mode = 0 ∧ ctxs ≠ []) then reject s 0x2004
  else acceptOr r (fun c s =>
    let x := getMbx s m
    let s := setMbx s m { x with revoking := some c, reqHead := x.reqTail }
    finishRevoke m (ctxs.foldl (fun s c => beginDestroy c none s) s)) s

def execMbxRevoke (m : Nat) (s : State) : Host.Outcome State Fault Refusal := inRange (decide (m < 32)) (takeUpCard 0x0004 mbxRevoke m s)

/-- CTX_CREATE (R54, R69): an idle context on this node, at the lowest free number; held while SELF_TEST runs (chapter 20), and while the
package is on its way to PARKED, which no context enters (R71; DESIGN CHOICE, assumption log 41). -/
def ctxCreate (r : Req) (s : State) : Ans :=
  let node := leNat r.p 0 1
  let prio := leNat r.p 1 1
  let vf := leNat r.p 4 1
  if 3 < node ∨ 3 < prio ∨ 15 < vf then reject s 0x1006
  else if node ≠ s.swarm.node then remoteAnswer r node 2 false s
  else if cmdPending s 0x0901 ∨ s.power.parking ∨ (s.power.goal.map (·.2)) = some .parked then .hold
  else
    let clash := vf ≠ 0 ∧ s.obj.ctxs.any (fun e => e.2.live && e.2.vf == vf && !madeBy s r.m e.2)
    let own := Tbl.count s.obj.ctxs (fun _ x => x.live && madeBy s r.m x)
    if clash then reject s 0x2004
    else if (getMbx s r.m).quota ≤ own then reject s 0x3006
    else match Tbl.findFrom {} s.obj.ctxs (fun x => !x.live) 0 256 with
      | none => reject s 0x3001
      | some c =>
        okay (setCtx s c { live := true, node := s.swarm.node, mailbox := r.m, priority := BitVec.ofNat 2 prio, patience := le16 r.p 2, vf := vf })
          (toLE 2 (ctxId s c))

def execCtxCreate (m : Nat) (s : State) : Host.Outcome State Fault Refusal := inRange (decide (m < 32)) (takeUpCard 0x0101 ctxCreate m s)

/-- A command that names a context which the sender must have created (R34). -/
def withOwnCtx (r : Req) (rspLen : Nat) (long : Bool) (f : Nat → State → Ans) (s : State) : Ans :=
  withCtx r (leNat r.p 0 2) rspLen long (fun c s => if mineCtx r s (getCtx s c) then f c s else reject s 0x2002) s

/-- CTX_DESTROY (R54). -/
def ctxDestroy (r : Req) (s : State) : Ans :=
  withOwnCtx r 0 true (fun c s => acceptOr r (fun k s => beginDestroy c (some k) s) s) s

def execCtxDestroy (m : Nat) (s : State) : Host.Outcome State Fault Refusal := inRange (decide (m < 32)) (takeUpCard 0x0102 ctxDestroy m s)

/-! ### Memory objects (R72-R77, R245) -/

/-- The CREATOR byte of an object of context `c` (R73). -/
def creatorByte (s : State) (c : Nat) : Byte := BitVec.ofNat 8 ((getCtx s c).node + 4 * (getCtx s c).mailbox)

/-- Memory of this node filled with zeros with valid checks (R54, R283). -/
def zeroMem (a n : Nat) (s : State) : State :=
  { s with mem := { bytes := s.mem.bytes.filter (fun e => e.1 < a || a + n ≤ e.1),
                    bad := s.mem.bad.filter (fun e => 256 * e.1 < a || a + n ≤ 256 * e.1) } }

/-- Extents of the live objects that overlap a range of swarm addresses. -/
def extentsIn (s : State) (lo hi : Nat) : List (Nat × Nat) :=
  (s.obj.mot.filter (fun e => e.2.kind ≠ 0 && lo ≤ e.2.base && e.2.base < hi)).map (fun e => (e.2.base, motBytes e.2))

/-- The lowest-numbered tile that starts a run of `n` wholly free tile stores of tiles in service (R245, R288). -/
def freeTiles (s : State) (n : Nat) : Option Nat :=
  let used := extentsIn s (tileStore s 0) (tileStore s 96)
  (upFrom 0 (97 - n)).find? (fun t => (upFrom t n).all (fun k => !isRetired s 2 (s.swarm.node * 96 + k)) && used.all (fun b => !overlaps (tileStore s t) (n * 0x40000) b.1 b.2))

/-- Where MO_CREATE places an object (R77, R245); LPDDR and Hive SRAM at the lowest free address (assumption log 23). -/
def placeObject (s : State) (place die cell size : Nat) : Option Nat :=
  match place with
  | 0 => placeLpddr s die size
  | 1 =>
    if die = 4 then (freeTiles s ((size + 0x3FFFF) / 0x40000)).map (tileStore s)
    else
      let lo := cellStore s die cell
      allocIn (extentsIn s lo (lo + 0x180000)) lo (lo + 0x180000) size
  | _ =>
    let lo := here s 5 0x00800180000
    allocIn (extentsIn s lo (lo + 0x80000)) lo (lo + 0x80000) size

/-- The range checks of MO_CREATE's placement fields (R77). -/
def placeBad (place die cell size : Nat) : Bool :=
  match place with
  | 0 => 3 < die || cell ≠ 0
  | 1 => 4 < die || (if die = 4 then cell ≠ 0 else 31 < cell || 0x180000 < size)
  | 2 => die ≠ 5 || cell ≠ 0
  | _ => true

/-- MO_CREATE (R54, R77). -/
def moCreate (r : Req) (s : State) : Ans :=
  let id := leNat r.p 0 2
  let perm := byteAt r.p 2
  let place := leNat r.p 3 1
  let node := leNat r.p 4 1
  let die := leNat r.p 5 1
  let cell := leNat r.p 6 1
  let size := leNat r.p 8 8
  if field perm 7 4 ≠ 0 ∨ 1024 ≤ id then reject s 0x1005
  else if size % 256 ≠ 0 then reject s 0x100A
  else if size = 0 ∨ node ≠ id / 256 ∨ placeBad place die cell size then reject s 0x1006
  else withOwnCtx r 12 false (fun c s =>
    if dieDown s die then reject s 0x5007
    else match freeEntry s, placeObject s place die cell size with
      | none, _ => reject s 0x3003
      | _, none => reject s 0x3005
      | some i, some a =>
        let e := getMot s i
        let s := setMot s i { gen := e.gen, base := a, size := size / 256, perm := perm.truncate 4, kind := 1,
                              owner := BitVec.ofNat 16 id, creator := creatorByte s c, place := place }
        okay (zeroMem a size s) (toLE 4 (handleOf s i).toNat ++ toLE 8 a)) s

def execMoCreate (m : Nat) (s : State) : Host.Outcome State Fault Refusal := inRange (decide (m < 32)) (takeUpCard 0x0103 moCreate m s)

/-- A command that names an object by a handle at offset `off`: 0x1004, or the code of `bad` for what the field requires of the entry
(R44 step 7), then 0x2002 where the sender may not act on it (step 8, R507); held while the context that owns it is in reset (R45). -/
def withObject (r : Req) (off : Nat) (bad : Nat → MotEntry → W16) (f : Nat → MotEntry → State → Ans) (s : State) : Ans :=
  match resolve s (le32 r.p off) with
  | none => reject s 0x1004
  | some i =>
    let e := getMot s i
    if bad i e ≠ 0 then reject s (bad i e)
    else if ¬ mineObj r s e then reject s 0x2002
    else if (localCtx s e.owner.toNat).any (fun c => inReset (getCtx s c)) then .hold
    else f i e s

/-- MO_DESTROY (R54, R72, R73): of every kind of object, refused while REFS is not 0, and for a LOCKED or a Keeper system object. -/
def moDestroy (r : Req) (s : State) : Ans :=
  withObject r 0 (fun _ _ => 0) (fun i e s =>
    if e.refs ≠ 0 then reject s 0x2004
    else if bitOf e.lock 0 ∨ e.kind = 5 then reject s 0x4002
    else okay (freeMot i s) []) s

def execMoDestroy (m : Nat) (s : State) : Host.Outcome State Fault Refusal := inRange (decide (m < 32)) (takeUpCard 0x0104 moDestroy m s)

/-- MO_LOCK (R54, R76): bits [7:1] of its byte are reserved (assumption log 41). -/
def moLock (r : Req) (s : State) : Ans :=
  let v := leNat r.p 4 1
  if 1 < v then reject s 0x1005
  else withObject r 0 (fun _ _ => 0) (fun i e s =>
    if bitOf e.lock 1 then reject s 0x4001
    else okay (setMot s i { e with lock := setBit e.lock 0 (v == 1) }) []) s

def execMoLock (m : Nat) (s : State) : Host.Outcome State Fault Refusal := inRange (decide (m < 32)) (takeUpCard 0x0105 moLock m s)

/-! ### Queues (R80, R84-R88, R130, R154, R247) -/

/-- The unit masks that QUEUE_CREATE rejects. -/
def maskBad (target : Nat) (mask : W64) : Bool :=
  match target with
  | 0 => field mask 63 36 ≠ 0 || field mask 31 0 == 0 || field mask 35 32 == 0
  | 1 => field mask 63 36 ≠ 0 || field mask 31 8 ≠ 0 || field mask 7 0 == 0 || field mask 35 32 == 0
  | 2 => field mask 63 12 ≠ 0 || field mask 11 0 == 0
  | _ => mask ≠ 0

/-- Doorbell address of queue `q` (R68). -/
def doorbellAddr (s : State) (q : Nat) : Nat := here s 5 (0x01001000000 + 0x1000 * q)

/-- QUEUE_CREATE (R54, R80): a READY queue over a ring and a completion fence of the context. -/
def queueCreate (r : Req) (s : State) : Ans :=
  let target := leNat r.p 2 1
  let log2 := leNat r.p 3 1
  let ring := le32 r.p 4
  let fence := le32 r.p 8
  let mask := le64 r.p 12
  if 1024 ≤ leNat r.p 0 2 then reject s 0x1005
  else if 3 < target ∨ log2 < 4 ∨ 12 < log2 ∨ maskBad target mask then reject s 0x1006
  else withCtx r (leNat r.p 0 2) 10 false (fun c s =>
    match resolve s ring, resolve s fence with
    | some i, some j =>
      let e := getMot s i
      let g := getMot s j
      if (e.kind ≠ 1 ∧ e.kind ≠ 3) ∨ e.place = 1 ∨ ¬ bitOf e.perm 0 ∨ 256 * e.size ≠ 64 * 2 ^ log2 ∨ g.kind ≠ 2 then reject s 0x1004
      else if ¬ mineCtx r s (getCtx s c) ∨ e.owner.toNat ≠ ctxId s c ∨ g.owner.toNat ≠ ctxId s c then reject s 0x2002
      else match Tbl.findFrom {} s.obj.queues (fun q => !q.live) 0 1024 with
        | none => reject s 0x3002
        | some q =>
          let w := fenceWord s j
          let s := setMot s i { e with kind := 3, refs := satAdd e.refs 1 }
          let s := setQueue s q
            { live := true, ctx := BitVec.ofNat 16 (ctxId s c), target := target, log2 := log2, ring := ring, fence := fence,
              creator := r.m, unitMask := mask, fenceBase := if bitOf w 63 then g.shadow else w.toNat, blocked := bitOf w 63 }
          okay s (toLE 2 q ++ toLE 8 (doorbellAddr s q))
    | _, _ => reject s 0x1004) s

def execQueueCreate (m : Nat) (s : State) : Host.Outcome State Fault Refusal := inRange (decide (m < 32)) (takeUpCard 0x0106 queueCreate m s)

/-- Descriptors at the head of a queue that failed after their start and whose units have ended are discarded: those left, and how
many went. -/
def dropFailed : List Desc → List Desc × Nat
  | [] => ([], 0)
  | d :: l => if d.failed.isSome ∧ d.finished then let (r, n) := dropFailed l; (r, n + 1) else (d :: l, 0)

/-- A DRAINING queue (R88): descriptors that failed, and once no other is left those that will not start, are discarded without
their signals; then, with every signal of the queue applied, it is freed, its completion fence poisoned with 0x2008 in abandon
mode. -/
def settle (q : Nat) (s : State) : State :=
  let x := getQueue s q
  if x.live ∧ x.state = .draining then
    let (l, n) := dropFailed x.inflight
    let x := { x with inflight := l, retired := x.retired + BitVec.ofNat 32 n }
    let x := if x.inflight = [] ∧ x.stopped then { x with retired := x.submitted, startedCount := x.submitted } else x
    let s := setQueue s q x
    let onTheWay := s.obj.signals.any (fun g => match g.origin with
      | .descriptor k _ => k == q
      | .completion k => k == q
      | _ => false)
    if x.inflight = [] ∧ x.retired = x.submitted ∧ ¬ onTheWay then
      let s := match x.destroy, resolve s x.fence with
        | some (_, true), some i => poison i 0x2008 s
        | _, _ => s
      freeQueue q s
    else s
  else s

/-- QUEUE_DESTROY (R54, R88). -/
def queueDestroy (r : Req) (s : State) : Ans :=
  let q := leNat r.p 0 2
  let mode := leNat r.p 2 1
  let x := getQueue s q
  if 1 < mode ∨ 1024 ≤ q ∨ ¬ x.live ∨ x.state = .draining then reject s 0x1006
  else match localCtx s x.ctx.toNat with
    | none => reject s 0x1006
    | some c =>
      if ¬ mineCtx r s (getCtx s c) then reject s 0x2002
      else if inReset (getCtx s c) then .hold
      else acceptOr r (fun k s =>
        let halted := x.state == .halted
        settle q (setQueue s q { x with state := .draining, stopped := halted || mode == 1, destroy := some (k, mode == 1 && !halted) })) s

def execQueueDestroy (m : Nat) (s : State) : Host.Outcome State Fault Refusal := inRange (decide (m < 32)) (takeUpCard 0x0107 queueDestroy m s)

/-! ### Fences and monitor slots (R89, R94) -/

/-- FENCE_CREATE (R54, R89): PERM 0x0D, KEEPER_LOCK. -/
def fenceCreate (r : Req) (s : State) : Ans :=
  let id := leNat r.p 0 2
  let v := leNat r.p 8 8
  if 1024 ≤ id then reject s 0x1005
  else if 2 ^ 63 ≤ v then reject s 0x1006
  else withOwnCtx r 12 false (fun c s =>
    match freeEntry s with
    | none => reject s 0x3003
    | some i =>
      let e := getMot s i
      let s := setMot s i { gen := e.gen, base := fenceAddr s i, perm := 0xD, kind := 2, lock := 2, owner := BitVec.ofNat 16 id,
                            creator := creatorByte s c, place := 2 }
      okay (setFence s i (BitVec.ofNat 64 v)) (toLE 4 (handleOf s i).toNat ++ toLE 8 (fenceAddr s i))) s

def execFenceCreate (m : Nat) (s : State) : Host.Outcome State Fault Refusal := inRange (decide (m < 32)) (takeUpCard 0x0108 fenceCreate m s)

/-- The last normal value of a fence (R89). -/
def lastValue (s : State) (i : Nat) (e : MotEntry) : Nat := if bitOf (fenceWord s i) 63 then e.shadow else (fenceWord s i).toNat

/-- FENCE_RECYCLE (R54, R89): poison cleared and a higher value set; the kind of R91 is open again, and queues that waited for
the recycle go on from this base (R297). -/
def fenceRecycle (r : Req) (s : State) : Ans :=
  let v := leNat r.p 8 8
  if 2 ^ 63 ≤ v then reject s 0x1006
  else withObject r 0 (fun i e => if e.kind ≠ 2 then 0x1004 else if v ≤ lastValue s i e then 0x1006 else 0) (fun i e s =>
    let w := fenceWord s i
    if ¬ bitOf w 63 then reject s 0x2001
    else
      let s := setFence (setMot s i { e with lock := setBit (setBit e.lock 2 false) 3 false, signalled := 0, shadow := 0 }) i (BitVec.ofNat 64 v)
      let base := fun (_ : Nat) (q : Queue) =>
        if q.live ∧ q.blocked ∧ resolve s q.fence = some i then { q with blocked := false, fenceBase := v, retiredBase := q.retired } else q
      okay { s with obj := { s.obj with queues := Tbl.mapAll {} base s.obj.queues } } []) s

def execFenceRecycle (m : Nat) (s : State) : Host.Outcome State Fault Refusal := inRange (decide (m < 32)) (takeUpCard 0x0109 fenceRecycle m s)

/-- The lowest run of `n` free monitor slots. -/
def freeSlotRun (s : State) (n : Nat) : Option Nat :=
  (upFrom 0 (4097 - n)).find? (fun k => (s.obj.slots.filter (fun e => k ≤ e.1 && e.1 < k + n)).all (fun e => e.2.ctx.isNone))

/-- MONITOR_ALLOC (R54, R94). -/
def monitorAlloc (r : Req) (s : State) : Ans :=
  let n := leNat r.p 2 2
  if 1024 ≤ leNat r.p 0 2 then reject s 0x1005
  else if n = 0 ∨ 4096 < n then reject s 0x1006
  else withOwnCtx r 2 false (fun c s =>
    match freeSlotRun s n with
    | none => reject s 0x3004
    | some k => okay ((upFrom k n).foldl (fun s i => setSlot s i { ctx := some (BitVec.ofNat 16 (ctxId s c)) }) s) (toLE 2 k)) s

def execMonitorAlloc (m : Nat) (s : State) : Host.Outcome State Fault Refusal := inRange (decide (m < 32)) (takeUpCard 0x010A monitorAlloc m s)

/-! ### JOB_LOAD (R54, R132, R323) -/

/-- The header of R132 over an image of `n` bytes: the instruction count, when the image is well formed. -/
def imageCount (h : Bytes) (n : Nat) : Option Nat :=
  let k := leNat h 8 4
  if leNat h 0 4 = 0x424F4A5A ∧ leNat h 4 2 = 1 ∧ leNat h 6 2 = 0 ∧ 1 ≤ k ∧ k ≤ 2 ^ 20 ∧ zeroIn h 12 256 ∧ 256 + 8 * k ≤ n then some k
  else none

/-- A parcel check that fails as the Keeper reads data for a command: a record (R30, R283), and an event of the resource read from. -/
def keeperCheckRecord (a : Nat) (s : State) : State :=
  recordOf (checkResource s a) { code := 0x5001, kind := 1, flags := 1, action := 6, source := keeperSrc s, address := BitVec.ofNat 64 a } s

/-- The copy, its checks and its hash, after acceptance. -/
def jobLoadRun (c src dest i a n : Nat) (k : CmdRef) (s : State) : State :=
  let from_ := (getMot s src).base
  if ¬ checksOk s from_ n then finishCmd k 0x5001 [] (keeperCheckRecord from_ s)
  else
    let b := memRead s from_ n
    if (imageCount (b.take 256) n).isNone then finishCmd k 0x2001 [] s
    else
      let e := getMot s i
      let size := (n + 255) / 256
      let s := setMot s i { gen := e.gen, base := a, size := size, perm := 5, kind := 4, lock := 2, owner := BitVec.ofNat 16 (ctxId s c),
                            creator := creatorByte s c, imageBytes := n }
      let s := memWrite (zeroMem a (256 * size) s) a b
      let h := Sys2Proof.Config.sha384 b
      finishCmd k 0 (slice h 0 8) (memWrite s (getMot s dest).base (slice h 0 48))

/-- What JOB_LOAD requires of its handles (R54, R507): a readable data object that holds the length, which is that of a job image
(R132), and a writable one for the hash. -/
def jobHandlesBad (e g : MotEntry) (n : Nat) : Bool :=
  e.kind ≠ 1 || !bitOf e.perm 0 || decide (256 * e.size < n ∨ n < 264 ∨ 256 + 8 * 2 ^ 20 < n) || g.kind ≠ 1 || !bitOf g.perm 1 || bitOf g.lock 0

/-- JOB_LOAD (R54): the image goes to the LPDDR of the die that holds its source, else of COMB0 (assumption log 39). -/
def jobLoad (r : Req) (s : State) : Ans :=
  let n := leNat r.p 8 8
  if 1024 ≤ leNat r.p 0 2 then reject s 0x1005
  else withCtx r (leNat r.p 0 2) 0 true (fun c s =>
    match resolve s (le32 r.p 4), resolve s (le32 r.p 16) with
    | some i, some j =>
      let e := getMot s i
      let g := getMot s j
      if jobHandlesBad e g n then reject s 0x1004
      else if ¬ mineCtx r s (getCtx s c) ∨ e.owner.toNat ≠ ctxId s c ∨ ¬ mineObj r s g then reject s 0x2002
      else if pendingFull s r.m then reject s 0x3007
      else whenAwake e.base n (whenAwake g.base 48 (fun s =>
        let die := if e.place = 0 then addrDie e.base else 0
        match freeEntry s, placeLpddr s die (256 * ((n + 255) / 256)) with
        | some f, some a => accepted r (fun k s => jobLoadRun c i j f a n k s) s
        | _, _ => reject s 0x3005)) s
    | _, _ => reject s 0x1004) s

def execJobLoad (m : Nat) (s : State) : Host.Outcome State Fault Refusal := inRange (decide (m < 32)) (takeUpCard 0x010B jobLoad m s)

end Sys2Proof.Machine
end

