-- ==== Sys2Proof/Machine/Queue.lean ====
section
/-! DEFINITION. Queues at work (R80-R88): doorbells, the checks and the start of a descriptor, KERNEL, COPY, BARRIER and NOP
(R82, R131-R135), and retirement. -/

namespace Sys2Proof.Machine

/-! ### Doorbells (R84, R87) -/

/-- Whether a source may ring queue `q`'s doorbell: its creating mailbox's, or the PCIe function bound to the context. -/
def mayRing (s : State) (src : W32) (x : Queue) : Bool :=
  (getMbx s x.creator).bound == some src
    || (localCtx s x.ctx.toNat).any (fun c => (getCtx s c).vf ≠ 0 && src == mkSrc s.swarm.node 5 3 0 (getCtx s c).vf)

/-- A submission count taken at the doorbell of a live queue (R84, R88). -/
def takeDoorbell (q : Nat) (v : W32) (s : State) : State :=
  let x := getQueue s q
  if x.state = .halted ∨ x.state = .draining then
    setQueue s q { x with dropped := satAdd x.dropped 1, droppedOvf := x.droppedOvf || satLost x.dropped 1 }
  else if v = x.submitted then s
  else if (v - x.retired).toNat ≤ 2 ^ x.log2 ∧ (v - x.submitted).toNat < 2 ^ 31 then setQueue s q { x with submitted := v }
  else haltQueue q 0xFFFFFFFF 0x1006 none s

/-- QUEUE_DOORBELL. -/
def queueDoorbell (src : W32) (q : Nat) (v : W32) (s : State) : State :=
  let x := getQueue s q
  if ¬ x.live ∨ ¬ mayRing s src x then refuseWrite src (doorbellAddr s q) (if x.live then some x.creator else none) 0x4001 s
  else takeDoorbell q v (answer 0 [] s)

def execQueueDoorbell (src : W32) (q : Nat) (v : W32) (s : State) : Host.Outcome State Fault Refusal :=
  inRange (decide (q < 1024)) (queueDoorbell src q v s)

/-- FENCE_SIGNAL (R91): the first signal is applied; a DRAINING queue that waited for it may then be freed (R88). -/
def fenceUnit (s : State) : State :=
  match s.obj.signals.find? (signalDue s) with
  | none => s
  | some g => match g.origin with
    | .descriptor q _ => settle q (fenceSignal s)
    | .completion q => settle q (fenceSignal s)
    | _ => fenceSignal s

def execFenceSignal (s : State) : Host.Outcome State Fault Refusal := inRange true (fenceUnit s)

/-! ### Units of a queue (R130, R134, R154, R247, R289) -/

/-- The units that a queue's mask selects, in ascending number, by descriptor type (1 cells, 3 engines, 4 tiles). -/
def maskUnits (typ : Nat) (mask : W64) : List Nat :=
  match typ with
  | 1 => (upFrom 0 128).filter (fun u => bitOf mask (u % 32) && bitOf mask (32 + u / 32))
  | 3 => (upFrom 0 32).filter (fun u => bitOf mask (u % 8) && bitOf mask (32 + u / 8))
  | 4 => (upFrom 0 96).filter (fun u => bitOf mask (u / 8))
  | _ => []

/-- Die of a unit. -/
def unitDie (typ u : Nat) : Nat := if typ = 1 then u / 32 else if typ = 3 then u / 8 else 4

/-- Power domain of a unit (R127, R234). -/
def unitDomain (typ u : Nat) : Nat :=
  if typ = 1 then u / 32 * 12 + u % 32 / 4 else if typ = 3 then u / 8 * 12 + 8 else if u < 48 then 54 else 55

/-- Whether a unit is retired, itself or with its die (R288, R289). -/
def unitRetired (s : State) (typ u : Nat) : Bool :=
  let n := s.swarm.node
  (getDie s (unitDie typ u)).state == .retired ||
    (if typ = 1 then isRetired s 0 (n * 128 + u) else if typ = 3 then isRetired s 1 (n * 32 + u) else isRetired s 2 (n * 96 + u))

/-- Whether a descriptor that has started and not ended still has the unit (assumption log 42). -/
def unitBusy (s : State) (typ u : Nat) : Bool :=
  s.obj.queues.any (fun e => e.2.inflight.any (fun d => !d.finished && (byteAt d.bytes 0).toNat == typ && d.units.contains u))

/-- What the start of a descriptor meets: it is held, fails its check, faults its context, finds its units behind a gated network, or starts. -/
inductive Start where
  | hold (s : State)
  | fail (code : W16)
  | fault (code : W16) (addr : Nat)
  | barred (addr : Nat)
  | go (units : List Nat) (params : Bytes)
deriving DecidableEq, Repr

/-- An address of a unit, to which its DISPATCH goes (R176). -/
def unitAddr (s : State) (typ u : Nat) : Nat :=
  match typ with
  | 1 => cellStore s (u / 32) (u % 32)
  | 3 => here s (u / 8) 0x01000000000
  | _ => tileStore s u

/-- The units that a descriptor of a type may start on (R133, R289, R298): held while a die recovers, a domain wakes or a unit is
taken; 0x2005 for a sleeping domain without wake-on-access, and held for one with it; 0x5007 when all are retired. A DISPATCH that meets a gated
network on its way is barred (R193). -/
def gatherUnits (typ : Nat) (mask : W64) (s : State) : Start :=
  let us := (maskUnits typ mask).filter (fun u => !unitRetired s typ u)
  let doms := (us.map (unitDomain typ)).eraseDups
  let asleep := doms.filter (fun d => (getDom s d).state == .closing || (getDom s d).state == .closed)
  if us = [] then .fail 0x5007
  else if us.any (fun u => (getDie s (unitDie typ u)).state == .recovering) then .hold s
  else if doms.any (fun d => (getDom s d).state == .waking) then .hold s
  else if asleep.any (fun d => !(getDom s d).woa) then .fail 0x2005
  else if asleep ≠ [] then .hold (asleep.foldl (fun s d => noticeOf d s) s)
  else if us.any (unitBusy s typ) then .hold s
  else match us.find? (fun u => (pathStop s 2 (unitAddr s typ u) 3 5).1 = 0x2005) with
    | some u => .barred (unitAddr s typ u)
    | none => .go us []

/-! ### The checks of a descriptor (R81-R83) -/

/-- Bytes of the body that must be 0, by type. -/
def bodyReserved (t : Nat) (b : Bytes) : Bool :=
  match t with
  | 3 => !zeroIn b 52 64
  | 4 => !zeroIn b 56 64
  | 5 => !zeroIn b 40 64
  | 6 => !zeroIn b 40 64
  | _ => false

/-- Addresses and lengths of the body that are misaligned, by type. -/
def bodyMisaligned (t : Nat) (b : Bytes) : Bool :=
  match t with
  | 1 => leNat b 48 8 % 256 ≠ 0
  | 2 => leNat b 40 8 % 256 ≠ 0 || leNat b 48 8 % 256 ≠ 0 || leNat b 56 8 % 256 ≠ 0
  | 3 => leNat b 40 8 % 256 ≠ 0
  | 4 => leNat b 40 8 % 256 ≠ 0
  | _ => false

/-- The queue target that a type belongs to (R82): BARRIER and NOP go with every target (assumption log 45). -/
def targetOk (t target : Nat) : Bool :=
  match t with
  | 1 => target == 0
  | 2 => target == 0 || target == 3
  | 3 => target == 1
  | 4 => target == 2
  | _ => true

/-- Values of the body out of range, by type. -/
def bodyRange (t : Nat) (b : Bytes) : Bool :=
  match t with
  | 1 => leNat b 56 2 == 0 || !numctlOk (le16 b 58)
  | 2 => leNat b 56 8 < 256 || 2 ^ 32 < leNat b 56 8
  | 4 => leNat b 54 2 == 0 || !numctlOk (le16 b 52)
  | _ => false

/-- The field checks of a descriptor numbered `d` (R81-R83), in the order of R44: reserved bits, alignment, ranges. -/
def fieldCheck (target : Nat) (d : W32) (b : Bytes) : W16 :=
  let t := (byteAt b 0).toNat
  let f := byteAt b 1
  let wait := bitOf f 0
  let sig := bitOf f 1
  if field f 7 4 ≠ 0 ∨ ¬ zeroIn b 5 8 ∨ bodyReserved t b then 0x1005
  else if (wait ∧ leNat b 8 8 % 8 ≠ 0) ∨ (sig ∧ leNat b 24 8 % 8 ≠ 0) ∨ bodyMisaligned t b then 0x100A
  else if t < 1 ∨ 6 < t ∨ leNat b 2 2 ≠ d.toNat % 65536 ∨ 1 < leNat b 4 1 ∨ ¬ targetOk t target ∨ (wait ∧ 2 ^ 63 ≤ leNat b 16 8)
      ∨ (sig ∧ leNat b 4 1 = 1 ∧ leNat b 32 8 = 0) ∨ bodyRange t b then 0x1006
  else 0

/-- A handle of a writable data object of the context, or 0 for none (R131, R155, R248, R507). -/
def reportOk (s : State) (ctx : Nat) (h : W32) : Bool :=
  h == 0 || match resolve s h with
    | some i => let e := getMot s i
      e.kind == 1 && bitOf e.perm 1 && !bitOf e.lock 0 && e.owner.toNat == ctx
    | none => false

/-- The code of an access for the check of a descriptor: what sleeps or recovers is met when the descriptor runs. -/
def checkAccess (s : State) (ctx : Nat) (cellUse : Bool) (a n : Nat) (write : Bool) : W16 :=
  let r : Requester := .unit ctx cellUse 5
  let c := accessCheck s r a n write
  if (c = 0x2005 ∨ c = 0x2006 ∨ c = 0x5007) ∧ addrNode a = s.swarm.node then permCheck s r a n write else c

/-- The job image that a KERNEL descriptor names, with its instruction count (R132, R133). -/
def imageOf (s : State) (ctx : Nat) (b : Bytes) : Option (Nat × Nat) :=
  match resolve s (le32 b 40) with
  | some i =>
    let e := getMot s i
    if e.kind = 4 ∧ e.owner.toNat = ctx then some (e.base, e.imageBytes) else none
  | none => none

/-- The checks of the body that need objects, by type (R82, R133, R155, R248). -/
def bodyObjects (s : State) (ctx : Nat) (b : Bytes) : W16 :=
  match (byteAt b 0).toNat with
  | 1 =>
    match imageOf s ctx b with
    | none => 0x1004
    | some (a, n) =>
      if ¬ checksOk s a 256 then 0x5001
      else match imageCount (memRead s a 256) n with
        | none => 0x1004
        | some k =>
          let args := leNat b 48 8
          if ¬ reportOk s ctx (le32 b 60) then 0x1004
          else if k ≤ leNat b 44 4 ∨ (args ≠ 0 ∧ checkAccess s ctx false args 256 false ≠ 0) then 0x1006
          else 0
  | 2 =>
    let n := leNat b 56 8
    let check := fun (a : Nat) (w : Bool) => if (windowAt s a n).isSome then 0 else checkAccess s ctx false a n w
    if check (leNat b 40 8) false ≠ 0 then check (leNat b 40 8) false else check (leNat b 48 8) true
  | 3 => if reportOk s ctx (le32 b 48) then 0 else 0x1004
  | 4 => if reportOk s ctx (le32 b 48) then 0 else 0x1004
  | _ => 0

/-- All the checks of a descriptor before its wait (R83): fields, objects, permissions, and that the wait and signal addresses lie in
fence entries. -/
def descCheck (s : State) (x : Queue) (b : Bytes) : W16 :=
  let ctx := x.ctx.toNat
  let f := byteAt b 1
  let wa := leNat b 8 8
  let c1 := fieldCheck x.target x.startedCount b
  let c2 := bodyObjects s ctx b
  let c3 := if bitOf f 0 then waitCheck s (.unit ctx false 5) ctx wa else 0
  let c4 := if bitOf f 1 then fenceNamed s (.unit ctx false 5) ctx (leNat b 24 8) else 0
  if c1 ≠ 0 then c1
  else if c2 ≠ 0 then c2
  else if c3 ≠ 0 then c3
  else c4

/-! ### Starting (R81, R83, R93) -/

/-- Whether queue `q` has a descriptor that it may consider. -/
def mayStart (s : State) (x : Queue) : Bool :=
  x.live && (x.state == .ready || x.state == .draining) && !x.stopped && !x.blocked && x.startedCount != x.submitted
    && (localCtx s x.ctx.toNat).any (fun c => !inReset (getCtx s c))

/-- The queue unit faults a context (R66, R291). -/
def faultQueue (q : Nat) (d : W32) (code : W16) (addr : Nat) (s : State) : State :=
  let r : FaultRecord :=
    { code := code, kind := faultKind code, source := mkSrc s.swarm.node 5 7 0 0, address := BitVec.ofNat 64 addr,
      queue := BitVec.ofNat 16 q, descriptor := d }
  faultCtx (getQueue s q).ctx.toNat r (if code = 0x5001 then checkResource s addr else none) s

/-- The DISPATCH packets of a descriptor's start, carried to its units (R176). -/
def dispatchTo (typ ctx : Nat) (us : List Nat) (s : State) : State :=
  us.foldl (fun s u => carryOne 11 (mkSrc s.swarm.node 5 7 0 0) ctx (unitAddr s typ u) s) s

/-- The next descriptor of queue `q` starts when it is of type `typ`: the queue reads it, checks it, waits for its fence and, with
SERIAL, for the earlier descriptors, gathers what `late` asks for, and `begin_` sets its units to work. A descriptor of no known type
is judged by any row; one of another type is left for its own (assumption log 30). -/
def startDesc (typ : Nat) (late : Queue → Bytes → State → Start) (begin_ : Nat → Desc → State → State) (q : Nat) (s : State) : State :=
  let x := getQueue s q
  if ¬ mayStart s x then s
  else match resolve s x.ring with
    | none => s
    | some i =>
      let d := x.startedCount
      let ctx := x.ctx.toNat
      let a := (getMot s i).base + 64 * (d.toNat % 2 ^ x.log2)
      let r : Requester := .unit ctx false 5
      let code := accessCheck s r a 64 false
      let b := memRead s a 64
      let t := (byteAt b 0).toNat
      if code ≠ 0 then (if retryOne s r code a then noticeDomain s r a else faultQueue q d code a s)
      else if ¬ checksOk s a 64 then faultQueue q d 0x5001 a s
      else if t ≠ typ ∧ 1 ≤ t ∧ t ≤ 6 then s
      else
        let sigF := goodSignalFence s ctx b
        let check := descCheck s x b
        let w := waitWord s (leNat b 8 8)
        if check ≠ 0 then haltQueue q d check sigF s
        else if bitOf (byteAt b 1) 0 ∧ w.toNat < leNat b 16 8 then s
        else if bitOf (byteAt b 1) 0 ∧ bitOf w 63 then haltQueue q d (BitVec.ofNat 16 (field w 62 48)) sigF s
        else if bitOf (byteAt b 1) 2 ∧ x.retired ≠ d then s
        else match late x b s with
          | .hold s => s
          | .fail c => haltQueue q d c sigF s
          | .fault c a => faultQueue q d c a s
          | .barred a =>
            let n : Notice := { die := 5, router := (unitAt (mkSrc s.swarm.node 5 7 0 0)).1, port := 0, vn := 2, src := mkSrc s.swarm.node 5 7 0 0,
                                context := x.ctx, code := 0x2005 }
            faultQueue q d 0x2005 a (faultNotice n s)
          | .go us ps =>
            let e : Desc := { num := d, bytes := b, params := ps, started := s.keeper.tick, units := us }
            begin_ q e (dispatchTo typ ctx us (setQueue s q { x with startedCount := d + 1, inflight := x.inflight ++ [e] }))

/-- A started descriptor marked as finished. -/
def markFinished (q : Nat) (d : W32) (s : State) : State :=
  let x := getQueue s q
  setQueue s q { x with inflight := x.inflight.map (fun e => if e.num = d then { e with finished := true } else e) }

/-! ### BARRIER, NOP and COPY (R82) -/

/-- A descriptor that needs no unit. -/
def noUnits (_ : Queue) (_ : Bytes) (_ : State) : Start := .go [] []

def execBarrier (q : Nat) (s : State) : Host.Outcome State Fault Refusal :=
  inRange (decide (q < 1024)) (startDesc 5 noUnits (fun q e s => markFinished q e.num s) q s)

def execNopDescriptor (q : Nat) (s : State) : Host.Outcome State Fault Refusal :=
  inRange (decide (q < 1024)) (startDesc 6 noUnits (fun q e s => markFinished q e.num s) q s)

def execCopy (q : Nat) (s : State) : Host.Outcome State Fault Refusal :=
  inRange (decide (q < 1024)) (startDesc 2 noUnits (fun _ _ s => s) q s)

/-- Descriptor `d` of queue `q` with its progress at region windows written. -/
def setDesc (q : Nat) (d : W32) (f : Desc → Desc) (s : State) : State :=
  let x := getQueue s q
  setQueue s q { x with inflight := x.inflight.map (fun e => if e.num = d then f e else e) }

/-- A COPY from or to a region window (R240): its next parcel is presented on TGT. -/
def copyWindow (k : Nat) (write : Bool) (q : Nat) (e : Desc) (a n : Nat) (l : Bytes) (s : State) : State :=
  let r : Requester := .unit (getQueue s q).ctx.toNat false 5
  let j := if write then e.winWrite else e.winRead
  let (t, w, c) := windowStep k r (mkSrc s.swarm.node 5 7 0 0) (.copy q e.num) write a n l j s
  if j.code = 0 ∧ retryOne s r c a then t
  else if c ≠ 0 then faultQueue q e.num c a t
  else setDesc q e.num (fun e => if write then { e with winWrite := w } else { e with winRead := w }) t

/-- The code of an access by a COPY: at a region window, only that of the way there, for the window answers for itself (R240). -/
def copyCheck (s : State) (ctx a n : Nat) (write : Bool) : W16 :=
  if (windowAt s a n).isSome then reachCheck s (.unit ctx false 5) a n else accessCheck s (.unit ctx false 5) a n write

/-- The end of a COPY (R82): both ranges are met, and whole parcels move with their checks. A destination on a member that was lost
fails the descriptor with 0x5005; a region window is read and written parcel by parcel (R240). -/
def copyRun (q : Nat) (e : Desc) (s : State) : State :=
  let ctx := (getQueue s q).ctx.toNat
  let src := leNat e.bytes 40 8
  let dst := leNat e.bytes 48 8
  let n := leNat e.bytes 56 8
  let r : Requester := .unit ctx false 5
  let me := mkSrc s.swarm.node 5 7 0 0
  let rd := copyCheck s ctx src n false
  let wr := copyCheck s ctx dst n true
  let sw := windowAt s src n
  let dw := windowAt s dst n
  let l := if sw.isSome then slice e.winRead.got 0 n else memRead s src n
  if addrNode dst ≠ s.swarm.node ∧ bitOf s.swarm.lost (addrNode dst) then markFinished q e.num (failDesc q e.num 0x5005 s)
  else if retryOne s r rd src then noticeDomain s r src
  else if rd ≠ 0 then faultQueue q e.num rd src s
  else if addrNode src = s.swarm.node ∧ sw.isNone ∧ ¬ checksOk s src n then faultQueue q e.num 0x5001 src s
  else if sw.isSome ∧ e.winRead.done < n then copyWindow (sw.getD 0) false q e src n [] s
  else if retryOne s r wr dst then noticeDomain s r dst
  else if wr ≠ 0 then
    faultQueue q e.num wr dst (if countedRefusal s wr dst then refusedWrite me dst n (creatorAt s dst n) s else s)
  else if dw.isSome ∧ e.winWrite.done < n then copyWindow (dw.getD 0) true q e dst n l s
  else
    let s := if sw.isSome then s else sendPackets r me false src n [] 0 s
    let s := if dw.isSome then s else writeMem dst l (sendPackets r me true dst n l 0 s)
    markFinished q e.num s

/-! ### KERNEL (R131-R135) -/

/-- What a KERNEL needs at its start: its cells. -/
def kernelLate (x : Queue) (b : Bytes) (s : State) : Start :=
  let args := leNat b 48 8
  let ctx := x.ctx.toNat
  if args ≠ 0 then
    let r : Requester := .unit ctx false 5
    let c := accessCheck s r args 256 false
    if retryOne s r c args then .hold (noticeDomain s r args)
    else if c ≠ 0 then .fault c args
    else if addrNode args = s.swarm.node ∧ ¬ checksOk s args 256 then .fault 0x5001 args
    else gatherUnits 1 x.unitMask s
  else gatherUnits 1 x.unitMask s

/-- The cells of a KERNEL take the argument block, their sticky flags clear, and the first N items start (R134). -/
def kernelBegin (q : Nat) (e : Desc) (s : State) : State :=
  let b := e.bytes
  let ctx := (getQueue s q).ctx
  let args := leNat b 48 8
  let buf := if args = 0 then [] else putBytes 0 [] 0 (memRead s args 256)
  let (base, n) := (imageOf s ctx.toNat b).getD (0, 0)
  let items := leNat b 56 2
  let k := e.units.length
  let job : CellJob :=
    { queue := q, desc := e.num, ctx := ctx, code := base + 256, words := (imageCount (memRead s base 256) n).getD 0, entry := leNat b 44 4,
      items := items, item := 0, n := k, position := 0, numctl := le16 b 58 }
  (e.units.zip (upFrom 0 k)).foldl (fun s p =>
    let x := getCell s (p.1 / 32) (p.1 % 32)
    let c : Cell := { itemsDone := x.itemsDone, args := buf, context := ctx.truncate 10 }
    setCell s (p.1 / 32) (p.1 % 32) (if p.2 < items then startItem c { job with position := p.2 } p.2 else c)) s

def execKernel (q : Nat) (s : State) : Host.Outcome State Fault Refusal :=
  inRange (decide (q < 1024)) (startDesc 1 kernelLate kernelBegin q s)

/-- A report word written to offset 0 of REPORT, then the descriptor is finished (R135, R166, R250). -/
def writeReport (q : Nat) (e : Desc) (h : W32) (w : Nat) (s : State) : State :=
  if h = 0 then markFinished q e.num s
  else match resolve s h with
    | none => faultQueue q e.num 0x1004 0 s
    | some i =>
      let a := (getMot s i).base
      let r : Requester := .unit (getQueue s q).ctx.toNat false 5
      let c := accessCheck s r a 8 true
      if retryOne s r c a then noticeDomain s r a
      else if c ≠ 0 then
        faultQueue q e.num c a (if c = 0x4001 ∨ c = 0x4002 then violation (mkSrc s.swarm.node 5 7 0 0) a (creatorAt s a 8) s else s)
      else if ¬ checksOk s a 8 then faultQueue q e.num 0x5001 a s
      else markFinished q e.num (memWrite s a (toLE 8 w))

/-- The end of a KERNEL (R135): once every cell has ended its items, the flags are reported; one that failed is only ended. -/
def kernelFinish (q : Nat) (e : Desc) (s : State) : State :=
  let cs := e.units.map (fun u => getCell s (u / 32) (u % 32))
  if cs.any (fun x => x.job.isSome) then s
  else if e.failed.isSome then markFinished q e.num s
  else writeReport q e (le32 e.bytes 60)
    (b2n (cs.any (·.invalid)) + 2 * b2n (cs.any (·.overflow)) + 4 * b2n (cs.any (·.truncated))) s

/-! ### Retirement (R85) -/

/-- DESCRIPTOR_RETIRE: the descriptor next in number retires when it has finished; its signal goes out before the completion fence is
raised (Ordering 6 of R98). -/
def descriptorRetire (q : Nat) (s : State) : State :=
  let x := getQueue s q
  match x.inflight with
  | e :: l =>
    if x.live ∧ e.finished ∧ e.failed = none ∧ (localCtx s x.ctx.toNat).any (fun c => !inReset (getCtx s c)) then
      let r := x.retired + 1
      let s := setQueue s q { x with inflight := l, retired := r }
      let b := e.bytes
      let s := if bitOf (byteAt b 1) 1 then sendSignal (mkSrc s.swarm.node 5 7 0 0) (leNat b 24 8) (leNat b 4 1 == 1) (le64 b 32) (.descriptor q e.num) x.ctx s else s
      let s := match resolve s x.fence with
        | some i => pushSignal { fence := i, add := false, value := BitVec.ofNat 64 (x.fenceBase + (r - x.retiredBase).toNat),
                                 origin := .completion q, ctx := x.ctx } s
        | none => s
      settle q s
    else settle q s
  | [] => settle q s

def execDescriptorRetire (q : Nat) (s : State) : Host.Outcome State Fault Refusal := inRange (decide (q < 1024)) (descriptorRetire q s)

end Sys2Proof.Machine
end

