-- ==== Sys2Proof/Machine/Select.lean ====
section
/-! DEFINITION. The select engines (chapter 06): the parameter block and its checks (R156, R157), keys, rank and lists (R158-R165),
NEAREST distances (R161), RECORDS and CURSOR (R162, R163), the output and the report (R164, R166). -/

namespace Sys2Proof.Machine

/-! ### The parameter block (R156) -/

/-- The fields of a SELECT parameter block. -/
structure SelParams where
  mode    : Nat
  keyfmt  : Nat
  dist    : Nat
  records : Bool
  useCur  : Bool
  split   : Bool
  k       : Nat
  dim     : Nat
  len     : Nat
  rows    : Nat
  src     : Nat
  dst     : Nat
  query   : Nat
  cursor  : Nat
  base    : Nat
  stride  : Nat
deriving DecidableEq, Repr

def selParams (b : Bytes) : SelParams :=
  let o := byteAt b 3
  ⟨leNat b 0 1, leNat b 1 1, leNat b 2 1, bitOf o 0, bitOf o 1, bitOf o 2, leNat b 4 2, leNat b 6 2, leNat b 8 4, leNat b 12 4, leNat b 16 8,
   leNat b 24 8, leNat b 32 8, leNat b 40 8, leNat b 48 4, leNat b 52 4⟩

/-- NEAREST over vectors, not over records. -/
def SelParams.vectors (p : SelParams) : Bool := p.mode == 2 && !p.records

/-- Bytes of an element of a KEYFMT (R158). -/
def keyBytes (k : Nat) : Nat := if k = 0 ∨ k = 7 ∨ k = 8 then 4 else if k = 1 ∨ k = 2 then 2 else 1

/-- V of R161. -/
def SelParams.vecBytes (p : SelParams) : Nat := (p.dim * keyBytes p.keyfmt + 63) / 64 * 64
/-- Output row stride S of R164. -/
def SelParams.outStride (p : SelParams) : Nat := (8 * p.k + 255) / 256 * 256
/-- Bytes of one input element. -/
def SelParams.elem (p : SelParams) : Nat := if p.records then 8 else keyBytes p.keyfmt

/-- The extents that a descriptor reaches, with whether each is written (R157). -/
def SelParams.extents (p : SelParams) : List (Nat × Nat × Bool) :=
  [(p.src, (if p.vectors then p.len * p.vecBytes else (p.rows - 1) * p.stride + p.len * p.elem), false),
   (p.dst, p.rows * p.outStride, true)]
  ++ (if p.vectors then [(p.query, p.rows * p.vecBytes, false)] else [])
  ++ (if p.useCur then [(p.cursor, (p.rows - 1) * p.outStride + 8, false)] else [])

/-- The field checks of a parameter block (R156, R157): alignment 0x100A, else 0x1006. -/
def selCheck (b : Bytes) : W16 :=
  let p := selParams b
  let near := p.mode == 2
  let misaligned := p.src % 256 ≠ 0 ∨ p.dst % 256 ≠ 0 ∨ p.query % 256 ≠ 0 ∨ p.cursor % 8 ≠ 0 ∨ p.stride % 256 ≠ 0
  let bad :=
    2 < p.mode ∨ ¬ (p.keyfmt ≤ 5 ∨ p.keyfmt = 7 ∨ p.keyfmt = 8) ∨ 3 < p.dist ∨ (¬ near ∧ p.dist ≠ 0) ∨ field (byteAt b 3) 7 3 ≠ 0
    ∨ p.k = 0 ∨ 1024 < p.k ∨ 1024 < p.dim ∨ (if p.vectors then p.dim = 0 else p.dim ≠ 0) ∨ p.len = 0 ∨ 2 ^ 28 < p.len
    ∨ p.rows = 0 ∨ 65535 < p.rows ∨ (¬ p.vectors ∧ p.query ≠ 0) ∨ (¬ p.useCur ∧ p.cursor ≠ 0) ∨ (p.records ∧ p.base ≠ 0)
    ∨ (if p.vectors then p.stride ≠ 0 else p.stride < p.len * p.elem)
    ∨ (near ∧ (p.keyfmt = 7 ∨ (p.keyfmt = 8 ∧ p.dist ≠ 3) ∨ (p.dist = 3 ∧ p.keyfmt ≠ 8)))
    ∨ 0xFFFFFFFF < p.base + p.len ∨ ¬ zeroIn b 56 256
  if misaligned then 0x100A else if bad then 0x1006 else 0

/-- A parameter block read at the start of a descriptor (R157, R251): its 256 bytes, or what its start meets. The queue unit sends a read that
meets RETRY 1 again, and a boundary or a recovering die that answers RETRY 0 faults the context (R66, R189, R190). -/
def readParams (ctx : Nat) (a : Nat) (s : State) : Sum Bytes Start :=
  let r : Requester := .unit ctx true 5
  let c := accessCheck s r a 256 false
  if retryOne s r c a then .inr (.hold (noticeDomain s r a))
  else if c = 0x2005 ∨ c = 0x5007 then .inr (.fault c a)
  else if c ≠ 0 then .inr (.fail 0x1006)
  else if addrNode a = s.swarm.node ∧ ¬ checksOk s a 256 then .inr (.fail 0x5001)
  else .inl (memRead s a 256)

/-- Every extent passes R74 with PERM cell use. -/
def extentsOk (s : State) (ctx : Nat) (l : List (Nat × Nat × Bool)) : Bool := l.all (fun e => checkAccess s ctx true e.1 e.2.1 e.2.2 == 0)

/-- A start that has its units, with the parameter block read. -/
def startWith (p : Bytes) : Start → Start
  | .go us _ => .go us p
  | r => r

/-- The start of a descriptor whose parameter block has been read, or not: its checks, then its units. -/
def paramsGo (typ : Nat) (check : Bytes → Bytes → W16) (extents : Bytes → Bytes → List (Nat × Nat × Bool))
    (x : Queue) (b : Bytes) (s : State) : Sum Bytes Start → Start
  | .inr r => r
  | .inl p =>
    if check b p ≠ 0 then .fail (check b p)
    else if ¬ extentsOk s x.ctx.toNat (extents b p) then .fail 0x1006
    else startWith p (gatherUnits typ x.unitMask s)

/-- What a descriptor with a parameter block needs at its start. -/
def paramsLate (typ : Nat) (check : Bytes → Bytes → W16) (extents : Bytes → Bytes → List (Nat × Nat × Bool))
    (x : Queue) (b : Bytes) (s : State) : Start :=
  paramsGo typ check extents x b s (readParams x.ctx.toNat (leNat b 40 8) s)

/-- Engine `u` of this node (8 × die + engine). -/
def getEngine (s : State) (u : Nat) : SelEngine := Tbl.get {} s.cmp.engines u
/-- The state with an engine written. -/
def setEngine (s : State) (u : Nat) (x : SelEngine) : State := { s with cmp := { s.cmp with engines := Tbl.set {} s.cmp.engines u x } }

/-- The engines of a SELECT stream (R155). -/
def selectBegin (q : Nat) (e : Desc) (s : State) : State :=
  let ctx := (getQueue s q).ctx
  e.units.foldl (fun s u =>
    setEngine s u { getEngine s u with state := .streaming, context := ctx.truncate 10, fill := 0, job := some (q, e.num.toNat) }) s

def execSelectDescriptor (q : Nat) (s : State) : Host.Outcome State Fault Refusal :=
  inRange (decide (q < 1024)) (startDesc 3 (paramsLate 3 (fun _ p => selCheck p) (fun _ p => (selParams p).extents)) selectBegin q s)

/-! ### Keys and rank (R158-R160) -/

/-- The float format of a KEYFMT, when it is one. -/
def keyFloat (k : Nat) : Option Fmt := if k ≤ 4 then floatFmt k else none

/-- The rank of a key code in its format: none for NaN, which is worst in every mode; −0 below +0. -/
def keyRank (k c : Nat) : Option Int :=
  match keyFloat k with
  | some f =>
    let m := c % 2 ^ (f.width - 1)
    if f.inf < m then none else if c / 2 ^ (f.width - 1) % 2 = 1 then some (-(m : Int) - 1) else some m
  | none => if k = 8 then some c else some (signedOf (if k = 5 then 8 else 32) c)

/-- An entry of a list: a key code and a global index. -/
abbrev Entry := Nat × Nat

/-- Whether entry x ranks before entry y (R160). -/
def ranksBefore (mode k : Nat) (x y : Entry) : Bool :=
  match keyRank k x.1, keyRank k y.1 with
  | none, none => decide (x.2 < y.2)
  | none, some _ => false
  | some _, none => true
  | some a, some b => if a = b then decide (x.2 < y.2) else if mode = 0 then decide (b < a) else decide (a < b)

/-- The same element: equal key and equal index. -/
def sameEntry (k : Nat) (x y : Entry) : Bool := keyRank k x.1 == keyRank k y.1 && x.2 == y.2

/-- An entry put in rank order. -/
def rankInsert (mode k : Nat) (x : Entry) : List Entry → List Entry
  | [] => [x]
  | y :: l => if ranksBefore mode k x y then x :: y :: l else y :: rankInsert mode k x l

/-- A list that an element arrives at (R160, R165): the list, and whether the element entered. -/
def arriveAt (mode k cap : Nat) (l : List Entry) (x : Entry) : List Entry × Bool :=
  if l.any (sameEntry k x) then (l, false)
  else
    let l' := (rankInsert mode k x l).take cap
    (l', l'.any (sameEntry k x))

/-- Elements arriving in turn, with the number that entered. -/
def arriveAll (mode k cap : Nat) (l : List Entry) (xs : List Entry) : List Entry × Nat :=
  xs.foldl (fun p x => let (l, b) := arriveAt mode k cap p.1 x; (l, p.2 + b2n b)) (l, 0)

/-! ### Elements (R158, R161-R163) -/

/-- The format of the keys that the lists hold: NEAREST over vectors makes FP32 or UINT32 keys (R161); else KEYFMT, records too (R162). -/
def SelParams.outFmt (p : SelParams) : Nat := if p.vectors then (if p.dist = 3 then 8 else 0) else p.keyfmt

/-- Number of 1 bits. -/
def popCount (n x : Nat) : Nat := ((upFrom 0 n).filter (fun i => x / 2 ^ i % 2 = 1)).length

/-- The term of one component pair (R161). A difference of two infinities of one sign is NaN and sets INVALID, which R112 does not list for a
reduction (DESIGN CHOICE, assumption log 78). -/
def distTerm (dist : Nat) (x q : Num) : Num × Bool :=
  let (d, i) := addNum x q.neg
  match dist with
  | 0 => let (m, j) := mulNum d d
    (m, i || j)
  | 1 => ((match d with
    | .fin _ m e => .fin false m e
    | .inf _ => .inf false
    | .nan => .nan), i)
  | _ => let (m, j) := mulNum x q
    (m.neg, j)

/-- Flags of a select run: INVALID, OVERFLOW, TRUNCATED, NAN_KEY, SHORT (R166). -/
structure SelFlags where
  invalid   : Bool := false
  overflow  : Bool := false
  truncated : Bool := false
  nanKey    : Bool := false
  short     : Bool := false
deriving DecidableEq, Repr

/-- Flags joined. -/
def SelFlags.or (a b : SelFlags) : SelFlags :=
  ⟨a.invalid || b.invalid, a.overflow || b.overflow, a.truncated || b.truncated, a.nanKey || b.nanKey, a.short || b.short⟩

/-- The key of a vector against a query (R161). -/
def distKey (p : SelParams) (x q : Bytes) : Nat × SelFlags :=
  if p.dist = 3 then (((upFrom 0 p.dim).map (fun i => popCount 32 (leNat x (4 * i) 4 ^^^ leNat q (4 * i) 4))).foldl (· + ·) 0, {})
  else
    let at_ := fun (l : Bytes) (i : Nat) => decodeFmt p.keyfmt (leNat l (i * keyBytes p.keyfmt) (keyBytes p.keyfmt))
    let w := windowSum ((upFrom 0 p.dim).map (fun i => distTerm p.dist (at_ x i) (at_ q i)))
    let r := roundNum fp32 false false w.sum
    (r.code, { invalid := w.invalid, overflow := r.overflow, truncated := w.truncated })

/-- A key code with every NaN canonical (R164). -/
def canonKey (k c : Nat) : Nat := match keyFloat k with
  | some f => if (keyRank k c).isNone then f.nan else c
  | none => c

/-- Element `j` of row `r`: none for a filler record. -/
def element (s : State) (p : SelParams) (r j : Nat) : Option Entry × SelFlags :=
  let (e, fl) : Option Entry × SelFlags :=
    if p.records then
      let b := memRead s (p.src + r * p.stride + 8 * j) 8
      let i := leNat b 4 4
      (if i = 0xFFFFFFFF then none else some (leNat b 0 4 % 2 ^ (8 * keyBytes p.outFmt), i), {})
    else if p.mode = 2 then
      let (k, f) := distKey p (memRead s (p.src + j * p.vecBytes) p.vecBytes) (memRead s (p.query + r * p.vecBytes) p.vecBytes)
      (some (k, p.base + j), f)
    else (some (memNat s (p.src + r * p.stride + j * p.elem) p.elem, p.base + j), {})
  match e with
  | some (k, i) => (some (canonKey p.outFmt k, i), { fl with nanKey := (keyRank p.outFmt k).isNone })
  | none => (none, fl)

/-- The cursor of a row (R163). -/
def rowCursor (s : State) (p : SelParams) (r : Nat) : Option Entry :=
  if p.useCur then
    let b := memRead s (p.cursor + r * p.outStride) 8
    some (leNat b 0 4, leNat b 4 4)
  else none

/-- Whether an element is eligible after a cursor. -/
def eligible (p : SelParams) (cur : Option Entry) (x : Entry) : Bool :=
  match cur with
  | none => true
  | some c => c.2 ≠ 0xFFFFFFFF && ranksBefore p.mode p.outFmt c x

/-! ### Rows on engines (R164, R167) -/

/-- What one engine adds to its counters. -/
structure SelWork where
  keys    : Nat := 0
  inserts : Nat := 0
deriving DecidableEq, Repr, Inhabited

/-- A list built from elements lo to hi − 1 of a row. -/
def buildList (s : State) (p : SelParams) (r lo hi : Nat) : List Entry × SelWork × SelFlags :=
  let es := (upFrom lo (hi - lo)).map (element s p r)
  let cur := rowCursor s p r
  let (l, n) := arriveAll p.mode p.outFmt p.k [] ((es.filterMap (·.1)).filter (eligible p cur))
  (l, { keys := es.length, inserts := n }, es.foldl (fun f e => f.or e.2) {})

/-- One level of the merge tree: position 2i absorbs position 2i + 1; with each list, the engine number and its insertions. -/
def mergeLevel (p : SelParams) : List (Nat × List Entry) → List (Nat × List Entry) × List (Nat × Nat)
  | a :: b :: l =>
    let (m, n) := arriveAll p.mode p.outFmt p.k a.2 b.2
    let (r, w) := mergeLevel p l
    ((a.1, m) :: r, (a.1, n) :: w)
  | l => (l, [])

/-- The merge tree: at most `fuel` levels. -/
def mergeTree (p : SelParams) : Nat → List (Nat × List Entry) → List Entry × List (Nat × Nat)
  | 0, l => ((l.map (·.2)).headD [], [])
  | n + 1, l =>
    match l with
    | [] => ([], [])
    | [a] => (a.2, [])
    | _ =>
      let (r, w) := mergeLevel p l
      let (x, v) := mergeTree p n r
      (x, w ++ v)

/-- A row's list, and the work of each position among the N engines. -/
def rowResult (s : State) (p : SelParams) (n r : Nat) : List Entry × List (Nat × SelWork) × SelFlags :=
  if p.split then
    let parts := (upFrom 0 n).map (fun i => (i, buildList s p r (i * p.len / n) ((i + 1) * p.len / n)))
    let (l, w) := mergeTree p 6 (parts.map (fun e => (e.1, e.2.1)))
    (l, parts.map (fun e => (e.1, e.2.2.1)) ++ w.map (fun e => (e.1, { inserts := e.2 })), parts.foldl (fun f e => f.or e.2.2.2) {})
  else
    let (l, w, f) := buildList s p r 0 p.len
    (l, [(r % n, w)], f)

/-- The output row (R164): K records, fillers, and zeros to the stride. -/
def outRow (p : SelParams) (l : List Entry) : Bytes :=
  let rec_ := l.map (fun e => toLE 4 e.1 ++ toLE 4 e.2)
  let fill := List.replicate (p.k - l.length) (toLE 4 0 ++ toLE 4 0xFFFFFFFF)
  slice (rec_ ++ fill).flatten 0 p.outStride

/-- One access of the units at work for a descriptor: the unit by its position, the address, the bytes, and whether it writes. -/
abbrev UnitAccess := Nat × Nat × Nat × Bool

/-- The first access that fails (R172, R66): its code, 0 when all pass, and the access; `who` is the requester of a position. -/
def runAccess (s : State) (who : Nat → Requester) (l : List UnitAccess) : W16 × UnitAccess :=
  let one := fun (e : UnitAccess) =>
    let c := accessCheck s (who e.1) e.2.1 e.2.2.1 e.2.2.2
    if c ≠ 0 then (c, e)
    else if ¬ e.2.2.2 ∧ addrNode e.2.1 = s.swarm.node ∧ ¬ checksOk s e.2.1 e.2.2.1 then (0x5001, e) else (0, e)
  ((l.map one).find? (fun c => c.1 ≠ 0)).getD (0, 0, 0, 0, false)

/-- The packets of the reads of units at work (R175). -/
def sendReads (who : Nat → Requester) (src : Nat → W32) (l : List UnitAccess) (s : State) : State :=
  (l.filter (fun e => !e.2.2.2)).foldl (fun s e => sendPackets (who e.1) (src e.1) false e.2.1 e.2.2.1 [] 0 s) s

/-- A unit shown as FAULTED in its registers (R171, R253). -/
def markFaulted (src : W32) (s : State) : State :=
  let u := field src 16 10
  match srcUnit src with
  | 5 => setEngine s (8 * field src 4 2 + u) { getEngine s (8 * field src 4 2 + u) with state := .faulted }
  | 6 => { s with cmp := { s.cmp with tiles := Tbl.modify {} s.cmp.tiles u (fun x => { x with state := .faulted }) } }
  | _ => s

/-- A unit at work for a descriptor faults its context (R172, R250). -/
def faultUnit (src : W32) (q : Nat) (d : W32) (code : W16) (addr : Nat) (write : Bool) (s : State) : State :=
  let s := if write ∧ countedRefusal s code addr then refusedWrite src addr 1 (creatorAt s addr 1) s else s
  let r : FaultRecord :=
    { code := code, kind := faultKind code, source := src, address := BitVec.ofNat 64 addr, queue := BitVec.ofNat 16 q, descriptor := d }
  faultCtx (getQueue s q).ctx.toNat r (if code = 0x5001 then checkResource s addr else none) (markFaulted src s)

/-- Whether a REPORT object cannot be written yet, because its domain sleeps and wakes (R189). -/
def reportAsleep (s : State) (ctx : Nat) (h : W32) : Option Nat :=
  match resolve s h with
  | some i =>
    let a := (getMot s i).base
    let r : Requester := .unit ctx false 5
    if h ≠ 0 ∧ retryOne s r (accessCheck s r a 8 true) a then some a else none
  | none => none

/-- What the engines of a SELECT read and write, row by row (R161-R164, R167): an engine at position i reads its elements of a row, the query and
the cursor, and position 0, or the engine of the row, writes the output. -/
def SelParams.accesses (p : SelParams) (n : Nat) : List UnitAccess :=
  ((upFrom 0 p.rows).flatMap (fun r =>
    let row := if p.vectors then p.src else p.src + r * p.stride
    let size := if p.vectors then p.vecBytes else p.elem
    let reads := fun (i lo hi : Nat) => [(i, row + lo * size, (hi - lo) * size, false)]
      ++ (if p.vectors then [(i, p.query + r * p.vecBytes, p.vecBytes, false)] else [])
      ++ (if p.useCur then [(i, p.cursor + r * p.outStride, 8, false)] else [])
    if p.split then (upFrom 0 n).flatMap (fun i => reads i (i * p.len / n) ((i + 1) * p.len / n)) ++ [(0, p.dst + r * p.outStride, p.outStride, true)]
    else reads (r % n) 0 p.len ++ [(r % n, p.dst + r * p.outStride, p.outStride, true)])).filter (fun e => e.2.2.1 != 0)

/-- Engines whose request is to be sent again, shown as STALLED (R171, R189). -/
def stallEngines (us : List Nat) (s : State) : State := us.foldl (fun s u => setEngine s u { getEngine s u with state := .stalled }) s

/-- The end of a SELECT (R166, R167, R172): all rows, the counters of its engines, with FILL as their last list leaves it, and the report. -/
def selectFinish (q : Nat) (e : Desc) (s : State) : State :=
  let ctx := (getQueue s q).ctx.toNat
  let p := selParams e.params
  let n := e.units.length
  let src := fun (i : Nat) => mkSrc s.swarm.node (e.units.getD i 0 / 8) 5 (e.units.getD i 0 % 8) 0
  let h := le32 e.bytes 48
  let who := fun (i : Nat) => Requester.unit ctx true (e.units.getD i 0 / 8)
  let l := p.accesses n
  match runAccess s who l, reportAsleep s ctx h with
  | (0, _), some a => noticeDomain (stallEngines e.units s) (.unit ctx false 5) a
  | (0, _), none =>
    let rows := (upFrom 0 p.rows).map (fun r => (r, rowResult s p n r))
    let t := rows.foldl (fun t r =>
      let i := if p.split then 0 else r.1 % n
      let o := outRow p r.2.1
      writeMem (p.dst + r.1 * p.outStride) o (sendPackets (who i) (src i) true (p.dst + r.1 * p.outStride) p.outStride o 0 t)) (sendReads who src l s)
    let work := (rows.map (fun r => r.2.2.1)).flatten
    let fill := fun (i : Nat) => BitVec.ofNat 11 (((rows.filter (fun r => (if p.split then 0 else r.1 % n) == i)).map (fun r => r.2.1.length)).getLastD 0)
    let t := (e.units.zip (upFrom 0 n)).foldl (fun t u =>
      let x := getEngine t u.1
      let mine := work.filter (fun w => w.1 == u.2)
      let sum := fun (f : SelWork → Nat) => BitVec.ofNat 32 ((mine.map (fun w => f w.2)).foldl (· + ·) 0)
      setEngine t u.1 { x with state := .idle, job := none, fill := fill u.2, keysIn := x.keysIn + sum SelWork.keys,
                               inserts := x.inserts + sum SelWork.inserts }) t
    let f : SelFlags := rows.foldl (fun f r => f.or { r.2.2.2 with short := decide (r.2.1.length < p.k) }) {}
    writeReport q e h (b2n f.invalid + 2 * b2n f.overflow + 4 * b2n f.truncated + 8 * b2n f.nanKey + 16 * b2n f.short) t
  | (c, i, a, _, w), _ =>
    if retryOne s (who i) c a then noticeDomain (stallEngines [e.units.getD i 0] s) (who i) a else faultUnit (src i) q e.num c a w s

end Sys2Proof.Machine
end

