-- ==== Sys2Proof/Machine/Tile.lean ====
section
/-! DEFINITION. The matrix tiles (R247-R251), and DESCRIPTOR_FINISH for every type (R135, R166, R250). -/

namespace Sys2Proof.Machine

/-! ### The parameter block (R249) -/

/-- The fields of a TILE descriptor's parameter block, with its NUMCTL, items and report. -/
structure TileParams where
  mode  : Nat
  block : Bool
  add   : Bool
  k     : Nat
  /-- Bases and strides: A, B, scales, output, anchors, addend. -/
  base  : List Nat
  step  : List Nat
  sa    : W32
  sb    : W32
  n     : NumCtl
  items : Nat
deriving DecidableEq, Repr

def tileParams (b p : Bytes) : TileParams :=
  let f := byteAt p 1
  ⟨leNat p 0 1, bitOf f 0, bitOf f 1, leNat p 4 4,
   [leNat p 8 8, leNat p 24 8, leNat p 40 8, leNat p 56 8, leNat p 72 8, leNat p 96 8],
   [leNat p 16 8, leNat p 32 8, leNat p 48 8, leNat p 64 8, leNat p 80 8, leNat p 104 8],
   le32 p 88, le32 p 92, numctl (le16 b 52), leNat b 54 2⟩

/-- Address `i` of field `f` (0 A, 1 B, 2 scales, 3 output, 4 anchors, 5 addend). -/
def TileParams.at (t : TileParams) (f i : Nat) : Nat := t.base.getD f 0 + i * t.step.getD f 0

/-- Whether a PARTIAL loads anchors. -/
def TileParams.loads (t : TileParams) : Bool := t.mode == 1 && t.base.getD 4 0 != 0

/-- Bytes of an item's output. -/
def TileParams.outBytes (t : TileParams) : Nat := match t.mode with
  | 0 => elemBytes t.n.out 1024
  | 1 => 32768
  | _ => 2048

/-- The checks of a TILE parameter block (R249, R251): alignment 0x100A, else 0x1006. -/
def tileCheck (b p : Bytes) : W16 :=
  let t := tileParams b p
  let w := le16 b 52
  let misaligned := t.base.any (fun a => a % 256 != 0) || t.step.any (fun a => a % 256 != 0)
  let bad :=
    2 < t.mode ∨ field (byteAt p 1) 7 2 ≠ 0 ∨ ¬ zeroIn p 2 4 ∨ ¬ zeroIn p 112 256 ∨ t.k = 0 ∨ 65535 < t.k
    ∨ (t.block ∧ (t.k % 32 ≠ 0 ∨ ¬ blocksOk w)) ∨ (t.n.out = 7 ∧ (t.sa ≠ f32One ∨ t.sb ≠ f32One))
  if misaligned then 0x100A else if bad then 0x1006 else 0

/-- The extents of one item, with whether each is written. -/
def itemExtents (t : TileParams) (i : Nat) : List (Nat × Nat × Bool) :=
  [(t.at 0 i, elemBytes t.n.a (32 * t.k), false), (t.at 1 i, elemBytes t.n.b (32 * t.k), false), (t.at 3 i, t.outBytes, true)]
  ++ (if t.block then [(t.at 2 i, 2 * t.k, false)] else [])
  ++ (if t.loads then [(t.at 4 i, 2048, false)] else [])
  ++ (if t.mode = 0 ∧ t.add then [(t.at 5 i, 4096, false)] else [])

/-- The extents of all items. -/
def tileExtents (b p : Bytes) : List (Nat × Nat × Bool) :=
  let t := tileParams b p
  ((upFrom 0 t.items).map (itemExtents t)).flatten

/-- Tile `u`. -/
def getTile (s : State) (u : Nat) : TileUnit := Tbl.get {} s.cmp.tiles u
/-- The state with a tile written. -/
def setTile (s : State) (u : Nat) (x : TileUnit) : State := { s with cmp := { s.cmp with tiles := Tbl.set {} s.cmp.tiles u x } }

/-- Whether an item begins with an anchor pass (R250). -/
def TileParams.anchors (t : TileParams) : Bool := t.mode == 2 || (t.mode == 0 && (directGroup t.n t.block).isNone)

/-- The tiles of a TILE start, their flags clear (R248, R253). -/
def tileBegin (q : Nat) (e : Desc) (s : State) : State :=
  let ctx := (getQueue s q).ctx
  let items := leNat e.bytes 54 2
  (e.units.zip (upFrom 0 e.units.length)).foldl (fun s u =>
    let x : TileUnit := { itemsDone := (getTile s u.1).itemsDone, context := ctx.truncate 10, item := BitVec.ofNat 16 u.2 }
    setTile s u.1 (if u.2 < items then { x with state := if (tileParams e.bytes e.params).anchors then .anchoring else .running, job := some (q, e.num.toNat) } else x)) s

def execTile (q : Nat) (s : State) : Host.Outcome State Fault Refusal :=
  inRange (decide (q < 1024)) (startDesc 4 (paramsLate 4 tileCheck tileExtents) tileBegin q s)

/-! ### One item (R250) -/

/-- Block scales of an item: that of row r in block j at S + 32j + r, that of column c at S + K + 32j + c. -/
def tileScales (s : State) (t : TileParams) (i : Nat) : Option (Bytes × Bytes) :=
  if t.block then some (memRead s (t.at 2 i) t.k, memRead s (t.at 2 i + t.k) t.k) else none

/-- The 1,024 entries of an item; none is a fault of R143. -/
def tileEntry (s : State) (t : TileParams) (i e : Nat) : Option AccEntry :=
  let a := memRead s (t.at 0 i) (elemBytes t.n.a (32 * t.k))
  let b := memRead s (t.at 1 i) (elemBytes t.n.b (32 * t.k))
  let l := entryTerms t.n 32 t.k a b (tileScales s t i) (e / 32) (e % 32)
  let g := directGroup t.n t.block
  match t.mode with
  | 0 => if g.isSome then mmaEntry g l {} else (amaxEntry l {}).bind (mmaEntry none l)
  | 1 => if t.loads then (ldancEntry false (BitVec.ofNat 16 (memNat s (t.at 4 i + 2 * e) 2)) {}).bind (mmaEntry g l) else mmaEntry g l {}
  | _ => amaxEntry l {}

/-- All entries of an item in row-major order, when none faults. -/
def tileItem (s : State) (t : TileParams) (i : Nat) : Option (List AccEntry) := (upFrom 0 1024).mapM (tileEntry s t i)

/-- The output bytes of an item, with INVALID, OVERFLOW and TRUNCATED. -/
def tileOutput (s : State) (t : TileParams) (i : Nat) (es : List AccEntry) : Bytes × Bool × Bool × Bool :=
  match t.mode with
  | 0 =>
    let l := ((upFrom 0 1024).zip es).map (fun e =>
      finishEntry t.n t.sa t.sb (if t.add then some (BitVec.ofNat 32 (memNat s (t.at 5 i + 4 * e.1) 4)) else none) e.2)
    (packElems t.n.out (l.map (fun r => r.1.code)), l.any (fun r => r.1.invalid), l.any (fun r => r.1.overflow), l.any (fun r => r.2))
  | 1 => ((es.map packEntry).flatten, false, false, false)
  | _ => ((es.map (fun e => toLE 2 (anchorCode e).toNat)).flatten, false, false, false)

/-- An item run on tile `u`: its output written and its counters advanced; none is a fault. -/
def runItem (t : TileParams) (ctx u i : Nat) (s : State) : Option State :=
  (tileItem s t i).map (fun es =>
    let (l, a, b, c) := tileOutput s t i es
    let x := getTile s u
    setTile (writeMem (t.at 3 i) l (sendPackets (.unit ctx true 4) (mkSrc s.swarm.node 4 6 u 0) true (t.at 3 i) l.length l 0 s)) u
      { x with invalid := x.invalid || a, overflow := x.overflow || b, truncated := x.truncated || c, item := BitVec.ofNat 16 i,
               itemsDone := x.itemsDone + 1 })

/-- Items from `i` on, item i on tile c_{i mod N}; none with the tile that faults. -/
def runItems (t : TileParams) (ctx : Nat) (us : List Nat) : Nat → Nat → State → Sum State Nat
  | 0, _, s => .inl s
  | n + 1, i, s =>
    let u := us.getD (i % us.length) 0
    match runItem t ctx u i s with
    | some s => runItems t ctx us n (i + 1) s
    | none => .inr u

/-- What the tiles of a TILE read and write, item by item, each on its tile (R248). -/
def tileAccesses (t : TileParams) (n : Nat) : List UnitAccess :=
  (upFrom 0 t.items).flatMap (fun i => (itemExtents t i).map (fun e => (i % n, e.1, e.2.1, e.2.2)))

/-- The end of a TILE (R250). -/
def tileFinish (q : Nat) (e : Desc) (s : State) : State :=
  let ctx := (getQueue s q).ctx.toNat
  let t := tileParams e.bytes e.params
  let h := le32 e.bytes 48
  let src := fun (u : Nat) => mkSrc s.swarm.node 4 6 u 0
  let unit := fun (i : Nat) => e.units.getD i 0
  let who := fun (_ : Nat) => Requester.unit ctx true 4
  let stall := fun (us : List Nat) (s : State) => us.foldl (fun s u => setTile s u { getTile s u with state := .stalled }) s
  let l := tileAccesses t e.units.length
  match runAccess s who l, reportAsleep s ctx h with
  | (0, _), some a => noticeDomain (stall e.units s) (.unit ctx false 5) a
  | (0, _), none =>
    match runItems t ctx e.units t.items 0 (sendReads who (fun i => src (unit i)) l s) with
    | .inr u => faultUnit (src u) q e.num 0x1006 0 false s
    | .inl s =>
      let xs := e.units.map (getTile s)
      let s := e.units.foldl (fun s u => setTile s u { getTile s u with state := .idle, job := none }) s
      writeReport q e h (b2n (xs.any (·.invalid)) + 2 * b2n (xs.any (·.overflow)) + 4 * b2n (xs.any (·.truncated))) s
  | (c, i, a, _, w), _ =>
    if retryOne s (who i) c a then noticeDomain (stall [unit i] s) (who i) a else faultUnit (src (unit i)) q e.num c a w s

/-! ### DESCRIPTOR_FINISH -/

/-- DESCRIPTOR_FINISH (R135): the work of descriptor `d` of queue `q`, which has started, is complete. -/
def descriptorFinish (q : Nat) (d : W32) (s : State) : State :=
  let x := getQueue s q
  match x.inflight.find? (fun e => e.num == d) with
  | some e =>
    if e.finished ∨ ¬ (localCtx s x.ctx.toNat).any (fun c => !inReset (getCtx s c)) then s
    else match (byteAt e.bytes 0).toNat with
      | 1 => settle q (kernelFinish q e s)
      | 2 => settle q (copyRun q e s)
      | 3 => selectFinish q e s
      | 4 => tileFinish q e s
      | _ => s
  | none => s

def execDescriptorFinish (q : Nat) (d : W32) (s : State) : Host.Outcome State Fault Refusal :=
  inRange (decide (q < 1024)) (descriptorFinish q d s)

end Sys2Proof.Machine
end

