-- ==== Sys2Proof/Machine/Coll.lean ====
section
/-! DEFINITION. Collectives (chapter 08): the slot registers (R222, R223), arming and joins (R225), the combinations (R224), the
fixed tree (R226), and results (R227, R228). -/

namespace Sys2Proof.Machine

/-- Swarm address of the registers of slot `n` = 16 × die + k (R222). -/
def collAddr (s : State) (n : Nat) : Nat := here s (n / 16) (0x01008000000 + 0x40 * (n % 16))

/-- The mailbox that created the owner context of a slot. -/
def collCreator (s : State) (x : CollSlot) : Option Nat := (localCtx s x.owner.toNat).bind (fun c => if (getCtx s c).node = s.swarm.node then some (getCtx s c).mailbox else none)

/-- The requester of slot `n`'s own accesses: its collective engine, for the owner. -/
def collReq (n : Nat) (x : CollSlot) : Requester := .unit x.owner.toNat false (n / 16)

/-- A record about a slot, named by its register address, with FAULT to the owner's mailbox. -/
def collRecord (n : Nat) (code missed : W16) (kind : Byte) (s : State) : State :=
  let x := getColl s n
  let ctx : W16 := x.owner.zeroExtend 16
  let i := nextIndex s
  let s := record { code := code, context := ctx, kind := kind, action := 6, source := mkSrc s.swarm.node (n / 16) 7 0 0,
                    address := BitVec.ofNat 64 (collAddr s n), missed := missed } s
  match collCreator s x with
  | some m => sendAbout m 0xE003 (faultPayload ctx code i) s
  | none => s

/-! ### Arming (R225) -/

/-- Bytes of the result of a slot (R224). -/
def collResultSize (x : CollSlot) : Nat := if x.op.toNat = 10 then (collMembers x).length * collSize x else collSize x

/-- The checks of ARM on OP, COUNT, PARAM, MASK, ROOT and the alignment of RESULT. -/
def collRangeOk (s : State) (n : Nat) (x : CollSlot) : Bool :=
  let op := x.op.toNat
  let ms := collMembers x
  let k := field x.param 10 0
  let fmt := field x.param 15 12
  decide (op ≤ 11 ∧ collSize x ≤ 2 ^ 24 ∧ (op = 0 → x.count = 0) ∧ x.result.toNat % 256 = 0 ∧ (if op = 9 then x.root.toNat < ms.length else x.root = 0))
    && (op != 8 || decide (1 ≤ k ∧ k ≤ 1024 ∧ x.count.toNat = k ∧ (fmt ≤ 5 ∨ fmt = 7 ∨ fmt = 8)))
    && ms.contains (s.swarm.node * 4 + n / 16) && ms.all (fun m => nodePresent s (m / 4))

/-- The code that ARM fails with, or 0. -/
def collArmCheck (s : State) (n : Nat) (x : CollSlot) : W16 :=
  let r := x.result.toNat
  if ¬ collRangeOk s n x then 0x1006
  else if r ≠ 0 ∧ collResultSize x ≠ 0 ∧ accessCheck s (collReq n x) r (collResultSize x) true ≠ 0 then 0x4001
  else if signalCheck s (collReq n x) x.owner.toNat x.fence.toNat ≠ 0 ∨ x.fence.toNat % 8 ≠ 0 then 0x4001
  else if s.cmp.slots.any (fun e => e.1 != n && e.1 / 16 == n / 16 && e.2.state == .armed && e.2.collId == x.collId) then 0x2004
  else 0

/-- The family of a slot's owner, in the form of R73's creator byte. -/
def collFamily (s : State) (x : CollSlot) : W16 :=
  match localCtx s x.owner.toNat with
  | some c => BitVec.ofNat 16 ((getCtx s c).node + 4 * (getCtx s c).mailbox)
  | none => (freeW s 6).truncate 16

/-- A join that has arrived at slot `n` (R225): held when it is ahead of the slot's arms, matched, or a mismatch that fails every
member. A join from before this arming is no longer of use. -/
def joinSlot (n : Nat) (j : Sys2Proof.CollJoin) (s : State) : State :=
  let x := getColl s n
  if x.arms < j.arms then { s with cmp := { s.cmp with heldJoins := s.cmp.heldJoins ++ [(n, j)] } }
  else if x.state ≠ .armed then s
  else if j.collId ≠ x.collId ∨ j.op ≠ x.op ∨ j.count ≠ x.count ∨ j.param ≠ x.param ∨ j.mask ≠ x.members ∨ j.root ≠ x.root ∨ j.arms ≠ x.arms
      ∨ ¬ (collPartners s n x).contains j.sender then collFail n 0x1006 s
  else if j.family ≠ collFamily s x then collFail n 0x4001 s
  else if x.joined.contains j.sender then s
  else setColl s n { x with joined := x.joined ++ [j.sender] }

/-- The joins held for a slot are taken again as it arms. -/
def takeHeld (n : Nat) (s : State) : State :=
  let l := s.cmp.heldJoins.filter (fun e => e.1 == n)
  l.foldl (fun s e => joinSlot n e.2 s) { s with cmp := { s.cmp with heldJoins := s.cmp.heldJoins.filter (fun e => e.1 != n) } }

/-- ARM (R225). -/
def armColl (n : Nat) (s : State) : State :=
  let x := getColl s n
  let code := collArmCheck s n x
  let y := { x with input := [], written := [], joined := [], absorbed := [], value0 := [], arrived := none, missed := 0, code := code }
  if code ≠ 0 then
    let s := setColl s n { y with state := .failed }
    let s := match (if signalCheck s (collReq n x) x.owner.toNat x.fence.toNat = 0 then liveFence s x.fence.toNat else none) with
      | some i => poison i code s
      | none => s
    collRecord n code 0 5 s
  else takeHeld n (setColl s n { y with state := .armed, arms := x.arms + 1, armedAt := s.keeper.tick })

/-! ### CTRL (R223) -/

/-- CTRL of a slot not FREE, `v` for its fields and `o` for its ones: ARMED takes only ABORT; of RELEASE and ARM together RELEASE
acts (assumption log 46). -/
def collCtrl (n : Nat) (v o : W32) (s : State) : State :=
  let x := getColl s n
  if x.state = .armed then (if bitOf o 13 then collFail n 0x5004 s else s)
  else
    let y := { x with op := BitVec.ofNat 4 (field v 20 17) }
    if bitOf o 11 then setColl s n { y with state := .free, input := [], written := [], joined := [], absorbed := [], value0 := [], arrived := none }
    else if bitOf o 12 then armColl n (setColl s n y)
    else setColl s n y

/-- CLAIM of a FREE slot. -/
def collClaim (n : Nat) (v : W32) (s : State) : State :=
  setColl s n { getColl s n with owner := BitVec.ofNat 10 (field v 9 0), state := .claimed, op := BitVec.ofNat 4 (field v 20 17) }

/-- A direct write to CTRL: FREE takes only CLAIM, from the context it names; any other state, writes of the owner's sources. -/
def writeCollCtrl (src : W32) (die k : Nat) (v : W32) (s : State) : State :=
  let n := 16 * die + k
  let x := getColl s n
  let a := collAddr s n
  let reach := reachCheck s (.src src) a 4
  if reach ≠ 0 then answer reach [] (noticeDomain s (.src src) a)
  else if x.state = .free then
    if bitOf v 10 ∧ srcOwns s src (field v 9 0) then collClaim n v (answer 0 [] s)
    else refuseWrite src a none 0x4001 s
  else if ¬ srcOwns s src x.owner.toNat then refuseWrite src a (collCreator s x) 0x4001 s
  else collCtrl n v v (answer 0 [] s)

def execCollClaim (src : W32) (die k : Nat) (v : W32) (s : State) : Host.Outcome State Fault Refusal :=
  inRange (decide (die < 4 ∧ k < 16)) (writeCollCtrl src die k v s)

def execCollRelease (src : W32) (die k : Nat) (v : W32) (s : State) : Host.Outcome State Fault Refusal :=
  inRange (decide (die < 4 ∧ k < 16)) (writeCollCtrl src die k v s)

def execCollArm (src : W32) (die k : Nat) (v : W32) (s : State) : Host.Outcome State Fault Refusal :=
  inRange (decide (die < 4 ∧ k < 16)) (writeCollCtrl src die k v s)

def execCollAbort (src : W32) (die k : Nat) (v : W32) (s : State) : Host.Outcome State Fault Refusal :=
  inRange (decide (die < 4 ∧ k < 16)) (writeCollCtrl src die k v s)

/-- COLL_INPUT_WRITE (R222): a write by a requester source id into the slot's input window. -/
def collInputWrite (src : W32) (die k off : Nat) (data : Bytes) (s : State) : State :=
  let n := 16 * die + k
  let a := here s die (0x01100000000 + 0x1000000 * k) + off
  let reach := reachCheck s (.src src) a data.length
  let c := collInputCheck s (.src src) n a data.length true
  if reach ≠ 0 then answer reach [] (noticeDomain s (.src src) a)
  else if c ≠ 0 then refuseWrite src a (collCreator s (getColl s n)) c s
  else inputStore n off data (answer 0 [] s)

def execCollInputWrite (src : W32) (die k off : Nat) (data : Bytes) (s : State) : Host.Outcome State Fault Refusal :=
  inRange (decide (die < 4 ∧ k < 16 ∧ off < 0x1000000)) (collInputWrite src die k off data s)

/-- COLL_JOIN: one from a die of this package counts only when a slot there has armed as the join says. -/
def collJoin (die k : Nat) (j : Sys2Proof.CollJoin) (s : State) : State :=
  let sent := s.cmp.slots.any (fun e => e.1 / 16 == j.sender % 4 && e.2.state == .armed && e.2.collId == j.collId && e.2.op == j.op
    && e.2.count == j.count && e.2.param == j.param && e.2.members == j.mask && e.2.root == j.root && e.2.arms == j.arms && collFamily s e.2 == j.family)
  if j.sender / 4 = s.swarm.node ∧ ¬ sent then s else joinSlot (16 * die + k) j s

def execCollJoin (die k : Nat) (j : Sys2Proof.CollJoin) (s : State) : Host.Outcome State Fault Refusal :=
  inRange (decide (die < 4 ∧ k < 16 ∧ j.sender < 16)) (collJoin die k j s)

/-! ### Combination (R224, R226) -/

/-- A contribution is complete when every parcel of its extent has been written (R222). -/
def contributed (x : CollSlot) : Bool := (upFrom 0 ((collSize x + 255) / 256)).all (Tbl.get false x.written)

/-- A slot's own contribution. -/
def contribution (x : CollSlot) : Bytes := (upFrom 0 (collSize x)).map (Tbl.get 0 x.input)

/-- The larger of two anchors (R224): none yields; direct meeting an anchored value fails. -/
def anchorMax (a b : W16) : Sum W16 W16 :=
  if a = 0x8000 then .inl b
  else if b = 0x8000 ∨ a = b then .inl a
  else if a = 0x7FFF ∨ b = 0x7FFF then .inr 0x1006
  else .inl (if a.toInt < b.toInt then b else a)

/-- One element absorbed into another (R224). -/
def combineElem (op : Nat) (a b : Bytes) : Sum Bytes W16 :=
  let x := leNat a 0 4
  let y := leNat b 0 4
  let pick := fun (p : Bool) => if p then Sum.inl a else Sum.inl b
  match op with
  | 1 => match anchorMax (le16 a 0) (le16 b 0) with
    | .inl v => .inl (toLE 2 v.toNat)
    | .inr c => .inr c
  | 2 =>
    if partialBad a ≠ 0 then .inr (partialBad a)
    else if partialBad b ≠ 0 then .inr (partialBad b)
    else match addEntry (unpackEntry a) (unpackEntry b) with
      | some e => .inl (packEntry e)
      | none => .inr 0x1006
  | 3 => .inl (toLE 8 (leNat a 0 8 + leNat b 0 8))
  | 4 => .inl (toLE 4 (laneMinMax true (BitVec.ofNat 32 x) (BitVec.ofNat 32 y)).code)
  | 5 => .inl (toLE 4 (laneMinMax false (BitVec.ofNat 32 x) (BitVec.ofNat 32 y)).code)
  | 6 => pick (decide (signedOf 32 y ≤ signedOf 32 x))
  | 7 => pick (decide (signedOf 32 x ≤ signedOf 32 y))
  | 11 => .inl (toLE 4 (laneAdd ⟨false, false⟩ (BitVec.ofNat 32 x) (BitVec.ofNat 32 y)).code)
  | _ => .inl a

/-- Element-wise combination of two contributions; the first element that fails gives the code. -/
def combineAll (op elem : Nat) (a b : Bytes) : Nat → Nat → Sum Bytes W16
  | 0, _ => .inl []
  | n + 1, i =>
    match combineElem op (slice a (i * elem) elem) (slice b (i * elem) elem) with
    | .inr c => .inr c
    | .inl v => match combineAll op elem a b n (i + 1) with
      | .inr c => .inr c
      | .inl l => .inl (v ++ l)

/-- The records of a candidate list, fillers skipped (R164, R168). -/
def listOf (fmt k : Nat) (l : Bytes) : List Entry :=
  (upFrom 0 k).filterMap (fun i =>
    let j := leNat l (8 * i + 4) 4
    if j = 0xFFFFFFFF then none else some (canonKey fmt (leNat l (8 * i) 4 % 2 ^ (8 * keyBytes fmt)), j))

/-- MERGE_K of two lists (R168): the first K of their union, then fillers. -/
def mergeLists (param : W16) (a b : Bytes) : Bytes :=
  let k := field param 10 0
  let mode := field param 11 11
  let fmt := field param 15 12
  let l := (arriveAll mode fmt k [] (listOf fmt k a ++ listOf fmt k b)).1
  (l.map (fun e => toLE 4 e.1 ++ toLE 4 e.2)).flatten ++ (List.replicate (k - l.length) (toLE 4 0 ++ toLE 4 0xFFFFFFFF)).flatten

/-- A position's running value: its contribution until it has absorbed. -/
def runningValue (x : CollSlot) : Bytes := if x.absorbed = [] then contribution x else x.value0

/-- The value after an absorption. -/
def absorbValue (x : CollSlot) (b : Bytes) : Sum Bytes W16 :=
  let a := runningValue x
  match x.op.toNat with
  | 0 => .inl []
  | 8 => .inl (mergeLists x.param a b)
  | 10 => .inl (a ++ b)
  | op => combineAll op (collElem x.op) a b x.count.toNat 0

/-- Whether a position has contributed and absorbed every one of its children. -/
def subtreeReady (s : State) (n : Nat) (x : CollSlot) : Bool :=
  contributed x && x.absorbed.length == (collChildren (collMembers x).length (collPos s n x)).length

/-- Bytes of the value of position `j` of `p`, which for ALL_GATHER holds its whole subtree. -/
def subtreeBytes (x : CollSlot) (p j : Nat) : Nat :=
  if x.op.toNat = 10 then (((collChildren p j).foldl (fun m c => max m (c + (c - j))) (j + 1)) |> min p |> (· - j)) * collSize x else collSize x

/-- COLL_ABSORB (R226): the position absorbs its next child: the running value of a slot of this package, or what arrives from
another one. -/
def collAbsorb (die k : Nat) (data : Bytes) (s : State) : State :=
  let n := 16 * die + k
  let x := getColl s n
  let ms := collMembers x
  let i := collPos s n x
  match (collChildren ms.length i)[x.absorbed.length]? with
  | none => s
  | some j =>
    let m := ms.getD j 0
    if x.state ≠ .armed ∨ x.op = 9 ∨ ¬ contributed x ∨ ¬ x.joined.contains m then s
    else
      let b : Option Bytes :=
        if m / 4 = s.swarm.node then
          match (sameColl s n).find? (fun e => e.1 / 16 == m % 4 && e.2.state == .armed) with
          | some e => if subtreeReady s e.1 e.2 then some (runningValue e.2) else none
          | none => none
        else some (slice data 0 (subtreeBytes x ms.length j))
      match b with
      | none => s
      | some b => match absorbValue x b with
        | .inl v => setColl s n { x with absorbed := x.absorbed ++ [m], value0 := v }
        | .inr c => collFail n c s

def execCollAbsorb (die k : Nat) (data : Bytes) (s : State) : Host.Outcome State Fault Refusal :=
  inRange (decide (die < 4 ∧ k < 16)) (collAbsorb die k data s)

/-! ### Results (R226-R228) -/

/-- The result for a member: at its source, the value it has formed; elsewhere what the source has sent. -/
def resultFor (s : State) (n : Nat) (data : Bytes) : Option Bytes :=
  let x := getColl s n
  let ms := collMembers x
  let source := if x.op = 9 then x.root.toNat else 0
  if x.state ≠ .armed ∨ ¬ joinsDone s n x then none
  else if collPos s n x = source then
    if x.op = 9 then (if contributed x then some (contribution x) else none)
    else if subtreeReady s n x then some (runningValue x) else none
  else if x.op ≠ 9 ∧ ¬ subtreeReady s n x then none
  else if ms.getD source 0 / 4 = s.swarm.node then x.arrived
  else some (slice data 0 (collResultSize x))

/-- The result of a source on this package sent to the other armed members here. -/
def shareResult (n : Nat) (v : Bytes) (s : State) : State :=
  ((sameColl s n).filter (fun e => e.1 != n && e.2.state == .armed)).foldl (fun s e => setColl s e.1 { e.2 with arrived := some v }) s

/-- The die of this package that is the source of the result of slot `n`, where it is not the member's own. -/
def collSource (s : State) (n : Nat) (x : CollSlot) : Option Nat :=
  let m := (collMembers x).getD (if x.op = 9 then x.root.toNat else 0) 0
  if m / 4 = s.swarm.node ∧ m % 4 ≠ n / 16 then some (m % 4) else none

/-- The way of a result within this package to the member of slot `n` (R228): the code with which its die, its domain or a route entry
stops it, or 0. -/
def collWay (s : State) (n : Nat) (x : CollSlot) : W16 :=
  match collSource s n x with
  | some d => reachCheck s (.unit x.owner.toNat false d) (collAddr s n) 4
  | none => 0

/-- Whether the way to the member of slot `n` is stopped only for a time (R188). -/
def collWaits (s : State) (n : Nat) (x : CollSlot) : Bool :=
  retryOne s (.unit x.owner.toNat false ((collSource s n x).getD 0)) (collWay s n x) (collAddr s n)

/-- The bit of the member of slot `n` in a MASK. -/
def collBit (s : State) (n : Nat) : Nat := 2 ^ (s.swarm.node * 4 + n / 16)

/-- The members of this package that the result of slot `n` cannot reach, slot `n` among them (R228). -/
def missedHere (s : State) (n : Nat) : Nat :=
  ((sameColl s n).filter (fun e => e.1 != n && e.2.state == .armed && collWay s e.1 e.2 != 0 && !collWaits s e.1 e.2)).foldl
    (fun m e => m ||| collBit s e.1) (collBit s n)

/-- The result cannot reach the members of a mask (R228). -/
def collMissed (n mask : Nat) (s : State) : State :=
  let m : W16 := BitVec.ofNat 16 mask
  collRecord n 0x5006 m 10 (collFailWith n 0x5006 m s)

/-- What a member or the source on another package reports of a collective that takes part there: the members not reached (R228), or, with a
code, that a member has failed (R229). The bytes are the mask and the code, the model's layout (assumption log 46). -/
def collReported (n : Nat) (data : Bytes) (s : State) : State :=
  let code := le16 data 2 &&& 0x7FFF
  if code = 0 then collMissed n (if le16 data 0 = 0 then collBit s n else (le16 data 0).toNat) s else collFail n code s

/-- Whether ACC_SUM of a single member finds an entry malformed (R144). -/
def loneBad (x : CollSlot) (v : Bytes) : W16 :=
  if x.op.toNat = 2 ∧ x.absorbed = [] then
    ((upFrom 0 x.count.toNat).map (fun i => partialBad (slice v (32 * i) 32))).find? (· ≠ 0) |>.getD 0
  else 0

/-- COLL_RESULT (R227, R228): the member of slot `n` writes the result, signals its fence and is DONE; or the result does not
reach it; where it is not reached, `data` is what another package reports. -/
def collResult (n : Nat) (reached : Bool) (data : Bytes) (s : State) : State :=
  let x := getColl s n
  if ¬ reached then (if x.state = .armed ∧ (collMembers x).any (fun m => m / 4 != s.swarm.node) then collReported n data s else s)
  else match resultFor s n data with
  | none => s
  | some v =>
    let r := x.result.toNat
    let store := decide (r ≠ 0 ∧ v.length ≠ 0)
    let c := if store then accessCheck s (collReq n x) r v.length true else 0
    if loneBad x v ≠ 0 then collFail n (loneBad x v) s
    else if collWaits s n x then noticeDomain s (.unit x.owner.toNat false ((collSource s n x).getD 0)) (collAddr s n)
    else if collWay s n x ≠ 0 then collMissed n (missedHere s n) s
    else if retryOne s (collReq n x) c r then noticeDomain s (collReq n x) r
    else if c = 0x2005 ∨ c = 0x2006 ∨ c = 0x5007 then collMissed n (missedHere s n) s
    else if c ≠ 0 then collFail n c (if countedRefusal s c r then refusedWrite (mkSrc s.swarm.node (n / 16) 7 0 0) r v.length (creatorAt s r v.length) s else s)
    else
      let s := if store then writeMem r v s else s
      let s := if collPos s n x = (if x.op = 9 then x.root.toNat else 0) then shareResult n v s else s
      let s := sendSignal (mkSrc s.swarm.node (n / 16) 7 0 0) x.fence.toNat false (x.value.zeroExtend 64) .unit (x.owner.zeroExtend 16) s
      setColl s n { getColl s n with state := .done, input := [], written := [], value0 := [], arrived := none }

def execCollResult (die k : Nat) (reached : Bool) (data : Bytes) (s : State) : Host.Outcome State Fault Refusal :=
  inRange (decide (die < 4 ∧ k < 16)) (collResult (16 * die + k) reached data s)

end Sys2Proof.Machine
end

