-- ==== Sys2Proof/Machine/Network.lean ====
section
/-! DEFINITION. The on-package network (chapter 07): error responses and retries, the livelock and stall detectors, route-table
switches; and the application of a staged block (R62). -/

namespace Sys2Proof.Machine

/-- A response met by a requester (R189): units retry or fault their context; the others show the answer to their program. The
TXID of a cell's request is the number of its outstanding GET or PUT (assumption log 32). -/
def takeErrRsp (h : PacketHeader) (s : State) : State :=
  let die := field h.src 4 2
  let inst := field h.src 16 10
  let r : FaultRecord := { code := h.status, kind := if h.status = 0x5001 then 1 else 5, source := h.src, address := h.dest.zeroExtend 64 }
  match srcUnit h.src with
  | 4 =>
    let x := getCell s die inst
    if die < 4 ∧ inst < 32 ∧ x.job.map (fun j => j.ctx) = some h.context then
      if h.retry then
        setCell s die inst { x with dma := (x.dma.zip (upFrom 0 x.dma.length)).map (fun e =>
          if e.2 = h.txid.toNat then { e.1 with retry := true } else e.1) }
      else
        let s := setCell s die inst { x with state := .faulted }
        faultCtx h.context.toNat { r with pc := x.pc.zeroExtend 32, item := x.item.zeroExtend 32, numctl := x.numctl,
                                             sregs := (upFrom 1 16).map (Tbl.get 0 x.s) } none s
    else s
  | 5 | 6 | 7 | 10 => if ¬ h.retry ∧ (localCtx s h.context.toNat).isSome then faultCtx h.context.toNat r none s else s
  | 2 | 3 => { s with keeper := { s.keeper with rsp := { status := h.status } } }
  | _ => s

/-- The power domain of the unit that a source id names (R344). -/
def srcDomain (src : W32) : Nat :=
  let die := field src 4 2
  let inst := field src 16 10
  match srcUnit src with
  | 2 => 12 * die + 9
  | 3 => 61
  | 4 => 12 * die + inst / 4
  | 5 => 12 * die + 8
  | 6 => if inst < 48 then 54 else 55
  | 10 => if inst = 0 then 49 else 51 + (inst - 1) / 2
  | 11 => 50
  | _ => 59

/-- ERR_RSP (R189), with the stray packets of R176 and R190, the wake notice of R192, and READ_DATA that failed its check (R183). -/
def errRsp (die router : Nat) (h : PacketHeader) (s : State) : State :=
  let d := field h.src 4 2
  if ¬ classOk h then
    faultNotice { die := die, router := router, port := 0, vn := h.vn.toNat, src := h.src, context := h.context, code := h.status } (countStray die router 1 s)
  else if (h.cls ≠ 6 ∧ ¬ (h.cls = 4 ∧ h.status = 0x5001)) ∨ srcNode h.src ≠ s.swarm.node then s
  else if (d < 5 ∧ (getDie s d).state ≠ .inService) ∨ (getDom s (srcDomain h.src)).state = .closed then countStray die router 1 s
  else takeErrRsp (if h.cls = 4 then { h with retry := false } else h)
    (if h.status = 0x2005 then noticeDomain s (.src h.src) h.dest.toNat else s)

def execErrRsp (die router : Nat) (h : PacketHeader) (s : State) : Host.Outcome State Fault Refusal :=
  inRange (decide (die < 6 ∧ router < routersOf die)) (errRsp die router h s)

/-- RETRY_TIMER (R189): the same request is sent again. -/
def retryTimer (die cell i : Nat) (s : State) : State :=
  let x := getCell s die cell
  setCell s die cell { x with dma := (x.dma.zip (upFrom 0 x.dma.length)).map (fun e =>
    if e.2 = i then { e.1 with retry := false } else e.1) }

def execRetryTimer (die cell i : Nat) (s : State) : Host.Outcome State Fault Refusal :=
  inRange (decide (die < 4 ∧ cell < 32 ∧ i < 16)) (retryTimer die cell i s)

/-- LIVELOCK_RESCUE (R187): counted in RESCUES, and a header of AGE 255 that waits at the router and has room ahead is granted. -/
def livelockRescue (die router : Nat) (age : Byte) (lost : Nat) (s : State) : State :=
  if age = 255 ∧ 256 ≤ lost then
    let x := getRouter s die router
    let s := setRouter s die router { x with rescues := satAdd x.rescues 1, rescuesOvf := x.rescuesOvf || satLost x.rescues 1 }
    match (heads s.net die router).find? (fun e => e.2.head.age == 255 && e.2.head.vn != 3 && hasRoom s.net die router e.2.la e.2) with
    | some e => { s with net := advance s die router e.2.la e.1 { e.2 with lost := 0 } s.net }
    | none => s
  else s

def execLivelockRescue (die router : Nat) (age : Byte) (lost : Nat) (s : State) : Host.Outcome State Fault Refusal :=
  inRange (decide (die < 6 ∧ router < routersOf die)) (livelockRescue die router age lost s)

/-- STALL_DETECT (R187, R287): the notice names the port that the header waits for; it hangs its context, or, on VN 3 or for the Keeper and the
safety island, is recorded and escalates to recovery of the die that sent it. -/
def stallDetect (die router : Nat) (h : PacketHeader) (s : State) : State :=
  let keeperOwn := h.context = 0 ∧ (srcUnit h.src = 0 ∨ srcUnit h.src = 1)
  let s := faultNotice { die := die, router := router, port := outPort s h die router, vn := h.vn.toNat, src := h.src, context := h.context,
                         code := 0x5003 } s
  let r : FaultRecord := { code := 0x5003, kind := 4, source := h.src, address := h.dest.zeroExtend 64 }
  if keeperOwn ∨ h.vn = 3 then startRecovery die none [] (systemFault { r with action := 3 } s)
  else faultCtx h.context.toNat r (unitResource h.src) s

def execStallDetect (die router : Nat) (h : PacketHeader) (s : State) : Host.Outcome State Fault Refusal :=
  inRange (decide (die < 6 ∧ router < routersOf die)) (stallDetect die router h s)

/-! ### Staged blocks (R60-R62) and route switches (R198) -/

/-- A block whose pending COMMIT has taken effect with these values: the hold lasts to its CMD_DONE (R61, R62), or ends here where no
mailbox is left to report to. -/
def settleBlock (id : Nat) (c : CmdRef) (inForce : Tbl W32) (gen : W16) (s : State) : State :=
  let b := getBlock s id
  if b.orphan then setBlock s id { inForce := inForce, gen := gen, refusal := b.refusal }
  else finishCmd c 0 (toLE 2 gen.toNat) (setBlock s id { b with inForce := inForce, gen := gen, applied := true })

/-- A staged block applied at its boundary (R62): the staging copy is in force and the generation rises. -/
def applyBlock (id : Nat) (s : State) : State :=
  let b := getBlock s id
  match b.pending with
  | none => s
  | some c => if b.applied then s else settleBlock id c b.staging (b.gen + 1) s

/-- ROUTE_SWITCH_DRAIN_END (R198): nothing is left in the mesh under the affected entries; they take effect, the next waiting switch begins,
and the held signals go on. -/
def routeSwitchDrainEnd (die : Nat) (s : State) : State :=
  if ¬ drained s die then s
  else if s.net.switching = some die then releaseHeld (nextSwitch (s.net.waiting.length + 1) (applyBlock (routeId s die) s))
  else if s.net.switching = some (8 + die) then releaseHeld (nextSwitch (s.net.waiting.length + 1) (applyInstall die s))
  else s

end Sys2Proof.Machine
end

