-- ==== Sys2Proof/Machine/HolmiBase.lean ====
section
/-! DEFINITION. The HM1s and their links: access, link frames and their sending (R491, R492), HM1 events (R422, R454, R479, R493), the
RTC, the legal event log (R450) and the tamper log (R446, R447). -/

namespace Sys2Proof.Machine

/-- The HM1 on link `l`. -/
def getHm1 (s : State) (l : Nat) : Hm1 := Tbl.get {} s.holmi.hm1 l
/-- The state with an HM1 written. -/
def setHm1 (s : State) (l : Nat) (x : Hm1) : State := { s with holmi := { s.holmi with hm1 := Tbl.set {} s.holmi.hm1 l x } }
/-- The metrology core on link `l`. -/
def getMet (s : State) (l : Nat) : Metrology := (getHm1 s l).met
/-- The state with a metrology core written. -/
def setMet (s : State) (l : Nat) (x : Metrology) : State := setHm1 s l { getHm1 s l with met := x }
/-- The session on link `l`. -/
def getSes (s : State) (l : Nat) : Session := (getHm1 s l).ses
/-- The state with a session written. -/
def setSes (s : State) (l : Nat) (x : Session) : State := setHm1 s l { getHm1 s l with ses := x }
/-- One end of link `l`: the HM1's when `far`, else the package's. -/
def getEnd (s : State) (far : Bool) (l : Nat) : HolmiEnd := Tbl.get {} (if far then s.holmi.far else s.holmi.pkg) l
/-- The state with an end written. -/
def setEnd (s : State) (far : Bool) (l : Nat) (x : HolmiEnd) : State :=
  { s with holmi := if far then { s.holmi with far := Tbl.set {} s.holmi.far l x } else { s.holmi with pkg := Tbl.set {} s.holmi.pkg l x } }
/-- What the Keeper knows of the HM1 on link `l`. -/
def getSeen (s : State) (l : Nat) : HolmiSeen := Tbl.get {} s.holmi.seen l
/-- The state with it written. -/
def setSeen (s : State) (l : Nat) (x : HolmiSeen) : State := { s with holmi := { s.holmi with seen := Tbl.set {} s.holmi.seen l x } }
/-- Relay registers of link `l`. -/
def getRelay (s : State) (l : Nat) : Relay := Tbl.get {} s.holmi.relays l
/-- The state with relay registers written. -/
def setRelay (s : State) (l : Nat) (x : Relay) : State := { s with holmi := { s.holmi with relays := Tbl.set {} s.holmi.relays l x } }

/-- The Holmi firmware line of R1, 1.6: major, then minor, as in GET_CAPS (assumption log 58). -/
def holmiLine : Bytes := [1, 6]

/-! ### Frames (R491, R492) -/

/-- The bytes of a frame between its commas. -/
def holmiFrame (ch : Nat) (ackOnly : Bool) (seq ack : Byte) (p : Bytes) : Bytes :=
  let b := [BitVec.ofNat 8 ch, if ackOnly then 1 else 0, seq, ack] ++ toLE 2 p.length ++ p
  b ++ toLE 4 (crc32c b).toNat

/-- What waits is sent, oldest first, while fewer than 8 frames are unacknowledged. -/
def pumpEnd : Nat → HolmiEnd → HolmiEnd
  | 0, x => x
  | n + 1, x =>
    match x.out with
    | [] => x
    | (c, p) :: l =>
      if x.up ∧ x.unacked.length < 8 then
        let f := holmiFrame c false x.txSeq (x.rxSeq - 1) p
        pumpEnd n { x with out := l, txSeq := x.txSeq + 1, unacked := x.unacked ++ [f], wire := x.wire ++ [f] }
      else x

/-- An end that sends what it can. -/
def pump (far : Bool) (l : Nat) (s : State) : State :=
  let x := getEnd s far l
  setEnd s far l (pumpEnd x.out.length x)

/-- A payload given to an end to send on a channel. -/
def holmiSend (far : Bool) (l ch : Nat) (p : Bytes) (s : State) : State :=
  let x := getEnd s far l
  pump far l (setEnd s far l { x with out := x.out ++ [(ch, p)] })

/-- An event queue with its oldest event other than WAKE dropped. -/
def dropEvent : List (Nat × Bytes) → List (Nat × Bytes)
  | [] => []
  | e :: l => if byteAt e.2 0 = 0xA7 then e :: dropEvent l else l

/-- An HM1 event (R493): sent on channel 2, or queued while the link is down, at most 64. -/
def hm1Event (l : Nat) (p : Bytes) (s : State) : State :=
  let x := getEnd s true l
  if x.up ∨ x.out.length < 64 then holmiSend true l 2 p s
  else setEnd s true l { x with out := dropEvent x.out ++ [(2, p)], lost := x.lost + 1 }

/-! ### The RTC and the legal event log (R450) -/

/-- RTC seconds. -/
def rtcSec (h : Hm1) : Nat := h.rtc / 32768000
/-- RTC fraction, 15 bits. -/
def rtcFraction (h : Hm1) : Nat := h.rtc / 1000 % 32768

/-- Register `i` of R437 in milliwatt-hours. -/
def billReg (m : Metrology) (i : Nat) : BillReg := Tbl.get {} m.energy.regs i
/-- Wh of a register. -/
def wattHours (m : Metrology) (i : Nat) : Nat := (billReg m i).mwh / 1000

/-- The 64 bytes of a legal entry. -/
def legalBytes (h : Hm1) (typ flags : Nat) (data : Bytes) : Bytes :=
  [BitVec.ofNat 8 typ, BitVec.ofNat 8 flags, 0, 0] ++ toLE 4 h.met.legalSeq.toNat ++ toLE 6 (rtcSec h) ++ toLE 2 (rtcFraction h)
    ++ toLE 8 (wattHours h.met 0) ++ toLE 8 (wattHours h.met 2) ++ slice data 0 32

/-- Free places among the 240 refusable ones. -/
def legalRoom (m : Metrology) : Nat := 240 - m.refusable

/-- An entry written to the legal event log: a refusable type needs room (what needs room has been checked before), the types of the
reserve go to the ordinary part when it is full, the ordinary part is a ring of 768. -/
def legal (l typ : Nat) (data : Bytes) (s : State) : State :=
  let h := getHm1 s l
  let m := h.met
  let ring := fun (f : Nat) => { m with ordinary := (m.ordinary ++ [legalBytes h typ f data]).drop (m.ordinary.length + 1 - 768), legalSeq := m.legalSeq + 1 }
  if 1 ≤ typ ∧ typ ≤ 4 then
    if legalRoom m = 0 then s
    else
      let s := setMet s l { m with prot := m.prot ++ [legalBytes h typ 1 data], refusable := m.refusable + 1, legalSeq := m.legalSeq + 1 }
      let free := legalRoom (getMet s l)
      if free = 16 ∨ free = 8 ∨ free = 0 then hm1Event l [0xA8, BitVec.ofNat 8 free] s else s
  else if typ ≤ 7 then
    if m.reserve < 16 then setMet s l { m with prot := m.prot ++ [legalBytes h typ 1 data], reserve := m.reserve + 1, legalSeq := m.legalSeq + 1 }
    else setMet s l (ring 2)
  else setMet s l (ring 0)

/-- MET_FAULT (R422). -/
def metFaultEvent (l reason : Nat) (s : State) : State :=
  hm1Event l ([0x93, BitVec.ofNat 8 reason] ++ toLE 6 (rtcSec (getHm1 s l))) s

/-! ### Tamper (R446, R447) -/

/-- An entry appended to a ring of `n`, and whether that overwrites one never read. -/
def keepRing (n : Nat) (r : List Kept) (x : Kept) : List Kept × Bool :=
  match r with
  | o :: t => if n ≤ r.length then (t ++ [x], !o.read) else (r ++ [x], false)
  | [] => ([x], false)

/-- Whether a session runs. -/
def inSession (x : Session) : Bool := x.state != .idle

/-- A tamper kind starts or ends: the tamper log, TAMPER, and at a start the legal entry and the flag of the session. -/
def tamper (l kind phase : Nat) (isEnd : Bool) (s : State) : State :=
  let h := getHm1 s l
  let m := h.met
  let e := [BitVec.ofNat 8 kind, BitVec.ofNat 8 (b2n isEnd + 2 * phase)] ++ toLE 6 (rtcSec h) ++ toLE 4 m.last.seq.toNat ++ toLE 4 m.tamperSeq.toNat
  let (ring, lost) := keepRing 512 m.tamperLog { seq := m.tamperSeq, bytes := e }
  let s := setMet s l { m with tamperLog := ring, tamperSeq := m.tamperSeq + 1, tamperLost := satAdd m.tamperLost (b2n lost),
                               tamperOvf := m.tamperOvf || (lost && satLost m.tamperLost 1) }
  let s := hm1Event l ([0xA4] ++ e) s
  if isEnd then s
  else
    let s := legal l 0x14 e s
    let x := getSes s l
    setSes s l { x with kinds := if inSession x then setBit x.kinds kind true else x.kinds }

/-- A kind that starts and ends at once (7 and 8, assumption log 49). -/
def tamperOnce (l kind : Nat) (s : State) : State := tamper l kind 0 true (tamper l kind 0 false s)

/-- FIREWALL_HIT (R418): the write has no effect, is counted, and raises tamper kind 7. -/
def firewallHit (l : Nat) (s : State) : State :=
  let m := getMet s l
  let s := setMet s l { m with hits := satAdd m.hits 1, hitsOvf := m.hitsOvf || satLost m.hits 1 }
  tamperOnce l 7 (metFaultEvent l 1 s)

def execFirewallHit (l : Nat) (s : State) : Host.Outcome State Fault Refusal :=
  inRange (decide (l < 4)) (when (getMet s l).main (firewallHit l) s)

/-- COVER_OPEN and COVER_CLOSE (R446): kind 6, in any state. -/
def coverMove (l : Nat) (isOpen : Bool) (s : State) : State :=
  let m := getMet s l
  if m.cover = isOpen then s else tamper l 6 0 (!isOpen) (setMet s l { m with cover := isOpen })

def execCoverOpen (l : Nat) (s : State) : Host.Outcome State Fault Refusal := inRange (decide (l < 4)) (coverMove l true s)
def execCoverClose (l : Nat) (s : State) : Host.Outcome State Fault Refusal := inRange (decide (l < 4)) (coverMove l false s)

/-! ### Messages (R419, R453, R478, R493) -/

/-- Whether a message type, with its command byte for SESSION_CMD, is in the tables. -/
def knownMessage (t sub : Nat) : Bool :=
  (0x10 ≤ t && t ≤ 0x1D) || t == 0x20 || t == 0x21 || (t == 0x22 && 1 ≤ sub && sub ≤ 4) || t == 0x23 || t == 0x24 || (0x30 ≤ t && t ≤ 0x34)

/-- The HM1 answers the message it has accepted, when that is type `op` (and command `sub` of SESSION_CMD). A message of another known
type is left for its own row; one of no known type is answered 0x1006 (assumption log 50). -/
def hm1Take (op : Nat) (sub : Option Nat) (l : Nat) (f : Bytes → State → State × W16 × Bytes) (s : State) : State :=
  let h := getHm1 s l
  match h.inbox with
  | none => s
  | some b =>
    let t := leNat b 0 1
    let mine : Bool := t == op && (match sub with
      | some k => leNat b 1 1 == k
      | none => true)
    if ¬ h.met.main ∨ (¬ mine ∧ knownMessage t (leNat b 1 1)) then s
    else
      let s := setHm1 s l { h with inbox := none }
      let (s, c, p) := if mine then f b s else (s, 0x1006, [])
      if (getEnd s true l).up then holmiSend true l 1 (toLE 2 c.toNat ++ p) s else s

/-- One management tick of the RTCs and of the ages of route records (assumption log 1). -/
def hm1Tick (s : State) : State :=
  (upFrom 0 4).foldl (fun s l =>
    let h := getHm1 s l
    let older := fun (_ : Nat) (n : PlcNode) => { n with routes := Tbl.mapAll none (fun _ r => r.map (fun r => { r with age := r.age + 1 })) n.routes }
    setHm1 s l { h with rtc := h.rtc + 32768, plc := { h.plc with nodes := Tbl.mapAll {} older h.plc.nodes } }) s

end Sys2Proof.Machine
end

