-- ==== Sys2Proof/Machine/HolmiMath.lean ====
section
/-! DEFINITION. What an HM1 computes from the codes of one interval: calibrated samples (R403), exact sums, and the quantities of R407. -/

namespace Sys2Proof.Machine

/-! ### Samples (R402-R404) -/

/-- Quotient rounded to nearest, ties away from zero. -/
def roundDiv (n : Int) (d : Nat) : Int :=
  let q := (2 * n.natAbs + d) / (2 * d)
  if n < 0 then -(q : Int) else q

/-- A calibration word in force: production values and resets where none was committed (R414). -/
def calWord (m : Metrology) (l i : Nat) : W32 := Tbl.get (blockDefault (16 * 65536 + 256 * (8 + l)) i) m.cal i

/-- A calibrated sample of channel `c`, before the delay (R403). -/
def calibrate (m : Metrology) (l c : Nat) (code : Int) : Int :=
  let gain := (calWord m l (4 * c)).toNat
  let offset := ((calWord m l (4 * c + 1)).truncate 24 : BitVec 24).toInt
  let x := roundDiv ((code - offset) * gain) (2 ^ 24)
  max (-(2 ^ 31 - 1)) (min (2 ^ 31 - 1) x)

/-- The samples of channel `c` (R403): the fixed delay filter is the part's own. -/
def samplesOf (m : Metrology) (l c : Nat) (codes : List (BitVec 24)) : List Int :=
  Sys2Proof.Config.delayFilter ((calWord m l (4 * c + 2)).truncate 16 : W16).toInt (codes.map (fun x => calibrate m l c x.toInt))

/-- Whether a channel is overrange (R404). -/
def overrange (codes : List (BitVec 24)) : Bool := codes.any (fun x => decide (2 ^ 23 - 1 ≤ x.toInt.natAbs))

/-! ### Sums and quantities (R407) -/

/-- Σ x·y. -/
def dot (a b : List Int) : Int := ((a.zip b).map (fun p => p.1 * p.2)).foldl (· + ·) 0
/-- Σ x. -/
def total (a : List Int) : Int := a.foldl (· + ·) 0
/-- Element-wise sum. -/
def addLists (a b : List Int) : List Int := (a.zip b).map (fun p => p.1 + p.2)

/-- The square root of a fraction over `k`, rounded to nearest. -/
def rootDiv (n d k : Nat) : Nat := if d = 0 then 0 else (isqrt (4 * n / (d * k * k)) + 1) / 2

/-- RMS of `n` samples with Σx² = `sq`, in units of 1/`k` of the sample's. -/
def rms (sq : Int) (n k : Nat) : Nat := rootDiv sq.natAbs n k

/-- Fixed-point numbers with 160 fraction bits, for the quantities that need an irrational (assumption log 48). -/
def fixOne : Int := 2 ^ 160
/-- Fixed-point product. -/
def fixMul (a b : Int) : Int := a * b / fixOne

/-- Power series Σ term_k with term_(k+1) = −term_k · x² / ((j)(j+1)), `n` terms. -/
def trigSeries (xx : Int) : Nat → Nat → Int → Int
  | 0, _, _ => 0
  | n + 1, j, t => t + trigSeries xx n (j + 2) (-(fixMul t xx) / ((j * (j + 1) : Nat) : Int))

/-- arctan(1/k) by its series, `n` terms, in fixed point: the term at odd j is p / j with p falling by k². -/
def arctanInv (k : Nat) : Nat → Nat → Int → Int
  | 0, _, _ => 0
  | n + 1, j, p => p / (j : Int) - arctanInv k n (j + 2) (p / ((k * k : Nat) : Int))

/-- π, by Machin's formula. -/
def fixPi : Int := 4 * (4 * arctanInv 5 80 1 (fixOne / 5) - arctanInv 239 25 1 (fixOne / 239))

/-- Cosine and sine of a number of turns n/d, reduced to a quarter turn. -/
def turn (n d : Nat) : Int × Int :=
  let d := max d 1
  let q := 4 * (n % d) / d
  let x := 2 * fixPi * ((4 * (n % d) - q * d : Nat) : Int) / ((4 * d : Nat) : Int)
  let xx := fixMul x x
  let c := trigSeries xx 60 1 fixOne
  let s := trigSeries xx 60 2 x
  match q with
  | 0 => (c, s)
  | 1 => (-s, c)
  | 2 => (-c, -s)
  | _ => (s, -c)

/-- Σ x_k e^(−jθ_k), θ_k = 2π · cycles · 64 k / duration: real and imaginary parts, in fixed point (R407, R408). -/
def phasor (cycles duration : Nat) : List Int → Nat → Int × Int
  | [], _ => (0, 0)
  | x :: l, k =>
    let (c, s) := turn (cycles * 64 * k) duration
    let (a, b) := phasor cycles duration l (k + 1)
    (a + x * c, b - x * s)

/-- arctan of a fraction in [0, 1], halved three times first: series in the reduced argument. -/
def atanSeries (z zz : Int) : Nat → Nat → Int
  | 0, _ => 0
  | n + 1, j => z / (j : Int) - atanSeries (fixMul z zz) zz n (j + 2)

/-- tan(θ/2) from tan θ, for θ in a quarter turn. -/
def halfTan (t : Int) : Int := t * fixOne / (fixOne + ((isqrt (fixOne * fixOne + t * t).natAbs : Nat) : Int))

/-- arg (x + jy) in fixed point, in (−π, π]. -/
def fixArg (x y : Int) : Int :=
  let ax : Int := x.natAbs
  let ay : Int := y.natAbs
  let small := fun (n d : Int) =>
    let t := if d = 0 then 0 else n * fixOne / d
    let z := halfTan (halfTan (halfTan t))
    8 * atanSeries z (fixMul z z) 60 1
  let a := if ay ≤ ax then small ay ax else fixPi / 2 - small ax ay
  let a := if x < 0 then fixPi - a else a
  if y < 0 then -a else a

/-- An angle wrapped into (−π, π]. -/
def wrapAngle (a : Int) : Int := if fixPi < a then a - 2 * fixPi else if a ≤ -fixPi then a + 2 * fixPi else a

/-- An angle in 0.01°, in (−18,000, 18,000]. -/
def centiDegrees (a : Int) : Int :=
  let v := roundDiv (a * 18000) fixPi.natAbs
  if v = -18000 then 18000 else v

/-- The exact sums of one phase. -/
structure PhaseSums where
  vv : Int
  ii : Int
  vi : Int
  n  : Nat
  /-- V₁ and I₁ without their factor √2 / N, as real and imaginary parts. -/
  v1 : Int × Int
  i1 : Int × Int
deriving DecidableEq, Repr

/-- Sums of a phase's samples. -/
def phaseSums (cycles duration : Nat) (v i : List Int) : PhaseSums :=
  ⟨dot v v, dot i i, dot v i, v.length, phasor cycles duration v 0, phasor cycles duration i 0⟩

/-- Apparent power in fixed-point units of 10⁻⁸ W: sqrt(Σv² Σi²) / N. -/
def apparent (p : PhaseSums) : Nat := if p.n = 0 then 0 else isqrt (p.vv.natAbs * p.ii.natAbs * 2 ^ 320) / p.n

/-- Reactive power in fixed-point units of 10⁻⁸ W: 2/N² · Im(V₁ conj I₁), positive when the current lags. -/
def reactive (p : PhaseSums) : Int :=
  if p.n = 0 then 0 else 2 * fixMul p.v1.2 p.i1.1 / ((p.n * p.n : Nat) : Int) - 2 * fixMul p.v1.1 p.i1.2 / ((p.n * p.n : Nat) : Int)

/-- PF: P / S in 1/10,000; 0x8000 where S is below 0.1 % of UDIN × 1 A. `s` in fixed-point 10⁻⁸ W, `vi` = Σvi. -/
def powerFactor (udin : W32) (vi : Int) (n s : Nat) : W16 :=
  if s < udin.toNat * 1000 * 2 ^ 160 ∨ s = 0 ∨ n = 0 then 0x8000
  else BitVec.ofInt 16 (roundDiv (vi * 10000 * fixOne) (s * n))

/-- The 26 bytes of a phase (R407, group 0 of MET_READ); `ref` is phase 1's V₁. -/
def phaseBytes (udin : W32) (ref : Int × Int) (p : PhaseSums) : Bytes :=
  let s := apparent p
  toLE 4 (rms p.vv p.n 100) ++ toLE 4 (rms p.ii p.n 10) ++ intLE 4 (if p.n = 0 then 0 else roundDiv p.vi (p.n * 10 ^ 8))
    ++ intLE 4 (roundDiv (reactive p) (10 ^ 8 * 2 ^ 160)) ++ toLE 4 (roundDiv s (10 ^ 8 * 2 ^ 160)).toNat
    ++ toLE 2 (powerFactor udin p.vi p.n s).toNat
    ++ intLE 2 (centiDegrees (wrapAngle (fixArg p.v1.1 p.v1.2 - fixArg ref.1 ref.2)))
    ++ intLE 2 (centiDegrees (wrapAngle (fixArg p.i1.1 p.i1.2 - fixArg p.v1.1 p.v1.2)))

/-- The 26 bytes of the totals (group 1): P, Q, S, PF, frequency, Inrms, Residual. -/
def totalBytes (udin freq : W32) (ps : List PhaseSums) (neutral residual : List Int) : Bytes :=
  let n := neutral.length
  let vi := total (ps.map (·.vi))
  let s : Nat := (ps.map apparent).foldl (· + ·) 0
  intLE 4 (if n = 0 then 0 else roundDiv vi (n * 10 ^ 8)) ++ intLE 4 (roundDiv (total (ps.map reactive)) (10 ^ 8 * 2 ^ 160))
    ++ toLE 4 (roundDiv s (10 ^ 8 * 2 ^ 160)).toNat ++ toLE 2 (powerFactor udin vi n s).toNat ++ toLE 4 freq.toNat
    ++ toLE 4 (rms (dot neutral neutral) n 10) ++ toLE 4 (rms (dot residual residual) n 10)

/-- The 20 bytes of the DC values (group 2): U_dc, I_dc, P_dc, I_aux, DIFF_dc. -/
def dcBytes (v i x : List Int) : Bytes :=
  let n := v.length
  let mean := fun (a : Int) (k : Nat) => if n = 0 then 0 else roundDiv a (n * k)
  intLE 4 (mean (total v) 100) ++ intLE 4 (mean (total i) 10) ++ intLE 4 (mean (dot v i) (10 ^ 8)) ++ intLE 4 (mean (total x) 10)
    ++ intLE 4 (mean ((total i - total x).natAbs : Int) 10)

end Sys2Proof.Machine
end

