-- ==== Sys2Proof/Machine/HolmiBill.lean ====
section
/-! DEFINITION. HM1 billing: registers and rollover (R437, R438), tariffs (R439-R442), credit (R443-R445), signed records (R448, R449),
and the messages that read and write them (R453). -/

namespace Sys2Proof.Machine

/-! ### The calendar (R441) -/

/-- Days since 2000-01-01 of a date. -/
def daysOf (y m d : Nat) : Int :=
  let y := if m ≤ 2 then y - 1 else y
  let yoe := y % 400
  let doy := (153 * (if 2 < m then m - 3 else m + 9) + 2) / 5 + d - 1
  let doe := yoe * 365 + yoe / 4 - yoe / 100 + doy
  ((y / 400 * 146097 + doe : Nat) : Int) - 730425

/-- Year, month and day of a day since 2000-01-01. -/
def dateOf (days : Int) : Nat × Nat × Nat :=
  let z := (days + 730425).toNat
  let era := z / 146097
  let doe := z % 146097
  let yoe := (doe - doe / 1460 + doe / 36524 - doe / 146096) / 365
  let doy := doe - (365 * yoe + yoe / 4 - yoe / 100)
  let mp := (5 * doy + 2) / 153
  let m := if mp < 10 then mp + 3 else mp - 9
  (yoe + era * 400 + (if m ≤ 2 then 1 else 0), m, doy - (153 * mp + 2) / 5 + 1)

/-- Days in a month. -/
def monthDays (y m : Nat) : Nat :=
  if m = 2 then (if y % 4 = 0 ∧ (y % 100 ≠ 0 ∨ y % 400 = 0) then 29 else 28) else if m = 4 ∨ m = 6 ∨ m = 9 ∨ m = 11 then 30 else 31

/-! ### The tariff block (R439-R441) -/

/-- Word `off` of a tariff block: PRICEt at t − 1, LOW 8, LIMIT 9, SEASONe_A and _B at 16 + 2e, POINTp_s at 64 + 32p + s. -/
abbrev TarBlock := Nat → W32

/-- A season entry: kind, day, month, year, profiles and OFFSET in minutes. -/
structure Season where
  kind   : Nat
  day    : Nat
  month  : Nat
  year   : Nat
  wd     : Nat
  sat    : Nat
  sun    : Nat
  offset : Int
deriving DecidableEq, Repr

/-- Season entry `e` of a block. -/
def seasonOf (t : TarBlock) (e : Nat) : Season :=
  let a := t (16 + 2 * e)
  let b := t (17 + 2 * e)
  let o := field b 19 9
  ⟨field a 1 0, field a 6 2, field a 10 7, field a 17 11, field b 2 0, field b 5 3, field b 8 6, if o < 1024 then (o : Int) else (o : Int) - 2048⟩

/-- The season entries of a block (kind 1) in the order of their dates. -/
def seasons (t : TarBlock) : List Season :=
  let l := ((upFrom 0 16).map (seasonOf t)).filter (fun x => x.kind == 1)
  l.foldl (fun acc x =>
    acc.filter (fun y => decide (y.month * 32 + y.day < x.month * 32 + x.day)) ++ [x]
      ++ acc.filter (fun y => decide (x.month * 32 + x.day ≤ y.month * 32 + y.day))) []

/-- Instants (UTC seconds) at which the seasons begin, around a year: each at 00:00 local time by the OFFSET of the one it replaces. -/
def seasonStarts (t : TarBlock) (year : Nat) : List (Int × Season) :=
  let l := seasons t
  let before := match l.reverse with
    | x :: _ => x :: l
    | [] => l
  ((before.zip l).map (fun p => (upFrom (year - 1) 3).map (fun y => (daysOf y p.2.month p.2.day * 86400 - p.1.offset * 60, p.2)))).flatten

/-- The season in force at a UTC second. -/
def seasonAt (t : TarBlock) (utc : Nat) : Option Season :=
  let year := (dateOf ((utc / 86400 : Nat) : Int)).1
  ((seasonStarts t year).foldl (fun (m : Option (Int × Season)) x =>
    if (utc : Int) < x.1 then m
    else match m with
      | some y => if y.1 < x.1 then some x else m
      | none => some x) none).map (·.2)

/-- The valid points of a profile, by index, as (MINUTE, TARIFF). -/
def pointsOf (t : TarBlock) (p : Nat) : List (Nat × Nat) :=
  (upFrom 0 32).filterMap (fun i => let w := t (64 + 32 * p + i)
    if bitOf w 14 then some (field w 10 0, field w 13 11) else none)

/-- The tariff in force, 0-7, at a UTC second (R441); a block without a season gives 0 (assumption log 51). -/
def tariffAt (t : TarBlock) (utc : Nat) : Nat :=
  match seasonAt t utc with
  | none => 0
  | some x =>
    let local_ := (utc : Int) + x.offset * 60
    let day := local_ / 86400
    let (y, m, d) := dateOf day
    let special := ((upFrom 0 16).map (seasonOf t)).find? (fun e =>
      e.kind == 2 && e.month == m && e.day == d && (e.year == 0 || 2000 + e.year == y))
    let wd := ((day + 6) % 7).toNat
    let prof := match special with
      | some e => e.wd
      | none => if wd = 6 then x.sat else if wd = 0 then x.sun else x.wd
    let minute := (local_ % 86400 / 60).toNat
    ((pointsOf t prof).foldl (fun (b : Nat × Nat) q => if q.1 ≤ minute ∧ b.1 ≤ q.1 then q else b) (0, 0)).2

/-- Points strictly ascending from one at MINUTE 0. -/
def ascending : List (Nat × Nat) → Bool
  | a :: b :: l => a.1 < b.1 && ascending (b :: l)
  | _ => true

/-- R440's checks of a staged tariff block, with the ranges of R439. -/
def tariffOk (t : TarBlock) : Bool :=
  let es := (upFrom 0 16).map (seasonOf t)
  let live := es.filter (fun e => e.kind ≠ 0)
  let dates := (live.filter (fun e => e.kind == 1)).map (fun e => e.month * 32 + e.day)
  let profiles := (live.map (fun e => if e.kind = 1 then [e.wd, e.sat, e.sun] else [e.wd])).flatten
  (upFrom 0 8).all (fun i => decide ((t i).toNat ≤ 4000000))
    && !dates.isEmpty && dates.all (fun d => (dates.filter (· == d)).length == 1)
    && es.all (fun e => e.kind ≤ 2)
    && live.all (fun e => decide (1 ≤ e.month ∧ e.month ≤ 12 ∧ 1 ≤ e.day ∧ e.day ≤ monthDays (if e.year = 0 then 2000 else 2000 + e.year) e.month))
    && live.all (fun e => if e.kind = 1 then decide (e.year = 0 ∧ -720 ≤ e.offset ∧ e.offset ≤ 840 ∧ e.offset % 15 = 0) else decide (e.offset = 0))
    && profiles.all (fun p => let l := pointsOf t p
        ascending l && (l.head?.map (·.1)) == some 0 && l.all (fun q => decide (q.1 < 1440)))

/-- The tariff block in force at an HM1. -/
def tarInForce (m : Metrology) : TarBlock := fun i => Tbl.get 0 m.tar i

/-! ### Registers, cost and credit (R437, R438, R443, R444) -/

/-- `n` mWh added to register `i` (R438). R59 has the same registers return to 0 at 9,999,999.999 kWh; the model takes the modulus of R438, which is
the rule of these registers (DESIGN CHOICE, assumption log 79). -/
def addMwh (l i n : Nat) (s : State) : State :=
  let m := getMet s l
  let r := billReg m i
  let v := r.mwh + n
  if n = 0 then s
  else
    let excess := v / 10 ^ 10
    let r' : BillReg := { mwh := v % 10 ^ 10, rolls := satAdd r.rolls excess, ovf := r.ovf || (decide (0 < excess) && satLost r.rolls excess) }
    let s := setMet s l { m with energy := { m.energy with regs := Tbl.set {} m.energy.regs i r' } }
    if excess = 0 then s else legal l 0x10 ([BitVec.ofNat 8 i] ++ toLE 2 r'.rolls.toNat) s

/-- Accumulators of R409: phases 0-2, total 3, DC 4. Whole mWh of one accumulator and direction handed to the billing registers under a
tariff (R437, R441, R443). -/
def handOver (l tariff acc : Nat) (received : Bool) (n : Nat) (s : State) : State :=
  if acc < 3 then addMwh l ((if received then 15 else 12) + acc) n s
  else
    let dc := acc == 4
    let x := getSes s l
    let s := addMwh l (2 * b2n dc + b2n received) n s
    let s := if inSession x ∧ (x.connector ≠ 0) = dc then addMwh l (18 + b2n received) n s else s
    if received then s
    else
      let s := addMwh l (4 + tariff) n s
      let m := getMet s l
      let cost := n * (tarInForce m tariff).toNat
      let e := m.energy
      setMet s l { m with energy := { e with
        creditCost := e.creditCost + cost,
        sessionCost := if inSession x then e.sessionCost + cost else e.sessionCost,
        perTariff := if inSession x then Tbl.set 0 e.perTariff tariff (Tbl.get 0 e.perTariff tariff + n) else e.perTariff } }

/-- Credit states (R444): 0 NORMAL, 1 LOW, 2 EMERGENCY, 3 EXHAUSTED. -/
def creditStateOf (m : Metrology) : Nat :=
  let c := m.energy.credit
  let low := (tarInForce m 8).toNat
  let limit := (tarInForce m 9).toNat
  if c ≤ -(limit : Int) then 3 else if c ≤ 0 then 2 else if c ≤ low then 1 else 0

/-- Credit as 48 bits. -/
def creditBytes (m : Metrology) : Bytes := intLE 6 m.energy.credit

/-- The credit state followed, with CREDIT_STATE at a change. -/
def creditMove (l : Nat) (s : State) : State :=
  let m := getMet s l
  let c := creditStateOf m
  if c = m.creditState then s else hm1Event l ([0xA3, BitVec.ofNat 8 c] ++ creditBytes m) (setMet s l { m with creditState := c })

/-- Whole milli-units deducted while the session is PREPAID (R443). -/
def deduct (l : Nat) (s : State) : State :=
  let m := getMet s l
  let x := getSes s l
  if inSession x ∧ x.method = 3 then
    let e := m.energy
    setMet s l { m with energy := { e with credit := e.credit - (e.creditCost / 1000000 : Nat), creditCost := e.creditCost % 1000000 } }
  else s

/-! ### Records (R448, R449) -/

/-- The register that a session's role and connector name: 0 or 1 for AC, 2 or 3 for DC. -/
def sessionReg (x : Session) : Nat := (if x.connector = 0 then 0 else 2) + (if x.outlet then 0 else 1)

/-- The 192 bytes that a record's signature covers. -/
def recordBody (l : Nat) (h : Hm1) (reading : Bool) (nonce : Bytes) : Bytes :=
  let m := h.met
  let x := h.ses
  let now := rtcSec h
  let reg := wattHours m (sessionReg x)
  let flags := b2n (x.kinds ≠ 0) + 2 * b2n (x.faulted || m.metFault) + 4 * b2n x.linkLoss + 8 * b2n x.restored + 16 * b2n x.outOfClass
  toLE 4 0x4C424D48 ++ toLE 2 1 ++ [if reading then 2 else 1, BitVec.ofNat 8 flags] ++ toLE 4 m.recordSeq.toNat ++ toLE 4 x.ident.toNat
    ++ slice (Config.productionBytes 3 l) 0 16 ++ slice m.legalId 0 8
    ++ [if x.outlet then 1 else 0, x.method] ++ toLE 2 m.tarGen.toNat ++ slice x.digest 0 16
    ++ toLE 6 (if reading then now else x.start) ++ toLE 6 now
    ++ toLE 8 (if reading then reg else x.regStart / 1000) ++ toLE 8 reg
    ++ toLE 8 (wattHours m 18) ++ toLE 8 (wattHours m 19)
    ++ ((upFrom 0 8).map (fun t => toLE 4 (Tbl.get 0 m.energy.perTariff t / 1000))).flatten
    ++ toLE 6 (m.energy.sessionCost / 1000000) ++ creditBytes m ++ toLE 2 x.kinds.toNat ++ [x.cause, 0] ++ slice nonce 0 16 ++ zeros 24

/-- A record written and signed, with RECORD. -/
def writeRecord (l : Nat) (reading : Bool) (nonce : Bytes) (s : State) : State :=
  let h := getHm1 s l
  let m := h.met
  let b := recordBody l h reading nonce
  let b := b ++ slice (Config.ecdsaSign (1 + l) m.signatures b) 0 64
  let (ring, _) := keepRing 256 m.records { seq := m.recordSeq, bytes := b }
  let s := setMet s l { m with records := ring, recordSeq := m.recordSeq + 1, signatures := m.signatures + 1 }
  hm1Event l ([0xA6] ++ toLE 4 m.recordSeq.toNat) s

/-! ### Messages -/

/-- BILL_READ. -/
def billRead (l : Nat) (b : Bytes) (s : State) : State × W16 × Bytes :=
  let i := leNat b 1 1
  let r := billReg (getMet s l) i
  if 19 < i then (s, 0x1006, []) else (s, 0, toLE 8 (r.mwh / 1000) ++ toLE 2 r.rolls.toNat ++ [if r.ovf then 1 else 0])

def execBillRead (l : Nat) (s : State) : Host.Outcome State Fault Refusal := inRange (decide (l < 4)) (hm1Take 0x14 none l (billRead l) s)

/-- RECORD_READ: a 48-byte piece; the last marks the record as read. -/
def recordRead (l : Nat) (b : Bytes) (s : State) : State × W16 × Bytes :=
  let m := getMet s l
  let q := le32 b 2
  let p := leNat b 6 1
  match m.records.find? (fun r => r.seq == q) with
  | none => (s, 0x1006, [])
  | some r =>
    if 5 < p then (s, 0x1006, [])
    else
      let s := if p = 5 then setMet s l { m with records := m.records.map (fun k => if k.seq = q then { k with read := true } else k) } else s
      (s, 0, slice r.bytes (48 * p) 48)

def execRecordRead (l : Nat) (s : State) : Host.Outcome State Fault Refusal := inRange (decide (l < 4)) (hm1Take 0x15 none l (recordRead l) s)

/-- METER_SIGN. -/
def meterSign (l : Nat) (b : Bytes) (s : State) : State × W16 × Bytes :=
  let q := (getMet s l).recordSeq
  (writeRecord l true (slice b 2 16) s, 0, toLE 4 q.toNat)

def execMeterSign (l : Nat) (s : State) : Host.Outcome State Fault Refusal := inRange (decide (l < 4)) (hm1Take 0x16 none l (meterSign l) s)

/-- CREDIT_ADD (R445). -/
def creditAdd (l : Nat) (b : Bytes) (s : State) : State × W16 × Bytes :=
  let m := getMet s l
  let t := slice b 2 32
  let amount := leNat t 0 6
  let ident := leNat t 6 8
  let answer := fun (s : State) (r : Byte) => (s, (0 : W16), [r] ++ creditBytes (getMet s l))
  if leNat t 14 2 ≠ 0 then (s, 0x1006, [])
  else if Config.creditMac l (t.take 16) ≠ t.drop 16 ∨ amount = 0 ∨ 2 ^ 40 < amount then answer s 2
  else if m.tokens.contains ident then answer s 3
  else
    let c := m.energy.credit + amount
    let s := setMet s l { m with energy := { m.energy with credit := if c < 2 ^ 47 then c else 2 ^ 47 - 1 }, tokens := (ident :: m.tokens).take 64 }
    answer (creditMove l (legal l 0x12 (t.take 14) s)) 0

def execCreditAdd (l : Nat) (s : State) : Host.Outcome State Fault Refusal := inRange (decide (l < 4)) (hm1Take 0x17 none l (creditAdd l) s)

/-- CREDIT_READ. -/
def creditRead (l : Nat) (_ : Bytes) (s : State) : State × W16 × Bytes :=
  (s, 0, creditBytes (getMet s l) ++ [BitVec.ofNat 8 (creditStateOf (getMet s l))])

def execCreditRead (l : Nat) (s : State) : Host.Outcome State Fault Refusal := inRange (decide (l < 4)) (hm1Take 0x18 none l (creditRead l) s)

/-- LOG_READ: half of a legal entry by its sequence; 0x1006 when it is not held. -/
def logRead (l : Nat) (b : Bytes) (s : State) : State × W16 × Bytes :=
  let m := getMet s l
  let half := leNat b 6 1
  match (m.prot ++ m.ordinary).find? (fun e => le32 e 4 == le32 b 2) with
  | some e => if 1 < half then (s, 0x1006, []) else (s, 0, slice e (32 * half) 32)
  | none => (s, 0x1006, [])

def execLogRead (l : Nat) (s : State) : Host.Outcome State Fault Refusal := inRange (decide (l < 4)) (hm1Take 0x19 none l (logRead l) s)

/-- TAMPER_READ (R447): the entry and the overflow count, whose flag it clears. -/
def tamperRead (l : Nat) (b : Bytes) (s : State) : State × W16 × Bytes :=
  let m := getMet s l
  match m.tamperLog.find? (fun e => e.seq == le32 b 2) with
  | some e =>
    (setMet s l { m with tamperLog := m.tamperLog.map (fun k => if k.seq = e.seq then { k with read := true } else k), tamperOvf := false },
     0, slice e.bytes 0 16 ++ toLE 2 m.tamperLost.toNat ++ [if m.tamperOvf then 1 else 0])
  | none => (s, 0x1006, [])

def execTamperRead (l : Nat) (s : State) : Host.Outcome State Fault Refusal := inRange (decide (l < 4)) (hm1Take 0x1A none l (tamperRead l) s)

/-- LOG_ARCHIVE (R451): only while OPEN and against a matching digest; then the protected part holds ARCHIVED alone, with the digest as
its DATA; the number of entries and the signature are kept beside it (assumption log 52). -/
def logArchive (l : Nat) (b : Bytes) (s : State) : State × W16 × Bytes :=
  let m := getMet s l
  let d := Config.sha256 m.prot.flatten
  if m.sealed_ then (s, 0x4005, [])
  else if slice b 2 32 ≠ d then (s, 0, [5])
  else
    let s := setMet s l { m with prot := [], refusable := 0, reserve := 0, signatures := m.signatures + 1,
                                 archived := some (m.prot.length, slice (Config.ecdsaSign (1 + l) m.signatures d) 0 64) }
    (legal l 0x07 d s, 0, [0])

def execLogArchive (l : Nat) (s : State) : Host.Outcome State Fault Refusal := inRange (decide (l < 4)) (hm1Take 0x1B none l (logArchive l) s)

/-- TIME_SET (R452). -/
def timeSet (l : Nat) (b : Bytes) (s : State) : State × W16 × Bytes :=
  let h := getHm1 s l
  let m := h.met
  let new := leNat b 2 6 * 32768000 + leNat b 8 2 * 1000
  let far := 60 * 32768000 < (if new < h.rtc then h.rtc - new else new - h.rtc)
  let recent : Bool := match m.lastSet with
    | some t => decide (h.rtc - t < 86400 * 32768000)
    | none => false
  if 32767 < leNat b 8 2 then (s, 0x1006, [])
  else if m.sealed_ ∧ (far ∨ recent) then (tamperOnce l 8 s, 0, [4])
  else
    let old := toLE 6 (rtcSec h) ++ toLE 2 (rtcFraction h)
    let s := setHm1 s l { h with rtc := new, met := { m with lastSet := some new } }
    (legal l 0x13 (old ++ slice b 2 8) s, 0, [0])

def execTimeSet (l : Nat) (s : State) : Host.Outcome State Fault Refusal := inRange (decide (l < 4)) (hm1Take 0x1C none l (timeSet l) s)

/-- CERT_READ: 48 bytes of the certificate, zeros beyond its end. -/
def certRead (l : Nat) (b : Bytes) (s : State) : State × W16 × Bytes := (s, 0, slice (Config.productionBytes 4 l) (leNat b 2 2) 48)

def execCertRead (l : Nat) (s : State) : Host.Outcome State Fault Refusal := inRange (decide (l < 4)) (hm1Take 0x1D none l (certRead l) s)

end Sys2Proof.Machine
end

