-- ==== Sys2Proof/Machine/HolmiSession.lean ====
section
/-! DEFINITION. The charging session of an HM1 (R425-R436): configuration, pilot, states, stops, contactors, insulation, residual
current, authorisation, and the session messages of R453. -/

namespace Sys2Proof.Machine

/-- Code of a session state. -/
def sessCode : SessState → Nat
  | .idle => 0
  | .connected => 1
  | .authorised => 2
  | .energising => 3
  | .flowing => 4
  | .stopping => 5
  | .fault => 6

/-- A change of session state, with SESSION_STATE (R428). -/
def moveSession (l : Nat) (st : SessState) (s : State) : State :=
  let x := getSes s l
  if x.state = st then s
  else hm1Event l ([0xA0, BitVec.ofNat 8 (sessCode st), x.cause] ++ toLE 4 x.ident.toNat) (setSes s l { x with state := st })

/-- The kinds in force, as bits of TAMPER_KINDS. -/
def kindsInForce (m : Metrology) : W16 :=
  let on := fun (i : Nat) => (Tbl.get ({} : TamperTrack) m.tampers i).on
  BitVec.ofNat 16 (2 * b2n (on 0 || on 1 || on 2) + 4 * b2n (on 3) + 8 * b2n (on 4) + 16 * b2n (on 5) + 32 * b2n (on 6) + 64 * b2n m.cover)

/-- A session begins (R428, R437): a new id, and the session registers cleared. -/
def connect (l : Nat) (outlet : Bool) (s : State) : State :=
  let h := getHm1 s l
  let x := h.ses
  let m := h.met
  let e := m.energy
  let y := { x with outlet := outlet, ident := x.nextId, nextId := x.nextId + 1, method := 0, digest := [], hostLimit := none, ready := false,
                    cause := 0, immediate := false, excess := 0, measured := false, start := rtcSec h, recorded := false,
                    kinds := kindsInForce m, linkLoss := false, restored := false, outOfClass := false, faulted := m.metFault }
  let y := { y with regStart := (billReg m (sessionReg y)).mwh }
  let s := setHm1 s l { h with ses := y, met := { m with energy := { e with
    regs := Tbl.set {} (Tbl.set {} e.regs 18 {}) 19 {}, sessionCost := 0, perTariff := [] } } }
  moveSession l .connected s

/-- The record of a session, written once at its end (R449). -/
def endRecord (l : Nat) (s : State) : State :=
  let x := getSes s l
  if x.recorded then s
  else
    let q := (getMet s l).recordSeq
    legal l 0x16 (toLE 4 q.toNat) (writeRecord l false [] (setSes s l { x with recorded := true }))

/-- Both contactors commanded (R430). -/
def drive (l : Nat) (close : Bool) (s : State) : State :=
  let x := getSes s l
  let c : BitVec 2 := if close then 3 else 0
  if x.cmd = c then s else setSes s l { x with cmd := c, agreed := 0, since := 0, closedFor := 0 }

/-- The contactors open at the end of a stop sequence: the record is written, and an immediate stop ends in FAULT (R428, R429). -/
def finishStop (l : Nat) (s : State) : State :=
  let imm := (getSes s l).immediate
  let s := endRecord l (drive l false s)
  if imm then moveSession l .fault s else s

/-- A stop (R429): a running stop is not restarted, but an immediate cause turns an orderly one into an immediate one. -/
def stopWith (l : Nat) (cause : Byte) (imm : Bool) (s : State) : State :=
  let x := getSes s l
  let live : Bool := x.state == .authorised || x.state == .energising || x.state == .flowing
  if x.state = .stopping ∧ ¬ x.recorded ∧ imm ∧ ¬ x.immediate then
    finishStop l (setSes s l { x with cause := cause, immediate := true, duty := 0 })
  else if ¬ live then s
  else
    let s := moveSession l .stopping (setSes s l { x with cause := cause, immediate := imm, ready := false, duty := 0 })
    if imm ∨ x.cmd = 0 then finishStop l s else s

/-- A failed pre-check or an immediate cause before energy flows: FAULT (R431). -/
def faultSession (l : Nat) (cause : Byte) (s : State) : State :=
  let x := getSes s l
  moveSession l .fault (endRecord l (drive l false (setSes s l { x with cause := cause, immediate := true, ready := false, duty := 0 })))

/-- Back to IDLE (R428). -/
def unplug (l : Nat) (s : State) : State :=
  let s := endRecord l (drive l false s)
  let x := getSes s l
  moveSession l .idle (setSes s l { x with ready := false, rating := 0, duty := 0 })

/-! ### The pilot (R426, R427) -/

/-- Pilot state of a positive plateau in mV: A to F as 0-5; none between F and E. -/
def classify (mv : Int) : Option Nat :=
  if 10500 < mv then some 0
  else if 7500 ≤ mv then some 1
  else if 4500 ≤ mv then some 2
  else if 1500 ≤ mv then some 3
  else if -1500 ≤ mv then some 4
  else if mv < -10500 then some 5
  else none

/-- The lowest of the configured maximum, the cable rating and the host's limit, in 0.1 A (R426). -/
def offered (x : Session) : Nat :=
  let c := 10 * x.maxA.toNat
  let c := if x.rating = 0 then c else min c (10 * x.rating)
  match x.hostLimit with
  | some h => min c h.toNat
  | none => c

/-- IEC 61851-1 duty in 0.1 % for a current in 0.1 A: 0.6 A per 1 % up to 51 A, above it 2.5 A per 1 % from 64 %. -/
def dutyOf (a : Nat) : Nat := if a ≤ 510 then a * 10 / 6 else min 1000 (a * 10 / 25 + 640)

/-- The duty that the outlet drives: 5 % with high-level communication (DC), else for the current offered (R426). -/
def drivenDuty (x : Session) : W16 := if x.connector ≠ 0 then 50 else BitVec.ofNat 16 (dutyOf (offered x))

/-- The pre-checks of R431 in the outlet role: the code of the cause that fails, or 0. -/
def preChecks (x : Session) (rdcOk : Bool) : Byte :=
  if ¬ x.outlet then 0
  else if x.connector = 0 ∧ ¬ rdcOk then 4
  else if x.connector ≠ 0 ∧ (¬ x.measured ∨ x.level ≠ 0) then 5
  else if x.mirror ≠ 3 then 6
  else 0

/-- Closing (R428, R431). -/
def energise (l : Nat) (rdcOk : Bool) (s : State) : State :=
  let c := preChecks (getSes s l) rdcOk
  if c ≠ 0 then faultSession l c s else drive l true (moveSession l .energising s)

/-- A pilot state taken by a session of the outlet or the inlet role (R428, R429). -/
def pilotMove (l p duty : Nat) (rdcOk : Bool) (s : State) : State :=
  let x := getSes s l
  let outlet : Bool := x.outletOk && (!x.inletOk || duty == 0)
  match x.state with
  | .idle =>
    if (x.inletOk ∨ x.outletOk) ∧ (p = 1 ∨ (¬ outlet ∧ 0 < duty ∧ p ≠ 0)) then connect l outlet s else s
  | .connected => if p = 0 then unplug l s else s
  | .authorised =>
    if p = 0 then unplug l s
    else if p = 4 ∨ p = 5 then stopWith l 2 true s
    else if x.connector = 0 ∧ (p = 2 ∨ (p = 3 ∧ x.outlet ∧ x.ventOk)) ∧ (x.outlet ∨ 0 < duty) then energise l rdcOk s
    else s
  | .energising | .flowing =>
    if p = 0 ∨ p = 1 ∨ p = 4 ∨ p = 5 then
      let s := stopWith l 2 true s
      if p = 0 ∧ ¬ x.lockout then unplug l s else s
    else s
  | .stopping =>
    if p = 0 then unplug l (if x.recorded then s else finishStop l s)
    else if p = 1 ∧ x.outlet ∧ ¬ x.recorded then finishStop l s
    else s
  | .fault => if p = 0 ∧ ¬ x.lockout then unplug l s else s

/-- PILOT_STATE (R426): a plateau that has held is taken; with PWM driven, a negative plateau above −10.5 V is DIODE_FAULT,
unless the same plateau is a stop of the peer, the lower cause (R429). -/
def pilotState (l : Nat) (plateau negative : Int) (duty : Nat) (rdcOk : Bool) (s : State) : State :=
  let x := getSes s l
  match classify plateau with
  | none => s
  | some p =>
    let s := setSes s l { x with pilot := p, duty := if x.outlet ∧ x.state ≠ .idle then x.duty else BitVec.ofNat 16 duty }
    let fault : Bool := x.outlet && (x.state == .authorised || x.state == .energising || x.state == .flowing) && 0 < x.duty.toNat && -10500 < negative
    let peer : Bool := p == 4 || p == 5 || (x.state != .authorised && (p == 0 || p == 1))
    if fault ∧ ¬ peer then stopWith l 11 true s
    else pilotMove l p duty rdcOk s

def execPilotState (l : Nat) (plateau negative : Int) (duty : Nat) (rdcOk : Bool) (s : State) : Host.Outcome State Fault Refusal :=
  inRange (decide (l < 4)) (when (getMet s l).main (pilotState l plateau negative duty rdcOk) s)

/-- Cable rating of a proximity resistance (R427). -/
def ppRating (ohms : Nat) : Nat :=
  if 1100 ≤ ohms ∧ ohms ≤ 2000 then 13 else if 500 ≤ ohms ∧ ohms < 1100 then 20 else if 160 ≤ ohms ∧ ohms < 500 then 32
  else if 60 ≤ ohms ∧ ohms < 160 then 63 else 0

/-- PP_LOST (R427): a reading on an AC connector; outside every band, or another band during a session, is PP_LOST. -/
def ppRead (l ohms : Nat) (s : State) : State :=
  let x := getSes s l
  let r := ppRating ohms
  if x.connector ≠ 0 then s
  else if ¬ inSession x ∨ (x.state = .connected ∧ x.rating = 0 ∧ r ≠ 0) then setSes s l { x with rating := r }
  else if r ≠ 0 ∧ r = x.rating then s
  else if x.state = .connected then faultSession l 10 s
  else stopWith l 10 true s

def execPpLost (l ohms : Nat) (s : State) : Host.Outcome State Fault Refusal :=
  inRange (decide (l < 4)) (when (getMet s l).main (ppRead l ohms) s)

/-! ### Contactors (R430-R432) -/

/-- Finding codes of CONTACTOR, in the order of R430 (assumption log 53): 0 FAILED_TO_CLOSE, 1 DROPPED, 2 WELDED. -/
def contactorFinding (x : Session) (mirrors : BitVec 2) (i : Nat) : Option Nat :=
  let closed := bitOf mirrors i
  if bitOf x.cmd i then
    if closed then (if bitOf x.agreed i then some 1 else if x.tClose.toNat ≤ x.since + 1 then some 0 else none) else none
  else if ¬ closed then (if bitOf x.agreed i then some 2 else if x.tOpen.toNat ≤ x.since + 1 then some 2 else none)
  else none

/-- A finding acted on (R430). -/
def foundContactor (l i f : Nat) (s : State) : State :=
  let s := hm1Event l [0xA1, BitVec.ofNat 8 i, BitVec.ofNat 8 f] s
  let s := legal l 0x15 [BitVec.ofNat 8 i, BitVec.ofNat 8 f] s
  if f = 2 then
    let s := drive l false s
    let s := setSes s l { getSes s l with lockout := true }
    let x := getSes s l
    if x.state = .fault then s else if inSession x then faultSession l 6 s else moveSession l .fault (setSes s l { x with cause := 6 })
  else stopWith l 6 true (drive l false s)

/-- CONTACTOR_CHECK (R430): every 1 ms, debounced mirror contacts against the commands; a lockout that is in force is not found again. -/
def contactorCheck (l : Nat) (mirrors : BitVec 2) (s : State) : State :=
  let x := getSes s l
  let agreeing : BitVec 2 := mirrors ^^^ x.cmd
  let s := setSes s l { x with mirror := mirrors, since := x.since + 1, agreed := x.agreed ||| agreeing,
                               closedFor := if mirrors = 3 ∧ x.cmd = 0 then x.closedFor + 1 else 0 }
  let s := (upFrom 0 2).foldl (fun s i =>
    match contactorFinding x mirrors i with
    | some f => if f = 2 ∧ x.lockout then s else foundContactor l i f s
    | none => s) s
  let y := getSes s l
  if y.state = .energising ∧ y.cmd = 3 ∧ mirrors = 0 then moveSession l .flowing s else s

def execContactorCheck (l : Nat) (mirrors : BitVec 2) (s : State) : Host.Outcome State Fault Refusal :=
  inRange (decide (l < 4)) (when (getMet s l).main (contactorCheck l mirrors) s)

/-- CONTACTOR_RESET (R432): both contactors commanded open, and both mirrors have read closed for 1,000 ms, as they
do now. -/
def contactorReset (l : Nat) (mirrors : BitVec 2) (_b : Bytes) (s : State) : State × W16 × Bytes :=
  let x := getSes s l
  if x.cmd = 0 ∧ mirrors = 3 ∧ 1000 ≤ x.closedFor then (setSes s l { x with lockout := false }, 0, [0]) else (s, 0, [1])

def execContactorReset (l : Nat) (mirrors : BitVec 2) (s : State) : Host.Outcome State Fault Refusal :=
  inRange (decide (l < 4)) (hm1Take 0x24 none l (contactorReset l mirrors) s)

/-- STOP_GRACE_TIMEOUT (R429): DISC_GRACE after an orderly stop began, the contactors open under load. -/
def stopGrace (l : Nat) (s : State) : State :=
  let x := getSes s l
  if x.state = .stopping ∧ ¬ x.recorded then finishStop l s else s

def execStopGraceTimeout (l : Nat) (s : State) : Host.Outcome State Fault Refusal :=
  inRange (decide (l < 4)) (when (getMet s l).main (stopGrace l) s)

/-! ### Insulation and residual current (R433, R434) -/

/-- U_dc of the last interval in 0.01 V, at least 500 V (R433). -/
def insulationRef (m : Metrology) : Nat := max (leInt m.last.dc 0 4).natAbs 50000

/-- INSULATION (R433): a reading in kΩ, or a failed self-check, which reports FAULT. -/
def insulation (l kohm : Nat) (checkOk : Bool) (s : State) : State :=
  let x := getSes s l
  let u := insulationRef (getMet s l)
  let runs : Bool := x.connector != 0 && inSession x && (if x.outlet then x.state != .fault else x.cmd == 0)
  if ¬ runs then s
  else
    let level := if ¬ checkOk ∨ kohm * 1000 < u then 2 else if kohm * 1000 < 5 * u then 1 else 0
    let s := setSes s l { x with kohm := BitVec.ofNat 32 kohm, level := level, measured := x.measured || checkOk }
    let s := if level ≠ x.level then hm1Event l ([0xA2, BitVec.ofNat 8 level] ++ toLE 4 kohm) s else s
    if level = 2 ∧ x.state = .flowing then stopWith l 5 true s else s

def execInsulation (l kohm : Nat) (checkOk : Bool) (s : State) : Host.Outcome State Fault Refusal :=
  inRange (decide (l < 4)) (when (getMet s l).main (insulation l kohm checkOk) s)

/-- RDC_TRIP (R434): during ENERGISING or FLOWING, an immediate stop with cause 4; a stop that runs already still opens at once. -/
def rdcTrip (l : Nat) (s : State) : State :=
  let x := getSes s l
  if x.state = .energising ∨ x.state = .flowing ∨ x.state = .stopping then stopWith l 4 true s else s

def execRdcTrip (l : Nat) (s : State) : Host.Outcome State Fault Refusal := inRange (decide (l < 4)) (when (getMet s l).main (rdcTrip l) s)

/-- LINK_HOLD_EXPIRY (R455). -/
def linkHoldExpiry (l : Nat) (s : State) : State :=
  let x := getSes s l
  if ¬ (getEnd s true l).up ∧ (x.state = .authorised ∨ x.state = .energising ∨ x.state = .flowing) then
    stopWith l 9 false (setSes s l { x with linkLoss := true })
  else s

def execLinkHoldExpiry (l : Nat) (s : State) : Host.Outcome State Fault Refusal :=
  inRange (decide (l < 4)) (when (getMet s l).main (linkHoldExpiry l) s)

/-! ### Session messages (R425, R435, R453) -/

/-- SESSION_CONFIG (R425). -/
def sessionConfig (l : Nat) (b : Bytes) (s : State) : State × W16 × Bytes :=
  let x := getSes s l
  let roles := leNat b 1 1
  let conn := leNat b 2 1
  let fl := leNat b 3 1
  if 3 < roles ∨ 2 < conn ∨ 3 < fl ∨ (conn = 2 ∧ 2 ≤ roles) then (s, 0x1006, [])
  else if x.state ≠ .idle then (s, 0, [1])
  else (setSes s l { x with inletOk := roles % 2 = 1, outletOk := 2 ≤ roles, connector := conn, freeOk := fl % 2 = 1, ventOk := 2 ≤ fl,
                            maxA := le16 b 4, tClose := le16 b 6, tOpen := le16 b 8, discGrace := le16 b 10, linkHold := le16 b 12 }, 0, [0])

def execSessionConfig (l : Nat) (s : State) : Host.Outcome State Fault Refusal :=
  inRange (decide (l < 4)) (hm1Take 0x20 none l (sessionConfig l) s)

/-- RESULT and session state, the reply of AUTHORISE and SESSION_CMD. -/
def sessReply (l : Nat) (r : Byte) (s : State) : State × W16 × Bytes := (s, 0, [r, BitVec.ofNat 8 (sessCode (getSes s l).state)])

/-- What keeps a session in CONNECTED (R432, R446, R455, R456). -/
def heldConnected (s : State) (l : Nat) : Bool :=
  let h := getHm1 s l
  let on := fun (i : Nat) => (Tbl.get ({} : TamperTrack) h.met.tampers i).on
  h.ses.lockout || !(getEnd s true l).up || (h.ses.outlet && (h.met.metFault || on 3 || on 4 || on 5 || on 6))

/-- AUTHORISE (R435). -/
def authorise (l : Nat) (b : Bytes) (s : State) : State × W16 × Bytes :=
  let x := getSes s l
  let m := getMet s l
  let method := leNat b 1 1
  let emergency := bitOf (byteAt b 2) 0
  let credit : Bool := decide (0 < m.energy.credit) || (emergency && decide (-((tarInForce m 9).toNat : Int) < m.energy.credit))
  if method = 0 ∨ 4 < method ∨ 1 < leNat b 2 1 then (s, 0x1006, [])
  else if x.state ≠ .connected ∨ ¬ x.outlet then sessReply l 1 s
  else if heldConnected s l ∨ (method = 3 ∧ ¬ credit) ∨ (method = 4 ∧ ¬ x.freeOk) then sessReply l 4 s
  else
    let y := { x with method := BitVec.ofNat 8 method, digest := slice b 4 16 }
    sessReply l 0 (moveSession l .authorised (setSes s l { y with duty := drivenDuty y }))

def execAuthorise (l : Nat) (s : State) : Host.Outcome State Fault Refusal := inRange (decide (l < 4)) (hm1Take 0x21 none l (authorise l) s)

/-- START_INLET (R428). -/
def startInlet (l : Nat) (_ : Bytes) (s : State) : State × W16 × Bytes :=
  let x := getSes s l
  if x.state ≠ .connected ∨ x.outlet then sessReply l 1 s
  else if heldConnected s l then sessReply l 4 s
  else sessReply l 0 (moveSession l .authorised (setSes s l { x with ready := true }))

def execStartInlet (l : Nat) (s : State) : Host.Outcome State Fault Refusal :=
  inRange (decide (l < 4)) (hm1Take 0x22 (some 1) l (startInlet l) s)

/-- CLOSE (R428, R431): for DC and MCS, on the host's command. -/
def closeContactors (l : Nat) (rdcOk : Bool) (_ : Bytes) (s : State) : State × W16 × Bytes :=
  let x := getSes s l
  if x.state ≠ .authorised ∨ x.connector = 0 then sessReply l 1 s else sessReply l 0 (energise l rdcOk s)

def execCloseContactors (l : Nat) (rdcOk : Bool) (s : State) : Host.Outcome State Fault Refusal :=
  inRange (decide (l < 4)) (hm1Take 0x22 (some 2) l (closeContactors l rdcOk) s)

/-- STOP (R429). -/
def hostStop (l : Nat) (_ : Bytes) (s : State) : State × W16 × Bytes :=
  let x := getSes s l
  if x.state = .authorised ∨ x.state = .energising ∨ x.state = .flowing ∨ x.state = .stopping then sessReply l 0 (stopWith l 1 false s)
  else sessReply l 1 s

def execStop (l : Nat) (s : State) : Host.Outcome State Fault Refusal := inRange (decide (l < 4)) (hm1Take 0x22 (some 3) l (hostStop l) s)

/-- SET_LIMIT (R426): the current offered from now on. -/
def setLimit (l : Nat) (b : Bytes) (s : State) : State × W16 × Bytes :=
  let x := { getSes s l with hostLimit := some (le16 b 2) }
  let pwm : Bool := x.outlet && (x.state == .authorised || x.state == .energising || x.state == .flowing)
  if ¬ inSession x then sessReply l 1 s else sessReply l 0 (setSes s l (if pwm then { x with duty := drivenDuty x } else x))

def execSetLimit (l : Nat) (s : State) : Host.Outcome State Fault Refusal := inRange (decide (l < 4)) (hm1Take 0x22 (some 4) l (setLimit l) s)

/-- SESSION_STATUS. -/
def sessionStatus (l : Nat) (_ : Bytes) (s : State) : State × W16 × Bytes :=
  let x := getSes s l
  let m := getMet s l
  (s, 0, [BitVec.ofNat 8 (sessCode x.state), if x.outlet then 1 else 0, BitVec.ofNat 8 x.pilot, x.cause] ++ toLE 2 x.duty.toNat
    ++ [BitVec.ofNat 8 x.rating, BitVec.ofNat 8 (x.cmd.toNat + 4 * x.mirror.toNat)] ++ toLE 4 x.kohm.toNat ++ toLE 4 x.ident.toNat
    ++ [BitVec.ofNat 8 (creditStateOf m), BitVec.ofNat 8 (m.tariff + 1)])

def execSessionStatus (l : Nat) (s : State) : Host.Outcome State Fault Refusal :=
  inRange (decide (l < 4)) (hm1Take 0x23 none l (sessionStatus l) s)

end Sys2Proof.Machine
end

