-- ==== Sys2Proof/Machine/Flash.lean ====
section
/-! DEFINITION. The embedded flash (chapter 12). What a unit's error-correcting code finds at a read is told by the command:
0 nothing, 1 a corrected bit, 2 an uncorrectable unit. -/

namespace Sys2Proof.Machine

/-- Port `p`. -/
def getPort (s : State) (p : Nat) : FlashPort := Tbl.get {} s.flash.ports p
/-- The state with port `p` written. -/
def setPort (s : State) (p : Nat) (x : FlashPort) : State := { s with flash := { s.flash with ports := Tbl.set {} s.flash.ports p x } }
/-- Bank `b`. -/
def getBank (s : State) (b : Nat) : FlashBank := Tbl.get {} s.flash.banks b
/-- The state with bank `b` written. -/
def setBank (s : State) (b : Nat) (x : FlashBank) : State := { s with flash := { s.flash with banks := Tbl.set {} s.flash.banks b x } }

/-- Die-local address of register `i` of port `p` (R508). -/
def flcAddr (s : State) (p i : Nat) : Nat := here s 5 (0x0100A030000 + 64 * p + 4 * i)

/-- Owner of a global sector (R315, R316): the highest-numbered entry that covers it. -/
def protectOf (s : State) (g : Nat) : Option Protect :=
  s.boot.opt.protect.reverse.find? (fun e => e.count ≠ 0 && e.first ≤ g && g < e.first + e.count)

/-- Owner code of a global sector: 0 none, 1 Keeper, 2 safety island, 3 ROM. -/
def sectorOwner (s : State) (g : Nat) : Nat := ((protectOf s g).map Protect.owner).getD 0

/-- State code of a global sector (R314). -/
def sectorState (s : State) (g : Nat) : BitVec 2 := Tbl.get 0 s.flash.sectors g
/-- The state with a sector's state written. -/
def setSector (s : State) (g : Nat) (c : BitVec 2) : State := { s with flash := { s.flash with sectors := Tbl.set 0 s.flash.sectors g c } }

/-- Erase cycles that a main-array sector is rated for (R301). -/
def rating (g : Nat) : Nat := if 1984 ≤ g % 2048 then 100000 else 10000

/-- The place a port's ADDR names: bank, bank-local sector, and the offset in its table (main byte address, or info key). -/
structure FlashPlace where
  bank : Nat
  sector : Nat
  info : Bool
  key : Nat

/-- The place of ADDR (R307). -/
def placeOf (x : FlashPort) : FlashPlace :=
  let a := x.addr.toNat
  if x.info then { bank := a / 2 ^ 23, sector := a % 2 ^ 14 / 4096, info := true, key := 2 ^ 15 * (a / 2 ^ 23) + a % 2 ^ 14 }
  else { bank := a / 2 ^ 23, sector := a % 2 ^ 23 / 4096, info := false, key := a }

/-- The number of sector 0 of a bank's info block, which holds an option copy, beside those of the main array (assumption log 8). -/
def infoSector (b : Nat) : Nat := 4096 + b

/-- Sector number of a place: global in the main array (R301), and beyond it in the info blocks. -/
def FlashPlace.global (x : FlashPlace) : Nat := if x.info then infoSector x.bank + 2 * x.sector else 2048 * x.bank + x.sector

/-- The bank that a sector lies in. -/
def sectorBank (g : Nat) : Nat := if g < 4096 then g / 2048 else (g - 4096) % 2

/-- The sector that a bank's operation acts on. -/
def bankSector (b : Nat) (x : FlashBank) : Nat :=
  FlashPlace.global { bank := b, sector := x.sector.toNat, info := x.info, key := 0 }

/-- A byte of the array; while a sector is being erased its content is open (assumption log 7). -/
def flashByte (s : State) (info : Bool) (key : Nat) : Byte :=
  if info then Tbl.get 0xFF s.flash.info key
  else
    let b := getBank s (key / 2 ^ 23)
    if (b.activity = .erasing ∨ b.activity = .suspended) ∧ ¬ b.info ∧ b.sector.toNat = key % 2 ^ 23 / 4096 then freeB s key
    else Tbl.get 0xFF s.flash.main key

/-- `n` bytes of the array. -/
def flashBytes (s : State) (info : Bool) (key n : Nat) : Bytes := (upFrom key n).map (flashByte s info)

/-- Bytes stored in the array. -/
def flashPut (s : State) (info : Bool) (key : Nat) (l : Bytes) : State :=
  if info then { s with flash := { s.flash with info := putBytes 0xFF s.flash.info key l } }
  else { s with flash := { s.flash with main := putBytes 0xFF s.flash.main key l } }

/-- Entries of a byte table from `lo` to `hi − 1` removed: they read 0xFF. -/
def wipe (t : Tbl Byte) (lo hi : Nat) : Tbl Byte := t.filter (fun e => e.1 < lo || hi ≤ e.1)

/-- A sector's bytes erased. -/
def flashWipe (s : State) (info : Bool) (key : Nat) : State :=
  if info then { s with flash := { s.flash with info := wipe s.flash.info key (key + 4096) } }
  else { s with flash := { s.flash with main := wipe s.flash.main key (key + 4096) } }

/-- A journal entry's 32 bytes (R312). -/
def journalBytes (start : Bool) (g : Nat) (seq : W32) : Bytes :=
  let h := [if start then 1 else 2, 0] ++ toLE 2 g ++ toLE 4 seq.toNat ++ zeros 20
  h ++ toLE 4 (crc32c h).toNat

/-- One entry programmed at the journal position of bank `b`. -/
def journalPut (b : Nat) (start : Bool) (g : Nat) (s : State) : State :=
  let x := getBank s b
  let s := flashPut s true (2 ^ 15 * b + 4096 + 32 * x.journalPos) (journalBytes start g s.flash.journalSeq)
  let s := setBank s b { x with journalPos := (x.journalPos + 1) % 256 }
  { s with flash := { s.flash with journalSeq := s.flash.journalSeq + 1 } }

/-- A START or DONE entry (R312): when it fills a journal sector, the other is erased and takes every open START. -/
def journal (b : Nat) (start : Bool) (g : Nat) (s : State) : State :=
  let s := { s with flash := { s.flash with started := Tbl.set false s.flash.started g start } }
  let s := journalPut b start g s
  if (getBank s b).journalPos % 128 = 0 then
    let s := flashWipe s true (2 ^ 15 * b + 4096 + 32 * (getBank s b).journalPos)
    (s.flash.started.filter (fun e => e.2 && sectorBank e.1 == b)).foldl (fun s e => journalPut b true e.1 s) s
  else s

/-- FLASH_SECTOR (R48). -/
def sectorEvent (g : Nat) (c : Nat) (s : State) : State :=
  broadcast 0xE008 ([BitVec.ofNat 8 (g / 2048), 0] ++ toLE 2 (g % 2048) ++ [BitVec.ofNat 8 c]) s

/-- The end of a completed erase of a main-array sector: erased, DONE, counted, and GOOD or WORN (R303, R305, R314). -/
def eraseDone (g : Nat) (s : State) : State :=
  let n := satAdd (Tbl.get 0 s.flash.erases g) 1
  let s := journal (g / 2048) false g (flashWipe s false (4096 * g))
  let s := { s with flash := { s.flash with erases := Tbl.set 0 s.flash.erases g n } }
  let s := setSector s g (if rating g ≤ n.toNat then 3 else 0)
  if n.toNat = rating g then sectorEvent g 3 s else s

/-- The end of a completed erase of an option copy's sector: erased, and DONE (R305, R312). -/
def eraseInfoDone (b : Nat) (s : State) : State :=
  setSector (journal b false (infoSector b) (flashWipe s true (2 ^ 15 * b))) (infoSector b) 0

/-- An erase that the Keeper makes whole in one step (START, erase, DONE). -/
def eraseNow (g : Nat) (s : State) : State := eraseDone g (journal (g / 2048) true g s)

/-- Bytes that the Keeper programs whole in one step; units wholly 0xFF are not programmed (R337). -/
def programNow (a : Nat) (l : Bytes) (s : State) : State := flashPut s false a l

/-! ### Port commands (R304-R306) -/

/-- A port ended with a result. -/
def portEnd (p : Nat) (r : PortResult) (code : W16) (s : State) : State :=
  setPort s p { getPort s p with result := r, code := code, waiting := none }

/-- The eight data registers as bytes. -/
def portData (x : FlashPort) : Bytes := ((upFrom 0 8).map (fun i => toLE 4 (Tbl.get 0 x.data i).toNat)).flatten

/-- Bytes placed in the data registers. -/
def dataRegs (l : Bytes) : Tbl W32 := (upFrom 0 8).foldl (fun t i => Tbl.set 0 t i (le32 l (4 * i))) []

/-- One correction counted in ECC_CORRECTED. -/
def countEcc (b : Nat) (s : State) : State :=
  let x := getBank s b
  setBank s b { x with eccCorrected := satAdd x.eccCorrected 1, eccOvf := x.eccOvf || satLost x.eccCorrected 1 }

/-- The checks of R306, in order; 0 when the command passes. -/
def portCheck (s : State) (p op : Nat) : W16 :=
  let x := getPort s p
  let a := x.addr.toNat
  let l := placeOf x
  let b := getBank s l.bank
  let owner := sectorOwner s l.global
  let mine := if l.info then p = 0 ∧ l.sector = 0
              else if p = 0 then owner = 1 ∨ (owner = 3 ∧ s.flash.romPhase) else owner = 2
  if op = 0 ∨ 6 < op ∨ (x.info ∧ field x.addr 22 14 ≠ 0) then 0x1006
  else if a % (if op ≤ 2 then 32 else 4096) ≠ 0 then 0x100A
  else if (op = 2 ∨ op = 3) ∧ ¬ mine then 0x4002
  else if p = 1 ∧ ((op = 1 ∧ ¬ mine) ∨ l.info) then 0x4002
  else if op = 2 ∧ sectorState s l.global = 1 then 0x500A
  else if op = 2 ∧ (flashBytes s l.info l.key 32).any (· != 0xFF) then 0x2001
  else if (op = 2 ∨ op = 3) ∧ b.activity = .suspended ∧ ¬ b.auto then 0x2001
  else if op = 4 ∧ ¬ ((b.activity = .erasing ∨ b.activity = .suspended ∧ b.auto) ∧ b.port = decide (p = 1)) then 0x2001
  else if op = 5 ∧ ¬ (b.activity = .suspended ∧ ¬ b.auto ∧ b.port = decide (p = 1)) then 0x2001
  else 0

/-- A read served (R302, R309): the status, and the bytes where it is 0. -/
def readUnits (s : State) (l : FlashPlace) (n ecc : Nat) : W16 × Bytes :=
  if sectorState s l.global = 1 then (0x500A, [])
  else if ecc = 2 then (0x500B, [])
  else (0, flashBytes s l.info l.key n)

/-- A command that passed its checks on a free bank. -/
def portStart (p op ecc : Nat) (s : State) : State :=
  let x := getPort s p
  let l := placeOf x
  let b := getBank s l.bank
  let s := if (op = 1 ∨ op = 6) ∧ ecc = 1 then countEcc l.bank s else s
  match op with
  | 1 =>
    let (c, d) := readUnits s l 32 ecc
    if c = 0 then setPort s p { x with data := dataRegs d, result := .done, code := 0, waiting := none }
    else setPort s p { x with data := [], result := .error, code := c, waiting := none }
  | 2 =>
    setPort (setBank s l.bank { b with activity := .programming, port := decide (p = 1), auto := false, info := l.info,
                                       sector := BitVec.ofNat 11 l.sector, unitAddr := l.key, unitData := portData x })
      p { x with result := .busy, waiting := none }
  | 3 =>
    let s := setBank s l.bank { b with activity := .erasing, port := decide (p = 1), auto := false, info := l.info,
                                       sector := BitVec.ofNat 11 l.sector, suspends := 0, warned := false }
    setPort (journal l.bank true l.global s) p { x with result := .busy, waiting := none }
  | _ =>
    let (c, d) := readUnits s l 4096 ecc
    if c ≠ 0 then portEnd p .error c s
    else if d.all (· == 0xFF) then portEnd p .done 0 s
    else portEnd p .error ((freeW s 0).truncate 16) s

/-- Whether a bank can serve a command of `op` at once: a suspended bank serves reads (R308, R311). -/
def bankFree (b : FlashBank) (op : Nat) : Bool :=
  b.activity == .idle || (b.activity == .suspended && (op == 1 || op == 6))

/-- Commands that wait in the ports for bank `b`, started (R306). -/
def runWaiting (b : Nat) (s : State) : State :=
  [0, 1].foldl (fun s p =>
    match (getPort s p).waiting with
    | some (op, ecc) => if (placeOf (getPort s p)).bank = b ∧ bankFree (getBank s b) op then portStart p op ecc s else s
    | none => s) s

/-- A CMD write of a port (R304): from the port's unit alone, and not while BUSY; SUSPEND of the port's own erase, which may be suspended under
R308, is taken while BUSY (assumption log 8). -/
def portCmd (src : W32) (p op ecc : Nat) (s : State) : State :=
  let x := getPort s p
  let l := placeOf x
  if srcUnit src ≠ p then refuseWrite src (flcAddr s p 0) none 0x4001 s
  else if x.result = .busy ∧ ¬ (op = 4 ∧ portCheck s p 4 = 0) then setPort s p { x with ignored := true }
  else
    let c := portCheck s p op
    if c ≠ 0 then setPort s p { x with result := .error, code := c, data := if op = 1 then [] else x.data }
    else if op = 4 then
      let b := getBank s l.bank
      let n := b2n (b.activity == .erasing)
      runWaiting l.bank (portEnd p .done 0 (setBank s l.bank { b with
        activity := .suspended, auto := false, suspends := satAdd b.suspends n, suspOvf := b.suspOvf || satLost b.suspends n }))
    else if op = 5 then
      setPort (setBank s l.bank { getBank s l.bank with activity := .erasing, warned := false }) p { x with result := .busy }
    else if bankFree (getBank s l.bank) op then portStart p op ecc s
    else setPort s p { x with result := .busy, waiting := some (op, ecc) }

def execFlashRead (src : W32) (p ecc : Nat) (s : State) : Host.Outcome State Fault Refusal :=
  inRange (decide (p < 2)) (portCmd src p 1 ecc s)

def execFlashProgram (src : W32) (p : Nat) (s : State) : Host.Outcome State Fault Refusal :=
  inRange (decide (p < 2)) (portCmd src p 2 0 s)

def execFlashErase (src : W32) (p : Nat) (s : State) : Host.Outcome State Fault Refusal :=
  inRange (decide (p < 2)) (portCmd src p 3 0 s)

def execFlashSuspend (src : W32) (p : Nat) (s : State) : Host.Outcome State Fault Refusal :=
  inRange (decide (p < 2)) (portCmd src p 4 0 s)

def execFlashResume (src : W32) (p : Nat) (s : State) : Host.Outcome State Fault Refusal :=
  inRange (decide (p < 2)) (portCmd src p 5 0 s)

def execBlankCheck (src : W32) (p ecc : Nat) (s : State) : Host.Outcome State Fault Refusal :=
  inRange (decide (p < 2)) (portCmd src p 6 ecc s)

/-- A window read served (R302, R309): the Keeper's answer, with a fault record for an uncorrectable unit. -/
def serveWindow (a ecc : Nat) (s : State) : State :=
  let l : FlashPlace := { bank := a / 2 ^ 23, sector := a % 2 ^ 23 / 4096, info := false, key := a }
  let s := if ecc = 1 then countEcc l.bank s else s
  let (c, d) := readUnits s l 256 ecc
  let s := { s with keeper := { s.keeper with rsp := { status := c, data := d } } }
  if c = 0x500B then record { code := 0x500B, kind := 1, flags := 1, source := keeperSrc s, action := 6,
                              address := BitVec.ofNat 64 (here s 5 (0x00C00000000 + a)) } s
  else s

/-- FLASH_WINDOW_READ (R308, R309): the parcel that holds `addr`. -/
def flashWindowRead (addr : BitVec 24) (ecc : Nat) (s : State) : State :=
  let a := 256 * (addr.toNat / 256)
  let b := getBank s (a / 2 ^ 23)
  if b.activity = .idle ∨ b.activity = .suspended then serveWindow a ecc s
  else if b.pending.length < 16 then setBank s (a / 2 ^ 23) { b with pending := b.pending ++ [(a, ecc)] }
  else s

def execFlashWindowRead (addr : BitVec 24) (ecc : Nat) (s : State) : Host.Outcome State Fault Refusal :=
  inRange true (flashWindowRead addr ecc s)

/-- The reads of a bank that have waited, served. -/
def servePending (b : Nat) (s : State) : State :=
  let l := (getBank s b).pending
  let s := setBank s b { getBank s b with pending := [] }
  runWaiting b (l.foldl (fun s e => serveWindow e.1 e.2 s) s)

/-- FLASH_OPERATION_DONE (R305): the program or erase of bank `b` completes, or its verify fails: 0x500B and sector FAULT. -/
def flashOperationDone (b : Nat) (ok : Bool) (s : State) : State :=
  let x := getBank s b
  let g := bankSector b x
  let p := b2n x.port
  let idle := fun (s : State) => setBank s b { getBank s b with activity := .idle, auto := false }
  match x.activity with
  | .programming =>
    let s := idle (flashPut s x.info x.unitAddr (if ok then x.unitData else (upFrom 0 32).map (freeB s)))
    let s := if ok ∨ x.info then s else setSector s g 2
    servePending b (portEnd p (if ok then .done else .error) (if ok then 0 else 0x500B) s)
  | .erasing =>
    let s := idle s
    let key := if x.info then 2 ^ 15 * b else 4096 * g
    let s := if ¬ ok then setSector (flashPut s x.info key ((upFrom 0 4096).map (freeB s))) g 2
             else if x.info then eraseInfoDone b s
             else eraseDone g s
    servePending b (portEnd p (if ok then .done else .error) (if ok then 0 else 0x500B) s)
  | _ => s

def execFlashOperationDone (b : Nat) (ok : Bool) (s : State) : Host.Outcome State Fault Refusal :=
  inRange (decide (b < 2)) (flashOperationDone b ok s)

/-- FLASH_AUTO_SUSPEND (R308): a read waits on the erase, whose sector allows it. -/
def flashAutoSuspend (b : Nat) (s : State) : State :=
  let x := getBank s b
  let g := bankSector b x
  let waits := !x.pending.isEmpty || [0, 1].any (fun p => match (getPort s p).waiting with
    | some (op, _) => op == 1 && (placeOf (getPort s p)).bank == b
    | none => false)
  if x.activity = .erasing ∧ waits ∧ ¬ ((protectOf s g).map Protect.noAuto).getD false then
    servePending b (setBank s b { x with activity := .suspended, auto := true, suspends := satAdd x.suspends 1,
                                         suspOvf := x.suspOvf || satLost x.suspends 1 })
  else s

def execFlashAutoSuspend (b : Nat) (s : State) : Host.Outcome State Fault Refusal :=
  inRange (decide (b < 2)) (flashAutoSuspend b s)

/-- FLASH_AUTO_RESUME (R308): no read of the bank is pending. -/
def flashAutoResume (b : Nat) (s : State) : State :=
  let x := getBank s b
  if x.activity = .suspended ∧ x.auto ∧ x.pending = [] then setBank s b { x with activity := .erasing, auto := false } else s

def execFlashAutoResume (b : Nat) (s : State) : Host.Outcome State Fault Refusal :=
  inRange (decide (b < 2)) (flashAutoResume b s)

/-- An erase of the Keeper's explicitly suspended by the early warning (R311); one that R308 has suspended is suspended already. -/
def warnBank (x : FlashBank) : FlashBank :=
  let n := b2n (x.activity == .erasing)
  if ¬ x.port ∧ (x.activity = .erasing ∨ x.activity = .suspended ∧ x.auto) then
    { x with activity := .suspended, auto := false, warned := true, suspends := satAdd x.suspends n, suspOvf := x.suspOvf || satLost x.suspends n }
  else x

/-- Every erase that the Keeper has started, suspended by the early warning (R311). -/
def suspendKeeperErases (s : State) : State := { s with flash := { s.flash with banks := Tbl.mapAll {} (fun _ x => warnBank x) s.flash.banks } }

end Sys2Proof.Machine
end

