-- ==== Sys2Proof/Machine/FrameConfig.lean ====
section
/-! DEFINITION. Loading the Frame die (chapter 10): image header, segments, records, full start and partial load. -/

namespace Sys2Proof.Machine

/-- The configuration controller's state written. -/
def setCfg (s : State) (x : Config) : State := { s with frame := { s.frame with cfg := x } }

/-- The bits of fuse field `f` as `n` bytes (R503): 0 UDS, 1 frame key, 2 recovery-key digest, 3 Evdiand debug-key digest,
4 anti-rollback counter, 5 key-wrap key, 6 integrator debug-key digest, 7 repair and trim. -/
def fuseBytes (s : State) (f n : Nat) : Bytes :=
  (upFrom 0 n).map (fun i => BitVec.ofNat 8 (((upFrom 0 8).map (fun k =>
    b2n (Tbl.get false (Tbl.get {} s.test.fuses f).bits (8 * i + k)) * 2 ^ k)).foldl (· + ·) 0))

/-- The key of a key source (R265): none where the source is undefined, plain, or an empty slot. -/
def sourceKey (s : State) (k : Nat) : Option Bytes :=
  if k = 1 then some (fuseBytes s 1 32)
  else if 0x10 ≤ k ∧ k ≤ 0x17 then
    let x := Tbl.get [] s.boot.keyRam (k - 0x10)
    if x = [] then none else some x
  else none

/-- Regions of a region mask (R262): bit 0 static, bits 1-6. -/
def maskRegions (m : Nat) : List Nat := (upFrom 0 7).filter (fun k => m / 2 ^ k % 2 = 1)

/-- The number of frames of a region (R266). -/
def regionFrames (k : Nat) : Nat := if k = 0 then 24576 else 16384

/-! ### The header (R262, R263) -/

/-- The header check: 0 with the first key or digest, or the code the load ends with. -/
def headerCheck (s : State) (h : Bytes) (size keySource mask : Nat) : W16 × Bytes :=
  let plain := keySource = 0
  let key := sourceKey s keySource
  let k0 := if plain then some (slice h 32 48)
            else key.bind (fun k => Config.gcmOpen k (slice h 8 8 ++ toLE 4 0xFFFFFFFF) (slice h 0 32) (slice h 32 32) (slice h 64 16))
  if (¬ plain ∧ key = none) ∨ size < 256 ∨ leNat h 0 4 ≠ 0x4D52465A ∨ leNat h 4 2 ≠ 1 ∨ leNat h 6 1 ≠ keySource
     ∨ leNat h 7 1 ≠ mask ∨ leNat h 16 4 = 0 ∨ 4096 < leNat h 16 4 ∨ 1 < leNat h 24 4 ∨ ¬ zeroIn h 28 32 ∨ ¬ zeroIn h 128 160
  then (0x4003, [])
  else if s.boot.opt.frameKeyDigest.all (· == 0) ∨ ¬ Config.ecdsaVerify s.boot.opt.frameKeyDigest (slice h 0 160) (slice h 160 96)
  then (0x4003, [])
  else if leNat h 24 4 = 1 ∧ slice h 80 48 ≠ s.frame.cfg.iface then (0x2001, [])
  else match k0 with
    | none => (0x4003, [])
    | some k => (0, k)

/-! ### Records (R266) -/

/-- Frame writes of `n` consecutive frames from an address; none where an address is not of a region in the mask or the run
passes the region's end. -/
def runWrites (regions : List Nat) (addr n : Nat) (f : Nat → Bytes) : Option (List (Nat × Bytes)) :=
  if regions.contains (addr / 2 ^ 21) ∧ addr % 2 ^ 21 + n ≤ regionFrames (addr / 2 ^ 21)
  then some ((upFrom 0 n).map (fun i => (addr + i, f i))) else none

/-- A SPARSE frame's bytes: word w supplied where MASK has bit w. -/
def sparseFrame (mask : Nat) (l : Bytes) : Nat → Nat → Bytes
  | _, 0 => []
  | w, n + 1 =>
    if mask / 2 ^ w % 2 = 1 then slice l 0 8 ++ sparseFrame mask (l.drop 8) (w + 1) n
    else zeros 8 ++ sparseFrame mask l (w + 1) n

/-- The frame writes of a segment's plaintext before its trailer, and FRAMES of its END record if it has one; none where it
is malformed. -/
def parseRecords (regions : List Nat) : Nat → Bytes → Option (List (Nat × Bytes) × Option Nat)
  | 0, _ => none
  | _, [] => some ([], none)
  | fuel + 1, t :: l =>
    let more := fun (w : Option (List (Nat × Bytes))) (n : Nat) =>
      if l.length < n then none
      else match w, parseRecords regions fuel (l.drop n) with
        | some a, some (b, e) => some (a ++ b, e)
        | _, _ => none
    let c := leNat l 0 2
    match t.toNat with
    | 0 => if l.all (· == 0) then some ([], none) else none
    | 1 => if 1 ≤ c ∧ c ≤ 500 then more (runWrites regions (leNat l 2 3) c (fun i => slice l (5 + 128 * i) 128)) (5 + 128 * c) else none
    | 2 => if 1 ≤ c ∧ c ≤ 16384 then more (runWrites regions (leNat l 2 3) c (fun _ => slice l 5 128)) 133 else none
    | 3 => if 2 ≤ c ∧ c ≤ 1024 then
             more ((upFrom 0 c).foldr (fun i acc => match acc, runWrites regions (leNat l (2 + 3 * i) 3) 1 (fun _ => slice l (2 + 3 * c) 128) with
               | some a, some b => some (b ++ a)
               | _, _ => none) (some [])) (2 + 3 * c + 128)
           else none
    | 4 => let n := ((upFrom 0 16).filter (fun w => leNat l 3 2 / 2 ^ w % 2 = 1)).length
           more (runWrites regions (leNat l 0 3) 1 (fun _ => sparseFrame (leNat l 3 2) (l.drop 5) 0 16)) (5 + 8 * n)
    | 0x7F => if 7 ≤ l.length ∧ zeroIn l 0 3 ∧ (l.drop 7).all (· == 0) then some ([], some (leNat l 3 4)) else none
    | _ => none

/-! ### The end of a load -/

/-- The staging buffers of a load given back. -/
def freeStaging (x : FrameLoad) (s : State) : State :=
  match x.staging with
  | some i => freeMot i s
  | none => s

/-- Frames of a region removed: they hold 0. -/
def blankRegion (t : Tbl Bytes) (k : Nat) : Tbl Bytes := t.filter (fun e => e.1 / 2 ^ 21 ≠ k)

/-- A load ended with an error after acceptance: LOAD_FAILS, CMD_DONE (R279); the boot chain's own load is recorded by it. -/
def endLoad (x : FrameLoad) (code : W16) (s : State) : State :=
  let c := s.frame.cfg
  let s := setCfg (freeStaging x s) { c with load := none, loadFails := satAdd c.loadFails 1, loadFailsOvf := c.loadFailsOvf || satLost c.loadFails 1 }
  match x.cmd with
  | some k => finishCmd k code [] s
  | none =>
    let b := s.boot
    setCfg { s with boot := { b with firstCode := if b.firstCode = 0 then code else b.firstCode } } { s.frame.cfg with driving := false }

/-- A failure found after the regions have been blanked (R268). -/
def failLoad (x : FrameLoad) (s : State) : State :=
  let s := x.regions.foldl (fun s k => setRegion s k { getRegion s k with state := .failed, open_ := false }) s
  let s := setCfg s { s.frame.cfg with frames := x.regions.foldl blankRegion s.frame.cfg.frames }
  endLoad x 0x4003 s

/-- Streams to a region end with ING_EOF and ING_ABORT, counted in DROPS (R274). -/
def stopStreams (ks : List Nat) (s : State) : State :=
  let stop := fun (c : Channel) =>
    if c.toRegion ∧ ks.contains c.region.toNat ∧ c.streaming then
      { ingEnd true c with discarding := true, drops := satAdd c.drops 1, dropsOvf := c.dropsOvf || satLost c.drops 1 }
    else c
  { s with frame := { s.frame with channels := Tbl.mapAll {} (fun _ c => stop c) s.frame.channels } }

/-- Regions become LOADING with blank frames (R270, R274). -/
def beginLoading (x : FrameLoad) (blank : List Nat) (s : State) : State :=
  let s := blank.foldl (fun s k => setRegion s k { getRegion s k with
    state := if x.regions.contains k then .loading else .blank, open_ := false,
    imageId := if x.regions.contains k then le64 x.header 8 else (getRegion s k).imageId }) s
  setCfg s { s.frame.cfg with load := some { x with stage := .loading }, frames := blank.foldl blankRegion s.frame.cfg.frames }

/-- A load accepted: its header is checked, its staging buffers are locked (R76; where LPDDR has no room for them they are the controller's own,
assumption log 80), and a full start or a drain begins (R270, R274). -/
def startLoad (cmd : Option CmdRef) (base size keySource mask : Nat) (part hold : Bool) (s : State) : State :=
  let h := memRead s base (min size 256)
  let x : FrameLoad := { cmd := cmd, base := base, size := size, part := part, hold := hold, header := h, key := [],
                         regions := maskRegions mask, stage := if part then .draining else .loading }
  let s := if part then s else setCfg s { s.frame.cfg with driving := true, startAt := none }
  let (c, k) := headerCheck s h size keySource mask
  if c ≠ 0 then endLoad x c s
  else
    let (s, staging) := keeperObject (2 * 65792) s
    let x := { x with key := k, staging := staging }
    if part then
      let s := x.regions.foldl (fun s k => setRegion s k { getRegion s k with state := .draining, open_ := false }) s
      stopStreams x.regions (setCfg s { s.frame.cfg with load := some x })
    else beginLoading x (upFrom 0 7) (stopStreams (upFrom 0 7) s)

/-- REGION_DRAIN_END (R274): every draining region's requests have ended, or 10 ms have passed: unanswered TGT requests are
answered 0x5003, responses still due are discarded, and the regions become LOADING. -/
def regionDrainEnd (s : State) : State :=
  match s.frame.cfg.load with
  | some x =>
    if x.stage = .draining then
      let s := x.regions.foldl (fun s k =>
        let r := getRegion s k
        (r.tgt.filter (fun q => !q.late)).foldl (fun s q => tgtAnswered k q 0x5003 [] s) (setRegion s k { r with outstanding := [], tgt := [] })) s
      beginLoading x x.regions s
    else s
  | none => s

/-- The last segment committed: HELD regions and the DONE line of a full start (R270), or regions to release (R274). -/
def loadDone (x : FrameLoad) (s : State) : State :=
  let s := if x.regions.contains 0 ∧ leNat x.header 24 4 = 0 then setCfg s { s.frame.cfg with iface := slice x.header 80 48 } else s
  let s := freeStaging x s
  if x.part then setCfg s { s.frame.cfg with load := some { x with stage := .releasing } }
  else
    let s := x.regions.foldl (fun s k => setRegion s k { getRegion s k with state := .held }) s
    let c := s.frame.cfg
    if x.hold then
      let s := setCfg s { c with load := none }
      match x.cmd with
      | some k => finishCmd k 0 (toLE 8 0) s
      | none => s
    else setCfg s { c with load := none, driving := false, startCmds := c.startCmds ++ x.cmd.toList }

/-- The bytes of the segment at an offset of the image, as far as the image object holds them: its header says how many; and whether their parcels
check (R264, R30). -/
def fetchSegment (s : State) (x : FrameLoad) (o : Nat) : Bytes × Bool :=
  let len := leNat (memRead s (x.base + o) 16) 4 4
  let n := if len % 16 ≠ 0 ∨ len < 64 ∨ 65536 < len ∨ x.size < o + len + 32 then min 16 (x.size - o) else len + 32
  (memRead s (x.base + o) n, checksOk s (x.base + o) n)

/-- A segment copied into its staging buffer (R264). -/
def stageSegment (x : FrameLoad) (i : Nat) (l : Bytes) (s : State) : State :=
  match x.staging with
  | some k => memWrite s ((getMot s k).base + 65792 * (i % 2)) l
  | none => s

/-- The controller may fetch the next segment into the other buffer while it commits this one (R268): whether it does is free. -/
def fetchAhead (y : FrameLoad) (s : State) : State :=
  if bitOf (freeW s 7) 0 then
    let l := fetchSegment s y y.offset
    let s := stageSegment y y.segment l.1 s
    setCfg s { s.frame.cfg with load := some { y with ahead := some l } }
  else setCfg s { s.frame.cfg with load := some { y with ahead := none } }

/-- The text of a segment that checks (R264), from its bytes in staging; none where it is not well formed or does not check. -/
def segmentText (x : FrameLoad) (l : Bytes) : Option Bytes :=
  let h := slice l 0 16
  let len := leNat h 4 4
  let payload := slice l 16 len
  let tag := slice l (16 + len) 16
  if l.length ≠ len + 32 ∨ len % 16 ≠ 0 ∨ len < 64 ∨ 65536 < len ∨ leNat h 0 4 ≠ x.segment ∨ ¬ zeroIn h 8 16 then none
  else if leNat x.header 6 1 = 0 then (if Config.sha384 (h ++ payload) = x.key ∧ tag.all (· == 0) then some payload else none)
  else Config.gcmOpen x.key (slice x.header 8 8 ++ toLE 4 x.segment) h payload tag

/-- SEGMENT_CHECKED (R264, R268): the segment in staging, or fetched now, is checked and its frames committed, or the load fails. -/
def segmentChecked (s : State) : State :=
  match s.frame.cfg.load with
  | some x =>
    if x.stage = .loading then
      let (l, ok) := x.ahead.getD (fetchSegment s x x.offset)
      let s := stageSegment x x.segment l s
      let plain := leNat x.header 6 1 = 0
      let last := x.segment + 1 = leNat x.header 16 4
      if ¬ ok then
        failLoad x (recordOf (checkResource s (x.base + x.offset))
          { code := 0x5001, kind := 1, flags := 1, source := keeperSrc s, address := BitVec.ofNat 64 (x.base + x.offset), action := 6 } s)
      else match segmentText x l with
        | none => failLoad x s
        | some t =>
          let body := t.take (t.length - 48)
          let trailer := t.drop (t.length - 48)
          match parseRecords x.regions (body.length + 1) body with
          | none => failLoad x s
          | some (ws, fin) =>
            let n := x.writes + ws.length
            let frames := leNat x.header 20 4
            if frames < n ∨ (last ∧ (fin ≠ some frames ∨ n ≠ frames ∨ ¬ trailer.all (· == 0))) ∨ (¬ last ∧ fin ≠ none)
               ∨ (¬ plain ∧ ¬ zeroIn trailer 32 48) then failLoad x s
            else
              let c := s.frame.cfg
              let s := setCfg s { c with frames := ws.foldl (fun t w => Tbl.set (zeros 128) t w.1 w.2) c.frames }
              let y := { x with segment := x.segment + 1, offset := x.offset + l.length, writes := n, ahead := none,
                                key := if plain then trailer else trailer.take 32 }
              if last then loadDone y s else fetchAhead y s
    else s
  | none => s

def execSegmentChecked (s : State) : Host.Outcome State Fault Refusal := inRange true (segmentChecked s)

/-- REGION_RESET_RELEASE (R274): 1 ms after the last commit the regions of a partial load run. -/
def regionResetRelease (s : State) : State :=
  match s.frame.cfg.load with
  | some x =>
    if x.stage = .releasing then
      let s := x.regions.foldl (fun s k => setRegion s k { getRegion s k with state := .running, open_ := true }) s
      let s := setCfg s { s.frame.cfg with load := none }
      match x.cmd with
      | some k => finishCmd k 0 (toLE 8 s.swarm.time.toNat) s
      | none => s
    else s
  | none => s

def execRegionResetRelease (s : State) : Host.Outcome State Fault Refusal := inRange true (regionResetRelease s)

/-- Whether a region is HELD and the die has released FRAME_DONE (R272). -/
def heldReleased (s : State) : Bool :=
  !s.frame.cfg.driving && (upFrom 0 7).any (fun k => (getRegion s k).state == .held)

/-- A HELD and released die armed for S (R272). -/
def armStart (t : W64) (s : State) : State := if heldReleased s then setCfg s { s.frame.cfg with startAt := some t } else s

/-- S chosen and sent to every member's Keeper, this one among them (R272). -/
def sendStart (t : W64) (s : State) : State := armStart t (setCfg s { s.frame.cfg with sentStart := some t })

/-- FRAME_DONE_SAMPLE (R272): the tick's sample. On two high samples the coordinator chooses S, 5,000,000 ns ahead, unless one that it has
sent is still to come. -/
def frameDoneSample (x : DoneSample) (s : State) : State :=
  let c := s.frame.cfg
  let n := if x.line then c.highSamples + 1 else 0
  let s := setCfg s { c with doneLine := x.line, highSamples := n }
  if s.swarm.coordinator = s.swarm.node then
    match c.sentStart.filter (fun t => s.swarm.time.toNat < t.toNat) with
    | some t => if x.late then sendStart (t + 5000000) s else s
    | none => if 2 ≤ n ∧ (heldReleased s ∨ x.others) then sendStart (s.swarm.time + 5000000) s else s
  else match x.named with
    | none => s
    | some t =>
      if t.toNat < s.swarm.time.toNat + 1000000 then setCfg s { s.frame.cfg with toldLate := true }
      else armStart t (setCfg s { s.frame.cfg with toldLate := false })

def execFrameDoneSample (x : DoneSample) (s : State) : Host.Outcome State Fault Refusal :=
  inRange true (frameDoneSample x s)

/-- FRAME_DONE_START (R272): at S every HELD region starts, and the commands that wait report S. -/
def frameDoneStart (s : State) : State :=
  match s.frame.cfg.startAt with
  | some t =>
    if t.toNat ≤ s.swarm.time.toNat ∧ heldReleased s then
      let s := (upFrom 0 7).foldl (fun s k =>
        let r := getRegion s k
        if r.state = .held then setRegion s k { r with state := .running, open_ := true } else s) s
      let c := s.frame.cfg
      let s := setCfg s { c with startAt := none, startCmds := [], startRequest := none, highSamples := 0 }
      (c.startCmds ++ c.startRequest.toList).foldl (fun s k => finishCmd k 0 (toLE 8 t.toNat) s) s
    else s
  | none => s

def execFrameDoneStart (s : State) : Host.Outcome State Fault Refusal := inRange true (frameDoneStart s)

/-- START_REQUEST_TIMEOUT (R273): the die drives the line low again and stays HELD; the request ends with 0x2001. -/
def startRequestTimeout (s : State) : State :=
  match s.frame.cfg.startRequest with
  | some k =>
    finishCmd k 0x2001 [] (setCfg s { s.frame.cfg with startRequest := none, driving := true, startAt := none })
  | none => s

def execStartRequestTimeout (s : State) : Host.Outcome State Fault Refusal := inRange true (startRequestTimeout s)

end Sys2Proof.Machine
end

