-- ==== Sys2Proof/Machine/Boot.lean ====
section
/-! DEFINITION. Boot, identity and field update (chapter 13): option area, manifest, boot chain, partitions, recovery. -/

namespace Sys2Proof.Machine

/-! ### The option area (R317-R319, R328) -/

/-- Protection entry `n` (R316). -/
def parseProtect (l : Bytes) (n : Nat) : Protect :=
  let o := 256 + 8 * n
  { first := leNat l o 2, count := leNat l (o + 2) 2, owner := leNat l (o + 4) 1, noAuto := bitOf (byteAt l (o + 5)) 0 }

/-- Partition entry `n` (R328). -/
def parsePart (l : Bytes) (n : Nat) : PartEntry :=
  let o := 512 + 24 * n
  let f := byteAt l (o + 3)
  { cores := le16 l o, die := leNat l (o + 2) 1, present := bitOf f 0, start := bitOf f 1, restart := bitOf f 2,
    component := leNat l (o + 4) 1, base := leNat l (o + 8) 8, sizeMib := leNat l (o + 16) 4, entry := leNat l (o + 20) 4 }

/-- An option copy's fields. -/
def parseOption (l : Bytes) (copy : BitVec 2) (v0 v1 : Bool) : OptionArea :=
  { copy := copy, valid0 := v0, valid1 := v1, sequence := le16 l 6, ownerSource := le32 l 8, swarmSize := leNat l 12 1,
    activeSlot := bitOf (byteAt l 13) 0, trial := bitOf (byteAt l 13) 1, frameKeyDigest := slice l 16 48,
    firmwareKeyDigest := slice l 64 48, protect := (upFrom 0 32).map (parseProtect l), parts := (upFrom 0 16).map (parsePart l),
    frameComponent := leNat l 896 1, frameKeySource := byteAt l 897, frameHold := bitOf (byteAt l 898) 0,
    trialAttempts := leNat l 899 1, norMib := leNat l 900 2, norA := leNat l 902 2, norB := leNat l 904 2,
    lpddrGib := (upFrom 908 4).map (fun i => leNat l i 1), raw := l }

/-- Whether an option copy is valid by content (R318). -/
def optionOk (l : Bytes) : Bool :=
  leNat l 0 4 == 0x54504F5A && leNat l 4 2 == 1 && crc32c (slice l 0 4092) == le32 l 4092 && 1 ≤ leNat l 12 1 && leNat l 12 1 ≤ 4

/-- The loader's choice of copy (R318): the newer valid one, or the defaults. -/
def loadOption (s : State) : OptionArea :=
  let l0 := flashBytes s true 0 4096
  let l1 := flashBytes s true (2 ^ 15) 4096
  let v0 := optionOk l0 && sectorState s (infoSector 0) != 1
  let v1 := optionOk l1 && sectorState s (infoSector 1) != 1
  let d := (le16 l1 6 - le16 l0 6).toNat
  if v1 ∧ (¬ v0 ∨ (1 ≤ d ∧ d ≤ 32767)) then parseOption l1 1 v0 v1
  else if v0 then parseOption l0 0 v0 v1
  else { copy := 3, valid0 := v0, valid1 := v1, ownerSource := mkSrc s.swarm.node 5 3 0 0 }

/-- An option copy's bytes with SEQUENCE, BOOT and CRC set. -/
def optionImage (l : Bytes) (seq : W16) (slot trial : Bool) : Bytes :=
  let b := patch (patch (slice l 0 4092) 6 (toLE 2 seq.toNat)) 13 [BitVec.ofNat 8 (b2n slot + 2 * b2n trial)]
  b ++ toLE 4 (crc32c b).toNat

/-- An option copy rewritten in info sector 0 of a bank (R319): its sector erased, with START and DONE in the bank's journal, and programmed. -/
def writeOption (copy : Nat) (l : Bytes) (s : State) : State :=
  flashPut (eraseInfoDone copy (journal copy true (infoSector copy) s)) true (2 ^ 15 * copy) l

/-! ### Manifest and components (R320-R322) -/

/-- A component entry (R321). -/
structure Component where
  kind : Nat
  nor : Bool
  offset : Nat
  length : Nat
  digest : Bytes

/-- The component entries of a manifest. -/
def components (m : Bytes) : List Component :=
  (upFrom 0 (min 16 (leNat m 20 1))).map (fun i =>
    let o := 256 + 64 * i
    { kind := leNat m o 1, nor := leNat m (o + 1) 1 == 1, offset := leNat m (o + 4) 4, length := leNat m (o + 8) 4,
      digest := slice m (o + 16) 48 })

/-- Bytes of a slot area (R301). -/
def slotBytes : Nat := 1920 * 4096

/-- Whether an entry meets R321 on its own. -/
def componentOk (s : State) (m : Bytes) (i : Nat) (c : Component) : Bool :=
  let o := 256 + 64 * i
  zeroIn m (o + 2) (o + 4) && zeroIn m (o + 12) (o + 16) && leNat m (o + 1) 1 ≤ 1 && c.offset % 4096 == 0
  && (c.nor || 4096 ≤ c.offset) && c.offset + c.length ≤ (if c.nor then s.boot.opt.norMib * 2 ^ 20 else slotBytes)
  && (match c.kind with
      | 1 => !c.nor && 4096 ≤ c.length && c.length ≤ 320 * 1024
      | 2 => !c.nor && 4096 ≤ c.length && c.length ≤ 128 * 1024
      | 3 => true
      | 4 => true
      | 5 => !c.nor && c.length == 4096
      | _ => false)

/-- The anti-rollback counter (R326): the number of bits set. -/
def fuseCounter (s : State) : Nat := Tbl.count (Tbl.get {} s.test.fuses 4).bits (fun _ b => b)

/-- Whether a manifest is valid (R320) under a key digest, with SECURITY_VERSION at least `low`. -/
def manifestOk (s : State) (low : Nat) (keyDigest m : Bytes) : Bool :=
  let cs := components m
  let n := leNat m 20 1
  let once := fun k => decide ((cs.filter (fun c => c.kind == k)).length ≤ 1)
  leNat m 0 4 == 0x4E414D5A && leNat m 4 2 == 1 && Config.sha384 (slice m 1280 96) == keyDigest && !keyDigest.all (· == 0)
  && Config.ecdsaVerify (slice m 1280 96) (slice m 0 1376) (slice m 1376 96)
  && low ≤ leNat m 8 4 && leNat m 8 4 ≤ 64 && 1 ≤ n && n ≤ 16
  && (upFrom 0 n).all (fun i => match cs[i]? with
      | some c => componentOk s m i c
      | none => false)
  && zeroIn m (256 + 64 * n) 1280 && once 1 && once 2 && once 4 && once 5
  && (upFrom 0 n).all (fun i => (upFrom 0 n).all (fun j => match cs[i]?, cs[j]? with
      | some a, some b => i == j || a.nor != b.nor || !overlaps a.offset a.length b.offset b.length
      | _, _ => true))

/-- Whether a manifest is valid (R320) under a key digest. -/
def manifestValid (s : State) (keyDigest m : Bytes) : Bool := manifestOk s (fuseCounter s) keyDigest m

/-- The manifest of a slot (its first 1,472 bytes). -/
def slotManifest (s : State) (slot : Bool) : Bytes := flashBytes s false (2 ^ 23 * b2n slot) 1472

/-- Bytes of the serial NOR; not listed reads 0xFF. -/
def norBytes (s : State) (a n : Nat) : Bytes := (upFrom a n).map (Tbl.get 0xFF s.boot.nor)

/-- The copy of a component of a slot. -/
def componentCopy (s : State) (slot : Bool) (c : Component) : Bytes :=
  if c.nor then norBytes s ((if slot then s.boot.opt.norB else s.boot.opt.norA) * 2 ^ 20 + c.offset) c.length
  else flashBytes s false (2 ^ 23 * b2n slot + c.offset) c.length

/-- Whether a component's copy matches its digest (R323). -/
def copyOk (s : State) (slot : Bool) (c : Component) : Bool := Config.sha384 (componentCopy s slot c) == c.digest

/-- A slot is usable (R322). -/
def slotUsable (s : State) (slot : Bool) : Bool :=
  let m := slotManifest s slot
  manifestValid s s.boot.opt.firmwareKeyDigest m
  && (match (components m).find? (fun c => c.kind == 1) with
      | some c => copyOk s slot c
      | none => false)
  && (upFrom (2048 * b2n slot) 1920).all (fun g => sectorState s g != 1 && sectorState s g != 2)

/-- A slot is complete (R322), but that its SECURITY_VERSION may be any from `low` on. -/
def slotCompleteFrom (s : State) (low : Nat) (slot : Bool) : Bool :=
  let m := slotManifest s slot
  manifestOk s low s.boot.opt.firmwareKeyDigest m && (components m).all (fun c => c.nor || copyOk s slot c)

/-! ### Settings in force (R339, R340) -/

/-- The setting record of an id. -/
def settingOf (s : State) (id : Nat) : Option Setting := (s.boot.settings.find? (fun e => e.1 == id)).map (·.2)

/-- FORMAT, LENGTH and default of the settings of line 3.2. -/
def settingDefault (id : Nat) : Option (Byte × Bytes) :=
  if id = 1 then some (1, [0xFF, 0xFF]) else if id = 2 then some (1, [1]) else none

/-- The value in force of a setting that line 3.2 defines. -/
def settingValue (s : State) (id : Nat) : Bytes :=
  match settingOf s id, settingDefault id with
  | some r, some (f, d) => if r.format = f then r.value else d
  | _, some (_, d) => d
  | _, none => []

/-- A record appended to the data area (R339). -/
def putSetting (id : Nat) (format : Byte) (value : Bytes) (s : State) : State :=
  let b := s.boot
  { s with boot := { b with settings := (id, { format := format, value := value, seq := b.settingSeq }) :: b.settings.filter (fun e => e.1 ≠ id),
                            settingSeq := b.settingSeq + 1 } }

/-- The migration of a Keeper start (R340): records of another FORMAT are replaced by defaults and listed. -/
def migrate (s : State) : State :=
  let l := (s.boot.settings.filter (fun e => match settingDefault e.1 with
    | some (f, _) => e.2.format != f
    | none => false)).map (·.1)
  let s := l.foldl (fun s id => match settingDefault id with
    | some (f, d) => putSetting id f d s
    | none => s) s
  if l = [] then s
  else { s with boot := { s.boot with migration := l, migrationSeq := s.boot.opt.sequence, settingsReset := satAdd s.boot.settingsReset l.length,
                                      settingsOvf := s.boot.settingsOvf || satLost s.boot.settingsReset l.length } }

/-! ### Partitions (R327-R330) -/

/-- Whether a present partition is startable (R329). -/
def startable (s : State) (n : Nat) : Bool :=
  let ps := s.boot.opt.parts
  let p := ps.getD n {}
  let others := (upFrom 0 16).filter (fun i => i ≠ n && (ps.getD i {}).present)
  p.cores != 0 && p.die < 4 && others.all (fun i => (ps.getD i {}).cores &&& p.cores == 0)
  && p.base % 2 ^ 21 == 0 && p.base + p.sizeMib * 2 ^ 20 ≤ capacity s p.die / 64 * 63
  && others.all (fun i => let q := ps.getD i {}
      q.die != p.die || !overlaps p.base (p.sizeMib * 2 ^ 20) q.base (q.sizeMib * 2 ^ 20))
  && (match (components (slotManifest s s.boot.slot))[p.component]? with
      | some c => c.kind == 3 && c.length ≤ p.sizeMib * 2 ^ 20 && p.entry < c.length
      | none => false)

/-- A failed component (R327): FIRST_CODE, and a fault record. -/
def bootFail (code : W16) (s : State) : State :=
  let s := { s with boot := { s.boot with firstCode := if s.boot.firstCode = 0 then code else s.boot.firstCode } }
  systemFault { code := code, kind := 5, source := keeperSrc s, action := 6 } s

/-- The partition's source id in the stamp register of every one of its cores (R174), and BASE + ENTRY in its reset vector (R324). -/
def stampCores (n : Nat) (s : State) : State :=
  let p := s.boot.opt.parts.getD n {}
  let cores := (upFrom 0 16).filter (bitOf p.cores)
  { s with boot := { s.boot with
      stamps := cores.foldl (fun t i => Tbl.set 0 t i (partSrc s n)) s.boot.stamps,
      resetVectors := cores.foldl (fun t i => Tbl.set 0 t i (BitVec.ofNat 48 (here s p.die (p.base + p.entry)))) s.boot.resetVectors } }

/-- Step 8 for one partition: its image copied into its carve-out, checked, its cores stamped and released. -/
def startPartition (n : Nat) (s : State) : State :=
  let p := s.boot.opt.parts.getD n {}
  let fail := fun (code : W16) (s : State) =>
    bootFail code { s with boot := { s.boot with failed := setBit s.boot.failed n true } }
  if ¬ p.present then s
  else if ¬ startable s n then fail 0x1006 s
  else if ¬ p.start ∨ ¬ bitOf (le16 (settingValue s 1) 0) n then s
  else match (components (slotManifest s s.boot.slot))[p.component]? with
    | some c =>
      if copyOk s s.boot.slot c then
        let s := stampCores n (memWrite s (here s p.die p.base) (componentCopy s s.boot.slot c))
        { s with boot := { s.boot with started := setBit s.boot.started n true } }
      else fail 0x4003 s
    | none => s

/-- Partitions with a core on a recovered die (R330): held in reset, and started again where RESTART is 1. -/
def restartPartitions (d : Nat) (s : State) : State :=
  (upFrom 0 16).foldl (fun s n =>
    let p := s.boot.opt.parts.getD n {}
    if bitOf s.boot.started n ∧ (upFrom 0 4).any (fun k => bitOf p.cores (4 * d + k)) then
      let s := { s with boot := { s.boot with started := setBit s.boot.started n false } }
      if p.restart then startPartition n s else s
    else s) s

def execDieRecovery (die : Nat) (refreshOk : Bool) (failing : List Nat) (s : State) : Host.Outcome State Fault Refusal :=
  inRange (decide (die < 5))
    (when (decide ((getDie s die).state = .recovering ∧ (getDie (dieRecovery die refreshOk failing s) die).state ≠ .recovering ∧ die < 4))
      (restartPartitions die) (dieRecovery die refreshOk failing s))

/-! ### Package reset -/

/-- The bound mailboxes of package reset (R32, R46): 0 the Owner, 1 the safety island. -/
def bindMailboxes (s : State) : State :=
  let owner := (s.boot.opt.ownerSource &&& ~~~3) ||| BitVec.ofNat 32 s.swarm.node
  let s := setMbx s 0 { bound := some owner, groups := BitVec.allOnes 64, quota := 256, mask := BitVec.allOnes 64 }
  setMbx s 1 { bound := some (mkSrc s.swarm.node 5 1 0 0), groups := 0, quota := 0 }

/-- Package reset of every domain except 56: flash, fuses, NOR, the always-on domain, records of the data area, the HM1s and
the waiting commands stay (assumption log 25). The staged blocks of the package return to the values and generation that their ledgers give for
reset, where R62 can be read to keep those in force (DESIGN CHOICE, assumption log 79). -/
def packageReset (s : State) : State :=
  let r := State.reset
  let fl := s.flash
  let b := s.boot
  { r with
    keeper := { r.keeper with mbx := [] },
    swarm := { r.swarm with node := s.swarm.node, coordinator := s.swarm.node, members := BitVec.ofNat 4 (2 ^ s.swarm.node) },
    faults := { r.faults with retired := s.faults.retired },
    flash := { r.flash with main := fl.main, info := fl.info, erases := fl.erases, started := fl.started, journalSeq := fl.journalSeq,
                            banks := Tbl.mapAll {} (fun _ x => { journalPos := x.journalPos }) fl.banks },
    boot := { r.boot with bootLog := b.bootLog, settings := b.settings, settingSeq := b.settingSeq, migration := b.migration,
                          nor := b.nor, keyRam := b.keyRam, installed := b.installed, signatures := b.signatures, migrationSeq := b.migrationSeq },
    power := { r.power with wakeEnable := s.power.wakeEnable, wakeCause := s.power.wakeCause, rtc := s.power.rtc,
                            rtcFrac := s.power.rtcFrac, rtcResidue := s.power.rtcResidue, alarm := s.power.alarm, vbat := s.power.vbat,
                            volts := s.power.volts, perst := s.power.perst, wakePin := s.power.wakePin, wakeHeld := s.power.wakeHeld,
                            turnOff := s.power.turnOff && s.power.perst },
    holmi := { s.holmi with pkg := [], relays := [], seen := [],
                            hm1 := Tbl.mapAll {} (fun _ h => { h with met := { h.met with calHeld := none, tarHeld := none } }) s.holmi.hm1 },
    test := { r.test with fuses := s.test.fuses, counters := s.test.saved, ovf := s.test.savedOvf, saved := s.test.saved,
                          savedOvf := s.test.savedOvf, tjHigh := s.test.savedHigh, tjLow := s.test.savedLow,
                          savedHigh := s.test.savedHigh, savedLow := s.test.savedLow },
    free := s.free, pending := s.pending }

/-- PACKAGE_RESET (R348): reset released; the node strap (R19) and RECOVERY_REQ# are sampled. -/
def releaseReset (strap : BitVec 2) (recoveryLow : Bool) (s : State) : State :=
  let s := { s with swarm := { s.swarm with node := strap.toNat } }
  let s := packageReset s
  bindMailboxes { s with boot := { s.boot with strapLow := recoveryLow } }

def execPackageReset (strap : BitVec 2) (recoveryLow : Bool) (s : State) : Host.Outcome State Fault Refusal :=
  inRange true (when (s.power.vbat && s.power.pwrEn && !s.power.tripped && !s.power.browned) (releaseReset strap recoveryLow) s)

/-! ### Recovery mode (R341, R342) -/

/-- A bundle of slot layout verified (R341): the manifest valid, with an OPTION component, and its slot components matching. -/
def bundleCheck (s : State) (rd : Nat → Nat → Bytes) : W16 :=
  let m := rd 0 1472
  let key := if s.boot.opt.copy = 3 then fuseBytes s 2 48 else s.boot.opt.firmwareKeyDigest
  let cs := components m
  if leNat m 0 4 = 0x4E414D5A ∧ leNat m 8 4 < fuseCounter s then 0x4004
  else if manifestValid s key m ∧ cs.any (fun c => c.kind == 5)
     ∧ cs.all (fun c => c.nor || Config.sha384 (rd c.offset c.length) == c.digest) then 0
  else 0x4003

/-- Both option copies written from a bundle's OPTION component, with ACTIVE_SLOT 0 and TRIAL 0. -/
def installOption (rd : Nat → Nat → Bytes) (s : State) : State :=
  match (components (rd 0 1472)).find? (fun c => c.kind == 5) with
  | some c =>
    let l := rd c.offset 4096
    let img := optionImage l (le16 l 6) false false
    let s := writeOption 1 img (writeOption 0 img s)
    { s with boot := { s.boot with installed := true } }
  | none => s

/-- Slot area A erased with its journal entries (R342): the journal of bank 0 begins anew with the START entries of its other sectors. -/
def eraseSlotA (s : State) : State :=
  let f := s.flash
  let keep := fun (g : Nat) => decide (1920 ≤ g)
  let s := { s with flash := { f with
      main := wipe f.main 0 slotBytes, started := f.started.filter (fun e => keep e.1), sectors := f.sectors.filter (fun e => keep e.1),
      erases := (upFrom 0 1920).foldl (fun t g => Tbl.set 0 t g (satAdd (Tbl.get 0 t g) 1)) f.erases } }
  let s := setBank (flashWipe (flashWipe s true 4096) true 8192) 0 { getBank s 0 with journalPos := 0 }
  (s.flash.started.filter (fun e => e.2 && sectorBank e.1 == 0)).foldl (fun s e => journalPut 0 true e.1 s) s

/-- Recovery mode entered: a valid bundle in NOR is installed at once and the part resets (R341). -/
def enterRecovery (reason : Nat) (s : State) : State :=
  let rd := norBytes s
  if s.boot.opt.norMib ≠ 0 ∧ bundleCheck s rd = 0 then
    let s := flashPut (eraseSlotA s) false 0 (rd 0 slotBytes)
    releaseReset (BitVec.ofNat 2 s.swarm.node) false (installOption rd s)
  else { s with boot := { s.boot with recovery := some reason } }

/-- An answer of the recovery protocol (R342). -/
def recoveryFrame (typ : Byte) (status : W16) (l : Bytes) : Bytes :=
  let h := [0x5A, typ] ++ toLE 2 (2 + l.length) ++ toLE 2 status.toNat ++ l
  h ++ toLE 4 (crc32c h).toNat

/-- A recovery message whose check holds: its type and payload. -/
def recoveryMsg (msg : Bytes) : Option (Nat × Bytes) :=
  let n := leNat msg 2 2
  if byteAt msg 0 = 0x5A ∧ msg.length = n + 8 ∧ n ≤ 4104 ∧ crc32c (msg.take (n + 4)) = le32 msg (n + 4)
  then some ((byteAt msg 1).toNat, slice msg 4 n) else none

/-- An answer given. -/
def recoveryAnswer (typ : Nat) (status : W16) (l : Bytes) (s : State) : State :=
  { s with boot := { s.boot with recoveryAnswer := recoveryFrame (BitVec.ofNat 8 typ) status l } }

/-- A recovery message of type `typ` acted on by `f`, in recovery mode; a type that R342 does not list is answered 0x1001, and
a message of another listed type is left to its own command (assumption log 26). -/
def onRecovery (typ : Nat) (msg : Bytes) (f : Bytes → State → State) (s : State) : State :=
  match s.boot.recovery, recoveryMsg msg with
  | some _, some (t, l) => if t = typ then f l s else if t = 0 ∨ 5 < t then recoveryAnswer t 0x1001 [] s else s
  | _, _ => s

/-- RECOVERY_HELLO: serial number, silicon revision, counter, reason (assumption log 26 on the field widths). -/
def recoveryHello (_ : Bytes) (s : State) : State :=
  recoveryAnswer 1 0 (slice (Config.productionBytes 0 0) 0 16 ++ toLE 2 (Config.productionWord 0).toNat ++ toLE 4 (fuseCounter s)
    ++ [BitVec.ofNat 8 (s.boot.recovery.getD 0)]) s

def execRecoveryHello (msg : Bytes) (s : State) : Host.Outcome State Fault Refusal := inRange true (onRecovery 1 msg recoveryHello s)

def execRecoveryErase (msg : Bytes) (s : State) : Host.Outcome State Fault Refusal :=
  inRange true (onRecovery 2 msg (fun _ s => recoveryAnswer 2 0 [] (eraseSlotA s)) s)

/-- RECOVERY_WRITE: offset and data, multiples of 32, into erased units of slot A. -/
def recoveryWrite (l : Bytes) (s : State) : State :=
  let off := leNat l 0 4
  let d := l.drop 4
  if l.length < 4 ∨ d.length < 32 ∨ 4096 < d.length then recoveryAnswer 3 0x1002 [] s
  else if off % 32 ≠ 0 ∨ d.length % 32 ≠ 0 then recoveryAnswer 3 0x100A [] s
  else if slotBytes < off + d.length then recoveryAnswer 3 0x1006 [] s
  else if (flashBytes s false off d.length).any (· != 0xFF) then recoveryAnswer 3 0x2001 [] s
  else recoveryAnswer 3 0 [] (flashPut s false off d)

def execRecoveryWrite (msg : Bytes) (s : State) : Host.Outcome State Fault Refusal := inRange true (onRecovery 3 msg recoveryWrite s)

/-- RECOVERY_INSTALL: slot A verified as a bundle. -/
def recoveryInstall (_ : Bytes) (s : State) : State :=
  let rd := fun off n => flashBytes s false off n
  let c := bundleCheck s rd
  recoveryAnswer 4 c [] (if c = 0 then installOption rd s else s)

def execRecoveryInstall (msg : Bytes) (s : State) : Host.Outcome State Fault Refusal := inRange true (onRecovery 4 msg recoveryInstall s)

def execRecoveryReset (msg : Bytes) (s : State) : Host.Outcome State Fault Refusal :=
  inRange true (onRecovery 5 msg (fun _ s => recoveryAnswer 5 0 [] (releaseReset (BitVec.ofNat 2 s.swarm.node) s.boot.strapLow s)) s)

/-! ### The boot chain (R324-R327) -/

/-- Step 1: sector states rebuilt from journal and counts (R313), and the option area loaded (R318). -/
def bootLoader (s : State) : State :=
  let f := s.flash
  let worn := f.erases.foldl (fun t e => if rating e.1 ≤ e.2.toNat then Tbl.set 0 t e.1 3 else t) ([] : Tbl (BitVec 2))
  let secs := f.started.foldl (fun t e => if e.2 then Tbl.set 0 t e.1 1 else t) worn
  let s := { s with flash := { f with sectors := secs } }
  bindMailboxes { s with boot := { s.boot with opt := loadOption s, step := 1 } }

/-- Trial count of R325 for a slot. -/
def trialCount (s : State) (slot : Bool) : Nat :=
  (s.boot.bootLog.filter (fun e => e.1 == s.boot.opt.sequence && e.2.1 == slot)).length

/-- Whether the ROM can program its unit of the boot log (R325): a sector of the log is neither INDETERMINATE nor FAULT. -/
def bootLogOpen (s : State) : Bool := [1984, 1985].any (fun g => sectorState s g != 1 && sectorState s g != 2)

/-- The slot to boot, and ROLLED_BACK (R325); none when neither is usable. A trial slot is not booted without its unit in the boot log. -/
def chooseSlot (s : State) : Option (Bool × Bool) :=
  let o := s.boot.opt
  let spent := o.trial && (o.trialAttempts ≤ trialCount s o.activeSlot || !bootLogOpen s)
  let c := if spent then !o.activeSlot else o.activeSlot
  if slotUsable s c then some (c, spent)
  else if slotUsable s (!c) ∧ ¬ (o.trial ∧ (!c) = o.activeSlot ∧ ¬ bootLogOpen s) then some (!c, true)
  else none

/-- Fuse bits burned until the counter reaches a version (R326). -/
def burnCounter (v : Nat) (s : State) : State :=
  let f := Tbl.get {} s.test.fuses 4
  let n := fuseCounter s
  let clear := (upFrom 0 64).filter (fun i => !Tbl.get false f.bits i)
  let f' := { f with bits := (clear.take (v - n)).foldl (fun t i => Tbl.set false t i true) f.bits }
  { s with test := { s.test with fuses := Tbl.set {} s.test.fuses 4 f' } }

/-- Steps 2 and 3 for the chosen slot: the manifest and KEEPER verified and copied, the boot log, the counter, the keys. -/
def bootKeeper (slot rolled : Bool) (s : State) : State :=
  let m := slotManifest s slot
  let o := s.boot.opt
  let trial := o.trial && slot == o.activeSlot
  let n := trialCount s slot + 1
  let s := match (components m).find? (fun c => c.kind == 1) with
    | some c => memWrite { s with boot := { s.boot with keeperDigest := c.digest } } (here s 5 0x00800010000) (componentCopy s slot c)
    | none => s
  let s := if trial then s else burnCounter (leNat m 8 4) s
  { s with
    boot := { s.boot with
      step := 3, slot := slot, trial := trial, rolledBack := rolled, recovered := s.boot.installed, installed := false,
      attempt := if trial then BitVec.ofNat 3 n else 0, running := BitVec.ofNat 7 (leNat m 8 4),
      manifestDigest := Config.sha384 m, bootLog := if bootLogOpen s then s.boot.bootLog ++ [(o.sequence, slot, n)] else s.boot.bootLog },
    flash := { s.flash with romPhase := false } }

/-- Step 4: SAFETY verified and the island released with its parameter set (R324, R327, R367). -/
def bootSafety (s : State) : State :=
  let s := match (components (slotManifest s s.boot.slot)).find? (fun c => c.kind == 2) with
    | some c =>
      let l := componentCopy s s.boot.slot c
      if copyOk s s.boot.slot c ∧ Config.ecdsaVerify s.boot.opt.firmwareKeyDigest l [] then
        { s with boot := { s.boot with safetyDigest := c.digest },
                 island := { s.island with released := true, image := l.drop (l.length - 4096) } }
      else s
    | none => s
  { s with boot := { s.boot with step := 4 } }

/-- Domains after package start (R345, R347): the compute domains CLOSED and every other UP; wake-on-access for cell groups,
select engines, memories and tile groups. -/
def startDomain (d : Nat) : Domain :=
  let compute := (d < 48 && d % 12 ≤ 8) || d == 54 || d == 55
  { state := if compute then .closed else .up, woa := compute || (d < 48 && d % 12 == 10) }

/-- Steps 5 and 6: dies and links up, the units of the closed compute domains GATED, LPDDR5X zeroed with valid checks, WAKE_CAUSE, and the sectors that R313 erases again. -/
def bootDies (s : State) : State :=
  let lp := fun (a : Nat) => decide (addrDie a < 4 ∧ addrLoc a < 0x00800000000)
  let dies := (upFrom 0 5).foldl (fun t d =>
    Tbl.set {} t d { state := if isRetired s 4 (s.swarm.node * 6 + d) then .retired else .inService }) ([] : Tbl Die)
  let s := { s with
    net := { s.net with doms := (upFrom 0 64).foldl (fun t d => Tbl.set {} t d (startDomain d)) [] },
    faults := { s.faults with dies := dies },
    mem := { bytes := s.mem.bytes.filter (fun e => !lp e.1), bad := s.mem.bad.filter (fun e => !lp (256 * e.1)) },
    cmp := { s.cmp with cells := (upFrom 0 128).map (fun i => (i, { state := .gated })), engines := (upFrom 0 32).map (fun i => (i, { state := .gated })),
                        tiles := (upFrom 0 96).map (fun i => (i, { state := .gated })) },
    power := { s.power with pkg := .ready },
    boot := { s.boot with step := 6 } }
  let s := (upFrom 0 6).foldl (fun s p =>
    bringUp p (setSlink s p { getSlink s p with retired := isRetired s 6 (s.swarm.node * 6 + p) })) (migrate (settlePlls s))
  let s := broadcast 0xE005 [3, 0xFF, 0] s
  let s : State := sendWakeCause [0, 1] true s
  let s : State := if s.swarm.node < s.boot.opt.swarmSize then s
    else systemFault { code := 0x1006, kind := 5, source := keeperSrc s, action := 6 } s
  let l := (s.flash.sectors.filter (fun e => e.2 == 1 && e.1 < 4096)).map (·.1)
  let s := l.foldl (fun s g => sectorEvent g 1 s) s
  (l.filter (fun g => sectorOwner s g == 1)).foldl (fun s g => sectorEvent g 0 (eraseNow g s)) s

/-- Segments of the boot load, one after another. -/
def loadAll : Nat → State → State
  | 0, s => s
  | n + 1, s => if s.frame.cfg.load.isSome then loadAll n (segmentChecked s) else s

/-- Step 7: the frame image loaded as a full start, or FRAME_DONE released where there is none (R271, R327). -/
def bootFrame (s : State) : State :=
  let release := fun (s : State) => setCfg s { s.frame.cfg with driving := false }
  let o := s.boot.opt
  let s :=
    if (settingValue s 2).head? = some 0 then release s
    else match (components (slotManifest s s.boot.slot))[o.frameComponent]? with
      | some c =>
        if c.kind = 4 ∧ o.frameComponent ≠ 0xFF then
          if copyOk s s.boot.slot c then
            match keeperCopy (componentCopy s s.boot.slot c) s with
            | (s, some i) =>
              let e := getMot s i
              let s := loadAll 4096 (startLoad none e.base e.imageBytes o.frameKeySource.toNat (leNat (memRead s e.base 8) 7 1) false o.frameHold s)
              freeMot i s
            | (s, none) => release (bootFail 0x3005 s)
          else release (bootFail 0x4003 s)
        else release s
      | none => release s
  { s with boot := { s.boot with step := 7 } }

/-- Step 8: the partitions. -/
def bootParts (s : State) : State :=
  let s := (upFrom 0 16).foldl (fun s n => startPartition n s) s
  { s with boot := { s.boot with step := 8 } }

/-- Whether any sensor reads below −40 °C (R361), in 0.5 °C steps. -/
def tooCold (s : State) : Bool := (upFrom 0 6).any (fun d => decide ((Tbl.get (0 : W16) s.power.tj d).toInt < -80))

/-- BOOT_CHAIN (R324): the steps after a package reset; the ROM waits at step 2 while a sensor is below −40 °C. -/
def bootChain (s : State) : State :=
  if 1 < s.boot.step.toNat ∨ s.boot.recovery.isSome ∨ s.power.resetHeld then s
  else
    let s := bootLoader s
    if tooCold s then s
    else
      let s := { s with boot := { s.boot with step := 2 } }
      if s.boot.opt.copy = 3 then enterRecovery 1 s
      else if s.boot.strapLow then enterRecovery 3 s
      else match chooseSlot s with
        | none => enterRecovery 2 s
        | some (slot, rolled) =>
          lifeCount 7 (bootParts (bootFrame (bootDies (bootSafety (bootKeeper slot rolled s)))))

def execBootChain (s : State) : Host.Outcome State Fault Refusal := inRange true (bootChain s)

end Sys2Proof.Machine
end

