-- ==== Sys2Proof/Machine/Island.lean ====
section
/-! DEFINITION. The safety island (chapter 15): parameter set, inputs, functions, output pairs, black channel. -/

namespace Sys2Proof.Machine

/-! ### The parameter set (R367-R371) -/

/-- Input record `i` (R368). -/
def inputParam (p : Bytes) (i : Nat) : InputParam :=
  { tp := leNat p (16 + 8 * i) 1, filter := leNat p (17 + 8 * i) 1, ossd := bitOf (byteAt p (18 + 8 * i)) 0 }

/-- Function record `f` (R369). -/
def funcParam (p : Bytes) (f : Nat) : FuncParam :=
  let o := 256 + 32 * f
  { typ := leNat p o 1, flags := byteAt p (o + 1), mode := leNat p (o + 2) 1, b3 := leNat p (o + 3) 1, b4 := leNat p (o + 4) 1,
    b5 := leNat p (o + 5) 1, b6 := leNat p (o + 6) 1, funcDemand := le32 p (o + 8), connDemand := le32 p (o + 12),
    w16 := leNat p (o + 16) 2, w18 := leNat p (o + 18) 2, vTol := leNat p (o + 20) 2, vStill := leNat p (o + 22) 2,
    tStill := leNat p (o + 24) 2, tMax := leNat p (o + 26) 2 }

/-- Connection record `c` (R370). -/
def connParam (p : Bytes) (c : Nat) : ConnParam :=
  let o := 1280 + 32 * c
  { dir := leNat p o 1, kind := leNat p (o + 1) 1, netA := leNat p (o + 2) 1, netB := leNat p (o + 3) 1,
    connId := le32 p (o + 4), addrA := le32 p (o + 8), addrB := le32 p (o + 12), period := leNat p (o + 16) 2,
    deadline := leNat p (o + 18) 2, window := leNat p (o + 20) 2, lossTime := leNat p (o + 22) 2,
    degradedLimit := leNat p (o + 24) 2, resetAllowed := bitOf (byteAt p (o + 26)) 0, source := le32 p (o + 28) }

/-- The inputs that an evaluation function names. -/
def evalInputs (f : FuncParam) : List Nat :=
  if f.typ = 4 then [f.b3, f.b4, f.b5, f.b6] else if 2 ≤ f.typ ∧ f.typ ≤ 5 then [f.b3, f.b4] else []

/-- An index, or 0xFF for none. -/
def idxOrNone (n lim : Nat) : Bool := n < lim || n == 0xFF

/-- Ranges of an input record, with its zero bytes. -/
def inputOk (p : Bytes) (i : Nat) : Bool :=
  let x := inputParam p i
  idxOrNone x.tp 4 && 1 ≤ x.filter && x.filter ≤ 20 && field (byteAt p (18 + 8 * i)) 7 1 == 0 && zeroIn p (19 + 8 * i) (24 + 8 * i)

/-- Ranges of a function record. -/
def funcOk (f : FuncParam) : Bool :=
  if f.typ = 0 then true
  else if f.typ = 1 then
    field f.flags 7 3 == 0 && f.mode ≤ 1 && f.b3 < 8 && idxOrNone f.b4 8 && idxOrNone f.b5 32 && idxOrNone f.b6 16
      && 1 ≤ f.w16 && f.w18 ≤ 2000 && 100 ≤ f.tStill && f.tStill ≤ 10000 && 1000 ≤ f.tMax
  else if f.typ ≤ 5 then
    f.flags == 0 && (f.mode == 0 || (f.mode == 1 && f.typ == 3)) && f.b3 < 16 && f.b4 < 16
      && (if f.typ = 4 then f.b5 < 16 && f.b6 < 16 && 1 ≤ f.w18 && f.w18 ≤ 500 else f.b5 == 0xFF && f.b6 == 0xFF)
  else false

/-- A network code of R370. -/
def netOk (n : Nat) : Bool := n ≤ 5 || (8 ≤ n && n ≤ 11) || n == 16

/-- Ranges of a connection record. -/
def connOk (c : ConnParam) : Bool :=
  if c.dir = 0 then true
  else
    c.dir ≤ 2 && c.kind ≤ 2 && netOk c.netA && (netOk c.netB || (c.netB == 0xFF && c.netA == 16))
      && (c.netA != 16 || c.addrA.toNat < 16)
      && (if c.dir = 2 then 5 ≤ c.period && c.period ≤ 1000
          else 10 ≤ c.deadline && c.deadline ≤ 2000 && 1 ≤ c.window && c.window ≤ 50 && 20 ≤ c.lossTime
            && c.lossTime ≤ 10000 && 1 ≤ c.degradedLimit && c.degradedLimit ≤ 3600
            && c.kind != 2 && !(c.resetAllowed && (c.netA == 16 || c.netB == 16)))

/-- No two list members are equal. -/
def noRepeat : List Nat → Bool
  | [] => true
  | x :: l => !l.contains x && noRepeat l

/-- The parameter set, unless R371 rejects it. -/
def parseParams (p : Bytes) : Option ParamSet :=
  let inputs := (upFrom 0 16).map (inputParam p)
  let funcs := (upFrom 0 32).map (funcParam p)
  let conns := (upFrom 0 32).map (connParam p)
  let named := (funcs.map evalInputs).flatten
  let tpOf := fun i => (inputs.getD i {}).tp
  let stops := funcs.filter (·.typ = 1)
  let ok :=
    p.length == 4096 && leNat p 0 4 == 0x4150535A && leNat p 4 2 == 1 && crc32c (slice p 16 4080) == le32 p 12
    && (upFrom 0 16).all (inputOk p) && funcs.all funcOk && conns.all connOk
    && noRepeat named && stops.all (fun f => f.b6 == 0xFF || !named.contains f.b6)
    && funcs.all (fun f =>
        noRepeat (((evalInputs f).map tpOf).filter (· ≠ 0xFF))
        && (f.typ ≠ 2 && f.typ ≠ 3 && f.typ ≠ 4 || (evalInputs f).all (fun i => tpOf i ≠ 0xFF))
        && (f.typ ≠ 5 || (evalInputs f).all (fun i => (inputs.getD i {}).ossd)))
    && (upFrom 0 32).all (fun i => (upFrom 0 32).all (fun j =>
        let a := funcs.getD i {}
        let b := funcs.getD j {}
        i == j || a.typ ≠ 1 || b.typ ≠ 1 || a.b3 ≠ b.b4))
    && stops.all (fun f => f.mode ≠ 1 ||
        (f.b5 < 32 && (conns.getD f.b5 {}).dir ≠ 0 && (conns.getD f.b5 {}).kind == 1
          && (upFrom 0 32).all (fun i => !bitOf f.funcDemand i || (funcs.getD i {}).typ ≠ 1)))
  if ok then some { paramId := le32 p 8, inputs := inputs, funcs := funcs, conns := conns } else none

/-! ### Shorthands -/

/-- Record of function `f` in force. -/
def fp (s : State) (f : Nat) : FuncParam := ((s.island.params.map (·.funcs)).getD []).getD f {}
/-- Record of connection `c` in force. -/
def cp (s : State) (c : Nat) : ConnParam := ((s.island.params.map (·.conns)).getD []).getD c {}
/-- Record of input `i` in force. -/
def ip (s : State) (i : Nat) : InputParam := ((s.island.params.map (·.inputs)).getD []).getD i {}
/-- Safety function `f`. -/
def getFunc (s : State) (f : Nat) : SafetyFunc := Tbl.get {} s.island.funcs f
/-- The state with safety function `f` written. -/
def setFunc (s : State) (f : Nat) (x : SafetyFunc) : State :=
  { s with island := { s.island with funcs := Tbl.set {} s.island.funcs f x } }
/-- Safe input `i`. -/
def getInput (s : State) (i : Nat) : SafeInput := Tbl.get {} s.island.inputs i
/-- The state with safe input `i` written. -/
def setInput (s : State) (i : Nat) (x : SafeInput) : State :=
  { s with island := { s.island with inputs := Tbl.set {} s.island.inputs i x } }
/-- Output pair `p`. -/
def getPair (s : State) (p : Nat) : OutputPair := Tbl.get {} s.island.pairs p
/-- The state with output pair `p` written. -/
def setPair (s : State) (p : Nat) (x : OutputPair) : State :=
  { s with island := { s.island with pairs := Tbl.set {} s.island.pairs p x } }
/-- Connection `c`. -/
def getConn (s : State) (c : Nat) : Conn := Tbl.get {} s.island.conns c
/-- The state with connection `c` written. -/
def setConn (s : State) (c : Nat) (x : Conn) : State :=
  { s with island := { s.island with conns := Tbl.set {} s.island.conns c x } }

/-- Code of a function state (R396). -/
def funcCode : FuncState → Nat
  | .unused => 0
  | .startup => 1
  | .run => 2
  | .stopping => 3
  | .safe => 4
  | .fault => 5

/-- Published state byte of a function (R396). -/
def stateByte (f : SafetyFunc) : Byte := BitVec.ofNat 8 (funcCode f.state + 16 * f.cause.toNat)

/-- Published state byte of function `f`. -/
def funcByte (s : State) (f : Nat) : Byte := stateByte (getFunc s f)

/-- An entry of the island's log and of its safety-area ring (R397). -/
def islandLog (func cause source state : Nat) (s : State) : State :=
  let i := s.island
  let e : IslandLog := { rtc := s.power.rtc, frac := s.power.rtcFrac, func := BitVec.ofNat 8 func, cause := BitVec.ofNat 8 cause,
                         source := BitVec.ofNat 8 source, state := BitVec.ofNat 8 state, seq := i.logSeq }
  let keep := fun (n : Nat) (l : List IslandLog) => l.drop (l.length - n)
  { s with island := { i with log := keep 64 (i.log ++ [e]), flashLog := keep 256 (i.flashLog ++ [e]), logSeq := i.logSeq + 1 } }

/-! ### The hardware safe state and starting (R365, R366) -/

/-- The hardware safe state: every pair de-energised and every published state byte FAULT with cause 10; the island resets
itself, and stays in reset after the third within 60 s. -/
def hardwareSafe (s : State) : State :=
  if s.island.up then
    let now := s.keeper.tick
    let l := now :: s.island.safeStates.filter (fun t => now - t < 60000)
    let i := { s.island with
      up := false, held := decide (3 ≤ l.length), safeStates := l,
      pairs := Tbl.mapAll {} (fun _ p => { p with energised := false }) s.island.pairs,
      funcs := (upFrom 0 32).foldl (fun t f => Tbl.set {} t f { state := .fault, cause := 10 }) [] }
    lifeCount 12 { s with island := i }
  else s

/-- ISLAND_START: R366. `badPairs` names the pairs whose switches fail the start test. -/
def islandStart (badPairs : Byte) (s : State) : State :=
  if s.island.up ∨ s.island.held ∨ ¬ s.island.released then s
  else
    let i := s.island
    let p := parseParams i.image
    let i := { i with
      up := true, params := p, starts := satAdd i.starts 1, startsOvf := i.startsOvf || satLost i.starts 1, inputs := [],
      pairs := (upFrom 0 8).foldl (fun t k => Tbl.set {} t k { faulted := bitOf badPairs k }) [],
      conns := Tbl.mapAll {} (fun _ c => { c with
        lost := false, fault := false, degraded := false, pastLimit := false,
        lastSeq := none, frame := [], windows := [], equalRun := 0, equalSince := none, stop := false, reset := false,
        speed := 0, valid := false }) i.conns }
    let bad := fun (f : FuncParam) => bitOf badPairs f.b3 || (f.b4 ≠ 0xFF && bitOf badPairs f.b4)
    let start := fun (f : Nat) => match p with
      | none => ({ state := .fault, cause := 10 } : SafetyFunc)
      | some q =>
        let r := q.funcs.getD f {}
        if r.typ = 0 then {}
        else if r.typ = 1 ∧ bad r then { state := .fault, cause := 9 }
        else { state := .safe, cause := 10 }
    { s with island := { i with funcs := (upFrom 0 32).foldl (fun t f => Tbl.set {} t f (start f)) [] } }

def execIslandStart (badPairs : Byte) (s : State) : Host.Outcome State Fault Refusal := inRange true (islandStart badPairs s)

/-- HARDWARE_SAFE_STATE: a lockstep mismatch, an SRAM error or another fault of R365, found by the part (`_reason`). -/
def execHardwareSafeState (_reason : Nat) (s : State) : Host.Outcome State Fault Refusal := inRange true (hardwareSafe s)

/-- WINDOW_WATCHDOG_EXPIRY (R365). -/
def execWindowWatchdogExpiry (s : State) : Host.Outcome State Fault Refusal := inRange true (hardwareSafe s)

/-- CLOCK_SUPERVISOR_CHECK (R364, R365): a deviation beyond ±2 % from either reference. -/
def execClockSupervisorCheck (refPpm xtalPpm : Int) (s : State) : Host.Outcome State Fault Refusal :=
  inRange true (when (decide (20000 < refPpm.natAbs ∨ 20000 < xtalPpm.natAbs)) hardwareSafe s)

/-- PARAMETER_CRC_CHECK (R365, R367). -/
def execParameterCrcCheck (s : State) : Host.Outcome State Fault Refusal :=
  inRange true (when (crc32c (slice s.island.image 16 4080) != le32 s.island.image 12 && s.island.params.isSome) hardwareSafe s)

/-- SRAM_MARCH_TEST (R365, R399). -/
def execSramMarchTest (pass : Bool) (s : State) : Host.Outcome State Fault Refusal := inRange true (when (!pass) hardwareSafe s)

/-! ### Inputs (R372, R373) -/

/-- One 1 ms sample of one input (R372): the filtered value changes once the raw value has held for FILTER samples; under
OSSD one low sample is ignored, and a longer low counts from its start. -/
def sampleInput (p : InputParam) (raw : Bool) (x : SafeInput) : SafeInput :=
  let low := if raw then 0 else x.low + 1
  let held := if raw = x.filtered then 0 else x.held + 1
  if held ≥ p.filter ∧ ¬ (p.ossd ∧ ¬ raw ∧ low ≤ 1)
  then { x with raw := raw, filtered := raw, held := 0, low := low }
  else { x with raw := raw, held := held, low := low }

def execSafeInputSample (raw : W16) (s : State) : Host.Outcome State Fault Refusal :=
  inRange true (if s.island.up then
    (upFrom 0 16).foldl (fun s i => setInput s i (sampleInput (ip s i) (bitOf raw i) (getInput s i))) s else s)

/-- TEST_PULSE (R373): the inputs assigned to TPk, sampled during its pulse. An input that reads high while its contact is
closed has a pulse fault; one that reads low has none. -/
def execTestPulse (tp : Nat) (raw : W16) (s : State) : Host.Outcome State Fault Refusal :=
  inRange (decide (tp < 4)) (if s.island.up then
    (upFrom 0 16).foldl (fun s i =>
      let x := getInput s i
      if (ip s i).tp = tp then
        if bitOf raw i then (if x.filtered then setInput s i { x with pulseFault := true } else s)
        else setInput s i { x with pulseFault := false }
      else s) s else s)

/-! ### Evaluation functions (R376-R378) -/

/-- ESTOP, GUARD and LIGHT_CURTAIN for one I/O cycle: whether each channel is clear, and whether one has a pulse fault. -/
def evalTwoChannel (p : FuncParam) (clearA clearB pulse : Bool) (f : SafetyFunc) : SafetyFunc :=
  if f.state = .fault then
    let both := f.bothDemanded || (!clearA && !clearB)
    if both ∧ clearA ∧ clearB ∧ ¬ pulse then { f with state := .run, cause := 0, bothDemanded := false, disagree := 0 }
    else { f with bothDemanded := both }
  else
    let d := if clearA = clearB then 0 else f.disagree + 2
    if pulse then { f with state := .fault, cause := 8, bothDemanded := false, disagree := 0 }
    else if p.w16 < d then { f with state := .fault, cause := 7, bothDemanded := false, disagree := 0 }
    else if clearA ∧ clearB then { f with state := .run, cause := 0, disagree := 0 }
    else { f with state := .safe, cause := 1, disagree := d }

/-- TWO_HAND for one I/O cycle (R378): a button is actuated, released, or neither. -/
def evalTwoHand (p : FuncParam) (act1 rel1 act2 rel2 pulse : Bool) (f : SafetyFunc) : SafetyFunc :=
  let odd := (!act1 && !rel1) || (!act2 && !rel2)
  let d := if odd then f.disagree + 2 else 0
  if pulse then { f with state := .fault, cause := 8, disagree := 0, released := false, since := none }
  else if p.w16 < d then { f with state := .fault, cause := 7, disagree := 0, released := false, since := none }
  else if rel1 ∧ rel2 then { f with state := .safe, cause := 1, disagree := d, released := true, since := none }
  else if f.state = .fault then { f with disagree := d }
  else if act1 ∧ act2 then
    if f.state = .run then { f with disagree := d }
    else if f.released ∧ (f.since.map (· + 2)).getD 0 ≤ p.w18
      then { f with state := .run, cause := 0, disagree := d, released := false, since := none }
    else { f with state := .safe, cause := 12, disagree := d, released := false, since := none }
  else
    { f with state := .safe, cause := if f.state = .run then 1 else f.cause, disagree := d,
             since := if act1 ∨ act2 then some ((f.since.map (· + 2)).getD 0) else f.since }

/-- An evaluation function's I/O cycle. -/
def evalFunc (s : State) (k : Nat) : State :=
  let p := fp s k
  let hi := fun i => (getInput s i).filtered
  let pulse := (evalInputs p).any (fun i => (getInput s i).pulseFault)
  if p.typ = 4 then
    setFunc s k (evalTwoHand p (hi p.b3 && !hi p.b4) (!hi p.b3 && hi p.b4) (hi p.b5 && !hi p.b6) (!hi p.b5 && hi p.b6) pulse
      (getFunc s k))
  else if 2 ≤ p.typ then
    setFunc s k (evalTwoChannel p (hi p.b3) (if p.typ = 3 ∧ p.mode = 1 then !hi p.b4 else hi p.b4) pulse (getFunc s k))
  else s

/-! ### Stop functions (R379-R384) -/

/-- The safe input that an evaluation function's demand is logged with (R397): of the channel, or the button, that is not clear; 0xFF for a stop
function named in FUNC_DEMAND (assumption log 86). -/
def demandInput (s : State) (f : Nat) : Nat :=
  let p := fp s f
  let hi := fun i => (getInput s i).filtered
  if p.typ = 4 then (if hi p.b3 && !hi p.b4 then p.b5 else p.b3)
  else if 2 ≤ p.typ then (if hi p.b3 then p.b4 else p.b3)
  else 0xFF

/-- What demands of stop function `k` (R379), evaluation functions first: its number in `SafetyFunc.demands`, its cause, and the input or connection of its
log entry. -/
def demandsOf (s : State) (k : Nat) : List (Nat × Nat × Nat) :=
  let p := fp s k
  ((upFrom 0 32).filter (fun f => bitOf p.funcDemand f && (getFunc s f).state != .run)).map (fun f =>
      (f, if (getFunc s f).state = .fault then (getFunc s f).cause.toNat else 1, demandInput s f))
    ++ ((upFrom 0 32).filter (fun c => bitOf p.connDemand c &&
      ((getConn s c).stop || (getConn s c).lost || (getConn s c).fault || (getConn s c).pastLimit))).map (fun c =>
        (32 + c, if (getConn s c).fault then 4 else if (getConn s c).stop then 2 else 3, c))

/-- The demand of a stop function, as its cause and its source, if it has one (R379). -/
def demandOf (s : State) (k : Nat) : Option (Nat × Nat) := (demandsOf s k).head?.map (·.2)

/-- Magnitude of the last speed delivered on SPEED_CONN. -/
def speedOf (s : State) (k : Nat) : Nat := if (fp s k).b5 = 0xFF then 0 else (getConn s (fp s k).b5).speed.natAbs

/-- A demand in RUN (R380). -/
def takeDemand (k : Nat) (cause : Nat) (s : State) : State :=
  let x := getFunc s k
  setFunc s k (if (fp s k).mode = 0 then { x with state := .safe, cause := BitVec.ofNat 4 cause }
    else { x with state := .stopping, cause := BitVec.ofNat 4 cause, elapsed := 0, v0 := speedOf s k, still := none })

/-- Each demand that begins recorded in the log (R380), and every one that meets the function in RUN. -/
def recordDemands (k : Nat) (run : Bool) (old : List Nat) (l : List (Nat × Nat × Nat)) (s : State) : State :=
  (l.filter (fun d => run || !old.contains d.1)).foldl (fun s d => islandLog k d.2.1 d.2.2 (funcByte s k).toNat s)
    (setFunc s k { getFunc s k with demands := l.map (·.1) })

/-- A reset of stop function `k` (R383): taken in SAFE without a demand, and at standstill where RESET_AT_STILL asks it;
otherwise ignored and logged. -/
def resetFunc (k src : Nat) (okPulse : Bool) (s : State) : State :=
  let x := getFunc s k
  if okPulse ∧ x.state = .safe ∧ demandOf s k = none ∧ (¬ bitOf (fp s k).flags 1 ∨ speedOf s k ≤ (fp s k).vStill)
  then setFunc s k { x with state := .run, cause := 0 }
  else islandLog k x.cause.toNat src (stateByte x).toNat s

/-- The RESET_IN pulse of a stop function over one I/O cycle (R383). -/
def resetPulse (k : Nat) (s : State) : State :=
  let p := fp s k
  let x := getFunc s k
  if p.b6 = 0xFF then s
  else if (getInput s p.b6).filtered then setFunc s k { x with resetHigh := some ((x.resetHigh.map (· + 2)).getD 0) }
  else match x.resetHigh with
    | none => s
    | some t => resetFunc k p.b6 (100 ≤ t + 2 && t + 2 ≤ 2000) (setFunc s k { x with resetHigh := none })

/-- A stop function's I/O cycle. -/
def stopFunc (s : State) (k : Nat) : State :=
  if (fp s k).typ = 1 then
    let s := resetPulse k s
    let x := getFunc s k
    let l := demandsOf s k
    recordDemands k (x.state == .run) x.demands l (match x.state, demandOf s k with
      | .run, some (cause, _) => takeDemand k cause s
      | .safe, none => if bitOf (fp s k).flags 0 then setFunc s k { x with state := .run, cause := 0 } else s
      | _, _ => s)
  else s

/-! ### Output pairs (R374, R375) -/

/-- Whether stop function `k` allows pair `p`, which it names (R374). -/
def allowsPair (s : State) (k p : Nat) : Bool :=
  let r := fp s k
  match (getFunc s k).state with
  | .run => true
  | .stopping => (r.b3 == p && r.b4 != p) || !bitOf r.flags 2
  | _ => false

/-- Stop functions that name pair `p`. -/
def namesPair (s : State) (p : Nat) : List Nat :=
  (upFrom 0 32).filter (fun k => (fp s k).typ == 1 && ((fp s k).b3 == p || (fp s k).b4 == p))

/-- A faulted pair (R375): de-energised, and every function that names it in FAULT with cause 9. -/
def faultPair (p : Nat) (s : State) : State :=
  let s := setPair s p { getPair s p with faulted := true, energised := false }
  (namesPair s p).foldl (fun s k =>
    let x := { getFunc s k with state := FuncState.fault, cause := 9 }
    islandLog k 9 p (stateByte x).toNat (setFunc s k x)) s

/-- The readback of pair `p` against its command (R375). -/
def readPair (high low : Bool) (s : State) (p : Nat) : State :=
  let x := getPair s p
  if x.faulted then s
  else if ¬ x.energised ∧ (high ∨ low) then faultPair p s
  else if x.energised ∧ ¬ (high ∧ low) then
    if 1 ≤ x.badReads then faultPair p s else setPair s p { x with badReads := x.badReads + 1 }
  else setPair s p { x with badReads := 0 }

/-- Pair `p` driven as its functions allow (R374). -/
def drivePair (s : State) (p : Nat) : State :=
  let l := namesPair s p
  let x := getPair s p
  setPair s p { x with energised := !l.isEmpty && l.all (fun k => allowsPair s k p) && !x.faulted }

/-- IO_CYCLE (R372): readback, evaluation functions, stop functions, output pairs. -/
def ioCycle (highOn lowOn : Byte) (s : State) : State :=
  if s.island.up ∧ s.island.params.isSome then
    let s := (upFrom 0 8).foldl (fun s p => readPair (bitOf highOn p) (bitOf lowOn p) s p) s
    let s := (upFrom 0 32).foldl evalFunc s
    let s := (upFrom 0 32).foldl stopFunc s
    (upFrom 0 8).foldl drivePair s
  else s

def execIoCycle (highOn lowOn : Byte) (s : State) : Host.Outcome State Fault Refusal := inRange true (ioCycle highOn lowOn s)

/-- OUTPUT_DARK_TEST (R375): one switch of an energised pair turned off and read back. -/
def execOutputDarkTest (p : Nat) (_low : Bool) (readOn : Bool) (s : State) : Host.Outcome State Fault Refusal :=
  inRange (decide (p < 8)) (if s.island.up ∧ (getPair s p).energised ∧ readOn then faultPair p s else s)

/-! ### The stop monitor (R381) -/

/-- The limit L at e ms. -/
def envelope (p : FuncParam) (v0 e : Nat) : Nat :=
  if e < p.w18 then v0 + p.vTol else max p.vTol (v0 + p.vTol - p.w16 * (e - p.w18) / 1000)

/-- One monitor cycle: the cause with which STOPPING ends, if it ends, and the standstill time. -/
def monitorEnd (p : FuncParam) (c : Conn) (v0 e v : Nat) (still : Option Nat) : Option Nat :=
  if (match still with
      | some t => decide (p.tStill ≤ t)
      | none => false) then some 11
  else if envelope p v0 e < v then some 5
  else if p.tMax ≤ e then some 6
  else if c.lost ∨ c.fault ∨ ¬ c.valid then some 3
  else none

/-- STOP_MONITOR: the cycle 10 ms after the last. -/
def stopMonitor (k : Nat) (s : State) : State :=
  let x := getFunc s k
  let p := fp s k
  if s.island.up ∧ p.typ = 1 ∧ x.state = .stopping then
    let e := x.elapsed + 10
    let v := speedOf s k
    let still := if v ≤ p.vStill then some ((x.still.map (· + 10)).getD 0) else none
    match monitorEnd p (getConn s p.b5) x.v0 e v still with
    | some c => setFunc s k { x with state := .safe, cause := BitVec.ofNat 4 c, elapsed := e, still := none }
    | none => setFunc s k { x with elapsed := e, still := still }
  else s

def execStopMonitor (f : Nat) (s : State) : Host.Outcome State Fault Refusal := inRange (decide (f < 32)) (stopMonitor f s)

/-! ### The black channel (R385-R394) -/

/-- A frame accepted for a connection by content (R388, R390). -/
def frameOk (c : ConnParam) (l : Bytes) : Bool :=
  l.length == 48 && byteAt l 4 == 1 && crcBlack (l.take 40) == le32 l 40 && zeroIn l 44 48
  && le32 l 0 == c.connId && (byteAt l 5).toNat == c.kind
  && (match c.kind with
      | 0 => field (byteAt l 8) 7 2 == 0 && zeroIn l 9 40
      | 1 => field (byteAt l 12) 7 1 == 0 && zeroIn l 13 40
      | _ => zeroIn l 40 40)

/-- The payload of a delivered frame (R390). -/
def takePayload (c : ConnParam) (l : Bytes) (x : Conn) : Conn :=
  if c.kind = 0 then { x with stop := bitOf (byteAt l 8) 0, reset := bitOf (byteAt l 8) 1 }
  else if c.kind = 1 then { x with speed := leInt l 8 4, valid := bitOf (byteAt l 12) 0 }
  else x

/-- A new frame delivered (R388, R389, R392): counters, window, payload, and the resets that a rising RESET bit gives. -/
def deliver (k : Nat) (netB : Bool) (l : Bytes) (gap : Bool) (s : State) : State :=
  let c := cp s k
  let x := getConn s k
  let y := takePayload c l { x with
    lost := false, lastSeq := some (le16 l 6), frame := l,
    windows := if c.netB = 0xFF then x.windows else x.windows ++ [(le16 l 6, netB)],
    gaps := if gap then satAdd x.gaps 1 else x.gaps, gapsOvf := x.gapsOvf || (gap && satLost x.gaps 1) }
  let s := setConn s k y
  if y.reset ∧ ¬ x.reset ∧ c.resetAllowed then
    (upFrom 0 32).foldl (fun s f => if (fp s f).typ = 1 ∧ bitOf (fp s f).connDemand k then resetFunc f k true s else s) s
  else s

/-- A comparison copy (R392-R394): from the other network within the window it completes the comparison, or faults the
connection where it differs; after the window it is late. -/
def compareCopy (k : Nat) (netB : Bool) (l : Bytes) (s : State) : State :=
  let x := getConn s k
  match x.windows.find? (fun w => w.1 == le16 l 6) with
  | none => setConn s k { x with late := satAdd x.late 1, lateOvf := x.lateOvf || satLost x.late 1 }
  | some w =>
    if w.2 = netB then s
    else
      let rest := x.windows.filter (fun v => v.1 != le16 l 6)
      if l = x.frame then
        let run := x.equalRun + 1
        let since := x.equalSince.getD s.keeper.tick
        let heal := x.degraded && decide (1000 ≤ s.keeper.tick - since)
        setConn s k { x with
          windows := rest, equalRun := run, equalSince := some since,
          fault := x.fault && decide (run < 100), degraded := x.degraded && !heal, pastLimit := x.pastLimit && !heal }
      else setConn s k { x with windows := rest, fault := true, equalRun := 0, equalSince := none }

/-- A frame that reached the island for connection `k` (R388). -/
def acceptFrame (k : Nat) (netB : Bool) (l : Bytes) (s : State) : State :=
  let x := getConn s k
  match x.lastSeq with
  | none => deliver k netB l false s
  | some d =>
    let diff := (le16 l 6 - d).toNat
    if 1 ≤ diff ∧ diff ≤ 32 then deliver k netB l (decide (1 < diff)) s
    else if diff = 0 then compareCopy k netB l s
    else setConn s k { x with stale := satAdd x.stale 1, staleOvf := x.staleOvf || satLost x.stale 1 }

/-- Whether the gateway passes a frame of network `net` to the island (R387): on CAN its identifier is that of a receive connection, and on Ethernet,
where every frame here has the EtherType, a receive connection lies on the network. -/
def gatewayPasses (s : State) (net : Nat) (ident : W32) : Bool :=
  (upFrom 0 32).any (fun k => let c := cp s k
    c.dir == 1 && ((c.netA == net && (8 ≤ net || c.addrA == ident)) || (c.netB == net && (8 ≤ net || c.addrB == ident))))

/-- The receive connection that a frame on network `net` is for, and whether the network is its NET_B (R387, R388). -/
def connFor (s : State) (net : Nat) (ident : W32) (l : Bytes) : Option (Nat × Bool) :=
  if gatewayPasses s net ident then
    ((upFrom 0 32).find? (fun k => let c := cp s k
      c.dir == 1 && frameOk c l && (c.netA == net || c.netB == net))).map (fun k => (k, !((cp s k).netA == net)))
  else none

/-- BLACK_CHANNEL_FRAME: a frame that the gateway passes to the island from network `net`. -/
def blackChannelFrame (net : Nat) (ident : W32) (l : Bytes) (s : State) : State :=
  if s.island.up ∧ net ≠ 16 then
    match connFor s net ident l with
    | some (k, b) => acceptFrame k b l s
    | none => s
  else s

def execBlackChannelFrame (net : Nat) (ident : W32) (frame : Bytes) (s : State) : Host.Outcome State Fault Refusal :=
  inRange true (blackChannelFrame net ident frame s)

/-- The receive connection of inbox slot `n` (R395). -/
def inboxConn (s : State) (n : Nat) : Option Nat :=
  (upFrom 0 32).find? (fun k => (cp s k).dir == 1 && (cp s k).netA == 16 && (cp s k).addrA.toNat == n)

/-- Die-local address of the inbox word. -/
def inboxAddr (s : State) (n w : Nat) : Nat := here s 5 (0x01005000000 + 64 * n + 4 * w)

/-- Whether an inbox slot takes writes of a source: the SOURCE of its connection, while the island runs (R395). -/
def inboxOpen (s : State) (src : W32) (n : Nat) : Bool := (inboxConn s n).any (fun k => (cp s k).source == src && s.island.up)

/-- A write of word `w` (0-11; above, none is held) of inbox slot `n` (R395): from the SOURCE of the slot's connection, else under R78. -/
def inboxWrite (src : W32) (n w : Nat) (v : W32) (s : State) : State :=
  if inboxOpen s src n then
    let s := answer 0 [] s
    if w < 12 then { s with island := { s.island with inbox := Tbl.set 0 s.island.inbox (16 * n + w) v } } else s
  else refuseWrite src (inboxAddr s n w) none 0x4001 s

/-- The 48 bytes held in an inbox slot. -/
def inboxBytes (s : State) (n : Nat) : Bytes :=
  ((upFrom 0 12).map (fun w => toLE 4 (Tbl.get 0 s.island.inbox (16 * n + w)).toNat)).flatten

/-- INBOX_SUBMIT (R395): the word at offset 44 written, and the slot submitted to R388. -/
def inboxSubmit (src : W32) (n : Nat) (v : W32) (s : State) : State :=
  match inboxConn s n with
  | some k =>
    let t := inboxWrite src n 11 v s
    if (cp s k).source = src ∧ s.island.up ∧ frameOk (cp s k) (inboxBytes t n) then acceptFrame k false (inboxBytes t n) t else t
  | none => inboxWrite src n 11 v s

def execInboxSubmit (src : W32) (n : Nat) (v : W32) (s : State) : Host.Outcome State Fault Refusal :=
  inRange (decide (n < 16)) (inboxSubmit src n v s)

/-- Published state of a connection (R396). -/
def connCode (x : Conn) : Nat := if x.fault then 3 else if x.lost then 2 else if x.degraded then 1 else 0

/-- The payload that a send connection carries (R390): STATUS the published state bytes; of DEMAND and SPEED the manual does
not say what the island puts there (assumption log 6). -/
def sendPayload (s : State) (c : ConnParam) : Bytes :=
  if c.kind = 2 then (upFrom 0 32).map (funcByte s)
  else if c.kind = 0 then (freeB s 0 &&& 3) :: zeros 31
  else [freeB s 0, freeB s 1, freeB s 2, freeB s 3, freeB s 4 &&& 1] ++ zeros 27

/-- The 48-byte frame of R385. -/
def buildFrame (connId : W32) (kind : Nat) (seq : W16) (payload : Bytes) : Bytes :=
  let h := toLE 4 connId.toNat ++ [1, BitVec.ofNat 8 kind] ++ toLE 2 seq.toNat ++ payload
  h ++ toLE 4 (crcBlack h).toNat ++ zeros 4

/-- CONNECTION_SEND (R391): the same frame on both networks. -/
def connectionSend (k : Nat) (s : State) : State :=
  let c := cp s k
  let x := getConn s k
  if s.island.up ∧ c.dir = 2 then
    let f := buildFrame c.connId c.kind x.txSeq (sendPayload s c)
    let out := if c.netB = 0xFF then [(c.netA, f)] else [(c.netA, f), (c.netB, f)]
    let s := setConn s k { x with txSeq := x.txSeq + 1 }
    { s with island := { s.island with sent := s.island.sent ++ out } }
  else s

def execConnectionSend (c : Nat) (s : State) : Host.Outcome State Fault Refusal :=
  inRange (decide (c < 32)) (connectionSend c s)

/-- COMPARISON_WINDOW (R393): the oldest open window closes without the other copy, which is counted as missed. -/
def comparisonWindow (k : Nat) (s : State) : State :=
  let x := getConn s k
  match x.windows with
  | [] => s
  | (_, fromB) :: rest =>
    let y := { x with windows := rest, equalRun := 0, equalSince := none }
    setConn s k (if fromB then { y with missedA := satAdd x.missedA 1, missedAOvf := x.missedAOvf || satLost x.missedA 1 }
                 else { y with missedB := satAdd x.missedB 1, missedBOvf := x.missedBOvf || satLost x.missedB 1 })

def execComparisonWindow (c : Nat) (s : State) : Host.Outcome State Fault Refusal :=
  inRange (decide (c < 32)) (comparisonWindow c s)

/-- CONNECTION_LOST (R389): DEADLINE ms without a new frame. -/
def execConnectionLost (c : Nat) (s : State) : Host.Outcome State Fault Refusal :=
  inRange (decide (c < 32)) (if s.island.up ∧ (cp s c).dir = 1 then setConn s c { getConn s c with lost := true } else s)

/-- CONNECTION_DEGRADED (R393): LOSS_TIME ms without a completed comparison of one network. -/
def execConnectionDegraded (c : Nat) (netB : Bool) (s : State) : Host.Outcome State Fault Refusal :=
  inRange (decide (c < 32)) (if s.island.up ∧ (cp s c).dir = 1 ∧ (cp s c).netB ≠ 0xFF
    then setConn s c { getConn s c with degraded := true, degradedB := netB, equalSince := none } else s)

/-- DEGRADED_LIMIT (R393): a connection DEGRADED for DEGRADED_LIMIT s demands until it leaves DEGRADED. -/
def execDegradedLimit (c : Nat) (s : State) : Host.Outcome State Fault Refusal :=
  inRange (decide (c < 32)) (if s.island.up ∧ (getConn s c).degraded then setConn s c { getConn s c with pastLimit := true } else s)

/-! ### The published area (R396) -/

/-- Whether a safety function is outside its safe state (R384). -/
def outsideSafe (s : State) : Bool :=
  (upFrom 0 32).any (fun f => (fp s f).typ == 1 && ((getFunc s f).state == .run || (getFunc s f).state == .stopping))

/-- One log entry's 16 bytes (R397). -/
def logBytes (e : IslandLog) : Bytes :=
  toLE 6 e.rtc.toNat ++ toLE 2 e.frac.toNat ++ [e.func, e.cause, e.source, e.state] ++ toLE 4 e.seq.toNat

/-- A byte of flags, bit i the i-th. -/
def flagByte (l : List Bool) : Byte := BitVec.ofNat 8 (l.foldr (fun b n => b2n b + 2 * n) 0)

/-- The published area, 1,536 bytes. -/
def published (s : State) : Bytes :=
  let conn := fun k => let x := getConn s k
    [BitVec.ofNat 8 (connCode x), x.missedA, x.missedB, x.stale] ++ toLE 2 x.gaps.toNat ++ toLE 2 x.late.toNat
  let ovf := fun k => let x := getConn s k
    [flagByte [x.missedAOvf, x.missedBOvf, x.staleOvf, x.gapsOvf, x.lateOvf], 0, 0, 0]
  let head := (upFrom 0 32).map (funcByte s)
    ++ [flagByte ((upFrom 0 8).map (fun i => (getInput s i).filtered)), flagByte ((upFrom 8 8).map (fun i => (getInput s i).filtered)),
        flagByte ((upFrom 0 8).map (fun p => (getPair s p).energised)), flagByte ((upFrom 0 8).map (fun p => (getPair s p).faulted))]
    ++ toLE 4 ((s.island.params.map ParamSet.paramId).getD 0).toNat ++ toLE 4 s.island.starts.toNat
    ++ [flagByte [s.island.startsOvf]]
  slice head 0 64 ++ ((upFrom 0 32).map conn).flatten ++ ((upFrom 0 32).map ovf).flatten ++ zeros 64
    ++ slice ((s.island.log.map logBytes).flatten) 0 1024

end Sys2Proof.Machine
end

