-- ==== Sys2Proof/Machine/Power.lean ====
section
/-! DEFINITION. Power domains, package states, clocks, wake, supply and thermal limits (chapter 14), and one management tick. -/

namespace Sys2Proof.Machine

/-! ### Lifetime record (R505) -/

/-- The lifetime record written to the flash data area. -/
def saveLifetime (s : State) : State :=
  { s with test := { s.test with saved := s.test.counters, savedOvf := s.test.ovf, savedHigh := s.test.tjHigh, savedLow := s.test.tjLow } }

/-- LIFETIME_RECORD: every 10 minutes. -/
def execLifetimeRecord (s : State) : Host.Outcome State Fault Refusal := inRange true (saveLifetime s)

/-- One tick towards minute counter `i`. -/
def minuteTick (i : Nat) (s : State) : State :=
  let n := Tbl.get 0 s.test.minuteTicks i + 1
  if n < 60000 then { s with test := { s.test with minuteTicks := Tbl.set 0 s.test.minuteTicks i n } }
  else lifeCount i { s with test := { s.test with minuteTicks := Tbl.set 0 s.test.minuteTicks i 0 } }

/-- A junction temperature recorded (R505): the extremes, and thermal cycles. -/
def recordTemp (d : Nat) (t : W16) (s : State) : State :=
  let v := t.toInt
  let x := Tbl.get {} s.test.track d
  let (y, cycle) :=
    if ¬ x.started then ({ low := v, high := none, started := true : ThermalTrack }, false)
    else match x.high with
      | none => if x.low + 80 ≤ v then ({ x with high := some v }, false) else ({ x with low := min x.low v }, false)
      | some h => if v ≤ h - 80 then ({ x with low := v, high := none }, true) else ({ x with high := some (max h v) }, false)
  let s := { s with
    power := { s.power with tj := Tbl.set 0 s.power.tj d t },
    test := { s.test with track := Tbl.set {} s.test.track d y,
                          tjHigh := if s.test.tjHigh.toInt < v then t else s.test.tjHigh,
                          tjLow := if v < s.test.tjLow.toInt then t else s.test.tjLow } }
  if cycle then lifeCount 6 s else s

/-! ### Domains (R190-R192, R344-R347) -/

/-- Code of a domain state (R346). -/
def domCode : DomState → Nat
  | .up => 0
  | .closing => 1
  | .closed => 2
  | .waking => 3

/-- Code of a package state (R347). -/
def pkgCode : PkgState → Nat
  | .off => 0
  | .parked => 1
  | .standby => 2
  | .ready => 3
  | .active => 4

/-- The compute domains (R347): cell groups, select engines and tile groups. -/
def isCompute (d : Nat) : Bool := (d < 48 && d % 12 ≤ 8) || d == 54 || d == 55

/-- The die of a domain. -/
def domDie (d : Nat) : Nat := if d < 48 then d / 12 else if d < 56 then 4 else 5

/-- Whether the domain's die is in service (R345, R348). -/
def dieServes (s : State) (d : Nat) : Bool := 5 ≤ domDie d || (getDie s (domDie d)).state == .inService

/-- The package state set, with POWER_CHANGE at a change (R347). -/
def setPkg (p : PkgState) (s : State) : State :=
  if s.power.pkg = p then s
  else broadcast 0xE005 [BitVec.ofNat 8 (pkgCode p), 0xFF, 0] { s with power := { s.power with pkg := p } }

/-- READY and ACTIVE follow the compute domains (R347). -/
def refreshPkg (s : State) : State :=
  if s.power.pkg = .ready ∨ s.power.pkg = .active then
    setPkg (if (upFrom 0 56).any (fun d => isCompute d && (getDom s d).state != .closed) then .active else .ready) s
  else s

/-- A domain's state set, with POWER_CHANGE to mailbox 0 (R346). -/
def setDomState (d : Nat) (st : DomState) (s : State) : State :=
  let x := getDom s d
  if x.state = st then s
  else refreshPkg (sendOwner 0xE005 [BitVec.ofNat 8 (pkgCode s.power.pkg), BitVec.ofNat 8 d, BitVec.ofNat 8 (domCode st)]
    (settlePlls (setDom s d { x with state := st })))

/-- A domain gated: UP becomes CLOSING. -/
def gate (d : Nat) (s : State) : State := if (getDom s d).state = .up then setDomState d .closing s else s

/-- A CLOSED domain ungated, outside HOLD (R358): WAKING, counted in WAKES, and an earlier failed wake no longer answers for it
(R192). -/
def ungate (d : Nat) (s : State) : State :=
  let x := getDom s d
  if x.state = .closed ∧ s.power.supply ≠ .hold then
    setDomState d .waking (setDom s d { x with wakeFailed := false, wakes := satAdd x.wakes 1, wakesOvf := x.wakesOvf || satLost x.wakes 1 })
  else s

/-- Regions BLANK (R344). -/
def blankRegions (ks : List Nat) (s : State) : State :=
  let t := ks.foldl (fun t k => Tbl.modify {} t k (fun r => { r with
    state := .blank, open_ := false, outstanding := [], tgt := [], imageId := 0 })) s.frame.regions
  let f := ks.foldl (fun f k => f.filter (fun e => e.1 / 2 ^ 21 ≠ k)) s.frame.cfg.frames
  { s with frame := { s.frame with regions := t, cfg := { s.frame.cfg with frames := f } } }

/-- What a domain loses as it becomes CLOSED (R344). -/
def loseDomain (d : Nat) (s : State) : State :=
  let c := s.cmp
  let die := d / 12
  let all := fun (n : Nat) => upFrom 0 n
  if d < 48 then
    if d % 12 < 8 then
      { s with cmp := { c with cells := (all 4).foldl (fun t i =>
          Tbl.set {} t (32 * die + 4 * (d % 12) + i) { state := .gated }) c.cells } }
    else if d % 12 = 8 then
      { s with cmp := { c with engines := (all 8).foldl (fun t i => Tbl.set {} t (8 * die + i) { state := .gated }) c.engines } }
    else if d % 12 = 11 then
      let s := (portsOfDie die).foldl (fun s p => setSlink s p { retired := (getSlink s p).retired, configuredOff := (getSlink s p).configuredOff }) s
      { s with cmp := { s.cmp with slots := s.cmp.slots.filter (fun e => e.1 / 16 ≠ die) },
               net := { s.net with routers := s.net.routers.filter (fun e => e.1 / 64 ≠ die) } }
    else s
  else match d with
    | 48 => { s with net := { s.net with routers := s.net.routers.filter (fun e => e.1 / 64 ≠ 4) } }
    | 49 => blankRegions (all 7) s
    | 50 => { s with frame := { s.frame with channels := Tbl.mapAll {} (fun _ x => { x with
        buffer := none, discarding := false, streaming := false }) s.frame.channels } }
    | 51 => blankRegions [1, 2] s
    | 52 => blankRegions [3, 4] s
    | 53 => blankRegions [5, 6] s
    | 54 => { s with cmp := { c with tiles := (all 48).foldl (fun t i => Tbl.set {} t i { state := .gated }) c.tiles } }
    | 55 => { s with cmp := { c with tiles := (upFrom 48 48).foldl (fun t i => Tbl.set {} t i { state := .gated }) c.tiles } }
    | 61 => { s with power := { s.power with pcieUp := false }, keeper := { s.keeper with vectors := [] } }
    | 62 => { s with power := { s.power with port62Up := false },
                     holmi := { s.holmi with pkg := Tbl.mapAll {} (fun _ _ => {}) s.holmi.pkg, relays := [] } }
    | 63 => { s with power := { s.power with xspiBusy := false } }
    | _ => s

/-- The units of a domain are IDLE when it comes UP. -/
def freshUnits (d : Nat) (s : State) : State :=
  let c := s.cmp
  let die := d / 12
  if d < 48 then
    if d % 12 < 8 then
      { s with cmp := { c with cells := (upFrom 0 4).foldl (fun t i => Tbl.set {} t (32 * die + 4 * (d % 12) + i) {}) c.cells } }
    else if d % 12 = 8 then
      { s with cmp := { c with engines := (upFrom 0 8).foldl (fun t i => Tbl.set {} t (8 * die + i) {}) c.engines } }
    else s
  else if d = 54 then { s with cmp := { c with tiles := (upFrom 0 48).foldl (fun t i => Tbl.set {} t i {}) c.tiles } }
  else if d = 55 then { s with cmp := { c with tiles := (upFrom 48 48).foldl (fun t i => Tbl.set {} t i {}) c.tiles } }
  else s

/-- Regions of a Frame region domain. -/
def domRegions (d : Nat) : List Nat := match d with
  | 49 => upFrom 0 7
  | 51 => [1, 2]
  | 52 => [3, 4]
  | 53 => [5, 6]
  | _ => []

/-- Whether a domain still has work (R190, R191): a descriptor that has started on its units and not finished, a request to one of its regions that
waits on TGT, or a request of one that awaits its response. -/
def domainBusy (s : State) (d : Nat) : Bool :=
  s.obj.queues.any (fun e => acceptedIn e.2 d)
    || (domRegions d).any (fun k => (getRegion s k).tgt.any (fun q => !q.late) || !(getRegion s k).outstanding.isEmpty)

/-! ### Package-state transitions (R348-R350) -/

/-- The domains that a goal waits for, with the state they must reach. -/
def goalDomains (s : State) : PkgState → List (Nat × DomState)
  | .parked => ((upFrom 0 64).filter (fun d => d < 56 || 60 < d)).map (fun d => (d, .closed))
  | .standby => (upFrom 0 56).map (fun d => (d, .closed))
  | .ready =>
    (if s.power.pkg = .standby then s.power.upBefore.filter (fun d => !isCompute d) else []).map (fun d => (d, DomState.up))
      ++ ((upFrom 0 56).filter (fun d => isCompute d && dieServes s d)).map (fun d => (d, .closed))
  | _ =>
    (if s.power.pkg = .standby then s.power.upBefore else []).map (fun d => (d, DomState.up))
      ++ ((upFrom 0 56).filter (fun d => isCompute d && dieServes s d)).map (fun d => (d, .up))

/-- The next moves towards a goal: domains not yet in their state are gated or ungated. -/
def pushGoal (g : PkgState) (s : State) : State :=
  (goalDomains s g).foldl (fun s e => if e.2 = .up then (if dieServes s e.1 then ungate e.1 s else s) else gate e.1 s) s

/-- A goal reached: the package state, the command's outcome, and what the exit from STANDBY does (R349). -/
def reachGoal (c : Option CmdRef) (g : PkgState) (s : State) : State :=
  let wasStandby := s.power.pkg == .standby && (g == .ready || g == .active)
  let s := { s with power := { s.power with goal := none } }
  let s := match g with
    | .parked => saveLifetime { s with power := { s.power with parking := true } }
    | .standby => setPkg .standby s
    | _ => refreshPkg (if s.power.pkg = .standby then setPkg .ready s else s)
  let s := if wasStandby then
      let s := { s with power := { s.power with resumeIrq := s.boot.started &&& s.power.halted, halted := 0, upBefore := [] } }
      sendWakeCause (upFrom 0 32) false s
    else s
  match c with
  | some c => finishCmd c 0 [] s
  | none => s

/-- A transition in progress moved on: to STANDBY once every partition has halted, else as its domains change. -/
def stepGoal (s : State) : State :=
  match s.power.goal with
  | none => s
  | some (c, g) =>
    if g = .standby ∧ s.power.halting ≠ 0 then s
    else
      let s := pushGoal g s
      if (goalDomains s g).all (fun e => (getDom s e.1).state == e.2 || !dieServes s e.1) then reachGoal c g s else s

/-- DOMAIN_CTRL commands for a domain that is now in the state they asked for (R345). -/
def endDomCmds (d : Nat) (up : Bool) (code : W16) (s : State) : State :=
  let mine := fun (e : CmdRef × Nat × Bool) => e.2.1 == d && e.2.2 == up
  let l := s.power.domCmds.filter mine
  l.foldl (fun s e => finishCmd e.1 code [] s) { s with power := { s.power with domCmds := s.power.domCmds.filter (fun e => !mine e) } }

/-- Pending DOMAIN_CTRL commands of a domain moved on, oldest wish first. -/
def pushDomCmds (d : Nat) (s : State) : State :=
  match s.power.domCmds.find? (fun e => e.2.1 == d) with
  | some (_, _, true) => ungate d s
  | some (_, _, false) => gate d s
  | none => s

/-- MONITOR_CLOSING_EVALUATE (R101): an armed slot evaluates its plain word once, after CLOSING has completed the accepted
requests of its domain. -/
def monitorClosingEvaluate (k : Nat) (s : State) : State :=
  let x := getSlot s k
  let d := domainOf s (addrDie x.watch.toNat) (addrLoc x.watch.toNat)
  if watchesDomain s d x ∧ (getDom s d).state = .closing ∧ ¬ domainBusy s d then closingEvaluate k s else s

def execMonitorClosingEvaluate (k : Nat) (s : State) : Host.Outcome State Fault Refusal :=
  inRange (decide (k < 4096)) (monitorClosingEvaluate k s)

/-- DOMAIN_CLOSED (R190): a CLOSING domain whose accepted work has ended, and whose words no slot still has to evaluate (R101),
becomes CLOSED. -/
def domainClosed (d : Nat) (s : State) : State :=
  if (getDom s d).state = .closing ∧ ¬ domainBusy s d ∧ ¬ s.obj.slots.any (fun e => watchesDomain s d e.2) then
    stepGoal (pushDomCmds d (endDomCmds d false 0 (setDomState d .closed (loseDomain d s))))
  else s

def execDomainClosed (d : Nat) (s : State) : Host.Outcome State Fault Refusal := inRange (decide (d < 64)) (domainClosed d s)

/-- DOMAIN_UP (R190, R192): a WAKING domain reports ready, or its wake fails and its ungate commands end with one of the
codes of DOMAIN_CTRL's card, the manual not saying which (assumption log 2). -/
def domainUp (d : Nat) (ready : Bool) (s : State) : State :=
  let x := getDom s d
  if x.state = .waking then
    if ready then
      let s := setDomState d .up (setDom (freshUnits d s) d { x with notice := false, wakeFailed := false })
      stepGoal (pushDomCmds d (endDomCmds d true 0 s))
    else endDomCmds d true (pickStatus s 1 (cardCodes 0x0302)) (setDomState d .closed (setDom s d { x with wakeFailed := true }))
  else s

def execDomainUp (d : Nat) (ready : Bool) (s : State) : Host.Outcome State Fault Refusal := inRange (decide (d < 64)) (domainUp d ready s)

/-- DOMAIN_WAKE (R192, R344): the Keeper ungates a domain on its notice, once CLOSED. -/
def domainWake (d : Nat) (s : State) : State :=
  let x := getDom s d
  if x.notice ∧ ¬ x.wakeFailed ∧ dieServes s d then ungate d s else s

def execDomainWake (d : Nat) (s : State) : Host.Outcome State Fault Refusal := inRange (decide (d < 64)) (domainWake d s)

/-! ### The power commands (R56, R345-R352, R356) -/

/-- The state in which R345 or R269 refuses a gate (`up` false) or an ungate of a domain. -/
def domainRefused (s : State) (d : Nat) (up : Bool) : Bool :=
  let others := fun (lo n : Nat) => (upFrom lo n).any (fun e => e != d && (getDom s e).state != .closed)
  let regionIn := fun (p : RegionState → Bool) => (domRegions d).any (fun k => p (getRegion s k).state)
  (57 ≤ d && d ≤ 60) || regionIn (fun r => r == .draining || r == .loading)
  || (if up then !dieServes s d
      else if d < 48 then
        let die := d / 12
        (d % 12 == 9 && (upFrom 0 16).any (fun p => bitOf s.boot.started p
            && (upFrom 0 4).any (fun k => bitOf (s.boot.opt.parts.getD p {}).cores (4 * die + k))))
        || (d % 12 == 11 && (others (12 * die) 12 || (portsOfDie die).any (fun p => (getSlink s p).state == .up)
            || (upFrom 0 6).any (fun e => e != die && (upFrom 0 128).any (fun k =>
                let r := blockGet s (routeId s e) k
                bitOf r 0 && field r 3 1 == die && k % 8 != e))))
      else (d == 48 && others 48 8) || regionIn (fun r => r == .held || r == .running)
        || (d == 50 && (upFrom 0 20).any (fun c => (Tbl.get {} s.frame.channels c).enable))
        || (d == 61 && s.power.pcieUp) || (d == 62 && s.power.port62Up) || (d == 63 && s.power.xspiBusy))

/-- DOMAIN_CTRL (R345): the wake-on-access bit, and a gate or ungate that CMD_DONE reports. -/
def domainCtrl (r : Req) (s : State) : Ans :=
  let d := leNat r.p 0 1
  let b := leNat r.p 1 1
  let w := leNat r.p 2 1
  if 63 < d ∨ d = 56 ∨ 1 < b ∨ 1 < w then reject s 0x1006
  else if domainRefused s d (b = 1) then reject s 0x2001
  else acceptOr r (fun c s =>
    let s := setDom s d { getDom s d with woa := w == 1 }
    let st := (getDom s d).state
    let s := { s with power := { s.power with domCmds := s.power.domCmds ++ [(c, d, b == 1)] } }
    if b = 1 ∧ st = .up then endDomCmds d true 0 s
    else if b = 0 ∧ st = .closed then endDomCmds d false 0 s
    else pushDomCmds d s) s

def execDomainCtrl (m : Nat) (s : State) : Host.Outcome State Fault Refusal := inRange (decide (m < 32)) (takeUpCard 0x0302 domainCtrl m s)

/-- Whether a context is RESETTING, DESTROYING or ACTIVE (R70): a queue of it has unretired descriptors. -/
def ctxState (s : State) (c : Nat) : CtxState :=
  let x := getCtx s c
  if inReset x then x.state
  else if s.obj.queues.any (fun e => e.2.live && e.2.ctx.toNat == ctxId s c && e.2.submitted != e.2.retired) then .active else .idle

/-- PKG_STATE (R347-R350). -/
def pkgState (r : Req) (s : State) : Ans :=
  let t := leNat r.p 0 1
  let busy := s.power.goal.isSome || s.power.parking || cmdPending s 0x0901
  if t < 1 ∨ 4 < t then reject s 0x1006
  else if busy then reject s 0x2001
  else if t = 1 then
    if ¬ (liveCtxs s).isEmpty ∨ outsideSafe s ∨ s.flash.banks.any (fun e => e.2.activity != .idle) then reject s 0x2001
    else acceptOr r (fun c s =>
      stepGoal { s with boot := { s.boot with started := 0 }, power := { s.power with goal := some (some c, .parked) } }) s
  else if t = 2 then
    if (liveCtxs s).any (fun c => ctxState s c != .idle) then reject s 0x2001
    else acceptOr r (fun c s =>
      if s.power.pkg = .standby then finishCmd c 0 [] s
      else
        let up := (upFrom 0 56).filter (fun d => (getDom s d).state == .up || (getDom s d).state == .waking)
        stepGoal { s with power := { s.power with
          goal := some (some c, .standby), upBefore := up, halting := s.boot.started &&& ~~~s.power.halted } }) s
  else acceptOr r (fun c s => stepGoal { s with power := { s.power with goal := some (some c, if t = 3 then .ready else .active) } }) s

def execPkgState (m : Nat) (s : State) : Host.Outcome State Fault Refusal := inRange (decide (m < 32)) (takeUpCard 0x0301 pkgState m s)

/-- CLOCK_SET (R356). -/
def clockSet (r : Req) (s : State) : Ans :=
  let mask := leNat r.p 0 1
  let mhz := leNat r.p 2 2
  if mask = 0 ∨ 31 < mask ∨ mhz % 25 ≠ 0 ∨ mhz < 400 ∨ 1200 < mhz then reject s 0x1006
  else acceptOr r (fun c s =>
    let t := (upFrom 0 5).foldl (fun t d => if mask / 2 ^ d % 2 = 1 then Tbl.set 0 t d mhz else t) s.power.clock
    finishCmd c 0 [] { s with power := { s.power with clock := t } }) s

def execClockSet (m : Nat) (s : State) : Host.Outcome State Fault Refusal := inRange (decide (m < 32)) (takeUpCard 0x0303 clockSet m s)

/-- Whether a cause with its unit is armed (R352). -/
def causeArmed (s : State) (cause unit : Nat) : Bool :=
  bitOf s.power.wakeEnable cause && (match cause with
    | 1 => bitOf s.power.wakeEnable (16 + unit)
    | 2 => bitOf s.power.wakeEnable (22 + unit)
    | 3 => bitOf s.power.wakeEnable (26 + unit)
    | _ => true)

/-- A cause latched, with its unit (R352, R353). -/
def latchCause (cause unit : Nat) (s : State) : State :=
  let w := setBit s.power.wakeCause cause true
  let w := match cause with
    | 1 => setBit w (16 + unit) true
    | 2 => setBit w (22 + unit) true
    | 3 => setBit w (26 + unit) true
    | _ => w
  { s with power := { s.power with wakeCause := w } }

/-- What an armed cause that latches does beyond latching: PARKED starts, STANDBY is left, and a wake that
latches after PME_Turn_Off is held for WAKE# (R348, R363). A start from PARKED starts the ring oscillator (R355). -/
def wakeUp (s : State) : State :=
  let p := s.power
  let toPark : Bool := match p.goal with
    | some (_, .parked) => true
    | _ => p.parking
  let s := if p.turnOff then { s with power := { s.power with wakeHeld := true } } else s
  if p.pkg = .parked then { s with power := { s.power with pwrEn := true, ring := true } }
  else if toPark then { s with power := { s.power with startAfterPark := true } }
  else if p.pkg = .standby ∧ p.goal = none then stepGoal { s with power := { s.power with goal := some (none, .ready) } }
  else s

/-- WAKE_SOURCE (R352). -/
def wakeSource (cause unit : Nat) (s : State) : State :=
  if s.power.vbat ∧ causeArmed s cause unit then wakeUp (latchCause cause unit s) else s

def execWakeSource (cause unit : Nat) (s : State) : Host.Outcome State Fault Refusal :=
  inRange (decide (cause < 9 ∧ unit < (if cause = 1 then 6 else if cause = 2 ∨ cause = 3 then 4 else 1))) (wakeSource cause unit s)

/-- WAKE_CONFIG (R352). -/
def wakeConfig (r : Req) (s : State) : Ans :=
  let mask := le32 r.p 0
  let t := le64 r.p 8
  if mask &&& 0xC000FF81 ≠ 0 ∨ 2 ^ 48 ≤ t.toNat then reject s 0x1006
  else
    let s := { s with power := { s.power with wakeEnable := mask ||| 0x181, alarm := t.truncate 48 } }
    okay (if t ≠ 0 ∧ t.toNat ≤ s.power.rtc.toNat ∧ causeArmed s 4 0 then wakeUp (latchCause 4 0 s) else s) []

def execWakeConfig (m : Nat) (s : State) : Host.Outcome State Fault Refusal := inRange (decide (m < 32)) (takeUpCard 0x0304 wakeConfig m s)

/-! ### OFF, PARKED, partitions -/

/-- Package reset held: no mailbox is bound until PACKAGE_RESET releases it. -/
def heldReset (s : State) : State :=
  let s := packageReset s
  { s with keeper := {}, power := { s.power with resetHeld := true } }

/-- VBAT_RISE (R348): OFF to PARKED, with domain 56 up; POWER_ON latches and starts the package (R352). -/
def vbatRise (s : State) : State :=
  if s.power.pkg = .off then
    let s := setDom s 56 { getDom s 56 with state := .up }
    wakeUp (latchCause 0 0 { s with power := { s.power with vbat := true, pkg := .parked } })
  else s

def execVbatRise (s : State) : Host.Outcome State Fault Refusal := inRange true (vbatRise s)

/-- The rails but VBAT are down: no domain outside `on` is up, and neither the ring oscillator nor a PLL runs (R347, R355). -/
def railsDown (on : List Nat) (s : State) : State :=
  let doms := (upFrom 0 64).foldl (fun t d => if on.contains d then t else Tbl.set {} t d { getDom s d with state := .closed }) s.net.doms
  settlePlls { s with net := { s.net with doms := doms }, power := { s.power with ring := false } }

/-- VBAT_LOSS (R347): OFF, with no domain up; the key RAM and the registers of domain 56 are lost. -/
def vbatLoss (s : State) : State :=
  let s := heldReset s
  let s : State := { s with boot := { s.boot with keyRam := [] } }
  railsDown [] { s with power := { pkg := .off, vbat := false, pwrEn := false, resetHeld := true, perst := s.power.perst } }

def execVbatLoss (s : State) : Host.Outcome State Fault Refusal := inRange true (vbatLoss s)

/-- PWR_EN_LOWER (R350): every rail but VBAT is removed; a wake latched during the entry starts the package at once. -/
def pwrEnLower (s : State) : State :=
  if s.power.parking then
    let start := s.power.startAfterPark
    let s := heldReset s
    let s := railsDown [56] { s with power := { s.power with pkg := .parked, pwrEn := start } }
    { s with power := { s.power with ring := start } }
  else s

def execPwrEnLower (s : State) : Host.Outcome State Fault Refusal := inRange true (pwrEnLower s)

/-- HALTED of a partition (R349, R359). -/
def setHalted (n : Nat) (v : Bool) (s : State) : State :=
  let s : State := { s with power := { s.power with halted := setBit s.power.halted n v } }
  if v then stepGoal { s with power := { s.power with halting := setBit s.power.halting n false } } else s

/-- Whether a source is partition `n` of this node. -/
def isPartition (s : State) (src : W32) (n : Nat) : Bool := srcUnit src == 2 && srcSub src == n && srcNode src == s.swarm.node

/-- PARTITION_HALTED (R349, R359): a partition writes its HALTED bit; another source is handled under R78. -/
def partitionHalted (src : W32) (n : Nat) (v : W32) (s : State) : State :=
  if isPartition s src n then setHalted n (bitOf v 0) (answer 0 [] s)
  else refuseWrite src (here s 5 (0x0100A060140 + 4 * n)) none 0x4001 s

def execPartitionHalted (src : W32) (n : Nat) (v : W32) (s : State) : Host.Outcome State Fault Refusal :=
  inRange (decide (n < 16)) (partitionHalted src n v s)

/-- PARTITION_HALT_TIMEOUT (R349): the partition is held in reset. -/
def partitionHaltTimeout (n : Nat) (s : State) : State :=
  if bitOf s.power.halting n then
    stepGoal { s with power := { s.power with halting := setBit s.power.halting n false },
                      boot := { s.boot with started := setBit s.boot.started n false } }
  else s

def execPartitionHaltTimeout (n : Nat) (s : State) : Host.Outcome State Fault Refusal :=
  inRange (decide (n < 16)) (partitionHaltTimeout n s)

/-! ### Supply (R358) -/

/-- The supply state that a sensed voltage (0.01 V) leads to. -/
def supplyNext (now : SupplyState) (v : Nat) : SupplyState :=
  let fresh := if v < 1200 then SupplyState.hold else if v < 1600 then .warning else if 3600 < v then .overvoltage else .normal
  match now with
  | .normal => fresh
  | .warning => if v ≤ 1700 ∧ 1200 ≤ v then .warning else fresh
  | .hold => if v ≤ 1650 then .hold else if v ≤ 1700 then .warning else fresh
  | .overvoltage => if 3400 ≤ v then .overvoltage else fresh

/-- Code of a supply state. -/
def supplyCode : SupplyState → Nat
  | .normal => 0
  | .warning => 1
  | .hold => 2
  | .overvoltage => 3

/-- A die's throttle level set, with THERMAL at a change (R360). -/
def setLevel (d : Nat) (l : Nat) (s : State) : State :=
  let v : BitVec 4 := BitVec.ofNat 4 l
  if Tbl.get 0 s.power.level d = v then s
  else
    let s := { s with power := { s.power with level := Tbl.set 0 s.power.level d v } }
    broadcast 0xE006 ([BitVec.ofNat 8 d, BitVec.ofNat 8 l] ++ toLE 2 (Tbl.get 0 s.power.tj d).toNat) s

/-- What the early warning suspended, resumed as it clears: the Keeper's erases run on (R311, R358). -/
def resumeKeeperErases (s : State) : State :=
  let f := fun (_ : Nat) (x : FlashBank) =>
    if x.activity = .suspended ∧ x.warned then { x with activity := .erasing, warned := false } else x
  { s with flash := { s.flash with banks := Tbl.mapAll {} f s.flash.banks } }

/-- SUPPLY_STATE_CHANGE (R358), evaluated in every state but OFF and PARKED. -/
def supplyStateChange (volts : Nat) (s : State) : State :=
  if s.power.pkg = .off ∨ s.power.pkg = .parked then s
  else
    let now := s.power.supply
    let n := supplyNext now volts
    let s := { s with power := { s.power with
      volts := BitVec.ofNat 12 (min volts 4095), supply := n, browned := s.power.browned && decide (volts ≤ 1650) } }
    if n = now then s
    else
      let s := broadcast 0xE005 [BitVec.ofNat 8 (pkgCode s.power.pkg), 0xFE, BitVec.ofNat 8 (supplyCode n)] s
      let low := fun (x : SupplyState) => x == .warning || x == .hold
      let s := if low n ∧ ¬ low now then suspendKeeperErases s else s
      let s := if n = .warning ∧ now ≠ .hold then saveLifetime s else s
      let s := if low now ∧ ¬ low n then resumeKeeperErases s else s
      if n = .hold then (upFrom 0 6).foldl (fun s d => setLevel d 8 s) s
      else if now = .hold then stepGoal ((s.power.domCmds.map (fun e => e.2.1)).foldl (fun s d => pushDomCmds d s) s)
      else s

def execSupplyStateChange (volts : Nat) (s : State) : Host.Outcome State Fault Refusal := inRange true (supplyStateChange volts s)

/-- BROWNOUT_RESET (R358): the package starts again once the board supply has been above 16.5 V for 10 ms. -/
def brownoutReset (s : State) : State :=
  if s.power.pkg = .off ∨ s.power.pkg = .parked then s
  else
    let s := lifeCount 8 (latchCause 7 0 (heldReset s))
    { s with power := { s.power with browned := true } }

def execBrownoutReset (s : State) : Host.Outcome State Fault Refusal := inRange true (brownoutReset s)

/-! ### Thermal limits (R360, R361) -/

/-- THROTTLE_TICK for one die: `hot` the package power over the last ten ticks beyond the limit of R21, `calm` this tick's power below 95 %. -/
def throttleDie (hot : Bool) (calm : Bool) (temp : Nat → W16) (s : State) (d : Nat) : State :=
  let t := (temp d).toInt
  let s := recordTemp d (temp d) s
  let cool := if t < 220 ∧ calm then Tbl.get 0 s.power.coolTicks d + 1 else 0
  let s := { s with power := { s.power with coolTicks := Tbl.set 0 s.power.coolTicks d (min cool 100) } }
  let l := (Tbl.get (0 : BitVec 4) s.power.level d).toNat
  if bitOf s.power.thermalHold d ∨ s.power.supply = .hold then setLevel d 8 s
  else if 230 ≤ t ∨ hot then setLevel d (min 8 (l + 1)) s
  else if 100 ≤ cool then setLevel d (l - 1) s
  else s

/-- THROTTLE_TICK (R360): `temps` the dies' hottest sensors in 0.5 °C steps, `watts` the package power of this tick. -/
def throttleTick (temps : List W16) (watts : Nat) (s : State) : State :=
  let l := (watts :: s.power.watts).take 10
  let s := { s with power := { s.power with watts := l } }
  (upFrom 0 6).foldl (throttleDie (decide (375 * l.length < l.foldl (· + ·) 0)) (decide (100 * watts < 95 * 375)) (fun d => temps.getD d 0)) s

def execThrottleTick (temps : List W16) (watts : Nat) (s : State) : Host.Outcome State Fault Refusal :=
  inRange (decide (temps.length = 6)) (throttleTick temps watts s)

/-- THERMAL_HOLD (R361): at 128 °C. -/
def thermalHold (d : Nat) (temp : W16) (s : State) : State :=
  let s := recordTemp d temp s
  if 256 ≤ temp.toInt then setLevel d 8 { s with power := { s.power with thermalHold := setBit s.power.thermalHold d true } } else s

def execThermalHold (die : Nat) (temp : W16) (s : State) : Host.Outcome State Fault Refusal :=
  inRange (decide (die < 6)) (thermalHold die temp s)

/-- THERMAL_HOLD_RELEASE (R361): below 125 °C. -/
def thermalHoldRelease (d : Nat) (temp : W16) (s : State) : State :=
  let s := recordTemp d temp s
  if temp.toInt < 250 then { s with power := { s.power with thermalHold := setBit s.power.thermalHold d false } } else s

def execThermalHoldRelease (die : Nat) (temp : W16) (s : State) : Host.Outcome State Fault Refusal :=
  inRange (decide (die < 6)) (thermalHoldRelease die temp s)

/-- THERMAL_TRIP (R361): at 135 °C, package reset of every domain but 56. -/
def thermalTrip (d : Nat) (temp : W16) (s : State) : State :=
  if 270 ≤ temp.toInt ∧ s.power.pkg ≠ .off ∧ s.power.pkg ≠ .parked then
    let s := lifeCount 9 (latchCause 8 0 (heldReset (recordTemp d temp s)))
    { s with power := { s.power with tripped := true } }
  else s

def execThermalTrip (die : Nat) (temp : W16) (s : State) : Host.Outcome State Fault Refusal :=
  inRange (decide (die < 6)) (thermalTrip die temp s)

/-- THERMAL_TRIP_RESTART (R361): every sensor below 110 °C lets the package start again. -/
def thermalTripRestart (temps : List W16) (s : State) : State :=
  if temps.all (fun t => decide (t.toInt < 220)) then { s with power := { s.power with tripped := false } } else s

def execThermalTripRestart (temps : List W16) (s : State) : Host.Outcome State Fault Refusal :=
  inRange (decide (temps.length = 6)) (thermalTripRestart temps s)

/-! ### Host resume and device wake (R354, R362, R363) -/

/-- PME_TURN_OFF (R362): acknowledged while the link is up. -/
def execPmeTurnOff (s : State) : Host.Outcome State Fault Refusal :=
  inRange true (when s.power.pcieUp (fun s => { s with power := { s.power with turnOff := true } }) s)

/-- PERST_ASSERT (R362): the link goes down; after PME_Turn_Off the D3cold entry is complete and domain 61 is gated. -/
def perstAssert (s : State) : State :=
  let d3 := s.power.turnOff
  let s := { s with power := { s.power with perst := true, pcieUp := false } }
  if d3 then gate 61 s else s

def execPerstAssert (s : State) : Host.Outcome State Fault Refusal := inRange true (perstAssert s)

/-- PERST_DEASSERT (R352, R363): one wake transition; WAKE# is withdrawn; the PCIE cause latches when armed. -/
def perstDeassert (s : State) : State :=
  if s.power.perst then
    let s := { s with power := { s.power with perst := false, wakePin := false, wakeHeld := false, turnOff := false } }
    let s := if s.power.pkg = .off ∨ s.power.pkg = .parked then s else ungate 61 s
    if s.power.vbat ∧ causeArmed s 6 0 then wakeUp (latchCause 6 0 s) else s
  else s

def execPerstDeassert (s : State) : Host.Outcome State Fault Refusal := inRange true (perstDeassert s)

/-- WAKE_ASSERT (R363): a held wake asserts WAKE# while PERST# is asserted. -/
def wakeAssert (s : State) : State :=
  if s.power.perst ∧ s.power.wakeHeld ∧ s.power.turnOff then { s with power := { s.power with wakePin := true, wakeHeld := false } } else s

def execWakeAssert (s : State) : Host.Outcome State Fault Refusal := inRange true (wakeAssert s)

/-- PCIE_LINK_UP (R354, R363, R500): every mailbox bound to a PCIe source receives WAKE_CAUSE ahead of its queued events. -/
def pcieLinkUp (s : State) : State :=
  if ¬ s.power.perst ∧ (getDom s 61).state = .up ∧ ¬ s.power.resetHeld ∧ ¬ (getPat s 5 0).enable then
    let s := { s with power := { s.power with pcieUp := true, turnOff := false, wakeHeld := false } }
    sendWakeCause ((upFrom 0 32).filter (fun m => match (getMbx s m).bound with
      | some src => srcUnit src == 3
      | none => false)) true s
  else s

def execPcieLinkUp (s : State) : Host.Outcome State Fault Refusal := inRange true (pcieLinkUp s)

/-! ### The management tick (R7) -/

/-- The minute counters of R505 that run in this tick. -/
def minuteCounters (s : State) : List Nat :=
  let tj := fun (p : Int → Bool) => (upFrom 0 6).any (fun d => p (Tbl.get (0 : W16) s.power.tj d).toInt)
  let running := s.power.pkg == .standby || s.power.pkg == .ready || s.power.pkg == .active
  let flowing := (upFrom 0 4).any (fun l => (getHm1 s l).ses.state == .flowing)
  (if running then [0] else []) ++ (if running && flowing then [1] else []) ++ (if s.power.pkg == .parked then [2] else [])
    ++ (if running && tj (fun t => decide (250 < t)) then [3] else []) ++ (if running && tj (fun t => decide (t < -80)) then [4] else [])
    ++ (if running && s.power.supply == .overvoltage then [5] else [])

/-- Whole seconds by which the RTC advances in the next tick (R351). -/
def tickSeconds (s : State) : Nat := (s.power.rtcFrac.toNat * 1000 + s.power.rtcResidue + 32768) / (32768 * 1000)

/-- Whether the next tick begins the second of an armed alarm (R352). -/
def alarmDue (s : State) : Bool :=
  s.power.vbat && s.power.alarm != 0 && decide (s.power.rtc < s.power.alarm ∧ s.power.alarm ≤ s.power.rtc + BitVec.ofNat 48 (tickSeconds s))
    && causeArmed s 4 0

/-- One management tick (assumption log 1): the tick count, swarm time and the RTC of domain 56 advance by 1 ms, the minute
counters of R505 run, the HM1s keep time, and sources may be reported again under R78. An armed alarm whose second begins
latches its cause (R352). -/
def tick (s : State) : State :=
  let secs := tickSeconds s
  let rest := (s.power.rtcFrac.toNat * 1000 + s.power.rtcResidue + 32768) % (32768 * 1000)
  let alive := s.power.vbat
  let s := when (alarmDue s) (fun s => wakeUp (latchCause 4 0 s)) s
  let s := { s with
    keeper := { s.keeper with tick := s.keeper.tick + 1, reported := [] },
    swarm := { s.swarm with time := if s.swarm.running then s.swarm.time + BitVec.ofInt 64 (1000000 + s.swarm.trim) else s.swarm.time },
    power := if alive then { s.power with rtc := s.power.rtc + BitVec.ofNat 48 secs, rtcFrac := BitVec.ofNat 15 (rest / 1000),
                                          rtcResidue := rest % 1000 } else s.power }
  hm1Tick ((minuteCounters s).foldl (fun s i => minuteTick i s) s)

end Sys2Proof.Machine
end

