-- ==== Sys2Proof/Machine/HolmiMet.lean ====
section
/-! DEFINITION. The metrology core (chapter 16): intervals and energy (R406-R410), tariff switches (R442), power quality (R411, R412),
calibration (R415), the seal (R420), the checksum (R421), power fail and sealed standby (R423, R424, R457), and its messages (R419). -/

namespace Sys2Proof.Machine

/-! ### Power quality (R411, R412) -/

/-- An open event of a type. -/
def pqOpenOf (m : Metrology) (t : Nat) : Option PqOpen := Tbl.get none m.open_ t
/-- The metrology core with an open event written. -/
def setPqOpen (m : Metrology) (t : Nat) (e : Option PqOpen) : Metrology := { m with open_ := Tbl.set none m.open_ t e }

/-- A fraction `th` (0.1 %) of UDIN, in units of 0.001 × 0.01 V. -/
def udinPart (m : Metrology) (th : Nat) : Nat := th * m.udin.toNat

/-- Phases for which an event of type `t` is started by these half-cycle values. -/
def pqPhases (m : Metrology) (t : Nat) (rms : List Nat) : BitVec 3 :=
  let below := fun (v : Nat) => decide (1000 * v < udinPart m m.sag.toNat)
  let above := fun (v : Nat) => decide (udinPart m m.swell.toNat < 1000 * v)
  let mask := fun (p : Nat → Bool) => BitVec.ofNat 3 (b2n (p (rms.getD 0 0)) + 2 * b2n (p (rms.getD 1 0)) + 4 * b2n (p (rms.getD 2 0)))
  match t with
  | 1 => mask below
  | 2 => mask above
  | _ => if rms.all (fun v => decide (1000 * v < udinPart m m.intr.toNat)) then 7 else 0

/-- Whether an event of type `t` has recovered. -/
def pqOver (m : Metrology) (t : Nat) (rms : List Nat) : Bool :=
  match t with
  | 1 => rms.all (fun v => decide (udinPart m (m.sag.toNat + m.hyst.toNat) ≤ 1000 * v))
  | 2 => rms.all (fun v => decide (1000 * v + udinPart m m.hyst.toNat ≤ udinPart m m.swell.toNat))
  | _ => rms.any (fun v => decide (udinPart m (m.intr.toNat + m.hyst.toNat) ≤ 1000 * v))

/-- The extreme value that an event of type `t` takes from a window. -/
def pqExtreme (t : Nat) (rms : List Nat) : Nat :=
  if t = 2 then rms.foldl max 0 else rms.foldl min (rms.getD 0 0)

/-- The open events follow a window: extremes, and the phases that take part. -/
def pqFollow (rms : List Nat) (m : Metrology) : Metrology :=
  (upFrom 1 3).foldl (fun m t =>
    match pqOpenOf m t with
    | some e =>
      let v := pqExtreme t rms
      setPqOpen m t (some { e with phases := e.phases ||| pqPhases m t rms, extreme := if t = 2 then max e.extreme v else min e.extreme v })
    | none => m) m

/-- PQ_EVENT_START: the instant of the command is the start of the window that crossed (assumption log 54). -/
def pqStart (l : Nat) (rms : List Nat) (s : State) : State :=
  let h := getHm1 s l
  let m := (upFrom 1 3).foldl (fun m t =>
    let p := pqPhases m t rms
    if (pqOpenOf m t).isSome ∨ p = 0 then m
    else { setPqOpen m t (some { phases := p, start := h.rtc, extreme := pqExtreme t rms }) with flagged := true }) (pqFollow rms h.met)
  let m := match pqOpenOf m 1, pqOpenOf m 3 with
    | some e, some _ => setPqOpen m 1 (some { e with inner := true })
    | _, _ => m
  setMet s l m

def execPqEventStart (l : Nat) (rms : List Nat) (s : State) : Host.Outcome State Fault Refusal :=
  inRange (decide (l < 4 ∧ rms.length = 3)) (when (getMet s l).main (pqStart l rms) s)

/-- A record made for an event of type `t` that ends now (R412): kept in the ring of 256 and sent. -/
def pqEnd (l t flags : Nat) (s : State) : State :=
  let h := getHm1 s l
  let m := h.met
  match pqOpenOf m t with
  | none => s
  | some e =>
    let r := [0x90, BitVec.ofNat 8 t, e.phases.zeroExtend 8, BitVec.ofNat 8 (b2n e.inner + flags)]
      ++ toLE 6 (e.start / 32768000) ++ toLE 2 (e.start / 1000 % 32768) ++ toLE 4 ((h.rtc - e.start + 16384) / 32768)
      ++ toLE 4 e.extreme ++ toLE 4 m.pqSeq.toNat
    let (ring, lost) := keepRing 256 m.pqRing { seq := m.pqSeq, bytes := r }
    let m := { setPqOpen m t none with pqRing := ring, pqSeq := m.pqSeq + 1, pqLost := satAdd m.pqLost (b2n lost),
                                       pqLostOvf := m.pqLostOvf || (lost && satLost m.pqLost 1) }
    hm1Event l r (setMet s l m)

/-- PQ_EVENT: the events that the window completes end (R411). -/
def pqWindow (l : Nat) (rms : List Nat) (s : State) : State :=
  let s := setMet s l (pqFollow rms (getMet s l))
  ([3, 1, 2] : List Nat).foldl (fun s t => if pqOver (getMet s l) t rms then pqEnd l t 0 s else s) s

def execPqEvent (l : Nat) (rms : List Nat) (s : State) : Host.Outcome State Fault Refusal :=
  inRange (decide (l < 4 ∧ rms.length = 3)) (when (getMet s l).main (pqWindow l rms) s)

/-- FREQUENCY_WINDOW (R408): whole cycles over their total duration, in mHz; 0 when the window contains any loss of lock,
as AC_LOCK has shown it or the window itself does (`lost`). -/
def frequencyWindow (l cycles micros : Nat) (lost : Bool) (s : State) : State :=
  let m := getMet s l
  let none_ : Bool := lost || m.lockLost || !m.locked || micros == 0
  setMet s l { m with lockLost := false, freq := if none_ then 0 else BitVec.ofNat 32 ((2 * cycles * 10 ^ 9 + micros) / (2 * micros)) }

def execFrequencyWindow (l cycles micros : Nat) (lost : Bool) (s : State) : Host.Outcome State Fault Refusal :=
  inRange (decide (l < 4)) (when (getMet s l).main (frequencyWindow l cycles micros lost) s)

/-- A node that loses AC lock abandons the frame that it sends, without counting the attempt (chapter 18, corner cases). -/
def abandon (n : PlcNode) : PlcNode :=
  { n with queue := n.queue.map (fun t => if t.sent then { t with sent := false, attempts := t.attempts - 1 } else t) }

/-- FREQ_NOMINAL in mHz (R414). -/
def nominal (m : Metrology) (l : Nat) : Nat := if bitOf (calWord m l 43) 0 then 60000 else 50000

/-- Whether AC is locked (R406): a half-cycle RMS of VA1 (0.01 V) of at least 10 % of UDIN, and a frequency (mHz) within 15 % of nominal. -/
def acLocked (m : Metrology) (l : Nat) (x : AcMeasure) : Bool :=
  decide (m.udin.toNat ≤ 10 * x.rms ∧ 85 * nominal m l ≤ 100 * x.mhz ∧ 100 * x.mhz ≤ 115 * nominal m l)

/-- AC_LOCK (R406): a half-cycle RMS of VA1 and the frequency measured. A change of lock cuts the interval that runs, which ends by
INTERVAL_END; the power line neither sends nor receives while not locked (R461). -/
def acLock (l : Nat) (x : AcMeasure) (s : State) : State :=
  let h := getHm1 s l
  let m := h.met
  let locked := acLocked m l x
  let nodes := if locked then h.plc.nodes else Tbl.mapAll {} (fun _ n => abandon n) h.plc.nodes
  setHm1 s l { h with met := { m with locked := locked, lockMoved := m.lockMoved || locked != m.locked, lockLost := m.lockLost || !locked },
                      plc := { h.plc with nodes := nodes } }

def execAcLock (l : Nat) (x : AcMeasure) (s : State) : Host.Outcome State Fault Refusal :=
  inRange (decide (l < 4)) (when (getMet s l).main (acLock l x) s)

/-! ### Energy (R409, R410, R442) -/

/-- Product units of one mWh of accumulator `a` (R409). -/
def unitsPerMwh (a : Nat) : Nat := if a = 4 then 11520000000000 else 2880000000000

/-- What an accumulator adds to the billing registers at an interval end: whether received, and the whole mWh before and from a
tariff switch on (R442); and its residue. `e1` is the part of the sum `e` before the switch. -/
def giveUp (a : Nat) (energy : Energy) (e e1 : Int) : Energy × Bool × Nat × Nat :=
  let received : Bool := decide (e < 0)
  let i := 2 * a + b2n received
  let r := Tbl.get 0 energy.residues i
  let u := unitsPerMwh a
  let whole := (r + e.natAbs) / u
  let before := (((r : Int) + (if received then -e1 else e1)) / (u : Int)).toNat
  let w1 := min before whole
  ({ energy with residues := Tbl.set 0 energy.residues i ((r + e.natAbs) % u) }, received, w1, whole - w1)

/-- The samples and sums of an interval. -/
structure IntervalSums where
  phases : List PhaseSums
  /-- Phase products sample by sample, of phases 0-2. -/
  products : List (List Int)
  neutral : List Int
  residual : List Int
  vd : List Int
  id : List Int
  ix : List Int
deriving DecidableEq, Repr

/-- Calibrated samples and exact sums of an interval (R403, R407). -/
def intervalSums (m : Metrology) (l : Nat) (x : IntervalCodes) : IntervalSums :=
  let ch := fun (c : Nat) => samplesOf m l c (x.codes.getD c [])
  let v := (upFrom 0 3).map ch
  let i := (upFrom 3 3).map ch
  let neutral := ch 6
  { phases := (v.zip i).map (fun p => phaseSums x.cycles x.duration p.1 p.2)
    products := (v.zip i).map (fun p => (p.1.zip p.2).map (fun q => q.1 * q.2))
    neutral := neutral
    residual := i.foldl addLists neutral
    vd := ch 7, id := ch 8, ix := ch 9 }

/-- Phases below I_START_AC (R410). -/
def belowStart (m : Metrology) (l : Nat) (p : PhaseSums) : Bool :=
  let t := (calWord m l 40).toNat
  decide (p.ii < ((p.n * t * t : Nat) : Int))

/-- DC below I_START_DC (R410). -/
def belowStartDc (m : Metrology) (l : Nat) (i : List Int) : Bool := decide ((total i).natAbs < (calWord m l 41).toNat * i.length)

/-- The interval sums of accumulators 0-4 and their parts before the switch sample `k`. -/
def intervalEnergy (m : Metrology) (l : Nat) (x : IntervalSums) (k : Nat) : List (Int × Int) :=
  let ph := (x.phases.zip x.products).map (fun p => if belowStart m l p.1 then (0, 0) else (total p.2, total (p.2.take k)))
  let dcp := (x.vd.zip x.id).map (fun q => q.1 * q.2)
  let dc := if belowStartDc m l x.id then (0, 0) else (total dcp, total (dcp.take (4 * k)))
  ph ++ [(total (ph.map (·.1)), total (ph.map (·.2))), dc]

/-- Results of an interval (R406, R407, R413, R419). -/
def intervalResult (h : Hm1) (l : Nat) (x : IntervalCodes) (y : IntervalSums) : MetResult :=
  let m := h.met
  let ref := (y.phases.head?.map (·.v1)).getD (1, 0)
  let dc := dcBytes y.vd y.id y.ix
  let i := leInt dc 4 4
  let diff := (leInt dc 16 4).natAbs
  let b := calWord m l 42
  let exceeded := decide (field b 15 0 < diff ∧ field b 31 16 * i.natAbs < 10000 * diff)
  let opened := m.flagged || (upFrom 1 3).any (fun t => (pqOpenOf m t).isSome)
  let flags := b2n m.locked + 2 * b2n opened + 4 * b2n (x.codes.any overrange)
    + 8 * b2n (y.phases.any (belowStart m l) || belowStartDc m l y.id) + 16 * b2n exceeded + 32 * b2n x.partialInterval
    + 64 * b2n x.hot + 128 * b2n m.metFault
  { seq := m.energy.seq, at_ := rtcSec h, flags := BitVec.ofNat 16 flags,
    phases := y.phases.map (phaseBytes m.udin ref), totals := totalBytes m.udin m.freq y.phases y.neutral y.residual, dc := dc }

/-- RMS current of phase `p` of a result, in mA. -/
def irms (r : MetResult) (p : Nat) : Nat := leNat (r.phases.getD p []) 4 4
/-- Active power of phase `p`, in W. -/
def powerOf (r : MetResult) (p : Nat) : Int := leInt (r.phases.getD p []) 8 4

/-! ### Tamper detection of an interval (R446) -/

/-- A tracker fed with its condition: it starts and ends after `n` intervals in a row. -/
def track (l idx kind phase n : Nat) (cond : Bool) (s : State) : State :=
  let m := getMet s l
  let t : TamperTrack := Tbl.get {} m.tampers idx
  let put := fun (t : TamperTrack) => setMet s l { m with tampers := Tbl.set {} m.tampers idx t }
  if cond = t.on then put { t with run := 0 }
  else if t.run + 1 < n then put { t with run := t.run + 1 }
  else tamper l kind phase t.on (put { run := 0, on := !t.on })

/-- Reaction to a kind that has started: a stop of an outlet session. -/
def reactTo (l idx : Nat) (imm : Bool) (was : Metrology) (s : State) : State :=
  let on := fun (m : Metrology) => (Tbl.get ({} : TamperTrack) m.tampers idx).on
  if on (getMet s l) ∧ ¬ on was ∧ (getSes s l).outlet then stopWith l 7 imm s else s

/-- Kinds 1 to 5 at an interval end; their conditions use the values as reported (assumption log 55). -/
def trackTampers (l : Nat) (s : State) : State :=
  let m := getMet s l
  let x := getSes s l
  let r := m.last
  let run := inSession x
  let p := leInt r.totals 0 4
  let s := (upFrom 0 3).foldl (fun s i =>
    let q := powerOf r i
    track l i 1 (i + 1) 10 (run && x.connector == 0 && decide (q < -20) && decide (q * 50 < -(leNat (r.phases.getD i []) 16 4 : Int))
      && decide (0 < p)) s) s
  let s := reactTo l 3 false m (track l 3 2 0 10 (run && x.outlet && (decide (p < -50) || decide (leInt r.dc 8 4 < -50))) s)
  let s := reactTo l 4 true m (track l 4 3 0 5 (bitOf r.flags 4) s)
  let res := leNat r.totals 22 4
  let top := (upFrom 0 3).foldl (fun a i => max a (irms r i)) 0
  let excess := decide (300 < res) && decide (top < 50 * res)
  let missing := decide (20 * leNat r.totals 18 4 < res)
  let s := reactTo l 5 true m (track l 5 4 0 5 (excess && missing) s)
  reactTo l 6 true m (track l 6 5 0 5 (excess && !missing) s)

/-! ### What a session takes from an interval (R429, R443, R444, R449) -/

/-- Overcurrent (R429): 25 intervals in a row with a phase current above 110 % of the current offered. -/
def watchCurrent (l : Nat) (s : State) : State :=
  let x := getSes s l
  let r := (getMet s l).last
  let excess : Bool := x.state == .flowing && (upFrom 0 3).any (fun i => decide (110 * offered x < irms r i))
  let n := if excess then x.excess + 1 else 0
  let s := setSes s l { x with excess := n }
  if 25 ≤ n ∧ x.outlet then stopWith l 12 false s else s

/-- An orderly stop opens once the current is low: every conductor below 1 A (outlet), or the current below 2 A (inlet). -/
def watchStop (l : Nat) (s : State) : State :=
  let x := getSes s l
  let r := (getMet s l).last
  let limit := if x.outlet then 1000 else 2000
  let low : Bool := if x.connector = 0 then (upFrom 0 3).all (fun i => decide (irms r i < limit)) && decide (leNat r.totals 18 4 < limit)
    else decide ((leInt r.dc 4 4).natAbs < limit)
  if x.state = .stopping ∧ ¬ x.recorded ∧ low then finishStop l s else s

/-- Credit at an interval end (R443, R444). -/
def settleCredit (l : Nat) (s : State) : State :=
  let s := creditMove l (deduct l s)
  let x := getSes s l
  if inSession x ∧ x.method = 3 ∧ x.outlet ∧ (getMet s l).creditState = 3 then stopWith l 3 false s else s

/-- What an interval's result adds to an aggregate (R408): the squares of Urms and Irms by phase, of Inrms and of the frequency. -/
def aggregateOf (r : MetResult) : List Nat :=
  let v := (r.phases.map (fun p => [leNat p 0 4, leNat p 4 4])).flatten ++ [leNat r.totals 18 4, leNat r.totals 14 4]
  v.map (fun x => x * x)

/-- An aggregate with an interval taken in. -/
def aggregate (r : MetResult) (a : Aggregate) : Aggregate :=
  let q := aggregateOf r
  { count := a.count + 1, squares := if a.count = 0 then q else (a.squares.zip q).map (fun e => e.1 + e.2),
    flagged := a.flagged || bitOf r.flags 1 }

/-- The aggregates of R408 after an interval: 15 locked intervals are 150 or 180 cycles, and a 10-minute window of the RTC ends with the
first interval whose end lies beyond it (assumption log 83). -/
def aggregates (was : Nat) (m : Metrology) : Metrology :=
  let r := m.last
  let sh := if m.locked ∧ ¬ bitOf r.flags 5 then aggregate r m.short else {}
  let lg := aggregate r m.long
  let m := if sh.count = 15 then { m with short := {}, lastShort := some sh } else { m with short := sh }
  if was / 600 < r.at_ / 600 then { m with long := {}, lastLong := some lg } else { m with long := lg }

/-- An interval closed: results, whole mWh handed over (those from the tariff switch on after `switch`), and what the session
takes from it. -/
def closeInterval (l : Nat) (x : IntervalCodes) (split : Option Nat) (switch : State → State) (s : State) : State :=
  let h := getHm1 s l
  let m := h.met
  let y := intervalSums m l x
  let n := (x.codes.getD 0 []).length
  let sums := if m.metFault then [] else intervalEnergy m l y (split.getD n)
  let (e, gifts) := (sums.zip (upFrom 0 5)).foldl (fun (acc : Energy × List (Nat × Bool × Nat × Nat)) q =>
    let (e, d, w1, w2) := giveUp q.2 acc.1 q.1.1 (if split.isSome then q.1.2 else q.1.1)
    (e, acc.2 ++ [(q.2, d, w1, w2)])) (m.energy, [])
  let s := setMet s l { m with energy := { e with seq := e.seq + 1 }, last := intervalResult h l x y,
                               flagged := (upFrom 1 3).any (fun t => (pqOpenOf m t).isSome), lockMoved := false,
                               calHeld := m.calHeld.map (fun b => { b with due := true }) }
  let s := setMet s l (aggregates m.last.at_ (getMet s l))
  let s := gifts.foldl (fun s g => handOver l (getMet s l).tariff g.1 g.2.1 g.2.2.1 s) s
  let s := switch s
  let s := gifts.foldl (fun s g => handOver l (getMet s l).tariff g.1 g.2.1 g.2.2.2 s) s
  let ses := getSes s l
  let s := if inSession ses ∧ (x.hot ∨ x.codes.any overrange) then setSes s l { ses with outOfClass := true } else s
  watchStop l (watchCurrent l (trackTampers l (settleCredit l s)))

/-- Whether the codes are those of ten channels, the AC and the DC channels each of one length. -/
def codesOk (x : IntervalCodes) : Bool :=
  let len := fun (c : Nat) => (x.codes.getD c []).length
  x.codes.length == 10 && (upFrom 1 6).all (fun c => len c == len 0) && len 8 == len 7 && len 9 == len 7

/-- Whether codes are those of an interval that R406 forms now: one that a change of lock cuts has PARTIAL set; another has 10 or 12
cycles by FREQ_NOMINAL while locked, and 1,600 AC and 6,400 DC samples while not. -/
def intervalFormed (m : Metrology) (l : Nat) (x : IntervalCodes) : Bool :=
  let len := fun (c : Nat) => (x.codes.getD c []).length
  x.partialInterval == m.lockMoved
    && (m.lockMoved || (if m.locked then x.cycles == (if nominal m l = 60000 then 12 else 10) else len 0 == 1600 && len 7 == 6400))

/-- INTERVAL_END. -/
def execIntervalEnd (l : Nat) (x : IntervalCodes) (s : State) : Host.Outcome State Fault Refusal :=
  inRange (decide (l < 4) && codesOk x) (when ((getMet s l).main && intervalFormed (getMet s l) l x) (closeInterval l x none id) s)

/-- A staged tariff block whose boundary has come (R60): the first minute of the RTC that begins at least 1 s after its receipt. -/
def tariffDue (h : Hm1) : Option HeldSet :=
  let second := 32768000
  match h.met.tarHeld with
  | some b => if (b.at_ + second + 60 * second - 1) / (60 * second) * (60 * second) ≤ h.rtc then some b else none
  | none => none

/-- The tariff of the block in force follows the RTC; a staged block whose boundary has come takes effect first, with TARIFF_CHANGE
(R440). -/
def applyTariff (l : Nat) (s : State) : State :=
  let m := getMet s l
  let due := tariffDue (getHm1 s l)
  let s := match due with
    | none => s
    | some b =>
      let d := toLE 2 m.tarGen.toNat ++ toLE 2 b.gen.toNat ++ Config.sha256 (b.words.map (fun w => toLE 4 w.toNat)).flatten
      let tar := ((upFrom 0 b.words.length).zip b.words).foldl (fun t e => Tbl.set 0 t e.1 e.2) []
      legal l 0x11 d (setMet s l { m with tar := tar, tarGen := b.gen, tarHeld := none })
  let h := getHm1 s l
  let t := tariffAt (tarInForce h.met) (rtcSec h)
  if t = m.tariff ∧ due.isNone then s
  else
    let s := setMet s l { h.met with tariff := t }
    creditMove l (hm1Event l ([0xA5, BitVec.ofNat 8 (t + 1)] ++ toLE 2 h.met.tarGen.toNat) s)

/-- TARIFF_SWITCH (R442): the interval that the switch, or a tariff COMMIT, divides. -/
def execTariffSwitch (l : Nat) (x : IntervalCodes) (s : State) : Host.Outcome State Fault Refusal :=
  inRange (decide (l < 4) && codesOk x) (when ((getMet s l).main && intervalFormed (getMet s l) l x) (closeInterval l x x.split (applyTariff l)) s)

/-! ### Calibration (R415) -/

/-- The answer of the metrology core to a staged set that it refuses. -/
def refuseSet (l blk : Nat) (code : W16) (s : State) : State :=
  if (getEnd s true l).up then holmiSend true l 0 ([0x02, BitVec.ofNat 8 blk] ++ toLE 2 code.toNat) s else s

/-- CAL_APPLIED: at the first interval boundary after its receipt the set held is applied, or refused when the seal has closed or the log has
no room. -/
def calApplied (l : Nat) (s : State) : State :=
  let h := getHm1 s l
  let m := h.met
  match m.calHeld with
  | none => s
  | some b =>
    let t := setMet s l { m with calHeld := none }
    if ¬ b.due then s
    else if m.sealed_ then refuseSet l 16 0x4005 t
    else if legalRoom m = 0 then refuseSet l 16 0x3008 t
    else
      let d := toLE 2 m.calGen.toNat ++ toLE 2 b.gen.toNat
      let cal := ((upFrom 0 b.words.length).zip b.words).foldl (fun t e => Tbl.set (blockDefault (16 * 65536 + 256 * (8 + l)) e.1) t e.1 e.2) []
      let s := setMet s l { m with cal := cal, calGen := b.gen, calHeld := none }
      let s := legal l 0x01 (d ++ Config.sha256 (b.words.map (fun w => toLE 4 w.toNat)).flatten) s
      hm1Event l ([0x91] ++ d ++ toLE 6 m.last.at_ ++ toLE 4 m.energy.seq.toNat) s

def execCalApplied (l : Nat) (s : State) : Host.Outcome State Fault Refusal :=
  inRange (decide (l < 4)) (when (getMet s l).main (calApplied l) s)

/-! ### The seal and the checksum (R420, R421) -/

/-- The seal state byte. -/
def sealByte (m : Metrology) : Byte := BitVec.ofNat 8 (b2n m.sealed_ + 128 * b2n m.metFault)

/-- CAL_EN_CHANGE: a level that has held for 50 ms; a rising level that found no room must fall and rise again. -/
def calEnChange (l : Nat) (high : Bool) (s : State) : State :=
  let rising : Bool := high && !(getMet s l).calEn
  let s := setMet s l { getMet s l with calEn := high }
  let h := getHm1 s l
  let m := h.met
  let move := fun (sl : Bool) (typ : Nat) =>
    let s := legal l typ [] (setMet s l { m with sealed_ := sl })
    hm1Event l ([0x92, sealByte (getMet s l)] ++ toLE 6 (rtcSec h)) s
  if rising ∧ m.sealed_ then (if legalRoom m < 2 then metFaultEvent l 2 s else move false 3)
  else if ¬ high ∧ ¬ m.sealed_ then move true 4
  else s

def execCalEnChange (l : Nat) (high : Bool) (s : State) : Host.Outcome State Fault Refusal :=
  inRange (decide (l < 4)) (when (getMet s l).main (calEnChange l high) s)

/-- Bytes of sectors 0-127 (R419): production's, with what MET_UPDATE wrote. -/
def metImage (m : Metrology) (l : Nat) : Bytes :=
  let p := Config.productionBytes 5 l
  (upFrom 0 262144).map (fun i => Tbl.get (byteAt p i) m.image i)

/-- Whether a metrology image matches the reference digest in its header. -/
def imageOk (i : Bytes) : Bool := Config.metReference i == Config.sha256 i

/-- CHECKSUM_CHECK: LEGAL_ID, and METROLOGY_FAULT at a mismatch, which stops an outlet session (R456). -/
def checksum (l : Nat) (s : State) : State :=
  let m := getMet s l
  let i := metImage m l
  let s := setMet s l { m with legalId := (Config.sha256 i).take 8 }
  if imageOk i ∨ m.metFault then s
  else
    let s := legal l 0x05 [] (setMet s l { getMet s l with metFault := true })
    let x := getSes s l
    let s := if inSession x then setSes s l { x with faulted := true } else s
    let s := metFaultEvent l 3 s
    if x.outlet then stopWith l 8 true s else s

def execChecksumCheck (l : Nat) (s : State) : Host.Outcome State Fault Refusal :=
  inRange (decide (l < 4)) (when (getMet s l).main (checksum l) s)

/-! ### Power fail and standby (R423, R424, R457) -/

/-- POWER_FAIL. A set that waits is lost (R415); the contactor drivers have no supply. -/
def powerFail (l : Nat) (x : IntervalCodes) (s : State) : State :=
  let s := closeInterval l { x with partialInterval := true } none id s
  let h := getHm1 s l
  let rec_ : Saved := ⟨h.rtc, h.met.energy⟩
  let s := setMet s l { h.met with ram := some rec_, slot := some rec_ }
  let s := ([3, 1, 2] : List Nat).foldl (fun s t => pqEnd l t 2 s) s
  let m := { getMet s l with main := false, setLost := (getMet s l).setLost || (getMet s l).calHeld.isSome, calHeld := none, tarHeld := none, flagged := false, locked := false }
  let s := setHm1 s l { getHm1 s l with met := m, inbox := none, waking := false }
  let e := getEnd s true l
  setEnd (drive l false s) true l { e with up := false, heard := false, greeted := false, wire := [],
                                           out := e.out.filter (fun q => q.1 == 2), unacked := [] }

def execPowerFail (l : Nat) (x : IntervalCodes) (s : State) : Host.Outcome State Fault Refusal :=
  inRange (decide (l < 4) && codesOk x) (when (getMet s l).main (powerFail l x) s)

/-- ENERGY_SNAPSHOT. -/
def execEnergySnapshot (l : Nat) (s : State) : Host.Outcome State Fault Refusal :=
  inRange (decide (l < 4)) (when (getMet s l).main (fun s =>
    let h := getHm1 s l
    setMet s l { h.met with minute := some ⟨h.rtc, h.met.energy⟩ }) s)

/-- The newer of two saved records. -/
def newer (a b : Option Saved) : Option Saved :=
  match a, b with
  | some x, some y => if x.at_ < y.at_ then b else a
  | some _, none => a
  | none, _ => b

/-- METROLOGY_START: the energy restored, the checksum taken, and a session that the supply loss cut brought to its end
(assumption log 56). -/
def metrologyStart (l : Nat) (s : State) : State :=
  let h := getHm1 s l
  let m := h.met
  let m' := { m with main := true, ram := none, slot := none }
  let s := setHm1 s l { h with met := m', waking := false }
  let s := match newer m.ram m.slot, m.minute with
    | some r, _ => setMet s l { m' with energy := r.energy }
    | none, some r =>
      let s := legal l 0x06 (toLE 4 ((h.rtc - r.at_) / 32768000)) (setMet s l { m' with energy := r.energy })
      let x := getSes s l
      if inSession x then setSes s l { x with restored := true } else s
    | none, none => s
  let s := checksum l s
  if inSession (getSes s l) then unplug l s else s

def execMetrologyStart (l : Nat) (s : State) : Host.Outcome State Fault Refusal :=
  inRange (decide (l < 4)) (when (!(getMet s l).main) (metrologyStart l) s)

/-- HM1_WAKE (R457): from sealed standby; WAKE waits for the link, and the package latches the wake (R352). -/
def hm1Wake (l : Nat) (reason : Byte) (s : State) : State :=
  let h := getHm1 s l
  if h.met.main ∨ h.waking ∨ reason = 0 then s
  else
    let s := if bitOf reason 1 then coverMove l true s else s
    wakeSource 3 l (hm1Event l [0xA7, reason] (setHm1 s l { getHm1 s l with waking := true }))

def execHm1Wake (l : Nat) (reason : Byte) (s : State) : Host.Outcome State Fault Refusal := inRange (decide (l < 4)) (hm1Wake l reason s)

/-- HM1_MAIN_SUPPLY_TIMEOUT (R457). -/
def execHm1MainSupplyTimeout (l : Nat) (s : State) : Host.Outcome State Fault Refusal :=
  inRange (decide (l < 4)) (when (!(getMet s l).main) (fun s => setHm1 s l { getHm1 s l with waking := false }) s)

/-! ### Messages (R419) -/

/-- MET_READ: a group of the last completed interval. -/
def metRead (l : Nat) (b : Bytes) (s : State) : State × W16 × Bytes :=
  let m := getMet s l
  let r := m.last
  let g := leNat b 1 1
  let p := leNat b 2 1
  let head := toLE 4 r.seq.toNat ++ toLE 6 r.at_ ++ toLE 2 r.flags.toNat
  match g with
  | 0 => if p = 0 ∨ 3 < p then (s, 0x1006, []) else (s, 0, head ++ slice (r.phases.getD (p - 1) []) 0 26)
  | 1 => (s, 0, head ++ slice r.totals 0 26)
  | 2 => (s, 0, head ++ slice r.dc 0 20)
  | 3 => (setMet s l { m with hitsOvf := false, pqLostOvf := false }, 0,
      head ++ [sealByte m] ++ slice m.legalId 0 8 ++ holmiLine ++ toLE 2 m.calGen.toNat ++ toLE 2 m.hits.toNat
        ++ toLE 2 m.pqLost.toNat ++ [BitVec.ofNat 8 (b2n m.hitsOvf + 2 * b2n m.pqLostOvf)])
  | _ => (s, 0x1006, [])

def execMetRead (l : Nat) (s : State) : Host.Outcome State Fault Refusal := inRange (decide (l < 4)) (hm1Take 0x10 none l (metRead l) s)

/-- PQ_CONFIG, in either seal state. -/
def pqConfig (l : Nat) (b : Bytes) (s : State) : State × W16 × Bytes :=
  let sag := le16 b 6
  let swell := le16 b 8
  let intr := le16 b 10
  let hyst := le16 b 12
  if 1000 ≤ sag.toNat ∨ swell.toNat ≤ 1000 ∨ sag.toNat ≤ intr.toNat ∨ 100 < hyst.toNat then (s, 0x1006, [])
  else (setMet s l { getMet s l with udin := le32 b 2, sag := sag, swell := swell, intr := intr, hyst := hyst }, 0, [])

def execPqConfig (l : Nat) (s : State) : Host.Outcome State Fault Refusal := inRange (decide (l < 4)) (hm1Take 0x11 none l (pqConfig l) s)

/-- PQ_READ: the record, or the oldest when the sequence is older than the ring; 0x1006 for a record never made. -/
def pqRead (l : Nat) (b : Bytes) (s : State) : State × W16 × Bytes :=
  let m := getMet s l
  let q := le32 b 2
  let old : Bool := decide (0 < (m.pqSeq - q).toNat ∧ (m.pqSeq - q).toNat < 2 ^ 31)
  let found := match m.pqRing.find? (fun r => r.seq == q) with
    | some r => some r
    | none => if old then m.pqRing.head? else none
  match found with
  | some r => (setMet s l { m with pqRing := m.pqRing.map (fun k => if k.seq = r.seq then { k with read := true } else k) }, 0, r.bytes)
  | none => (s, 0x1006, [])

def execPqRead (l : Nat) (s : State) : Host.Outcome State Fault Refusal := inRange (decide (l < 4)) (hm1Take 0x12 none l (pqRead l) s)

/-- MET_UPDATE: a chunk of the image, only while OPEN; the chunk at offset 0 begins the replacement and writes METROLOGY_UPDATE
(assumption log 57). An image that matches ends METROLOGY_FAULT (R421). -/
def metUpdate (l : Nat) (b : Bytes) (s : State) : State × W16 × Bytes :=
  let m := getMet s l
  let off := leNat b 2 4
  let d := (b.drop 6).take 44
  if 262144 < off + d.length then (s, 0x1006, [])
  else if m.sealed_ then (s, 0x4005, [])
  else if off = 0 ∧ legalRoom m = 0 then (s, 0x3008, [])
  else
    let p := Config.productionBytes 5 l
    let image := ((upFrom off d.length).zip d).foldl (fun t e => Tbl.set (byteAt p e.1) t e.1 e.2) m.image
    let s := setMet s l { m with image := image }
    let s := if off = 0 then legal l 0x02 [] s else s
    let m := getMet s l
    let i := metImage m l
    if m.metFault ∧ imageOk i then (setMet s l { m with metFault := false, legalId := (Config.sha256 i).take 8 }, 0, [])
    else (s, 0, [])

def execMetUpdate (l : Nat) (s : State) : Host.Outcome State Fault Refusal := inRange (decide (l < 4)) (hm1Take 0x13 none l (metUpdate l) s)

end Sys2Proof.Machine
end

