-- ==== Sys2Proof/Machine/PlcBits.lean ====
section
/-! DEFINITION. The symbols of the power line: the convolutional code and the interleaver (R465, R466), bursts and their
sub-symbols (R463), preamble and syncs (R467), blanking (R464) and the decoder (R468). -/

namespace Sys2Proof.Machine

/-! ### Coding (R465, R466) -/

/-- The bits of bytes, byte 0 first and least significant bit first. -/
def lsbBits (b : Bytes) : List Bool := (b.map (fun x => (upFrom 0 8).map (fun i => bitOf x i))).flatten

/-- The 384 information bits of a frame: its 46 bytes and 16 zero bits. -/
def plcInfo (f : Bytes) : List Bool := lsbBits (slice f 0 46) ++ List.replicate 16 false

/-- Parity of a number below 128. -/
def oddParity (n : Nat) : Bool :=
  let a := n ^^^ (n >>> 4)
  let b := a ^^^ (a >>> 2)
  (b ^^^ (b >>> 1)) % 2 == 1

/-- The two coded bits of an encoder register of 7 bits, the newest information bit its most significant one: the output of 0o171, then
that of 0o133 (assumption log 82). -/
def convOut (r : Nat) : Bool × Bool := (oddParity (r &&& 0o171), oddParity (r &&& 0o133))

/-- The encoder from a state of the last 6 information bits. -/
def convolve : Nat → List Bool → List Bool
  | _, [] => []
  | st, u :: l =>
    let r := 64 * b2n u + st
    let o := convOut r
    o.1 :: o.2 :: convolve (r / 2) l

/-- The 768 coded bits of a frame. -/
def plcCoded (f : Bytes) : List Bool := convolve 0 (plcInfo f)

/-- The place of coded bit `j` among the bits of the data symbols: data symbol j mod 128, position j / 128 (R466). -/
def interleaved (j : Nat) : Nat := 6 * (j % 128) + j / 128

/-- The coded bit that data symbol `k` carries at position `p`. -/
def deinterleaved (k p : Nat) : Nat := k + 128 * p

/-! ### Bursts (R463, R467) -/

/-- The sub-symbols of a burst: true where the carrier is reversed against sub-symbol 0. -/
def burstOf (b : List Bool) : List Bool := b.foldl (fun l x => l ++ [xor (l.getLastD false) x]) [false]

/-- The bits that a burst's sub-symbols carry. -/
def burstBits : List Bool → List Bool
  | a :: b :: l => xor a b :: burstBits (b :: l)
  | _ => []

/-- The two bursts of each symbol, of the bits of symbols in order. -/
def burstsOf : Nat → List Bool → List (List Bool)
  | 0, _ => []
  | n + 1, l => burstOf (l.take 3) :: burstsOf n (l.drop 3)

/-- The bits of a word of `n` bits, most significant first. -/
def msbBits (n w : Nat) : List Bool := (upFrom 0 n).map (fun i => w / 2 ^ (n - 1 - i) % 2 == 1)

/-- The frame sync of symbols 6 and 7. -/
def frameSync : List Bool := msbBits 12 0b101100101110
/-- The acknowledgement sync. -/
def ackSync : List Bool := msbBits 12 0b010011010001

/-- The 272 bursts of a frame: 8 preamble symbols and 128 data symbols. -/
def frameBursts (f : Bytes) : List (List Bool) :=
  let c := plcCoded f
  burstsOf 272 (List.replicate 36 false ++ frameSync
    ++ ((upFrom 0 128).map (fun k => (upFrom 0 6).map (fun p => c.getD (deinterleaved k p) false))).flatten)

/-- The 8 bursts of an acknowledgement. -/
def ackBursts : List (List Bool) := burstsOf 8 (List.replicate 12 false ++ ackSync)

/-! ### Blanking (R464) -/

/-- A list sorted upwards with one number put in. -/
def insertUp (x : Nat) : List Nat → List Nat
  | [] => [x]
  | y :: l => if x ≤ y then x :: y :: l else y :: insertUp x l

/-- Twice the median of a list. -/
def medianTwice (l : List Nat) : Nat :=
  let q := l.foldl (fun q x => insertUp x q) []
  q.getD ((q.length - 1) / 2) 0 + q.getD (q.length / 2) 0

/-- Whether a blanking bubble overlaps a burst: the envelope, from 0.05 ms before the burst to its end, exceeds four times the median of
the last 16 received bursts (before the first of them there is no median, and no bubble: assumption log 82). -/
def blanked (levels : List Nat) (b : PlcBurst) : Bool := !levels.isEmpty && decide (2 * medianTwice levels < b.peak)

/-- Bursts taken in order: the envelopes of the last 16 received, and the bits of each burst, none where it is erased. -/
def takeBursts : List Nat → List PlcBurst → List Nat × List (Option (List Bool))
  | levels, [] => (levels, [])
  | levels, b :: l =>
    if blanked levels b then
      let r := takeBursts levels l
      (r.1, none :: r.2)
    else
      let r := takeBursts ((b.level :: levels).take 16) l
      (r.1, some (burstBits b.phases) :: r.2)

/-- The bits of bursts, three of each, none where erased. -/
def heardBits (l : List (Option (List Bool))) : List (Option Bool) :=
  (l.map (fun b => match b with
    | some x => (upFrom 0 3).map (fun i => some (x.getD i false))
    | none => [none, none, none])).flatten

/-- How many bursts are erased. -/
def erasedBursts (l : List (Option (List Bool))) : Nat := (l.filter (·.isNone)).length

/-! ### Syncs and the decoder (R467, R468) -/

/-- Whether a sync is found: at most 1 error and at most 6 erased bits. -/
def syncFound (want : List Bool) (got : List (Option Bool)) : Bool :=
  let q := want.zip got
  (q.filter (fun e => e.2 == some (!e.1))).length ≤ 1 && (q.filter (fun e => e.2.isNone)).length ≤ 6

/-- Whether a frame begins with these symbols: its sync found, and at least 4 of the preamble symbols 0 to 5 without a 1 that was heard. -/
def frameBegins (bits : List (Option Bool)) : Bool :=
  let clean := (upFrom 0 6).filter (fun k => ((bits.drop (6 * k)).take 6).all (fun b => b != some true))
  syncFound frameSync ((bits.drop 36).take 12) && 4 ≤ clean.length

/-- Whether the four symbols of an acknowledgement slot hold the acknowledgement sync. -/
def ackHeard (bits : List (Option Bool)) : Bool := syncFound ackSync ((bits.drop 12).take 12)

/-- What a heard bit differs from a coded one; an erased bit has no weight. -/
def bitMiss : Option Bool → Bool → Nat
  | none, _ => 0
  | some b, want => b2n (xor b want)

/-- The distance of a path that cannot be. -/
def farPath : Nat := 100000

/-- The distance that a step adds: from state `st` with information bit `u`; a 1 among the known zero bits cannot be. -/
def stepMiss (known : Bool) (g : Option Bool × Option Bool) (u : Bool) (st : Nat) : Nat :=
  let o := convOut (64 * b2n u + st)
  bitMiss g.1 o.1 + bitMiss g.2 o.2 + (if known && u then farPath else 0)

/-- Neighbouring elements in pairs. -/
def adjacent {α : Type} : List α → List (α × α)
  | a :: b :: l => (a, b) :: adjacent l
  | _ => []

/-- The least distances of the 64 states after a step. -/
def viterbiStep (known : Bool) (g : Option Bool × Option Bool) (m : List Nat) : List Nat :=
  let q := (adjacent m).zip (upFrom 0 32)
  let best := fun (u : Bool) => q.map (fun e => min (e.1.1 + stepMiss known g u (2 * e.2)) (e.1.2 + stepMiss known g u (2 * e.2 + 1)))
  best false ++ best true

/-- The distances before each step, the last first; information bits from 368 on are known. -/
def viterbiForward : Nat → List (Option Bool × Option Bool) → List Nat → List (List Nat) → List (List Nat)
  | _, [], m, acc => m :: acc
  | k, g :: l, m, acc => viterbiForward (k + 1) l (viterbiStep (368 ≤ k) g m) (m :: acc)

/-- The information bits traced back from a state, the last first; where two paths are equally near, which one the decoder takes is
open (assumption log 82). -/
def viterbiTrace : Nat → Nat → List (Option Bool × Option Bool) → List (List Nat) → List Bool
  | st, k, g :: gs, m :: ms =>
    let u : Bool := 32 ≤ st
    let p := 2 * (st % 32)
    let a := m.getD p 0 + stepMiss (368 < k) g u p
    let b := m.getD (p + 1) 0 + stepMiss (368 < k) g u (p + 1)
    let back := if a < b then p else if b < a then p + 1 else if Sys2Proof.Config.viterbiTie k st then p + 1 else p
    u :: viterbiTrace back (k - 1) gs ms
  | _, _, _, _ => []

/-- The information bits of the path nearest to 768 heard bits, from state 0 to state 0. -/
def viterbi (bits : List (Option Bool)) : List Bool :=
  let g := adjacent bits
  match viterbiForward 0 g ((upFrom 0 64).map (fun i => if i = 0 then 0 else farPath)) [] with
  | _ :: ms => (viterbiTrace 0 384 g.reverse ms).reverse
  | [] => []

/-- Bytes of bits, least significant bit first. -/
def lsbBytes (l : List Bool) : Nat → Bytes
  | 0 => []
  | n + 1 => BitVec.ofNat 8 (((l.take 8).zip (upFrom 0 8)).foldl (fun a e => a + b2n e.1 * 2 ^ e.2) 0) :: lsbBytes (l.drop 8) n

/-- The 46 bytes that the decoder finds in the bits of a frame's symbols. -/
def plcDecode (bits : List (Option Bool)) : Bytes :=
  let data := bits.drop 48
  lsbBytes (viterbi ((upFrom 0 768).map (fun j => data.getD (interleaved j) none))) 46

end Sys2Proof.Machine
end

