-- ==== Sys2Proof/Machine/HolmiPlc.lean ====
section
/-! DEFINITION. The power line of an HM1 (chapter 18): frames and their acceptance (R469, R470), access and acknowledgement (R471, R472),
routing (R473-R476), the wake pattern (R477) and the messages (R478-R481). Node 0 is the coordinator, the HM1 itself; 1-31 the pods. -/

namespace Sys2Proof.Machine

/-- Node `n` of the bus of link `l`. -/
def getNode (s : State) (l n : Nat) : PlcNode := Tbl.get {} (getHm1 s l).plc.nodes n
/-- The state with a node written. -/
def setNode (s : State) (l n : Nat) (x : PlcNode) : State :=
  let h := getHm1 s l
  setHm1 s l { h with plc := { h.plc with nodes := Tbl.set {} h.plc.nodes n x } }

/-- Whether a node takes part: AC is locked (R461), and the coordinator is switched on. -/
def plcLive (s : State) (l n : Nat) : Bool :=
  let h := getHm1 s l
  h.met.locked && (n != 0 || (h.met.main && h.plc.on))

/-- `k` counted in counter `i` of a node, in the order of R480. -/
def plcCount (i k : Nat) (n : PlcNode) : PlcNode :=
  let x := Tbl.get 0 n.counters i
  { n with counters := Tbl.set 0 n.counters i (satAdd x k), ovf := if satLost x k then setBit n.ovf i true else n.ovf }

/-! ### Frames (R469) -/

/-- The 46 bytes of a frame. -/
def plcFrame (typ net src dst hopSrc hopDst hops : Nat) (seq : Byte) (port : Nat) (p : Bytes) : Bytes :=
  let b := [BitVec.ofNat 8 (16 + typ), BitVec.ofNat 8 net, BitVec.ofNat 8 src, BitVec.ofNat 8 dst, BitVec.ofNat 8 hopSrc,
    BitVec.ofNat 8 hopDst, BitVec.ofNat 8 hops, seq, BitVec.ofNat 8 p.length, BitVec.ofNat 8 port] ++ slice p 0 32
  b ++ toLE 4 (crc32c b).toNat

/-- A frame with its hop fields rewritten and CHECK computed again. -/
def rehop (f : Bytes) (hopSrc hopDst hops : Nat) : Bytes :=
  let b := patch (f.take 42) 4 [BitVec.ofNat 8 hopSrc, BitVec.ofNat 8 hopDst, BitVec.ofNat 8 hops]
  b ++ toLE 4 (crc32c b).toNat

/-- TYPE without its version. -/
def plcType (f : Bytes) : Nat := leNat f 0 1 % 16
/-- The payload. -/
def plcPayload (f : Bytes) : Bytes := slice f 10 (leNat f 8 1)

/-- CHECK of a frame. -/
def plcCheck (f : Bytes) : Bool := f.length == 46 && le32 f 42 == crc32c (f.take 42)

/-- TYPE, reserved bits and LEN valid (R470). -/
def plcValid (f : Bytes) : Bool :=
  leNat f 0 1 / 16 == 1 && 1 ≤ plcType f && plcType f ≤ 5 && leNat f 6 1 < 64 && leNat f 8 1 ≤ 32 && leNat f 9 1 < 4

/-- A frame that node `n` has to send. -/
def enqueue (l n : Nat) (own : Bool) (f : Bytes) (s : State) : State :=
  let x := getNode s l n
  setNode s l n { x with queue := x.queue ++ [{ bytes := f, own := own }] }

/-- The frame that a relay sends on: HOPS with LEFT one lower and DONE one higher. -/
def relayed (n : Nat) (f : Bytes) : Bytes := rehop f n (leNat f 5 1) (leNat f 6 1 + 7)

/-- A frame that a node originates, with the next SEQ of that source. Its own DATA counts as seen. -/
def originate (l n typ dst port : Nat) (own : Bool) (p : Bytes) (s : State) : State :=
  let x := getNode s l n
  let f := plcFrame typ (getHm1 s l).plc.netId.toNat n dst n 255 6 x.seq port p
  let seen := if typ = 1 then Tbl.set [] x.seen n ((x.seq :: Tbl.get [] x.seen n).take 8) else x.seen
  enqueue l n own f (setNode s l n { x with seq := x.seq + 1, seen := seen })

/-! ### Links and routes (R473-R476) -/

/-- How many of the last 16 hello counters arrived. -/
def helloCount (x : PlcNeighbour) : Nat := ((upFrom 0 16).filter (fun i => bitOf x.got i)).length

/-- Cost of the link from a neighbour; none while it is unusable (R473). -/
def linkCost (n : PlcNode) (from_ : Nat) : Option Nat :=
  let k := helloCount (Tbl.get {} n.neighbours from_)
  if k < 2 then none else some ((256 + k - 1) / k)

/-- A hello counter taken from a neighbour. -/
def heardHello (c : W16) (x : PlcNeighbour) : PlcNeighbour :=
  match x.last with
  | none => { last := some c, got := 1 }
  | some o =>
    let d := (c - o).toNat
    if d = 0 then x else { last := some c, got := if d < 16 then (x.got <<< d) ||| 1 else 1 }

/-- PLC_ROUTE. -/
def routeEvent (l pod change hops cost : Nat) (s : State) : State :=
  hm1Event l ([0xB2, BitVec.ofNat 8 pod, BitVec.ofNat 8 change, BitVec.ofNat 8 hops] ++ toLE 2 cost) s

/-- A record of node `n` removed; PLC_ROUTE when it is the coordinator's. -/
def dropRoute (l n pod : Nat) (s : State) : State :=
  let x := getNode s l n
  match Tbl.get none x.routes pod with
  | none => s
  | some r =>
    let s := setNode s l n { x with routes := Tbl.set none x.routes pod none }
    if n = 0 then routeEvent l pod 0 r.hops r.cost s else s

/-- A record made or refreshed by a ROUTE_REP (R474). -/
def keepRoute (l n pod : Nat) (r : PlcRoute) (s : State) : State :=
  let x := getNode s l n
  let old := Tbl.get none x.routes pod
  let s := setNode s l n { x with routes := Tbl.set none x.routes pod (some r) }
  let same : Bool := match old with
    | some o => decide (o.next = r.next ∧ o.hops = r.hops ∧ o.cost = r.cost)
    | none => false
  if n = 0 ∧ ¬ same then routeEvent l pod (if old.isNone then 1 else 2) r.hops r.cost s else s

/-- A better-first list of candidates with one taken in, one entry per address, at most three (R474). -/
def candidate (c : Nat × Nat × Nat) (l : List (Nat × Nat × Nat)) : List (Nat × Nat × Nat) :=
  let better := fun (a b : Nat × Nat × Nat) => a.1 < b.1 || (a.1 == b.1 && (a.2.1 < b.2.1 || (a.2.1 == b.2.1 && a.2.2 < b.2.2)))
  let same := l.filter (fun x => x.2.2 == c.2.2)
  if same.any (fun x => !better c x) then l
  else
    let rest := l.filter (fun x => x.2.2 != c.2.2)
    (rest.filter (fun x => better x c) ++ [c] ++ rest.filter (fun x => !better x c)).take 3

/-- ROUTE_REP from a pod to its parent. -/
def sendRep (l n : Nat) (s : State) : State :=
  match (getNode s l n).candidates with
  | c :: _ => originate l n 3 0 0 false ([BitVec.ofNat 8 n] ++ toLE 2 c.1 ++ [BitVec.ofNat 8 c.2.1, BitVec.ofNat 8 n]) s
  | [] => s

/-- The coordinator's flood (R474). -/
def flood (l : Nat) (s : State) : State :=
  let h := getHm1 s l
  let s := setHm1 s l { h with plc := { h.plc with discovery := h.plc.discovery + 1, floodDue := false } }
  originate l 0 2 255 0 false (toLE 2 (h.plc.discovery + 1).toNat ++ toLE 2 0) s

def execRouteReq (l : Nat) (s : State) : Host.Outcome State Fault Refusal :=
  inRange (decide (l < 4)) (when (plcLive s l 0) (flood l) s)

/-- A ROUTE_ERR at the coordinator (R476): the record goes, and a flood is due 10 s later. -/
def routeBroken (l pod : Nat) (s : State) : State :=
  let s := dropRoute l 0 pod s
  let h := getHm1 s l
  setHm1 s l { h with plc := { h.plc with floodDue := true } }

def execRouteErr (l pod : Nat) (s : State) : Host.Outcome State Fault Refusal :=
  inRange (decide (l < 4 ∧ 1 ≤ pod ∧ pod < 32)) (when (plcLive s l 0) (routeBroken l pod) s)

/-- ROUTE_EXPIRY (R476): records of a pod that no ROUTE_REP has refreshed for 2 × ROUTE_PERIOD. -/
def routeExpiry (l pod : Nat) (s : State) : State :=
  (upFrom 0 32).foldl (fun s n =>
    match Tbl.get none (getNode s l n).routes pod with
    | some r => if 2000 * (getHm1 s l).plc.routePeriod ≤ r.age then dropRoute l n pod s else s
    | none => s) s

def execRouteExpiry (l pod : Nat) (s : State) : Host.Outcome State Fault Refusal :=
  inRange (decide (l < 4 ∧ 1 ≤ pod ∧ pod < 32)) (routeExpiry l pod s)

/-- A node tells the coordinator that a pod cannot be reached. -/
def reportBroken (l n pod : Nat) (s : State) : State :=
  if n = 0 then routeBroken l pod s else originate l n 4 0 0 false [BitVec.ofNat 8 pod] s

/-- ROUTE_REQ_REBROADCAST (R474). -/
def rebroadcast (l n : Nat) (s : State) : State :=
  let x := getNode s l n
  match x.due with
  | some f => enqueue l n false f (setNode s l n { x with due := none, rebroadcasts := x.rebroadcasts + 1 })
  | none => s

def execRouteReqRebroadcast (l n : Nat) (s : State) : Host.Outcome State Fault Refusal :=
  inRange (decide (l < 4 ∧ 1 ≤ n ∧ n < 32)) (when (plcLive s l n) (rebroadcast l n) s)

/-- ROUTE_REP (R474): once for each discovery, after the last rebroadcast. -/
def routeReply (l n : Nat) (s : State) : State :=
  let x := getNode s l n
  if x.repDue ∧ x.due.isNone then sendRep l n (setNode s l n { x with repDue := false }) else s

def execRouteRep (l n : Nat) (s : State) : Host.Outcome State Fault Refusal :=
  inRange (decide (l < 4 ∧ 1 ≤ n ∧ n < 32)) (when (plcLive s l n) (routeReply l n) s)

/-! ### Acceptance (R470, R472) -/

/-- PLC_RX (R479, R481): while the link is down the coordinator holds at most 16. -/
def plcRx (l : Nat) (f : Bytes) (s : State) : State :=
  let e := getEnd s true l
  if ¬ e.up ∧ 16 ≤ (e.out.filter (fun q => byteAt q.2 0 == 0xB0)).length then setNode s l 0 (plcCount 8 1 (getNode s l 0))
  else hm1Event l ([0xB0, byteAt f 2, byteAt f 9, byteAt f 8, byteAt f 7] ++ plcPayload f) s

/-- A frame relayed, or dropped when LEFT is 0 (R472). -/
def relayOn (l n : Nat) (f : Bytes) (s : State) : State :=
  if leNat f 6 1 % 8 = 0 then setNode s l n (plcCount 4 1 (getNode s l n)) else enqueue l n false (relayed n f) s

/-- DATA accepted. -/
def acceptData (l n : Nat) (f : Bytes) (s : State) : State :=
  let x := getNode s l n
  let src := leNat f 2 1
  let dst := leNat f 3 1
  let old := Tbl.get [] x.seen src
  if old.contains (byteAt f 7) then setNode s l n (plcCount 3 1 x)
  else
    let s := setNode s l n { x with seen := Tbl.set [] x.seen src ((byteAt f 7 :: old).take 8) }
    let s := if dst ≠ n ∧ dst ≠ 255 then s else if n = 0 then plcRx l f s else setNode s l n { getNode s l n with delivered := plcPayload f }
    if dst = n then s else relayOn l n f s

/-- ROUTE_REQ accepted by a pod (R474). -/
def acceptReq (l n : Nat) (f : Bytes) (s : State) : State :=
  let x := getNode s l n
  match linkCost x (leNat f 4 1) with
  | none => s
  | some k =>
    let ident := le16 f 10
    let x := if x.disc = some ident then x else { x with disc := some ident, candidates := [], rebroadcasts := 0, due := none, repDue := true }
    let done := leNat f 6 1 / 8
    let cost := leNat f 12 2 + k
    let best := x.candidates.head?.map (·.1)
    let lower : Bool := match best with
      | some b => decide (cost < b)
      | none => true
    let x := { x with candidates := candidate (cost, done + 1, leNat f 4 1) x.candidates }
    let go : Bool := lower && decide (done < 5 ∧ 0 < leNat f 6 1 % 8 ∧ x.rebroadcasts < 2)
    setNode s l n (if go then { x with due := some (rehop (patch f 12 (toLE 2 cost)) n 255 (leNat f 6 1 + 7)) } else x)

/-- ROUTE_REP accepted: recorded, and relayed by a pod with itself appended to the path. -/
def acceptRep (l n : Nat) (f : Bytes) (s : State) : State :=
  let p := plcPayload f
  let s := keepRoute l n (leNat p 0 1) { next := leNat f 4 1, hops := leNat p 3 1, cost := leNat p 1 2 } s
  if n = 0 then s
  else
    let q := if p.length < 10 then p ++ [BitVec.ofNat 8 n] else p
    relayOn l n (patch (patch f 8 [BitVec.ofNat 8 q.length]) 10 q) s

/-- A frame that a node accepts (R470); one for this hop alone is acknowledged in the slots it reserved (R467, R472). -/
def accept (l n : Nat) (f : Bytes) (s : State) : State :=
  let x := plcCount 0 1 (getNode s l n)
  let mine : Bool := leNat f 5 1 == n
  let s := setNode s l n { x with acked := mine, air := if mine then ackBursts else x.air }
  match plcType f with
  | 1 => acceptData l n f s
  | 2 => if n = 0 then s else acceptReq l n f s
  | 3 => acceptRep l n f s
  | 4 => if n = 0 then routeBroken l (leNat f 10 1) s else relayOn l n f s
  | _ =>
    let x := getNode s l n
    let from_ := leNat f 4 1
    setNode s l n { x with neighbours := Tbl.modify {} x.neighbours from_ (heardHello (le16 f 10)) }

/-- The node after it has heard bursts: their envelopes, and those erased counted (R464). -/
def hearBursts (bursts : List PlcBurst) (x : PlcNode) : PlcNode :=
  let r := takeBursts x.levels bursts
  plcCount 7 (erasedBursts r.2) { x with levels := r.1 }

/-- The bits that a node hears in bursts. -/
def nodeBits (bursts : List PlcBurst) (x : PlcNode) : List (Option Bool) := heardBits (takeBursts x.levels bursts).2

/-- Data bursts of a frame that the node finds erased, of 256 (R468). -/
def dataErased (bursts : List PlcBurst) (x : PlcNode) : Nat := erasedBursts ((takeBursts x.levels bursts).2.drop 16)

/-- PLC_FRAME_RECEIVE: the 272 bursts of a frame as a node hears them (R463, R464, R467); a frame whose sync is found is decoded, unless
more than 192 of its data bursts are erased, and taken by R468 and R470. A node that sends does not receive. -/
def plcReceive (l n : Nat) (bursts : List PlcBurst) (s : State) : State :=
  let y := getNode s l n
  if (y.queue.head?.map (·.sent)) = some true then s
  else
    let x := hearBursts bursts y
    let f := plcDecode (nodeBits bursts y)
    let hop := leNat f 5 1
    if ¬ frameBegins (nodeBits bursts y) then setNode s l n x
    else if 192 < dataErased bursts y ∨ ¬ plcCheck f then setNode s l n (plcCount 1 1 x)
    else if ¬ plcValid f then setNode s l n x
    else if byteAt f 1 ≠ (getHm1 s l).plc.netId then setNode s l n (plcCount 2 1 x)
    else if hop ≠ n ∧ hop ≠ 255 then setNode s l n x
    else accept l n f (setNode s l n x)

def execPlcFrameReceive (l n : Nat) (preamble bursts : List PlcBurst) (s : State) : Host.Outcome State Fault Refusal :=
  inRange (decide (l < 4 ∧ n < 32 ∧ preamble.length = 16 ∧ bursts.length = 256)) (when (plcLive s l n) (plcReceive l n (preamble ++ bursts)) s)

/-! ### Access and acknowledgement (R471, R472, R475) -/

/-- W of an attempt. -/
def window (attempts : Nat) : Nat :=
  match attempts with
  | 0 => 16
  | 1 => 32
  | _ => 64

/-- PLC_TX_DONE of a frame of the coordinator's host. -/
def txDone (l : Nat) (t : PlcTx) (result : Byte) (s : State) : State :=
  if t.own then hm1Event l [0xB1, byteAt t.bytes 7, byteAt t.bytes 3, result] s else s

/-- What a node does with its oldest frame when its access comes: the next hop, 255 for every neighbour, as its table stands; a frame
with no record is dropped; one to the coordinator waits for a parent (R475, R476). -/
inductive Hop where
  | to (a : Nat) | none_ | waits
deriving DecidableEq, Repr

/-- The next hop of a frame at node `n`. -/
def nextHop (x : PlcNode) (f : Bytes) : Hop :=
  let dst := leNat f 3 1
  if plcType f = 2 ∨ plcType f = 5 ∨ dst = 255 then .to 255
  else if dst = 0 then (match x.candidates with
    | c :: _ => .to c.2.2
    | [] => .waits)
  else match Tbl.get none x.routes dst with
    | some r => .to r.next
    | none => .none_

/-- PLC_ACCESS: after 8 + B idle crossings the frame is sent, B below W. -/
def plcAccess (l n idle : Nat) (s : State) : State :=
  let x := getNode s l n
  match x.queue with
  | [] => s
  | t :: q =>
    if t.sent ∨ idle < 8 ∨ 8 + window t.attempts ≤ idle then s
    else match nextHop x t.bytes with
      | .waits => s
      | .none_ =>
        let s := setNode s l n (plcCount 5 1 { x with queue := q })
        if n = 0 then txDone l t 1 s else reportBroken l n (leNat t.bytes 3 1) s
      | .to a =>
        let f := rehop t.bytes n a (leNat t.bytes 6 1)
        setNode s l n { x with air := frameBursts f, queue := if a = 255 then q else { t with bytes := f, attempts := t.attempts + 1, sent := true } :: q }

def execPlcAccess (l n idle : Nat) (s : State) : Host.Outcome State Fault Refusal :=
  inRange (decide (l < 4 ∧ n < 32)) (when (plcLive s l n) (plcAccess l n idle) s)

/-- A broken link (R472, R476): toward the coordinator, a pod takes its next candidate; toward a child, the pod is reported. -/
def brokenLink (l n : Nat) (f : Bytes) (s : State) : State :=
  let dst := leNat f 3 1
  if dst ≠ 0 then reportBroken l n dst s
  else
    let x := getNode s l n
    match x.candidates with
    | c :: r => if c.2.2 = leNat f 5 1 then sendRep l n (setNode s l n { x with candidates := r }) else s
    | [] => s

/-- PLC_ACK_SLOT: the 8 bursts of the slots that the frame reserved, as its sender hears them (R467, R472). -/
def plcAckSlot (l n : Nat) (bursts : List PlcBurst) (s : State) : State :=
  let y := getNode s l n
  let x := hearBursts bursts y
  match y.queue with
  | t :: q =>
    if ¬ t.sent then s
    else if ackHeard (nodeBits bursts y) then txDone l t 0 (setNode s l n { x with queue := q })
    else if t.attempts < 4 then setNode s l n { x with queue := { t with sent := false } :: q }
    else brokenLink l n t.bytes (txDone l t 2 (setNode s l n (plcCount 6 1 { x with queue := q })))
  | [] => s

def execPlcAckSlot (l n : Nat) (bursts : List PlcBurst) (s : State) : Host.Outcome State Fault Refusal :=
  inRange (decide (l < 4 ∧ n < 32 ∧ bursts.length = 8)) (when (plcLive s l n) (plcAckSlot l n bursts) s)

/-- PLC_HELLO (R473). -/
def plcHello (l n : Nat) (s : State) : State :=
  let x := getNode s l n
  originate l n 5 255 0 false (toLE 2 x.hello.toNat) (setNode s l n { x with hello := x.hello + 1 })

def execPlcHello (l n : Nat) (s : State) : Host.Outcome State Fault Refusal :=
  inRange (decide (l < 4 ∧ n < 32)) (when (plcLive s l n) (plcHello l n) s)

/-- WAKE_PATTERN (R477): the eight bits equal NET_ID of the coordinator. -/
def wakePattern (l : Nat) (bits : Byte) (s : State) : State :=
  let p := (getHm1 s l).plc
  if p.on ∧ bits = p.netId then hm1Wake l 4 s else s

def execWakePattern (l : Nat) (bits : Byte) (s : State) : Host.Outcome State Fault Refusal := inRange (decide (l < 4)) (wakePattern l bits s)

/-! ### Messages (R478) -/

/-- PLC_CONFIG: a change of role or NET_ID clears every route. -/
def plcConfig (l : Nat) (b : Bytes) (s : State) : State × W16 × Bytes :=
  let h := getHm1 s l
  let on : Bool := leNat b 1 1 == 1
  let hello := leNat b 4 2
  let period := leNat b 6 2
  if 1 < leNat b 1 1 ∨ 6 < leNat b 3 1 ∨ hello < 10 ∨ 3600 < hello ∨ period < 60 then (s, 0x1006, [])
  else
    let new := decide (on ≠ h.plc.on ∨ byteAt b 2 ≠ h.plc.netId)
    let s := if new then (upFrom 0 32).foldl (fun s n => (upFrom 1 31).foldl (fun s pod => dropRoute l n pod s) s) s else s
    let h := getHm1 s l
    (setHm1 s l { h with plc := { h.plc with on := on, netId := byteAt b 2, level := byteAt b 3, helloPeriod := le16 b 4, routePeriod := period } },
     0, [0])

def execPlcConfig (l : Nat) (s : State) : Host.Outcome State Fault Refusal := inRange (decide (l < 4)) (hm1Take 0x30 none l (plcConfig l) s)

/-- PLC_SEND. -/
def plcSend (l : Nat) (b : Bytes) (s : State) : State × W16 × Bytes :=
  let h := getHm1 s l
  let dst := leNat b 1 1
  let n := leNat b 3 1
  let x := getNode s l 0
  if dst = 0 ∨ (31 < dst ∧ dst ≠ 255) ∨ 3 < leNat b 2 1 ∨ 32 < n then (s, 0x1006, [])
  else if ¬ h.plc.on then (s, 0, [1, 0])
  else if ¬ h.met.locked then (s, 0, [7, 0])
  else if dst ≠ 255 ∧ Tbl.get none x.routes dst = none then (s, 0, [6, 0])
  else (originate l 0 1 dst (leNat b 2 1) true (slice b 4 n) s, 0, [0, x.seq])

def execPlcSend (l : Nat) (s : State) : Host.Outcome State Fault Refusal := inRange (decide (l < 4)) (hm1Take 0x31 none l (plcSend l) s)

/-- PLC_ROUTE_READ. -/
def plcRouteRead (l : Nat) (b : Bytes) (s : State) : State × W16 × Bytes :=
  let pod := leNat b 1 1
  if pod = 0 ∨ 31 < pod then (s, 0x1006, [])
  else match Tbl.get none (getNode s l 0).routes pod with
    | some r => (s, 0, [1, BitVec.ofNat 8 r.next, BitVec.ofNat 8 r.hops] ++ toLE 2 r.cost ++ toLE 4 (r.age / 1000))
    | none => (s, 0, zeros 9)

def execPlcRouteRead (l : Nat) (s : State) : Host.Outcome State Fault Refusal := inRange (decide (l < 4)) (hm1Take 0x32 none l (plcRouteRead l) s)

/-- PLC_STATS: the counters, and their flags, which it clears. -/
def plcStats (l : Nat) (_ : Bytes) (s : State) : State × W16 × Bytes :=
  let x := getNode s l 0
  (setNode s l 0 { x with ovf := 0 }, 0, ((upFrom 0 9).map (fun i => toLE 4 (Tbl.get (0 : W32) x.counters i).toNat)).flatten ++ toLE 2 x.ovf.toNat)

def execPlcStats (l : Nat) (s : State) : Host.Outcome State Fault Refusal := inRange (decide (l < 4)) (hm1Take 0x33 none l (plcStats l) s)

/-- PLC_DISCOVER. -/
def plcDiscover (l : Nat) (_ : Bytes) (s : State) : State × W16 × Bytes :=
  let h := getHm1 s l
  if ¬ h.plc.on then (s, 0, [1]) else if ¬ h.met.locked then (s, 0, [7]) else (flood l s, 0, [0])

def execPlcDiscover (l : Nat) (s : State) : Host.Outcome State Fault Refusal := inRange (decide (l < 4)) (hm1Take 0x34 none l (plcDiscover l) s)

end Sys2Proof.Machine
end

