-- ==== Sys2Proof/Machine/HolmiLink.lean ====
section
/-! DEFINITION. The Holmi links (R490-R493): frames taken at either end, hello and link-up, timers; the relay rings (R494); staged sets of
an HM1 (R415, R439); HM1_MSG and HM1_STATUS (R57). What the manual leaves open here is in assumption log 58. -/

namespace Sys2Proof.Machine

/-- Whether the package's end of the links has power. -/
def pkgAlive (s : State) : Bool := s.power.pkg != .off && s.power.pkg != .parked

/-- Whether an end sends and hears frames: it has power, and the link's pattern group is not enabled (R500). -/
def endAlive (s : State) (far : Bool) (l : Nat) : Bool :=
  if far then (getMet s l).main else pkgAlive s && !(getPat s 5 (l + 1)).enable

/-! ### Staged sets of an HM1 (R415, R439) -/

/-- Words of an HM1 block that COMMIT sends: the calibration registers and thresholds, or the tariff tables. -/
def hm1Words (blk : Nat) : Nat := if blk = 16 then 44 else 320

/-- REFUSAL of R414 after a status: any other status leaves it. -/
def refusalCode (old : BitVec 2) (code : W16) : BitVec 2 := if code = 0x4005 then 1 else if code = 0x3008 then 2 else old

/-- A COMMIT that ends without CAL_APPLIED: CMD_DONE carries the code, and releases the staging, the COMMIT being complete (R61). -/
def commitRefused (l blk : Nat) (code : W16) (s : State) : State :=
  let id := hm1BlockId s blk l
  let b := getBlock s id
  match b.pending with
  | none => s
  | some c =>
    if b.applied then s
    else
      let b := { b with refusal := if blk = 16 then refusalCode b.refusal code else b.refusal }
      if b.orphan then setBlock s id { b with pending := none, orphan := false, staging := [], holder := none }
      else finishCmd c code (toLE 2 b.gen.toNat) (setBlock s id { b with applied := true })

/-- The in-force copy confirmed from the HM1 (R414); with its new generation a pending COMMIT is done. -/
def confirmBlock (l blk : Nat) (s : State) : State :=
  let id := hm1BlockId s blk l
  let b := getBlock s id
  let m := getMet s l
  let b' := { b with inForce := if blk = 16 then m.cal else m.tar, gen := if blk = 16 then m.calGen else m.tarGen }
  match b.pending with
  | some c =>
    if b'.gen = b.gen + 1 ∧ ¬ b.applied then settleBlock id c b'.inForce b'.gen s else setBlock s id b'
  | none => setBlock s id b'

/-- The metrology core takes a set that the Keeper sends: refused while SEALED or without log room, else held for its boundary. -/
def takeSet (l : Nat) (p : Bytes) (s : State) : State :=
  let m := getMet s l
  let reply := fun (c : W16) => holmiSend true l 1 (toLE 2 c.toNat)
  let set : HeldSet := { gen := le16 p 2, words := (upFrom 0 ((p.length - 4) / 4)).map (fun i => le32 p (4 + 4 * i)), at_ := (getHm1 s l).rtc }
  if byteAt p 1 = 16 then
    if m.sealed_ then reply 0x4005 s
    else if legalRoom m = 0 then reply 0x3008 s
    else reply 0 (setMet s l { m with calHeld := some set })
  else reply 0 (setMet s l { m with tarHeld := some set })

/-! ### Relay rings (R494) -/

/-- Source id of the Holmi-link gateway (R174). -/
def gatewaySrc (s : State) : W32 := mkSrc s.swarm.node 5 13 0 0

/-- Swarm address of entry `i` of a relay ring. -/
def relayEntry (s : State) (h : W32) (x : Relay) (i : W32) : Option Nat :=
  if x.count = 0 then none else (resolve s h).map (fun k => (getMot s k).base + i.toNat % x.count.toNat * 2048)

/-- An entry of the TX ring: its channel and frame, none where it is malformed. -/
def txEntry (b : Bytes) : Option (Nat × Bytes) :=
  let n := leNat b 0 2
  if 14 ≤ n ∧ n ≤ 1536 ∧ (byteAt b 2 = 3 ∨ byteAt b 2 = 4) ∧ zeroIn b 3 16 then some (leNat b 2 1, slice b 16 n) else none

/-- The bytes of a TX entry of relay `x`, none where it lies nowhere or its read fails (R30). -/
def relayFetch (x : Relay) (s : State) : Option Nat → State × Bytes
  | some a =>
    let (t, c, b, ok) := unitRead (.unit x.context.toNat false 5) (gatewaySrc s) a 2048 s
    (if c = 0 ∧ ¬ ok then failedRead (gatewaySrc s) (x.context.zeroExtend 16) a 2048 t else t, if c = 0 ∧ ok then b else [])
  | none => (s, [])

/-- A TX entry's frame sent, or counted in TX_BAD. -/
def relaySent (l : Nat) (x : Relay) (f : Option (Nat × Bytes)) (s : State) : State :=
  match f with
  | some (ch, f) => holmiSend false l ch f s
  | none => setRelay s l { getRelay s l with txBad := satAdd x.txBad 1, txBadOvf := x.txBadOvf || satLost x.txBad 1 }

/-- Published TX entries sent while the link is up and fewer than 8 frames are unacknowledged; a malformed one is skipped. -/
def relayPump : Nat → Nat → State → State
  | 0, _, s => s
  | n + 1, l, s =>
    let x := getRelay s l
    let e := getEnd s false l
    if ¬ x.enable ∨ x.txHead = x.txTail ∨ ¬ e.up ∨ 8 ≤ e.unacked.length ∨ ¬ e.out.isEmpty then s
    else
      let r := relayFetch x s (relayEntry s x.txRing x x.txHead)
      relayPump n l (relaySent l x (txEntry r.2) (setRelay r.1 l { getRelay r.1 l with txHead := x.txHead + 1 }))

/-- A relayed frame received: an RX entry and then the fence, or a drop for want of an entry. -/
def relayRx (l ch : Nat) (f : Bytes) (s : State) : State :=
  let x := getRelay s l
  let drop := fun (s : State) => setRelay s l { getRelay s l with rxDrops := satAdd x.rxDrops 1, rxDropsOvf := x.rxDropsOvf || satLost x.rxDrops 1 }
  if ¬ x.enable ∨ x.count.toNat ≤ (x.rxTail - x.rxHead).toNat then drop s
  else match relayEntry s x.rxRing x x.rxTail with
    | none => drop s
    | some a =>
      let b := toLE 2 f.length ++ [BitVec.ofNat 8 ch] ++ zeros 5 ++ toLE 8 s.swarm.time.toNat ++ f
      let (s, c) := unitWrite (.unit x.context.toNat false 5) (gatewaySrc s) a b s
      if c ≠ 0 then drop s
      else
        let s := setRelay s l { getRelay s l with rxTail := x.rxTail + 1 }
        sendSignal (gatewaySrc s) x.rxFence.toNat true 1 .unit (x.context.zeroExtend 16) s

/-! ### Link state (R492, R493) -/

/-- The answer of HM1_MSG to its mailbox (R493): bytes 0-1 are the status, the rest follows with its count. -/
def answerMsg (l : Nat) (p : Bytes) (s : State) : State :=
  let x := getSeen s l
  let s := setSeen s l { x with msg := none }
  match x.msg with
  | none => s
  | some (.commit blk) => if le16 p 0 = 0 then s else commitRefused l blk (le16 p 0) s
  | some (.mailbox m) =>
    match (getMbx s m).waiting with
    | none => s
    | some c =>
      let r := (p.drop 2).take 52
      let body := if le16 p 0 = 0 then [BitVec.ofNat 8 r.length, 0] ++ slice r 0 52 else []
      respond m c.opcode 0x20 c.tag (le16 p 0) body (setMbx s m { getMbx s m with waiting := none })

/-- An event queue cut to 64, its oldest events other than WAKE dropped and counted. -/
def fitQueue : Nat → HolmiEnd → HolmiEnd
  | 0, x => x
  | n + 1, x => if x.out.length ≤ 64 then x else fitQueue n { x with out := dropEvent x.out, lost := x.lost + 1 }

/-- The payload of a frame. -/
def framePayload (f : Bytes) : Bytes := slice f 6 (leNat f 4 2)

/-- An end goes down: the HM1 keeps the events not acknowledged, the package answers what waits with 0x5009,
and so ends every COMMIT sent and not yet reported (chapter 02). -/
def holmiDown (far : Bool) (l : Nat) (s : State) : State :=
  let x := getEnd s far l
  let keep := if far then (x.unacked.filter (fun f => byteAt f 0 == 2)).map (fun f => (2, framePayload f)) ++ x.out.filter (fun q => q.1 == 2) else []
  let y := { x with up := false, heard := false, greeted := false, unacked := [], out := keep }
  let s := setEnd s far l (fitQueue (keep.length + 1) y)
  if far then s else commitRefused l 17 0x5009 (commitRefused l 16 0x5009 (answerMsg l [0x09, 0x50] s))

/-- An end whose hello has been sent and that has heard the other's comes up: the HM1 sends WAKE, then LINK_EVENTS_LOST, then its queue;
the Keeper confirms its copies, and REFUSAL reads 3 when the HM1 lost a set with its supply (R414, R415). -/
def holmiUp (far : Bool) (l : Nat) (s : State) : State :=
  let x := getEnd s far l
  if x.up ∨ ¬ x.heard ∨ ¬ x.greeted then s
  else if far then
    let wake := x.out.filter (fun q => byteAt q.2 0 == 0xA7)
    let rest := x.out.filter (fun q => byteAt q.2 0 != 0xA7)
    let lost := if x.lost = 0 then [] else [(2, [0xFF] ++ toLE 2 (min x.lost 65535))]
    pump true l (setEnd s true l { x with up := true, out := wake ++ lost ++ rest, lost := 0 })
  else
    let m := getMet s l
    let s := setSeen (setEnd s false l { x with up := true }) l { getSeen s l with sealByte := sealByte m }
    let s := confirmBlock l 17 (confirmBlock l 16 s)
    let id := hm1BlockId s 16 l
    let s := if m.setLost then setMet (setBlock s id { getBlock s id with refusal := 3 }) l { getMet s l with setLost := false } else s
    relayPump 128 l s

/-- The hello of an end (R492): an HM1's carries the firmware line of R1, 1.6, its silicon revision and its identity (R13). -/
def helloPayload (far : Bool) (l : Nat) : Bytes := if far then [1, 1] ++ holmiLine ++ slice (Config.productionBytes 7 l) 2 34 else [1, 0]

/-- A hello sent: SEQ restarts at 0. -/
def sendHello (far : Bool) (l : Nat) (s : State) : State :=
  let x := getEnd s far l
  let f := holmiFrame 0 false 0 (x.rxSeq - 1) (helloPayload far l)
  holmiUp far l (setEnd s far l { x with greeted := true, txSeq := 1, wire := x.wire ++ [f] })

/-- Whether a frame is a hello. -/
def isHello (f : Bytes) : Bool := byteAt f 0 == 0 && byteAt f 1 == 0 && byteAt f 6 == 1 && (leNat f 4 2 == 2 || leNat f 4 2 == 38)

/-- CRC and fields of a frame (R491, R492). -/
def holmiOk (f : Bytes) : Bool :=
  10 ≤ f.length && f.length == leNat f 4 2 + 10 && leNat f 4 2 ≤ 1536 && leNat f 0 1 ≤ 4 && leNat f 1 1 ≤ 1
    && (byteAt f 1 == 0 || leNat f 4 2 == 0) && le32 f (f.length - 4) == crc32c (f.take (f.length - 4))

/-- A hello accepted; one that meets a link that is up takes it down first. -/
def takeHello (far : Bool) (l : Nat) (f : Bytes) (s : State) : State :=
  let s := if (getEnd s far l).up then holmiDown far l s else s
  let s := setEnd s far l { getEnd s far l with heard := true, rxSeq := 1 }
  let s := if far then s else setSeen s l { getSeen s l with hello := slice f 8 36 }
  holmiUp far l s

/-- Frames up to ACK are acknowledged. -/
def ackFrames (ack : Byte) (l : List Bytes) : List Bytes :=
  match l.findIdx? (fun f => byteAt f 2 == ack) with
  | some i => l.drop (i + 1)
  | none => l

/-- An HM1 event at the Keeper: sent on as HM1_EVENT, and taken note of (R48, R414, R439). -/
def eventAtKeeper (l : Nat) (p : Bytes) (s : State) : State :=
  let s := broadcast 0xE007 ([BitVec.ofNat 8 l, BitVec.ofNat 8 (min p.length 52)] ++ slice (p.take 52) 0 52) s
  match leNat p 0 1 with
  | 0x91 => confirmBlock l 16 s
  | 0xA5 => confirmBlock l 17 s
  | 0x92 => setSeen s l { getSeen s l with sealByte := byteAt p 1 }
  | _ => s

/-- An accepted frame acted on by its channel. -/
def frameTaken (far : Bool) (l : Nat) (f : Bytes) (s : State) : State :=
  let p := framePayload f
  match leNat f 0 1, far with
  | 1, true => if byteAt p 0 = 1 then takeSet l p s else setHm1 s l { getHm1 s l with inbox := some p }
  | 1, false => answerMsg l p s
  | 2, false => eventAtKeeper l p s
  | 3, false => relayRx l 3 p s
  | 4, false => relayRx l 4 p s
  | 0, false => if byteAt p 0 = 2 ∧ p.length = 4 then commitRefused l (leNat p 1 1) (le16 p 2) s else s
  | _, _ => s

/-- HOLMI_FRAME_RECEIVE. -/
def holmiReceive (far : Bool) (l : Nat) (f : Bytes) (s : State) : State :=
  let o := getEnd s (!far) l
  let s := setEnd s (!far) l { o with wire := o.wire.erase f }
  let x := getEnd s far l
  if ¬ endAlive s far l ∨ ¬ holmiOk f then s
  else if isHello f then takeHello far l f s
  else if ¬ x.up ∨ byteAt f 2 ≠ x.rxSeq then s
  else
    let x := { x with unacked := ackFrames (byteAt f 3) x.unacked, rxSeq := if byteAt f 1 = 0 then x.rxSeq + 1 else x.rxSeq }
    let s := pump far l (setEnd s far l x)
    let s := if far then s else relayPump 128 l s
    if byteAt f 1 = 0 then frameTaken far l f s else s

def execHolmiFrameReceive (l : Nat) (far : Bool) (f : Bytes) (s : State) : Host.Outcome State Fault Refusal :=
  inRange (decide (l < 4)) (holmiReceive far l f s)

/-- HOLMI_RESEND_TIMER. -/
def resend (far : Bool) (l : Nat) (s : State) : State :=
  let x := getEnd s far l
  if x.up then setEnd s far l { x with wire := x.wire ++ x.unacked } else s

def execHolmiResendTimer (l : Nat) (far : Bool) (s : State) : Host.Outcome State Fault Refusal :=
  inRange (decide (l < 4)) (when (endAlive s far l) (resend far l) s)

/-- HOLMI_ACK_ONLY_TIMER; while the link is down the end sends its hello instead. -/
def ackOnly (far : Bool) (l : Nat) (s : State) : State :=
  let x := getEnd s far l
  if x.up then setEnd s far l { x with wire := x.wire ++ [holmiFrame 0 true x.txSeq (x.rxSeq - 1) []] } else sendHello far l s

def execHolmiAckOnlyTimer (l : Nat) (far : Bool) (s : State) : Host.Outcome State Fault Refusal :=
  inRange (decide (l < 4)) (when (endAlive s far l) (ackOnly far l) s)

/-- HOLMI_LINK_DOWN. -/
def execHolmiLinkDown (l : Nat) (far : Bool) (s : State) : Host.Outcome State Fault Refusal :=
  inRange (decide (l < 4)) (when (endAlive s far l) (holmiDown far l) s)

/-- HOLMI_REPLY_TIMEOUT: no reply within 1.8 ms. -/
def execHolmiReplyTimeout (l : Nat) (s : State) : Host.Outcome State Fault Refusal :=
  inRange (decide (l < 4)) (when (pkgAlive s) (answerMsg l [0x09, 0x50]) s)

/-- HLINK_WAKE (R490). -/
def execHlinkWake (l : Nat) (s : State) : Host.Outcome State Fault Refusal := inRange (decide (l < 4)) (wakeSource 3 l s)

/-! ### Mailbox commands (R57) -/

/-- Whether the sender has a permission group (R54): the Owner has every one. -/
def hasGroup (s : State) (m g : Nat) : Bool := m == 0 || bitOf (getMbx s m).groups g

/-- HM1_MSG: one message per link at a time. -/
def hm1Msg (r : Req) (s : State) : Ans :=
  let l := leNat r.p 0 1
  let n := leNat r.p 1 1
  if ¬ hasGroup s r.m 8 then reject s 0x4001
  else if ¬ zeroIn r.p (2 + n) 54 then reject s 0x1005
  else if 3 < l ∨ n = 0 ∨ 52 < n ∨ leNat r.p 2 1 < 16 then reject s 0x1006
  else if ¬ (getEnd s false l).up then reject s 0x5009
  else if (getSeen s l).msg.isSome then .hold
  else .wait (holmiSend false l 1 (slice r.p 2 n) (setSeen s l { getSeen s l with msg := some (.mailbox r.m) }))

def execHm1Msg (m : Nat) (s : State) : Host.Outcome State Fault Refusal := inRange (decide (m < 32)) (takeUpCard 0x0801 hm1Msg m s)

/-- HM1_STATUS: what the Keeper last heard; before any hello its values are 0. -/
def hm1Status (r : Req) (s : State) : Ans :=
  let l := leNat r.p 0 1
  let x := getSeen s l
  if 3 < l then reject s 0x1006
  else okay s ([if (getEnd s false l).up then 1 else 0, x.sealByte] ++ slice x.hello 0 4 ++ zeros 2 ++ slice x.hello 4 32)

def execHm1Status (m : Nat) (s : State) : Host.Outcome State Fault Refusal := inRange (decide (m < 32)) (takeUpCard 0x0802 hm1Status m s)

end Sys2Proof.Machine
end

