-- ==== Sys2Proof/Machine/Swarm.lean ====
section
/-! DEFINITION. Swarm links, formation and swarm time (chapter 08, R200-R221, R231). -/

namespace Sys2Proof.Machine

/-! ### Training and identity (R203, R204) -/

/-- One event of a swarm-link port, counted and recorded (R288); a lasting one retires the port. -/
def linkEvent (p : Nat) (s : State) : State :=
  let res := resourceId 6 (s.swarm.node * 6 + p)
  let s := recordCounted res { code := 0x5008, kind := 7, flags := 1, action := 4, source := keeperSrc s } s
  setSlink s p { getSlink s p with retired := s.faults.retired.contains res }

/-- A LINK_CONFIG that waits for the port ends; the manual states no code for a training that fails (a free value). -/
def endLinkCmd (p : Nat) (code : W16) (s : State) : State :=
  let x := getSlink s p
  let s := setSlink s p { x with cmd := none }
  match x.cmd with
  | some c => finishCmd c code [] s
  | none => s

/-- A failed attempt (R203): a retry after 100 ms, or OFF after the fourth, which counts one link event. -/
def failAttempt (p : Nat) (s : State) : State :=
  let x := getSlink s p
  let n := x.failedAttempts + 1
  if n < 4 then setSlink s p { x with failedAttempts := n, retryWait := true, state := .detect, laneLock := 0 }
  else endLinkCmd p (pickStatus s 1 (cardCodes 0x0401)) (linkEvent p (setSlink s p { x with failedAttempts := n, retryWait := false, state := .off, laneLock := 0 }))

/-- A port in training. -/
def inTraining (x : SlinkPort) : Bool :=
  x.state == .detect || x.state == .equalise || x.state == .deskew || x.state == .ident || x.state == .delay

def execPortTrainingStepTimeout (p : Nat) (s : State) : Host.Outcome State Fault Refusal :=
  inRange (decide (p < 6)) (when (inTraining (getSlink s p) && !(getSlink s p).retryWait) (failAttempt p) s)

def execPortTrainingRetry (p : Nat) (s : State) : Host.Outcome State Fault Refusal :=
  inRange (decide (p < 6)) (when (getSlink s p).retryWait (startTraining p) s)

/-- LANE_LOCK (R203): locked lanes; with all four, DESKEW, and once MARKER flits have aligned them, IDENT, which the port begins with its own
IDENT flit (R206, R232). -/
def laneLock (p : Nat) (lanes : BitVec 4) (s : State) : State :=
  let x := getSlink s p
  if x.state = .deskew then
    setSlink s p { x with laneLock := lanes, state := if lanes = 15 then .ident else .deskew, flitsTx := if lanes = 15 then x.flitsTx + 1 else x.flitsTx }
  else
  if (x.state = .detect ∨ x.state = .equalise) ∧ ¬ x.retryWait then
    setSlink s p { x with laneLock := lanes, state := if lanes = 15 then .deskew else .equalise }
  else s

def execLaneLock (p : Nat) (lanes : BitVec 4) (s : State) : Host.Outcome State Fault Refusal :=
  inRange (decide (p < 6)) (laneLock p lanes s)

/-! ### Route entries (R196, R211, R214, R231) -/

/-- The port of R214 that a die uses toward a peer at XOR distance `x`. -/
def portChoice (x die : Nat) : Nat :=
  match x with
  | 1 => if die = 2 ∨ die = 3 ∨ die = 4 then 3 else 0
  | 2 => if die = 2 ∨ die = 3 ∨ die = 4 then 2 else 1
  | _ => if die = 1 ∨ die = 3 ∨ die = 5 then 5 else 4

/-- The entry of a die toward another node through port `p` (R214): with the port on its die or on a neighbour, else to a neighbour whose own
entry names it. -/
def entryVia (die p : Nat) : W32 :=
  let pd := portDie p
  if die = pd ∨ linked die pd then BitVec.ofNat 32 (1 + 2 * pd + 16 * p + 128 * 7)
  else BitVec.ofNat 32 (1 + 2 * (if die = 0 ∨ die = 3 then 1 else 0) + 16 * 7 + 128 * 7)

/-- The entry of a die toward a member node (R214), through a port that is UP. -/
def peerEntry (s : State) (die n : Nat) : W32 :=
  let p0 := portChoice (s.swarm.node ^^^ n) die
  entryVia die (if (getSlink s p0).state = .up ∨ (getSlink s (partner p0)).state ≠ .up then p0 else partner p0)

/-- The entries of every die toward node `n`, staged and committed by the Keeper (R213, R214): for a member its ports, else VALID 0. -/
def installNode (s : State) (n : Nat) : State :=
  (upFrom 0 6).foldl (fun s d =>
    keeperRoutes d (((upFrom 0 128).filter (fun k => k / 8 % 4 == n)).map (fun k =>
      (k, if nodePresent s n ∧ k % 8 < 6 then peerEntry s d n else blockDefault (routeId s d) k))) s) s

/-- Whether entry `k` of die `d` leads, within `n` die links, to port `p` (R195). -/
def usesPort (s : State) (k p : Nat) : Nat → Nat → Bool
  | n, d =>
    let r := blockGet s (routeId s d) k
    bitOf r 0 && (if nextDie r = d then field r 6 4 == p || (bitOf r 10 && field r 9 7 == p) else match n with
      | 0 => false
      | n + 1 => usesPort s k p n (nextDie r))

/-- Every route entry that uses a port moved to its partner (R211, R231). -/
def moveRoutes (p : Nat) (s : State) : State :=
  ((upFrom 0 6).map (fun d => (d, (((upFrom 0 128).filter (fun k => k / 8 % 4 != s.swarm.node && usesPort s k p 3 d)).map
    (fun k => (k, entryVia d (partner p))) : Tbl W32)))).foldl (fun s e => keeperRoutes e.1 e.2 s) s

/-! ### IDENT and DELAY (R19, R203, R204) -/

/-- NODE_CONFLICT of R19: after the WAKE_CAUSE that a mailbox's queue still holds, else before every other event that waits; every link
goes down. -/
def nodeConflict (node : Nat) (s : State) : State :=
  let e : Event := ⟨0xE00A, [BitVec.ofNat 8 node]⟩
  let s := (upFrom 0 32).foldl (fun s m =>
    let x := makeRoom (getMbx s m)
    if ¬ bitOf x.mask 0x0A ∨ x.bound = none then s
    else if x.events.any (fun v => v.code == 0xE002) then
      let l := x.events.takeWhile (fun v => v.code != 0xE002)
      setMbx s m { x with events := l ++ (x.events.drop l.length).take 1 ++ [e] ++ x.events.drop (l.length + 1) }
    else setMbx s m (arriveFirst (getMbx s m) e)) s
  (upFrom 0 6).foldl (fun s p => setSlink s p { portOff (getSlink s p) with configuredOff := true }) s

/-- Whether a node number that a peer reports is that of another package too (R19): this one's, or one that a port to another place of the
swarm has identified. -/
def nodeClash (s : State) (p : Nat) (node : BitVec 2) : Bool :=
  node.toNat == s.swarm.node
    || (upFrom 0 6).any (fun q => peerNode s q != peerNode s p && (getSlink s q).state == .up && (getSlink s q).peerNode == node)

/-- A port that comes UP (R203): its numbering, replay buffer and credits start afresh. -/
def portUp (x : SlinkPort) (delay : W16) : SlinkPort :=
  { x with state := .up, delayNs := delay, failedAttempts := 0, txSeq := 0, rxSeq := 0, replay := [], queued := [], rxPacket := [], ingress := [],
           credits := [96, 96, 32, 32], owed := [0, 0, 0, 0], nakSent := false, naksSent := 0, naksReceived := 0, sinceMarker := 0, relaying := false,
           delays := 0, flitsTx := x.flitsTx + BitVec.ofNat 32 (64 - x.delays) }

/-- A port that comes UP, with its delay: its entries return to R214, and its LINK_CONFIG ends (R231). -/
def acceptLink (p : Nat) (delay : W16) (s : State) : State :=
  let s := setSlink s p (portUp (getSlink s p) delay)
  endLinkCmd p 0 (if s.swarm.formed ∧ bitOf s.swarm.members (peerNode s p) then installNode s (peerNode s p) else s)

/-- IDENT that fails (R204): OFF with IDENT_MISMATCH, no retry until LINK_CONFIG, a record and FAULT; and the conflict of R19. -/
def refuseIdent (p : Nat) (node : BitVec 2) (s : State) : State :=
  let s := setSlink s p { getSlink s p with state := .off, identMismatch := true, noRetry := true, laneLock := 0 }
  let s := endLinkCmd p (pickStatus s 1 (cardCodes 0x0401)) s
  let s := systemFault { code := 0x1006, kind := 7, source := keeperSrc s, action := 4 } s
  if nodeClash s p node then nodeConflict node.toNat s else s

/-- Whether the peer's IDENT is accepted (R204). -/
def identOk (s : State) (p : Nat) (node : BitVec 2) (port : BitVec 3) (version : Byte) : Bool :=
  decide (node.toNat = peerNode s p ∧ port.toNat = p ∧ version = 1)

/-- IDENT (R204), with the whole exchange and the delay measured: the link is accepted and comes UP with its delay, or the port goes OFF. -/
def identStep (p : Nat) (node : BitVec 2) (port : BitVec 3) (version : Byte) (delay : W16) (s : State) : State :=
  let x := getSlink s p
  if x.state = .deskew ∨ x.state = .ident ∨ x.state = .delay then
    let s := setSlink s p { x with peerNode := node, peerPort := port }
    if identOk s p node port version then acceptLink p delay s else refuseIdent p node s
  else s

def execIdent (p : Nat) (node : BitVec 2) (port : BitVec 3) (version : Byte) (delay : W16) (s : State) : Host.Outcome State Fault Refusal :=
  inRange (decide (p < 6)) (identStep p node port version delay s)

/-- A CONTROL flit that reaches a port in IDENT or DELAY (R203, R204, R206): the peer's IDENT, and the 64 round trips, whose half is the delay
(a free value); the places in the slot are the model's (assumption log 33). -/
def trainingFlit (p : Nat) (l : Bytes) (s : State) : State :=
  let x := getSlink s p
  if x.state = .ident ∧ byteAt l 0 = 1 then
    let node : BitVec 2 := (byteAt l 1).truncate 2
    let port : BitVec 3 := (byteAt l 2).truncate 3
    let s := setSlink s p { x with peerNode := node, peerPort := port }
    if identOk s p node port (byteAt l 3) ∧ byteAt l 1 < 4 ∧ byteAt l 2 < 8 then setSlink s p { getSlink s p with state := .delay } else refuseIdent p node s
  else if x.state = .delay ∧ byteAt l 0 = 2 then
    let y := { x with delays := x.delays + 1, flitsTx := x.flitsTx + 1 }
    if y.delays < 64 then setSlink s p y else acceptLink p ((freeW s 9).truncate 16) (setSlink s p y)
  else s

/-! ### Replay (R207) -/

/-- NAK sent for a discarded flit; 16 in a row take the port out of UP (R207, R208). -/
def sendNak (p : Nat) (s : State) : State :=
  let x := getSlink s p
  let s := setSlink s p { x with nakSent := true, naksSent := x.naksSent + 1 }
  if 16 ≤ x.naksSent + 1 then leaveUp p s else s

/-- The acknowledgement and NAK of a delivered flit: the replay buffer shrinks, a NAK resends the rest, and flits that waited go on. -/
def takeAck (p : Nat) (ack : BitVec 12) (nak : Bool) (s : State) : State :=
  let x := getSlink s p
  let outstanding := (x.txSeq - 1 - ack).toNat
  let k := if outstanding ≤ x.replay.length then x.replay.length - outstanding else 0
  let rest := x.replay.drop k
  let n := if nak then (if 0 < k then 1 else x.naksReceived + 1) else (if 0 < k then 0 else x.naksReceived)
  let x := { x with replay := rest, naksReceived := n }
  let x := if nak then { x with replays := satAdd x.replays rest.length, replaysOvf := x.replaysOvf || satLost x.replays rest.length,
                                flitsTx := x.flitsTx + BitVec.ofNat 32 rest.length } else x
  let s := setSlink s p (pumpPort x)
  if 16 ≤ n then leaveUp p s else s

def execLinkIdleTimeout (p : Nat) (s : State) : Host.Outcome State Fault Refusal := inRange (decide (p < 6)) (leaveUp p s)

/-- LANE_LOCK_LOSS (R208). -/
def laneLockLoss (p lane : Nat) (s : State) : State :=
  let x := getSlink s p
  leaveUp p (setSlink s p { x with laneLock := setBit x.laneLock lane false })

def execLaneLockLoss (p lane : Nat) (s : State) : Host.Outcome State Fault Refusal :=
  inRange (decide (p < 6 ∧ lane < 4)) (laneLockLoss p lane s)

/-! ### Handover (R211) -/

/-- HANDOVER: flits after the last one that the other end delivered, and then those queued, go to the partner ahead of its own
new traffic; the port relays from then on. -/
def handover (p : Nat) (delivered : BitVec 12) (s : State) : State :=
  let x := getSlink s p
  if x.state = .handover ∧ ¬ x.relaying then
    let outstanding := (x.txSeq - 1 - delivered).toNat
    let rest := (if outstanding ≤ x.replay.length then x.replay.drop (x.replay.length - outstanding) else x.replay) ++ x.queued
    let s := setSlink s p { x with relaying := true, replay := [], queued := [] }
    rest.foldl (fun s f => sendFlit (partner p) f s) s
  else s

def execHandover (p : Nat) (delivered : BitVec 12) (s : State) : Host.Outcome State Fault Refusal :=
  inRange (decide (p < 6)) (handover p delivered s)

/-- HANDOVER_ROUTE_SWITCH (R211): the entries that use the port name its partner, once no other switch runs in the package (R198); the
failed port goes OFF and retrains once, one link event. -/
def handoverRouteSwitch (p : Nat) (s : State) : State :=
  let x := getSlink s p
  if x.state = .handover ∧ x.relaying ∧ s.net.switching.isNone then
    let s := moveRoutes p s
    bringUp p (linkEvent p (setSlink s p (portOff (getSlink s p))))
  else s

def execHandoverRouteSwitch (p : Nat) (s : State) : Host.Outcome State Fault Refusal :=
  inRange (decide (p < 6)) (handoverRouteSwitch p s)

/-! ### Formation (R212-R217) -/

/-- Number of the pair of nodes a < b among the six pairs. -/
def pairNo (a b : Nat) : Nat := if a = 0 then b - 1 else if a = 1 then b + 1 else 5

/-- Whether a port to node `n` is UP. -/
def linkUpTo (s : State) (n : Nat) : Bool := (upFrom 0 6).any (fun p => (getSlink s p).state == .up && peerNode s p == n)

/-- Whether a pair of nodes has a link UP: this node's own ports, and for other pairs the lists gathered. -/
def pairUp (s : State) (links : BitVec 6) (a b : Nat) : Bool :=
  if a = s.swarm.node then linkUpTo s b else if b = s.swarm.node then linkUpTo s a else bitOf links (pairNo (min a b) (max a b))

/-- Nodes of a mask, ascending. -/
def nodesOf (m : Nat) : List Nat := (upFrom 0 4).filter (fun n => m / 2 ^ n % 2 = 1)

/-- Whether every pair of a set has a link UP. -/
def cliqueOk (s : State) (links : BitVec 6) (m : Nat) : Bool :=
  (nodesOf m).all (fun a => (nodesOf m).all (fun b => a == b || pairUp s links a b))

/-- Whether an ascending list is smaller in the first place where two differ. -/
def lexSmaller : List Nat → List Nat → Bool
  | a :: x, b :: y => if a = b then lexSmaller x y else a < b
  | _, _ => false

/-- The largest set within `among`, the smaller one at a tie (R212). -/
def bestSet (s : State) (links : BitVec 6) (among : Nat) : Nat :=
  ((upFrom 1 15).filter (fun m => m &&& among == m && cliqueOk s links m)).foldl (fun b m =>
    let l := nodesOf m
    let k := nodesOf b
    if k.length < l.length ∨ (k.length = l.length ∧ lexSmaller l k) then m else b) 0

/-- The swarm of this node: the nodes left outside a set form their own (R212). -/
def ownSet (s : State) (links : BitVec 6) : Nat → Nat → Nat
  | 0, _ => 2 ^ s.swarm.node
  | k + 1, among =>
    let m := bestSet s links among
    if m / 2 ^ s.swarm.node % 2 = 1 then m else if m = 0 then 2 ^ s.swarm.node else ownSet s links k (among - m)

/-- What the loss of a member brings with it (R96, R215, R229, R300): the fences it may have signalled are poisoned, collectives it takes part in
fail, slots that watch its words fire, and a record is written. Which fences the descriptors of its queues had registered is known to its own
queue units alone: a free value (assumption log 3). -/
def loseNode (n : Nat) (s : State) : State :=
  let hit := (s.obj.mot.filter (fun e => e.2.kind == 2 && (bitOf e.2.signalled n || bitOf (freeW s (16 + e.1)) 0))).map (·.1)
  let s := hit.foldl (fun s i => poison i 0x5005 s) s
  let s := (s.cmp.slots.filter (fun e => e.2.state == .armed && field e.2.members (4 * n + 3) (4 * n) != 0)).foldl
    (fun s e => collFail e.1 0x5005 s) s
  let s := (s.obj.slots.filter (fun e => e.2.state == .armed && addrNode e.2.watch.toNat == n)).foldl
    (fun s e => fireSlotError e.1 0x5008 e.2.seen s) s
  systemFault { code := 0x5005, kind := 9, source := keeperSrc s, action := 5 } s

/-- Swarm time that a formation gives this node (R218, R220): the largest among the members, never back; at a first formation of them all,
the coordinator's RTC. `times` gives the swarm time of each node, 0 where it has none yet, and for a coordinator whose swarm has none its
RTC. -/
def formTime (s : State) (m co : Nat) (times : List W64) : W64 :=
  let rtcNs : W64 := BitVec.ofNat 64 (s.power.rtc.toNat * 1000000000 + s.power.rtcFrac.toNat * 1000000000 / 32768)
  let own : W64 := if s.swarm.formed then s.swarm.time else 0
  let best := (nodesOf m).foldl (fun t n => if n ≠ s.swarm.node ∧ t.toNat < (times.getD n 0).toNat then times.getD n 0 else t) own
  if ¬ s.swarm.formed ∧ co = s.swarm.node ∧ best = 0 then rtcNs else best

/-- A formation carried out (R213): members, coordinator, time (R218, R220), the routes of the nodes that join or have left (R217), generation,
SWARM_CHANGE. The coordinator is LOCKED; a member that was not LOCKED becomes it by TIME flits. A member that the new set leaves out is lost. -/
def form (links : BitVec 6) (times : List W64) (s : State) : State :=
  let m := ownSet s links 4 15
  let co := (nodesOf m).headD s.swarm.node
  let w := s.swarm
  let left := (nodesOf w.members.toNat).filter (fun n => n != w.node && m / 2 ^ n % 2 == 0)
  let stay := (nodesOf w.members.toNat).filter (fun n => w.formed && m / 2 ^ n % 2 == 1)
  let s := left.foldl (fun s n => loseNode n s) s
  let s := { s with swarm := { s.swarm with
    members := BitVec.ofNat 4 m, coordinator := co, generation := w.generation + 1, formed := true, forming := w.formAgain,
    formAgain := false, time := formTime s m co times, running := true, locked := w.locked || co == w.node, inRange := 0, outOfRange := 0,
    trim := if co = w.node then 0 else w.trim } }
  let s := ((upFrom 0 4).filter (fun n => n != w.node && !stay.contains n)).foldl installNode s
  let s := ((upFrom 0 6).filter (fun p => (getSlink s p).state == .off)).foldl (fun s p => bringUp p s) s
  let s := broadcast 0xE004 ([BitVec.ofNat 8 m, BitVec.ofNat 8 co, 0, 0] ++ toLE 4 s.swarm.generation.toNat) s
  if s.swarm.locked then releaseHeld s else s

/-- Whether the lists gathered leave out a member that this node itself has not lost (R212, R215). -/
def leavesOut (s : State) (links : BitVec 6) : Bool :=
  (nodesOf s.swarm.members.toNat).any (fun n => ownSet s links 4 15 / 2 ^ n % 2 == 0)

/-- FORMATION (R213): the re-formation in progress, or one that the loss of a link between other members brings, is carried out. -/
def execFormation (links : BitVec 6) (times : List W64) (s : State) : Host.Outcome State Fault Refusal :=
  inRange (decide (times.length = 4)) (when (s.swarm.formed && (s.swarm.forming || leavesOut s links)) (form links times) s)

/-- FIRST_FORMATION_WAIT (R213): every expected port UP, or 2,000 ms passed since the Keeper started. -/
def execFirstFormationWait (links : BitVec 6) (times : List W64) (waited : Bool) (s : State) : Host.Outcome State Fault Refusal :=
  inRange (decide (times.length = 4)) (when (!s.swarm.formed && decide (3 ≤ s.boot.step.toNat)
    && (waited || (upFrom 0 6).all (fun p => !expectedPort s p || (getSlink s p).state == .up))) (form links times) s)

/-- NODE_REJOIN (R217): a set that enlarges the swarm is formed without a hold-down. -/
def execNodeRejoin (links : BitVec 6) (times : List W64) (s : State) : Host.Outcome State Fault Refusal :=
  inRange (decide (times.length = 4)) (when (s.swarm.formed && !s.swarm.forming
    && decide ((nodesOf s.swarm.members.toNat).length < (nodesOf (ownSet s links 4 15)).length)) (form links times) s)

/-- NODE_LOSS (R215): both links to a member are down; its ports retrain for the hold-down. -/
def nodeLoss (n : Nat) (s : State) : State :=
  if n ≠ s.swarm.node ∧ bitOf s.swarm.members n ∧ (upFrom 0 6).all (fun p => peerNode s p ≠ n
      || !((getSlink s p).state == .up || (getSlink s p).state == .handover)) then
    let w := s.swarm
    let m := setBit w.members n false
    let s := { s with swarm := { w with members := m, lost := setBit w.lost n true, coordinator := (nodesOf m.toNat).headD w.node } }
    let s := loseNode n s
    ((upFrom 0 6).filter (fun p => peerNode s p == n)).foldl (fun s p => bringUp p s) s
  else s

def execNodeLoss (n : Nat) (s : State) : Host.Outcome State Fault Refusal := inRange (decide (n < 4)) (nodeLoss n s)

/-- NODE_LOSS_HOLD_DOWN (R215, R216): the re-formation starts, or starts again once the one in progress ends. -/
def nodeLossHoldDown (s : State) : State :=
  if s.swarm.lost = 0 then s
  else { s with swarm := { s.swarm with lost := 0, forming := true, formAgain := s.swarm.forming } }

def execNodeLossHoldDown (s : State) : Host.Outcome State Fault Refusal := inRange true (nodeLossHoldDown s)

/-! ### Swarm time (R219, R220) -/

/-- TIME_SEND: a TIME flit on the lowest-numbered UP port toward each other member; the place of the time in the slot after the
subtype byte is the model's (assumption log 33). -/
def timeSend (s : State) : State :=
  if s.swarm.coordinator = s.swarm.node ∧ s.swarm.running then
    ((nodesOf s.swarm.members.toNat).filter (fun n => n ≠ s.swarm.node)).foldl (fun s n =>
      match (upFrom 0 6).find? (fun p => peerNode s p == n && (getSlink s p).state == .up) with
      | some p => sendFlit p (controlFlit 3 (toLE 8 s.swarm.time.toNat)) s
      | none => s) s
  else s

def execTimeSend (s : State) : Host.Outcome State Fault Refusal := inRange true (timeSend s)

/-- The region ports hold STIME at its last value (R242). -/
def holdStime (s : State) : State :=
  { s with frame := { s.frame with regions := (upFrom 0 7).foldl (fun t k => Tbl.modify {} t k (fun x => { x with stime := s.swarm.time })) s.frame.regions } }

/-- TIME_RECEIVE: the offset, LOCKED after eight within ±2 ns and lost after eight beyond, and a rate trim of at most 200 ppm
toward the offset, whose amount the manual leaves open (a free value). Signals held until LOCKED go on (R220). -/
def timeReceive (p : Nat) (sent : W64) (s : State) : State :=
  let w := s.swarm
  if (getSlink s p).state = .up ∧ w.coordinator ≠ w.node ∧ peerNode s p = w.coordinator then
    let off : Int := (sent + (getSlink s p).delayNs.zeroExtend 64 - w.time).toInt
    let near := decide (-2 ≤ off ∧ off ≤ 2)
    let i := if near then w.inRange + 1 else 0
    let o := if near then 0 else w.outOfRange + 1
    let leave := w.locked && decide (8 ≤ o)
    let amount : Int := ((freeW s 1).toNat % 201 : Nat)
    when (!w.locked && decide (8 ≤ i)) releaseHeld { when leave holdStime s with swarm := { w with
      offset := BitVec.ofInt 16 (max (-32767) (min 32767 off)), inRange := min i 8, outOfRange := min o 8,
      locked := if leave then false else w.locked || decide (8 ≤ i),
      alarms := if leave then satAdd w.alarms 1 else w.alarms, alarmsOvf := w.alarmsOvf || (leave && satLost w.alarms 1),
      trim := if off < 0 then -amount else if 0 < off then amount else 0 } }
  else s

def execTimeReceive (p : Nat) (sent : W64) (s : State) : Host.Outcome State Fault Refusal :=
  inRange (decide (p < 6)) (timeReceive p sent s)

/-! ### LINK_CONFIG and SWARM_STATUS (R231, R56) -/

/-- The port taken down (R231): the entries that use it move to its partner, and it is powered down. -/
def linkDown (p : Nat) (s : State) : State :=
  let s := moveRoutes p s
  setSlink s p { portOff (getSlink s p) with configuredOff := true }

/-- The port brought up, its command waiting until it is UP (R231). -/
def linkUp (p : Nat) (c : CmdRef) (s : State) : State :=
  let x := getSlink s p
  if x.state = .up then finishCmd c 0 [] (if s.swarm.formed ∧ bitOf s.swarm.members (peerNode s p) then installNode s (peerNode s p) else s)
  else startTraining p (setSlink s p { x with configuredOff := false, identMismatch := false, noRetry := false, failedAttempts := 0, cmd := some c })

/-- LINK_CONFIG (R231). A retired port is not brought up, a switch that runs is waited for, and a LINK_CONFIG that the port still waits for ends
with a code of its card (assumption log 34). -/
def linkConfig (r : Req) (s : State) : Ans :=
  let p := leNat r.p 0 1
  let a := leNat r.p 1 1
  if 5 < p ∨ 2 < a then reject s 0x1006
  else if ¬ expectedPort s p ∨ (a ≠ 1 ∧ (getSlink s (partner p)).state ≠ .up)
    ∨ (a ≠ 0 ∧ (portPattern s p ∨ (getSlink s p).retired)) then reject s 0x2001
  else if s.net.switching.isSome then .hold
  else acceptOr r (fun c s =>
    let s := endLinkCmd p (pickStatus s 1 (cardCodes 0x0401)) s
    match a with
    | 0 => finishCmd c 0 [] (linkDown p s)
    | 1 => linkUp p c s
    | _ => linkUp p c (linkDown p s)) s

def execLinkConfig (m : Nat) (s : State) : Host.Outcome State Fault Refusal := inRange (decide (m < 32)) (takeUpCard 0x0401 linkConfig m s)

/-- Code of a port state (R232). -/
def portCode : PortState → Nat
  | .off => 0
  | .detect => 1
  | .equalise => 2
  | .deskew => 3
  | .ident => 4
  | .delay => 5
  | .up => 6
  | .handover => 7

/-- SWARM_STATUS. -/
def swarmStatus (_ : Req) (s : State) : Ans :=
  okay s ([s.swarm.members.zeroExtend 8, BitVec.ofNat 8 s.swarm.coordinator]
    ++ (upFrom 0 6).map (fun p => BitVec.ofNat 8 (portCode (getSlink s p).state)) ++ toLE 4 s.swarm.generation.toNat)

def execSwarmStatus (m : Nat) (s : State) : Host.Outcome State Fault Refusal := inRange (decide (m < 32)) (takeUpCard 0x0402 swarmStatus m s)

end Sys2Proof.Machine
end

