-- ==== Sys2Proof/Machine/RegMap.lean ====
section
/-! DEFINITION. The register map (R36, R68, R508): where every register of a KZ6 die lies, which domain holds it, what a read of it
returns (R10, R58), and its staged fields (R10, R509). -/

namespace Sys2Proof.Machine

/-- The register blocks of R508. -/
inductive RegBlock where
  | mbx | mbxBell | queBell | que | fenceSet | fenceAdd | mot | viol | slot | inbox | published | hlink | cal | tar | stime | kpol | flt
  | flcPort | flcBank | flcSector | romPhase | optStatus | boot | dom | pwr | part | tj | ao | vector | coll | cell | sel | slink | ing
  | region | tile | cfgRegion | cfg | route | rtGen | rtr | pat
deriving DecidableEq, Repr

/-- A row of the map: the block, its base as an offset in the register window, the stride of an instance, the number of the first
instance and how many there are, and the registers of one instance. -/
structure RegRow where
  blk    : RegBlock
  base   : Nat
  stride : Nat
  first  : Nat := 0
  count  : Nat := 1
  words  : Nat
deriving DecidableEq, Repr

/-- Rows of every die. -/
def dieRows (die : Nat) : List RegRow :=
  [⟨.route, 0x9000000, 0x200, 0, 1, 128⟩, ⟨.rtGen, 0x9000200, 0x10, 0, 1, 1⟩, ⟨.rtr, 0x9100000, 0x10, 0, routersOf die, 3⟩]

/-- Rows of the Hive: mailboxes and the fast path. -/
def hivePathRows : List RegRow :=
  [⟨.mbx, 0, 0x20, 0, 32, 7⟩, ⟨.mbxBell, 0x400, 0x10, 0, 1, 1⟩, ⟨.queBell, 0x1000000, 0x1000, 0, 1024, 1⟩, ⟨.que, 0x1800000, 0x10, 0, 1024, 4⟩,
   ⟨.fenceSet, 0x2000000, 8, 0, 65536, 2⟩, ⟨.fenceAdd, 0x2100000, 8, 0, 65536, 2⟩, ⟨.mot, 0x3000000, 0x20, 0, 65536, 8⟩,
   ⟨.viol, 0x3200000, 0x10, 0, 1, 2⟩, ⟨.slot, 0x4000000, 0x20, 0, 4096, 7⟩, ⟨.inbox, 0x5000000, 0x40, 0, 16, 12⟩,
   ⟨.published, 0x5001000, 0x600, 0, 1, 384⟩, ⟨.hlink, 0x5100000, 0x100, 0, 4, 10⟩, ⟨.cal, 0x6000000, 0x100000, 0, 4, 49⟩,
   ⟨.tar, 0x7000000, 0x100000, 0, 4, 321⟩]

/-- Rows of the Hive: the management blocks. -/
def hiveRows : List RegRow :=
  [⟨.stime, 0xA000000, 0x10, 0, 1, 3⟩, ⟨.kpol, 0xA010000, 0x30, 0, 1, 9⟩, ⟨.flt, 0xA020000, 0x10, 0, 1, 3⟩, ⟨.flcPort, 0xA030000, 0x40, 0, 2, 11⟩,
   ⟨.flcBank, 0xA030100, 0x10, 0, 2, 2⟩, ⟨.flcSector, 0xA030400, 0x400, 0, 1, 256⟩, ⟨.romPhase, 0xA030800, 0x10, 0, 1, 1⟩,
   ⟨.optStatus, 0xA040000, 0x10, 0, 1, 1⟩, ⟨.boot, 0xA050000, 0x10, 0, 1, 3⟩, ⟨.dom, 0xA060000, 0x100, 0, 1, 64⟩, ⟨.pwr, 0xA060100, 0x10, 0, 1, 2⟩,
   ⟨.part, 0xA060140, 0x40, 0, 1, 16⟩, ⟨.tj, 0xA060180, 0x20, 0, 1, 6⟩, ⟨.ao, 0xA070000, 0x10, 0, 1, 2⟩, ⟨.vector, 0xA080000, 0x40, 0, 1, 16⟩,
   ⟨.pat, 0x9200000, 0x40, 0, 5, 7⟩]

/-- Rows of Comb die `n`. -/
def combRows (n : Nat) : List RegRow :=
  [⟨.coll, 0x8000000, 0x40, 0, 16, 12⟩, ⟨.cell, 0xA000000, 0x10, 0, 32, 3⟩, ⟨.sel, 0xA100000, 0x10, 0, 8, 3⟩]
    ++ (portsOfDie n).map (fun p => ⟨.slink, 0xA200000 + 16 * p, 0x10, p, 1, 4⟩)
    ++ [⟨.pat, 0x9200000, 0x40, 0, if n < 2 then 2 else 1, 7⟩, ⟨.pat, 0x9200080, 0x40, 2, 8, 7⟩]

/-- Rows of the Frame die. -/
def frameRows : List RegRow :=
  [⟨.ing, 0x200000, 0x100, 0, 20, 11⟩, ⟨.region, 0xA000000, 0x10, 0, 7, 3⟩, ⟨.tile, 0xA100000, 0x10, 0, 96, 2⟩,
   ⟨.cfgRegion, 0xA200000, 0x10, 0, 7, 3⟩, ⟨.cfg, 0xA200100, 0x10, 0, 1, 2⟩, ⟨.pat, 0x9200000, 0x40, 0, 16, 7⟩]

/-- Rows of a die. -/
def regRows (die : Nat) : List RegRow :=
  dieRows die ++ (if die < 4 then combRows die else if die = 4 then frameRows else hivePathRows ++ hiveRows)

/-- A place in the map: a register, or with `hole` an offset of an instance's span that holds none. -/
structure RegPlace where
  die  : Nat
  blk  : RegBlock
  inst : Nat
  word : Nat
  hole : Bool
deriving DecidableEq, Repr

/-- The place of a die-local address; none where it is unpopulated. -/
def regPlace (die loc : Nat) : Option RegPlace :=
  if loc < 0x01000000000 ∨ 0x02000000000 ≤ loc ∨ 5 < die then none
  else
    let o := loc - 0x01000000000
    ((regRows die).find? (fun r => r.base ≤ o && o < r.base + r.stride * r.count)).map (fun r =>
      let w := (o - r.base) % r.stride / 4
      { die := die, blk := r.blk, inst := r.first + (o - r.base) / r.stride, word := w, hole := r.words ≤ w })

/-- The domains that an access to a register passes (R344): the die's network, and its block's own. -/
def regDomains (p : RegPlace) : List Nat :=
  let net := if p.die < 4 then 12 * p.die + 11 else if p.die = 4 then 48 else 60
  let own := match p.blk with
    | .cell => [12 * p.die + p.inst / 4]
    | .sel => [12 * p.die + 8]
    | .tile => [if p.inst < 48 then 54 else 55]
    | .ing => [50]
    | .region => [if p.inst = 0 then 49 else 51 + (p.inst - 1) / 2]
    | .vector => [61]
    | .hlink => [62]
    | _ => []
  net :: own

/-! ### Values -/

/-- A word from fields given as (low bit, value). -/
def fieldsWord (l : List (Nat × Nat)) : W32 := BitVec.ofNat 32 (l.foldl (fun a e => a + e.2 * 2 ^ e.1) 0)

/-- The low and the high half of a number. -/
def loWord (n : Nat) : W32 := BitVec.ofNat 32 n
def hiWord (n : Nat) : W32 := BitVec.ofNat 32 (n / 2 ^ 32)

/-- Registers of a mailbox (R35). -/
def mbxWord (s : State) (m w : Nat) : W32 :=
  let x := getMbx s m
  match w with
  | 0 => x.reqTail.zeroExtend 32
  | 1 => x.reqHead.zeroExtend 32
  | 2 => x.rspTail.zeroExtend 32
  | 3 => x.rspHead.zeroExtend 32
  | 4 => fieldsWord [(0, b2n x.bound.isSome), (1, b2n x.ringFault), (2, b2n x.foreignOvf), (3, b2n x.evtLostOvf), (8, x.foreignWrites.toNat), (16, x.evtLost.toNat)]
  | 6 => BitVec.ofNat 32 (0x800 * m)
  | _ => 0

/-- Code of a queue state (R86). -/
def queueCode : QueueState → Nat
  | .ready => 0
  | .hold => 1
  | .halted => 2
  | .draining => 3

/-- Registers of a queue (R86). -/
def queueWord (s : State) (q w : Nat) : W32 :=
  let x := getQueue s q
  match w with
  | 0 => BitVec.ofNat 32 (queueCode x.state)
  | 1 => x.submitted
  | 2 => x.retired
  | _ => fieldsWord [(0, x.dropped.toNat), (16, b2n x.droppedOvf)]

/-- The 32 bytes of a memory-object table entry (R73). -/
def motEntryBytes (e : MotEntry) : Bytes :=
  toLE 6 e.base ++ toLE 2 e.gen.toNat ++ toLE 5 e.size ++ [e.perm.zeroExtend 8, BitVec.ofNat 8 e.kind, e.lock.zeroExtend 8] ++ toLE 2 e.owner.toNat
    ++ [e.creator, BitVec.ofNat 8 e.place] ++ toLE 4 e.refs.toNat ++ zeros 8

/-- Code of a slot state (R94). -/
def slotCode : SlotState → Nat
  | .idle => 0
  | .armed => 1
  | .fired => 2
  | .firedError => 3

/-- Registers of a monitor slot (R94). -/
def slotWord (s : State) (k w : Nat) : W32 :=
  let x := getSlot s k
  match w with
  | 0 => loWord x.watch.toNat
  | 1 => hiWord x.watch.toNat
  | 2 => loWord x.target.toNat
  | 3 => hiWord x.target.toNat
  | 4 => loWord x.notify.toNat
  | 5 => hiWord x.notify.toNat
  | _ => fieldsWord [(0, x.vector.toNat), (16, b2n x.plain), (19, slotCode x.state)]

/-- Registers of a relay (R494). -/
def relayWord (s : State) (l w : Nat) : W32 :=
  let x := getRelay s l
  match w with
  | 0 => fieldsWord [(0, x.context.toNat), (10, b2n x.enable), (11, x.count.toNat)]
  | 1 => x.txRing
  | 2 => x.rxRing
  | 3 => loWord x.rxFence.toNat
  | 4 => hiWord x.rxFence.toNat
  | 5 => x.txTail
  | 6 => x.txHead
  | 7 => x.rxTail
  | 8 => x.rxHead
  | _ => fieldsWord [(0, b2n (getEnd s false l).up), (1, b2n x.badIndex), (2, b2n x.rxDropsOvf), (3, b2n x.txBadOvf), (4, x.rxDrops.toNat), (20, x.txBad.toNat)]

/-- The HM1 blocks as the Keeper shows them (R414, R439): the copy in force and its generation. -/
def hm1Word (s : State) (blk l w : Nat) : W32 :=
  let id := hm1BlockId s blk l
  let b := getBlock s id
  if w < hm1Words blk then blockGet s id w
  else if w = (if blk = 16 then 48 else 320) then fieldsWord [(0, b.gen.toNat), (16, if blk = 16 then b.refusal.toNat else 0)]
  else 0

/-- Registers of a flash port (R307). -/
def flashPortWord (s : State) (p w : Nat) : W32 :=
  let x := getPort s p
  let code := match x.result with
    | .idle => 0
    | .busy => 1
    | .done => 2
    | .error => 3
  if w = 0 then 0
  else if w = 1 then fieldsWord [(0, x.addr.toNat), (24, b2n x.info)]
  else if w < 10 then Tbl.get 0 x.data (w - 2)
  else fieldsWord [(0, code), (2, b2n x.ignored), (16, x.code.toNat)]

/-- Registers of a flash bank (R307). -/
def flashBankWord (s : State) (b w : Nat) : W32 :=
  let x := getBank s b
  let act := match x.activity with
    | .idle => 0
    | .programming => 1
    | .erasing => 2
    | .suspended => 3
  if w = 0 then fieldsWord [(0, act), (2, b2n x.port), (3, b2n x.auto), (16, x.sector.toNat)]
  else fieldsWord [(0, x.eccCorrected.toNat), (16, x.suspends.toNat), (24, b2n x.eccOvf), (25, b2n x.suspOvf)]

/-- Registers of the boot state (R343). -/
def bootWord (s : State) (w : Nat) : W32 :=
  let x := s.boot
  match w with
  | 0 => fieldsWord [(0, x.step.toNat), (4, b2n x.slot), (5, b2n x.trial), (6, b2n x.rolledBack), (7, b2n x.recovered), (8, x.attempt.toNat), (16, x.firstCode.toNat)]
  | 1 => fieldsWord [(0, x.started.toNat), (16, x.failed.toNat)]
  | _ => fieldsWord [(0, fuseCounter s % 128), (7, x.running.toNat), (14, x.settingsReset.toNat), (30, b2n x.settingsOvf)]

/-- Registers of the power manager (R346, R353, R359). -/
def powerWord (s : State) (blk : RegBlock) (w : Nat) : W32 :=
  let p := s.power
  let level := fun (d : Nat) => (Tbl.get (0 : BitVec 4) p.level d).toNat
  match blk with
  | .dom => let d := getDom s w; fieldsWord [(0, domCode d.state), (2, b2n d.woa), (3, b2n d.wakesOvf), (16, d.wakes.toNat)]
  | .pwr => if w = 0 then fieldsWord [(0, pkgCode p.pkg), (3, supplyCode p.supply), (5, (upFrom 0 6).foldl (fun a d => max a (level d)) 0)] else p.volts.zeroExtend 32
  | .part => BitVec.ofNat 32 (b2n (bitOf p.halted w))
  | .tj => fieldsWord [(0, (Tbl.get (0 : W16) p.tj w).toNat), (16, level w)]
  | .ao => if w = 0 then p.wakeEnable else p.wakeCause
  | _ => 0

/-- Code of a collective slot's state (R223). -/
def collCode : CollState → Nat
  | .free => 0
  | .claimed => 1
  | .armed => 2
  | .done => 3
  | .failed => 4

/-- Registers of a collective slot (R223). -/
def collWord (s : State) (n w : Nat) : W32 :=
  let x := getColl s n
  match w with
  | 0 => fieldsWord [(0, x.owner.toNat), (14, collCode x.state), (17, x.op.toNat)]
  | 1 => fieldsWord [(0, x.members.toNat), (16, x.root.toNat)]
  | 2 => x.collId
  | 3 => x.count.zeroExtend 32
  | 4 => x.param.zeroExtend 32
  | 5 => loWord x.result.toNat
  | 6 => hiWord x.result.toNat
  | 7 => loWord x.fence.toNat
  | 8 => hiWord x.fence.toNat
  | 9 => loWord x.value.toNat
  | 10 => hiWord x.value.toNat
  | _ => fieldsWord [(0, x.missed.toNat), (16, x.code.toNat)]

/-- Whether a context is in context reset, which its units show as RESETTING (R152, R171, R253). -/
def ctxResets (s : State) (id : Nat) : Bool := (localCtx s id).any (fun c => inReset (getCtx s c))

/-- Registers of a cell (R152). -/
def cellWord (s : State) (die c w : Nat) : W32 :=
  let x := getCell s die c
  let reset := x.job.any (fun j => ctxResets s j.ctx.toNat) && x.state != .faulted
  let code := if reset then 6 else match x.state with
    | .idle => 0
    | .running => 1
    | .waiting => 2
    | .stalled => 3
    | .faulted => 4
    | .gated => 5
    | .resetting => 6
  match w with
  | 0 => fieldsWord [(0, code), (3, b2n x.invalid), (4, b2n x.overflow), (5, b2n x.truncated), (6, x.context.toNat), (16, x.item.toNat)]
  | 1 => x.pc.zeroExtend 32
  | _ => x.itemsDone

/-- Registers of a select engine (R171). -/
def selWord (s : State) (die m w : Nat) : W32 :=
  let x : SelEngine := Tbl.get {} s.cmp.engines (8 * die + m)
  let reset := x.job.any (fun j => ctxResets s (getQueue s j.1).ctx.toNat) && x.state != .faulted
  let code := if reset then 6 else match x.state with
    | .idle => 0
    | .streaming => 1
    | .merging => 2
    | .stalled => 3
    | .faulted => 4
    | .gated => 5
    | .resetting => 6
  match w with
  | 0 => fieldsWord [(0, code), (6, x.context.toNat), (16, x.fill.toNat)]
  | 1 => x.keysIn
  | _ => x.inserts

/-- Registers of a matrix tile (R253). -/
def tileWord (s : State) (t w : Nat) : W32 :=
  let x : TileUnit := Tbl.get {} s.cmp.tiles t
  let reset := x.job.any (fun j => ctxResets s (getQueue s j.1).ctx.toNat) && x.state != .faulted
  let code := if reset then 6 else match x.state with
    | .idle => 0
    | .anchoring => 1
    | .running => 2
    | .stalled => 3
    | .faulted => 4
    | .gated => 5
    | .resetting => 6
    | .finishing => 7
  if w = 0 then fieldsWord [(0, code), (3, b2n x.invalid), (4, b2n x.overflow), (5, b2n x.truncated), (6, x.context.toNat), (16, x.item.toNat)] else x.itemsDone

/-- Code of a port state (R232). -/
def slinkCode : PortState → Nat
  | .off => 0
  | .detect => 1
  | .equalise => 2
  | .deskew => 3
  | .ident => 4
  | .delay => 5
  | .up => 6
  | .handover => 7

/-- Registers of a swarm-link port (R232). -/
def slinkWord (s : State) (p w : Nat) : W32 :=
  let x := getSlink s p
  match w with
  | 0 => fieldsWord [(0, slinkCode x.state), (3, x.peerNode.toNat), (5, x.peerPort.toNat), (8, x.laneLock.toNat), (12, b2n x.identMismatch), (13, b2n x.retired)]
  | 1 => fieldsWord [(0, x.replays.toNat), (16, x.trains.toNat), (24, b2n x.replaysOvf), (25, b2n x.trainsOvf)]
  | 2 => x.delayNs.zeroExtend 32
  | _ => x.flitsTx

/-- Registers of an ingest channel (R254). -/
def ingWord (s : State) (c w : Nat) : W32 :=
  let x := getChan s c
  match w with
  | 0 => fieldsWord [(0, b2n x.enable), (1, b2n x.toRegion), (2, x.region.toNat), (5, x.vc.toNat)]
  | 1 => x.bind.zeroExtend 32
  | 2 => x.ring
  | 3 => fieldsWord [(0, x.bufCount.toNat), (16, x.bufParcels.toNat)]
  | 4 => fieldsWord [(0, x.stride.toNat), (16, x.flush.toNat)]
  | 5 => loWord x.fence.toNat
  | 6 => hiWord x.fence.toNat
  | 7 => x.filled
  | 8 => x.released
  | 9 => fieldsWord [(0, x.drops.toNat), (16, b2n x.dropsOvf), (17, b2n x.badRelease)]
  | _ => fieldsWord [(0, x.badUnits.toNat), (14, b2n x.badUnitsOvf), (15, x.other.toNat), (30, b2n x.otherOvf)]

/-- Code of a region's state (R279). -/
def regionCode : RegionState → Nat
  | .blank => 0
  | .draining => 1
  | .loading => 2
  | .held => 3
  | .running => 4
  | .failed => 5

/-- Registers of a region and of the configuration controller (R235, R243, R279). -/
def frameWord (s : State) (blk : RegBlock) (k w : Nat) : W32 :=
  let x := getRegion s k
  let c := s.frame.cfg
  match blk with
  | .region => if w = 0 then fieldsWord [(0, x.bindContext.toNat), (10, b2n x.bindValid)]
      else if w = 1 then fieldsWord [(0, x.tgtTimeouts.toNat), (16, b2n x.tgtTimeoutsOvf), (17, b2n x.open_)] else x.parcelsOut
  | .cfgRegion => if w = 0 then BitVec.ofNat 32 (regionCode x.state) else if w = 1 then loWord x.imageId.toNat else hiWord x.imageId.toNat
  | .cfg => if w = 0 then fieldsWord [(0, b2n c.doneLine), (1, b2n c.driving)]
      else fieldsWord [(0, c.mismatches.toNat), (16, b2n c.mismatchesOvf), (17, c.loadFails.toNat), (31, b2n c.loadFailsOvf)]
  | _ => 0

/-- A router's registers (R199), with the generation of the route table (R195). -/
def rtrWord (s : State) (die r w : Nat) : W32 :=
  let x := getRouter s die r
  match w with
  | 0 => x.flits
  | 1 => x.stalls
  | _ => fieldsWord [(0, x.rescues.toNat), (12, x.stray.toNat), (24, b2n x.stallsOvf), (25, b2n x.rescuesOvf), (26, b2n x.strayOvf)]

/-- Registers of a pattern group (R500). -/
def patWord (s : State) (die g w : Nat) : W32 :=
  let x := getPat s die g
  match w with
  | 0 => fieldsWord [(0, b2n x.enable), (1, x.pattern.toNat), (4, b2n x.invert), (5, b2n x.refused), (6, b2n x.locked), (16, x.lanes.toNat)]
  | 1 => loWord x.user.toNat
  | 2 => hiWord x.user.toNat
  | 3 => x.errors
  | 4 => loWord x.bits.toNat
  | 5 => hiWord x.bits.toNat
  | _ => fieldsWord [(0, x.lockLosses.toNat), (16, b2n x.errorsOvf), (17, b2n x.lossesOvf)]

/-- What a register holds as a read returns it (R10), before the latch of R58. -/
def regWord (s : State) (p : RegPlace) : W32 :=
  let i := p.inst
  let w := p.word
  if p.hole then 0
  else match p.blk with
    | .mbx => mbxWord s i w
    | .mbxBell | .queBell | .fenceSet | .fenceAdd => 0
    | .que => queueWord s i w
    | .mot => le32 (motEntryBytes (getMot s i)) (4 * w)
    | .viol => if w = 0 then s.keeper.violations else BitVec.ofNat 32 (b2n s.keeper.violationsOvf)
    | .slot => slotWord s i w
    | .inbox => Tbl.get 0 s.island.inbox (16 * i + w)
    | .published => le32 (published s) (4 * w)
    | .hlink => relayWord s i w
    | .cal => hm1Word s 16 i w
    | .tar => hm1Word s 17 i w
    | .stime => if w = 0 then loWord s.swarm.time.toNat else if w = 1 then hiWord s.swarm.time.toNat
        else fieldsWord [(0, s.swarm.offset.toNat), (16, b2n s.swarm.locked), (17, b2n s.swarm.alarmsOvf), (18, s.swarm.alarms.toNat)]
    | .kpol => blockGet s (kpolId s) w
    | .flt => if w = 0 then s.faults.next
        else if w = 1 then fieldsWord [(0, s.faults.log.length), (8, b2n s.faults.lostOvf), (16, s.faults.lost.toNat)]
        else fieldsWord [(0, s.faults.ctxResets.toNat), (16, s.faults.dieRecoveries.toNat), (24, b2n s.faults.ctxOvf), (25, b2n s.faults.dieOvf)]
    | .flcPort => flashPortWord s i w
    | .flcBank => flashBankWord s i w
    | .flcSector => fieldsWord ((upFrom 0 16).map (fun j => (2 * j, (sectorState s (16 * w + j)).toNat)))
    | .romPhase => BitVec.ofNat 32 (b2n s.flash.romPhase)
    | .optStatus => fieldsWord [(0, s.boot.opt.copy.toNat), (2, b2n s.boot.opt.valid0), (3, b2n s.boot.opt.valid1)]
    | .boot => bootWord s w
    | .dom => powerWord s .dom w
    | .pwr => powerWord s .pwr w
    | .part => powerWord s .part w
    | .tj => powerWord s .tj w
    | .ao => powerWord s .ao w
    | .vector => Tbl.get 0 s.keeper.vectors w
    | .coll => collWord s (16 * p.die + i) w
    | .cell => cellWord s p.die i w
    | .sel => selWord s p.die i w
    | .slink => slinkWord s i w
    | .ing => ingWord s i w
    | .region => frameWord s .region i w
    | .tile => tileWord s i w
    | .cfgRegion => frameWord s .cfgRegion i w
    | .cfg => frameWord s .cfg i w
    | .route => blockGet s (routeId s p.die) w
    | .rtGen => let b := getBlock s (routeId s p.die); fieldsWord [(0, b.gen.toNat), (16, b2n ((b.pending.isSome && !b.applied) || s.net.switching == some (8 + p.die) || s.net.waiting.contains (8 + p.die)))]
    | .rtr => rtrWord s p.die i w
    | .pat => patWord s p.die i w

/-- Registers that are the low half of a 64-bit quantity (R58). -/
def isLow (p : RegPlace) : Bool :=
  !p.hole && (match p.blk with
    | .slot => p.word == 0 || p.word == 2 || p.word == 4
    | .hlink => p.word == 3
    | .stime => p.word == 0
    | .coll => p.word == 5 || p.word == 7 || p.word == 9
    | .ing => p.word == 5
    | .cfgRegion => p.word == 1
    | .pat => p.word == 1 || p.word == 4
    | _ => false)

/-- A register read (R10, R58): a low half latches the high half that stands then, which the next read of the high half returns. -/
def readReg (p : RegPlace) (a : Nat) (s : State) : State × W32 :=
  let put := fun (k : Nat) (v : Option W32) (s : State) => { s with keeper := { s.keeper with latches := Tbl.set none s.keeper.latches k v } }
  if isLow p then (put a (some (regWord s { p with word := p.word + 1 })) s, regWord s p)
  else match Tbl.get none s.keeper.latches (a - 4) with
    | some v => if isLow { p with word := p.word - 1 } ∧ 0 < p.word then (put (a - 4) none s, v) else (s, regWord s p)
    | none => (s, regWord s p)

/-- The RWS bits of a register (R195, R290, R414, R439). -/
def stagedMask (p : RegPlace) : W32 :=
  if p.hole then 0
  else match p.blk with
    | .route => 0x7FF
    | .kpol => if p.word < 8 then 0x1FFFFFF else 0x1FFFF
    | .cal => if p.word < 40 then (match p.word % 4 with
          | 0 => 0xFFFFFFFF
          | 1 => 0xFFFFFF
          | 2 => 0xFFFF
          | _ => 0)
        else if p.word < 43 then 0xFFFFFFFF else if p.word = 43 then 1 else 0
    | .tar => if p.word < 10 then 0xFFFFFFFF
        else if 16 ≤ p.word ∧ p.word < 48 then (if p.word % 2 = 0 then 0x3FFFF else 0xFFFFF)
        else if 64 ≤ p.word ∧ p.word < 320 then 0x7FFF else 0
    | _ => 0

end Sys2Proof.Machine
end

