-- ==== Sys2Proof/Machine/Patterns.lean ====
section
/-! DEFINITION. The pattern generators and checkers (R498-R500). The readings taken here are in assumption log 84. -/

namespace Sys2Proof.Machine

/-! ### The patterns (R499) -/

/-- The degree of a PRBS polynomial and its second tap, by code; 6 and 7 act as 4 (R500). None is USER. -/
def prbsTaps (code : Nat) : Option (Nat × Nat) :=
  match code with
  | 0 => some (7, 6)
  | 1 => some (9, 5)
  | 2 => some (15, 14)
  | 3 => some (23, 18)
  | 5 => none
  | _ => some (31, 28)

/-- The 64 user bits, bit 0 first. -/
def userBits (v : W64) : List Bool := (upFrom 0 64).map v.getLsbD

/-- The bit that follows a register, whose first bit is the most significant: the polynomial's feedback, or the user pattern repeated. -/
def patternNext (code : Nat) (reg : List Bool) : Bool :=
  match prbsTaps code with
  | some (n, m) => reg.headD false ^^ (reg[n - m]?).getD false
  | none => reg.headD false

/-- A register one bit further. -/
def patternShift (code : Nat) (reg : List Bool) : List Bool := reg.tail ++ [patternNext code reg]

/-- How many bits fill the register of a pattern. -/
def patternLength (code : Nat) : Nat := ((prbsTaps code).map Prod.fst).getD 64

/-- The register a generator starts from: all ones, or the user pattern. -/
def patternStart (x : PatGroup) : List Bool :=
  match prbsTaps x.pattern.toNat with
  | some (n, _) => List.replicate n true
  | none => userBits x.user

/-- The bit a generator shifts out: the most significant one of its register, inverted by INVERT. -/
def sentBit (x : PatGroup) : Bool := x.gen.headD false ^^ x.invert

/-- Whether received bits can be a state of the pattern: any but all zeros, or the user pattern from any of its bits on. -/
def patternSeed (x : PatGroup) (reg : List Bool) : Bool :=
  match prbsTaps x.pattern.toNat with
  | some (n, _) => reg.length == n && reg.any id
  | none => (upFrom 0 64).any (fun k => reg == (userBits x.user).rotateLeft k)

/-! ### A checker (R499) -/

/-- One bit on a lane, INVERT undone. A checker that is not LOCKED follows the received bits and counts the run that agrees with them; a LOCKED one
runs on by itself, and 16 errors within 64 bits end LOCKED and seed it again. -/
def laneBit (x : PatGroup) (b : Bool) (c : LaneCheck) : LaneCheck :=
  let code := x.pattern.toNat
  if c.locked then
    let recent := ((b != patternNext code c.reg) :: c.recent).take 64
    if 16 ≤ (recent.filter id).length then {} else { c with reg := patternShift code c.reg, recent := recent }
  else
    let reg := c.reg ++ [b]
    let run := if patternSeed x c.reg ∧ b = patternNext code c.reg then c.run + 1 else 0
    { reg := reg.drop (reg.length - patternLength code), run := run, locked := decide (64 ≤ run), recent := [] }

/-- Lanes of a group (R498): lane i of the group is lane i of its interface. -/
def patternWidth (die g : Nat) : Nat :=
  if die < 4 then if g < 2 then 4 else 16
  else if die = 4 then 1
  else if g = 0 then 8 else 1

/-- The lanes that are checked and counted: those of LANES that the interface has. -/
def checkedLanes (die g : Nat) (x : PatGroup) : List Nat := (upFrom 0 (patternWidth die g)).filter x.lanes.getLsbD

/-- A lane's checker. -/
def laneCheck (x : PatGroup) (lane : Nat) : LaneCheck := Tbl.get {} x.checks lane

/-- LOCKED (R500): every lane of LANES is locked. -/
def lanesLocked (die g : Nat) (x : PatGroup) : Bool :=
  !(checkedLanes die g x).isEmpty && (checkedLanes die g x).all (fun i => (laneCheck x i).locked)

/-- One bit time of an enabled group: the generator sends a bit, each lane checks the one it receives, and while the group is LOCKED the bits compared
and the wrong ones are counted. A lane that leaves LOCKED counts one LOCK_LOSS. -/
def patternBit (die g : Nat) (received : List Bool) (x : PatGroup) : PatGroup :=
  let lanes := checkedLanes die g x
  let bit := fun (i : Nat) => (received[i]?).getD false ^^ x.invert
  let wrong := if x.locked then (lanes.filter (fun i => bit i != patternNext x.pattern.toNat (laneCheck x i).reg)).length else 0
  let y := { x with gen := patternShift x.pattern.toNat x.gen,
                    checks := lanes.foldl (fun t i => Tbl.set {} t i (laneBit x (bit i) (laneCheck x i))) x.checks }
  let lost := (lanes.filter (fun i => (laneCheck x i).locked && !(laneCheck y i).locked)).length
  { y with locked := lanesLocked die g y, bits := if x.locked then x.bits + 1 else x.bits,
           errors := satAdd x.errors wrong, errorsOvf := x.errorsOvf || satLost x.errors wrong,
           lockLosses := satAdd x.lockLosses lost, lossesOvf := x.lossesOvf || satLost x.lockLosses lost }

/-- The bits of the next bit times on a group's lanes: an entry is one bit time, lane 0 first. A group that is not enabled takes none. -/
def patternRun (die g : Nat) (bits : List (List Bool)) (s : State) : State :=
  let x := getPat s die g
  if x.enable then setPat s die g (bits.foldl (fun x received => patternBit die g received x) x) else s

/-- Whether a die has pattern group `g` (R498). -/
def patExists (die g : Nat) : Bool :=
  (regRows die).any (fun r => r.blk == .pat && r.first ≤ g && g < r.first + r.count)

/-- CHECKER_LOCKED (R499): bits that bring a checker to LOCKED, 64 consecutive ones without an error after those that seed it. -/
def checkerLocked (die g : Nat) (bits : List (List Bool)) (s : State) : State := patternRun die g bits s

def execCheckerLocked (die g : Nat) (bits : List (List Bool)) (s : State) : Host.Outcome State Fault Refusal :=
  inRange (decide (die < 6) && patExists die g) (checkerLocked die g bits s)

/-- CHECKER_LOCK_LOSS (R499): bits that take a checker out of LOCKED, 16 errors within 64, after those that come before. -/
def checkerLockLoss (die g : Nat) (before bits : List (List Bool)) (s : State) : State := patternRun die g bits (patternRun die g before s)

def execCheckerLockLoss (die g : Nat) (before bits : List (List Bool)) (s : State) : Host.Outcome State Fault Refusal :=
  inRange (decide (die < 6) && patExists die g) (checkerLockLoss die g before bits s)

/-! ### CTRL (R500) -/

/-- Whether a pattern group's interface carries no traffic (R500). -/
def patIdle (s : State) (die g : Nat) : Bool :=
  if die < 4 then (if g < 2 then (getSlink s (die + 4 * g)).state == .off else cmdPending s 0x0901)
  else if die = 4 then !(getChan s g).enable
  else if g = 0 then !s.power.pcieUp
  else !(getEnd s false (g - 1)).up

/-- The generator and the checkers started: at a rising ENABLE, which clears the counts, and at another PATTERN. -/
def patStart (rising : Bool) (x : PatGroup) : PatGroup :=
  let x := { x with gen := patternStart x, checks := [], locked := false }
  if rising then { x with errors := 0, bits := 0, lockLosses := 0 } else x

/-- CTRL of a pattern group (R500): a write that sets ENABLE while the interface carries traffic is ignored and sets REFUSED. -/
def patCtrl (die g : Nat) (m o : W32) (s : State) : State :=
  let x := getPat s die g
  if bitOf m 0 ∧ ¬ x.enable ∧ ¬ patIdle s die g then setPat s die g { x with refused := true }
  else
    let y := { x with enable := bitOf m 0, pattern := BitVec.ofNat 3 (field m 3 1), invert := bitOf m 4, refused := x.refused && !bitOf o 5,
                      lanes := BitVec.ofNat 16 (field m 31 16) }
    let y := if y.enable ∧ (¬ x.enable ∨ y.pattern ≠ x.pattern) then patStart (!x.enable) y else y
    setPat s die g { y with locked := y.enable && lanesLocked die g y }

end Sys2Proof.Machine
end

