-- ==== Sys2Proof/Machine/Regs.lean ====
section
/-! DEFINITION. What a write does to each register (R10, R508), and the register commands REG_READ and REG_WRITE (R55, R58, R509). The
readings taken here are in assumption log 61. -/

namespace Sys2Proof.Machine

/-! ### The checks of setting an ENABLE (R254, R494) -/

/-- The checks of RELAY_CTRL.ENABLE (R494). -/
def relayCheck (s : State) (x : Relay) : W16 :=
  let c := x.context.toNat
  let ring := fun (h : W32) (bit : Nat) => (resolve s h).filter (fun i =>
    let e := getMot s i
    e.kind == 1 && bitOf e.perm bit && decide (8 * x.count.toNat ≤ e.size))
  if x.count.toNat < 16 ∨ 128 < x.count.toNat then 0x1006
  else match ring x.txRing 0, ring x.rxRing 1 with
    | some t, some r =>
      if localCtx s c = none ∨ permCheck s (.unit c false 5) (getMot s t).base 256 false ≠ 0
         ∨ permCheck s (.unit c false 5) (getMot s r).base 256 true ≠ 0 then 0x4001
      else match liveFence s x.rxFence.toNat with
        | none => 0x1004
        | some f => if inFamily s c f then 0 else 0x4001
    | _, _ => 0x1004

/-! ### Writes by block. `m` is the register with the written bits in place, `o` the ones written (R509). -/

/-- The low or the high half of a field replaced. -/
def withLo (x : Nat) (v : W32) : Nat := x / 2 ^ 32 * 2 ^ 32 + v.toNat
def withHi (x : Nat) (v : W32) : Nat := v.toNat * 2 ^ 32 + x % 2 ^ 32

/-- Mailbox registers (R35-R38). -/
def putMbx (i w : Nat) (m o : W32) (s : State) : State :=
  let x := getMbx s i
  match w with
  | 0 => writeReqTail i m s
  | 3 => writeRspHead i m s
  | 4 => setMbx s i { x with foreignOvf := x.foreignOvf && !bitOf o 2, evtLostOvf := x.evtLostOvf && !bitOf o 3 }
  | 5 => writeMbxCtrl i o s
  | _ => s

/-- Monitor slots (R94). -/
def putSlot (k w : Nat) (m o : W32) (s : State) : State :=
  let x := getSlot s k
  if w = 6 then slotCtrl k m o s
  else if x.state = .armed then s
  else match w with
    | 0 => setSlot s k { x with watch := BitVec.ofNat 48 (withLo x.watch.toNat m) }
    | 1 => setSlot s k { x with watch := BitVec.ofNat 48 (withHi x.watch.toNat m) }
    | 2 => setSlot s k { x with target := BitVec.ofNat 63 (withLo x.target.toNat m) }
    | 3 => setSlot s k { x with target := BitVec.ofNat 63 (withHi x.target.toNat m) }
    | 4 => setSlot s k { x with notify := BitVec.ofNat 48 (withLo x.notify.toNat m) }
    | 5 => setSlot s k { x with notify := BitVec.ofNat 48 (withHi x.notify.toNat m) }
    | _ => s

/-- A count taken by TX_TAIL (R494). -/
def takeTxTail (l : Nat) (v : W32) (s : State) : State :=
  let x := getRelay s l
  if (v - x.txHead).toNat ≤ x.count.toNat then relayPump 128 l (setRelay s l { x with txTail := v })
  else setRelay s l { x with badIndex := true }

/-- A count taken by RX_HEAD (R494). -/
def takeRxHead (l : Nat) (v : W32) (s : State) : State :=
  let x := getRelay s l
  if (v - x.rxHead).toNat ≤ (x.rxTail - x.rxHead).toNat then setRelay s l { x with rxHead := v }
  else setRelay s l { x with badIndex := true }

/-- RELAY_CTRL (R494). -/
def putRelayCtrl (l : Nat) (m : W32) (s : State) : State × W16 :=
  let x := getRelay s l
  if x.enable then (setRelay s l { x with enable := bitOf m 10 }, 0)
  else
    let y := { x with context := BitVec.ofNat 10 (field m 9 0), count := BitVec.ofNat 8 (field m 18 11) }
    let c := if bitOf m 10 then relayCheck s y else 0
    if c ≠ 0 then (s, c)
    else if bitOf m 10 then (relayPump 128 l (setRelay s l { y with enable := true }), 0)
    else (setRelay s l y, 0)

/-- Relay registers (R494): while ENABLE is 1 only ENABLE, TX_TAIL and RX_HEAD act. -/
def putRelay (l w : Nat) (m o : W32) (s : State) : State × W16 :=
  let x := getRelay s l
  match w with
  | 0 => putRelayCtrl l m s
  | 5 => (takeTxTail l m s, 0)
  | 8 => (takeRxHead l m s, 0)
  | _ =>
    if x.enable then (s, 0)
    else (match w with
      | 1 => setRelay s l { x with txRing := m }
      | 2 => setRelay s l { x with rxRing := m }
      | 3 => setRelay s l { x with rxFence := BitVec.ofNat 48 (withLo x.rxFence.toNat m) }
      | 4 => setRelay s l { x with rxFence := BitVec.ofNat 48 (withHi x.rxFence.toNat m) }
      | 9 => setRelay s l { x with badIndex := x.badIndex && !bitOf o 1, rxDropsOvf := x.rxDropsOvf && !bitOf o 2, txBadOvf := x.txBadOvf && !bitOf o 3 }
      | _ => s, 0)

/-- CTRL of an ingest channel (R254, R259). -/
def putIngestCtrl (c : Nat) (m : W32) (s : State) : State × W16 :=
  let x := getChan s c
  if x.enable then
    if bitOf m 0 then (s, 0)
    else (stopChannel c s, 0)
  else
    let y := { x with toRegion := bitOf m 1, region := BitVec.ofNat 3 (field m 4 2), vc := BitVec.ofNat 4 (field m 8 5) }
    let code := if bitOf m 0 then ingestCheck s c y else 0
    if code ≠ 0 then (s, code) else (setChan s c { y with enable := bitOf m 0 }, 0)

/-- Ingest registers (R254): while ENABLE is 1 only ENABLE and RELEASED act. -/
def putIngest (c w : Nat) (m o : W32) (s : State) : State × W16 :=
  let x := getChan s c
  match w with
  | 0 => putIngestCtrl c m s
  | 8 => (takeReleased c m s, 0)
  | _ =>
    if x.enable then (s, 0)
    else (match w with
      | 1 => setChan s c { x with bind := BitVec.ofNat 10 m.toNat }
      | 2 => setChan s c { x with ring := m }
      | 3 => setChan s c { x with bufCount := BitVec.ofNat 13 m.toNat, bufParcels := BitVec.ofNat 16 (field m 31 16) }
      | 4 => setChan s c { x with stride := BitVec.ofNat 16 m.toNat, flush := BitVec.ofNat 16 (field m 31 16) }
      | 5 => setChan s c { x with fence := BitVec.ofNat 48 (withLo x.fence.toNat m) }
      | 6 => setChan s c { x with fence := BitVec.ofNat 48 (withHi x.fence.toNat m) }
      | 9 => setChan s c { x with dropsOvf := x.dropsOvf && !bitOf o 16, badRelease := x.badRelease && !bitOf o 17 }
      | 10 => setChan s c { x with badUnitsOvf := x.badUnitsOvf && !bitOf o 14, otherOvf := x.otherOvf && !bitOf o 30 }
      | _ => s, 0)

/-- Collective slot registers other than CTRL (R223). -/
def putCollField (n w : Nat) (m : W32) (s : State) : State :=
  let x := getColl s n
  if x.state = .armed then s
  else match w with
    | 1 => setColl s n { x with members := BitVec.ofNat 16 m.toNat, root := BitVec.ofNat 4 (field m 19 16) }
    | 2 => setColl s n { x with collId := m }
    | 3 => setColl s n { x with count := BitVec.ofNat 24 m.toNat }
    | 4 => setColl s n { x with param := BitVec.ofNat 16 m.toNat }
    | 5 => setColl s n { x with result := BitVec.ofNat 48 (withLo x.result.toNat m) }
    | 6 => setColl s n { x with result := BitVec.ofNat 48 (withHi x.result.toNat m) }
    | 7 => setColl s n { x with fence := BitVec.ofNat 48 (withLo x.fence.toNat m) }
    | 8 => setColl s n { x with fence := BitVec.ofNat 48 (withHi x.fence.toNat m) }
    | 9 => setColl s n { x with value := BitVec.ofNat 63 (withLo x.value.toNat m) }
    | 10 => setColl s n { x with value := BitVec.ofNat 63 (withHi x.value.toNat m) }
    | _ => s

/-- A collective slot's registers written by the Keeper, which belongs to every context (R74). -/
def putColl (n w : Nat) (m o : W32) (s : State) : State :=
  if w ≠ 0 then putCollField n w m s
  else if (getColl s n).state = .free then (if bitOf o 10 then collClaim n m s else s)
  else collCtrl n m o s

/-- Flash port registers (R304, R307): an OP write starts the command, whose unit codes as a free value says. -/
def putFlashPort (src : W32) (p w : Nat) (m o mask : W32) (s : State) : State :=
  let x := getPort s p
  if w = 0 then (if field mask 2 0 = 0 then s else portCmd src p (field o 2 0) ((freeW s 8).toNat % 3) s)
  else if w = 1 then setPort s p { x with addr := m.truncate 24, info := bitOf m 24 }
  else if w < 10 then setPort s p { x with data := Tbl.set 0 x.data (w - 2) m }
  else setPort s p { x with ignored := x.ignored && !bitOf o 2 }

/-- Sticky flags and single fields of the Hive's management blocks. -/
def putHive (p : RegPlace) (m o : W32) (s : State) : State :=
  let i := p.inst
  let w := p.word
  match p.blk with
  | .que => if w = 3 then let x := getQueue s i; setQueue s i { x with droppedOvf := x.droppedOvf && !bitOf o 16 } else s
  | .viol => if w = 1 then { s with keeper := { s.keeper with violationsOvf := s.keeper.violationsOvf && !bitOf o 0 } } else s
  | .stime => if w = 2 then { s with swarm := { s.swarm with alarmsOvf := s.swarm.alarmsOvf && !bitOf o 17 } } else s
  | .flt => if w = 1 then { s with faults := { s.faults with lostOvf := s.faults.lostOvf && !bitOf o 8 } }
      else if w = 2 then { s with faults := { s.faults with ctxOvf := s.faults.ctxOvf && !bitOf o 24, dieOvf := s.faults.dieOvf && !bitOf o 25 } }
      else s
  | .flcBank => if w = 1 then let x := getBank s i; setBank s i { x with eccOvf := x.eccOvf && !bitOf o 24, suspOvf := x.suspOvf && !bitOf o 25 } else s
  | .romPhase => { s with flash := { s.flash with romPhase := s.flash.romPhase && !bitOf o 0 } }
  | .boot => if w = 2 then { s with boot := { s.boot with settingsOvf := s.boot.settingsOvf && !bitOf o 30 } } else s
  | .dom => let x := getDom s w; setDom s w { x with wakesOvf := x.wakesOvf && !bitOf o 3 }
  | .part => setHalted w (bitOf m 0) s
  | .vector => { s with keeper := { s.keeper with vectors := Tbl.set 0 s.keeper.vectors w (m &&& 0xFFF) } }
  | _ => s

/-- Sticky flags and single fields of the Comb and Frame dies and of the routers. -/
def putDie (p : RegPlace) (m o : W32) (s : State) : State :=
  let i := p.inst
  let w := p.word
  match p.blk with
  | .slink =>
    let x := getSlink s i
    if w = 0 then setSlink s i { x with identMismatch := x.identMismatch && !bitOf o 12 }
    else if w = 1 then setSlink s i { x with replaysOvf := x.replaysOvf && !bitOf o 24, trainsOvf := x.trainsOvf && !bitOf o 25 } else s
  | .region =>
    let x := getRegion s i
    if w = 0 then setRegion s i { x with bindContext := BitVec.ofNat 10 m.toNat, bindValid := bitOf m 10 }
    else if w = 1 then setRegion s i { x with tgtTimeoutsOvf := x.tgtTimeoutsOvf && !bitOf o 16 } else s
  | .cfg =>
    let c := s.frame.cfg
    if w = 1 then { s with frame := { s.frame with cfg := { c with mismatchesOvf := c.mismatchesOvf && !bitOf o 16, loadFailsOvf := c.loadFailsOvf && !bitOf o 31 } } }
    else s
  | .rtr =>
    let x := getRouter s p.die i
    if w = 2 then setRouter s p.die i { x with stallsOvf := x.stallsOvf && !bitOf o 24, rescuesOvf := x.rescuesOvf && !bitOf o 25,
                                               strayOvf := x.strayOvf && !bitOf o 26 }
    else s
  | .pat =>
    let x := getPat s p.die i
    match w with
    | 0 => patCtrl p.die i m o s
    | 1 => setPat s p.die i { x with user := BitVec.ofNat 64 (withLo x.user.toNat m) }
    | 2 => setPat s p.die i { x with user := BitVec.ofNat 64 (withHi x.user.toNat m) }
    | 6 => setPat s p.die i { x with errorsOvf := x.errorsOvf && !bitOf o 16, lossesOvf := x.lossesOvf && !bitOf o 17 }
    | _ => s
  | _ => s

/-- A register written by the Keeper (R508, R509): the status, and the state when it is 0. -/
def putReg (p : RegPlace) (v mask : W32) (s : State) : State × W16 :=
  let m := (regWord s p &&& ~~~mask) ||| (v &&& mask)
  let o := v &&& mask
  if p.hole then (s, 0)
  else match p.blk with
    | .mbx => (putMbx p.inst p.word m o s, 0)
    | .mbxBell => (if field mask 4 0 = 0 then s else setMbx s (field o 4 0) { getMbx s (field o 4 0) with rung := true }, 0)
    | .queBell => if (getQueue s p.inst).live then (takeDoorbell p.inst o s, 0) else (s, 0x4001)
    | .slot => (putSlot p.inst p.word m o s, 0)
    | .hlink => putRelay p.inst p.word m o s
    | .ing => putIngest p.inst p.word m o s
    | .coll => (putColl (16 * p.die + p.inst) p.word m o s, 0)
    | .flcPort => (putFlashPort (keeperSrc s) p.inst p.word m o mask s, 0)
    | .slink | .region | .cfg | .rtr | .pat => (putDie p m o s, 0)
    | _ => (putHive p m o s, 0)

/-! ### REG_READ and REG_WRITE (R55) -/

/-- The permission group of a register, where the manual gives one (R195, R199, R414, R439). -/
def regGroup (p : RegPlace) : Option Nat :=
  match p.blk with
  | .route | .rtGen | .rtr => some 2
  | .cal | .tar => some 8
  | _ => none

/-- Whether mailbox `m` may read a register (R55, R73). -/
def mayReadReg (s : State) (m : Nat) (p : RegPlace) : Bool := m ≤ 1 || p.blk == .mot || (regGroup p).any (hasGroup s m)

/-- Whether mailbox `m` may write or stage a register (R55). -/
def mayWriteReg (s : State) (m : Nat) (p : RegPlace) : Bool := m == 0 || (regGroup p).any (hasGroup s m)

/-- The place that a swarm address names on its node. -/
def placeAt (a : Nat) : Option RegPlace := if 2 ^ 48 ≤ a then none else regPlace (addrDie a) (addrLoc a)

/-- The code with which a register out of reach answers, and the address of a closed domain whose wake is awaited: a die in
recovery or retired 0x5007, a domain not UP 0x2005 (R189, chapter 02). -/
def regReach (s : State) (p : RegPlace) : W16 :=
  if p.die < 5 ∧ ((getDie s p.die).state = .recovering ∨ (getDie s p.die).state = .retired) then 0x5007
  else if (regDomains p).any (fun d => (getDom s d).state ≠ .up) then 0x2005 else 0

/-- The state with a wake notice for each domain of a register that is not UP; none unless each has wake-on-access. -/
def regWake (p : RegPlace) (s : State) : Option State :=
  let ds := (regDomains p).filter (fun d => (getDom s d).state ≠ .up)
  if ds.all (fun d => (getDom s d).woa && !(getDom s d).wakeFailed)
  then some (ds.foldl (fun s d => setDom s d { getDom s d with notice := true }) s) else none

/-- Registers acted on once each is within reach; a wake awaited holds the request. -/
def whenReached (ps : List RegPlace) (f : State → Ans) (s : State) : Ans :=
  match ps.find? (fun p => regReach s p ≠ 0) with
  | none => f s
  | some p =>
    if regReach s p = 0x2005 then
      match regWake p s with
      | some t => .keep t
      | none => reject s 0x2005
    else reject s (regReach s p)

/-- `n` registers read from address `a` on. -/
def readRegs (a : Nat) : List RegPlace → State → State × Bytes
  | [], s => (s, [])
  | p :: l, s =>
    let (s, v) := readReg p a s
    let (s, b) := readRegs (a + 4) l s
    (s, toLE 4 v.toNat ++ b)

/-- REG_READ. -/
def regRead (r : Req) (s : State) : Ans :=
  let a := leNat r.p 0 6
  let n := leNat r.p 8 1
  let ps := (upFrom 0 n).map (fun i => placeAt (a + 4 * i))
  if ps.any (fun q => q.any (fun p => !mayReadReg s r.m p)) then reject s 0x4001
  else if ¬ zeroIn r.p 6 8 then reject s 0x1005
  else if a % 4 ≠ 0 ∨ ps.any (fun q => q.any (fun p => p.blk == .fenceSet || p.blk == .fenceAdd)) then reject s 0x100A
  else if n = 0 ∨ 12 < n then reject s 0x1006
  else if addrNode a ≠ s.swarm.node then remoteAnswer r (addrNode a) (4 * n) false s
  else if ps.any Option.isNone then reject s 0x1006
  else whenReached (ps.filterMap id) (fun s =>
    let (s, b) := readRegs a (ps.filterMap id) s
    okay s b) s

def execRegRead (m : Nat) (s : State) : Host.Outcome State Fault Refusal := inRange (decide (m < 32)) (takeUpCard 0x0201 regRead m s)

/-- Registers to which REG_WRITE has no access: the code, or 0 (R68, R304, R395, R396, R414, R439). -/
def regClosed (p : RegPlace) : W16 :=
  match p.blk with
  | .cal | .tar | .inbox => 0x4001
  | .published => 0x4002
  | .fenceSet | .fenceAdd => 0x100A
  | .flcPort => if p.inst = 1 then 0x4001 else 0
  | _ => 0

/-- REG_WRITE. -/
def regWriteCmd (r : Req) (s : State) : Ans :=
  let a := leNat r.p 0 6
  let v := le32 r.p 8
  let mask := le32 r.p 12
  let place := placeAt a
  if place.any (fun p => !mayWriteReg s r.m p || regClosed p == 0x4001) then reject s 0x4001
  else if ¬ zeroIn r.p 6 8 then reject s 0x1005
  else if a % 4 ≠ 0 then reject s 0x100A
  else if addrNode a ≠ s.swarm.node then remoteAnswer r (addrNode a) 0 false s
  else match place with
    | none => reject s 0x1006
    | some p =>
      if regClosed p ≠ 0 then reject s (regClosed p)
      else if mask &&& stagedMask p ≠ 0 then reject s 0x1009
      else whenReached [p] (fun s =>
        if mask = 0 then okay s []
        else
          let (t, c) := putReg p v mask s
          if c ≠ 0 then reject s c else okay t []) s

def execRegWrite (m : Nat) (s : State) : Host.Outcome State Fault Refusal := inRange (decide (m < 32)) (takeUpCard 0x0202 regWriteCmd m s)

/-- The register, value and mask of the REG_WRITE that waits at the head of a mailbox's ring. -/
def waitingWrite (m : Nat) (s : State) : Option (RegPlace × W32 × W32) :=
  let b := memRead s (ringAddr s m + 64 * ((getMbx s m).reqHead.toNat % 16)) 64
  if leNat b 0 2 = 0x0202 then (placeAt (leNat b 8 6)).map (fun p => (p, le32 b 16, le32 b 20)) else none

/-- REG_WRITE taken up when it writes a register as `q` says; else nothing (assumption log 30). -/
def regWriteRow (q : RegPlace → W32 → W32 → Bool) (m : Nat) (s : State) : State :=
  if (waitingWrite m s).any (fun e => q e.1 e.2.1 e.2.2) then takeUpCard 0x0202 regWriteCmd m s else s

/-- REGION_BIND_WRITE (R236). -/
def execRegionBindWrite (m : Nat) (s : State) : Host.Outcome State Fault Refusal :=
  inRange (decide (m < 32)) (regWriteRow (fun p _ _ => p.blk == .region && p.word == 0) m s)

/-- INGEST_ENABLE (R254). -/
def execIngestEnable (m : Nat) (s : State) : Host.Outcome State Fault Refusal :=
  inRange (decide (m < 32)) (regWriteRow (fun p v mask => p.blk == .ing && p.word == 0 && bitOf mask 0 && bitOf v 0) m s)

/-- INGEST_DISABLE (R259). -/
def execIngestDisable (m : Nat) (s : State) : Host.Outcome State Fault Refusal :=
  inRange (decide (m < 32)) (regWriteRow (fun p v mask => p.blk == .ing && p.word == 0 && bitOf mask 0 && !bitOf v 0) m s)

/-- RELAY_ENABLE (R494). -/
def execRelayEnable (m : Nat) (s : State) : Host.Outcome State Fault Refusal :=
  inRange (decide (m < 32)) (regWriteRow (fun p v mask => p.blk == .hlink && p.word == 0 && bitOf mask 10 && bitOf v 10) m s)

/-- PATTERN_ENABLE (R500). -/
def execPatternEnable (m : Nat) (s : State) : Host.Outcome State Fault Refusal :=
  inRange (decide (m < 32)) (regWriteRow (fun p v mask => p.blk == .pat && p.word == 0 && bitOf mask 0 && bitOf v 0) m s)

end Sys2Proof.Machine
end

