-- ==== Sys2Proof/Machine/Stage.lean ====
section
/-! DEFINITION. The staged-commit commands (R60-R62): REG_STAGE, COMMIT and STAGE_DISCARD, with the rules that staged values meet (R197,
R290, R414, R440). -/

namespace Sys2Proof.Machine

/-! ### Route tables (R197) -/

/-- A route table as a COMMIT would leave the package: entry `k` of die `d`. -/
abbrev Routes := Nat → Nat → W32

/-- Whether an entry of a die meets the first rules of R197: NEXT_DIE has a die link, and the ports lie on it. -/
def routeEntryOk (s : State) (die k : Nat) (r : W32) : Bool :=
  let here := k / 8 % 4 == s.swarm.node
  let port := fun (p : Nat) => p == 7 || (p < 6 && portDie p == nextDie r)
  !bitOf r 0 || (here && k % 8 == die)
    || ((linked die (nextDie r) || (!here && nextDie r == die)) && port (field r 6 4) && port (field r 9 7))

/-- The die-link channels that a packet for entry `k` uses from die `d`, within `n` crossings (R179); none where it would need more. -/
def routePath (s : State) (t : Routes) (k : Nat) : Nat → Nat → Option (List (Nat × Nat))
  | n, d =>
    let r := t d k
    if (k / 8 % 4 = s.swarm.node ∧ k % 8 = d) ∨ ¬ bitOf r 0 ∨ (k / 8 % 4 ≠ s.swarm.node ∧ nextDie r = d) then some []
    else match n with
      | 0 => none
      | n + 1 => (routePath s t k n (nextDie r)).map ((d, nextDie r) :: ·)

/-- Dependencies between the channels that follow each other on a path. -/
def channelDeps : List (Nat × Nat) → List ((Nat × Nat) × (Nat × Nat))
  | a :: b :: l => (a, b) :: channelDeps (b :: l)
  | _ => []

/-- Whether dependencies form a cycle: what is left after taking away, `n` times, those that lead to a channel without one. -/
def hasCycle : Nat → List ((Nat × Nat) × (Nat × Nat)) → Bool
  | 0, l => !l.isEmpty
  | n + 1, l => hasCycle n (l.filter (fun e => l.any (fun f => f.1 == e.2)))

/-- The check of a route-table COMMIT (R197). -/
def routesOk (s : State) (die : Nat) (t : Routes) : Bool :=
  (upFrom 0 128).all (fun k => routeEntryOk s die k (t die k))
    && (upFrom 0 4).all (fun v =>
      let paths := ((upFrom (32 * v) 32).map (fun k => (upFrom 0 6).map (routePath s t k 3))).flatten
      paths.all Option.isSome && !hasCycle 36 ((paths.filterMap id).map channelDeps).flatten)

/-! ### The rules of each block -/

/-- Register `off` of a block's staging copy. -/
def stagingGet (s : State) (id off : Nat) : W32 := Tbl.get (blockDefault id off) (getBlock s id).staging off

/-- Whether a calibration set keeps the ranges of R414. -/
def calOk (w : Nat → W32) : Bool :=
  (upFrom 0 10).all (fun c =>
    let g := (w (4 * c)).toNat
    let o := ((w (4 * c + 1)).truncate 24 : BitVec 24).toInt
    decide (1 ≤ g ∧ g < 2 ^ 31 ∧ -(2 ^ 20) ≤ o ∧ o ≤ 2 ^ 20))
    && decide ((w 40).toNat ≤ 10000000 ∧ (w 41).toNat ≤ 10000000)

/-- Whether a fault-policy set keeps the ranges of R290. -/
def kpolOk (w : Nat → W32) : Bool := (upFrom 0 8).all (fun c => field (w c) 23 8 ≠ 0) && field (w 8) 15 0 ≠ 0

/-- The blocks of R60: the Keeper's own, a die's route table, an HM1's calibration (16) or tariff tables (17). -/
inductive BlockKind where
  | route (die : Nat) | policy | hm1 (l blk : Nat)
deriving DecidableEq, Repr

/-- The block that an id names on its node (R60). -/
def blockKind (id : Nat) : Option BlockKind :=
  let die := id / 256 % 256
  let n := id / 65536 % 256
  if id % 256 > 3 ∨ id / 2 ^ 24 ≠ 0 then none
  else if n = 1 ∧ die < 6 then some (.route die)
  else if n = 2 ∧ die = 5 then some .policy
  else if (n = 16 ∨ n = 17) ∧ 8 ≤ die ∧ die < 12 then some (.hm1 (die - 8) n)
  else none

/-- Whether the staged values keep their block's rules (R62, check 5). -/
def stagedOk (s : State) (id : Nat) : BlockKind → Bool
  | .route die => routesOk s die (fun d k => if d = die then stagingGet s id k else blockGet s (routeId s d) k)
  | .policy => kpolOk (stagingGet s id)
  | .hm1 _ blk => if blk = 16 then calOk (stagingGet s id) else tariffOk (stagingGet s id)

/-- Whether a mailbox may act on a block (R55). -/
def mayBlock (s : State) (m : Nat) : BlockKind → Bool
  | .route _ => hasGroup s m 2
  | .policy => m == 0
  | .hm1 _ _ => hasGroup s m 8

/-! ### REG_STAGE -/

/-- The block of a staged register. -/
def blockOf (s : State) (p : RegPlace) : Nat :=
  match p.blk with
  | .route => routeId s p.die
  | .kpol => kpolId s
  | .cal => hm1BlockId s 16 p.inst
  | _ => hm1BlockId s 17 p.inst

/-- REG_STAGE: the staging copy starts as the values in force when the mailbox takes the hold. -/
def regStage (r : Req) (s : State) : Ans :=
  let a := leNat r.p 0 6
  let v := le32 r.p 8
  let place := placeAt a
  if place.any (fun p => !mayWriteReg s r.m p) then reject s 0x4001
  else if ¬ zeroIn r.p 6 8 then reject s 0x1005
  else if a % 4 ≠ 0 then reject s 0x100A
  else if addrNode a ≠ s.swarm.node then remoteAnswer r (addrNode a) 0 false s
  else match place with
    | none => reject s 0x1006
    | some p =>
      let mask := le32 r.p 12 &&& stagedMask p
      let id := blockOf s p
      let b := getBlock s id
      if mask = 0 then reject s 0x1009
      else if dieDown s p.die then reject s 0x5007
      else if b.holder.isSome ∧ b.holder ≠ some r.m then reject s 0x2002
      else if b.pending.isSome then reject s 0x6003
      else
        let old := if b.holder.isNone then b.inForce else b.staging
        let cur := Tbl.get (blockDefault id p.word) old p.word
        let st := Tbl.set (blockDefault id p.word) old p.word ((cur &&& ~~~mask) ||| (v &&& mask))
        okay (setBlock s id { b with staging := st, holder := some r.m }) []

def execRegStage (m : Nat) (s : State) : Host.Outcome State Fault Refusal := inRange (decide (m < 32)) (takeUpCard 0x0203 regStage m s)

/-! ### COMMIT -/

/-- A route switch begins, or waits for the one that runs (R198). -/
def beginSwitch (die : Nat) (s : State) : State :=
  if s.net.switching.isNone then { s with net := { s.net with switching := some die } }
  else { s with net := { s.net with waiting := s.net.waiting ++ [die] } }

/-- An HM1's set sent as one message (R415; its form is in assumption log 58). -/
def sendSet (l blk : Nat) (gen : W16) (s : State) : State :=
  let id := hm1BlockId s blk l
  let words := ((upFrom 0 (hm1Words blk)).map (fun i => toLE 4 (stagingGet s id i).toNat)).flatten
  holmiSend false l 1 ([1, BitVec.ofNat 8 blk] ++ toLE 2 gen.toNat ++ words) (setSeen s l { getSeen s l with msg := some (.commit blk) })

/-- What follows the acceptance of a COMMIT. -/
def beginCommit (id : Nat) (gen : W16) (k : BlockKind) (c : CmdRef) (s : State) : State :=
  let s := setBlock s id { getBlock s id with pending := some c }
  match k with
  | .route die => beginSwitch die s
  | .policy => s
  | .hm1 l blk => sendSet l blk gen s

/-- Whether a mailbox may act on the block that an id names (R44 step 6): on one that names none, only the Owner, since no group is its. -/
def mayNamed (s : State) (m : Nat) (k : Option BlockKind) : Bool :=
  match k with
  | some k => mayBlock s m k
  | none => m == 0

/-- COMMIT, its checks in the order of R44 and R62; an HM1's Holmi link down 0x5009, and its link busy with a message holds the request. -/
def commit (r : Req) (s : State) : Ans :=
  let id := leNat r.p 0 4
  let gen := le16 r.p 4
  if ¬ mayNamed s r.m (blockKind id) then reject s 0x4001
  else if id % 256 ≠ s.swarm.node then remoteAnswer r (id % 256) 0 true s
  else match blockKind id with
    | none => reject s 0x1006
    | some k =>
      let b := getBlock s id
      let sealed_ := match k with
        | .hm1 l 16 => bitOf (getSeen s l).sealByte 0
        | _ => false
      let down := match k with
        | .hm1 l _ => !(getEnd s false l).up
        | _ => false
      let busy := match k with
        | .hm1 l _ => (getSeen s l).msg.isSome
        | _ => false
      if b.holder.isSome ∧ b.holder ≠ some r.m then reject s 0x2002
      else if b.holder.isNone then reject s 0x2001
      else if b.pending.isSome then reject s 0x6003
      else if gen ≠ b.gen + 1 then reject s 0x2003
      else if ¬ stagedOk s id k then reject s 0x1006
      else if sealed_ then reject (setBlock s id { b with refusal := 1 }) 0x4005
      else if down then reject s 0x5009
      else if busy then .hold
      else acceptOr r (beginCommit id gen k) s

def execCommit (m : Nat) (s : State) : Host.Outcome State Fault Refusal := inRange (decide (m < 32)) (takeUpCard 0x0204 commit m s)

/-- STAGE_DISCARD. An id that names no block names one that no mailbox holds: accepted, with no effect (R61). -/
def stageDiscard (r : Req) (s : State) : Ans :=
  let id := leNat r.p 0 4
  if ¬ mayNamed s r.m (blockKind id) then reject s 0x4001
  else if id % 256 ≠ s.swarm.node then remoteAnswer r (id % 256) 0 false s
  else match blockKind id with
    | none => okay s []
    | some _ =>
      let b := getBlock s id
      if b.holder.isSome ∧ b.holder ≠ some r.m then reject s 0x2002
      else if b.pending.isSome then reject s 0x6003
      else okay (setBlock s id { b with staging := [], holder := none }) []

def execStageDiscard (m : Nat) (s : State) : Host.Outcome State Fault Refusal := inRange (decide (m < 32)) (takeUpCard 0x0205 stageDiscard m s)

end Sys2Proof.Machine
end

