-- ==== Sys2Proof/Machine/Access.lean ====
section
/-! DEFINITION. Direct accesses of application cores, PCIe functions and the safety island (R24, R33, R58, R63-R78, R508): registers,
mailbox rings, and memory. The readings taken here are in assumption log 62. -/

namespace Sys2Proof.Machine

/-! ### Who may access a register directly (R508) -/

/-- Whether a source is a unit of this node's Hive. -/
def isUnit (s : State) (src : W32) (u : Nat) : Bool := srcUnit src == u && srcNode src == s.swarm.node

/-- Whether a source is PCIe function `f` of this node. -/
def isFunction (s : State) (src : W32) (f : Nat) : Bool := isUnit s src 3 && srcSub src == f

/-- Whether a source is one of a context's. -/
def isSourceOf (s : State) (src : W32) (id : Nat) : Bool := (localCtx s id).any (srcOfCtx s src)

/-- Whether a direct read of a register is taken. -/
def mayReadDirect (s : State) (src : W32) (p : RegPlace) : Bool :=
  match p.blk with
  | .mbx => (getMbx s p.inst).bound == some src
  | .mbxBell => (upFrom 0 32).any (fun m => (getMbx s m).bound == some src)
  | .que => (getQueue s p.inst).live && mayRing s src (getQueue s p.inst)
  | .slot => slotAllowed s src p.inst
  | .published => true
  | .hlink => isSourceOf s src (getRelay s p.inst).context.toNat
  | .flcPort => p.inst == 1 && isUnit s src 1
  | .flcBank | .flcSector => isUnit s src 1
  | .vector => isFunction s src p.word
  | .coll => let x := getColl s (16 * p.die + p.inst); x.state == .free || srcOwns s src x.owner.toNat
  | _ => false

/-- A direct write refused under R78. -/
def refuseReg (src : W32) (a : Nat) (s : State) : State := refuseWrite src a none 0x4001 s

/-- TX_TAIL_WRITE and RX_HEAD_WRITE (R494): from the sources of CONTEXT. -/
def relayIndexWrite (src : W32) (l : Nat) (head : Bool) (v : W32) (s : State) : State :=
  if isSourceOf s src (getRelay s l).context.toNat then (if head then takeRxHead l v else takeTxTail l v) (answer 0 [] s)
  else refuseReg src (here s 5 (0x01005100000 + 0x100 * l + (if head then 0x20 else 0x14))) s

def execTxTailWrite (src : W32) (l : Nat) (v : W32) (s : State) : Host.Outcome State Fault Refusal :=
  inRange (decide (l < 4)) (relayIndexWrite src l false v s)

def execRxHeadWrite (src : W32) (l : Nat) (v : W32) (s : State) : Host.Outcome State Fault Refusal :=
  inRange (decide (l < 4)) (relayIndexWrite src l true v s)

/-- A direct aligned 32-bit write to a register (R508), each block under the rule that its row names. -/
def directPut (src : W32) (p : RegPlace) (a : Nat) (v : W32) (s : State) : State :=
  let ok := fun (b : Bool) (f : State → State) => if b then f (answer 0 [] s) else refuseReg src a s
  match p.blk with
  | .mbx => mbxWrite src p.inst (4 * p.word) (putMbx p.inst p.word v v) s
  | .mbxBell => if p.hole then answer 0 [] s else mbxDoorbell src v s
  | .queBell => if p.hole then answer 0 [] s else queueDoorbell src p.inst v s
  | .fenceSet | .fenceAdd => answer 0x100A [] s
  | .slot => if slotAllowed s src p.inst then putSlot p.inst p.word v v (answer 0 [] s) else refuseWrite src a (slotCreator s p.inst) 0x4001 s
  | .inbox => if p.word = 11 then inboxSubmit src p.inst v s else inboxWrite src p.inst p.word v s
  | .published => answer 0x4002 [] s
  | .hlink => if p.word = 5 then relayIndexWrite src p.inst false v s else if p.word = 8 then relayIndexWrite src p.inst true v s
      else refuseReg src a s
  | .flcPort => ok (p.inst == 1 && isUnit s src 1) (if p.hole then id else putFlashPort src 1 p.word v v (BitVec.allOnes 32))
  | .part => partitionHalted src p.word v s
  | .vector => ok (isFunction s src p.word) (fun s => (putReg p v (BitVec.allOnes 32) s).1)
  | .coll =>
    let n := 16 * p.die + p.inst
    if p.word = 0 then writeCollCtrl src p.die p.inst v s
    else if (getColl s n).state ≠ .free ∧ srcOwns s src (getColl s n).owner.toNat then putCollField n p.word v (answer 0 [] s)
    else refuseWrite src a (collCreator s (getColl s n)) 0x4001 s
  | .ing => if p.word = 8 then ingestReleasedWrite src p.inst v s else refuseReg src a s
  | _ => refuseReg src a s

/-- Whether direct writes of a register are taken from a source (R508), by the rule that its row names. -/
def mayWriteDirect (s : State) (src : W32) (p : RegPlace) : Bool :=
  match p.blk with
  | .mbx => (getMbx s p.inst).bound == some src
  | .mbxBell => (upFrom 0 32).any (fun m => (getMbx s m).bound == some src)
  | .queBell => (getQueue s p.inst).live && mayRing s src (getQueue s p.inst)
  | .slot => slotAllowed s src p.inst
  | .inbox => inboxOpen s src p.inst
  | .hlink => (p.word == 5 || p.word == 8) && isSourceOf s src (getRelay s p.inst).context.toNat
  | .flcPort => p.inst == 1 && isUnit s src 1
  | .part => isPartition s src p.word
  | .vector => isFunction s src p.word
  | .coll => let x := getColl s (16 * p.die + p.inst); x.state == .free || srcOwns s src x.owner.toNat
  | .ing => p.word == 8 && isSourceOf s src (getChan s p.inst).bind.toNat
  | _ => false

/-- A direct write that is narrower than 32 bits or misaligned: without effect on a register that is open to its source (R58), and
refused like any other on one that is not (R33, R78, R508). -/
def misshapenWrite (src : W32) (p : RegPlace) (a : Nat) (s : State) : State :=
  if mayWriteDirect s src p then answer 0 [] s
  else match p.blk with
    | .mbx => foreignWrite src p.inst a s
    | .published => answer 0x4002 [] s
    | .slot => refuseWrite src a (slotCreator s p.inst) 0x4001 s
    | .coll => refuseWrite src a (collCreator s (getColl s (16 * p.die + p.inst))) 0x4001 s
    | _ => refuseReg src a s

/-- The status of an access to the register window before its own rule: reach, or 0. -/
def registerReach (s : State) (src : W32) (a : Nat) : W16 :=
  let c := reachCheck s (.src src) a 1
  if c ≠ 0 ∨ addrNode a ≠ s.swarm.node then c
  else match placeAt a with
    | none => 0x1006
    | some p => regReach s p

/-- An access to the register window that is out of reach: answered, with the wake notices of the domains it met (R66, R192). -/
def registerOut (src : W32) (a : Nat) (s : State) : State :=
  let t := noticeDomain s (.src src) a
  answer (registerReach s src a) [] (match (if addrNode a = s.swarm.node then placeAt a else none) with
    | some p => (regDomains p).foldl (fun s d => noticeOf d s) t
    | none => t)

/-- A direct write of `size` bytes to a register. What another node answers is one of the codes of R66 (assumption log 3). -/
def registerWrite (src : W32) (a size : Nat) (data : Bytes) (s : State) : State :=
  if registerReach s src a ≠ 0 then registerOut src a s
  else if addrNode a ≠ s.swarm.node then answer (pickStatus s 10 remoteCodes) [] s
  else match placeAt a with
    | none => s
    | some p =>
      if p.blk = .fenceSet ∨ p.blk = .fenceAdd then fencePort src p.inst (if a % 8 = 0 then size else 0) (le64 data 0) (p.blk == .fenceAdd) s
      else if size ≠ 4 ∨ a % 4 ≠ 0 then misshapenWrite src p a s
      else directPut src p a (le32 data 0) s

/-- A direct read of `size` bytes of a register; one that is not aligned and of 32 bits returns 0 (R58). -/
def registerRead (src : W32) (a size : Nat) (s : State) : State :=
  if registerReach s src a ≠ 0 then registerOut src a s
  else if addrNode a ≠ s.swarm.node then
    answer (pickStatus s 10 remoteCodes) (if pickStatus s 10 remoteCodes = 0 then freeBytes s 12 size else []) s
  else match placeAt a with
    | none => s
    | some p =>
      if p.blk = .fenceSet ∨ p.blk = .fenceAdd then answer 0x100A [] s
      else if ¬ mayReadDirect s src p then answer 0x4001 [] s
      else if size ≠ 4 ∨ a % 4 ≠ 0 then answer 0 (zeros size) s
      else
        let (s, v) := readReg p a s
        answer 0 (toLE 4 v.toNat) s

/-- Registers that BAR0 shows to a PCIe function (R487): mailboxes, doorbells, its own MBX_VECTOR, fence ports, monitor slots, queues, the safety
inbox and published area, the Holmi relays, and the ingest channels. -/
def barBlock (src : W32) (p : RegPlace) : Bool :=
  match p.blk with
  | .mbx | .mbxBell | .queBell | .que | .fenceSet | .fenceAdd | .slot | .inbox | .published | .hlink | .ing => true
  | .vector => p.word == srcSub src
  | _ => false

/-- Whether a requester's view holds an address (R487): a PCIe function has BAR0's registers and, through BAR2, die-local addresses below the
register window. -/
def inView (src : W32) (a : Nat) : Bool :=
  srcUnit src != 3 || addrLoc a < 0x01000000000 || (match placeAt a with
    | some p => barBlock src p
    | none => false)

/-- An access outside the function's BARs: an Unsupported Request, without effect (R487). -/
def outOfView (src : W32) (s : State) : State := asSeen src (answer 0x1006 [] s)

/-- A direct access takes place when a local port of this node stamps its source id (R174); no port sends any other. -/
def whenStamped (src : W32) (f : State → State) (s : State) : State := when (stampsId s src) f s

def execDirectRegisterWrite (src : W32) (addr : BitVec 48) (v : W32) (s : State) : Host.Outcome State Fault Refusal :=
  inRange true (whenStamped src (fun s =>
    if inView src addr.toNat then asSeen src (registerWrite src addr.toNat 4 (toLE 4 v.toNat) s) else outOfView src s) s)

/-! ### Memory (R66, R67, R74-R78, R282) -/

/-- The mailbox whose rings hold `n` bytes at an address of this node (R67), as its request or response ring. -/
def ringOf (s : State) (a : Nat) : Option Nat :=
  let o := a - here s 5 0x00800000000
  if here s 5 0x00800000000 ≤ a ∧ o < 0x10000 then some (o / 0x800) else none

/-- An access to the rings of mailbox `m`: of the bound source alone (R33, R67). -/
def ringAccess (src : W32) (m : Nat) (write : Bool) (a n : Nat) (data : Bytes) (s : State) : State :=
  let inside := (a - here s 5 0x00800000000) / 0x800 = (a + n - 1 - here s 5 0x00800000000) / 0x800
  if (getMbx s m).bound = some src ∧ inside then
    if write then
      if checksOk s a n ∨ n % 256 = 0 ∧ a % 256 = 0 then answer 0 [] (memWrite s a data)
      else answer 0x5001 [] (failedRead src 0 a n s)
    else if checksOk s a n then answer 0 (memRead s a n) s
    else answer 0x5001 [] (failedRead src 0 a n s)
  else if write then answer 0x4001 [] ((ringsOf s a n).foldl (fun s k =>
    if (getMbx s k).bound = some src then s else foreignCount src k a s) s)
  else answer 0x4001 [] s

/-- The header of a window request by a core or function, which runs no context: CONTEXT 0. -/
def windowHeader (src : W32) (a : Nat) : PacketHeader :=
  { cls := 0, vn := 0, urg := 0, age := 0, retry := false, src := src, dest := BitVec.ofNat 48 a, txid := 0, context := 0, status := 0 }

/-- An access to a user-logic window: its parcels are presented on TGT, and it waits for their answers; or it is answered at once (R240). -/
def windowAccess (src : W32) (k : Nat) (write : Bool) (a n : Nat) (data : Bytes) (s : State) : State :=
  let c := tgtStatus s k (windowHeader src a)
  if c ≠ 0 then answer c [] s
  else
    let s := (piecesOf false a n).foldl (fun s e =>
      tgtPresent k (windowHeader src e.1) (.host e.2) write (beatsOf e.1 e.2) (if write then slice data (e.1 - a) e.2 else []) s) s
    { s with keeper := { s.keeper with rsp := { waiting := true } } }

/-- Whether the PCIe port holds a port write of a function (R181): an earlier write of it waits on TGT, or an earlier port write is held. -/
def portHeld (s : State) (src : W32) : Bool :=
  srcUnit src == 3 && (s.frame.regions.any (fun e => e.2.tgt.any (fun q => q.write && !q.late && ofHost q.owner && q.src == src))
    || s.keeper.heldWrites.any (fun w => w.1 == src))

/-- A port write of a core or function: doorbells, fence ports and the registers of the fast path (R176), in the order of R181 and R99. The rows
that name one such register are the write as it reaches its unit (assumption log 62). -/
def portWrite (src : W32) (a n : Nat) (data : Bytes) (s : State) : State :=
  if portHeld s src then
    { s with keeper := { s.keeper with heldWrites := s.keeper.heldWrites ++ [(src, a, n, data)], rsp := { waiting := true } } }
  else registerWrite src a n data s

/-- A memory access by a source (R74): checks attached on a write and verified on a read. -/
def memoryAccess (src : W32) (write : Bool) (a n : Nat) (data : Bytes) (s : State) : State :=
  if write then
    let (s, c) := unitWrite (.src src) src a data s
    answer c [] s
  else
    let (s, c, b, ok) := unitRead (.src src) src a n s
    if c ≠ 0 then answer c [] s
    else if ok then answer 0 b s
    else answer 0x5001 [] (failedRead src 0 a n s)

/-- HOST_ACCESS: a read of `size` bytes, or a write of `data`, by the source whose id its port stamps. -/
def hostAccess (src : W32) (write : Bool) (a size : Nat) (data : Bytes) (s : State) : State :=
  let n := if write then data.length else size
  let loc := addrLoc a
  let who : Requester := .src src
  match collWindow s a with
  | some k =>
    if write then collInputWrite src (k / 16) (k % 16) (loc % 0x1000000) data s
    else if reachCheck s who a n ≠ 0 then answer (reachCheck s who a n) [] (noticeDomain s who a)
    else answer 0x4001 [] s
  | none =>
    if rangeOf s (addrDie a) loc = .regs then (if write then portWrite src a n data s else registerRead src a n s)
    else if reachCheck s who a n ≠ 0 then answer (reachCheck s who a n) [] (noticeDomain s who a)
    else match ringOf s a, rangeOf s (addrDie a) loc with
      | some m, _ => ringAccess src m write a n data s
      | none, .window k => if addrNode a = s.swarm.node then windowAccess src k write a n data s else memoryAccess src write a n data s
      | none, _ => memoryAccess src write a n data s

def execHostAccess (src : W32) (write : Bool) (addr : BitVec 48) (size : Nat) (data : Bytes) (s : State) : Host.Outcome State Fault Refusal :=
  inRange true (whenStamped src (fun s =>
    if inView src addr.toNat then asSeen src (hostAccess src write addr.toNat size data s) else outOfView src s) s)

end Sys2Proof.Machine
end

