-- ==== Sys2Proof/Machine/Arrive.lean ====
section
/-! DEFINITION. What reaches this node from outside its meshes: the flits of a swarm link and the packets in them (R183, R206-R209), the
ends of route-table switches, which let held packets go on (R198), and the answers of user logic, which let held port writes go on
(R181, R240). -/

namespace Sys2Proof.Machine

/-! ### Packets from another node (R176, R179, R183, R188, R193) -/

/-- The requester whose rights a packet from another node carries, entering at die `d` (R74). -/
def packetReq (h : PacketHeader) (d : Nat) : Requester :=
  match srcUnit h.src with
  | 4 | 5 | 6 => .unit h.context.toNat true d
  | 2 | 3 => .src h.src
  | _ => .unit h.context.toNat false d

/-- The runs of set bits of a byte mask, as offset and length (R175). -/
def maskRuns (m : W32) : List (Nat × Nat) :=
  (upFrom 0 32).foldl (fun l i =>
    if ¬ bitOf m i then l
    else match l.reverse with
      | (o, n) :: r => if o + n = i then (r.reverse) ++ [(o, n + 1)] else l ++ [(i, 1)]
      | [] => [(i, 1)]) []

/-- An access of a core or function of another node, with its answer: its effect here, and not the answer register of this node's own. -/
def asideAnswer (f : State → State) (s : State) : State × W16 × Bytes :=
  let t := f s
  ({ t with keeper := { t.keeper with rsp := s.keeper.rsp } }, t.keeper.rsp.status, t.keeper.rsp.data)

/-- A read by a packet: status and bytes. -/
def arriveRead (h : PacketHeader) (d a n : Nat) (s : State) : State × W16 × Bytes :=
  if srcUnit h.src = 2 ∨ srcUnit h.src = 3 then asideAnswer (hostAccess h.src false a n []) s
  else
    let (t, c, l, ok) := takeRead (packetReq h d) a n s
    (t, if c = 0 ∧ ¬ ok then 0x5001 else c, l)

/-- A write by a packet: status. -/
def arriveWrite (h : PacketHeader) (d a : Nat) (l : Bytes) (s : State) : State × W16 :=
  if srcUnit h.src = 2 ∨ srcUnit h.src = 3 then
    let (t, c, _) := asideAnswer (hostAccess h.src true a 0 l) s
    (t, c)
  else takeWrite (packetReq h d) h.src a l s

/-- The inline bytes of a WRITE written (R175); the first run that is refused ends it. -/
def arriveInline (h : PacketHeader) (d : Nat) (mask : W32) (inl : Bytes) (s : State) : State × W16 :=
  (maskRuns mask).foldl (fun p r => if p.2 = 0 then arriveWrite h d (h.dest.toNat + r.1) (slice inl r.1 r.2) p.1 else p) (s, 0)

/-- A FENCE_FORWARD (R96, R176): the armed slots that watch the word observe it. -/
def fenceForward (a : Nat) (w : W64) (s : State) : State :=
  (s.obj.slots.filter (fun e => e.2.state == .armed && e.2.watch.toNat == a)).foldl (fun s e =>
    let x := getSlot s e.1
    if x.state ≠ .armed then s
    else if x.target.toNat ≤ w.toNat then fireSlot e.1 w .fired s
    else setSlot s e.1 { x with seen := w }) s

/-- The fence that a SET or ADD port address names, and whether it is the ADD port (R68). -/
def fencePortAt (s : State) (a : Nat) : Option (Nat × Bool) :=
  if addrNode a ≠ s.swarm.node then none
  else match placeAt a with
    | some p => if p.blk = .fenceSet then some (p.inst, false) else if p.blk = .fenceAdd then some (p.inst, true) else none
    | none => none

/-- A FENCE_SIGNAL from another node joins the signals at the fence unit (R90); one that names no port is discarded and counted. -/
def arriveSignal (d : Nat) (k : Packet) (s : State) : State :=
  match fencePortAt s k.head.dest.toNat with
  | some (i, add) => pushSignal { fence := i, add := add, value := k.operand, origin := .remote k.head.src, ctx := k.head.context } s
  | none => countStray d (slinkAt 0) 1 s

/-- A VN 0 request that has reached its target, with its answer (R188, R240): a request to a region window waits for user logic. -/
def arriveRequest (d r : Nat) (k : Packet) (s : State) : State :=
  let h := k.head
  let a := h.dest.toNat
  let n := if k.operand = 0 ∨ 256 < k.operand.toNat then 256 else k.operand.toNat
  let who := packetReq h d
  let mask : W32 := k.operand.truncate 32
  let done := fun (s : State) (cls : BitVec 4) (c : W16) (l : Bytes) => replyTo d r h (if c = 0 then cls else 6) c (retryOne s who c a) l s
  match windowAt s a 1 with
  | some w =>
    if reachCheck s who a 1 ≠ 0 then done s 6 (reachCheck s who a 1) []
    else if tgtStatus s w h ≠ 0 then done s 6 (tgtStatus s w h) []
    else if h.cls = 0 then tgtPresent w h (.net h) false (beatsOf a n) [] s
    else if k.data ≠ [] then tgtPresent w h (.net h) true 15 k.data.flatten s
    else tgtPresent w h (.net h) true (beatsOf a 32) (masked k) s
  | none =>
    match h.cls.toNat with
    | 0 =>
      let (s, c, l) := arriveRead h d a n s
      done s 4 c (if n = 256 then l else slice l 0 32)
    | 1 =>
      let (s, c) := if k.data ≠ [] then arriveWrite h d a k.data.flatten s else arriveInline h d mask k.inl s
      done s 5 c []
    | _ =>
      match fencePortAt s a, maskRuns mask with
      | some (i, add), [(o, 8)] =>
        done (pushSignal { fence := i, add := add, value := le64 k.inl o, origin := .remote h.src, ctx := h.context } s) 5 0 []
      | some _, _ => done s 6 0x100A []
      | none, l =>
        let (o, n) := l.headD (0, 0)
        let (s, c, _) := asideAnswer (registerWrite h.src (a + o) n (slice k.inl o n)) s
        done s 5 c []

/-- The record of a packet whose parcel check has failed (R30, R183). -/
def failedCheck (h : PacketHeader) (s : State) : State :=
  record { code := 0x5001, kind := 1, source := h.src, context := h.context, address := h.dest.zeroExtend 64, action := 6 } s

/-- A packet whole in the ingress of port `p` (R183, R198): taken, or none while it is held there because an entry that it needs is switched.
Requests are answered; responses reach their requester; signals reach the fence unit; and a VN 2 packet at a gated boundary goes back as a
FAULT_NOTICE (R193). Contents that R175 and R176 do not lay out (MGMT messages between Keepers, INTERRUPT, DISPATCH, DOMAIN_NOTICE) have
no effect (assumption log 33). -/
def takePacket (p : Nat) (k : Packet) (s : State) : Option State :=
  let h := k.head
  let d := portDie p
  let r := slinkAt p
  let code := (pathStop s h.vn.toNat (routeAddr h) 3 d).1
  let t := carry [{ die := d, router := r, port := 0, head := h, data := k.data.length }] s
  if ¬ classOk h then
    some (faultNotice { die := d, router := r, port := 0, vn := h.vn.toNat, src := h.src, context := h.context, code := 0x1006 } (countStray d r 1 s))
  else if h.vn ≠ 0 ∧ code = 0x2006 then none
  else if h.vn = 0 then
    if code ≠ 0 then some (replyTo d r h 6 code (retryOne s (.unit 0 false d) code h.dest.toNat) [] (noticeDomain s (.unit 0 false d) h.dest.toNat))
    else if h.cls ≠ 0 ∧ checkOf k ≠ k.check then some (replyTo d r h 6 0x5001 false [] (failedCheck h s))
    else some (arriveRequest d r k t)
  else if h.vn = 1 then
    if h.cls = 4 ∧ k.data ≠ [] ∧ checkOf k ≠ k.check then some (errRsp d r { h with status := 0x5001 } (failedCheck h t)) else some (errRsp d r h t)
  else if h.vn = 2 ∧ code = 0x2005 then
    some (sendAway d r { head := { h with cls := 15, vn := 3, urg := 3, status := 0x2005, dest := BitVec.ofNat 48 (swarmAddr (srcNode h.src) 5 0) } } s)
  else if code ≠ 0 then some (countStray d r 1 s)
  else match h.cls.toNat with
    | 8 => some (arriveSignal d k t)
    | 9 => some (fenceForward h.dest.toNat k.operand t)
    | 15 =>
      let n : Notice := { die := d, router := r, port := 0, vn := 3, src := h.src, context := h.context, code := h.status }
      let r : FaultRecord := { code := h.status, kind := 5, source := h.src, address := h.dest.zeroExtend 64 }
      some (if (localCtx s h.context.toNat).isSome then faultCtx h.context.toNat r none (faultNotice n t) else faultNotice n t)
    | _ => some t

/-! ### The ingress of a port (R198, R206, R209) -/

/-- Flits that a port's ingress holds of virtual network `v`. -/
def ingressUsed (x : SlinkPort) (v : Nat) : Nat :=
  ((x.ingress.filter (fun k => k.head.vn.toNat == v)).map (fun k => 1 + k.data.length)).sum
    + (match x.rxPacket with
       | [] => 0
       | f :: l => if (parseHeader f).vn.toNat = v then 1 + l.length else 0)

/-- Flits for which a port's ingress has buffers (R209). -/
def ingressSize (v : Nat) : Nat := if v < 2 then 96 else 32

/-- The packets that network flits complete, in order, and the flits of the one that they leave unfinished (R206). -/
def collect : List Bytes → List Bytes → List Packet × List Bytes
  | cur, [] => ([], cur)
  | cur, f :: fs =>
    let l := cur ++ [f]
    if l.length < field (byteAt (l.headD []) 2) 2 0 + 1 then collect l fs
    else
      let r := collect [] fs
      (parsePacket (l.headD []) l.tail :: r.1, r.2)

/-- The port with the network flits of a DATA flit in its ingress. -/
def fillIngress (l : List Bytes) (x : SlinkPort) : SlinkPort :=
  let r := collect x.rxPacket l
  { x with ingress := x.ingress ++ r.1, rxPacket := r.2 }

/-- Whether the ingress holds no more than its buffers. -/
def ingressFits (x : SlinkPort) : Bool := (upFrom 0 4).all (fun v => decide (ingressUsed x v ≤ ingressSize v))

/-- A packet taken from a port's ingress, its credits owed to the peer (R209), or held there. -/
def ingressNext (p : Nat) (k : Packet) (s : State) (kept : List Packet) : Option State → State × List Packet
  | none => (s, kept ++ [k])
  | some t => (setSlink t p { getSlink t p with owed := linkCredit (getSlink t p).owed k.head.vn.toNat (1 + k.data.length) }, kept)

/-- A packet of a port's ingress in its turn; one that is held holds back those behind it on its virtual network (R177). -/
def ingressStep (p : Nat) (e : State × List Packet) (k : Packet) : State × List Packet :=
  if e.2.any (fun q => q.head.vn == k.head.vn) then (e.1, e.2 ++ [k]) else ingressNext p k e.1 e.2 (takePacket p k e.1)

/-- The packets of a port's ingress taken in order (R177, R209). -/
def serveIngress (p : Nat) (s : State) : State :=
  let r := (getSlink s p).ingress.foldl (ingressStep p) (setSlink s p { getSlink s p with ingress := [] }, [])
  setSlink r.1 p { getSlink r.1 p with ingress := r.2 ++ (getSlink r.1 p).ingress }

/-- The packets held in every ingress, tried again (R198). -/
def serveAll (s : State) : State := (upFrom 0 6).foldl (fun s p => serveIngress p s) s

/-! ### LINK_FLIT_RECEIVE (R203, R206-R209) -/

/-- The credits that a flit's header returns (R206, R209), and the flits that waited for them. -/
def takeCredits (h : W64) (x : SlinkPort) : SlinkPort :=
  pumpPort { x with credits := (upFrom 0 4).foldl (fun l v => linkCredit l v (field h (39 + 8 * v) (32 + 8 * v))) x.credits }

/-- A CONTROL flit of a port that is UP (R206): TIME, and HANDOVER, which is about the other port of the pair (R211). -/
def controlReceive (p : Nat) (l : Bytes) (s : State) : State :=
  if byteAt l 0 = 3 then timeReceive p (le64 l 1) s
  else if byteAt l 0 = 4 then handover (partner p) (BitVec.ofNat 12 (leNat l 1 2)) s
  else s

/-- A flit delivered in order (R207). -/
def flitDelivered (p kind : Nat) (h : W64) (slots : List Bytes) (s : State) : State :=
  let s := setSlink s p (takeCredits h (getSlink s p))
  let x := getSlink s p
  if kind = 0 then serveIngress p (setSlink s p (fillIngress slots { x with rxSeq := x.rxSeq + 1, nakSent := false, naksSent := 0 }))
  else if kind = 2 then controlReceive p (slots.headD []) (setSlink s p { x with rxSeq := x.rxSeq + 1, nakSent := false, naksSent := 0 })
  else s

/-- LINK_FLIT_RECEIVE (R207). A DATA flit that would overflow the ingress, which no sender with credits sends, is discarded like one out of
sequence (assumption log 33). -/
def linkFlitReceive (p : Nat) (flit : Bytes) (s : State) : State :=
  let x := getSlink s p
  let good := flit.length = 272 ∧ crc64 (flit.take 264) = le64 flit 264
  let h := le64 flit 0
  let kind := field h 1 0
  let slots := ((upFrom 0 4).filter (fun i => bitOf h (27 + i))).map (fun i => slice flit (8 + 64 * i) 64)
  if x.state = .ident ∨ x.state = .delay then (if good ∧ kind = 2 then trainingFlit p (slice flit 8 64) s else s)
  else if x.state ≠ .up then s
  else if ¬ good then sendNak p (setSlink s p { x with sinceMarker := if x.sinceMarker = 4095 then 0 else x.sinceMarker + 1 })
  else if kind = 3 ∧ x.sinceMarker ≠ 4095 then leaveUp p s
  else
    let s := setSlink s p { x with sinceMarker := if kind = 3 then 0 else x.sinceMarker + 1 }
    if BitVec.ofNat 12 (field h 13 2) ≠ x.rxSeq ∨ (kind = 0 ∧ ¬ ingressFits (fillIngress slots x)) then
      (if (kind = 0 ∨ kind = 2) ∧ ¬ x.nakSent then sendNak p s else s)
    else flitDelivered p kind h slots (takeAck p (BitVec.ofNat 12 (field h 25 14)) (bitOf h 26) s)

def execLinkFlitReceive (p : Nat) (flit : Bytes) (s : State) : Host.Outcome State Fault Refusal :=
  inRange (decide (p < 6)) (linkFlitReceive p flit s)

/-! ### Route-table switches that end (R62, R198) -/

def execRouteSwitchDrainEnd (die : Nat) (s : State) : Host.Outcome State Fault Refusal :=
  inRange (decide (die < 6)) (serveAll (routeSwitchDrainEnd die s))

/-- COMMIT_APPLY (R62): the fault policy at the next tick, a route table at the end of its switch; the blocks of an HM1 are
applied by the HM1's own rows. -/
def commitApply (block : Nat) (s : State) : State :=
  if block = kpolId s then applyBlock block s
  else if block / 65536 = 1 ∧ block % 256 = s.swarm.node then serveAll (routeSwitchDrainEnd (block / 256 % 256) s)
  else s

def execCommitApply (block : W32) (s : State) : Host.Outcome State Fault Refusal := inRange true (commitApply block.toNat s)

/-! ### Answers of user logic, and the port writes they release (R181, R240, R274) -/

/-- The port writes that the PCIe port holds, sent in their order: each once no earlier write of its function waits on TGT. -/
def releaseWrites (s : State) : State :=
  s.keeper.heldWrites.foldl (fun s w => portWrite w.1 w.2.1 w.2.2.1 w.2.2.2 s) { s with keeper := { s.keeper with heldWrites := [] } }

def execTgrAnswer (k : Nat) (status : W16) (data : Bytes) (s : State) : Host.Outcome State Fault Refusal :=
  inRange (decide (k < 7)) (releaseWrites (tgrAnswer k status data s))

def execTgtTimeout (k : Nat) (s : State) : Host.Outcome State Fault Refusal := inRange (decide (k < 7)) (releaseWrites (tgtTimeout k s))

def execRegionDrainEnd (s : State) : Host.Outcome State Fault Refusal := inRange true (releaseWrites (regionDrainEnd s))

end Sys2Proof.Machine
end

