-- ==== Sys2Proof/Machine/FrameCmd.lean ====
section
/-! DEFINITION. FRAME_LOAD and FRAME_READBACK (R267-R278, R288). -/

namespace Sys2Proof.Machine

/-- The power domain of a region (R344). -/
def regionDomain (k : Nat) : Nat := if k = 0 then 49 else 51 + (k - 1) / 2

/-- Whether a FRAME_LOAD, a start request or a FRAME_READBACK runs on the die (R267, R278). -/
def frameBusy (s : State) : Bool :=
  let c := s.frame.cfg
  c.load.isSome || c.startRequest.isSome || !c.startCmds.isEmpty || cmdPending s 0x0502

/-- A load accepted: one that names a retired region ends with 0x2001 (R288), any other starts. -/
def beginLoad (e : MotEntry) (mask key : Nat) (part hold : Bool) (c : CmdRef) (s : State) : State :=
  if (maskRegions mask).any (fun k => isRetired s 7 (s.swarm.node * 7 + k)) then
    let s := if part then s else setCfg s { s.frame.cfg with driving := true, startAt := none }
    endLoad { cmd := some c, base := e.base, size := motBytes e, part := part, hold := hold, header := [], key := [],
              regions := maskRegions mask, stage := .loading } 0x2001 s
  else startLoad (some c) e.base (motBytes e) key mask part hold s

/-- FRAME_LOAD (R267, R270, R273, R274). -/
def frameLoad (r : Req) (s : State) : Ans :=
  let mask := leNat r.p 4 1
  let mode := byteAt r.p 5
  let part := bitOf mode 0
  let hold := bitOf mode 1
  let rs := maskRegions mask
  if 128 ≤ mask ∨ field mode 7 2 ≠ 0 then reject s 0x1005
  else if mask = 0 ∧ mode = 0 ∧ le32 r.p 0 = 0 then
    if (getDie s 4).state ≠ .inService then reject s 0x5007
    else if frameBusy s ∨ ¬ (upFrom 0 7).any (fun k => (getRegion s k).state == .held) then reject s 0x2001
    else acceptOr r (fun c s => setCfg s { s.frame.cfg with driving := false, startRequest := some c }) s
  else if mask = 0 ∧ ¬ part then reject s 0x2001
  else match resolve s (le32 r.p 0) with
    | none => reject s 0x1004
    | some i =>
      let e := getMot s i
      if e.kind ≠ 1 ∨ ¬ bitOf e.perm 0 ∨ ¬ mineObj r s e then reject s 0x1004
      else if (localCtx s e.owner.toNat).any (fun c => inReset (getCtx s c)) then .hold
      else if (getDie s 4).state ≠ .inService then reject s 0x5007
      else if frameBusy s ∨ (part ∧ (rs.contains 0 ∨ hold ∨ (getRegion s 0).state ≠ .running)) ∨ (¬ part ∧ ¬ rs.contains 0)
         ∨ rs.any (fun k => (getDom s (regionDomain k)).state != .up) then reject s 0x2001
      else acceptOr r (beginLoad e mask (leNat r.p 6 1) part hold) s

def execFrameLoad (m : Nat) (s : State) : Host.Outcome State Fault Refusal := inRange (decide (m < 32)) (takeUpCard 0x0501 frameLoad m s)

/-- One frame found different by readback (R278): counted, recorded, and with ACTION 1 its region blanked once retired (R288). -/
def frameMismatch (a : Nat) (s : State) : State :=
  let c := s.frame.cfg
  let k := a / 2 ^ 21
  let res := resourceId 7 (s.swarm.node * 7 + k)
  let s := setCfg s { c with mismatches := satAdd c.mismatches 1, mismatchesOvf := c.mismatchesOvf || satLost c.mismatches 1 }
  let s := recordCounted res { code := 0x5001, kind := 8, flags := 1, source := keeperSrc s, action := 6, address := BitVec.ofNat 64 a,
                               expected := (crc32c (Tbl.get (zeros 128) c.frames a)).zeroExtend 64,
                               found := ((freeW s a).truncate 32).zeroExtend 64 } s
  if s.faults.retired.contains res then blankRegions [k] s else s

/-- FRAME_READBACK (R278): `upset` are the addresses of the frames that the readback finds different from their recorded CRC. -/
def frameReadback (upset : List Nat) (r : Req) (s : State) : Ans :=
  let mask := leNat r.p 0 1
  let rs := maskRegions mask
  if 128 ≤ mask then reject s 0x1005
  else if (getDie s 4).state ≠ .inService then reject s 0x5007
  else if frameBusy s ∨ rs.any (fun k => (getRegion s k).state != .running && (getRegion s k).state != .held) then reject s 0x2001
  else acceptOr r (fun c s =>
    let l := (upset.filter (fun a => rs.contains (a / 2 ^ 21) && a % 2 ^ 21 < regionFrames (a / 2 ^ 21))).eraseDups
    finishCmd c 0 (toLE 4 l.length) (l.foldl (fun s a => frameMismatch a s) s)) s

def execFrameReadback (m : Nat) (upset : List Nat) (s : State) : Host.Outcome State Fault Refusal :=
  inRange (decide (m < 32)) (takeUpCard 0x0502 (frameReadback upset) m s)

end Sys2Proof.Machine
end

