-- ==== Sys2Proof/Machine/SelfTest.lean ====
section
/-! DEFINITION. SELF_TEST (R501, R502). -/

namespace Sys2Proof.Machine

/-- Class of a resource id (R288). -/
def resClass (x : W32) : Nat := field x 31 28
/-- Index of a resource id. -/
def resIndex (x : W32) : Nat := field x 27 0

/-- Whether test `t` of R501 covers a resource of this node; test 8, the flash, covers ids of no class of R288. -/
def testCovers (s : State) (t : Nat) (x : W32) : Bool :=
  let i := resIndex x
  let n := s.swarm.node
  match resClass x with
  | 0 => t < 2 && i / 128 == n
  | 1 => t < 2 && i / 32 == n
  | 2 => (t == 2 || t == 3) && i / 96 == n
  | 3 => t == 7 && i / 2 ^ 25 == n
  | 4 => i / 6 == n && (if i % 6 < 4 then t < 2 else i % 6 == 4 && (t == 2 || t == 3))
  | 5 => t == 5 && i / 64 == n
  | 6 => t == 6 && i / 6 == n && expectedPort s (i % 6) && bitOf s.swarm.members (peerNode s (i % 6))
  | 7 => t == 4 && i / 7 == n
  | _ => t == 8

/-- The ports that face members of the swarm (R501). -/
def memberPorts (s : State) : List Nat := (upFrom 0 6).filter (fun p => expectedPort s p && bitOf s.swarm.members (peerNode s p))

/-- The tests that run: those of the mask that are not cut short, SWARM_LINKS only with a member to face. -/
def testsRun (s : State) (mask cut : W32) : List Nat :=
  (upFrom 0 9).filter (fun t => bitOf mask t && !bitOf cut t && (t != 6 || !(memberPorts s).isEmpty))

/-- `n` bytes of memory from `a` lost: they hold free bytes. -/
def loseBytes (a n : Nat) (s : State) : State := memWrite s a ((upFrom a n).map (freeB s))

/-- What a test destroys or restarts (R501): cell stores; tile stores and block RAMs; frames, which it blanks; and the swarm-link
ports, which train again. -/
def testEffect (s : State) (t : Nat) : State :=
  if t < 2 then (upFrom 0 4).foldl (fun s d => (upFrom 0 32).foldl (fun s c => loseBytes (cellStore s d c) 0x180000 s) s) s
  else if t < 4 then (upFrom 0 96).foldl (fun s i => loseBytes (tileStore s i) 0x40000 s) s
  else if t = 4 then blankRegions (upFrom 0 7) s
  else if t = 6 then (memberPorts s).foldl (fun s p => 
    bringUp p (setSlink (linkDown p s) p { getSlink (linkDown p s) p with configuredOff := (getSlink s p).configuredOff })) s
  else s

/-- The record of a failing resource (R502). -/
def testRecord (s : State) (t : Nat) (x : W32) : FaultRecord :=
  let (kind, code) := if t = 1 ∨ t = 3 then ((5 : Byte), (0x5002 : W16)) else if t = 5 ∨ t = 6 then (7, 0x5008) else (1, 0x5001)
  { kind := kind, code := code, flags := 1, action := 6, source := keeperSrc s, resource := x, found := freeW s x.toNat }

/-- A resource retired at once (R502): a port leaves service, a die stays down. -/
def retireNow (x : W32) (s : State) : State :=
  let f := s.faults
  let s := { s with faults := { f with retired := if f.retired.contains x then f.retired else x :: f.retired } }
  match resClass x with
  | 4 => retireDie (resIndex x % 6) s
  | 6 => setSlink s (resIndex x % 6) { getSlink s (resIndex x % 6) with retired := true, state := .off, laneLock := 0, replay := [] }
  | _ => s

/-- A retired resource that passes (R502): returned to service, its window empty. -/
def restoreRes (x : W32) (s : State) : State :=
  let f := s.faults
  let s := { s with faults := { f with retired := f.retired.filter (· != x), windows := f.windows.filter (fun e => e.1 != x) } }
  match resClass x with
  | 4 => { s with faults := { s.faults with dies := Tbl.modify {} s.faults.dies (resIndex x % 6) (fun d => { d with state := .inService }) } }
  | 6 => bringUp (resIndex x % 6) (setSlink s (resIndex x % 6) { getSlink s (resIndex x % 6) with retired := false })
  | _ => s

/-- The tests run (R502): failing resources recorded and retired, passing ones returned, and the payload of CMD_DONE. -/
def runTests (mask cut : W32) (failing : List W32) (s : State) : State × Bytes :=
  let ts := testsRun s mask cut
  let bits := fun (l : List Nat) => toLE 4 ((l.map (2 ^ ·)).foldl (· + ·) 0)
  let first := fun (x : W32) => ts.find? (fun t => testCovers s t x)
  let bad := (failing.eraseDups.filter (fun x => (first x).isSome))
  let failed := ts.filter (fun t => bad.any (fun x => first x == some t))
  let newly := bad.filter (fun x => resClass x < 8 && !s.faults.retired.contains x)
  let back := s.faults.retired.filter (fun x => (first x).isSome && !bad.contains x)
  let s := ts.foldl testEffect s
  let s := bad.foldl (fun s x => record (testRecord s ((first x).getD 0) x) s) s
  let s := newly.foldl (fun s x => retireNow x s) s
  let s := back.foldl (fun s x => restoreRes x s) s
  (s, bits (ts.filter (fun t => !failed.contains t)) ++ bits failed
    ++ bits ((upFrom 0 9).filter (fun t => bitOf mask t && !ts.contains t)) ++ toLE 2 back.length ++ toLE 2 newly.length)

/-- SELF_TEST (R501, R502); `cut` are the tests cut short and `failing` the resources that a test finds failing. -/
def selfTest (cut : W32) (failing : List W32) (r : Req) (s : State) : Ans :=
  let mask := le32 r.p 0
  if field mask 31 9 ≠ 0 then reject s 0x1006
  else if s.obj.ctxs.any (fun e => e.2.live) ∨ s.power.pkg ≠ .ready ∨ s.power.supply ≠ .normal ∨ cmdPending s 0x0901
     ∨ ((bitOf mask 2 ∨ bitOf mask 4) ∧ (upFrom 0 7).any (fun k => (getRegion s k).state == .held || (getRegion s k).state == .running))
  then reject s 0x2001
  else acceptOr r (fun c s =>
    let (s, p) := runTests mask cut failing s
    finishCmd c 0 p s) s

def execSelfTest (m : Nat) (cut : W32) (failing : List W32) (s : State) : Host.Outcome State Fault Refusal :=
  inRange (decide (m < 32)) (takeUpCard 0x0901 (selfTest cut failing) m s)

end Sys2Proof.Machine
end

