-- ==== Sys2Proof/Machine/Service.lean ====
section
/-! DEFINITION. The fault, security and lifetime commands of R57 (R291-R298, R333, R334, R339, R340, R396, R505), and the debug
port (R503, R504). -/

namespace Sys2Proof.Machine

/-- A data object that the sender names as a destination of `size` bytes or more (R333, R507): KIND 1 with PERM write, else 0x1004;
a LOCKED one is not writable either; not the sender's, unless `anyone` may use any object, 0x2002; held while its context is in reset
(R45), or its bytes cannot be reached (assumption log 41). -/
def withDest (r : Req) (off size : Nat) (anyone : Bool) (f : MotEntry → State → Ans) (s : State) : Ans :=
  match resolve s (le32 r.p off) with
  | none => reject s 0x1004
  | some i =>
    let e := getMot s i
    if e.kind ≠ 1 ∨ ¬ bitOf e.perm 1 ∨ bitOf e.lock 0 ∨ motBytes e < size then reject s 0x1004
    else if ¬ anyone ∧ ¬ mineObj r s e then reject s 0x2002
    else if (localCtx s e.owner.toNat).any (fun c => inReset (getCtx s c)) then .hold
    else whenAwake e.base (motBytes e) (f e) s

/-! ### Fault commands (R291, R293, R295, R298) -/

/-- The 4 KiB of a fault record (R291, R292). -/
def recordBytes (r : FaultRecord) : Bytes :=
  toLE 4 r.index.toNat ++ toLE 2 r.code.toNat ++ toLE 2 r.context.toNat ++ [r.kind, r.flags, r.action, 0] ++ toLE 4 r.source.toNat
    ++ toLE 8 r.time.toNat ++ toLE 8 r.address.toNat ++ toLE 2 r.queue.toNat ++ [0, 0] ++ toLE 4 r.descriptor.toNat
    ++ toLE 4 r.resource.toNat ++ toLE 2 r.events.toNat ++ toLE 2 r.missed.toNat ++ toLE 8 r.expected.toNat ++ toLE 8 r.found.toNat
    ++ toLE 4 r.pc.toNat ++ toLE 4 r.item.toNat ++ toLE 2 r.numctl.toNat ++ toLE 2 r.sampleBad.toNat ++ zeros 4
    ++ ((upFrom 0 16).map (fun i => toLE 8 (r.sregs.getD i 0).toNat)).flatten ++ zeros 48 ++ slice r.sample 0 3840

/-- Whether a mailbox may read a record (R293): an Agent only those of its own contexts. -/
def mayRead (s : State) (m : Nat) (r : FaultRecord) : Bool :=
  m < 2 || (!bitOf r.flags 0 && (match localCtx s r.context.toNat with
    | some c => madeBy s m (getCtx s c)
    | none => false))

/-- Index of the oldest record held. -/
def oldestIndex (s : State) : W32 := s.faults.next - BitVec.ofNat 32 s.faults.log.length

/-- The records that FAULT_READ copies from index `i` into room for `n`, and the next index. -/
def readFrom (s : State) (m : Nat) (i : W32) (n : Nat) : List FaultRecord × W32 :=
  let l := s.faults.log.filter (fun r => (r.index - i).toNat < 2 ^ 31 && mayRead s m r)
  if 0 < (oldestIndex s - i).toNat ∧ (oldestIndex s - i).toNat < 2 ^ 31 then
    ([], oldestIndex s)
  else (l.take n, match l[n]? with
    | some r => r.index
    | none => s.faults.next)

/-- FAULT_READ (R293, R57). -/
def faultRead (r : Req) (s : State) : Ans :=
  withDest r 4 0 (decide (r.m ≤ 1)) (fun e s =>
    let ask := le32 r.p 0
    let last := (getMbx s r.m).faultNext
    let i := if ask ≠ 0xFFFFFFFF then ask
             else if (last - oldestIndex s).toNat ≤ s.faults.log.length then last else oldestIndex s
    let (l, next) := readFrom s r.m i (motBytes e / 4096)
    let s := memWrite s e.base (l.map recordBytes).flatten
    let s := { s with faults := { s.faults with log := s.faults.log.map (fun x =>
      if l.any (fun y => y.index == x.index) then { x with read := true } else x) } }
    let s := match l.getLast? with
      | some x => setMbx s r.m { getMbx s r.m with faultNext := x.index + 1 }
      | none => s
    okay s (toLE 2 l.length ++ [0, 0] ++ toLE 4 next.toNat)) s

def execFaultRead (m : Nat) (s : State) : Host.Outcome State Fault Refusal := inRange (decide (m < 32)) (takeUpCard 0x0601 faultRead m s)

/-- FAULT_POLICY (R57): every request is rejected with 0x1009. -/
def faultPolicy (_ : Req) (s : State) : Ans := reject s 0x1009

def execFaultPolicy (m : Nat) (s : State) : Host.Outcome State Fault Refusal := inRange (decide (m < 32)) (takeUpCard 0x0602 faultPolicy m s)

/-- CTX_RESET (R295): the context is reset with 0x5004, as if it had faulted; CMD_DONE follows the reset. -/
def ctxReset (r : Req) (s : State) : Ans :=
  withOwnCtx r 0 true (fun c s => acceptOr r (fun k s =>
    let s := faultCtx (ctxId s c) { code := 0x5004, source := keeperSrc s } none s
    setCtx s c { getCtx s c with done := (getCtx s c).done ++ [k] }) s) s

def execCtxReset (m : Nat) (s : State) : Host.Outcome State Fault Refusal := inRange (decide (m < 32)) (takeUpCard 0x0603 ctxReset m s)

/-- DIE_RECOVER (R298): dies 0 to 4, in service. -/
def dieRecover (r : Req) (s : State) : Ans :=
  let d := leNat r.p 0 1
  if 4 < d then reject s 0x1006
  else if (getDie s d).state ≠ .inService then reject s 0x2001
  else acceptOr r (fun k s => startRecovery d none [k] s) s

def execDieRecover (m : Nat) (s : State) : Host.Outcome State Fault Refusal := inRange (decide (m < 32)) (takeUpCard 0x0604 dieRecover m s)

/-! ### Attestation and the key RAM (R333, R334) -/

/-- A certificate of 1 to 2,048 bytes (R333). -/
def certificate (l : Bytes) : Bytes := if l = [] then [0] else l.take 2048

/-- Bytes 0 to 271 of the attestation report. -/
def attestBody (nonce chain device : Bytes) (s : State) : Bytes :=
  let b := s.boot
  toLE 4 0x5454415A ++ toLE 2 1 ++ toLE 2 chain.length ++ slice nonce 0 32 ++ toLE 8 s.swarm.time.toNat
    ++ toLE 6 s.power.rtc.toNat ++ toLE 2 s.power.rtcFrac.toNat ++ toLE 4 (fuseCounter s)
    ++ [BitVec.ofNat 8 (b2n b.slot), BitVec.ofNat 8 (b2n b.trial + 2 * b2n b.rolledBack + 4 * b2n s.island.up)] ++ toLE 2 b.started.toNat
    ++ slice b.manifestDigest 0 48 ++ slice b.keeperDigest 0 48 ++ slice (Config.sha384 b.opt.raw) 0 48 ++ slice b.safetyDigest 0 48
    ++ toLE 8 (getRegion s 0).imageId.toNat ++ toLE 2 device.length ++ zeros 6

/-- ATTEST (R333): the signed report, the alias certificate over the boot measurements and the device certificate. -/
def attest (r : Req) (s : State) : Ans :=
  withDest r 32 8192 false (fun e s =>
    let b := s.boot
    let chain := certificate (Config.aliasCertificate (toLE 4 (fuseCounter s) ++ [BitVec.ofNat 8 (b2n b.slot)]
      ++ slice b.manifestDigest 0 48 ++ slice b.keeperDigest 0 48 ++ slice (Config.sha384 b.opt.raw) 0 48))
    let device := certificate (Config.productionBytes 1 0)
    let body := attestBody (r.p.take 32) chain device s
    let l := body ++ slice (Config.ecdsaSign 0 b.signatures body) 0 96 ++ chain ++ device
    let s := memWrite s e.base l
    okay { s with boot := { s.boot with signatures := s.boot.signatures + 1 } } (toLE 2 l.length)) s

def execAttest (m : Nat) (s : State) : Host.Outcome State Fault Refusal := inRange (decide (m < 32)) (takeUpCard 0x0703 attest m s)

/-- KEY_RAM_WRITE (R334). -/
def keyRamWrite (r : Req) (s : State) : Ans :=
  let slot := leNat r.p 0 1
  match resolve s (le32 r.p 4) with
  | none => reject s 0x1004
  | some i =>
    let e := getMot s i
    if e.kind ≠ 1 ∨ ¬ bitOf e.perm 0 then reject s 0x1004
    else if (localCtx s e.owner.toNat).any (fun c => inReset (getCtx s c)) then .hold
    else whenAwake e.base 64 (fun s =>
      let b := memRead s e.base 64
      if ¬ checksOk s e.base 64 then .done (keeperCheckRecord e.base s) 0x4003 []
      else if 7 < slot ∨ leNat b 0 1 ≠ slot then reject s 0x4003
      else match Config.gcmOpen (fuseBytes s 5 32) (slice b 4 12) (slice b 0 4) (slice b 16 32) (slice b 48 16) with
        | none => reject s 0x4003
        | some k => okay { s with boot := { s.boot with keyRam := Tbl.set [] s.boot.keyRam slot (slice k 0 32) } } []) s

def execKeyRamWrite (m : Nat) (s : State) : Host.Outcome State Fault Refusal := inRange (decide (m < 32)) (takeUpCard 0x0704 keyRamWrite m s)

/-! ### Settings (R339, R340) -/

/-- A bank of the flash is busy with a program or an erase. -/
def bankBusy (s : State) (b : Nat) : Bool := (getBank s b).activity != .idle

/-- The migration record (R340). -/
def migrationRecord (s : State) : Bytes :=
  if s.boot.migration = [] then []
  else toLE 2 s.boot.migrationSeq.toNat ++ [BitVec.ofNat 8 s.boot.migration.length] ++ ((s.boot.migration.take 22).map (toLE 2)).flatten

/-- The answer of SETTINGS: a length, and a value padded with 0. -/
def settingAnswer (v : Bytes) : Bytes := BitVec.ofNat 8 v.length :: (zeros 7 ++ slice v 0 48)

/-- The greatest length of a setting id's value; none for an id that is not defined. -/
def settingLength (id : Nat) : Option Nat :=
  if id = 0 then none
  else if 0x8000 ≤ id then some 48
  else (settingDefault id).map (fun d => d.2.length)

/-- SETTINGS (R339, R340, R57). -/
def settings (r : Req) (s : State) : Ans :=
  let op := leNat r.p 0 1
  let id := leNat r.p 2 2
  let n := leNat r.p 4 1
  let v := slice r.p 8 n
  if ¬ zeroIn r.p (8 + n) 56 then reject s 0x1005
  else match settingLength id with
    | none => reject s 0x1006
    | some most =>
      if 1 < op ∨ most < n ∨ (id = 0xFFFF ∧ op = 1) ∨ (id = 2 ∧ op = 1 ∧ 1 < leNat v 0 1) then reject s 0x1006
      else if op = 0 then
        okay s (settingAnswer (if id = 0xFFFF then migrationRecord s
          else if 0x8000 ≤ id then ((settingOf s id).map Setting.value).getD [] else settingValue s id))
      else if bankBusy s 0 ∧ bankBusy s 1 then reject s 0x6002
      else if s.power.supply = .warning ∨ s.power.supply = .hold then .hold
      else okay (putSetting id (((settingDefault id).map Prod.fst).getD 0) v s) (settingAnswer v)

def execSettings (m : Nat) (s : State) : Host.Outcome State Fault Refusal := inRange (decide (m < 32)) (takeUpCard 0x0705 settings m s)

/-! ### Lifetime and safety status (R396, R505) -/

/-- The 24,576 bytes of LIFETIME_READ. -/
def lifetimeBytes (s : State) : Bytes :=
  let t := s.test
  let head := toLE 4 0x4546494C ++ toLE 2 1 ++ zeros 2 ++ toLE 4 24576 ++ zeros 4
    ++ ((upFrom 0 14).map (fun i => toLE 4 (Tbl.get 0 t.counters i).toNat)).flatten
    ++ toLE 2 t.tjHigh.toNat ++ toLE 2 t.tjLow.toNat ++ toLE 4 t.ovf.toNat ++ toLE 2 s.faults.retired.length ++ [0, 0]
    ++ ((s.faults.retired.take 256).map (fun r => toLE 4 r.toNat)).flatten
  slice head 0 2048 ++ slice ((s.island.flashLog.map logBytes).flatten) 0 4096 ++ zeros 2048
    ++ ((upFrom 0 4096).map (fun g => toLE 4 (Tbl.get 0 s.flash.erases g).toNat)).flatten

/-- LIFETIME_READ (R505). -/
def lifetimeRead (r : Req) (s : State) : Ans :=
  withDest r 0 24576 (decide (r.m ≤ 1)) (fun e s => okay (memWrite s e.base (lifetimeBytes s)) (toLE 2 24576)) s

def execLifetimeRead (m : Nat) (s : State) : Host.Outcome State Fault Refusal := inRange (decide (m < 32)) (takeUpCard 0x0902 lifetimeRead m s)

/-- SAFETY_STATUS (R396): bytes 0 to 31 of the published area. -/
def safetyStatus (_ : Req) (s : State) : Ans := okay s ((published s).take 32)

def execSafetyStatus (m : Nat) (s : State) : Host.Outcome State Fault Refusal := inRange (decide (m < 32)) (takeUpCard 0x0A01 safetyStatus m s)

/-! ### The debug port (R503, R504) -/

/-- Bits of fuse field `f` (R503). -/
def fuseWidth (f : Nat) : Nat := [256, 256, 384, 384, 64, 256, 384, 6208].getD f 0

/-- FUSE_WRITE (R503): the bits of `v` blown into field `f`, and its lock; a write to a locked field, or to the anti-rollback counter
(assumption log 65), is ignored and reported. -/
def fuseWrite (f : Nat) (lock : Bool) (v : List Bool) (s : State) : State :=
  let x := Tbl.get {} s.test.fuses f
  if x.lock ∨ f = 4 then { s with test := { s.test with fuseStatus := true } }
  else
    let bits := (upFrom 0 (fuseWidth f)).foldl (fun t i => if v.getD i false then Tbl.set false t i true else t) x.bits
    { s with test := { s.test with fuses := Tbl.set {} s.test.fuses f { bits := bits, lock := lock }, fuseStatus := false } }

def execFuseWrite (field : Nat) (lock : Bool) (v : List Bool) (s : State) : Host.Outcome State Fault Refusal :=
  inRange (decide (field < 8)) (when (pkgAlive s && s.flash.romPhase) (fuseWrite field lock v) s)

/-- DEBUG_UNLOCK (R504): a signature over the fresh challenge, a free value, and the serial number, by a key whose digest is one of
the two debug-key fields. -/
def debugUnlock (pubkey signature : Bytes) (s : State) : State :=
  let msg := freeBytes s 0 32 ++ slice (Config.productionBytes 0 0) 0 16
  let digest := Config.sha384 pubkey
  if (digest = fuseBytes s 3 48 ∨ digest = fuseBytes s 6 48) ∧ Config.ecdsaVerify pubkey msg signature then
    lifeCount 13 { s with test := { s.test with debugOpen := true } }
  else s

def execDebugUnlock (pubkey : Bytes) (signature : Bytes) (s : State) : Host.Outcome State Fault Refusal :=
  inRange true (when (pkgAlive s) (debugUnlock pubkey signature) s)

end Sys2Proof.Machine
end

