-- ==== Sys2Proof/Machine/Update.lean ====
section
/-! DEFINITION. UPDATE_APPLY and SLOT_SWITCH (R319, R335-R338). -/

namespace Sys2Proof.Machine

/-! ### The delta (R335, R336) -/

/-- Whether an operation's range is acceptable (R336): multiples of 32, not before the end of the last, within the area. -/
def rangeOk (size lo dst len : Nat) : Bool := dst % 32 == 0 && len % 32 == 0 && lo ≤ dst && dst + len ≤ size

/-- The operations of a delta's body, in order: the writes that they make, and whether the body is well formed to its END. -/
def deltaOps (size : Nat) (base : Nat → Nat → Bytes) (ops : Nat) : Nat → Bytes → Nat → Nat → List (Nat × Bytes) × Bool
  | 0, _, _, _ => ([], false)
  | _, [], _, _ => ([], false)
  | fuel + 1, t :: l, lo, n =>
    let go := fun (used dst len : Nat) (b : Bytes) =>
      if l.length < used ∨ ¬ rangeOk size lo dst len then ([], false)
      else
        let (ws, ok) := deltaOps size base ops fuel (l.drop used) (dst + len) (n + 1)
        ((dst, b) :: ws, ok)
    match t.toNat with
    | 1 => if leNat l 0 4 % 32 = 0 ∧ leNat l 0 4 + leNat l 8 4 ≤ size then go 12 (leNat l 4 4) (leNat l 8 4) (base (leNat l 0 4) (leNat l 8 4))
           else ([], false)
    | 2 => go (8 + leNat l 4 4) (leNat l 0 4) (leNat l 4 4) (slice l 8 (leNat l 4 4))
    | 3 => go 9 (leNat l 0 4) (leNat l 4 4) (List.replicate (leNat l 4 4) (byteAt l 8))
    | 0x7F => ([], l.length == 4 && leNat l 0 4 == ops && n + 1 == ops)
    | _ => ([], false)

/-- The whole target area after the writes; bytes that none writes read 0xFF (R336). -/
def areaAfter (size : Nat) (ws : List (Nat × Bytes)) : Bytes :=
  let t := ws.foldl (fun t w => putBytes 0xFF t w.1 w.2) []
  (upFrom 0 size).map (Tbl.get 0xFF t)

/-- Step 1 of R337, and BASE_DIGEST and SECURITY_VERSION of step 2: the code, or 0. -/
def deltaCheck (s : State) (l : Bytes) : W16 :=
  if leNat l 0 4 ≠ 0x544C445A ∨ leNat l 4 2 ≠ 1 ∨ 1 < leNat l 6 1 ∨ Config.sha384 (l.drop 512) ≠ slice l 16 48
     ∨ Config.sha384 (slice l 160 96) ≠ s.boot.opt.firmwareKeyDigest ∨ s.boot.opt.firmwareKeyDigest.all (· == 0)
     ∨ ¬ Config.ecdsaVerify (slice l 160 96) (slice l 0 256) (slice l 256 96) then 0x4003
  else if leNat l 8 4 < fuseCounter s then 0x4004
  else if slice l 64 48 ≠ s.boot.manifestDigest then 0x4003
  else 0

/-- The target area erased (step 3 of R337): the slot's 1,920 sectors, sector 0 first, or the NOR partition paired with it. -/
def eraseTarget (nor slot : Bool) (s : State) : State :=
  if nor then
    let lo := (if slot then s.boot.opt.norB else s.boot.opt.norA) * 2 ^ 20
    { s with boot := { s.boot with nor := wipe s.boot.nor lo (lo + s.boot.opt.norMib * 2 ^ 20) } }
  else (upFrom (2048 * b2n slot) 1920).foldl (fun s g => eraseNow g s) s

/-- One write of the area programmed (step 4 of R337); bytes of slot sector 0 are held back. -/
def programTarget (nor slot : Bool) (s : State) (w : Nat × Bytes) : State :=
  if nor then
    let lo := (if slot then s.boot.opt.norB else s.boot.opt.norA) * 2 ^ 20
    { s with boot := { s.boot with nor := putBytes 0xFF s.boot.nor (lo + w.1) w.2 } }
  else programNow (2 ^ 23 * b2n slot + max w.1 4096) (w.2.drop (4096 - w.1)) s

/-- A verify failure (R337, R305): one sector of the target, which one is a free choice, holds free bytes and is FAULT. -/
def failTarget (nor slot : Bool) (s : State) : State :=
  let l := (upFrom 1 4096).map (freeB s)
  if nor then programTarget nor slot s (4096 * ((freeW s 0).toNat % (256 * s.boot.opt.norMib)), l)
  else
    let k := 1 + (freeW s 0).toNat % 1919
    setSector (programNow (2 ^ 23 * b2n slot + 4096 * k) l s) (2048 * b2n slot + k) 2

/-- UPDATE_APPLY from the checked copy on (steps 1 to 6 of R337): the state and the command's status. -/
def applyDelta (l : Bytes) (verifyOk : Bool) (s : State) : State × W16 :=
  let c := deltaCheck s l
  if c ≠ 0 then (s, c)
  else
    let nor := leNat l 6 1 == 1
    let slot := !s.boot.slot
    let size := if nor then s.boot.opt.norMib * 2 ^ 20 else slotBytes
    let base := fun off n =>
      if nor then norBytes s ((if s.boot.slot then s.boot.opt.norB else s.boot.opt.norA) * 2 ^ 20 + off) n
      else flashBytes s false (2 ^ 23 * b2n s.boot.slot + off) n
    let body := l.drop 512
    let (ws, ok) := deltaOps size base (leNat l 12 4) (body.length + 1) body 0 0
    let s := ws.foldl (programTarget nor slot) (eraseTarget nor slot s)
    if ¬ verifyOk then (failTarget nor slot s, 0x500B)
    else if ¬ ok ∨ Config.sha384 (areaAfter size ws) ≠ slice l 112 48 then (s, 0x4003)
    else if nor then (s, 0)
    else
      let s := programNow (2 ^ 23 * b2n slot) ((areaAfter size ws).take 4096) s
      (s, if slotCompleteFrom s (fuseCounter s) slot then 0 else 0x4003)

/-- The effect of UPDATE_APPLY: the Keeper's copy of the package's `l` bytes from `base`, checked and applied, and the copy freed. -/
def updateEffect (verifyOk : Bool) (base : Nat) (l : Bytes) (c : CmdRef) (s : State) : State :=
  let copy := keeperCopy l s
  let r := if checksOk s base l.length then applyDelta l verifyOk copy.1 else (keeperCheckRecord base copy.1, 0x4003)
  finishCmd c r.2 [] (freeMot (copy.2.getD 0) r.1)

/-- UPDATE_APPLY (R337); `verifyOk` tells whether every program of the flash verifies. Where the Keeper's copy finds no room the answer is
0x6001, and a copy that fails its parcel check ends with 0x4003: the codes that its card leaves (assumption log 41). -/
def updateApply (verifyOk : Bool) (r : Req) (s : State) : Ans :=
  let n := leNat r.p 8 8
  match resolve s (le32 r.p 0) with
  | none => reject s 0x1004
  | some i =>
    let e := getMot s i
    if e.kind ≠ 1 ∨ ¬ bitOf e.perm 0 ∨ motBytes e < n then reject s 0x1004
    else if (localCtx s e.owner.toNat).any (fun c => inReset (getCtx s c)) then .hold
    else whenAwake e.base (motBytes e) (fun s =>
    if cmdPending s 0x0701 ∨ cmdPending s 0x0702 then reject s 0x6001
    else if bankBusy s 0 ∧ bankBusy s 1 then reject s 0x6002
    else if s.power.supply = .warning ∨ s.power.supply = .hold then .hold
    else
      let l := memRead s e.base n
      if (keeperCopy l s).2.isNone then reject s 0x6001
      else acceptOr r (updateEffect verifyOk e.base l) s) s

def execUpdateApply (m : Nat) (verifyOk : Bool) (s : State) : Host.Outcome State Fault Refusal :=
  inRange (decide (m < 32)) (takeUpCard 0x0701 (updateApply verifyOk) m s)

/-! ### SLOT_SWITCH (R319, R338) -/

/-- The option copy rewritten (R319, R338): the copy not loaded takes the OPTION component of the target slot, or the copy in force,
with SEQUENCE one above the loaded one and BOOT. -/
def rewriteOption (slot trial : Bool) (s : State) : State :=
  let o := s.boot.opt
  let l := match (components (slotManifest s slot)).find? (fun c => c.kind == 5) with
    | some c => componentCopy s slot c
    | none => o.raw
  writeOption (if o.copy = 0 then 1 else 0) (optionImage l (o.sequence + 1) slot trial) s

/-- SLOT_SWITCH (R338). Bits [7:1] of its two bytes are reserved (assumption log 41). -/
def slotSwitch (r : Req) (s : State) : Ans :=
  let t := leNat r.p 0 1
  let mode := leNat r.p 1 1
  let slot := t == 1
  let b := s.boot
  if 1 < t ∨ 1 < mode then reject s 0x1005
  else if (slot = b.slot ∧ mode = 1) ∨ ¬ slotCompleteFrom s 0 slot then reject s 0x2001
  else if leNat (slotManifest s slot) 8 4 < fuseCounter s then reject s 0x4004
  else if (bankBusy s 0 ∧ bankBusy s 1) ∨ s.power.supply = .warning ∨ s.power.supply = .hold then .hold
  else acceptOr r (fun c s =>
    finishCmd c 0 [] (if slot = b.slot ∧ ¬ b.opt.trial ∧ ¬ b.rolledBack then s else rewriteOption slot (mode == 1) s)) s

def execSlotSwitch (m : Nat) (s : State) : Host.Outcome State Fault Refusal := inRange (decide (m < 32)) (takeUpCard 0x0702 slotSwitch m s)

end Sys2Proof.Machine
end

