-- ==== Sys2Proof/Machine/Dispatch.lean ====
section
/-! DEFINITION. The dispatch: every command to its one meaning. -/

namespace Sys2Proof.Machine

def exec (i : Instr) (s : State) : Host.Outcome State Fault Refusal :=
  match i with
  | .mbxReqTailWrite src m v => Sys2Proof.Machine.execMbxReqTailWrite src m v s
  | .mbxRspHeadWrite src m v => Sys2Proof.Machine.execMbxRspHeadWrite src m v s
  | .mbxDoorbell src v => Sys2Proof.Machine.execMbxDoorbell src v s
  | .ringReset src m v => Sys2Proof.Machine.execRingReset src m v s
  | .eventDeliver m => Sys2Proof.Machine.execEventDeliver m s
  | .cmdDone m tag => Sys2Proof.Machine.execCmdDone m tag s
  | .getCaps m => Sys2Proof.Machine.execGetCaps m s
  | .getOpcodeInfo m => Sys2Proof.Machine.execGetOpcodeInfo m s
  | .mbxGrant m => Sys2Proof.Machine.execMbxGrant m s
  | .mbxRevoke m => Sys2Proof.Machine.execMbxRevoke m s
  | .eventMask m => Sys2Proof.Machine.execEventMask m s
  | .ctxCreate m => Sys2Proof.Machine.execCtxCreate m s
  | .ctxDestroy m => Sys2Proof.Machine.execCtxDestroy m s
  | .moCreate m => Sys2Proof.Machine.execMoCreate m s
  | .moDestroy m => Sys2Proof.Machine.execMoDestroy m s
  | .moLock m => Sys2Proof.Machine.execMoLock m s
  | .queueCreate m => Sys2Proof.Machine.execQueueCreate m s
  | .queueDestroy m => Sys2Proof.Machine.execQueueDestroy m s
  | .fenceCreate m => Sys2Proof.Machine.execFenceCreate m s
  | .fenceRecycle m => Sys2Proof.Machine.execFenceRecycle m s
  | .monitorAlloc m => Sys2Proof.Machine.execMonitorAlloc m s
  | .jobLoad m => Sys2Proof.Machine.execJobLoad m s
  | .regRead m => Sys2Proof.Machine.execRegRead m s
  | .regWrite m => Sys2Proof.Machine.execRegWrite m s
  | .regStage m => Sys2Proof.Machine.execRegStage m s
  | .commit m => Sys2Proof.Machine.execCommit m s
  | .stageDiscard m => Sys2Proof.Machine.execStageDiscard m s
  | .commitApply block => Sys2Proof.Machine.execCommitApply block s
  | .pkgState m => Sys2Proof.Machine.execPkgState m s
  | .domainCtrl m => Sys2Proof.Machine.execDomainCtrl m s
  | .clockSet m => Sys2Proof.Machine.execClockSet m s
  | .wakeConfig m => Sys2Proof.Machine.execWakeConfig m s
  | .linkConfig m => Sys2Proof.Machine.execLinkConfig m s
  | .swarmStatus m => Sys2Proof.Machine.execSwarmStatus m s
  | .frameLoad m => Sys2Proof.Machine.execFrameLoad m s
  | .frameReadback m upset => Sys2Proof.Machine.execFrameReadback m upset s
  | .faultRead m => Sys2Proof.Machine.execFaultRead m s
  | .faultPolicy m => Sys2Proof.Machine.execFaultPolicy m s
  | .ctxReset m => Sys2Proof.Machine.execCtxReset m s
  | .dieRecover m => Sys2Proof.Machine.execDieRecover m s
  | .updateApply m verifyOk => Sys2Proof.Machine.execUpdateApply m verifyOk s
  | .slotSwitch m => Sys2Proof.Machine.execSlotSwitch m s
  | .attest m => Sys2Proof.Machine.execAttest m s
  | .keyRamWrite m => Sys2Proof.Machine.execKeyRamWrite m s
  | .settings m => Sys2Proof.Machine.execSettings m s
  | .hm1Msg m => Sys2Proof.Machine.execHm1Msg m s
  | .hm1Status m => Sys2Proof.Machine.execHm1Status m s
  | .selfTest m cut failing => Sys2Proof.Machine.execSelfTest m cut failing s
  | .lifetimeRead m => Sys2Proof.Machine.execLifetimeRead m s
  | .safetyStatus m => Sys2Proof.Machine.execSafetyStatus m s
  | .directRegisterWrite src addr v => Sys2Proof.Machine.execDirectRegisterWrite src addr v s
  | .queueDoorbell src q v => Sys2Proof.Machine.execQueueDoorbell src q v s
  | .kernel q => Sys2Proof.Machine.execKernel q s
  | .copy q => Sys2Proof.Machine.execCopy q s
  | .selectDescriptor q => Sys2Proof.Machine.execSelectDescriptor q s
  | .tile q => Sys2Proof.Machine.execTile q s
  | .barrier q => Sys2Proof.Machine.execBarrier q s
  | .nopDescriptor q => Sys2Proof.Machine.execNopDescriptor q s
  | .descriptorFinish q d => Sys2Proof.Machine.execDescriptorFinish q d s
  | .descriptorRetire q => Sys2Proof.Machine.execDescriptorRetire q s
  | .fenceSetPort src idx bytes v => Sys2Proof.Machine.execFenceSetPort src idx bytes v s
  | .fenceAddPort src idx size v => Sys2Proof.Machine.execFenceAddPort src idx size v s
  | .fenceSignal => Sys2Proof.Machine.execFenceSignal s
  | .monitorArm src k v => Sys2Proof.Machine.execMonitorArm src k v s
  | .monitorDisarm src k v => Sys2Proof.Machine.execMonitorDisarm src k v s
  | .monitorFire k => Sys2Proof.Machine.execMonitorFire k s
  | .monitorClosingEvaluate k => Sys2Proof.Machine.execMonitorClosingEvaluate k s
  | .nopInstr die cell => Sys2Proof.Machine.execNopInstr die cell s
  | .endItem die cell => Sys2Proof.Machine.execEndItem die cell s
  | .jmp die cell => Sys2Proof.Machine.execJmp die cell s
  | .br die cell => Sys2Proof.Machine.execBr die cell s
  | .sys die cell => Sys2Proof.Machine.execSys die cell s
  | .li die cell => Sys2Proof.Machine.execLi die cell s
  | .lih die cell => Sys2Proof.Machine.execLih die cell s
  | .add die cell => Sys2Proof.Machine.execAdd die cell s
  | .sub die cell => Sys2Proof.Machine.execSub die cell s
  | .andInstr die cell => Sys2Proof.Machine.execAndInstr die cell s
  | .orInstr die cell => Sys2Proof.Machine.execOrInstr die cell s
  | .xorInstr die cell => Sys2Proof.Machine.execXorInstr die cell s
  | .shl die cell => Sys2Proof.Machine.execShl die cell s
  | .shr die cell => Sys2Proof.Machine.execShr die cell s
  | .sra die cell => Sys2Proof.Machine.execSra die cell s
  | .mul die cell => Sys2Proof.Machine.execMul die cell s
  | .addi die cell => Sys2Proof.Machine.execAddi die cell s
  | .lda die cell => Sys2Proof.Machine.execLda die cell s
  | .lds die cell => Sys2Proof.Machine.execLds die cell s
  | .sts die cell => Sys2Proof.Machine.execSts die cell s
  | .vld die cell => Sys2Proof.Machine.execVld die cell s
  | .vst die cell => Sys2Proof.Machine.execVst die cell s
  | .vldn die cell => Sys2Proof.Machine.execVldn die cell s
  | .vstn die cell => Sys2Proof.Machine.execVstn die cell s
  | .vadd die cell => Sys2Proof.Machine.execVadd die cell s
  | .vsub die cell => Sys2Proof.Machine.execVsub die cell s
  | .vmul die cell => Sys2Proof.Machine.execVmul die cell s
  | .vfma die cell => Sys2Proof.Machine.execVfma die cell s
  | .vdiv die cell => Sys2Proof.Machine.execVdiv die cell s
  | .vsqrt die cell => Sys2Proof.Machine.execVsqrt die cell s
  | .vmin die cell => Sys2Proof.Machine.execVmin die cell s
  | .vmax die cell => Sys2Proof.Machine.execVmax die cell s
  | .vexp2 die cell => Sys2Proof.Machine.execVexp2 die cell s
  | .vlog2 die cell => Sys2Proof.Machine.execVlog2 die cell s
  | .vrcp die cell => Sys2Proof.Machine.execVrcp die cell s
  | .vrsqrt die cell => Sys2Proof.Machine.execVrsqrt die cell s
  | .vtanh die cell => Sys2Proof.Machine.execVtanh die cell s
  | .vbcast die cell => Sys2Proof.Machine.execVbcast die cell s
  | .vrsum die cell => Sys2Proof.Machine.execVrsum die cell s
  | .setnum die cell => Sys2Proof.Machine.execSetnum die cell s
  | .amax die cell => Sys2Proof.Machine.execAmax die cell s
  | .mma die cell => Sys2Proof.Machine.execMma die cell s
  | .aclr die cell => Sys2Proof.Machine.execAclr die cell s
  | .stacc die cell => Sys2Proof.Machine.execStacc die cell s
  | .accadd die cell => Sys2Proof.Machine.execAccadd die cell s
  | .stanc die cell => Sys2Proof.Machine.execStanc die cell s
  | .ldanc die cell => Sys2Proof.Machine.execLdanc die cell s
  | .fin die cell => Sys2Proof.Machine.execFin die cell s
  | .get die cell => Sys2Proof.Machine.execGet die cell s
  | .put die cell => Sys2Proof.Machine.execPut die cell s
  | .dmaComplete die cell idx => Sys2Proof.Machine.execDmaComplete die cell idx s
  | .waitf die cell => Sys2Proof.Machine.execWaitf die cell s
  | .waitfRelease die cell => Sys2Proof.Machine.execWaitfRelease die cell s
  | .sigf die cell => Sys2Proof.Machine.execSigf die cell s
  | .collClaim src die k v => Sys2Proof.Machine.execCollClaim src die k v s
  | .collRelease src die k v => Sys2Proof.Machine.execCollRelease src die k v s
  | .collArm src die k v => Sys2Proof.Machine.execCollArm src die k v s
  | .collAbort src die k v => Sys2Proof.Machine.execCollAbort src die k v s
  | .collInputWrite src die k off data => Sys2Proof.Machine.execCollInputWrite src die k off data s
  | .collJoin die k j => Sys2Proof.Machine.execCollJoin die k j s
  | .collAbsorb die k data => Sys2Proof.Machine.execCollAbsorb die k data s
  | .collResult die k reached data => Sys2Proof.Machine.execCollResult die k reached data s
  | .errRsp die router h => Sys2Proof.Machine.execErrRsp die router h s
  | .retryTimer die cell idx => Sys2Proof.Machine.execRetryTimer die cell idx s
  | .livelockRescue die router age lost => Sys2Proof.Machine.execLivelockRescue die router age lost s
  | .stallDetect die router h => Sys2Proof.Machine.execStallDetect die router h s
  | .domainClosed d => Sys2Proof.Machine.execDomainClosed d s
  | .domainUp d ready => Sys2Proof.Machine.execDomainUp d ready s
  | .domainWake d => Sys2Proof.Machine.execDomainWake d s
  | .routeSwitchDrainEnd die => Sys2Proof.Machine.execRouteSwitchDrainEnd die s
  | .portTrainingStepTimeout p => Sys2Proof.Machine.execPortTrainingStepTimeout p s
  | .portTrainingRetry p => Sys2Proof.Machine.execPortTrainingRetry p s
  | .ident p node port version delay => Sys2Proof.Machine.execIdent p node port version delay s
  | .linkFlitReceive p flit => Sys2Proof.Machine.execLinkFlitReceive p flit s
  | .linkIdleTimeout p => Sys2Proof.Machine.execLinkIdleTimeout p s
  | .laneLockLoss p lane => Sys2Proof.Machine.execLaneLockLoss p lane s
  | .handover p delivered => Sys2Proof.Machine.execHandover p delivered s
  | .handoverRouteSwitch p => Sys2Proof.Machine.execHandoverRouteSwitch p s
  | .nodeLoss n => Sys2Proof.Machine.execNodeLoss n s
  | .nodeLossHoldDown => Sys2Proof.Machine.execNodeLossHoldDown s
  | .formation links times => Sys2Proof.Machine.execFormation links times s
  | .firstFormationWait links times waited => Sys2Proof.Machine.execFirstFormationWait links times waited s
  | .nodeRejoin links times => Sys2Proof.Machine.execNodeRejoin links times s
  | .timeSend => Sys2Proof.Machine.execTimeSend s
  | .timeReceive p sent => Sys2Proof.Machine.execTimeReceive p sent s
  | .regionPortRequest k r => Sys2Proof.Machine.execRegionPortRequest k r s
  | .regionPortResponse k tag => Sys2Proof.Machine.execRegionPortResponse k tag s
  | .tgtRequest k h write beats data => Sys2Proof.Machine.execTgtRequest k h write beats data s
  | .tgrAnswer k status data => Sys2Proof.Machine.execTgrAnswer k status data s
  | .tgtTimeout k => Sys2Proof.Machine.execTgtTimeout k s
  | .regionBindWrite m => Sys2Proof.Machine.execRegionBindWrite m s
  | .tilePortAccess k row r => Sys2Proof.Machine.execTilePortAccess k row r s
  | .ingestEnable m => Sys2Proof.Machine.execIngestEnable m s
  | .ingestDisable m => Sys2Proof.Machine.execIngestDisable m s
  | .ingestReleasedWrite src c v => Sys2Proof.Machine.execIngestReleasedWrite src c v s
  | .frameStart c vc frameNo corrected => Sys2Proof.Machine.execFrameStart c vc frameNo corrected s
  | .longPacket c p => Sys2Proof.Machine.execLongPacket c p s
  | .frameEnd c p => Sys2Proof.Machine.execFrameEnd c p s
  | .ethernetFrameReceive c frame fcsOk => Sys2Proof.Machine.execEthernetFrameReceive c frame fcsOk s
  | .ingestFlushTimer c => Sys2Proof.Machine.execIngestFlushTimer c s
  | .segmentChecked => Sys2Proof.Machine.execSegmentChecked s
  | .regionDrainEnd => Sys2Proof.Machine.execRegionDrainEnd s
  | .regionResetRelease => Sys2Proof.Machine.execRegionResetRelease s
  | .frameDoneSample x => Sys2Proof.Machine.execFrameDoneSample x s
  | .frameDoneStart => Sys2Proof.Machine.execFrameDoneStart s
  | .startRequestTimeout => Sys2Proof.Machine.execStartRequestTimeout s
  | .lpddrCheckFail src ctx addr secondOk => Sys2Proof.Machine.execLpddrCheckFail src ctx addr secondOk s
  | .residueMismatch unitKind die inst expected found => Sys2Proof.Machine.execResidueMismatch unitKind die inst expected found s
  | .hangDetect => Sys2Proof.Machine.execHangDetect s
  | .contextReset c => Sys2Proof.Machine.execContextReset c s
  | .contextResetDrainTimeout c die => Sys2Proof.Machine.execContextResetDrainTimeout c die s
  | .dieRecovery die refreshOk failing => Sys2Proof.Machine.execDieRecovery die refreshOk failing s
  | .flashRead src p ecc => Sys2Proof.Machine.execFlashRead src p ecc s
  | .flashProgram src p => Sys2Proof.Machine.execFlashProgram src p s
  | .flashErase src p => Sys2Proof.Machine.execFlashErase src p s
  | .flashSuspend src p => Sys2Proof.Machine.execFlashSuspend src p s
  | .flashResume src p => Sys2Proof.Machine.execFlashResume src p s
  | .blankCheck src p ecc => Sys2Proof.Machine.execBlankCheck src p ecc s
  | .flashOperationDone b ok => Sys2Proof.Machine.execFlashOperationDone b ok s
  | .flashWindowRead addr ecc => Sys2Proof.Machine.execFlashWindowRead addr ecc s
  | .flashAutoSuspend b => Sys2Proof.Machine.execFlashAutoSuspend b s
  | .flashAutoResume b => Sys2Proof.Machine.execFlashAutoResume b s
  | .packageReset strap recoveryLow => Sys2Proof.Machine.execPackageReset strap recoveryLow s
  | .bootChain => Sys2Proof.Machine.execBootChain s
  | .recoveryHello msg => Sys2Proof.Machine.execRecoveryHello msg s
  | .recoveryErase msg => Sys2Proof.Machine.execRecoveryErase msg s
  | .recoveryWrite msg => Sys2Proof.Machine.execRecoveryWrite msg s
  | .recoveryInstall msg => Sys2Proof.Machine.execRecoveryInstall msg s
  | .recoveryReset msg => Sys2Proof.Machine.execRecoveryReset msg s
  | .vbatRise => Sys2Proof.Machine.execVbatRise s
  | .wakeSource cause unit => Sys2Proof.Machine.execWakeSource cause unit s
  | .pwrEnLower => Sys2Proof.Machine.execPwrEnLower s
  | .partitionHalted src n v => Sys2Proof.Machine.execPartitionHalted src n v s
  | .partitionHaltTimeout n => Sys2Proof.Machine.execPartitionHaltTimeout n s
  | .supplyStateChange volts => Sys2Proof.Machine.execSupplyStateChange volts s
  | .brownoutReset => Sys2Proof.Machine.execBrownoutReset s
  | .throttleTick temps watts => Sys2Proof.Machine.execThrottleTick temps watts s
  | .thermalHold die temp => Sys2Proof.Machine.execThermalHold die temp s
  | .thermalTrip die temp => Sys2Proof.Machine.execThermalTrip die temp s
  | .pmeTurnOff => Sys2Proof.Machine.execPmeTurnOff s
  | .perstAssert => Sys2Proof.Machine.execPerstAssert s
  | .perstDeassert => Sys2Proof.Machine.execPerstDeassert s
  | .wakeAssert => Sys2Proof.Machine.execWakeAssert s
  | .islandStart badPairs => Sys2Proof.Machine.execIslandStart badPairs s
  | .hardwareSafeState reason => Sys2Proof.Machine.execHardwareSafeState reason s
  | .windowWatchdogExpiry => Sys2Proof.Machine.execWindowWatchdogExpiry s
  | .clockSupervisorCheck refPpm xtalPpm => Sys2Proof.Machine.execClockSupervisorCheck refPpm xtalPpm s
  | .parameterCrcCheck => Sys2Proof.Machine.execParameterCrcCheck s
  | .ioCycle highOn lowOn => Sys2Proof.Machine.execIoCycle highOn lowOn s
  | .testPulse tp raw => Sys2Proof.Machine.execTestPulse tp raw s
  | .outputDarkTest p low readOn => Sys2Proof.Machine.execOutputDarkTest p low readOn s
  | .stopMonitor f => Sys2Proof.Machine.execStopMonitor f s
  | .blackChannelFrame net ident frame => Sys2Proof.Machine.execBlackChannelFrame net ident frame s
  | .inboxSubmit src n v => Sys2Proof.Machine.execInboxSubmit src n v s
  | .connectionSend c => Sys2Proof.Machine.execConnectionSend c s
  | .comparisonWindow c => Sys2Proof.Machine.execComparisonWindow c s
  | .connectionLost c => Sys2Proof.Machine.execConnectionLost c s
  | .connectionDegraded c netB => Sys2Proof.Machine.execConnectionDegraded c netB s
  | .degradedLimit c => Sys2Proof.Machine.execDegradedLimit c s
  | .intervalEnd l x => Sys2Proof.Machine.execIntervalEnd l x s
  | .frequencyWindow l cycles micros lost => Sys2Proof.Machine.execFrequencyWindow l cycles micros lost s
  | .pqEvent l rms => Sys2Proof.Machine.execPqEvent l rms s
  | .calApplied l => Sys2Proof.Machine.execCalApplied l s
  | .calEnChange l high => Sys2Proof.Machine.execCalEnChange l high s
  | .checksumCheck l => Sys2Proof.Machine.execChecksumCheck l s
  | .firewallHit l => Sys2Proof.Machine.execFirewallHit l s
  | .powerFail l x => Sys2Proof.Machine.execPowerFail l x s
  | .energySnapshot l => Sys2Proof.Machine.execEnergySnapshot l s
  | .metRead l => Sys2Proof.Machine.execMetRead l s
  | .pqConfig l => Sys2Proof.Machine.execPqConfig l s
  | .pqRead l => Sys2Proof.Machine.execPqRead l s
  | .metUpdate l => Sys2Proof.Machine.execMetUpdate l s
  | .billRead l => Sys2Proof.Machine.execBillRead l s
  | .recordRead l => Sys2Proof.Machine.execRecordRead l s
  | .meterSign l => Sys2Proof.Machine.execMeterSign l s
  | .creditAdd l => Sys2Proof.Machine.execCreditAdd l s
  | .creditRead l => Sys2Proof.Machine.execCreditRead l s
  | .logRead l => Sys2Proof.Machine.execLogRead l s
  | .tamperRead l => Sys2Proof.Machine.execTamperRead l s
  | .logArchive l => Sys2Proof.Machine.execLogArchive l s
  | .timeSet l => Sys2Proof.Machine.execTimeSet l s
  | .certRead l => Sys2Proof.Machine.execCertRead l s
  | .sessionConfig l => Sys2Proof.Machine.execSessionConfig l s
  | .authorise l => Sys2Proof.Machine.execAuthorise l s
  | .startInlet l => Sys2Proof.Machine.execStartInlet l s
  | .closeContactors l rdcOk => Sys2Proof.Machine.execCloseContactors l rdcOk s
  | .stop l => Sys2Proof.Machine.execStop l s
  | .setLimit l => Sys2Proof.Machine.execSetLimit l s
  | .sessionStatus l => Sys2Proof.Machine.execSessionStatus l s
  | .contactorReset l mirrors => Sys2Proof.Machine.execContactorReset l mirrors s
  | .pilotState l plateau negative duty rdcOk => Sys2Proof.Machine.execPilotState l plateau negative duty rdcOk s
  | .ppLost l ohms => Sys2Proof.Machine.execPpLost l ohms s
  | .contactorCheck l mirrors => Sys2Proof.Machine.execContactorCheck l mirrors s
  | .stopGraceTimeout l => Sys2Proof.Machine.execStopGraceTimeout l s
  | .insulation l kohm checkOk => Sys2Proof.Machine.execInsulation l kohm checkOk s
  | .rdcTrip l => Sys2Proof.Machine.execRdcTrip l s
  | .tariffSwitch l x => Sys2Proof.Machine.execTariffSwitch l x s
  | .coverOpen l => Sys2Proof.Machine.execCoverOpen l s
  | .linkHoldExpiry l => Sys2Proof.Machine.execLinkHoldExpiry l s
  | .hm1Wake l reason => Sys2Proof.Machine.execHm1Wake l reason s
  | .hm1MainSupplyTimeout l => Sys2Proof.Machine.execHm1MainSupplyTimeout l s
  | .plcFrameReceive l node preamble bursts => Sys2Proof.Machine.execPlcFrameReceive l node preamble bursts s
  | .plcAccess l node idle => Sys2Proof.Machine.execPlcAccess l node idle s
  | .plcAckSlot l node bursts => Sys2Proof.Machine.execPlcAckSlot l node bursts s
  | .plcHello l node => Sys2Proof.Machine.execPlcHello l node s
  | .routeReq l => Sys2Proof.Machine.execRouteReq l s
  | .routeReqRebroadcast l node => Sys2Proof.Machine.execRouteReqRebroadcast l node s
  | .routeRep l node => Sys2Proof.Machine.execRouteRep l node s
  | .routeExpiry l pod => Sys2Proof.Machine.execRouteExpiry l pod s
  | .routeErr l pod => Sys2Proof.Machine.execRouteErr l pod s
  | .wakePattern l bits => Sys2Proof.Machine.execWakePattern l bits s
  | .plcConfig l => Sys2Proof.Machine.execPlcConfig l s
  | .plcSend l => Sys2Proof.Machine.execPlcSend l s
  | .plcRouteRead l => Sys2Proof.Machine.execPlcRouteRead l s
  | .plcStats l => Sys2Proof.Machine.execPlcStats l s
  | .plcDiscover l => Sys2Proof.Machine.execPlcDiscover l s
  | .holmiFrameReceive l atHm1 frame => Sys2Proof.Machine.execHolmiFrameReceive l atHm1 frame s
  | .holmiResendTimer l atHm1 => Sys2Proof.Machine.execHolmiResendTimer l atHm1 s
  | .holmiAckOnlyTimer l atHm1 => Sys2Proof.Machine.execHolmiAckOnlyTimer l atHm1 s
  | .holmiLinkDown l atHm1 => Sys2Proof.Machine.execHolmiLinkDown l atHm1 s
  | .holmiReplyTimeout l => Sys2Proof.Machine.execHolmiReplyTimeout l s
  | .hlinkWake l => Sys2Proof.Machine.execHlinkWake l s
  | .relayEnable m => Sys2Proof.Machine.execRelayEnable m s
  | .txTailWrite src l v => Sys2Proof.Machine.execTxTailWrite src l v s
  | .rxHeadWrite src l v => Sys2Proof.Machine.execRxHeadWrite src l v s
  | .patternEnable m => Sys2Proof.Machine.execPatternEnable m s
  | .checkerLockLoss die g before bits => Sys2Proof.Machine.execCheckerLockLoss die g before bits s
  | .vbatLoss => Sys2Proof.Machine.execVbatLoss s
  | .pcieLinkUp => Sys2Proof.Machine.execPcieLinkUp s
  | .hostAccess src write addr size data => Sys2Proof.Machine.execHostAccess src write addr size data s
  | .ucieRetrain dieA dieB modul => Sys2Proof.Machine.execUcieRetrain dieA dieB modul s
  | .laneLock p lanes => Sys2Proof.Machine.execLaneLock p lanes s
  | .checkerLocked die g bits => Sys2Proof.Machine.execCheckerLocked die g bits s
  | .lifetimeRecord => Sys2Proof.Machine.execLifetimeRecord s
  | .sramMarchTest pass => Sys2Proof.Machine.execSramMarchTest pass s
  | .safeInputSample raw => Sys2Proof.Machine.execSafeInputSample raw s
  | .thermalHoldRelease die temp => Sys2Proof.Machine.execThermalHoldRelease die temp s
  | .thermalTripRestart temps => Sys2Proof.Machine.execThermalTripRestart temps s
  | .acLock l x => Sys2Proof.Machine.execAcLock l x s
  | .pqEventStart l rms => Sys2Proof.Machine.execPqEventStart l rms s
  | .metrologyStart l => Sys2Proof.Machine.execMetrologyStart l s
  | .coverClose l => Sys2Proof.Machine.execCoverClose l s
  | .fuseWrite field lock v => Sys2Proof.Machine.execFuseWrite field lock v s
  | .debugUnlock pubkey signature => Sys2Proof.Machine.execDebugUnlock pubkey signature s

end Sys2Proof.Machine
end

