-- ==== Sys2Proof/WellFormed.lean ====
section
/-! DEFINITION. Well-formed commands: every operand that names a unit of the part names one that the part has. -/

namespace Sys2Proof

/-- Routers of a die (R173): a 6 by 6 mesh on a Comb die, 4 by 4 on the Frame die, 4 by 2 on the Hive. -/
def routerCount (die : Nat) : Nat := if die < 4 then 36 else if die = 4 then 16 else 8

/-- Whether die `die` has pattern group `g` (R498): COMB2 and COMB3 carry one swarm-link port. -/
def patternGroup (die g : Nat) : Bool :=
  decide ((die < 2 ∧ g < 10) ∨ (2 ≤ die ∧ die < 4 ∧ (g = 0 ∨ (2 ≤ g ∧ g < 10))) ∨ (die = 4 ∧ g < 16) ∨ (die = 5 ∧ g < 5))

/-- Whether two dies, the lower named first, have a die link (R173): each pair but COMB0 with COMB3 and COMB1 with COMB2. -/
def linkedDies (a b : Nat) : Bool := decide (a < b ∧ b < 6 ∧ ¬ (a = 0 ∧ b = 3) ∧ ¬ (a = 1 ∧ b = 2))

/-- Whether an interval's codes are there for the ten channels of R402, as many for each AC channel and for each DC channel. -/
def codesMatch (x : IntervalCodes) : Bool :=
  match x.codes with
  | [c0, c1, c2, c3, c4, c5, c6, c7, c8, c9] =>
    [c1, c2, c3, c4, c5, c6].all (fun c => c.length == c0.length) && c8.length == c7.length && c9.length == c7.length
  | _ => false

/-- Whether every unit that the command names exists. -/
def Instr.wf (i : Instr) : Bool :=
  match i with
  | .mbxReqTailWrite _ m _ => decide (m < 32)
  | .mbxRspHeadWrite _ m _ => decide (m < 32)
  | .mbxDoorbell _ _ => true
  | .ringReset _ m _ => decide (m < 32)
  | .eventDeliver m => decide (m < 32)
  | .cmdDone m _ => decide (m < 32)
  | .getCaps m => decide (m < 32)
  | .getOpcodeInfo m => decide (m < 32)
  | .mbxGrant m => decide (m < 32)
  | .mbxRevoke m => decide (m < 32)
  | .eventMask m => decide (m < 32)
  | .ctxCreate m => decide (m < 32)
  | .ctxDestroy m => decide (m < 32)
  | .moCreate m => decide (m < 32)
  | .moDestroy m => decide (m < 32)
  | .moLock m => decide (m < 32)
  | .queueCreate m => decide (m < 32)
  | .queueDestroy m => decide (m < 32)
  | .fenceCreate m => decide (m < 32)
  | .fenceRecycle m => decide (m < 32)
  | .monitorAlloc m => decide (m < 32)
  | .jobLoad m => decide (m < 32)
  | .regRead m => decide (m < 32)
  | .regWrite m => decide (m < 32)
  | .regStage m => decide (m < 32)
  | .commit m => decide (m < 32)
  | .stageDiscard m => decide (m < 32)
  | .commitApply _ => true
  | .pkgState m => decide (m < 32)
  | .domainCtrl m => decide (m < 32)
  | .clockSet m => decide (m < 32)
  | .wakeConfig m => decide (m < 32)
  | .linkConfig m => decide (m < 32)
  | .swarmStatus m => decide (m < 32)
  | .frameLoad m => decide (m < 32)
  | .frameReadback m _ => decide (m < 32)
  | .faultRead m => decide (m < 32)
  | .faultPolicy m => decide (m < 32)
  | .ctxReset m => decide (m < 32)
  | .dieRecover m => decide (m < 32)
  | .updateApply m _ => decide (m < 32)
  | .slotSwitch m => decide (m < 32)
  | .attest m => decide (m < 32)
  | .keyRamWrite m => decide (m < 32)
  | .settings m => decide (m < 32)
  | .hm1Msg m => decide (m < 32)
  | .hm1Status m => decide (m < 32)
  | .selfTest m _ _ => decide (m < 32)
  | .lifetimeRead m => decide (m < 32)
  | .safetyStatus m => decide (m < 32)
  | .directRegisterWrite _ _ _ => true
  | .queueDoorbell _ q _ => decide (q < 1024)
  | .kernel q => decide (q < 1024)
  | .copy q => decide (q < 1024)
  | .selectDescriptor q => decide (q < 1024)
  | .tile q => decide (q < 1024)
  | .barrier q => decide (q < 1024)
  | .nopDescriptor q => decide (q < 1024)
  | .descriptorFinish q _ => decide (q < 1024)
  | .descriptorRetire q => decide (q < 1024)
  | .fenceSetPort _ i _ _ => decide (i < 65536)
  | .fenceAddPort _ i _ _ => decide (i < 65536)
  | .fenceSignal => true
  | .monitorArm _ k _ => decide (k < 4096)
  | .monitorDisarm _ k _ => decide (k < 4096)
  | .monitorFire k => decide (k < 4096)
  | .monitorClosingEvaluate k => decide (k < 4096)
  | .nopInstr die cell => decide (die < 4 ∧ cell < 32)
  | .endItem die cell => decide (die < 4 ∧ cell < 32)
  | .jmp die cell => decide (die < 4 ∧ cell < 32)
  | .br die cell => decide (die < 4 ∧ cell < 32)
  | .sys die cell => decide (die < 4 ∧ cell < 32)
  | .li die cell => decide (die < 4 ∧ cell < 32)
  | .lih die cell => decide (die < 4 ∧ cell < 32)
  | .add die cell => decide (die < 4 ∧ cell < 32)
  | .sub die cell => decide (die < 4 ∧ cell < 32)
  | .andInstr die cell => decide (die < 4 ∧ cell < 32)
  | .orInstr die cell => decide (die < 4 ∧ cell < 32)
  | .xorInstr die cell => decide (die < 4 ∧ cell < 32)
  | .shl die cell => decide (die < 4 ∧ cell < 32)
  | .shr die cell => decide (die < 4 ∧ cell < 32)
  | .sra die cell => decide (die < 4 ∧ cell < 32)
  | .mul die cell => decide (die < 4 ∧ cell < 32)
  | .addi die cell => decide (die < 4 ∧ cell < 32)
  | .lda die cell => decide (die < 4 ∧ cell < 32)
  | .lds die cell => decide (die < 4 ∧ cell < 32)
  | .sts die cell => decide (die < 4 ∧ cell < 32)
  | .vld die cell => decide (die < 4 ∧ cell < 32)
  | .vst die cell => decide (die < 4 ∧ cell < 32)
  | .vldn die cell => decide (die < 4 ∧ cell < 32)
  | .vstn die cell => decide (die < 4 ∧ cell < 32)
  | .vadd die cell => decide (die < 4 ∧ cell < 32)
  | .vsub die cell => decide (die < 4 ∧ cell < 32)
  | .vmul die cell => decide (die < 4 ∧ cell < 32)
  | .vfma die cell => decide (die < 4 ∧ cell < 32)
  | .vdiv die cell => decide (die < 4 ∧ cell < 32)
  | .vsqrt die cell => decide (die < 4 ∧ cell < 32)
  | .vmin die cell => decide (die < 4 ∧ cell < 32)
  | .vmax die cell => decide (die < 4 ∧ cell < 32)
  | .vexp2 die cell => decide (die < 4 ∧ cell < 32)
  | .vlog2 die cell => decide (die < 4 ∧ cell < 32)
  | .vrcp die cell => decide (die < 4 ∧ cell < 32)
  | .vrsqrt die cell => decide (die < 4 ∧ cell < 32)
  | .vtanh die cell => decide (die < 4 ∧ cell < 32)
  | .vbcast die cell => decide (die < 4 ∧ cell < 32)
  | .vrsum die cell => decide (die < 4 ∧ cell < 32)
  | .setnum die cell => decide (die < 4 ∧ cell < 32)
  | .amax die cell => decide (die < 4 ∧ cell < 32)
  | .mma die cell => decide (die < 4 ∧ cell < 32)
  | .aclr die cell => decide (die < 4 ∧ cell < 32)
  | .stacc die cell => decide (die < 4 ∧ cell < 32)
  | .accadd die cell => decide (die < 4 ∧ cell < 32)
  | .stanc die cell => decide (die < 4 ∧ cell < 32)
  | .ldanc die cell => decide (die < 4 ∧ cell < 32)
  | .fin die cell => decide (die < 4 ∧ cell < 32)
  | .get die cell => decide (die < 4 ∧ cell < 32)
  | .put die cell => decide (die < 4 ∧ cell < 32)
  | .dmaComplete die cell i => decide (die < 4 ∧ cell < 32 ∧ i < 16)
  | .waitf die cell => decide (die < 4 ∧ cell < 32)
  | .waitfRelease die cell => decide (die < 4 ∧ cell < 32)
  | .sigf die cell => decide (die < 4 ∧ cell < 32)
  | .collClaim _ die k _ => decide (die < 4 ∧ k < 16)
  | .collRelease _ die k _ => decide (die < 4 ∧ k < 16)
  | .collArm _ die k _ => decide (die < 4 ∧ k < 16)
  | .collAbort _ die k _ => decide (die < 4 ∧ k < 16)
  | .collInputWrite _ die k off _ => decide (die < 4 ∧ k < 16 ∧ off < 0x1000000)
  | .collJoin die k j => decide (die < 4 ∧ k < 16 ∧ j.sender < 16)
  | .collAbsorb die k _ => decide (die < 4 ∧ k < 16)
  | .collResult die k _ _ => decide (die < 4 ∧ k < 16)
  | .errRsp die router _ => decide (die < 6 ∧ router < routerCount die)
  | .retryTimer die cell i => decide (die < 4 ∧ cell < 32 ∧ i < 16)
  | .livelockRescue die router _ _ => decide (die < 6 ∧ router < routerCount die)
  | .stallDetect die router _ => decide (die < 6 ∧ router < routerCount die)
  | .domainClosed d => decide (d < 64)
  | .domainUp d _ => decide (d < 64)
  | .domainWake d => decide (d < 64)
  | .routeSwitchDrainEnd die => decide (die < 6)
  | .portTrainingStepTimeout p => decide (p < 6)
  | .portTrainingRetry p => decide (p < 6)
  | .ident p _ _ _ _ => decide (p < 6)
  | .linkFlitReceive p _ => decide (p < 6)
  | .linkIdleTimeout p => decide (p < 6)
  | .laneLockLoss p lane => decide (p < 6 ∧ lane < 4)
  | .handover p _ => decide (p < 6)
  | .handoverRouteSwitch p => decide (p < 6)
  | .nodeLoss n => decide (n < 4)
  | .nodeLossHoldDown => true
  | .formation _ times => decide (times.length = 4)
  | .firstFormationWait _ times _ => decide (times.length = 4)
  | .nodeRejoin _ times => decide (times.length = 4)
  | .timeSend => true
  | .timeReceive p _ => decide (p < 6)
  | .regionPortRequest k _ => decide (k < 7)
  | .regionPortResponse k _ => decide (k < 7)
  | .tgtRequest k _ _ _ _ => decide (k < 7)
  | .tgrAnswer k _ _ => decide (k < 7)
  | .tgtTimeout k => decide (k < 7)
  | .regionBindWrite m => decide (m < 32)
  | .tilePortAccess k row _ => decide (1 ≤ k ∧ k < 7 ∧ (row = 2 * (k - 1) ∨ row = 2 * k - 1))
  | .ingestEnable m => decide (m < 32)
  | .ingestDisable m => decide (m < 32)
  | .ingestReleasedWrite _ c _ => decide (c < 20)
  | .frameStart c _ _ _ => decide (c < 16)
  | .longPacket c _ => decide (c < 16)
  | .frameEnd c _ => decide (c < 16)
  | .ethernetFrameReceive c _ _ => decide (16 ≤ c ∧ c < 20)
  | .ingestFlushTimer c => decide (16 ≤ c ∧ c < 20)
  | .segmentChecked => true
  | .regionDrainEnd => true
  | .regionResetRelease => true
  | .frameDoneSample _ => true
  | .frameDoneStart => true
  | .startRequestTimeout => true
  | .lpddrCheckFail _ _ _ _ => true
  | .residueMismatch unitKind die inst _ _ => decide ((unitKind = 0 ∧ die < 4 ∧ inst < 16) ∨ (unitKind = 4 ∧ die < 4 ∧ inst < 32) ∨ (unitKind = 5 ∧ die < 4 ∧ inst < 8) ∨ (unitKind = 6 ∧ die = 4 ∧ inst < 96))
  | .hangDetect => true
  | .contextReset c => decide (c < 256)
  | .contextResetDrainTimeout c die => decide (c < 256 ∧ die < 5)
  | .dieRecovery die _ _ => decide (die < 5)
  | .flashRead _ p _ => decide (p < 2)
  | .flashProgram _ p => decide (p < 2)
  | .flashErase _ p => decide (p < 2)
  | .flashSuspend _ p => decide (p < 2)
  | .flashResume _ p => decide (p < 2)
  | .blankCheck _ p _ => decide (p < 2)
  | .flashOperationDone b _ => decide (b < 2)
  | .flashWindowRead _ _ => true
  | .flashAutoSuspend b => decide (b < 2)
  | .flashAutoResume b => decide (b < 2)
  | .packageReset _ _ => true
  | .bootChain => true
  | .recoveryHello _ => true
  | .recoveryErase _ => true
  | .recoveryWrite _ => true
  | .recoveryInstall _ => true
  | .recoveryReset _ => true
  | .vbatRise => true
  | .wakeSource cause unit => decide (cause < 9 ∧ unit < (if cause = 1 then 6 else if cause = 2 ∨ cause = 3 then 4 else 1))
  | .pwrEnLower => true
  | .partitionHalted _ n _ => decide (n < 16)
  | .partitionHaltTimeout n => decide (n < 16)
  | .supplyStateChange _ => true
  | .brownoutReset => true
  | .throttleTick temps _ => decide (temps.length = 6)
  | .thermalHold die _ => decide (die < 6)
  | .thermalTrip die _ => decide (die < 6)
  | .pmeTurnOff => true
  | .perstAssert => true
  | .perstDeassert => true
  | .wakeAssert => true
  | .islandStart _ => true
  | .hardwareSafeState _ => true
  | .windowWatchdogExpiry => true
  | .clockSupervisorCheck _ _ => true
  | .parameterCrcCheck => true
  | .ioCycle _ _ => true
  | .testPulse tp _ => decide (tp < 4)
  | .outputDarkTest p _ _ => decide (p < 8)
  | .stopMonitor f => decide (f < 32)
  | .blackChannelFrame _ _ _ => true
  | .inboxSubmit _ n _ => decide (n < 16)
  | .connectionSend c => decide (c < 32)
  | .comparisonWindow c => decide (c < 32)
  | .connectionLost c => decide (c < 32)
  | .connectionDegraded c _ => decide (c < 32)
  | .degradedLimit c => decide (c < 32)
  | .intervalEnd l x => decide (l < 4) && codesMatch x
  | .frequencyWindow l _ _ _ => decide (l < 4)
  | .pqEvent l rms => decide (l < 4 ∧ rms.length = 3)
  | .calApplied l => decide (l < 4)
  | .calEnChange l _ => decide (l < 4)
  | .checksumCheck l => decide (l < 4)
  | .firewallHit l => decide (l < 4)
  | .powerFail l x => decide (l < 4) && codesMatch x
  | .energySnapshot l => decide (l < 4)
  | .metRead l => decide (l < 4)
  | .pqConfig l => decide (l < 4)
  | .pqRead l => decide (l < 4)
  | .metUpdate l => decide (l < 4)
  | .billRead l => decide (l < 4)
  | .recordRead l => decide (l < 4)
  | .meterSign l => decide (l < 4)
  | .creditAdd l => decide (l < 4)
  | .creditRead l => decide (l < 4)
  | .logRead l => decide (l < 4)
  | .tamperRead l => decide (l < 4)
  | .logArchive l => decide (l < 4)
  | .timeSet l => decide (l < 4)
  | .certRead l => decide (l < 4)
  | .sessionConfig l => decide (l < 4)
  | .authorise l => decide (l < 4)
  | .startInlet l => decide (l < 4)
  | .closeContactors l _ => decide (l < 4)
  | .stop l => decide (l < 4)
  | .setLimit l => decide (l < 4)
  | .sessionStatus l => decide (l < 4)
  | .contactorReset l _ => decide (l < 4)
  | .pilotState l _ _ _ _ => decide (l < 4)
  | .ppLost l _ => decide (l < 4)
  | .contactorCheck l _ => decide (l < 4)
  | .stopGraceTimeout l => decide (l < 4)
  | .insulation l _ _ => decide (l < 4)
  | .rdcTrip l => decide (l < 4)
  | .tariffSwitch l x => decide (l < 4) && codesMatch x
  | .coverOpen l => decide (l < 4)
  | .linkHoldExpiry l => decide (l < 4)
  | .hm1Wake l _ => decide (l < 4)
  | .hm1MainSupplyTimeout l => decide (l < 4)
  | .plcFrameReceive l node preamble bursts => decide (l < 4 ∧ node < 32 ∧ preamble.length = 16 ∧ bursts.length = 256)
  | .plcAccess l node _ => decide (l < 4 ∧ node < 32)
  | .plcAckSlot l node bursts => decide (l < 4 ∧ node < 32 ∧ bursts.length = 8)
  | .plcHello l node => decide (l < 4 ∧ node < 32)
  | .routeReq l => decide (l < 4)
  | .routeReqRebroadcast l node => decide (l < 4 ∧ 1 ≤ node ∧ node < 32)
  | .routeRep l node => decide (l < 4 ∧ 1 ≤ node ∧ node < 32)
  | .routeExpiry l pod => decide (l < 4 ∧ 1 ≤ pod ∧ pod < 32)
  | .routeErr l pod => decide (l < 4 ∧ 1 ≤ pod ∧ pod < 32)
  | .wakePattern l _ => decide (l < 4)
  | .plcConfig l => decide (l < 4)
  | .plcSend l => decide (l < 4)
  | .plcRouteRead l => decide (l < 4)
  | .plcStats l => decide (l < 4)
  | .plcDiscover l => decide (l < 4)
  | .holmiFrameReceive l _ _ => decide (l < 4)
  | .holmiResendTimer l _ => decide (l < 4)
  | .holmiAckOnlyTimer l _ => decide (l < 4)
  | .holmiLinkDown l _ => decide (l < 4)
  | .holmiReplyTimeout l => decide (l < 4)
  | .hlinkWake l => decide (l < 4)
  | .relayEnable m => decide (m < 32)
  | .txTailWrite _ l _ => decide (l < 4)
  | .rxHeadWrite _ l _ => decide (l < 4)
  | .patternEnable m => decide (m < 32)
  | .checkerLockLoss die g _ _ => decide (die < 6) && patternGroup die g
  | .vbatLoss => true
  | .pcieLinkUp => true
  | .hostAccess _ _ _ _ _ => true
  | .ucieRetrain dieA dieB modul => linkedDies dieA dieB && decide (modul < 2)
  | .laneLock p _ => decide (p < 6)
  | .checkerLocked die g _ => decide (die < 6) && patternGroup die g
  | .lifetimeRecord => true
  | .sramMarchTest _ => true
  | .safeInputSample _ => true
  | .thermalHoldRelease die _ => decide (die < 6)
  | .thermalTripRestart temps => decide (temps.length = 6)
  | .acLock l _ => decide (l < 4)
  | .pqEventStart l rms => decide (l < 4 ∧ rms.length = 3)
  | .metrologyStart l => decide (l < 4)
  | .coverClose l => decide (l < 4)
  | .fuseWrite field _ _ => decide (field < 8)
  | .debugUnlock _ _ => true

end Sys2Proof
end

