-- ==== Sys2Proof/Safety.lean ====
section
/-! DEFINITION. What counts as a safe state and a safe run, and what the statements call a request asked of the Keeper and the answer
that a mailbox holds. -/

namespace Sys2Proof.Machine

/-- The memories in canonical form: stored bytes and failing checks listed by rising address, none of them at its default. -/
def Memory.wf (x : Memory) : Bool := Tbl.wf 0 x.bytes && Tbl.wf false x.bad

/-- Every command that waits names units that exist. -/
def State.queueOk (s : State) : Bool := s.pending.all Sys2Proof.Instr.wf

/-- A safe state: canonical memories, a node number that a strap can give (R19), and well-formed commands. -/
def State.safe (s : State) : Bool := s.mem.wf && decide (s.swarm.node < 4) && s.queueOk

/-- A run of `n` steps that ends in a state, with no fault and no refusal on the way. -/
def runs : Nat → State → Option State
  | 0, s => some s
  | n + 1, s => match step s with
    | .next t => runs n t
    | _ => none

/-! ### Requests and answers (R36-R44) -/

/-- The 64 bytes of the request at REQ_HEAD of mailbox `m`. -/
def reqBytes (s : State) (m : Nat) : Bytes := memRead s (ringAddr s m + 64 * ((getMbx s m).reqHead.toNat % 16)) 64

/-- That request. -/
def reqOf (s : State) (m : Nat) : Req :=
  { m := m, opcode := le16 (reqBytes s m) 0, tag := byteAt (reqBytes s m) 3, p := (reqBytes s m).drop 8 }

/-- The state in which the request has been taken up: REQ_HEAD has advanced, and the round has gone on past the mailbox (R37, R39). -/
def taken (s : State) (m : Nat) : State := takenUp m s

/-- The Keeper takes up a request through mailbox `m`: it serves mailboxes, and this one, whose request can be taken up, is the next that
it serves. -/
def requestWaits (m : Nat) (s : State) : Bool :=
  serving s && decide (m < 32 ∧ s.swarm.node < 4) && takeable (getMbx s m) && nextServed s == some m

/-- A request with opcode `op` is asked through mailbox `m`: the Keeper takes it up, and it passes the checks of R44 up to its reserved
bytes. -/
def asked (op m : Nat) (s : State) : Bool :=
  requestWaits m s && leNat (reqBytes s m) 0 2 == op && preCheck s m (reqBytes s m) == 0
    && (((card op).map Card.holes).getD []).all (fun i => byteAt (reqOf s m).p i == 0)

/-- The message that mailbox `m` received last. -/
def lastMessage (t : State) (m : Nat) : Bytes :=
  memRead t (ringAddr t m + 0x400 + 64 * (((getMbx t m).rspTail - 1).toNat % 16)) 64

/-- The bytes of the answer to the request at the head of mailbox `m` (R40, R41). -/
def answerBytes (s : State) (m : Nat) (status : W16) (p : Bytes) : Bytes :=
  toLE 2 (reqOf s m).opcode.toNat ++ [(byteAt (reqBytes s m) 2 &&& 0xFC) ||| 1, (reqOf s m).tag] ++ toLE 2 p.length ++ toLE 2 status.toNat
    ++ slice p 0 56

/-- Address of the response slot that the next message to mailbox `m` takes. -/
def rspSlot (s : State) (m : Nat) : Nat := ringAddr s m + 0x400 + 64 * ((getMbx s m).rspTail.toNat % 16)

/-- The command gives a next state in which mailbox `m` has received the answer `c` with payload `p` to its request, and which is `u`
but for that answer: RSP_TAIL has advanced, the bytes of the response slot are written, a PCIe interrupt may have been raised, and
nothing else has changed. -/
def answersWith (i : Instr) (m : Nat) (s : State) (c : W16) (p : Bytes) (u : State) : Prop :=
  ∃ t, exec i s = .next t ∧ lastMessage t m = answerBytes s m c p
    ∧ t = { u with keeper := t.keeper, mem := t.mem, free := t.free }
    ∧ t.keeper = { u.keeper with mbx := t.keeper.mbx, irqs := t.keeper.irqs }
    ∧ getMbx t m = { getMbx u m with rspTail := (getMbx u m).rspTail + 1 }
    ∧ (∀ k, k ≠ m → getMbx t k = getMbx u k)
    ∧ ∀ a, ¬ (rspSlot u m ≤ a ∧ a < rspSlot u m + 64) → addrNode a = u.swarm.node → memByte t a = memByte u a

/-- The state in which the request has been taken up as a long-running command (R43): it awaits its CMD_DONE, which has a
place in the event queue (R47). -/
def acceptedState (s : State) (m : Nat) : State :=
  let x := makeRoom (getMbx (taken s m) m)
  setMbx (taken s m) m { x with accepted := x.accepted ++ [{ opcode := (reqOf s m).opcode, tag := (reqOf s m).tag, result := none }] }

/-- The command reference of the request. -/
def refOf (s : State) (m : Nat) : CmdRef := { m := m, opcode := (reqOf s m).opcode, tag := (reqOf s m).tag }

/-- The request is asked and fewer than 8 accepted commands of its mailbox await CMD_DONE. -/
def askedLong (op m : Nat) (s : State) : Bool := asked op m s && !pendingFull (taken s m) m

/-! ### Cell instructions (R137, R139) -/

/-- The instruction at the PC of a cell, with its cell and job. -/
def unitOf (s : State) (die cell : Nat) : Unit1 :=
  let x := getCell s die cell
  let j := x.job.getD ⟨0, 0, 0, 0, 0, 0, 0, 0, 0, 0, 0, false⟩
  { die := die, cell := cell, x := x, j := j, i := insOf (BitVec.ofNat 64 (memNat s (j.code + 8 * x.pc.toNat) 8)) }

/-- The cell runs and the instruction at its PC is operation `op`, with the fields that it does not use 0 and, under WAITALL, no GET or
PUT outstanding; its item has not stopped (R149), and issue has not run past the last instruction (R139). -/
def ready (op : Nat) (uses : Uses) (die cell : Nat) (s : State) : Bool :=
  let u := unitOf s die cell
  cellOk die cell && u.x.job.isSome && (u.x.state == .running || u.x.state == .stalled)
    && !u.j.stopped && !u.x.past
    && (localCtx s u.j.ctx.toNat).any (fun c => !inReset (getCtx s c)) && decide (u.x.pc.toNat < u.j.words)
    && checksOk s (u.j.code + 8 * u.x.pc.toNat) 8 && u.i.opc == op && isOp op && unusedZero uses u.i && (!u.i.waitall || u.x.dma.isEmpty)

/-- `t` is `s` with the cell made `x` and gone on to the instruction `pc`, past the last one of 2²⁰ where `past`; nothing else has
changed. -/
def cellMoved (s t : State) (die cell : Nat) (x : Cell) (pc : BitVec 20) (past : Bool) : Prop :=
  t = { setCell s die cell { x with state := if x.wait.isSome then .waiting else .running, pc := pc, past := past } with free := s.free + 1 }

/-- `t` is `s` with the cell made `x` and gone on to the next instruction; nothing else has changed. -/
def cellWent (s t : State) (die cell : Nat) (x : Cell) : Prop :=
  cellMoved s t die cell x (x.pc + 1) (decide (x.pc.toNat = 0xFFFFF))

/-- An access of `n` bytes at offset `off` of the own store meets its alignment, its range, no hazard, R74 and the parcel checks. -/
def ownOk (u : Unit1) (off n align : Nat) (write : Bool) (s : State) : Bool :=
  let a := cellStore s u.die u.cell + off
  let used := if write then (parcelsOf a n).filter (fun p => !(wholeParcels a n).contains p) else parcelsOf a n
  decide (off % align = 0) && decide (off + n ≤ 0x180000) && !hazard (cellStore s u.die u.cell) u.x off n write
    && permCheck s (.unit u.j.ctx.toNat true u.die) a n write == 0 && used.all (fun p => !(Tbl.get false s.mem.bad p))

/-! ### Descriptors (R81-R83) -/

/-- The bytes of the descriptor that queue `q` considers next. -/
def nextDesc (s : State) (q : Nat) : Bytes :=
  let x := getQueue s q
  memRead s ((getMot s ((resolve s x.ring).getD 0)).base + 64 * (x.startedCount.toNat % 2 ^ x.log2)) 64

/-- Queue `q` may start a descriptor, that is of type `typ`, and it passes every check and wait up to its units. -/
def queueReady (typ q : Nat) (s : State) : Bool :=
  let x := getQueue s q
  let a := (getMot s ((resolve s x.ring).getD 0)).base + 64 * (x.startedCount.toNat % 2 ^ x.log2)
  let b := nextDesc s q
  let w := waitWord s (leNat b 8 8)
  mayStart s x && (resolve s x.ring).isSome && accessCheck s (.unit x.ctx.toNat false 5) a 64 false == 0 && checksOk s a 64
    && (byteAt b 0).toNat == typ && descCheck s x b == 0
    && (!bitOf (byteAt b 1) 0 || (decide (leNat b 16 8 ≤ w.toNat) && !bitOf w 63)) && (!bitOf (byteAt b 1) 2 || x.retired == x.startedCount)

/-- The descriptor as it starts on units `us` with parameters `ps`. -/
def startedDesc (s : State) (q : Nat) (us : List Nat) (ps : Bytes) : Desc :=
  { num := (getQueue s q).startedCount, bytes := nextDesc s q, params := ps, started := s.keeper.tick, units := us }

/-- The queue with that descriptor, of type `typ`, started, and its DISPATCH packets carried to the units (R176). -/
def withStarted (typ : Nat) (s : State) (q : Nat) (us : List Nat) (ps : Bytes) : State :=
  dispatchTo typ (getQueue s q).ctx.toNat us
    (setQueue s q { getQueue s q with startedCount := (getQueue s q).startedCount + 1,
                                      inflight := (getQueue s q).inflight ++ [startedDesc s q us ps] })

/-! ### Patterns (R499) -/

/-- The `n` bits that follow a register of pattern `code`. -/
def patternBits (code : Nat) : Nat → List Bool → List Bool
  | 0, _ => []
  | n + 1, reg => patternNext code reg :: patternBits code n (patternShift code reg)

/-! ### Messages of an HM1 (R419, R453, R478) -/

/-- The message that the HM1 on link `l` has accepted. -/
def inboxOf (s : State) (l : Nat) : Bytes := ((getHm1 s l).inbox).getD []

/-- The HM1 on link `l` is up and has accepted a message of type `op` (and command `sub`). -/
def hm1Asked (op : Nat) (sub : Option Nat) (l : Nat) (s : State) : Bool :=
  decide (l < 4) && (getHm1 s l).inbox.isSome && (getHm1 s l).met.main && leNat (inboxOf s l) 0 1 == op
    && (match sub with
      | some k => leNat (inboxOf s l) 1 1 == k
      | none => true)

/-- The state in which the message has been taken. -/
def hm1Taken (s : State) (l : Nat) : State := setHm1 s l { getHm1 s l with inbox := none }

/-- The command gives a next state that is `u` but for the answer `c` with payload `p`, which the HM1 on link `l` sends while its end of
the link is up. -/
def hm1Answers (i : Instr) (l : Nat) (s : State) (c : W16) (p : Bytes) (u : State) : Prop :=
  exec i s = .next { (if (getEnd u true l).up then holmiSend true l 1 (toLE 2 c.toNat ++ p) u else u) with free := s.free + 1 }

end Sys2Proof.Machine
end

