-- ==== Sys2Proof/Certificates/Slice0/Obligations.lean ====
section
/-! DEFINITION. The statements for the provers. -/

open Sys2Proof Sys2Proof.Machine

/-- The interface of the block: the front command and the rest of the queue, or a tick. That commands come through a queue, and that
an empty queue lets one tick pass, is the model's own form (assumption log 1). Rests on R7, R39, R83. -/
def Obligations.StepRunsFront : Prop :=
  (∀ (c : Instr) (l : List Instr) (s : State), step { s with pending := c :: l } = exec c { s with pending := l })
  ∧ ∀ (s : State), s.pending = [] → ∃ t, step s = .next t ∧ t.keeper.reported = [] ∧ t.pending = []
    ∧ (alarmDue s = false → t.keeper.tick = s.keeper.tick + 1
    ∧ t.swarm.time = (if s.swarm.running then s.swarm.time + BitVec.ofInt 64 (1000000 + s.swarm.trim) else s.swarm.time)
    ∧ (s.power.vbat = false → t.power.rtc = s.power.rtc ∧ t.power.rtcFrac = s.power.rtcFrac)
    ∧ t.obj = s.obj ∧ t.mem = s.mem ∧ t.cmp = s.cmp ∧ t.net = s.net ∧ t.frame = s.frame ∧ t.flash = s.flash ∧ t.boot = s.boot ∧ t.island = s.island)

/-- That the node strap reads 0 is the model's choice for State.reset (assumption log 4). Rests on R32, R35, R46, R318, R345, R353. -/
def Obligations.ResetValues : Prop :=
  let s := State.reset
  (getMbx s 0).bound = some 116 ∧ (getMbx s 0).groups = BitVec.allOnes 64 ∧ (getMbx s 0).mask = BitVec.allOnes 64
  ∧ (getMbx s 1).bound = some 52 ∧ (getMbx s 1).mask = 0 ∧ (∀ m, 2 ≤ m → getMbx s m = {})
  ∧ (∀ d, d < 56 → (getDom s d).state = .closed) ∧ (∀ d, 56 ≤ d → (getDom s d).state = .up)
  ∧ (∀ d, (getDom s d).woa = true ↔ (d < 48 ∧ (d % 12 ≤ 8 ∨ d % 12 = 10)) ∨ d = 54 ∨ d = 55)
  ∧ s.power.wakeEnable = 0x181 ∧ s.boot.opt.swarmSize = 1 ∧ s.boot.opt.protect = [{ first := 0, count := 4096, owner := 3, noAuto := false }]
  ∧ (∀ c, (getCtx s c).live = false) ∧ (∀ i, (getMot s i).kind = 0 ∧ fenceWord s i = 0) ∧ (∀ q, (getQueue s q).live = false)
  ∧ (∀ k, (getSlot s k).ctx = none) ∧ (∀ d c, (getCell s d c).state = .idle) ∧ s.pending = []

/-- The state at reset is safe. Rests on R19, R64. -/
def Obligations.ResetSafe : Prop :=
  State.reset.safe = true

/-- A command stops exactly when it names a unit that the part does not have. Rests on R5, R63. -/
def Obligations.OnlyMissingUnitsStop : Prop :=
  ∀ (i : Instr) (s : State), (i.wf = true → ∃ t, exec i s = .next t) ∧ (i.wf = false → exec i s = .fault .noSuchUnit)

/-- Every step of a safe state answers a safe state. Rests on R5, R19, R64. -/
def Obligations.StepKeepsSafe : Prop :=
  ∀ (s : State), s.safe = true → ∃ t, step s = .next t ∧ t.safe = true

/-- Every run of a safe state goes on without a stop and stays safe. Rests on R5, R19, R64. -/
def Obligations.RunsStaySafe : Prop :=
  ∀ (n : Nat) (s : State), s.safe = true → ∃ t, runs n s = some t ∧ t.safe = true ∧ t.pending = s.pending.drop n

/-- What the bound source writes to REQ_TAIL, RSP_HEAD, CTRL and DOORBELL. Rests on R35, R36, R38. -/
def Obligations.MailboxRegisterWrites : Prop :=
  ∀ (src : W32) (m : Nat) (v : W32) (s : State), m < 32 → (getMbx s m).bound = some src →
    let x := getMbx s m
    let heard := { s with keeper := { s.keeper with rsp := {} } }
    let tail : BitVec 5 := v.truncate 5
    (((tail - x.reqHead).toNat ≤ 16 → exec (.mbxReqTailWrite src m v) s = .next { setMbx heard m { x with reqTail := tail, clash := clashes heard m tail } with free := s.free + 1 })
      ∧ (16 < (tail - x.reqHead).toNat → x.ringFault = false → ∃ t, exec (.mbxReqTailWrite src m v) s = .next t ∧ (getMbx t m).ringFault = true
          ∧ t = { sendOwner 0xE00B [BitVec.ofNat 8 m]
                    (setMbx (setMbx heard m { x with reqTail := tail }) m { x with reqTail := tail, ringFault := true }) with free := t.free }))
    ∧ (((tail - x.rspHead).toNat ≤ (x.rspTail - x.rspHead).toNat →
          exec (.mbxRspHeadWrite src m v) s = .next { setMbx heard m { x with rspHead := tail } with free := s.free + 1 })
      ∧ ((x.rspTail - x.rspHead).toNat < (tail - x.rspHead).toNat → x.ringFault = false →
          ∃ t, exec (.mbxRspHeadWrite src m v) s = .next t ∧ (getMbx t m).ringFault = true
          ∧ t = { sendOwner 0xE00B [BitVec.ofNat 8 m]
                    (setMbx (setMbx heard m { x with rspHead := tail }) m { x with rspHead := tail, ringFault := true }) with free := t.free }))
    ∧ (v.getLsbD 0 = true → ∃ t, exec (.ringReset src m v) s = .next t ∧ t = { setMbx heard m (getMbx t m) with free := s.free + 1 }
          ∧ (getMbx t m).reqTail = 0 ∧ (getMbx t m).reqHead = 0 ∧ (getMbx t m).rspTail = 0 ∧ (getMbx t m).rspHead = 0
          ∧ (getMbx t m).ringFault = false ∧ (getMbx t m).events = x.events ∧ (getMbx t m).accepted = x.accepted)
    ∧ (v.toNat % 32 = m → exec (.mbxDoorbell src v) s = .next { setMbx heard m { x with rung := true } with free := s.free + 1 })

/-- A write to a mailbox register or ring slot from any source but the bound one takes no effect and is counted and reported. Rests
on R33. -/
def Obligations.ForeignMailboxWrites : Prop :=
  ∀ (src : W32) (m : Nat) (v : W32) (s : State), m < 32 → (getMbx s m).bound ≠ some src →
    ∀ (i : Instr) (a : Nat),
      (i = .mbxReqTailWrite src m v ∧ a = here s 5 (mbxReg m 0)) ∨ (i = .mbxRspHeadWrite src m v ∧ a = here s 5 (mbxReg m 0xC))
      ∨ (i = .ringReset src m v ∧ a = here s 5 (mbxReg m 0x14)) ∨ (i = .mbxDoorbell src v ∧ v.toNat % 32 = m ∧ a = here s 5 0x01000000400)
      ∨ (∃ (addr : BitVec 48) (q : RegPlace), i = .directRegisterWrite src addr v ∧ stampsId s src = true ∧ registerReach s src addr.toNat = 0 ∧ addrNode addr.toNat = s.swarm.node
          ∧ addr.toNat % 4 = 0 ∧ placeAt addr.toNat = some q ∧ q.blk = .mbx ∧ q.inst = m ∧ a = here s 5 (mbxReg m (4 * q.word)))
      ∨ (∃ (addr : BitVec 48) (n : Nat) (data : Bytes), i = .hostAccess src true addr n data ∧ stampsId s src = true ∧ inView src addr.toNat = true
          ∧ collWindow s addr.toNat = none ∧ rangeOf s (addrDie addr.toNat) (addrLoc addr.toNat) ≠ .regs
          ∧ reachCheck s (.src src) addr.toNat data.length = 0 ∧ ringOf s addr.toNat = some m ∧ ringsOf s addr.toNat data.length = [m]
          ∧ a = addr.toNat) →
    ∃ t, exec i s = .next t ∧ t.keeper.rsp.status = 0x4001
      ∧ (getMbx t m).foreignWrites = (if (getMbx s m).foreignWrites = 255 then 255 else (getMbx s m).foreignWrites + 1)
      ∧ (getMbx t m).reqTail = (getMbx s m).reqTail ∧ (getMbx t m).reqHead = (getMbx s m).reqHead ∧ (getMbx t m).rspTail = (getMbx s m).rspTail
      ∧ (getMbx t m).rspHead = (getMbx s m).rspHead ∧ (getMbx t m).bound = (getMbx s m).bound ∧ (getMbx t m).ringFault = (getMbx s m).ringFault
      ∧ (∀ k, k ≠ m → k ≠ 0 → getMbx t k = getMbx s k)
      ∧ t = { s with keeper := { s.keeper with mbx := t.keeper.mbx, rsp := t.keeper.rsp }, free := s.free + 1 }
      ∧ ((getMbx s 0).bound.isSome = true → (getMbx s 0).events.length + (getMbx s 0).accepted.length < 32 → (getMbx s 0).mask.getLsbD 12 = true →
          (getMbx t 0).events = (getMbx s 0).events ++ [⟨0xE00C, toLE 4 src.toNat ++ toLE 8 a⟩])

/-- The delivery of the oldest event and the report of a completed command. Rests on R41, R43, R47, R48. -/
def Obligations.EventsAndCompletions : Prop :=
  ∀ (m : Nat) (s : State), m < 32 → s.swarm.node < 4 →
    let x := getMbx s m
    (∀ (e : Event) (l : List Event), serving s = true → x.bound.isSome = true → x.ringFault = false → freeSlots x ≠ 0 → x.dropped = 0 → x.events = e :: l →
      ∃ t, exec (.eventDeliver m) s = .next t
        ∧ lastMessage t m = toLE 2 e.code.toNat ++ [0x22, x.seq] ++ toLE 2 e.payload.length
            ++ toLE 2 (if e.code = 0xE001 then le16 e.payload 4 else 0).toNat ++ slice e.payload 0 56
        ∧ getMbx t m = { x with events := l, seq := x.seq + 1, rspTail := x.rspTail + 1 }
        ∧ (∀ k, k ≠ m → getMbx t k = getMbx s k) ∧ t.obj = s.obj ∧ t.cmp = s.cmp ∧ t.net = s.net ∧ t.swarm = s.swarm ∧ t.faults = s.faults)
    ∧ (∀ (op : W16) (tag : Byte) (r : CmdResult) (before after : List Accepted),
        x.accepted = before ++ { opcode := op, tag := tag, result := some r } :: after → (∀ a ∈ before, a.result = none) →
        ∃ t, exec (.cmdDone m tag) s = .next t
          ∧ getMbx t m = { x with
              accepted := x.accepted.filter (fun a => a.tag != tag),
              events := x.events ++ [⟨0xE001, toLE 2 op.toNat ++ [tag, 0] ++ toLE 2 r.status.toNat ++ [0, 0] ++ toLE 8 r.time.toNat ++ r.extra⟩] }
          ∧ (∀ id, getBlock t id = (if (getBlock s id).applied = true ∧ (getBlock s id).pending = some { m := m, opcode := op, tag := tag } then
              { getBlock s id with staging := [], holder := none, pending := none, applied := false } else getBlock s id))
          ∧ t = { setMbx s m (getMbx t m) with
              keeper := { (setMbx s m (getMbx t m)).keeper with blocks := t.keeper.blocks }, free := s.free + 1 })

/-- The first failing check of R44 up to the role answers a request, with no side effect. Rests on R39, R44, R49. -/
def Obligations.RequestChecks : Prop :=
  ∀ (m : Nat) (s : State), requestWaits m s = true → preCheck s m (reqBytes s m) ≠ 0 →
    let b := reqBytes s m
    let rejected := fun (i : Instr) => answersWith i m s (preCheck s m b) [] (taken s m)
    ((leNat b 0 2 = 0x0001 ∨ card (leNat b 0 2) = none) → rejected (.getCaps m)) ∧ ((leNat b 0 2 = 0x0103 ∨ card (leNat b 0 2) = none) → rejected (.moCreate m))
    ∧ ((leNat b 0 2 = 0x0301 ∨ card (leNat b 0 2) = none) → rejected (.pkgState m)) ∧ ((leNat b 0 2 = 0x0801 ∨ card (leNat b 0 2) = none) → rejected (.hm1Msg m))
    ∧ (field (byteAt b 2) 4 0 ≠ 0 → preCheck s m b = 0x1007)
    ∧ (field (byteAt b 2) 4 0 = 0 → card (leNat b 0 2) = none → preCheck s m b = 0x1001)
    ∧ (field (byteAt b 2) 4 0 = 0 → ∀ c, card (leNat b 0 2) = some c → field (byteAt b 2) 7 5 ≠ 1 → preCheck s m b = 0x100B)
    ∧ (field (byteAt b 2) 4 0 = 0 → ∀ c, card (leNat b 0 2) = some c → field (byteAt b 2) 7 5 = 1 → 
        ((byteAt b 3 ∈ busyTags (getMbx s m) ∨ (getMbx s m).reqHead ∈ (getMbx s m).clash) → preCheck s m b = 0x1003)
        ∧ (byteAt b 3 ∉ busyTags (getMbx s m) → (getMbx s m).reqHead ∉ (getMbx s m).clash → (leNat b 4 2 ≠ c.reqLen → preCheck s m b = 0x1002) ∧ (leNat b 4 2 = c.reqLen → c.roles &&& roleOf m = 0 → preCheck s m b = 0x4001)))

/-- GET_CAPS, GET_OPCODE_INFO, MBX_GRANT, MBX_REVOKE and EVENT_MASK. Rests on R32, R53. -/
def Obligations.DiscoveryCommands : Prop :=
  ∀ (m : Nat) (s : State),
    let p := (reqOf s m).p
    let u := taken s m
    (asked 0x0001 m s = true → answersWith (.getCaps m) m s 0
      ([3, 2] ++ toLE 2 (Sys2Proof.Config.productionWord 1).toNat ++ toLE 2 (Sys2Proof.Config.productionWord 0).toNat
        ++ [BitVec.ofNat 8 s.swarm.node, s.swarm.members.zeroExtend 8, BitVec.ofNat 8 m, (if m = 0 then 1 else if m = 1 then 4 else 2), 0, 0]
        ++ toLE 8 (getMbx s m).groups.toNat ++ toLE 2 0) u)
    ∧ (asked 0x0002 m s = true → (∀ c, card (leNat p 0 2) = some c →
          answersWith (.getOpcodeInfo m) m s 0 ([1, BitVec.ofNat 8 c.roles] ++ toLE 2 c.reqLen ++ toLE 2 c.rspLen) u)
        ∧ (card (leNat p 0 2) = none → answersWith (.getOpcodeInfo m) m s 0 [0xFF, 0, 0, 0, 0, 0] u))
    ∧ (asked 0x0003 m s = true → ∀ k, leNat p 0 1 = k → 2 ≤ k → k ≤ 31 → (getMbx u k).bound = none → field (le32 p 2) 31 24 = 0 →
        (srcUnit (le32 p 2) = 2 ∨ srcUnit (le32 p 2) = 3) → 1 ≤ leNat p 16 2 → leNat p 16 2 ≤ 256 →
        ∃ y, answersWith (.mbxGrant m) m s 0 [] (setMbx u k y) ∧ y.bound = some (le32 p 2) ∧ y.groups = le64 p 8 ∧ y.quota = leNat p 16 2 ∧ y.mask = 0
          ∧ y.reqTail = 0 ∧ y.reqHead = 0 ∧ y.rspTail = 0 ∧ y.rspHead = 0 ∧ y.ringFault = (getMbx u k).ringFault)
    ∧ (asked 0x0005 m s = true →
        answersWith (.eventMask m) m s 0 (toLE 8 (getMbx s m).mask.toNat) (setMbx u m { getMbx u m with mask := le64 p 0 }))
    ∧ (askedLong 0x0004 m s = true → ∀ k, leNat p 0 1 = k → 2 ≤ k → k ≤ 31 → leNat p 1 1 ≤ 1 → (getMbx u k).bound.isSome = true →
        (getMbx u k).revoking = none → (∀ e ∈ u.obj.ctxs, e.2.live = true → e.2.mailbox ≠ k ∨ e.2.node ≠ s.swarm.node) →
        (∀ c ∈ liveCtxs u, (getCtx u c).mailbox ≠ k ∨ (getCtx u c).node ≠ s.swarm.node) →
        ∃ w, answersWith (.mbxRevoke m) m s 1 [] w ∧ (getMbx w k).bound = none ∧ (getMbx w k).groups = 0
          ∧ w.obj = u.obj ∧ w.mem = u.mem ∧ w.cmp = u.cmp
          ∧ (k ≠ m → (getMbx w m).accepted = (getMbx u m).accepted
              ++ [{ opcode := 0x0004, tag := (reqOf s m).tag, result := some { status := 0, time := s.swarm.time, extra := [] } }]))

/-- CTX_CREATE and CTX_DESTROY. Rests on R34, R43, R54, R69, R70. -/
def Obligations.ContextCommands : Prop :=
  ∀ (m : Nat) (s : State),
    let p := (reqOf s m).p
    let u := taken s m
    let mine := fun (x : Ctx) => x.mailbox = m ∧ x.node = s.swarm.node
    (asked 0x0101 m s = true → leNat p 0 1 = s.swarm.node → leNat p 1 1 ≤ 3 → leNat p 4 1 ≤ 15 → cmdPending u 0x0901 = false → s.power.parking = false →
        (∀ g, s.power.goal = some g → g.2 ≠ .parked) →
        (leNat p 4 1 = 0 ∨ ∀ e ∈ s.obj.ctxs, e.2.live = true → e.2.vf = leNat p 4 1 → mine e.2) →
        Tbl.count s.obj.ctxs (fun _ x => x.live && madeBy s m x) < (getMbx s m).quota →
        ∀ c, c < 256 → (getCtx s c).live = false → (∀ k, k < c → (getCtx s k).live = true) →
        answersWith (.ctxCreate m) m s 0 (toLE 2 (256 * s.swarm.node + c))
          (setCtx u c { live := true, node := s.swarm.node, mailbox := m, priority := BitVec.ofNat 2 (leNat p 1 1), patience := le16 p 2, vf := leNat p 4 1 }))
    ∧ (askedLong 0x0102 m s = true → ∀ c, localCtx s (leNat p 0 2) = some c → (m = 0 ∨ mine (getCtx s c)) → inReset (getCtx s c) = false →
        let w := acceptedState s m
        answersWith (.ctxDestroy m) m s 1 [] { w with
          obj := { s.obj with
            ctxs := Tbl.set {} s.obj.ctxs c { getCtx s c with state := .destroying, done := (getCtx s c).done ++ [refOf s m] },
            queues := Tbl.mapAll {} (fun _ q => if q.live ∧ q.ctx.toNat = leNat p 0 2 then
              { q with state := (if q.state = .ready then .hold else q.state), holdMark := q.submitted } else q) s.obj.queues } })
    ∧ (asked 0x0102 m s = true → leNat p 0 2 < 1024 → leNat p 0 2 / 256 = s.swarm.node → localCtx s (leNat p 0 2) = none →
        answersWith (.ctxDestroy m) m s 0x1004 [] u)
    ∧ (asked 0x0102 m s = true → ∀ c, localCtx s (leNat p 0 2) = some c → m ≠ 0 → ¬ mine (getCtx s c) → inReset (getCtx s c) = false →
        answersWith (.ctxDestroy m) m s 0x2002 [] u)

/-- MO_CREATE, MO_DESTROY and MO_LOCK. Rests on R54, R72, R73, R76, R77. -/
def Obligations.MemoryObjectCommands : Prop :=
  ∀ (m : Nat) (s : State),
    let p := (reqOf s m).p
    let u := taken s m
    let i := field (le32 p 0) 15 0
    let e := getMot s i
    let act := (m = 0 ∨ field e.creator 1 0 = s.swarm.node ∧ field e.creator 6 2 = m) ∧ (localCtx s e.owner.toNat).any (fun c => inReset (getCtx s c)) = false
    (asked 0x0103 m s = true → field (byteAt p 2) 7 4 = 0 → leNat p 8 8 % 256 = 0 → leNat p 8 8 ≠ 0 → leNat p 4 1 = leNat p 0 2 / 256 →
        leNat p 3 1 = 0 → leNat p 5 1 ≤ 3 → leNat p 6 1 = 0 →
        ∀ c, localCtx s (leNat p 0 2) = some c → (m = 0 ∨ madeBy s m (getCtx s c) = true) → inReset (getCtx s c) = false →
        dieDown s (leNat p 5 1) = false →
        ∀ (j a : Nat), freeEntry s = some j → placeLpddr s (leNat p 5 1) (leNat p 8 8) = some a →
        answersWith (.moCreate m) m s 0 (toLE 4 ((BitVec.ofNat 32 (j + 65536 * (getMot s j).gen.toNat) : W32)).toNat ++ toLE 8 a)
          (zeroMem a (leNat p 8 8) (setMot u j
              { gen := (getMot s j).gen, base := a, size := leNat p 8 8 / 256, perm := (byteAt p 2).truncate 4, kind := 1, owner := BitVec.ofNat 16 (leNat p 0 2),
                creator := BitVec.ofNat 8 ((getCtx s c).node + 4 * (getCtx s c).mailbox), place := 0 })))
    ∧ (asked 0x0104 m s = true → e.kind ≠ 0 → e.gen.toNat = field (le32 p 0) 31 16 → act →
        (e.kind ≠ 5 → e.refs = 0 → bitOf e.lock 0 = false →
          answersWith (.moDestroy m) m s 0 [] (setMot u i { gen := if e.gen = 0xFFFF then 1 else e.gen + 1 }))
        ∧ (e.refs ≠ 0 → answersWith (.moDestroy m) m s 0x2004 [] u)
        ∧ (e.refs = 0 → e.kind = 5 ∨ bitOf e.lock 0 = true → answersWith (.moDestroy m) m s 0x4002 [] u))
    ∧ (asked 0x0105 m s = true → leNat p 4 1 ≤ 1 → e.kind ≠ 0 → e.gen.toNat = field (le32 p 0) 31 16 → act →
        (bitOf e.lock 1 = false → ∃ l, answersWith (.moLock m) m s 0 [] (setMot u i { e with lock := l })
          ∧ bitOf l 0 = (leNat p 4 1 == 1) ∧ (∀ k, k ≠ 0 → bitOf l k = bitOf e.lock k))
        ∧ (bitOf e.lock 1 = true → answersWith (.moLock m) m s 0x4001 [] u))

/-- QUEUE_CREATE and QUEUE_DESTROY. Rests on R54, R68, R80, R85, R88. -/
def Obligations.QueueCommands : Prop :=
  ∀ (m : Nat) (s : State),
    let p := (reqOf s m).p
    let u := taken s m
    let i := field (le32 p 4) 15 0
    let j := field (le32 p 8) 15 0
    let e := getMot s i
    let g := getMot s j
    let q0 := leNat p 0 2
    let x := getQueue s q0
    (asked 0x0106 m s = true → leNat p 2 1 ≤ 3 → 4 ≤ leNat p 3 1 → leNat p 3 1 ≤ 12 → maskBad (leNat p 2 1) (le64 p 12) = false →
        ∀ c, localCtx s (leNat p 0 2) = some c → (m = 0 ∨ madeBy s m (getCtx s c) = true) → inReset (getCtx s c) = false →
        (e.kind = 1 ∨ e.kind = 3) → e.gen.toNat = field (le32 p 4) 31 16 → e.place ≠ 1 → bitOf e.perm 0 = true → 256 * e.size = 64 * 2 ^ leNat p 3 1 →
        g.kind = 2 → g.gen.toNat = field (le32 p 8) 31 16 → e.owner.toNat = leNat p 0 2 → g.owner.toNat = leNat p 0 2 →
        ∀ q, q < 1024 → (getQueue s q).live = false → (∀ k, k < q → (getQueue s k).live = true) →
        answersWith (.queueCreate m) m s 0 (toLE 2 q ++ toLE 8 (swarmAddr s.swarm.node 5 (0x01001000000 + 0x1000 * q)))
          (setQueue (setMot u i { e with kind := 3, refs := satAdd e.refs 1 }) q
            { live := true, ctx := BitVec.ofNat 16 (leNat p 0 2), target := leNat p 2 1, log2 := leNat p 3 1, ring := le32 p 4, fence := le32 p 8,
              creator := m, unitMask := le64 p 12, fenceBase := if bitOf (fenceWord s j) 63 then g.shadow else (fenceWord s j).toNat,
              blocked := bitOf (fenceWord s j) 63 }))
    ∧ (askedLong 0x0107 m s = true → leNat p 2 1 ≤ 1 → q0 < 1024 → x.live = true → x.state ≠ .draining →
        ∀ c, localCtx s x.ctx.toNat = some c → (m = 0 ∨ madeBy s m (getCtx s c) = true) → inReset (getCtx s c) = false →
        (∀ d ∈ x.inflight, d.failed = none) → x.inflight ≠ [] →
        answersWith (.queueDestroy m) m s 1 [] { acceptedState s m with
          obj := (setQueue (setQueue s q0 { x with
              state := .draining, stopped := x.state == .halted || leNat p 2 1 == 1, destroy := some (refOf s m, leNat p 2 1 == 1 && !(x.state == .halted)) })
            q0 { x with
              state := .draining, stopped := x.state == .halted || leNat p 2 1 == 1,
              destroy := some (refOf s m, leNat p 2 1 == 1 && !(x.state == .halted)) }).obj })

/-- FENCE_CREATE, FENCE_RECYCLE and MONITOR_ALLOC. Rests on R54, R67, R73, R89, R94. -/
def Obligations.FenceAndMonitorCommands : Prop :=
  ∀ (m : Nat) (s : State),
    let p := (reqOf s m).p
    let u := taken s m
    let i := field (le32 p 0) 15 0
    let e := getMot s i
    let w := fenceWord s i
    (asked 0x0108 m s = true → leNat p 8 8 < 2 ^ 63 →
        ∀ c, localCtx s (leNat p 0 2) = some c → (m = 0 ∨ madeBy s m (getCtx s c) = true) → inReset (getCtx s c) = false → ∀ j, freeEntry s = some j →
        answersWith (.fenceCreate m) m s 0 (toLE 4 ((BitVec.ofNat 32 (j + 65536 * (getMot s j).gen.toNat) : W32)).toNat ++ toLE 8 (fenceAddr s j))
          (setFence (setMot u j { gen := (getMot s j).gen, base := fenceAddr s j, perm := 0xD, kind := 2, lock := 2, owner := BitVec.ofNat 16 (leNat p 0 2),
                                  creator := BitVec.ofNat 8 ((getCtx s c).node + 4 * (getCtx s c).mailbox), place := 2 }) j (BitVec.ofNat 64 (leNat p 8 8))))
    ∧ (asked 0x0109 m s = true → leNat p 8 8 < 2 ^ 63 → e.kind = 2 → e.gen.toNat = field (le32 p 0) 31 16 → (m = 0 ∨ field e.creator 1 0 = s.swarm.node ∧ field e.creator 6 2 = m) →
        (localCtx s e.owner.toNat).any (fun c => inReset (getCtx s c)) = false → bitOf w 63 = true → e.shadow < leNat p 8 8 →
        ∃ t, answersWith (.fenceRecycle m) m s 0 [] { u with obj := t }
          ∧ fenceWord { u with obj := t } i = BitVec.ofNat 64 (leNat p 8 8) ∧ (∀ k, k ≠ i → fenceWord { u with obj := t } k = fenceWord s k)
          ∧ (∃ l, getMot { u with obj := t } i = { e with lock := l, signalled := 0, shadow := 0 } ∧ bitOf l 2 = false ∧ bitOf l 3 = false ∧ bitOf l 1 = bitOf e.lock 1)
          ∧ t.ctxs = s.obj.ctxs ∧ t.slots = s.obj.slots ∧ t.signals = s.obj.signals)
    ∧ (asked 0x010A m s = true → ∀ c n k, localCtx s (leNat p 0 2) = some c → (m = 0 ∨ madeBy s m (getCtx s c) = true) → inReset (getCtx s c) = false →
        leNat p 2 2 = n → 1 ≤ n → n ≤ 4096 → freeSlotRun s n = some k →
        ∃ t, answersWith (.monitorAlloc m) m s 0 (toLE 2 k) { u with obj := { s.obj with slots := t } }
          ∧ ∀ j, Tbl.get {} t j = (if k ≤ j ∧ j < k + n then { ctx := some (BitVec.ofNat 16 (leNat p 0 2)) } else getSlot s j))

/-- JOB_LOAD makes a job image, its digest goes to the destination, and CMD_DONE reports it. Rests on R28, R43, R54, R132, R323. -/
def Obligations.JobLoadCommand : Prop :=
  ∀ (m : Nat) (s : State),
    let p := (reqOf s m).p
    let n := leNat p 8 8
    let i := field (le32 p 4) 15 0
    let j := field (le32 p 16) 15 0
    let e := getMot s i
    let g := getMot s j
    let w := acceptedState s m
    let b := memRead w e.base n
    let die := if e.place = 0 then addrDie e.base else 0
    askedLong 0x010B m s = true → 264 ≤ n → n ≤ 256 + 8 * 2 ^ 20 →
    ∀ c, localCtx s (leNat p 0 2) = some c → (m = 0 ∨ madeBy s m (getCtx s c) = true) → inReset (getCtx s c) = false →
    e.kind = 1 → bitOf e.perm 0 = true → e.gen.toNat = field (le32 p 4) 31 16 → n ≤ 256 * e.size → g.kind = 1 → g.gen.toNat = field (le32 p 16) 31 16 → bitOf g.perm 1 = true → bitOf g.lock 0 = false →
    e.owner.toNat = leNat p 0 2 → (m = 0 ∨ field g.creator 1 0 = s.swarm.node ∧ field g.creator 6 2 = m) →
    ∀ (f a : Nat), freeEntry s = some f → placeLpddr s die (256 * ((n + 255) / 256)) = some a →
    reachCheck (taken s m) .keeper e.base n = 0 → reachCheck (taken s m) .keeper g.base 48 = 0 → checksOk w e.base n = true →
    ((imageCount (b.take 256) n).isSome = true →
      ∃ v, answersWith (.jobLoad m) m s 1 [] v
        ∧ getMot v f = { gen := (getMot s f).gen, base := a, size := (n + 255) / 256, perm := 5, kind := 4, lock := 2, owner := BitVec.ofNat 16 (leNat p 0 2),
                         creator := BitVec.ofNat 8 ((getCtx s c).node + 4 * (getCtx s c).mailbox), imageBytes := n }
        ∧ (∀ k, k ≠ f → getMot v k = getMot s k) ∧ v.mem = (memWrite (memWrite (zeroMem a (256 * ((n + 255) / 256)) w) a b) g.base
            (slice (Sys2Proof.Config.sha384 b) 0 48)).mem
        ∧ v.cmp = s.cmp ∧ v.net = s.net ∧ v.faults = s.faults
        ∧ { opcode := (reqOf s m).opcode, tag := (reqOf s m).tag,
            result := some { status := 0, time := s.swarm.time, extra := slice (Sys2Proof.Config.sha384 b) 0 8 } } ∈ (getMbx v m).accepted)
    ∧ (imageCount (b.take 256) n = none →
        answersWith (.jobLoad m) m s 1 [] (finishCmd (refOf s m) 0x2001 [] w))

/-- Scalar arithmetic, logic, shifts, immediates: result, PC, and nothing else changed. Rests on R136, R137, R138. -/
def Obligations.ScalarOperations : Prop :=
  ∀ (die cell : Nat) (s : State),
    let u := unitOf s die cell
    let a := u.x.sreg u.i.a
    let b := u.x.sreg u.i.b
    let gives := fun (i : Instr) (v : W64) => ∃ t x, exec i s = .next t ∧ cellWent s t die cell x ∧ x = { u.x with s := x.s }
      ∧ ∀ k, x.sreg k = if k = 0 then 0 else if k = u.i.d then v else u.x.sreg k
    (ready 0x12 usesAlu die cell s = true → gives (.add die cell) (a + b))
    ∧ (ready 0x13 usesAlu die cell s = true → gives (.sub die cell) (a - b))
    ∧ (ready 0x14 usesAlu die cell s = true → gives (.andInstr die cell) (a &&& b))
    ∧ (ready 0x15 usesAlu die cell s = true → gives (.orInstr die cell) (a ||| b))
    ∧ (ready 0x16 usesAlu die cell s = true → gives (.xorInstr die cell) (a ^^^ b))
    ∧ (ready 0x17 usesAlu die cell s = true → gives (.shl die cell) (a <<< (b.toNat % 64)))
    ∧ (ready 0x18 usesAlu die cell s = true → gives (.shr die cell) (a >>> (b.toNat % 64)))
    ∧ (ready 0x19 usesAlu die cell s = true → gives (.sra die cell) (a.sshiftRight (b.toNat % 64)))
    ∧ (ready 0x1A usesAlu die cell s = true → gives (.mul die cell) (a * b))
    ∧ (ready 0x1B { d := true, a := true, imm := 32 } die cell s = true → gives (.addi die cell) (a + (BitVec.ofNat 32 u.i.imm).signExtend 64))
    ∧ (ready 0x10 { d := true, imm := 32 } die cell s = true → gives (.li die cell) ((BitVec.ofNat 32 u.i.imm).signExtend 64))
    ∧ (ready 0x11 { d := true, imm := 32 } die cell s = true →
        gives (.lih die cell) (BitVec.ofNat 64 (2 ^ 32 * u.i.imm + (u.x.sreg u.i.d).toNat % 2 ^ 32)))

/-- NOP, END, JMP, BR, SYS, LDA and SETNUM of a cell program. Rests on R134, R136, R138. -/
def Obligations.ControlInstructions : Prop :=
  ∀ (die cell : Nat) (s : State),
    let u := unitOf s die cell
    let a := u.x.sreg u.i.a
    let b := u.x.sreg u.i.b
    let goes := fun (i : Instr) (x : Cell) (pc : BitVec 20) => ∃ t, exec i s = .next t ∧ cellMoved s t die cell x pc false
    let steps := fun (i : Instr) (x : Cell) => ∃ t, exec i s = .next t ∧ cellWent s t die cell x
    let holds := (u.i.c = 0 ∧ a = b) ∨ (u.i.c = 1 ∧ a ≠ b) ∨ (u.i.c = 2 ∧ a.toInt < b.toInt) ∨ (u.i.c = 3 ∧ b.toInt ≤ a.toInt)
      ∨ (u.i.c = 4 ∧ a.toNat < b.toNat) ∨ (u.i.c = 5 ∧ b.toNat ≤ a.toNat)
    (ready 0x00 {} die cell s = true → steps (.nopInstr die cell) u.x)
    ∧ (ready 0x02 { imm := 32 } die cell s = true → u.i.imm < u.j.words → u.x.wait = none → goes (.jmp die cell) u.x (BitVec.ofNat 20 u.i.imm))
    ∧ (ready 0x03 { a := true, b := true, c := true, imm := 32 } die cell s = true → u.i.imm < u.j.words → u.i.c ≤ 5 → u.x.wait = none →
        (holds → goes (.br die cell) u.x (BitVec.ofNat 20 u.i.imm)) ∧ (¬ holds → steps (.br die cell) u.x))
    ∧ (ready 0x04 { d := true, imm := 32 } die cell s = true → u.i.imm ≤ 5 →
        ∃ v, steps (.sys die cell) (u.x.setS u.i.d v)
          ∧ (u.i.imm = 0 → v = BitVec.ofNat 64 u.j.item) ∧ (u.i.imm = 1 → v = BitVec.ofNat 64 u.j.items)
          ∧ (u.i.imm = 2 → v = BitVec.ofNat 64 (128 * s.swarm.node + 32 * die + cell)) ∧ (u.i.imm = 3 → v = BitVec.ofNat 64 u.j.n)
          ∧ (u.i.imm = 4 → v = BitVec.ofNat 64 u.j.position) ∧ (u.i.imm = 5 → v = s.swarm.time))
    ∧ (ready 0x1C { d := true, imm := 32 } die cell s = true → u.i.imm % 8 = 0 → u.i.imm < 256 →
        steps (.lda die cell) (u.x.setS u.i.d (BitVec.ofNat 64 (leNat ((upFrom u.i.imm 8).map (Tbl.get 0 u.x.args)) 0 8))))
    ∧ (ready 0x40 { imm := 16 } die cell s = true → numctlOk (BitVec.ofNat 16 u.i.imm) = true →
        steps (.setnum die cell) { u.x with numctl := BitVec.ofNat 16 u.i.imm })
    ∧ (ready 0x01 {} die cell s = true → u.x.dma = [] →
        ∃ t, exec (.endItem die cell) s = .next t ∧ t = { setCell s die cell (getCell t die cell) with free := s.free + 1 }
          ∧ (getCell t die cell).itemsDone = u.x.itemsDone + 1
          ∧ (if u.j.item + u.j.n < u.j.items then (getCell t die cell).state = .running ∧ (getCell t die cell).item = BitVec.ofNat 16 (u.j.item + u.j.n)
              ∧ (getCell t die cell).pc = BitVec.ofNat 20 u.j.entry ∧ (getCell t die cell).sreg 1 = BitVec.ofNat 64 (u.j.item + u.j.n)
              ∧ (getCell t die cell).sreg 2 = BitVec.ofNat 64 u.j.items
            else (getCell t die cell).state = .idle ∧ (getCell t die cell).job = none))

/-- Loads and stores of a cell in its own store, in every width and format. Rests on R138, R140, R141. -/
def Obligations.StoreAccesses : Prop :=
  ∀ (die cell : Nat) (s : State),
    let u := unitOf s die cell
    let ai := (u.x.sreg u.i.a + (BitVec.ofNat 32 u.i.imm).signExtend 64).toNat
    let ra := (u.x.sreg u.i.a).toNat
    let base := cellStore s die cell
    let loads := fun (i : Instr) (x : Cell) => ∃ t, exec i s = .next t ∧ cellWent s t die cell x
    let stores := fun (i : Instr) (off : Nat) (l : Bytes) (x : Cell) => ∃ t, exec i s = .next t ∧ cellWent (memWrite s (base + off) l) t die cell x
      ∧ ∀ k, ¬ (base + off ≤ k ∧ k < base + off + l.length) → addrNode k = s.swarm.node → memByte t k = memByte s k
    let k := u.i.imm % 16
    let conv := fun (x : W32) => if k = 0 then ({ code := x.toNat } : Rounded)
      else convertTo k (u.i.imm / 16 % 2 == 1) (u.i.imm / 32 % 2 == 1) (f32 x)
    let r := (u.x.vreg u.i.b).map conv
    (ready 0x1D { d := true, a := true, imm := 32 } die cell s = true → ownOk u ai 8 8 false s = true →
      loads (.lds die cell) (u.x.setS u.i.d (le64 (memRead s (base + ai) 8) 0)))
    ∧ (ready 0x20 { d := true, a := true, imm := 32 } die cell s = true → ownOk u ai 128 128 false s = true →
      loads (.vld die cell) (u.x.setV u.i.d ((upFrom 0 32).map (fun i => le32 (memRead s (base + ai) 128) (4 * i)))))
    ∧ (ready 0x22 { d := true, a := true, imm := 4 } die cell s = true → u.i.imm ≤ 6 →
      ownOk u ra (elemBytes u.i.imm 32) (elemBytes u.i.imm 32) false s = true →
      loads (.vldn die cell) (u.x.setV u.i.d ((upFrom 0 32).map (fun i => widen u.i.imm (elemAt u.i.imm (memRead s (base + ra) (elemBytes u.i.imm 32)) i)))))
    ∧ (ready 0x1E { a := true, b := true, imm := 32 } die cell s = true → ownOk u ai 8 8 true s = true →
      stores (.sts die cell) ai (toLE 8 (u.x.sreg u.i.b).toNat) u.x)
    ∧ (ready 0x21 { a := true, b := true, imm := 32 } die cell s = true → ownOk u ai (lanesLE (u.x.vreg u.i.b)).length 128 true s = true →
      stores (.vst die cell) ai (lanesLE (u.x.vreg u.i.b)) u.x)
    ∧ (ready 0x23 { a := true, b := true, imm := 6 } die cell s = true → k ≤ 6 →
      ownOk u ra (packElems k (r.map (·.code))).length (elemBytes k 32) true s = true →
      stores (.vstn die cell) ra (packElems k (r.map (·.code)))
        { u.x with invalid := u.x.invalid || r.any (·.invalid), overflow := u.x.overflow || r.any (·.overflow) })

/-- Lane-wise vector operations, VBCAST and VRSUM. Rests on R112, R126, R138, R146, R147. -/
def Obligations.VectorOperations : Prop :=
  ∀ (die cell : Nat) (s : State),
    let u := unitOf s die cell
    let rnd := rndOf u.x.numctl
    let va := u.x.vreg u.i.a
    let vb := u.x.vreg u.i.b
    let vc := u.x.vreg u.i.c
    let gives := fun (i : Instr) (l : List W32) (inv ovf trunc : Bool) => ∃ t x, exec i s = .next t ∧ cellWent s t die cell x
      ∧ x = { u.x with v := x.v, invalid := u.x.invalid || inv, overflow := u.x.overflow || ovf, truncated := u.x.truncated || trunc }
      ∧ ∀ k, x.vreg k = if k = u.i.d then l else u.x.vreg k
    let rounds := fun (i : Instr) (l : List Rounded) =>
      gives i (l.map (fun r => BitVec.ofNat 32 r.code)) (l.any (·.invalid)) (l.any (·.overflow)) false
    (ready 0x24 usesAlu die cell s = true → rounds (.vadd die cell) ((va.zip vb).map (fun e => laneAdd rnd e.1 e.2)))
    ∧ (ready 0x25 usesAlu die cell s = true → rounds (.vsub die cell) ((va.zip vb).map (fun e => laneSub rnd e.1 e.2)))
    ∧ (ready 0x26 usesAlu die cell s = true → rounds (.vmul die cell) ((va.zip vb).map (fun e => laneMul rnd e.1 e.2)))
    ∧ (ready 0x27 { d := true, a := true, b := true, c := true } die cell s = true →
        rounds (.vfma die cell) ((va.zip (vb.zip vc)).map (fun e => laneFma rnd e.1 e.2.1 e.2.2)))
    ∧ (ready 0x28 usesAlu die cell s = true → rounds (.vdiv die cell) ((va.zip vb).map (fun e => laneDiv rnd e.1 e.2)))
    ∧ (ready 0x29 uses1 die cell s = true → rounds (.vsqrt die cell) (va.map (laneSqrt rnd)))
    ∧ (ready 0x2A usesAlu die cell s = true → rounds (.vmin die cell) ((va.zip vb).map (fun e => laneMinMax false e.1 e.2)))
    ∧ (ready 0x2B usesAlu die cell s = true → rounds (.vmax die cell) ((va.zip vb).map (fun e => laneMinMax true e.1 e.2)))
    ∧ (ready 0x2C uses1 die cell s = true → rounds (.vexp2 die cell) (va.map (laneExp2 rnd)))
    ∧ (ready 0x2D uses1 die cell s = true → rounds (.vlog2 die cell) (va.map (laneLog2 rnd)))
    ∧ (ready 0x2E uses1 die cell s = true → rounds (.vrcp die cell) (va.map (laneRcp rnd)))
    ∧ (ready 0x2F uses1 die cell s = true → rounds (.vrsqrt die cell) (va.map (laneRsqrt rnd)))
    ∧ (ready 0x30 uses1 die cell s = true → rounds (.vtanh die cell) (va.map (laneTanh rnd)))
    ∧ (ready 0x31 uses1 die cell s = true →
        gives (.vbcast die cell) (List.replicate 32 (BitVec.ofNat 32 (u.x.sreg u.i.a).toNat)) false false false)
    ∧ (ready 0x32 uses1 die cell s = true →
        gives (.vrsum die cell) (BitVec.ofNat 32 (laneSum rnd va).1.code :: List.replicate 31 0) (laneSum rnd va).1.invalid (laneSum rnd va).1.overflow
          (laneSum rnd va).2)

/-- AMAX, MMA, ACLR, ACCADD and LDANC on an accumulator tile; STACC, STANC and FIN into the store. Rests on R142, R143, R144, R145,
R506. -/
def Obligations.AccumulatorInstructions : Prop :=
  ∀ (die cell : Nat) (s : State),
    let u := unitOf s die cell
    let d := u.i.d
    let old := fun (k : Nat) => (Tbl.get {} u.x.acc k : AccEntry)
    let n := numctl u.x.numctl
    let k := u.i.imm
    let base := cellStore s die cell
    let ra := (u.x.sreg u.i.a).toNat
    let rb := (u.x.sreg u.i.b).toNat
    let kk := k % 65536
    let block := k / 65536 % 2 = 1
    let sc := (u.x.sreg u.i.c).toNat
    let a := memRead s (base + ra) (elemBytes n.a (64 * kk))
    let b := memRead s (base + rb) (elemBytes n.b (64 * kk))
    let scales := if block then some (memRead s (base + sc % 2 ^ 32) (2 * kk), memRead s (base + sc / 2 ^ 32) (2 * kk)) else none
    let panels := kk ≠ 0 ∧ ownOk u ra (elemBytes n.a (64 * kk)) 64 false s = true ∧ ownOk u rb (elemBytes n.b (64 * kk)) 64 false s = true
      ∧ (block → kk % 32 = 0 ∧ blocksOk u.x.numctl = true ∧ ownOk u (sc % 2 ^ 32) (2 * kk) 64 false s = true
          ∧ ownOk u (sc / 2 ^ 32) (2 * kk) 64 false s = true)
    let part := memRead s (base + ra) 131072
    let anch := memRead s (base + ra) 8192
    let tiles := fun (i : Instr) (f : Nat → AccEntry → Option AccEntry) => (∀ e, e < 4096 → (f e (old (4096 * d + e))).isSome = true) →
      ∃ t x, exec i s = .next t ∧ cellWent s t die cell x ∧ x = { u.x with acc := x.acc }
        ∧ (∀ e, e < 4096 → some (Tbl.get {} x.acc (4096 * d + e)) = f e (old (4096 * d + e)))
        ∧ ∀ j, (j < 4096 * d ∨ 4096 * d + 4096 ≤ j) → Tbl.get {} x.acc j = old j
    let stores := fun (i : Instr) (l : Bytes) (x : Cell) => ownOk u ra l.length 256 true s = true →
      ∃ t, exec i s = .next t ∧ cellWent (memWrite s (base + ra) l) t die cell x
        ∧ ∀ j, ¬ (base + ra ≤ j ∧ j < base + ra + l.length) → addrNode j = s.swarm.node → memByte t j = memByte s j
    let es := tileEntries u.x d
    let sa : W32 := BitVec.ofNat 32 (u.x.sreg u.i.b).toNat
    let sb : W32 := BitVec.ofNat 32 ((u.x.sreg u.i.b).toNat / 2 ^ 32)
    let addends := memRead s (base + sc) 16384
    let outs := ((upFrom 0 4096).zip es).map (fun e => finishEntry n sa sb (if k = 1 then some (le32 addends (4 * e.1)) else none) e.2)
    d ≤ 3 →
    (ready 0x42 usesMma die cell s = true → panels →
      tiles (.mma die cell) (fun i e => mmaEntry (directGroup n (decide block)) (entryTerms n 64 kk a b scales (i / 64) (i % 64)) e))
    ∧ (ready 0x41 usesMma die cell s = true → panels →
      tiles (.amax die cell) (fun i e => amaxEntry (entryTerms n 64 kk a b scales (i / 64) (i % 64)) e))
    ∧ (ready 0x43 { d := true } die cell s = true →
      ∃ t x, exec (.aclr die cell) s = .next t ∧ cellWent s t die cell x ∧ x = { u.x with acc := x.acc }
        ∧ ∀ j, Tbl.get {} x.acc j = if j / 4096 = d then {} else old j)
    ∧ (ready 0x45 uses1 die cell s = true → ownOk u ra 131072 256 false s = true → (∀ e, e < 4096 → partialBad (slice part (32 * e) 32) = 0) →
      tiles (.accadd die cell) (fun i e => addEntry e (unpackEntry (slice part (32 * i) 32))))
    ∧ (ready 0x47 { d := true, a := true, imm := 32 } die cell s = true → k ≤ 1 → ownOk u ra 8192 256 false s = true →
      tiles (.ldanc die cell) (fun i e => ldancEntry (k == 1) (le16 anch (2 * i)) e))
    ∧ (ready 0x44 uses1 die cell s = true → stores (.stacc die cell) (es.map packEntry).flatten u.x)
    ∧ (ready 0x46 uses1 die cell s = true → stores (.stanc die cell) (es.map (fun e => toLE 2 (anchorCode e).toNat)).flatten u.x)
    ∧ (ready 0x48 { d := true, a := true, b := true, c := true, imm := 1 } die cell s = true → (n.out = 7 → sa = f32One ∧ sb = f32One) →
      (k = 1 → ownOk u sc 16384 256 false s = true) →
      stores (.fin die cell) (packElems n.out (outs.map (fun r => r.1.code)))
        (u.x.raise (outs.any (fun r => r.1.invalid)) (outs.any (fun r => r.1.overflow)) (outs.any (fun r => r.2))))

/-- GET, PUT and their completion; WAITF, its release and SIGF. Rests on R90, R93, R138, R148, R149, R150. -/
def Obligations.DataMovesAndFences : Prop :=
  ∀ (die cell : Nat) (s : State),
    let u := unitOf s die cell
    let ra := (u.x.sreg u.i.a).toNat
    let rb := (u.x.sreg u.i.b).toNat
    let n := (u.x.sreg u.i.c).toNat
    let x := getCell s die cell
    let base := cellStore s die cell
    let moves := fun (i : Instr) (isGet : Bool) => n % 256 = 0 → 256 ≤ n → n ≤ 0x180000 → rb % 256 = 0 → rb < 2 ^ 48 → u.x.dma.length < 16 →
      u.x.dma.any (·.awaited) = false → ¬ (base ≤ rb ∧ rb < base + 0x180000 ∧ hazard base u.x (rb - base) n (!isGet) = true) →
      ownOk u ra n 256 isGet s = true →
      ∃ t, exec i s = .next t ∧ cellWent s t die cell { u.x with dma := u.x.dma ++ [{ isGet := isGet, loc := ra, addr := rb, bytes := n }] }
    (ready 0x50 usesDma die cell s = true → moves (.get die cell) true)
    ∧ (ready 0x51 usesDma die cell s = true → moves (.put die cell) false)
    ∧ (∀ (i : Nat) (j : CellJob) (d : Dma), cellOk die cell = true → i < 16 → x.job = some j → x.dma[i]? = some d → d.retry = false →
        (localCtx s j.ctx.toNat).any (fun c => !inReset (getCtx s c)) = true →
        windowAt s d.addr d.bytes = none → accessCheck s (.unit j.ctx.toNat true die) d.addr d.bytes (!d.isGet) = 0 →
        (d.isGet = true → checksOk s d.addr d.bytes = true) →
        let own := memRead s (base + d.loc) d.bytes
        let sent := sendPackets (.unit j.ctx.toNat true die) (mkSrc s.swarm.node die 4 cell 0) (!d.isGet) d.addr d.bytes own 0 s
        let moved := if d.isGet then memWrite sent (base + d.loc) (memRead s d.addr d.bytes) else writeMem d.addr own sent
        let left := x.dma.eraseIdx i
        (j.stopped = false →
          ∃ t, exec (.dmaComplete die cell i) s = .next t
            ∧ t = { setCell moved die cell { x with dma := left, state := if x.state = .stalled then .running else x.state } with free := t.free })
        ∧ (j.stopped = true → left ≠ [] →
          ∃ t, exec (.dmaComplete die cell i) s = .next t ∧ t = { setCell moved die cell { x with dma := left } with free := t.free })
        ∧ (j.stopped = true → left = [] →
          ∃ t, exec (.dmaComplete die cell i) s = .next t ∧ t = { setCell moved die cell (stopCell { x with dma := left }) with free := t.free }))
    ∧ (ready 0x52 { d := true, a := true, b := true, imm := 1 } die cell s = true → ra % 8 = 0 → rb < 2 ^ 63 →
        waitCheck s (.unit u.j.ctx.toNat true die) u.j.ctx.toNat ra = 0 →
        ∃ t, exec (.waitf die cell) s = .next t
          ∧ cellWent s t die cell { u.x with wait := some { addr := ra, target := u.x.sreg u.i.b, dest := u.i.d, trap := u.i.imm == 1 } }
          ∧ (getCell t die cell).state = .waiting)
    ∧ (∀ (j : CellJob) (w : CellWait), cellOk die cell = true → x.job = some j → x.wait = some w →
        (localCtx s j.ctx.toNat).any (fun c => !inReset (getCtx s c)) = true → w.target.toNat ≤ (waitWord s w.addr).toNat →
        (w.trap = false ∨ (waitWord s w.addr).toNat < 2 ^ 63) →
        ∃ t, exec (.waitfRelease die cell) s = .next t
          ∧ t = { setCell s die cell { x.setS w.dest (waitWord s w.addr) with wait := none, state := .running } with free := s.free + 1 })
    ∧ (ready 0x53 { a := true, b := true, imm := 1 } die cell s = true → ra % 8 = 0 → u.x.dma = [] →
        ∀ f, fenceIndex s ra = some f → (pathStop s 2 (portOfFence ra (u.i.imm == 1)) 3 die).1 = 0 →
        ∃ t, exec (.sigf die cell) s = .next t
          ∧ t.obj.signals = s.obj.signals ++ [{ fence := f, add := u.i.imm == 1, value := u.x.sreg u.i.b, origin := .cell die cell, ctx := u.j.ctx }]
          ∧ t.obj = { s.obj with signals := t.obj.signals } ∧ t.mem = s.mem ∧ (getCell t die cell).pc = u.x.pc + 1)

/-- REG_READ and REG_WRITE: values, latches, masks, and who may act. Rests on R10, R55, R58, R508, R509. -/
def Obligations.RegisterCommands : Prop :=
  ∀ (m : Nat) (s : State) (q : RegPlace),
    let p := (reqOf s m).p
    let u := taken s m
    let a := leNat p 0 6
    let v := le32 p 8
    let mask := le32 p 12
    zeroIn p 6 8 = true → a % 4 = 0 → addrNode a = s.swarm.node → placeAt a = some q → regReach s q = 0 →
    (asked 0x0201 m s = true → leNat p 8 1 = 1 → mayReadReg s m q = true → q.blk ≠ .fenceSet → q.blk ≠ .fenceAdd →
      (isLow q = false → Tbl.get none s.keeper.latches (a - 4) = none → answersWith (.regRead m) m s 0 (toLE 4 (regWord u q).toNat) u)
      ∧ (isLow q = true → answersWith (.regRead m) m s 0 (toLE 4 (regWord u q).toNat)
          { u with keeper := { u.keeper with latches := Tbl.set none s.keeper.latches a (some (regWord u { q with word := q.word + 1 })) } })
      ∧ (∀ h, isLow q = false → Tbl.get none s.keeper.latches (a - 4) = some h → 0 < q.word → isLow { q with word := q.word - 1 } = true →
          answersWith (.regRead m) m s 0 (toLE 4 h.toNat) { u with keeper := { u.keeper with latches := Tbl.set none s.keeper.latches (a - 4) none } }))
    ∧ (asked 0x0202 m s = true → regClosed q = 0 →
      (mayWriteReg s m q = false → answersWith (.regWrite m) m s 0x4001 [] u)
      ∧ (mayWriteReg s m q = true → mask &&& stagedMask q ≠ 0 → answersWith (.regWrite m) m s 0x1009 [] u)
      ∧ (mayWriteReg s m q = true → mask = 0 → answersWith (.regWrite m) m s 0 [] u)
      ∧ (m = 0 → mask ≠ 0 → q.blk = .vector → q.hole = false →
          let x : W32 := ((Tbl.get 0 s.keeper.vectors q.word &&& ~~~mask) ||| (v &&& mask)) &&& 0xFFF
          answersWith (.regWrite m) m s 0 [] { u with keeper := { u.keeper with vectors := Tbl.set 0 s.keeper.vectors q.word x } }))

/-- REG_STAGE, COMMIT, STAGE_DISCARD and the application of a staged block. Rests on R55, R60, R61, R62, R198, R290. -/
def Obligations.StagedCommit : Prop :=
  (∀ (m : Nat) (s : State),
    let p := (reqOf s m).p
    let u := taken s m
    let a := leNat p 0 6
    let id := leNat p 0 4
    let b := getBlock s id
    (asked 0x0203 m s = true → ∀ q, zeroIn p 6 8 = true → a % 4 = 0 → addrNode a = s.swarm.node → placeAt a = some q → mayWriteReg s m q = true →
      let k := blockOf s q
      let x := getBlock s k
      let mask := le32 p 12 &&& stagedMask q
      let old := fun (w : Nat) => Tbl.get (blockDefault k w) (if x.holder.isNone then x.inForce else x.staging) w
      mask ≠ 0 → dieDown s q.die = false → (x.holder = none ∨ x.holder = some m) → x.pending = none →
      ∃ st, answersWith (.regStage m) m s 0 [] (setBlock u k { x with staging := st, holder := some m })
        ∧ ∀ w, Tbl.get (blockDefault k w) st w = if w = q.word then (old w &&& ~~~mask) ||| (le32 p 8 &&& mask) else old w)
    ∧ (askedLong 0x0204 m s = true → blockKind id = some .policy → m = 0 → id % 256 = s.swarm.node → b.holder = some m → b.pending = none →
      le16 p 4 = b.gen + 1 → kpolOk (stagingGet s id) = true →
      answersWith (.commit m) m s 1 [] (setBlock (acceptedState s m) id { b with pending := some (refOf s m) }))
    ∧ (asked 0x0204 m s = true → blockKind id = some .policy → m = 0 → id % 256 = s.swarm.node → b.holder = some m → b.pending = none →
      le16 p 4 ≠ b.gen + 1 → answersWith (.commit m) m s 0x2003 [] u)
    ∧ (asked 0x0205 m s = true → ∀ k, blockKind id = some k → mayBlock s m k = true → id % 256 = s.swarm.node → (b.holder = none ∨ b.holder = some m) →
      b.pending = none → answersWith (.stageDiscard m) m s 0 [] (setBlock u id { b with staging := [], holder := none })))
  ∧ (∀ (id : W32) (s : State) (c : CmdRef), (getBlock s (kpolId s)).pending = some c → (getBlock s (kpolId s)).orphan = false → (getBlock s (kpolId s)).applied = false → id.toNat = kpolId s →
      let b := getBlock s (kpolId s)
      exec (.commitApply id) s = .next { finishCmd c 0 (toLE 2 (b.gen + 1).toNat) (setBlock s (kpolId s) { b with inForce := b.staging, gen := b.gen + 1, applied := true }) with
        free := s.free + 1 })
  ∧ (∀ (die : Nat) (s : State) (c : CmdRef), die < 6 → s.net.switching = some die → drained s die = true →
      (getBlock s (routeId s die)).pending = some c → (getBlock s (routeId s die)).orphan = false → (getBlock s (routeId s die)).applied = false →
      let b := getBlock s (routeId s die)
      let done := finishCmd c 0 (toLE 2 (b.gen + 1).toNat)
        (setBlock s (routeId s die) { b with inForce := b.staging, gen := b.gen + 1, applied := true })
      ∃ t, exec (.routeSwitchDrainEnd die) s = .next t
        ∧ (s.net.held = [] → (∀ p, p < 6 → (getSlink s p).ingress = []) → (∀ y ∈ s.net.waiting.head?, y < 8) →
            t.keeper = done.keeper ∧ t.net = { s.net with switching := s.net.waiting.head?, waiting := s.net.waiting.tail }
            ∧ (∀ p, getSlink t p = getSlink s p) ∧ t.mem = s.mem ∧ t.obj = s.obj ∧ t.cmp = s.cmp))
  ∧ (∀ (die : Nat) (s : State), die < 6 → drained s die = false → (∀ p, p < 6 → (getSlink s p).ingress = []) →
      ∃ t, exec (.routeSwitchDrainEnd die) s = .next t ∧ t.net = s.net ∧ t.keeper = s.keeper ∧ t.mem = s.mem)

/-- Register writes that bind a region, set or clear an ingest enable, and enable a relay or a pattern generator. Rests on R236,
R254, R259, R494, R500, R508. -/
def Obligations.EnablingWrites : Prop :=
  ∀ (s : State) (q : RegPlace),
    let p := (reqOf s 0).p
    let u := taken s 0
    let mask := le32 p 12
    let v := (regWord u q &&& ~~~mask) ||| (le32 p 8 &&& mask)
    asked 0x0202 0 s = true → zeroIn p 6 8 = true → leNat p 0 6 % 4 = 0 → addrNode (leNat p 0 6) = s.swarm.node → placeAt (leNat p 0 6) = some q →
    regReach s q = 0 → mask ≠ 0 → q.word = 0 → q.hole = false →
    (q.blk = .region → answersWith (.regionBindWrite 0) 0 s 0 []
      (setRegion u q.inst { getRegion s q.inst with bindContext := BitVec.ofNat 10 v.toNat, bindValid := bitOf v 10 }))
    ∧ (q.blk = .ing → bitOf mask 0 = true → bitOf (le32 p 8) 0 = true → (getChan s q.inst).enable = false →
        let y := { getChan s q.inst with toRegion := bitOf v 1, region := BitVec.ofNat 3 (field v 4 2), vc := BitVec.ofNat 4 (field v 8 5) }
        (ingestCheck u q.inst y = 0 → answersWith (.ingestEnable 0) 0 s 0 [] (setChan u q.inst { y with enable := true }))
        ∧ (ingestCheck u q.inst y ≠ 0 → answersWith (.ingestEnable 0) 0 s (ingestCheck u q.inst y) [] u))
    ∧ (q.blk = .ing → bitOf mask 0 = true → bitOf (le32 p 8) 0 = false → (getChan s q.inst).enable = true → (getChan s q.inst).buffer = none →
        (getChan s q.inst).streaming = false →
        answersWith (.ingestDisable 0) 0 s 0 [] (setChan u q.inst { getChan s q.inst with enable := false, discarding := false, streaming := false }))
    ∧ (q.blk = .hlink → bitOf mask 10 = true → bitOf (le32 p 8) 10 = true → (getRelay s q.inst).enable = false →
        let y := { getRelay s q.inst with context := BitVec.ofNat 10 (field v 9 0), count := BitVec.ofNat 8 (field v 18 11) }
        (relayCheck u y = 0 → (y.txHead = y.txTail ∨ (getEnd s false q.inst).up = false) →
          answersWith (.relayEnable 0) 0 s 0 [] (setRelay u q.inst { y with enable := true }))
        ∧ (relayCheck u y ≠ 0 → answersWith (.relayEnable 0) 0 s (relayCheck u y) [] u))
    ∧ (q.blk = .pat → bitOf mask 0 = true → bitOf (le32 p 8) 0 = true → (getPat s q.die q.inst).enable = false →
        let x := getPat s q.die q.inst
        (patIdle u q.die q.inst = true → ∃ y, answersWith (.patternEnable 0) 0 s 0 [] (setPat u q.die q.inst y) ∧ y.enable = true
          ∧ y.pattern.toNat = field v 3 1 ∧ y.invert = bitOf v 4 ∧ y.lanes.toNat = field v 31 16 ∧ y.errors = 0 ∧ y.bits = 0 ∧ y.lockLosses = 0
          ∧ y.locked = false ∧ y.user = x.user)
        ∧ (patIdle u q.die q.inst = false → answersWith (.patternEnable 0) 0 s 0 [] (setPat u q.die q.inst { x with refused := true })))

/-- RELEASED, TX_TAIL and RX_HEAD: the sources of the context move them within what is outstanding. Rests on R78, R254, R255, R494. -/
def Obligations.IndexWrites : Prop :=
  ∀ (src : W32) (v : W32) (s : State),
    let heard := { s with keeper := { s.keeper with rsp := {} } }
    (∀ c, c < 20 →
      let x := getChan s c
      ((localCtx s x.bind.toNat).any (srcOfCtx s src) = true →
        exec (.ingestReleasedWrite src c v) s = .next { setChan heard c (if (v - x.released).toNat ≤ (x.filled - x.released).toNat
          then { x with released := v } else { x with badRelease := true }) with free := s.free + 1 })
      ∧ ((localCtx s x.bind.toNat).any (srcOfCtx s src) = false → ∃ t, exec (.ingestReleasedWrite src c v) s = .next t
          ∧ t.keeper.rsp.status = 0x4001 ∧ t.keeper.violations = satAdd s.keeper.violations 1 ∧ t = { s with keeper := t.keeper, free := s.free + 1 }))
    ∧ (∀ l, l < 4 →
      let x := getRelay s l
      let own := (localCtx s x.context.toNat).any (srcOfCtx s src)
      (own = true → exec (.rxHeadWrite src l v) s = .next { setRelay heard l (if (v - x.rxHead).toNat ≤ (x.rxTail - x.rxHead).toNat
          then { x with rxHead := v } else { x with badIndex := true }) with free := s.free + 1 })
      ∧ (own = true → x.count.toNat < (v - x.txHead).toNat →
          exec (.txTailWrite src l v) s = .next { setRelay heard l { x with badIndex := true } with free := s.free + 1 })
      ∧ (own = true → (v - x.txHead).toNat ≤ x.count.toNat → (x.enable = false ∨ v = x.txHead ∨ (getEnd s false l).up = false) →
          exec (.txTailWrite src l v) s = .next { setRelay heard l { x with txTail := v } with free := s.free + 1 })
      ∧ (own = false → ∀ i, (i = .txTailWrite src l v ∨ i = .rxHeadWrite src l v) → ∃ t, exec i s = .next t
          ∧ t.keeper.rsp.status = 0x4001 ∧ t.keeper.violations = satAdd s.keeper.violations 1 ∧ t = { s with keeper := t.keeper, free := s.free + 1 }))

/-- Direct accesses: memory reads and writes under R74, and register writes that their row takes or refuses. Rests on R66, R74, R78,
R283, R488, R508. -/
def Obligations.DirectAccesses : Prop :=
  ∀ (src : W32) (addr : BitVec 48) (s : State),
    let a := addr.toNat
    let heard := fun (c : W16) (l : Bytes) => { s.keeper with rsp := { status := c, data := l, fail := hostFail src c } }
    let plain := stampsId s src = true ∧ inView src a = true ∧ collWindow s a = none ∧ rangeOf s (addrDie a) (addrLoc a) ≠ .regs ∧ addrNode a = s.swarm.node ∧ ringOf s a = none
      ∧ (∀ k, rangeOf s (addrDie a) (addrLoc a) ≠ .window k)
    (∀ (data : Bytes) (n : Nat), plain → accessCheck s (.src src) a data.length true = 0 → a % 256 = 0 → data.length % 256 = 0 →
      ∃ t, exec (.hostAccess src true addr n data) s = .next t
        ∧ t = { memWrite s a data with keeper := heard 0 [], net := t.net, free := s.free + 1 })
    ∧ (∀ (data : Bytes) (n : Nat), plain → accessCheck s (.src src) a n false = 0 → n ≠ 0 → checksOk s a n = true →
      ∃ t, exec (.hostAccess src false addr n data) s = .next t
        ∧ t = { s with keeper := heard 0 (memRead s a n), net := t.net, free := s.free + 1 })
    ∧ (∀ (data : Bytes) (n : Nat) (wr : Bool), plain → reachCheck s (.src src) a (if wr then data.length else n) = 0 →
      accessCheck s (.src src) a (if wr then data.length else n) wr ≠ 0 →
      ∃ t, exec (.hostAccess src wr addr n data) s = .next t ∧ t.keeper.rsp.status = accessCheck s (.src src) a (if wr then data.length else n) wr
        ∧ t.keeper.rsp.fail = hostFail src t.keeper.rsp.status
        ∧ t.mem = s.mem ∧ t.obj = s.obj ∧ t.cmp = s.cmp)
    ∧ (∀ (v : W32) (q : RegPlace), stampsId s src = true → inView src a = true → registerReach s src a = 0 → addrNode a = s.swarm.node → placeAt a = some q → a % 4 = 0 → q.hole = false →
      (q.blk = .vector → srcUnit src = 3 → srcNode src = s.swarm.node → srcSub src = q.word → exec (.directRegisterWrite src addr v) s
        = .next { s with keeper := { heard 0 [] with vectors := Tbl.set 0 s.keeper.vectors q.word (v &&& 0xFFF) }, free := s.free + 1 })
      ∧ ((q.blk = .mot ∨ q.blk = .dom ∨ q.blk = .flt ∨ q.blk = .kpol ∨ q.blk = .rtr ∨ q.blk = .slink ∨ q.blk = .region) →
        ∃ t, exec (.directRegisterWrite src addr v) s = .next t ∧ t.keeper.rsp.status = 0x4001
          ∧ t.keeper.violations = satAdd s.keeper.violations 1 ∧ t = { s with keeper := t.keeper, free := s.free + 1 })
      ∧ (q.blk = .published → exec (.directRegisterWrite src addr v) s
        = .next { s with keeper := heard 0x4002 [], free := s.free + 1 })
      ∧ (q.blk ≠ .fenceSet → q.blk ≠ .fenceAdd → exec (.directRegisterWrite src addr v) s = .next { asSeen src (directPut src q a v s) with free := s.free + 1 })
      ∧ (∀ (i : Instr), ((q.blk = .mbxBell ∧ i = .mbxDoorbell src v) ∨ (q.blk = .queBell ∧ i = .queueDoorbell src q.inst v)
          ∨ (q.blk = .mbx ∧ ((q.word = 0 ∧ i = .mbxReqTailWrite src q.inst v) ∨ (q.word = 3 ∧ i = .mbxRspHeadWrite src q.inst v)
            ∨ (q.word = 5 ∧ i = .ringReset src q.inst v)))
          ∨ (q.blk = .part ∧ i = .partitionHalted src q.word v) ∨ (q.blk = .coll ∧ q.word = 0 ∧ i = .collAbort src q.die q.inst v)
          ∨ (q.blk = .hlink ∧ ((q.word = 5 ∧ i = .txTailWrite src q.inst v) ∨ (q.word = 8 ∧ i = .rxHeadWrite src q.inst v)))
          ∨ (q.blk = .ing ∧ q.word = 8 ∧ i = .ingestReleasedWrite src q.inst v) ∨ (q.blk = .inbox ∧ q.word = 11 ∧ i = .inboxSubmit src q.inst v)) →
        ∃ t, exec i s = .next t ∧ exec (.directRegisterWrite src addr v) s = .next (asSeen src t)))
    ∧ (∀ (i : Instr), (∃ v, i = .directRegisterWrite src addr v) ∨ (∃ wr n data, i = .hostAccess src wr addr n data) →
      (stampsId s src = false → exec i s = .next { s with free := s.free + 1 })
      ∧ (stampsId s src = true → inView src a = false → exec i s = .next { s with keeper := heard 0x1006 [], free := s.free + 1 }))

/-- QUEUE_DOORBELL and the start of BARRIER, NOP, COPY, KERNEL, SELECT and TILE descriptors. Rests on R78, R81, R82, R83, R84, R133,
R134, R157, R248. -/
def Obligations.DoorbellAndStart : Prop :=
  ∀ (q : Nat) (s : State), q < 1024 →
    let x := getQueue s q
    let b := nextDesc s q
    let heard := { s with keeper := { s.keeper with rsp := {} } }
    let started := fun (typ : Nat) (t : State) (us : List Nat) (ps : Bytes) (c : Compute) => t = { withStarted typ s q us ps with cmp := c, free := s.free + 1 }
    (∀ (src v : W32), x.live = true → mayRing s src x = true → x.state ≠ .halted → x.state ≠ .draining → v ≠ x.submitted →
      ((v - x.retired).toNat ≤ 2 ^ x.log2 ∧ (v - x.submitted).toNat < 2 ^ 31 →
        exec (.queueDoorbell src q v) s = .next { setQueue heard q { x with submitted := v } with free := s.free + 1 })
      ∧ (2 ^ x.log2 < (v - x.retired).toNat → ∃ t, exec (.queueDoorbell src q v) s = .next t ∧ (getQueue t q).state = .halted
          ∧ (getQueue t q).submitted = x.submitted ∧ (getQueue t q).stopped = true
          ∧ ∀ f, resolve s x.fence = some f → bitOf (fenceWord t f) 63 = true))
    ∧ (∀ (src v : W32), (x.live = false ∨ mayRing s src x = false) → ∃ t, exec (.queueDoorbell src q v) s = .next t ∧ t.keeper.rsp.status = 0x4001
        ∧ t.keeper.violations = satAdd s.keeper.violations 1 ∧ t = { s with keeper := t.keeper, free := s.free + 1 })
    ∧ (∀ (typ : Nat) (i : Instr), (typ = 5 ∧ i = .barrier q) ∨ (typ = 6 ∧ i = .nopDescriptor q) → queueReady typ q s = true →
        ∃ t, exec i s = .next t ∧ t = { s with obj := { s.obj with queues := t.obj.queues }, free := s.free + 1 }
          ∧ (∀ k, k ≠ q → getQueue t k = getQueue s k)
          ∧ getQueue t q = { x with
              startedCount := x.startedCount + 1,
              inflight := (x.inflight ++ [startedDesc s q [] []]).map (fun e => if e.num = x.startedCount then { e with finished := true } else e) })
    ∧ (queueReady 2 q s = true → ∃ t, exec (.copy q) s = .next t ∧ started 2 t [] [] s.cmp)
    ∧ (queueReady 1 q s = true → leNat b 48 8 = 0 → ∀ us, gatherUnits 1 x.unitMask s = .go us [] →
        ∃ t, exec (.kernel q) s = .next t ∧ started 1 t us [] { s.cmp with cells := t.cmp.cells }
          ∧ (∀ i u, us[i]? = some u →
              let y := getCell t (u / 32) (u % 32)
              if i < leNat b 56 2 then y.state = .running ∧ y.item = BitVec.ofNat 16 i ∧ y.pc = BitVec.ofNat 20 (leNat b 44 4) ∧ y.numctl = le16 b 58
                ∧ y.sreg 1 = BitVec.ofNat 64 i ∧ y.sreg 2 = BitVec.ofNat 64 (leNat b 56 2) ∧ y.invalid = false ∧ y.overflow = false ∧ y.truncated = false
              else y.state = .idle ∧ y.job = none)
          ∧ ∀ u, u ∉ us → Tbl.get {} t.cmp.cells u = Tbl.get {} s.cmp.cells u)
    ∧ (queueReady 3 q s = true → ∀ us ps, readParams x.ctx.toNat (leNat b 40 8) s = .inl ps → selCheck ps = 0 →
        extentsOk s x.ctx.toNat (selParams ps).extents = true → gatherUnits 3 x.unitMask s = .go us [] →
        ∃ t, exec (.selectDescriptor q) s = .next t ∧ started 3 t us ps { s.cmp with engines := t.cmp.engines }
          ∧ ∀ u, getEngine t u = if u ∈ us then
              { getEngine s u with state := .streaming, context := x.ctx.truncate 10, fill := 0, job := some (q, x.startedCount.toNat) } else getEngine s u)
    ∧ (queueReady 4 q s = true → ∀ us ps, readParams x.ctx.toNat (leNat b 40 8) s = .inl ps → tileCheck b ps = 0 →
        extentsOk s x.ctx.toNat (tileExtents b ps) = true → gatherUnits 4 x.unitMask s = .go us [] →
        ∃ t, exec (.tile q) s = .next t ∧ started 4 t us ps { s.cmp with tiles := t.cmp.tiles }
          ∧ (∀ i u, us[i]? = some u → (getTile t u).itemsDone = (getTile s u).itemsDone ∧ (getTile t u).invalid = false
              ∧ (if i < leNat b 54 2 then (getTile t u).state = (if (tileParams b ps).anchors then .anchoring else .running) ∧ (getTile t u).job = some (q, x.startedCount.toNat) else (getTile t u).state = .idle))
          ∧ ∀ u, u ∉ us → getTile t u = getTile s u)

/-- The end of a descriptor by type, and its retirement with its signals. Rests on R82, R85, R135, R164, R166, R250. -/
def Obligations.FinishAndRetire : Prop :=
  ∀ (q : Nat) (s : State), q < 1024 →
    let x := getQueue s q
    let done := fun (t : State) (e : Desc) => getQueue t q = { x with inflight := x.inflight.map (fun d => if d.num = e.num then { d with finished := true } else d) }
    x.live = true → x.state ≠ .draining → (localCtx s x.ctx.toNat).any (fun c => !inReset (getCtx s c)) = true →
    (∀ (d : W32) (e : Desc), x.inflight.find? (fun e => e.num == d) = some e → e.finished = false →
      (byteAt e.bytes 0 = 2 → (collWindow s (leNat e.bytes 48 8)) = none → addrNode (leNat e.bytes 40 8) = s.swarm.node → addrNode (leNat e.bytes 48 8) = s.swarm.node →
        accessCheck s (.unit x.ctx.toNat false 5) (leNat e.bytes 40 8) (leNat e.bytes 56 8) false = 0 →
        accessCheck s (.unit x.ctx.toNat false 5) (leNat e.bytes 48 8) (leNat e.bytes 56 8) true = 0 →
        checksOk s (leNat e.bytes 40 8) (leNat e.bytes 56 8) = true →
        windowAt s (leNat e.bytes 40 8) (leNat e.bytes 56 8) = none → windowAt s (leNat e.bytes 48 8) (leNat e.bytes 56 8) = none →
        ∃ t, exec (.descriptorFinish q d) s = .next t ∧ done t e
          ∧ t = { memWrite s (leNat e.bytes 48 8) (memRead s (leNat e.bytes 40 8) (leNat e.bytes 56 8)) with
                    obj := { s.obj with queues := t.obj.queues }, net := t.net, free := s.free + 1 })
      ∧ (byteAt e.bytes 0 = 1 → e.failed = none → (∀ u ∈ e.units, (getCell s (u / 32) (u % 32)).job = none) →
        let flag := fun (f : Cell → Bool) => if e.units.any (fun u => f (getCell s (u / 32) (u % 32))) then 1 else 0
        let word := flag (·.invalid) + 2 * flag (·.overflow) + 4 * flag (·.truncated)
        (le32 e.bytes 60 = 0 → ∃ t, exec (.descriptorFinish q d) s = .next t ∧ done t e
          ∧ t = { s with obj := { s.obj with queues := t.obj.queues }, free := s.free + 1 })
        ∧ (∀ i, le32 e.bytes 60 ≠ 0 → resolve s (le32 e.bytes 60) = some i →
            accessCheck s (.unit x.ctx.toNat false 5) (getMot s i).base 8 true = 0 → checksOk s (getMot s i).base 8 = true →
            ∃ t, exec (.descriptorFinish q d) s = .next t ∧ done t e
              ∧ t = { memWrite s (getMot s i).base (toLE 8 word) with obj := { s.obj with queues := t.obj.queues }, free := s.free + 1 }))
      ∧ (byteAt e.bytes 0 = 3 → le32 e.bytes 48 = 0 →
        let p := selParams e.params
        (runAccess s (fun i => .unit x.ctx.toNat true (e.units.getD i 0 / 8)) (p.accesses e.units.length)).1 = 0 →
        ∃ t, exec (.descriptorFinish q d) s = .next t ∧ done t e
          ∧ t.mem = ((upFrom 0 p.rows).foldl (fun t r => writeMem (p.dst + r * p.outStride) (outRow p (rowResult s p e.units.length r).1) t) s).mem
          ∧ ∀ u, u ∈ e.units → (getEngine t u).state = .idle ∧ (getEngine t u).job = none)
      ∧ (byteAt e.bytes 0 = 4 → le32 e.bytes 48 = 0 →
        let p := tileParams e.bytes e.params
        let who := fun (_ : Nat) => Requester.unit x.ctx.toNat true 4
        let l := tileAccesses p e.units.length
        (runAccess s who l).1 = 0 →
        ∀ r, runItems p x.ctx.toNat e.units p.items 0 (sendReads who (fun i => mkSrc s.swarm.node 4 6 (e.units.getD i 0) 0) l s) = .inl r →
        ∃ t, exec (.descriptorFinish q d) s = .next t ∧ t.mem = r.mem ∧ ∀ u, u ∈ e.units → (getTile t u).state = .idle ∧ (getTile t u).job = none))
    ∧ (∀ (e : Desc) (l : List Desc), x.inflight = e :: l → e.finished = true → e.failed = none →
        (bitOf (byteAt e.bytes 1) 1 = true → addrNode (leNat e.bytes 24 8) = s.swarm.node) →
        let own : List Signal := if bitOf (byteAt e.bytes 1) 1 then (fenceIndex s (leNat e.bytes 24 8)).toList.map (fun i =>
          { fence := i, add := leNat e.bytes 4 1 == 1, value := le64 e.bytes 32, origin := .descriptor q e.num, ctx := x.ctx }) else []
        let completion : List Signal := (resolve s x.fence).toList.map (fun i =>
          { fence := i, add := false, value := BitVec.ofNat 64 (x.fenceBase + (x.retired + 1 - x.retiredBase).toNat), origin := .completion q, ctx := x.ctx })
        let u := setQueue s q { x with inflight := l, retired := x.retired + 1 }
        exec (.descriptorRetire q) s = .next { u with obj := { u.obj with signals := s.obj.signals ++ own ++ completion }, free := s.free + 1 })

/-- Fence ports and the fence unit: SET, ADD, overflow, poison and rejection. Rests on R78, R89, R90, R91. -/
def Obligations.FenceSignals : Prop :=
  (∀ (src : W32) (i size : Nat) (v : W64) (s : State), i < 65536 → ∀ (c : Instr) (add : Bool),
      (c = .fenceSetPort src i size v ∧ add = false) ∨ (c = .fenceAddPort src i size v ∧ add = true) →
      (size = 8 → exec c s = .next { s with
        keeper := { s.keeper with rsp := {} },
        obj := { s.obj with signals := s.obj.signals ++ [{ fence := i, add := add, value := v, origin := .port src }] }, free := s.free + 1 })
      ∧ (size ≠ 8 → exec c s = .next { s with keeper := { s.keeper with rsp := { status := 0x100A } }, free := s.free + 1 }))
  ∧ (∀ (s : State) (g : Signal) (l : List Signal), s.obj.signals = g :: l → signalDue s g = true → (getMot s g.fence).kind = 2 →
      let f := g.fence
      let w := fenceWord s f
      let kind := field (getMot s f).lock 3 2
      let y := if g.add then w.toNat + g.value.toNat else max w.toNat g.value.toNat
      (fromFamily s g = true → (∀ q d, g.origin ≠ .descriptor q d) → (∀ q, g.origin ≠ .completion q) → (∀ k tag, g.origin ≠ .region k tag) →
        (bitOf w 63 = true ∨ ((g.add = true → g.value ≠ 0) ∧ (kind = 0 ∨ kind = if g.add then 2 else 1))) →
        ∃ t, exec .fenceSignal s = .next t
          ∧ fenceWord t f = (if bitOf w 63 then w else if y < 2 ^ 63 then BitVec.ofNat 64 y else BitVec.ofNat 64 (2 ^ 63 + 0x1008 * 2 ^ 48 + w.toNat % 2 ^ 48))
          ∧ (∀ k, k ≠ f → fenceWord t k = fenceWord s k ∧ getMot t k = getMot s k) ∧ (getMot t f).base = (getMot s f).base
          ∧ t = { s with obj := { s.obj with signals := l, fences := t.obj.fences, mot := t.obj.mot }, free := s.free + 1 })
      ∧ (∀ src, g.origin = .port src → fromFamily s g = false → ∃ t, exec .fenceSignal s = .next t ∧ t.keeper.rsp.status = 0x4001
          ∧ t.keeper.violations = satAdd s.keeper.violations 1 ∧ t = { s with keeper := t.keeper, obj := { s.obj with signals := l }, free := s.free + 1 })
      ∧ (∀ src, g.origin = .port src → fromFamily s g = true → bitOf w 63 = false → ((g.add = true ∧ g.value = 0) ∨ kind = (if g.add then 1 else 2)) →
          ∃ t, exec .fenceSignal s = .next t ∧ t.keeper.rsp.status = 0x1006
          ∧ t.keeper.violations = satAdd s.keeper.violations 1 ∧ t = { s with keeper := t.keeper, obj := { s.obj with signals := l }, free := s.free + 1 })
      ∧ (∀ k tag, g.origin = .region k tag → fromFamily s g = true → bitOf w 63 = false → ((g.add = true ∧ g.value = 0) ∨ kind = (if g.add then 1 else 2)) →
          exec .fenceSignal s = .next { portAnswered k tag (fun p => { p with status := 0x1006, ready := true }) { s with obj := { s.obj with signals := l } } with
            free := s.free + 1 })
      ∧ (∀ k tag, g.origin = .region k tag → fromFamily s g = true → bitOf w 63 = false → (g.add = true → g.value ≠ 0) →
          (kind = 0 ∨ kind = if g.add then 2 else 1) → y < 2 ^ 63 →
          ∃ t, exec .fenceSignal s = .next t ∧ fenceWord t f = BitVec.ofNat 64 y
            ∧ getRegion t k = getRegion (portAnswered k tag (fun p => { p with ready := true }) s) k ∧ t.mem = s.mem ∧ t.keeper = s.keeper))
  ∧ (∀ (s : State), (∀ g ∈ s.obj.signals, signalDue s g = false) → exec .fenceSignal s = .next { s with free := s.free + 1 })

/-- ARM, DISARM, firing and the evaluation of a slot as its domain closes. Rests on R93, R94, R95, R96, R101. -/
def Obligations.MonitorSlots : Prop :=
  ∀ (k : Nat) (s : State), k < 4096 →
    let x := getSlot s k
    let heard := { s with keeper := { s.keeper with rsp := {} } }
    let w := watchedWord s x
    (∀ (src v : W32) (c : W16), x.ctx = some c → slotAllowed s src k = true → x.state ≠ .armed → bitOf v 18 = false → bitOf v 17 = true →
      let y := { x with vector := v.truncate 16, plain := bitOf v 16 }
      armCheck s c.toNat y = 0 → (watchedWord s y).toNat < y.target.toNat →
      ∃ t, exec (.monitorArm src k v) s = .next t ∧ getSlot t k = { y with state := .armed, seen := watchedWord s y }
        ∧ (∀ j, j ≠ k → getSlot t j = getSlot s j)
        ∧ (∀ i e, objectAt s y.watch.toNat 8 = some (i, e) → getMot t i = { e with refs := satAdd e.refs 1 } ∧ ∀ j, j ≠ i → getMot t j = getMot s j)
        ∧ t = { heard with obj := { s.obj with slots := t.obj.slots, mot := t.obj.mot }, free := s.free + 1 })
    ∧ (∀ (src v : W32), slotAllowed s src k = true → bitOf v 18 = true →
        (x.state ≠ .armed → exec (.monitorDisarm src k v) s
          = .next { setSlot heard k { x with vector := v.truncate 16, plain := bitOf v 16, state := .idle } with free := s.free + 1 })
        ∧ (x.state = .armed → ∃ t, exec (.monitorDisarm src k v) s = .next t ∧ getSlot t k = { x with state := .idle }
            ∧ (∀ i e, objectAt s x.watch.toNat 8 = some (i, e) → getMot t i = { e with refs := e.refs - 1 })
            ∧ t = { heard with obj := { s.obj with slots := t.obj.slots, mot := t.obj.mot }, free := s.free + 1 }))
    ∧ (∀ (src v : W32), slotAllowed s src k = false → ∀ i, (i = .monitorArm src k v ∨ i = .monitorDisarm src k v) → ∃ t, exec i s = .next t
        ∧ t.keeper.rsp.status = 0x4001 ∧ t = { s with keeper := t.keeper, free := s.free + 1 })
    ∧ (x.state = .armed → w.toNat < x.target.toNat → exec (.monitorFire k) s = .next { setSlot s k { x with seen := w } with free := s.free + 1 })
    ∧ (x.state ≠ .armed → exec (.monitorFire k) s = .next { s with free := s.free + 1 })
    ∧ (x.state = .armed → x.target.toNat ≤ w.toNat → ∀ c, x.ctx = some c →
        (x.notify = 0 ∨ accessCheck s (.unit c.toNat false 5) x.notify.toNat 8 true = 0) →
        ∃ t, exec (.monitorFire k) s = .next t ∧ getSlot t k = { x with state := .fired, seen := w }
          ∧ t.mem = (if x.notify = 0 then s else memWrite s x.notify.toNat (toLE 8 w.toNat)).mem
          ∧ (∀ a, irqTarget s c = some a → t.keeper = { s.keeper with irqs := s.keeper.irqs ++ (if x.vector = 0xFFFF then [] else [(a, x.vector.toNat)]) }))
    ∧ (watchesDomain s (domainOf s (addrDie x.watch.toNat) (addrLoc x.watch.toNat)) x = true →
        (getDom s (domainOf s (addrDie x.watch.toNat) (addrLoc x.watch.toNat))).state = .closing →
        domainBusy s (domainOf s (addrDie x.watch.toNat) (addrLoc x.watch.toNat)) = false →
        ∃ t, exec (.monitorClosingEvaluate k) s = .next t
          ∧ (x.target.toNat ≤ w.toNat → (x.notify = 0) → (getSlot t k).state = .fired)
          ∧ (w.toNat < x.target.toNat → (getSlot t k).state = .firedError))

/-- CLAIM, RELEASE, ARM, ABORT and the input window of a collective slot. Rests on R78, R222, R223, R225, R229. -/
def Obligations.CollectiveSlots : Prop :=
  ∀ (src v : W32) (die k : Nat) (s : State), die < 4 → k < 16 →
    let n := 16 * die + k
    let x := getColl s n
    let heard := { s with keeper := { s.keeper with rsp := {} } }
    let op := BitVec.ofNat 4 (field v 20 17)
    reachCheck s (.src src) (collAddr s n) 4 = 0 →
    (x.state = .free → bitOf v 10 = true → srcOwns s src (field v 9 0) = true →
      exec (.collClaim src die k v) s = .next { setColl heard n { x with owner := BitVec.ofNat 10 (field v 9 0), state := .claimed, op := op } with free := s.free + 1 })
    ∧ (x.state ≠ .free → x.state ≠ .armed → srcOwns s src x.owner.toNat = true → bitOf v 11 = true →
      exec (.collRelease src die k v) s = .next { setColl heard n
        { x with op := op, state := .free, input := [], written := [], joined := [], absorbed := [], value0 := [], arrived := none } with free := s.free + 1 })
    ∧ (x.state ≠ .free → x.state ≠ .armed → srcOwns s src x.owner.toNat = true → bitOf v 11 = false → bitOf v 12 = true →
      (∀ e ∈ s.cmp.heldJoins, e.1 ≠ n) → collArmCheck (setColl heard n { x with op := op }) n { x with op := op } = 0 →
      ∃ t, exec (.collArm src die k v) s = .next t
        ∧ getColl t n = { x with
            op := op, state := .armed, arms := x.arms + 1, armedAt := s.keeper.tick, code := 0, missed := 0, input := [], written := [], joined := [],
            absorbed := [], value0 := [], arrived := none }
        ∧ (∀ j, j ≠ n → getColl t j = getColl s j) ∧ t = { heard with cmp := { s.cmp with slots := t.cmp.slots }, free := s.free + 1 })
    ∧ (x.state = .armed → srcOwns s src x.owner.toNat = true → bitOf v 13 = true →
      ∃ t, exec (.collAbort src die k v) s = .next t ∧ (getColl t n).state = .failed ∧ (getColl t n).code = 0x5004
        ∧ (∀ f, liveFence s x.fence.toNat = some f → bitOf (fenceWord t f) 63 = true) ∧ t.mem = s.mem ∧ t.cmp.cells = s.cmp.cells)
    ∧ (x.state ≠ .free → srcOwns s src x.owner.toNat = false → ∀ i,
      (i = .collClaim src die k v ∨ i = .collRelease src die k v ∨ i = .collArm src die k v ∨ i = .collAbort src die k v) →
      ∃ t, exec i s = .next t ∧ t.keeper.rsp.status = 0x4001 ∧ t.keeper.violations = satAdd s.keeper.violations 1 ∧ t = { s with keeper := t.keeper, free := s.free + 1 })
    ∧ (∀ (off : Nat) (data : Bytes), off < 0x1000000 →
      let a := here s die (0x01100000000 + 0x1000000 * k) + off
      reachCheck s (.src src) a data.length = 0 → collInputCheck s (.src src) n a data.length true = 0 →
      (∀ p, off / 256 ≤ p → p < (off + data.length) / 256 → Tbl.get false x.written p = false) →
      ∃ t, exec (.collInputWrite src die k off data) s = .next t
        ∧ (∀ i, i < data.length → Tbl.get 0 (getColl t n).input (off + i) = byteAt data i)
        ∧ (∀ i, (i < off ∨ off + data.length ≤ i) → Tbl.get 0 (getColl t n).input i = Tbl.get 0 x.input i)
        ∧ (∀ p, Tbl.get false (getColl t n).written p = (Tbl.get false x.written p || decide (off / 256 ≤ p ∧ p < (off + data.length) / 256)))
        ∧ (∀ j, j ≠ n → getColl t j = getColl s j) ∧ t.mem = s.mem ∧ t.obj = s.obj ∧ (getColl t n).state = .armed)

/-- Joins, absorption and the result of an armed collective, and what another package reports of members not reached or failed, in the layout of
assumption log 46. Rests on R224, R225, R226, R227, R228, R229. -/
def Obligations.CollectiveProgress : Prop :=
  ∀ (die k : Nat) (s : State), die < 4 → k < 16 →
    let n := 16 * die + k
    let x := getColl s n
    let ms := collMembers x
    (∀ (j : CollJoin), j.sender < 16 → j.sender / 4 ≠ s.swarm.node → x.state = .armed → x.arms = j.arms →
      (j.collId = x.collId → j.op = x.op → j.count = x.count → j.param = x.param → j.mask = x.members → j.root = x.root →
        (collPartners s n x).contains j.sender = true → j.family = collFamily s x → x.joined.contains j.sender = false →
        exec (.collJoin die k j) s = .next { setColl s n { x with joined := x.joined ++ [j.sender] } with free := s.free + 1 })
      ∧ (j.collId ≠ x.collId ∨ j.op ≠ x.op ∨ j.count ≠ x.count ∨ j.param ≠ x.param ∨ j.mask ≠ x.members ∨ j.root ≠ x.root →
        ∃ t, exec (.collJoin die k j) s = .next t ∧ (getColl t n).state = .failed ∧ (getColl t n).code = 0x1006
          ∧ ∀ f, liveFence s x.fence.toNat = some f → bitOf (fenceWord t f) 63 = true))
    ∧ (∀ (data : Bytes) (c : Nat), x.state = .armed → x.op ≠ 9 → contributed x = true →
      (collChildren ms.length (collPos s n x))[x.absorbed.length]? = some c → x.joined.contains (ms.getD c 0) = true → ms.getD c 0 / 4 ≠ s.swarm.node →
      (∀ y, absorbValue x (slice data 0 (subtreeBytes x ms.length c)) = .inl y →
        exec (.collAbsorb die k data) s = .next { setColl s n { x with absorbed := x.absorbed ++ [ms.getD c 0], value0 := y } with free := s.free + 1 })
      ∧ (∀ y, absorbValue x (slice data 0 (subtreeBytes x ms.length c)) = .inr y →
        ∃ t, exec (.collAbsorb die k data) s = .next t ∧ (getColl t n).state = .failed ∧ (getColl t n).code = y))
    ∧ (∀ (data y : Bytes), resultFor s n data = some y → loneBad x y = 0 → collWay s n x = 0 →
      let r := x.result.toNat
      let store := decide (r ≠ 0 ∧ y.length ≠ 0)
      (store = true → accessCheck s (collReq n x) r y.length true = 0) → (pathStop s 2 (portOfFence x.fence.toNat false) 3 die).1 = 0 →
      ∃ t, exec (.collResult die k true data) s = .next t ∧ (getColl t n).state = .done ∧ (getColl t n).input = [] ∧ (getColl t n).owner = x.owner
        ∧ (getColl t n).result = x.result ∧ t.mem = (if store then writeMem r y s else s).mem
        ∧ t.obj.signals = s.obj.signals ++ (fenceIndex s x.fence.toNat).toList.map (fun f =>
            ({ fence := f, add := false, value := x.value.zeroExtend 64, origin := .unit, ctx := x.owner.zeroExtend 16 } : Signal)))
    ∧ (∀ data : Bytes, x.state = .armed → (∃ m ∈ ms, m / 4 ≠ s.swarm.node) →
      let code := le16 data 2 &&& 0x7FFF
      ∃ t, exec (.collResult die k false data) s = .next t ∧ (getColl t n).state = .failed ∧ (getColl t n).code = (if code = 0 then 0x5006 else code)
        ∧ (getColl t n).missed = (if code ≠ 0 then 0 else if le16 data 0 = 0 then BitVec.ofNat 16 (collBit s n) else le16 data 0)
        ∧ t.mem = s.mem ∧ t.cmp.cells = s.cmp.cells)

/-- ERR_RSP, RETRY_TIMER, LIVELOCK_RESCUE and STALL_DETECT. Rests on R176, R187, R189, R199, R287, R298. -/
def Obligations.NetworkEvents : Prop :=
  (∀ (die router : Nat) (h : PacketHeader) (s : State), die < 6 → router < routersOf die →
      let d := field h.src 4 2
      let inst := field h.src 16 10
      let x := getRouter s die router
      let cell := getCell s d inst
      let strayed := setRouter s die router { x with stray := satAdd x.stray 1, strayOvf := x.strayOvf || satLost x.stray 1 }
      let served := (5 ≤ d ∨ (getDie s d).state = .inService) ∧ (getDom s (srcDomain h.src)).state ≠ .closed
      (classOk h = false → exec (.errRsp die router h) s = .next { faultNotice
        { die := die, router := router, port := 0, vn := h.vn.toNat, src := h.src, context := h.context, code := h.status } strayed with free := s.free + 1 })
      ∧ (classOk h = true → h.cls = 6 → srcNode h.src = s.swarm.node → h.status ≠ 0x2005 →
        (¬ served → exec (.errRsp die router h) s = .next { strayed with free := s.free + 1 })
        ∧ (served → (srcUnit h.src = 2 ∨ srcUnit h.src = 3) → exec (.errRsp die router h) s
          = .next { s with keeper := { s.keeper with rsp := { status := h.status } }, free := s.free + 1 })
        ∧ (served → srcUnit h.src = 4 → d < 4 → inst < 32 → cell.job.map (fun j => j.ctx) = some h.context → h.retry = true →
          ∃ t, exec (.errRsp die router h) s = .next t ∧ (getCell t d inst).dma.length = cell.dma.length
            ∧ (∀ i e, cell.dma[i]? = some e → (getCell t d inst).dma[i]? = some (if i = h.txid.toNat then { e with retry := true } else e))
            ∧ t = { setCell s d inst { cell with dma := (getCell t d inst).dma } with free := s.free + 1 }))
      ∧ (classOk h = true → h.cls ≠ 6 → ¬ (h.cls = 4 ∧ h.status = 0x5001) → exec (.errRsp die router h) s = .next { s with free := s.free + 1 }))
  ∧ (∀ (die cell i : Nat) (s : State), die < 4 → cell < 32 → i < 16 →
      ∃ t, exec (.retryTimer die cell i) s = .next t ∧ (getCell t die cell).dma.length = (getCell s die cell).dma.length
        ∧ (∀ j e, (getCell s die cell).dma[j]? = some e → (getCell t die cell).dma[j]? = some (if j = i then { e with retry := false } else e))
        ∧ t = { setCell s die cell { getCell s die cell with dma := (getCell t die cell).dma } with free := s.free + 1 })
  ∧ (∀ (die router : Nat) (age : Byte) (lost : Nat) (s : State), die < 6 → router < routersOf die →
      let x := getRouter s die router
      let counted := setRouter s die router { x with rescues := satAdd x.rescues 1, rescuesOvf := x.rescuesOvf || satLost x.rescues 1 }
      let stuck := (heads counted.net die router).find? (fun e =>
        e.2.head.age == 255 && e.2.head.vn != 3 && hasRoom counted.net die router e.2.la e.2)
      (¬ (age = 255 ∧ 256 ≤ lost) → exec (.livelockRescue die router age lost) s = .next { s with free := s.free + 1 })
      ∧ (age = 255 → 256 ≤ lost → stuck = none → exec (.livelockRescue die router age lost) s = .next { counted with free := s.free + 1 })
      ∧ (age = 255 → 256 ≤ lost → ∀ e, stuck = some e → exec (.livelockRescue die router age lost) s = .next { counted with
          net := advance counted die router e.2.la e.1 { e.2 with lost := 0 } counted.net, free := s.free + 1 }))
  ∧ (∀ (die router : Nat) (h : PacketHeader) (s : State), die < 6 → router < routersOf die →
      (∀ c, h.context ≠ 0 → h.vn ≠ 3 → localCtx s h.context.toNat = some c → inReset (getCtx s c) = false →
        ∃ t, exec (.stallDetect die router h) s = .next t ∧ (getCtx t c).state = .resetting ∧ (getCtx t c).fault.map (·.code) = some 0x5003
          ∧ t.net.notice.map (·.port) = some (outPort s h die router)
          ∧ (∀ k, k ≠ c → getCtx t k = getCtx s k) ∧ t.mem = s.mem ∧ t.cmp = s.cmp)
      ∧ (h.vn = 3 → die < 5 → (getDie s die).state = .inService →
        ∃ t, exec (.stallDetect die router h) s = .next t ∧ (getDie t die).state = .recovering ∧ (∀ d, d ≠ die → getDie t d = getDie s d) ∧ t.mem = s.mem))

/-- Training, identity and loss of a swarm-link port, and LINK_CONFIG. Rests on R203, R204, R208, R231. -/
def Obligations.SwarmPortTraining : Prop :=
  ∀ (p : Nat) (s : State), p < 6 →
    let x := getSlink s p
    let y := getSlink s (partner p)
    let ports := fun (t : State) => t = { s with swarm := { s.swarm with ports := t.swarm.ports }, free := s.free + 1 }
    let only := fun (t : State) => ports t ∧ ∀ k, k ≠ p → getSlink t k = getSlink s k
    let leaves := fun (t : State) => ports t ∧ (∀ k, k ≠ p → k ≠ partner p → getSlink t k = getSlink s k) ∧ (getSlink t p).laneLock = 0
      ∧ (getSlink t p).txSeq = x.txSeq ∧ (getSlink t p).rxSeq = x.rxSeq
      ∧ (y.state = .up → (getSlink t p).state = .handover
          ∧ getSlink t (partner p) = offerFlit y (controlFlit 4 (toLE 2 (x.rxSeq - 1).toNat)))
      ∧ (y.state ≠ .up → (getSlink t p).state = .off ∧ (getSlink t p).replay = []
          ∧ getSlink t (partner p) = if y.state = .handover then portOff y else y)
    (inTraining x = true → x.retryWait = false →
      (x.failedAttempts + 1 < 4 → exec (.portTrainingStepTimeout p) s = .next { setSlink s p
        { x with failedAttempts := x.failedAttempts + 1, retryWait := true, state := .detect, laneLock := 0 } with free := s.free + 1 })
      ∧ (4 ≤ x.failedAttempts + 1 → ∃ t, exec (.portTrainingStepTimeout p) s = .next t ∧ (getSlink t p).state = .off ∧ (getSlink t p).retryWait = false
          ∧ t.mem = s.mem ∧ t.obj = s.obj ∧ t.swarm.members = s.swarm.members))
    ∧ (x.retryWait = true → ∃ t, exec (.portTrainingRetry p) s = .next t ∧ only t ∧ (getSlink t p).state = .detect ∧ (getSlink t p).retryWait = false
        ∧ (getSlink t p).trains = satAdd x.trains 1 ∧ (getSlink t p).failedAttempts = x.failedAttempts)
    ∧ (∀ (lanes : BitVec 4), (x.state = .detect ∨ x.state = .equalise) → x.retryWait = false → exec (.laneLock p lanes) s = .next { setSlink s p
        { x with laneLock := lanes, state := if lanes = 15 then .deskew else .equalise } with free := s.free + 1 })
    ∧ (∀ (lanes : BitVec 4), x.state = .deskew → exec (.laneLock p lanes) s = .next { setSlink s p
        (if lanes = 15 then { x with laneLock := 15, state := .ident, flitsTx := x.flitsTx + 1 } else { x with laneLock := lanes }) with free := s.free + 1 })
    ∧ (∀ (node : BitVec 2) (port : BitVec 3) (version : Byte) (delay : W16), (x.state = .deskew ∨ x.state = .ident ∨ x.state = .delay) → x.cmd = none →
      (node.toNat = peerNode s p → port.toNat = p → version = 1 → ∃ t, exec (.ident p node port version delay) s = .next t
        ∧ ((s.swarm.formed = false ∨ bitOf s.swarm.members node.toNat = false) → only t) ∧ (∀ k, k ≠ p → getSlink t k = getSlink s k)
        ∧ (getSlink t p).credits = [96, 96, 32, 32] ∧ (getSlink t p).state = .up ∧ (getSlink t p).delayNs = delay ∧ (getSlink t p).peerNode = node ∧ (getSlink t p).peerPort = port
        ∧ (getSlink t p).failedAttempts = 0 ∧ (getSlink t p).txSeq = 0 ∧ (getSlink t p).rxSeq = 0)
      ∧ ((node.toNat ≠ peerNode s p ∨ port.toNat ≠ p ∨ version ≠ 1) → nodeClash s p node = false → ∃ t, exec (.ident p node port version delay) s = .next t
        ∧ (getSlink t p).state = .off ∧ (getSlink t p).identMismatch = true ∧ (getSlink t p).noRetry = true ∧ t.faults.next = s.faults.next + 1 ∧ (∀ k, k ≠ p → getSlink t k = getSlink s k)))
    ∧ (x.state = .up → (∃ t, exec (.linkIdleTimeout p) s = .next t ∧ leaves t)
        ∧ ∀ lane, lane < 4 → ∃ t, exec (.laneLockLoss p lane) s = .next t ∧ leaves t)
    ∧ (∀ m, askedLong 0x0401 m s = true → leNat (reqOf s m).p 0 1 = p → expectedPort s p = true → s.net.switching = none →
        (leNat (reqOf s m).p 1 1 = 0 → (getSlink s (partner p)).state = .up →
          ∃ w, answersWith (.linkConfig m) m s 1 [] w ∧ (getSlink w p).state = .off ∧ (getSlink w p).configuredOff = true
            ∧ (∀ k, k ≠ p → getSlink w k = getSlink s k) ∧ w.mem = s.mem ∧ w.obj = s.obj)
        ∧ (leNat (reqOf s m).p 1 1 = 1 → x.state ≠ .up → x.retired = false → portPattern s p = false →
          ∃ w, answersWith (.linkConfig m) m s 1 [] w ∧ (getSlink w p).state = .detect ∧ (getSlink w p).configuredOff = false ∧ (getSlink w p).noRetry = false
            ∧ (getSlink w p).cmd = some (refOf s m) ∧ (∀ k, k ≠ p → getSlink w k = getSlink s k) ∧ w.mem = s.mem ∧ w.obj = s.obj))
    ∧ (∀ m, asked 0x0402 m s = true → answersWith (.swarmStatus m) m s 0 ([s.swarm.members.zeroExtend 8, BitVec.ofNat 8 s.swarm.coordinator]
        ++ (upFrom 0 6).map (fun k => BitVec.ofNat 8 (portCode (getSlink s k).state)) ++ toLE 4 s.swarm.generation.toNat) (taken s m))

/-- Link flits, NAK, replay and handover of a swarm-link port. Rests on R205, R206, R207, R208, R211. -/
def Obligations.SwarmLinkTraffic : Prop :=
  ∀ (p : Nat) (s : State), p < 6 →
    let x := getSlink s p
    (∀ (flit : Bytes), x.state = .up →
      let h := le64 flit 0
      let kind := field h 1 0
      let slots := ((upFrom 0 4).filter (fun i => bitOf h (27 + i))).map (fun i => slice flit (8 + 64 * i) 64)
      (¬ (flit.length = 272 ∧ crc64 (flit.take 264) = le64 flit 264) → x.naksSent + 1 < 16 → ∃ t, exec (.linkFlitReceive p flit) s = .next t
        ∧ getSlink t p = { x with sinceMarker := if x.sinceMarker = 4095 then 0 else x.sinceMarker + 1, nakSent := true, naksSent := x.naksSent + 1 }
        ∧ (∀ k, k ≠ p → getSlink t k = getSlink s k) ∧ t = { s with swarm := { s.swarm with ports := t.swarm.ports }, free := s.free + 1 })
      ∧ (flit.length = 272 → crc64 (flit.take 264) = le64 flit 264 → field h 13 2 = x.rxSeq.toNat → ((kind = 0 ∧ ingressFits (fillIngress slots x) = true) ∨ kind = 2) →
        ∃ t, exec (.linkFlitReceive p flit) s = .next t ∧ (getSlink t p).rxSeq = x.rxSeq + 1 ∧ (getSlink t p).nakSent = false
          ∧ (getSlink t p).naksSent = 0
          ∧ (kind = 2 → bitOf h 26 = false → x.replay = [] → x.queued = [] → x.naksReceived < 16 →
              field h 63 32 = 0 → byteAt (slots.headD []) 0 ≠ 3 → byteAt (slots.headD []) 0 ≠ 4 →
              getSlink t p = { x with sinceMarker := x.sinceMarker + 1, rxSeq := x.rxSeq + 1, nakSent := false, naksSent := 0 }
              ∧ t = { s with swarm := { s.swarm with ports := t.swarm.ports }, free := s.free + 1 }))
      ∧ (flit.length = 272 → crc64 (flit.take 264) = le64 flit 264 → kind = 3 → x.sinceMarker ≠ 4095 → ∃ t, exec (.linkFlitReceive p flit) s = .next t
          ∧ (getSlink t p).state = (if (getSlink s (partner p)).state = .up then .handover else .off)))
    ∧ (∀ (delivered : BitVec 12), x.state = .handover → x.relaying = false →
      let n := (x.txSeq - 1 - delivered).toNat
      let rest := (if n ≤ x.replay.length then x.replay.drop (x.replay.length - n) else x.replay) ++ x.queued
      let y := getSlink s (partner p)
      ∃ t, exec (.handover p delivered) s = .next t ∧ getSlink t p = { x with relaying := true, replay := [], queued := [] }
        ∧ getSlink t (partner p) = rest.foldl offerFlit y
        ∧ (y.replay.length + rest.length ≤ 64 → y.queued = [] → (∀ v, ((rest.filter (fun f => f.vn == v)).map flitCost).sum ≤ y.credits.getD v 0) →
            (getSlink t (partner p)).replay = y.replay ++ rest ∧ (getSlink t (partner p)).queued = [])
        ∧ (∀ k, k ≠ p → k ≠ partner p → getSlink t k = getSlink s k) ∧ t = { s with swarm := { s.swarm with ports := t.swarm.ports }, free := s.free + 1 })
    ∧ (x.state = .handover → x.relaying = true → s.net.switching = none → ∃ t, exec (.handoverRouteSwitch p) s = .next t ∧ (getSlink t p).relaying = false
        ∧ (getSlink t p).state = (if expectedPort s p = true ∧ (getSlink t p).retired = false ∧ x.configuredOff = false ∧ x.noRetry = false
              ∧ portPattern s p = false
            then .detect else .off)
        ∧ (∀ k, k ≠ p → getSlink t k = getSlink s k) ∧ t.mem = s.mem ∧ t.obj = s.obj ∧ t.swarm.members = s.swarm.members)

/-- Formation, rejoin, loss of a node and its hold-down; swarm time never goes back. Rests on R26, R212, R213, R215, R216, R217,
R300. -/
def Obligations.SwarmFormation : Prop :=
  ∀ (s : State), s.swarm.node < 4 →
    let forms := fun (i : Instr) (links : BitVec 6) => ∃ t, exec i s = .next t ∧ t.swarm.members = BitVec.ofNat 4 (ownSet s links 4 15)
      ∧ bitOf t.swarm.members s.swarm.node = true ∧ t.swarm.coordinator = (nodesOf (ownSet s links 4 15)).headD s.swarm.node
      ∧ t.swarm.generation = s.swarm.generation + 1 ∧ t.swarm.formed = true ∧ t.swarm.forming = s.swarm.formAgain ∧ t.swarm.running = true
      ∧ t.swarm.node = s.swarm.node ∧ (s.swarm.formed = true → s.swarm.time.toNat ≤ t.swarm.time.toNat)
      ∧ (t.swarm.locked = true ↔ s.swarm.locked = true ∨ t.swarm.coordinator = s.swarm.node) ∧ t.power = s.power
      ∧ (s.net.held = [] → (∀ n, n < 4 → bitOf s.swarm.members n = true → n ≠ s.swarm.node → bitOf t.swarm.members n = true) →
          t.mem = s.mem ∧ t.obj = s.obj ∧ t.cmp = s.cmp)
    (∀ (links : BitVec 6) (times : List W64), times.length = 4 →
      (s.swarm.formed = true → (s.swarm.forming = true ∨ leavesOut s links = true) → forms (.formation links times) links)
      ∧ (∀ waited, s.swarm.formed = false → 3 ≤ s.boot.step.toNat →
          (waited = true ∨ ∀ p, p < 6 → expectedPort s p = true → (getSlink s p).state = .up) → forms (.firstFormationWait links times waited) links)
      ∧ (s.swarm.formed = true → s.swarm.forming = false →
          (nodesOf s.swarm.members.toNat).length < (nodesOf (ownSet s links 4 15)).length → forms (.nodeRejoin links times) links))
    ∧ (∀ n, n < 4 → n ≠ s.swarm.node → bitOf s.swarm.members n = true →
        (∀ p, p < 6 → peerNode s p = n → (getSlink s p).state ≠ .up ∧ (getSlink s p).state ≠ .handover) →
        ∃ t, exec (.nodeLoss n) s = .next t ∧ t.swarm.members = setBit s.swarm.members n false ∧ t.swarm.lost = setBit s.swarm.lost n true
          ∧ t.swarm.node = s.swarm.node ∧ t.swarm.time = s.swarm.time
          ∧ ∀ i, (getMot s i).kind = 2 → bitOf (getMot s i).signalled n = true → bitOf (fenceWord t i) 63 = true)
    ∧ (s.swarm.lost ≠ 0 → exec .nodeLossHoldDown s
        = .next { s with swarm := { s.swarm with lost := 0, forming := true, formAgain := s.swarm.forming }, free := s.free + 1 })

/-- The amount of the trim within its bound is a free value (assumption log 33). Rests on R26, R219, R220. -/
def Obligations.SwarmTime : Prop :=
  (∀ (s : State), s.swarm.node < 4 →
      (s.swarm.coordinator = s.swarm.node → s.swarm.running = true → ∃ t, exec .timeSend s = .next t
        ∧ t = { s with swarm := { s.swarm with ports := t.swarm.ports }, free := s.free + 1 }
        ∧ ∀ n p, n < 4 → n ≠ s.swarm.node → bitOf s.swarm.members n = true →
            (upFrom 0 6).find? (fun p => peerNode s p == n && (getSlink s p).state == .up) = some p → (getSlink s p).replay.length < 64 →
            (getSlink s p).queued.all (fun f => f.kind != 2) = true →
            (getSlink t p).replay = (getSlink s p).replay ++ [controlFlit 3 (toLE 8 s.swarm.time.toNat)] ∧ (getSlink t p).txSeq = (getSlink s p).txSeq + 1)
      ∧ ((s.swarm.coordinator ≠ s.swarm.node ∨ s.swarm.running = false) → exec .timeSend s = .next { s with free := s.free + 1 }))
  ∧ (∀ (p : Nat) (sent : W64) (s : State), p < 6 → (getSlink s p).state = .up → s.swarm.coordinator ≠ s.swarm.node → peerNode s p = s.swarm.coordinator →
      let w := s.swarm
      let off : Int := (sent + (getSlink s p).delayNs.zeroExtend 64 - w.time).toInt
      ∃ t, exec (.timeReceive p sent) s = .next t ∧ t.swarm.time = w.time
        ∧ t.swarm.offset = BitVec.ofInt 16 (max (-32767) (min 32767 off))
        ∧ (-2 ≤ off ∧ off ≤ 2 → t.swarm.inRange = min (w.inRange + 1) 8 ∧ t.swarm.outOfRange = 0 ∧ t.swarm.locked = (w.locked || decide (7 ≤ w.inRange))
            ∧ t.swarm.alarms = w.alarms)
        ∧ (off < -2 ∨ 2 < off → t.swarm.inRange = 0 ∧ t.swarm.outOfRange = min (w.outOfRange + 1) 8
            ∧ t.swarm.locked = (w.locked && decide (w.outOfRange < 7))
            ∧ t.swarm.alarms = (if w.locked ∧ 7 ≤ w.outOfRange then satAdd w.alarms 1 else w.alarms))
        ∧ (-200 ≤ t.swarm.trim ∧ t.swarm.trim ≤ 200 ∧ (off < 0 → t.swarm.trim ≤ 0) ∧ (0 < off → 0 ≤ t.swarm.trim) ∧ (off = 0 → t.swarm.trim = 0))
        ∧ (w.locked = true → t.swarm.locked = false → ∀ k, k < 7 → getRegion t k = { getRegion s k with stime := w.time })
        ∧ (s.net.held = [] → t = { s with frame := t.frame, swarm := { s.swarm with
            offset := t.swarm.offset, inRange := t.swarm.inRange, outOfRange := t.swarm.outOfRange, locked := t.swarm.locked, alarms := t.swarm.alarms,
            alarmsOvf := t.swarm.alarmsOvf, trim := t.swarm.trim }, free := s.free + 1 })
        ∧ ((w.locked = false ∨ t.swarm.locked = true) → t.frame = s.frame))

/-- FRAME_LOAD, its drain, segments and release, and FRAME_READBACK. Rests on R262, R264, R267, R268, R270, R273, R274, R278, R279. -/
def Obligations.FrameLoading : Prop :=
  (∀ (m : Nat) (s : State),
      let p := (reqOf s m).p
      let w := acceptedState s m
      let mask := leNat p 4 1
      let e := getMot s (field (le32 p 0) 15 0)
      let ended := fun (v : State) (code : W16) (extra : Bytes) =>
        { opcode := (reqOf s m).opcode, tag := (reqOf s m).tag, result := some { status := code, time := s.swarm.time, extra := extra } } ∈ (getMbx v m).accepted
      (askedLong 0x0501 m s = true → mask = 0 → byteAt p 5 = 0 → le32 p 0 = 0 → (getDie s 4).state = .inService →
        (∃ k, k < 7 ∧ (getRegion s k).state = .held) → frameBusy (taken s m) = false →
        answersWith (.frameLoad m) m s 1 [] (setCfg w { s.frame.cfg with driving := false, startRequest := some (refOf s m) }))
      ∧ (askedLong 0x0501 m s = true → mask < 128 → mask % 2 = 1 → (byteAt p 5 = 0 ∨ byteAt p 5 = 2) → e.kind = 1 → e.gen.toNat = field (le32 p 0) 31 16 →
        bitOf e.perm 0 = true → (m = 0 ∨ (field e.creator 6 2 = m ∧ field e.creator 1 0 = s.swarm.node)) → (localCtx s e.owner.toNat).any (fun c => inReset (getCtx s c)) = false →
        (getDie s 4).state = .inService → frameBusy (taken s m) = false → (∀ k ∈ maskRegions mask, (getDom s (regionDomain k)).state = .up) →
        (∀ k ∈ maskRegions mask, isRetired s 7 (s.swarm.node * 7 + k) = false) →
        let r := headerCheck w (memRead w e.base (min (256 * e.size) 256)) (256 * e.size) (leNat p 6 1) mask
        (r.1 = 0 → ∃ v, answersWith (.frameLoad m) m s 1 [] v
          ∧ (∀ k, k < 7 → (getRegion v k).state = (if k ∈ maskRegions mask then .loading else .blank) ∧ (getRegion v k).open_ = false
              ∧ (getRegion v k).bindContext = (getRegion s k).bindContext)
          ∧ (∀ a, a < 7 * 2 ^ 21 → Tbl.get (zeros 128) v.frame.cfg.frames a = zeros 128)
          ∧ v.frame.cfg.load.map (·.stage) = some .loading ∧ v.frame.cfg.load.map (·.regions) = some (maskRegions mask) ∧ v.mem = s.mem
          ∧ v.obj = { s.obj with mot := v.obj.mot } ∧ (∀ i, (getMot s i).kind ≠ 0 → getMot v i = getMot s i)
          ∧ (∀ i, v.frame.cfg.load.bind (·.staging) = some i → (getMot v i).kind = 5 ∧ (getMot v i).lock = 2 ∧ (getMot v i).size = 514))
        ∧ (r.1 ≠ 0 → ∃ v, answersWith (.frameLoad m) m s 1 [] v ∧ v.frame.regions = s.frame.regions ∧ v.frame.cfg.load = none
          ∧ v.frame.cfg.loadFails = satAdd s.frame.cfg.loadFails 1 ∧ ended v r.1 [] ∧ v.mem = s.mem ∧ v.obj = s.obj))
      ∧ (∀ upset, askedLong 0x0502 m s = true → leNat p 0 1 < 128 → (getDie s 4).state = .inService → frameBusy (taken s m) = false →
        (∀ k ∈ maskRegions (leNat p 0 1), (getRegion s k).state = .running ∨ (getRegion s k).state = .held) →
        (upset = [] → answersWith (.frameReadback m upset) m s 1 [] (finishCmd (refOf s m) 0 (toLE 4 0) w))
        ∧ (∀ a, upset = [a] → a / 2 ^ 21 ∈ maskRegions (leNat p 0 1) → a % 2 ^ 21 < regionFrames (a / 2 ^ 21) →
          ∃ v, answersWith (.frameReadback m upset) m s 1 [] v ∧ v.frame.cfg.mismatches = satAdd s.frame.cfg.mismatches 1
            ∧ ended v 0 (toLE 4 1) ∧ v.mem = s.mem)))
  ∧ (∀ (s : State) (x : FrameLoad), s.frame.cfg.load = some x →
      let c := s.frame.cfg
      let h := memRead s (x.base + x.offset) 16
      let len := leNat h 4 4
      let payload := memRead s (x.base + x.offset + 16) len
      let tag := memRead s (x.base + x.offset + 16 + len) 16
      let kept := fun (t : State) => (∀ a, addrNode a = s.swarm.node →
          (∀ i, x.staging = some i → ¬ ((getMot s i).base ≤ a ∧ a < (getMot s i).base + 131584)) → memByte t a = memByte s a)
        ∧ (∀ i, x.staging ≠ some i → getMot t i = getMot s i) ∧ t.obj = { s.obj with mot := t.obj.mot }
      (x.stage = .draining → s.keeper.heldWrites = [] → ∃ t, exec .regionDrainEnd s = .next t
        ∧ (∀ k, k ∈ x.regions → (getRegion t k).state = .loading ∧ (getRegion t k).open_ = false ∧ (getRegion t k).outstanding = [] ∧ (getRegion t k).tgt = [])
        ∧ t.frame.cfg.load = some { x with stage := .loading }
        ∧ (∀ a, a / 2 ^ 21 ∈ x.regions → Tbl.get (zeros 128) t.frame.cfg.frames a = zeros 128) ∧ t.mem = s.mem ∧ t.frame.channels = s.frame.channels
        ∧ ((∀ k ∈ x.regions, ∀ q ∈ (getRegion s k).tgt, q.late = true) → (∀ k, k ∉ x.regions → getRegion t k = getRegion s k) ∧ t.obj = s.obj))
      ∧ (x.stage = .loading → x.ahead = none → leNat h 0 4 ≠ x.segment → ∃ t, exec .segmentChecked s = .next t
        ∧ (∀ k, k ∈ x.regions → (getRegion t k).state = .failed ∧ (getRegion t k).open_ = false) ∧ (∀ k, k ∉ x.regions → getRegion t k = getRegion s k)
        ∧ t.frame.cfg.load = none ∧ t.frame.cfg.loadFails = satAdd c.loadFails 1
        ∧ (∀ a, a / 2 ^ 21 ∈ x.regions → Tbl.get (zeros 128) t.frame.cfg.frames a = zeros 128) ∧ kept t)
      ∧ (∀ ws n, x.stage = .loading → x.ahead = none → x.offset + 32 + len ≤ x.size → leNat h 0 4 = x.segment → len % 16 = 0 → 64 ≤ len →
        len ≤ 65536 → zeroIn h 8 16 = true → checksOk s (x.base + x.offset) (len + 32) = true → leNat x.header 6 1 = 0 →
        Sys2Proof.Config.sha384 (h ++ payload) = x.key → tag.all (· == 0) = true →
        parseRecords x.regions (len - 48 + 1) (payload.take (len - 48)) = some (ws, none) → x.segment + 1 ≠ leNat x.header 16 4 → n = x.writes + ws.length →
        n ≤ leNat x.header 20 4 →
        ∃ t a, exec .segmentChecked s = .next t ∧ t.frame.cfg = { c with
            frames := ws.foldl (fun t w => Tbl.set (zeros 128) t w.1 w.2) c.frames,
            load := some { x with segment := x.segment + 1, offset := x.offset + (len + 32), writes := n, key := payload.drop (len - 48), ahead := a } }
          ∧ kept t ∧ t = { s with mem := t.mem, frame := { s.frame with cfg := t.frame.cfg }, free := s.free + 1 })
      ∧ (x.stage = .releasing → ∃ t, exec .regionResetRelease s = .next t ∧ (∀ k, k ∈ x.regions → (getRegion t k).state = .running ∧ (getRegion t k).open_ = true)
        ∧ (∀ k, k ∉ x.regions → getRegion t k = getRegion s k) ∧ t.frame.cfg = { c with load := none } ∧ t.mem = s.mem ∧ t.obj = s.obj))

/-- The DONE line, the common start of held regions, and a start request that ends without one. Rests on R272, R273. -/
def Obligations.FrameStart : Prop :=
  ∀ (s : State),
    let c := s.frame.cfg
    (∀ (x : DoneSample),
      let n := if x.line then c.highSamples + 1 else 0
      let d := { c with doneLine := x.line, highSamples := n }
      let armed := fun (t : W64) (d : Sys2Proof.Machine.Config) => { d with startAt := if heldReleased s then some t else d.startAt }
      let ends := fun (d : Sys2Proof.Machine.Config) => exec (.frameDoneSample x) s = .next { setCfg s d with free := s.free + 1 }
      (s.swarm.coordinator = s.swarm.node →
        (∀ t, c.sentStart = some t → s.swarm.time.toNat < t.toNat →
          (x.late = true → ends (armed (t + 5000000) { d with sentStart := some (t + 5000000) })) ∧ (x.late = false → ends d))
        ∧ ((∀ t, c.sentStart = some t → t.toNat ≤ s.swarm.time.toNat) →
          (2 ≤ n ∧ (heldReleased s = true ∨ x.others = true) →
            ends (armed (s.swarm.time + 5000000) { d with sentStart := some (s.swarm.time + 5000000) }))
          ∧ (¬ (2 ≤ n ∧ (heldReleased s = true ∨ x.others = true)) → ends d)))
      ∧ (s.swarm.coordinator ≠ s.swarm.node → (x.named = none → ends d)
        ∧ (∀ t, x.named = some t → (t.toNat < s.swarm.time.toNat + 1000000 → ends { d with toldLate := true })
          ∧ (s.swarm.time.toNat + 1000000 ≤ t.toNat → ends (armed t { d with toldLate := false })))))
    ∧ (∀ at_, c.startAt = some at_ → at_.toNat ≤ s.swarm.time.toNat → heldReleased s = true → ∃ t, exec .frameDoneStart s = .next t
        ∧ (∀ k, k < 7 → (getRegion s k).state = .held → getRegion t k = { getRegion s k with state := .running, open_ := true })
        ∧ (∀ k, (getRegion s k).state ≠ .held → getRegion t k = getRegion s k)
        ∧ t.frame.cfg = { c with startAt := none, startCmds := [], startRequest := none, highSamples := 0 } ∧ t.mem = s.mem ∧ t.obj = s.obj ∧ t.frame.channels = s.frame.channels)
    ∧ (∀ k, c.startRequest = some k → exec .startRequestTimeout s
        = .next { finishCmd k 0x2001 [] (setCfg s { c with startRequest := none, driving := true, startAt := none }) with free := s.free + 1 })
    ∧ (c.startRequest = none → exec .startRequestTimeout s = .next { s with free := s.free + 1 })

/-- Region ports, tile ports and region windows. Rests on R236, R238, R239, R240, R241, R246. -/
def Obligations.RegionPorts : Prop :=
  ∀ (k : Nat) (s : State), k < 7 →
    let x := getRegion s k
    let n := x.bindContext.toNat
    (∀ (r : RegionRequest), x.outstanding.length < 64 →
      let a := r.addr.toNat
      (portAtOnce s k r true ≠ 0 → exec (.regionPortRequest k r) s
        = .next { setRegion s k { x with lastRsp := some { tag := r.tag, status := portAtOnce s k r true } } with free := s.free + 1 })
      ∧ (portAtOnce s k r true = 0 → portBehind s k r = false → r.op = 0 → windowAt s a 256 = none → accessCheck s (.unit n false 4) a 256 false = 0 → checksOk s a 256 = true →
        let data := ((quarters r.beats).map (fun q => slice (memRead s a 256) (64 * q) 64)).flatten
        ∃ t, exec (.regionPortRequest k r) s = .next t ∧ t = { setRegion s k { x with
            outstanding := x.outstanding ++ [{ tag := r.tag, status := 0, data := data, checkOk := true, check := crc32c (memRead s a 256) }] } with
          net := t.net, swarm := { s.swarm with ports := t.swarm.ports }, free := s.free + 1 })
      ∧ (portAtOnce s k r true = 0 → portBehind s k r = false → r.op = 1 → r.beats = 15 → windowAt s a 256 = none → accessCheck s (.unit n false 4) a 256 true = 0 → collWindow s a = none →
        ∃ t, exec (.regionPortRequest k r) s = .next t
          ∧ getRegion t k = { x with
              parcelsOut := x.parcelsOut + 1, outstanding := x.outstanding ++ [{ tag := r.tag, status := 0, data := [], checkOk := true, check := 0 }] }
          ∧ t.mem = (memWrite s a (slice r.data 0 256)).mem ∧ t.obj = s.obj ∧ ∀ j, j ≠ k → getRegion t j = getRegion s j)
      ∧ (∀ i, portAtOnce s k r true = 0 → portBehind s k r = false → (r.op = 3 ∨ r.op = 4) → addrNode a = s.swarm.node →
        reachCheck s (.unit n false 4) a 8 = 0 → (pathStop s 2 (portOfFence a (decide (r.op = 4))) 3 4).1 = 0 → liveFence s a = some i → inFamily s n i = true →
        let g : Signal := { fence := i, add := decide (r.op = 4), value := r.value.zeroExtend 64, origin := .region k r.tag, ctx := BitVec.ofNat 16 n }
        ∃ t, exec (.regionPortRequest k r) s = .next t
          ∧ getRegion t k = { x with outstanding := x.outstanding ++ [{ tag := r.tag, status := 0, data := [], checkOk := true, check := 0, ready := false }] }
          ∧ t.obj = { s.obj with signals := s.obj.signals ++ [g] } ∧ t.mem = s.mem))
    ∧ (∀ (tag : BitVec 6) (y : PortPending), x.outstanding.find? (fun p => p.tag == tag) = some y → y.again = none →
        (y.ready = false → exec (.regionPortResponse k tag) s = .next { s with free := s.free + 1 })
        ∧ (y.ready = true → exec (.regionPortResponse k tag) s = .next { setRegion s k { x with
          outstanding := x.outstanding.filter (fun q => q.tag != tag),
          lastRsp := some { tag := tag, status := y.status, data := y.data, check := y.check, checkOk := y.checkOk } } with free := s.free + 1 }))
    ∧ (∀ (row : Nat) (r : RegionRequest), 1 ≤ k → (row = 2 * (k - 1) ∨ row = 2 * k - 1) → portAtOnce s k r false = 0 → r.op = 0 →
        tileStore s (8 * row) ≤ r.addr.toNat → r.addr.toNat + 256 ≤ tileStore s (8 * row + 8) →
        accessCheck s (.unit n false 4) r.addr.toNat 256 false = 0 → checksOk s r.addr.toNat 256 = true →
        let data := ((quarters r.beats).map (fun q => slice (memRead s r.addr.toNat 256) (64 * q) 64)).flatten
        exec (.tilePortAccess k row r) s = .next { setRegion s k
          { x with lastRsp := some { tag := r.tag, status := 0, data := data, check := crc32c (memRead s r.addr.toNat 256), checkOk := true } } with free := s.free + 1 })
    ∧ (∀ (h : PacketHeader) (write : Bool) (beats : BitVec 4) (data : Bytes),
        (tgtStatus s k h ≠ 0 → exec (.tgtRequest k h write beats data) s
          = .next { setRegion s k { x with tgtAnswer := some (h.src, tgtStatus s k h, []) } with free := s.free + 1 })
        ∧ (tgtStatus s k h = 0 →
          let q : TgtPending := {
            src := h.src, context := h.context, write := write, beats := beats, offset := h.dest.toNat % 0x20000000, data := data, owner := .net h }
          exec (.tgtRequest k h write beats data) s = .next { setRegion s k { x with tgt := x.tgt ++ [q] } with free := s.free + 1 }))
    ∧ (∀ (q : TgtPending) (l : List TgtPending), x.tgt = q :: l → s.keeper.heldWrites = [] →
        let given := fun (status : W16) (data : Bytes) => if q.write ∨ status ≠ 0 then [] else data
        (∀ (status : W16) (data : Bytes),
          (q.late = true → exec (.tgrAnswer k status data) s = .next { setRegion s k { x with tgt := l } with free := s.free + 1 })
          ∧ (∀ h, q.late = false → q.owner = .net h → srcNode h.src = s.swarm.node → exec (.tgrAnswer k status data) s = .next { setRegion s k
              { x with tgt := l, tgtAnswer := some (q.src, status, given status data) } with free := s.free + 1 })
          ∧ (∀ j tag, q.late = false → q.owner = .port j tag → j ≠ k → ∃ t, exec (.tgrAnswer k status data) s = .next t
              ∧ getRegion t k = { x with tgt := l, tgtAnswer := some (q.src, status, given status data) }
              ∧ (getRegion t j).outstanding.length = (getRegion s j).outstanding.length
              ∧ (∀ e ∈ (getRegion t j).outstanding, e.tag = tag → e.status = status ∧ e.data = given status data ∧ e.ready = true)
              ∧ t.mem = s.mem ∧ t.obj = s.obj ∧ t.keeper = s.keeper))
        ∧ (∀ h, q.late = false → q.owner = .net h → srcNode h.src = s.swarm.node → ∃ t, exec (.tgtTimeout k) s = .next t ∧ getRegion t k = { x with
            tgt := { q with late := true } :: l, tgtAnswer := some (q.src, 0x5003, []), tgtTimeouts := satAdd x.tgtTimeouts 1,
            tgtTimeoutsOvf := x.tgtTimeoutsOvf || satLost x.tgtTimeouts 1 } ∧ t = { setRegion s k (getRegion t k) with free := s.free + 1 }))

/-- Ingest channels: frames, lines, records and completed buffers. Rests on R255, R256, R257, R258, R260. -/
def Obligations.SensorIngest : Prop :=
  ∀ (c : Nat) (s : State),
    let x := getChan s c
    let ok := fun (b : OpenBuffer) (off n a : Nat) => bufferBase s x b.index = some a ∧ accessCheck s (.unit x.bind.toNat false 4) (a + off) n true = 0
      ∧ collWindow s (a + off) = none
    let stored := fun (a : Nat) (l : Bytes) =>
      (memWrite { s with mem := { s.mem with bad := (parcelsOf a l.length).foldl (fun t p => Tbl.set false t p false) s.mem.bad } } a l).mem
    let closes := fun (i : Instr) (b : OpenBuffer) (y : Channel) => ∀ a f,
      let flags := b.flags ||| (if x.droppedSince ≠ 0 then 8 else 0)
      let hdr := headerBytes c x b flags (if c < 16 then s.swarm.time else b.last)
      ok b 0 hdr.length a → liveFence s x.fence.toNat = some f → (pathStop s 2 (portOfFence x.fence.toNat true) 3 4).1 = 0 → ∃ t, exec i s = .next t
        ∧ getChan t c = { y with buffer := none, filled := x.filled + 1, droppedSince := 0 }
        ∧ t.mem = stored a hdr
        ∧ t.obj = { s.obj with signals := s.obj.signals ++ [{ fence := f, add := true, value := 1, origin := .unit, ctx := x.bind.zeroExtend 16 }] }
        ∧ ∀ j, j ≠ c → getChan t j = getChan s j
    x.enable = true →
    (c < 16 → (∀ (vc : BitVec 4) (frameNo : W16),
        (vc = x.vc → s.swarm.locked = true → x.buffer = none → x.streaming = false → x.toRegion = false →
          ((x.filled - x.released).toNat < x.bufCount.toNat → ∃ t, exec (.frameStart c vc frameNo false) s = .next t
            ∧ getChan t c = { x with
                discarding := false,
                buffer := some { index := x.filled.toNat % x.bufCount.toNat, first := s.swarm.time, last := s.swarm.time, frameNo := frameNo, vc := BitVec.ofNat 8 vc.toNat } }
            ∧ t = { setChan s c (getChan t c) with free := s.free + 1 })
          ∧ (x.bufCount.toNat ≤ (x.filled - x.released).toNat → ∃ t, exec (.frameStart c vc frameNo false) s = .next t
            ∧ (getChan t c).drops = satAdd x.drops 1 ∧ (getChan t c).droppedSince = x.droppedSince + 1 ∧ (getChan t c).discarding = true
            ∧ (getChan t c).buffer = none ∧ t = { setChan s c (getChan t c) with free := s.free + 1 }))
        ∧ (vc = x.vc → s.swarm.locked = true → x.buffer = none → x.streaming = false → x.toRegion = true →
          (getRegion s x.region.toNat).state = .running → exec (.frameStart c vc frameNo false) s = .next { setChan s c { x with
            beats := [{ data := [], sof := true, time := some s.swarm.time }], parcel := [], streaming := true, discarding := false } with
            free := s.free + 1 })
        ∧ (vc ≠ x.vc → exec (.frameStart c vc frameNo false) s
            = .next { setChan s c { x with other := satAdd x.other 1, otherOvf := x.otherOvf || satLost x.other 1 } with free := s.free + 1 }))
      ∧ (∀ (p : CameraPacket) (b : OpenBuffer) (a : Nat), x.discarding = false → p.headerOk = true → p.vc = x.vc → p.corrected = false → p.crcOk = true →
          x.buffer = some b →
          let stride := 64 * x.stride.toNat
          let off := 256 + b.units * stride
          off + stride ≤ 256 * x.bufParcels.toNat → p.payload.length ≤ stride → ok b off stride a →
          ∃ t, exec (.longPacket c p) s = .next t ∧ t.mem = stored (a + off) (slice p.payload 0 stride) ∧ t.obj = s.obj
            ∧ getChan t c = { x with buffer := some { b with units := b.units + 1, bytes := b.bytes + stride, last := s.swarm.time, dt := some (b.dt.getD p.dt) } })
      ∧ (∀ b, x.buffer = some b → x.streaming = false → closes (.frameEnd c { vc := x.vc, corrected := false }) b { x with discarding := false }))
    ∧ (16 ≤ c → c < 20 → (∀ (frame : Bytes) (b : OpenBuffer) (a : Nat), frame.length ≤ 1522 → s.swarm.locked = true → x.toRegion = false → x.buffer = some b →
          let r := etherRecord s c frame true
          256 + b.bytes + r.length ≤ 256 * x.bufParcels.toNat → ok b (256 + b.bytes) r.length a →
          ∃ t, exec (.ethernetFrameReceive c frame true) s = .next t ∧ t.mem = stored (a + (256 + b.bytes)) r ∧ t.obj = s.obj
            ∧ getChan t c = { x with buffer := some { b with units := b.units + 1, bytes := b.bytes + r.length, last := s.swarm.time } })
      ∧ (∀ b, x.buffer = some b → closes (.ingestFlushTimer c) b x))

/-- DOMAIN_CTRL, the end of CLOSING and of WAKING, and the Keeper's own wake, in every state of the domain. A request that names a region
which drains or loads is refused in both directions, gate and ungate; a later wish of an accepted DOMAIN_CTRL is met as the earlier one ends.
Rests on R190, R192, R269, R344, R345, R346, R358. -/
def Obligations.PowerDomains : Prop :=
  (∀ (m : Nat) (s : State),
      let p := (reqOf s m).p
      let d := leNat p 0 1
      let up := leNat p 1 1 = 1
      let x := getDom s d
      (askedLong 0x0302 m s = true → d < 64 → d ≠ 56 → leNat p 1 1 ≤ 1 → leNat p 2 1 ≤ 1 → domainRefused (taken s m) d (leNat p 1 1 = 1) = false →
        let older := fun (b : Bool) => ∀ e ∈ s.power.domCmds, e.2.1 = d → e.2.2 = b
        let after := fun (st : DomState) (l : List (CmdRef × Nat × Bool)) => ∃ v, answersWith (.domainCtrl m) m s 1 [] v ∧ (getDom v d).state = st
          ∧ (getDom v d).woa = (leNat p 2 1 == 1) ∧ v.power.domCmds = l
          ∧ (∀ e, e ≠ d → getDom v e = getDom s e) ∧ v.mem = s.mem ∧ v.obj = s.obj ∧ v.cmp = s.cmp
        let waits := fun (st : DomState) => after st (s.power.domCmds ++ [(refOf s m, d, leNat p 1 1 == 1)])
        let ends := fun (st : DomState) => after st (s.power.domCmds.filter (fun e => !(e.2.1 == d && e.2.2 == (leNat p 1 1 == 1))))
        (¬ up → x.state = .up → older false → waits .closing)
        ∧ (up → x.state = .closed → older true → s.power.supply ≠ .hold → waits .waking)
        ∧ (up → x.state = .closed → s.power.supply = .hold → waits .closed)
        ∧ (up → x.state = .up → ends .up) ∧ (¬ up → x.state = .closed → ends .closed)
        ∧ (x.state = .closing → waits .closing) ∧ (x.state = .waking → waits .waking)
        ∧ ∃ v, answersWith (.domainCtrl m) m s 1 [] v ∧ (getDom v d).woa = (leNat p 2 1 == 1) ∧ (∀ e, e ≠ d → getDom v e = getDom s e)
          ∧ v.mem = s.mem ∧ v.obj = s.obj ∧ v.cmp = s.cmp)
      ∧ (asked 0x0302 m s = true → (63 < d ∨ d = 56 ∨ 1 < leNat p 1 1 ∨ 1 < leNat p 2 1) → answersWith (.domainCtrl m) m s 0x1006 [] (taken s m))
      ∧ (asked 0x0302 m s = true → leNat p 1 1 ≤ 1 → leNat p 2 1 ≤ 1 → d ≠ 56 → d < 64 →
        ((∃ k ∈ domRegions d, (getRegion s k).state = .draining ∨ (getRegion s k).state = .loading) ∨ domainRefused (taken s m) d (leNat p 1 1 = 1) = true) →
          answersWith (.domainCtrl m) m s 0x2001 [] (taken s m)))
  ∧ (∀ (d : Nat) (s : State), d < 64 →
      let x := getDom s d
      let still := s.power.goal = none
      let wish := fun (b : Bool) => ∃ e ∈ s.power.domCmds, e.2.1 = d ∧ e.2.2 = b
      let left := fun (b : Bool) => s.power.domCmds.filter (fun e => !(e.2.1 == d && e.2.2 == b))
      let idle := fun (i : Instr) => exec i s = .next { s with free := s.free + 1 }
      (x.state = .closing → domainBusy s d = false → s.obj.slots.any (fun e => watchesDomain s d e.2) = false →
        ∃ t, exec (.domainClosed d) s = .next t ∧ ((getDom t d).state = .closed ∨ (getDom t d).state = .waking) ∧ t.mem = s.mem ∧ t.obj = s.obj
          ∧ (d < 48 → d % 12 < 8 → ∀ i, i < 4 → getCell t (d / 12) (4 * (d % 12) + i) = { state := .gated })
          ∧ (still → (∀ e, e ≠ d → getDom t e = getDom s e) ∧ t.power.domCmds = left false
            ∧ (¬ wish true → (getDom t d).state = .closed) ∧ (wish true → s.power.supply ≠ .hold → (getDom t d).state = .waking)))
      ∧ ((x.state ≠ .closing ∨ domainBusy s d = true ∨ s.obj.slots.any (fun e => watchesDomain s d e.2) = true) → idle (.domainClosed d))
      ∧ (x.state = .waking → ∃ t, exec (.domainUp d true) s = .next t ∧ ((getDom t d).state = .up ∨ (getDom t d).state = .closing)
          ∧ (getDom t d).notice = false ∧ (getDom t d).wakeFailed = false ∧ t.mem = s.mem ∧ t.obj = s.obj
          ∧ (d < 48 → d % 12 < 8 → ∀ i, i < 4 → getCell t (d / 12) (4 * (d % 12) + i) = {})
          ∧ (still → (∀ e, e ≠ d → getDom t e = getDom s e) ∧ t.power.domCmds = left true
            ∧ (¬ wish false → (getDom t d).state = .up) ∧ (wish false → (getDom t d).state = .closing)))
      ∧ (x.state = .waking → ∃ t, exec (.domainUp d false) s = .next t ∧ (getDom t d).state = .closed ∧ (getDom t d).wakeFailed = true
          ∧ t.power.domCmds = left true ∧ (∀ e, e ≠ d → getDom t e = getDom s e) ∧ t.mem = s.mem ∧ t.obj = s.obj ∧ t.cmp = s.cmp)
      ∧ (x.state ≠ .waking → ∀ ready, idle (.domainUp d ready))
      ∧ (x.notice = true → x.wakeFailed = false → dieServes s d = true → x.state = .closed → s.power.supply ≠ .hold →
          ∃ t, exec (.domainWake d) s = .next t ∧ (getDom t d).state = .waking ∧ (getDom t d).wakes = satAdd x.wakes 1
          ∧ (∀ e, e ≠ d → getDom t e = getDom s e) ∧ t.mem = s.mem ∧ t.obj = s.obj ∧ t.cmp = s.cmp)
      ∧ ((x.notice = false ∨ x.wakeFailed = true ∨ dieServes s d = false ∨ x.state ≠ .closed ∨ s.power.supply = .hold) → idle (.domainWake d)))

/-- PKG_STATE, CLOCK_SET, WAKE_CONFIG and the partitions that halt. Rests on R71, R348, R349, R350, R352, R353, R356. -/
def Obligations.PackageStateCommands : Prop :=
  (∀ (m : Nat) (s : State),
      let p := (reqOf s m).p
      let w := acceptedState s m
      let idle := s.power.goal = none ∧ s.power.parking = false ∧ cmdPending (taken s m) 0x0901 = false
      (asked 0x0301 m s = true → leNat p 0 1 = 1 → idle → liveCtxs s ≠ [] → answersWith (.pkgState m) m s 0x2001 [] (taken s m))
      ∧ (askedLong 0x0301 m s = true → leNat p 0 1 = 1 → idle → liveCtxs s = [] → outsideSafe s = false →
          s.flash.banks.any (fun e => e.2.activity != .idle) = false → ∃ v, answersWith (.pkgState m) m s 1 [] v ∧ v.boot.started = 0
          ∧ (v.power.goal = some (some (refOf s m), .parked) ∨ v.power.parking = true) ∧ v.mem = s.mem ∧ v.obj = s.obj)
      ∧ (askedLong 0x0301 m s = true → leNat p 0 1 = 2 → idle → (∀ c ∈ liveCtxs s, ctxState s c = .idle) → s.power.pkg = .standby →
          answersWith (.pkgState m) m s 1 [] (finishCmd (refOf s m) 0 [] w))
      ∧ (askedLong 0x0301 m s = true → leNat p 0 1 = 2 → idle → (∀ c ∈ liveCtxs s, ctxState s c = .idle) → s.power.pkg ≠ .standby →
          ∃ v, answersWith (.pkgState m) m s 1 [] v ∧ v.mem = s.mem ∧ v.obj = s.obj
            ∧ (v.power.goal = some (some (refOf s m), .standby) ∨ (v.power.goal = none ∧ v.power.pkg = .standby)))
      ∧ (∀ g, askedLong 0x0301 m s = true → (leNat p 0 1 = 3 ∧ g = PkgState.ready) ∨ (leNat p 0 1 = 4 ∧ g = .active) → idle →
          ∃ v, answersWith (.pkgState m) m s 1 [] v ∧ v.mem = s.mem ∧ v.obj = s.obj
            ∧ (v.power.goal = some (some (refOf s m), g) ∨ (v.power.goal = none ∧ ∀ e ∈ goalDomains w g, (getDom v e.1).state = e.2 ∨ dieServes s e.1 = false)))
      ∧ (asked 0x0301 m s = true → (leNat p 0 1 = 0 ∨ 4 < leNat p 0 1) → answersWith (.pkgState m) m s 0x1006 [] (taken s m))
      ∧ (asked 0x0301 m s = true → 1 ≤ leNat p 0 1 → leNat p 0 1 ≤ 4 → ¬ idle → answersWith (.pkgState m) m s 0x2001 [] (taken s m))
      ∧ (askedLong 0x0303 m s = true → 1 ≤ leNat p 0 1 → leNat p 0 1 ≤ 31 → leNat p 2 2 % 25 = 0 → 400 ≤ leNat p 2 2 → leNat p 2 2 ≤ 1200 →
          ∃ c, answersWith (.clockSet m) m s 1 [] (finishCmd (refOf s m) 0 [] { w with power := { s.power with clock := c } })
            ∧ ∀ d, Tbl.get 0 c d = if d < 5 ∧ leNat p 0 1 / 2 ^ d % 2 = 1 then leNat p 2 2 else Tbl.get 0 s.power.clock d)
      ∧ (asked 0x0304 m s = true → (le32 p 0 &&& 0xC000FF81 ≠ 0 → answersWith (.wakeConfig m) m s 0x1006 [] (taken s m))
        ∧ (le32 p 0 &&& 0xC000FF81 = 0 → leNat p 8 8 = 0 → answersWith (.wakeConfig m) m s 0 []
            { taken s m with power := { s.power with wakeEnable := le32 p 0 ||| 0x181, alarm := 0 } })
        ∧ (le32 p 0 &&& 0xC000FF81 = 0 → 2 ^ 48 ≤ leNat p 8 8 → answersWith (.wakeConfig m) m s 0x1006 [] (taken s m))
        ∧ (le32 p 0 &&& 0xC000FF81 = 0 → leNat p 8 8 < 2 ^ 48 → leNat p 8 8 ≠ 0 →
          let u := { taken s m with power := { s.power with wakeEnable := le32 p 0 ||| 0x181, alarm := BitVec.ofNat 48 (leNat p 8 8) } }
          ((s.power.rtc.toNat < leNat p 8 8 ∨ bitOf (le32 p 0) 4 = false) → answersWith (.wakeConfig m) m s 0 [] u)
          ∧ (leNat p 8 8 ≤ s.power.rtc.toNat → bitOf (le32 p 0) 4 = true → answersWith (.wakeConfig m) m s 0 [] (wakeUp (latchCause 4 0 u))))))
  ∧ (∀ (src v : W32) (n : Nat) (s : State), n < 16 →
      let own := srcUnit src = 2 ∧ srcSub src = n ∧ srcNode src = s.swarm.node
      (own → (s.power.goal = none ∨ bitOf v 0 = false) → ∃ t, exec (.partitionHalted src n v) s = .next t ∧ bitOf t.power.halted n = bitOf v 0
        ∧ (∀ k, k ≠ n → bitOf t.power.halted k = bitOf s.power.halted k)
        ∧ t = { s with keeper := { s.keeper with rsp := {} }, power := { s.power with halted := t.power.halted, halting := t.power.halting }, free := s.free + 1 })
      ∧ (own → ∃ t, exec (.partitionHalted src n v) s = .next t ∧ (bitOf t.power.halted n = bitOf v 0 ∨ (t.power.goal = none ∧ t.power.halted = 0))
          ∧ t.keeper.rsp = {} ∧ t.mem = s.mem ∧ t.obj = s.obj ∧ t.boot = s.boot)
      ∧ (¬ own → ∃ t, exec (.partitionHalted src n v) s = .next t ∧ t.keeper.rsp.status = 0x4001 ∧ t.keeper.violations = satAdd s.keeper.violations 1
        ∧ t = { s with keeper := t.keeper, free := s.free + 1 })
      ∧ (bitOf s.power.halting n = true → ∃ t, exec (.partitionHaltTimeout n) s = .next t ∧ bitOf t.boot.started n = false
        ∧ (∀ k, k ≠ n → bitOf t.boot.started k = bitOf s.boot.started k) ∧ t.mem = s.mem ∧ t.obj = s.obj)
      ∧ (bitOf s.power.halting n = false → exec (.partitionHaltTimeout n) s = .next { s with free := s.free + 1 }))

/-- Package reset, loss and return of supply, brownout and supply states: what each leaves, and which domains and clocks run after it. Rests
on R19, R269, R347, R348, R350, R352, R355, R358. -/
def Obligations.ResetAndSupply : Prop :=
  ∀ (s : State),
    let lost := fun (t : State) => t.obj = {} ∧ t.mem = {} ∧ t.cmp = {} ∧ t.frame = {} ∧ t.boot.step = 0
      ∧ t.flash.main = s.flash.main ∧ t.flash.info = s.flash.info ∧ t.test.fuses = s.test.fuses ∧ t.boot.settings = s.boot.settings ∧ t.faults.retired = s.faults.retired
    (∀ (strap : BitVec 2) (recoveryLow : Bool),
      (s.power.vbat = true → s.power.pwrEn = true → s.power.tripped = false → s.power.browned = false → ∃ t, exec (.packageReset strap recoveryLow) s = .next t ∧ lost t
        ∧ t.swarm.node = strap.toNat ∧ t.boot.strapLow = recoveryLow ∧ t.power.resetHeld = false ∧ (∀ k, (getRegion t k).state = .blank)
        ∧ t.power.rtc = s.power.rtc ∧ t.power.wakeCause = s.power.wakeCause ∧ t.power.wakeEnable = s.power.wakeEnable ∧ (getMbx t 1).mask = 0)
      ∧ ((s.power.vbat = false ∨ s.power.pwrEn = false ∨ s.power.tripped = true ∨ s.power.browned = true) → exec (.packageReset strap recoveryLow) s = .next { s with free := s.free + 1 }))
    ∧ (s.power.pkg = .off → ∃ t, exec .vbatRise s = .next t ∧ bitOf t.power.wakeCause 0 = true ∧ (∀ k, k ≠ 0 → bitOf t.power.wakeCause k = bitOf s.power.wakeCause k)
        ∧ (getDom t 56).state = .up ∧ (∀ d, d ≠ 56 → getDom t d = getDom s d)
        ∧ t = { s with
          net := { s.net with doms := t.net.doms },
          power := { s.power with
            vbat := true, pkg := .parked, pwrEn := true, ring := true, wakeCause := t.power.wakeCause, wakeHeld := s.power.wakeHeld || s.power.turnOff },
          free := s.free + 1 })
    ∧ (s.power.pkg ≠ .off → exec .vbatRise s = .next { s with free := s.free + 1 })
    ∧ (∃ t, exec .vbatLoss s = .next t ∧ lost t ∧ t.power.pkg = .off ∧ t.power.vbat = false ∧ t.power.pwrEn = false ∧ t.power.wakeCause = 0
        ∧ t.power.wakeEnable = 0x181 ∧ t.boot.keyRam = [] ∧ (∀ m, (getMbx t m).bound = none)
        ∧ (∀ d, d < 64 → (getDom t d).state = .closed) ∧ t.power.ring = false ∧ t.power.plls = [])
    ∧ (s.power.parking = true → ∃ t, exec .pwrEnLower s = .next t ∧ lost t ∧ t.power.pkg = .parked ∧ t.power.pwrEn = s.power.startAfterPark
        ∧ t.power.resetHeld = true ∧ t.power.wakeCause = s.power.wakeCause ∧ t.power.rtc = s.power.rtc ∧ t.boot.keyRam = s.boot.keyRam
        ∧ (∀ d, d < 64 → ((getDom t d).state = .up ↔ d = 56) ∧ (d ≠ 56 → (getDom t d).state = .closed))
        ∧ t.power.ring = s.power.startAfterPark ∧ t.power.plls = [])
    ∧ (s.power.parking = false → exec .pwrEnLower s = .next { s with free := s.free + 1 })
    ∧ (s.power.pkg ≠ .off → s.power.pkg ≠ .parked → ∃ t, exec .brownoutReset s = .next t ∧ lost t ∧ t.power.resetHeld = true ∧ bitOf t.power.wakeCause 7 = true
        ∧ t.power.browned = true ∧ (∀ m, (getMbx t m).bound = none) ∧ t.power.rtc = s.power.rtc)
    ∧ ((s.power.pkg = .off ∨ s.power.pkg = .parked) → exec .brownoutReset s = .next { s with free := s.free + 1 })
    ∧ (∀ volts,
      let n := supplyNext s.power.supply volts
      (s.power.pkg ≠ .off → s.power.pkg ≠ .parked →
        (n = s.power.supply → exec (.supplyStateChange volts) s
          = .next { s with
            power := { s.power with volts := BitVec.ofNat 12 (min volts 4095), supply := n, browned := s.power.browned && decide (volts ≤ 1650) },
            free := s.free + 1 })
        ∧ ∃ t, exec (.supplyStateChange volts) s = .next t ∧ t.power.supply = n
          ∧ t.power.browned = (s.power.browned && decide (volts ≤ 1650)) ∧ t.mem = s.mem ∧ t.obj = s.obj
          ∧ (n = .hold → s.power.supply ≠ .hold → ∀ d, d < 6 → Tbl.get 0 t.power.level d = 8))
      ∧ ((s.power.pkg = .off ∨ s.power.pkg = .parked) → exec (.supplyStateChange volts) s = .next { s with free := s.free + 1 }))

/-- THROTTLE_TICK, thermal hold and trip, and the lifetime record. Rests on R360, R361, R505. -/
def Obligations.ThermalLimits : Prop :=
  ∀ (s : State),
    (∀ (temps : List W16) (watts : Nat), temps.length = 6 →
      let l := (watts :: s.power.watts).take 10
      ∃ t, exec (.throttleTick temps watts) s = .next t ∧ t.power.watts = l ∧ t.mem = s.mem ∧ t.obj = s.obj ∧ t.net = s.net
        ∧ ∀ d, d < 6 →
          let temp := (temps.getD d 0).toInt
          let cool := if temp < 220 ∧ 100 * watts < 95 * 375 then Tbl.get 0 s.power.coolTicks d + 1 else 0
          let old := (Tbl.get (0 : BitVec 4) s.power.level d).toNat
          Tbl.get 0 t.power.tj d = temps.getD d 0 ∧ Tbl.get 0 t.power.coolTicks d = min cool 100
          ∧ (Tbl.get (0 : BitVec 4) t.power.level d).toNat
              = if bitOf s.power.thermalHold d ∨ s.power.supply = .hold then 8 else if 230 ≤ temp ∨ 375 * l.length < l.foldl (· + ·) 0 then min 8 (old + 1)
                else if 100 ≤ cool then old - 1 else old)
    ∧ (∀ (d : Nat) (temp : W16), d < 6 →
      (256 ≤ temp.toInt → ∃ t, exec (.thermalHold d temp) s = .next t ∧ Tbl.get 0 t.power.level d = 8 ∧ bitOf t.power.thermalHold d = true
        ∧ (∀ k, k ≠ d → Tbl.get 0 t.power.level k = Tbl.get 0 s.power.level k) ∧ t.mem = s.mem ∧ t.obj = s.obj)
      ∧ (temp.toInt < 256 → ∃ t, exec (.thermalHold d temp) s = .next t ∧ t.power = { s.power with tj := Tbl.set 0 s.power.tj d temp } ∧ t.keeper = s.keeper ∧ t.obj = s.obj)
      ∧ (∃ t, exec (.thermalHoldRelease d temp) s = .next t ∧ Tbl.get 0 t.power.tj d = temp
        ∧ bitOf t.power.thermalHold d = (bitOf s.power.thermalHold d && decide (250 ≤ temp.toInt)) ∧ t.power.level = s.power.level ∧ t.keeper = s.keeper ∧ t.obj = s.obj)
      ∧ (270 ≤ temp.toInt → s.power.pkg ≠ .off → s.power.pkg ≠ .parked → ∃ t, exec (.thermalTrip d temp) s = .next t ∧ t.power.tripped = true
        ∧ t.power.resetHeld = true ∧ bitOf t.power.wakeCause 8 = true ∧ t.obj = {} ∧ t.mem = {} ∧ t.flash.main = s.flash.main)
      ∧ ((temp.toInt < 270 ∨ s.power.pkg = .off ∨ s.power.pkg = .parked) → exec (.thermalTrip d temp) s = .next { s with free := s.free + 1 }))
    ∧ (∀ (temps : List W16), temps.length = 6 → exec (.thermalTripRestart temps) s = .next { s with
        power := { s.power with tripped := if temps.all (fun t => decide (t.toInt < 220)) then false else s.power.tripped }, free := s.free + 1 })
    ∧ exec .lifetimeRecord s = .next { s with
        test := { s.test with saved := s.test.counters, savedOvf := s.test.ovf, savedHigh := s.test.tjHigh, savedLow := s.test.tjLow }, free := s.free + 1 }

/-- Wake sources, PME_Turn_Off, PERST#, WAKE# and the link coming up. Rests on R352, R353, R354, R355, R362, R363, R500. -/
def Obligations.HostResumeAndWake : Prop :=
  ∀ (s : State),
    (∀ cause unit, cause < 9 → unit < (if cause = 1 then 6 else if cause = 2 ∨ cause = 3 then 4 else 1) →
      let p := s.power
      let toPark := p.parking || p.goal.any (fun g => g.2 == .parked)
      ((p.vbat = false ∨ causeArmed s cause unit = false) → exec (.wakeSource cause unit) s = .next { s with free := s.free + 1 })
      ∧ (p.vbat = true → causeArmed s cause unit = true → (p.pkg ≠ .standby ∨ p.goal ≠ none ∨ p.parking = true) →
        ∃ t, exec (.wakeSource cause unit) s = .next t ∧ bitOf t.power.wakeCause cause = true
          ∧ (cause = 1 → bitOf t.power.wakeCause (16 + unit) = true) ∧ (cause = 2 → bitOf t.power.wakeCause (22 + unit) = true)
          ∧ (cause = 3 → bitOf t.power.wakeCause (26 + unit) = true) ∧ (∀ k, bitOf p.wakeCause k = true → bitOf t.power.wakeCause k = true)
          ∧ t = { s with
            power := { p with
              wakeCause := t.power.wakeCause, pwrEn := p.pwrEn || decide (p.pkg = .parked), ring := p.ring || decide (p.pkg = .parked),
              wakeHeld := p.wakeHeld || p.turnOff, startAfterPark := p.startAfterPark || (toPark && decide (p.pkg ≠ .parked)) },
            free := s.free + 1 })
      ∧ (p.vbat = true → causeArmed s cause unit = true → p.pkg = .standby → p.goal = none → p.parking = false →
        ∃ t, exec (.wakeSource cause unit) s = .next t ∧ t.mem = s.mem ∧ t.obj = s.obj
          ∧ ((t.power.goal = some (none, .ready) ∧ bitOf t.power.wakeCause cause = true)
            ∨ (t.power.goal = none ∧ (t.power.pkg = .ready ∨ t.power.pkg = .active)))))
    ∧ (exec .pmeTurnOff s = .next { s with power := { s.power with turnOff := s.power.turnOff || s.power.pcieUp }, free := s.free + 1 })
    ∧ ((s.power.turnOff = false ∨ (getDom s 61).state ≠ .up) →
      exec .perstAssert s = .next { s with power := { s.power with perst := true, pcieUp := false }, free := s.free + 1 })
    ∧ (s.power.turnOff = true → (getDom s 61).state = .up → ∃ t, exec .perstAssert s = .next t ∧ (getDom t 61).state = .closing ∧ t.power.perst = true
        ∧ t.power.pcieUp = false ∧ (∀ d, d ≠ 61 → getDom t d = getDom s d) ∧ t.mem = s.mem ∧ t.obj = s.obj)
    ∧ (s.power.perst = true → ∃ t, exec .perstDeassert s = .next t ∧ t.power.perst = false ∧ t.power.wakePin = false ∧ t.power.turnOff = false
        ∧ t.mem = s.mem ∧ t.obj = s.obj
        ∧ (s.power.pkg ≠ .off → s.power.pkg ≠ .parked → (getDom s 61).state = .closed → s.power.supply ≠ .hold → (getDom t 61).state = .waking))
    ∧ (s.power.perst = false → exec .perstDeassert s = .next { s with free := s.free + 1 })
    ∧ (exec .wakeAssert s = .next { (if s.power.perst ∧ s.power.wakeHeld ∧ s.power.turnOff
        then { s with power := { s.power with wakePin := true, wakeHeld := false } } else s) with free := s.free + 1 })
    ∧ (s.power.perst = false → (getDom s 61).state = .up → s.power.resetHeld = false → (getPat s 5 0).enable = false →
        ∃ t, exec .pcieLinkUp s = .next t ∧ t.power.pcieUp = true
        ∧ t.power.turnOff = false ∧ t.power.wakeCause = 0 ∧ t.mem = s.mem ∧ t.obj = s.obj
        ∧ ∀ m, m < 32 → (getMbx t m).events = if (getMbx s m).bound.any (fun b => srcUnit b == 3)
            then ⟨0xE002, toLE 4 s.power.wakeCause.toNat ++ toLE 6 s.power.rtc.toNat⟩ :: (makeRoom (getMbx s m)).events else (getMbx s m).events)
    ∧ ((s.power.perst = true ∨ (getDom s 61).state ≠ .up ∨ s.power.resetHeld = true ∨ (getPat s 5 0).enable = true) →
        exec .pcieLinkUp s = .next { s with free := s.free + 1 })

/-- A region that drains or loads refuses DOMAIN_CTRL on its power group, and a package reset during a load blanks the regions of
its mask. Rests on R269. -/
def Obligations.LoadingRegions : Prop :=
  (∀ (m k : Nat) (s : State),
      let p := (reqOf s m).p
      let d := leNat p 0 1
      let group := d = 49 ∨ (d = 51 ∧ (k = 1 ∨ k = 2)) ∨ (d = 52 ∧ (k = 3 ∨ k = 4)) ∨ (d = 53 ∧ (k = 5 ∨ k = 6))
      asked 0x0302 m s = true → leNat p 1 1 ≤ 1 → leNat p 2 1 ≤ 1 → k < 7 → group → ((getRegion s k).state = .draining ∨ (getRegion s k).state = .loading) →
        answersWith (.domainCtrl m) m s 0x2001 [] (taken s m))
  ∧ (∀ (i : Instr) (s : State) (l : FrameLoad), s.frame.cfg.load = some l → s.power.pkg ≠ .off → s.power.pkg ≠ .parked →
      ((∃ strap low, i = .packageReset strap low ∧ s.power.vbat = true ∧ s.power.pwrEn = true ∧ s.power.tripped = false ∧ s.power.browned = false) ∨ i = .brownoutReset
        ∨ ∃ d temp, i = .thermalTrip d temp ∧ d < 6 ∧ 270 ≤ temp.toInt) →
      ∃ t, exec i s = .next t ∧ t.frame.cfg.load = none ∧ ∀ k, k ∈ l.regions → (getRegion t k).state = .blank)

/-- What the certificates and the signature are is left open (uninterpreted functions of Config). Rests on R57, R291, R293, R333,
R334, R396, R505. -/
def Obligations.ServiceObjects : Prop :=
  ∀ (m : Nat) (s : State),
    let r := reqOf s m
    let p := r.p
    let u := taken s m
    let dest := fun (off size i : Nat) (anyone : Bool) => resolve s (le32 p off) = some i ∧ (getMot s i).kind = 1 ∧ bitOf (getMot s i).perm 1 = true
      ∧ size ≤ 256 * (getMot s i).size ∧ (anyone = true ∨ mineObj r s (getMot s i) = true) ∧ bitOf (getMot s i).lock 0 = false
      ∧ (localCtx s (getMot s i).owner.toNat).any (fun c => inReset (getCtx s c)) = false
      ∧ reachCheck s .keeper (getMot s i).base (256 * (getMot s i).size) = 0
    (∀ i, asked 0x0601 m s = true → dest 4 0 i (decide (m ≤ 1)) → le32 p 0 ≠ 0xFFFFFFFF → ((le32 p 0 - oldestIndex s).toNat < 2 ^ 31) →
        let l := s.faults.log.filter (fun x => decide ((x.index - le32 p 0).toNat < 2 ^ 31) && mayRead s m x)
        let n := (getMot s i).size / 16
        let next := ((l[n]?).map FaultRecord.index).getD s.faults.next
        ∃ v, answersWith (.faultRead m) m s 0 (toLE 2 (l.take n).length ++ [0, 0] ++ toLE 4 next.toNat) v
          ∧ v.mem = (memWrite u (getMot s i).base ((l.take n).map recordBytes).flatten).mem ∧ v.obj = s.obj ∧ v.boot = s.boot
          ∧ v.faults = { s.faults with log := s.faults.log.map (fun x => if (l.take n).any (fun y => y.index == x.index) then { x with read := true } else x) })
    ∧ (asked 0x0602 m s = true → answersWith (.faultPolicy m) m s 0x1009 [] u)
    ∧ (∀ i, asked 0x0902 m s = true → dest 0 24576 i (decide (m ≤ 1)) →
        answersWith (.lifetimeRead m) m s 0 [0x00, 0x60] (memWrite u (getMot s i).base (lifetimeBytes s)))
    ∧ (∀ i, asked 0x0703 m s = true → dest 32 8192 i false →
        ∃ chain report, slice report 8 32 = p.take 32 ∧ slice report 0 4 = [0x5A, 0x41, 0x54, 0x54] ∧ report.length = 272 ∧ 1 ≤ chain.length ∧ chain.length ≤ 2048
          ∧ (let l := report ++ slice (Config.ecdsaSign 0 s.boot.signatures report) 0 96 ++ chain ++ certificate (Config.productionBytes 1 0)
            answersWith (.attest m) m s 0 (toLE 2 l.length)
              { memWrite u (getMot s i).base l with boot := { s.boot with signatures := s.boot.signatures + 1 } }))
    ∧ (∀ i, asked 0x0704 m s = true → resolve s (le32 p 4) = some i → (getMot s i).kind = 1 → bitOf (getMot s i).perm 0 = true →
        (localCtx s (getMot s i).owner.toNat).any (fun c => inReset (getCtx s c)) = false → reachCheck s .keeper (getMot s i).base 64 = 0 →
        (checksOk s (getMot s i).base 64 = false → answersWith (.keyRamWrite m) m s 0x4003 [] (keeperCheckRecord (getMot s i).base u)) ∧
        (checksOk s (getMot s i).base 64 = true → leNat p 0 1 ≤ 7 →
        let b := memRead u (getMot s i).base 64
        let key := Config.gcmOpen (fuseBytes s 5 32) (slice b 4 12) (slice b 0 4) (slice b 16 32) (slice b 48 16)
        (leNat b 0 1 = leNat p 0 1 → ∀ k, key = some k →
          answersWith (.keyRamWrite m) m s 0 [] { u with boot := { s.boot with keyRam := Tbl.set [] s.boot.keyRam (leNat p 0 1) (slice k 0 32) } })
        ∧ ((key = none ∨ leNat b 0 1 ≠ leNat p 0 1) → answersWith (.keyRamWrite m) m s 0x4003 [] u)))
    ∧ (asked 0x0A01 m s = true → answersWith (.safetyStatus m) m s 0 (slice (published s) 0 32) u)

/-- SETTINGS, UPDATE_APPLY, SLOT_SWITCH, SELF_TEST, the fuse bank and debug. Rests on R57, R288, R319, R335, R337, R338, R339, R501,
R502, R503, R504. -/
def Obligations.ServiceControl : Prop :=
  ∀ (m : Nat) (s : State),
    let p := (reqOf s m).p
    let u := taken s m
    let w := acceptedState s m
    let id := leNat p 2 2
    let n := leNat p 4 1
    let v := slice p 8 n
    let most := if id = 1 then 2 else if id = 2 then 1 else 48
    let busy := bankBusy s 0 && bankBusy s 1
    let supplied := s.power.supply = .normal ∨ s.power.supply = .overvoltage
    (asked 0x0705 m s = true → zeroIn p (8 + n) 56 = true →
      (id ≠ 1 → id ≠ 2 → id < 0x8000 → answersWith (.settings m) m s 0x1006 [] u)
      ∧ ((id = 1 ∨ id = 2) → leNat p 0 1 = 0 → n ≤ most → answersWith (.settings m) m s 0 (settingAnswer (settingValue s id)) u)
      ∧ ((id = 1 ∨ id = 2 ∨ 0x8000 ≤ id) → leNat p 0 1 = 1 → n ≤ most → id ≠ 0xFFFF → (id = 2 → leNat v 0 1 ≤ 1) →
          (busy = true → answersWith (.settings m) m s 0x6002 [] u)
          ∧ (busy = false → supplied → ∃ l, answersWith (.settings m) m s 0 (settingAnswer v)
              { u with boot := { s.boot with settings := l, settingSeq := s.boot.settingSeq + 1 } }
            ∧ ∀ k, (l.find? (fun e => e.1 == k)).map Prod.snd = if k = id
                then some { format := if id = 1 ∨ id = 2 then 1 else 0, value := v, seq := s.boot.settingSeq } else settingOf s k)))
    ∧ (askedLong 0x0701 m s = true → ∀ (ok : Bool) (i : Nat), resolve s (le32 p 0) = some i → (getMot s i).kind = 1 → bitOf (getMot s i).perm 0 = true →
        leNat p 8 8 ≤ 256 * (getMot s i).size → (localCtx s (getMot s i).owner.toNat).any (fun c => inReset (getCtx s c)) = false →
        reachCheck s .keeper (getMot s i).base (256 * (getMot s i).size) = 0 → cmdPending s 0x0701 = false → cmdPending s 0x0702 = false →
        busy = false → supplied →
        let l := memRead u (getMot s i).base (leNat p 8 8)
        ((keeperCopy l w).2 = none → answersWith (.updateApply m ok) m s 0x6001 [] u) ∧
        ((keeperCopy l w).2.isSome = true → checksOk s (getMot s i).base (leNat p 8 8) = false →
          ∃ t, answersWith (.updateApply m ok) m s 1 [] (finishCmd (refOf s m) 0x4003 [] t) ∧ t.flash = s.flash ∧ t.boot = s.boot) ∧
        ((keeperCopy l w).2.isSome = true → checksOk s (getMot s i).base (leNat p 8 8) = true →
        ∃ st t, answersWith (.updateApply m ok) m s 1 [] (finishCmd (refOf s m) st [] t) ∧ (∀ k, (getMbx t k).accepted = (getMbx w k).accepted) ∧ t.test = s.test ∧ t.boot.opt = s.boot.opt
          ∧ (deltaCheck s l ≠ 0 → st = deltaCheck s l ∧ t.flash = s.flash ∧ t.boot = s.boot)
          ∧ (deltaCheck s l = 0 → ok = false → st = 0x500B)
          ∧ (∀ a, ¬ (2 ^ 23 * b2n (!s.boot.slot) ≤ a ∧ a < 2 ^ 23 * b2n (!s.boot.slot) + slotBytes) → Tbl.get 0xFF t.flash.main a = Tbl.get 0xFF s.flash.main a)))
    ∧ (asked 0x0702 m s = true → leNat p 0 1 ≤ 1 → leNat p 1 1 ≤ 1 →
        let slot := leNat p 0 1 == 1
        let trial := leNat p 1 1 == 1
        let o := s.boot.opt
        ((slot = s.boot.slot ∧ trial = true ∨ slotCompleteFrom s 0 slot = false) → answersWith (.slotSwitch m) m s 0x2001 [] u)
        ∧ (¬ (slot = s.boot.slot ∧ trial = true) → slotCompleteFrom s 0 slot = true →
          (leNat (slotManifest s slot) 8 4 < fuseCounter s → answersWith (.slotSwitch m) m s 0x4004 [] u)
          ∧ (fuseCounter s ≤ leNat (slotManifest s slot) 8 4 → busy = false → supplied → pendingFull u m = false →
            (slot = s.boot.slot → o.trial = false → s.boot.rolledBack = false → answersWith (.slotSwitch m) m s 1 [] (finishCmd (refOf s m) 0 [] w))
            ∧ ((slot ≠ s.boot.slot ∨ o.trial = true ∨ s.boot.rolledBack = true) → ∃ l, answersWith (.slotSwitch m) m s 1 []
                (finishCmd (refOf s m) 0 [] (writeOption (if o.copy = 0 then 1 else 0) (optionImage l (o.sequence + 1) slot trial) w))
              ∧ ((∀ c ∈ components (slotManifest s slot), c.kind ≠ 5) → l = o.raw)))))
    ∧ (∀ (cut : W32) (failing : List W32),
        (asked 0x0901 m s = true → field (le32 p 0) 31 9 ≠ 0 → answersWith (.selfTest m cut failing) m s 0x1006 [] u)
        ∧ (asked 0x0901 m s = true → field (le32 p 0) 31 9 = 0 → s.obj.ctxs.any (fun e => e.2.live) = true → answersWith (.selfTest m cut failing) m s 0x2001 [] u)
        ∧ (askedLong 0x0901 m s = true → field (le32 p 0) 31 9 = 0 → s.obj.ctxs.any (fun e => e.2.live) = false → s.power.pkg = .ready →
            s.power.supply = .normal → cmdPending u 0x0901 = false →
            (∀ k, k < 7 → (getRegion s k).state ≠ .held ∧ (getRegion s k).state ≠ .running) →
            let covered := fun (x : W32) => (testsRun s (le32 p 0) cut).any (fun t => testCovers s t x)
            ∃ e t, answersWith (.selfTest m cut failing) m s 1 [] (finishCmd (refOf s m) 0 e t) ∧ t.obj = s.obj ∧ t.flash = s.flash ∧ t.boot = s.boot
              ∧ (∀ x ∈ failing, covered x = true → resClass x < 8 → x ∈ t.faults.retired)
              ∧ (∀ x ∈ s.faults.retired, covered x = true → x ∉ failing → x ∉ t.faults.retired)
              ∧ (bitOf (le32 p 0) 4 = true → bitOf cut 4 = false → ∀ k, k < 7 → (getRegion t k).state = .blank)))
    ∧ (∀ (f : Nat) (lock : Bool) (b : List Bool), f < 8 →
        let x := Tbl.get {} s.test.fuses f
        ((pkgAlive s = false ∨ s.flash.romPhase = false) → exec (.fuseWrite f lock b) s = .next { s with free := s.free + 1 })
        ∧ (pkgAlive s = true → s.flash.romPhase = true → (x.lock = true ∨ f = 4) →
            exec (.fuseWrite f lock b) s = .next { s with test := { s.test with fuseStatus := true }, free := s.free + 1 })
        ∧ (pkgAlive s = true → s.flash.romPhase = true → x.lock = false → f ≠ 4 → ∃ t, exec (.fuseWrite f lock b) s = .next t ∧ t.test.fuseStatus = false
            ∧ (Tbl.get {} t.test.fuses f).lock = lock ∧ (∀ i, Tbl.get false (Tbl.get {} t.test.fuses f).bits i = (Tbl.get false x.bits i || decide (i < fuseWidth f) && b.getD i false))
            ∧ (∀ k, k ≠ f → Tbl.get {} t.test.fuses k = Tbl.get {} s.test.fuses k)
            ∧ t = { s with test := { s.test with fuses := t.test.fuses, fuseStatus := false }, free := s.free + 1 }))
    ∧ (∀ key sig,
        let known := Config.sha384 key = fuseBytes s 3 48 ∨ Config.sha384 key = fuseBytes s 6 48
        let good := known ∧ Config.ecdsaVerify key (freeBytes s 0 32 ++ slice (Config.productionBytes 0 0) 0 16) sig = true
        ((pkgAlive s = false ∨ ¬ good) → exec (.debugUnlock key sig) s = .next { s with free := s.free + 1 })
        ∧ (pkgAlive s = true → good → ∃ t, exec (.debugUnlock key sig) s = .next t ∧ t.test.debugOpen = true
            ∧ Tbl.get 0 t.test.counters 13 = satAdd (Tbl.get 0 s.test.counters 13) 1 ∧ (∀ i, i ≠ 13 → Tbl.get 0 t.test.counters i = Tbl.get 0 s.test.counters i)
            ∧ t.test.fuses = s.test.fuses ∧ t = { s with test := t.test, free := s.free + 1 }))

/-- CTX_RESET, CONTEXT_RESET, DIE_RECOVER, the drain timeout and DIE_RECOVERY. Rests on R230, R288, R289, R294, R295, R296, R298. -/
def Obligations.ResetAndRecovery : Prop :=
  (∀ (m : Nat) (s : State),
      let p := (reqOf s m).p
      let w := acceptedState s m
      (askedLong 0x0603 m s = true → ∀ c, localCtx s (leNat p 0 2) = some c → mineCtx (reqOf s m) s (getCtx s c) = true → inReset (getCtx s c) = false →
        ∃ t r, answersWith (.ctxReset m) m s 1 [] { w with obj := { s.obj with
            ctxs := t, queues := Tbl.mapAll {} (fun _ q => if q.live ∧ q.ctx.toNat = leNat p 0 2 then
              { q with state := (if q.state = .ready then .hold else q.state), holdMark := q.submitted } else q) s.obj.queues } }
          ∧ Tbl.get {} t c = { getCtx s c with state := .resetting, fault := some r, counted := none, done := (getCtx s c).done ++ [refOf s m] }
          ∧ r.code = 0x5004 ∧ r.action = 2 ∧ r.context.toNat = leNat p 0 2 ∧ ∀ k, k ≠ c → Tbl.get {} t k = getCtx s k)
      ∧ (asked 0x0604 m s = true → (4 < leNat p 0 1 → answersWith (.dieRecover m) m s 0x1006 [] (taken s m))
        ∧ (leNat p 0 1 ≤ 4 → (getDie s (leNat p 0 1)).state ≠ .inService → answersWith (.dieRecover m) m s 0x2001 [] (taken s m)))
      ∧ (askedLong 0x0604 m s = true → leNat p 0 1 ≤ 4 → (getDie s (leNat p 0 1)).state = .inService → s.swarm.node < 4 →
        ∃ v, answersWith (.dieRecover m) m s 1 [] v ∧ (getDie v (leNat p 0 1)).state = .recovering ∧ (getDie v (leNat p 0 1)).cmds = [refOf s m]
          ∧ (∀ c, c < 256 → (getCtx s c).live = true → workOnDie s c (leNat p 0 1) = true → inReset (getCtx v c) = true)
          ∧ (∀ d, d ≠ leNat p 0 1 → getDie v d = getDie s d) ∧ v.mem = s.mem))
  ∧ (∀ (c : Nat) (s : State), c < 256 → s.swarm.node < 4 →
      let x := getCtx s c
      let id := 256 * s.swarm.node + c
      (x.live = true → x.state = .resetting → ∀ r, x.fault = some r →
        ∃ t, exec (.contextReset c) s = .next t ∧ (getCtx t c).live = true ∧ (getCtx t c).fault = none
          ∧ (getCtx t c).state = (if x.node = s.swarm.node ∧ (getMbx s x.mailbox).revoking.isSome = true then .destroying else .idle)
          ∧ (∀ d k, (getCell t d k).job.any (fun j => j.ctx.toNat == id) = false) ∧ t.obj.signals = s.obj.signals.filter (fun g => !signalOfCtx id g)
          ∧ (r.code.toNat < 2 ^ 15 → ∀ i, (getMot s i).kind = 2 → (getMot s i).owner.toNat = id → bitOf (fenceWord t i) 63 = true)
          ∧ (t.faults.log.getLast?).map FaultRecord.code = some r.code ∧ t.faults.ctxResets = satAdd s.faults.ctxResets 1 ∧ t.mem = s.mem
          ∧ ∀ k, k ≠ c → getCtx t k = getCtx s k)
      ∧ (x.live = true → x.state = .destroying → ∃ t, exec (.contextReset c) s = .next t ∧ getCtx t c = {} ∧ (∀ k, k ≠ c → getCtx t k = getCtx s k)
          ∧ (∀ q, (getQueue s q).live = true → (getQueue s q).ctx.toNat = id → (getQueue t q).live = false)
          ∧ (∀ i, (getMot s i).kind ≠ 0 → (getMot s i).owner.toNat = id → (getMot t i).kind = 0) ∧ t.mem = s.mem)
      ∧ ((inReset x = false ∨ x.live = false) → exec (.contextReset c) s = .next { s with free := s.free + 1 })
      ∧ (∀ d, d < 5 → x.live = true → inReset x = true → (getDie s d).state = .inService →
        ∃ t, exec (.contextResetDrainTimeout c d) s = .next t ∧ (getDie t d).state = .recovering ∧ (getDie t d).firstCtx.toNat = id ∧ t.mem = s.mem)
      ∧ (∀ d, d < 5 → x.live = true → inReset x = true → (getDie s d).state ≠ .inService →
        ∃ t, exec (.contextResetDrainTimeout c d) s = .next t ∧ (∀ k, getDie t k = getDie s k) ∧ t.mem = s.mem ∧ t.obj = s.obj)
      ∧ (∀ d, d < 5 → (x.live = false ∨ inReset x = false) → exec (.contextResetDrainTimeout c d) s = .next { s with free := s.free + 1 }))
  ∧ (∀ (d : Nat) (refreshOk : Bool) (failing : List Nat) (s : State), d < 5 →
      ((getDie s d).state = .recovering → (liveCtxs s).all (fun c => !inReset (getCtx s c) || !workOnDie s c d) = true →
        ∃ t, exec (.dieRecovery d refreshOk failing) s = .next t
          ∧ ((getDie t d).state = .inService ∨ (getDie t d).state = .retired ∧ resourceId 4 (s.swarm.node * 6 + d) ∈ t.faults.retired)
          ∧ t.faults.dieRecoveries = satAdd s.faults.dieRecoveries 1 ∧ (∀ k, k < 32 → (getCell t d k).job = none) ∧ t.obj = s.obj)
      ∧ (((getDie s d).state ≠ .recovering ∨ (liveCtxs s).all (fun c => !inReset (getCtx s c) || !workOnDie s c d) = false) → exec (.dieRecovery d refreshOk failing) s = .next { s with free := s.free + 1 }))

/-- LPDDR_CHECK_FAIL, RESIDUE_MISMATCH, HANG_DETECT, UCIE_RETRAIN and the pattern checkers. Rests on R225, R283, R285, R286, R288,
R289, R499, R500. -/
def Obligations.CheckAndHangFaults : Prop :=
  ∀ (s : State), s.swarm.node < 4 →
    (∀ (src : W32) (ctx : W16) (addr : BitVec 48),
      let d := addrDie addr.toNat
      let unit := 4 ≤ srcUnit src ∧ srcUnit src ≤ 7 ∨ srcUnit src = 10
      addrNode addr.toNat = s.swarm.node → rangeOf s d (addrLoc addr.toNat) = .lpddr →
      (∃ t, exec (.lpddrCheckFail src ctx addr true) s = .next t ∧ (t.faults.log.getLast?).map (fun r => (r.code, r.kind, bitOf r.flags 1)) = some (0x5001, 1, true)
        ∧ t = { s with faults := t.faults, free := s.free + 1 })
      ∧ ∃ t, exec (.lpddrCheckFail src ctx addr false) s = .next t ∧ t.mem = { s.mem with bad := Tbl.set false s.mem.bad (addr.toNat / 256) true }
        ∧ (unit → ∀ c, localCtx s ctx.toNat = some c → inReset (getCtx t c) = true)
        ∧ (¬ unit → t.keeper.rsp.status = 0x5001 ∧ (t.faults.log.getLast?).map FaultRecord.code = some 0x5001 ∧ t.obj = s.obj))
    ∧ (∀ (src : W32) (ctx : W16) (addr : BitVec 48) (ok : Bool),
      (addrNode addr.toNat ≠ s.swarm.node ∨ rangeOf s (addrDie addr.toNat) (addrLoc addr.toNat) ≠ .lpddr) →
      exec (.lpddrCheckFail src ctx addr ok) s = .next { s with free := s.free + 1 })
    ∧ (∀ (die inst : Nat) (e f : Byte), die < 4 → inst < 32 →
      ((getCell s die inst).job = none → exec (.residueMismatch 4 die inst e f) s = .next { s with free := s.free + 1 })
      ∧ ∀ j c, (getCell s die inst).job = some j → localCtx s j.ctx.toNat = some c → inReset (getCtx s c) = false →
        ∃ t, exec (.residueMismatch 4 die inst e f) s = .next t ∧ (getCtx t c).state = .resetting ∧ ((getCtx t c).fault).map FaultRecord.code = some 0x5002
          ∧ t.mem = s.mem ∧ t.cmp = s.cmp ∧ ∀ k, k ≠ c → getCtx t k = getCtx s k)
    ∧ (∀ (kind die inst : Nat) (e f : Byte), (kind = 5 ∧ die < 4 ∧ inst < 8) ∨ (kind = 6 ∧ die = 4 ∧ inst < 96) →
      (unitCtx s kind die inst = none → exec (.residueMismatch kind die inst e f) s = .next { s with free := s.free + 1 })
      ∧ ∀ i c, unitCtx s kind die inst = some i → localCtx s i.toNat = some c → inReset (getCtx s c) = false →
        ∃ t, exec (.residueMismatch kind die inst e f) s = .next t ∧ (getCtx t c).state = .resetting ∧ ((getCtx t c).fault).map FaultRecord.code = some 0x5002
          ∧ t.mem = s.mem ∧ t.cmp = s.cmp ∧ ∀ k, k ≠ c → getCtx t k = getCtx s k)
    ∧ (∀ (die inst : Nat) (e f : Byte), die < 4 → inst < 16 →
      let x := getColl s (16 * die + inst)
      (x.state ≠ .armed → exec (.residueMismatch 0 die inst e f) s = .next { s with free := s.free + 1 })
      ∧ (x.state = .armed → ∃ t, exec (.residueMismatch 0 die inst e f) s = .next t ∧ t.mem = s.mem ∧ (getColl t (16 * die + inst)).state = .failed
        ∧ (getColl t (16 * die + inst)).code = 0x5002 ∧ ∀ c, localCtx s x.owner.toNat = some c → inReset (getCtx t c) = true))
    ∧ (∃ t, exec .hangDetect s = .next t ∧ t.mem = s.mem ∧ t.cmp = s.cmp
      ∧ ((∀ e ∈ s.obj.queues, e.2.inflight = []) → (∀ e ∈ s.cmp.slots, e.2.state ≠ .armed) → t = { s with free := s.free + 1 })
      ∧ ∀ q c, (getQueue s q).live = true → localCtx s (getQueue s q).ctx.toNat = some c →
          (∃ d ∈ (getQueue s q).inflight, patienceOf s c < s.keeper.tick - d.started) → inReset (getCtx t c) = true)
    ∧ (∃ t, exec .hangDetect s = .next t ∧ ∀ n c, (getColl s n).state = .armed → joinsDone s n (getColl s n) = false →
        localCtx s (getColl s n).owner.toNat = some c → patienceOf s c < s.keeper.tick - (getColl s n).armedAt → inReset (getCtx t c) = true)
    ∧ (∀ a b k, dieLink a b = true → k < 2 →
      let idx := s.swarm.node * 64 + (a * 6 + b) * 2
      let d := if b = 5 then a else b
      ∃ t, exec (.ucieRetrain a b k) s = .next t ∧ t.mem = s.mem
        ∧ (¬ (isRetired t 5 idx = true ∧ isRetired t 5 (idx + 1) = true) →
          (t.faults.log.getLast?).map FaultRecord.code = some 0x5008 ∧ t.obj = s.obj ∧ t.keeper = s.keeper)
        ∧ (isRetired t 5 idx = true → isRetired t 5 (idx + 1) = true → (getDie t d).state = .retired
          ∧ ((getDie s d).state = .inService → ∀ c, c < 256 → (getCtx s c).live = true → workOnDie s c d = true → inReset (getCtx t c) = true)))
    ∧ (∀ die g (before bits : List (List Bool)), die < 6 → patExists die g = true →
      let x := getPat s die g
      let code := x.pattern.toNat
      let lanes := checkedLanes die g x
      let rows := fun (n : Nat) (f : Nat → List Bool) =>
        (upFrom 0 n).map (fun k => (upFrom 0 (patternWidth die g)).map (fun i => ((f i)[k]?).getD false ^^ x.invert))
      let kept := fun (y : PatGroup) => y.enable = true ∧ y.pattern = x.pattern ∧ y.lanes = x.lanes ∧ y.invert = x.invert ∧ y.user = x.user
      (x.enable = false → exec (.checkerLocked die g bits) s = .next { s with free := s.free + 1 }
        ∧ exec (.checkerLockLoss die g before bits) s = .next { s with free := s.free + 1 })
      ∧ (x.enable = true → (∃ y, exec (.checkerLocked die g bits) s = .next { setPat s die g y with free := s.free + 1 } ∧ kept y
          ∧ (bits = [] → y = x))
        ∧ ∃ y, exec (.checkerLockLoss die g before bits) s = .next { setPat s die g y with free := s.free + 1 } ∧ kept y
          ∧ exec (.checkerLockLoss die g before bits) s = exec (.checkerLocked die g (before ++ bits)) s)
      ∧ (x.enable = true → x.locked = false → x.checks = [] → lanes ≠ [] → ∀ (seed : Nat → List Bool), (∀ i, patternSeed x (seed i) = true) →
          bits = rows (patternLength code + 64) (fun i => seed i ++ patternBits code 64 (seed i)) →
          ∃ y, exec (.checkerLocked die g bits) s = .next { setPat s die g y with free := s.free + 1 } ∧ y.locked = true
            ∧ y.bits = x.bits ∧ y.errors = x.errors ∧ y.lockLosses = x.lockLosses)
      ∧ (x.enable = true → x.locked = true → lanes ≠ [] → (∀ i ∈ lanes, (laneCheck x i).locked = true ∧ (laneCheck x i).recent = []) →
          let sent := fun (n i : Nat) => patternBits code n (laneCheck x i).reg
          before = rows before.length (sent before.length) → bits = (rows (before.length + 16) (fun i => (sent (before.length + 16) i).map (!·))).drop before.length →
          ∃ y, exec (.checkerLockLoss die g before bits) s = .next { setPat s die g y with free := s.free + 1 } ∧ y.locked = false
            ∧ y.bits = x.bits + BitVec.ofNat 64 (before.length + 16) ∧ y.errors = satAdd x.errors (16 * lanes.length)
            ∧ y.lockLosses = satAdd x.lockLosses lanes.length))

/-- The safety island: safe state, start, inputs, I/O cycle, pairs, stop monitor and black channel. Rests on R365, R366, R372, R373,
R374, R375, R376, R379, R381, R388, R393, R395. -/
def Obligations.SafetyIsland : Prop :=
  ∀ (s : State),
    let same := fun (i : Instr) => exec i s = .next { s with free := s.free + 1 }
    let only := fun (i : Instr) (f : State → Prop) => ∃ t, exec i s = .next t ∧ t = { s with island := t.island, free := s.free + 1 } ∧ f t
    (∀ i, ((∃ r, i = .hardwareSafeState r) ∨ i = .windowWatchdogExpiry ∨ (∃ a b, i = .clockSupervisorCheck a b ∧ (20000 < a.natAbs ∨ 20000 < b.natAbs))
        ∨ i = .sramMarchTest false ∨ (i = .parameterCrcCheck ∧ s.island.params.isSome = true ∧ crc32c (slice s.island.image 16 4080) ≠ le32 s.island.image 12)) →
      s.island.up = true → ∃ t, exec i s = .next t ∧ t.island.up = false ∧ (∀ p, (getPair t p).energised = false)
        ∧ (∀ f, f < 32 → (getFunc t f).state = .fault ∧ (getFunc t f).cause = 10)
        ∧ (t.island.held = true ↔ 2 ≤ (s.island.safeStates.filter (fun x => decide (s.keeper.tick - x < 60000))).length)
        ∧ t.mem = s.mem ∧ t.obj = s.obj ∧ t.keeper = s.keeper ∧ t.flash = s.flash)
    ∧ same (.sramMarchTest true) ∧ (∀ a b : Int, a.natAbs ≤ 20000 → b.natAbs ≤ 20000 → same (.clockSupervisorCheck a b))
    ∧ ((s.island.params = none ∨ crc32c (slice s.island.image 16 4080) = le32 s.island.image 12) → same .parameterCrcCheck)
    ∧ (s.island.up = false → ∀ i, ((∃ r, i = .hardwareSafeState r) ∨ i = .windowWatchdogExpiry ∨ (∃ a b, i = .clockSupervisorCheck a b) ∨ (∃ b, i = .sramMarchTest b)
        ∨ i = .parameterCrcCheck ∨ (∃ raw, i = .safeInputSample raw) ∨ (∃ tp raw, tp < 4 ∧ i = .testPulse tp raw) ∨ (∃ f, f < 32 ∧ i = .stopMonitor f)
        ∨ (∃ net ident l, i = .blackChannelFrame net ident l) ∨ (∃ k, k < 32 ∧ i = .connectionSend k)) → same i)
    ∧ (∀ bad, ((s.island.up = true ∨ s.island.held = true ∨ s.island.released = false) → same (.islandStart bad))
      ∧ (s.island.up = false → s.island.held = false → s.island.released = true → only (.islandStart bad) (fun t =>
          t.island.up = true ∧ t.island.params = parseParams s.island.image ∧ t.island.starts = satAdd s.island.starts 1
          ∧ (∀ p, p < 8 → (getPair t p).energised = false ∧ (getPair t p).faulted = bitOf bad p)
          ∧ (∀ f, f < 32 → (t.island.params = none → getFunc t f = { state := .fault, cause := 10 })
            ∧ (t.island.params.isSome = true → (fp t f).typ = 1 → bitOf bad (fp t f).b3 = false → ((fp t f).b4 = 0xFF ∨ bitOf bad (fp t f).b4 = false) →
                getFunc t f = { state := .safe, cause := 10 })
            ∧ (t.island.params.isSome = true → (fp t f).typ = 1 → bitOf bad (fp t f).b3 = true → getFunc t f = { state := .fault, cause := 9 })))))
    ∧ (s.island.up = true → (∀ raw, only (.safeInputSample raw) (fun t => ∀ i, i < 16 →
          let x := getInput s i
          let b := bitOf raw i
          (getInput t i).raw = b ∧ (getInput t i).pulseFault = x.pulseFault
          ∧ (getInput t i).filtered = if b ≠ x.filtered ∧ (ip s i).filter ≤ x.held + 1 ∧ ¬ ((ip s i).ossd = true ∧ b = false ∧ x.low = 0) then b else x.filtered))
      ∧ (∀ tp raw, tp < 4 → only (.testPulse tp raw) (fun t => ∀ i, i < 16 → getInput t i = if (ip s i).tp = tp
          then { getInput s i with pulseFault := bitOf raw i && ((getInput s i).filtered || (getInput s i).pulseFault) } else getInput s i)))
    ∧ ((s.island.up = false ∨ s.island.params = none) → ∀ a b, same (.ioCycle a b))
    ∧ (s.island.up = true → s.island.params.isSome = true → ∀ a b, only (.ioCycle a b) (fun t =>
        (∀ p, p < 8 → (getPair t p).energised = (!(namesPair t p).isEmpty && (namesPair t p).all (fun k => allowsPair t k p) && !(getPair t p).faulted))
        ∧ (∀ k, k < 32 → (fp s k).typ = 1 → (∀ f, f < 32 → bitOf (fp s k).funcDemand f = true → (fp s f).typ ≠ 1) → (getFunc t k).state = .run → demandOf t k = none)
        ∧ (∀ k, k < 32 → (fp s k).typ = 2 → (getFunc s k).state ≠ .fault → (evalInputs (fp s k)).any (fun i => (getInput s i).pulseFault) = false →
            (getInput s (fp s k).b3).filtered = (getInput s (fp s k).b4).filtered →
            (getFunc t k).state = (if (getInput s (fp s k).b3).filtered then .run else .safe))))
    ∧ (∀ p low, p < 8 → (s.island.up = true → (getPair s p).energised = true → only (.outputDarkTest p low true) (fun t => (getPair t p).faulted = true
          ∧ (getPair t p).energised = false ∧ ∀ k ∈ namesPair s p, (getFunc t k).state = .fault ∧ (getFunc t k).cause = 9))
      ∧ same (.outputDarkTest p low false) ∧ ((s.island.up = false ∨ (getPair s p).energised = false) → same (.outputDarkTest p low true)))
    ∧ (∀ f, f < 32 →
      let x := getFunc s f
      let r := fp s f
      let c := getConn s r.b5
      let e := x.elapsed + 10
      let v := if r.b5 = 0xFF then 0 else c.speed.natAbs
      let limit := if e < r.w18 then x.v0 + r.vTol else max r.vTol (x.v0 + r.vTol - r.w16 * (e - r.w18) / 1000)
      let still := if v ≤ r.vStill then some ((x.still.map (· + 10)).getD 0) else none
      let done := still.any (fun k => decide (r.tStill ≤ k))
      (s.island.up = true → r.typ = 1 → x.state = .stopping → only (.stopMonitor f) (fun t =>
          (done = true → (getFunc t f).state = .safe ∧ (getFunc t f).cause = 11)
          ∧ (done = false → limit < v → (getFunc t f).state = .safe ∧ (getFunc t f).cause = 5)
          ∧ (done = false → v ≤ limit → r.tMax ≤ e → (getFunc t f).state = .safe ∧ (getFunc t f).cause = 6)
          ∧ (done = false → v ≤ limit → e < r.tMax → (c.lost = true ∨ c.fault = true ∨ c.valid = false) → (getFunc t f).state = .safe ∧ (getFunc t f).cause = 3)
          ∧ (done = false → v ≤ limit → e < r.tMax → c.lost = false → c.fault = false → c.valid = true → getFunc t f = { x with elapsed := e, still := still })
          ∧ ∀ k, k ≠ f → getFunc t k = getFunc s k))
      ∧ ((x.state ≠ .stopping ∨ r.typ ≠ 1) → same (.stopMonitor f)))
    ∧ (∀ net ident l, net ≠ 16 → s.island.up = true → (connFor s net ident l = none → same (.blackChannelFrame net ident l))
      ∧ ∀ k b, connFor s net ident l = some (k, b) →
        let x := getConn s k
        let seq := le16 l 6
        (x.lastSeq.all (fun d => decide (1 ≤ (seq - d).toNat ∧ (seq - d).toNat ≤ 32)) = true → only (.blackChannelFrame net ident l) (fun t =>
            (getConn t k).lastSeq = some seq ∧ (getConn t k).frame = l ∧ (getConn t k).lost = false ∧ (getConn t k).fault = x.fault
            ∧ (getConn t k).gaps = (if x.lastSeq.any (fun d => decide (1 < (seq - d).toNat)) then satAdd x.gaps 1 else x.gaps)
            ∧ ∀ j, j ≠ k → getConn t j = getConn s j))
        ∧ (∀ d, x.lastSeq = some d → 32 < (seq - d).toNat → exec (.blackChannelFrame net ident l) s = .next { setConn s k { x with
            stale := satAdd x.stale 1, staleOvf := x.staleOvf || satLost x.stale 1 } with free := s.free + 1 })
        ∧ (x.lastSeq = some seq → ∀ w, x.windows.find? (fun w => w.1 == seq) = some w → (w.2 = b → same (.blackChannelFrame net ident l))
          ∧ (w.2 ≠ b → l ≠ x.frame → exec (.blackChannelFrame net ident l) s = .next { setConn s k { x with
              windows := x.windows.filter (fun v => v.1 != seq), fault := true, equalRun := 0, equalSince := none } with free := s.free + 1 })
          ∧ (w.2 ≠ b → l = x.frame → only (.blackChannelFrame net ident l) (fun t => (getConn t k).equalRun = x.equalRun + 1
              ∧ (getConn t k).windows = x.windows.filter (fun v => v.1 != seq) ∧ (getConn t k).fault = (x.fault && decide (x.equalRun + 1 < 100))))))
    ∧ (∀ src n v, n < 16 →
      ((∀ k, inboxConn s n = some k → (cp s k).source ≠ src ∨ s.island.up = false) → ∃ t, exec (.inboxSubmit src n v) s = .next t
        ∧ t.keeper.rsp.status = 0x4001 ∧ t.keeper.violations = satAdd s.keeper.violations 1 ∧ t = { s with keeper := t.keeper, free := s.free + 1 })
      ∧ (∀ k, inboxConn s n = some k → (cp s k).source = src → s.island.up = true → ∃ t, exec (.inboxSubmit src n v) s = .next t
        ∧ t = { s with keeper := t.keeper, island := t.island, free := s.free + 1 } ∧ t.keeper.rsp.status = 0 ∧ Tbl.get 0 t.island.inbox (16 * n + 11) = v
        ∧ ∀ j, j ≠ k → getConn t j = getConn s j))
    ∧ (∀ k, k < 32 →
      let c := cp s k
      let x := getConn s k
      (s.island.up = true → c.dir = 2 → only (.connectionSend k) (fun t => ∃ f, f.length = 48 ∧ slice f 0 4 = toLE 4 c.connId.toNat ∧ le16 f 6 = x.txSeq
          ∧ t.island.sent = s.island.sent ++ (if c.netB = 0xFF then [(c.netA, f)] else [(c.netA, f), (c.netB, f)]) ∧ getConn t k = { x with txSeq := x.txSeq + 1 }))
      ∧ (c.dir ≠ 2 → same (.connectionSend k))
      ∧ (x.windows = [] → same (.comparisonWindow k))
      ∧ (∀ w l, x.windows = w :: l → only (.comparisonWindow k) (fun t => (getConn t k).windows = l ∧ (getConn t k).equalRun = 0
          ∧ (getConn t k).missedA = (if w.2 then satAdd x.missedA 1 else x.missedA) ∧ (getConn t k).missedB = (if w.2 then x.missedB else satAdd x.missedB 1)))
      ∧ exec (.connectionLost k) s = .next { (if s.island.up ∧ c.dir = 1 then setConn s k { x with lost := true } else s) with free := s.free + 1 }
      ∧ (∀ b, exec (.connectionDegraded k b) s = .next { (if s.island.up ∧ c.dir = 1 ∧ c.netB ≠ 0xFF
          then setConn s k { x with degraded := true, degradedB := b, equalSince := none } else s) with free := s.free + 1 })
      ∧ exec (.degradedLimit k) s = .next { (if s.island.up ∧ x.degraded then setConn s k { x with pastLimit := true } else s) with free := s.free + 1 })

/-- The two flash ports, the memory window of the flash, the boot chain and the recovery protocol. Rests on R304, R305, R306, R308,
R309, R318, R324, R325, R326, R341, R342, R348. -/
def Obligations.FlashAndBoot : Prop :=
  ∀ (s : State),
    let same := fun (i : Instr) => exec i s = .next { s with free := s.free + 1 }
    let ends := fun (i : Instr) (u : State) => exec i s = .next { u with free := s.free + 1 }
    (∀ (src : W32) (p op ecc : Nat) (i : Instr), p < 2 →
      (op = 1 ∧ i = .flashRead src p ecc ∨ op = 2 ∧ i = .flashProgram src p ∧ ecc = 0 ∨ op = 3 ∧ i = .flashErase src p ∧ ecc = 0
        ∨ op = 4 ∧ i = .flashSuspend src p ∧ ecc = 0 ∨ op = 5 ∧ i = .flashResume src p ∧ ecc = 0 ∨ op = 6 ∧ i = .blankCheck src p ecc) →
      let x := getPort s p
      let l := placeOf x
      let b := getBank s l.bank
      let bytes := flashBytes s l.info l.key
      let good := sectorState s l.global ≠ 1
      let open_ := b.activity = .idle ∨ b.activity = .suspended
      let go := srcUnit src = p ∧ x.result ≠ .busy ∧ portCheck s p op = 0
      (srcUnit src ≠ p → ∃ t, exec i s = .next t ∧ t.keeper.rsp.status = 0x4001 ∧ t.keeper.violations = satAdd s.keeper.violations 1
        ∧ t = { s with keeper := t.keeper, free := s.free + 1 })
      ∧ (srcUnit src = p → x.result = .busy → op ≠ 4 → ends i (setPort s p { x with ignored := true }))
      ∧ (srcUnit src = p → x.result ≠ .busy → portCheck s p op ≠ 0 →
          ends i (setPort s p { x with result := .error, code := portCheck s p op, data := if op = 1 then [] else x.data }))
      ∧ ((op = 2 ∨ op = 3) → x.info = false → x.addr.toNat % 4096 = 0 → (p = 0 ∧ sectorOwner s l.global ≠ 1 ∧ sectorOwner s l.global ≠ 3 ∨ p = 1 ∧ sectorOwner s l.global ≠ 2) →
          portCheck s p op = 0x4002)
      ∧ (go → op = 1 → open_ → (ecc = 0 → good → ends i (setPort s p { x with data := dataRegs (bytes 32), result := .done, code := 0, waiting := none }))
        ∧ (ecc = 1 → good → ends i (setPort (countEcc l.bank s) p { x with data := dataRegs (bytes 32), result := .done, code := 0, waiting := none }))
        ∧ (ecc = 2 → good → ends i (setPort s p { x with data := [], result := .error, code := 0x500B, waiting := none }))
        ∧ (ecc = 0 → ¬ good → ends i (setPort s p { x with data := [], result := .error, code := 0x500A, waiting := none })))
      ∧ (go → op = 2 → b.activity = .idle → ends i (setPort (setBank s l.bank
          { b with activity := .programming, port := decide (p = 1), auto := false, info := l.info, sector := BitVec.ofNat 11 l.sector, unitAddr := l.key, unitData := portData x }) p { x with result := .busy, waiting := none }))
      ∧ (go → op = 3 → b.activity = .idle → ∃ t, exec i s = .next t ∧ (getBank t l.bank).activity = .erasing ∧ (getBank t l.bank).sector = BitVec.ofNat 11 l.sector
          ∧ getPort t p = { x with result := .busy, waiting := none } ∧ t.flash.main = s.flash.main ∧ t.mem = s.mem ∧ t.keeper = s.keeper
          ∧ Tbl.get false t.flash.started l.global = true)
      ∧ (go → op = 6 → open_ → ecc = 0 → good → (bytes 4096).all (· == 0xFF) = true → ends i (setPort s p { x with result := .done, code := 0, waiting := none }))
      ∧ (go → op = 6 → open_ → ecc = 0 → good → (bytes 4096).all (· == 0xFF) = false → ∃ c, ends i (setPort s p { x with result := .error, code := c, waiting := none }))
      ∧ (go → op = 6 → open_ → (ecc = 2 ∨ ¬ good) → ecc ≠ 1 → ends i (setPort s p { x with result := .error, code := (if good then 0x500B else 0x500A), waiting := none }))
      ∧ (go → (op = 1 ∨ op = 2 ∨ op = 3 ∨ op = 6) → (b.activity = .programming ∨ b.activity = .erasing) →
          ends i (setPort s p { x with result := .busy, waiting := some (op, ecc) }))
      ∧ (srcUnit src = p → op = 4 → portCheck s p 4 = 0 → (∀ k, k < 2 → k ≠ p → (getPort s k).waiting = none) → ∃ t, exec i s = .next t ∧ (getBank t l.bank).activity = .suspended
          ∧ (getBank t l.bank).auto = false ∧ (getPort t p).result = .done ∧ (getPort t p).code = 0 ∧ t.flash.main = s.flash.main ∧ t.mem = s.mem)
      ∧ (go → op = 5 → ends i (setPort (setBank s l.bank { b with activity := .erasing, warned := false }) p { x with result := .busy })))
    ∧ (∀ b ok, b < 2 →
      let x := getBank s b
      let g := bankSector b x
      let p := b2n x.port
      let quiet := x.pending = [] ∧ (getPort s 0).waiting = none ∧ (getPort s 1).waiting = none
      (x.activity ≠ .programming → x.activity ≠ .erasing → same (.flashOperationDone b ok))
      ∧ ((x.activity = .programming ∨ x.activity = .erasing) → ∃ t, exec (.flashOperationDone b ok) s = .next t ∧ t.mem = s.mem ∧ t.obj = s.obj
          ∧ (ok = true → x.activity = .programming → x.info = false → ∀ a, Tbl.get 0xFF t.flash.main a
              = if x.unitAddr ≤ a ∧ a < x.unitAddr + x.unitData.length then byteAt x.unitData (a - x.unitAddr) else Tbl.get 0xFF s.flash.main a)
          ∧ (ok = true → x.activity = .erasing → x.info = false → ∀ a, Tbl.get 0xFF t.flash.main a
              = if 4096 * g ≤ a ∧ a < 4096 * g + 4096 then 0xFF else Tbl.get 0xFF s.flash.main a)
          ∧ (x.info = true → t.flash.main = s.flash.main)
          ∧ (ok = true → x.activity = .erasing → x.info = true → x.sector = 0 → (flashBytes t true (2 ^ 15 * b) 4096).all (· == 0xFF) = true ∧ sectorState t g = 0)
          ∧ (ok = false → x.activity = .erasing → sectorState t g = 2))
      ∧ (quiet → x.info = false → (x.activity = .programming ∨ x.activity = .erasing) → ∃ t, exec (.flashOperationDone b ok) s = .next t
          ∧ (getBank t b).activity = .idle ∧ (getPort t p).result = (if ok then .done else .error) ∧ (getPort t p).code = (if ok then 0 else 0x500B)
          ∧ (ok = false → sectorState t g = 2)
          ∧ (ok = true → x.activity = .programming → ∀ a, Tbl.get 0xFF t.flash.main a
              = if x.unitAddr ≤ a ∧ a < x.unitAddr + x.unitData.length then byteAt x.unitData (a - x.unitAddr) else Tbl.get 0xFF s.flash.main a)
          ∧ (ok = true → x.activity = .erasing → (∀ a, Tbl.get 0xFF t.flash.main a = if 4096 * g ≤ a ∧ a < 4096 * g + 4096 then 0xFF else Tbl.get 0xFF s.flash.main a)
              ∧ Tbl.get 0 t.flash.erases g = satAdd (Tbl.get 0 s.flash.erases g) 1 ∧ Tbl.get false t.flash.started g = false))
      ∧ (x.activity = .erasing → (x.pending ≠ [] ∨ ∃ p' ecc, p' < 2 ∧ (getPort s p').waiting = some (1, ecc) ∧ (placeOf (getPort s p')).bank = b) →
          (protectOf s g).any Protect.noAuto = false →
          ∃ t, exec (.flashAutoSuspend b) s = .next t ∧ (getBank t b).activity = .suspended ∧ (getBank t b).auto = true ∧ (getBank t b).pending = [] ∧ t.flash.main = s.flash.main)
      ∧ ((x.activity ≠ .erasing ∨ (protectOf s g).any Protect.noAuto = true) → same (.flashAutoSuspend b))
      ∧ (x.activity = .suspended → x.auto = true → x.pending = [] →
          ends (.flashAutoResume b) (setBank s b { x with activity := .erasing, auto := false }))
      ∧ ((x.activity ≠ .suspended ∨ x.auto = false ∨ x.pending ≠ []) → same (.flashAutoResume b)))
    ∧ (∀ (addr : BitVec 24),
      let a := 256 * (addr.toNat / 256)
      let b := getBank s (a / 2 ^ 23)
      let open_ := b.activity = .idle ∨ b.activity = .suspended
      (open_ → sectorState s (a / 4096) ≠ 1 → ∀ ecc, ecc ≠ 2 → ends (.flashWindowRead addr ecc)
          { (if ecc = 1 then countEcc (a / 2 ^ 23) s else s) with keeper := { s.keeper with rsp := { status := 0, data := flashBytes s false a 256 } } })
      ∧ (open_ → sectorState s (a / 4096) = 1 → ends (.flashWindowRead addr 0) { s with keeper := { s.keeper with rsp := { status := 0x500A, data := [] } } })
      ∧ (open_ → sectorState s (a / 4096) ≠ 1 → ∃ t, exec (.flashWindowRead addr 2) s = .next t ∧ t.keeper.rsp.status = 0x500B
          ∧ (t.faults.log.getLast?).map FaultRecord.code = some 0x500B ∧ t.flash = s.flash ∧ t.mem = s.mem)
      ∧ (∀ ecc, (b.activity = .programming ∨ b.activity = .erasing) → b.pending.length < 16 →
          ends (.flashWindowRead addr ecc) (setBank s (a / 2 ^ 23) { b with pending := b.pending ++ [(a, ecc)] }))
      ∧ (∀ ecc, (b.activity = .programming ∨ b.activity = .erasing) → 16 ≤ b.pending.length → same (.flashWindowRead addr ecc)))
    ∧ ((1 < s.boot.step.toNat ∨ s.boot.recovery.isSome = true ∨ s.power.resetHeld = true) → same .bootChain)
    ∧ (s.boot.step.toNat ≤ 1 → s.boot.recovery = none → s.power.resetHeld = false → tooCold s = true → ends .bootChain (bootLoader s))
    ∧ (s.boot.step.toNat ≤ 1 → s.boot.recovery = none → s.power.resetHeld = false → tooCold s = false →
        let u := bootLoader s
        let o := u.boot.opt
        (o.norMib = 0 → (o.copy = 3 ∨ s.boot.strapLow = true ∨ chooseSlot u = none) → ∃ t, exec .bootChain s = .next t ∧ t.boot.opt = o ∧ t.boot.step = 2
          ∧ t.boot.recovery = some (if o.copy = 3 then 1 else if s.boot.strapLow then 3 else 2) ∧ t.mem = s.mem ∧ t.obj = s.obj)
        ∧ (∀ slot rolled, o.copy ≠ 3 → s.boot.strapLow = false → chooseSlot u = some (slot, rolled) → ∃ t, exec .bootChain s = .next t ∧ t.boot.step = 8
          ∧ t.boot.slot = slot ∧ t.boot.rolledBack = rolled ∧ t.boot.trial = (o.trial && slot == o.activeSlot) ∧ t.power.pkg = .ready ∧ t.flash.romPhase = false
          ∧ t.boot.manifestDigest = Config.sha384 (slotManifest u slot) ∧ (getMbx t 0).bound = some ((o.ownerSource &&& ~~~3) ||| BitVec.ofNat 32 s.swarm.node)
          ∧ (o.trial = true → slot = o.activeSlot → t.test.fuses = s.test.fuses)
          ∧ ∀ k, Tbl.get false (Tbl.get {} s.test.fuses 4).bits k = true → Tbl.get false (Tbl.get {} t.test.fuses 4).bits k = true))
    ∧ (∀ (msg : Bytes) (i : Instr) (k : Nat), (k = 1 ∧ i = .recoveryHello msg ∨ k = 2 ∧ i = .recoveryErase msg ∨ k = 3 ∧ i = .recoveryWrite msg
          ∨ k = 4 ∧ i = .recoveryInstall msg ∨ k = 5 ∧ i = .recoveryReset msg) →
      ((s.boot.recovery = none ∨ recoveryMsg msg = none) → same i)
      ∧ ∀ typ l, s.boot.recovery.isSome = true → recoveryMsg msg = some (typ, l) →
        let answered := fun (u : State) (c : W16) (q : Bytes) => ends i { u with boot := { u.boot with recoveryAnswer := recoveryFrame (BitVec.ofNat 8 typ) c q } }
        ((typ = 0 ∨ 5 < typ) → answered s 0x1001 [])
        ∧ (typ = k → k = 1 → ∃ q, answered s 0 q)
        ∧ (typ = k → k = 2 → ∃ u, answered u 0 [] ∧ u = { s with flash := u.flash }
            ∧ ∀ a, Tbl.get 0xFF u.flash.main a = if a < slotBytes then 0xFF else Tbl.get 0xFF s.flash.main a)
        ∧ (typ = k → k = 3 → (l.length < 36 → answered s 0x1002 []) ∧ (36 ≤ l.length → l.length ≤ 4100 → leNat l 0 4 % 32 = 0 → (l.length - 4) % 32 = 0 →
            leNat l 0 4 + (l.length - 4) ≤ slotBytes → (flashBytes s false (leNat l 0 4) (l.length - 4)).all (· == 0xFF) = true →
            answered { s with flash := { s.flash with main := putBytes 0xFF s.flash.main (leNat l 0 4) (l.drop 4) } } 0 []))
        ∧ (typ = k → k = 4 → ∃ u, answered u (bundleCheck s (flashBytes s false)) [] ∧ u.flash.main = s.flash.main ∧ u.boot.opt = s.boot.opt
            ∧ (bundleCheck s (flashBytes s false) ≠ 0 → u = s) ∧ (bundleCheck s (flashBytes s false) = 0 → u.boot.installed = true))
        ∧ (typ = k → k = 5 → ∃ u, answered u 0 [] ∧ u.boot.step = 0 ∧ u.boot.recovery = none ∧ u.obj = {} ∧ u.mem = {} ∧ u.flash.main = s.flash.main))

/-- Metrology: intervals and energy, tariff and calibration boundaries, seal, checksum, power fail, power quality and tamper inputs.
Rests on R406, R408, R409, R410, R411, R415, R418, R420, R421, R423, R442, R446. -/
def Obligations.MetrologyEvents : Prop :=
  ∀ (l : Nat) (s : State), l < 4 →
    let h := getHm1 s l
    let m := h.met
    let same := fun (i : Instr) => exec i s = .next { s with free := s.free + 1 }
    let ends := fun (i : Instr) (u : State) => exec i s = .next { u with free := s.free + 1 }
    let gives := fun (i : Instr) (f : State → Metrology → Prop) => ∃ t, exec i s = .next t ∧ f t (getMet t l)
      ∧ t.mem = s.mem ∧ t.obj = s.obj ∧ t.island = s.island ∧ t.flash = s.flash ∧ ∀ k, k ≠ l → getHm1 t k = getHm1 s k
    let side := fun (n : Metrology) (a u : Nat) (e : Int) => Tbl.get 0 n.energy.residues (2 * a + b2n (decide (e < 0))) = (Tbl.get 0 m.energy.residues (2 * a + b2n (decide (e < 0))) + e.natAbs) % u
      ∧ Tbl.get 0 n.energy.residues (2 * a + b2n (decide (0 ≤ e))) = Tbl.get 0 m.energy.residues (2 * a + b2n (decide (0 ≤ e)))
    (∀ (x : IntervalCodes) (i : Instr), codesOk x = true → (i = .intervalEnd l x ∨ i = .tariffSwitch l x ∨ i = .powerFail l x) →
      let y := intervalSums m l x
      let formed := intervalFormed m l x = true ∨ i = .powerFail l x
      ((m.main = false ∨ ¬ formed) → same i)
      ∧ (intervalFormed m l x = true ↔ x.partialInterval = m.lockMoved ∧ (m.lockMoved = true
          ∨ (m.locked = true ∧ x.cycles = if bitOf (calWord m l 43) 0 then 12 else 10)
          ∨ (m.locked = false ∧ (x.codes.getD 0 []).length = 1600 ∧ (x.codes.getD 7 []).length = 6400)))
      ∧ (m.main = true → formed → gives i (fun t n => n.energy.seq = m.energy.seq + 1 ∧ n.last.seq = m.energy.seq ∧ n.last.at_ = rtcSec h
          ∧ bitOf n.last.flags 2 = x.codes.any overrange ∧ bitOf n.last.flags 3 = (y.phases.any (belowStart m l) || belowStartDc m l y.id)
          ∧ bitOf n.last.flags 5 = (x.partialInterval || decide (i = .powerFail l x))
          ∧ (m.metFault = true → n.energy.residues = m.energy.residues)
          ∧ (m.metFault = false →
              (∀ a p q, a < 3 → y.phases[a]? = some p → y.products[a]? = some q → side n a 2880000000000 (if belowStart m l p then 0 else total q))
              ∧ side n 4 11520000000000 (if belowStartDc m l y.id then 0 else total ((y.vd.zip y.id).map (fun q => q.1 * q.2))))
          ∧ n.lockMoved = false ∧ (i ≠ .powerFail l x → n.calHeld = m.calHeld.map (fun b => { b with due := true }))
          ∧ (i = .tariffSwitch l x → tariffDue h = none → n.tar = m.tar ∧ n.tarHeld = m.tarHeld ∧ n.tariff = tariffAt (tarInForce m) (rtcSec h))
          ∧ (i = .tariffSwitch l x → ∀ b, tariffDue h = some b → n.tarGen = b.gen ∧ n.tarHeld = none)
          ∧ (i = .powerFail l x → n.main = false ∧ n.ram = some ⟨h.rtc, n.energy⟩ ∧ n.slot = n.ram ∧ (getSes t l).cmd = 0 ∧ (getEnd t true l).up = false
              ∧ (getHm1 t l).inbox = none ∧ n.calHeld = none ∧ ∀ k, k = 1 ∨ k = 2 ∨ k = 3 → pqOpenOf n k = none))))
    ∧ ((m.main = false ∨ m.calHeld = none ∨ m.calHeld.any (fun b => !b.due) = true) → same (.calApplied l))
    ∧ (m.main = true → ∀ b, m.calHeld = some b → b.due = true →
        (m.sealed_ = true → gives (.calApplied l) (fun _ n => n = { m with calHeld := none }))
        ∧ (m.sealed_ = false → m.refusable < 240 → gives (.calApplied l) (fun _ n => n.calGen = b.gen ∧ n.calHeld = none ∧ n.refusable = m.refusable + 1
            ∧ n.prot.length = m.prot.length + 1 ∧ n.energy = m.energy))
        ∧ (m.sealed_ = false → 240 ≤ m.refusable → gives (.calApplied l) (fun _ n => n = { m with calHeld := none })))
    ∧ (m.main = false → ∀ rms, rms.length = 3 → (∀ b, same (.calEnChange l b)) ∧ same (.checksumCheck l) ∧ same (.energySnapshot l) ∧ same (.pqEventStart l rms)
        ∧ same (.pqEvent l rms) ∧ ∀ x, same (.acLock l x))
    ∧ (m.main = true →
        (m.sealed_ = true → m.calEn = false → m.refusable ≤ 238 → gives (.calEnChange l true) (fun _ n => n.sealed_ = false ∧ n.calEn = true
          ∧ n.refusable = m.refusable + 1 ∧ n.energy = m.energy))
        ∧ (m.sealed_ = true → m.calEn = false → 238 < m.refusable → gives (.calEnChange l true) (fun _ n => n = { m with calEn := true }))
        ∧ (m.sealed_ = false → gives (.calEnChange l false) (fun _ n => n.sealed_ = true ∧ n.calEn = false ∧ n.energy = m.energy))
        ∧ ((m.sealed_ = false ∨ m.calEn = true) → ends (.calEnChange l true) (setMet s l { m with calEn := true }))
        ∧ (m.sealed_ = true → ends (.calEnChange l false) (setMet s l { m with calEn := false })))
    ∧ (m.main = true → let img := metImage m l
        gives (.checksumCheck l) (fun _ n => n.legalId = (Config.sha256 img).take 8 ∧ n.metFault = (m.metFault || !imageOk img)
          ∧ n.energy = m.energy ∧ n.sealed_ = m.sealed_))
    ∧ (m.main = true → ends (.energySnapshot l) (setMet s l { m with minute := some ⟨h.rtc, m.energy⟩ })
        ∧ same (.metrologyStart l) ∧ same (.hm1MainSupplyTimeout l) ∧ ∀ r, same (.hm1Wake l r))
    ∧ (m.main = false → h.ses.state = .idle →
        gives (.metrologyStart l) (fun t n => n.main = true ∧ n.ram = none ∧ n.slot = none ∧ (getHm1 t l).waking = false
          ∧ (∀ r, newer m.ram m.slot = some r → n.energy = r.energy) ∧ (m.ram = none → m.slot = none → ∀ r, m.minute = some r → n.energy = r.energy)
          ∧ (m.ram = none → m.slot = none → m.minute = none → n.energy = m.energy)))
    ∧ (m.main = false → gives (.metrologyStart l) (fun t n => n.main = true ∧ n.ram = none ∧ n.slot = none ∧ (getHm1 t l).waking = false))
    ∧ (m.main = false → ends (.hm1MainSupplyTimeout l) (setHm1 s l { h with waking := false })
        ∧ ((h.waking = true) → ∀ r, same (.hm1Wake l r)) ∧ same (.hm1Wake l 0)
        ∧ (h.waking = false → ∀ r, r ≠ 0 → gives (.hm1Wake l r) (fun t n => (getHm1 t l).waking = true ∧ n.main = false ∧ n.energy = m.energy
            ∧ n.cover = (m.cover || bitOf r 1))))
    ∧ (∀ rms, rms.length = 3 → m.main = true →
        gives (.pqEventStart l rms) (fun _ n => ∀ k, k = 1 ∨ k = 2 ∨ k = 3 →
          (pqOpenOf m k = none → pqPhases m k rms = 0 → pqOpenOf n k = none)
          ∧ (pqOpenOf m k = none → pqPhases m k rms ≠ 0 → ∃ e, pqOpenOf n k = some e ∧ e.phases = pqPhases m k rms ∧ e.start = h.rtc ∧ n.flagged = true)
          ∧ (∀ o, pqOpenOf m k = some o → ∃ e, pqOpenOf n k = some e ∧ e.start = o.start ∧ e.phases = (o.phases ||| pqPhases m k rms)))
        ∧ gives (.pqEvent l rms) (fun _ n => ∀ k, k = 1 ∨ k = 2 ∨ k = 3 →
          (pqOver m k rms = true → pqOpenOf n k = none)
          ∧ (pqOver m k rms = false → (pqOpenOf n k).map PqOpen.start = (pqOpenOf m k).map PqOpen.start) ∧ n.energy = m.energy))
    ∧ (∀ c us lost, (m.main = true → ends (.frequencyWindow l c us lost) (setMet s l { m with
          lockLost := false,
          freq := if lost = true ∨ m.lockLost = true ∨ m.locked = false ∨ us = 0 then 0 else BitVec.ofNat 32 ((2 * c * 10 ^ 9 + us) / (2 * us)) }))
        ∧ (m.main = false → same (.frequencyWindow l c us lost)))
    ∧ (∀ (x : AcMeasure), m.main = true →
        let nominal := if bitOf (calWord m l 43) 0 then 60000 else 50000
        let on := decide (m.udin.toNat ≤ 10 * x.rms ∧ 85 * nominal ≤ 100 * x.mhz ∧ 100 * x.mhz ≤ 115 * nominal)
        gives (.acLock l x) (fun t n => n = { m with locked := on, lockMoved := m.lockMoved || (on != m.locked), lockLost := m.lockLost || !on }
          ∧ (getHm1 t l).ses = h.ses ∧ (on = true → (getHm1 t l).plc = h.plc)))
    ∧ (∀ i on, (i = .coverOpen l ∧ on = true ∨ i = .coverClose l ∧ on = false) → (m.cover = on → same i)
        ∧ (m.cover ≠ on → gives i (fun _ n => n.cover = on ∧ n.tamperSeq = m.tamperSeq + 1 ∧ n.energy = m.energy)))
    ∧ (m.main = true → gives (.firewallHit l) (fun _ n => n.hits = satAdd m.hits 1 ∧ n.tamperSeq = m.tamperSeq + 2 ∧ n.energy = m.energy ∧ n.cal = m.cal))
    ∧ (m.main = false → same (.firewallHit l))

/-- The metrology and billing messages that an HM1 answers. Rests on R412, R419, R437, R445, R447, R448, R450, R451, R452, R453. -/
def Obligations.MetrologyMessages : Prop :=
  ∀ (l : Nat) (s : State),
    let b := inboxOf s l
    let u := hm1Taken s l
    let h := getHm1 s l
    let m := h.met
    let head := toLE 4 m.last.seq.toNat ++ toLE 6 m.last.at_ ++ toLE 2 m.last.flags.toNat
    let ask := fun (op : Nat) => hm1Asked op none l s = true
    let seq := le32 b 2
    (ask 0x10 → (leNat b 1 1 = 0 → 1 ≤ leNat b 2 1 → leNat b 2 1 ≤ 3 → hm1Answers (.metRead l) l s 0 (head ++ slice (m.last.phases.getD (leNat b 2 1 - 1) []) 0 26) u)
      ∧ (leNat b 1 1 = 1 → hm1Answers (.metRead l) l s 0 (head ++ slice m.last.totals 0 26) u)
      ∧ (leNat b 1 1 = 2 → hm1Answers (.metRead l) l s 0 (head ++ slice m.last.dc 0 20) u)
      ∧ (leNat b 1 1 = 3 → ∃ p, hm1Answers (.metRead l) l s 0 (head ++ [BitVec.ofNat 8 (b2n m.sealed_ + 128 * b2n m.metFault)] ++ slice m.legalId 0 8 ++ p)
          (setMet u l { m with hitsOvf := false, pqLostOvf := false }))
      ∧ ((3 < leNat b 1 1 ∨ leNat b 1 1 = 0 ∧ (leNat b 2 1 = 0 ∨ 3 < leNat b 2 1)) → hm1Answers (.metRead l) l s 0x1006 [] u))
    ∧ (ask 0x11 → (le16 b 6 < 1000 → 1000 < le16 b 8 → le16 b 10 < le16 b 6 → le16 b 12 ≤ 100 → hm1Answers (.pqConfig l) l s 0 []
          (setMet u l { m with udin := le32 b 2, sag := le16 b 6, swell := le16 b 8, intr := le16 b 10, hyst := le16 b 12 }))
      ∧ ((1000 ≤ le16 b 6 ∨ le16 b 8 ≤ 1000 ∨ le16 b 6 ≤ le16 b 10 ∨ 100 < le16 b 12) → hm1Answers (.pqConfig l) l s 0x1006 [] u))
    ∧ (ask 0x12 → (∀ r, m.pqRing.find? (fun r => r.seq == seq) = some r → hm1Answers (.pqRead l) l s 0 r.bytes
          (setMet u l { m with pqRing := m.pqRing.map (fun k => if k.seq = r.seq then { k with read := true } else k) }))
      ∧ (m.pqRing.find? (fun r => r.seq == seq) = none → 2 ^ 31 ≤ (m.pqSeq - seq).toNat → hm1Answers (.pqRead l) l s 0x1006 [] u))
    ∧ (ask 0x13 → let d := (b.drop 6).take 44
      let off := leNat b 2 4
      (262144 < off + d.length → hm1Answers (.metUpdate l) l s 0x1006 [] u)
      ∧ (off + d.length ≤ 262144 → (m.sealed_ = true → hm1Answers (.metUpdate l) l s 0x4005 [] u)
        ∧ (m.sealed_ = false → off = 0 → 240 ≤ m.refusable → hm1Answers (.metUpdate l) l s 0x3008 [] u)
        ∧ (m.sealed_ = false → (0 < off ∨ m.refusable < 240) → ∃ v, hm1Answers (.metUpdate l) l s 0 [] v ∧ v.mem = s.mem ∧ v.obj = s.obj
          ∧ (getMet v l).energy = m.energy ∧ (getMet v l).cal = m.cal ∧ ∀ a, Tbl.get (byteAt (Config.productionBytes 5 l) a) (getMet v l).image a
            = if off ≤ a ∧ a < off + d.length then byteAt d (a - off) else Tbl.get (byteAt (Config.productionBytes 5 l) a) m.image a)))
    ∧ (ask 0x14 → let r := billReg m (leNat b 1 1)
      (leNat b 1 1 ≤ 19 → hm1Answers (.billRead l) l s 0 (toLE 8 (r.mwh / 1000) ++ toLE 2 r.rolls.toNat ++ [if r.ovf then 1 else 0]) u)
      ∧ (19 < leNat b 1 1 → hm1Answers (.billRead l) l s 0x1006 [] u))
    ∧ (ask 0x15 → (m.records.find? (fun r => r.seq == seq) = none → hm1Answers (.recordRead l) l s 0x1006 [] u)
      ∧ ∀ r, m.records.find? (fun r => r.seq == seq) = some r → (5 < leNat b 6 1 → hm1Answers (.recordRead l) l s 0x1006 [] u)
        ∧ (leNat b 6 1 < 5 → hm1Answers (.recordRead l) l s 0 (slice r.bytes (48 * leNat b 6 1) 48) u)
        ∧ (leNat b 6 1 = 5 → hm1Answers (.recordRead l) l s 0 (slice r.bytes 240 48)
            (setMet u l { m with records := m.records.map (fun k => if k.seq = seq then { k with read := true } else k) })))
    ∧ (ask 0x16 → ∃ v, hm1Answers (.meterSign l) l s 0 (toLE 4 m.recordSeq.toNat) v ∧ (getMet v l).recordSeq = m.recordSeq + 1
        ∧ ((getMet v l).records.getLast?).map (fun r => (r.seq, r.bytes.length, slice r.bytes 0 4, slice r.bytes 152 16))
            = some (m.recordSeq, 256, toLE 4 0x4C424D48, slice b 2 16) ∧ (getMet v l).energy = m.energy)
    ∧ (ask 0x17 → let t := slice b 2 32
      let amount := leNat t 0 6
      let c := m.energy.credit + amount
      (leNat t 14 2 ≠ 0 → hm1Answers (.creditAdd l) l s 0x1006 [] u)
      ∧ (leNat t 14 2 = 0 → (Config.creditMac l (t.take 16) ≠ t.drop 16 ∨ amount = 0 ∨ 2 ^ 40 < amount) → hm1Answers (.creditAdd l) l s 0 (2 :: creditBytes m) u)
      ∧ (leNat t 14 2 = 0 → Config.creditMac l (t.take 16) = t.drop 16 → 0 < amount → amount ≤ 2 ^ 40 →
          (leNat t 6 8 ∈ m.tokens → hm1Answers (.creditAdd l) l s 0 (3 :: creditBytes m) u)
          ∧ (leNat t 6 8 ∉ m.tokens → ∃ v, hm1Answers (.creditAdd l) l s 0 (0 :: intLE 6 (min c (2 ^ 47 - 1))) v
            ∧ (getMet v l).energy = { m.energy with credit := min c (2 ^ 47 - 1) } ∧ (getMet v l).tokens = (leNat t 6 8 :: m.tokens).take 64)))
    ∧ (ask 0x18 → hm1Answers (.creditRead l) l s 0 (creditBytes m ++ [BitVec.ofNat 8 (creditStateOf m)]) u)
    ∧ (ask 0x19 → let e := (m.prot ++ m.ordinary).find? (fun e => le32 e 4 == seq)
      (e = none → hm1Answers (.logRead l) l s 0x1006 [] u) ∧ (∀ x, e = some x → leNat b 6 1 ≤ 1 → hm1Answers (.logRead l) l s 0 (slice x (32 * leNat b 6 1) 32) u)
      ∧ (1 < leNat b 6 1 → hm1Answers (.logRead l) l s 0x1006 [] u))
    ∧ (ask 0x1A → let e := m.tamperLog.find? (fun e => e.seq == seq)
      (e = none → hm1Answers (.tamperRead l) l s 0x1006 [] u) ∧ ∀ x, e = some x → ∃ r, hm1Answers (.tamperRead l) l s 0
        (slice x.bytes 0 16 ++ toLE 2 m.tamperLost.toNat ++ [if m.tamperOvf then 1 else 0]) (setMet u l { m with tamperLog := r, tamperOvf := false })
        ∧ r.length = m.tamperLog.length)
    ∧ (ask 0x1B → let d := Config.sha256 m.prot.flatten
      (m.sealed_ = true → hm1Answers (.logArchive l) l s 0x4005 [] u) ∧ (m.sealed_ = false → slice b 2 32 ≠ d → hm1Answers (.logArchive l) l s 0 [5] u)
      ∧ (m.sealed_ = false → slice b 2 32 = d → ∃ v, hm1Answers (.logArchive l) l s 0 [0] v ∧ (getMet v l).prot.length = 1 ∧ (getMet v l).refusable = 0
          ∧ (getMet v l).reserve = 1 ∧ ((getMet v l).archived).map Prod.fst = some m.prot.length ∧ (getMet v l).energy = m.energy))
    ∧ (ask 0x1C → leNat b 8 2 ≤ 32767 → let new := leNat b 2 6 * 32768000 + leNat b 8 2 * 1000
      let barred := m.sealed_ = true ∧ (60 * 32768000 < (if new < h.rtc then h.rtc - new else new - h.rtc) ∨ ∃ k, m.lastSet = some k ∧ h.rtc - k < 86400 * 32768000)
      (¬ barred → ∃ v, hm1Answers (.timeSet l) l s 0 [0] v ∧ (getHm1 v l).rtc = new ∧ (getMet v l).lastSet = some new ∧ (getMet v l).energy = m.energy)
      ∧ (barred → ∃ v, hm1Answers (.timeSet l) l s 0 [4] v ∧ (getHm1 v l).rtc = h.rtc ∧ (getMet v l).tamperSeq = m.tamperSeq + 2))
    ∧ (ask 0x1C → 32767 < leNat b 8 2 → hm1Answers (.timeSet l) l s 0x1006 [] u)
    ∧ (ask 0x1D → hm1Answers (.certRead l) l s 0 (slice (Config.productionBytes 4 l) (leNat b 2 2) 48) u)
    ∧ (l < 4 → h.inbox = none → ∀ i ∈ [Instr.metRead l, .pqConfig l, .pqRead l, .metUpdate l, .billRead l, .recordRead l, .meterSign l, .creditAdd l,
        .creditRead l, .logRead l, .tamperRead l, .logArchive l, .timeSet l, .certRead l], exec i s = .next { s with free := s.free + 1 })

/-- SESSION_CONFIG, AUTHORISE, START_INLET, CLOSE, STOP, SET_LIMIT, SESSION_STATUS and CONTACTOR_RESET. Rests on R425, R426, R428,
R429, R431, R432, R435, R453. -/
def Obligations.SessionMessages : Prop :=
  ∀ (l : Nat) (s : State),
    let b := inboxOf s l
    let u := hm1Taken s l
    let h := getHm1 s l
    let x := h.ses
    let m := h.met
    let on := fun (i : Nat) => (Tbl.get ({} : TamperTrack) m.tampers i).on
    let held := x.lockout = true ∨ (getEnd s true l).up = false ∨ x.outlet = true ∧ (m.metFault = true ∨ on 3 = true ∨ on 4 = true ∨ on 5 = true ∨ on 6 = true)
    let code := BitVec.ofNat 8 (sessCode x.state)
    let moves := fun (i : Instr) (p : Bytes) (f : Session → Prop) => ∃ v, hm1Answers i l s 0 p v ∧ f (getSes v l) ∧ (getMet v l).energy = m.energy
      ∧ v.mem = s.mem ∧ v.obj = s.obj ∧ v.island = s.island ∧ ∀ k, k ≠ l → getHm1 v k = getHm1 s k
    (hm1Asked 0x20 none l s = true →
      let bad := 3 < leNat b 1 1 ∨ 2 < leNat b 2 1 ∨ 3 < leNat b 3 1 ∨ leNat b 2 1 = 2 ∧ 2 ≤ leNat b 1 1
      (bad → hm1Answers (.sessionConfig l) l s 0x1006 [] u) ∧ (¬ bad → x.state ≠ .idle → hm1Answers (.sessionConfig l) l s 0 [1] u)
      ∧ (¬ bad → x.state = .idle → ∃ y, hm1Answers (.sessionConfig l) l s 0 [0] (setSes u l y) ∧ y.connector = leNat b 2 1 ∧ y.inletOk = decide (leNat b 1 1 % 2 = 1)
          ∧ y.outletOk = decide (2 ≤ leNat b 1 1) ∧ y.maxA = le16 b 4 ∧ y.tClose = le16 b 6 ∧ y.tOpen = le16 b 8 ∧ y.discGrace = le16 b 10 ∧ y.linkHold = le16 b 12
          ∧ y.lockout = x.lockout ∧ y.state = .idle))
    ∧ (hm1Asked 0x21 none l s = true →
      let method := leNat b 1 1
      let credit := 0 < m.energy.credit ∨ bitOf (byteAt b 2) 0 = true ∧ -((tarInForce m 9).toNat : Int) < m.energy.credit
      let bad := method = 0 ∨ 4 < method ∨ 1 < leNat b 2 1
      let kept := held ∨ method = 3 ∧ ¬ credit ∨ method = 4 ∧ x.freeOk = false
      (bad → hm1Answers (.authorise l) l s 0x1006 [] u) ∧ (¬ bad → (x.state ≠ .connected ∨ x.outlet = false) → hm1Answers (.authorise l) l s 0 [1, code] u)
      ∧ (¬ bad → x.state = .connected → x.outlet = true → kept → hm1Answers (.authorise l) l s 0 [4, code] u)
      ∧ (¬ bad → x.state = .connected → x.outlet = true → ¬ kept → moves (.authorise l) [0, 2] (fun y => y.state = .authorised
          ∧ y.method = BitVec.ofNat 8 method ∧ y.digest = slice b 4 16 ∧ y.cmd = x.cmd ∧ y.ident = x.ident ∧ (x.connector ≠ 0 → y.duty = 50))))
    ∧ (hm1Asked 0x22 (some 1) l s = true →
      ((x.state ≠ .connected ∨ x.outlet = true) → hm1Answers (.startInlet l) l s 0 [1, code] u)
      ∧ (x.state = .connected → x.outlet = false → held → hm1Answers (.startInlet l) l s 0 [4, code] u)
      ∧ (x.state = .connected → x.outlet = false → ¬ held → moves (.startInlet l) [0, 2] (fun y => y.state = .authorised ∧ y.ready = true ∧ y.cmd = x.cmd)))
    ∧ (∀ rdcOk, hm1Asked 0x22 (some 2) l s = true →
      let ok := x.outlet = false ∨ x.measured = true ∧ x.level = 0 ∧ x.mirror = 3
      ((x.state ≠ .authorised ∨ x.connector = 0) → hm1Answers (.closeContactors l rdcOk) l s 0 [1, code] u)
      ∧ (x.state = .authorised → x.connector ≠ 0 → ok → moves (.closeContactors l rdcOk) [0, 3] (fun y => y.state = .energising ∧ y.cmd = 3))
      ∧ (x.state = .authorised → x.connector ≠ 0 → ¬ ok → moves (.closeContactors l rdcOk) [0, 6] (fun y => y.state = .fault ∧ y.cmd = 0 ∧ y.recorded = true
          ∧ y.cause = (if x.measured = true ∧ x.level = 0 then 6 else 5))))
    ∧ (hm1Asked 0x22 (some 3) l s = true →
      ((x.state = .idle ∨ x.state = .connected ∨ x.state = .fault) → hm1Answers (.stop l) l s 0 [1, code] u)
      ∧ (x.state = .stopping → hm1Answers (.stop l) l s 0 [0, 5] u)
      ∧ ((x.state = .authorised ∨ x.state = .energising ∨ x.state = .flowing) → moves (.stop l) [0, 5] (fun y => y.state = .stopping ∧ y.cause = 1 ∧ y.duty = 0
          ∧ y.ready = false ∧ y.cmd = x.cmd ∧ (x.cmd = 0 → y.recorded = true))))
    ∧ (hm1Asked 0x22 (some 4) l s = true →
      (x.state = .idle → hm1Answers (.setLimit l) l s 0 [1, 0] u)
      ∧ (x.state ≠ .idle → moves (.setLimit l) [0, code] (fun y => y.hostLimit = some (le16 b 2) ∧ y.state = x.state ∧ y.cmd = x.cmd ∧ (x.outlet = false → y.duty = x.duty))))
    ∧ (hm1Asked 0x23 none l s = true → ∃ p, hm1Answers (.sessionStatus l) l s 0 ([code, if x.outlet then 1 else 0, BitVec.ofNat 8 x.pilot, x.cause] ++ p) u ∧ p.length = 14)
    ∧ (∀ (now : BitVec 2), hm1Asked 0x24 none l s = true →
      (x.cmd = 0 → now = 3 → 1000 ≤ x.closedFor → hm1Answers (.contactorReset l now) l s 0 [0] (setSes u l { x with lockout := false }))
      ∧ ((x.cmd ≠ 0 ∨ now ≠ 3 ∨ x.closedFor < 1000) → hm1Answers (.contactorReset l now) l s 0 [1] u))
    ∧ (l < 4 → h.inbox = none → ∀ i ∈ [Instr.sessionConfig l, .authorise l, .startInlet l, .closeContactors l true, .stop l, .setLimit l, .sessionStatus l,
        .contactorReset l 0], exec i s = .next { s with free := s.free + 1 })

/-- What the pilot, the proximity contact, the contactors, the insulation, the RDC and the timers do to a session. Rests on R426,
R427, R428, R429, R430, R432, R433, R434, R455. -/
def Obligations.SessionEvents : Prop :=
  ∀ (l : Nat) (s : State), l < 4 →
    let h := getHm1 s l
    let x := h.ses
    let m := h.met
    let same := fun (i : Instr) => exec i s = .next { s with free := s.free + 1 }
    let live := x.state = .authorised ∨ x.state = .energising ∨ x.state = .flowing
    let moves := fun (i : Instr) (f : Session → Prop) => ∃ t, exec i s = .next t ∧ f (getSes t l) ∧ (getMet t l).energy.residues = m.energy.residues
      ∧ t.mem = s.mem ∧ t.obj = s.obj ∧ t.island = s.island ∧ ∀ k, k ≠ l → getHm1 t k = getHm1 s k
    let atOnce := fun (i : Instr) (c : Byte) => moves i (fun y => y.state = .fault ∧ y.cause = c ∧ y.cmd = 0 ∧ y.duty = 0 ∧ y.ready = false ∧ y.recorded = true)
    (m.main = false → (∀ a b c d, same (.pilotState l a b c d)) ∧ (∀ r, same (.ppLost l r)) ∧ (∀ v, same (.contactorCheck l v)) ∧ same (.stopGraceTimeout l)
      ∧ (∀ k c, same (.insulation l k c)) ∧ same (.rdcTrip l) ∧ same (.linkHoldExpiry l))
    ∧ (m.main = true →
      (∀ (mv neg : Int) (duty : Nat) (rdc : Bool),
        (classify mv = none → same (.pilotState l mv neg duty rdc))
        ∧ (classify mv = some 1 → x.state = .idle → x.outletOk = true → (x.inletOk = false ∨ duty = 0) → ∃ t, exec (.pilotState l mv neg duty rdc) s = .next t
            ∧ (getSes t l).state = .connected ∧ (getSes t l).outlet = true ∧ (getSes t l).ident = x.nextId ∧ (getSes t l).nextId = x.nextId + 1
            ∧ (getSes t l).hostLimit = none ∧ (getSes t l).recorded = false ∧ (getSes t l).pilot = 1 ∧ billReg (getMet t l) 18 = {} ∧ billReg (getMet t l) 19 = {}
            ∧ (getMet t l).energy.sessionCost = 0 ∧ (getMet t l).energy.credit = m.energy.credit ∧ t.mem = s.mem ∧ t.obj = s.obj)
        ∧ (classify mv = some 0 → x.state = .connected → moves (.pilotState l mv neg duty rdc) (fun y => y.state = .idle ∧ y.cmd = 0 ∧ y.recorded = true))
        ∧ (∀ p, classify mv = some p → moves (.pilotState l mv neg duty rdc) (fun y => y.pilot = p))
        ∧ ((classify mv = some 4 ∨ classify mv = some 5) → live → atOnce (.pilotState l mv neg duty rdc) 2)
        ∧ (classify mv = some 1 → (x.state = .energising ∨ x.state = .flowing) → atOnce (.pilotState l mv neg duty rdc) 2)
        ∧ (∀ p, classify mv = some p → p ≠ 4 → p ≠ 5 → (x.state ≠ .authorised → p ≠ 0 ∧ p ≠ 1) → x.outlet = true → live → x.duty ≠ 0 → -10500 < neg →
            atOnce (.pilotState l mv neg duty rdc) 11)
        ∧ (classify mv = some 2 → x.state = .authorised → x.outlet = true → x.connector = 0 → neg ≤ -10500 →
            (rdc = true → x.mirror = 3 → moves (.pilotState l mv neg duty rdc) (fun y => y.state = .energising ∧ y.cmd = 3 ∧ y.pilot = 2))
            ∧ (rdc = false → atOnce (.pilotState l mv neg duty rdc) 4) ∧ (rdc = true → x.mirror ≠ 3 → atOnce (.pilotState l mv neg duty rdc) 6)))
      ∧ (∀ ohms, (x.connector ≠ 0 → same (.ppLost l ohms))
        ∧ (x.connector = 0 → x.state = .idle → exec (.ppLost l ohms) s = .next { setSes s l { x with rating := ppRating ohms } with free := s.free + 1 })
        ∧ (x.connector = 0 → x.state ≠ .idle → ppRating ohms ≠ 0 → ppRating ohms = x.rating → moves (.ppLost l ohms) (fun y => y = x))
        ∧ (x.connector = 0 → x.state = .connected → x.rating = 0 → ppRating ohms ≠ 0 →
            exec (.ppLost l ohms) s = .next { setSes s l { x with rating := ppRating ohms } with free := s.free + 1 })
        ∧ (x.connector = 0 → x.state = .fault → same (.ppLost l ohms))
        ∧ (x.connector = 0 → x.state = .connected → (ppRating ohms = 0 ∨ x.rating ≠ 0 ∧ ppRating ohms ≠ x.rating) → atOnce (.ppLost l ohms) 10)
        ∧ (x.connector = 0 → live → (ppRating ohms = 0 ∨ ppRating ohms ≠ x.rating) → atOnce (.ppLost l ohms) 10))
      ∧ (∀ v : BitVec 2, moves (.contactorCheck l v) (fun y => y.mirror = v) ∧
        (x.cmd = 3 → v = 0 → x.state = .energising → moves (.contactorCheck l v) (fun y => y.state = .flowing ∧ y.mirror = 0 ∧ y.cmd = 3))
        ∧ (x.cmd = 0 → v = 3 → moves (.contactorCheck l v) (fun y => y.state = x.state ∧ y.mirror = 3 ∧ y.agreed = 3
            ∧ y.closedFor = x.closedFor + 1 ∧ y.lockout = x.lockout))
        ∧ (x.cmd = 0 → v = 0 → x.agreed = 3 → x.lockout = false → moves (.contactorCheck l v) (fun y => y.lockout = true ∧ y.state = .fault ∧ y.cmd = 0))
        ∧ (x.cmd = 3 → v = 3 → x.agreed = 3 → live → moves (.contactorCheck l v) (fun y => y.state = .fault ∧ y.cause = 6 ∧ y.cmd = 0 ∧ y.lockout = x.lockout)))
      ∧ (x.state = .stopping → x.recorded = false → moves (.stopGraceTimeout l) (fun y => y.cmd = 0 ∧ y.recorded = true ∧ y.state = (if x.immediate then .fault else .stopping)))
      ∧ ((x.state ≠ .stopping ∨ x.recorded = true) → same (.stopGraceTimeout l))
      ∧ (∀ k ok,
        let uref := max (leInt m.last.dc 0 4).natAbs 50000
        let lv := if ok = false ∨ k * 1000 < uref then 2 else if k * 1000 < 5 * uref then 1 else 0
        let runs := x.connector ≠ 0 ∧ x.state ≠ .idle ∧ (x.outlet = true ∧ x.state ≠ .fault ∨ x.outlet = false ∧ x.cmd = 0)
        (¬ runs → same (.insulation l k ok))
        ∧ (runs → (lv ≠ 2 ∨ x.state ≠ .flowing) → moves (.insulation l k ok) (fun y => y = { x with kohm := BitVec.ofNat 32 k, level := lv, measured := x.measured || ok }))
        ∧ (runs → lv = 2 → x.state = .flowing → atOnce (.insulation l k ok) 5))
      ∧ ((x.state = .energising ∨ x.state = .flowing) → atOnce (.rdcTrip l) 4)
      ∧ (x.state = .stopping → x.recorded = false → x.immediate = false → moves (.rdcTrip l) (fun y => y.state = .fault ∧ y.cause = 4 ∧ y.cmd = 0 ∧ y.recorded = true))
      ∧ (x.state = .stopping → (x.recorded = true ∨ x.immediate = true) → same (.rdcTrip l))
      ∧ ((x.state = .idle ∨ x.state = .connected ∨ x.state = .authorised ∨ x.state = .fault) → same (.rdcTrip l))
      ∧ ((getEnd s true l).up = false → live → moves (.linkHoldExpiry l) (fun y => y.state = .stopping ∧ y.cause = 9 ∧ y.linkLoss = true ∧ y.cmd = x.cmd ∧ y.duty = 0))
      ∧ (((getEnd s true l).up = true ∨ ¬ live) → same (.linkHoldExpiry l)))

/-- The Holmi links: HM1_MSG, HM1_STATUS, frames, timers, loss of the link and the wake. Rests on R57, R352, R490, R491, R492, R493. -/
def Obligations.HolmiLinkTraffic : Prop :=
  (∀ (m : Nat) (s : State), s.swarm.node < 4 →
      let p := (reqOf s m).p
      let l := leNat p 0 1
      let n := leNat p 1 1
      let u := taken s m
      let group := m = 0 ∨ bitOf (getMbx s m).groups 8 = true
      let e := getEnd s false l
      let sound := zeroIn p (2 + n) 54 = true ∧ l ≤ 3 ∧ 1 ≤ n ∧ n ≤ 52 ∧ 16 ≤ leNat p 2 1
      (asked 0x0801 m s = true → (¬ group → answersWith (.hm1Msg m) m s 0x4001 [] u)
        ∧ (group → zeroIn p (2 + n) 54 = true → ¬ sound → answersWith (.hm1Msg m) m s 0x1006 [] u)
        ∧ (group → sound → e.up = false → answersWith (.hm1Msg m) m s 0x5009 [] u)
        ∧ (group → sound → e.up = true → (getSeen s l).msg.isSome = true → exec (.hm1Msg m) s = .next { s with free := s.free + 1 })
        ∧ (group → sound → e.up = true → (getSeen s l).msg = none → e.out = [] → e.unacked.length < 8 → ∃ t, exec (.hm1Msg m) s = .next t
            ∧ (let f := holmiFrame 1 false e.txSeq (e.rxSeq - 1) (slice p 2 n)
              getEnd t false l = { e with txSeq := e.txSeq + 1, unacked := e.unacked ++ [f], wire := e.wire ++ [f] })
            ∧ (getSeen t l).msg = some (.mailbox m) ∧ getMbx t m = { getMbx u m with waiting := some (refOf s m) }
            ∧ (∀ k, k ≠ l → getEnd t false k = getEnd s false k) ∧ t.mem = s.mem ∧ t.obj = s.obj ∧ t.holmi.hm1 = s.holmi.hm1 ∧ t.holmi.far = s.holmi.far))
      ∧ (asked 0x0802 m s = true → (3 < l → answersWith (.hm1Status m) m s 0x1006 [] u)
        ∧ (l ≤ 3 → answersWith (.hm1Status m) m s 0 ([if e.up then 1 else 0, (getSeen s l).sealByte] ++ slice (getSeen s l).hello 0 4 ++ zeros 2 ++ slice (getSeen s l).hello 4 32) u)))
  ∧ (∀ (l : Nat) (s : State), l < 4 →
      let same := fun (i : Instr) => exec i s = .next { s with free := s.free + 1 }
      let ends := fun (i : Instr) (u : State) => exec i s = .next { u with free := s.free + 1 }
      (∀ far,
        let x := getEnd s far l
        let o := getEnd s (!far) l
        (∀ f,
          let gone := setEnd s (!far) l { o with wire := o.wire.erase f }
          let i := Instr.holmiFrameReceive l far f
          ((endAlive s far l = false ∨ holmiOk f = false) → ends i gone)
          ∧ (endAlive s far l = true → holmiOk f = true → isHello f = false → (x.up = false ∨ byteAt f 2 ≠ x.rxSeq) → ends i gone)
          ∧ (endAlive s far l = true → holmiOk f = true → isHello f = true → x.up = false → far = true → ∃ t, exec i s = .next t ∧ (getEnd t true l).heard = true
              ∧ (getEnd t true l).rxSeq = 1 ∧ (getEnd t true l).up = x.greeted ∧ t.mem = s.mem ∧ t.obj = s.obj ∧ t.holmi.hm1 = s.holmi.hm1)
          ∧ (endAlive s far l = true → holmiOk f = true → isHello f = false → x.up = true → byteAt f 2 = x.rxSeq → x.out = [] → far = true → byteAt f 1 = 1 → ∃ t, exec i s = .next t
              ∧ getEnd t true l = { x with unacked := ackFrames (byteAt f 3) x.unacked } ∧ t.mem = s.mem ∧ t.obj = s.obj ∧ t.holmi.hm1 = s.holmi.hm1)
          ∧ (endAlive s far l = true → holmiOk f = true → isHello f = false → x.up = true → byteAt f 2 = x.rxSeq → x.out = [] → far = true → leNat f 0 1 = 1 → byteAt f 1 = 0 →
              byteAt (framePayload f) 0 ≠ 1 → ∃ t, exec i s = .next t ∧ getEnd t true l = { x with unacked := ackFrames (byteAt f 3) x.unacked, rxSeq := x.rxSeq + 1 }
              ∧ getHm1 t l = { getHm1 s l with inbox := some (framePayload f) } ∧ (∀ k, k ≠ l → getHm1 t k = getHm1 s k) ∧ t.mem = s.mem ∧ t.obj = s.obj))
        ∧ (endAlive s far l = false → same (.holmiResendTimer l far) ∧ same (.holmiAckOnlyTimer l far) ∧ same (.holmiLinkDown l far))
        ∧ (endAlive s far l = true → x.up = true → ends (.holmiResendTimer l far) (setEnd s far l { x with wire := x.wire ++ x.unacked })
          ∧ ends (.holmiAckOnlyTimer l far) (setEnd s far l { x with wire := x.wire ++ [holmiFrame 0 true x.txSeq (x.rxSeq - 1) []] }))
        ∧ (endAlive s far l = true → x.up = false → same (.holmiResendTimer l far) ∧ ∃ t, exec (.holmiAckOnlyTimer l far) s = .next t
            ∧ ((far = true ∨ x.heard = false) → (getEnd t far l).greeted = true ∧ (getEnd t far l).up = x.heard) ∧ (x.heard = false → getEnd t far l = { x with
                greeted := true, txSeq := 1, wire := x.wire ++ [holmiFrame 0 false 0 (x.rxSeq - 1) (helloPayload far l)] }))
        ∧ (endAlive s far l = true → ∃ t, exec (.holmiLinkDown l far) s = .next t ∧ (getEnd t far l).up = false ∧ (getEnd t far l).unacked = []
            ∧ (getEnd t far l).heard = false ∧ (getEnd t far l).greeted = false ∧ (∀ q ∈ (getEnd t far l).out, q.1 = 2 ∧ far = true) ∧ (far = false → (getSeen t l).msg = none) ∧ t.obj = s.obj))
      ∧ (∀ m c, m < 32 → s.swarm.node < 4 → pkgAlive s = true → (getSeen s l).msg = some (.mailbox m) → (getMbx s m).waiting = some c → ∃ t, exec (.holmiReplyTimeout l) s = .next t
          ∧ lastMessage t m = toLE 2 c.opcode.toNat ++ [0x21, c.tag] ++ toLE 2 0 ++ toLE 2 0x5009 ++ zeros 56 ∧ (getMbx t m).waiting = none
          ∧ (getMbx t m).rspTail = (getMbx s m).rspTail + 1 ∧ (getSeen t l).msg = none ∧ t.obj = s.obj ∧ t.holmi.hm1 = s.holmi.hm1)
      ∧ (pkgAlive s = false → same (.holmiReplyTimeout l))
      ∧ (pkgAlive s = true → ((getSeen s l).msg = none ∨ ∃ m, (getSeen s l).msg = some (.mailbox m) ∧ (getMbx s m).waiting = none) →
          ends (.holmiReplyTimeout l) (setSeen s l { getSeen s l with msg := none }))
      ∧ (∀ blk, pkgAlive s = true → (getSeen s l).msg = some (.commit blk) →
          ends (.holmiReplyTimeout l) (commitRefused l blk 0x5009 (setSeen s l { getSeen s l with msg := none })))
      ∧ exec (.hlinkWake l) s = exec (.wakeSource 3 l) s
      ∧ ((s.power.vbat = false ∨ causeArmed s 3 l = false) → same (.hlinkWake l))
      ∧ (s.power.vbat = true → causeArmed s 3 l = true → (s.power.pkg ≠ .standby ∨ s.power.goal ≠ none) → ∃ t, exec (.hlinkWake l) s = .next t ∧ bitOf t.power.wakeCause 3 = true ∧ bitOf t.power.wakeCause (26 + l) = true
          ∧ t.mem = s.mem ∧ t.obj = s.obj ∧ t.holmi = s.holmi))

/-- The power line: the symbols of a frame, reception, access, acknowledgement, hellos, routing and its messages. The order of the two coded bits
of an information bit, and which of two equally near paths the decoder takes, are the model's (assumption log 82). Rests on R461, R463, R464,
R465, R466, R467, R468, R469, R470, R471, R472, R473, R474, R475, R476, R477, R478, R480. -/
def Obligations.PowerLine : Prop :=
  ∀ (l : Nat) (s : State), l < 4 →
    let h := getHm1 s l
    let b := inboxOf s l
    let u := hm1Taken s l
    let same := fun (i : Instr) => exec i s = .next { s with free := s.free + 1 }
    let ends := fun (i : Instr) (v : State) => exec i s = .next { v with free := s.free + 1 }
    let node := fun (i : Instr) (n : Nat) (f : PlcNode → Prop) => ∃ t, exec i s = .next t ∧ f (getNode t l n) ∧ (∀ k, k ≠ n → getNode t l k = getNode s l k)
      ∧ (getHm1 t l).met = h.met ∧ (getHm1 t l).ses = h.ses ∧ t.mem = s.mem ∧ t.obj = s.obj ∧ t.island = s.island
    (∀ (f : Bytes),
      let u := fun (i k : Nat) => decide (k ≤ i) && (plcInfo f).getD (i - k) false
      let c := fun (j : Nat) => (plcCoded f).getD j false
      let burst := fun (k : Nat) => burstBits ((frameBursts f).getD k [])
      (plcInfo f).length = 384 ∧ (plcCoded f).length = 768 ∧ (frameBursts f).length = 272
      ∧ (∀ i, i < 384 → c (2 * i) = (u i 0 ^^ u i 1 ^^ u i 2 ^^ u i 3 ^^ u i 6) ∧ c (2 * i + 1) = (u i 0 ^^ u i 2 ^^ u i 3 ^^ u i 5 ^^ u i 6))
      ∧ (∀ k, k < 12 → burst k = [false, false, false]) ∧ burst 12 ++ burst 13 ++ burst 14 ++ burst 15 = frameSync
      ∧ (∀ k, k < 128 → burst (16 + 2 * k) = [c k, c (k + 128), c (k + 256)] ∧ burst (17 + 2 * k) = [c (k + 384), c (k + 512), c (k + 640)])
      ∧ plcDecode (((frameBursts f).map burstBits).flatten.map some) = slice f 0 46)
    ∧ (∀ (n : Nat) (pre data : List PlcBurst), n < 32 → pre.length = 16 → data.length = 256 →
      let x := getNode s l n
      let i := Instr.plcFrameReceive l n pre data
      let heard := hearBursts (pre ++ data) x
      let bits := nodeBits (pre ++ data) x
      let erased := dataErased (pre ++ data) x
      let f := plcDecode bits
      let count := fun (k j : Nat) => satAdd (Tbl.get 0 x.counters k) j
      let good := frameBegins bits = true ∧ erased ≤ 192 ∧ plcCheck f = true ∧ plcValid f = true ∧ byteAt f 1 = h.plc.netId
      ((plcLive s l n = false ∨ (x.queue.head?.map PlcTx.sent) = some true) → same i)
      ∧ (plcLive s l n = true → (x.queue.head?.map PlcTx.sent) ≠ some true →
        (frameBegins bits = false → ends i (setNode s l n heard))
        ∧ Tbl.get 0 heard.counters 7 = count 7 (erasedBursts (takeBursts x.levels (pre ++ data)).2)
        ∧ node i n (fun y => y.levels = heard.levels)
        ∧ (frameBegins bits = true → (192 < erased ∨ plcCheck f = false) → node i n (fun y => Tbl.get 0 y.counters 1 = count 1 1 ∧ Tbl.get 0 y.counters 7 = Tbl.get 0 heard.counters 7
            ∧ y.queue = x.queue ∧ y.neighbours = x.neighbours ∧ y.routes = x.routes ∧ y.seen = x.seen ∧ y.delivered = x.delivered))
        ∧ (frameBegins bits = true → erased ≤ 192 → plcCheck f = true → plcValid f = false → ends i (setNode s l n heard))
        ∧ (frameBegins bits = true → erased ≤ 192 → plcCheck f = true → plcValid f = true → byteAt f 1 ≠ h.plc.netId → node i n (fun y =>
            Tbl.get 0 y.counters 2 = count 2 1 ∧ y.queue = x.queue ∧ y.delivered = x.delivered ∧ y.seen = x.seen ∧ y.routes = x.routes))
        ∧ (good → leNat f 5 1 ≠ n → leNat f 5 1 ≠ 255 → node i n (fun y => y = heard))
        ∧ (good → leNat f 5 1 = n → plcType f = 1 → leNat f 3 1 = n → n ≠ 0 → (Tbl.get [] x.seen (leNat f 2 1)).contains (byteAt f 7) = false →
            node i n (fun y => y.delivered = plcPayload f ∧ y.acked = true ∧ y.air = ackBursts ∧ Tbl.get 0 y.counters 0 = count 0 1 ∧ y.queue = x.queue
              ∧ Tbl.get [] y.seen (leNat f 2 1) = (byteAt f 7 :: Tbl.get [] x.seen (leNat f 2 1)).take 8))
        ∧ (good → leNat f 5 1 = n → plcType f = 1 → (Tbl.get [] x.seen (leNat f 2 1)).contains (byteAt f 7) = true →
            node i n (fun y => y.acked = true ∧ y.air = ackBursts ∧ Tbl.get 0 y.counters 3 = count 3 1 ∧ y.delivered = x.delivered ∧ y.queue = x.queue ∧ y.seen = x.seen))
        ∧ (good → leNat f 5 1 = 255 → plcType f = 5 → node i n (fun y => Tbl.get {} y.neighbours (leNat f 4 1) = heardHello (le16 f 10) (Tbl.get {} x.neighbours (leNat f 4 1))
              ∧ (∀ k, k ≠ leNat f 4 1 → Tbl.get {} y.neighbours k = Tbl.get {} x.neighbours k) ∧ y.queue = x.queue ∧ y.routes = x.routes))))
    ∧ (∀ n, n < 32 →
      let x := getNode s l n
      (plcLive s l n = false → (∀ d, same (.plcAccess l n d)) ∧ (∀ a, a.length = 8 → same (.plcAckSlot l n a)) ∧ same (.plcHello l n)
        ∧ (1 ≤ n → same (.routeReqRebroadcast l n) ∧ same (.routeRep l n)) ∧ (n = 0 → same (.routeReq l) ∧ ∀ k, 1 ≤ k → k < 32 → same (.routeErr l k)))
      ∧ (plcLive s l n = true →
        (∀ idle, (x.queue = [] → same (.plcAccess l n idle))
          ∧ ∀ t q, x.queue = t :: q →
            let w := if t.attempts = 0 then 16 else if t.attempts = 1 then 32 else 64
            ((t.sent = true ∨ idle < 8 ∨ 8 + w ≤ idle) → same (.plcAccess l n idle))
            ∧ (t.sent = false → 8 ≤ idle → idle < 8 + w →
              (nextHop x t.bytes = .waits → same (.plcAccess l n idle))
              ∧ (nextHop x t.bytes = .to 255 → ends (.plcAccess l n idle) (setNode s l n { x with
                  air := frameBursts (rehop t.bytes n 255 (leNat t.bytes 6 1)), queue := q }))
              ∧ (∀ a, a ≠ 255 → nextHop x t.bytes = .to a → ends (.plcAccess l n idle) (setNode s l n { x with
                  air := frameBursts (rehop t.bytes n a (leNat t.bytes 6 1)),
                  queue := { t with bytes := rehop t.bytes n a (leNat t.bytes 6 1), attempts := t.attempts + 1, sent := true } :: q }))
              ∧ (nextHop x t.bytes = .none_ → node (.plcAccess l n idle) n (fun y => Tbl.get 0 y.counters 5 = satAdd (Tbl.get 0 x.counters 5) 1))
              ∧ (nextHop x t.bytes = .none_ → n = 0 → node (.plcAccess l n idle) n (fun y => y.queue = q ∧ Tbl.get 0 y.counters 5 = satAdd (Tbl.get 0 x.counters 5) 1))))
        ∧ (∀ (bursts : List PlcBurst), bursts.length = 8 →
          let heard := hearBursts bursts x
          let ack := ackHeard (nodeBits bursts x)
          (x.queue = [] → same (.plcAckSlot l n bursts)) ∧ ∀ t q, x.queue = t :: q →
          (t.sent = false → same (.plcAckSlot l n bursts))
          ∧ (t.sent = true → ack = true → node (.plcAckSlot l n bursts) n (fun y => y = { heard with queue := q }))
          ∧ (t.sent = true → ack = false → t.attempts < 4 → ends (.plcAckSlot l n bursts) (setNode s l n { heard with queue := { t with sent := false } :: q }))
          ∧ (t.sent = true → ack = false → 4 ≤ t.attempts → node (.plcAckSlot l n bursts) n (fun y => Tbl.get 0 y.counters 6 = satAdd (Tbl.get 0 x.counters 6) 1
              ∧ (leNat t.bytes 3 1 = 0 → x.candidates = [] → y.queue = q))))
        ∧ node (.plcHello l n) n (fun y => y = { x with
            hello := x.hello + 1, seq := x.seq + 1, queue := x.queue ++ [{ bytes := plcFrame 5 h.plc.netId.toNat n 255 n 255 6 x.seq 0 (toLE 2 x.hello.toNat), own := false }] })
        ∧ (1 ≤ n → (∀ f, x.due = some f → node (.routeReqRebroadcast l n) n (fun y => y = { x with
              due := none, rebroadcasts := x.rebroadcasts + 1, queue := x.queue ++ [{ bytes := f, own := false }] }))
          ∧ (x.due = none → same (.routeReqRebroadcast l n)) ∧ (x.repDue = false → same (.routeRep l n))
          ∧ (x.repDue = true → ∀ c r, x.candidates = c :: r →
              let p := [BitVec.ofNat 8 n] ++ toLE 2 c.1 ++ [BitVec.ofNat 8 c.2.1, BitVec.ofNat 8 n]
              node (.routeRep l n) n (fun y => y.repDue = false ∧ y.seq = x.seq + 1
                ∧ y.queue = x.queue ++ [{ bytes := plcFrame 3 h.plc.netId.toNat n 0 n 255 6 x.seq 0 p, own := false }])))
        ∧ (n = 0 → node (.routeReq l) 0 (fun y => y.seq = x.seq + 1 ∧ y.queue = x.queue ++ [⟨plcFrame 2 h.plc.netId.toNat 0 255 0 255 6 x.seq 0 (toLE 2 (h.plc.discovery + 1).toNat ++ toLE 2 0), 0, false, false⟩])
          ∧ ∀ k, 1 ≤ k → k < 32 → node (.routeErr l k) 0 (fun y => Tbl.get none y.routes k = none ∧ (∀ j, j ≠ k → Tbl.get none y.routes j = Tbl.get none x.routes j)
              ∧ y.queue = x.queue))))
    ∧ (∀ pod, 1 ≤ pod → pod < 32 → ∃ t, exec (.routeExpiry l pod) s = .next t ∧ t.mem = s.mem ∧ t.obj = s.obj ∧ (getHm1 t l).met = h.met
        ∧ ∀ n, n < 32 → (∀ r, Tbl.get none (getNode s l n).routes pod = some r → Tbl.get none (getNode t l n).routes pod = if 2000 * h.plc.routePeriod ≤ r.age then none else some r)
          ∧ (∀ j, j ≠ pod → Tbl.get none (getNode t l n).routes j = Tbl.get none (getNode s l n).routes j))
    ∧ (∀ bits, ((h.plc.on = false ∨ bits ≠ h.plc.netId ∨ h.met.main = true ∨ h.waking = true) → same (.wakePattern l bits))
      ∧ (h.plc.on = true → bits = h.plc.netId → h.met.main = false → h.waking = false → ∃ t, exec (.wakePattern l bits) s = .next t
          ∧ (getHm1 t l).waking = true ∧ (getHm1 t l).met = h.met ∧ t.mem = s.mem ∧ t.obj = s.obj))
    ∧ (hm1Asked 0x30 none l s = true →
      let bad := 1 < leNat b 1 1 ∨ 6 < leNat b 3 1 ∨ leNat b 4 2 < 10 ∨ 3600 < leNat b 4 2 ∨ leNat b 6 2 < 60
      let on := leNat b 1 1 == 1
      (bad → hm1Answers (.plcConfig l) l s 0x1006 [] u)
      ∧ (¬ bad → ∃ v, hm1Answers (.plcConfig l) l s 0 [0] v ∧ (getHm1 v l).plc.on = on ∧ (getHm1 v l).plc.netId = byteAt b 2 ∧ (getHm1 v l).plc.routePeriod = leNat b 6 2
          ∧ (getHm1 v l).met = h.met ∧ ((on ≠ h.plc.on ∨ byteAt b 2 ≠ h.plc.netId) → ∀ n k, n < 32 → 1 ≤ k → k < 32 → Tbl.get none (getNode v l n).routes k = none)
          ∧ (on = h.plc.on → byteAt b 2 = h.plc.netId → (getHm1 v l).plc.nodes = h.plc.nodes)))
    ∧ (hm1Asked 0x31 none l s = true →
      let dst := leNat b 1 1
      let x := getNode s l 0
      let bad := dst = 0 ∨ 31 < dst ∧ dst ≠ 255 ∨ 3 < leNat b 2 1 ∨ 32 < leNat b 3 1
      let lost := dst ≠ 255 ∧ Tbl.get none x.routes dst = none
      (bad → hm1Answers (.plcSend l) l s 0x1006 [] u) ∧ (¬ bad → h.plc.on = false → hm1Answers (.plcSend l) l s 0 [1, 0] u)
      ∧ (¬ bad → h.plc.on = true → h.met.locked = false → hm1Answers (.plcSend l) l s 0 [7, 0] u)
      ∧ (¬ bad → h.plc.on = true → h.met.locked = true → lost → hm1Answers (.plcSend l) l s 0 [6, 0] u)
      ∧ (¬ bad → h.plc.on = true → h.met.locked = true → ¬ lost → ∃ v, hm1Answers (.plcSend l) l s 0 [0, x.seq] v ∧ (getNode v l 0).seq = x.seq + 1
          ∧ (getNode v l 0).queue = x.queue ++ [{ bytes := plcFrame 1 h.plc.netId.toNat 0 dst 0 255 6 x.seq (leNat b 2 1) (slice b 4 (leNat b 3 1)), own := true }]))
    ∧ (hm1Asked 0x32 none l s = true →
      let pod := leNat b 1 1
      ((pod = 0 ∨ 31 < pod) → hm1Answers (.plcRouteRead l) l s 0x1006 [] u)
      ∧ (1 ≤ pod → pod ≤ 31 → (Tbl.get none (getNode s l 0).routes pod = none → hm1Answers (.plcRouteRead l) l s 0 (zeros 9) u)
        ∧ ∀ r, Tbl.get none (getNode s l 0).routes pod = some r → hm1Answers (.plcRouteRead l) l s 0
            ([1, BitVec.ofNat 8 r.next, BitVec.ofNat 8 r.hops] ++ toLE 2 r.cost ++ toLE 4 (r.age / 1000)) u))
    ∧ (hm1Asked 0x33 none l s = true → hm1Answers (.plcStats l) l s 0
        (((upFrom 0 9).map (fun i => toLE 4 (Tbl.get (0 : W32) (getNode s l 0).counters i).toNat)).flatten ++ toLE 2 (getNode s l 0).ovf.toNat)
        (setNode u l 0 { getNode s l 0 with ovf := 0 }))
    ∧ (hm1Asked 0x34 none l s = true → (h.plc.on = false → hm1Answers (.plcDiscover l) l s 0 [1] u)
      ∧ (h.plc.on = true → h.met.locked = false → hm1Answers (.plcDiscover l) l s 0 [7] u)
      ∧ (h.plc.on = true → h.met.locked = true → ∃ v, hm1Answers (.plcDiscover l) l s 0 [0] v ∧ (getHm1 v l).plc.discovery = h.plc.discovery + 1
          ∧ (getNode v l 0).queue.length = (getNode s l 0).queue.length + 1))
end

