-- ==== Sys2Proof/Laws/Tbl.lean ====
section
/-! SUPPORT. Laws of tables: what a key holds after a write, and that every operation keeps the canonical form. -/

namespace Sys2Proof.Machine

variable {α : Type}

/-- Keys rise strictly from above `lo`, and no entry is the default. -/
def Tbl.Rising (d : α) (lo : Option Nat) : Tbl α → Prop
  | [] => True
  | (k, x) :: t => (∀ l ∈ lo, l < k) ∧ x ≠ d ∧ Tbl.Rising d (some k) t

theorem Tbl.above_iff [DecidableEq α] (d : α) (t : Tbl α) : ∀ lo : Option Nat, Tbl.above d lo t = true ↔ Tbl.Rising d lo t := by
  induction t with
  | nil => intro lo; simp [Tbl.above, Tbl.Rising]
  | cons e t ih =>
    obtain ⟨k, x⟩ := e
    intro lo
    cases lo <;> simp [Tbl.above, Tbl.Rising, ih, and_assoc]

theorem Tbl.wf_iff [DecidableEq α] (d : α) (t : Tbl α) : Tbl.wf d t = true ↔ Tbl.Rising d none t := Tbl.above_iff d t none

theorem Tbl.Rising.weaken {d : α} {t : Tbl α} {lo lo' : Option Nat} (h : Tbl.Rising d lo t)
    (hl : ∀ k x, (k, x) ∈ t → (∀ l ∈ lo, l < k) → ∀ l ∈ lo', l < k) : Tbl.Rising d lo' t := by
  cases t with
  | nil => trivial
  | cons e t => obtain ⟨k, x⟩ := e; exact ⟨hl k x (by simp) h.1, h.2⟩

theorem Tbl.Rising.none {d : α} {t : Tbl α} {lo : Option Nat} (h : Tbl.Rising d lo t) : Tbl.Rising d none t :=
  h.weaken (by simp)

/-- Every key of a rising table lies above the bound. -/
theorem Tbl.Rising.lt {d : α} {t : Tbl α} {lo : Nat} (h : Tbl.Rising d (some lo) t) : ∀ k x, (k, x) ∈ t → lo < k := by
  induction t generalizing lo with
  | nil => simp
  | cons e t ih =>
    obtain ⟨k, x⟩ := e
    intro k' x' hm
    have hk : lo < k := h.1 lo rfl
    rcases List.mem_cons.1 hm with he | hm
    · cases he; exact hk
    · exact lt_trans hk (ih h.2.2 k' x' hm)

theorem Tbl.Rising.below {d : α} {t : Tbl α} {lo lo' : Nat} (h : Tbl.Rising d (some lo) t) (hl : lo' ≤ lo) : Tbl.Rising d (some lo') t :=
  h.weaken (fun k _ hm _ l hl' => by
    have := h.lt k _ hm
    cases hl'
    omega)

theorem Tbl.Rising.del {d : α} (k : Nat) : ∀ {t : Tbl α} {lo : Option Nat}, Tbl.Rising d lo t → Tbl.Rising d lo (Tbl.del t k)
  | [], _, _ => trivial
  | (j, x) :: t, lo, h => by
    unfold Tbl.del
    split
    · exact (h.2.2.del k).weaken (fun k' x' hm _ l hl => lt_trans (h.1 l hl) ((h.2.2.del k).lt k' x' hm))
    · exact ⟨h.1, h.2.1, h.2.2.del k⟩

theorem Tbl.Rising.put {d : α} {v : α} (hv : v ≠ d) (k : Nat) :
    ∀ {t : Tbl α} {lo : Option Nat}, (∀ l ∈ lo, l < k) → Tbl.Rising d lo t → Tbl.Rising d lo (Tbl.put t k v)
  | [], _, hk, _ => ⟨hk, hv, trivial⟩
  | (j, x) :: t, lo, hk, h => by
    unfold Tbl.put
    split
    · next e => subst e; exact ⟨h.1, hv, h.2.2⟩
    · split
      · next hlt => exact ⟨hk, hv, (by simpa using hlt), h.2.1, h.2.2⟩
      · next hne hlt =>
        refine ⟨h.1, h.2.1, h.2.2.put hv k ?_⟩
        intro l hl
        cases hl
        omega

theorem Tbl.Rising.filter {d : α} (p : Nat × α → Bool) : ∀ {t : Tbl α} {lo : Option Nat}, Tbl.Rising d lo t → Tbl.Rising d lo (t.filter p)
  | [], _, _ => trivial
  | (j, x) :: t, lo, h => by
    rw [List.filter_cons]
    split
    · exact ⟨h.1, h.2.1, h.2.2.filter p⟩
    · exact (h.2.2.filter p).weaken (fun k' x' hm _ l hl => lt_trans (h.1 l hl) ((h.2.2.filter p).lt k' x' hm))

/-- A write keeps the canonical form. -/
theorem Tbl.wf_set [DecidableEq α] {d : α} {t : Tbl α} (k : Nat) (v : α) (h : Tbl.wf d t = true) : Tbl.wf d (Tbl.set d t k v) = true := by
  rw [Tbl.wf_iff] at *
  unfold Tbl.set
  split
  · exact h.del k
  · next hv => exact Tbl.Rising.put hv k (by simp) h

/-- Removing entries keeps the canonical form. -/
theorem Tbl.wf_filter [DecidableEq α] {d : α} {t : Tbl α} (p : Nat × α → Bool) (h : Tbl.wf d t = true) : Tbl.wf d (t.filter p) = true := by
  rw [Tbl.wf_iff] at *
  exact h.filter p

/-- The empty table is canonical. -/
theorem Tbl.wf_nil [DecidableEq α] (d : α) : Tbl.wf d ([] : Tbl α) = true := rfl

/-! ### What a key holds -/

theorem Tbl.get_put (d : α) (v : α) (k i : Nat) : ∀ t : Tbl α, Tbl.get d (Tbl.put t k v) i = if i = k then v else Tbl.get d t i
  | [] => by simp [Tbl.put, Tbl.get, eq_comm]
  | (j, x) :: t => by
    unfold Tbl.put
    split
    · next e => subst e; by_cases h : i = j <;> simp [Tbl.get, h, eq_comm (a := j)]
    · split
      · by_cases h : i = k <;> simp [Tbl.get, h, eq_comm (a := k)]
      · next hne _ =>
        have ih := Tbl.get_put d v k i t
        by_cases h : j = i
        · subst h; simp [Tbl.get, hne]
        · simp [Tbl.get, h, ih]

theorem Tbl.get_del (d : α) (k i : Nat) : ∀ t : Tbl α, Tbl.get d (Tbl.del t k) i = if i = k then d else Tbl.get d t i
  | [] => by simp [Tbl.del, Tbl.get]
  | (j, x) :: t => by
    have ih := Tbl.get_del d k i t
    unfold Tbl.del
    split
    · next e =>
      subst e
      rw [ih]
      by_cases hi : i = j <;> simp [hi, Tbl.get, eq_comm (a := j)]
    · next hne => by_cases hi : j = i <;> simp_all [Tbl.get]

/-- What a key holds after a write. -/
theorem Tbl.get_set [DecidableEq α] (d : α) (t : Tbl α) (k i : Nat) (v : α) :
    Tbl.get d (Tbl.set d t k v) i = if i = k then v else Tbl.get d t i := by
  unfold Tbl.set
  split
  · next e => subst e; exact Tbl.get_del v k i t
  · exact Tbl.get_put d v k i t

@[simp] theorem Tbl.get_set_self [DecidableEq α] (d : α) (t : Tbl α) (k : Nat) (v : α) : Tbl.get d (Tbl.set d t k v) k = v := by
  simp [Tbl.get_set]

theorem Tbl.get_set_ne [DecidableEq α] {d : α} {t : Tbl α} {k i : Nat} {v : α} (h : i ≠ k) :
    Tbl.get d (Tbl.set d t k v) i = Tbl.get d t i := by simp [Tbl.get_set, h]

@[simp] theorem Tbl.get_nil (d : α) (k : Nat) : Tbl.get d [] k = d := rfl

end Sys2Proof.Machine
end

