-- ==== Sys2Proof/Laws/Memory.lean ====
section
/-! SUPPORT. Laws of memory: what a byte reads after a write, and that every memory operation keeps the canonical form. -/

namespace Sys2Proof.Machine

/-- What a byte table holds after a run of bytes is written. -/
theorem get_putBytes (d : Byte) (i : Nat) : ∀ (l : Bytes) (t : Tbl Byte) (a : Nat),
    Tbl.get d (putBytes d t a l) i = if a ≤ i ∧ i < a + l.length then l.getD (i - a) 0 else Tbl.get d t i
  | [], t, a => by simp [putBytes]
  | x :: l, t, a => by
    rw [putBytes, get_putBytes d i l]
    simp only [Tbl.get_set, List.length_cons]
    by_cases h : a + 1 ≤ i ∧ i < a + 1 + l.length
    · have h' : a ≤ i ∧ i < a + (l.length + 1) := by omega
      have e : i - a = (i - (a + 1)) + 1 := by omega
      simp [h, h', e]
    · by_cases e : i = a
      · subst e; simp
      · have h' : ¬ (a ≤ i ∧ i < a + (l.length + 1)) := by omega
        rw [if_neg h, if_neg h', if_neg e]

theorem wf_putBytes (d : Byte) : ∀ (l : Bytes) (t : Tbl Byte) (a : Nat), Tbl.wf d t = true → Tbl.wf d (putBytes d t a l) = true
  | [], _, _, h => h
  | x :: l, _, a, h => wf_putBytes d l _ _ (Tbl.wf_set a x h)

theorem wf_foldl_set (l : List Nat) (v : Bool) : ∀ t : Tbl Bool, Tbl.wf false t = true →
    Tbl.wf false (l.foldl (fun t p => Tbl.set false t p v) t) = true := by
  induction l with
  | nil => exact fun t h => h
  | cons p l ih => exact fun t h => ih _ (Tbl.wf_set p v h)

/-- A write keeps the memories canonical. -/
theorem memWrite_wf (s : State) (a : Nat) (l : Bytes) (h : s.mem.wf = true) : (memWrite s a l).mem.wf = true := by
  unfold memWrite
  split
  · simp only [Memory.wf, Bool.and_eq_true] at *
    exact ⟨wf_putBytes 0 l _ a h.1, wf_foldl_set _ _ _ h.2⟩
  · exact h

/-- A write changes the memories alone. -/
@[simp] theorem memWrite_rest (s : State) (a : Nat) (l : Bytes) :
    (memWrite s a l).keeper = s.keeper ∧ (memWrite s a l).obj = s.obj ∧ (memWrite s a l).cmp = s.cmp ∧ (memWrite s a l).net = s.net
    ∧ (memWrite s a l).swarm = s.swarm ∧ (memWrite s a l).frame = s.frame ∧ (memWrite s a l).faults = s.faults
    ∧ (memWrite s a l).flash = s.flash ∧ (memWrite s a l).boot = s.boot ∧ (memWrite s a l).power = s.power
    ∧ (memWrite s a l).island = s.island ∧ (memWrite s a l).holmi = s.holmi ∧ (memWrite s a l).test = s.test
    ∧ (memWrite s a l).free = s.free ∧ (memWrite s a l).pending = s.pending := by
  unfold memWrite
  split <;> simp

theorem memByte_congr {s t : State} (hs : t.swarm = s.swarm) (ho : t.obj = s.obj) (hf : t.free = s.free) (hm : t.mem = s.mem) (i : Nat) :
    memByte t i = memByte s i := by
  simp [memByte, fenceIndex, fenceWord, freeB, hs, ho, hf, hm]

/-- A byte outside the written ones reads as before. -/
theorem memByte_memWrite_ne (s : State) (a i : Nat) (l : Bytes) (h : ¬ (a ≤ i ∧ i < a + l.length)) :
    memByte (memWrite s a l) i = memByte s i := by
  have hb : Tbl.get 0 (memWrite s a l).mem.bytes i = Tbl.get 0 s.mem.bytes i := by
    unfold memWrite
    split
    · simp only [get_putBytes, h, if_false]
    · rfl
  simp only [memByte, fenceIndex, fenceWord, freeB, memWrite_rest, hb]

/-- A written byte of this node, outside the fence area, reads what was written. -/
theorem memByte_memWrite (s : State) (a i : Nat) (l : Bytes) (hi : a ≤ i ∧ i < a + l.length) (hn : addrNode a = s.swarm.node) (ha : a < 2 ^ 48)
    (hni : addrNode i = s.swarm.node) (hf : fenceIndex s i = none) : memByte (memWrite s a l) i = l.getD (i - a) 0 := by
  have hf' : fenceIndex (memWrite s a l) i = none := by simpa [fenceIndex] using hf
  simp only [memByte, hf', memWrite_rest, hni, if_true]
  unfold memWrite
  rw [if_pos ⟨hn, ha⟩]
  simp only [get_putBytes, hi, and_self, if_true]

@[simp] theorem memRead_length (s : State) (a n : Nat) : (memRead s a n).length = n := by
  induction n generalizing a with
  | zero => rfl
  | succ n ih => simp [memRead, ih]

theorem memRead_getD (s : State) (n : Nat) : ∀ (a i : Nat), i < n → (memRead s a n).getD i 0 = memByte s (a + i) := by
  induction n with
  | zero => intro a i h; omega
  | succ n ih =>
    intro a i h
    cases i with
    | zero => simp [memRead]
    | succ i =>
      have := ih (a + 1) i (by omega)
      simpa [memRead, Nat.add_assoc, Nat.add_comm 1] using this

/-- Bytes read where none of them has changed. -/
theorem memRead_congr {s t : State} (n : Nat) : ∀ a : Nat, (∀ i, a ≤ i → i < a + n → memByte t i = memByte s i) → memRead t a n = memRead s a n := by
  induction n with
  | zero => intro a _; rfl
  | succ n ih =>
    intro a h
    simp only [memRead]
    rw [h a (by omega) (by omega), ih (a + 1) (fun i h1 h2 => h i (by omega) (by omega))]

/-- What has just been written is read back. -/
theorem memRead_memWrite (s : State) (a : Nat) (l : Bytes) (hn : ∀ i, a ≤ i → i < a + l.length → addrNode i = s.swarm.node ∧ fenceIndex s i = none)
    (ha : a < 2 ^ 48) : memRead (memWrite s a l) a l.length = l := by
  apply List.ext_getElem
  · simp
  · intro i h1 h2
    have hi : i < l.length := h2
    have h0 := hn a (by omega) (by omega)
    have e := memRead_getD (memWrite s a l) l.length a i hi
    rw [List.getD_eq_getElem _ _ (by simpa using hi)] at e
    rw [e, memByte_memWrite s a (a + i) l (by omega) h0.1 ha (hn (a + i) (by omega) (by omega)).1 (hn (a + i) (by omega) (by omega)).2]
    simp [hi]

end Sys2Proof.Machine
end

