-- ==== Sys2Proof/Laws/State.lean ====
section
/-! SUPPORT. What each setter leaves as it was, and what it makes its own getter answer: one theorem per setter, true by unfolding, for
`simp`, so that no proof unfolds a record update. -/

namespace Sys2Proof.Machine

@[simp] theorem setMbx_rest (s : State) (m : Nat) (x : Mbx) :
    (setMbx s m x).obj = s.obj ∧ (setMbx s m x).mem = s.mem ∧ (setMbx s m x).cmp = s.cmp ∧ (setMbx s m x).net = s.net ∧ (setMbx s m x).swarm = s.swarm
    ∧ (setMbx s m x).frame = s.frame ∧ (setMbx s m x).faults = s.faults ∧ (setMbx s m x).flash = s.flash ∧ (setMbx s m x).boot = s.boot
    ∧ (setMbx s m x).power = s.power ∧ (setMbx s m x).island = s.island ∧ (setMbx s m x).holmi = s.holmi ∧ (setMbx s m x).test = s.test
    ∧ (setMbx s m x).free = s.free ∧ (setMbx s m x).pending = s.pending ∧ (setMbx s m x).keeper.blocks = s.keeper.blocks
    ∧ (setMbx s m x).keeper.lastServed = s.keeper.lastServed ∧ (setMbx s m x).keeper.latches = s.keeper.latches
    ∧ (setMbx s m x).keeper.irqs = s.keeper.irqs ∧ (setMbx s m x).keeper.vectors = s.keeper.vectors ∧ (setMbx s m x).keeper.rsp = s.keeper.rsp
    ∧ (setMbx s m x).keeper.tick = s.keeper.tick ∧ (setMbx s m x).keeper.reported = s.keeper.reported
    ∧ (setMbx s m x).keeper.violations = s.keeper.violations ∧ (setMbx s m x).keeper.violationsOvf = s.keeper.violationsOvf
    ∧ (∀ i, getBlock (setMbx s m x) i = getBlock s i) ∧ (∀ i, getCtx (setMbx s m x) i = getCtx s i) ∧ (∀ i, getMot (setMbx s m x) i = getMot s i)
    ∧ (∀ i, getQueue (setMbx s m x) i = getQueue s i) ∧ (∀ i, getSlot (setMbx s m x) i = getSlot s i)
    ∧ (∀ i, fenceWord (setMbx s m x) i = fenceWord s i) ∧ (∀ i, getDom (setMbx s m x) i = getDom s i)
    ∧ (∀ i j, getRouter (setMbx s m x) i j = getRouter s i j) ∧ (∀ i, getDie (setMbx s m x) i = getDie s i)
    ∧ (∀ i j, getCell (setMbx s m x) i j = getCell s i j) ∧ (∀ i, getColl (setMbx s m x) i = getColl s i)
    ∧ (∀ i, getEngine (setMbx s m x) i = getEngine s i) ∧ (∀ i, getTile (setMbx s m x) i = getTile s i)
    ∧ (∀ i, getRegion (setMbx s m x) i = getRegion s i) ∧ (∀ i, getChan (setMbx s m x) i = getChan s i)
    ∧ (∀ i, getSlink (setMbx s m x) i = getSlink s i) ∧ (∀ i, getPort (setMbx s m x) i = getPort s i) ∧ (∀ i, getBank (setMbx s m x) i = getBank s i)
    ∧ (∀ i, sectorState (setMbx s m x) i = sectorState s i) ∧ (∀ i, getHm1 (setMbx s m x) i = getHm1 s i)
    ∧ (∀ i, getSeen (setMbx s m x) i = getSeen s i) ∧ (∀ i, getRelay (setMbx s m x) i = getRelay s i) ∧ (∀ i, getFunc (setMbx s m x) i = getFunc s i)
    ∧ (∀ i, getInput (setMbx s m x) i = getInput s i) ∧ (∀ i, getPair (setMbx s m x) i = getPair s i) ∧ (∀ i, getConn (setMbx s m x) i = getConn s i)
    ∧ (∀ i j, getPat (setMbx s m x) i j = getPat s i j) ∧ (∀ i, memByte (setMbx s m x) i = memByte s i)
    ∧ (∀ i n, memRead (setMbx s m x) i n = memRead s i n) :=
  ⟨rfl, rfl, rfl, rfl, rfl, rfl, rfl, rfl, rfl, rfl, rfl, rfl, rfl, rfl, rfl, rfl, rfl, rfl, rfl, rfl, rfl, rfl, rfl, rfl, rfl, fun _ => rfl,
   fun _ => rfl, fun _ => rfl, fun _ => rfl, fun _ => rfl, fun _ => rfl, fun _ => rfl, fun _ _ => rfl, fun _ => rfl, fun _ _ => rfl, fun _ => rfl,
   fun _ => rfl, fun _ => rfl, fun _ => rfl, fun _ => rfl, fun _ => rfl, fun _ => rfl, fun _ => rfl, fun _ => rfl, fun _ => rfl, fun _ => rfl,
   fun _ => rfl, fun _ => rfl, fun _ => rfl, fun _ => rfl, fun _ => rfl, fun _ _ => rfl, fun _ => rfl, fun i n => memRead_congr n i (fun _ _ _ => rfl)⟩

@[simp] theorem getMbx_setMbx (s : State) (m : Nat) (x : Mbx) : getMbx (setMbx s m x) m = x := by
  simp [getMbx, setMbx]

theorem getMbx_setMbx_ne (s : State) (m : Nat) (x : Mbx) (j : Nat) (h : j ≠ m) : getMbx (setMbx s m x) j = getMbx s j := by
  simp [getMbx, setMbx, Tbl.get_set_ne h]

@[simp] theorem setBlock_rest (s : State) (id : Nat) (x : StagedBlock) :
    (setBlock s id x).obj = s.obj ∧ (setBlock s id x).mem = s.mem ∧ (setBlock s id x).cmp = s.cmp ∧ (setBlock s id x).net = s.net
    ∧ (setBlock s id x).swarm = s.swarm ∧ (setBlock s id x).frame = s.frame ∧ (setBlock s id x).faults = s.faults ∧ (setBlock s id x).flash = s.flash
    ∧ (setBlock s id x).boot = s.boot ∧ (setBlock s id x).power = s.power ∧ (setBlock s id x).island = s.island ∧ (setBlock s id x).holmi = s.holmi
    ∧ (setBlock s id x).test = s.test ∧ (setBlock s id x).free = s.free ∧ (setBlock s id x).pending = s.pending
    ∧ (setBlock s id x).keeper.mbx = s.keeper.mbx ∧ (setBlock s id x).keeper.lastServed = s.keeper.lastServed
    ∧ (setBlock s id x).keeper.latches = s.keeper.latches ∧ (setBlock s id x).keeper.irqs = s.keeper.irqs
    ∧ (setBlock s id x).keeper.vectors = s.keeper.vectors ∧ (setBlock s id x).keeper.rsp = s.keeper.rsp
    ∧ (setBlock s id x).keeper.tick = s.keeper.tick ∧ (setBlock s id x).keeper.reported = s.keeper.reported
    ∧ (setBlock s id x).keeper.violations = s.keeper.violations ∧ (setBlock s id x).keeper.violationsOvf = s.keeper.violationsOvf
    ∧ (∀ i, getMbx (setBlock s id x) i = getMbx s i) ∧ (∀ i, getCtx (setBlock s id x) i = getCtx s i) ∧ (∀ i, getMot (setBlock s id x) i = getMot s i)
    ∧ (∀ i, getQueue (setBlock s id x) i = getQueue s i) ∧ (∀ i, getSlot (setBlock s id x) i = getSlot s i)
    ∧ (∀ i, fenceWord (setBlock s id x) i = fenceWord s i) ∧ (∀ i, getDom (setBlock s id x) i = getDom s i)
    ∧ (∀ i j, getRouter (setBlock s id x) i j = getRouter s i j) ∧ (∀ i, getDie (setBlock s id x) i = getDie s i)
    ∧ (∀ i j, getCell (setBlock s id x) i j = getCell s i j) ∧ (∀ i, getColl (setBlock s id x) i = getColl s i)
    ∧ (∀ i, getEngine (setBlock s id x) i = getEngine s i) ∧ (∀ i, getTile (setBlock s id x) i = getTile s i)
    ∧ (∀ i, getRegion (setBlock s id x) i = getRegion s i) ∧ (∀ i, getChan (setBlock s id x) i = getChan s i)
    ∧ (∀ i, getSlink (setBlock s id x) i = getSlink s i) ∧ (∀ i, getPort (setBlock s id x) i = getPort s i)
    ∧ (∀ i, getBank (setBlock s id x) i = getBank s i) ∧ (∀ i, sectorState (setBlock s id x) i = sectorState s i)
    ∧ (∀ i, getHm1 (setBlock s id x) i = getHm1 s i) ∧ (∀ i, getSeen (setBlock s id x) i = getSeen s i)
    ∧ (∀ i, getRelay (setBlock s id x) i = getRelay s i) ∧ (∀ i, getFunc (setBlock s id x) i = getFunc s i)
    ∧ (∀ i, getInput (setBlock s id x) i = getInput s i) ∧ (∀ i, getPair (setBlock s id x) i = getPair s i)
    ∧ (∀ i, getConn (setBlock s id x) i = getConn s i) ∧ (∀ i j, getPat (setBlock s id x) i j = getPat s i j)
    ∧ (∀ i, memByte (setBlock s id x) i = memByte s i) ∧ (∀ i n, memRead (setBlock s id x) i n = memRead s i n) :=
  ⟨rfl, rfl, rfl, rfl, rfl, rfl, rfl, rfl, rfl, rfl, rfl, rfl, rfl, rfl, rfl, rfl, rfl, rfl, rfl, rfl, rfl, rfl, rfl, rfl, rfl, fun _ => rfl,
   fun _ => rfl, fun _ => rfl, fun _ => rfl, fun _ => rfl, fun _ => rfl, fun _ => rfl, fun _ _ => rfl, fun _ => rfl, fun _ _ => rfl, fun _ => rfl,
   fun _ => rfl, fun _ => rfl, fun _ => rfl, fun _ => rfl, fun _ => rfl, fun _ => rfl, fun _ => rfl, fun _ => rfl, fun _ => rfl, fun _ => rfl,
   fun _ => rfl, fun _ => rfl, fun _ => rfl, fun _ => rfl, fun _ => rfl, fun _ _ => rfl, fun _ => rfl, fun i n => memRead_congr n i (fun _ _ _ => rfl)⟩

@[simp] theorem getBlock_setBlock (s : State) (id : Nat) (x : StagedBlock) : getBlock (setBlock s id x) id = x := by
  simp [getBlock, setBlock]

theorem getBlock_setBlock_ne (s : State) (id : Nat) (x : StagedBlock) (j : Nat) (h : j ≠ id) : getBlock (setBlock s id x) j = getBlock s j := by
  simp [getBlock, setBlock, Tbl.get_set_ne h]

@[simp] theorem setCtx_rest (s : State) (c : Nat) (x : Ctx) :
    (setCtx s c x).keeper = s.keeper ∧ (setCtx s c x).mem = s.mem ∧ (setCtx s c x).cmp = s.cmp ∧ (setCtx s c x).net = s.net
    ∧ (setCtx s c x).swarm = s.swarm ∧ (setCtx s c x).frame = s.frame ∧ (setCtx s c x).faults = s.faults ∧ (setCtx s c x).flash = s.flash
    ∧ (setCtx s c x).boot = s.boot ∧ (setCtx s c x).power = s.power ∧ (setCtx s c x).island = s.island ∧ (setCtx s c x).holmi = s.holmi
    ∧ (setCtx s c x).test = s.test ∧ (setCtx s c x).free = s.free ∧ (setCtx s c x).pending = s.pending ∧ (setCtx s c x).obj.mot = s.obj.mot
    ∧ (setCtx s c x).obj.fences = s.obj.fences ∧ (setCtx s c x).obj.queues = s.obj.queues ∧ (setCtx s c x).obj.slots = s.obj.slots
    ∧ (setCtx s c x).obj.signals = s.obj.signals ∧ (∀ i, getMbx (setCtx s c x) i = getMbx s i) ∧ (∀ i, getBlock (setCtx s c x) i = getBlock s i)
    ∧ (∀ i, getMot (setCtx s c x) i = getMot s i) ∧ (∀ i, getQueue (setCtx s c x) i = getQueue s i) ∧ (∀ i, getSlot (setCtx s c x) i = getSlot s i)
    ∧ (∀ i, fenceWord (setCtx s c x) i = fenceWord s i) ∧ (∀ i, getDom (setCtx s c x) i = getDom s i)
    ∧ (∀ i j, getRouter (setCtx s c x) i j = getRouter s i j) ∧ (∀ i, getDie (setCtx s c x) i = getDie s i)
    ∧ (∀ i j, getCell (setCtx s c x) i j = getCell s i j) ∧ (∀ i, getColl (setCtx s c x) i = getColl s i)
    ∧ (∀ i, getEngine (setCtx s c x) i = getEngine s i) ∧ (∀ i, getTile (setCtx s c x) i = getTile s i)
    ∧ (∀ i, getRegion (setCtx s c x) i = getRegion s i) ∧ (∀ i, getChan (setCtx s c x) i = getChan s i)
    ∧ (∀ i, getSlink (setCtx s c x) i = getSlink s i) ∧ (∀ i, getPort (setCtx s c x) i = getPort s i) ∧ (∀ i, getBank (setCtx s c x) i = getBank s i)
    ∧ (∀ i, sectorState (setCtx s c x) i = sectorState s i) ∧ (∀ i, getHm1 (setCtx s c x) i = getHm1 s i)
    ∧ (∀ i, getSeen (setCtx s c x) i = getSeen s i) ∧ (∀ i, getRelay (setCtx s c x) i = getRelay s i) ∧ (∀ i, getFunc (setCtx s c x) i = getFunc s i)
    ∧ (∀ i, getInput (setCtx s c x) i = getInput s i) ∧ (∀ i, getPair (setCtx s c x) i = getPair s i) ∧ (∀ i, getConn (setCtx s c x) i = getConn s i)
    ∧ (∀ i j, getPat (setCtx s c x) i j = getPat s i j) ∧ (∀ i, memByte (setCtx s c x) i = memByte s i)
    ∧ (∀ i n, memRead (setCtx s c x) i n = memRead s i n) :=
  ⟨rfl, rfl, rfl, rfl, rfl, rfl, rfl, rfl, rfl, rfl, rfl, rfl, rfl, rfl, rfl, rfl, rfl, rfl, rfl, rfl, fun _ => rfl, fun _ => rfl, fun _ => rfl,
   fun _ => rfl, fun _ => rfl, fun _ => rfl, fun _ => rfl, fun _ _ => rfl, fun _ => rfl, fun _ _ => rfl, fun _ => rfl, fun _ => rfl, fun _ => rfl,
   fun _ => rfl, fun _ => rfl, fun _ => rfl, fun _ => rfl, fun _ => rfl, fun _ => rfl, fun _ => rfl, fun _ => rfl, fun _ => rfl, fun _ => rfl,
   fun _ => rfl, fun _ => rfl, fun _ => rfl, fun _ _ => rfl, fun _ => rfl, fun i n => memRead_congr n i (fun _ _ _ => rfl)⟩

@[simp] theorem getCtx_setCtx (s : State) (c : Nat) (x : Ctx) : getCtx (setCtx s c x) c = x := by
  simp [getCtx, setCtx]

theorem getCtx_setCtx_ne (s : State) (c : Nat) (x : Ctx) (j : Nat) (h : j ≠ c) : getCtx (setCtx s c x) j = getCtx s j := by
  simp [getCtx, setCtx, Tbl.get_set_ne h]

@[simp] theorem setMot_rest (s : State) (i : Nat) (x : MotEntry) :
    (setMot s i x).keeper = s.keeper ∧ (setMot s i x).mem = s.mem ∧ (setMot s i x).cmp = s.cmp ∧ (setMot s i x).net = s.net
    ∧ (setMot s i x).swarm = s.swarm ∧ (setMot s i x).frame = s.frame ∧ (setMot s i x).faults = s.faults ∧ (setMot s i x).flash = s.flash
    ∧ (setMot s i x).boot = s.boot ∧ (setMot s i x).power = s.power ∧ (setMot s i x).island = s.island ∧ (setMot s i x).holmi = s.holmi
    ∧ (setMot s i x).test = s.test ∧ (setMot s i x).free = s.free ∧ (setMot s i x).pending = s.pending ∧ (setMot s i x).obj.ctxs = s.obj.ctxs
    ∧ (setMot s i x).obj.fences = s.obj.fences ∧ (setMot s i x).obj.queues = s.obj.queues ∧ (setMot s i x).obj.slots = s.obj.slots
    ∧ (setMot s i x).obj.signals = s.obj.signals ∧ (∀ i, getMbx (setMot s i x) i = getMbx s i) ∧ (∀ i, getBlock (setMot s i x) i = getBlock s i)
    ∧ (∀ i, getCtx (setMot s i x) i = getCtx s i) ∧ (∀ i, getQueue (setMot s i x) i = getQueue s i) ∧ (∀ i, getSlot (setMot s i x) i = getSlot s i)
    ∧ (∀ i, fenceWord (setMot s i x) i = fenceWord s i) ∧ (∀ i, getDom (setMot s i x) i = getDom s i)
    ∧ (∀ i j, getRouter (setMot s i x) i j = getRouter s i j) ∧ (∀ i, getDie (setMot s i x) i = getDie s i)
    ∧ (∀ i j, getCell (setMot s i x) i j = getCell s i j) ∧ (∀ i, getColl (setMot s i x) i = getColl s i)
    ∧ (∀ i, getEngine (setMot s i x) i = getEngine s i) ∧ (∀ i, getTile (setMot s i x) i = getTile s i)
    ∧ (∀ i, getRegion (setMot s i x) i = getRegion s i) ∧ (∀ i, getChan (setMot s i x) i = getChan s i)
    ∧ (∀ i, getSlink (setMot s i x) i = getSlink s i) ∧ (∀ i, getPort (setMot s i x) i = getPort s i) ∧ (∀ i, getBank (setMot s i x) i = getBank s i)
    ∧ (∀ i, sectorState (setMot s i x) i = sectorState s i) ∧ (∀ i, getHm1 (setMot s i x) i = getHm1 s i)
    ∧ (∀ i, getSeen (setMot s i x) i = getSeen s i) ∧ (∀ i, getRelay (setMot s i x) i = getRelay s i) ∧ (∀ i, getFunc (setMot s i x) i = getFunc s i)
    ∧ (∀ i, getInput (setMot s i x) i = getInput s i) ∧ (∀ i, getPair (setMot s i x) i = getPair s i) ∧ (∀ i, getConn (setMot s i x) i = getConn s i)
    ∧ (∀ i j, getPat (setMot s i x) i j = getPat s i j) ∧ (∀ i, memByte (setMot s i x) i = memByte s i)
    ∧ (∀ i n, memRead (setMot s i x) i n = memRead s i n) :=
  ⟨rfl, rfl, rfl, rfl, rfl, rfl, rfl, rfl, rfl, rfl, rfl, rfl, rfl, rfl, rfl, rfl, rfl, rfl, rfl, rfl, fun _ => rfl, fun _ => rfl, fun _ => rfl,
   fun _ => rfl, fun _ => rfl, fun _ => rfl, fun _ => rfl, fun _ _ => rfl, fun _ => rfl, fun _ _ => rfl, fun _ => rfl, fun _ => rfl, fun _ => rfl,
   fun _ => rfl, fun _ => rfl, fun _ => rfl, fun _ => rfl, fun _ => rfl, fun _ => rfl, fun _ => rfl, fun _ => rfl, fun _ => rfl, fun _ => rfl,
   fun _ => rfl, fun _ => rfl, fun _ => rfl, fun _ _ => rfl, fun _ => rfl, fun i n => memRead_congr n i (fun _ _ _ => rfl)⟩

@[simp] theorem getMot_setMot (s : State) (i : Nat) (x : MotEntry) : getMot (setMot s i x) i = x := by
  simp [getMot, setMot]

theorem getMot_setMot_ne (s : State) (i : Nat) (x : MotEntry) (j : Nat) (h : j ≠ i) : getMot (setMot s i x) j = getMot s j := by
  simp [getMot, setMot, Tbl.get_set_ne h]

@[simp] theorem setQueue_rest (s : State) (q : Nat) (x : Queue) :
    (setQueue s q x).keeper = s.keeper ∧ (setQueue s q x).mem = s.mem ∧ (setQueue s q x).cmp = s.cmp ∧ (setQueue s q x).net = s.net
    ∧ (setQueue s q x).swarm = s.swarm ∧ (setQueue s q x).frame = s.frame ∧ (setQueue s q x).faults = s.faults ∧ (setQueue s q x).flash = s.flash
    ∧ (setQueue s q x).boot = s.boot ∧ (setQueue s q x).power = s.power ∧ (setQueue s q x).island = s.island ∧ (setQueue s q x).holmi = s.holmi
    ∧ (setQueue s q x).test = s.test ∧ (setQueue s q x).free = s.free ∧ (setQueue s q x).pending = s.pending ∧ (setQueue s q x).obj.ctxs = s.obj.ctxs
    ∧ (setQueue s q x).obj.mot = s.obj.mot ∧ (setQueue s q x).obj.fences = s.obj.fences ∧ (setQueue s q x).obj.slots = s.obj.slots
    ∧ (setQueue s q x).obj.signals = s.obj.signals ∧ (∀ i, getMbx (setQueue s q x) i = getMbx s i) ∧ (∀ i, getBlock (setQueue s q x) i = getBlock s i)
    ∧ (∀ i, getCtx (setQueue s q x) i = getCtx s i) ∧ (∀ i, getMot (setQueue s q x) i = getMot s i) ∧ (∀ i, getSlot (setQueue s q x) i = getSlot s i)
    ∧ (∀ i, fenceWord (setQueue s q x) i = fenceWord s i) ∧ (∀ i, getDom (setQueue s q x) i = getDom s i)
    ∧ (∀ i j, getRouter (setQueue s q x) i j = getRouter s i j) ∧ (∀ i, getDie (setQueue s q x) i = getDie s i)
    ∧ (∀ i j, getCell (setQueue s q x) i j = getCell s i j) ∧ (∀ i, getColl (setQueue s q x) i = getColl s i)
    ∧ (∀ i, getEngine (setQueue s q x) i = getEngine s i) ∧ (∀ i, getTile (setQueue s q x) i = getTile s i)
    ∧ (∀ i, getRegion (setQueue s q x) i = getRegion s i) ∧ (∀ i, getChan (setQueue s q x) i = getChan s i)
    ∧ (∀ i, getSlink (setQueue s q x) i = getSlink s i) ∧ (∀ i, getPort (setQueue s q x) i = getPort s i)
    ∧ (∀ i, getBank (setQueue s q x) i = getBank s i) ∧ (∀ i, sectorState (setQueue s q x) i = sectorState s i)
    ∧ (∀ i, getHm1 (setQueue s q x) i = getHm1 s i) ∧ (∀ i, getSeen (setQueue s q x) i = getSeen s i)
    ∧ (∀ i, getRelay (setQueue s q x) i = getRelay s i) ∧ (∀ i, getFunc (setQueue s q x) i = getFunc s i)
    ∧ (∀ i, getInput (setQueue s q x) i = getInput s i) ∧ (∀ i, getPair (setQueue s q x) i = getPair s i)
    ∧ (∀ i, getConn (setQueue s q x) i = getConn s i) ∧ (∀ i j, getPat (setQueue s q x) i j = getPat s i j)
    ∧ (∀ i, memByte (setQueue s q x) i = memByte s i) ∧ (∀ i n, memRead (setQueue s q x) i n = memRead s i n) :=
  ⟨rfl, rfl, rfl, rfl, rfl, rfl, rfl, rfl, rfl, rfl, rfl, rfl, rfl, rfl, rfl, rfl, rfl, rfl, rfl, rfl, fun _ => rfl, fun _ => rfl, fun _ => rfl,
   fun _ => rfl, fun _ => rfl, fun _ => rfl, fun _ => rfl, fun _ _ => rfl, fun _ => rfl, fun _ _ => rfl, fun _ => rfl, fun _ => rfl, fun _ => rfl,
   fun _ => rfl, fun _ => rfl, fun _ => rfl, fun _ => rfl, fun _ => rfl, fun _ => rfl, fun _ => rfl, fun _ => rfl, fun _ => rfl, fun _ => rfl,
   fun _ => rfl, fun _ => rfl, fun _ => rfl, fun _ _ => rfl, fun _ => rfl, fun i n => memRead_congr n i (fun _ _ _ => rfl)⟩

@[simp] theorem getQueue_setQueue (s : State) (q : Nat) (x : Queue) : getQueue (setQueue s q x) q = x := by
  simp [getQueue, setQueue]

theorem getQueue_setQueue_ne (s : State) (q : Nat) (x : Queue) (j : Nat) (h : j ≠ q) : getQueue (setQueue s q x) j = getQueue s j := by
  simp [getQueue, setQueue, Tbl.get_set_ne h]

@[simp] theorem setSlot_rest (s : State) (k : Nat) (x : Slot) :
    (setSlot s k x).keeper = s.keeper ∧ (setSlot s k x).mem = s.mem ∧ (setSlot s k x).cmp = s.cmp ∧ (setSlot s k x).net = s.net
    ∧ (setSlot s k x).swarm = s.swarm ∧ (setSlot s k x).frame = s.frame ∧ (setSlot s k x).faults = s.faults ∧ (setSlot s k x).flash = s.flash
    ∧ (setSlot s k x).boot = s.boot ∧ (setSlot s k x).power = s.power ∧ (setSlot s k x).island = s.island ∧ (setSlot s k x).holmi = s.holmi
    ∧ (setSlot s k x).test = s.test ∧ (setSlot s k x).free = s.free ∧ (setSlot s k x).pending = s.pending ∧ (setSlot s k x).obj.ctxs = s.obj.ctxs
    ∧ (setSlot s k x).obj.mot = s.obj.mot ∧ (setSlot s k x).obj.fences = s.obj.fences ∧ (setSlot s k x).obj.queues = s.obj.queues
    ∧ (setSlot s k x).obj.signals = s.obj.signals ∧ (∀ i, getMbx (setSlot s k x) i = getMbx s i) ∧ (∀ i, getBlock (setSlot s k x) i = getBlock s i)
    ∧ (∀ i, getCtx (setSlot s k x) i = getCtx s i) ∧ (∀ i, getMot (setSlot s k x) i = getMot s i) ∧ (∀ i, getQueue (setSlot s k x) i = getQueue s i)
    ∧ (∀ i, fenceWord (setSlot s k x) i = fenceWord s i) ∧ (∀ i, getDom (setSlot s k x) i = getDom s i)
    ∧ (∀ i j, getRouter (setSlot s k x) i j = getRouter s i j) ∧ (∀ i, getDie (setSlot s k x) i = getDie s i)
    ∧ (∀ i j, getCell (setSlot s k x) i j = getCell s i j) ∧ (∀ i, getColl (setSlot s k x) i = getColl s i)
    ∧ (∀ i, getEngine (setSlot s k x) i = getEngine s i) ∧ (∀ i, getTile (setSlot s k x) i = getTile s i)
    ∧ (∀ i, getRegion (setSlot s k x) i = getRegion s i) ∧ (∀ i, getChan (setSlot s k x) i = getChan s i)
    ∧ (∀ i, getSlink (setSlot s k x) i = getSlink s i) ∧ (∀ i, getPort (setSlot s k x) i = getPort s i)
    ∧ (∀ i, getBank (setSlot s k x) i = getBank s i) ∧ (∀ i, sectorState (setSlot s k x) i = sectorState s i)
    ∧ (∀ i, getHm1 (setSlot s k x) i = getHm1 s i) ∧ (∀ i, getSeen (setSlot s k x) i = getSeen s i) ∧ (∀ i, getRelay (setSlot s k x) i = getRelay s i)
    ∧ (∀ i, getFunc (setSlot s k x) i = getFunc s i) ∧ (∀ i, getInput (setSlot s k x) i = getInput s i)
    ∧ (∀ i, getPair (setSlot s k x) i = getPair s i) ∧ (∀ i, getConn (setSlot s k x) i = getConn s i)
    ∧ (∀ i j, getPat (setSlot s k x) i j = getPat s i j) ∧ (∀ i, memByte (setSlot s k x) i = memByte s i)
    ∧ (∀ i n, memRead (setSlot s k x) i n = memRead s i n) :=
  ⟨rfl, rfl, rfl, rfl, rfl, rfl, rfl, rfl, rfl, rfl, rfl, rfl, rfl, rfl, rfl, rfl, rfl, rfl, rfl, rfl, fun _ => rfl, fun _ => rfl, fun _ => rfl,
   fun _ => rfl, fun _ => rfl, fun _ => rfl, fun _ => rfl, fun _ _ => rfl, fun _ => rfl, fun _ _ => rfl, fun _ => rfl, fun _ => rfl, fun _ => rfl,
   fun _ => rfl, fun _ => rfl, fun _ => rfl, fun _ => rfl, fun _ => rfl, fun _ => rfl, fun _ => rfl, fun _ => rfl, fun _ => rfl, fun _ => rfl,
   fun _ => rfl, fun _ => rfl, fun _ => rfl, fun _ _ => rfl, fun _ => rfl, fun i n => memRead_congr n i (fun _ _ _ => rfl)⟩

@[simp] theorem getSlot_setSlot (s : State) (k : Nat) (x : Slot) : getSlot (setSlot s k x) k = x := by
  simp [getSlot, setSlot]

theorem getSlot_setSlot_ne (s : State) (k : Nat) (x : Slot) (j : Nat) (h : j ≠ k) : getSlot (setSlot s k x) j = getSlot s j := by
  simp [getSlot, setSlot, Tbl.get_set_ne h]

@[simp] theorem setFence_rest (s : State) (i : Nat) (x : W64) :
    (setFence s i x).keeper = s.keeper ∧ (setFence s i x).mem = s.mem ∧ (setFence s i x).cmp = s.cmp ∧ (setFence s i x).net = s.net
    ∧ (setFence s i x).swarm = s.swarm ∧ (setFence s i x).frame = s.frame ∧ (setFence s i x).faults = s.faults ∧ (setFence s i x).flash = s.flash
    ∧ (setFence s i x).boot = s.boot ∧ (setFence s i x).power = s.power ∧ (setFence s i x).island = s.island ∧ (setFence s i x).holmi = s.holmi
    ∧ (setFence s i x).test = s.test ∧ (setFence s i x).free = s.free ∧ (setFence s i x).pending = s.pending ∧ (setFence s i x).obj.ctxs = s.obj.ctxs
    ∧ (setFence s i x).obj.mot = s.obj.mot ∧ (setFence s i x).obj.queues = s.obj.queues ∧ (setFence s i x).obj.slots = s.obj.slots
    ∧ (setFence s i x).obj.signals = s.obj.signals ∧ (∀ i, getMbx (setFence s i x) i = getMbx s i) ∧ (∀ i, getBlock (setFence s i x) i = getBlock s i)
    ∧ (∀ i, getCtx (setFence s i x) i = getCtx s i) ∧ (∀ i, getMot (setFence s i x) i = getMot s i)
    ∧ (∀ i, getQueue (setFence s i x) i = getQueue s i) ∧ (∀ i, getSlot (setFence s i x) i = getSlot s i)
    ∧ (∀ i, getDom (setFence s i x) i = getDom s i) ∧ (∀ i j, getRouter (setFence s i x) i j = getRouter s i j)
    ∧ (∀ i, getDie (setFence s i x) i = getDie s i) ∧ (∀ i j, getCell (setFence s i x) i j = getCell s i j)
    ∧ (∀ i, getColl (setFence s i x) i = getColl s i) ∧ (∀ i, getEngine (setFence s i x) i = getEngine s i)
    ∧ (∀ i, getTile (setFence s i x) i = getTile s i) ∧ (∀ i, getRegion (setFence s i x) i = getRegion s i)
    ∧ (∀ i, getChan (setFence s i x) i = getChan s i) ∧ (∀ i, getSlink (setFence s i x) i = getSlink s i)
    ∧ (∀ i, getPort (setFence s i x) i = getPort s i) ∧ (∀ i, getBank (setFence s i x) i = getBank s i)
    ∧ (∀ i, sectorState (setFence s i x) i = sectorState s i) ∧ (∀ i, getHm1 (setFence s i x) i = getHm1 s i)
    ∧ (∀ i, getSeen (setFence s i x) i = getSeen s i) ∧ (∀ i, getRelay (setFence s i x) i = getRelay s i)
    ∧ (∀ i, getFunc (setFence s i x) i = getFunc s i) ∧ (∀ i, getInput (setFence s i x) i = getInput s i)
    ∧ (∀ i, getPair (setFence s i x) i = getPair s i) ∧ (∀ i, getConn (setFence s i x) i = getConn s i)
    ∧ (∀ i j, getPat (setFence s i x) i j = getPat s i j) :=
  ⟨rfl, rfl, rfl, rfl, rfl, rfl, rfl, rfl, rfl, rfl, rfl, rfl, rfl, rfl, rfl, rfl, rfl, rfl, rfl, rfl, fun _ => rfl, fun _ => rfl, fun _ => rfl,
   fun _ => rfl, fun _ => rfl, fun _ => rfl, fun _ => rfl, fun _ _ => rfl, fun _ => rfl, fun _ _ => rfl, fun _ => rfl, fun _ => rfl, fun _ => rfl,
   fun _ => rfl, fun _ => rfl, fun _ => rfl, fun _ => rfl, fun _ => rfl, fun _ => rfl, fun _ => rfl, fun _ => rfl, fun _ => rfl, fun _ => rfl,
   fun _ => rfl, fun _ => rfl, fun _ => rfl, fun _ _ => rfl⟩

@[simp] theorem fenceWord_setFence (s : State) (i : Nat) (x : W64) : fenceWord (setFence s i x) i = x := by
  simp [fenceWord, setFence]

theorem fenceWord_setFence_ne (s : State) (i : Nat) (x : W64) (j : Nat) (h : j ≠ i) : fenceWord (setFence s i x) j = fenceWord s j := by
  simp [fenceWord, setFence, Tbl.get_set_ne h]

@[simp] theorem setDom_rest (s : State) (d : Nat) (x : Domain) :
    (setDom s d x).keeper = s.keeper ∧ (setDom s d x).obj = s.obj ∧ (setDom s d x).mem = s.mem ∧ (setDom s d x).cmp = s.cmp
    ∧ (setDom s d x).swarm = s.swarm ∧ (setDom s d x).frame = s.frame ∧ (setDom s d x).faults = s.faults ∧ (setDom s d x).flash = s.flash
    ∧ (setDom s d x).boot = s.boot ∧ (setDom s d x).power = s.power ∧ (setDom s d x).island = s.island ∧ (setDom s d x).holmi = s.holmi
    ∧ (setDom s d x).test = s.test ∧ (setDom s d x).free = s.free ∧ (setDom s d x).pending = s.pending ∧ (setDom s d x).net.routers = s.net.routers
    ∧ (setDom s d x).net.switching = s.net.switching ∧ (setDom s d x).net.waiting = s.net.waiting ∧ (∀ i, getMbx (setDom s d x) i = getMbx s i)
    ∧ (∀ i, getBlock (setDom s d x) i = getBlock s i) ∧ (∀ i, getCtx (setDom s d x) i = getCtx s i) ∧ (∀ i, getMot (setDom s d x) i = getMot s i)
    ∧ (∀ i, getQueue (setDom s d x) i = getQueue s i) ∧ (∀ i, getSlot (setDom s d x) i = getSlot s i)
    ∧ (∀ i, fenceWord (setDom s d x) i = fenceWord s i) ∧ (∀ i j, getRouter (setDom s d x) i j = getRouter s i j)
    ∧ (∀ i, getDie (setDom s d x) i = getDie s i) ∧ (∀ i j, getCell (setDom s d x) i j = getCell s i j)
    ∧ (∀ i, getColl (setDom s d x) i = getColl s i) ∧ (∀ i, getEngine (setDom s d x) i = getEngine s i)
    ∧ (∀ i, getTile (setDom s d x) i = getTile s i) ∧ (∀ i, getRegion (setDom s d x) i = getRegion s i)
    ∧ (∀ i, getChan (setDom s d x) i = getChan s i) ∧ (∀ i, getSlink (setDom s d x) i = getSlink s i) ∧ (∀ i, getPort (setDom s d x) i = getPort s i)
    ∧ (∀ i, getBank (setDom s d x) i = getBank s i) ∧ (∀ i, sectorState (setDom s d x) i = sectorState s i)
    ∧ (∀ i, getHm1 (setDom s d x) i = getHm1 s i) ∧ (∀ i, getSeen (setDom s d x) i = getSeen s i) ∧ (∀ i, getRelay (setDom s d x) i = getRelay s i)
    ∧ (∀ i, getFunc (setDom s d x) i = getFunc s i) ∧ (∀ i, getInput (setDom s d x) i = getInput s i) ∧ (∀ i, getPair (setDom s d x) i = getPair s i)
    ∧ (∀ i, getConn (setDom s d x) i = getConn s i) ∧ (∀ i j, getPat (setDom s d x) i j = getPat s i j)
    ∧ (∀ i, memByte (setDom s d x) i = memByte s i) ∧ (∀ i n, memRead (setDom s d x) i n = memRead s i n) :=
  ⟨rfl, rfl, rfl, rfl, rfl, rfl, rfl, rfl, rfl, rfl, rfl, rfl, rfl, rfl, rfl, rfl, rfl, rfl, fun _ => rfl, fun _ => rfl, fun _ => rfl, fun _ => rfl,
   fun _ => rfl, fun _ => rfl, fun _ => rfl, fun _ _ => rfl, fun _ => rfl, fun _ _ => rfl, fun _ => rfl, fun _ => rfl, fun _ => rfl, fun _ => rfl,
   fun _ => rfl, fun _ => rfl, fun _ => rfl, fun _ => rfl, fun _ => rfl, fun _ => rfl, fun _ => rfl, fun _ => rfl, fun _ => rfl, fun _ => rfl,
   fun _ => rfl, fun _ => rfl, fun _ _ => rfl, fun _ => rfl, fun i n => memRead_congr n i (fun _ _ _ => rfl)⟩

@[simp] theorem getDom_setDom (s : State) (d : Nat) (x : Domain) : getDom (setDom s d x) d = x := by
  simp [getDom, setDom]

theorem getDom_setDom_ne (s : State) (d : Nat) (x : Domain) (j : Nat) (h : j ≠ d) : getDom (setDom s d x) j = getDom s j := by
  simp [getDom, setDom, Tbl.get_set_ne h]

@[simp] theorem setRouter_rest (s : State) (d r : Nat) (x : Router) :
    (setRouter s d r x).keeper = s.keeper ∧ (setRouter s d r x).obj = s.obj ∧ (setRouter s d r x).mem = s.mem ∧ (setRouter s d r x).cmp = s.cmp
    ∧ (setRouter s d r x).swarm = s.swarm ∧ (setRouter s d r x).frame = s.frame ∧ (setRouter s d r x).faults = s.faults
    ∧ (setRouter s d r x).flash = s.flash ∧ (setRouter s d r x).boot = s.boot ∧ (setRouter s d r x).power = s.power
    ∧ (setRouter s d r x).island = s.island ∧ (setRouter s d r x).holmi = s.holmi ∧ (setRouter s d r x).test = s.test
    ∧ (setRouter s d r x).free = s.free ∧ (setRouter s d r x).pending = s.pending ∧ (setRouter s d r x).net.doms = s.net.doms
    ∧ (setRouter s d r x).net.switching = s.net.switching ∧ (setRouter s d r x).net.waiting = s.net.waiting
    ∧ (∀ i, getMbx (setRouter s d r x) i = getMbx s i) ∧ (∀ i, getBlock (setRouter s d r x) i = getBlock s i)
    ∧ (∀ i, getCtx (setRouter s d r x) i = getCtx s i) ∧ (∀ i, getMot (setRouter s d r x) i = getMot s i)
    ∧ (∀ i, getQueue (setRouter s d r x) i = getQueue s i) ∧ (∀ i, getSlot (setRouter s d r x) i = getSlot s i)
    ∧ (∀ i, fenceWord (setRouter s d r x) i = fenceWord s i) ∧ (∀ i, getDom (setRouter s d r x) i = getDom s i)
    ∧ (∀ i, getDie (setRouter s d r x) i = getDie s i) ∧ (∀ i j, getCell (setRouter s d r x) i j = getCell s i j)
    ∧ (∀ i, getColl (setRouter s d r x) i = getColl s i) ∧ (∀ i, getEngine (setRouter s d r x) i = getEngine s i)
    ∧ (∀ i, getTile (setRouter s d r x) i = getTile s i) ∧ (∀ i, getRegion (setRouter s d r x) i = getRegion s i)
    ∧ (∀ i, getChan (setRouter s d r x) i = getChan s i) ∧ (∀ i, getSlink (setRouter s d r x) i = getSlink s i)
    ∧ (∀ i, getPort (setRouter s d r x) i = getPort s i) ∧ (∀ i, getBank (setRouter s d r x) i = getBank s i)
    ∧ (∀ i, sectorState (setRouter s d r x) i = sectorState s i) ∧ (∀ i, getHm1 (setRouter s d r x) i = getHm1 s i)
    ∧ (∀ i, getSeen (setRouter s d r x) i = getSeen s i) ∧ (∀ i, getRelay (setRouter s d r x) i = getRelay s i)
    ∧ (∀ i, getFunc (setRouter s d r x) i = getFunc s i) ∧ (∀ i, getInput (setRouter s d r x) i = getInput s i)
    ∧ (∀ i, getPair (setRouter s d r x) i = getPair s i) ∧ (∀ i, getConn (setRouter s d r x) i = getConn s i)
    ∧ (∀ i j, getPat (setRouter s d r x) i j = getPat s i j) ∧ (∀ i, memByte (setRouter s d r x) i = memByte s i)
    ∧ (∀ i n, memRead (setRouter s d r x) i n = memRead s i n) :=
  ⟨rfl, rfl, rfl, rfl, rfl, rfl, rfl, rfl, rfl, rfl, rfl, rfl, rfl, rfl, rfl, rfl, rfl, rfl, fun _ => rfl, fun _ => rfl, fun _ => rfl, fun _ => rfl,
   fun _ => rfl, fun _ => rfl, fun _ => rfl, fun _ => rfl, fun _ => rfl, fun _ _ => rfl, fun _ => rfl, fun _ => rfl, fun _ => rfl, fun _ => rfl,
   fun _ => rfl, fun _ => rfl, fun _ => rfl, fun _ => rfl, fun _ => rfl, fun _ => rfl, fun _ => rfl, fun _ => rfl, fun _ => rfl, fun _ => rfl,
   fun _ => rfl, fun _ => rfl, fun _ _ => rfl, fun _ => rfl, fun i n => memRead_congr n i (fun _ _ _ => rfl)⟩

@[simp] theorem getRouter_setRouter (s : State) (d r : Nat) (x : Router) : getRouter (setRouter s d r x) d r = x := by
  simp [getRouter, setRouter]

@[simp] theorem setCell_rest (s : State) (d c : Nat) (x : Cell) :
    (setCell s d c x).keeper = s.keeper ∧ (setCell s d c x).obj = s.obj ∧ (setCell s d c x).mem = s.mem ∧ (setCell s d c x).net = s.net
    ∧ (setCell s d c x).swarm = s.swarm ∧ (setCell s d c x).frame = s.frame ∧ (setCell s d c x).faults = s.faults ∧ (setCell s d c x).flash = s.flash
    ∧ (setCell s d c x).boot = s.boot ∧ (setCell s d c x).power = s.power ∧ (setCell s d c x).island = s.island ∧ (setCell s d c x).holmi = s.holmi
    ∧ (setCell s d c x).test = s.test ∧ (setCell s d c x).free = s.free ∧ (setCell s d c x).pending = s.pending
    ∧ (setCell s d c x).cmp.engines = s.cmp.engines ∧ (setCell s d c x).cmp.tiles = s.cmp.tiles ∧ (setCell s d c x).cmp.slots = s.cmp.slots
    ∧ (setCell s d c x).cmp.heldJoins = s.cmp.heldJoins ∧ (∀ i, getMbx (setCell s d c x) i = getMbx s i)
    ∧ (∀ i, getBlock (setCell s d c x) i = getBlock s i) ∧ (∀ i, getCtx (setCell s d c x) i = getCtx s i)
    ∧ (∀ i, getMot (setCell s d c x) i = getMot s i) ∧ (∀ i, getQueue (setCell s d c x) i = getQueue s i)
    ∧ (∀ i, getSlot (setCell s d c x) i = getSlot s i) ∧ (∀ i, fenceWord (setCell s d c x) i = fenceWord s i)
    ∧ (∀ i, getDom (setCell s d c x) i = getDom s i) ∧ (∀ i j, getRouter (setCell s d c x) i j = getRouter s i j)
    ∧ (∀ i, getDie (setCell s d c x) i = getDie s i) ∧ (∀ i, getColl (setCell s d c x) i = getColl s i)
    ∧ (∀ i, getEngine (setCell s d c x) i = getEngine s i) ∧ (∀ i, getTile (setCell s d c x) i = getTile s i)
    ∧ (∀ i, getRegion (setCell s d c x) i = getRegion s i) ∧ (∀ i, getChan (setCell s d c x) i = getChan s i)
    ∧ (∀ i, getSlink (setCell s d c x) i = getSlink s i) ∧ (∀ i, getPort (setCell s d c x) i = getPort s i)
    ∧ (∀ i, getBank (setCell s d c x) i = getBank s i) ∧ (∀ i, sectorState (setCell s d c x) i = sectorState s i)
    ∧ (∀ i, getHm1 (setCell s d c x) i = getHm1 s i) ∧ (∀ i, getSeen (setCell s d c x) i = getSeen s i)
    ∧ (∀ i, getRelay (setCell s d c x) i = getRelay s i) ∧ (∀ i, getFunc (setCell s d c x) i = getFunc s i)
    ∧ (∀ i, getInput (setCell s d c x) i = getInput s i) ∧ (∀ i, getPair (setCell s d c x) i = getPair s i)
    ∧ (∀ i, getConn (setCell s d c x) i = getConn s i) ∧ (∀ i j, getPat (setCell s d c x) i j = getPat s i j)
    ∧ (∀ i, memByte (setCell s d c x) i = memByte s i) ∧ (∀ i n, memRead (setCell s d c x) i n = memRead s i n) :=
  ⟨rfl, rfl, rfl, rfl, rfl, rfl, rfl, rfl, rfl, rfl, rfl, rfl, rfl, rfl, rfl, rfl, rfl, rfl, rfl, fun _ => rfl, fun _ => rfl, fun _ => rfl,
   fun _ => rfl, fun _ => rfl, fun _ => rfl, fun _ => rfl, fun _ => rfl, fun _ _ => rfl, fun _ => rfl, fun _ => rfl, fun _ => rfl, fun _ => rfl,
   fun _ => rfl, fun _ => rfl, fun _ => rfl, fun _ => rfl, fun _ => rfl, fun _ => rfl, fun _ => rfl, fun _ => rfl, fun _ => rfl, fun _ => rfl,
   fun _ => rfl, fun _ => rfl, fun _ => rfl, fun _ _ => rfl, fun _ => rfl, fun i n => memRead_congr n i (fun _ _ _ => rfl)⟩

@[simp] theorem getCell_setCell (s : State) (d c : Nat) (x : Cell) : getCell (setCell s d c x) d c = x := by
  simp [getCell, setCell]

@[simp] theorem setColl_rest (s : State) (n : Nat) (x : CollSlot) :
    (setColl s n x).keeper = s.keeper ∧ (setColl s n x).obj = s.obj ∧ (setColl s n x).mem = s.mem ∧ (setColl s n x).net = s.net
    ∧ (setColl s n x).swarm = s.swarm ∧ (setColl s n x).frame = s.frame ∧ (setColl s n x).faults = s.faults ∧ (setColl s n x).flash = s.flash
    ∧ (setColl s n x).boot = s.boot ∧ (setColl s n x).power = s.power ∧ (setColl s n x).island = s.island ∧ (setColl s n x).holmi = s.holmi
    ∧ (setColl s n x).test = s.test ∧ (setColl s n x).free = s.free ∧ (setColl s n x).pending = s.pending ∧ (setColl s n x).cmp.cells = s.cmp.cells
    ∧ (setColl s n x).cmp.engines = s.cmp.engines ∧ (setColl s n x).cmp.tiles = s.cmp.tiles ∧ (setColl s n x).cmp.heldJoins = s.cmp.heldJoins
    ∧ (∀ i, getMbx (setColl s n x) i = getMbx s i) ∧ (∀ i, getBlock (setColl s n x) i = getBlock s i) ∧ (∀ i, getCtx (setColl s n x) i = getCtx s i)
    ∧ (∀ i, getMot (setColl s n x) i = getMot s i) ∧ (∀ i, getQueue (setColl s n x) i = getQueue s i) ∧ (∀ i, getSlot (setColl s n x) i = getSlot s i)
    ∧ (∀ i, fenceWord (setColl s n x) i = fenceWord s i) ∧ (∀ i, getDom (setColl s n x) i = getDom s i)
    ∧ (∀ i j, getRouter (setColl s n x) i j = getRouter s i j) ∧ (∀ i, getDie (setColl s n x) i = getDie s i)
    ∧ (∀ i j, getCell (setColl s n x) i j = getCell s i j) ∧ (∀ i, getEngine (setColl s n x) i = getEngine s i)
    ∧ (∀ i, getTile (setColl s n x) i = getTile s i) ∧ (∀ i, getRegion (setColl s n x) i = getRegion s i)
    ∧ (∀ i, getChan (setColl s n x) i = getChan s i) ∧ (∀ i, getSlink (setColl s n x) i = getSlink s i)
    ∧ (∀ i, getPort (setColl s n x) i = getPort s i) ∧ (∀ i, getBank (setColl s n x) i = getBank s i)
    ∧ (∀ i, sectorState (setColl s n x) i = sectorState s i) ∧ (∀ i, getHm1 (setColl s n x) i = getHm1 s i)
    ∧ (∀ i, getSeen (setColl s n x) i = getSeen s i) ∧ (∀ i, getRelay (setColl s n x) i = getRelay s i)
    ∧ (∀ i, getFunc (setColl s n x) i = getFunc s i) ∧ (∀ i, getInput (setColl s n x) i = getInput s i)
    ∧ (∀ i, getPair (setColl s n x) i = getPair s i) ∧ (∀ i, getConn (setColl s n x) i = getConn s i)
    ∧ (∀ i j, getPat (setColl s n x) i j = getPat s i j) ∧ (∀ i, memByte (setColl s n x) i = memByte s i)
    ∧ (∀ i n, memRead (setColl s n x) i n = memRead s i n) :=
  ⟨rfl, rfl, rfl, rfl, rfl, rfl, rfl, rfl, rfl, rfl, rfl, rfl, rfl, rfl, rfl, rfl, rfl, rfl, rfl, fun _ => rfl, fun _ => rfl, fun _ => rfl,
   fun _ => rfl, fun _ => rfl, fun _ => rfl, fun _ => rfl, fun _ => rfl, fun _ _ => rfl, fun _ => rfl, fun _ _ => rfl, fun _ => rfl, fun _ => rfl,
   fun _ => rfl, fun _ => rfl, fun _ => rfl, fun _ => rfl, fun _ => rfl, fun _ => rfl, fun _ => rfl, fun _ => rfl, fun _ => rfl, fun _ => rfl,
   fun _ => rfl, fun _ => rfl, fun _ => rfl, fun _ _ => rfl, fun _ => rfl, fun i n => memRead_congr n i (fun _ _ _ => rfl)⟩

@[simp] theorem getColl_setColl (s : State) (n : Nat) (x : CollSlot) : getColl (setColl s n x) n = x := by
  simp [getColl, setColl]

theorem getColl_setColl_ne (s : State) (n : Nat) (x : CollSlot) (j : Nat) (h : j ≠ n) : getColl (setColl s n x) j = getColl s j := by
  simp [getColl, setColl, Tbl.get_set_ne h]

@[simp] theorem setEngine_rest (s : State) (u : Nat) (x : SelEngine) :
    (setEngine s u x).keeper = s.keeper ∧ (setEngine s u x).obj = s.obj ∧ (setEngine s u x).mem = s.mem ∧ (setEngine s u x).net = s.net
    ∧ (setEngine s u x).swarm = s.swarm ∧ (setEngine s u x).frame = s.frame ∧ (setEngine s u x).faults = s.faults ∧ (setEngine s u x).flash = s.flash
    ∧ (setEngine s u x).boot = s.boot ∧ (setEngine s u x).power = s.power ∧ (setEngine s u x).island = s.island ∧ (setEngine s u x).holmi = s.holmi
    ∧ (setEngine s u x).test = s.test ∧ (setEngine s u x).free = s.free ∧ (setEngine s u x).pending = s.pending
    ∧ (setEngine s u x).cmp.cells = s.cmp.cells ∧ (setEngine s u x).cmp.tiles = s.cmp.tiles ∧ (setEngine s u x).cmp.slots = s.cmp.slots
    ∧ (setEngine s u x).cmp.heldJoins = s.cmp.heldJoins ∧ (∀ i, getMbx (setEngine s u x) i = getMbx s i)
    ∧ (∀ i, getBlock (setEngine s u x) i = getBlock s i) ∧ (∀ i, getCtx (setEngine s u x) i = getCtx s i)
    ∧ (∀ i, getMot (setEngine s u x) i = getMot s i) ∧ (∀ i, getQueue (setEngine s u x) i = getQueue s i)
    ∧ (∀ i, getSlot (setEngine s u x) i = getSlot s i) ∧ (∀ i, fenceWord (setEngine s u x) i = fenceWord s i)
    ∧ (∀ i, getDom (setEngine s u x) i = getDom s i) ∧ (∀ i j, getRouter (setEngine s u x) i j = getRouter s i j)
    ∧ (∀ i, getDie (setEngine s u x) i = getDie s i) ∧ (∀ i j, getCell (setEngine s u x) i j = getCell s i j)
    ∧ (∀ i, getColl (setEngine s u x) i = getColl s i) ∧ (∀ i, getTile (setEngine s u x) i = getTile s i)
    ∧ (∀ i, getRegion (setEngine s u x) i = getRegion s i) ∧ (∀ i, getChan (setEngine s u x) i = getChan s i)
    ∧ (∀ i, getSlink (setEngine s u x) i = getSlink s i) ∧ (∀ i, getPort (setEngine s u x) i = getPort s i)
    ∧ (∀ i, getBank (setEngine s u x) i = getBank s i) ∧ (∀ i, sectorState (setEngine s u x) i = sectorState s i)
    ∧ (∀ i, getHm1 (setEngine s u x) i = getHm1 s i) ∧ (∀ i, getSeen (setEngine s u x) i = getSeen s i)
    ∧ (∀ i, getRelay (setEngine s u x) i = getRelay s i) ∧ (∀ i, getFunc (setEngine s u x) i = getFunc s i)
    ∧ (∀ i, getInput (setEngine s u x) i = getInput s i) ∧ (∀ i, getPair (setEngine s u x) i = getPair s i)
    ∧ (∀ i, getConn (setEngine s u x) i = getConn s i) ∧ (∀ i j, getPat (setEngine s u x) i j = getPat s i j)
    ∧ (∀ i, memByte (setEngine s u x) i = memByte s i) ∧ (∀ i n, memRead (setEngine s u x) i n = memRead s i n) :=
  ⟨rfl, rfl, rfl, rfl, rfl, rfl, rfl, rfl, rfl, rfl, rfl, rfl, rfl, rfl, rfl, rfl, rfl, rfl, rfl, fun _ => rfl, fun _ => rfl, fun _ => rfl,
   fun _ => rfl, fun _ => rfl, fun _ => rfl, fun _ => rfl, fun _ => rfl, fun _ _ => rfl, fun _ => rfl, fun _ _ => rfl, fun _ => rfl, fun _ => rfl,
   fun _ => rfl, fun _ => rfl, fun _ => rfl, fun _ => rfl, fun _ => rfl, fun _ => rfl, fun _ => rfl, fun _ => rfl, fun _ => rfl, fun _ => rfl,
   fun _ => rfl, fun _ => rfl, fun _ => rfl, fun _ _ => rfl, fun _ => rfl, fun i n => memRead_congr n i (fun _ _ _ => rfl)⟩

@[simp] theorem getEngine_setEngine (s : State) (u : Nat) (x : SelEngine) : getEngine (setEngine s u x) u = x := by
  simp [getEngine, setEngine]

theorem getEngine_setEngine_ne (s : State) (u : Nat) (x : SelEngine) (j : Nat) (h : j ≠ u) : getEngine (setEngine s u x) j = getEngine s j := by
  simp [getEngine, setEngine, Tbl.get_set_ne h]

@[simp] theorem setTile_rest (s : State) (u : Nat) (x : TileUnit) :
    (setTile s u x).keeper = s.keeper ∧ (setTile s u x).obj = s.obj ∧ (setTile s u x).mem = s.mem ∧ (setTile s u x).net = s.net
    ∧ (setTile s u x).swarm = s.swarm ∧ (setTile s u x).frame = s.frame ∧ (setTile s u x).faults = s.faults ∧ (setTile s u x).flash = s.flash
    ∧ (setTile s u x).boot = s.boot ∧ (setTile s u x).power = s.power ∧ (setTile s u x).island = s.island ∧ (setTile s u x).holmi = s.holmi
    ∧ (setTile s u x).test = s.test ∧ (setTile s u x).free = s.free ∧ (setTile s u x).pending = s.pending ∧ (setTile s u x).cmp.cells = s.cmp.cells
    ∧ (setTile s u x).cmp.engines = s.cmp.engines ∧ (setTile s u x).cmp.slots = s.cmp.slots ∧ (setTile s u x).cmp.heldJoins = s.cmp.heldJoins
    ∧ (∀ i, getMbx (setTile s u x) i = getMbx s i) ∧ (∀ i, getBlock (setTile s u x) i = getBlock s i) ∧ (∀ i, getCtx (setTile s u x) i = getCtx s i)
    ∧ (∀ i, getMot (setTile s u x) i = getMot s i) ∧ (∀ i, getQueue (setTile s u x) i = getQueue s i) ∧ (∀ i, getSlot (setTile s u x) i = getSlot s i)
    ∧ (∀ i, fenceWord (setTile s u x) i = fenceWord s i) ∧ (∀ i, getDom (setTile s u x) i = getDom s i)
    ∧ (∀ i j, getRouter (setTile s u x) i j = getRouter s i j) ∧ (∀ i, getDie (setTile s u x) i = getDie s i)
    ∧ (∀ i j, getCell (setTile s u x) i j = getCell s i j) ∧ (∀ i, getColl (setTile s u x) i = getColl s i)
    ∧ (∀ i, getEngine (setTile s u x) i = getEngine s i) ∧ (∀ i, getRegion (setTile s u x) i = getRegion s i)
    ∧ (∀ i, getChan (setTile s u x) i = getChan s i) ∧ (∀ i, getSlink (setTile s u x) i = getSlink s i)
    ∧ (∀ i, getPort (setTile s u x) i = getPort s i) ∧ (∀ i, getBank (setTile s u x) i = getBank s i)
    ∧ (∀ i, sectorState (setTile s u x) i = sectorState s i) ∧ (∀ i, getHm1 (setTile s u x) i = getHm1 s i)
    ∧ (∀ i, getSeen (setTile s u x) i = getSeen s i) ∧ (∀ i, getRelay (setTile s u x) i = getRelay s i)
    ∧ (∀ i, getFunc (setTile s u x) i = getFunc s i) ∧ (∀ i, getInput (setTile s u x) i = getInput s i)
    ∧ (∀ i, getPair (setTile s u x) i = getPair s i) ∧ (∀ i, getConn (setTile s u x) i = getConn s i)
    ∧ (∀ i j, getPat (setTile s u x) i j = getPat s i j) ∧ (∀ i, memByte (setTile s u x) i = memByte s i)
    ∧ (∀ i n, memRead (setTile s u x) i n = memRead s i n) :=
  ⟨rfl, rfl, rfl, rfl, rfl, rfl, rfl, rfl, rfl, rfl, rfl, rfl, rfl, rfl, rfl, rfl, rfl, rfl, rfl, fun _ => rfl, fun _ => rfl, fun _ => rfl,
   fun _ => rfl, fun _ => rfl, fun _ => rfl, fun _ => rfl, fun _ => rfl, fun _ _ => rfl, fun _ => rfl, fun _ _ => rfl, fun _ => rfl, fun _ => rfl,
   fun _ => rfl, fun _ => rfl, fun _ => rfl, fun _ => rfl, fun _ => rfl, fun _ => rfl, fun _ => rfl, fun _ => rfl, fun _ => rfl, fun _ => rfl,
   fun _ => rfl, fun _ => rfl, fun _ => rfl, fun _ _ => rfl, fun _ => rfl, fun i n => memRead_congr n i (fun _ _ _ => rfl)⟩

@[simp] theorem getTile_setTile (s : State) (u : Nat) (x : TileUnit) : getTile (setTile s u x) u = x := by
  simp [getTile, setTile]

theorem getTile_setTile_ne (s : State) (u : Nat) (x : TileUnit) (j : Nat) (h : j ≠ u) : getTile (setTile s u x) j = getTile s j := by
  simp [getTile, setTile, Tbl.get_set_ne h]

@[simp] theorem setRegion_rest (s : State) (k : Nat) (x : Region) :
    (setRegion s k x).keeper = s.keeper ∧ (setRegion s k x).obj = s.obj ∧ (setRegion s k x).mem = s.mem ∧ (setRegion s k x).cmp = s.cmp
    ∧ (setRegion s k x).net = s.net ∧ (setRegion s k x).swarm = s.swarm ∧ (setRegion s k x).faults = s.faults ∧ (setRegion s k x).flash = s.flash
    ∧ (setRegion s k x).boot = s.boot ∧ (setRegion s k x).power = s.power ∧ (setRegion s k x).island = s.island ∧ (setRegion s k x).holmi = s.holmi
    ∧ (setRegion s k x).test = s.test ∧ (setRegion s k x).free = s.free ∧ (setRegion s k x).pending = s.pending
    ∧ (setRegion s k x).frame.channels = s.frame.channels ∧ (setRegion s k x).frame.cfg = s.frame.cfg ∧ (∀ i, getMbx (setRegion s k x) i = getMbx s i)
    ∧ (∀ i, getBlock (setRegion s k x) i = getBlock s i) ∧ (∀ i, getCtx (setRegion s k x) i = getCtx s i)
    ∧ (∀ i, getMot (setRegion s k x) i = getMot s i) ∧ (∀ i, getQueue (setRegion s k x) i = getQueue s i)
    ∧ (∀ i, getSlot (setRegion s k x) i = getSlot s i) ∧ (∀ i, fenceWord (setRegion s k x) i = fenceWord s i)
    ∧ (∀ i, getDom (setRegion s k x) i = getDom s i) ∧ (∀ i j, getRouter (setRegion s k x) i j = getRouter s i j)
    ∧ (∀ i, getDie (setRegion s k x) i = getDie s i) ∧ (∀ i j, getCell (setRegion s k x) i j = getCell s i j)
    ∧ (∀ i, getColl (setRegion s k x) i = getColl s i) ∧ (∀ i, getEngine (setRegion s k x) i = getEngine s i)
    ∧ (∀ i, getTile (setRegion s k x) i = getTile s i) ∧ (∀ i, getChan (setRegion s k x) i = getChan s i)
    ∧ (∀ i, getSlink (setRegion s k x) i = getSlink s i) ∧ (∀ i, getPort (setRegion s k x) i = getPort s i)
    ∧ (∀ i, getBank (setRegion s k x) i = getBank s i) ∧ (∀ i, sectorState (setRegion s k x) i = sectorState s i)
    ∧ (∀ i, getHm1 (setRegion s k x) i = getHm1 s i) ∧ (∀ i, getSeen (setRegion s k x) i = getSeen s i)
    ∧ (∀ i, getRelay (setRegion s k x) i = getRelay s i) ∧ (∀ i, getFunc (setRegion s k x) i = getFunc s i)
    ∧ (∀ i, getInput (setRegion s k x) i = getInput s i) ∧ (∀ i, getPair (setRegion s k x) i = getPair s i)
    ∧ (∀ i, getConn (setRegion s k x) i = getConn s i) ∧ (∀ i j, getPat (setRegion s k x) i j = getPat s i j)
    ∧ (∀ i, memByte (setRegion s k x) i = memByte s i) ∧ (∀ i n, memRead (setRegion s k x) i n = memRead s i n) :=
  ⟨rfl, rfl, rfl, rfl, rfl, rfl, rfl, rfl, rfl, rfl, rfl, rfl, rfl, rfl, rfl, rfl, rfl, fun _ => rfl, fun _ => rfl, fun _ => rfl, fun _ => rfl,
   fun _ => rfl, fun _ => rfl, fun _ => rfl, fun _ => rfl, fun _ _ => rfl, fun _ => rfl, fun _ _ => rfl, fun _ => rfl, fun _ => rfl, fun _ => rfl,
   fun _ => rfl, fun _ => rfl, fun _ => rfl, fun _ => rfl, fun _ => rfl, fun _ => rfl, fun _ => rfl, fun _ => rfl, fun _ => rfl, fun _ => rfl,
   fun _ => rfl, fun _ => rfl, fun _ _ => rfl, fun _ => rfl, fun i n => memRead_congr n i (fun _ _ _ => rfl)⟩

@[simp] theorem getRegion_setRegion (s : State) (k : Nat) (x : Region) : getRegion (setRegion s k x) k = x := by
  simp [getRegion, setRegion]

theorem getRegion_setRegion_ne (s : State) (k : Nat) (x : Region) (j : Nat) (h : j ≠ k) : getRegion (setRegion s k x) j = getRegion s j := by
  simp [getRegion, setRegion, Tbl.get_set_ne h]

@[simp] theorem setChan_rest (s : State) (c : Nat) (x : Channel) :
    (setChan s c x).keeper = s.keeper ∧ (setChan s c x).obj = s.obj ∧ (setChan s c x).mem = s.mem ∧ (setChan s c x).cmp = s.cmp
    ∧ (setChan s c x).net = s.net ∧ (setChan s c x).swarm = s.swarm ∧ (setChan s c x).faults = s.faults ∧ (setChan s c x).flash = s.flash
    ∧ (setChan s c x).boot = s.boot ∧ (setChan s c x).power = s.power ∧ (setChan s c x).island = s.island ∧ (setChan s c x).holmi = s.holmi
    ∧ (setChan s c x).test = s.test ∧ (setChan s c x).free = s.free ∧ (setChan s c x).pending = s.pending
    ∧ (setChan s c x).frame.regions = s.frame.regions ∧ (setChan s c x).frame.cfg = s.frame.cfg ∧ (∀ i, getMbx (setChan s c x) i = getMbx s i)
    ∧ (∀ i, getBlock (setChan s c x) i = getBlock s i) ∧ (∀ i, getCtx (setChan s c x) i = getCtx s i) ∧ (∀ i, getMot (setChan s c x) i = getMot s i)
    ∧ (∀ i, getQueue (setChan s c x) i = getQueue s i) ∧ (∀ i, getSlot (setChan s c x) i = getSlot s i)
    ∧ (∀ i, fenceWord (setChan s c x) i = fenceWord s i) ∧ (∀ i, getDom (setChan s c x) i = getDom s i)
    ∧ (∀ i j, getRouter (setChan s c x) i j = getRouter s i j) ∧ (∀ i, getDie (setChan s c x) i = getDie s i)
    ∧ (∀ i j, getCell (setChan s c x) i j = getCell s i j) ∧ (∀ i, getColl (setChan s c x) i = getColl s i)
    ∧ (∀ i, getEngine (setChan s c x) i = getEngine s i) ∧ (∀ i, getTile (setChan s c x) i = getTile s i)
    ∧ (∀ i, getRegion (setChan s c x) i = getRegion s i) ∧ (∀ i, getSlink (setChan s c x) i = getSlink s i)
    ∧ (∀ i, getPort (setChan s c x) i = getPort s i) ∧ (∀ i, getBank (setChan s c x) i = getBank s i)
    ∧ (∀ i, sectorState (setChan s c x) i = sectorState s i) ∧ (∀ i, getHm1 (setChan s c x) i = getHm1 s i)
    ∧ (∀ i, getSeen (setChan s c x) i = getSeen s i) ∧ (∀ i, getRelay (setChan s c x) i = getRelay s i)
    ∧ (∀ i, getFunc (setChan s c x) i = getFunc s i) ∧ (∀ i, getInput (setChan s c x) i = getInput s i)
    ∧ (∀ i, getPair (setChan s c x) i = getPair s i) ∧ (∀ i, getConn (setChan s c x) i = getConn s i)
    ∧ (∀ i j, getPat (setChan s c x) i j = getPat s i j) ∧ (∀ i, memByte (setChan s c x) i = memByte s i)
    ∧ (∀ i n, memRead (setChan s c x) i n = memRead s i n) :=
  ⟨rfl, rfl, rfl, rfl, rfl, rfl, rfl, rfl, rfl, rfl, rfl, rfl, rfl, rfl, rfl, rfl, rfl, fun _ => rfl, fun _ => rfl, fun _ => rfl, fun _ => rfl,
   fun _ => rfl, fun _ => rfl, fun _ => rfl, fun _ => rfl, fun _ _ => rfl, fun _ => rfl, fun _ _ => rfl, fun _ => rfl, fun _ => rfl, fun _ => rfl,
   fun _ => rfl, fun _ => rfl, fun _ => rfl, fun _ => rfl, fun _ => rfl, fun _ => rfl, fun _ => rfl, fun _ => rfl, fun _ => rfl, fun _ => rfl,
   fun _ => rfl, fun _ => rfl, fun _ _ => rfl, fun _ => rfl, fun i n => memRead_congr n i (fun _ _ _ => rfl)⟩

@[simp] theorem getChan_setChan (s : State) (c : Nat) (x : Channel) : getChan (setChan s c x) c = x := by
  simp [getChan, setChan]

theorem getChan_setChan_ne (s : State) (c : Nat) (x : Channel) (j : Nat) (h : j ≠ c) : getChan (setChan s c x) j = getChan s j := by
  simp [getChan, setChan, Tbl.get_set_ne h]

@[simp] theorem setCfg_rest (s : State) (x : Config) :
    (setCfg s x).keeper = s.keeper ∧ (setCfg s x).obj = s.obj ∧ (setCfg s x).mem = s.mem ∧ (setCfg s x).cmp = s.cmp ∧ (setCfg s x).net = s.net
    ∧ (setCfg s x).swarm = s.swarm ∧ (setCfg s x).faults = s.faults ∧ (setCfg s x).flash = s.flash ∧ (setCfg s x).boot = s.boot
    ∧ (setCfg s x).power = s.power ∧ (setCfg s x).island = s.island ∧ (setCfg s x).holmi = s.holmi ∧ (setCfg s x).test = s.test
    ∧ (setCfg s x).free = s.free ∧ (setCfg s x).pending = s.pending ∧ (setCfg s x).frame.regions = s.frame.regions
    ∧ (setCfg s x).frame.channels = s.frame.channels ∧ (∀ i, getMbx (setCfg s x) i = getMbx s i) ∧ (∀ i, getBlock (setCfg s x) i = getBlock s i)
    ∧ (∀ i, getCtx (setCfg s x) i = getCtx s i) ∧ (∀ i, getMot (setCfg s x) i = getMot s i) ∧ (∀ i, getQueue (setCfg s x) i = getQueue s i)
    ∧ (∀ i, getSlot (setCfg s x) i = getSlot s i) ∧ (∀ i, fenceWord (setCfg s x) i = fenceWord s i) ∧ (∀ i, getDom (setCfg s x) i = getDom s i)
    ∧ (∀ i j, getRouter (setCfg s x) i j = getRouter s i j) ∧ (∀ i, getDie (setCfg s x) i = getDie s i)
    ∧ (∀ i j, getCell (setCfg s x) i j = getCell s i j) ∧ (∀ i, getColl (setCfg s x) i = getColl s i)
    ∧ (∀ i, getEngine (setCfg s x) i = getEngine s i) ∧ (∀ i, getTile (setCfg s x) i = getTile s i) ∧ (∀ i, getRegion (setCfg s x) i = getRegion s i)
    ∧ (∀ i, getChan (setCfg s x) i = getChan s i) ∧ (∀ i, getSlink (setCfg s x) i = getSlink s i) ∧ (∀ i, getPort (setCfg s x) i = getPort s i)
    ∧ (∀ i, getBank (setCfg s x) i = getBank s i) ∧ (∀ i, sectorState (setCfg s x) i = sectorState s i) ∧ (∀ i, getHm1 (setCfg s x) i = getHm1 s i)
    ∧ (∀ i, getSeen (setCfg s x) i = getSeen s i) ∧ (∀ i, getRelay (setCfg s x) i = getRelay s i) ∧ (∀ i, getFunc (setCfg s x) i = getFunc s i)
    ∧ (∀ i, getInput (setCfg s x) i = getInput s i) ∧ (∀ i, getPair (setCfg s x) i = getPair s i) ∧ (∀ i, getConn (setCfg s x) i = getConn s i)
    ∧ (∀ i j, getPat (setCfg s x) i j = getPat s i j) ∧ (∀ i, memByte (setCfg s x) i = memByte s i)
    ∧ (∀ i n, memRead (setCfg s x) i n = memRead s i n) :=
  ⟨rfl, rfl, rfl, rfl, rfl, rfl, rfl, rfl, rfl, rfl, rfl, rfl, rfl, rfl, rfl, rfl, rfl, fun _ => rfl, fun _ => rfl, fun _ => rfl, fun _ => rfl,
   fun _ => rfl, fun _ => rfl, fun _ => rfl, fun _ => rfl, fun _ _ => rfl, fun _ => rfl, fun _ _ => rfl, fun _ => rfl, fun _ => rfl, fun _ => rfl,
   fun _ => rfl, fun _ => rfl, fun _ => rfl, fun _ => rfl, fun _ => rfl, fun _ => rfl, fun _ => rfl, fun _ => rfl, fun _ => rfl, fun _ => rfl,
   fun _ => rfl, fun _ => rfl, fun _ => rfl, fun _ _ => rfl, fun _ => rfl, fun i n => memRead_congr n i (fun _ _ _ => rfl)⟩

@[simp] theorem setSlink_rest (s : State) (p : Nat) (x : SlinkPort) :
    (setSlink s p x).keeper = s.keeper ∧ (setSlink s p x).obj = s.obj ∧ (setSlink s p x).mem = s.mem ∧ (setSlink s p x).cmp = s.cmp
    ∧ (setSlink s p x).net = s.net ∧ (setSlink s p x).frame = s.frame ∧ (setSlink s p x).faults = s.faults ∧ (setSlink s p x).flash = s.flash
    ∧ (setSlink s p x).boot = s.boot ∧ (setSlink s p x).power = s.power ∧ (setSlink s p x).island = s.island ∧ (setSlink s p x).holmi = s.holmi
    ∧ (setSlink s p x).test = s.test ∧ (setSlink s p x).free = s.free ∧ (setSlink s p x).pending = s.pending
    ∧ (setSlink s p x).swarm.node = s.swarm.node ∧ (setSlink s p x).swarm.members = s.swarm.members
    ∧ (setSlink s p x).swarm.coordinator = s.swarm.coordinator ∧ (setSlink s p x).swarm.generation = s.swarm.generation
    ∧ (setSlink s p x).swarm.formed = s.swarm.formed ∧ (setSlink s p x).swarm.forming = s.swarm.forming
    ∧ (setSlink s p x).swarm.formAgain = s.swarm.formAgain ∧ (setSlink s p x).swarm.lost = s.swarm.lost ∧ (setSlink s p x).swarm.time = s.swarm.time
    ∧ (setSlink s p x).swarm.running = s.swarm.running ∧ (setSlink s p x).swarm.offset = s.swarm.offset
    ∧ (setSlink s p x).swarm.locked = s.swarm.locked ∧ (setSlink s p x).swarm.alarms = s.swarm.alarms
    ∧ (setSlink s p x).swarm.alarmsOvf = s.swarm.alarmsOvf ∧ (setSlink s p x).swarm.inRange = s.swarm.inRange
    ∧ (setSlink s p x).swarm.outOfRange = s.swarm.outOfRange ∧ (setSlink s p x).swarm.trim = s.swarm.trim
    ∧ (∀ i, getMbx (setSlink s p x) i = getMbx s i) ∧ (∀ i, getBlock (setSlink s p x) i = getBlock s i)
    ∧ (∀ i, getCtx (setSlink s p x) i = getCtx s i) ∧ (∀ i, getMot (setSlink s p x) i = getMot s i)
    ∧ (∀ i, getQueue (setSlink s p x) i = getQueue s i) ∧ (∀ i, getSlot (setSlink s p x) i = getSlot s i)
    ∧ (∀ i, fenceWord (setSlink s p x) i = fenceWord s i) ∧ (∀ i, getDom (setSlink s p x) i = getDom s i)
    ∧ (∀ i j, getRouter (setSlink s p x) i j = getRouter s i j) ∧ (∀ i, getDie (setSlink s p x) i = getDie s i)
    ∧ (∀ i j, getCell (setSlink s p x) i j = getCell s i j) ∧ (∀ i, getColl (setSlink s p x) i = getColl s i)
    ∧ (∀ i, getEngine (setSlink s p x) i = getEngine s i) ∧ (∀ i, getTile (setSlink s p x) i = getTile s i)
    ∧ (∀ i, getRegion (setSlink s p x) i = getRegion s i) ∧ (∀ i, getChan (setSlink s p x) i = getChan s i)
    ∧ (∀ i, getPort (setSlink s p x) i = getPort s i) ∧ (∀ i, getBank (setSlink s p x) i = getBank s i)
    ∧ (∀ i, sectorState (setSlink s p x) i = sectorState s i) ∧ (∀ i, getHm1 (setSlink s p x) i = getHm1 s i)
    ∧ (∀ i, getSeen (setSlink s p x) i = getSeen s i) ∧ (∀ i, getRelay (setSlink s p x) i = getRelay s i)
    ∧ (∀ i, getFunc (setSlink s p x) i = getFunc s i) ∧ (∀ i, getInput (setSlink s p x) i = getInput s i)
    ∧ (∀ i, getPair (setSlink s p x) i = getPair s i) ∧ (∀ i, getConn (setSlink s p x) i = getConn s i)
    ∧ (∀ i j, getPat (setSlink s p x) i j = getPat s i j) :=
  ⟨rfl, rfl, rfl, rfl, rfl, rfl, rfl, rfl, rfl, rfl, rfl, rfl, rfl, rfl, rfl, rfl, rfl, rfl, rfl, rfl, rfl, rfl, rfl, rfl, rfl, rfl, rfl, rfl, rfl,
   rfl, rfl, rfl, fun _ => rfl, fun _ => rfl, fun _ => rfl, fun _ => rfl, fun _ => rfl, fun _ => rfl, fun _ => rfl, fun _ => rfl, fun _ _ => rfl,
   fun _ => rfl, fun _ _ => rfl, fun _ => rfl, fun _ => rfl, fun _ => rfl, fun _ => rfl, fun _ => rfl, fun _ => rfl, fun _ => rfl, fun _ => rfl,
   fun _ => rfl, fun _ => rfl, fun _ => rfl, fun _ => rfl, fun _ => rfl, fun _ => rfl, fun _ => rfl, fun _ _ => rfl⟩

@[simp] theorem getSlink_setSlink (s : State) (p : Nat) (x : SlinkPort) : getSlink (setSlink s p x) p = x := by
  simp [getSlink, setSlink]

theorem getSlink_setSlink_ne (s : State) (p : Nat) (x : SlinkPort) (j : Nat) (h : j ≠ p) : getSlink (setSlink s p x) j = getSlink s j := by
  simp [getSlink, setSlink, Tbl.get_set_ne h]

@[simp] theorem setPort_rest (s : State) (p : Nat) (x : FlashPort) :
    (setPort s p x).keeper = s.keeper ∧ (setPort s p x).obj = s.obj ∧ (setPort s p x).mem = s.mem ∧ (setPort s p x).cmp = s.cmp
    ∧ (setPort s p x).net = s.net ∧ (setPort s p x).swarm = s.swarm ∧ (setPort s p x).frame = s.frame ∧ (setPort s p x).faults = s.faults
    ∧ (setPort s p x).boot = s.boot ∧ (setPort s p x).power = s.power ∧ (setPort s p x).island = s.island ∧ (setPort s p x).holmi = s.holmi
    ∧ (setPort s p x).test = s.test ∧ (setPort s p x).free = s.free ∧ (setPort s p x).pending = s.pending ∧ (setPort s p x).flash.main = s.flash.main
    ∧ (setPort s p x).flash.info = s.flash.info ∧ (setPort s p x).flash.banks = s.flash.banks ∧ (setPort s p x).flash.sectors = s.flash.sectors
    ∧ (setPort s p x).flash.erases = s.flash.erases ∧ (setPort s p x).flash.started = s.flash.started
    ∧ (setPort s p x).flash.journalSeq = s.flash.journalSeq ∧ (setPort s p x).flash.romPhase = s.flash.romPhase
    ∧ (∀ i, getMbx (setPort s p x) i = getMbx s i) ∧ (∀ i, getBlock (setPort s p x) i = getBlock s i) ∧ (∀ i, getCtx (setPort s p x) i = getCtx s i)
    ∧ (∀ i, getMot (setPort s p x) i = getMot s i) ∧ (∀ i, getQueue (setPort s p x) i = getQueue s i) ∧ (∀ i, getSlot (setPort s p x) i = getSlot s i)
    ∧ (∀ i, fenceWord (setPort s p x) i = fenceWord s i) ∧ (∀ i, getDom (setPort s p x) i = getDom s i)
    ∧ (∀ i j, getRouter (setPort s p x) i j = getRouter s i j) ∧ (∀ i, getDie (setPort s p x) i = getDie s i)
    ∧ (∀ i j, getCell (setPort s p x) i j = getCell s i j) ∧ (∀ i, getColl (setPort s p x) i = getColl s i)
    ∧ (∀ i, getEngine (setPort s p x) i = getEngine s i) ∧ (∀ i, getTile (setPort s p x) i = getTile s i)
    ∧ (∀ i, getRegion (setPort s p x) i = getRegion s i) ∧ (∀ i, getChan (setPort s p x) i = getChan s i)
    ∧ (∀ i, getSlink (setPort s p x) i = getSlink s i) ∧ (∀ i, getBank (setPort s p x) i = getBank s i)
    ∧ (∀ i, sectorState (setPort s p x) i = sectorState s i) ∧ (∀ i, getHm1 (setPort s p x) i = getHm1 s i)
    ∧ (∀ i, getSeen (setPort s p x) i = getSeen s i) ∧ (∀ i, getRelay (setPort s p x) i = getRelay s i)
    ∧ (∀ i, getFunc (setPort s p x) i = getFunc s i) ∧ (∀ i, getInput (setPort s p x) i = getInput s i)
    ∧ (∀ i, getPair (setPort s p x) i = getPair s i) ∧ (∀ i, getConn (setPort s p x) i = getConn s i)
    ∧ (∀ i j, getPat (setPort s p x) i j = getPat s i j) ∧ (∀ i, memByte (setPort s p x) i = memByte s i)
    ∧ (∀ i n, memRead (setPort s p x) i n = memRead s i n) :=
  ⟨rfl, rfl, rfl, rfl, rfl, rfl, rfl, rfl, rfl, rfl, rfl, rfl, rfl, rfl, rfl, rfl, rfl, rfl, rfl, rfl, rfl, rfl, rfl, fun _ => rfl, fun _ => rfl,
   fun _ => rfl, fun _ => rfl, fun _ => rfl, fun _ => rfl, fun _ => rfl, fun _ => rfl, fun _ _ => rfl, fun _ => rfl, fun _ _ => rfl, fun _ => rfl,
   fun _ => rfl, fun _ => rfl, fun _ => rfl, fun _ => rfl, fun _ => rfl, fun _ => rfl, fun _ => rfl, fun _ => rfl, fun _ => rfl, fun _ => rfl,
   fun _ => rfl, fun _ => rfl, fun _ => rfl, fun _ => rfl, fun _ _ => rfl, fun _ => rfl, fun i n => memRead_congr n i (fun _ _ _ => rfl)⟩

@[simp] theorem getPort_setPort (s : State) (p : Nat) (x : FlashPort) : getPort (setPort s p x) p = x := by
  simp [getPort, setPort]

theorem getPort_setPort_ne (s : State) (p : Nat) (x : FlashPort) (j : Nat) (h : j ≠ p) : getPort (setPort s p x) j = getPort s j := by
  simp [getPort, setPort, Tbl.get_set_ne h]

@[simp] theorem setBank_rest (s : State) (p : Nat) (x : FlashBank) :
    (setBank s p x).keeper = s.keeper ∧ (setBank s p x).obj = s.obj ∧ (setBank s p x).mem = s.mem ∧ (setBank s p x).cmp = s.cmp
    ∧ (setBank s p x).net = s.net ∧ (setBank s p x).swarm = s.swarm ∧ (setBank s p x).frame = s.frame ∧ (setBank s p x).faults = s.faults
    ∧ (setBank s p x).boot = s.boot ∧ (setBank s p x).power = s.power ∧ (setBank s p x).island = s.island ∧ (setBank s p x).holmi = s.holmi
    ∧ (setBank s p x).test = s.test ∧ (setBank s p x).free = s.free ∧ (setBank s p x).pending = s.pending ∧ (setBank s p x).flash.main = s.flash.main
    ∧ (setBank s p x).flash.info = s.flash.info ∧ (setBank s p x).flash.ports = s.flash.ports ∧ (setBank s p x).flash.sectors = s.flash.sectors
    ∧ (setBank s p x).flash.erases = s.flash.erases ∧ (setBank s p x).flash.started = s.flash.started
    ∧ (setBank s p x).flash.journalSeq = s.flash.journalSeq ∧ (setBank s p x).flash.romPhase = s.flash.romPhase
    ∧ (∀ i, getMbx (setBank s p x) i = getMbx s i) ∧ (∀ i, getBlock (setBank s p x) i = getBlock s i) ∧ (∀ i, getCtx (setBank s p x) i = getCtx s i)
    ∧ (∀ i, getMot (setBank s p x) i = getMot s i) ∧ (∀ i, getQueue (setBank s p x) i = getQueue s i) ∧ (∀ i, getSlot (setBank s p x) i = getSlot s i)
    ∧ (∀ i, fenceWord (setBank s p x) i = fenceWord s i) ∧ (∀ i, getDom (setBank s p x) i = getDom s i)
    ∧ (∀ i j, getRouter (setBank s p x) i j = getRouter s i j) ∧ (∀ i, getDie (setBank s p x) i = getDie s i)
    ∧ (∀ i j, getCell (setBank s p x) i j = getCell s i j) ∧ (∀ i, getColl (setBank s p x) i = getColl s i)
    ∧ (∀ i, getEngine (setBank s p x) i = getEngine s i) ∧ (∀ i, getTile (setBank s p x) i = getTile s i)
    ∧ (∀ i, getRegion (setBank s p x) i = getRegion s i) ∧ (∀ i, getChan (setBank s p x) i = getChan s i)
    ∧ (∀ i, getSlink (setBank s p x) i = getSlink s i) ∧ (∀ i, getPort (setBank s p x) i = getPort s i)
    ∧ (∀ i, sectorState (setBank s p x) i = sectorState s i) ∧ (∀ i, getHm1 (setBank s p x) i = getHm1 s i)
    ∧ (∀ i, getSeen (setBank s p x) i = getSeen s i) ∧ (∀ i, getRelay (setBank s p x) i = getRelay s i)
    ∧ (∀ i, getFunc (setBank s p x) i = getFunc s i) ∧ (∀ i, getInput (setBank s p x) i = getInput s i)
    ∧ (∀ i, getPair (setBank s p x) i = getPair s i) ∧ (∀ i, getConn (setBank s p x) i = getConn s i)
    ∧ (∀ i j, getPat (setBank s p x) i j = getPat s i j) ∧ (∀ i, memByte (setBank s p x) i = memByte s i)
    ∧ (∀ i n, memRead (setBank s p x) i n = memRead s i n) :=
  ⟨rfl, rfl, rfl, rfl, rfl, rfl, rfl, rfl, rfl, rfl, rfl, rfl, rfl, rfl, rfl, rfl, rfl, rfl, rfl, rfl, rfl, rfl, rfl, fun _ => rfl, fun _ => rfl,
   fun _ => rfl, fun _ => rfl, fun _ => rfl, fun _ => rfl, fun _ => rfl, fun _ => rfl, fun _ _ => rfl, fun _ => rfl, fun _ _ => rfl, fun _ => rfl,
   fun _ => rfl, fun _ => rfl, fun _ => rfl, fun _ => rfl, fun _ => rfl, fun _ => rfl, fun _ => rfl, fun _ => rfl, fun _ => rfl, fun _ => rfl,
   fun _ => rfl, fun _ => rfl, fun _ => rfl, fun _ => rfl, fun _ _ => rfl, fun _ => rfl, fun i n => memRead_congr n i (fun _ _ _ => rfl)⟩

@[simp] theorem getBank_setBank (s : State) (p : Nat) (x : FlashBank) : getBank (setBank s p x) p = x := by
  simp [getBank, setBank]

theorem getBank_setBank_ne (s : State) (p : Nat) (x : FlashBank) (j : Nat) (h : j ≠ p) : getBank (setBank s p x) j = getBank s j := by
  simp [getBank, setBank, Tbl.get_set_ne h]

@[simp] theorem setSector_rest (s : State) (g : Nat) (x : BitVec 2) :
    (setSector s g x).keeper = s.keeper ∧ (setSector s g x).obj = s.obj ∧ (setSector s g x).mem = s.mem ∧ (setSector s g x).cmp = s.cmp
    ∧ (setSector s g x).net = s.net ∧ (setSector s g x).swarm = s.swarm ∧ (setSector s g x).frame = s.frame ∧ (setSector s g x).faults = s.faults
    ∧ (setSector s g x).boot = s.boot ∧ (setSector s g x).power = s.power ∧ (setSector s g x).island = s.island ∧ (setSector s g x).holmi = s.holmi
    ∧ (setSector s g x).test = s.test ∧ (setSector s g x).free = s.free ∧ (setSector s g x).pending = s.pending
    ∧ (setSector s g x).flash.main = s.flash.main ∧ (setSector s g x).flash.info = s.flash.info ∧ (setSector s g x).flash.ports = s.flash.ports
    ∧ (setSector s g x).flash.banks = s.flash.banks ∧ (setSector s g x).flash.erases = s.flash.erases
    ∧ (setSector s g x).flash.started = s.flash.started ∧ (setSector s g x).flash.journalSeq = s.flash.journalSeq
    ∧ (setSector s g x).flash.romPhase = s.flash.romPhase ∧ (∀ i, getMbx (setSector s g x) i = getMbx s i)
    ∧ (∀ i, getBlock (setSector s g x) i = getBlock s i) ∧ (∀ i, getCtx (setSector s g x) i = getCtx s i)
    ∧ (∀ i, getMot (setSector s g x) i = getMot s i) ∧ (∀ i, getQueue (setSector s g x) i = getQueue s i)
    ∧ (∀ i, getSlot (setSector s g x) i = getSlot s i) ∧ (∀ i, fenceWord (setSector s g x) i = fenceWord s i)
    ∧ (∀ i, getDom (setSector s g x) i = getDom s i) ∧ (∀ i j, getRouter (setSector s g x) i j = getRouter s i j)
    ∧ (∀ i, getDie (setSector s g x) i = getDie s i) ∧ (∀ i j, getCell (setSector s g x) i j = getCell s i j)
    ∧ (∀ i, getColl (setSector s g x) i = getColl s i) ∧ (∀ i, getEngine (setSector s g x) i = getEngine s i)
    ∧ (∀ i, getTile (setSector s g x) i = getTile s i) ∧ (∀ i, getRegion (setSector s g x) i = getRegion s i)
    ∧ (∀ i, getChan (setSector s g x) i = getChan s i) ∧ (∀ i, getSlink (setSector s g x) i = getSlink s i)
    ∧ (∀ i, getPort (setSector s g x) i = getPort s i) ∧ (∀ i, getBank (setSector s g x) i = getBank s i)
    ∧ (∀ i, getHm1 (setSector s g x) i = getHm1 s i) ∧ (∀ i, getSeen (setSector s g x) i = getSeen s i)
    ∧ (∀ i, getRelay (setSector s g x) i = getRelay s i) ∧ (∀ i, getFunc (setSector s g x) i = getFunc s i)
    ∧ (∀ i, getInput (setSector s g x) i = getInput s i) ∧ (∀ i, getPair (setSector s g x) i = getPair s i)
    ∧ (∀ i, getConn (setSector s g x) i = getConn s i) ∧ (∀ i j, getPat (setSector s g x) i j = getPat s i j)
    ∧ (∀ i, memByte (setSector s g x) i = memByte s i) ∧ (∀ i n, memRead (setSector s g x) i n = memRead s i n) :=
  ⟨rfl, rfl, rfl, rfl, rfl, rfl, rfl, rfl, rfl, rfl, rfl, rfl, rfl, rfl, rfl, rfl, rfl, rfl, rfl, rfl, rfl, rfl, rfl, fun _ => rfl, fun _ => rfl,
   fun _ => rfl, fun _ => rfl, fun _ => rfl, fun _ => rfl, fun _ => rfl, fun _ => rfl, fun _ _ => rfl, fun _ => rfl, fun _ _ => rfl, fun _ => rfl,
   fun _ => rfl, fun _ => rfl, fun _ => rfl, fun _ => rfl, fun _ => rfl, fun _ => rfl, fun _ => rfl, fun _ => rfl, fun _ => rfl, fun _ => rfl,
   fun _ => rfl, fun _ => rfl, fun _ => rfl, fun _ => rfl, fun _ _ => rfl, fun _ => rfl, fun i n => memRead_congr n i (fun _ _ _ => rfl)⟩

@[simp] theorem sectorState_setSector (s : State) (g : Nat) (x : BitVec 2) : sectorState (setSector s g x) g = x := by
  simp [sectorState, setSector]

theorem sectorState_setSector_ne (s : State) (g : Nat) (x : BitVec 2) (j : Nat) (h : j ≠ g) : sectorState (setSector s g x) j = sectorState s j := by
  simp [sectorState, setSector, Tbl.get_set_ne h]

@[simp] theorem setHm1_rest (s : State) (l : Nat) (x : Hm1) :
    (setHm1 s l x).keeper = s.keeper ∧ (setHm1 s l x).obj = s.obj ∧ (setHm1 s l x).mem = s.mem ∧ (setHm1 s l x).cmp = s.cmp
    ∧ (setHm1 s l x).net = s.net ∧ (setHm1 s l x).swarm = s.swarm ∧ (setHm1 s l x).frame = s.frame ∧ (setHm1 s l x).faults = s.faults
    ∧ (setHm1 s l x).flash = s.flash ∧ (setHm1 s l x).boot = s.boot ∧ (setHm1 s l x).power = s.power ∧ (setHm1 s l x).island = s.island
    ∧ (setHm1 s l x).test = s.test ∧ (setHm1 s l x).free = s.free ∧ (setHm1 s l x).pending = s.pending ∧ (setHm1 s l x).holmi.pkg = s.holmi.pkg
    ∧ (setHm1 s l x).holmi.far = s.holmi.far ∧ (setHm1 s l x).holmi.relays = s.holmi.relays ∧ (setHm1 s l x).holmi.seen = s.holmi.seen
    ∧ (∀ i, getMbx (setHm1 s l x) i = getMbx s i) ∧ (∀ i, getBlock (setHm1 s l x) i = getBlock s i) ∧ (∀ i, getCtx (setHm1 s l x) i = getCtx s i)
    ∧ (∀ i, getMot (setHm1 s l x) i = getMot s i) ∧ (∀ i, getQueue (setHm1 s l x) i = getQueue s i) ∧ (∀ i, getSlot (setHm1 s l x) i = getSlot s i)
    ∧ (∀ i, fenceWord (setHm1 s l x) i = fenceWord s i) ∧ (∀ i, getDom (setHm1 s l x) i = getDom s i)
    ∧ (∀ i j, getRouter (setHm1 s l x) i j = getRouter s i j) ∧ (∀ i, getDie (setHm1 s l x) i = getDie s i)
    ∧ (∀ i j, getCell (setHm1 s l x) i j = getCell s i j) ∧ (∀ i, getColl (setHm1 s l x) i = getColl s i)
    ∧ (∀ i, getEngine (setHm1 s l x) i = getEngine s i) ∧ (∀ i, getTile (setHm1 s l x) i = getTile s i)
    ∧ (∀ i, getRegion (setHm1 s l x) i = getRegion s i) ∧ (∀ i, getChan (setHm1 s l x) i = getChan s i)
    ∧ (∀ i, getSlink (setHm1 s l x) i = getSlink s i) ∧ (∀ i, getPort (setHm1 s l x) i = getPort s i) ∧ (∀ i, getBank (setHm1 s l x) i = getBank s i)
    ∧ (∀ i, sectorState (setHm1 s l x) i = sectorState s i) ∧ (∀ i, getSeen (setHm1 s l x) i = getSeen s i)
    ∧ (∀ i, getRelay (setHm1 s l x) i = getRelay s i) ∧ (∀ i, getFunc (setHm1 s l x) i = getFunc s i)
    ∧ (∀ i, getInput (setHm1 s l x) i = getInput s i) ∧ (∀ i, getPair (setHm1 s l x) i = getPair s i) ∧ (∀ i, getConn (setHm1 s l x) i = getConn s i)
    ∧ (∀ i j, getPat (setHm1 s l x) i j = getPat s i j) ∧ (∀ i, memByte (setHm1 s l x) i = memByte s i)
    ∧ (∀ i n, memRead (setHm1 s l x) i n = memRead s i n) :=
  ⟨rfl, rfl, rfl, rfl, rfl, rfl, rfl, rfl, rfl, rfl, rfl, rfl, rfl, rfl, rfl, rfl, rfl, rfl, rfl, fun _ => rfl, fun _ => rfl, fun _ => rfl,
   fun _ => rfl, fun _ => rfl, fun _ => rfl, fun _ => rfl, fun _ => rfl, fun _ _ => rfl, fun _ => rfl, fun _ _ => rfl, fun _ => rfl, fun _ => rfl,
   fun _ => rfl, fun _ => rfl, fun _ => rfl, fun _ => rfl, fun _ => rfl, fun _ => rfl, fun _ => rfl, fun _ => rfl, fun _ => rfl, fun _ => rfl,
   fun _ => rfl, fun _ => rfl, fun _ => rfl, fun _ _ => rfl, fun _ => rfl, fun i n => memRead_congr n i (fun _ _ _ => rfl)⟩

@[simp] theorem getHm1_setHm1 (s : State) (l : Nat) (x : Hm1) : getHm1 (setHm1 s l x) l = x := by
  simp [getHm1, setHm1]

theorem getHm1_setHm1_ne (s : State) (l : Nat) (x : Hm1) (j : Nat) (h : j ≠ l) : getHm1 (setHm1 s l x) j = getHm1 s j := by
  simp [getHm1, setHm1, Tbl.get_set_ne h]

@[simp] theorem setSeen_rest (s : State) (l : Nat) (x : HolmiSeen) :
    (setSeen s l x).keeper = s.keeper ∧ (setSeen s l x).obj = s.obj ∧ (setSeen s l x).mem = s.mem ∧ (setSeen s l x).cmp = s.cmp
    ∧ (setSeen s l x).net = s.net ∧ (setSeen s l x).swarm = s.swarm ∧ (setSeen s l x).frame = s.frame ∧ (setSeen s l x).faults = s.faults
    ∧ (setSeen s l x).flash = s.flash ∧ (setSeen s l x).boot = s.boot ∧ (setSeen s l x).power = s.power ∧ (setSeen s l x).island = s.island
    ∧ (setSeen s l x).test = s.test ∧ (setSeen s l x).free = s.free ∧ (setSeen s l x).pending = s.pending ∧ (setSeen s l x).holmi.pkg = s.holmi.pkg
    ∧ (setSeen s l x).holmi.far = s.holmi.far ∧ (setSeen s l x).holmi.relays = s.holmi.relays ∧ (setSeen s l x).holmi.hm1 = s.holmi.hm1
    ∧ (∀ i, getMbx (setSeen s l x) i = getMbx s i) ∧ (∀ i, getBlock (setSeen s l x) i = getBlock s i) ∧ (∀ i, getCtx (setSeen s l x) i = getCtx s i)
    ∧ (∀ i, getMot (setSeen s l x) i = getMot s i) ∧ (∀ i, getQueue (setSeen s l x) i = getQueue s i) ∧ (∀ i, getSlot (setSeen s l x) i = getSlot s i)
    ∧ (∀ i, fenceWord (setSeen s l x) i = fenceWord s i) ∧ (∀ i, getDom (setSeen s l x) i = getDom s i)
    ∧ (∀ i j, getRouter (setSeen s l x) i j = getRouter s i j) ∧ (∀ i, getDie (setSeen s l x) i = getDie s i)
    ∧ (∀ i j, getCell (setSeen s l x) i j = getCell s i j) ∧ (∀ i, getColl (setSeen s l x) i = getColl s i)
    ∧ (∀ i, getEngine (setSeen s l x) i = getEngine s i) ∧ (∀ i, getTile (setSeen s l x) i = getTile s i)
    ∧ (∀ i, getRegion (setSeen s l x) i = getRegion s i) ∧ (∀ i, getChan (setSeen s l x) i = getChan s i)
    ∧ (∀ i, getSlink (setSeen s l x) i = getSlink s i) ∧ (∀ i, getPort (setSeen s l x) i = getPort s i)
    ∧ (∀ i, getBank (setSeen s l x) i = getBank s i) ∧ (∀ i, sectorState (setSeen s l x) i = sectorState s i)
    ∧ (∀ i, getHm1 (setSeen s l x) i = getHm1 s i) ∧ (∀ i, getRelay (setSeen s l x) i = getRelay s i) ∧ (∀ i, getFunc (setSeen s l x) i = getFunc s i)
    ∧ (∀ i, getInput (setSeen s l x) i = getInput s i) ∧ (∀ i, getPair (setSeen s l x) i = getPair s i)
    ∧ (∀ i, getConn (setSeen s l x) i = getConn s i) ∧ (∀ i j, getPat (setSeen s l x) i j = getPat s i j)
    ∧ (∀ i, memByte (setSeen s l x) i = memByte s i) ∧ (∀ i n, memRead (setSeen s l x) i n = memRead s i n) :=
  ⟨rfl, rfl, rfl, rfl, rfl, rfl, rfl, rfl, rfl, rfl, rfl, rfl, rfl, rfl, rfl, rfl, rfl, rfl, rfl, fun _ => rfl, fun _ => rfl, fun _ => rfl,
   fun _ => rfl, fun _ => rfl, fun _ => rfl, fun _ => rfl, fun _ => rfl, fun _ _ => rfl, fun _ => rfl, fun _ _ => rfl, fun _ => rfl, fun _ => rfl,
   fun _ => rfl, fun _ => rfl, fun _ => rfl, fun _ => rfl, fun _ => rfl, fun _ => rfl, fun _ => rfl, fun _ => rfl, fun _ => rfl, fun _ => rfl,
   fun _ => rfl, fun _ => rfl, fun _ => rfl, fun _ _ => rfl, fun _ => rfl, fun i n => memRead_congr n i (fun _ _ _ => rfl)⟩

@[simp] theorem getSeen_setSeen (s : State) (l : Nat) (x : HolmiSeen) : getSeen (setSeen s l x) l = x := by
  simp [getSeen, setSeen]

theorem getSeen_setSeen_ne (s : State) (l : Nat) (x : HolmiSeen) (j : Nat) (h : j ≠ l) : getSeen (setSeen s l x) j = getSeen s j := by
  simp [getSeen, setSeen, Tbl.get_set_ne h]

@[simp] theorem setRelay_rest (s : State) (l : Nat) (x : Relay) :
    (setRelay s l x).keeper = s.keeper ∧ (setRelay s l x).obj = s.obj ∧ (setRelay s l x).mem = s.mem ∧ (setRelay s l x).cmp = s.cmp
    ∧ (setRelay s l x).net = s.net ∧ (setRelay s l x).swarm = s.swarm ∧ (setRelay s l x).frame = s.frame ∧ (setRelay s l x).faults = s.faults
    ∧ (setRelay s l x).flash = s.flash ∧ (setRelay s l x).boot = s.boot ∧ (setRelay s l x).power = s.power ∧ (setRelay s l x).island = s.island
    ∧ (setRelay s l x).test = s.test ∧ (setRelay s l x).free = s.free ∧ (setRelay s l x).pending = s.pending
    ∧ (setRelay s l x).holmi.pkg = s.holmi.pkg ∧ (setRelay s l x).holmi.far = s.holmi.far ∧ (setRelay s l x).holmi.seen = s.holmi.seen
    ∧ (setRelay s l x).holmi.hm1 = s.holmi.hm1 ∧ (∀ i, getMbx (setRelay s l x) i = getMbx s i) ∧ (∀ i, getBlock (setRelay s l x) i = getBlock s i)
    ∧ (∀ i, getCtx (setRelay s l x) i = getCtx s i) ∧ (∀ i, getMot (setRelay s l x) i = getMot s i)
    ∧ (∀ i, getQueue (setRelay s l x) i = getQueue s i) ∧ (∀ i, getSlot (setRelay s l x) i = getSlot s i)
    ∧ (∀ i, fenceWord (setRelay s l x) i = fenceWord s i) ∧ (∀ i, getDom (setRelay s l x) i = getDom s i)
    ∧ (∀ i j, getRouter (setRelay s l x) i j = getRouter s i j) ∧ (∀ i, getDie (setRelay s l x) i = getDie s i)
    ∧ (∀ i j, getCell (setRelay s l x) i j = getCell s i j) ∧ (∀ i, getColl (setRelay s l x) i = getColl s i)
    ∧ (∀ i, getEngine (setRelay s l x) i = getEngine s i) ∧ (∀ i, getTile (setRelay s l x) i = getTile s i)
    ∧ (∀ i, getRegion (setRelay s l x) i = getRegion s i) ∧ (∀ i, getChan (setRelay s l x) i = getChan s i)
    ∧ (∀ i, getSlink (setRelay s l x) i = getSlink s i) ∧ (∀ i, getPort (setRelay s l x) i = getPort s i)
    ∧ (∀ i, getBank (setRelay s l x) i = getBank s i) ∧ (∀ i, sectorState (setRelay s l x) i = sectorState s i)
    ∧ (∀ i, getHm1 (setRelay s l x) i = getHm1 s i) ∧ (∀ i, getSeen (setRelay s l x) i = getSeen s i)
    ∧ (∀ i, getFunc (setRelay s l x) i = getFunc s i) ∧ (∀ i, getInput (setRelay s l x) i = getInput s i)
    ∧ (∀ i, getPair (setRelay s l x) i = getPair s i) ∧ (∀ i, getConn (setRelay s l x) i = getConn s i)
    ∧ (∀ i j, getPat (setRelay s l x) i j = getPat s i j) ∧ (∀ i, memByte (setRelay s l x) i = memByte s i)
    ∧ (∀ i n, memRead (setRelay s l x) i n = memRead s i n) :=
  ⟨rfl, rfl, rfl, rfl, rfl, rfl, rfl, rfl, rfl, rfl, rfl, rfl, rfl, rfl, rfl, rfl, rfl, rfl, rfl, fun _ => rfl, fun _ => rfl, fun _ => rfl,
   fun _ => rfl, fun _ => rfl, fun _ => rfl, fun _ => rfl, fun _ => rfl, fun _ _ => rfl, fun _ => rfl, fun _ _ => rfl, fun _ => rfl, fun _ => rfl,
   fun _ => rfl, fun _ => rfl, fun _ => rfl, fun _ => rfl, fun _ => rfl, fun _ => rfl, fun _ => rfl, fun _ => rfl, fun _ => rfl, fun _ => rfl,
   fun _ => rfl, fun _ => rfl, fun _ => rfl, fun _ _ => rfl, fun _ => rfl, fun i n => memRead_congr n i (fun _ _ _ => rfl)⟩

@[simp] theorem getRelay_setRelay (s : State) (l : Nat) (x : Relay) : getRelay (setRelay s l x) l = x := by
  simp [getRelay, setRelay]

theorem getRelay_setRelay_ne (s : State) (l : Nat) (x : Relay) (j : Nat) (h : j ≠ l) : getRelay (setRelay s l x) j = getRelay s j := by
  simp [getRelay, setRelay, Tbl.get_set_ne h]

@[simp] theorem setFunc_rest (s : State) (f : Nat) (x : SafetyFunc) :
    (setFunc s f x).keeper = s.keeper ∧ (setFunc s f x).obj = s.obj ∧ (setFunc s f x).mem = s.mem ∧ (setFunc s f x).cmp = s.cmp
    ∧ (setFunc s f x).net = s.net ∧ (setFunc s f x).swarm = s.swarm ∧ (setFunc s f x).frame = s.frame ∧ (setFunc s f x).faults = s.faults
    ∧ (setFunc s f x).flash = s.flash ∧ (setFunc s f x).boot = s.boot ∧ (setFunc s f x).power = s.power ∧ (setFunc s f x).holmi = s.holmi
    ∧ (setFunc s f x).test = s.test ∧ (setFunc s f x).free = s.free ∧ (setFunc s f x).pending = s.pending
    ∧ (setFunc s f x).island.released = s.island.released ∧ (setFunc s f x).island.up = s.island.up ∧ (setFunc s f x).island.held = s.island.held
    ∧ (setFunc s f x).island.image = s.island.image ∧ (setFunc s f x).island.params = s.island.params
    ∧ (setFunc s f x).island.inputs = s.island.inputs ∧ (setFunc s f x).island.pairs = s.island.pairs ∧ (setFunc s f x).island.conns = s.island.conns
    ∧ (setFunc s f x).island.inbox = s.island.inbox ∧ (setFunc s f x).island.starts = s.island.starts
    ∧ (setFunc s f x).island.startsOvf = s.island.startsOvf ∧ (setFunc s f x).island.log = s.island.log
    ∧ (setFunc s f x).island.logSeq = s.island.logSeq ∧ (setFunc s f x).island.flashLog = s.island.flashLog
    ∧ (setFunc s f x).island.safeStates = s.island.safeStates ∧ (setFunc s f x).island.sent = s.island.sent
    ∧ (∀ i, getMbx (setFunc s f x) i = getMbx s i) ∧ (∀ i, getBlock (setFunc s f x) i = getBlock s i) ∧ (∀ i, getCtx (setFunc s f x) i = getCtx s i)
    ∧ (∀ i, getMot (setFunc s f x) i = getMot s i) ∧ (∀ i, getQueue (setFunc s f x) i = getQueue s i) ∧ (∀ i, getSlot (setFunc s f x) i = getSlot s i)
    ∧ (∀ i, fenceWord (setFunc s f x) i = fenceWord s i) ∧ (∀ i, getDom (setFunc s f x) i = getDom s i)
    ∧ (∀ i j, getRouter (setFunc s f x) i j = getRouter s i j) ∧ (∀ i, getDie (setFunc s f x) i = getDie s i)
    ∧ (∀ i j, getCell (setFunc s f x) i j = getCell s i j) ∧ (∀ i, getColl (setFunc s f x) i = getColl s i)
    ∧ (∀ i, getEngine (setFunc s f x) i = getEngine s i) ∧ (∀ i, getTile (setFunc s f x) i = getTile s i)
    ∧ (∀ i, getRegion (setFunc s f x) i = getRegion s i) ∧ (∀ i, getChan (setFunc s f x) i = getChan s i)
    ∧ (∀ i, getSlink (setFunc s f x) i = getSlink s i) ∧ (∀ i, getPort (setFunc s f x) i = getPort s i)
    ∧ (∀ i, getBank (setFunc s f x) i = getBank s i) ∧ (∀ i, sectorState (setFunc s f x) i = sectorState s i)
    ∧ (∀ i, getHm1 (setFunc s f x) i = getHm1 s i) ∧ (∀ i, getSeen (setFunc s f x) i = getSeen s i) ∧ (∀ i, getRelay (setFunc s f x) i = getRelay s i)
    ∧ (∀ i, getInput (setFunc s f x) i = getInput s i) ∧ (∀ i, getPair (setFunc s f x) i = getPair s i)
    ∧ (∀ i, getConn (setFunc s f x) i = getConn s i) ∧ (∀ i j, getPat (setFunc s f x) i j = getPat s i j)
    ∧ (∀ i, memByte (setFunc s f x) i = memByte s i) ∧ (∀ i n, memRead (setFunc s f x) i n = memRead s i n) :=
  ⟨rfl, rfl, rfl, rfl, rfl, rfl, rfl, rfl, rfl, rfl, rfl, rfl, rfl, rfl, rfl, rfl, rfl, rfl, rfl, rfl, rfl, rfl, rfl, rfl, rfl, rfl, rfl, rfl, rfl,
   rfl, rfl, fun _ => rfl, fun _ => rfl, fun _ => rfl, fun _ => rfl, fun _ => rfl, fun _ => rfl, fun _ => rfl, fun _ => rfl, fun _ _ => rfl,
   fun _ => rfl, fun _ _ => rfl, fun _ => rfl, fun _ => rfl, fun _ => rfl, fun _ => rfl, fun _ => rfl, fun _ => rfl, fun _ => rfl, fun _ => rfl,
   fun _ => rfl, fun _ => rfl, fun _ => rfl, fun _ => rfl, fun _ => rfl, fun _ => rfl, fun _ => rfl, fun _ _ => rfl, fun _ => rfl,
   fun i n => memRead_congr n i (fun _ _ _ => rfl)⟩

@[simp] theorem getFunc_setFunc (s : State) (f : Nat) (x : SafetyFunc) : getFunc (setFunc s f x) f = x := by
  simp [getFunc, setFunc]

theorem getFunc_setFunc_ne (s : State) (f : Nat) (x : SafetyFunc) (j : Nat) (h : j ≠ f) : getFunc (setFunc s f x) j = getFunc s j := by
  simp [getFunc, setFunc, Tbl.get_set_ne h]

@[simp] theorem setInput_rest (s : State) (i : Nat) (x : SafeInput) :
    (setInput s i x).keeper = s.keeper ∧ (setInput s i x).obj = s.obj ∧ (setInput s i x).mem = s.mem ∧ (setInput s i x).cmp = s.cmp
    ∧ (setInput s i x).net = s.net ∧ (setInput s i x).swarm = s.swarm ∧ (setInput s i x).frame = s.frame ∧ (setInput s i x).faults = s.faults
    ∧ (setInput s i x).flash = s.flash ∧ (setInput s i x).boot = s.boot ∧ (setInput s i x).power = s.power ∧ (setInput s i x).holmi = s.holmi
    ∧ (setInput s i x).test = s.test ∧ (setInput s i x).free = s.free ∧ (setInput s i x).pending = s.pending
    ∧ (setInput s i x).island.released = s.island.released ∧ (setInput s i x).island.up = s.island.up ∧ (setInput s i x).island.held = s.island.held
    ∧ (setInput s i x).island.image = s.island.image ∧ (setInput s i x).island.params = s.island.params
    ∧ (setInput s i x).island.funcs = s.island.funcs ∧ (setInput s i x).island.pairs = s.island.pairs ∧ (setInput s i x).island.conns = s.island.conns
    ∧ (setInput s i x).island.inbox = s.island.inbox ∧ (setInput s i x).island.starts = s.island.starts
    ∧ (setInput s i x).island.startsOvf = s.island.startsOvf ∧ (setInput s i x).island.log = s.island.log
    ∧ (setInput s i x).island.logSeq = s.island.logSeq ∧ (setInput s i x).island.flashLog = s.island.flashLog
    ∧ (setInput s i x).island.safeStates = s.island.safeStates ∧ (setInput s i x).island.sent = s.island.sent
    ∧ (∀ i, getMbx (setInput s i x) i = getMbx s i) ∧ (∀ i, getBlock (setInput s i x) i = getBlock s i)
    ∧ (∀ i, getCtx (setInput s i x) i = getCtx s i) ∧ (∀ i, getMot (setInput s i x) i = getMot s i)
    ∧ (∀ i, getQueue (setInput s i x) i = getQueue s i) ∧ (∀ i, getSlot (setInput s i x) i = getSlot s i)
    ∧ (∀ i, fenceWord (setInput s i x) i = fenceWord s i) ∧ (∀ i, getDom (setInput s i x) i = getDom s i)
    ∧ (∀ i j, getRouter (setInput s i x) i j = getRouter s i j) ∧ (∀ i, getDie (setInput s i x) i = getDie s i)
    ∧ (∀ i j, getCell (setInput s i x) i j = getCell s i j) ∧ (∀ i, getColl (setInput s i x) i = getColl s i)
    ∧ (∀ i, getEngine (setInput s i x) i = getEngine s i) ∧ (∀ i, getTile (setInput s i x) i = getTile s i)
    ∧ (∀ i, getRegion (setInput s i x) i = getRegion s i) ∧ (∀ i, getChan (setInput s i x) i = getChan s i)
    ∧ (∀ i, getSlink (setInput s i x) i = getSlink s i) ∧ (∀ i, getPort (setInput s i x) i = getPort s i)
    ∧ (∀ i, getBank (setInput s i x) i = getBank s i) ∧ (∀ i, sectorState (setInput s i x) i = sectorState s i)
    ∧ (∀ i, getHm1 (setInput s i x) i = getHm1 s i) ∧ (∀ i, getSeen (setInput s i x) i = getSeen s i)
    ∧ (∀ i, getRelay (setInput s i x) i = getRelay s i) ∧ (∀ i, getFunc (setInput s i x) i = getFunc s i)
    ∧ (∀ i, getPair (setInput s i x) i = getPair s i) ∧ (∀ i, getConn (setInput s i x) i = getConn s i)
    ∧ (∀ i j, getPat (setInput s i x) i j = getPat s i j) ∧ (∀ i, memByte (setInput s i x) i = memByte s i)
    ∧ (∀ i n, memRead (setInput s i x) i n = memRead s i n) :=
  ⟨rfl, rfl, rfl, rfl, rfl, rfl, rfl, rfl, rfl, rfl, rfl, rfl, rfl, rfl, rfl, rfl, rfl, rfl, rfl, rfl, rfl, rfl, rfl, rfl, rfl, rfl, rfl, rfl, rfl,
   rfl, rfl, fun _ => rfl, fun _ => rfl, fun _ => rfl, fun _ => rfl, fun _ => rfl, fun _ => rfl, fun _ => rfl, fun _ => rfl, fun _ _ => rfl,
   fun _ => rfl, fun _ _ => rfl, fun _ => rfl, fun _ => rfl, fun _ => rfl, fun _ => rfl, fun _ => rfl, fun _ => rfl, fun _ => rfl, fun _ => rfl,
   fun _ => rfl, fun _ => rfl, fun _ => rfl, fun _ => rfl, fun _ => rfl, fun _ => rfl, fun _ => rfl, fun _ _ => rfl, fun _ => rfl,
   fun i n => memRead_congr n i (fun _ _ _ => rfl)⟩

@[simp] theorem getInput_setInput (s : State) (i : Nat) (x : SafeInput) : getInput (setInput s i x) i = x := by
  simp [getInput, setInput]

theorem getInput_setInput_ne (s : State) (i : Nat) (x : SafeInput) (j : Nat) (h : j ≠ i) : getInput (setInput s i x) j = getInput s j := by
  simp [getInput, setInput, Tbl.get_set_ne h]

@[simp] theorem setPair_rest (s : State) (p : Nat) (x : OutputPair) :
    (setPair s p x).keeper = s.keeper ∧ (setPair s p x).obj = s.obj ∧ (setPair s p x).mem = s.mem ∧ (setPair s p x).cmp = s.cmp
    ∧ (setPair s p x).net = s.net ∧ (setPair s p x).swarm = s.swarm ∧ (setPair s p x).frame = s.frame ∧ (setPair s p x).faults = s.faults
    ∧ (setPair s p x).flash = s.flash ∧ (setPair s p x).boot = s.boot ∧ (setPair s p x).power = s.power ∧ (setPair s p x).holmi = s.holmi
    ∧ (setPair s p x).test = s.test ∧ (setPair s p x).free = s.free ∧ (setPair s p x).pending = s.pending
    ∧ (setPair s p x).island.released = s.island.released ∧ (setPair s p x).island.up = s.island.up ∧ (setPair s p x).island.held = s.island.held
    ∧ (setPair s p x).island.image = s.island.image ∧ (setPair s p x).island.params = s.island.params ∧ (setPair s p x).island.funcs = s.island.funcs
    ∧ (setPair s p x).island.inputs = s.island.inputs ∧ (setPair s p x).island.conns = s.island.conns ∧ (setPair s p x).island.inbox = s.island.inbox
    ∧ (setPair s p x).island.starts = s.island.starts ∧ (setPair s p x).island.startsOvf = s.island.startsOvf
    ∧ (setPair s p x).island.log = s.island.log ∧ (setPair s p x).island.logSeq = s.island.logSeq
    ∧ (setPair s p x).island.flashLog = s.island.flashLog ∧ (setPair s p x).island.safeStates = s.island.safeStates
    ∧ (setPair s p x).island.sent = s.island.sent ∧ (∀ i, getMbx (setPair s p x) i = getMbx s i) ∧ (∀ i, getBlock (setPair s p x) i = getBlock s i)
    ∧ (∀ i, getCtx (setPair s p x) i = getCtx s i) ∧ (∀ i, getMot (setPair s p x) i = getMot s i) ∧ (∀ i, getQueue (setPair s p x) i = getQueue s i)
    ∧ (∀ i, getSlot (setPair s p x) i = getSlot s i) ∧ (∀ i, fenceWord (setPair s p x) i = fenceWord s i)
    ∧ (∀ i, getDom (setPair s p x) i = getDom s i) ∧ (∀ i j, getRouter (setPair s p x) i j = getRouter s i j)
    ∧ (∀ i, getDie (setPair s p x) i = getDie s i) ∧ (∀ i j, getCell (setPair s p x) i j = getCell s i j)
    ∧ (∀ i, getColl (setPair s p x) i = getColl s i) ∧ (∀ i, getEngine (setPair s p x) i = getEngine s i)
    ∧ (∀ i, getTile (setPair s p x) i = getTile s i) ∧ (∀ i, getRegion (setPair s p x) i = getRegion s i)
    ∧ (∀ i, getChan (setPair s p x) i = getChan s i) ∧ (∀ i, getSlink (setPair s p x) i = getSlink s i)
    ∧ (∀ i, getPort (setPair s p x) i = getPort s i) ∧ (∀ i, getBank (setPair s p x) i = getBank s i)
    ∧ (∀ i, sectorState (setPair s p x) i = sectorState s i) ∧ (∀ i, getHm1 (setPair s p x) i = getHm1 s i)
    ∧ (∀ i, getSeen (setPair s p x) i = getSeen s i) ∧ (∀ i, getRelay (setPair s p x) i = getRelay s i)
    ∧ (∀ i, getFunc (setPair s p x) i = getFunc s i) ∧ (∀ i, getInput (setPair s p x) i = getInput s i)
    ∧ (∀ i, getConn (setPair s p x) i = getConn s i) ∧ (∀ i j, getPat (setPair s p x) i j = getPat s i j)
    ∧ (∀ i, memByte (setPair s p x) i = memByte s i) ∧ (∀ i n, memRead (setPair s p x) i n = memRead s i n) :=
  ⟨rfl, rfl, rfl, rfl, rfl, rfl, rfl, rfl, rfl, rfl, rfl, rfl, rfl, rfl, rfl, rfl, rfl, rfl, rfl, rfl, rfl, rfl, rfl, rfl, rfl, rfl, rfl, rfl, rfl,
   rfl, rfl, fun _ => rfl, fun _ => rfl, fun _ => rfl, fun _ => rfl, fun _ => rfl, fun _ => rfl, fun _ => rfl, fun _ => rfl, fun _ _ => rfl,
   fun _ => rfl, fun _ _ => rfl, fun _ => rfl, fun _ => rfl, fun _ => rfl, fun _ => rfl, fun _ => rfl, fun _ => rfl, fun _ => rfl, fun _ => rfl,
   fun _ => rfl, fun _ => rfl, fun _ => rfl, fun _ => rfl, fun _ => rfl, fun _ => rfl, fun _ => rfl, fun _ _ => rfl, fun _ => rfl,
   fun i n => memRead_congr n i (fun _ _ _ => rfl)⟩

@[simp] theorem getPair_setPair (s : State) (p : Nat) (x : OutputPair) : getPair (setPair s p x) p = x := by
  simp [getPair, setPair]

theorem getPair_setPair_ne (s : State) (p : Nat) (x : OutputPair) (j : Nat) (h : j ≠ p) : getPair (setPair s p x) j = getPair s j := by
  simp [getPair, setPair, Tbl.get_set_ne h]

@[simp] theorem setConn_rest (s : State) (c : Nat) (x : Conn) :
    (setConn s c x).keeper = s.keeper ∧ (setConn s c x).obj = s.obj ∧ (setConn s c x).mem = s.mem ∧ (setConn s c x).cmp = s.cmp
    ∧ (setConn s c x).net = s.net ∧ (setConn s c x).swarm = s.swarm ∧ (setConn s c x).frame = s.frame ∧ (setConn s c x).faults = s.faults
    ∧ (setConn s c x).flash = s.flash ∧ (setConn s c x).boot = s.boot ∧ (setConn s c x).power = s.power ∧ (setConn s c x).holmi = s.holmi
    ∧ (setConn s c x).test = s.test ∧ (setConn s c x).free = s.free ∧ (setConn s c x).pending = s.pending
    ∧ (setConn s c x).island.released = s.island.released ∧ (setConn s c x).island.up = s.island.up ∧ (setConn s c x).island.held = s.island.held
    ∧ (setConn s c x).island.image = s.island.image ∧ (setConn s c x).island.params = s.island.params ∧ (setConn s c x).island.funcs = s.island.funcs
    ∧ (setConn s c x).island.inputs = s.island.inputs ∧ (setConn s c x).island.pairs = s.island.pairs ∧ (setConn s c x).island.inbox = s.island.inbox
    ∧ (setConn s c x).island.starts = s.island.starts ∧ (setConn s c x).island.startsOvf = s.island.startsOvf
    ∧ (setConn s c x).island.log = s.island.log ∧ (setConn s c x).island.logSeq = s.island.logSeq
    ∧ (setConn s c x).island.flashLog = s.island.flashLog ∧ (setConn s c x).island.safeStates = s.island.safeStates
    ∧ (setConn s c x).island.sent = s.island.sent ∧ (∀ i, getMbx (setConn s c x) i = getMbx s i) ∧ (∀ i, getBlock (setConn s c x) i = getBlock s i)
    ∧ (∀ i, getCtx (setConn s c x) i = getCtx s i) ∧ (∀ i, getMot (setConn s c x) i = getMot s i) ∧ (∀ i, getQueue (setConn s c x) i = getQueue s i)
    ∧ (∀ i, getSlot (setConn s c x) i = getSlot s i) ∧ (∀ i, fenceWord (setConn s c x) i = fenceWord s i)
    ∧ (∀ i, getDom (setConn s c x) i = getDom s i) ∧ (∀ i j, getRouter (setConn s c x) i j = getRouter s i j)
    ∧ (∀ i, getDie (setConn s c x) i = getDie s i) ∧ (∀ i j, getCell (setConn s c x) i j = getCell s i j)
    ∧ (∀ i, getColl (setConn s c x) i = getColl s i) ∧ (∀ i, getEngine (setConn s c x) i = getEngine s i)
    ∧ (∀ i, getTile (setConn s c x) i = getTile s i) ∧ (∀ i, getRegion (setConn s c x) i = getRegion s i)
    ∧ (∀ i, getChan (setConn s c x) i = getChan s i) ∧ (∀ i, getSlink (setConn s c x) i = getSlink s i)
    ∧ (∀ i, getPort (setConn s c x) i = getPort s i) ∧ (∀ i, getBank (setConn s c x) i = getBank s i)
    ∧ (∀ i, sectorState (setConn s c x) i = sectorState s i) ∧ (∀ i, getHm1 (setConn s c x) i = getHm1 s i)
    ∧ (∀ i, getSeen (setConn s c x) i = getSeen s i) ∧ (∀ i, getRelay (setConn s c x) i = getRelay s i)
    ∧ (∀ i, getFunc (setConn s c x) i = getFunc s i) ∧ (∀ i, getInput (setConn s c x) i = getInput s i)
    ∧ (∀ i, getPair (setConn s c x) i = getPair s i) ∧ (∀ i j, getPat (setConn s c x) i j = getPat s i j)
    ∧ (∀ i, memByte (setConn s c x) i = memByte s i) ∧ (∀ i n, memRead (setConn s c x) i n = memRead s i n) :=
  ⟨rfl, rfl, rfl, rfl, rfl, rfl, rfl, rfl, rfl, rfl, rfl, rfl, rfl, rfl, rfl, rfl, rfl, rfl, rfl, rfl, rfl, rfl, rfl, rfl, rfl, rfl, rfl, rfl, rfl,
   rfl, rfl, fun _ => rfl, fun _ => rfl, fun _ => rfl, fun _ => rfl, fun _ => rfl, fun _ => rfl, fun _ => rfl, fun _ => rfl, fun _ _ => rfl,
   fun _ => rfl, fun _ _ => rfl, fun _ => rfl, fun _ => rfl, fun _ => rfl, fun _ => rfl, fun _ => rfl, fun _ => rfl, fun _ => rfl, fun _ => rfl,
   fun _ => rfl, fun _ => rfl, fun _ => rfl, fun _ => rfl, fun _ => rfl, fun _ => rfl, fun _ => rfl, fun _ _ => rfl, fun _ => rfl,
   fun i n => memRead_congr n i (fun _ _ _ => rfl)⟩

@[simp] theorem getConn_setConn (s : State) (c : Nat) (x : Conn) : getConn (setConn s c x) c = x := by
  simp [getConn, setConn]

theorem getConn_setConn_ne (s : State) (c : Nat) (x : Conn) (j : Nat) (h : j ≠ c) : getConn (setConn s c x) j = getConn s j := by
  simp [getConn, setConn, Tbl.get_set_ne h]

@[simp] theorem setPat_rest (s : State) (d g : Nat) (x : PatGroup) :
    (setPat s d g x).keeper = s.keeper ∧ (setPat s d g x).obj = s.obj ∧ (setPat s d g x).mem = s.mem ∧ (setPat s d g x).cmp = s.cmp
    ∧ (setPat s d g x).net = s.net ∧ (setPat s d g x).swarm = s.swarm ∧ (setPat s d g x).frame = s.frame ∧ (setPat s d g x).faults = s.faults
    ∧ (setPat s d g x).flash = s.flash ∧ (setPat s d g x).boot = s.boot ∧ (setPat s d g x).power = s.power ∧ (setPat s d g x).island = s.island
    ∧ (setPat s d g x).holmi = s.holmi ∧ (setPat s d g x).free = s.free ∧ (setPat s d g x).pending = s.pending
    ∧ (setPat s d g x).test.fuses = s.test.fuses ∧ (setPat s d g x).test.fuseStatus = s.test.fuseStatus
    ∧ (setPat s d g x).test.counters = s.test.counters ∧ (setPat s d g x).test.ovf = s.test.ovf ∧ (setPat s d g x).test.tjHigh = s.test.tjHigh
    ∧ (setPat s d g x).test.tjLow = s.test.tjLow ∧ (setPat s d g x).test.track = s.test.track ∧ (setPat s d g x).test.minuteTicks = s.test.minuteTicks
    ∧ (setPat s d g x).test.saved = s.test.saved ∧ (setPat s d g x).test.savedOvf = s.test.savedOvf
    ∧ (setPat s d g x).test.savedHigh = s.test.savedHigh ∧ (setPat s d g x).test.savedLow = s.test.savedLow
    ∧ (setPat s d g x).test.debugOpen = s.test.debugOpen ∧ (∀ i, getMbx (setPat s d g x) i = getMbx s i)
    ∧ (∀ i, getBlock (setPat s d g x) i = getBlock s i) ∧ (∀ i, getCtx (setPat s d g x) i = getCtx s i)
    ∧ (∀ i, getMot (setPat s d g x) i = getMot s i) ∧ (∀ i, getQueue (setPat s d g x) i = getQueue s i)
    ∧ (∀ i, getSlot (setPat s d g x) i = getSlot s i) ∧ (∀ i, fenceWord (setPat s d g x) i = fenceWord s i)
    ∧ (∀ i, getDom (setPat s d g x) i = getDom s i) ∧ (∀ i j, getRouter (setPat s d g x) i j = getRouter s i j)
    ∧ (∀ i, getDie (setPat s d g x) i = getDie s i) ∧ (∀ i j, getCell (setPat s d g x) i j = getCell s i j)
    ∧ (∀ i, getColl (setPat s d g x) i = getColl s i) ∧ (∀ i, getEngine (setPat s d g x) i = getEngine s i)
    ∧ (∀ i, getTile (setPat s d g x) i = getTile s i) ∧ (∀ i, getRegion (setPat s d g x) i = getRegion s i)
    ∧ (∀ i, getChan (setPat s d g x) i = getChan s i) ∧ (∀ i, getSlink (setPat s d g x) i = getSlink s i)
    ∧ (∀ i, getPort (setPat s d g x) i = getPort s i) ∧ (∀ i, getBank (setPat s d g x) i = getBank s i)
    ∧ (∀ i, sectorState (setPat s d g x) i = sectorState s i) ∧ (∀ i, getHm1 (setPat s d g x) i = getHm1 s i)
    ∧ (∀ i, getSeen (setPat s d g x) i = getSeen s i) ∧ (∀ i, getRelay (setPat s d g x) i = getRelay s i)
    ∧ (∀ i, getFunc (setPat s d g x) i = getFunc s i) ∧ (∀ i, getInput (setPat s d g x) i = getInput s i)
    ∧ (∀ i, getPair (setPat s d g x) i = getPair s i) ∧ (∀ i, getConn (setPat s d g x) i = getConn s i)
    ∧ (∀ i, memByte (setPat s d g x) i = memByte s i) ∧ (∀ i n, memRead (setPat s d g x) i n = memRead s i n) :=
  ⟨rfl, rfl, rfl, rfl, rfl, rfl, rfl, rfl, rfl, rfl, rfl, rfl, rfl, rfl, rfl, rfl, rfl, rfl, rfl, rfl, rfl, rfl, rfl, rfl, rfl, rfl, rfl, rfl,
   fun _ => rfl, fun _ => rfl, fun _ => rfl, fun _ => rfl, fun _ => rfl, fun _ => rfl, fun _ => rfl, fun _ => rfl, fun _ _ => rfl, fun _ => rfl,
   fun _ _ => rfl, fun _ => rfl, fun _ => rfl, fun _ => rfl, fun _ => rfl, fun _ => rfl, fun _ => rfl, fun _ => rfl, fun _ => rfl, fun _ => rfl,
   fun _ => rfl, fun _ => rfl, fun _ => rfl, fun _ => rfl, fun _ => rfl, fun _ => rfl, fun _ => rfl, fun _ => rfl,
   fun i n => memRead_congr n i (fun _ _ _ => rfl)⟩

@[simp] theorem getPat_setPat (s : State) (d g : Nat) (x : PatGroup) : getPat (setPat s d g x) d g = x := by
  simp [getPat, setPat]

@[simp] theorem getCfg_setCfg (s : State) (x : Config) : (setCfg s x).frame.cfg = x := rfl

@[simp] theorem getMet_setMet (s : State) (l : Nat) (x : Metrology) : getMet (setMet s l x) l = x := by
  simp [getMet, setMet]

@[simp] theorem getSes_setSes (s : State) (l : Nat) (x : Session) : getSes (setSes s l x) l = x := by
  simp [getSes, setSes]

@[simp] theorem getEnd_setEnd (s : State) (far : Bool) (l : Nat) (x : HolmiEnd) : getEnd (setEnd s far l x) far l = x := by
  cases far <;> simp [getEnd, setEnd]

@[simp] theorem setMbx_round (s : State) (m : Nat) (x : Mbx) :
    (setMbx s m x).keeper.round = s.keeper.round ∧ (setMbx s m x).keeper.heldWrites = s.keeper.heldWrites :=
  ⟨rfl, rfl⟩

@[simp] theorem setBlock_round (s : State) (id : Nat) (x : StagedBlock) :
    (setBlock s id x).keeper.round = s.keeper.round ∧ (setBlock s id x).keeper.heldWrites = s.keeper.heldWrites :=
  ⟨rfl, rfl⟩

@[simp] theorem setRouter_mesh (s : State) (d r : Nat) (x : Router) :
    (setRouter s d r x).net.bufs = s.net.bufs
    ∧ (setRouter s d r x).net.outs = s.net.outs
    ∧ (setRouter s d r x).net.awaiting = s.net.awaiting
    ∧ (setRouter s d r x).net.held = s.net.held
    ∧ (setRouter s d r x).net.notice = s.net.notice
    ∧ (setRouter s d r x).net.installs = s.net.installs :=
  ⟨rfl, rfl, rfl, rfl, rfl, rfl⟩

@[simp] theorem setDom_mesh (s : State) (d : Nat) (x : Domain) :
    (setDom s d x).net.bufs = s.net.bufs
    ∧ (setDom s d x).net.outs = s.net.outs
    ∧ (setDom s d x).net.awaiting = s.net.awaiting
    ∧ (setDom s d x).net.held = s.net.held
    ∧ (setDom s d x).net.notice = s.net.notice
    ∧ (setDom s d x).net.installs = s.net.installs :=
  ⟨rfl, rfl, rfl, rfl, rfl, rfl⟩

/-- A free value drawn: nothing else changes. -/
@[simp] theorem inRange_eq (c : Bool) (t : State) : inRange c t = if c then .next { t with free := t.free + 1 } else .fault .noSuchUnit := rfl

end Sys2Proof.Machine
end

