-- ==== Sys2Proof/Laws/Cells.lean ====
section
/-! SUPPORT. The one way each shared take-up goes when its conditions hold: a cell's instruction, a queue's descriptor, an HM1's message,
and the own-store accesses and accumulator tiles of a cell. -/

namespace Sys2Proof.Machine

/-- What an instruction's answer makes of the state. -/
def issued (die cell : Nat) (u : Unit1) (s : State) : Issue → State
  | .stall => setCell s die cell { u.x with state := .stalled }
  | .hold x => setCell s die cell { x with state := .stalled }
  | .fault code a write => faultCell u code a write s
  | .next s x =>
    setCell s die cell { x with state := if x.wait.isSome then .waiting else .running, pc := x.pc + 1, past := x.pc.toNat = 0xFFFFF }
  | .goto s x pc => setCell s die cell { x with state := .running, pc := BitVec.ofNat 20 pc, past := false }
  | .done s => s

/-- A cell that is ready issues. -/
theorem issue_ready {op : Nat} {uses : Uses} {run : Unit1 → State → Issue} {die cell : Nat} {s : State} (h : ready op uses die cell s = true) :
    issue op uses run die cell s = issued die cell (unitOf s die cell) s (run (unitOf s die cell) s) := by
  have e0 : (unitOf s die cell).x = getCell s die cell := rfl
  simp only [ready, Bool.and_eq_true, Bool.or_eq_true, beq_iff_eq, decide_eq_true_eq, Bool.not_eq_true', List.isEmpty_iff] at h
  obtain ⟨⟨⟨⟨⟨⟨⟨⟨⟨⟨⟨h1, h2⟩, h3⟩, hs⟩, hp⟩, h4⟩, h5⟩, h6⟩, h7⟩, h8⟩, h9⟩, h10⟩ := h
  obtain ⟨j, hj⟩ := Option.isSome_iff_exists.1 h2
  have hj0 : (getCell s die cell).job = some j := hj
  have eu : unitOf s die cell = ⟨die, cell, getCell s die cell, j, insOf (BitVec.ofNat 64 (memNat s (j.code + 8 * (getCell s die cell).pc.toNat) 8))⟩ := by
    simp [unitOf, hj0]
  rw [eu] at h3 hs hp h4 h5 h6 h7 h9 h10 ⊢
  dsimp only at h3 hs hp h4 h5 h6 h7 h9 h10
  unfold issue
  dsimp only
  split
  · next e => rw [hj0] at e; cases e
  next j' e =>
  have ej : j' = j := by rw [hj0] at e; exact (Option.some.inj e).symm
  subst ej
  rw [if_neg (by simp [h3, h4, hs]), if_neg (by simp only [hp, not_or, Nat.not_le, Bool.false_eq_true, not_false_eq_true, and_true]; omega), if_neg (by simp [h6]), if_neg (by simp [h7]), if_neg (by simp [h7, h8]),
    if_neg (by simp [h9]), if_neg (by rintro ⟨a, b⟩; rcases h10 with c | c <;> simp_all)]
  generalize run _ s = r
  cases r <;> rfl

/-- A cell that is ready whose instruction goes on to the next one. -/
theorem ready_next {op : Nat} {uses : Uses} {run : Unit1 → State → Issue} {die cell : Nat} {s t : State} {x : Cell}
    (h : ready op uses die cell s = true) (hr : run (unitOf s die cell) s = .next t x) :
    inRange (cellOk die cell) (issue op uses run die cell s)
      = .next { setCell t die cell { x with state := if x.wait.isSome then .waiting else .running, pc := x.pc + 1, past := x.pc.toNat = 0xFFFFF }
          with free := t.free + 1 } := by
  have hc : cellOk die cell = true := by
    simp only [ready, Bool.and_eq_true] at h
    exact h.1.1.1.1.1.1.1.1.1.1.1
  rw [issue_ready h, hr, inRange, if_pos hc]
  rfl

/-- The same where nothing but the cell changes. -/
theorem ready_cell {op : Nat} {uses : Uses} {run : Unit1 → State → Issue} {die cell : Nat} {s : State} {x : Cell}
    (h : ready op uses die cell s = true) (hr : run (unitOf s die cell) s = .next s x) :
    ∃ t, inRange (cellOk die cell) (issue op uses run die cell s) = .next t ∧ cellWent s t die cell x :=
  ⟨_, ready_next h hr, rfl⟩

@[simp] theorem setS_pc (x : Cell) (i : Nat) (v : W64) : (x.setS i v).pc = x.pc := by unfold Cell.setS; split <;> rfl
@[simp] theorem setV_pc (x : Cell) (i : Nat) (l : List W32) : (x.setV i l).pc = x.pc := rfl
@[simp] theorem raise_pc (x : Cell) (a b c : Bool) : (x.raise a b c).pc = x.pc := rfl

/-- What a scalar register reads after a write (s0 stays 0). -/
theorem sreg_setS (x : Cell) (i k : Nat) (v : W64) : (x.setS i v).sreg k = if k = 0 then 0 else if k = i then v else x.sreg k := by
  unfold Cell.sreg Cell.setS
  by_cases hk : k = 0
  · simp [hk]
  · by_cases hi : i = 0
    · subst hi; simp [hk]
    · simp [hk, hi, Tbl.get_set]

/-- A scalar write changes the scalar registers alone. -/
theorem setS_rest (x : Cell) (i : Nat) (v : W64) : x.setS i v = { x with s := (x.setS i v).s } := by
  unfold Cell.setS; split <;> rfl

/-- A run of lanes written. -/
theorem get_lanes (l : List W32) : ∀ (b : Nat) (t : Tbl W32) (k : Nat),
    Tbl.get 0 (((upFrom b l.length).zip l).foldl (fun t e => Tbl.set 0 t e.1 e.2) t) k
      = if b ≤ k ∧ k < b + l.length then l.getD (k - b) 0 else Tbl.get 0 t k := by
  induction l with
  | nil => intro b t k; simp [upFrom]
  | cons x l ih =>
    intro b t k
    simp only [List.length_cons, upFrom, List.zip_cons_cons, List.foldl_cons]
    rw [ih (b + 1), Tbl.get_set]
    by_cases h : b + 1 ≤ k ∧ k < b + 1 + l.length
    · have e : k - b = (k - (b + 1)) + 1 := by omega
      rw [if_pos h, if_pos (by omega), e, List.getD_cons_succ]
    · by_cases e : k = b
      · subst e; simp
      · rw [if_neg h, if_neg e, if_neg (by omega)]

theorem upFrom_length (a n : Nat) : (upFrom a n).length = n := by
  induction n generalizing a with
  | zero => rfl
  | succ n ih => simp [upFrom, ih]

theorem upFrom_getD (n : Nat) : ∀ (a i : Nat), i < n → (upFrom a n)[i]? = some (a + i) := by
  induction n with
  | zero => intro a i h; omega
  | succ n ih =>
    intro a i h
    cases i with
    | zero => simp [upFrom]
    | succ i =>
      have := ih (a + 1) i (by omega)
      simp only [upFrom, List.getElem?_cons_succ, this]
      congr 1
      omega

theorem lanes_read (t : Tbl W32) (i k : Nat) (l : List W32) :
    (upFrom (l.length * k) l.length).map (Tbl.get 0 (((upFrom (l.length * i) l.length).zip l).foldl (fun t e => Tbl.set 0 t e.1 e.2) t))
      = if k = i then l else (upFrom (l.length * k) l.length).map (Tbl.get 0 t) := by
  apply List.ext_getElem?
  intro j
  by_cases hj : j < l.length
  · rw [List.getElem?_map, upFrom_getD _ _ _ hj, Option.map_some, get_lanes]
    by_cases e : k = i
    · subst e
      rw [if_pos (by omega), if_pos rfl, show l.length * k + j - l.length * k = j by omega, List.getElem?_eq_getElem hj, List.getD_eq_getElem _ _ hj]
    · rw [if_neg, if_neg e, List.getElem?_map, upFrom_getD _ _ _ hj, Option.map_some]
      intro h
      rcases Nat.lt_or_gt_of_ne e with c | c
      · have := Nat.mul_le_mul_left l.length (show k + 1 ≤ i from c)
        rw [Nat.mul_add] at this
        omega
      · have := Nat.mul_le_mul_left l.length (show i + 1 ≤ k from c)
        rw [Nat.mul_add] at this
        omega
  · have h1 : ∀ (f : Nat → W32), ((upFrom (l.length * k) l.length).map f)[j]? = none := by
      intro f
      rw [List.getElem?_eq_none]
      rw [List.length_map, upFrom_length]
      omega
    rw [h1]
    split
    · rw [List.getElem?_eq_none]; omega
    · rw [h1]

/-- What a vector register reads after a write of 32 lanes. -/
theorem vreg_setV (x : Cell) (i k : Nat) (l : List W32) (hl : l.length = 32) : (x.setV i l).vreg k = if k = i then l else x.vreg k := by
  have := lanes_read x.v i k l
  simp only [hl] at this
  exact this

/-- A vector register has 32 lanes. -/
@[simp] theorem vreg_length (x : Cell) (i : Nat) : (x.vreg i).length = 32 := by
  simp [Cell.vreg, upFrom_length]

/-- An access that meets its conditions goes on. -/
theorem ownAccess_ok {u : Unit1} {off n align : Nat} {write : Bool} {s : State} {f : Nat → Issue} (h : ownOk u off n align write s = true) :
    ownAccess u off n align write s f = f (cellStore s u.die u.cell + off) := by
  simp only [ownOk, Bool.and_eq_true, decide_eq_true_eq, Bool.not_eq_true', beq_iff_eq] at h
  obtain ⟨⟨⟨⟨h1, h2⟩, h3⟩, h4⟩, h5⟩ := h
  unfold ownAccess
  rw [if_neg (by simp [h1]), if_neg (by omega), if_neg (by simp [h3]), if_neg (by simp [h4]), if_neg (by simp only [h5, not_true_eq_false, not_false_eq_true])]

/-- What a run over a tile of entries gives when no entry faults. -/
theorem mapTile_spec (f : Nat → AccEntry → Option AccEntry) (a : Nat) : ∀ (n : Nat) (t : Tbl AccEntry),
    (∀ i, i < n → (f i (Tbl.get {} t (4096 * a + i))).isSome = true) →
    ∃ t', mapTile f a n t = some t' ∧ (∀ i, i < n → some (Tbl.get {} t' (4096 * a + i)) = f i (Tbl.get {} t (4096 * a + i)))
      ∧ ∀ k, (k < 4096 * a ∨ 4096 * a + n ≤ k) → Tbl.get {} t' k = Tbl.get {} t k
  | 0, t, _ => ⟨t, rfl, by intro i h; omega, fun _ _ => rfl⟩
  | n + 1, t, h => by
    obtain ⟨e, he⟩ := Option.isSome_iff_exists.1 (h n (by omega))
    have hne : ∀ i, i ≠ n → Tbl.get {} (Tbl.set {} t (4096 * a + n) e) (4096 * a + i) = Tbl.get {} t (4096 * a + i) := by
      intro i hi
      rw [Tbl.get_set, if_neg (by omega)]
    obtain ⟨t', h1, h2, h3⟩ := mapTile_spec f a n (Tbl.set {} t (4096 * a + n) e) (by
      intro i hi
      rw [hne i (by omega)]
      exact h i (by omega))
    refine ⟨t', by rw [mapTile, he]; exact h1, ?_, ?_⟩
    · intro i hi
      by_cases e0 : i = n
      · subst e0
        rw [h3 (4096 * a + i) (by omega), Tbl.get_set_self, he]
      · rw [h2 i (by omega), hne i e0]
    · intro k hk
      rw [h3 k (by omega), Tbl.get_set, if_neg (by omega)]

/-- A queue that is ready starts its descriptor once its units are had. -/
theorem startDesc_go {typ : Nat} {late : Queue → Bytes → State → Start} {beg : Nat → Desc → State → State} {q : Nat} {s : State}
    {us : List Nat} {ps : Bytes} (h : queueReady typ q s = true) (hl : late (getQueue s q) (nextDesc s q) s = .go us ps) :
    startDesc typ late beg q s = beg q (startedDesc s q us ps) (withStarted typ s q us ps) := by
  simp only [queueReady, Bool.and_eq_true, Bool.or_eq_true, beq_iff_eq, decide_eq_true_eq, Bool.not_eq_true'] at h
  obtain ⟨⟨⟨⟨⟨⟨⟨h1, h2⟩, h3⟩, h4⟩, h5⟩, h6⟩, h7⟩, h8⟩ := h
  obtain ⟨i, hi⟩ := Option.isSome_iff_exists.1 h2
  simp only [hi, Option.getD_some] at h3 h4
  have hb : memRead s ((getMot s i).base + 64 * ((getQueue s q).startedCount.toNat % 2 ^ (getQueue s q).log2)) 64 = nextDesc s q := by
    simp [nextDesc, hi]
  unfold startDesc
  rw [if_neg (by simp [h1])]
  simp only [hi]
  rw [if_neg (by simp [h3]), if_neg (by simp [h4])]
  simp only [hb]
  rw [if_neg (by simp [h5]), if_neg (by simp [h6]), if_neg (by rcases h7 with c | ⟨c, d⟩ <;> simp_all),
    if_neg (by rcases h7 with c | ⟨c, d⟩ <;> simp_all), if_neg (by rcases h8 with c | c <;> simp_all), hl]
  rfl

/-- A message that the HM1 has is answered. -/
theorem hm1Take_asked {op : Nat} {sub : Option Nat} {l : Nat} {s : State} {f : Bytes → State → State × W16 × Bytes}
    (h : hm1Asked op sub l s = true) :
    hm1Take op sub l f s = (let r := f (inboxOf s l) (hm1Taken s l)
      if (getEnd r.1 true l).up then holmiSend true l 1 (toLE 2 r.2.1.toNat ++ r.2.2) r.1 else r.1) := by
  simp only [hm1Asked, Bool.and_eq_true, beq_iff_eq, decide_eq_true_eq] at h
  obtain ⟨⟨⟨⟨h1, h2⟩, h3⟩, h4⟩, h5⟩ := h
  obtain ⟨b, hb⟩ := Option.isSome_iff_exists.1 h2
  have hi : inboxOf s l = b := by simp [inboxOf, hb]
  rw [hi] at h4 h5 ⊢
  unfold hm1Take
  simp only [hb]
  cases sub with
  | none =>
    rw [if_neg (by simp [h3, h4])]
    simp only [h4, beq_self_eq_true, Bool.and_self, if_true]
    rfl
  | some k =>
    simp only [beq_iff_eq] at h5
    rw [if_neg (by simp [h3, h4, h5])]
    simp only [h4, h5, beq_self_eq_true, Bool.and_self, if_true]
    rfl

end Sys2Proof.Machine
end

