-- ==== Sys2Proof/Laws/Kept.lean ====
section
/-! SUPPORT. What every operation keeps: the memories canonical, a node number that a strap can give, and the queue of commands. -/

namespace Sys2Proof.Machine

/-- The memories are canonical, the node number is one of R19, and `p` are the commands that wait. -/
def KSt (p : List Instr) (s : State) : Prop := s.mem.wf = true ∧ s.swarm.node < 4 ∧ s.pending = p

/-- The same of a state that stands first in a pair. -/
def KFst {α : Type} (p : List Instr) (r : State × α) : Prop := KSt p r.1

/-- The same of a state that may be absent. -/
def KOpt (p : List Instr) (o : Option State) : Prop := ∀ t, o = some t → KSt p t

/-- The same of a state or a number. -/
def KSum (p : List Instr) (o : Sum State Nat) : Prop := ∀ t, o = Sum.inl t → KSt p t

/-- The same of what a request is answered with. -/
def KAns (p : List Instr) (x : Ans) : Prop :=
  (∀ t, x = .keep t → KSt p t) ∧ (∀ t, x = .wait t → KSt p t) ∧ (∀ t c b, x = .done t c b → KSt p t)

/-- The same of what a cell's instruction comes to. -/
def KIss (p : List Instr) (x : Issue) : Prop :=
  (∀ t c, x = .next t c → KSt p t) ∧ (∀ t c n, x = .goto t c n → KSt p t) ∧ (∀ t, x = .done t → KSt p t)

/-- The same of the start of a descriptor. -/
def KStart (p : List Instr) (x : Start) : Prop := ∀ t, x = .hold t → KSt p t

/-- The same of an outcome that is a next state. -/
def KOut (p : List Instr) (x : Host.Outcome State Fault Refusal) : Prop := ∀ t, x = .next t → KSt p t

variable {p : List Instr} {s t : State}

/-- Parts other than the memories and the queue written, the node number left. -/
theorem KSt.mk' {k o c n w f fl fs b pw i h te fr} (hk : KSt p s) (hw : w.node = s.swarm.node) :
    KSt p ⟨k, o, s.mem, c, n, w, f, fl, fs, b, pw, i, h, te, fr, s.pending⟩ :=
  ⟨hk.1, hw ▸ hk.2.1, hk.2.2⟩

/-- The memories written too. -/
theorem KSt.mem {k o m c n w f fl fs b pw i h te fr} (hk : KSt p s) (hm : m.wf = true) (hw : w.node = s.swarm.node) :
    KSt p ⟨k, o, m, c, n, w, f, fl, fs, b, pw, i, h, te, fr, s.pending⟩ :=
  ⟨hm, hw ▸ hk.2.1, hk.2.2⟩

theorem KOut.inRange {c : Bool} (h : KSt p s) : KOut p (inRange c s) := by
  intro t e
  unfold Sys2Proof.Machine.inRange at e
  split at e
  · cases e
    exact h
  · cases e

theorem KSt.ite {c : Prop} [Decidable c] (ht : c → KSt p s) (he : ¬ c → KSt p t) : KSt p (if c then s else t) := by
  split <;> simp_all

theorem KSt.fst_ite {α : Type} {c : Prop} [Decidable c] {a b : State × α} (ht : c → KSt p a.1) (he : ¬ c → KSt p b.1) :
    KSt p (if c then a else b).1 := by
  split <;> simp_all

theorem KSt.foldl {α : Type} {f : State → α → State} (l : List α) (hf : ∀ s x, KSt p s → KSt p (f s x)) (h : KSt p s) :
    KSt p (l.foldl f s) := by
  induction l generalizing s with
  | nil => exact h
  | cons x l ih => exact ih (hf s x h)

theorem KFst.foldl {α β : Type} {f : State × β → α → State × β} {r : State × β} (l : List α) (hf : ∀ r x, KFst p r → KFst p (f r x))
    (h : KFst p r) : KFst p (l.foldl f r) := by
  induction l generalizing r with
  | nil => exact h
  | cons x l ih => exact ih (hf r x h)

theorem KFst.ite {α : Type} {c : Prop} [Decidable c] {a b : State × α} (ht : c → KFst p a) (he : ¬ c → KFst p b) :
    KFst p (if c then a else b) := by
  split <;> simp_all

theorem KFst.mk {α : Type} {x : α} (h : KSt p s) : KFst p (s, x) := h

theorem KFst.fst {α : Type} {r : State × α} (h : KFst p r) : KSt p r.1 := h

theorem KFst.of_eq {α : Type} {r : State × α} {x : α} (e : r = (t, x)) (h : KFst p r) : KSt p t := by
  subst e; exact h

theorem KOpt.ite {c : Prop} [Decidable c] {a b : Option State} (ht : c → KOpt p a) (he : ¬ c → KOpt p b) :
    KOpt p (if c then a else b) := by
  split <;> simp_all

theorem KOpt.none : KOpt p none := by simp [KOpt]
theorem KOpt.some (h : KSt p s) : KOpt p (some s) := by simp [KOpt, h]
theorem KOpt.of_eq {o : Option State} (e : o = Option.some t) (h : KOpt p o) : KSt p t := h t e
theorem KOpt.getD {o : Option State} (h : KOpt p o) (hs : KSt p s) : KSt p (o.getD s) := by
  cases o with
  | none => exact hs
  | some t => exact h t rfl
theorem KOpt.map {α : Type} {o : Option α} {f : α → State} (h : ∀ x, KSt p (f x)) : KOpt p (o.map f) := by
  cases o <;> simp [KOpt, h]

theorem KSum.ite {c : Prop} [Decidable c] {a b : Sum State Nat} (ht : c → KSum p a) (he : ¬ c → KSum p b) :
    KSum p (if c then a else b) := by
  split <;> simp_all
theorem KSum.inl (h : KSt p s) : KSum p (Sum.inl s) := by simp [KSum, h]
theorem KSum.inr {n : Nat} : KSum p (Sum.inr n) := by simp [KSum]
theorem KSum.of_eq {o : Sum State Nat} (e : o = Sum.inl t) (h : KSum p o) : KSt p t := h t e

theorem KAns.ite {c : Prop} [Decidable c] {a b : Ans} (ht : c → KAns p a) (he : ¬ c → KAns p b) : KAns p (if c then a else b) := by
  split <;> simp_all
theorem KAns.hold : KAns p .hold := by simp [KAns]
theorem KAns.keep (h : KSt p s) : KAns p (.keep s) := by simp [KAns, h]
theorem KAns.wait (h : KSt p s) : KAns p (.wait s) := by simp [KAns, h]
theorem KAns.done {c : W16} {b : Bytes} (h : KSt p s) : KAns p (.done s c b) := by
  refine ⟨?_, ?_, ?_⟩ <;> simp +contextual [h]
theorem KAns.reject {c : W16} (h : KSt p s) : KAns p (reject s c) := KAns.done h
theorem KAns.okay {b : Bytes} (h : KSt p s) : KAns p (okay s b) := KAns.done h

theorem KIss.ite {c : Prop} [Decidable c] {a b : Issue} (ht : c → KIss p a) (he : ¬ c → KIss p b) : KIss p (if c then a else b) := by
  split <;> simp_all
theorem KIss.stall : KIss p .stall := by simp [KIss]
theorem KIss.holds {x : Cell} : KIss p (.hold x) := by simp [KIss]
theorem KIss.fault {c : W16} {n : Nat} {w : Bool} : KIss p (.fault c n w) := by simp [KIss]
theorem KIss.next {x : Cell} (h : KSt p s) : KIss p (.next s x) := by
  refine ⟨?_, ?_, ?_⟩ <;> simp +contextual [h]
theorem KIss.goto {x : Cell} {n : Nat} (h : KSt p s) : KIss p (.goto s x n) := by
  refine ⟨?_, ?_, ?_⟩ <;> simp +contextual [h]
theorem KIss.done (h : KSt p s) : KIss p (.done s) := by simp [KIss, h]

theorem KStart.ite {c : Prop} [Decidable c] {a b : Start} (ht : c → KStart p a) (he : ¬ c → KStart p b) :
    KStart p (if c then a else b) := by
  split <;> simp_all
theorem KStart.hold (h : KSt p s) : KStart p (.hold s) := by simp [KStart, h]
theorem KStart.fail {c : W16} : KStart p (.fail c) := by simp [KStart]
theorem KStart.fault {c : W16} {n : Nat} : KStart p (.fault c n) := by simp [KStart]
theorem KStart.barred {n : Nat} : KStart p (.barred n) := by simp [KStart]
theorem KStart.go {us : List Nat} {b : Bytes} : KStart p (.go us b) := by simp [KStart]
theorem KStart.of_eq {x : Start} (e : x = .hold t) (h : KStart p x) : KSt p t := h t e

theorem memWrite_kept {a : Nat} {l : Bytes} (h : KSt p s) : KSt p (memWrite s a l) := by
  refine ⟨memWrite_wf s a l h.1, ?_, ?_⟩
  · simpa using h.2.1
  · simpa using h.2.2

/-- Bytes and failing checks left out. -/
theorem KSt.wf_filters {f : Nat × Byte → Bool} {g : Nat × Bool → Bool} (h : KSt p s) :
    Memory.wf { bytes := s.mem.bytes.filter f, bad := s.mem.bad.filter g } = true := by
  have := h.1
  simp only [Memory.wf, Bool.and_eq_true] at *
  exact ⟨Tbl.wf_filter _ this.1, Tbl.wf_filter _ this.2⟩

/-- A check made to fail. -/
theorem KSt.wf_bad {i : Nat} {b : Bool} (h : KSt p s) : Memory.wf { s.mem with bad := Tbl.set false s.mem.bad i b } = true := by
  have := h.1
  simp only [Memory.wf, Bool.and_eq_true] at *
  exact ⟨this.1, Tbl.wf_set _ _ this.2⟩

/-- Checks made all to fail, or none to. -/
theorem KSt.wf_bads (l : List Nat) (b : Bool) (h : KSt p s) :
    Memory.wf { s.mem with bad := l.foldl (fun t i => Tbl.set false t i b) s.mem.bad } = true := by
  have := h.1
  simp only [Memory.wf, Bool.and_eq_true] at *
  exact ⟨this.1, wf_foldl_set _ _ _ this.2⟩

theorem KSt.id (h : KSt p s) : KSt p (id s) := h

theorem KAns.of_keep {x : Ans} (e : x = .keep t) (h : KAns p x) : KSt p t := h.1 t e
theorem KAns.of_wait {x : Ans} (e : x = .wait t) (h : KAns p x) : KSt p t := h.2.1 t e
theorem KAns.of_done {x : Ans} {c : W16} {b : Bytes} (e : x = .done t c b) (h : KAns p x) : KSt p t := h.2.2 t c b e
theorem KIss.of_next {x : Issue} {y : Cell} (e : x = .next t y) (h : KIss p x) : KSt p t := h.1 t y e
theorem KIss.of_goto {x : Issue} {y : Cell} {n : Nat} (e : x = .goto t y n) (h : KIss p x) : KSt p t := h.2.1 t y n e
theorem KIss.of_done {x : Issue} (e : x = .done t) (h : KIss p x) : KSt p t := h.2.2 t e

end Sys2Proof.Machine
end

