-- ==== Sys2Proof/Laws/KeptOps.lean ====
section
/-! SUPPORT. What the operations of Machine/Ops.lean keep. -/

namespace Sys2Proof.Machine

variable {w0 : List Instr}

theorem when_kept {c : Bool} {f : State → State} {s : State} (hf : ∀ y0, KSt w0 y0 → KSt w0 (f y0)) (hs0 : KSt w0 s) : KSt w0 (when c f s) := by
  unfold when
  repeat' first
    | with_reducible assumption
    | with_reducible intro _
    | with_reducible apply KSt.ite
    | with_reducible apply hf

theorem settlePlls_kept {s : State} (hs : KSt w0 s) : KSt w0 (settlePlls s) := by
  unfold settlePlls
  repeat' first
    | with_reducible assumption
    | with_reducible intro _
    | with_reducible apply KSt.ite
    | with_reducible refine KFst.of_eq (by assumption) ?_
    | with_reducible refine KOpt.of_eq (by assumption) ?_
    | with_reducible refine KFst.fst ?_
    | with_reducible apply KOpt.getD
    | fail_if_no_progress (with_reducible apply KSt.mk'; on_goal 2 => rfl)
    | split
    | (dsimp only; split)

theorem setMbx_kept {s : State} {m : Nat} {x : Mbx} (hs0 : KSt w0 s) : KSt w0 (setMbx s m x) := by
  unfold setMbx
  repeat' first
    | with_reducible assumption
    | fail_if_no_progress (with_reducible apply KSt.mk'; on_goal 2 => rfl)

theorem setCtx_kept {s : State} {c : Nat} {x : Ctx} (hs0 : KSt w0 s) : KSt w0 (setCtx s c x) := by
  unfold setCtx
  repeat' first
    | with_reducible assumption
    | fail_if_no_progress (with_reducible apply KSt.mk'; on_goal 2 => rfl)

theorem setMot_kept {s : State} {i : Nat} {x : MotEntry} (hs0 : KSt w0 s) : KSt w0 (setMot s i x) := by
  unfold setMot
  repeat' first
    | with_reducible assumption
    | fail_if_no_progress (with_reducible apply KSt.mk'; on_goal 2 => rfl)

theorem setQueue_kept {s : State} {q : Nat} {x : Queue} (hs0 : KSt w0 s) : KSt w0 (setQueue s q x) := by
  unfold setQueue
  repeat' first
    | with_reducible assumption
    | fail_if_no_progress (with_reducible apply KSt.mk'; on_goal 2 => rfl)

theorem setSlot_kept {s : State} {k : Nat} {x : Slot} (hs0 : KSt w0 s) : KSt w0 (setSlot s k x) := by
  unfold setSlot
  repeat' first
    | with_reducible assumption
    | fail_if_no_progress (with_reducible apply KSt.mk'; on_goal 2 => rfl)

theorem setFence_kept {s : State} {i : Nat} {x : W64} (hs0 : KSt w0 s) : KSt w0 (setFence s i x) := by
  unfold setFence
  repeat' first
    | with_reducible assumption
    | fail_if_no_progress (with_reducible apply KSt.mk'; on_goal 2 => rfl)

theorem setDom_kept {s : State} {d : Nat} {x : Domain} (hs0 : KSt w0 s) : KSt w0 (setDom s d x) := by
  unfold setDom
  repeat' first
    | with_reducible assumption
    | fail_if_no_progress (with_reducible apply KSt.mk'; on_goal 2 => rfl)

theorem noticeOf_kept {d : Nat} {s : State} (hs : KSt w0 s) : KSt w0 (noticeOf d s) := by
  unfold noticeOf
  repeat' first
    | with_reducible assumption
    | with_reducible intro _
    | with_reducible apply setDom_kept
    | with_reducible apply KSt.ite
    | with_reducible refine KFst.of_eq (by assumption) ?_
    | with_reducible refine KOpt.of_eq (by assumption) ?_
    | with_reducible refine KFst.fst ?_
    | with_reducible apply KOpt.getD
    | fail_if_no_progress (with_reducible apply KSt.mk'; on_goal 2 => rfl)
    | split
    | (dsimp only; split)

theorem noticeDomain_kept {s : State} {r : Requester} {a : Nat} (hs : KSt w0 s) : KSt w0 (noticeDomain s r a) := by
  unfold noticeDomain
  repeat' first
    | with_reducible assumption
    | with_reducible intro _
    | with_reducible apply noticeOf_kept
    | with_reducible apply KSt.ite
    | with_reducible apply KFst.mk
    | with_reducible apply KFst.ite
    | with_reducible refine KFst.of_eq (by assumption) ?_
    | with_reducible refine KOpt.of_eq (by assumption) ?_
    | with_reducible refine KFst.fst ?_
    | fail_if_no_progress (with_reducible apply KSt.mk'; on_goal 2 => rfl)
    | split
    | (dsimp only; split)

theorem sendTo_kept {m : Nat} {code : W16} {payload : Bytes} {s : State} (hs0 : KSt w0 s) : KSt w0 (sendTo m code payload s) := by
  unfold sendTo
  repeat' first
    | with_reducible assumption
    | with_reducible apply setMbx_kept

theorem sendAbout_kept {m : Nat} {code : W16} {payload : Bytes} {s : State} (hs0 : KSt w0 s) : KSt w0 (sendAbout m code payload s) := by
  unfold sendAbout
  repeat' first
    | with_reducible assumption
    | with_reducible intro _
    | with_reducible apply sendTo_kept
    | with_reducible apply KSt.ite

theorem sendMaker_kept {x : Ctx} {code : W16} {payload : Bytes} {s : State} (hs : KSt w0 s) : KSt w0 (sendMaker x code payload s) := by
  unfold sendMaker
  repeat' first
    | with_reducible assumption
    | with_reducible intro _
    | with_reducible apply sendAbout_kept
    | with_reducible apply sendTo_kept
    | with_reducible apply KSt.ite
    | with_reducible refine KFst.of_eq (by assumption) ?_
    | with_reducible refine KOpt.of_eq (by assumption) ?_
    | with_reducible refine KFst.fst ?_
    | fail_if_no_progress (with_reducible apply KSt.mk'; on_goal 2 => rfl)
    | split
    | (dsimp only; split)

theorem sendOwner_kept {code : W16} {payload : Bytes} {s : State} (hs0 : KSt w0 s) : KSt w0 (sendOwner code payload s) := by
  unfold sendOwner
  repeat' first
    | with_reducible assumption
    | with_reducible intro _
    | with_reducible apply sendTo_kept
    | with_reducible apply KSt.ite

theorem broadcast_kept {code : W16} {payload : Bytes} {s : State} (hs0 : KSt w0 s) : KSt w0 (broadcast code payload s) := by
  unfold broadcast
  repeat' first
    | with_reducible assumption
    | with_reducible intro _
    | with_reducible apply sendTo_kept
    | with_reducible apply KSt.ite
    | with_reducible apply KSt.foldl

theorem sendWakeCause_kept {ms : List Nat} {atFront : Bool} {s : State} (hs : KSt w0 s) : KSt w0 (sendWakeCause ms atFront s) := by
  unfold sendWakeCause
  repeat' first
    | with_reducible assumption
    | with_reducible intro _
    | with_reducible apply setMbx_kept
    | with_reducible apply KSt.ite
    | with_reducible apply KSt.foldl
    | with_reducible apply KFst.foldl
    | with_reducible refine KFst.of_eq (by assumption) ?_
    | with_reducible refine KOpt.of_eq (by assumption) ?_
    | with_reducible refine KFst.fst ?_
    | fail_if_no_progress (with_reducible apply KSt.mk'; on_goal 2 => rfl)
    | split
    | (dsimp only; split)

theorem violation_kept {src : W32} {a : Nat} {creator : Option Nat} {s : State} (hs0 : KSt w0 s) : KSt w0 (violation src a creator s) := by
  unfold violation
  repeat' first
    | with_reducible assumption
    | with_reducible intro _
    | with_reducible apply sendAbout_kept
    | with_reducible apply sendOwner_kept
    | with_reducible apply KSt.ite
    | fail_if_no_progress (with_reducible apply KSt.mk'; on_goal 2 => rfl)
    | split

theorem foreignCount_kept {src : W32} {m : Nat} {a : Nat} {s : State} (hs : KSt w0 s) : KSt w0 (foreignCount src m a s) := by
  unfold foreignCount
  repeat' first
    | with_reducible assumption
    | with_reducible intro _
    | with_reducible apply sendOwner_kept
    | with_reducible apply setMbx_kept
    | with_reducible apply KSt.ite
    | with_reducible refine KFst.of_eq (by assumption) ?_
    | with_reducible refine KOpt.of_eq (by assumption) ?_
    | with_reducible refine KFst.fst ?_
    | fail_if_no_progress (with_reducible apply KSt.mk'; on_goal 2 => rfl)
    | split
    | (dsimp only; split)

theorem countRefused_kept {src : W32} {a : Nat} {creator : Option Nat} {ms : List Nat} {s : State} (hs : KSt w0 s) :
    KSt w0 (countRefused src a creator s ms) := by
  cases ms with
  | nil => exact violation_kept hs
  | cons m ms => exact KSt.foldl _ (fun _ _ h => foreignCount_kept h) hs

theorem refusedWrite_kept {src : W32} {a : Nat} {n : Nat} {creator : Option Nat} {s : State} (hs : KSt w0 s) : KSt w0 (refusedWrite src a n creator s) :=
  countRefused_kept hs

theorem answer_kept {status : W16} {data : Bytes} {s : State} (hs0 : KSt w0 s) : KSt w0 (answer status data s) := by
  unfold answer
  repeat' first
    | with_reducible assumption
    | fail_if_no_progress (with_reducible apply KSt.mk'; on_goal 2 => rfl)

theorem asSeen_kept {src : W32} {s : State} (hs : KSt w0 s) : KSt w0 (asSeen src s) := by
  unfold asSeen
  repeat' first
    | with_reducible assumption
    | with_reducible intro _
    | with_reducible apply KSt.ite
    | with_reducible refine KFst.of_eq (by assumption) ?_
    | with_reducible refine KOpt.of_eq (by assumption) ?_
    | with_reducible refine KFst.fst ?_
    | fail_if_no_progress (with_reducible apply KSt.mk'; on_goal 2 => rfl)
    | split
    | (dsimp only; split)

theorem refuseWrite_kept {src : W32} {a : Nat} {creator : Option Nat} {code : W16} {s : State} (hs0 : KSt w0 s) : KSt w0 (refuseWrite src a creator code s) := by
  unfold refuseWrite
  repeat' first
    | with_reducible assumption
    | with_reducible apply violation_kept
    | with_reducible apply answer_kept

theorem record_kept {r : FaultRecord} {s : State} (hs0 : KSt w0 s) : KSt w0 (record r s) := by
  unfold record
  repeat' first
    | with_reducible assumption
    | fail_if_no_progress (with_reducible apply KSt.mk'; on_goal 2 => rfl)

theorem setBlock_kept {s : State} {id : Nat} {b : StagedBlock} (hs0 : KSt w0 s) : KSt w0 (setBlock s id b) := by
  unfold setBlock
  repeat' first
    | with_reducible assumption
    | fail_if_no_progress (with_reducible apply KSt.mk'; on_goal 2 => rfl)

theorem countEvent_kept {res : W32} {s : State} (hs0 : KSt w0 s) : KFst w0 (countEvent res s) := by
  unfold countEvent
  repeat' first
    | with_reducible assumption
    | with_reducible apply KFst.mk
    | fail_if_no_progress (with_reducible apply KSt.mk'; on_goal 2 => rfl)

theorem recordCounted_kept {res : W32} {r : FaultRecord} {s : State} (hs0 : KSt w0 s) : KSt w0 (recordCounted res r s) := by
  unfold recordCounted
  repeat' first
    | with_reducible assumption
    | with_reducible apply record_kept
    | with_reducible refine KFst.fst (countEvent_kept ?_)

theorem recordOf_kept {res : Option W32} {r : FaultRecord} {s : State} (hs : KSt w0 s) : KSt w0 (recordOf res r s) := by
  unfold recordOf
  repeat' first
    | with_reducible assumption
    | with_reducible intro _
    | with_reducible apply recordCounted_kept
    | with_reducible apply record_kept
    | with_reducible apply KSt.ite
    | with_reducible refine KFst.of_eq (by assumption) ?_
    | with_reducible refine KOpt.of_eq (by assumption) ?_
    | with_reducible refine KFst.fst ?_
    | fail_if_no_progress (with_reducible apply KSt.mk'; on_goal 2 => rfl)
    | split
    | (dsimp only; split)

theorem failedRead_kept {src : W32} {ctx : W16} {a : Nat} {n : Nat} {s : State} (hs : KSt w0 s) : KSt w0 (failedRead src ctx a n s) := by
  unfold failedRead
  repeat' first
    | with_reducible assumption
    | with_reducible intro _
    | with_reducible apply recordOf_kept
    | with_reducible apply KSt.ite
    | with_reducible refine KFst.of_eq (by assumption) ?_
    | with_reducible refine KOpt.of_eq (by assumption) ?_
    | with_reducible refine KFst.fst ?_
    | with_reducible apply KOpt.getD
    | fail_if_no_progress (with_reducible apply KSt.mk'; on_goal 2 => rfl)
    | split
    | (dsimp only; split)

theorem systemFault_kept {r : FaultRecord} {s : State} (hs0 : KSt w0 s) : KSt w0 (systemFault r s) := by
  unfold systemFault
  repeat' first
    | with_reducible assumption
    | with_reducible apply record_kept
    | with_reducible apply sendOwner_kept

theorem poison_kept {i : Nat} {code : W16} {s : State} (hs0 : KSt w0 s) : KSt w0 (poison i code s) := by
  unfold poison
  repeat' first
    | with_reducible assumption
    | with_reducible intro _
    | with_reducible apply setMot_kept
    | with_reducible apply setFence_kept
    | with_reducible apply KSt.ite

theorem applySignal_kept {i : Nat} {add : Bool} {v : W64} {s : State} (hs0 : KSt w0 s) : KFst w0 (applySignal i add v s) := by
  unfold applySignal
  repeat' first
    | with_reducible assumption
    | with_reducible intro _
    | with_reducible apply setFence_kept
    | with_reducible apply setMot_kept
    | with_reducible apply KFst.mk
    | split

theorem pushSignal_kept {g : Signal} {s : State} (hs0 : KSt w0 s) : KSt w0 (pushSignal g s) := by
  unfold pushSignal
  repeat' first
    | with_reducible assumption
    | fail_if_no_progress (with_reducible apply KSt.mk'; on_goal 2 => rfl)

theorem faultCtx_kept {id : Nat} {r : FaultRecord} {counted : Option W32} {s : State} (hs : KSt w0 s) : KSt w0 (faultCtx id r counted s) := by
  unfold faultCtx
  repeat' first
    | with_reducible assumption
    | with_reducible intro _
    | with_reducible apply record_kept
    | with_reducible apply recordOf_kept
    | with_reducible apply setCtx_kept
    | with_reducible apply KSt.ite
    | with_reducible apply KSt.id
    | with_reducible refine KFst.of_eq (by assumption) ?_
    | with_reducible refine KOpt.of_eq (by assumption) ?_
    | with_reducible refine KFst.fst ?_
    | fail_if_no_progress (with_reducible apply KSt.mk'; on_goal 2 => rfl)
    | split
    | (dsimp only; split)

theorem haltQueue_kept {q : Nat} {d : W32} {code : W16} {sigFence : Option Nat} {s : State} (hs : KSt w0 s) : KSt w0 (haltQueue q d code sigFence s) := by
  unfold haltQueue
  repeat' first
    | with_reducible assumption
    | with_reducible intro _
    | with_reducible apply setQueue_kept
    | with_reducible apply poison_kept
    | with_reducible apply record_kept
    | with_reducible apply sendMaker_kept
    | with_reducible apply KSt.ite
    | with_reducible refine KFst.of_eq (by assumption) ?_
    | with_reducible refine KOpt.of_eq (by assumption) ?_
    | with_reducible refine KFst.fst ?_
    | fail_if_no_progress (with_reducible apply KSt.mk'; on_goal 2 => rfl)
    | split
    | (dsimp only; split)

theorem lifeCount_kept {i : Nat} {s : State} (hs0 : KSt w0 s) : KSt w0 (lifeCount i s) := by
  unfold lifeCount
  repeat' first
    | with_reducible assumption
    | fail_if_no_progress (with_reducible apply KSt.mk'; on_goal 2 => rfl)

theorem keeperEntry_kept {n : Nat} {x y : Option Nat} {s : State} (hs : KSt w0 s) : KFst w0 (keeperEntry n s x y) := by
  cases x <;> cases y <;> first | exact hs | exact setMot_kept hs

theorem keeperObject_kept {n : Nat} {s : State} (hs : KSt w0 s) : KFst w0 (keeperObject n s) := keeperEntry_kept hs

theorem keeperCopy_kept {l : Bytes} {s : State} (hs : KSt w0 s) : KFst w0 (keeperCopy l s) := by
  unfold keeperCopy
  have h := keeperObject_kept (n := l.length) hs
  generalize keeperObject l.length s = r at h
  obtain ⟨t, o⟩ := r
  cases o with
  | none => exact h
  | some i => exact memWrite_kept h

theorem freeMot_kept {i : Nat} {s : State} (hs0 : KSt w0 s) : KSt w0 (freeMot i s) := by
  unfold freeMot
  repeat' first
    | with_reducible assumption
    | with_reducible apply setMot_kept

theorem finishCmd_kept {c : CmdRef} {status : W16} {extra : Bytes} {s : State} (hs0 : KSt w0 s) : KSt w0 (finishCmd c status extra s) := by
  unfold finishCmd
  repeat' first
    | with_reducible assumption
    | with_reducible apply setMbx_kept

theorem raiseIrq_kept {target : W32} {vector : Nat} {s : State} (hs0 : KSt w0 s) : KSt w0 (raiseIrq target vector s) := by
  unfold raiseIrq
  repeat' first
    | with_reducible assumption
    | fail_if_no_progress (with_reducible apply KSt.mk'; on_goal 2 => rfl)

end Sys2Proof.Machine
end

