-- ==== Sys2Proof/Laws/KeptMesh.lean ====
section
/-! SUPPORT. What the operations of Machine/Mesh.lean keep. -/

namespace Sys2Proof.Machine

variable {w0 : List Instr}

theorem setRouter_kept {s : State} {d : Nat} {r : Nat} {x : Router} (hs0 : KSt w0 s) : KSt w0 (setRouter s d r x) := by
  unfold setRouter
  repeat' first
    | with_reducible assumption
    | with_reducible intro _
    | with_reducible apply KSt.ite
    | with_reducible apply KSt.foldl
    | with_reducible apply KSt.fst_ite
    | with_reducible apply KSt.id
    | with_reducible refine KFst.of_eq (by assumption) ?_
    | fail_if_no_progress (with_reducible apply KSt.mk'; on_goal 2 => rfl)

theorem countStray_kept {d : Nat} {r : Nat} {n : Nat} {s : State} (hs : KSt w0 s) : KSt w0 (countStray d r n s) := by
  unfold countStray
  repeat' first
    | with_reducible assumption
    | with_reducible intro _
    | with_reducible apply setRouter_kept
    | with_reducible apply KSt.ite
    | with_reducible refine KFst.of_eq (by assumption) ?_
    | with_reducible refine KOpt.of_eq (by assumption) ?_
    | with_reducible refine KFst.fst ?_
    | fail_if_no_progress (with_reducible apply KSt.mk'; on_goal 2 => rfl)
    | split
    | (dsimp only; split)

theorem carry_kept {l : List Sent} {s : State} (hs : KSt w0 s) : KSt w0 (carry l s) := by
  unfold carry
  repeat' first
    | with_reducible assumption
    | with_reducible intro _
    | with_reducible apply KSt.ite
    | with_reducible refine KFst.of_eq (by assumption) ?_
    | with_reducible refine KOpt.of_eq (by assumption) ?_
    | with_reducible refine KFst.fst ?_
    | fail_if_no_progress (with_reducible apply KSt.mk'; on_goal 2 => rfl)
    | split
    | (dsimp only; split)

theorem carryAccess_kept {src : W32} {ctx : Nat} {write : Bool} {a : Nat} {n : Nat} {status : W16} {retry : Bool} {s : State} (hs : KSt w0 s) : KSt w0 (carryAccess src ctx write a n status retry s) := by
  unfold carryAccess
  repeat' first
    | with_reducible assumption
    | with_reducible intro _
    | with_reducible apply carry_kept
    | with_reducible apply KSt.ite
    | with_reducible refine KFst.of_eq (by assumption) ?_
    | with_reducible refine KOpt.of_eq (by assumption) ?_
    | with_reducible refine KFst.fst ?_
    | fail_if_no_progress (with_reducible apply KSt.mk'; on_goal 2 => rfl)
    | split
    | (dsimp only; split)

theorem carryOne_kept {cls : Nat} {src : W32} {ctx : Nat} {dest : Nat} {s : State} (hs : KSt w0 s) : KSt w0 (carryOne cls src ctx dest s) := by
  unfold carryOne
  repeat' first
    | with_reducible assumption
    | with_reducible intro _
    | with_reducible apply carry_kept
    | with_reducible apply KSt.ite
    | with_reducible apply KFst.mk
    | with_reducible apply KFst.ite
    | with_reducible refine KFst.of_eq (by assumption) ?_
    | with_reducible refine KOpt.of_eq (by assumption) ?_
    | with_reducible refine KFst.fst ?_
    | fail_if_no_progress (with_reducible apply KSt.mk'; on_goal 2 => rfl)
    | split
    | (dsimp only; split)

theorem faultNotice_kept {x : Notice} {s : State} (hs : KSt w0 s) : KSt w0 (faultNotice x s) := by
  unfold faultNotice
  repeat' first
    | with_reducible assumption
    | with_reducible intro _
    | with_reducible apply KSt.ite
    | with_reducible refine KFst.of_eq (by assumption) ?_
    | with_reducible refine KOpt.of_eq (by assumption) ?_
    | with_reducible refine KFst.fst ?_
    | fail_if_no_progress (with_reducible apply KSt.mk'; on_goal 2 => rfl)
    | split
    | (dsimp only; split)

end Sys2Proof.Machine
end

