-- ==== Sys2Proof/Laws/KeptLinks.lean ====
section
/-! SUPPORT. What the operations of Machine/Links.lean keep. -/

namespace Sys2Proof.Machine

variable {w0 : List Instr}

theorem setSlink_kept {s : State} {p : Nat} {x : SlinkPort} (hs0 : KSt w0 s) : KSt w0 (setSlink s p x) := by
  unfold setSlink
  repeat' first
    | with_reducible assumption
    | with_reducible intro _
    | with_reducible apply KSt.ite
    | with_reducible apply KSt.foldl
    | with_reducible apply KSt.fst_ite
    | with_reducible apply KSt.id
    | with_reducible refine KFst.of_eq (by assumption) ?_
    | fail_if_no_progress (with_reducible apply KSt.mk'; on_goal 2 => rfl)

theorem setPat_kept {s : State} {die : Nat} {g : Nat} {x : PatGroup} (hs0 : KSt w0 s) : KSt w0 (setPat s die g x) := by
  unfold setPat
  repeat' first
    | with_reducible assumption
    | fail_if_no_progress (with_reducible apply KSt.mk'; on_goal 2 => rfl)

theorem sendFlit_kept {p : Nat} {f : LinkFlit} {s : State} (hs : KSt w0 s) : KSt w0 (sendFlit p f s) := by
  unfold sendFlit
  repeat' first
    | with_reducible assumption
    | with_reducible intro _
    | with_reducible apply setSlink_kept
    | with_reducible apply KSt.ite
    | with_reducible refine KFst.of_eq (by assumption) ?_
    | with_reducible refine KOpt.of_eq (by assumption) ?_
    | with_reducible refine KFst.fst ?_
    | fail_if_no_progress (with_reducible apply KSt.mk'; on_goal 2 => rfl)
    | split
    | (dsimp only; split)

theorem linkSend_kept {p : Nat} {k : Packet} {s : State} (hs : KSt w0 s) : KSt w0 (linkSend p k s) := by
  unfold linkSend
  repeat' first
    | with_reducible assumption
    | with_reducible intro _
    | with_reducible apply sendFlit_kept
    | with_reducible apply handover_kept
    | with_reducible apply setSlink_kept
    | with_reducible apply countStray_kept
    | with_reducible apply KSt.ite
    | with_reducible apply KSt.foldl
    | with_reducible apply KFst.foldl
    | with_reducible refine KFst.of_eq (by assumption) ?_
    | with_reducible refine KOpt.of_eq (by assumption) ?_
    | with_reducible refine KFst.fst ?_
    | fail_if_no_progress (with_reducible apply KSt.mk'; on_goal 2 => rfl)
    | split
    | (dsimp only; split)

theorem sendAway_kept {d : Nat} {r : Nat} {k : Packet} {s : State} (hs : KSt w0 s) : KSt w0 (sendAway d r k s) := by
  unfold sendAway
  repeat' first
    | with_reducible assumption
    | with_reducible intro _
    | with_reducible apply linkSend_kept
    | with_reducible apply carry_kept
    | with_reducible apply countStray_kept
    | with_reducible apply KSt.ite
    | with_reducible refine KFst.of_eq (by assumption) ?_
    | with_reducible refine KOpt.of_eq (by assumption) ?_
    | with_reducible refine KFst.fst ?_
    | fail_if_no_progress (with_reducible apply KSt.mk'; on_goal 2 => rfl)
    | split
    | (dsimp only; split)

theorem replyTo_kept {d : Nat} {r : Nat} {h : PacketHeader} {cls : BitVec 4} {status : W16} {retry : Bool} {l : Bytes} {s : State} (hs : KSt w0 s) : KSt w0 (replyTo d r h cls status retry l s) := by
  unfold replyTo
  repeat' first
    | with_reducible assumption
    | with_reducible intro _
    | with_reducible apply sendAway_kept
    | with_reducible apply KSt.ite
    | with_reducible refine KFst.of_eq (by assumption) ?_
    | with_reducible refine KOpt.of_eq (by assumption) ?_
    | with_reducible refine KFst.fst ?_
    | fail_if_no_progress (with_reducible apply KSt.mk'; on_goal 2 => rfl)
    | split
    | (dsimp only; split)

theorem sendAccess_kept {src : W32} {ctx : Nat} {write : Bool} {a : Nat} {n : Nat} {l : Bytes} {s : State} (hs : KSt w0 s) : KSt w0 (sendAccess src ctx write a n l s) := by
  unfold sendAccess
  repeat' first
    | with_reducible assumption
    | with_reducible intro _
    | with_reducible apply linkSend_kept
    | with_reducible apply KSt.ite
    | with_reducible apply KFst.mk
    | with_reducible apply KFst.ite
    | with_reducible apply KSt.foldl
    | with_reducible apply KFst.foldl
    | with_reducible refine KFst.of_eq (by assumption) ?_
    | with_reducible refine KOpt.of_eq (by assumption) ?_
    | with_reducible refine KFst.fst ?_
    | fail_if_no_progress (with_reducible apply KSt.mk'; on_goal 2 => rfl)
    | split
    | (dsimp only; split)

theorem startTraining_kept {p : Nat} {s : State} (hs : KSt w0 s) : KSt w0 (startTraining p s) := by
  unfold startTraining
  repeat' first
    | with_reducible assumption
    | with_reducible intro _
    | with_reducible apply setSlink_kept
    | with_reducible apply laneLock_kept
    | with_reducible apply KSt.ite
    | with_reducible refine KFst.of_eq (by assumption) ?_
    | with_reducible refine KOpt.of_eq (by assumption) ?_
    | with_reducible refine KFst.fst ?_
    | fail_if_no_progress (with_reducible apply KSt.mk'; on_goal 2 => rfl)
    | split
    | (dsimp only; split)

theorem bringUp_kept {p : Nat} {s : State} (hs : KSt w0 s) : KSt w0 (bringUp p s) := by
  unfold bringUp
  repeat' first
    | with_reducible assumption
    | with_reducible intro _
    | with_reducible apply startTraining_kept
    | with_reducible apply setSlink_kept
    | with_reducible apply KSt.ite
    | with_reducible refine KFst.of_eq (by assumption) ?_
    | with_reducible refine KOpt.of_eq (by assumption) ?_
    | with_reducible refine KFst.fst ?_
    | fail_if_no_progress (with_reducible apply KSt.mk'; on_goal 2 => rfl)
    | split
    | (dsimp only; split)

theorem leaveUp_kept {p : Nat} {s : State} (hs : KSt w0 s) : KSt w0 (leaveUp p s) := by
  unfold leaveUp
  repeat' first
    | with_reducible assumption
    | with_reducible intro _
    | with_reducible apply sendFlit_kept
    | with_reducible apply setSlink_kept
    | with_reducible apply handover_kept
    | with_reducible apply laneLock_kept
    | with_reducible apply KSt.ite
    | with_reducible refine KFst.of_eq (by assumption) ?_
    | with_reducible refine KOpt.of_eq (by assumption) ?_
    | with_reducible refine KFst.fst ?_
    | fail_if_no_progress (with_reducible apply KSt.mk'; on_goal 2 => rfl)
    | split
    | (dsimp only; split)

theorem signalOn_kept {src : W32} {a : Nat} {add : Bool} {v : W64} {o : Origin} {ctx code : W16} {fence port : Option Nat} {s : State} (hs : KSt w0 s) : KSt w0 (signalOn src a add v o ctx s code fence port) := by
  unfold signalOn
  repeat' first
    | with_reducible assumption
    | with_reducible intro _
    | with_reducible apply faultCtx_kept
    | with_reducible apply faultNotice_kept
    | with_reducible apply countStray_kept
    | with_reducible apply pushSignal_kept
    | with_reducible apply carryOne_kept
    | with_reducible apply linkSend_kept
    | with_reducible apply KSt.ite
    | with_reducible apply KFst.mk
    | with_reducible apply KFst.ite
    | with_reducible refine KFst.of_eq (by assumption) ?_
    | with_reducible refine KOpt.of_eq (by assumption) ?_
    | with_reducible refine KFst.fst ?_
    | with_reducible apply KOpt.getD
    | fail_if_no_progress (with_reducible apply KSt.mk'; on_goal 2 => rfl)
    | split
    | (dsimp only; split)

theorem routeSignal_kept {src : W32} {a : Nat} {add : Bool} {v : W64} {o : Origin} {ctx : W16} {s : State} (hs : KSt w0 s) :
    KSt w0 (routeSignal src a add v o ctx s) := signalOn_kept hs

theorem sendSignal_kept {src : W32} {a : Nat} {add : Bool} {v : W64} {o : Origin} {ctx : W16} {s : State} (hs : KSt w0 s) : KSt w0 (sendSignal src a add v o ctx s) := by
  unfold sendSignal
  repeat' first
    | with_reducible assumption
    | with_reducible intro _
    | with_reducible apply pushSignal_kept
    | with_reducible apply routeSignal_kept
    | with_reducible apply KSt.ite
    | with_reducible refine KFst.of_eq (by assumption) ?_
    | with_reducible refine KOpt.of_eq (by assumption) ?_
    | with_reducible refine KFst.fst ?_
    | fail_if_no_progress (with_reducible apply KSt.mk'; on_goal 2 => rfl)
    | split
    | (dsimp only; split)

theorem releaseHeld_kept {s : State} (hs : KSt w0 s) : KSt w0 (releaseHeld s) := by
  unfold releaseHeld
  repeat' first
    | with_reducible assumption
    | with_reducible intro _
    | with_reducible apply sendSignal_kept
    | with_reducible apply KSt.ite
    | with_reducible apply KSt.foldl
    | with_reducible apply KFst.foldl
    | with_reducible refine KFst.of_eq (by assumption) ?_
    | with_reducible refine KOpt.of_eq (by assumption) ?_
    | with_reducible refine KFst.fst ?_
    | fail_if_no_progress (with_reducible apply KSt.mk'; on_goal 2 => rfl)
    | split
    | (dsimp only; split)

theorem applyInstall_kept {d : Nat} {s : State} (hs : KSt w0 s) : KSt w0 (applyInstall d s) := by
  unfold applyInstall
  repeat' first
    | with_reducible assumption
    | with_reducible intro _
    | with_reducible apply setBlock_kept
    | with_reducible apply KSt.ite
    | with_reducible apply KFst.mk
    | with_reducible apply KFst.ite
    | with_reducible apply KSt.id
    | with_reducible refine KFst.of_eq (by assumption) ?_
    | with_reducible refine KOpt.of_eq (by assumption) ?_
    | with_reducible refine KFst.fst ?_
    | fail_if_no_progress (with_reducible apply KSt.mk'; on_goal 2 => rfl)
    | split
    | (dsimp only; split)

theorem nextSwitch_kept {n : Nat} {s : State} (hs : KSt w0 s) : KSt w0 (nextSwitch n s) := by
  induction n generalizing s with
  | zero => exact hs
  | succ n ih =>
    unfold nextSwitch
    split
    · exact KSt.mk' hs rfl
    · next x l _ =>
      have h : KSt w0 { s with net := { s.net with switching := some x, waiting := l } } := KSt.mk' hs rfl
      exact KSt.ite (fun _ => ih (applyInstall_kept h)) (fun _ => h)

theorem keeperRoutes_kept {d : Nat} {l : Tbl W32} {s : State} (hs : KSt w0 s) : KSt w0 (keeperRoutes d l s) := by
  unfold keeperRoutes
  repeat' first
    | with_reducible assumption
    | with_reducible intro _
    | with_reducible apply nextSwitch_kept
    | with_reducible apply KSt.ite
    | with_reducible apply KFst.mk
    | with_reducible apply KFst.ite
    | with_reducible apply KSt.foldl
    | with_reducible apply KFst.foldl
    | with_reducible apply KSt.id
    | with_reducible refine KFst.of_eq (by assumption) ?_
    | with_reducible refine KOpt.of_eq (by assumption) ?_
    | with_reducible refine KFst.fst ?_
    | fail_if_no_progress (with_reducible apply KSt.mk'; on_goal 2 => rfl)
    | split
    | (dsimp only; split)

end Sys2Proof.Machine
end

