-- ==== Sys2Proof/Laws/KeptRecover.lean ====
section
/-! SUPPORT. What the operations of Machine/Recover.lean keep. -/

namespace Sys2Proof.Machine

variable {w0 : List Instr}

theorem setCell_kept {s : State} {d : Nat} {c : Nat} {x : Cell} (hs0 : KSt w0 s) : KSt w0 (setCell s d c x) := by
  unfold setCell
  repeat' first
    | with_reducible assumption
    | with_reducible intro _
    | with_reducible apply KSt.ite
    | with_reducible apply KSt.foldl
    | with_reducible apply KSt.fst_ite
    | with_reducible apply KSt.id
    | with_reducible refine KFst.of_eq (by assumption) ?_
    | fail_if_no_progress (with_reducible apply KSt.mk'; on_goal 2 => rfl)

theorem setColl_kept {s : State} {n : Nat} {x : CollSlot} (hs0 : KSt w0 s) : KSt w0 (setColl s n x) := by
  unfold setColl
  repeat' first
    | with_reducible assumption
    | with_reducible intro _
    | with_reducible apply KSt.ite
    | with_reducible apply KSt.foldl
    | with_reducible apply KSt.fst_ite
    | with_reducible apply KSt.id
    | with_reducible refine KFst.of_eq (by assumption) ?_
    | fail_if_no_progress (with_reducible apply KSt.mk'; on_goal 2 => rfl)

theorem setRegion_kept {s : State} {k : Nat} {x : Region} (hs0 : KSt w0 s) : KSt w0 (setRegion s k x) := by
  unfold setRegion
  repeat' first
    | with_reducible assumption
    | with_reducible intro _
    | with_reducible apply KSt.ite
    | with_reducible apply KSt.foldl
    | with_reducible apply KSt.fst_ite
    | with_reducible apply KSt.id
    | with_reducible refine KFst.of_eq (by assumption) ?_
    | fail_if_no_progress (with_reducible apply KSt.mk'; on_goal 2 => rfl)

theorem collFailWith_kept {n : Nat} {code : W16} {missed : W16} {s : State} (hs0 : KSt w0 s) : KSt w0 (collFailWith n code missed s) := by
  unfold collFailWith
  repeat' first
    | with_reducible assumption
    | with_reducible intro _
    | with_reducible apply setColl_kept
    | with_reducible apply poison_kept
    | with_reducible apply KSt.ite
    | with_reducible apply KSt.foldl
    | with_reducible apply KSt.fst_ite
    | with_reducible apply KSt.id
    | with_reducible refine KFst.of_eq (by assumption) ?_
    | fail_if_no_progress (with_reducible apply KSt.mk'; on_goal 2 => rfl)
    | split

theorem collFail_kept {n : Nat} {code : W16} {s : State} (hs0 : KSt w0 s) : KSt w0 (collFail n code s) := by
  unfold collFail
  repeat' first
    | with_reducible assumption
    | with_reducible intro _
    | with_reducible apply collFailWith_kept

theorem inputStore_kept {n : Nat} {off : Nat} {l : Bytes} {s : State} (hs0 : KSt w0 s) : KSt w0 (inputStore n off l s) := by
  unfold inputStore
  repeat' first
    | with_reducible assumption
    | with_reducible intro _
    | with_reducible apply collFail_kept
    | with_reducible apply setColl_kept
    | with_reducible apply KSt.ite
    | with_reducible apply KSt.foldl

theorem writeMem_kept {a : Nat} {l : Bytes} {s : State} (hs0 : KSt w0 s) : KSt w0 (writeMem a l s) := by
  unfold writeMem
  repeat' first
    | with_reducible assumption
    | with_reducible intro _
    | with_reducible apply inputStore_kept
    | with_reducible apply memWrite_kept
    | with_reducible apply KSt.ite
    | with_reducible apply KSt.foldl
    | with_reducible apply KSt.fst_ite
    | with_reducible apply KSt.id
    | with_reducible refine KFst.of_eq (by assumption) ?_
    | fail_if_no_progress (with_reducible apply KSt.mk'; on_goal 2 => rfl)
    | split

theorem clearUnits_kept {id : Nat} {s : State} (hs0 : KSt w0 s) : KSt w0 (clearUnits id s) := by
  unfold clearUnits
  repeat' first
    | with_reducible assumption
    | with_reducible intro _
    | with_reducible apply KSt.ite
    | with_reducible apply KSt.foldl
    | with_reducible apply KSt.fst_ite
    | with_reducible apply KSt.id
    | with_reducible refine KFst.of_eq (by assumption) ?_
    | fail_if_no_progress (with_reducible apply KSt.mk'; on_goal 2 => rfl)

theorem clearSlots_kept {id : Nat} {code : W16} {s : State} (hs0 : KSt w0 s) : KSt w0 (clearSlots id code s) := by
  unfold clearSlots
  repeat' first
    | with_reducible assumption
    | with_reducible intro _
    | with_reducible apply collFail_kept
    | with_reducible apply setColl_kept
    | with_reducible apply KSt.ite
    | with_reducible apply KSt.foldl

theorem killSignals_kept {id : Nat} {s : State} (hs : KSt w0 s) : KSt w0 (killSignals id s) := by
  unfold killSignals
  repeat' first
    | with_reducible assumption
    | with_reducible intro _
    | with_reducible apply countStray_kept
    | with_reducible apply KSt.ite
    | with_reducible apply KSt.id
    | with_reducible refine KFst.of_eq (by assumption) ?_
    | with_reducible refine KOpt.of_eq (by assumption) ?_
    | with_reducible refine KFst.fst ?_
    | fail_if_no_progress (with_reducible apply KSt.mk'; on_goal 2 => rfl)
    | split
    | (dsimp only; split)

theorem poisonCtx_kept {id : Nat} {code : W16} {s : State} (hs0 : KSt w0 s) : KSt w0 (poisonCtx id code s) := by
  unfold poisonCtx
  repeat' first
    | with_reducible assumption
    | with_reducible intro _
    | with_reducible apply poison_kept
    | with_reducible apply KSt.ite
    | with_reducible apply KSt.foldl

theorem freeQueue_kept {q : Nat} {s : State} (hs0 : KSt w0 s) : KSt w0 (freeQueue q s) := by
  unfold freeQueue
  repeat' first
    | with_reducible assumption
    | with_reducible intro _
    | with_reducible apply setQueue_kept
    | with_reducible apply setMot_kept
    | with_reducible apply finishCmd_kept
    | with_reducible apply KSt.ite
    | with_reducible apply KSt.foldl
    | with_reducible apply KSt.fst_ite
    | with_reducible apply KSt.id
    | with_reducible refine KFst.of_eq (by assumption) ?_
    | fail_if_no_progress (with_reducible apply KSt.mk'; on_goal 2 => rfl)
    | split
    | (dsimp only; split)

theorem resetQueue_kept {s : State} {q : Nat} (hs0 : KSt w0 s) : KSt w0 (resetQueue s q) := by
  unfold resetQueue
  repeat' first
    | with_reducible assumption
    | with_reducible intro _
    | with_reducible apply setQueue_kept
    | with_reducible apply freeQueue_kept
    | with_reducible apply KSt.ite

theorem unwatch_kept {x : Slot} {s : State} (hs0 : KSt w0 s) : KSt w0 (unwatch x s) := by
  unfold unwatch
  repeat' first
    | with_reducible assumption
    | with_reducible intro _
    | with_reducible apply setMot_kept
    | with_reducible apply KSt.ite
    | with_reducible apply KSt.foldl
    | with_reducible apply KSt.fst_ite
    | with_reducible apply KSt.id
    | with_reducible refine KFst.of_eq (by assumption) ?_
    | fail_if_no_progress (with_reducible apply KSt.mk'; on_goal 2 => rfl)
    | split

theorem finishRevoke_kept {m : Nat} {s : State} (hs : KSt w0 s) : KSt w0 (finishRevoke m s) := by
  unfold finishRevoke
  repeat' first
    | with_reducible assumption
    | with_reducible intro _
    | with_reducible apply setMbx_kept
    | with_reducible apply finishCmd_kept
    | with_reducible apply KSt.ite
    | with_reducible refine KFst.of_eq (by assumption) ?_
    | with_reducible refine KOpt.of_eq (by assumption) ?_
    | with_reducible refine KFst.fst ?_
    | fail_if_no_progress (with_reducible apply KSt.mk'; on_goal 2 => rfl)
    | split
    | (dsimp only; split)

theorem destroyCtx_kept {c : Nat} {s : State} (hs0 : KSt w0 s) : KSt w0 (destroyCtx c s) := by
  unfold destroyCtx
  repeat' first
    | with_reducible assumption
    | with_reducible intro _
    | with_reducible apply clearUnits_kept
    | with_reducible apply clearSlots_kept
    | with_reducible apply killSignals_kept
    | with_reducible apply poison_kept
    | with_reducible apply freeQueue_kept
    | with_reducible apply setSlot_kept
    | with_reducible apply unwatch_kept
    | with_reducible apply freeMot_kept
    | with_reducible apply finishCmd_kept
    | with_reducible apply setCtx_kept
    | with_reducible apply finishRevoke_kept
    | with_reducible apply KSt.ite
    | with_reducible apply KSt.foldl

theorem contextReset_kept {c : Nat} {s : State} (hs : KSt w0 s) : KSt w0 (contextReset c s) := by
  unfold contextReset
  repeat' first
    | with_reducible assumption
    | with_reducible intro _
    | with_reducible apply destroyCtx_kept
    | with_reducible apply killSignals_kept
    | with_reducible apply clearUnits_kept
    | with_reducible apply clearSlots_kept
    | with_reducible apply poisonCtx_kept
    | with_reducible apply resetQueue_kept
    | with_reducible apply recordOf_kept
    | with_reducible apply lifeCount_kept
    | with_reducible apply setCtx_kept
    | with_reducible apply sendMaker_kept
    | with_reducible apply finishCmd_kept
    | with_reducible apply KSt.ite
    | with_reducible apply KFst.mk
    | with_reducible apply KFst.ite
    | with_reducible apply KAns.ite
    | with_reducible apply KAns.hold
    | with_reducible apply KAns.reject
    | with_reducible apply KAns.okay
    | with_reducible apply KAns.done
    | with_reducible apply KAns.keep
    | with_reducible apply KAns.wait
    | with_reducible apply KSt.foldl
    | with_reducible apply KFst.foldl
    | with_reducible apply KSt.id
    | with_reducible refine KFst.of_eq (by assumption) ?_
    | with_reducible refine KOpt.of_eq (by assumption) ?_
    | with_reducible refine KFst.fst ?_
    | fail_if_no_progress (with_reducible apply KSt.mk'; on_goal 2 => rfl)
    | split
    | (dsimp only; split)

theorem execContextReset_kept {c : Nat} {s : State} (hs0 : KSt w0 s) : KOut w0 (execContextReset c s) := by
  unfold execContextReset
  repeat' first
    | with_reducible assumption
    | with_reducible intro _
    | with_reducible apply contextReset_kept
    | with_reducible apply KOut.inRange

theorem dieCollFail_kept {d : Nat} {s : State} (hs0 : KSt w0 s) : KSt w0 (dieCollFail d s) := by
  unfold dieCollFail
  repeat' first
    | with_reducible assumption
    | with_reducible intro _
    | with_reducible apply collFail_kept
    | with_reducible apply KSt.ite
    | with_reducible apply KSt.foldl

theorem startRecovery_kept {d : Nat} {first : Option W16} {cmds : List CmdRef} {s : State} (hs0 : KSt w0 s) : KSt w0 (startRecovery d first cmds s) := by
  unfold startRecovery
  repeat' first
    | with_reducible assumption
    | with_reducible intro _
    | with_reducible apply leaveUp_kept
    | with_reducible apply dieCollFail_kept
    | with_reducible apply faultCtx_kept
    | with_reducible apply KSt.ite
    | with_reducible apply KSt.foldl
    | with_reducible apply KSt.fst_ite
    | with_reducible apply KSt.id
    | with_reducible refine KFst.of_eq (by assumption) ?_
    | fail_if_no_progress (with_reducible apply KSt.mk'; on_goal 2 => rfl)
    | split

theorem execContextResetDrainTimeout_kept {c : Nat} {die : Nat} {s : State} (hs0 : KSt w0 s) : KOut w0 (execContextResetDrainTimeout c die s) := by
  unfold execContextResetDrainTimeout
  repeat' first
    | with_reducible assumption
    | with_reducible intro _
    | with_reducible apply startRecovery_kept
    | with_reducible apply KOut.inRange
    | with_reducible apply KSt.ite

theorem blankFrame_kept {s : State} (hs0 : KSt w0 s) : KSt w0 (blankFrame s) := by
  unfold blankFrame
  repeat' first
    | with_reducible assumption
    | with_reducible intro _
    | with_reducible apply KSt.ite
    | with_reducible apply KSt.foldl
    | with_reducible apply KSt.fst_ite
    | with_reducible apply KSt.id
    | with_reducible refine KFst.of_eq (by assumption) ?_
    | fail_if_no_progress (with_reducible apply KSt.mk'; on_goal 2 => rfl)

theorem clearDie_kept {d : Nat} {s : State} (hs0 : KSt w0 s) : KSt w0 (clearDie d s) := by
  unfold clearDie
  repeat' first
    | with_reducible assumption
    | with_reducible intro _
    | with_reducible apply KSt.ite
    | with_reducible apply KSt.foldl
    | with_reducible apply KSt.fst_ite
    | with_reducible apply KSt.id
    | with_reducible refine KFst.of_eq (by assumption) ?_
    | fail_if_no_progress (with_reducible apply KSt.mk'; on_goal 2 => rfl)

theorem loseContent_kept {d : Nat} {s : State} (hs0 : KSt w0 s) : KSt w0 (loseContent d s) := by
  unfold loseContent
  repeat' first
    | with_reducible assumption
    | with_reducible intro _
    | with_reducible apply KSt.ite
    | with_reducible apply KSt.foldl
    | with_reducible apply KSt.fst_ite
    | with_reducible apply KSt.id
    | with_reducible refine KFst.of_eq (by assumption) ?_
    | with_reducible refine KSt.mem ?_ (KSt.wf_filters (by assumption)) rfl

theorem badParcel_kept {d : Nat} {s : State} {p : Nat} (hs0 : KSt w0 s) : KSt w0 (badParcel d s p) := by
  unfold badParcel
  repeat' first
    | with_reducible assumption
    | with_reducible intro _
    | with_reducible apply recordCounted_kept
    | with_reducible apply KSt.ite
    | with_reducible apply KSt.foldl
    | with_reducible apply KSt.fst_ite
    | with_reducible apply KSt.id
    | with_reducible refine KFst.of_eq (by assumption) ?_
    | with_reducible refine KSt.mem ?_ (KSt.wf_bad (by assumption)) rfl

theorem dieRecovery_kept {d : Nat} {refreshOk : Bool} {failing : List Nat} {s : State} (hs0 : KSt w0 s) : KSt w0 (dieRecovery d refreshOk failing s) := by
  unfold dieRecovery
  repeat' first
    | with_reducible assumption
    | with_reducible intro _
    | with_reducible apply clearDie_kept
    | with_reducible apply loseContent_kept
    | with_reducible apply badParcel_kept
    | with_reducible apply blankFrame_kept
    | with_reducible apply recordCounted_kept
    | with_reducible apply lifeCount_kept
    | with_reducible apply bringUp_kept
    | with_reducible apply sendOwner_kept
    | with_reducible apply finishCmd_kept
    | with_reducible apply KSt.ite
    | with_reducible apply KSt.foldl
    | with_reducible apply KSt.fst_ite
    | with_reducible apply KSt.id
    | with_reducible refine KFst.of_eq (by assumption) ?_
    | fail_if_no_progress (with_reducible apply KSt.mk'; on_goal 2 => rfl)

theorem lpddrCheckFail_kept {src : W32} {ctx : W16} {addr : BitVec 48} {secondOk : Bool} {s : State} (hs0 : KSt w0 s) : KSt w0 (lpddrCheckFail src ctx addr secondOk s) := by
  unfold lpddrCheckFail
  repeat' first
    | with_reducible assumption
    | with_reducible intro _
    | with_reducible apply recordCounted_kept
    | with_reducible apply faultCtx_kept
    | with_reducible apply KSt.ite
    | with_reducible apply KSt.foldl
    | with_reducible apply KSt.fst_ite
    | with_reducible apply KSt.id
    | with_reducible refine KFst.of_eq (by assumption) ?_
    | with_reducible refine KSt.mem ?_ (KSt.wf_bad (by assumption)) rfl

theorem execLpddrCheckFail_kept {src : W32} {ctx : W16} {addr : BitVec 48} {secondOk : Bool} {s : State} (hs0 : KSt w0 s) : KOut w0 (execLpddrCheckFail src ctx addr secondOk s) := by
  unfold execLpddrCheckFail
  repeat' first
    | with_reducible assumption
    | with_reducible intro _
    | with_reducible apply lpddrCheckFail_kept
    | with_reducible apply KOut.inRange

theorem residueMismatch_kept {unitKind : Nat} {die : Nat} {inst : Nat} {expected : Byte} {found : Byte} {s : State} (hs0 : KSt w0 s) : KSt w0 (residueMismatch unitKind die inst expected found s) := by
  unfold residueMismatch
  repeat' first
    | with_reducible assumption
    | with_reducible intro _
    | with_reducible apply faultCtx_kept
    | with_reducible apply collFail_kept
    | with_reducible apply KSt.ite
    | with_reducible apply KSt.foldl
    | with_reducible apply KSt.fst_ite
    | with_reducible apply KSt.id
    | with_reducible refine KFst.of_eq (by assumption) ?_
    | fail_if_no_progress (with_reducible apply KSt.mk'; on_goal 2 => rfl)
    | split

theorem execResidueMismatch_kept {unitKind : Nat} {die : Nat} {inst : Nat} {expected : Byte} {found : Byte} {s : State} (hs0 : KSt w0 s) : KOut w0 (execResidueMismatch unitKind die inst expected found s) := by
  unfold execResidueMismatch
  repeat' first
    | with_reducible assumption
    | with_reducible intro _
    | with_reducible apply residueMismatch_kept
    | with_reducible apply KOut.inRange

theorem hangQueue_kept {s : State} {q : Nat} (hs0 : KSt w0 s) : KSt w0 (hangQueue s q) := by
  unfold hangQueue
  repeat' first
    | with_reducible assumption
    | with_reducible intro _
    | with_reducible apply faultCtx_kept
    | with_reducible apply KSt.ite
    | with_reducible apply KSt.foldl
    | with_reducible apply KSt.fst_ite
    | with_reducible apply KSt.id
    | with_reducible refine KFst.of_eq (by assumption) ?_
    | fail_if_no_progress (with_reducible apply KSt.mk'; on_goal 2 => rfl)
    | split
    | (dsimp only; split)

theorem hangSlot_kept {s : State} {n : Nat} (hs0 : KSt w0 s) : KSt w0 (hangSlot s n) := by
  unfold hangSlot
  repeat' first
    | with_reducible assumption
    | with_reducible intro _
    | with_reducible apply faultCtx_kept
    | with_reducible apply KSt.ite
    | with_reducible apply KSt.foldl
    | with_reducible apply KSt.fst_ite
    | with_reducible apply KSt.id
    | with_reducible refine KFst.of_eq (by assumption) ?_
    | fail_if_no_progress (with_reducible apply KSt.mk'; on_goal 2 => rfl)
    | split
    | (dsimp only; split)

theorem execHangDetect_kept {s : State} (hs0 : KSt w0 s) : KOut w0 (execHangDetect s) := by
  unfold execHangDetect
  repeat' first
    | with_reducible assumption
    | with_reducible intro _
    | with_reducible apply hangSlot_kept
    | with_reducible apply hangQueue_kept
    | with_reducible apply KOut.inRange
    | with_reducible apply KSt.ite
    | with_reducible apply KSt.foldl

theorem retireDie_kept {d : Nat} {s : State} (hs : KSt w0 s) : KSt w0 (retireDie d s) := by
  unfold retireDie
  repeat' first
    | with_reducible assumption
    | with_reducible intro _
    | with_reducible apply startRecovery_kept
    | with_reducible apply finishCmd_kept
    | with_reducible apply blankFrame_kept
    | with_reducible apply KSt.ite
    | with_reducible apply KSt.foldl
    | with_reducible apply KFst.foldl
    | with_reducible refine KFst.of_eq (by assumption) ?_
    | with_reducible refine KOpt.of_eq (by assumption) ?_
    | with_reducible refine KFst.fst ?_
    | with_reducible apply KOpt.getD
    | fail_if_no_progress (with_reducible apply KSt.mk'; on_goal 2 => rfl)
    | split
    | (dsimp only; split)

theorem ucieRetrain_kept {a : Nat} {b : Nat} {m : Nat} {s : State} (hs0 : KSt w0 s) : KSt w0 (ucieRetrain a b m s) := by
  unfold ucieRetrain
  repeat' first
    | with_reducible assumption
    | with_reducible intro _
    | with_reducible apply recordCounted_kept
    | with_reducible apply retireDie_kept
    | with_reducible apply KSt.ite

theorem execUcieRetrain_kept {dieA : Nat} {dieB : Nat} {modul : Nat} {s : State} (hs0 : KSt w0 s) : KOut w0 (execUcieRetrain dieA dieB modul s) := by
  unfold execUcieRetrain
  repeat' first
    | with_reducible assumption
    | with_reducible intro _
    | with_reducible apply ucieRetrain_kept
    | with_reducible apply KOut.inRange

end Sys2Proof.Machine
end

