-- ==== Sys2Proof/Laws/KeptFrameDie.lean ====
section
/-! SUPPORT. What the operations of Machine/FrameDie.lean keep. -/

namespace Sys2Proof.Machine

variable {w0 : List Instr}

theorem sendPackets_kept {r : Requester} {src : W32} {write : Bool} {a : Nat} {n : Nat} {l : Bytes} {c : W16} {s : State} (hs : KSt w0 s) : KSt w0 (sendPackets r src write a n l c s) := by
  unfold sendPackets
  repeat' first
    | with_reducible assumption
    | with_reducible intro _
    | with_reducible apply sendAccess_kept
    | with_reducible apply carryAccess_kept
    | with_reducible apply KSt.ite
    | with_reducible refine KFst.of_eq (by assumption) ?_
    | with_reducible refine KOpt.of_eq (by assumption) ?_
    | with_reducible refine KFst.fst ?_
    | fail_if_no_progress (with_reducible apply KSt.mk'; on_goal 2 => rfl)
    | split
    | (dsimp only; split)

theorem takeWrite_kept {r : Requester} {src : W32} {a : Nat} {l : Bytes} {s : State} (hs : KSt w0 s) : KFst w0 (takeWrite r src a l s) := by
  unfold takeWrite
  repeat' first
    | with_reducible assumption
    | with_reducible intro _
    | with_reducible apply refusedWrite_kept
    | with_reducible apply noticeDomain_kept
    | with_reducible apply failedRead_kept
    | with_reducible apply writeMem_kept
    | with_reducible apply KSt.ite
    | with_reducible apply KFst.ite
    | with_reducible apply KFst.mk
    | with_reducible apply KFst.ite
    | with_reducible refine KFst.of_eq (by assumption) ?_
    | with_reducible refine KOpt.of_eq (by assumption) ?_
    | with_reducible refine KFst.fst ?_
    | fail_if_no_progress (with_reducible apply KSt.mk'; on_goal 2 => rfl)
    | split
    | (dsimp only; split)

theorem unitWrite_kept {r : Requester} {src : W32} {a : Nat} {l : Bytes} {s : State} (hs : KSt w0 s) : KFst w0 (unitWrite r src a l s) := by
  unfold unitWrite
  repeat' first
    | with_reducible assumption
    | with_reducible intro _
    | with_reducible apply takeWrite_kept
    | with_reducible apply sendPackets_kept
    | with_reducible apply KSt.ite
    | with_reducible apply KFst.ite
    | with_reducible apply KFst.mk
    | with_reducible apply KFst.ite
    | with_reducible refine KFst.of_eq (by assumption) ?_
    | with_reducible refine KOpt.of_eq (by assumption) ?_
    | with_reducible refine KFst.fst ?_
    | fail_if_no_progress (with_reducible apply KSt.mk'; on_goal 2 => rfl)
    | split
    | (dsimp only; split)

theorem takeRead_kept {r : Requester} {a : Nat} {n : Nat} {s : State} (hs : KSt w0 s) : KFst w0 (takeRead r a n s) := by
  unfold takeRead
  repeat' first
    | with_reducible assumption
    | with_reducible intro _
    | with_reducible apply noticeDomain_kept
    | with_reducible apply KSt.ite
    | with_reducible apply KFst.ite
    | with_reducible apply KFst.mk
    | with_reducible apply KFst.ite
    | with_reducible refine KFst.of_eq (by assumption) ?_
    | with_reducible refine KOpt.of_eq (by assumption) ?_
    | with_reducible refine KFst.fst ?_
    | fail_if_no_progress (with_reducible apply KSt.mk'; on_goal 2 => rfl)
    | split
    | (dsimp only; split)

theorem unitRead_kept {r : Requester} {src : W32} {a : Nat} {n : Nat} {s : State} (hs : KSt w0 s) : KFst w0 (unitRead r src a n s) := by
  unfold unitRead
  repeat' first
    | with_reducible assumption
    | with_reducible intro _
    | with_reducible apply takeRead_kept
    | with_reducible apply sendPackets_kept
    | with_reducible apply KSt.ite
    | with_reducible apply KFst.ite
    | with_reducible apply KFst.mk
    | with_reducible apply KFst.ite
    | with_reducible refine KFst.of_eq (by assumption) ?_
    | with_reducible refine KOpt.of_eq (by assumption) ?_
    | with_reducible refine KFst.fst ?_
    | fail_if_no_progress (with_reducible apply KSt.mk'; on_goal 2 => rfl)
    | split
    | (dsimp only; split)

theorem tgtPresent_kept {k : Nat} {h : PacketHeader} {owner : TgtOwner} {write : Bool} {beats : BitVec 4} {data : Bytes} {s : State} (hs : KSt w0 s) : KSt w0 (tgtPresent k h owner write beats data s) := by
  unfold tgtPresent
  repeat' first
    | with_reducible assumption
    | with_reducible intro _
    | with_reducible apply setRegion_kept
    | with_reducible apply KSt.ite
    | with_reducible refine KFst.of_eq (by assumption) ?_
    | with_reducible refine KOpt.of_eq (by assumption) ?_
    | with_reducible refine KFst.fst ?_
    | fail_if_no_progress (with_reducible apply KSt.mk'; on_goal 2 => rfl)
    | split
    | (dsimp only; split)

theorem tgtRequest_kept {k : Nat} {h : PacketHeader} {write : Bool} {beats : BitVec 4} {data : Bytes} {s : State} (hs : KSt w0 s) : KSt w0 (tgtRequest k h write beats data s) := by
  unfold tgtRequest
  repeat' first
    | with_reducible assumption
    | with_reducible intro _
    | with_reducible apply tgtPresent_kept
    | with_reducible apply KSt.ite
    | with_reducible refine KFst.of_eq (by assumption) ?_
    | with_reducible refine KOpt.of_eq (by assumption) ?_
    | with_reducible refine KFst.fst ?_
    | fail_if_no_progress (with_reducible apply KSt.mk'; on_goal 2 => rfl)
    | split
    | (dsimp only; split)

theorem execTgtRequest_kept {k : Nat} {h : PacketHeader} {write : Bool} {beats : BitVec 4} {data : Bytes} {s : State} (hs0 : KSt w0 s) : KOut w0 (execTgtRequest k h write beats data s) := by
  unfold execTgtRequest
  repeat' first
    | with_reducible assumption
    | with_reducible apply tgtRequest_kept
    | with_reducible apply KOut.inRange

theorem windowStep_kept {k : Nat} {r : Requester} {src : W32} {owner : TgtOwner} {write : Bool} {a : Nat} {n : Nat} {l : Bytes} {j : WindowJob} {s : State} (hs : KSt w0 s) : KFst w0 (windowStep k r src owner write a n l j s) := by
  unfold windowStep
  repeat' first
    | with_reducible assumption
    | with_reducible intro _
    | with_reducible apply noticeDomain_kept
    | with_reducible apply tgtPresent_kept
    | with_reducible apply carryAccess_kept
    | with_reducible apply KSt.ite
    | with_reducible apply KFst.ite
    | with_reducible apply KFst.mk
    | with_reducible apply KFst.ite
    | with_reducible apply KAns.ite
    | with_reducible apply KAns.hold
    | with_reducible apply KAns.reject
    | with_reducible apply KAns.okay
    | with_reducible apply KAns.done
    | with_reducible apply KAns.keep
    | with_reducible apply KAns.wait
    | with_reducible refine KFst.of_eq (by assumption) ?_
    | with_reducible refine KOpt.of_eq (by assumption) ?_
    | with_reducible refine KFst.fst ?_
    | fail_if_no_progress (with_reducible apply KSt.mk'; on_goal 2 => rfl)
    | split
    | (dsimp only; split)

theorem portPut_kept {net : Bool} {k a : Nat} {l : Bytes} {s : State} (hs : KSt w0 s) : KFst w0 (portPut net k a l s) :=
  KFst.ite (fun _ => unitWrite_kept hs) (fun _ => takeWrite_kept hs)

theorem portDone_kept {k : Nat} {r : RegionRequest} {s : State} {p : State × W16} (hp : KFst w0 p) : KFst w0 (portDone k r s p) := by
  unfold portDone
  exact KFst.ite (fun _ => hp) (fun _ => KFst.mk (KSt.ite (fun _ => setRegion_kept hp) (fun _ => hp)))

theorem portRead_kept {k : Nat} {r : RegionRequest} {s : State} {p : State × W16 × Bytes × Bool} (hp : KFst w0 p) : KFst w0 (portRead k r s p) := by
  obtain ⟨t, c, d, ok⟩ := p
  unfold portRead
  dsimp only
  exact KFst.ite (fun _ => hp) (fun _ => KFst.mk (KSt.ite (fun _ => failedRead_kept hp) (fun _ => hp)))

theorem portPutAll_kept {net : Bool} {k : Nat} {r : RegionRequest} {s : State} (hs : KSt w0 s) : KFst w0 (portPutAll net k r s) := by
  unfold portPutAll
  dsimp only
  exact KFst.ite (fun _ => portPut_kept hs) (fun _ => KFst.foldl _ (fun _ _ h => KFst.ite (fun _ => portPut_kept h) (fun _ => h)) hs)

theorem portAccess_kept {net : Bool} {k : Nat} {r : RegionRequest} {s : State} (hs : KSt w0 s) : KFst w0 (portAccess net k r s) := by
  unfold portAccess
  dsimp only
  split
  · exact portRead_kept (KFst.ite (fun _ => unitRead_kept hs) (fun _ => takeRead_kept hs))
  · exact portDone_kept (portPutAll_kept hs)
  · exact KFst.ite (fun _ => hs) (fun _ => portDone_kept (portPut_kept hs))

theorem portSignalHere_kept {k : Nat} {r : RegionRequest} {sent s : State} {o : Option Nat} (ht : KSt w0 sent) (hs : KSt w0 s) :
    KFst w0 (portSignalHere k r sent s o) := by
  cases o with
  | none => exact violation_kept hs
  | some i => exact KFst.ite (fun _ => ht) (fun _ => violation_kept hs)

theorem portSignal_kept {k : Nat} {r : RegionRequest} {s : State} (hs : KSt w0 s) : KFst w0 (portSignal k r s) := by
  unfold portSignal
  dsimp only
  exact KFst.ite (fun _ => noticeDomain_kept hs) (fun _ => KFst.ite (fun _ => KFst.mk (KSt.ite (fun _ => sendSignal_kept hs) (fun _ => hs)))
    (fun _ => portSignalHere_kept (sendSignal_kept hs) hs))

theorem portWindow_kept {k : Nat} {j : Nat} {r : RegionRequest} {s : State} (hs : KSt w0 s) : KFst w0 (portWindow k j r s) := by
  unfold portWindow
  dsimp only
  exact KFst.ite (fun _ => hs) (fun _ => KFst.ite (fun _ => noticeDomain_kept hs) (fun _ => KFst.ite (fun _ => hs) (fun _ => tgtPresent_kept hs)))

theorem portParcel_kept {k : Nat} {r : RegionRequest} {s : State} {o : Option Nat} (hs : KSt w0 s) : KFst w0 (portParcel k r s o) := by
  cases o with
  | none => exact portAccess_kept hs
  | some i => exact portWindow_kept hs

theorem portEffect_kept {k : Nat} {r : RegionRequest} {s : State} (hs : KSt w0 s) : KFst w0 (portEffect k r s) := by
  unfold portEffect
  exact KFst.ite (fun _ => hs) (fun _ => KFst.ite (fun _ => portSignal_kept hs) (fun _ => portParcel_kept hs))

theorem regionPortRequest_kept {k : Nat} {r : RegionRequest} {s : State} (hs0 : KSt w0 s) : KSt w0 (regionPortRequest k r s) := by
  unfold regionPortRequest
  repeat' first
    | with_reducible assumption
    | with_reducible intro _
    | with_reducible apply setRegion_kept
    | with_reducible apply KSt.ite
    | with_reducible refine KFst.fst (portEffect_kept ?_)

theorem execRegionPortRequest_kept {k : Nat} {r : RegionRequest} {s : State} (hs0 : KSt w0 s) : KOut w0 (execRegionPortRequest k r s) := by
  unfold execRegionPortRequest
  repeat' first
    | with_reducible assumption
    | with_reducible apply regionPortRequest_kept
    | with_reducible apply KOut.inRange

theorem portAnswered_kept {k : Nat} {tag : BitVec 6} {f : PortPending → PortPending} {s : State} (hs : KSt w0 s) : KSt w0 (portAnswered k tag f s) := by
  unfold portAnswered
  repeat' first
    | with_reducible assumption
    | with_reducible intro _
    | with_reducible apply setRegion_kept
    | with_reducible apply KSt.ite
    | with_reducible refine KFst.of_eq (by assumption) ?_
    | with_reducible refine KOpt.of_eq (by assumption) ?_
    | with_reducible refine KFst.fst ?_
    | fail_if_no_progress (with_reducible apply KSt.mk'; on_goal 2 => rfl)
    | split
    | (dsimp only; split)

theorem portRespond_kept {k : Nat} {p : PortPending} {s : State} (hs : KSt w0 s) : KSt w0 (portRespond k p s) := by
  unfold portRespond
  repeat' first
    | with_reducible assumption
    | with_reducible intro _
    | with_reducible apply setRegion_kept
    | with_reducible apply KSt.ite
    | with_reducible refine KFst.of_eq (by assumption) ?_
    | with_reducible refine KOpt.of_eq (by assumption) ?_
    | with_reducible refine KFst.fst ?_
    | fail_if_no_progress (with_reducible apply KSt.mk'; on_goal 2 => rfl)
    | split
    | (dsimp only; split)

theorem regionPortResponse_kept {k : Nat} {tag : BitVec 6} {s : State} (hs : KSt w0 s) : KSt w0 (regionPortResponse k tag s) := by
  unfold regionPortResponse
  repeat' first
    | with_reducible assumption
    | with_reducible intro _
    | with_reducible apply portEffect_kept
    | with_reducible apply portAnswered_kept
    | with_reducible apply portRespond_kept
    | with_reducible apply KSt.ite
    | with_reducible refine KFst.of_eq (by assumption) ?_
    | with_reducible refine KOpt.of_eq (by assumption) ?_
    | with_reducible refine KFst.fst ?_
    | fail_if_no_progress (with_reducible apply KSt.mk'; on_goal 2 => rfl)
    | split
    | (dsimp only; split)

theorem execRegionPortResponse_kept {k : Nat} {tag : BitVec 6} {s : State} (hs0 : KSt w0 s) : KOut w0 (execRegionPortResponse k tag s) := by
  unfold execRegionPortResponse
  repeat' first
    | with_reducible assumption
    | with_reducible apply regionPortResponse_kept
    | with_reducible apply KOut.inRange

theorem tilePortAccess_kept {k : Nat} {row : Nat} {r : RegionRequest} {s : State} (hs : KSt w0 s) : KSt w0 (tilePortAccess k row r s) := by
  unfold tilePortAccess
  repeat' first
    | with_reducible assumption
    | with_reducible intro _
    | with_reducible apply setRegion_kept
    | with_reducible apply portAccess_kept
    | with_reducible apply KSt.ite
    | with_reducible refine KFst.of_eq (by assumption) ?_
    | with_reducible refine KOpt.of_eq (by assumption) ?_
    | with_reducible refine KFst.fst ?_
    | fail_if_no_progress (with_reducible apply KSt.mk'; on_goal 2 => rfl)
    | split
    | (dsimp only; split)

theorem execTilePortAccess_kept {k : Nat} {row : Nat} {r : RegionRequest} {s : State} (hs0 : KSt w0 s) : KOut w0 (execTilePortAccess k row r s) := by
  unfold execTilePortAccess
  repeat' first
    | with_reducible assumption
    | with_reducible apply tilePortAccess_kept
    | with_reducible apply KOut.inRange

theorem hostAnswered_kept {q : TgtPending} {status : W16} {l : Bytes} {s : State} (hs : KSt w0 s) : KSt w0 (hostAnswered q status l s) := by
  unfold hostAnswered
  repeat' first
    | with_reducible assumption
    | with_reducible intro _
    | with_reducible apply asSeen_kept
    | with_reducible apply KSt.ite
    | with_reducible refine KFst.of_eq (by assumption) ?_
    | with_reducible refine KOpt.of_eq (by assumption) ?_
    | with_reducible refine KFst.fst ?_
    | fail_if_no_progress (with_reducible apply KSt.mk'; on_goal 2 => rfl)
    | split
    | (dsimp only; split)

theorem tgtAnswered_kept {k : Nat} {q : TgtPending} {status : W16} {data : Bytes} {s : State} (hs : KSt w0 s) : KSt w0 (tgtAnswered k q status data s) := by
  unfold tgtAnswered
  repeat' first
    | with_reducible assumption
    | with_reducible intro _
    | with_reducible apply setRegion_kept
    | with_reducible apply replyTo_kept
    | with_reducible apply hostAnswered_kept
    | with_reducible apply portAnswered_kept
    | with_reducible apply setQueue_kept
    | with_reducible apply KSt.ite
    | with_reducible apply KFst.mk
    | with_reducible apply KFst.ite
    | with_reducible refine KFst.of_eq (by assumption) ?_
    | with_reducible refine KOpt.of_eq (by assumption) ?_
    | with_reducible refine KFst.fst ?_
    | fail_if_no_progress (with_reducible apply KSt.mk'; on_goal 2 => rfl)
    | split
    | (dsimp only; split)

theorem tgrAnswer_kept {k : Nat} {status : W16} {data : Bytes} {s : State} (hs : KSt w0 s) : KSt w0 (tgrAnswer k status data s) := by
  unfold tgrAnswer
  repeat' first
    | with_reducible assumption
    | with_reducible intro _
    | with_reducible apply setRegion_kept
    | with_reducible apply tgtAnswered_kept
    | with_reducible apply KSt.ite
    | with_reducible refine KFst.of_eq (by assumption) ?_
    | with_reducible refine KOpt.of_eq (by assumption) ?_
    | with_reducible refine KFst.fst ?_
    | fail_if_no_progress (with_reducible apply KSt.mk'; on_goal 2 => rfl)
    | split
    | (dsimp only; split)

theorem tgtTimeout_kept {k : Nat} {s : State} (hs : KSt w0 s) : KSt w0 (tgtTimeout k s) := by
  unfold tgtTimeout
  repeat' first
    | with_reducible assumption
    | with_reducible intro _
    | with_reducible apply tgtAnswered_kept
    | with_reducible apply setRegion_kept
    | with_reducible apply KSt.ite
    | with_reducible refine KFst.of_eq (by assumption) ?_
    | with_reducible refine KOpt.of_eq (by assumption) ?_
    | with_reducible refine KFst.fst ?_
    | fail_if_no_progress (with_reducible apply KSt.mk'; on_goal 2 => rfl)
    | split
    | (dsimp only; split)

theorem setChan_kept {s : State} {c : Nat} {x : Channel} (hs0 : KSt w0 s) : KSt w0 (setChan s c x) := by
  unfold setChan
  repeat' first
    | with_reducible assumption
    | fail_if_no_progress (with_reducible apply KSt.mk'; on_goal 2 => rfl)

theorem ingestWrite_kept {c : Nat} {off : Nat} {l : Bytes} {b : Nat} {s : State} (hs : KSt w0 s) : KSt w0 (ingestWrite c off l b s) := by
  unfold ingestWrite
  split
  · exact hs
  · next base _ =>
    have hm : KSt w0 { s with mem := { s.mem with bad := (parcelsOf (base + off) l.length).foldl (fun t p => Tbl.set false t p false) s.mem.bad } } :=
      KSt.mem hs (KSt.wf_bads _ _ hs) rfl
    exact sendPackets_kept (KSt.ite (fun _ => refusedWrite_kept hs) (fun _ => KSt.ite (fun _ => noticeDomain_kept hs) (fun _ => writeMem_kept hm)))

theorem completeBuffer_kept {c : Nat} {incomplete : Bool} {s : State} (hs : KSt w0 s) : KSt w0 (completeBuffer c incomplete s) := by
  unfold completeBuffer
  repeat' first
    | with_reducible assumption
    | with_reducible intro _
    | with_reducible apply ingestWrite_kept
    | with_reducible apply setChan_kept
    | with_reducible apply sendSignal_kept
    | with_reducible apply KSt.ite
    | with_reducible refine KFst.of_eq (by assumption) ?_
    | with_reducible refine KOpt.of_eq (by assumption) ?_
    | with_reducible refine KFst.fst ?_
    | fail_if_no_progress (with_reducible apply KSt.mk'; on_goal 2 => rfl)
    | split
    | (dsimp only; split)

theorem dropFrame_kept {c : Nat} {s : State} (hs0 : KSt w0 s) : KSt w0 (dropFrame c s) := by
  unfold dropFrame
  repeat' first
    | with_reducible assumption
    | with_reducible apply setChan_kept

theorem openBuffer_kept {c : Nat} {frameNo : W16} {vc : Nat} {s : State} (hs : KSt w0 s) : KSt w0 (openBuffer c frameNo vc s) := by
  unfold openBuffer
  repeat' first
    | with_reducible assumption
    | with_reducible intro _
    | with_reducible apply setChan_kept
    | with_reducible apply KSt.ite
    | with_reducible refine KFst.of_eq (by assumption) ?_
    | with_reducible refine KOpt.of_eq (by assumption) ?_
    | with_reducible refine KFst.fst ?_
    | fail_if_no_progress (with_reducible apply KSt.mk'; on_goal 2 => rfl)
    | split
    | (dsimp only; split)

theorem countOther_kept {c : Nat} {s : State} (hs0 : KSt w0 s) : KSt w0 (countOther c s) := by
  unfold countOther
  repeat' first
    | with_reducible assumption
    | with_reducible apply setChan_kept

theorem countBad_kept {c : Nat} {s : State} (hs0 : KSt w0 s) : KSt w0 (countBad c s) := by
  unfold countBad
  repeat' first
    | with_reducible assumption
    | with_reducible apply setChan_kept

theorem countEccFixed_kept {c : Nat} {s : State} (hs0 : KSt w0 s) : KSt w0 (countEccFixed c s) := by
  unfold countEccFixed
  repeat' first
    | with_reducible assumption
    | with_reducible apply setChan_kept

theorem frameStart_kept {c : Nat} {vc : BitVec 4} {frameNo : W16} {corrected : Bool} {s : State} (hs : KSt w0 s) : KSt w0 (frameStart c vc frameNo corrected s) := by
  unfold frameStart
  repeat' first
    | with_reducible assumption
    | with_reducible intro _
    | with_reducible apply countOther_kept
    | with_reducible apply completeBuffer_kept
    | with_reducible apply setChan_kept
    | with_reducible apply dropFrame_kept
    | with_reducible apply when_kept
    | with_reducible apply countEccFixed_kept
    | with_reducible apply openBuffer_kept
    | with_reducible apply KSt.ite
    | with_reducible refine KFst.of_eq (by assumption) ?_
    | with_reducible refine KOpt.of_eq (by assumption) ?_
    | with_reducible refine KFst.fst ?_
    | fail_if_no_progress (with_reducible apply KSt.mk'; on_goal 2 => rfl)
    | split
    | (dsimp only; split)

theorem execFrameStart_kept {c : Nat} {vc : BitVec 4} {frameNo : W16} {corrected : Bool} {s : State} (hs0 : KSt w0 s) : KOut w0 (execFrameStart c vc frameNo corrected s) := by
  unfold execFrameStart
  repeat' first
    | with_reducible assumption
    | with_reducible apply frameStart_kept
    | with_reducible apply KOut.inRange

theorem setTruncated_kept {c : Nat} {s : State} (hs0 : KSt w0 s) : KSt w0 (setTruncated c s) := by
  unfold setTruncated
  repeat' first
    | with_reducible assumption
    | with_reducible apply setChan_kept

theorem writeLine_kept {c : Nat} {p : CameraPacket} {b : OpenBuffer} {s : State} (hs : KSt w0 s) : KSt w0 (writeLine c p b s) := by
  unfold writeLine
  repeat' first
    | with_reducible assumption
    | with_reducible intro _
    | with_reducible apply setTruncated_kept
    | with_reducible apply ingestWrite_kept
    | with_reducible apply countBad_kept
    | with_reducible apply setChan_kept
    | with_reducible apply KSt.ite
    | with_reducible refine KFst.of_eq (by assumption) ?_
    | with_reducible refine KOpt.of_eq (by assumption) ?_
    | with_reducible refine KFst.fst ?_
    | with_reducible apply KOpt.getD
    | fail_if_no_progress (with_reducible apply KSt.mk'; on_goal 2 => rfl)
    | split
    | (dsimp only; split)

theorem streamLine_kept {c : Nat} {p : CameraPacket} {s : State} (hs : KSt w0 s) : KSt w0 (streamLine c p s) := by
  unfold streamLine
  repeat' first
    | with_reducible assumption
    | with_reducible intro _
    | with_reducible apply dropFrame_kept
    | with_reducible apply setChan_kept
    | with_reducible apply countBad_kept
    | with_reducible apply KSt.ite
    | with_reducible refine KFst.of_eq (by assumption) ?_
    | with_reducible refine KOpt.of_eq (by assumption) ?_
    | with_reducible refine KFst.fst ?_
    | fail_if_no_progress (with_reducible apply KSt.mk'; on_goal 2 => rfl)
    | split
    | (dsimp only; split)

theorem longPacket_kept {c : Nat} {p : CameraPacket} {s : State} (hs : KSt w0 s) : KSt w0 (longPacket c p s) := by
  unfold longPacket
  repeat' first
    | with_reducible assumption
    | with_reducible intro _
    | with_reducible apply countOther_kept
    | with_reducible apply countBad_kept
    | with_reducible apply when_kept
    | with_reducible apply countEccFixed_kept
    | with_reducible apply writeLine_kept
    | with_reducible apply streamLine_kept
    | with_reducible apply KSt.ite
    | with_reducible refine KFst.of_eq (by assumption) ?_
    | with_reducible refine KOpt.of_eq (by assumption) ?_
    | with_reducible refine KFst.fst ?_
    | fail_if_no_progress (with_reducible apply KSt.mk'; on_goal 2 => rfl)
    | split
    | (dsimp only; split)

theorem execLongPacket_kept {c : Nat} {p : CameraPacket} {s : State} (hs0 : KSt w0 s) : KOut w0 (execLongPacket c p s) := by
  unfold execLongPacket
  repeat' first
    | with_reducible assumption
    | with_reducible apply longPacket_kept
    | with_reducible apply KOut.inRange

theorem frameEnd_kept {c : Nat} {p : CameraEnd} {s : State} (hs : KSt w0 s) : KSt w0 (frameEnd c p s) := by
  unfold frameEnd
  repeat' first
    | with_reducible assumption
    | with_reducible intro _
    | with_reducible apply countOther_kept
    | with_reducible apply setChan_kept
    | with_reducible apply completeBuffer_kept
    | with_reducible apply when_kept
    | with_reducible apply countEccFixed_kept
    | with_reducible apply KSt.ite
    | with_reducible refine KFst.of_eq (by assumption) ?_
    | with_reducible refine KOpt.of_eq (by assumption) ?_
    | with_reducible refine KFst.fst ?_
    | fail_if_no_progress (with_reducible apply KSt.mk'; on_goal 2 => rfl)
    | split
    | (dsimp only; split)

theorem execFrameEnd_kept {c : Nat} {p : CameraEnd} {s : State} (hs : KSt w0 s) : KOut w0 (execFrameEnd c p s) := by
  unfold execFrameEnd
  repeat' first
    | with_reducible assumption
    | with_reducible intro _
    | with_reducible apply frameEnd_kept
    | with_reducible apply KOut.inRange
    | with_reducible apply KSt.ite
    | with_reducible refine KFst.of_eq (by assumption) ?_
    | with_reducible refine KOpt.of_eq (by assumption) ?_
    | with_reducible refine KFst.fst ?_
    | fail_if_no_progress (with_reducible apply KSt.mk'; on_goal 2 => rfl)
    | split
    | (dsimp only; split)

theorem stopChannel_kept {c : Nat} {s : State} (hs : KSt w0 s) : KSt w0 (stopChannel c s) := by
  unfold stopChannel
  repeat' first
    | with_reducible assumption
    | with_reducible intro _
    | with_reducible apply completeBuffer_kept
    | with_reducible apply setChan_kept
    | with_reducible apply KSt.ite
    | with_reducible refine KFst.of_eq (by assumption) ?_
    | with_reducible refine KOpt.of_eq (by assumption) ?_
    | with_reducible refine KFst.fst ?_
    | fail_if_no_progress (with_reducible apply KSt.mk'; on_goal 2 => rfl)
    | split
    | (dsimp only; split)

theorem ethernetFrameReceive_kept {c : Nat} {frame : Bytes} {fcsOk : Bool} {s : State} (hs : KSt w0 s) : KSt w0 (ethernetFrameReceive c frame fcsOk s) := by
  unfold ethernetFrameReceive
  repeat' first
    | with_reducible assumption
    | with_reducible intro _
    | with_reducible apply dropFrame_kept
    | with_reducible apply setChan_kept
    | with_reducible apply countBad_kept
    | with_reducible apply completeBuffer_kept
    | with_reducible apply openBuffer_kept
    | with_reducible apply ingestWrite_kept
    | with_reducible apply KSt.ite
    | with_reducible refine KFst.of_eq (by assumption) ?_
    | with_reducible refine KOpt.of_eq (by assumption) ?_
    | with_reducible refine KFst.fst ?_
    | fail_if_no_progress (with_reducible apply KSt.mk'; on_goal 2 => rfl)
    | split
    | (dsimp only; split)

theorem execEthernetFrameReceive_kept {c : Nat} {frame : Bytes} {fcsOk : Bool} {s : State} (hs0 : KSt w0 s) : KOut w0 (execEthernetFrameReceive c frame fcsOk s) := by
  unfold execEthernetFrameReceive
  repeat' first
    | with_reducible assumption
    | with_reducible apply ethernetFrameReceive_kept
    | with_reducible apply KOut.inRange

theorem execIngestFlushTimer_kept {c : Nat} {s : State} (hs0 : KSt w0 s) : KOut w0 (execIngestFlushTimer c s) := by
  unfold execIngestFlushTimer
  repeat' first
    | with_reducible assumption
    | with_reducible apply completeBuffer_kept
    | with_reducible apply KOut.inRange

theorem takeReleased_kept {c : Nat} {v : W32} {s : State} (hs0 : KSt w0 s) : KSt w0 (takeReleased c v s) := by
  unfold takeReleased
  repeat' first
    | with_reducible assumption
    | with_reducible intro _
    | with_reducible apply setChan_kept
    | with_reducible apply KSt.ite

theorem ingestReleasedWrite_kept {src : W32} {c : Nat} {v : W32} {s : State} (hs0 : KSt w0 s) : KSt w0 (ingestReleasedWrite src c v s) := by
  unfold ingestReleasedWrite
  repeat' first
    | with_reducible assumption
    | with_reducible intro _
    | with_reducible apply refuseWrite_kept
    | with_reducible apply takeReleased_kept
    | with_reducible apply answer_kept
    | with_reducible apply KSt.ite

theorem execIngestReleasedWrite_kept {src : W32} {c : Nat} {v : W32} {s : State} (hs0 : KSt w0 s) : KOut w0 (execIngestReleasedWrite src c v s) := by
  unfold execIngestReleasedWrite
  repeat' first
    | with_reducible assumption
    | with_reducible apply ingestReleasedWrite_kept
    | with_reducible apply KOut.inRange

end Sys2Proof.Machine
end

