-- ==== Sys2Proof/Laws/KeptFences.lean ====
section
/-! SUPPORT. What the operations of Machine/Fences.lean keep. -/

namespace Sys2Proof.Machine

variable {w0 : List Instr}

theorem fencePort_kept {src : W32} {i : Nat} {size : Nat} {v : W64} {add : Bool} {s : State} (hs0 : KSt w0 s) : KSt w0 (fencePort src i size v add s) := by
  unfold fencePort
  repeat' first
    | with_reducible assumption
    | with_reducible intro _
    | with_reducible apply answer_kept
    | with_reducible apply pushSignal_kept
    | with_reducible apply KSt.ite

theorem execFenceSetPort_kept {src : W32} {i : Nat} {size : Nat} {v : W64} {s : State} (hs0 : KSt w0 s) : KOut w0 (execFenceSetPort src i size v s) := by
  unfold execFenceSetPort
  repeat' first
    | with_reducible assumption
    | with_reducible apply fencePort_kept
    | with_reducible apply KOut.inRange

theorem execFenceAddPort_kept {src : W32} {i : Nat} {size : Nat} {v : W64} {s : State} (hs0 : KSt w0 s) : KOut w0 (execFenceAddPort src i size v s) := by
  unfold execFenceAddPort
  repeat' first
    | with_reducible assumption
    | with_reducible apply fencePort_kept
    | with_reducible apply KOut.inRange

theorem signalRejected_kept {g : Signal} {code : W16} {s : State} (hs : KSt w0 s) : KSt w0 (signalRejected g code s) := by
  unfold signalRejected
  repeat' first
    | with_reducible assumption
    | with_reducible intro _
    | with_reducible apply answer_kept
    | with_reducible apply haltQueue_kept
    | with_reducible apply setCell_kept
    | with_reducible apply faultCtx_kept
    | with_reducible apply portAnswered_kept
    | with_reducible apply KSt.ite
    | with_reducible refine KFst.of_eq (by assumption) ?_
    | with_reducible refine KOpt.of_eq (by assumption) ?_
    | with_reducible refine KFst.fst ?_
    | fail_if_no_progress (with_reducible apply KSt.mk'; on_goal 2 => rfl)
    | split
    | (dsimp only; split)

theorem fenceSignal_kept {s : State} (hs : KSt w0 s) : KSt w0 (fenceSignal s) := by
  unfold fenceSignal
  repeat' first
    | with_reducible assumption
    | with_reducible intro _
    | with_reducible apply violation_kept
    | with_reducible apply signalRejected_kept
    | with_reducible apply applySignal_kept
    | with_reducible apply setMot_kept
    | with_reducible apply portAnswered_kept
    | with_reducible apply KSt.ite
    | with_reducible refine KFst.of_eq (by assumption) ?_
    | with_reducible refine KOpt.of_eq (by assumption) ?_
    | with_reducible refine KFst.fst ?_
    | fail_if_no_progress (with_reducible apply KSt.mk'; on_goal 2 => rfl)
    | split
    | (dsimp only; split)

theorem slotRecord_kept {k : Nat} {ctx : W16} {code : W16} {s : State} (hs : KSt w0 s) : KSt w0 (slotRecord k ctx code s) := by
  unfold slotRecord
  repeat' first
    | with_reducible assumption
    | with_reducible intro _
    | with_reducible apply record_kept
    | with_reducible apply sendMaker_kept
    | with_reducible apply KSt.ite
    | with_reducible refine KFst.of_eq (by assumption) ?_
    | with_reducible refine KOpt.of_eq (by assumption) ?_
    | with_reducible refine KFst.fst ?_
    | fail_if_no_progress (with_reducible apply KSt.mk'; on_goal 2 => rfl)
    | split
    | (dsimp only; split)

theorem violationIf_kept {code : W16} {src : W32} {a : Nat} {s : State} (hs0 : KSt w0 s) : KSt w0 (violationIf code src a s) := by
  unfold violationIf
  repeat' first
    | with_reducible assumption
    | with_reducible intro _
    | with_reducible apply violation_kept
    | with_reducible apply KSt.ite

theorem fireSlot_kept {k : Nat} {w : W64} {to_ : SlotState} {s : State} (hs : KSt w0 s) : KSt w0 (fireSlot k w to_ s) := by
  unfold fireSlot
  repeat' first
    | with_reducible assumption
    | with_reducible intro _
    | with_reducible apply unwatch_kept
    | with_reducible apply slotRecord_kept
    | with_reducible apply violationIf_kept
    | with_reducible apply memWrite_kept
    | with_reducible apply raiseIrq_kept
    | with_reducible apply setSlot_kept
    | with_reducible apply fireSlotError_kept
    | with_reducible apply KSt.ite
    | with_reducible refine KFst.of_eq (by assumption) ?_
    | with_reducible refine KOpt.of_eq (by assumption) ?_
    | with_reducible refine KFst.fst ?_
    | with_reducible apply KOpt.getD
    | fail_if_no_progress (with_reducible apply KSt.mk'; on_goal 2 => rfl)
    | split
    | (dsimp only; split)

theorem fireSlotError_kept {k : Nat} {code : W16} {seen : W64} {s : State} (hs0 : KSt w0 s) : KSt w0 (fireSlotError k code seen s) := by
  unfold fireSlotError
  repeat' first
    | with_reducible assumption
    | with_reducible apply fireSlot_kept

theorem armSlot_kept {k : Nat} {ctx : W16} {s : State} (hs0 : KSt w0 s) : KSt w0 (armSlot k ctx s) := by
  unfold armSlot
  repeat' first
    | with_reducible assumption
    | with_reducible intro _
    | with_reducible apply slotRecord_kept
    | with_reducible apply setSlot_kept
    | with_reducible apply setMot_kept
    | with_reducible apply fireSlot_kept
    | with_reducible apply KSt.ite
    | split

theorem slotCtrl_kept {k : Nat} {v : W32} {o : W32} {s : State} (hs0 : KSt w0 s) : KSt w0 (slotCtrl k v o s) := by
  unfold slotCtrl
  repeat' first
    | with_reducible assumption
    | with_reducible intro _
    | with_reducible apply setSlot_kept
    | with_reducible apply unwatch_kept
    | with_reducible apply armSlot_kept
    | with_reducible apply KSt.ite
    | split

theorem writeSlotCtrl_kept {src : W32} {k : Nat} {v : W32} {s : State} (hs0 : KSt w0 s) : KSt w0 (writeSlotCtrl src k v s) := by
  unfold writeSlotCtrl
  repeat' first
    | with_reducible assumption
    | with_reducible intro _
    | with_reducible apply refuseWrite_kept
    | with_reducible apply slotCtrl_kept
    | with_reducible apply answer_kept
    | with_reducible apply KSt.ite

theorem execMonitorArm_kept {src : W32} {k : Nat} {v : W32} {s : State} (hs0 : KSt w0 s) : KOut w0 (execMonitorArm src k v s) := by
  unfold execMonitorArm
  repeat' first
    | with_reducible assumption
    | with_reducible apply writeSlotCtrl_kept
    | with_reducible apply KOut.inRange

theorem execMonitorDisarm_kept {src : W32} {k : Nat} {v : W32} {s : State} (hs0 : KSt w0 s) : KOut w0 (execMonitorDisarm src k v s) := by
  unfold execMonitorDisarm
  repeat' first
    | with_reducible assumption
    | with_reducible apply writeSlotCtrl_kept
    | with_reducible apply KOut.inRange

theorem monitorFire_kept {k : Nat} {s : State} (hs0 : KSt w0 s) : KSt w0 (monitorFire k s) := by
  unfold monitorFire
  repeat' first
    | with_reducible assumption
    | with_reducible intro _
    | with_reducible apply fireSlot_kept
    | with_reducible apply setSlot_kept
    | with_reducible apply KSt.ite

theorem execMonitorFire_kept {k : Nat} {s : State} (hs0 : KSt w0 s) : KOut w0 (execMonitorFire k s) := by
  unfold execMonitorFire
  repeat' first
    | with_reducible assumption
    | with_reducible apply monitorFire_kept
    | with_reducible apply KOut.inRange

theorem closingEvaluate_kept {k : Nat} {s : State} (hs0 : KSt w0 s) : KSt w0 (closingEvaluate k s) := by
  unfold closingEvaluate
  repeat' first
    | with_reducible assumption
    | with_reducible intro _
    | with_reducible apply fireSlot_kept
    | with_reducible apply fireSlotError_kept
    | with_reducible apply KSt.ite

end Sys2Proof.Machine
end

