-- ==== Sys2Proof/Laws/KeptCells.lean ====
section
/-! SUPPORT. What the operations of Machine/Cells.lean keep. -/

namespace Sys2Proof.Machine

variable {w0 : List Instr}

theorem faultCell_kept {u : Unit1} {code : W16} {addr : Nat} {write : Bool} {s : State} (hs : KSt w0 s) : KSt w0 (faultCell u code addr write s) := by
  unfold faultCell
  repeat' first
    | with_reducible assumption
    | with_reducible intro _
    | with_reducible apply setCell_kept
    | with_reducible apply refusedWrite_kept
    | with_reducible apply faultCtx_kept
    | with_reducible apply KSt.ite
    | with_reducible refine KFst.of_eq (by assumption) ?_
    | with_reducible refine KOpt.of_eq (by assumption) ?_
    | with_reducible refine KFst.fst ?_
    | fail_if_no_progress (with_reducible apply KSt.mk'; on_goal 2 => rfl)
    | split
    | (dsimp only; split)

theorem issue_kept {op : Nat} {uses : Uses} {run : Unit1 → State → Issue} {die : Nat} {cell : Nat} {s : State} (hrun : ∀ y0 y1, KSt w0 y1 → KIss w0 (run y0 y1)) (hs0 : KSt w0 s) : KSt w0 (issue op uses run die cell s) := by
  unfold issue
  repeat' first
    | with_reducible assumption
    | with_reducible intro _
    | with_reducible apply faultCell_kept
    | with_reducible apply setCell_kept
    | with_reducible refine KIss.of_next (by assumption) ?_
    | with_reducible refine KIss.of_goto (by assumption) ?_
    | with_reducible refine KIss.of_done (by assumption) ?_
    | with_reducible apply hrun
    | split
    | (dsimp only; split)

theorem onCell_kept {f : Unit1 → Cell} {u : Unit1} {s : State} (hs0 : KSt w0 s) : KIss w0 (onCell f u s) := by
  unfold onCell
  repeat' first
    | with_reducible assumption
    | with_reducible apply KIss.next

theorem endItem_kept {u : Unit1} {s : State} (hs0 : KSt w0 s) : KSt w0 (endItem u s) := by
  unfold endItem
  repeat' first
    | with_reducible assumption
    | with_reducible apply setCell_kept

theorem execNopInstr_kept {die : Nat} {cell : Nat} {s : State} (hs0 : KSt w0 s) : KOut w0 (execNopInstr die cell s) := by
  unfold execNopInstr
  repeat' first
    | with_reducible assumption
    | with_reducible apply issue_kept
    | with_reducible apply onCell_kept
    | with_reducible apply KOut.inRange

theorem endIns_kept {u : Unit1} {s : State} (hs0 : KSt w0 s) : KIss w0 (endIns u s) := by
  unfold endIns
  repeat' first
    | with_reducible assumption
    | with_reducible intro _
    | with_reducible apply endItem_kept
    | with_reducible apply KIss.ite
    | with_reducible apply KIss.stall
    | with_reducible apply KIss.done

theorem execEndItem_kept {die : Nat} {cell : Nat} {s : State} (hs0 : KSt w0 s) : KOut w0 (execEndItem die cell s) := by
  unfold execEndItem
  repeat' first
    | with_reducible assumption
    | with_reducible apply issue_kept
    | with_reducible apply endIns_kept
    | with_reducible apply KOut.inRange

theorem jumpTo_kept {u : Unit1} {s : State} {x : Cell} {t : Nat} (hs0 : KSt w0 s) : KIss w0 (jumpTo u s x t) := by
  unfold jumpTo
  repeat' first
    | with_reducible assumption
    | with_reducible intro _
    | with_reducible apply KIss.ite
    | with_reducible apply KIss.fault
    | with_reducible apply KIss.goto

theorem execJmp_kept {die : Nat} {cell : Nat} {s : State} (hs0 : KSt w0 s) : KOut w0 (execJmp die cell s) := by
  unfold execJmp
  repeat' first
    | with_reducible assumption
    | with_reducible intro _
    | with_reducible apply issue_kept
    | with_reducible apply jumpTo_kept
    | with_reducible apply KOut.inRange

theorem branch_kept {u : Unit1} {s : State} (hs0 : KSt w0 s) : KIss w0 (branch u s) := by
  unfold branch
  repeat' first
    | with_reducible assumption
    | with_reducible intro _
    | with_reducible apply KIss.fault
    | with_reducible apply KIss.next
    | with_reducible apply KIss.goto
    | split

theorem execBr_kept {die : Nat} {cell : Nat} {s : State} (hs0 : KSt w0 s) : KOut w0 (execBr die cell s) := by
  unfold execBr
  repeat' first
    | with_reducible assumption
    | with_reducible apply issue_kept
    | with_reducible apply branch_kept
    | with_reducible apply KOut.inRange

theorem sysIns_kept {u : Unit1} {s : State} (hs0 : KSt w0 s) : KIss w0 (sysIns u s) := by
  unfold sysIns
  repeat' first
    | with_reducible assumption
    | with_reducible apply KIss.fault
    | with_reducible apply KIss.next
    | split

theorem execSys_kept {die : Nat} {cell : Nat} {s : State} (hs0 : KSt w0 s) : KOut w0 (execSys die cell s) := by
  unfold execSys
  repeat' first
    | with_reducible assumption
    | with_reducible apply issue_kept
    | with_reducible apply sysIns_kept
    | with_reducible apply KOut.inRange

theorem execLi_kept {die : Nat} {cell : Nat} {s : State} (hs0 : KSt w0 s) : KOut w0 (execLi die cell s) := by
  unfold execLi
  repeat' first
    | with_reducible assumption
    | with_reducible apply issue_kept
    | with_reducible apply onCell_kept
    | with_reducible apply KOut.inRange

theorem execLih_kept {die : Nat} {cell : Nat} {s : State} (hs0 : KSt w0 s) : KOut w0 (execLih die cell s) := by
  unfold execLih
  repeat' first
    | with_reducible assumption
    | with_reducible apply issue_kept
    | with_reducible apply onCell_kept
    | with_reducible apply KOut.inRange

theorem alu_kept {f : W64 → W64 → W64} {x0 : Unit1} {x1 : State} (hx1 : KSt w0 x1) : KIss w0 (alu f x0 x1) := by
  unfold alu
  repeat' first
    | with_reducible assumption
    | with_reducible apply onCell_kept

theorem execAdd_kept {die : Nat} {cell : Nat} {s : State} (hs0 : KSt w0 s) : KOut w0 (execAdd die cell s) := by
  unfold execAdd
  repeat' first
    | with_reducible assumption
    | with_reducible apply issue_kept
    | with_reducible apply alu_kept
    | with_reducible apply KOut.inRange

theorem execSub_kept {die : Nat} {cell : Nat} {s : State} (hs0 : KSt w0 s) : KOut w0 (execSub die cell s) := by
  unfold execSub
  repeat' first
    | with_reducible assumption
    | with_reducible apply issue_kept
    | with_reducible apply alu_kept
    | with_reducible apply KOut.inRange

theorem execAndInstr_kept {die : Nat} {cell : Nat} {s : State} (hs0 : KSt w0 s) : KOut w0 (execAndInstr die cell s) := by
  unfold execAndInstr
  repeat' first
    | with_reducible assumption
    | with_reducible apply issue_kept
    | with_reducible apply alu_kept
    | with_reducible apply KOut.inRange

theorem execOrInstr_kept {die : Nat} {cell : Nat} {s : State} (hs0 : KSt w0 s) : KOut w0 (execOrInstr die cell s) := by
  unfold execOrInstr
  repeat' first
    | with_reducible assumption
    | with_reducible apply issue_kept
    | with_reducible apply alu_kept
    | with_reducible apply KOut.inRange

theorem execXorInstr_kept {die : Nat} {cell : Nat} {s : State} (hs0 : KSt w0 s) : KOut w0 (execXorInstr die cell s) := by
  unfold execXorInstr
  repeat' first
    | with_reducible assumption
    | with_reducible apply issue_kept
    | with_reducible apply alu_kept
    | with_reducible apply KOut.inRange

theorem execShl_kept {die : Nat} {cell : Nat} {s : State} (hs0 : KSt w0 s) : KOut w0 (execShl die cell s) := by
  unfold execShl
  repeat' first
    | with_reducible assumption
    | with_reducible apply issue_kept
    | with_reducible apply alu_kept
    | with_reducible apply KOut.inRange

theorem execShr_kept {die : Nat} {cell : Nat} {s : State} (hs0 : KSt w0 s) : KOut w0 (execShr die cell s) := by
  unfold execShr
  repeat' first
    | with_reducible assumption
    | with_reducible apply issue_kept
    | with_reducible apply alu_kept
    | with_reducible apply KOut.inRange

theorem execSra_kept {die : Nat} {cell : Nat} {s : State} (hs0 : KSt w0 s) : KOut w0 (execSra die cell s) := by
  unfold execSra
  repeat' first
    | with_reducible assumption
    | with_reducible apply issue_kept
    | with_reducible apply alu_kept
    | with_reducible apply KOut.inRange

theorem execMul_kept {die : Nat} {cell : Nat} {s : State} (hs0 : KSt w0 s) : KOut w0 (execMul die cell s) := by
  unfold execMul
  repeat' first
    | with_reducible assumption
    | with_reducible apply issue_kept
    | with_reducible apply alu_kept
    | with_reducible apply KOut.inRange

theorem execAddi_kept {die : Nat} {cell : Nat} {s : State} (hs0 : KSt w0 s) : KOut w0 (execAddi die cell s) := by
  unfold execAddi
  repeat' first
    | with_reducible assumption
    | with_reducible apply issue_kept
    | with_reducible apply onCell_kept
    | with_reducible apply KOut.inRange

theorem lda_kept {u : Unit1} {s : State} (hs0 : KSt w0 s) : KIss w0 (lda u s) := by
  unfold lda
  repeat' first
    | with_reducible assumption
    | with_reducible intro _
    | with_reducible apply KIss.ite
    | with_reducible apply KIss.fault
    | with_reducible apply KIss.next

theorem execLda_kept {die : Nat} {cell : Nat} {s : State} (hs0 : KSt w0 s) : KOut w0 (execLda die cell s) := by
  unfold execLda
  repeat' first
    | with_reducible assumption
    | with_reducible apply issue_kept
    | with_reducible apply lda_kept
    | with_reducible apply KOut.inRange

theorem ownAccess_kept {u : Unit1} {off : Nat} {n : Nat} {align : Nat} {write : Bool} {s : State} {f : Nat → Issue} (hs : KSt w0 s) (hf : ∀ y0, KIss w0 (f y0)) : KIss w0 (ownAccess u off n align write s f) := by
  unfold ownAccess
  repeat' first
    | with_reducible assumption
    | with_reducible intro _
    | with_reducible apply hf
    | with_reducible apply KSt.ite
    | with_reducible apply KIss.ite
    | with_reducible apply KIss.stall
    | with_reducible apply KIss.holds
    | with_reducible apply KIss.fault
    | with_reducible apply KIss.next
    | with_reducible apply KIss.goto
    | with_reducible apply KIss.done
    | with_reducible refine KFst.of_eq (by assumption) ?_
    | with_reducible refine KOpt.of_eq (by assumption) ?_
    | with_reducible refine KFst.fst ?_
    | fail_if_no_progress (with_reducible apply KSt.mk'; on_goal 2 => rfl)
    | split
    | (dsimp only; split)

theorem loadOwn_kept {u : Unit1} {off : Nat} {n : Nat} {align : Nat} {s : State} {f : Bytes → Issue} (hs0 : KSt w0 s) (hf : ∀ y0, KIss w0 (f y0)) : KIss w0 (loadOwn u off n align s f) := by
  unfold loadOwn
  repeat' first
    | with_reducible assumption
    | with_reducible intro _
    | with_reducible apply ownAccess_kept
    | with_reducible apply hf

theorem storeOwn_kept {u : Unit1} {off : Nat} {align : Nat} {l : Bytes} {x : Cell} {s : State} (hs0 : KSt w0 s) : KIss w0 (storeOwn u off align l x s) := by
  unfold storeOwn
  repeat' first
    | with_reducible assumption
    | with_reducible intro _
    | with_reducible apply ownAccess_kept
    | with_reducible apply memWrite_kept
    | with_reducible apply KIss.next

theorem execLds_kept {die : Nat} {cell : Nat} {s : State} (hs0 : KSt w0 s) : KOut w0 (execLds die cell s) := by
  unfold execLds
  repeat' first
    | with_reducible assumption
    | with_reducible intro _
    | with_reducible apply issue_kept
    | with_reducible apply loadOwn_kept
    | with_reducible apply KOut.inRange
    | with_reducible apply KIss.next

theorem execSts_kept {die : Nat} {cell : Nat} {s : State} (hs0 : KSt w0 s) : KOut w0 (execSts die cell s) := by
  unfold execSts
  repeat' first
    | with_reducible assumption
    | with_reducible intro _
    | with_reducible apply issue_kept
    | with_reducible apply storeOwn_kept
    | with_reducible apply KOut.inRange

theorem execVld_kept {die : Nat} {cell : Nat} {s : State} (hs0 : KSt w0 s) : KOut w0 (execVld die cell s) := by
  unfold execVld
  repeat' first
    | with_reducible assumption
    | with_reducible intro _
    | with_reducible apply issue_kept
    | with_reducible apply loadOwn_kept
    | with_reducible apply KOut.inRange
    | with_reducible apply KIss.next

theorem execVst_kept {die : Nat} {cell : Nat} {s : State} (hs0 : KSt w0 s) : KOut w0 (execVst die cell s) := by
  unfold execVst
  repeat' first
    | with_reducible assumption
    | with_reducible intro _
    | with_reducible apply issue_kept
    | with_reducible apply storeOwn_kept
    | with_reducible apply KOut.inRange

theorem vldn_kept {u : Unit1} {s : State} (hs0 : KSt w0 s) : KIss w0 (vldn u s) := by
  unfold vldn
  repeat' first
    | with_reducible assumption
    | with_reducible intro _
    | with_reducible apply loadOwn_kept
    | with_reducible apply KIss.ite
    | with_reducible apply KIss.fault
    | with_reducible apply KIss.next

theorem execVldn_kept {die : Nat} {cell : Nat} {s : State} (hs0 : KSt w0 s) : KOut w0 (execVldn die cell s) := by
  unfold execVldn
  repeat' first
    | with_reducible assumption
    | with_reducible apply issue_kept
    | with_reducible apply vldn_kept
    | with_reducible apply KOut.inRange

theorem vstn_kept {u : Unit1} {s : State} (hs0 : KSt w0 s) : KIss w0 (vstn u s) := by
  unfold vstn
  repeat' first
    | with_reducible assumption
    | with_reducible intro _
    | with_reducible apply storeOwn_kept
    | with_reducible apply KIss.ite
    | with_reducible apply KIss.fault

theorem execVstn_kept {die : Nat} {cell : Nat} {s : State} (hs0 : KSt w0 s) : KOut w0 (execVstn die cell s) := by
  unfold execVstn
  repeat' first
    | with_reducible assumption
    | with_reducible apply issue_kept
    | with_reducible apply vstn_kept
    | with_reducible apply KOut.inRange

theorem lanes1_kept {f : Rnd → W32 → Rounded} {x0 : Unit1} {x1 : State} (hx1 : KSt w0 x1) : KIss w0 (lanes1 f x0 x1) := by
  unfold lanes1
  repeat' first
    | with_reducible assumption
    | with_reducible apply onCell_kept

theorem lanes2_kept {f : Rnd → W32 → W32 → Rounded} {x0 : Unit1} {x1 : State} (hx1 : KSt w0 x1) : KIss w0 (lanes2 f x0 x1) := by
  unfold lanes2
  repeat' first
    | with_reducible assumption
    | with_reducible apply onCell_kept

theorem execVadd_kept {die : Nat} {cell : Nat} {s : State} (hs0 : KSt w0 s) : KOut w0 (execVadd die cell s) := by
  unfold execVadd
  repeat' first
    | with_reducible assumption
    | with_reducible apply issue_kept
    | with_reducible apply lanes2_kept
    | with_reducible apply KOut.inRange

theorem execVsub_kept {die : Nat} {cell : Nat} {s : State} (hs0 : KSt w0 s) : KOut w0 (execVsub die cell s) := by
  unfold execVsub
  repeat' first
    | with_reducible assumption
    | with_reducible apply issue_kept
    | with_reducible apply lanes2_kept
    | with_reducible apply KOut.inRange

theorem execVmul_kept {die : Nat} {cell : Nat} {s : State} (hs0 : KSt w0 s) : KOut w0 (execVmul die cell s) := by
  unfold execVmul
  repeat' first
    | with_reducible assumption
    | with_reducible apply issue_kept
    | with_reducible apply lanes2_kept
    | with_reducible apply KOut.inRange

theorem vfma_kept {x0 : Unit1} {x1 : State} (hx1 : KSt w0 x1) : KIss w0 (vfma x0 x1) := by
  unfold vfma
  repeat' first
    | with_reducible assumption
    | with_reducible apply onCell_kept

theorem execVfma_kept {die : Nat} {cell : Nat} {s : State} (hs0 : KSt w0 s) : KOut w0 (execVfma die cell s) := by
  unfold execVfma
  repeat' first
    | with_reducible assumption
    | with_reducible apply issue_kept
    | with_reducible apply vfma_kept
    | with_reducible apply KOut.inRange

theorem execVdiv_kept {die : Nat} {cell : Nat} {s : State} (hs0 : KSt w0 s) : KOut w0 (execVdiv die cell s) := by
  unfold execVdiv
  repeat' first
    | with_reducible assumption
    | with_reducible apply issue_kept
    | with_reducible apply lanes2_kept
    | with_reducible apply KOut.inRange

theorem execVsqrt_kept {die : Nat} {cell : Nat} {s : State} (hs0 : KSt w0 s) : KOut w0 (execVsqrt die cell s) := by
  unfold execVsqrt
  repeat' first
    | with_reducible assumption
    | with_reducible apply issue_kept
    | with_reducible apply lanes1_kept
    | with_reducible apply KOut.inRange

theorem execVmin_kept {die : Nat} {cell : Nat} {s : State} (hs0 : KSt w0 s) : KOut w0 (execVmin die cell s) := by
  unfold execVmin
  repeat' first
    | with_reducible assumption
    | with_reducible apply issue_kept
    | with_reducible apply lanes2_kept
    | with_reducible apply KOut.inRange

theorem execVmax_kept {die : Nat} {cell : Nat} {s : State} (hs0 : KSt w0 s) : KOut w0 (execVmax die cell s) := by
  unfold execVmax
  repeat' first
    | with_reducible assumption
    | with_reducible apply issue_kept
    | with_reducible apply lanes2_kept
    | with_reducible apply KOut.inRange

theorem execVexp2_kept {die : Nat} {cell : Nat} {s : State} (hs0 : KSt w0 s) : KOut w0 (execVexp2 die cell s) := by
  unfold execVexp2
  repeat' first
    | with_reducible assumption
    | with_reducible apply issue_kept
    | with_reducible apply lanes1_kept
    | with_reducible apply KOut.inRange

theorem execVlog2_kept {die : Nat} {cell : Nat} {s : State} (hs0 : KSt w0 s) : KOut w0 (execVlog2 die cell s) := by
  unfold execVlog2
  repeat' first
    | with_reducible assumption
    | with_reducible apply issue_kept
    | with_reducible apply lanes1_kept
    | with_reducible apply KOut.inRange

theorem execVrcp_kept {die : Nat} {cell : Nat} {s : State} (hs0 : KSt w0 s) : KOut w0 (execVrcp die cell s) := by
  unfold execVrcp
  repeat' first
    | with_reducible assumption
    | with_reducible apply issue_kept
    | with_reducible apply lanes1_kept
    | with_reducible apply KOut.inRange

theorem execVrsqrt_kept {die : Nat} {cell : Nat} {s : State} (hs0 : KSt w0 s) : KOut w0 (execVrsqrt die cell s) := by
  unfold execVrsqrt
  repeat' first
    | with_reducible assumption
    | with_reducible apply issue_kept
    | with_reducible apply lanes1_kept
    | with_reducible apply KOut.inRange

theorem execVtanh_kept {die : Nat} {cell : Nat} {s : State} (hs0 : KSt w0 s) : KOut w0 (execVtanh die cell s) := by
  unfold execVtanh
  repeat' first
    | with_reducible assumption
    | with_reducible apply issue_kept
    | with_reducible apply lanes1_kept
    | with_reducible apply KOut.inRange

theorem execVbcast_kept {die : Nat} {cell : Nat} {s : State} (hs0 : KSt w0 s) : KOut w0 (execVbcast die cell s) := by
  unfold execVbcast
  repeat' first
    | with_reducible assumption
    | with_reducible apply issue_kept
    | with_reducible apply onCell_kept
    | with_reducible apply KOut.inRange

theorem execVrsum_kept {die : Nat} {cell : Nat} {s : State} (hs0 : KSt w0 s) : KOut w0 (execVrsum die cell s) := by
  unfold execVrsum
  repeat' first
    | with_reducible assumption
    | with_reducible apply issue_kept
    | with_reducible apply onCell_kept
    | with_reducible apply KOut.inRange

theorem setnum_kept {u : Unit1} {s : State} (hs0 : KSt w0 s) : KIss w0 (setnum u s) := by
  unfold setnum
  repeat' first
    | with_reducible assumption
    | with_reducible intro _
    | with_reducible apply KIss.ite
    | with_reducible apply KIss.fault
    | with_reducible apply KIss.next

theorem execSetnum_kept {die : Nat} {cell : Nat} {s : State} (hs0 : KSt w0 s) : KOut w0 (execSetnum die cell s) := by
  unfold execSetnum
  repeat' first
    | with_reducible assumption
    | with_reducible apply issue_kept
    | with_reducible apply setnum_kept
    | with_reducible apply KOut.inRange

end Sys2Proof.Machine
end

