-- ==== Sys2Proof/Laws/KeptMatrix.lean ====
section
/-! SUPPORT. What the operations of Machine/Matrix.lean keep. -/

namespace Sys2Proof.Machine

variable {w0 : List Instr}

theorem onTile_kept {u : Unit1} {f : Issue} (hf : KIss w0 f) : KIss w0 (onTile u f) := by
  unfold onTile
  repeat' first
    | with_reducible assumption
    | with_reducible intro _
    | with_reducible apply KIss.ite
    | with_reducible apply KIss.fault

theorem putTile_kept {u : Unit1} {f : Nat → AccEntry → Option AccEntry} {s : State} (h : KSt w0 s) : KIss w0 (putTile u f s) := by
  unfold putTile
  generalize mapTile f u.i.d 4096 u.x.acc = o
  cases o with
  | none => exact KIss.fault
  | some t => exact KIss.next h

theorem withPanels_kept {u : Unit1} {s : State} {f : NumCtl → Nat → Bytes → Bytes → Option (Bytes × Bytes) → Issue} (hs0 : KSt w0 s) (hf : ∀ y0 y1 y2 y3 y4, KIss w0 (f y0 y1 y2 y3 y4)) : KIss w0 (withPanels u s f) := by
  unfold withPanels
  repeat' first
    | with_reducible assumption
    | with_reducible intro _
    | with_reducible apply onTile_kept
    | with_reducible apply loadOwn_kept
    | with_reducible apply KIss.ite
    | with_reducible apply KIss.fault
    | with_reducible apply hf

theorem amax_kept {u : Unit1} {s : State} (hs0 : KSt w0 s) : KIss w0 (amax u s) := by
  unfold amax
  repeat' first
    | with_reducible assumption
    | with_reducible intro _
    | with_reducible apply withPanels_kept
    | with_reducible apply putTile_kept

theorem execAmax_kept {die : Nat} {cell : Nat} {s : State} (hs0 : KSt w0 s) : KOut w0 (execAmax die cell s) := by
  unfold execAmax
  repeat' first
    | with_reducible assumption
    | with_reducible apply issue_kept
    | with_reducible apply amax_kept
    | with_reducible apply KOut.inRange

theorem mma_kept {u : Unit1} {s : State} (hs0 : KSt w0 s) : KIss w0 (mma u s) := by
  unfold mma
  repeat' first
    | with_reducible assumption
    | with_reducible intro _
    | with_reducible apply withPanels_kept
    | with_reducible apply putTile_kept

theorem execMma_kept {die : Nat} {cell : Nat} {s : State} (hs0 : KSt w0 s) : KOut w0 (execMma die cell s) := by
  unfold execMma
  repeat' first
    | with_reducible assumption
    | with_reducible apply issue_kept
    | with_reducible apply mma_kept
    | with_reducible apply KOut.inRange

theorem aclr_kept {u : Unit1} {s : State} (hs0 : KSt w0 s) : KIss w0 (aclr u s) := by
  unfold aclr
  repeat' first
    | with_reducible assumption
    | with_reducible apply onTile_kept
    | with_reducible apply KIss.next

theorem execAclr_kept {die : Nat} {cell : Nat} {s : State} (hs0 : KSt w0 s) : KOut w0 (execAclr die cell s) := by
  unfold execAclr
  repeat' first
    | with_reducible assumption
    | with_reducible apply issue_kept
    | with_reducible apply aclr_kept
    | with_reducible apply KOut.inRange

theorem stacc_kept {u : Unit1} {s : State} (hs0 : KSt w0 s) : KIss w0 (stacc u s) := by
  unfold stacc
  repeat' first
    | with_reducible assumption
    | with_reducible apply onTile_kept
    | with_reducible apply storeOwn_kept

theorem execStacc_kept {die : Nat} {cell : Nat} {s : State} (hs0 : KSt w0 s) : KOut w0 (execStacc die cell s) := by
  unfold execStacc
  repeat' first
    | with_reducible assumption
    | with_reducible apply issue_kept
    | with_reducible apply stacc_kept
    | with_reducible apply KOut.inRange

theorem accadd_kept {u : Unit1} {s : State} (hs0 : KSt w0 s) : KIss w0 (accadd u s) := by
  unfold accadd
  repeat' first
    | with_reducible assumption
    | with_reducible intro _
    | with_reducible apply onTile_kept
    | with_reducible apply loadOwn_kept
    | with_reducible apply putTile_kept
    | with_reducible apply KIss.fault
    | split

theorem execAccadd_kept {die : Nat} {cell : Nat} {s : State} (hs0 : KSt w0 s) : KOut w0 (execAccadd die cell s) := by
  unfold execAccadd
  repeat' first
    | with_reducible assumption
    | with_reducible apply issue_kept
    | with_reducible apply accadd_kept
    | with_reducible apply KOut.inRange

theorem stanc_kept {u : Unit1} {s : State} (hs0 : KSt w0 s) : KIss w0 (stanc u s) := by
  unfold stanc
  repeat' first
    | with_reducible assumption
    | with_reducible apply onTile_kept
    | with_reducible apply storeOwn_kept

theorem execStanc_kept {die : Nat} {cell : Nat} {s : State} (hs0 : KSt w0 s) : KOut w0 (execStanc die cell s) := by
  unfold execStanc
  repeat' first
    | with_reducible assumption
    | with_reducible apply issue_kept
    | with_reducible apply stanc_kept
    | with_reducible apply KOut.inRange

theorem ldanc_kept {u : Unit1} {s : State} (hs0 : KSt w0 s) : KIss w0 (ldanc u s) := by
  unfold ldanc
  repeat' first
    | with_reducible assumption
    | with_reducible intro _
    | with_reducible apply onTile_kept
    | with_reducible apply loadOwn_kept
    | with_reducible apply putTile_kept
    | with_reducible apply KIss.ite
    | with_reducible apply KIss.fault

theorem execLdanc_kept {die : Nat} {cell : Nat} {s : State} (hs0 : KSt w0 s) : KOut w0 (execLdanc die cell s) := by
  unfold execLdanc
  repeat' first
    | with_reducible assumption
    | with_reducible apply issue_kept
    | with_reducible apply ldanc_kept
    | with_reducible apply KOut.inRange

theorem fin_kept {u : Unit1} {s : State} (hs0 : KSt w0 s) : KIss w0 (fin u s) := by
  unfold fin
  repeat' first
    | with_reducible assumption
    | with_reducible intro _
    | with_reducible apply storeOwn_kept
    | with_reducible apply onTile_kept
    | with_reducible apply loadOwn_kept
    | with_reducible apply KIss.ite
    | with_reducible apply KIss.fault

theorem execFin_kept {die : Nat} {cell : Nat} {s : State} (hs0 : KSt w0 s) : KOut w0 (execFin die cell s) := by
  unfold execFin
  repeat' first
    | with_reducible assumption
    | with_reducible apply issue_kept
    | with_reducible apply fin_kept
    | with_reducible apply KOut.inRange

end Sys2Proof.Machine
end

