-- ==== Sys2Proof/Laws/KeptCellMove.lean ====
section
/-! SUPPORT. What the operations of Machine/CellMove.lean keep. -/

namespace Sys2Proof.Machine

variable {w0 : List Instr}

theorem issueDma_kept {isGet : Bool} {u : Unit1} {s : State} (hs : KSt w0 s) : KIss w0 (issueDma isGet u s) := by
  unfold issueDma
  repeat' first
    | with_reducible assumption
    | with_reducible intro _
    | with_reducible apply ownAccess_kept
    | with_reducible apply KSt.ite
    | with_reducible apply KIss.ite
    | with_reducible apply KIss.stall
    | with_reducible apply KIss.holds
    | with_reducible apply KIss.fault
    | with_reducible apply KIss.next
    | with_reducible apply KIss.goto
    | with_reducible apply KIss.done
    | with_reducible refine KFst.of_eq (by assumption) ?_
    | with_reducible refine KOpt.of_eq (by assumption) ?_
    | with_reducible refine KFst.fst ?_
    | fail_if_no_progress (with_reducible apply KSt.mk'; on_goal 2 => rfl)
    | split
    | (dsimp only; split)

theorem execGet_kept {die : Nat} {cell : Nat} {s : State} (hs0 : KSt w0 s) : KOut w0 (execGet die cell s) := by
  unfold execGet
  repeat' first
    | with_reducible assumption
    | with_reducible apply issue_kept
    | with_reducible apply issueDma_kept
    | with_reducible apply KOut.inRange

theorem execPut_kept {die : Nat} {cell : Nat} {s : State} (hs0 : KSt w0 s) : KOut w0 (execPut die cell s) := by
  unfold execPut
  repeat' first
    | with_reducible assumption
    | with_reducible apply issue_kept
    | with_reducible apply issueDma_kept
    | with_reducible apply KOut.inRange

theorem moveDma_kept {die : Nat} {cell : Nat} {d : Dma} {s : State} (hs0 : KSt w0 s) : KSt w0 (moveDma die cell d s) := by
  unfold moveDma
  repeat' first
    | with_reducible assumption
    | with_reducible intro _
    | with_reducible apply memWrite_kept
    | with_reducible apply writeMem_kept
    | with_reducible apply KSt.ite

theorem dmaWindow_kept {k : Nat} {u : Unit1} {i : Nat} {d : Dma} {s : State} (hs : KSt w0 s) : KSt w0 (dmaWindow k u i d s) := by
  unfold dmaWindow
  repeat' first
    | with_reducible assumption
    | with_reducible intro _
    | with_reducible apply windowStep_kept
    | with_reducible apply faultCell_kept
    | with_reducible apply setCell_kept
    | with_reducible apply memWrite_kept
    | with_reducible apply KSt.ite
    | with_reducible apply KAns.ite
    | with_reducible apply KAns.hold
    | with_reducible apply KAns.reject
    | with_reducible apply KAns.okay
    | with_reducible apply KAns.done
    | with_reducible apply KAns.keep
    | with_reducible apply KAns.wait
    | with_reducible refine KFst.of_eq (by assumption) ?_
    | with_reducible refine KOpt.of_eq (by assumption) ?_
    | with_reducible refine KFst.fst ?_
    | fail_if_no_progress (with_reducible apply KSt.mk'; on_goal 2 => rfl)
    | split
    | (dsimp only; split)

theorem dmaComplete_kept {die : Nat} {cell : Nat} {i : Nat} {s : State} (hs : KSt w0 s) : KSt w0 (dmaComplete die cell i s) := by
  unfold dmaComplete
  repeat' first
    | with_reducible assumption
    | with_reducible intro _
    | with_reducible apply sendPackets_kept
    | with_reducible apply dmaWindow_kept
    | with_reducible apply noticeDomain_kept
    | with_reducible apply faultCell_kept
    | with_reducible apply setCell_kept
    | with_reducible apply moveDma_kept
    | with_reducible apply KSt.ite
    | with_reducible refine KFst.of_eq (by assumption) ?_
    | with_reducible refine KOpt.of_eq (by assumption) ?_
    | with_reducible refine KFst.fst ?_
    | fail_if_no_progress (with_reducible apply KSt.mk'; on_goal 2 => rfl)
    | split
    | (dsimp only; split)

theorem execDmaComplete_kept {die : Nat} {cell : Nat} {i : Nat} {s : State} (hs0 : KSt w0 s) : KOut w0 (execDmaComplete die cell i s) := by
  unfold execDmaComplete
  repeat' first
    | with_reducible assumption
    | with_reducible apply dmaComplete_kept
    | with_reducible apply KOut.inRange

theorem waitf_kept {u : Unit1} {s : State} (hs : KSt w0 s) : KIss w0 (waitf u s) := by
  unfold waitf
  repeat' first
    | with_reducible assumption
    | with_reducible intro _
    | with_reducible apply KSt.ite
    | with_reducible apply KIss.ite
    | with_reducible apply KIss.stall
    | with_reducible apply KIss.holds
    | with_reducible apply KIss.fault
    | with_reducible apply KIss.next
    | with_reducible apply KIss.goto
    | with_reducible apply KIss.done
    | with_reducible refine KFst.of_eq (by assumption) ?_
    | with_reducible refine KOpt.of_eq (by assumption) ?_
    | with_reducible refine KFst.fst ?_
    | fail_if_no_progress (with_reducible apply KSt.mk'; on_goal 2 => rfl)
    | split
    | (dsimp only; split)

theorem execWaitf_kept {die : Nat} {cell : Nat} {s : State} (hs0 : KSt w0 s) : KOut w0 (execWaitf die cell s) := by
  unfold execWaitf
  repeat' first
    | with_reducible assumption
    | with_reducible apply issue_kept
    | with_reducible apply waitf_kept
    | with_reducible apply KOut.inRange

theorem failDesc_kept {q : Nat} {d : W32} {code : W16} {s : State} (hs0 : KSt w0 s) : KSt w0 (failDesc q d code s) := by
  unfold failDesc
  repeat' first
    | with_reducible assumption
    | with_reducible intro _
    | with_reducible apply setQueue_kept
    | with_reducible apply haltQueue_kept
    | split
    | (dsimp only; split)

theorem waitfRelease_kept {die : Nat} {cell : Nat} {s : State} (hs : KSt w0 s) : KSt w0 (waitfRelease die cell s) := by
  unfold waitfRelease
  repeat' first
    | with_reducible assumption
    | with_reducible intro _
    | with_reducible apply failDesc_kept
    | with_reducible apply setCell_kept
    | with_reducible apply KSt.ite
    | with_reducible refine KFst.of_eq (by assumption) ?_
    | with_reducible refine KOpt.of_eq (by assumption) ?_
    | with_reducible refine KFst.fst ?_
    | fail_if_no_progress (with_reducible apply KSt.mk'; on_goal 2 => rfl)
    | split
    | (dsimp only; split)

theorem execWaitfRelease_kept {die : Nat} {cell : Nat} {s : State} (hs0 : KSt w0 s) : KOut w0 (execWaitfRelease die cell s) := by
  unfold execWaitfRelease
  repeat' first
    | with_reducible assumption
    | with_reducible apply waitfRelease_kept
    | with_reducible apply KOut.inRange

theorem sigf_kept {u : Unit1} {s : State} (hs : KSt w0 s) : KIss w0 (sigf u s) := by
  unfold sigf
  repeat' first
    | with_reducible assumption
    | with_reducible intro _
    | with_reducible apply sendSignal_kept
    | with_reducible apply KSt.ite
    | with_reducible apply KIss.ite
    | with_reducible apply KIss.stall
    | with_reducible apply KIss.holds
    | with_reducible apply KIss.fault
    | with_reducible apply KIss.next
    | with_reducible apply KIss.goto
    | with_reducible apply KIss.done
    | with_reducible refine KFst.of_eq (by assumption) ?_
    | with_reducible refine KOpt.of_eq (by assumption) ?_
    | with_reducible refine KFst.fst ?_
    | fail_if_no_progress (with_reducible apply KSt.mk'; on_goal 2 => rfl)
    | split
    | (dsimp only; split)

theorem execSigf_kept {die : Nat} {cell : Nat} {s : State} (hs0 : KSt w0 s) : KOut w0 (execSigf die cell s) := by
  unfold execSigf
  repeat' first
    | with_reducible assumption
    | with_reducible apply issue_kept
    | with_reducible apply sigf_kept
    | with_reducible apply KOut.inRange

end Sys2Proof.Machine
end

