-- ==== Sys2Proof/Laws/KeptKeeper.lean ====
section
/-! SUPPORT. What the operations of Machine/Keeper.lean keep. -/

namespace Sys2Proof.Machine

variable {w0 : List Instr}

theorem mbxIrq_kept {m : Nat} {s : State} (hs0 : KSt w0 s) : KSt w0 (mbxIrq m s) := by
  unfold mbxIrq
  repeat' first
    | with_reducible assumption
    | with_reducible intro _
    | with_reducible apply raiseIrq_kept
    | with_reducible apply KSt.ite
    | split

theorem putMsg_kept {m : Nat} {op : W16} {flags : Byte} {tag : Byte} {status : W16} {p : Bytes} {s : State} (hs0 : KSt w0 s) : KSt w0 (putMsg m op flags tag status p s) := by
  unfold putMsg
  repeat' first
    | with_reducible assumption
    | with_reducible apply memWrite_kept
    | with_reducible apply mbxIrq_kept
    | with_reducible apply setMbx_kept

theorem respond_kept {m : Nat} {op : W16} {flags : Byte} {tag : Byte} {status : W16} {p : Bytes} {s : State} (hs : KSt w0 s) : KSt w0 (respond m op flags tag status p s) := by
  unfold respond
  repeat' first
    | with_reducible assumption
    | with_reducible intro _
    | with_reducible apply putMsg_kept
    | with_reducible apply KSt.ite
    | with_reducible refine KFst.of_eq (by assumption) ?_
    | with_reducible refine KOpt.of_eq (by assumption) ?_
    | with_reducible refine KFst.fst ?_
    | fail_if_no_progress (with_reducible apply KSt.mk'; on_goal 2 => rfl)
    | split
    | (dsimp only; split)

theorem roundPast_kept {m : Nat} {s : State} (hs : KSt w0 s) : KSt w0 (roundPast m s) := by
  unfold roundPast
  repeat' first
    | with_reducible assumption
    | with_reducible intro _
    | with_reducible apply KSt.ite
    | with_reducible refine KFst.of_eq (by assumption) ?_
    | with_reducible refine KOpt.of_eq (by assumption) ?_
    | with_reducible refine KFst.fst ?_
    | fail_if_no_progress (with_reducible apply KSt.mk'; on_goal 2 => rfl)
    | split
    | (dsimp only; split)

theorem takenUp_kept {m : Nat} {s : State} (hs : KSt w0 s) : KSt w0 (takenUp m s) := by
  unfold takenUp
  repeat' first
    | with_reducible assumption
    | with_reducible intro _
    | with_reducible apply setMbx_kept
    | with_reducible apply roundPast_kept
    | with_reducible apply KSt.ite
    | with_reducible refine KFst.of_eq (by assumption) ?_
    | with_reducible refine KOpt.of_eq (by assumption) ?_
    | with_reducible refine KFst.fst ?_
    | fail_if_no_progress (with_reducible apply KSt.mk'; on_goal 2 => rfl)
    | split
    | (dsimp only; split)

theorem putBack_kept {m : Nat} {s : State} {t : State} (hs : KSt w0 s) (ht : KSt w0 t) : KSt w0 (putBack m s t) := by
  unfold putBack
  repeat' first
    | with_reducible assumption
    | with_reducible intro _
    | with_reducible apply setMbx_kept
    | with_reducible apply KSt.ite
    | with_reducible refine KFst.of_eq (by assumption) ?_
    | with_reducible refine KOpt.of_eq (by assumption) ?_
    | with_reducible refine KFst.fst ?_
    | fail_if_no_progress (with_reducible apply KSt.mk'; on_goal 2 => rfl)
    | split
    | (dsimp only; split)

theorem takeUp_kept {op : Nat} {act : Req → State → Ans} {m : Nat} {s : State} (hact : ∀ y0 y1, KSt w0 y1 → KAns w0 (act y0 y1)) (hs : KSt w0 s) : KSt w0 (takeUp op act m s) := by
  unfold takeUp
  dsimp only
  refine KSt.ite (fun _ => setMbx_kept hs) (fun _ => KSt.ite (fun _ => hs) (fun _ => KSt.ite (fun _ => hs) (fun _ =>
    KSt.ite (fun _ => respond_kept (takenUp_kept hs)) (fun _ => ?_))))
  have h := hact (Req.mk m (le16 (memRead s (ringAddr s m + 64 * ((getMbx s m).reqHead.toNat % 16)) 64) 0)
      (byteAt (memRead s (ringAddr s m + 64 * ((getMbx s m).reqHead.toNat % 16)) 64) 3)
      ((memRead s (ringAddr s m + 64 * ((getMbx s m).reqHead.toNat % 16)) 64).drop 8)) _ (takenUp_kept (m := m) hs)
  generalize act _ _ = x at h
  cases x with
  | hold => exact roundPast_kept hs
  | keep t => exact putBack_kept hs (h.1 t rfl)
  | wait t => exact setMbx_kept (h.2.1 t rfl)
  | done t c b => exact respond_kept (h.2.2 t c b rfl)

theorem takeUpCard_kept {op : Nat} {act : Req → State → Ans} {m : Nat} {s : State} (hact : ∀ y0 y1, KSt w0 y1 → KAns w0 (act y0 y1)) (hs0 : KSt w0 s) : KSt w0 (takeUpCard op act m s) := by
  unfold takeUpCard
  repeat' first
    | with_reducible assumption
    | with_reducible intro _
    | with_reducible apply takeUp_kept
    | with_reducible apply KAns.ite
    | with_reducible apply KAns.done
    | with_reducible apply hact

theorem accepted_kept {r : Req} {f : CmdRef → State → State} {s : State} (hf : ∀ y0 y1, KSt w0 y1 → KSt w0 (f y0 y1)) (hs : KSt w0 s) : KAns w0 (accepted r f s) := by
  unfold accepted
  repeat' first
    | with_reducible assumption
    | with_reducible intro _
    | with_reducible apply setMbx_kept
    | with_reducible apply hf
    | with_reducible apply KSt.ite
    | with_reducible apply KAns.ite
    | with_reducible apply KAns.ite
    | with_reducible apply KAns.hold
    | with_reducible apply KAns.reject
    | with_reducible apply KAns.okay
    | with_reducible apply KAns.done
    | with_reducible apply KAns.keep
    | with_reducible apply KAns.wait
    | with_reducible refine KFst.of_eq (by assumption) ?_
    | with_reducible refine KOpt.of_eq (by assumption) ?_
    | with_reducible refine KFst.fst ?_
    | fail_if_no_progress (with_reducible apply KSt.mk'; on_goal 2 => rfl)
    | split
    | (dsimp only; split)

theorem acceptOr_kept {r : Req} {f : CmdRef → State → State} {s : State} (hf : ∀ y0 y1, KSt w0 y1 → KSt w0 (f y0 y1)) (hs0 : KSt w0 s) : KAns w0 (acceptOr r f s) := by
  unfold acceptOr
  repeat' first
    | with_reducible assumption
    | with_reducible intro _
    | with_reducible apply accepted_kept
    | with_reducible apply KAns.ite
    | with_reducible apply KAns.reject

theorem remoteAnswer_kept {r : Req} {node : Nat} {rspLen : Nat} {long : Bool} {s : State} (hs : KSt w0 s) : KAns w0 (remoteAnswer r node rspLen long s) := by
  unfold remoteAnswer
  repeat' first
    | with_reducible assumption
    | with_reducible intro _
    | with_reducible apply reject_kept
    | with_reducible apply acceptOr_kept
    | with_reducible apply finishCmd_kept
    | with_reducible apply KSt.ite
    | with_reducible apply KAns.ite
    | with_reducible apply KAns.ite
    | with_reducible apply KAns.hold
    | with_reducible apply KAns.reject
    | with_reducible apply KAns.okay
    | with_reducible apply KAns.done
    | with_reducible apply KAns.keep
    | with_reducible apply KAns.wait
    | with_reducible refine KFst.of_eq (by assumption) ?_
    | with_reducible refine KOpt.of_eq (by assumption) ?_
    | with_reducible refine KFst.fst ?_
    | fail_if_no_progress (with_reducible apply KSt.mk'; on_goal 2 => rfl)
    | split
    | (dsimp only; split)

theorem whenAwake_kept {a : Nat} {n : Nat} {f : State → Ans} {s : State} (hf : ∀ y0, KSt w0 y0 → KAns w0 (f y0)) (hs : KSt w0 s) : KAns w0 (whenAwake a n f s) := by
  unfold whenAwake
  repeat' first
    | with_reducible assumption
    | with_reducible intro _
    | with_reducible apply reject_kept
    | with_reducible apply noticeDomain_kept
    | with_reducible apply hf
    | with_reducible apply KSt.ite
    | with_reducible apply KAns.ite
    | with_reducible apply KAns.ite
    | with_reducible apply KAns.hold
    | with_reducible apply KAns.reject
    | with_reducible apply KAns.okay
    | with_reducible apply KAns.done
    | with_reducible apply KAns.keep
    | with_reducible apply KAns.wait
    | with_reducible refine KFst.of_eq (by assumption) ?_
    | with_reducible refine KOpt.of_eq (by assumption) ?_
    | with_reducible refine KFst.fst ?_
    | fail_if_no_progress (with_reducible apply KSt.mk'; on_goal 2 => rfl)
    | split
    | (dsimp only; split)

theorem withCtx_kept {r : Req} {id : Nat} {rspLen : Nat} {long : Bool} {f : Nat → State → Ans} {s : State} (hf : ∀ y0 y1, KSt w0 y1 → KAns w0 (f y0 y1)) (hs0 : KSt w0 s) : KAns w0 (withCtx r id rspLen long f s) := by
  unfold withCtx
  repeat' first
    | with_reducible assumption
    | with_reducible intro _
    | with_reducible apply remoteAnswer_kept
    | with_reducible apply KAns.hold
    | with_reducible apply KAns.reject
    | with_reducible apply hf
    | split

theorem foreignWrite_kept {src : W32} {m : Nat} {a : Nat} {s : State} (hs : KSt w0 s) : KSt w0 (foreignWrite src m a s) := by
  unfold foreignWrite
  repeat' first
    | with_reducible assumption
    | with_reducible intro _
    | with_reducible apply foreignCount_kept
    | with_reducible apply answer_kept
    | with_reducible apply KSt.ite
    | with_reducible refine KFst.of_eq (by assumption) ?_
    | with_reducible refine KOpt.of_eq (by assumption) ?_
    | with_reducible refine KFst.fst ?_
    | fail_if_no_progress (with_reducible apply KSt.mk'; on_goal 2 => rfl)
    | split
    | (dsimp only; split)

theorem freeze_kept {m : Nat} {s : State} (hs0 : KSt w0 s) : KSt w0 (freeze m s) := by
  unfold freeze
  repeat' first
    | with_reducible assumption
    | with_reducible intro _
    | with_reducible apply sendOwner_kept
    | with_reducible apply setMbx_kept
    | with_reducible apply KSt.ite

theorem writeReqTail_kept {m : Nat} {v : W32} {s : State} (hs : KSt w0 s) : KSt w0 (writeReqTail m v s) := by
  unfold writeReqTail
  repeat' first
    | with_reducible assumption
    | with_reducible intro _
    | with_reducible apply setMbx_kept
    | with_reducible apply freeze_kept
    | with_reducible apply KSt.ite
    | with_reducible refine KFst.of_eq (by assumption) ?_
    | with_reducible refine KOpt.of_eq (by assumption) ?_
    | with_reducible refine KFst.fst ?_
    | fail_if_no_progress (with_reducible apply KSt.mk'; on_goal 2 => rfl)
    | split
    | (dsimp only; split)

theorem writeRspHead_kept {m : Nat} {v : W32} {s : State} (hs0 : KSt w0 s) : KSt w0 (writeRspHead m v s) := by
  unfold writeRspHead
  repeat' first
    | with_reducible assumption
    | with_reducible intro _
    | with_reducible apply setMbx_kept
    | with_reducible apply freeze_kept
    | with_reducible apply KSt.ite

theorem writeMbxCtrl_kept {m : Nat} {v : W32} {s : State} (hs : KSt w0 s) : KSt w0 (writeMbxCtrl m v s) := by
  unfold writeMbxCtrl
  repeat' first
    | with_reducible assumption
    | with_reducible intro _
    | with_reducible apply setMbx_kept
    | with_reducible apply KSt.ite
    | with_reducible refine KFst.of_eq (by assumption) ?_
    | with_reducible refine KOpt.of_eq (by assumption) ?_
    | with_reducible refine KFst.fst ?_
    | fail_if_no_progress (with_reducible apply KSt.mk'; on_goal 2 => rfl)
    | split
    | (dsimp only; split)

theorem mbxWrite_kept {src : W32} {m : Nat} {off : Nat} {f : State → State} {s : State} (hf : ∀ y0, KSt w0 y0 → KSt w0 (f y0)) (hs0 : KSt w0 s) : KSt w0 (mbxWrite src m off f s) := by
  unfold mbxWrite
  repeat' first
    | with_reducible assumption
    | with_reducible intro _
    | with_reducible apply foreignWrite_kept
    | with_reducible apply KSt.ite
    | with_reducible apply hf
    | fail_if_no_progress (with_reducible apply KSt.mk'; on_goal 2 => rfl)

theorem execMbxReqTailWrite_kept {src : W32} {m : Nat} {v : W32} {s : State} (hs0 : KSt w0 s) : KOut w0 (execMbxReqTailWrite src m v s) := by
  unfold execMbxReqTailWrite
  repeat' first
    | with_reducible assumption
    | with_reducible apply mbxWrite_kept
    | with_reducible apply writeReqTail_kept
    | with_reducible apply KOut.inRange

theorem execMbxRspHeadWrite_kept {src : W32} {m : Nat} {v : W32} {s : State} (hs0 : KSt w0 s) : KOut w0 (execMbxRspHeadWrite src m v s) := by
  unfold execMbxRspHeadWrite
  repeat' first
    | with_reducible assumption
    | with_reducible apply mbxWrite_kept
    | with_reducible apply writeRspHead_kept
    | with_reducible apply KOut.inRange

theorem execRingReset_kept {src : W32} {m : Nat} {v : W32} {s : State} (hs0 : KSt w0 s) : KOut w0 (execRingReset src m v s) := by
  unfold execRingReset
  repeat' first
    | with_reducible assumption
    | with_reducible apply mbxWrite_kept
    | with_reducible apply writeMbxCtrl_kept
    | with_reducible apply KOut.inRange

theorem mbxDoorbell_kept {src : W32} {v : W32} {s : State} (hs0 : KSt w0 s) : KSt w0 (mbxDoorbell src v s) := by
  unfold mbxDoorbell
  repeat' first
    | with_reducible assumption
    | with_reducible intro _
    | with_reducible apply setMbx_kept
    | with_reducible apply foreignWrite_kept
    | with_reducible apply KSt.ite
    | fail_if_no_progress (with_reducible apply KSt.mk'; on_goal 2 => rfl)

theorem execMbxDoorbell_kept {src : W32} {v : W32} {s : State} (hs0 : KSt w0 s) : KOut w0 (execMbxDoorbell src v s) := by
  unfold execMbxDoorbell
  repeat' first
    | with_reducible assumption
    | with_reducible apply mbxDoorbell_kept
    | with_reducible apply KOut.inRange

theorem eventDeliver_kept {m : Nat} {s : State} (hs0 : KSt w0 s) : KSt w0 (eventDeliver m s) := by
  unfold eventDeliver
  repeat' first
    | with_reducible assumption
    | with_reducible intro _
    | with_reducible apply putMsg_kept
    | with_reducible apply setMbx_kept
    | with_reducible apply KSt.ite
    | split

theorem execEventDeliver_kept {m : Nat} {s : State} (hs0 : KSt w0 s) : KOut w0 (execEventDeliver m s) := by
  unfold execEventDeliver
  repeat' first
    | with_reducible assumption
    | with_reducible apply eventDeliver_kept
    | with_reducible apply KOut.inRange

theorem releaseCommits_kept {p : CmdRef → Bool} {s : State} (hs : KSt w0 s) : KSt w0 (releaseCommits p s) := by
  unfold releaseCommits
  repeat' first
    | with_reducible assumption
    | with_reducible intro _
    | with_reducible apply KSt.ite
    | with_reducible refine KFst.of_eq (by assumption) ?_
    | with_reducible refine KOpt.of_eq (by assumption) ?_
    | with_reducible refine KFst.fst ?_
    | fail_if_no_progress (with_reducible apply KSt.mk'; on_goal 2 => rfl)
    | split
    | (dsimp only; split)

theorem cmdDone_kept {m : Nat} {tag : Byte} {s : State} (hs : KSt w0 s) : KSt w0 (cmdDone m tag s) := by
  unfold cmdDone
  repeat' first
    | with_reducible assumption
    | with_reducible intro _
    | with_reducible apply releaseCommits_kept
    | with_reducible apply setMbx_kept
    | with_reducible apply accepted_kept
    | with_reducible apply KSt.ite
    | with_reducible refine KFst.of_eq (by assumption) ?_
    | with_reducible refine KOpt.of_eq (by assumption) ?_
    | with_reducible refine KFst.fst ?_
    | fail_if_no_progress (with_reducible apply KSt.mk'; on_goal 2 => rfl)
    | split
    | (dsimp only; split)

theorem execCmdDone_kept {m : Nat} {tag : Byte} {s : State} (hs0 : KSt w0 s) : KOut w0 (execCmdDone m tag s) := by
  unfold execCmdDone
  repeat' first
    | with_reducible assumption
    | with_reducible apply cmdDone_kept
    | with_reducible apply KOut.inRange

theorem getCaps_kept {r : Req} {s : State} (hs0 : KSt w0 s) : KAns w0 (getCaps r s) := by
  unfold getCaps
  repeat' first
    | with_reducible assumption
    | with_reducible apply KAns.okay

theorem execGetCaps_kept {m : Nat} {s : State} (hs0 : KSt w0 s) : KOut w0 (execGetCaps m s) := by
  unfold execGetCaps
  repeat' first
    | with_reducible assumption
    | with_reducible apply takeUpCard_kept
    | with_reducible apply getCaps_kept
    | with_reducible apply KOut.inRange

theorem getOpcodeInfo_kept {r : Req} {s : State} (hs0 : KSt w0 s) : KAns w0 (getOpcodeInfo r s) := by
  unfold getOpcodeInfo
  repeat' first
    | with_reducible assumption
    | with_reducible apply KAns.okay
    | split

theorem execGetOpcodeInfo_kept {m : Nat} {s : State} (hs0 : KSt w0 s) : KOut w0 (execGetOpcodeInfo m s) := by
  unfold execGetOpcodeInfo
  repeat' first
    | with_reducible assumption
    | with_reducible apply takeUpCard_kept
    | with_reducible apply getOpcodeInfo_kept
    | with_reducible apply KOut.inRange

theorem mbxGrant_kept {r : Req} {s : State} (hs : KSt w0 s) : KAns w0 (mbxGrant r s) := by
  unfold mbxGrant
  repeat' first
    | with_reducible assumption
    | with_reducible intro _
    | with_reducible apply reject_kept
    | with_reducible apply setMbx_kept
    | with_reducible apply accepted_kept
    | with_reducible apply KSt.ite
    | with_reducible apply KAns.ite
    | with_reducible apply KAns.ite
    | with_reducible apply KAns.hold
    | with_reducible apply KAns.reject
    | with_reducible apply KAns.okay
    | with_reducible apply KAns.done
    | with_reducible apply KAns.keep
    | with_reducible apply KAns.wait
    | with_reducible refine KFst.of_eq (by assumption) ?_
    | with_reducible refine KOpt.of_eq (by assumption) ?_
    | with_reducible refine KFst.fst ?_
    | fail_if_no_progress (with_reducible apply KSt.mk'; on_goal 2 => rfl)
    | split
    | (dsimp only; split)

theorem execMbxGrant_kept {m : Nat} {s : State} (hs0 : KSt w0 s) : KOut w0 (execMbxGrant m s) := by
  unfold execMbxGrant
  repeat' first
    | with_reducible assumption
    | with_reducible apply takeUpCard_kept
    | with_reducible apply mbxGrant_kept
    | with_reducible apply KOut.inRange

theorem eventMask_kept {r : Req} {s : State} (hs0 : KSt w0 s) : KAns w0 (eventMask r s) := by
  unfold eventMask
  repeat' first
    | with_reducible assumption
    | with_reducible apply setMbx_kept
    | with_reducible apply KAns.okay

theorem execEventMask_kept {m : Nat} {s : State} (hs0 : KSt w0 s) : KOut w0 (execEventMask m s) := by
  unfold execEventMask
  repeat' first
    | with_reducible assumption
    | with_reducible apply takeUpCard_kept
    | with_reducible apply eventMask_kept
    | with_reducible apply KOut.inRange

end Sys2Proof.Machine
end

