-- ==== Sys2Proof/Laws/KeptObjects.lean ====
section
/-! SUPPORT. What the operations of Machine/Objects.lean keep. -/

namespace Sys2Proof.Machine

variable {w0 : List Instr}

theorem beginDestroy_kept {c : Nat} {cmd : Option CmdRef} {s : State} (hs0 : KSt w0 s) : KSt w0 (beginDestroy c cmd s) := by
  unfold beginDestroy
  repeat' first
    | with_reducible assumption
    | with_reducible intro _
    | with_reducible apply setCtx_kept
    | with_reducible apply KSt.ite
    | with_reducible apply KSt.foldl
    | with_reducible apply KSt.fst_ite
    | with_reducible apply KSt.id
    | with_reducible refine KFst.of_eq (by assumption) ?_
    | fail_if_no_progress (with_reducible apply KSt.mk'; on_goal 2 => rfl)

theorem mbxRevoke_kept {r : Req} {s : State} (hs : KSt w0 s) : KAns w0 (mbxRevoke r s) := by
  unfold mbxRevoke
  repeat' first
    | with_reducible assumption
    | with_reducible intro _
    | with_reducible apply reject_kept
    | with_reducible apply acceptOr_kept
    | with_reducible apply setMbx_kept
    | with_reducible apply finishRevoke_kept
    | with_reducible apply beginDestroy_kept
    | with_reducible apply KSt.ite
    | with_reducible apply KAns.ite
    | with_reducible apply KAns.ite
    | with_reducible apply KAns.hold
    | with_reducible apply KAns.reject
    | with_reducible apply KAns.okay
    | with_reducible apply KAns.done
    | with_reducible apply KAns.keep
    | with_reducible apply KAns.wait
    | with_reducible apply KSt.foldl
    | with_reducible apply KFst.foldl
    | with_reducible refine KFst.of_eq (by assumption) ?_
    | with_reducible refine KOpt.of_eq (by assumption) ?_
    | with_reducible refine KFst.fst ?_
    | fail_if_no_progress (with_reducible apply KSt.mk'; on_goal 2 => rfl)
    | split
    | (dsimp only; split)

theorem execMbxRevoke_kept {m : Nat} {s : State} (hs0 : KSt w0 s) : KOut w0 (execMbxRevoke m s) := by
  unfold execMbxRevoke
  repeat' first
    | with_reducible assumption
    | with_reducible intro _
    | with_reducible apply takeUpCard_kept
    | with_reducible apply mbxRevoke_kept
    | with_reducible apply KOut.inRange

theorem ctxCreate_kept {r : Req} {s : State} (hs : KSt w0 s) : KAns w0 (ctxCreate r s) := by
  unfold ctxCreate
  repeat' first
    | with_reducible assumption
    | with_reducible intro _
    | with_reducible apply reject_kept
    | with_reducible apply remoteAnswer_kept
    | with_reducible apply setCtx_kept
    | with_reducible apply KSt.ite
    | with_reducible apply KAns.ite
    | with_reducible apply KAns.ite
    | with_reducible apply KAns.hold
    | with_reducible apply KAns.reject
    | with_reducible apply KAns.okay
    | with_reducible apply KAns.done
    | with_reducible apply KAns.keep
    | with_reducible apply KAns.wait
    | with_reducible refine KFst.of_eq (by assumption) ?_
    | with_reducible refine KOpt.of_eq (by assumption) ?_
    | with_reducible refine KFst.fst ?_
    | fail_if_no_progress (with_reducible apply KSt.mk'; on_goal 2 => rfl)
    | split
    | (dsimp only; split)

theorem execCtxCreate_kept {m : Nat} {s : State} (hs0 : KSt w0 s) : KOut w0 (execCtxCreate m s) := by
  unfold execCtxCreate
  repeat' first
    | with_reducible assumption
    | with_reducible intro _
    | with_reducible apply takeUpCard_kept
    | with_reducible apply ctxCreate_kept
    | with_reducible apply KOut.inRange

theorem withOwnCtx_kept {r : Req} {rspLen : Nat} {long : Bool} {f : Nat → State → Ans} {s : State} (hf : ∀ y0 y1, KSt w0 y1 → KAns w0 (f y0 y1)) (hs : KSt w0 s) : KAns w0 (withOwnCtx r rspLen long f s) := by
  unfold withOwnCtx
  repeat' first
    | with_reducible assumption
    | with_reducible intro _
    | with_reducible apply withCtx_kept
    | with_reducible apply reject_kept
    | with_reducible apply hf
    | with_reducible apply KSt.ite
    | with_reducible apply KAns.ite
    | with_reducible apply KAns.ite
    | with_reducible apply KAns.hold
    | with_reducible apply KAns.reject
    | with_reducible apply KAns.okay
    | with_reducible apply KAns.done
    | with_reducible apply KAns.keep
    | with_reducible apply KAns.wait
    | with_reducible refine KFst.of_eq (by assumption) ?_
    | with_reducible refine KOpt.of_eq (by assumption) ?_
    | with_reducible refine KFst.fst ?_
    | fail_if_no_progress (with_reducible apply KSt.mk'; on_goal 2 => rfl)
    | split
    | (dsimp only; split)

theorem ctxDestroy_kept {r : Req} {s : State} (hs0 : KSt w0 s) : KAns w0 (ctxDestroy r s) := by
  unfold ctxDestroy
  repeat' first
    | with_reducible assumption
    | with_reducible intro _
    | with_reducible apply withOwnCtx_kept
    | with_reducible apply acceptOr_kept
    | with_reducible apply beginDestroy_kept

theorem execCtxDestroy_kept {m : Nat} {s : State} (hs0 : KSt w0 s) : KOut w0 (execCtxDestroy m s) := by
  unfold execCtxDestroy
  repeat' first
    | with_reducible assumption
    | with_reducible intro _
    | with_reducible apply takeUpCard_kept
    | with_reducible apply ctxDestroy_kept
    | with_reducible apply KOut.inRange

theorem zeroMem_kept {a : Nat} {n : Nat} {s : State} (hs0 : KSt w0 s) : KSt w0 (zeroMem a n s) := by
  unfold zeroMem
  repeat' first
    | with_reducible assumption
    | with_reducible intro _
    | with_reducible apply KSt.ite
    | with_reducible apply KSt.foldl
    | with_reducible apply KSt.fst_ite
    | with_reducible apply KSt.id
    | with_reducible refine KFst.of_eq (by assumption) ?_
    | with_reducible refine KSt.mem ?_ (KSt.wf_filters (by assumption)) rfl

theorem moCreate_kept {r : Req} {s : State} (hs : KSt w0 s) : KAns w0 (moCreate r s) := by
  unfold moCreate
  repeat' first
    | with_reducible assumption
    | with_reducible intro _
    | with_reducible apply reject_kept
    | with_reducible apply withOwnCtx_kept
    | with_reducible apply setMot_kept
    | with_reducible apply zeroMem_kept
    | with_reducible apply KSt.ite
    | with_reducible apply KAns.ite
    | with_reducible apply KAns.ite
    | with_reducible apply KAns.hold
    | with_reducible apply KAns.reject
    | with_reducible apply KAns.okay
    | with_reducible apply KAns.done
    | with_reducible apply KAns.keep
    | with_reducible apply KAns.wait
    | with_reducible apply KSt.id
    | with_reducible refine KFst.of_eq (by assumption) ?_
    | with_reducible refine KOpt.of_eq (by assumption) ?_
    | with_reducible refine KFst.fst ?_
    | fail_if_no_progress (with_reducible apply KSt.mk'; on_goal 2 => rfl)
    | split
    | (dsimp only; split)

theorem execMoCreate_kept {m : Nat} {s : State} (hs0 : KSt w0 s) : KOut w0 (execMoCreate m s) := by
  unfold execMoCreate
  repeat' first
    | with_reducible assumption
    | with_reducible intro _
    | with_reducible apply takeUpCard_kept
    | with_reducible apply moCreate_kept
    | with_reducible apply KOut.inRange

theorem withObject_kept {r : Req} {off : Nat} {bad : Nat → MotEntry → W16} {f : Nat → MotEntry → State → Ans} {s : State} (hf : ∀ y0 y1 y2, KSt w0 y2 → KAns w0 (f y0 y1 y2)) (hs : KSt w0 s) : KAns w0 (withObject r off bad f s) := by
  unfold withObject
  repeat' first
    | with_reducible assumption
    | with_reducible intro _
    | with_reducible apply reject_kept
    | with_reducible apply hf
    | with_reducible apply KSt.ite
    | with_reducible apply KAns.ite
    | with_reducible apply KAns.ite
    | with_reducible apply KAns.hold
    | with_reducible apply KAns.reject
    | with_reducible apply KAns.okay
    | with_reducible apply KAns.done
    | with_reducible apply KAns.keep
    | with_reducible apply KAns.wait
    | with_reducible refine KFst.of_eq (by assumption) ?_
    | with_reducible refine KOpt.of_eq (by assumption) ?_
    | with_reducible refine KFst.fst ?_
    | fail_if_no_progress (with_reducible apply KSt.mk'; on_goal 2 => rfl)
    | split
    | (dsimp only; split)

theorem moDestroy_kept {r : Req} {s : State} (hs : KSt w0 s) : KAns w0 (moDestroy r s) := by
  unfold moDestroy
  repeat' first
    | with_reducible assumption
    | with_reducible intro _
    | with_reducible apply withObject_kept
    | with_reducible apply reject_kept
    | with_reducible apply freeMot_kept
    | with_reducible apply KSt.ite
    | with_reducible apply KAns.ite
    | with_reducible apply KAns.ite
    | with_reducible apply KAns.hold
    | with_reducible apply KAns.reject
    | with_reducible apply KAns.okay
    | with_reducible apply KAns.done
    | with_reducible apply KAns.keep
    | with_reducible apply KAns.wait
    | with_reducible refine KFst.of_eq (by assumption) ?_
    | with_reducible refine KOpt.of_eq (by assumption) ?_
    | with_reducible refine KFst.fst ?_
    | fail_if_no_progress (with_reducible apply KSt.mk'; on_goal 2 => rfl)
    | split
    | (dsimp only; split)

theorem execMoDestroy_kept {m : Nat} {s : State} (hs0 : KSt w0 s) : KOut w0 (execMoDestroy m s) := by
  unfold execMoDestroy
  repeat' first
    | with_reducible assumption
    | with_reducible intro _
    | with_reducible apply takeUpCard_kept
    | with_reducible apply moDestroy_kept
    | with_reducible apply KOut.inRange

theorem moLock_kept {r : Req} {s : State} (hs : KSt w0 s) : KAns w0 (moLock r s) := by
  unfold moLock
  repeat' first
    | with_reducible assumption
    | with_reducible intro _
    | with_reducible apply reject_kept
    | with_reducible apply withObject_kept
    | with_reducible apply setMot_kept
    | with_reducible apply KSt.ite
    | with_reducible apply KAns.ite
    | with_reducible apply KAns.ite
    | with_reducible apply KAns.hold
    | with_reducible apply KAns.reject
    | with_reducible apply KAns.okay
    | with_reducible apply KAns.done
    | with_reducible apply KAns.keep
    | with_reducible apply KAns.wait
    | with_reducible refine KFst.of_eq (by assumption) ?_
    | with_reducible refine KOpt.of_eq (by assumption) ?_
    | with_reducible refine KFst.fst ?_
    | fail_if_no_progress (with_reducible apply KSt.mk'; on_goal 2 => rfl)
    | split
    | (dsimp only; split)

theorem execMoLock_kept {m : Nat} {s : State} (hs0 : KSt w0 s) : KOut w0 (execMoLock m s) := by
  unfold execMoLock
  repeat' first
    | with_reducible assumption
    | with_reducible intro _
    | with_reducible apply takeUpCard_kept
    | with_reducible apply moLock_kept
    | with_reducible apply KOut.inRange

theorem queueCreate_kept {r : Req} {s : State} (hs : KSt w0 s) : KAns w0 (queueCreate r s) := by
  unfold queueCreate
  repeat' first
    | with_reducible assumption
    | with_reducible intro _
    | with_reducible apply reject_kept
    | with_reducible apply withCtx_kept
    | with_reducible apply setMot_kept
    | with_reducible apply setQueue_kept
    | with_reducible apply KSt.ite
    | with_reducible apply KAns.ite
    | with_reducible apply KAns.ite
    | with_reducible apply KAns.hold
    | with_reducible apply KAns.reject
    | with_reducible apply KAns.okay
    | with_reducible apply KAns.done
    | with_reducible apply KAns.keep
    | with_reducible apply KAns.wait
    | with_reducible refine KFst.of_eq (by assumption) ?_
    | with_reducible refine KOpt.of_eq (by assumption) ?_
    | with_reducible refine KFst.fst ?_
    | fail_if_no_progress (with_reducible apply KSt.mk'; on_goal 2 => rfl)
    | split
    | (dsimp only; split)

theorem execQueueCreate_kept {m : Nat} {s : State} (hs0 : KSt w0 s) : KOut w0 (execQueueCreate m s) := by
  unfold execQueueCreate
  repeat' first
    | with_reducible assumption
    | with_reducible intro _
    | with_reducible apply takeUpCard_kept
    | with_reducible apply queueCreate_kept
    | with_reducible apply KOut.inRange

theorem settle_kept {q : Nat} {s : State} (hs0 : KSt w0 s) : KSt w0 (settle q s) := by
  unfold settle
  repeat' first
    | with_reducible assumption
    | with_reducible intro _
    | with_reducible apply setQueue_kept
    | with_reducible apply poison_kept
    | with_reducible apply freeQueue_kept
    | with_reducible apply KSt.ite
    | with_reducible apply KSt.foldl
    | with_reducible apply KSt.fst_ite
    | with_reducible apply KSt.id
    | with_reducible refine KFst.of_eq (by assumption) ?_
    | fail_if_no_progress (with_reducible apply KSt.mk'; on_goal 2 => rfl)
    | split

theorem queueDestroy_kept {r : Req} {s : State} (hs : KSt w0 s) : KAns w0 (queueDestroy r s) := by
  unfold queueDestroy
  repeat' first
    | with_reducible assumption
    | with_reducible intro _
    | with_reducible apply reject_kept
    | with_reducible apply acceptOr_kept
    | with_reducible apply settle_kept
    | with_reducible apply setQueue_kept
    | with_reducible apply KSt.ite
    | with_reducible apply KAns.ite
    | with_reducible apply KAns.ite
    | with_reducible apply KAns.hold
    | with_reducible apply KAns.reject
    | with_reducible apply KAns.okay
    | with_reducible apply KAns.done
    | with_reducible apply KAns.keep
    | with_reducible apply KAns.wait
    | with_reducible refine KFst.of_eq (by assumption) ?_
    | with_reducible refine KOpt.of_eq (by assumption) ?_
    | with_reducible refine KFst.fst ?_
    | fail_if_no_progress (with_reducible apply KSt.mk'; on_goal 2 => rfl)
    | split
    | (dsimp only; split)

theorem execQueueDestroy_kept {m : Nat} {s : State} (hs0 : KSt w0 s) : KOut w0 (execQueueDestroy m s) := by
  unfold execQueueDestroy
  repeat' first
    | with_reducible assumption
    | with_reducible intro _
    | with_reducible apply takeUpCard_kept
    | with_reducible apply queueDestroy_kept
    | with_reducible apply KOut.inRange

theorem fenceCreate_kept {r : Req} {s : State} (hs0 : KSt w0 s) : KAns w0 (fenceCreate r s) := by
  unfold fenceCreate
  repeat' first
    | with_reducible assumption
    | with_reducible intro _
    | with_reducible apply withOwnCtx_kept
    | with_reducible apply setMot_kept
    | with_reducible apply setFence_kept
    | with_reducible apply KSt.ite
    | with_reducible apply KSt.foldl
    | with_reducible apply KSt.fst_ite
    | with_reducible apply KSt.id
    | with_reducible apply KAns.ite
    | with_reducible apply KAns.hold
    | with_reducible apply KAns.reject
    | with_reducible apply KAns.okay
    | with_reducible apply KAns.done
    | with_reducible apply KAns.wait
    | with_reducible apply KAns.keep
    | with_reducible refine KFst.of_eq (by assumption) ?_
    | with_reducible refine KAns.of_keep (by assumption) ?_
    | with_reducible refine KAns.of_wait (by assumption) ?_
    | with_reducible refine KAns.of_done (by assumption) ?_
    | split

theorem execFenceCreate_kept {m : Nat} {s : State} (hs0 : KSt w0 s) : KOut w0 (execFenceCreate m s) := by
  unfold execFenceCreate
  repeat' first
    | with_reducible assumption
    | with_reducible intro _
    | with_reducible apply takeUpCard_kept
    | with_reducible apply fenceCreate_kept
    | with_reducible apply KOut.inRange

theorem fenceRecycle_kept {r : Req} {s : State} (hs : KSt w0 s) : KAns w0 (fenceRecycle r s) := by
  unfold fenceRecycle
  repeat' first
    | with_reducible assumption
    | with_reducible intro _
    | with_reducible apply reject_kept
    | with_reducible apply withObject_kept
    | with_reducible apply setFence_kept
    | with_reducible apply setMot_kept
    | with_reducible apply KSt.ite
    | with_reducible apply KAns.ite
    | with_reducible apply KAns.ite
    | with_reducible apply KAns.hold
    | with_reducible apply KAns.reject
    | with_reducible apply KAns.okay
    | with_reducible apply KAns.done
    | with_reducible apply KAns.keep
    | with_reducible apply KAns.wait
    | with_reducible refine KFst.of_eq (by assumption) ?_
    | with_reducible refine KOpt.of_eq (by assumption) ?_
    | with_reducible refine KFst.fst ?_
    | fail_if_no_progress (with_reducible apply KSt.mk'; on_goal 2 => rfl)
    | split
    | (dsimp only; split)

theorem execFenceRecycle_kept {m : Nat} {s : State} (hs0 : KSt w0 s) : KOut w0 (execFenceRecycle m s) := by
  unfold execFenceRecycle
  repeat' first
    | with_reducible assumption
    | with_reducible intro _
    | with_reducible apply takeUpCard_kept
    | with_reducible apply fenceRecycle_kept
    | with_reducible apply KOut.inRange

theorem monitorAlloc_kept {r : Req} {s : State} (hs0 : KSt w0 s) : KAns w0 (monitorAlloc r s) := by
  unfold monitorAlloc
  repeat' first
    | with_reducible assumption
    | with_reducible intro _
    | with_reducible apply withOwnCtx_kept
    | with_reducible apply setSlot_kept
    | with_reducible apply KSt.ite
    | with_reducible apply KSt.foldl
    | with_reducible apply KSt.fst_ite
    | with_reducible apply KSt.id
    | with_reducible apply KAns.ite
    | with_reducible apply KAns.hold
    | with_reducible apply KAns.reject
    | with_reducible apply KAns.okay
    | with_reducible apply KAns.done
    | with_reducible apply KAns.wait
    | with_reducible apply KAns.keep
    | with_reducible refine KFst.of_eq (by assumption) ?_
    | with_reducible refine KAns.of_keep (by assumption) ?_
    | with_reducible refine KAns.of_wait (by assumption) ?_
    | with_reducible refine KAns.of_done (by assumption) ?_
    | split

theorem execMonitorAlloc_kept {m : Nat} {s : State} (hs0 : KSt w0 s) : KOut w0 (execMonitorAlloc m s) := by
  unfold execMonitorAlloc
  repeat' first
    | with_reducible assumption
    | with_reducible intro _
    | with_reducible apply takeUpCard_kept
    | with_reducible apply monitorAlloc_kept
    | with_reducible apply KOut.inRange

theorem keeperCheckRecord_kept {a : Nat} {s : State} (hs : KSt w0 s) : KSt w0 (keeperCheckRecord a s) := by
  unfold keeperCheckRecord
  repeat' first
    | with_reducible assumption
    | with_reducible intro _
    | with_reducible apply recordOf_kept
    | with_reducible apply KSt.ite
    | with_reducible refine KFst.of_eq (by assumption) ?_
    | with_reducible refine KOpt.of_eq (by assumption) ?_
    | with_reducible refine KFst.fst ?_
    | fail_if_no_progress (with_reducible apply KSt.mk'; on_goal 2 => rfl)
    | split
    | (dsimp only; split)

theorem jobLoadRun_kept {c : Nat} {src : Nat} {dest : Nat} {i : Nat} {a : Nat} {n : Nat} {k : CmdRef} {s : State} (hs : KSt w0 s) : KSt w0 (jobLoadRun c src dest i a n k s) := by
  unfold jobLoadRun
  repeat' first
    | with_reducible assumption
    | with_reducible intro _
    | with_reducible apply finishCmd_kept
    | with_reducible apply keeperCheckRecord_kept
    | with_reducible apply setMot_kept
    | with_reducible apply memWrite_kept
    | with_reducible apply zeroMem_kept
    | with_reducible apply KSt.ite
    | with_reducible refine KFst.of_eq (by assumption) ?_
    | with_reducible refine KOpt.of_eq (by assumption) ?_
    | with_reducible refine KFst.fst ?_
    | fail_if_no_progress (with_reducible apply KSt.mk'; on_goal 2 => rfl)
    | split
    | (dsimp only; split)

theorem jobLoad_kept {r : Req} {s : State} (hs : KSt w0 s) : KAns w0 (jobLoad r s) := by
  unfold jobLoad
  repeat' first
    | with_reducible assumption
    | with_reducible intro _
    | with_reducible apply reject_kept
    | with_reducible apply withCtx_kept
    | with_reducible apply whenAwake_kept
    | with_reducible apply accepted_kept
    | with_reducible apply jobLoadRun_kept
    | with_reducible apply KSt.ite
    | with_reducible apply KAns.ite
    | with_reducible apply KAns.ite
    | with_reducible apply KAns.hold
    | with_reducible apply KAns.reject
    | with_reducible apply KAns.okay
    | with_reducible apply KAns.done
    | with_reducible apply KAns.keep
    | with_reducible apply KAns.wait
    | with_reducible refine KFst.of_eq (by assumption) ?_
    | with_reducible refine KOpt.of_eq (by assumption) ?_
    | with_reducible refine KFst.fst ?_
    | fail_if_no_progress (with_reducible apply KSt.mk'; on_goal 2 => rfl)
    | split
    | (dsimp only; split)

theorem execJobLoad_kept {m : Nat} {s : State} (hs0 : KSt w0 s) : KOut w0 (execJobLoad m s) := by
  unfold execJobLoad
  repeat' first
    | with_reducible assumption
    | with_reducible intro _
    | with_reducible apply takeUpCard_kept
    | with_reducible apply jobLoad_kept
    | with_reducible apply KOut.inRange

end Sys2Proof.Machine
end

