-- ==== Sys2Proof/Laws/KeptQueue.lean ====
section
/-! SUPPORT. What the operations of Machine/Queue.lean keep. -/

namespace Sys2Proof.Machine

variable {w0 : List Instr}

theorem takeDoorbell_kept {q : Nat} {v : W32} {s : State} (hs0 : KSt w0 s) : KSt w0 (takeDoorbell q v s) := by
  unfold takeDoorbell
  repeat' first
    | with_reducible assumption
    | with_reducible intro _
    | with_reducible apply setQueue_kept
    | with_reducible apply haltQueue_kept
    | with_reducible apply KSt.ite

theorem queueDoorbell_kept {src : W32} {q : Nat} {v : W32} {s : State} (hs0 : KSt w0 s) : KSt w0 (queueDoorbell src q v s) := by
  unfold queueDoorbell
  repeat' first
    | with_reducible assumption
    | with_reducible intro _
    | with_reducible apply refuseWrite_kept
    | with_reducible apply takeDoorbell_kept
    | with_reducible apply answer_kept
    | with_reducible apply KSt.ite

theorem execQueueDoorbell_kept {src : W32} {q : Nat} {v : W32} {s : State} (hs0 : KSt w0 s) : KOut w0 (execQueueDoorbell src q v s) := by
  unfold execQueueDoorbell
  repeat' first
    | with_reducible assumption
    | with_reducible apply queueDoorbell_kept
    | with_reducible apply KOut.inRange

theorem fenceUnit_kept {s : State} (hs : KSt w0 s) : KSt w0 (fenceUnit s) := by
  unfold fenceUnit
  repeat' first
    | with_reducible assumption
    | with_reducible intro _
    | with_reducible apply settle_kept
    | with_reducible apply fenceSignal_kept
    | with_reducible apply KSt.ite
    | with_reducible refine KFst.of_eq (by assumption) ?_
    | with_reducible refine KOpt.of_eq (by assumption) ?_
    | with_reducible refine KFst.fst ?_
    | fail_if_no_progress (with_reducible apply KSt.mk'; on_goal 2 => rfl)
    | split
    | (dsimp only; split)

theorem execFenceSignal_kept {s : State} (hs0 : KSt w0 s) : KOut w0 (execFenceSignal s) := by
  unfold execFenceSignal
  repeat' first
    | with_reducible assumption
    | with_reducible apply fenceUnit_kept
    | with_reducible apply KOut.inRange

theorem gatherUnits_kept {typ : Nat} {mask : W64} {s : State} (hs : KSt w0 s) : KStart w0 (gatherUnits typ mask s) := by
  unfold gatherUnits
  repeat' first
    | with_reducible assumption
    | with_reducible intro _
    | with_reducible apply noticeOf_kept
    | with_reducible apply KSt.ite
    | with_reducible apply KStart.ite
    | with_reducible apply KFst.mk
    | with_reducible apply KFst.ite
    | with_reducible apply KStart.hold
    | with_reducible apply KStart.fail
    | with_reducible apply KStart.fault
    | with_reducible apply KStart.barred
    | with_reducible apply KStart.go
    | with_reducible apply KSt.foldl
    | with_reducible apply KFst.foldl
    | with_reducible refine KFst.of_eq (by assumption) ?_
    | with_reducible refine KOpt.of_eq (by assumption) ?_
    | with_reducible refine KFst.fst ?_
    | with_reducible apply KOpt.getD
    | fail_if_no_progress (with_reducible apply KSt.mk'; on_goal 2 => rfl)
    | split
    | (dsimp only; split)

theorem faultQueue_kept {q : Nat} {d : W32} {code : W16} {addr : Nat} {s : State} (hs0 : KSt w0 s) : KSt w0 (faultQueue q d code addr s) := by
  unfold faultQueue
  repeat' first
    | with_reducible assumption
    | with_reducible apply faultCtx_kept

theorem dispatchTo_kept {typ : Nat} {ctx : Nat} {us : List Nat} {s : State} (hs : KSt w0 s) : KSt w0 (dispatchTo typ ctx us s) := by
  unfold dispatchTo
  repeat' first
    | with_reducible assumption
    | with_reducible intro _
    | with_reducible apply carryOne_kept
    | with_reducible apply KSt.ite
    | with_reducible apply KSt.foldl
    | with_reducible apply KFst.foldl
    | with_reducible refine KFst.of_eq (by assumption) ?_
    | with_reducible refine KOpt.of_eq (by assumption) ?_
    | with_reducible refine KFst.fst ?_
    | fail_if_no_progress (with_reducible apply KSt.mk'; on_goal 2 => rfl)
    | split
    | (dsimp only; split)

theorem startDesc_kept {typ : Nat} {late : Queue → Bytes → State → Start} {begin_ : Nat → Desc → State → State} {q : Nat} {s : State} (hlate : ∀ y0 y1 y2, KSt w0 y2 → KStart w0 (late y0 y1 y2)) (hbegin_ : ∀ y0 y1 y2, KSt w0 y2 → KSt w0 (begin_ y0 y1 y2)) (hs : KSt w0 s) : KSt w0 (startDesc typ late begin_ q s) := by
  unfold startDesc
  repeat' first
    | with_reducible assumption
    | with_reducible intro _
    | with_reducible apply noticeDomain_kept
    | with_reducible apply faultQueue_kept
    | with_reducible apply haltQueue_kept
    | with_reducible apply faultNotice_kept
    | with_reducible apply dispatchTo_kept
    | with_reducible apply setQueue_kept
    | with_reducible refine KStart.of_eq (by assumption) ?_
    | with_reducible apply hlate
    | with_reducible apply hbegin_
    | with_reducible apply KSt.ite
    | with_reducible apply KFst.mk
    | with_reducible apply KFst.ite
    | with_reducible refine KFst.of_eq (by assumption) ?_
    | with_reducible refine KOpt.of_eq (by assumption) ?_
    | with_reducible refine KFst.fst ?_
    | fail_if_no_progress (with_reducible apply KSt.mk'; on_goal 2 => rfl)
    | split
    | (dsimp only; split)

theorem markFinished_kept {q : Nat} {d : W32} {s : State} (hs0 : KSt w0 s) : KSt w0 (markFinished q d s) := by
  unfold markFinished
  repeat' first
    | with_reducible assumption
    | with_reducible apply setQueue_kept

theorem noUnits_kept {u0 : Queue} {u1 : Bytes} {u2 : State} (hu2 : KSt w0 u2) : KStart w0 (noUnits u0 u1 u2) := by
  unfold noUnits
  repeat' first
    | with_reducible apply KStart.go

theorem execBarrier_kept {q : Nat} {s : State} (hs0 : KSt w0 s) : KOut w0 (execBarrier q s) := by
  unfold execBarrier
  repeat' first
    | with_reducible assumption
    | with_reducible intro _
    | with_reducible apply startDesc_kept
    | with_reducible apply noUnits_kept
    | with_reducible apply markFinished_kept
    | with_reducible apply KOut.inRange

theorem execNopDescriptor_kept {q : Nat} {s : State} (hs0 : KSt w0 s) : KOut w0 (execNopDescriptor q s) := by
  unfold execNopDescriptor
  repeat' first
    | with_reducible assumption
    | with_reducible intro _
    | with_reducible apply startDesc_kept
    | with_reducible apply noUnits_kept
    | with_reducible apply markFinished_kept
    | with_reducible apply KOut.inRange

theorem execCopy_kept {q : Nat} {s : State} (hs0 : KSt w0 s) : KOut w0 (execCopy q s) := by
  unfold execCopy
  repeat' first
    | with_reducible assumption
    | with_reducible intro _
    | with_reducible apply startDesc_kept
    | with_reducible apply noUnits_kept
    | with_reducible apply KOut.inRange

theorem setDesc_kept {q : Nat} {d : W32} {f : Desc → Desc} {s : State} (hs : KSt w0 s) : KSt w0 (setDesc q d f s) := by
  unfold setDesc
  repeat' first
    | with_reducible assumption
    | with_reducible intro _
    | with_reducible apply setQueue_kept
    | with_reducible apply KSt.ite
    | with_reducible refine KFst.of_eq (by assumption) ?_
    | with_reducible refine KOpt.of_eq (by assumption) ?_
    | with_reducible refine KFst.fst ?_
    | fail_if_no_progress (with_reducible apply KSt.mk'; on_goal 2 => rfl)
    | split
    | (dsimp only; split)

theorem copyWindow_kept {k : Nat} {write : Bool} {q : Nat} {e : Desc} {a : Nat} {n : Nat} {l : Bytes} {s : State} (hs : KSt w0 s) : KSt w0 (copyWindow k write q e a n l s) := by
  unfold copyWindow
  repeat' first
    | with_reducible assumption
    | with_reducible intro _
    | with_reducible apply windowStep_kept
    | with_reducible apply faultQueue_kept
    | with_reducible apply setDesc_kept
    | with_reducible apply KSt.ite
    | with_reducible refine KFst.of_eq (by assumption) ?_
    | with_reducible refine KOpt.of_eq (by assumption) ?_
    | with_reducible refine KFst.fst ?_
    | fail_if_no_progress (with_reducible apply KSt.mk'; on_goal 2 => rfl)
    | split
    | (dsimp only; split)

theorem copyRun_kept {q : Nat} {e : Desc} {s : State} (hs : KSt w0 s) : KSt w0 (copyRun q e s) := by
  unfold copyRun
  repeat' first
    | with_reducible assumption
    | with_reducible intro _
    | with_reducible apply markFinished_kept
    | with_reducible apply failDesc_kept
    | with_reducible apply noticeDomain_kept
    | with_reducible apply faultQueue_kept
    | with_reducible apply copyWindow_kept
    | with_reducible apply refusedWrite_kept
    | with_reducible apply sendPackets_kept
    | with_reducible apply writeMem_kept
    | with_reducible apply KSt.ite
    | with_reducible apply KAns.ite
    | with_reducible apply KAns.hold
    | with_reducible apply KAns.reject
    | with_reducible apply KAns.okay
    | with_reducible apply KAns.done
    | with_reducible apply KAns.keep
    | with_reducible apply KAns.wait
    | with_reducible refine KFst.of_eq (by assumption) ?_
    | with_reducible refine KOpt.of_eq (by assumption) ?_
    | with_reducible refine KFst.fst ?_
    | with_reducible apply KOpt.getD
    | fail_if_no_progress (with_reducible apply KSt.mk'; on_goal 2 => rfl)
    | split
    | (dsimp only; split)

theorem kernelLate_kept {x : Queue} {b : Bytes} {s : State} (hs : KSt w0 s) : KStart w0 (kernelLate x b s) := by
  unfold kernelLate
  repeat' first
    | with_reducible assumption
    | with_reducible intro _
    | with_reducible apply noticeDomain_kept
    | with_reducible apply gatherUnits_kept
    | with_reducible apply KSt.ite
    | with_reducible apply KStart.ite
    | with_reducible apply KStart.hold
    | with_reducible apply KStart.fail
    | with_reducible apply KStart.fault
    | with_reducible apply KStart.barred
    | with_reducible apply KStart.go
    | with_reducible refine KFst.of_eq (by assumption) ?_
    | with_reducible refine KOpt.of_eq (by assumption) ?_
    | with_reducible refine KFst.fst ?_
    | fail_if_no_progress (with_reducible apply KSt.mk'; on_goal 2 => rfl)
    | split
    | (dsimp only; split)

theorem kernelBegin_kept {q : Nat} {e : Desc} {s : State} (hs0 : KSt w0 s) : KSt w0 (kernelBegin q e s) := by
  unfold kernelBegin
  repeat' first
    | with_reducible assumption
    | with_reducible intro _
    | with_reducible apply setCell_kept
    | with_reducible apply KSt.foldl

theorem execKernel_kept {q : Nat} {s : State} (hs0 : KSt w0 s) : KOut w0 (execKernel q s) := by
  unfold execKernel
  repeat' first
    | with_reducible assumption
    | with_reducible apply startDesc_kept
    | with_reducible apply kernelLate_kept
    | with_reducible apply kernelBegin_kept
    | with_reducible apply KOut.inRange

theorem writeReport_kept {q : Nat} {e : Desc} {h : W32} {w : Nat} {s : State} (hs : KSt w0 s) : KSt w0 (writeReport q e h w s) := by
  unfold writeReport
  repeat' first
    | with_reducible assumption
    | with_reducible intro _
    | with_reducible apply markFinished_kept
    | with_reducible apply faultQueue_kept
    | with_reducible apply noticeDomain_kept
    | with_reducible apply violation_kept
    | with_reducible apply memWrite_kept
    | with_reducible apply KSt.ite
    | with_reducible refine KFst.of_eq (by assumption) ?_
    | with_reducible refine KOpt.of_eq (by assumption) ?_
    | with_reducible refine KFst.fst ?_
    | fail_if_no_progress (with_reducible apply KSt.mk'; on_goal 2 => rfl)
    | split
    | (dsimp only; split)

theorem kernelFinish_kept {q : Nat} {e : Desc} {s : State} (hs0 : KSt w0 s) : KSt w0 (kernelFinish q e s) := by
  unfold kernelFinish
  repeat' first
    | with_reducible assumption
    | with_reducible intro _
    | with_reducible apply markFinished_kept
    | with_reducible apply writeReport_kept
    | with_reducible apply KSt.ite

theorem descriptorRetire_kept {q : Nat} {s : State} (hs : KSt w0 s) : KSt w0 (descriptorRetire q s) := by
  unfold descriptorRetire
  repeat' first
    | with_reducible assumption
    | with_reducible intro _
    | with_reducible apply setQueue_kept
    | with_reducible apply sendSignal_kept
    | with_reducible apply pushSignal_kept
    | with_reducible apply settle_kept
    | with_reducible apply KSt.ite
    | with_reducible refine KFst.of_eq (by assumption) ?_
    | with_reducible refine KOpt.of_eq (by assumption) ?_
    | with_reducible refine KFst.fst ?_
    | fail_if_no_progress (with_reducible apply KSt.mk'; on_goal 2 => rfl)
    | split
    | (dsimp only; split)

theorem execDescriptorRetire_kept {q : Nat} {s : State} (hs0 : KSt w0 s) : KOut w0 (execDescriptorRetire q s) := by
  unfold execDescriptorRetire
  repeat' first
    | with_reducible assumption
    | with_reducible apply descriptorRetire_kept
    | with_reducible apply KOut.inRange

end Sys2Proof.Machine
end

