-- ==== Sys2Proof/Laws/KeptSelect.lean ====
section
/-! SUPPORT. What the operations of Machine/Select.lean keep. -/

namespace Sys2Proof.Machine

variable {w0 : List Instr}

theorem readParams_kept {ctx a : Nat} {s : State} (hs : KSt w0 s) : ∀ r, readParams ctx a s = .inr r → KStart w0 r := by
  unfold readParams
  dsimp only
  intro r
  split
  · intro e; cases e; exact KStart.hold (noticeDomain_kept hs)
  · split
    · intro e; cases e; exact KStart.fault
    · split
      · intro e; cases e; exact KStart.fail
      · split
        · intro e; cases e; exact KStart.fail
        · intro e; cases e

theorem paramsLate_kept {typ : Nat} {check : Bytes → Bytes → W16} {extents : Bytes → Bytes → List (Nat × Nat × Bool)} {x : Queue} {b : Bytes} {s : State} (hs : KSt w0 s) : KStart w0 (paramsLate typ check extents x b s) := by
  unfold paramsLate
  have h := readParams_kept (ctx := x.ctx.toNat) (a := leNat b 40 8) hs
  generalize readParams x.ctx.toNat (leNat b 40 8) s = r at h
  cases r with
  | inr r => exact h r rfl
  | inl q =>
    refine KStart.ite (fun _ => KStart.fail) (fun _ => KStart.ite (fun _ => KStart.fail) (fun _ => ?_))
    have g := gatherUnits_kept (typ := typ) (mask := x.unitMask) hs
    generalize gatherUnits typ x.unitMask s = u at g
    cases u <;> first | exact KStart.go | exact g

theorem setEngine_kept {s : State} {u : Nat} {x : SelEngine} (hs0 : KSt w0 s) : KSt w0 (setEngine s u x) := by
  unfold setEngine
  repeat' first
    | with_reducible assumption
    | fail_if_no_progress (with_reducible apply KSt.mk'; on_goal 2 => rfl)

theorem selectBegin_kept {q : Nat} {e : Desc} {s : State} (hs0 : KSt w0 s) : KSt w0 (selectBegin q e s) := by
  unfold selectBegin
  repeat' first
    | with_reducible assumption
    | with_reducible intro _
    | with_reducible apply setEngine_kept
    | with_reducible apply KSt.foldl

theorem execSelectDescriptor_kept {q : Nat} {s : State} (hs0 : KSt w0 s) : KOut w0 (execSelectDescriptor q s) := by
  unfold execSelectDescriptor
  repeat' first
    | with_reducible assumption
    | with_reducible apply startDesc_kept
    | with_reducible apply paramsLate_kept
    | with_reducible apply selectBegin_kept
    | with_reducible apply KOut.inRange

theorem sendReads_kept {who : Nat → Requester} {src : Nat → W32} {l : List UnitAccess} {s : State} (hs : KSt w0 s) : KSt w0 (sendReads who src l s) := by
  unfold sendReads
  repeat' first
    | with_reducible assumption
    | with_reducible intro _
    | with_reducible apply sendPackets_kept
    | with_reducible apply KSt.ite
    | with_reducible apply KFst.mk
    | with_reducible apply KFst.ite
    | with_reducible apply KSt.foldl
    | with_reducible apply KFst.foldl
    | with_reducible refine KFst.of_eq (by assumption) ?_
    | with_reducible refine KOpt.of_eq (by assumption) ?_
    | with_reducible refine KFst.fst ?_
    | fail_if_no_progress (with_reducible apply KSt.mk'; on_goal 2 => rfl)
    | split
    | (dsimp only; split)

theorem markFaulted_kept {src : W32} {s : State} (hs : KSt w0 s) : KSt w0 (markFaulted src s) := by
  unfold markFaulted
  repeat' first
    | with_reducible assumption
    | with_reducible intro _
    | with_reducible apply setEngine_kept
    | with_reducible apply KSt.ite
    | with_reducible refine KFst.of_eq (by assumption) ?_
    | with_reducible refine KOpt.of_eq (by assumption) ?_
    | with_reducible refine KFst.fst ?_
    | fail_if_no_progress (with_reducible apply KSt.mk'; on_goal 2 => rfl)
    | split
    | (dsimp only; split)

theorem faultUnit_kept {src : W32} {q : Nat} {d : W32} {code : W16} {addr : Nat} {write : Bool} {s : State} (hs : KSt w0 s) : KSt w0 (faultUnit src q d code addr write s) := by
  unfold faultUnit
  repeat' first
    | with_reducible assumption
    | with_reducible intro _
    | with_reducible apply refusedWrite_kept
    | with_reducible apply faultCtx_kept
    | with_reducible apply markFaulted_kept
    | with_reducible apply KSt.ite
    | with_reducible refine KFst.of_eq (by assumption) ?_
    | with_reducible refine KOpt.of_eq (by assumption) ?_
    | with_reducible refine KFst.fst ?_
    | fail_if_no_progress (with_reducible apply KSt.mk'; on_goal 2 => rfl)
    | split
    | (dsimp only; split)

theorem stallEngines_kept {us : List Nat} {s : State} (hs : KSt w0 s) : KSt w0 (stallEngines us s) := by
  unfold stallEngines
  repeat' first
    | with_reducible assumption
    | with_reducible intro _
    | with_reducible apply setEngine_kept
    | with_reducible apply KSt.ite
    | with_reducible apply KSt.foldl
    | with_reducible apply KFst.foldl
    | with_reducible refine KFst.of_eq (by assumption) ?_
    | with_reducible refine KOpt.of_eq (by assumption) ?_
    | with_reducible refine KFst.fst ?_
    | fail_if_no_progress (with_reducible apply KSt.mk'; on_goal 2 => rfl)
    | split
    | (dsimp only; split)

theorem selectFinish_kept {q : Nat} {e : Desc} {s : State} (hs : KSt w0 s) : KSt w0 (selectFinish q e s) := by
  unfold selectFinish
  repeat' first
    | with_reducible assumption
    | with_reducible intro _
    | with_reducible apply noticeDomain_kept
    | with_reducible apply stallEngines_kept
    | with_reducible apply writeMem_kept
    | with_reducible apply sendPackets_kept
    | with_reducible apply sendReads_kept
    | with_reducible apply setEngine_kept
    | with_reducible apply writeReport_kept
    | with_reducible apply faultUnit_kept
    | with_reducible apply KSt.ite
    | with_reducible apply KFst.mk
    | with_reducible apply KFst.ite
    | with_reducible apply KSt.foldl
    | with_reducible apply KFst.foldl
    | with_reducible refine KFst.of_eq (by assumption) ?_
    | with_reducible refine KOpt.of_eq (by assumption) ?_
    | with_reducible refine KFst.fst ?_
    | with_reducible apply KOpt.getD
    | fail_if_no_progress (with_reducible apply KSt.mk'; on_goal 2 => rfl)
    | split
    | (dsimp only; split)

end Sys2Proof.Machine
end

