-- ==== Sys2Proof/Laws/KeptTile.lean ====
section
/-! SUPPORT. What the operations of Machine/Tile.lean keep. -/

namespace Sys2Proof.Machine

variable {w0 : List Instr}

theorem setTile_kept {s : State} {u : Nat} {x : TileUnit} (hs0 : KSt w0 s) : KSt w0 (setTile s u x) := by
  unfold setTile
  repeat' first
    | with_reducible assumption
    | fail_if_no_progress (with_reducible apply KSt.mk'; on_goal 2 => rfl)

theorem tileBegin_kept {q : Nat} {e : Desc} {s : State} (hs : KSt w0 s) : KSt w0 (tileBegin q e s) := by
  unfold tileBegin
  repeat' first
    | with_reducible assumption
    | with_reducible intro _
    | with_reducible apply setTile_kept
    | with_reducible apply KSt.ite
    | with_reducible apply KFst.mk
    | with_reducible apply KFst.ite
    | with_reducible apply KSt.foldl
    | with_reducible apply KFst.foldl
    | with_reducible refine KFst.of_eq (by assumption) ?_
    | with_reducible refine KOpt.of_eq (by assumption) ?_
    | with_reducible refine KFst.fst ?_
    | fail_if_no_progress (with_reducible apply KSt.mk'; on_goal 2 => rfl)
    | split
    | (dsimp only; split)

theorem execTile_kept {q : Nat} {s : State} (hs0 : KSt w0 s) : KOut w0 (execTile q s) := by
  unfold execTile
  repeat' first
    | with_reducible assumption
    | with_reducible apply startDesc_kept
    | with_reducible apply paramsLate_kept
    | with_reducible apply tileBegin_kept
    | with_reducible apply KOut.inRange

theorem runItem_kept {t : TileParams} {ctx : Nat} {u : Nat} {i : Nat} {s : State} (hs : KSt w0 s) : KOpt w0 (runItem t ctx u i s) := by
  unfold runItem
  generalize tileItem s t i = o
  cases o with
  | none => exact KOpt.none
  | some es =>
    generalize tileOutput s t i = g
    refine KOpt.some (setTile_kept (writeMem_kept (sendPackets_kept hs)))

theorem runItems_kept {t : TileParams} {ctx : Nat} {us : List Nat} {u0 : Nat} {u1 : Nat} {u2 : State} (hu2 : KSt w0 u2) : KSum w0 (runItems t ctx us u0 u1 u2) := by
  induction u0 generalizing u1 u2 with
  | zero => exact KSum.inl hu2
  | succ n ih =>
    unfold runItems
    have h := runItem_kept (t := t) (ctx := ctx) (u := us.getD (u1 % us.length) 0) (i := u1) hu2
    dsimp only
    generalize runItem t ctx (us.getD (u1 % us.length) 0) u1 u2 = o at h
    cases o with
    | none => exact KSum.inr
    | some v => exact ih (h v rfl)

theorem tileFinish_kept {q : Nat} {e : Desc} {s : State} (hs : KSt w0 s) : KSt w0 (tileFinish q e s) := by
  have stall : ∀ (us : List Nat), KSt w0 (us.foldl (fun s u => setTile s u { getTile s u with state := .stalled }) s) :=
    fun us => KSt.foldl us (fun _ _ h => setTile_kept h) hs
  have sent : ∀ who src l, KSt w0 (sendReads who src l s) := fun _ _ _ => sendReads_kept hs
  have idle : ∀ (us : List Nat) (v : State), KSt w0 v → KSt w0 (us.foldl (fun s u => setTile s u { getTile s u with state := .idle, job := none }) v) :=
    fun us _ hv => KSt.foldl us (fun _ _ h => setTile_kept h) hv
  unfold tileFinish
  dsimp only
  generalize runAccess s _ _ = r
  generalize reportAsleep s _ _ = p
  obtain ⟨c, i, a, b, w⟩ := r
  split
  · exact noticeDomain_kept (stall _)
  · next e1 =>
    have h := runItems_kept (t := tileParams e.bytes e.params) (ctx := (getQueue s q).ctx.toNat) (us := e.units) (u0 := (tileParams e.bytes e.params).items)
      (u1 := 0) (sent (fun _ => Requester.unit (getQueue s q).ctx.toNat true 4) (fun i => mkSrc s.swarm.node 4 6 (e.units.getD i 0) 0)
        (tileAccesses (tileParams e.bytes e.params) e.units.length))
    generalize runItems _ _ _ _ _ _ = o at h
    cases o with
    | inr u => exact faultUnit_kept hs
    | inl v => exact writeReport_kept (idle _ _ (h v rfl))
  · exact KSt.ite (fun _ => noticeDomain_kept (stall _)) (fun _ => faultUnit_kept hs)

theorem descriptorFinish_kept {q : Nat} {d : W32} {s : State} (hs0 : KSt w0 s) : KSt w0 (descriptorFinish q d s) := by
  unfold descriptorFinish
  repeat' first
    | with_reducible assumption
    | with_reducible intro _
    | with_reducible apply settle_kept
    | with_reducible apply kernelFinish_kept
    | with_reducible apply copyRun_kept
    | with_reducible apply selectFinish_kept
    | with_reducible apply tileFinish_kept
    | split
    | (dsimp only; split)

theorem execDescriptorFinish_kept {q : Nat} {d : W32} {s : State} (hs0 : KSt w0 s) : KOut w0 (execDescriptorFinish q d s) := by
  unfold execDescriptorFinish
  repeat' first
    | with_reducible assumption
    | with_reducible apply descriptorFinish_kept
    | with_reducible apply KOut.inRange

end Sys2Proof.Machine
end

