-- ==== Sys2Proof/Laws/KeptColl.lean ====
section
/-! SUPPORT. What the operations of Machine/Coll.lean keep. -/

namespace Sys2Proof.Machine

variable {w0 : List Instr}

theorem collRecord_kept {n : Nat} {code : W16} {missed : W16} {kind : Byte} {s : State} (hs0 : KSt w0 s) : KSt w0 (collRecord n code missed kind s) := by
  unfold collRecord
  repeat' first
    | with_reducible assumption
    | with_reducible apply record_kept
    | with_reducible apply sendAbout_kept
    | (dsimp only; split)

theorem joinSlot_kept {n : Nat} {j : Sys2Proof.CollJoin} {s : State} (hs0 : KSt w0 s) : KSt w0 (joinSlot n j s) := by
  unfold joinSlot
  repeat' first
    | with_reducible assumption
    | with_reducible intro _
    | with_reducible apply collFail_kept
    | with_reducible apply setColl_kept
    | with_reducible apply KSt.ite
    | fail_if_no_progress (with_reducible apply KSt.mk'; on_goal 2 => rfl)

theorem takeHeld_kept {n : Nat} {s : State} (hs0 : KSt w0 s) : KSt w0 (takeHeld n s) := by
  unfold takeHeld
  repeat' first
    | with_reducible assumption
    | with_reducible intro _
    | with_reducible apply joinSlot_kept
    | with_reducible apply KSt.foldl
    | fail_if_no_progress (with_reducible apply KSt.mk'; on_goal 2 => rfl)

theorem armColl_kept {n : Nat} {s : State} (hs : KSt w0 s) : KSt w0 (armColl n s) := by
  unfold armColl
  repeat' first
    | with_reducible assumption
    | with_reducible intro _
    | with_reducible apply setColl_kept
    | with_reducible apply poison_kept
    | with_reducible apply collRecord_kept
    | with_reducible apply takeHeld_kept
    | with_reducible apply KSt.ite
    | with_reducible refine KFst.of_eq (by assumption) ?_
    | with_reducible refine KOpt.of_eq (by assumption) ?_
    | with_reducible refine KFst.fst ?_
    | fail_if_no_progress (with_reducible apply KSt.mk'; on_goal 2 => rfl)
    | split
    | (dsimp only; split)

theorem collCtrl_kept {n : Nat} {v : W32} {o : W32} {s : State} (hs0 : KSt w0 s) : KSt w0 (collCtrl n v o s) := by
  unfold collCtrl
  repeat' first
    | with_reducible assumption
    | with_reducible intro _
    | with_reducible apply collFail_kept
    | with_reducible apply setColl_kept
    | with_reducible apply armColl_kept
    | with_reducible apply KSt.ite

theorem collClaim_kept {n : Nat} {v : W32} {s : State} (hs0 : KSt w0 s) : KSt w0 (collClaim n v s) := by
  unfold collClaim
  repeat' first
    | with_reducible assumption
    | with_reducible apply setColl_kept

theorem writeCollCtrl_kept {src : W32} {die : Nat} {k : Nat} {v : W32} {s : State} (hs : KSt w0 s) : KSt w0 (writeCollCtrl src die k v s) := by
  unfold writeCollCtrl
  repeat' first
    | with_reducible assumption
    | with_reducible intro _
    | with_reducible apply answer_kept
    | with_reducible apply noticeDomain_kept
    | with_reducible apply collClaim_kept
    | with_reducible apply refuseWrite_kept
    | with_reducible apply collCtrl_kept
    | with_reducible apply KSt.ite
    | with_reducible refine KFst.of_eq (by assumption) ?_
    | with_reducible refine KOpt.of_eq (by assumption) ?_
    | with_reducible refine KFst.fst ?_
    | fail_if_no_progress (with_reducible apply KSt.mk'; on_goal 2 => rfl)
    | split
    | (dsimp only; split)

theorem execCollClaim_kept {src : W32} {die : Nat} {k : Nat} {v : W32} {s : State} (hs0 : KSt w0 s) : KOut w0 (execCollClaim src die k v s) := by
  unfold execCollClaim
  repeat' first
    | with_reducible assumption
    | with_reducible apply writeCollCtrl_kept
    | with_reducible apply KOut.inRange

theorem execCollRelease_kept {src : W32} {die : Nat} {k : Nat} {v : W32} {s : State} (hs0 : KSt w0 s) : KOut w0 (execCollRelease src die k v s) := by
  unfold execCollRelease
  repeat' first
    | with_reducible assumption
    | with_reducible apply writeCollCtrl_kept
    | with_reducible apply KOut.inRange

theorem execCollArm_kept {src : W32} {die : Nat} {k : Nat} {v : W32} {s : State} (hs0 : KSt w0 s) : KOut w0 (execCollArm src die k v s) := by
  unfold execCollArm
  repeat' first
    | with_reducible assumption
    | with_reducible apply writeCollCtrl_kept
    | with_reducible apply KOut.inRange

theorem execCollAbort_kept {src : W32} {die : Nat} {k : Nat} {v : W32} {s : State} (hs0 : KSt w0 s) : KOut w0 (execCollAbort src die k v s) := by
  unfold execCollAbort
  repeat' first
    | with_reducible assumption
    | with_reducible apply writeCollCtrl_kept
    | with_reducible apply KOut.inRange

theorem collInputWrite_kept {src : W32} {die : Nat} {k : Nat} {off : Nat} {data : Bytes} {s : State} (hs : KSt w0 s) : KSt w0 (collInputWrite src die k off data s) := by
  unfold collInputWrite
  repeat' first
    | with_reducible assumption
    | with_reducible intro _
    | with_reducible apply answer_kept
    | with_reducible apply noticeDomain_kept
    | with_reducible apply refuseWrite_kept
    | with_reducible apply inputStore_kept
    | with_reducible apply KSt.ite
    | with_reducible refine KFst.of_eq (by assumption) ?_
    | with_reducible refine KOpt.of_eq (by assumption) ?_
    | with_reducible refine KFst.fst ?_
    | fail_if_no_progress (with_reducible apply KSt.mk'; on_goal 2 => rfl)
    | split
    | (dsimp only; split)

theorem execCollInputWrite_kept {src : W32} {die : Nat} {k : Nat} {off : Nat} {data : Bytes} {s : State} (hs0 : KSt w0 s) : KOut w0 (execCollInputWrite src die k off data s) := by
  unfold execCollInputWrite
  repeat' first
    | with_reducible assumption
    | with_reducible apply collInputWrite_kept
    | with_reducible apply KOut.inRange

theorem collJoin_kept {die : Nat} {k : Nat} {j : Sys2Proof.CollJoin} {s : State} (hs0 : KSt w0 s) : KSt w0 (collJoin die k j s) := by
  unfold collJoin
  repeat' first
    | with_reducible assumption
    | with_reducible intro _
    | with_reducible apply joinSlot_kept
    | with_reducible apply KSt.ite

theorem execCollJoin_kept {die : Nat} {k : Nat} {j : Sys2Proof.CollJoin} {s : State} (hs0 : KSt w0 s) : KOut w0 (execCollJoin die k j s) := by
  unfold execCollJoin
  repeat' first
    | with_reducible assumption
    | with_reducible apply collJoin_kept
    | with_reducible apply KOut.inRange

theorem collAbsorb_kept {die : Nat} {k : Nat} {data : Bytes} {s : State} (hs0 : KSt w0 s) : KSt w0 (collAbsorb die k data s) := by
  unfold collAbsorb
  repeat' first
    | with_reducible assumption
    | with_reducible intro _
    | with_reducible apply setColl_kept
    | with_reducible apply collFail_kept
    | split
    | (dsimp only; split)

theorem execCollAbsorb_kept {die : Nat} {k : Nat} {data : Bytes} {s : State} (hs0 : KSt w0 s) : KOut w0 (execCollAbsorb die k data s) := by
  unfold execCollAbsorb
  repeat' first
    | with_reducible assumption
    | with_reducible apply collAbsorb_kept
    | with_reducible apply KOut.inRange

theorem shareResult_kept {n : Nat} {v : Bytes} {s : State} (hs0 : KSt w0 s) : KSt w0 (shareResult n v s) := by
  unfold shareResult
  repeat' first
    | with_reducible assumption
    | with_reducible intro _
    | with_reducible apply setColl_kept
    | with_reducible apply KSt.foldl

theorem collMissed_kept {n mask : Nat} {s : State} (hs0 : KSt w0 s) : KSt w0 (collMissed n mask s) := by
  unfold collMissed
  repeat' first
    | with_reducible assumption
    | with_reducible apply collRecord_kept
    | with_reducible apply collFailWith_kept

theorem collReported_kept {n : Nat} {data : Bytes} {s : State} (hs0 : KSt w0 s) : KSt w0 (collReported n data s) := by
  unfold collReported
  repeat' first
    | with_reducible assumption
    | with_reducible intro _
    | with_reducible apply KSt.ite
    | with_reducible apply collMissed_kept
    | with_reducible apply collFail_kept

theorem collResult_kept {n : Nat} {reached : Bool} {data : Bytes} {s : State} (hs : KSt w0 s) : KSt w0 (collResult n reached data s) := by
  unfold collResult
  repeat' first
    | with_reducible assumption
    | with_reducible intro _
    | with_reducible apply collFail_kept
    | with_reducible apply collReported_kept
    | with_reducible apply collMissed_kept
    | with_reducible apply noticeDomain_kept
    | with_reducible apply refusedWrite_kept
    | with_reducible apply writeMem_kept
    | with_reducible apply shareResult_kept
    | with_reducible apply sendSignal_kept
    | with_reducible apply setColl_kept
    | with_reducible apply KSt.ite
    | with_reducible apply KAns.ite
    | with_reducible apply KAns.hold
    | with_reducible apply KAns.reject
    | with_reducible apply KAns.okay
    | with_reducible apply KAns.done
    | with_reducible apply KAns.keep
    | with_reducible apply KAns.wait
    | with_reducible refine KFst.of_eq (by assumption) ?_
    | with_reducible refine KOpt.of_eq (by assumption) ?_
    | with_reducible refine KFst.fst ?_
    | fail_if_no_progress (with_reducible apply KSt.mk'; on_goal 2 => rfl)
    | split
    | (dsimp only; split)

theorem execCollResult_kept {die : Nat} {k : Nat} {reached : Bool} {data : Bytes} {s : State} (hs0 : KSt w0 s) : KOut w0 (execCollResult die k reached data s) := by
  unfold execCollResult
  repeat' first
    | with_reducible assumption
    | with_reducible apply collResult_kept
    | with_reducible apply KOut.inRange

end Sys2Proof.Machine
end

