-- ==== Sys2Proof/Laws/KeptHolmiBase.lean ====
section
/-! SUPPORT. What the operations of Machine/HolmiBase.lean keep. -/

namespace Sys2Proof.Machine

variable {w0 : List Instr}

theorem setHm1_kept {s : State} {l : Nat} {x : Hm1} (hs0 : KSt w0 s) : KSt w0 (setHm1 s l x) := by
  unfold setHm1
  repeat' first
    | with_reducible assumption
    | fail_if_no_progress (with_reducible apply KSt.mk'; on_goal 2 => rfl)

theorem setMet_kept {s : State} {l : Nat} {x : Metrology} (hs0 : KSt w0 s) : KSt w0 (setMet s l x) := by
  unfold setMet
  repeat' first
    | with_reducible assumption
    | with_reducible apply setHm1_kept

theorem setSes_kept {s : State} {l : Nat} {x : Session} (hs0 : KSt w0 s) : KSt w0 (setSes s l x) := by
  unfold setSes
  repeat' first
    | with_reducible assumption
    | with_reducible apply setHm1_kept

theorem setEnd_kept {s : State} {far : Bool} {l : Nat} {x : HolmiEnd} (hs0 : KSt w0 s) : KSt w0 (setEnd s far l x) := by
  unfold setEnd
  repeat' first
    | with_reducible assumption
    | fail_if_no_progress (with_reducible apply KSt.mk'; on_goal 2 => rfl)

theorem setSeen_kept {s : State} {l : Nat} {x : HolmiSeen} (hs0 : KSt w0 s) : KSt w0 (setSeen s l x) := by
  unfold setSeen
  repeat' first
    | with_reducible assumption
    | fail_if_no_progress (with_reducible apply KSt.mk'; on_goal 2 => rfl)

theorem setRelay_kept {s : State} {l : Nat} {x : Relay} (hs0 : KSt w0 s) : KSt w0 (setRelay s l x) := by
  unfold setRelay
  repeat' first
    | with_reducible assumption
    | fail_if_no_progress (with_reducible apply KSt.mk'; on_goal 2 => rfl)

theorem pump_kept {far : Bool} {l : Nat} {s : State} (hs0 : KSt w0 s) : KSt w0 (pump far l s) := by
  unfold pump
  repeat' first
    | with_reducible assumption
    | with_reducible apply setEnd_kept

theorem holmiSend_kept {far : Bool} {l : Nat} {ch : Nat} {p : Bytes} {s : State} (hs0 : KSt w0 s) : KSt w0 (holmiSend far l ch p s) := by
  unfold holmiSend
  repeat' first
    | with_reducible assumption
    | with_reducible apply pump_kept
    | with_reducible apply setEnd_kept

theorem hm1Event_kept {l : Nat} {p : Bytes} {s : State} (hs0 : KSt w0 s) : KSt w0 (hm1Event l p s) := by
  unfold hm1Event
  repeat' first
    | with_reducible assumption
    | with_reducible intro _
    | with_reducible apply holmiSend_kept
    | with_reducible apply setEnd_kept
    | with_reducible apply KSt.ite

theorem legal_kept {l : Nat} {typ : Nat} {data : Bytes} {s : State} (hs0 : KSt w0 s) : KSt w0 (legal l typ data s) := by
  unfold legal
  repeat' first
    | with_reducible assumption
    | with_reducible intro _
    | with_reducible apply setMet_kept
    | with_reducible apply hm1Event_kept
    | with_reducible apply KSt.ite

theorem metFaultEvent_kept {l : Nat} {reason : Nat} {s : State} (hs0 : KSt w0 s) : KSt w0 (metFaultEvent l reason s) := by
  unfold metFaultEvent
  repeat' first
    | with_reducible assumption
    | with_reducible apply hm1Event_kept

theorem tamper_kept {l : Nat} {kind : Nat} {phase : Nat} {isEnd : Bool} {s : State} (hs0 : KSt w0 s) : KSt w0 (tamper l kind phase isEnd s) := by
  unfold tamper
  repeat' first
    | with_reducible assumption
    | with_reducible intro _
    | with_reducible apply setMet_kept
    | with_reducible apply hm1Event_kept
    | with_reducible apply legal_kept
    | with_reducible apply setSes_kept
    | with_reducible apply KSt.ite

theorem tamperOnce_kept {l : Nat} {kind : Nat} {s : State} (hs0 : KSt w0 s) : KSt w0 (tamperOnce l kind s) := by
  unfold tamperOnce
  repeat' first
    | with_reducible assumption
    | with_reducible apply tamper_kept

theorem firewallHit_kept {l : Nat} {s : State} (hs0 : KSt w0 s) : KSt w0 (firewallHit l s) := by
  unfold firewallHit
  repeat' first
    | with_reducible assumption
    | with_reducible apply setMet_kept
    | with_reducible apply tamperOnce_kept
    | with_reducible apply metFaultEvent_kept

theorem execFirewallHit_kept {l : Nat} {s : State} (hs0 : KSt w0 s) : KOut w0 (execFirewallHit l s) := by
  unfold execFirewallHit
  repeat' first
    | with_reducible assumption
    | with_reducible apply when_kept
    | with_reducible apply firewallHit_kept
    | with_reducible apply KOut.inRange

theorem coverMove_kept {l : Nat} {isOpen : Bool} {s : State} (hs0 : KSt w0 s) : KSt w0 (coverMove l isOpen s) := by
  unfold coverMove
  repeat' first
    | with_reducible assumption
    | with_reducible intro _
    | with_reducible apply tamper_kept
    | with_reducible apply setMet_kept
    | with_reducible apply KSt.ite

theorem execCoverOpen_kept {l : Nat} {s : State} (hs0 : KSt w0 s) : KOut w0 (execCoverOpen l s) := by
  unfold execCoverOpen
  repeat' first
    | with_reducible assumption
    | with_reducible apply coverMove_kept
    | with_reducible apply KOut.inRange

theorem execCoverClose_kept {l : Nat} {s : State} (hs0 : KSt w0 s) : KOut w0 (execCoverClose l s) := by
  unfold execCoverClose
  repeat' first
    | with_reducible assumption
    | with_reducible apply coverMove_kept
    | with_reducible apply KOut.inRange

theorem hm1Take_kept {op : Nat} {sub : Option Nat} {l : Nat} {f : Bytes → State → State × W16 × Bytes} {s : State} (hf : ∀ y0 y1, KSt w0 y1 → KFst w0 (f y0 y1)) (hs0 : KSt w0 s) : KSt w0 (hm1Take op sub l f s) := by
  unfold hm1Take
  repeat' first
    | with_reducible assumption
    | with_reducible intro _
    | with_reducible apply setHm1_kept
    | with_reducible apply holmiSend_kept
    | with_reducible refine KFst.fst (hf _ _ ?_)
    | split
    | (dsimp only; split)

theorem hm1Tick_kept {s : State} (hs0 : KSt w0 s) : KSt w0 (hm1Tick s) := by
  unfold hm1Tick
  repeat' first
    | with_reducible assumption
    | with_reducible intro _
    | with_reducible apply setHm1_kept
    | with_reducible apply KSt.foldl

end Sys2Proof.Machine
end

