-- ==== Sys2Proof/Laws/KeptHolmiBill.lean ====
section
/-! SUPPORT. What the operations of Machine/HolmiBill.lean keep. -/

namespace Sys2Proof.Machine

variable {w0 : List Instr}

theorem addMwh_kept {l : Nat} {i : Nat} {n : Nat} {s : State} (hs0 : KSt w0 s) : KSt w0 (addMwh l i n s) := by
  unfold addMwh
  repeat' first
    | with_reducible assumption
    | with_reducible intro _
    | with_reducible apply setMet_kept
    | with_reducible apply legal_kept
    | with_reducible apply KSt.ite

theorem handOver_kept {l : Nat} {tariff : Nat} {acc : Nat} {received : Bool} {n : Nat} {s : State} (hs0 : KSt w0 s) : KSt w0 (handOver l tariff acc received n s) := by
  unfold handOver
  repeat' first
    | with_reducible assumption
    | with_reducible intro _
    | with_reducible apply addMwh_kept
    | with_reducible apply setMet_kept
    | with_reducible apply KSt.ite

theorem creditMove_kept {l : Nat} {s : State} (hs0 : KSt w0 s) : KSt w0 (creditMove l s) := by
  unfold creditMove
  repeat' first
    | with_reducible assumption
    | with_reducible intro _
    | with_reducible apply hm1Event_kept
    | with_reducible apply setMet_kept
    | with_reducible apply KSt.ite

theorem deduct_kept {l : Nat} {s : State} (hs0 : KSt w0 s) : KSt w0 (deduct l s) := by
  unfold deduct
  repeat' first
    | with_reducible assumption
    | with_reducible intro _
    | with_reducible apply setMet_kept
    | with_reducible apply KSt.ite

theorem writeRecord_kept {l : Nat} {reading : Bool} {nonce : Bytes} {s : State} (hs0 : KSt w0 s) : KSt w0 (writeRecord l reading nonce s) := by
  unfold writeRecord
  repeat' first
    | with_reducible assumption
    | with_reducible apply setMet_kept
    | with_reducible apply hm1Event_kept

theorem billRead_kept {l : Nat} {b : Bytes} {s : State} (hs0 : KSt w0 s) : KFst w0 (billRead l b s) := by
  unfold billRead
  repeat' first
    | with_reducible assumption
    | with_reducible intro _
    | with_reducible apply KFst.ite
    | with_reducible apply KFst.mk

theorem execBillRead_kept {l : Nat} {s : State} (hs0 : KSt w0 s) : KOut w0 (execBillRead l s) := by
  unfold execBillRead
  repeat' first
    | with_reducible assumption
    | with_reducible apply hm1Take_kept
    | with_reducible apply billRead_kept
    | with_reducible apply KOut.inRange

theorem recordRead_kept {l : Nat} {b : Bytes} {s : State} (hs0 : KSt w0 s) : KFst w0 (recordRead l b s) := by
  unfold recordRead
  repeat' first
    | with_reducible assumption
    | with_reducible intro _
    | with_reducible apply setMet_kept
    | with_reducible apply KFst.mk
    | split

theorem execRecordRead_kept {l : Nat} {s : State} (hs0 : KSt w0 s) : KOut w0 (execRecordRead l s) := by
  unfold execRecordRead
  repeat' first
    | with_reducible assumption
    | with_reducible apply hm1Take_kept
    | with_reducible apply recordRead_kept
    | with_reducible apply KOut.inRange

theorem meterSign_kept {l : Nat} {b : Bytes} {s : State} (hs0 : KSt w0 s) : KFst w0 (meterSign l b s) := by
  unfold meterSign
  repeat' first
    | with_reducible assumption
    | with_reducible apply writeRecord_kept
    | with_reducible apply KFst.mk

theorem execMeterSign_kept {l : Nat} {s : State} (hs0 : KSt w0 s) : KOut w0 (execMeterSign l s) := by
  unfold execMeterSign
  repeat' first
    | with_reducible assumption
    | with_reducible apply hm1Take_kept
    | with_reducible apply meterSign_kept
    | with_reducible apply KOut.inRange

theorem creditAdd_kept {l : Nat} {b : Bytes} {s : State} (hs0 : KSt w0 s) : KFst w0 (creditAdd l b s) := by
  unfold creditAdd
  repeat' first
    | with_reducible assumption
    | with_reducible intro _
    | with_reducible apply setMet_kept
    | with_reducible apply creditMove_kept
    | with_reducible apply legal_kept
    | with_reducible apply KFst.ite
    | with_reducible apply KFst.mk

theorem execCreditAdd_kept {l : Nat} {s : State} (hs0 : KSt w0 s) : KOut w0 (execCreditAdd l s) := by
  unfold execCreditAdd
  repeat' first
    | with_reducible assumption
    | with_reducible apply hm1Take_kept
    | with_reducible apply creditAdd_kept
    | with_reducible apply KOut.inRange

theorem creditRead_kept {l : Nat} {u1 : Bytes} {s : State} (hs0 : KSt w0 s) : KFst w0 (creditRead l u1 s) := by
  unfold creditRead
  repeat' first
    | with_reducible assumption
    | with_reducible apply KFst.mk

theorem execCreditRead_kept {l : Nat} {s : State} (hs0 : KSt w0 s) : KOut w0 (execCreditRead l s) := by
  unfold execCreditRead
  repeat' first
    | with_reducible assumption
    | with_reducible apply hm1Take_kept
    | with_reducible apply creditRead_kept
    | with_reducible apply KOut.inRange

theorem logRead_kept {l : Nat} {b : Bytes} {s : State} (hs0 : KSt w0 s) : KFst w0 (logRead l b s) := by
  unfold logRead
  repeat' first
    | with_reducible assumption
    | with_reducible intro _
    | with_reducible apply KFst.mk
    | split

theorem execLogRead_kept {l : Nat} {s : State} (hs0 : KSt w0 s) : KOut w0 (execLogRead l s) := by
  unfold execLogRead
  repeat' first
    | with_reducible assumption
    | with_reducible apply hm1Take_kept
    | with_reducible apply logRead_kept
    | with_reducible apply KOut.inRange

theorem tamperRead_kept {l : Nat} {b : Bytes} {s : State} (hs0 : KSt w0 s) : KFst w0 (tamperRead l b s) := by
  unfold tamperRead
  repeat' first
    | with_reducible assumption
    | with_reducible apply setMet_kept
    | with_reducible apply KFst.mk
    | split

theorem execTamperRead_kept {l : Nat} {s : State} (hs0 : KSt w0 s) : KOut w0 (execTamperRead l s) := by
  unfold execTamperRead
  repeat' first
    | with_reducible assumption
    | with_reducible apply hm1Take_kept
    | with_reducible apply tamperRead_kept
    | with_reducible apply KOut.inRange

theorem logArchive_kept {l : Nat} {b : Bytes} {s : State} (hs0 : KSt w0 s) : KFst w0 (logArchive l b s) := by
  unfold logArchive
  repeat' first
    | with_reducible assumption
    | with_reducible intro _
    | with_reducible apply setMet_kept
    | with_reducible apply legal_kept
    | with_reducible apply KFst.ite
    | with_reducible apply KFst.mk

theorem execLogArchive_kept {l : Nat} {s : State} (hs0 : KSt w0 s) : KOut w0 (execLogArchive l s) := by
  unfold execLogArchive
  repeat' first
    | with_reducible assumption
    | with_reducible apply hm1Take_kept
    | with_reducible apply logArchive_kept
    | with_reducible apply KOut.inRange

theorem timeSet_kept {l : Nat} {b : Bytes} {s : State} (hs0 : KSt w0 s) : KFst w0 (timeSet l b s) := by
  unfold timeSet
  repeat' first
    | with_reducible assumption
    | with_reducible intro _
    | with_reducible apply tamperOnce_kept
    | with_reducible apply setHm1_kept
    | with_reducible apply legal_kept
    | with_reducible apply KFst.ite
    | with_reducible apply KFst.mk

theorem execTimeSet_kept {l : Nat} {s : State} (hs0 : KSt w0 s) : KOut w0 (execTimeSet l s) := by
  unfold execTimeSet
  repeat' first
    | with_reducible assumption
    | with_reducible apply hm1Take_kept
    | with_reducible apply timeSet_kept
    | with_reducible apply KOut.inRange

theorem certRead_kept {l : Nat} {b : Bytes} {s : State} (hs0 : KSt w0 s) : KFst w0 (certRead l b s) := by
  unfold certRead
  repeat' first
    | with_reducible assumption
    | with_reducible apply KFst.mk

theorem execCertRead_kept {l : Nat} {s : State} (hs0 : KSt w0 s) : KOut w0 (execCertRead l s) := by
  unfold execCertRead
  repeat' first
    | with_reducible assumption
    | with_reducible apply hm1Take_kept
    | with_reducible apply certRead_kept
    | with_reducible apply KOut.inRange

end Sys2Proof.Machine
end

