-- ==== Sys2Proof/Laws/KeptHolmiSession.lean ====
section
/-! SUPPORT. What the operations of Machine/HolmiSession.lean keep. -/

namespace Sys2Proof.Machine

variable {w0 : List Instr}

theorem moveSession_kept {l : Nat} {st : SessState} {s : State} (hs0 : KSt w0 s) : KSt w0 (moveSession l st s) := by
  unfold moveSession
  repeat' first
    | with_reducible assumption
    | with_reducible intro _
    | with_reducible apply hm1Event_kept
    | with_reducible apply setSes_kept
    | with_reducible apply KSt.ite

theorem connect_kept {l : Nat} {outlet : Bool} {s : State} (hs0 : KSt w0 s) : KSt w0 (connect l outlet s) := by
  unfold connect
  repeat' first
    | with_reducible assumption
    | with_reducible apply setHm1_kept
    | with_reducible apply moveSession_kept

theorem endRecord_kept {l : Nat} {s : State} (hs0 : KSt w0 s) : KSt w0 (endRecord l s) := by
  unfold endRecord
  repeat' first
    | with_reducible assumption
    | with_reducible intro _
    | with_reducible apply legal_kept
    | with_reducible apply writeRecord_kept
    | with_reducible apply setSes_kept
    | with_reducible apply KSt.ite

theorem drive_kept {l : Nat} {close : Bool} {s : State} (hs : KSt w0 s) : KSt w0 (drive l close s) := by
  unfold drive
  repeat' first
    | with_reducible assumption
    | with_reducible intro _
    | with_reducible apply setSes_kept
    | with_reducible apply KSt.ite
    | with_reducible refine KFst.of_eq (by assumption) ?_
    | with_reducible refine KOpt.of_eq (by assumption) ?_
    | with_reducible refine KFst.fst ?_
    | fail_if_no_progress (with_reducible apply KSt.mk'; on_goal 2 => rfl)
    | split
    | (dsimp only; split)

theorem finishStop_kept {l : Nat} {s : State} (hs0 : KSt w0 s) : KSt w0 (finishStop l s) := by
  unfold finishStop
  repeat' first
    | with_reducible assumption
    | with_reducible intro _
    | with_reducible apply endRecord_kept
    | with_reducible apply drive_kept
    | with_reducible apply moveSession_kept
    | with_reducible apply KSt.ite

theorem stopWith_kept {l : Nat} {cause : Byte} {imm : Bool} {s : State} (hs0 : KSt w0 s) : KSt w0 (stopWith l cause imm s) := by
  unfold stopWith
  repeat' first
    | with_reducible assumption
    | with_reducible intro _
    | with_reducible apply finishStop_kept
    | with_reducible apply setSes_kept
    | with_reducible apply moveSession_kept
    | with_reducible apply KSt.ite

theorem faultSession_kept {l : Nat} {cause : Byte} {s : State} (hs0 : KSt w0 s) : KSt w0 (faultSession l cause s) := by
  unfold faultSession
  repeat' first
    | with_reducible assumption
    | with_reducible apply moveSession_kept
    | with_reducible apply endRecord_kept
    | with_reducible apply drive_kept
    | with_reducible apply setSes_kept

theorem unplug_kept {l : Nat} {s : State} (hs0 : KSt w0 s) : KSt w0 (unplug l s) := by
  unfold unplug
  repeat' first
    | with_reducible assumption
    | with_reducible apply endRecord_kept
    | with_reducible apply drive_kept
    | with_reducible apply moveSession_kept
    | with_reducible apply setSes_kept

theorem energise_kept {l : Nat} {rdcOk : Bool} {s : State} (hs0 : KSt w0 s) : KSt w0 (energise l rdcOk s) := by
  unfold energise
  repeat' first
    | with_reducible assumption
    | with_reducible intro _
    | with_reducible apply faultSession_kept
    | with_reducible apply drive_kept
    | with_reducible apply moveSession_kept
    | with_reducible apply KSt.ite

theorem pilotMove_kept {l : Nat} {p : Nat} {duty : Nat} {rdcOk : Bool} {s : State} (hs0 : KSt w0 s) : KSt w0 (pilotMove l p duty rdcOk s) := by
  unfold pilotMove
  repeat' first
    | with_reducible assumption
    | with_reducible intro _
    | with_reducible apply connect_kept
    | with_reducible apply unplug_kept
    | with_reducible apply stopWith_kept
    | with_reducible apply energise_kept
    | with_reducible apply finishStop_kept
    | split
    | (dsimp only; split)

theorem pilotState_kept {l : Nat} {plateau : Int} {negative : Int} {duty : Nat} {rdcOk : Bool} {s : State} (hs : KSt w0 s) : KSt w0 (pilotState l plateau negative duty rdcOk s) := by
  unfold pilotState
  repeat' first
    | with_reducible assumption
    | with_reducible intro _
    | with_reducible apply setSes_kept
    | with_reducible apply stopWith_kept
    | with_reducible apply pilotMove_kept
    | with_reducible apply KSt.ite
    | with_reducible refine KFst.of_eq (by assumption) ?_
    | with_reducible refine KOpt.of_eq (by assumption) ?_
    | with_reducible refine KFst.fst ?_
    | fail_if_no_progress (with_reducible apply KSt.mk'; on_goal 2 => rfl)
    | split
    | (dsimp only; split)

theorem execPilotState_kept {l : Nat} {plateau : Int} {negative : Int} {duty : Nat} {rdcOk : Bool} {s : State} (hs0 : KSt w0 s) : KOut w0 (execPilotState l plateau negative duty rdcOk s) := by
  unfold execPilotState
  repeat' first
    | with_reducible assumption
    | with_reducible apply when_kept
    | with_reducible apply pilotState_kept
    | with_reducible apply KOut.inRange

theorem ppRead_kept {l : Nat} {ohms : Nat} {s : State} (hs0 : KSt w0 s) : KSt w0 (ppRead l ohms s) := by
  unfold ppRead
  repeat' first
    | with_reducible assumption
    | with_reducible intro _
    | with_reducible apply setSes_kept
    | with_reducible apply faultSession_kept
    | with_reducible apply stopWith_kept
    | with_reducible apply KSt.ite

theorem execPpLost_kept {l : Nat} {ohms : Nat} {s : State} (hs0 : KSt w0 s) : KOut w0 (execPpLost l ohms s) := by
  unfold execPpLost
  repeat' first
    | with_reducible assumption
    | with_reducible apply when_kept
    | with_reducible apply ppRead_kept
    | with_reducible apply KOut.inRange

theorem foundContactor_kept {l : Nat} {i : Nat} {f : Nat} {s : State} (hs0 : KSt w0 s) : KSt w0 (foundContactor l i f s) := by
  unfold foundContactor
  repeat' first
    | with_reducible assumption
    | with_reducible intro _
    | with_reducible apply hm1Event_kept
    | with_reducible apply legal_kept
    | with_reducible apply drive_kept
    | with_reducible apply setSes_kept
    | with_reducible apply faultSession_kept
    | with_reducible apply moveSession_kept
    | with_reducible apply stopWith_kept
    | with_reducible apply KSt.ite

theorem contactorCheck_kept {l : Nat} {mirrors : BitVec 2} {s : State} (hs : KSt w0 s) : KSt w0 (contactorCheck l mirrors s) := by
  unfold contactorCheck
  repeat' first
    | with_reducible assumption
    | with_reducible intro _
    | with_reducible apply setSes_kept
    | with_reducible apply foundContactor_kept
    | with_reducible apply moveSession_kept
    | with_reducible apply KSt.ite
    | with_reducible apply KSt.foldl
    | with_reducible apply KFst.foldl
    | with_reducible refine KFst.of_eq (by assumption) ?_
    | with_reducible refine KOpt.of_eq (by assumption) ?_
    | with_reducible refine KFst.fst ?_
    | fail_if_no_progress (with_reducible apply KSt.mk'; on_goal 2 => rfl)
    | split
    | (dsimp only; split)

theorem execContactorCheck_kept {l : Nat} {mirrors : BitVec 2} {s : State} (hs0 : KSt w0 s) : KOut w0 (execContactorCheck l mirrors s) := by
  unfold execContactorCheck
  repeat' first
    | with_reducible assumption
    | with_reducible apply when_kept
    | with_reducible apply contactorCheck_kept
    | with_reducible apply KOut.inRange

theorem contactorReset_kept {l : Nat} {mirrors : BitVec 2} {b : Bytes} {s : State} (hs : KSt w0 s) : KFst w0 (contactorReset l mirrors b s) := by
  unfold contactorReset
  repeat' first
    | with_reducible assumption
    | with_reducible intro _
    | with_reducible apply setSes_kept
    | with_reducible apply KSt.ite
    | with_reducible apply KFst.ite
    | with_reducible apply KFst.mk
    | with_reducible apply KFst.ite
    | with_reducible refine KFst.of_eq (by assumption) ?_
    | with_reducible refine KOpt.of_eq (by assumption) ?_
    | with_reducible refine KFst.fst ?_
    | fail_if_no_progress (with_reducible apply KSt.mk'; on_goal 2 => rfl)
    | split
    | (dsimp only; split)

theorem execContactorReset_kept {l : Nat} {mirrors : BitVec 2} {s : State} (hs : KSt w0 s) : KOut w0 (execContactorReset l mirrors s) := by
  unfold execContactorReset
  repeat' first
    | with_reducible assumption
    | with_reducible intro _
    | with_reducible apply hm1Take_kept
    | with_reducible apply contactorReset_kept
    | with_reducible apply KOut.inRange
    | with_reducible apply KSt.ite
    | with_reducible refine KFst.of_eq (by assumption) ?_
    | with_reducible refine KOpt.of_eq (by assumption) ?_
    | with_reducible refine KFst.fst ?_
    | fail_if_no_progress (with_reducible apply KSt.mk'; on_goal 2 => rfl)
    | split
    | (dsimp only; split)

theorem stopGrace_kept {l : Nat} {s : State} (hs0 : KSt w0 s) : KSt w0 (stopGrace l s) := by
  unfold stopGrace
  repeat' first
    | with_reducible assumption
    | with_reducible intro _
    | with_reducible apply finishStop_kept
    | with_reducible apply KSt.ite

theorem execStopGraceTimeout_kept {l : Nat} {s : State} (hs0 : KSt w0 s) : KOut w0 (execStopGraceTimeout l s) := by
  unfold execStopGraceTimeout
  repeat' first
    | with_reducible assumption
    | with_reducible apply when_kept
    | with_reducible apply stopGrace_kept
    | with_reducible apply KOut.inRange

theorem insulation_kept {l : Nat} {kohm : Nat} {checkOk : Bool} {s : State} (hs : KSt w0 s) : KSt w0 (insulation l kohm checkOk s) := by
  unfold insulation
  repeat' first
    | with_reducible assumption
    | with_reducible intro _
    | with_reducible apply setSes_kept
    | with_reducible apply hm1Event_kept
    | with_reducible apply stopWith_kept
    | with_reducible apply KSt.ite
    | with_reducible refine KFst.of_eq (by assumption) ?_
    | with_reducible refine KOpt.of_eq (by assumption) ?_
    | with_reducible refine KFst.fst ?_
    | fail_if_no_progress (with_reducible apply KSt.mk'; on_goal 2 => rfl)
    | split
    | (dsimp only; split)

theorem execInsulation_kept {l : Nat} {kohm : Nat} {checkOk : Bool} {s : State} (hs0 : KSt w0 s) : KOut w0 (execInsulation l kohm checkOk s) := by
  unfold execInsulation
  repeat' first
    | with_reducible assumption
    | with_reducible apply when_kept
    | with_reducible apply insulation_kept
    | with_reducible apply KOut.inRange

theorem rdcTrip_kept {l : Nat} {s : State} (hs0 : KSt w0 s) : KSt w0 (rdcTrip l s) := by
  unfold rdcTrip
  repeat' first
    | with_reducible assumption
    | with_reducible intro _
    | with_reducible apply stopWith_kept
    | with_reducible apply KSt.ite

theorem execRdcTrip_kept {l : Nat} {s : State} (hs0 : KSt w0 s) : KOut w0 (execRdcTrip l s) := by
  unfold execRdcTrip
  repeat' first
    | with_reducible assumption
    | with_reducible apply when_kept
    | with_reducible apply rdcTrip_kept
    | with_reducible apply KOut.inRange

theorem linkHoldExpiry_kept {l : Nat} {s : State} (hs0 : KSt w0 s) : KSt w0 (linkHoldExpiry l s) := by
  unfold linkHoldExpiry
  repeat' first
    | with_reducible assumption
    | with_reducible intro _
    | with_reducible apply stopWith_kept
    | with_reducible apply setSes_kept
    | with_reducible apply KSt.ite

theorem execLinkHoldExpiry_kept {l : Nat} {s : State} (hs0 : KSt w0 s) : KOut w0 (execLinkHoldExpiry l s) := by
  unfold execLinkHoldExpiry
  repeat' first
    | with_reducible assumption
    | with_reducible apply when_kept
    | with_reducible apply linkHoldExpiry_kept
    | with_reducible apply KOut.inRange

theorem sessionConfig_kept {l : Nat} {b : Bytes} {s : State} (hs0 : KSt w0 s) : KFst w0 (sessionConfig l b s) := by
  unfold sessionConfig
  repeat' first
    | with_reducible assumption
    | with_reducible intro _
    | with_reducible apply setSes_kept
    | with_reducible apply KFst.ite
    | with_reducible apply KFst.mk

theorem execSessionConfig_kept {l : Nat} {s : State} (hs0 : KSt w0 s) : KOut w0 (execSessionConfig l s) := by
  unfold execSessionConfig
  repeat' first
    | with_reducible assumption
    | with_reducible apply hm1Take_kept
    | with_reducible apply sessionConfig_kept
    | with_reducible apply KOut.inRange

theorem sessReply_kept {l : Nat} {r : Byte} {s : State} (hs0 : KSt w0 s) : KFst w0 (sessReply l r s) := by
  unfold sessReply
  repeat' first
    | with_reducible assumption
    | with_reducible apply KFst.mk

theorem authorise_kept {l : Nat} {b : Bytes} {s : State} (hs0 : KSt w0 s) : KFst w0 (authorise l b s) := by
  unfold authorise
  repeat' first
    | with_reducible assumption
    | with_reducible intro _
    | with_reducible apply sessReply_kept
    | with_reducible apply moveSession_kept
    | with_reducible apply setSes_kept
    | with_reducible apply KFst.ite
    | with_reducible apply KFst.mk

theorem execAuthorise_kept {l : Nat} {s : State} (hs0 : KSt w0 s) : KOut w0 (execAuthorise l s) := by
  unfold execAuthorise
  repeat' first
    | with_reducible assumption
    | with_reducible apply hm1Take_kept
    | with_reducible apply authorise_kept
    | with_reducible apply KOut.inRange

theorem startInlet_kept {l : Nat} {u1 : Bytes} {s : State} (hs0 : KSt w0 s) : KFst w0 (startInlet l u1 s) := by
  unfold startInlet
  repeat' first
    | with_reducible assumption
    | with_reducible intro _
    | with_reducible apply sessReply_kept
    | with_reducible apply moveSession_kept
    | with_reducible apply setSes_kept
    | with_reducible apply KFst.ite

theorem execStartInlet_kept {l : Nat} {s : State} (hs0 : KSt w0 s) : KOut w0 (execStartInlet l s) := by
  unfold execStartInlet
  repeat' first
    | with_reducible assumption
    | with_reducible apply hm1Take_kept
    | with_reducible apply startInlet_kept
    | with_reducible apply KOut.inRange

theorem closeContactors_kept {l : Nat} {rdcOk : Bool} {u2 : Bytes} {s : State} (hs0 : KSt w0 s) : KFst w0 (closeContactors l rdcOk u2 s) := by
  unfold closeContactors
  repeat' first
    | with_reducible assumption
    | with_reducible intro _
    | with_reducible apply sessReply_kept
    | with_reducible apply energise_kept
    | with_reducible apply KFst.ite

theorem execCloseContactors_kept {l : Nat} {rdcOk : Bool} {s : State} (hs0 : KSt w0 s) : KOut w0 (execCloseContactors l rdcOk s) := by
  unfold execCloseContactors
  repeat' first
    | with_reducible assumption
    | with_reducible apply hm1Take_kept
    | with_reducible apply closeContactors_kept
    | with_reducible apply KOut.inRange

theorem hostStop_kept {l : Nat} {u1 : Bytes} {s : State} (hs0 : KSt w0 s) : KFst w0 (hostStop l u1 s) := by
  unfold hostStop
  repeat' first
    | with_reducible assumption
    | with_reducible intro _
    | with_reducible apply sessReply_kept
    | with_reducible apply stopWith_kept
    | with_reducible apply KFst.ite

theorem execStop_kept {l : Nat} {s : State} (hs0 : KSt w0 s) : KOut w0 (execStop l s) := by
  unfold execStop
  repeat' first
    | with_reducible assumption
    | with_reducible apply hm1Take_kept
    | with_reducible apply hostStop_kept
    | with_reducible apply KOut.inRange

theorem setLimit_kept {l : Nat} {b : Bytes} {s : State} (hs0 : KSt w0 s) : KFst w0 (setLimit l b s) := by
  unfold setLimit
  repeat' first
    | with_reducible assumption
    | with_reducible intro _
    | with_reducible apply sessReply_kept
    | with_reducible apply setSes_kept
    | with_reducible apply KFst.ite

theorem execSetLimit_kept {l : Nat} {s : State} (hs0 : KSt w0 s) : KOut w0 (execSetLimit l s) := by
  unfold execSetLimit
  repeat' first
    | with_reducible assumption
    | with_reducible apply hm1Take_kept
    | with_reducible apply setLimit_kept
    | with_reducible apply KOut.inRange

theorem sessionStatus_kept {l : Nat} {u1 : Bytes} {s : State} (hs0 : KSt w0 s) : KFst w0 (sessionStatus l u1 s) := by
  unfold sessionStatus
  repeat' first
    | with_reducible assumption
    | with_reducible apply KFst.mk

theorem execSessionStatus_kept {l : Nat} {s : State} (hs0 : KSt w0 s) : KOut w0 (execSessionStatus l s) := by
  unfold execSessionStatus
  repeat' first
    | with_reducible assumption
    | with_reducible apply hm1Take_kept
    | with_reducible apply sessionStatus_kept
    | with_reducible apply KOut.inRange

end Sys2Proof.Machine
end

