-- ==== Sys2Proof/Laws/KeptFlash.lean ====
section
/-! SUPPORT. What the operations of Machine/Flash.lean keep. -/

namespace Sys2Proof.Machine

variable {w0 : List Instr}

theorem setPort_kept {s : State} {p : Nat} {x : FlashPort} (hs0 : KSt w0 s) : KSt w0 (setPort s p x) := by
  unfold setPort
  repeat' first
    | with_reducible assumption
    | fail_if_no_progress (with_reducible apply KSt.mk'; on_goal 2 => rfl)

theorem setBank_kept {s : State} {b : Nat} {x : FlashBank} (hs0 : KSt w0 s) : KSt w0 (setBank s b x) := by
  unfold setBank
  repeat' first
    | with_reducible assumption
    | fail_if_no_progress (with_reducible apply KSt.mk'; on_goal 2 => rfl)

theorem setSector_kept {s : State} {g : Nat} {c : BitVec 2} (hs0 : KSt w0 s) : KSt w0 (setSector s g c) := by
  unfold setSector
  repeat' first
    | with_reducible assumption
    | fail_if_no_progress (with_reducible apply KSt.mk'; on_goal 2 => rfl)

theorem flashPut_kept {s : State} {info : Bool} {key : Nat} {l : Bytes} (hs0 : KSt w0 s) : KSt w0 (flashPut s info key l) := by
  unfold flashPut
  repeat' first
    | with_reducible assumption
    | with_reducible intro _
    | with_reducible apply KSt.ite
    | fail_if_no_progress (with_reducible apply KSt.mk'; on_goal 2 => rfl)

theorem flashWipe_kept {s : State} {info : Bool} {key : Nat} (hs0 : KSt w0 s) : KSt w0 (flashWipe s info key) := by
  unfold flashWipe
  repeat' first
    | with_reducible assumption
    | with_reducible intro _
    | with_reducible apply KSt.ite
    | fail_if_no_progress (with_reducible apply KSt.mk'; on_goal 2 => rfl)

theorem journalPut_kept {b : Nat} {start : Bool} {g : Nat} {s : State} (hs0 : KSt w0 s) : KSt w0 (journalPut b start g s) := by
  unfold journalPut
  repeat' first
    | with_reducible assumption
    | with_reducible apply flashPut_kept
    | with_reducible apply setBank_kept
    | fail_if_no_progress (with_reducible apply KSt.mk'; on_goal 2 => rfl)

theorem journal_kept {b : Nat} {start : Bool} {g : Nat} {s : State} (hs : KSt w0 s) : KSt w0 (journal b start g s) := by
  unfold journal
  repeat' first
    | with_reducible assumption
    | with_reducible intro _
    | with_reducible apply journalPut_kept
    | with_reducible apply flashWipe_kept
    | with_reducible apply KSt.ite
    | with_reducible apply KFst.mk
    | with_reducible apply KFst.ite
    | with_reducible apply KSt.foldl
    | with_reducible apply KFst.foldl
    | with_reducible refine KFst.of_eq (by assumption) ?_
    | with_reducible refine KOpt.of_eq (by assumption) ?_
    | with_reducible refine KFst.fst ?_
    | fail_if_no_progress (with_reducible apply KSt.mk'; on_goal 2 => rfl)
    | split
    | (dsimp only; split)

theorem sectorEvent_kept {g : Nat} {c : Nat} {s : State} (hs0 : KSt w0 s) : KSt w0 (sectorEvent g c s) := by
  unfold sectorEvent
  repeat' first
    | with_reducible assumption
    | with_reducible apply broadcast_kept

theorem eraseDone_kept {g : Nat} {s : State} (hs0 : KSt w0 s) : KSt w0 (eraseDone g s) := by
  unfold eraseDone
  repeat' first
    | with_reducible assumption
    | with_reducible intro _
    | with_reducible apply journal_kept
    | with_reducible apply flashWipe_kept
    | with_reducible apply setSector_kept
    | with_reducible apply sectorEvent_kept
    | with_reducible apply KSt.ite
    | fail_if_no_progress (with_reducible apply KSt.mk'; on_goal 2 => rfl)

theorem eraseInfoDone_kept {b : Nat} {s : State} (hs : KSt w0 s) : KSt w0 (eraseInfoDone b s) := by
  unfold eraseInfoDone
  repeat' first
    | with_reducible assumption
    | with_reducible intro _
    | with_reducible apply setSector_kept
    | with_reducible apply journal_kept
    | with_reducible apply flashWipe_kept
    | with_reducible apply KSt.ite
    | with_reducible refine KFst.of_eq (by assumption) ?_
    | with_reducible refine KOpt.of_eq (by assumption) ?_
    | with_reducible refine KFst.fst ?_
    | fail_if_no_progress (with_reducible apply KSt.mk'; on_goal 2 => rfl)
    | split
    | (dsimp only; split)

theorem eraseNow_kept {g : Nat} {s : State} (hs0 : KSt w0 s) : KSt w0 (eraseNow g s) := by
  unfold eraseNow
  repeat' first
    | with_reducible assumption
    | with_reducible apply eraseDone_kept
    | with_reducible apply journal_kept

theorem programNow_kept {a : Nat} {l : Bytes} {s : State} (hs0 : KSt w0 s) : KSt w0 (programNow a l s) := by
  unfold programNow
  repeat' first
    | with_reducible assumption
    | with_reducible apply flashPut_kept

theorem portEnd_kept {p : Nat} {r : PortResult} {code : W16} {s : State} (hs0 : KSt w0 s) : KSt w0 (portEnd p r code s) := by
  unfold portEnd
  repeat' first
    | with_reducible assumption
    | with_reducible apply setPort_kept

theorem countEcc_kept {b : Nat} {s : State} (hs0 : KSt w0 s) : KSt w0 (countEcc b s) := by
  unfold countEcc
  repeat' first
    | with_reducible assumption
    | with_reducible apply setBank_kept

theorem portStart_kept {p : Nat} {op : Nat} {ecc : Nat} {s : State} (hs : KSt w0 s) : KSt w0 (portStart p op ecc s) := by
  unfold portStart
  repeat' first
    | with_reducible assumption
    | with_reducible intro _
    | with_reducible apply countEcc_kept
    | with_reducible apply setPort_kept
    | with_reducible apply setBank_kept
    | with_reducible apply journal_kept
    | with_reducible apply portEnd_kept
    | with_reducible apply KSt.ite
    | with_reducible apply KAns.ite
    | with_reducible apply KAns.hold
    | with_reducible apply KAns.reject
    | with_reducible apply KAns.okay
    | with_reducible apply KAns.done
    | with_reducible apply KAns.keep
    | with_reducible apply KAns.wait
    | with_reducible refine KFst.of_eq (by assumption) ?_
    | with_reducible refine KOpt.of_eq (by assumption) ?_
    | with_reducible refine KFst.fst ?_
    | fail_if_no_progress (with_reducible apply KSt.mk'; on_goal 2 => rfl)
    | split
    | (dsimp only; split)

theorem runWaiting_kept {b : Nat} {s : State} (hs0 : KSt w0 s) : KSt w0 (runWaiting b s) := by
  unfold runWaiting
  repeat' first
    | with_reducible assumption
    | with_reducible intro _
    | with_reducible apply portStart_kept
    | with_reducible apply KSt.foldl
    | split

theorem portCmd_kept {src : W32} {p : Nat} {op : Nat} {ecc : Nat} {s : State} (hs : KSt w0 s) : KSt w0 (portCmd src p op ecc s) := by
  unfold portCmd
  repeat' first
    | with_reducible assumption
    | with_reducible intro _
    | with_reducible apply refuseWrite_kept
    | with_reducible apply setPort_kept
    | with_reducible apply runWaiting_kept
    | with_reducible apply portEnd_kept
    | with_reducible apply setBank_kept
    | with_reducible apply portStart_kept
    | with_reducible apply KSt.ite
    | with_reducible apply KAns.ite
    | with_reducible apply KAns.hold
    | with_reducible apply KAns.reject
    | with_reducible apply KAns.okay
    | with_reducible apply KAns.done
    | with_reducible apply KAns.keep
    | with_reducible apply KAns.wait
    | with_reducible refine KFst.of_eq (by assumption) ?_
    | with_reducible refine KOpt.of_eq (by assumption) ?_
    | with_reducible refine KFst.fst ?_
    | fail_if_no_progress (with_reducible apply KSt.mk'; on_goal 2 => rfl)
    | split
    | (dsimp only; split)

theorem execFlashRead_kept {src : W32} {p : Nat} {ecc : Nat} {s : State} (hs0 : KSt w0 s) : KOut w0 (execFlashRead src p ecc s) := by
  unfold execFlashRead
  repeat' first
    | with_reducible assumption
    | with_reducible apply portCmd_kept
    | with_reducible apply KOut.inRange

theorem execFlashProgram_kept {src : W32} {p : Nat} {s : State} (hs0 : KSt w0 s) : KOut w0 (execFlashProgram src p s) := by
  unfold execFlashProgram
  repeat' first
    | with_reducible assumption
    | with_reducible apply portCmd_kept
    | with_reducible apply KOut.inRange

theorem execFlashErase_kept {src : W32} {p : Nat} {s : State} (hs0 : KSt w0 s) : KOut w0 (execFlashErase src p s) := by
  unfold execFlashErase
  repeat' first
    | with_reducible assumption
    | with_reducible apply portCmd_kept
    | with_reducible apply KOut.inRange

theorem execFlashSuspend_kept {src : W32} {p : Nat} {s : State} (hs0 : KSt w0 s) : KOut w0 (execFlashSuspend src p s) := by
  unfold execFlashSuspend
  repeat' first
    | with_reducible assumption
    | with_reducible apply portCmd_kept
    | with_reducible apply KOut.inRange

theorem execFlashResume_kept {src : W32} {p : Nat} {s : State} (hs0 : KSt w0 s) : KOut w0 (execFlashResume src p s) := by
  unfold execFlashResume
  repeat' first
    | with_reducible assumption
    | with_reducible apply portCmd_kept
    | with_reducible apply KOut.inRange

theorem execBlankCheck_kept {src : W32} {p : Nat} {ecc : Nat} {s : State} (hs0 : KSt w0 s) : KOut w0 (execBlankCheck src p ecc s) := by
  unfold execBlankCheck
  repeat' first
    | with_reducible assumption
    | with_reducible apply portCmd_kept
    | with_reducible apply KOut.inRange

theorem serveWindow_kept {a : Nat} {ecc : Nat} {s : State} (hs0 : KSt w0 s) : KSt w0 (serveWindow a ecc s) := by
  unfold serveWindow
  repeat' first
    | with_reducible assumption
    | with_reducible intro _
    | with_reducible apply countEcc_kept
    | with_reducible apply record_kept
    | with_reducible apply KSt.ite
    | fail_if_no_progress (with_reducible apply KSt.mk'; on_goal 2 => rfl)

theorem flashWindowRead_kept {addr : BitVec 24} {ecc : Nat} {s : State} (hs0 : KSt w0 s) : KSt w0 (flashWindowRead addr ecc s) := by
  unfold flashWindowRead
  repeat' first
    | with_reducible assumption
    | with_reducible intro _
    | with_reducible apply serveWindow_kept
    | with_reducible apply setBank_kept
    | with_reducible apply KSt.ite

theorem execFlashWindowRead_kept {addr : BitVec 24} {ecc : Nat} {s : State} (hs0 : KSt w0 s) : KOut w0 (execFlashWindowRead addr ecc s) := by
  unfold execFlashWindowRead
  repeat' first
    | with_reducible assumption
    | with_reducible apply flashWindowRead_kept
    | with_reducible apply KOut.inRange

theorem servePending_kept {b : Nat} {s : State} (hs0 : KSt w0 s) : KSt w0 (servePending b s) := by
  unfold servePending
  repeat' first
    | with_reducible assumption
    | with_reducible intro _
    | with_reducible apply setBank_kept
    | with_reducible apply runWaiting_kept
    | with_reducible apply serveWindow_kept
    | with_reducible apply KSt.foldl

theorem flashOperationDone_kept {b : Nat} {ok : Bool} {s : State} (hs : KSt w0 s) : KSt w0 (flashOperationDone b ok s) := by
  unfold flashOperationDone
  repeat' first
    | with_reducible assumption
    | with_reducible intro _
    | with_reducible apply setBank_kept
    | with_reducible apply flashPut_kept
    | with_reducible apply setSector_kept
    | with_reducible apply servePending_kept
    | with_reducible apply portEnd_kept
    | with_reducible apply eraseInfoDone_kept
    | with_reducible apply eraseDone_kept
    | with_reducible apply KSt.ite
    | with_reducible apply KAns.ite
    | with_reducible apply KAns.hold
    | with_reducible apply KAns.reject
    | with_reducible apply KAns.okay
    | with_reducible apply KAns.done
    | with_reducible apply KAns.keep
    | with_reducible apply KAns.wait
    | with_reducible refine KFst.of_eq (by assumption) ?_
    | with_reducible refine KOpt.of_eq (by assumption) ?_
    | with_reducible refine KFst.fst ?_
    | fail_if_no_progress (with_reducible apply KSt.mk'; on_goal 2 => rfl)
    | split
    | (dsimp only; split)

theorem execFlashOperationDone_kept {b : Nat} {ok : Bool} {s : State} (hs0 : KSt w0 s) : KOut w0 (execFlashOperationDone b ok s) := by
  unfold execFlashOperationDone
  repeat' first
    | with_reducible assumption
    | with_reducible apply flashOperationDone_kept
    | with_reducible apply KOut.inRange

theorem flashAutoSuspend_kept {b : Nat} {s : State} (hs : KSt w0 s) : KSt w0 (flashAutoSuspend b s) := by
  unfold flashAutoSuspend
  repeat' first
    | with_reducible assumption
    | with_reducible intro _
    | with_reducible apply servePending_kept
    | with_reducible apply setBank_kept
    | with_reducible apply KSt.ite
    | with_reducible refine KFst.of_eq (by assumption) ?_
    | with_reducible refine KOpt.of_eq (by assumption) ?_
    | with_reducible refine KFst.fst ?_
    | with_reducible apply KOpt.getD
    | fail_if_no_progress (with_reducible apply KSt.mk'; on_goal 2 => rfl)
    | split
    | (dsimp only; split)

theorem execFlashAutoSuspend_kept {b : Nat} {s : State} (hs0 : KSt w0 s) : KOut w0 (execFlashAutoSuspend b s) := by
  unfold execFlashAutoSuspend
  repeat' first
    | with_reducible assumption
    | with_reducible apply flashAutoSuspend_kept
    | with_reducible apply KOut.inRange

theorem flashAutoResume_kept {b : Nat} {s : State} (hs : KSt w0 s) : KSt w0 (flashAutoResume b s) := by
  unfold flashAutoResume
  repeat' first
    | with_reducible assumption
    | with_reducible intro _
    | with_reducible apply setBank_kept
    | with_reducible apply KSt.ite
    | with_reducible refine KFst.of_eq (by assumption) ?_
    | with_reducible refine KOpt.of_eq (by assumption) ?_
    | with_reducible refine KFst.fst ?_
    | fail_if_no_progress (with_reducible apply KSt.mk'; on_goal 2 => rfl)
    | split
    | (dsimp only; split)

theorem execFlashAutoResume_kept {b : Nat} {s : State} (hs0 : KSt w0 s) : KOut w0 (execFlashAutoResume b s) := by
  unfold execFlashAutoResume
  repeat' first
    | with_reducible assumption
    | with_reducible apply flashAutoResume_kept
    | with_reducible apply KOut.inRange

theorem suspendKeeperErases_kept {s : State} (hs : KSt w0 s) : KSt w0 (suspendKeeperErases s) := by
  unfold suspendKeeperErases
  repeat' first
    | with_reducible assumption
    | with_reducible intro _
    | with_reducible apply KSt.ite
    | with_reducible refine KFst.of_eq (by assumption) ?_
    | with_reducible refine KOpt.of_eq (by assumption) ?_
    | with_reducible refine KFst.fst ?_
    | fail_if_no_progress (with_reducible apply KSt.mk'; on_goal 2 => rfl)
    | split
    | (dsimp only; split)

end Sys2Proof.Machine
end

