-- ==== Sys2Proof/Laws/KeptFrameConfig.lean ====
section
/-! SUPPORT. What the operations of Machine/FrameConfig.lean keep. -/

namespace Sys2Proof.Machine

variable {w0 : List Instr}

theorem setCfg_kept {s : State} {x : Config} (hs0 : KSt w0 s) : KSt w0 (setCfg s x) := by
  unfold setCfg
  repeat' first
    | with_reducible assumption
    | fail_if_no_progress (with_reducible apply KSt.mk'; on_goal 2 => rfl)

theorem freeStaging_kept {x : FrameLoad} {s : State} (hs : KSt w0 s) : KSt w0 (freeStaging x s) := by
  unfold freeStaging
  repeat' first
    | with_reducible assumption
    | with_reducible intro _
    | with_reducible apply freeMot_kept
    | with_reducible apply KSt.ite
    | with_reducible refine KFst.of_eq (by assumption) ?_
    | with_reducible refine KOpt.of_eq (by assumption) ?_
    | with_reducible refine KFst.fst ?_
    | fail_if_no_progress (with_reducible apply KSt.mk'; on_goal 2 => rfl)
    | split
    | (dsimp only; split)

theorem endLoad_kept {x : FrameLoad} {code : W16} {s : State} (hs : KSt w0 s) : KSt w0 (endLoad x code s) := by
  unfold endLoad
  repeat' first
    | with_reducible assumption
    | with_reducible intro _
    | with_reducible apply setCfg_kept
    | with_reducible apply freeStaging_kept
    | with_reducible apply finishCmd_kept
    | with_reducible apply KSt.ite
    | with_reducible refine KFst.of_eq (by assumption) ?_
    | with_reducible refine KOpt.of_eq (by assumption) ?_
    | with_reducible refine KFst.fst ?_
    | fail_if_no_progress (with_reducible apply KSt.mk'; on_goal 2 => rfl)
    | split
    | (dsimp only; split)

theorem failLoad_kept {x : FrameLoad} {s : State} (hs0 : KSt w0 s) : KSt w0 (failLoad x s) := by
  unfold failLoad
  repeat' first
    | with_reducible assumption
    | with_reducible intro _
    | with_reducible apply setRegion_kept
    | with_reducible apply setCfg_kept
    | with_reducible apply endLoad_kept
    | with_reducible apply KSt.foldl

theorem stopStreams_kept {ks : List Nat} {s : State} (hs : KSt w0 s) : KSt w0 (stopStreams ks s) := by
  unfold stopStreams
  repeat' first
    | with_reducible assumption
    | with_reducible intro _
    | with_reducible apply KSt.ite
    | with_reducible refine KFst.of_eq (by assumption) ?_
    | with_reducible refine KOpt.of_eq (by assumption) ?_
    | with_reducible refine KFst.fst ?_
    | fail_if_no_progress (with_reducible apply KSt.mk'; on_goal 2 => rfl)
    | split
    | (dsimp only; split)

theorem beginLoading_kept {x : FrameLoad} {blank : List Nat} {s : State} (hs0 : KSt w0 s) : KSt w0 (beginLoading x blank s) := by
  unfold beginLoading
  repeat' first
    | with_reducible assumption
    | with_reducible intro _
    | with_reducible apply setRegion_kept
    | with_reducible apply setCfg_kept
    | with_reducible apply KSt.foldl

theorem startLoad_kept {cmd : Option CmdRef} {base : Nat} {size : Nat} {keySource : Nat} {mask : Nat} {part : Bool} {hold : Bool} {s : State} (hs : KSt w0 s) : KSt w0 (startLoad cmd base size keySource mask part hold s) := by
  unfold startLoad
  repeat' first
    | with_reducible assumption
    | with_reducible intro _
    | with_reducible apply setCfg_kept
    | with_reducible apply endLoad_kept
    | with_reducible apply keeperObject_kept
    | with_reducible apply setRegion_kept
    | with_reducible apply stopStreams_kept
    | with_reducible apply beginLoading_kept
    | with_reducible apply KSt.ite
    | with_reducible apply KSt.foldl
    | with_reducible apply KFst.foldl
    | with_reducible refine KFst.of_eq (by assumption) ?_
    | with_reducible refine KOpt.of_eq (by assumption) ?_
    | with_reducible refine KFst.fst ?_
    | fail_if_no_progress (with_reducible apply KSt.mk'; on_goal 2 => rfl)
    | split
    | (dsimp only; split)

theorem regionDrainEnd_kept {s : State} (hs : KSt w0 s) : KSt w0 (regionDrainEnd s) := by
  unfold regionDrainEnd
  repeat' first
    | with_reducible assumption
    | with_reducible intro _
    | with_reducible apply tgtAnswered_kept
    | with_reducible apply setRegion_kept
    | with_reducible apply beginLoading_kept
    | with_reducible apply KSt.ite
    | with_reducible apply KSt.foldl
    | with_reducible apply KFst.foldl
    | with_reducible refine KFst.of_eq (by assumption) ?_
    | with_reducible refine KOpt.of_eq (by assumption) ?_
    | with_reducible refine KFst.fst ?_
    | fail_if_no_progress (with_reducible apply KSt.mk'; on_goal 2 => rfl)
    | split
    | (dsimp only; split)

theorem loadDone_kept {x : FrameLoad} {s : State} (hs : KSt w0 s) : KSt w0 (loadDone x s) := by
  unfold loadDone
  repeat' first
    | with_reducible assumption
    | with_reducible intro _
    | with_reducible apply setCfg_kept
    | with_reducible apply freeStaging_kept
    | with_reducible apply setRegion_kept
    | with_reducible apply finishCmd_kept
    | with_reducible apply KSt.ite
    | with_reducible apply KSt.foldl
    | with_reducible apply KFst.foldl
    | with_reducible refine KFst.of_eq (by assumption) ?_
    | with_reducible refine KOpt.of_eq (by assumption) ?_
    | with_reducible refine KFst.fst ?_
    | fail_if_no_progress (with_reducible apply KSt.mk'; on_goal 2 => rfl)
    | split
    | (dsimp only; split)

theorem stageSegment_kept {x : FrameLoad} {i : Nat} {l : Bytes} {s : State} (hs : KSt w0 s) : KSt w0 (stageSegment x i l s) := by
  unfold stageSegment
  repeat' first
    | with_reducible assumption
    | with_reducible intro _
    | with_reducible apply memWrite_kept
    | with_reducible apply KSt.ite
    | with_reducible refine KFst.of_eq (by assumption) ?_
    | with_reducible refine KOpt.of_eq (by assumption) ?_
    | with_reducible refine KFst.fst ?_
    | fail_if_no_progress (with_reducible apply KSt.mk'; on_goal 2 => rfl)
    | split
    | (dsimp only; split)

theorem fetchAhead_kept {y : FrameLoad} {s : State} (hs : KSt w0 s) : KSt w0 (fetchAhead y s) := by
  unfold fetchAhead
  repeat' first
    | with_reducible assumption
    | with_reducible intro _
    | with_reducible apply stageSegment_kept
    | with_reducible apply setCfg_kept
    | with_reducible apply KSt.ite
    | with_reducible apply KFst.mk
    | with_reducible apply KFst.ite
    | with_reducible refine KFst.of_eq (by assumption) ?_
    | with_reducible refine KOpt.of_eq (by assumption) ?_
    | with_reducible refine KFst.fst ?_
    | fail_if_no_progress (with_reducible apply KSt.mk'; on_goal 2 => rfl)
    | split
    | (dsimp only; split)

theorem segmentChecked_kept {s : State} (hs : KSt w0 s) : KSt w0 (segmentChecked s) := by
  unfold segmentChecked
  repeat' first
    | with_reducible assumption
    | with_reducible intro _
    | with_reducible apply stageSegment_kept
    | with_reducible apply failLoad_kept
    | with_reducible apply recordOf_kept
    | with_reducible apply fin_kept
    | with_reducible apply setCfg_kept
    | with_reducible apply loadDone_kept
    | with_reducible apply fetchAhead_kept
    | with_reducible apply KSt.ite
    | with_reducible apply KFst.mk
    | with_reducible apply KFst.ite
    | with_reducible apply KSt.foldl
    | with_reducible apply KFst.foldl
    | with_reducible refine KFst.of_eq (by assumption) ?_
    | with_reducible refine KOpt.of_eq (by assumption) ?_
    | with_reducible refine KFst.fst ?_
    | with_reducible apply KOpt.getD
    | fail_if_no_progress (with_reducible apply KSt.mk'; on_goal 2 => rfl)
    | split
    | (dsimp only; split)

theorem execSegmentChecked_kept {s : State} (hs0 : KSt w0 s) : KOut w0 (execSegmentChecked s) := by
  unfold execSegmentChecked
  repeat' first
    | with_reducible assumption
    | with_reducible apply segmentChecked_kept
    | with_reducible apply KOut.inRange

theorem regionResetRelease_kept {s : State} (hs0 : KSt w0 s) : KSt w0 (regionResetRelease s) := by
  unfold regionResetRelease
  repeat' first
    | with_reducible assumption
    | with_reducible intro _
    | with_reducible apply setRegion_kept
    | with_reducible apply setCfg_kept
    | with_reducible apply finishCmd_kept
    | with_reducible apply KSt.foldl
    | split

theorem execRegionResetRelease_kept {s : State} (hs0 : KSt w0 s) : KOut w0 (execRegionResetRelease s) := by
  unfold execRegionResetRelease
  repeat' first
    | with_reducible assumption
    | with_reducible apply regionResetRelease_kept
    | with_reducible apply KOut.inRange

theorem armStart_kept {t : W64} {s : State} (hs : KSt w0 s) : KSt w0 (armStart t s) := by
  unfold armStart
  repeat' first
    | with_reducible assumption
    | with_reducible intro _
    | with_reducible apply setCfg_kept
    | with_reducible apply KSt.ite
    | with_reducible refine KFst.of_eq (by assumption) ?_
    | with_reducible refine KOpt.of_eq (by assumption) ?_
    | with_reducible refine KFst.fst ?_
    | fail_if_no_progress (with_reducible apply KSt.mk'; on_goal 2 => rfl)
    | split
    | (dsimp only; split)

theorem sendStart_kept {t : W64} {s : State} (hs : KSt w0 s) : KSt w0 (sendStart t s) := by
  unfold sendStart
  repeat' first
    | with_reducible assumption
    | with_reducible intro _
    | with_reducible apply armStart_kept
    | with_reducible apply setCfg_kept
    | with_reducible apply KSt.ite
    | with_reducible refine KFst.of_eq (by assumption) ?_
    | with_reducible refine KOpt.of_eq (by assumption) ?_
    | with_reducible refine KFst.fst ?_
    | fail_if_no_progress (with_reducible apply KSt.mk'; on_goal 2 => rfl)
    | split
    | (dsimp only; split)

theorem frameDoneSample_kept {x : DoneSample} {s : State} (hs : KSt w0 s) : KSt w0 (frameDoneSample x s) := by
  unfold frameDoneSample
  repeat' first
    | with_reducible assumption
    | with_reducible intro _
    | with_reducible apply setCfg_kept
    | with_reducible apply sendStart_kept
    | with_reducible apply armStart_kept
    | with_reducible apply KSt.ite
    | with_reducible refine KFst.of_eq (by assumption) ?_
    | with_reducible refine KOpt.of_eq (by assumption) ?_
    | with_reducible refine KFst.fst ?_
    | fail_if_no_progress (with_reducible apply KSt.mk'; on_goal 2 => rfl)
    | split
    | (dsimp only; split)

theorem execFrameDoneSample_kept {x : DoneSample} {s : State} (hs : KSt w0 s) : KOut w0 (execFrameDoneSample x s) := by
  unfold execFrameDoneSample
  repeat' first
    | with_reducible assumption
    | with_reducible intro _
    | with_reducible apply frameDoneSample_kept
    | with_reducible apply KOut.inRange
    | with_reducible apply KSt.ite
    | with_reducible refine KFst.of_eq (by assumption) ?_
    | with_reducible refine KOpt.of_eq (by assumption) ?_
    | with_reducible refine KFst.fst ?_
    | fail_if_no_progress (with_reducible apply KSt.mk'; on_goal 2 => rfl)
    | split
    | (dsimp only; split)

theorem frameDoneStart_kept {s : State} (hs0 : KSt w0 s) : KSt w0 (frameDoneStart s) := by
  unfold frameDoneStart
  repeat' first
    | with_reducible assumption
    | with_reducible intro _
    | with_reducible apply setRegion_kept
    | with_reducible apply setCfg_kept
    | with_reducible apply finishCmd_kept
    | with_reducible apply KSt.ite
    | with_reducible apply KSt.foldl
    | split

theorem execFrameDoneStart_kept {s : State} (hs0 : KSt w0 s) : KOut w0 (execFrameDoneStart s) := by
  unfold execFrameDoneStart
  repeat' first
    | with_reducible assumption
    | with_reducible apply frameDoneStart_kept
    | with_reducible apply KOut.inRange

theorem startRequestTimeout_kept {s : State} (hs0 : KSt w0 s) : KSt w0 (startRequestTimeout s) := by
  unfold startRequestTimeout
  repeat' first
    | with_reducible assumption
    | with_reducible apply finishCmd_kept
    | with_reducible apply setCfg_kept
    | split

theorem execStartRequestTimeout_kept {s : State} (hs0 : KSt w0 s) : KOut w0 (execStartRequestTimeout s) := by
  unfold execStartRequestTimeout
  repeat' first
    | with_reducible assumption
    | with_reducible apply startRequestTimeout_kept
    | with_reducible apply KOut.inRange

end Sys2Proof.Machine
end

