-- ==== Sys2Proof/Laws/KeptBoot.lean ====
section
/-! SUPPORT. What the operations of Machine/Boot.lean keep. -/

namespace Sys2Proof.Machine

variable {w0 : List Instr}

theorem writeOption_kept {copy : Nat} {l : Bytes} {s : State} (hs : KSt w0 s) : KSt w0 (writeOption copy l s) := by
  unfold writeOption
  repeat' first
    | with_reducible assumption
    | with_reducible intro _
    | with_reducible apply flashPut_kept
    | with_reducible apply eraseInfoDone_kept
    | with_reducible apply journal_kept
    | with_reducible apply KSt.ite
    | with_reducible refine KFst.of_eq (by assumption) ?_
    | with_reducible refine KOpt.of_eq (by assumption) ?_
    | with_reducible refine KFst.fst ?_
    | fail_if_no_progress (with_reducible apply KSt.mk'; on_goal 2 => rfl)
    | split
    | (dsimp only; split)

theorem putSetting_kept {id : Nat} {format : Byte} {value : Bytes} {s : State} (hs0 : KSt w0 s) : KSt w0 (putSetting id format value s) := by
  unfold putSetting
  repeat' first
    | with_reducible assumption
    | with_reducible intro _
    | with_reducible apply settings_kept
    | with_reducible apply KSt.ite
    | with_reducible apply KSt.foldl
    | with_reducible apply KSt.fst_ite
    | with_reducible apply KSt.id
    | with_reducible apply KAns.ite
    | with_reducible apply KAns.hold
    | with_reducible apply KAns.reject
    | with_reducible apply KAns.okay
    | with_reducible apply KAns.done
    | with_reducible apply KAns.wait
    | with_reducible apply KAns.keep
    | with_reducible refine KFst.of_eq (by assumption) ?_
    | fail_if_no_progress (with_reducible apply KSt.mk'; on_goal 2 => rfl)

theorem migrate_kept {s : State} (hs0 : KSt w0 s) : KSt w0 (migrate s) := by
  unfold migrate
  repeat' first
    | with_reducible assumption
    | with_reducible intro _
    | with_reducible apply putSetting_kept
    | with_reducible apply KSt.ite
    | with_reducible apply KSt.foldl
    | with_reducible apply KSt.fst_ite
    | with_reducible apply KSt.id
    | with_reducible refine KFst.of_eq (by assumption) ?_
    | fail_if_no_progress (with_reducible apply KSt.mk'; on_goal 2 => rfl)
    | split

theorem bootFail_kept {code : W16} {s : State} (hs0 : KSt w0 s) : KSt w0 (bootFail code s) := by
  unfold bootFail
  repeat' first
    | with_reducible assumption
    | with_reducible intro _
    | with_reducible apply systemFault_kept
    | with_reducible apply KSt.ite
    | with_reducible apply KSt.foldl
    | with_reducible apply KSt.fst_ite
    | with_reducible apply KSt.id
    | with_reducible refine KFst.of_eq (by assumption) ?_
    | fail_if_no_progress (with_reducible apply KSt.mk'; on_goal 2 => rfl)

theorem stampCores_kept {n : Nat} {s : State} (hs : KSt w0 s) : KSt w0 (stampCores n s) := by
  unfold stampCores
  repeat' first
    | with_reducible assumption
    | with_reducible intro _
    | with_reducible apply KSt.ite
    | with_reducible apply KSt.foldl
    | with_reducible apply KFst.foldl
    | with_reducible refine KFst.of_eq (by assumption) ?_
    | with_reducible refine KOpt.of_eq (by assumption) ?_
    | with_reducible refine KFst.fst ?_
    | with_reducible apply KOpt.getD
    | fail_if_no_progress (with_reducible apply KSt.mk'; on_goal 2 => rfl)
    | split
    | (dsimp only; split)

theorem startPartition_kept {n : Nat} {s : State} (hs : KSt w0 s) : KSt w0 (startPartition n s) := by
  unfold startPartition
  repeat' first
    | with_reducible assumption
    | with_reducible intro _
    | with_reducible apply bootFail_kept
    | with_reducible apply stampCores_kept
    | with_reducible apply memWrite_kept
    | with_reducible apply KSt.ite
    | with_reducible refine KFst.of_eq (by assumption) ?_
    | with_reducible refine KOpt.of_eq (by assumption) ?_
    | with_reducible refine KFst.fst ?_
    | with_reducible apply KOpt.getD
    | fail_if_no_progress (with_reducible apply KSt.mk'; on_goal 2 => rfl)
    | split
    | (dsimp only; split)

theorem restartPartitions_kept {d : Nat} {s : State} (hs0 : KSt w0 s) : KSt w0 (restartPartitions d s) := by
  unfold restartPartitions
  repeat' first
    | with_reducible assumption
    | with_reducible intro _
    | with_reducible apply startPartition_kept
    | with_reducible apply KSt.ite
    | with_reducible apply KSt.foldl
    | with_reducible apply KSt.fst_ite
    | with_reducible apply KSt.id
    | with_reducible refine KFst.of_eq (by assumption) ?_
    | fail_if_no_progress (with_reducible apply KSt.mk'; on_goal 2 => rfl)

theorem execDieRecovery_kept {die : Nat} {refreshOk : Bool} {failing : List Nat} {s : State} (hs0 : KSt w0 s) : KOut w0 (execDieRecovery die refreshOk failing s) := by
  unfold execDieRecovery
  repeat' first
    | with_reducible assumption
    | with_reducible intro _
    | with_reducible apply when_kept
    | with_reducible apply dieRecovery_kept
    | with_reducible apply restartPartitions_kept
    | with_reducible apply KOut.inRange

theorem bindMailboxes_kept {s : State} (hs0 : KSt w0 s) : KSt w0 (bindMailboxes s) := by
  unfold bindMailboxes
  repeat' first
    | with_reducible assumption
    | with_reducible intro _
    | with_reducible apply setMbx_kept

theorem packageReset_kept {s : State} (h : KSt w0 s) : KSt w0 (packageReset s) := ⟨rfl, h.2.1, h.2.2⟩

theorem releaseReset_kept {strap : BitVec 2} {recoveryLow : Bool} {s : State} (h : KSt w0 s) : KSt w0 (releaseReset strap recoveryLow s) := by
  have h1 : KSt w0 { s with swarm := { s.swarm with node := strap.toNat } } := ⟨h.1, strap.isLt, h.2.2⟩
  have h2 := packageReset_kept h1
  exact bindMailboxes_kept (KSt.mk' h2 rfl)

theorem execPackageReset_kept {strap : BitVec 2} {recoveryLow : Bool} {s : State} (hs : KSt w0 s) : KOut w0 (execPackageReset strap recoveryLow s) := by
  unfold execPackageReset
  repeat' first
    | with_reducible assumption
    | with_reducible intro _
    | with_reducible apply inRange_kept
    | with_reducible apply when_kept
    | with_reducible apply releaseReset_kept
    | with_reducible apply KOut.inRange
    | with_reducible apply KSt.ite
    | with_reducible refine KFst.of_eq (by assumption) ?_
    | with_reducible refine KOpt.of_eq (by assumption) ?_
    | with_reducible refine KFst.fst ?_
    | fail_if_no_progress (with_reducible apply KSt.mk'; on_goal 2 => rfl)
    | split
    | (dsimp only; split)

theorem installOption_kept {rd : Nat → Nat → Bytes} {s : State} (hs0 : KSt w0 s) : KSt w0 (installOption rd s) := by
  unfold installOption
  repeat' first
    | with_reducible assumption
    | with_reducible intro _
    | with_reducible apply writeOption_kept
    | with_reducible apply KSt.ite
    | with_reducible apply KSt.foldl
    | with_reducible apply KSt.fst_ite
    | with_reducible apply KSt.id
    | with_reducible refine KFst.of_eq (by assumption) ?_
    | fail_if_no_progress (with_reducible apply KSt.mk'; on_goal 2 => rfl)
    | split

theorem eraseSlotA_kept {s : State} (hs : KSt w0 s) : KSt w0 (eraseSlotA s) := by
  unfold eraseSlotA
  repeat' first
    | with_reducible assumption
    | with_reducible intro _
    | with_reducible apply setBank_kept
    | with_reducible apply flashWipe_kept
    | with_reducible apply journalPut_kept
    | with_reducible apply KSt.ite
    | with_reducible apply KFst.mk
    | with_reducible apply KFst.ite
    | with_reducible apply KSt.foldl
    | with_reducible apply KFst.foldl
    | with_reducible refine KFst.of_eq (by assumption) ?_
    | with_reducible refine KOpt.of_eq (by assumption) ?_
    | with_reducible refine KFst.fst ?_
    | fail_if_no_progress (with_reducible apply KSt.mk'; on_goal 2 => rfl)
    | split
    | (dsimp only; split)

theorem enterRecovery_kept {reason : Nat} {s : State} (hs0 : KSt w0 s) : KSt w0 (enterRecovery reason s) := by
  unfold enterRecovery
  repeat' first
    | with_reducible assumption
    | with_reducible intro _
    | with_reducible apply flashPut_kept
    | with_reducible apply eraseSlotA_kept
    | with_reducible apply releaseReset_kept
    | with_reducible apply installOption_kept
    | with_reducible apply KSt.ite
    | with_reducible apply KSt.foldl
    | with_reducible apply KSt.fst_ite
    | with_reducible apply KSt.id
    | with_reducible refine KFst.of_eq (by assumption) ?_
    | fail_if_no_progress (with_reducible apply KSt.mk'; on_goal 2 => rfl)

theorem recoveryAnswer_kept {typ : Nat} {status : W16} {l : Bytes} {s : State} (hs0 : KSt w0 s) : KSt w0 (recoveryAnswer typ status l s) := by
  unfold recoveryAnswer
  repeat' first
    | with_reducible assumption
    | with_reducible intro _
    | with_reducible apply KSt.ite
    | with_reducible apply KSt.foldl
    | with_reducible apply KSt.fst_ite
    | with_reducible apply KSt.id
    | with_reducible refine KFst.of_eq (by assumption) ?_
    | fail_if_no_progress (with_reducible apply KSt.mk'; on_goal 2 => rfl)

theorem onRecovery_kept {typ : Nat} {msg : Bytes} {f : Bytes → State → State} {s : State} (hf : ∀ y0 y1, KSt w0 y1 → KSt w0 (f y0 y1)) (hs0 : KSt w0 s) : KSt w0 (onRecovery typ msg f s) := by
  unfold onRecovery
  repeat' first
    | with_reducible assumption
    | with_reducible intro _
    | with_reducible apply recoveryAnswer_kept
    | with_reducible apply KSt.ite
    | with_reducible apply KSt.foldl
    | with_reducible apply KSt.fst_ite
    | with_reducible apply KSt.id
    | with_reducible refine KFst.of_eq (by assumption) ?_
    | with_reducible apply hf
    | fail_if_no_progress (with_reducible apply KSt.mk'; on_goal 2 => rfl)
    | split

theorem recoveryHello_kept {u0 : Bytes} {s : State} (hs0 : KSt w0 s) : KSt w0 (recoveryHello u0 s) := by
  unfold recoveryHello
  repeat' first
    | with_reducible assumption
    | with_reducible intro _
    | with_reducible apply recoveryAnswer_kept

theorem execRecoveryHello_kept {msg : Bytes} {s : State} (hs0 : KSt w0 s) : KOut w0 (execRecoveryHello msg s) := by
  unfold execRecoveryHello
  repeat' first
    | with_reducible assumption
    | with_reducible intro _
    | with_reducible apply onRecovery_kept
    | with_reducible apply recoveryHello_kept
    | with_reducible apply KOut.inRange

theorem execRecoveryErase_kept {msg : Bytes} {s : State} (hs0 : KSt w0 s) : KOut w0 (execRecoveryErase msg s) := by
  unfold execRecoveryErase
  repeat' first
    | with_reducible assumption
    | with_reducible intro _
    | with_reducible apply onRecovery_kept
    | with_reducible apply recoveryAnswer_kept
    | with_reducible apply eraseSlotA_kept
    | with_reducible apply KOut.inRange

theorem recoveryWrite_kept {l : Bytes} {s : State} (hs0 : KSt w0 s) : KSt w0 (recoveryWrite l s) := by
  unfold recoveryWrite
  repeat' first
    | with_reducible assumption
    | with_reducible intro _
    | with_reducible apply recoveryAnswer_kept
    | with_reducible apply flashPut_kept
    | with_reducible apply KSt.ite

theorem execRecoveryWrite_kept {msg : Bytes} {s : State} (hs0 : KSt w0 s) : KOut w0 (execRecoveryWrite msg s) := by
  unfold execRecoveryWrite
  repeat' first
    | with_reducible assumption
    | with_reducible intro _
    | with_reducible apply onRecovery_kept
    | with_reducible apply recoveryWrite_kept
    | with_reducible apply KOut.inRange

theorem recoveryInstall_kept {u0 : Bytes} {s : State} (hs0 : KSt w0 s) : KSt w0 (recoveryInstall u0 s) := by
  unfold recoveryInstall
  repeat' first
    | with_reducible assumption
    | with_reducible intro _
    | with_reducible apply recoveryAnswer_kept
    | with_reducible apply installOption_kept
    | with_reducible apply KSt.ite

theorem execRecoveryInstall_kept {msg : Bytes} {s : State} (hs0 : KSt w0 s) : KOut w0 (execRecoveryInstall msg s) := by
  unfold execRecoveryInstall
  repeat' first
    | with_reducible assumption
    | with_reducible intro _
    | with_reducible apply onRecovery_kept
    | with_reducible apply recoveryInstall_kept
    | with_reducible apply KOut.inRange

theorem execRecoveryReset_kept {msg : Bytes} {s : State} (hs0 : KSt w0 s) : KOut w0 (execRecoveryReset msg s) := by
  unfold execRecoveryReset
  repeat' first
    | with_reducible assumption
    | with_reducible intro _
    | with_reducible apply onRecovery_kept
    | with_reducible apply recoveryAnswer_kept
    | with_reducible apply releaseReset_kept
    | with_reducible apply KOut.inRange

theorem bootLoader_kept {s : State} (hs0 : KSt w0 s) : KSt w0 (bootLoader s) := by
  unfold bootLoader
  repeat' first
    | with_reducible assumption
    | with_reducible intro _
    | with_reducible apply bindMailboxes_kept
    | with_reducible apply KSt.ite
    | with_reducible apply KSt.foldl
    | with_reducible apply KSt.fst_ite
    | with_reducible apply KSt.id
    | with_reducible refine KFst.of_eq (by assumption) ?_
    | fail_if_no_progress (with_reducible apply KSt.mk'; on_goal 2 => rfl)

theorem burnCounter_kept {v : Nat} {s : State} (hs0 : KSt w0 s) : KSt w0 (burnCounter v s) := by
  unfold burnCounter
  repeat' first
    | with_reducible assumption
    | with_reducible intro _
    | with_reducible apply KSt.ite
    | with_reducible apply KSt.foldl
    | with_reducible apply KSt.fst_ite
    | with_reducible apply KSt.id
    | with_reducible refine KFst.of_eq (by assumption) ?_
    | fail_if_no_progress (with_reducible apply KSt.mk'; on_goal 2 => rfl)

theorem bootKeeper_kept {slot : Bool} {rolled : Bool} {s : State} (hs : KSt w0 s) : KSt w0 (bootKeeper slot rolled s) := by
  unfold bootKeeper
  repeat' first
    | with_reducible assumption
    | with_reducible intro _
    | with_reducible apply memWrite_kept
    | with_reducible apply burnCounter_kept
    | with_reducible apply KSt.ite
    | with_reducible refine KFst.of_eq (by assumption) ?_
    | with_reducible refine KOpt.of_eq (by assumption) ?_
    | with_reducible refine KFst.fst ?_
    | fail_if_no_progress (with_reducible apply KSt.mk'; on_goal 2 => rfl)
    | split
    | (dsimp only; split)

theorem bootSafety_kept {s : State} (hs : KSt w0 s) : KSt w0 (bootSafety s) := by
  unfold bootSafety
  repeat' first
    | with_reducible assumption
    | with_reducible intro _
    | with_reducible apply KSt.ite
    | with_reducible refine KFst.of_eq (by assumption) ?_
    | with_reducible refine KOpt.of_eq (by assumption) ?_
    | with_reducible refine KFst.fst ?_
    | fail_if_no_progress (with_reducible apply KSt.mk'; on_goal 2 => rfl)
    | split
    | (dsimp only; split)

theorem bootDies_kept {s : State} (hs : KSt w0 s) : KSt w0 (bootDies s) := by
  unfold bootDies
  repeat' first
    | with_reducible assumption
    | with_reducible intro _
    | with_reducible apply bringUp_kept
    | with_reducible apply setSlink_kept
    | with_reducible apply migrate_kept
    | with_reducible apply settlePlls_kept
    | with_reducible apply broadcast_kept
    | with_reducible apply sendWakeCause_kept
    | with_reducible apply systemFault_kept
    | with_reducible apply sectorEvent_kept
    | with_reducible apply eraseNow_kept
    | with_reducible apply KSt.ite
    | with_reducible apply KFst.mk
    | with_reducible apply KFst.ite
    | with_reducible apply KSt.foldl
    | with_reducible apply KFst.foldl
    | with_reducible refine KFst.of_eq (by assumption) ?_
    | with_reducible refine KOpt.of_eq (by assumption) ?_
    | with_reducible refine KFst.fst ?_
    | with_reducible refine KSt.mem ?_ (KSt.wf_filters (by assumption)) rfl
    | fail_if_no_progress (with_reducible apply KSt.mk'; on_goal 2 => rfl)
    | split
    | (dsimp only; split)

theorem loadAll_kept (n : Nat) {s : State} (h : KSt w0 s) : KSt w0 (loadAll n s) := by
  induction n generalizing s with
  | zero => exact h
  | succ n ih => exact KSt.ite (fun _ => ih (segmentChecked_kept h)) (fun _ => h)

theorem bootFrame_kept {s : State} (hs0 : KSt w0 s) : KSt w0 (bootFrame s) := by
  unfold bootFrame
  repeat' first
    | with_reducible assumption
    | with_reducible intro _
    | with_reducible apply setCfg_kept
    | with_reducible apply keeperCopy_kept
    | with_reducible apply loadAll_kept
    | with_reducible apply startLoad_kept
    | with_reducible apply freeMot_kept
    | with_reducible apply bootFail_kept
    | with_reducible apply KSt.ite
    | with_reducible apply KSt.foldl
    | with_reducible apply KSt.fst_ite
    | with_reducible apply KSt.id
    | with_reducible apply KFst.ite
    | with_reducible apply KFst.mk
    | with_reducible apply KFst.foldl
    | with_reducible refine KFst.of_eq (by assumption) ?_
    | with_reducible refine KFst.fst (keeperCopy_kept ?_)
    | fail_if_no_progress (with_reducible apply KSt.mk'; on_goal 2 => rfl)
    | split

theorem bootParts_kept {s : State} (hs0 : KSt w0 s) : KSt w0 (bootParts s) := by
  unfold bootParts
  repeat' first
    | with_reducible assumption
    | with_reducible intro _
    | with_reducible apply startPartition_kept
    | with_reducible apply KSt.ite
    | with_reducible apply KSt.foldl
    | with_reducible apply KSt.fst_ite
    | with_reducible apply KSt.id
    | with_reducible refine KFst.of_eq (by assumption) ?_
    | fail_if_no_progress (with_reducible apply KSt.mk'; on_goal 2 => rfl)

theorem bootChain_kept {s : State} (hs0 : KSt w0 s) : KSt w0 (bootChain s) := by
  unfold bootChain
  repeat' first
    | with_reducible assumption
    | with_reducible intro _
    | with_reducible apply bootLoader_kept
    | with_reducible apply enterRecovery_kept
    | with_reducible apply lifeCount_kept
    | with_reducible apply bootParts_kept
    | with_reducible apply bootFrame_kept
    | with_reducible apply bootDies_kept
    | with_reducible apply bootSafety_kept
    | with_reducible apply bootKeeper_kept
    | with_reducible apply KSt.ite
    | with_reducible apply KSt.foldl
    | with_reducible apply KSt.fst_ite
    | with_reducible apply KSt.id
    | with_reducible refine KFst.of_eq (by assumption) ?_
    | fail_if_no_progress (with_reducible apply KSt.mk'; on_goal 2 => rfl)
    | split

theorem execBootChain_kept {s : State} (hs0 : KSt w0 s) : KOut w0 (execBootChain s) := by
  unfold execBootChain
  repeat' first
    | with_reducible assumption
    | with_reducible intro _
    | with_reducible apply bootChain_kept
    | with_reducible apply KOut.inRange

end Sys2Proof.Machine
end

