-- ==== Sys2Proof/Laws/KeptIsland.lean ====
section
/-! SUPPORT. What the operations of Machine/Island.lean keep. -/

namespace Sys2Proof.Machine

variable {w0 : List Instr}

theorem setFunc_kept {s : State} {f : Nat} {x : SafetyFunc} (hs0 : KSt w0 s) : KSt w0 (setFunc s f x) := by
  unfold setFunc
  repeat' first
    | with_reducible assumption
    | fail_if_no_progress (with_reducible apply KSt.mk'; on_goal 2 => rfl)

theorem setInput_kept {s : State} {i : Nat} {x : SafeInput} (hs0 : KSt w0 s) : KSt w0 (setInput s i x) := by
  unfold setInput
  repeat' first
    | with_reducible assumption
    | fail_if_no_progress (with_reducible apply KSt.mk'; on_goal 2 => rfl)

theorem setPair_kept {s : State} {p : Nat} {x : OutputPair} (hs0 : KSt w0 s) : KSt w0 (setPair s p x) := by
  unfold setPair
  repeat' first
    | with_reducible assumption
    | fail_if_no_progress (with_reducible apply KSt.mk'; on_goal 2 => rfl)

theorem setConn_kept {s : State} {c : Nat} {x : Conn} (hs0 : KSt w0 s) : KSt w0 (setConn s c x) := by
  unfold setConn
  repeat' first
    | with_reducible assumption
    | fail_if_no_progress (with_reducible apply KSt.mk'; on_goal 2 => rfl)

theorem islandLog_kept {func : Nat} {cause : Nat} {source : Nat} {state : Nat} {s : State} (hs0 : KSt w0 s) : KSt w0 (islandLog func cause source state s) := by
  unfold islandLog
  repeat' first
    | with_reducible assumption
    | fail_if_no_progress (with_reducible apply KSt.mk'; on_goal 2 => rfl)

theorem hardwareSafe_kept {s : State} (hs0 : KSt w0 s) : KSt w0 (hardwareSafe s) := by
  unfold hardwareSafe
  repeat' first
    | with_reducible assumption
    | with_reducible intro _
    | with_reducible apply lifeCount_kept
    | with_reducible apply KSt.ite
    | fail_if_no_progress (with_reducible apply KSt.mk'; on_goal 2 => rfl)

theorem islandStart_kept {badPairs : Byte} {s : State} (hs0 : KSt w0 s) : KSt w0 (islandStart badPairs s) := by
  unfold islandStart
  repeat' first
    | with_reducible assumption
    | with_reducible intro _
    | with_reducible apply KSt.ite
    | fail_if_no_progress (with_reducible apply KSt.mk'; on_goal 2 => rfl)

theorem execIslandStart_kept {badPairs : Byte} {s : State} (hs0 : KSt w0 s) : KOut w0 (execIslandStart badPairs s) := by
  unfold execIslandStart
  repeat' first
    | with_reducible assumption
    | with_reducible apply islandStart_kept
    | with_reducible apply KOut.inRange

theorem execHardwareSafeState_kept {_reason : Nat} {s : State} (hs0 : KSt w0 s) : KOut w0 (execHardwareSafeState _reason s) := by
  unfold execHardwareSafeState
  repeat' first
    | with_reducible assumption
    | with_reducible apply hardwareSafe_kept
    | with_reducible apply KOut.inRange

theorem execWindowWatchdogExpiry_kept {s : State} (hs0 : KSt w0 s) : KOut w0 (execWindowWatchdogExpiry s) := by
  unfold execWindowWatchdogExpiry
  repeat' first
    | with_reducible assumption
    | with_reducible apply hardwareSafe_kept
    | with_reducible apply KOut.inRange

theorem execClockSupervisorCheck_kept {refPpm : Int} {xtalPpm : Int} {s : State} (hs0 : KSt w0 s) : KOut w0 (execClockSupervisorCheck refPpm xtalPpm s) := by
  unfold execClockSupervisorCheck
  repeat' first
    | with_reducible assumption
    | with_reducible apply when_kept
    | with_reducible apply hardwareSafe_kept
    | with_reducible apply KOut.inRange

theorem execParameterCrcCheck_kept {s : State} (hs0 : KSt w0 s) : KOut w0 (execParameterCrcCheck s) := by
  unfold execParameterCrcCheck
  repeat' first
    | with_reducible assumption
    | with_reducible apply when_kept
    | with_reducible apply hardwareSafe_kept
    | with_reducible apply KOut.inRange

theorem execSramMarchTest_kept {pass : Bool} {s : State} (hs0 : KSt w0 s) : KOut w0 (execSramMarchTest pass s) := by
  unfold execSramMarchTest
  repeat' first
    | with_reducible assumption
    | with_reducible apply when_kept
    | with_reducible apply hardwareSafe_kept
    | with_reducible apply KOut.inRange

theorem execSafeInputSample_kept {raw : W16} {s : State} (hs0 : KSt w0 s) : KOut w0 (execSafeInputSample raw s) := by
  unfold execSafeInputSample
  repeat' first
    | with_reducible assumption
    | with_reducible intro _
    | with_reducible apply setInput_kept
    | with_reducible apply KOut.inRange
    | with_reducible apply KSt.ite
    | with_reducible apply KSt.foldl

theorem execTestPulse_kept {tp : Nat} {raw : W16} {s : State} (hs0 : KSt w0 s) : KOut w0 (execTestPulse tp raw s) := by
  unfold execTestPulse
  repeat' first
    | with_reducible assumption
    | with_reducible intro _
    | with_reducible apply setInput_kept
    | with_reducible apply KOut.inRange
    | with_reducible apply KSt.ite
    | with_reducible apply KSt.foldl

theorem evalFunc_kept {s : State} {k : Nat} (hs0 : KSt w0 s) : KSt w0 (evalFunc s k) := by
  unfold evalFunc
  repeat' first
    | with_reducible assumption
    | with_reducible intro _
    | with_reducible apply setFunc_kept
    | with_reducible apply KSt.ite

theorem takeDemand_kept {k : Nat} {cause : Nat} {s : State} (hs : KSt w0 s) : KSt w0 (takeDemand k cause s) := by
  unfold takeDemand
  repeat' first
    | with_reducible assumption
    | with_reducible intro _
    | with_reducible apply setFunc_kept
    | with_reducible apply KSt.ite
    | with_reducible refine KFst.of_eq (by assumption) ?_
    | with_reducible refine KOpt.of_eq (by assumption) ?_
    | with_reducible refine KFst.fst ?_
    | fail_if_no_progress (with_reducible apply KSt.mk'; on_goal 2 => rfl)
    | split
    | (dsimp only; split)

theorem recordDemands_kept {k : Nat} {run : Bool} {old : List Nat} {l : List (Nat × Nat × Nat)} {s : State} (hs : KSt w0 s) : KSt w0 (recordDemands k run old l s) := by
  unfold recordDemands
  repeat' first
    | with_reducible assumption
    | with_reducible intro _
    | with_reducible apply islandLog_kept
    | with_reducible apply setFunc_kept
    | with_reducible apply KSt.ite
    | with_reducible apply KFst.mk
    | with_reducible apply KFst.ite
    | with_reducible apply KSt.foldl
    | with_reducible apply KFst.foldl
    | with_reducible refine KFst.of_eq (by assumption) ?_
    | with_reducible refine KOpt.of_eq (by assumption) ?_
    | with_reducible refine KFst.fst ?_
    | fail_if_no_progress (with_reducible apply KSt.mk'; on_goal 2 => rfl)
    | split
    | (dsimp only; split)

theorem resetFunc_kept {k : Nat} {src : Nat} {okPulse : Bool} {s : State} (hs0 : KSt w0 s) : KSt w0 (resetFunc k src okPulse s) := by
  unfold resetFunc
  repeat' first
    | with_reducible assumption
    | with_reducible intro _
    | with_reducible apply setFunc_kept
    | with_reducible apply islandLog_kept
    | with_reducible apply KSt.ite

theorem resetPulse_kept {k : Nat} {s : State} (hs0 : KSt w0 s) : KSt w0 (resetPulse k s) := by
  unfold resetPulse
  repeat' first
    | with_reducible assumption
    | with_reducible intro _
    | with_reducible apply setFunc_kept
    | with_reducible apply resetFunc_kept
    | with_reducible apply KSt.ite
    | split

theorem stopFunc_kept {s : State} {k : Nat} (hs : KSt w0 s) : KSt w0 (stopFunc s k) := by
  unfold stopFunc
  repeat' first
    | with_reducible assumption
    | with_reducible intro _
    | with_reducible apply resetPulse_kept
    | with_reducible apply recordDemands_kept
    | with_reducible apply takeDemand_kept
    | with_reducible apply setFunc_kept
    | with_reducible apply KSt.ite
    | with_reducible refine KFst.of_eq (by assumption) ?_
    | with_reducible refine KOpt.of_eq (by assumption) ?_
    | with_reducible refine KFst.fst ?_
    | fail_if_no_progress (with_reducible apply KSt.mk'; on_goal 2 => rfl)
    | split
    | (dsimp only; split)

theorem faultPair_kept {p : Nat} {s : State} (hs0 : KSt w0 s) : KSt w0 (faultPair p s) := by
  unfold faultPair
  repeat' first
    | with_reducible assumption
    | with_reducible intro _
    | with_reducible apply setPair_kept
    | with_reducible apply islandLog_kept
    | with_reducible apply setFunc_kept
    | with_reducible apply KSt.foldl

theorem readPair_kept {high : Bool} {low : Bool} {s : State} {p : Nat} (hs0 : KSt w0 s) : KSt w0 (readPair high low s p) := by
  unfold readPair
  repeat' first
    | with_reducible assumption
    | with_reducible intro _
    | with_reducible apply faultPair_kept
    | with_reducible apply setPair_kept
    | with_reducible apply KSt.ite

theorem drivePair_kept {s : State} {p : Nat} (hs0 : KSt w0 s) : KSt w0 (drivePair s p) := by
  unfold drivePair
  repeat' first
    | with_reducible assumption
    | with_reducible apply setPair_kept

theorem ioCycle_kept {highOn : Byte} {lowOn : Byte} {s : State} (hs0 : KSt w0 s) : KSt w0 (ioCycle highOn lowOn s) := by
  unfold ioCycle
  repeat' first
    | with_reducible assumption
    | with_reducible intro _
    | with_reducible apply readPair_kept
    | with_reducible apply evalFunc_kept
    | with_reducible apply stopFunc_kept
    | with_reducible apply drivePair_kept
    | with_reducible apply KSt.ite
    | with_reducible apply KSt.foldl

theorem execIoCycle_kept {highOn : Byte} {lowOn : Byte} {s : State} (hs0 : KSt w0 s) : KOut w0 (execIoCycle highOn lowOn s) := by
  unfold execIoCycle
  repeat' first
    | with_reducible assumption
    | with_reducible apply ioCycle_kept
    | with_reducible apply KOut.inRange

theorem execOutputDarkTest_kept {p : Nat} {_low : Bool} {readOn : Bool} {s : State} (hs0 : KSt w0 s) : KOut w0 (execOutputDarkTest p _low readOn s) := by
  unfold execOutputDarkTest
  repeat' first
    | with_reducible assumption
    | with_reducible intro _
    | with_reducible apply faultPair_kept
    | with_reducible apply KOut.inRange
    | with_reducible apply KSt.ite

theorem stopMonitor_kept {k : Nat} {s : State} (hs0 : KSt w0 s) : KSt w0 (stopMonitor k s) := by
  unfold stopMonitor
  repeat' first
    | with_reducible assumption
    | with_reducible intro _
    | with_reducible apply setFunc_kept
    | split
    | (dsimp only; split)

theorem execStopMonitor_kept {f : Nat} {s : State} (hs0 : KSt w0 s) : KOut w0 (execStopMonitor f s) := by
  unfold execStopMonitor
  repeat' first
    | with_reducible assumption
    | with_reducible apply stopMonitor_kept
    | with_reducible apply KOut.inRange

theorem deliver_kept {k : Nat} {netB : Bool} {l : Bytes} {gap : Bool} {s : State} (hs0 : KSt w0 s) : KSt w0 (deliver k netB l gap s) := by
  unfold deliver
  repeat' first
    | with_reducible assumption
    | with_reducible intro _
    | with_reducible apply setConn_kept
    | with_reducible apply resetFunc_kept
    | with_reducible apply KSt.ite
    | with_reducible apply KSt.foldl

theorem compareCopy_kept {k : Nat} {netB : Bool} {l : Bytes} {s : State} (hs0 : KSt w0 s) : KSt w0 (compareCopy k netB l s) := by
  unfold compareCopy
  repeat' first
    | with_reducible assumption
    | with_reducible intro _
    | with_reducible apply setConn_kept
    | split
    | (dsimp only; split)

theorem acceptFrame_kept {k : Nat} {netB : Bool} {l : Bytes} {s : State} (hs0 : KSt w0 s) : KSt w0 (acceptFrame k netB l s) := by
  unfold acceptFrame
  repeat' first
    | with_reducible assumption
    | with_reducible intro _
    | with_reducible apply deliver_kept
    | with_reducible apply compareCopy_kept
    | with_reducible apply setConn_kept
    | split
    | (dsimp only; split)

theorem blackChannelFrame_kept {net : Nat} {ident : W32} {l : Bytes} {s : State} (hs0 : KSt w0 s) : KSt w0 (blackChannelFrame net ident l s) := by
  unfold blackChannelFrame
  repeat' first
    | with_reducible assumption
    | with_reducible intro _
    | with_reducible apply acceptFrame_kept
    | split

theorem execBlackChannelFrame_kept {net : Nat} {ident : W32} {frame : Bytes} {s : State} (hs0 : KSt w0 s) : KOut w0 (execBlackChannelFrame net ident frame s) := by
  unfold execBlackChannelFrame
  repeat' first
    | with_reducible assumption
    | with_reducible apply blackChannelFrame_kept
    | with_reducible apply KOut.inRange

theorem inboxWrite_kept {src : W32} {n : Nat} {w : Nat} {v : W32} {s : State} (hs : KSt w0 s) : KSt w0 (inboxWrite src n w v s) := by
  unfold inboxWrite
  repeat' first
    | with_reducible assumption
    | with_reducible intro _
    | with_reducible apply answer_kept
    | with_reducible apply refuseWrite_kept
    | with_reducible apply KSt.ite
    | with_reducible refine KFst.of_eq (by assumption) ?_
    | with_reducible refine KOpt.of_eq (by assumption) ?_
    | with_reducible refine KFst.fst ?_
    | fail_if_no_progress (with_reducible apply KSt.mk'; on_goal 2 => rfl)
    | split
    | (dsimp only; split)

theorem inboxSubmit_kept {src : W32} {n : Nat} {v : W32} {s : State} (hs0 : KSt w0 s) : KSt w0 (inboxSubmit src n v s) := by
  unfold inboxSubmit
  repeat' first
    | with_reducible assumption
    | with_reducible intro _
    | with_reducible apply inboxWrite_kept
    | with_reducible apply acceptFrame_kept
    | with_reducible apply KSt.ite
    | split

theorem execInboxSubmit_kept {src : W32} {n : Nat} {v : W32} {s : State} (hs0 : KSt w0 s) : KOut w0 (execInboxSubmit src n v s) := by
  unfold execInboxSubmit
  repeat' first
    | with_reducible assumption
    | with_reducible apply inboxSubmit_kept
    | with_reducible apply KOut.inRange

theorem connectionSend_kept {k : Nat} {s : State} (hs0 : KSt w0 s) : KSt w0 (connectionSend k s) := by
  unfold connectionSend
  repeat' first
    | with_reducible assumption
    | with_reducible intro _
    | with_reducible apply setConn_kept
    | with_reducible apply KSt.ite
    | fail_if_no_progress (with_reducible apply KSt.mk'; on_goal 2 => rfl)

theorem execConnectionSend_kept {c : Nat} {s : State} (hs0 : KSt w0 s) : KOut w0 (execConnectionSend c s) := by
  unfold execConnectionSend
  repeat' first
    | with_reducible assumption
    | with_reducible apply connectionSend_kept
    | with_reducible apply KOut.inRange

theorem comparisonWindow_kept {k : Nat} {s : State} (hs0 : KSt w0 s) : KSt w0 (comparisonWindow k s) := by
  unfold comparisonWindow
  repeat' first
    | with_reducible assumption
    | with_reducible apply setConn_kept
    | (dsimp only; split)

theorem execComparisonWindow_kept {c : Nat} {s : State} (hs0 : KSt w0 s) : KOut w0 (execComparisonWindow c s) := by
  unfold execComparisonWindow
  repeat' first
    | with_reducible assumption
    | with_reducible apply comparisonWindow_kept
    | with_reducible apply KOut.inRange

theorem execConnectionLost_kept {c : Nat} {s : State} (hs0 : KSt w0 s) : KOut w0 (execConnectionLost c s) := by
  unfold execConnectionLost
  repeat' first
    | with_reducible assumption
    | with_reducible intro _
    | with_reducible apply setConn_kept
    | with_reducible apply KOut.inRange
    | with_reducible apply KSt.ite

theorem execConnectionDegraded_kept {c : Nat} {netB : Bool} {s : State} (hs0 : KSt w0 s) : KOut w0 (execConnectionDegraded c netB s) := by
  unfold execConnectionDegraded
  repeat' first
    | with_reducible assumption
    | with_reducible intro _
    | with_reducible apply setConn_kept
    | with_reducible apply KOut.inRange
    | with_reducible apply KSt.ite

theorem execDegradedLimit_kept {c : Nat} {s : State} (hs0 : KSt w0 s) : KOut w0 (execDegradedLimit c s) := by
  unfold execDegradedLimit
  repeat' first
    | with_reducible assumption
    | with_reducible intro _
    | with_reducible apply setConn_kept
    | with_reducible apply KOut.inRange
    | with_reducible apply KSt.ite

end Sys2Proof.Machine
end

