-- ==== Sys2Proof/Laws/KeptPower.lean ====
section
/-! SUPPORT. What the operations of Machine/Power.lean keep. -/

namespace Sys2Proof.Machine

variable {w0 : List Instr}

theorem saveLifetime_kept {s : State} (hs0 : KSt w0 s) : KSt w0 (saveLifetime s) := by
  unfold saveLifetime
  repeat' first
    | with_reducible assumption
    | fail_if_no_progress (with_reducible apply KSt.mk'; on_goal 2 => rfl)

theorem execLifetimeRecord_kept {s : State} (hs0 : KSt w0 s) : KOut w0 (execLifetimeRecord s) := by
  unfold execLifetimeRecord
  repeat' first
    | with_reducible assumption
    | with_reducible apply saveLifetime_kept
    | with_reducible apply KOut.inRange

theorem minuteTick_kept {i : Nat} {s : State} (hs0 : KSt w0 s) : KSt w0 (minuteTick i s) := by
  unfold minuteTick
  repeat' first
    | with_reducible assumption
    | with_reducible intro _
    | with_reducible apply lifeCount_kept
    | with_reducible apply KSt.ite
    | fail_if_no_progress (with_reducible apply KSt.mk'; on_goal 2 => rfl)

theorem recordTemp_kept {d : Nat} {t : W16} {s : State} (hs0 : KSt w0 s) : KSt w0 (recordTemp d t s) := by
  unfold recordTemp
  repeat' first
    | with_reducible assumption
    | with_reducible intro _
    | with_reducible apply lifeCount_kept
    | with_reducible apply KSt.ite
    | fail_if_no_progress (with_reducible apply KSt.mk'; on_goal 2 => rfl)

theorem setPkg_kept {p : PkgState} {s : State} (hs0 : KSt w0 s) : KSt w0 (setPkg p s) := by
  unfold setPkg
  repeat' first
    | with_reducible assumption
    | with_reducible intro _
    | with_reducible apply broadcast_kept
    | with_reducible apply KSt.ite
    | fail_if_no_progress (with_reducible apply KSt.mk'; on_goal 2 => rfl)

theorem refreshPkg_kept {s : State} (hs0 : KSt w0 s) : KSt w0 (refreshPkg s) := by
  unfold refreshPkg
  repeat' first
    | with_reducible assumption
    | with_reducible intro _
    | with_reducible apply setPkg_kept
    | with_reducible apply KSt.ite

theorem setDomState_kept {d : Nat} {st : DomState} {s : State} (hs : KSt w0 s) : KSt w0 (setDomState d st s) := by
  unfold setDomState
  repeat' first
    | with_reducible assumption
    | with_reducible intro _
    | with_reducible apply refreshPkg_kept
    | with_reducible apply sendOwner_kept
    | with_reducible apply settlePlls_kept
    | with_reducible apply setDom_kept
    | with_reducible apply KSt.ite
    | with_reducible refine KFst.of_eq (by assumption) ?_
    | with_reducible refine KOpt.of_eq (by assumption) ?_
    | with_reducible refine KFst.fst ?_
    | with_reducible apply KOpt.getD
    | fail_if_no_progress (with_reducible apply KSt.mk'; on_goal 2 => rfl)
    | split
    | (dsimp only; split)

theorem gate_kept {d : Nat} {s : State} (hs0 : KSt w0 s) : KSt w0 (gate d s) := by
  unfold gate
  repeat' first
    | with_reducible assumption
    | with_reducible intro _
    | with_reducible apply setDomState_kept
    | with_reducible apply KSt.ite

theorem ungate_kept {d : Nat} {s : State} (hs : KSt w0 s) : KSt w0 (ungate d s) := by
  unfold ungate
  repeat' first
    | with_reducible assumption
    | with_reducible intro _
    | with_reducible apply setDomState_kept
    | with_reducible apply setDom_kept
    | with_reducible apply KSt.ite
    | with_reducible refine KFst.of_eq (by assumption) ?_
    | with_reducible refine KOpt.of_eq (by assumption) ?_
    | with_reducible refine KFst.fst ?_
    | with_reducible apply KOpt.getD
    | fail_if_no_progress (with_reducible apply KSt.mk'; on_goal 2 => rfl)
    | split
    | (dsimp only; split)

theorem blankRegions_kept {ks : List Nat} {s : State} (hs0 : KSt w0 s) : KSt w0 (blankRegions ks s) := by
  unfold blankRegions
  repeat' first
    | with_reducible assumption
    | fail_if_no_progress (with_reducible apply KSt.mk'; on_goal 2 => rfl)

theorem loseDomain_kept {d : Nat} {s : State} (hs0 : KSt w0 s) : KSt w0 (loseDomain d s) := by
  unfold loseDomain
  repeat' first
    | with_reducible assumption
    | with_reducible intro _
    | with_reducible apply setSlink_kept
    | with_reducible apply blankRegions_kept
    | with_reducible apply KSt.foldl
    | fail_if_no_progress (with_reducible apply KSt.mk'; on_goal 2 => rfl)
    | split

theorem freshUnits_kept {d : Nat} {s : State} (hs0 : KSt w0 s) : KSt w0 (freshUnits d s) := by
  unfold freshUnits
  repeat' first
    | with_reducible assumption
    | with_reducible intro _
    | with_reducible apply KSt.ite
    | fail_if_no_progress (with_reducible apply KSt.mk'; on_goal 2 => rfl)

theorem pushGoal_kept {g : PkgState} {s : State} (hs0 : KSt w0 s) : KSt w0 (pushGoal g s) := by
  unfold pushGoal
  repeat' first
    | with_reducible assumption
    | with_reducible intro _
    | with_reducible apply ungate_kept
    | with_reducible apply gate_kept
    | with_reducible apply KSt.ite
    | with_reducible apply KSt.foldl

theorem reachGoal_kept {c : Option CmdRef} {g : PkgState} {s : State} (hs0 : KSt w0 s) : KSt w0 (reachGoal c g s) := by
  unfold reachGoal
  repeat' first
    | with_reducible assumption
    | with_reducible intro _
    | with_reducible apply saveLifetime_kept
    | with_reducible apply setPkg_kept
    | with_reducible apply refreshPkg_kept
    | with_reducible apply sendWakeCause_kept
    | with_reducible apply finishCmd_kept
    | with_reducible apply KSt.ite
    | fail_if_no_progress (with_reducible apply KSt.mk'; on_goal 2 => rfl)
    | split

theorem stepGoal_kept {s : State} (hs0 : KSt w0 s) : KSt w0 (stepGoal s) := by
  unfold stepGoal
  repeat' first
    | with_reducible assumption
    | with_reducible intro _
    | with_reducible apply pushGoal_kept
    | with_reducible apply reachGoal_kept
    | with_reducible apply KSt.ite
    | split

theorem endDomCmds_kept {d : Nat} {up : Bool} {code : W16} {s : State} (hs0 : KSt w0 s) : KSt w0 (endDomCmds d up code s) := by
  unfold endDomCmds
  repeat' first
    | with_reducible assumption
    | with_reducible intro _
    | with_reducible apply finishCmd_kept
    | with_reducible apply KSt.foldl
    | fail_if_no_progress (with_reducible apply KSt.mk'; on_goal 2 => rfl)

theorem pushDomCmds_kept {d : Nat} {s : State} (hs0 : KSt w0 s) : KSt w0 (pushDomCmds d s) := by
  unfold pushDomCmds
  repeat' first
    | with_reducible assumption
    | with_reducible apply ungate_kept
    | with_reducible apply gate_kept
    | split

theorem monitorClosingEvaluate_kept {k : Nat} {s : State} (hs0 : KSt w0 s) : KSt w0 (monitorClosingEvaluate k s) := by
  unfold monitorClosingEvaluate
  repeat' first
    | with_reducible assumption
    | with_reducible intro _
    | with_reducible apply closingEvaluate_kept
    | with_reducible apply KSt.ite

theorem execMonitorClosingEvaluate_kept {k : Nat} {s : State} (hs0 : KSt w0 s) : KOut w0 (execMonitorClosingEvaluate k s) := by
  unfold execMonitorClosingEvaluate
  repeat' first
    | with_reducible assumption
    | with_reducible apply monitorClosingEvaluate_kept
    | with_reducible apply KOut.inRange

theorem domainClosed_kept {d : Nat} {s : State} (hs0 : KSt w0 s) : KSt w0 (domainClosed d s) := by
  unfold domainClosed
  repeat' first
    | with_reducible assumption
    | with_reducible intro _
    | with_reducible apply stepGoal_kept
    | with_reducible apply pushDomCmds_kept
    | with_reducible apply endDomCmds_kept
    | with_reducible apply setDomState_kept
    | with_reducible apply loseDomain_kept
    | with_reducible apply KSt.ite

theorem execDomainClosed_kept {d : Nat} {s : State} (hs0 : KSt w0 s) : KOut w0 (execDomainClosed d s) := by
  unfold execDomainClosed
  repeat' first
    | with_reducible assumption
    | with_reducible apply domainClosed_kept
    | with_reducible apply KOut.inRange

theorem domainUp_kept {d : Nat} {ready : Bool} {s : State} (hs : KSt w0 s) : KSt w0 (domainUp d ready s) := by
  unfold domainUp
  repeat' first
    | with_reducible assumption
    | with_reducible intro _
    | with_reducible apply setDomState_kept
    | with_reducible apply setDom_kept
    | with_reducible apply freshUnits_kept
    | with_reducible apply stepGoal_kept
    | with_reducible apply pushDomCmds_kept
    | with_reducible apply endDomCmds_kept
    | with_reducible apply KSt.ite
    | with_reducible refine KFst.of_eq (by assumption) ?_
    | with_reducible refine KOpt.of_eq (by assumption) ?_
    | with_reducible refine KFst.fst ?_
    | with_reducible apply KOpt.getD
    | fail_if_no_progress (with_reducible apply KSt.mk'; on_goal 2 => rfl)
    | split
    | (dsimp only; split)

theorem execDomainUp_kept {d : Nat} {ready : Bool} {s : State} (hs0 : KSt w0 s) : KOut w0 (execDomainUp d ready s) := by
  unfold execDomainUp
  repeat' first
    | with_reducible assumption
    | with_reducible apply domainUp_kept
    | with_reducible apply KOut.inRange

theorem domainWake_kept {d : Nat} {s : State} (hs0 : KSt w0 s) : KSt w0 (domainWake d s) := by
  unfold domainWake
  repeat' first
    | with_reducible assumption
    | with_reducible intro _
    | with_reducible apply ungate_kept
    | with_reducible apply KSt.ite

theorem execDomainWake_kept {d : Nat} {s : State} (hs0 : KSt w0 s) : KOut w0 (execDomainWake d s) := by
  unfold execDomainWake
  repeat' first
    | with_reducible assumption
    | with_reducible apply domainWake_kept
    | with_reducible apply KOut.inRange

theorem domainCtrl_kept {r : Req} {s : State} (hs0 : KSt w0 s) : KAns w0 (domainCtrl r s) := by
  unfold domainCtrl
  repeat' first
    | with_reducible assumption
    | with_reducible intro _
    | with_reducible apply acceptOr_kept
    | with_reducible apply setDom_kept
    | with_reducible apply endDomCmds_kept
    | with_reducible apply pushDomCmds_kept
    | with_reducible apply KSt.ite
    | with_reducible apply KAns.ite
    | with_reducible apply KAns.reject
    | fail_if_no_progress (with_reducible apply KSt.mk'; on_goal 2 => rfl)

theorem execDomainCtrl_kept {m : Nat} {s : State} (hs0 : KSt w0 s) : KOut w0 (execDomainCtrl m s) := by
  unfold execDomainCtrl
  repeat' first
    | with_reducible assumption
    | with_reducible apply takeUpCard_kept
    | with_reducible apply domainCtrl_kept
    | with_reducible apply KOut.inRange

theorem pkgState_kept {r : Req} {s : State} (hs0 : KSt w0 s) : KAns w0 (pkgState r s) := by
  unfold pkgState
  repeat' first
    | with_reducible assumption
    | with_reducible intro _
    | with_reducible apply acceptOr_kept
    | with_reducible apply stepGoal_kept
    | with_reducible apply finishCmd_kept
    | with_reducible apply KSt.ite
    | with_reducible apply KAns.ite
    | with_reducible apply KAns.reject
    | fail_if_no_progress (with_reducible apply KSt.mk'; on_goal 2 => rfl)

theorem execPkgState_kept {m : Nat} {s : State} (hs0 : KSt w0 s) : KOut w0 (execPkgState m s) := by
  unfold execPkgState
  repeat' first
    | with_reducible assumption
    | with_reducible apply takeUpCard_kept
    | with_reducible apply pkgState_kept
    | with_reducible apply KOut.inRange

theorem clockSet_kept {r : Req} {s : State} (hs0 : KSt w0 s) : KAns w0 (clockSet r s) := by
  unfold clockSet
  repeat' first
    | with_reducible assumption
    | with_reducible intro _
    | with_reducible apply acceptOr_kept
    | with_reducible apply finishCmd_kept
    | with_reducible apply KAns.ite
    | with_reducible apply KAns.reject
    | fail_if_no_progress (with_reducible apply KSt.mk'; on_goal 2 => rfl)

theorem execClockSet_kept {m : Nat} {s : State} (hs0 : KSt w0 s) : KOut w0 (execClockSet m s) := by
  unfold execClockSet
  repeat' first
    | with_reducible assumption
    | with_reducible apply takeUpCard_kept
    | with_reducible apply clockSet_kept
    | with_reducible apply KOut.inRange

theorem latchCause_kept {cause : Nat} {unit : Nat} {s : State} (hs0 : KSt w0 s) : KSt w0 (latchCause cause unit s) := by
  unfold latchCause
  repeat' first
    | with_reducible assumption
    | fail_if_no_progress (with_reducible apply KSt.mk'; on_goal 2 => rfl)

theorem wakeUp_kept {s : State} (hs : KSt w0 s) : KSt w0 (wakeUp s) := by
  unfold wakeUp
  repeat' first
    | with_reducible assumption
    | with_reducible intro _
    | with_reducible apply stepGoal_kept
    | with_reducible apply KSt.ite
    | with_reducible refine KFst.of_eq (by assumption) ?_
    | with_reducible refine KOpt.of_eq (by assumption) ?_
    | with_reducible refine KFst.fst ?_
    | fail_if_no_progress (with_reducible apply KSt.mk'; on_goal 2 => rfl)
    | split
    | (dsimp only; split)

theorem wakeSource_kept {cause : Nat} {unit : Nat} {s : State} (hs0 : KSt w0 s) : KSt w0 (wakeSource cause unit s) := by
  unfold wakeSource
  repeat' first
    | with_reducible assumption
    | with_reducible intro _
    | with_reducible apply wakeUp_kept
    | with_reducible apply latchCause_kept
    | with_reducible apply KSt.ite

theorem execWakeSource_kept {cause : Nat} {unit : Nat} {s : State} (hs0 : KSt w0 s) : KOut w0 (execWakeSource cause unit s) := by
  unfold execWakeSource
  repeat' first
    | with_reducible assumption
    | with_reducible apply wakeSource_kept
    | with_reducible apply KOut.inRange

theorem wakeConfig_kept {r : Req} {s : State} (hs : KSt w0 s) : KAns w0 (wakeConfig r s) := by
  unfold wakeConfig
  repeat' first
    | with_reducible assumption
    | with_reducible intro _
    | with_reducible apply reject_kept
    | with_reducible apply wakeUp_kept
    | with_reducible apply latchCause_kept
    | with_reducible apply KSt.ite
    | with_reducible apply KAns.ite
    | with_reducible apply KAns.ite
    | with_reducible apply KAns.hold
    | with_reducible apply KAns.reject
    | with_reducible apply KAns.okay
    | with_reducible apply KAns.done
    | with_reducible apply KAns.keep
    | with_reducible apply KAns.wait
    | with_reducible refine KFst.of_eq (by assumption) ?_
    | with_reducible refine KOpt.of_eq (by assumption) ?_
    | with_reducible refine KFst.fst ?_
    | fail_if_no_progress (with_reducible apply KSt.mk'; on_goal 2 => rfl)
    | split
    | (dsimp only; split)

theorem execWakeConfig_kept {m : Nat} {s : State} (hs0 : KSt w0 s) : KOut w0 (execWakeConfig m s) := by
  unfold execWakeConfig
  repeat' first
    | with_reducible assumption
    | with_reducible apply takeUpCard_kept
    | with_reducible apply wakeConfig_kept
    | with_reducible apply KOut.inRange

theorem heldReset_kept {s : State} (hs0 : KSt w0 s) : KSt w0 (heldReset s) := by
  unfold heldReset
  repeat' first
    | with_reducible assumption
    | with_reducible apply packageReset_kept
    | fail_if_no_progress (with_reducible apply KSt.mk'; on_goal 2 => rfl)

theorem vbatRise_kept {s : State} (hs : KSt w0 s) : KSt w0 (vbatRise s) := by
  unfold vbatRise
  repeat' first
    | with_reducible assumption
    | with_reducible intro _
    | with_reducible apply setDom_kept
    | with_reducible apply wakeUp_kept
    | with_reducible apply latchCause_kept
    | with_reducible apply KSt.ite
    | with_reducible refine KFst.of_eq (by assumption) ?_
    | with_reducible refine KOpt.of_eq (by assumption) ?_
    | with_reducible refine KFst.fst ?_
    | with_reducible apply KOpt.getD
    | fail_if_no_progress (with_reducible apply KSt.mk'; on_goal 2 => rfl)
    | split
    | (dsimp only; split)

theorem execVbatRise_kept {s : State} (hs0 : KSt w0 s) : KOut w0 (execVbatRise s) := by
  unfold execVbatRise
  repeat' first
    | with_reducible assumption
    | with_reducible apply vbatRise_kept
    | with_reducible apply KOut.inRange

theorem railsDown_kept {on : List Nat} {s : State} (hs : KSt w0 s) : KSt w0 (railsDown on s) := by
  unfold railsDown
  repeat' first
    | with_reducible assumption
    | with_reducible intro _
    | with_reducible apply settlePlls_kept
    | with_reducible apply KSt.ite
    | with_reducible apply KSt.foldl
    | with_reducible apply KFst.foldl
    | with_reducible refine KFst.of_eq (by assumption) ?_
    | with_reducible refine KOpt.of_eq (by assumption) ?_
    | with_reducible refine KFst.fst ?_
    | with_reducible apply KOpt.getD
    | fail_if_no_progress (with_reducible apply KSt.mk'; on_goal 2 => rfl)
    | split
    | (dsimp only; split)

theorem vbatLoss_kept {s : State} (hs : KSt w0 s) : KSt w0 (vbatLoss s) := by
  unfold vbatLoss
  repeat' first
    | with_reducible assumption
    | with_reducible intro _
    | with_reducible apply heldReset_kept
    | with_reducible apply railsDown_kept
    | with_reducible apply KSt.ite
    | with_reducible refine KFst.of_eq (by assumption) ?_
    | with_reducible refine KOpt.of_eq (by assumption) ?_
    | with_reducible refine KFst.fst ?_
    | fail_if_no_progress (with_reducible apply KSt.mk'; on_goal 2 => rfl)
    | split
    | (dsimp only; split)

theorem execVbatLoss_kept {s : State} (hs0 : KSt w0 s) : KOut w0 (execVbatLoss s) := by
  unfold execVbatLoss
  repeat' first
    | with_reducible assumption
    | with_reducible apply vbatLoss_kept
    | with_reducible apply KOut.inRange

theorem pwrEnLower_kept {s : State} (hs : KSt w0 s) : KSt w0 (pwrEnLower s) := by
  unfold pwrEnLower
  repeat' first
    | with_reducible assumption
    | with_reducible intro _
    | with_reducible apply heldReset_kept
    | with_reducible apply railsDown_kept
    | with_reducible apply KSt.ite
    | with_reducible refine KFst.of_eq (by assumption) ?_
    | with_reducible refine KOpt.of_eq (by assumption) ?_
    | with_reducible refine KFst.fst ?_
    | fail_if_no_progress (with_reducible apply KSt.mk'; on_goal 2 => rfl)
    | split
    | (dsimp only; split)

theorem execPwrEnLower_kept {s : State} (hs0 : KSt w0 s) : KOut w0 (execPwrEnLower s) := by
  unfold execPwrEnLower
  repeat' first
    | with_reducible assumption
    | with_reducible apply pwrEnLower_kept
    | with_reducible apply KOut.inRange

theorem setHalted_kept {n : Nat} {v : Bool} {s : State} (hs0 : KSt w0 s) : KSt w0 (setHalted n v s) := by
  unfold setHalted
  repeat' first
    | with_reducible assumption
    | with_reducible intro _
    | with_reducible apply stepGoal_kept
    | with_reducible apply KSt.ite
    | fail_if_no_progress (with_reducible apply KSt.mk'; on_goal 2 => rfl)

theorem partitionHalted_kept {src : W32} {n : Nat} {v : W32} {s : State} (hs : KSt w0 s) : KSt w0 (partitionHalted src n v s) := by
  unfold partitionHalted
  repeat' first
    | with_reducible assumption
    | with_reducible intro _
    | with_reducible apply setHalted_kept
    | with_reducible apply answer_kept
    | with_reducible apply refuseWrite_kept
    | with_reducible apply KSt.ite
    | with_reducible refine KFst.of_eq (by assumption) ?_
    | with_reducible refine KOpt.of_eq (by assumption) ?_
    | with_reducible refine KFst.fst ?_
    | fail_if_no_progress (with_reducible apply KSt.mk'; on_goal 2 => rfl)
    | split
    | (dsimp only; split)

theorem execPartitionHalted_kept {src : W32} {n : Nat} {v : W32} {s : State} (hs0 : KSt w0 s) : KOut w0 (execPartitionHalted src n v s) := by
  unfold execPartitionHalted
  repeat' first
    | with_reducible assumption
    | with_reducible apply partitionHalted_kept
    | with_reducible apply KOut.inRange

theorem partitionHaltTimeout_kept {n : Nat} {s : State} (hs0 : KSt w0 s) : KSt w0 (partitionHaltTimeout n s) := by
  unfold partitionHaltTimeout
  repeat' first
    | with_reducible assumption
    | with_reducible intro _
    | with_reducible apply stepGoal_kept
    | with_reducible apply KSt.ite
    | fail_if_no_progress (with_reducible apply KSt.mk'; on_goal 2 => rfl)

theorem execPartitionHaltTimeout_kept {n : Nat} {s : State} (hs0 : KSt w0 s) : KOut w0 (execPartitionHaltTimeout n s) := by
  unfold execPartitionHaltTimeout
  repeat' first
    | with_reducible assumption
    | with_reducible apply partitionHaltTimeout_kept
    | with_reducible apply KOut.inRange

theorem setLevel_kept {d : Nat} {l : Nat} {s : State} (hs0 : KSt w0 s) : KSt w0 (setLevel d l s) := by
  unfold setLevel
  repeat' first
    | with_reducible assumption
    | with_reducible intro _
    | with_reducible apply broadcast_kept
    | with_reducible apply KSt.ite
    | fail_if_no_progress (with_reducible apply KSt.mk'; on_goal 2 => rfl)

theorem resumeKeeperErases_kept {s : State} (hs : KSt w0 s) : KSt w0 (resumeKeeperErases s) := by
  unfold resumeKeeperErases
  repeat' first
    | with_reducible assumption
    | with_reducible intro _
    | with_reducible apply KSt.ite
    | with_reducible refine KFst.of_eq (by assumption) ?_
    | with_reducible refine KOpt.of_eq (by assumption) ?_
    | with_reducible refine KFst.fst ?_
    | fail_if_no_progress (with_reducible apply KSt.mk'; on_goal 2 => rfl)
    | split
    | (dsimp only; split)

theorem supplyStateChange_kept {volts : Nat} {s : State} (hs : KSt w0 s) : KSt w0 (supplyStateChange volts s) := by
  unfold supplyStateChange
  repeat' first
    | with_reducible assumption
    | with_reducible intro _
    | with_reducible apply broadcast_kept
    | with_reducible apply suspendKeeperErases_kept
    | with_reducible apply saveLifetime_kept
    | with_reducible apply resumeKeeperErases_kept
    | with_reducible apply setLevel_kept
    | with_reducible apply stepGoal_kept
    | with_reducible apply pushDomCmds_kept
    | with_reducible apply KSt.ite
    | with_reducible apply KFst.mk
    | with_reducible apply KFst.ite
    | with_reducible apply KSt.foldl
    | with_reducible apply KFst.foldl
    | with_reducible refine KFst.of_eq (by assumption) ?_
    | with_reducible refine KOpt.of_eq (by assumption) ?_
    | with_reducible refine KFst.fst ?_
    | fail_if_no_progress (with_reducible apply KSt.mk'; on_goal 2 => rfl)
    | split
    | (dsimp only; split)

theorem execSupplyStateChange_kept {volts : Nat} {s : State} (hs0 : KSt w0 s) : KOut w0 (execSupplyStateChange volts s) := by
  unfold execSupplyStateChange
  repeat' first
    | with_reducible assumption
    | with_reducible apply supplyStateChange_kept
    | with_reducible apply KOut.inRange

theorem brownoutReset_kept {s : State} (hs : KSt w0 s) : KSt w0 (brownoutReset s) := by
  unfold brownoutReset
  repeat' first
    | with_reducible assumption
    | with_reducible intro _
    | with_reducible apply lifeCount_kept
    | with_reducible apply latchCause_kept
    | with_reducible apply heldReset_kept
    | with_reducible apply KSt.ite
    | with_reducible refine KFst.of_eq (by assumption) ?_
    | with_reducible refine KOpt.of_eq (by assumption) ?_
    | with_reducible refine KFst.fst ?_
    | fail_if_no_progress (with_reducible apply KSt.mk'; on_goal 2 => rfl)
    | split
    | (dsimp only; split)

theorem execBrownoutReset_kept {s : State} (hs0 : KSt w0 s) : KOut w0 (execBrownoutReset s) := by
  unfold execBrownoutReset
  repeat' first
    | with_reducible assumption
    | with_reducible apply brownoutReset_kept
    | with_reducible apply KOut.inRange

theorem throttleDie_kept {hot : Bool} {calm : Bool} {temp : Nat → W16} {s : State} {d : Nat} (hs : KSt w0 s) : KSt w0 (throttleDie hot calm temp s d) := by
  unfold throttleDie
  repeat' first
    | with_reducible assumption
    | with_reducible intro _
    | with_reducible apply recordTemp_kept
    | with_reducible apply setLevel_kept
    | with_reducible apply KSt.ite
    | with_reducible refine KFst.of_eq (by assumption) ?_
    | with_reducible refine KOpt.of_eq (by assumption) ?_
    | with_reducible refine KFst.fst ?_
    | fail_if_no_progress (with_reducible apply KSt.mk'; on_goal 2 => rfl)
    | split
    | (dsimp only; split)

theorem throttleTick_kept {temps : List W16} {watts : Nat} {s : State} (hs : KSt w0 s) : KSt w0 (throttleTick temps watts s) := by
  unfold throttleTick
  repeat' first
    | with_reducible assumption
    | with_reducible intro _
    | with_reducible apply throttleDie_kept
    | with_reducible apply KSt.ite
    | with_reducible apply KSt.foldl
    | with_reducible apply KFst.foldl
    | with_reducible refine KFst.of_eq (by assumption) ?_
    | with_reducible refine KOpt.of_eq (by assumption) ?_
    | with_reducible refine KFst.fst ?_
    | with_reducible apply KOpt.getD
    | fail_if_no_progress (with_reducible apply KSt.mk'; on_goal 2 => rfl)
    | split
    | (dsimp only; split)

theorem execThrottleTick_kept {temps : List W16} {watts : Nat} {s : State} (hs0 : KSt w0 s) : KOut w0 (execThrottleTick temps watts s) := by
  unfold execThrottleTick
  repeat' first
    | with_reducible assumption
    | with_reducible apply throttleTick_kept
    | with_reducible apply KOut.inRange

theorem thermalHold_kept {d : Nat} {temp : W16} {s : State} (hs0 : KSt w0 s) : KSt w0 (thermalHold d temp s) := by
  unfold thermalHold
  repeat' first
    | with_reducible assumption
    | with_reducible intro _
    | with_reducible apply recordTemp_kept
    | with_reducible apply setLevel_kept
    | with_reducible apply KSt.ite
    | fail_if_no_progress (with_reducible apply KSt.mk'; on_goal 2 => rfl)

theorem execThermalHold_kept {die : Nat} {temp : W16} {s : State} (hs0 : KSt w0 s) : KOut w0 (execThermalHold die temp s) := by
  unfold execThermalHold
  repeat' first
    | with_reducible assumption
    | with_reducible apply thermalHold_kept
    | with_reducible apply KOut.inRange

theorem thermalHoldRelease_kept {d : Nat} {temp : W16} {s : State} (hs0 : KSt w0 s) : KSt w0 (thermalHoldRelease d temp s) := by
  unfold thermalHoldRelease
  repeat' first
    | with_reducible assumption
    | with_reducible intro _
    | with_reducible apply recordTemp_kept
    | with_reducible apply KSt.ite
    | fail_if_no_progress (with_reducible apply KSt.mk'; on_goal 2 => rfl)

theorem execThermalHoldRelease_kept {die : Nat} {temp : W16} {s : State} (hs0 : KSt w0 s) : KOut w0 (execThermalHoldRelease die temp s) := by
  unfold execThermalHoldRelease
  repeat' first
    | with_reducible assumption
    | with_reducible apply thermalHoldRelease_kept
    | with_reducible apply KOut.inRange

theorem thermalTrip_kept {d : Nat} {temp : W16} {s : State} (hs0 : KSt w0 s) : KSt w0 (thermalTrip d temp s) := by
  unfold thermalTrip
  repeat' first
    | with_reducible assumption
    | with_reducible intro _
    | with_reducible apply lifeCount_kept
    | with_reducible apply latchCause_kept
    | with_reducible apply heldReset_kept
    | with_reducible apply recordTemp_kept
    | with_reducible apply KSt.ite
    | fail_if_no_progress (with_reducible apply KSt.mk'; on_goal 2 => rfl)

theorem execThermalTrip_kept {die : Nat} {temp : W16} {s : State} (hs0 : KSt w0 s) : KOut w0 (execThermalTrip die temp s) := by
  unfold execThermalTrip
  repeat' first
    | with_reducible assumption
    | with_reducible apply thermalTrip_kept
    | with_reducible apply KOut.inRange

theorem thermalTripRestart_kept {temps : List W16} {s : State} (hs0 : KSt w0 s) : KSt w0 (thermalTripRestart temps s) := by
  unfold thermalTripRestart
  repeat' first
    | with_reducible assumption
    | with_reducible intro _
    | with_reducible apply KSt.ite
    | fail_if_no_progress (with_reducible apply KSt.mk'; on_goal 2 => rfl)

theorem execThermalTripRestart_kept {temps : List W16} {s : State} (hs0 : KSt w0 s) : KOut w0 (execThermalTripRestart temps s) := by
  unfold execThermalTripRestart
  repeat' first
    | with_reducible assumption
    | with_reducible apply thermalTripRestart_kept
    | with_reducible apply KOut.inRange

theorem execPmeTurnOff_kept {s : State} (hs0 : KSt w0 s) : KOut w0 (execPmeTurnOff s) := by
  unfold execPmeTurnOff
  repeat' first
    | with_reducible assumption
    | with_reducible intro _
    | with_reducible apply when_kept
    | with_reducible apply KOut.inRange
    | fail_if_no_progress (with_reducible apply KSt.mk'; on_goal 2 => rfl)

theorem perstAssert_kept {s : State} (hs0 : KSt w0 s) : KSt w0 (perstAssert s) := by
  unfold perstAssert
  repeat' first
    | with_reducible assumption
    | with_reducible intro _
    | with_reducible apply gate_kept
    | with_reducible apply KSt.ite
    | fail_if_no_progress (with_reducible apply KSt.mk'; on_goal 2 => rfl)

theorem execPerstAssert_kept {s : State} (hs0 : KSt w0 s) : KOut w0 (execPerstAssert s) := by
  unfold execPerstAssert
  repeat' first
    | with_reducible assumption
    | with_reducible apply perstAssert_kept
    | with_reducible apply KOut.inRange

theorem perstDeassert_kept {s : State} (hs0 : KSt w0 s) : KSt w0 (perstDeassert s) := by
  unfold perstDeassert
  repeat' first
    | with_reducible assumption
    | with_reducible intro _
    | with_reducible apply ungate_kept
    | with_reducible apply wakeUp_kept
    | with_reducible apply latchCause_kept
    | with_reducible apply KSt.ite
    | fail_if_no_progress (with_reducible apply KSt.mk'; on_goal 2 => rfl)

theorem execPerstDeassert_kept {s : State} (hs0 : KSt w0 s) : KOut w0 (execPerstDeassert s) := by
  unfold execPerstDeassert
  repeat' first
    | with_reducible assumption
    | with_reducible apply perstDeassert_kept
    | with_reducible apply KOut.inRange

theorem wakeAssert_kept {s : State} (hs0 : KSt w0 s) : KSt w0 (wakeAssert s) := by
  unfold wakeAssert
  repeat' first
    | with_reducible assumption
    | with_reducible intro _
    | with_reducible apply KSt.ite
    | fail_if_no_progress (with_reducible apply KSt.mk'; on_goal 2 => rfl)

theorem execWakeAssert_kept {s : State} (hs0 : KSt w0 s) : KOut w0 (execWakeAssert s) := by
  unfold execWakeAssert
  repeat' first
    | with_reducible assumption
    | with_reducible apply wakeAssert_kept
    | with_reducible apply KOut.inRange

theorem pcieLinkUp_kept {s : State} (hs : KSt w0 s) : KSt w0 (pcieLinkUp s) := by
  unfold pcieLinkUp
  repeat' first
    | with_reducible assumption
    | with_reducible intro _
    | with_reducible apply sendWakeCause_kept
    | with_reducible apply KSt.ite
    | with_reducible refine KFst.of_eq (by assumption) ?_
    | with_reducible refine KOpt.of_eq (by assumption) ?_
    | with_reducible refine KFst.fst ?_
    | with_reducible apply KOpt.getD
    | fail_if_no_progress (with_reducible apply KSt.mk'; on_goal 2 => rfl)
    | split
    | (dsimp only; split)

theorem execPcieLinkUp_kept {s : State} (hs0 : KSt w0 s) : KOut w0 (execPcieLinkUp s) := by
  unfold execPcieLinkUp
  repeat' first
    | with_reducible assumption
    | with_reducible apply pcieLinkUp_kept
    | with_reducible apply KOut.inRange

theorem tick_kept {s : State} (hs : KSt w0 s) : KSt w0 (tick s) := by
  unfold tick
  repeat' first
    | with_reducible assumption
    | with_reducible intro _
    | with_reducible apply when_kept
    | with_reducible apply wakeUp_kept
    | with_reducible apply latchCause_kept
    | with_reducible apply hm1Tick_kept
    | with_reducible apply minuteTick_kept
    | with_reducible apply KSt.ite
    | with_reducible apply KSt.foldl
    | with_reducible apply KFst.foldl
    | with_reducible refine KFst.of_eq (by assumption) ?_
    | with_reducible refine KOpt.of_eq (by assumption) ?_
    | with_reducible refine KFst.fst ?_
    | fail_if_no_progress (with_reducible apply KSt.mk'; on_goal 2 => rfl)
    | split
    | (dsimp only; split)

end Sys2Proof.Machine
end

