-- ==== Sys2Proof/Laws/KeptHolmiMet.lean ====
section
/-! SUPPORT. What the operations of Machine/HolmiMet.lean keep. -/

namespace Sys2Proof.Machine

variable {w0 : List Instr}

theorem pqStart_kept {l : Nat} {rms : List Nat} {s : State} (hs0 : KSt w0 s) : KSt w0 (pqStart l rms s) := by
  unfold pqStart
  repeat' first
    | with_reducible assumption
    | with_reducible apply setMet_kept

theorem execPqEventStart_kept {l : Nat} {rms : List Nat} {s : State} (hs0 : KSt w0 s) : KOut w0 (execPqEventStart l rms s) := by
  unfold execPqEventStart
  repeat' first
    | with_reducible assumption
    | with_reducible apply when_kept
    | with_reducible apply pqStart_kept
    | with_reducible apply KOut.inRange

theorem pqEnd_kept {l : Nat} {t : Nat} {flags : Nat} {s : State} (hs0 : KSt w0 s) : KSt w0 (pqEnd l t flags s) := by
  unfold pqEnd
  repeat' first
    | with_reducible assumption
    | with_reducible apply hm1Event_kept
    | with_reducible apply setMet_kept
    | (dsimp only; split)

theorem pqWindow_kept {l : Nat} {rms : List Nat} {s : State} (hs0 : KSt w0 s) : KSt w0 (pqWindow l rms s) := by
  unfold pqWindow
  repeat' first
    | with_reducible assumption
    | with_reducible intro _
    | with_reducible apply setMet_kept
    | with_reducible apply pqEnd_kept
    | with_reducible apply KSt.ite
    | with_reducible apply KSt.foldl

theorem execPqEvent_kept {l : Nat} {rms : List Nat} {s : State} (hs0 : KSt w0 s) : KOut w0 (execPqEvent l rms s) := by
  unfold execPqEvent
  repeat' first
    | with_reducible assumption
    | with_reducible apply when_kept
    | with_reducible apply pqWindow_kept
    | with_reducible apply KOut.inRange

theorem frequencyWindow_kept {l : Nat} {cycles : Nat} {micros : Nat} {lost : Bool} {s : State} (hs : KSt w0 s) : KSt w0 (frequencyWindow l cycles micros lost s) := by
  unfold frequencyWindow
  repeat' first
    | with_reducible assumption
    | with_reducible intro _
    | with_reducible apply setMet_kept
    | with_reducible apply KSt.ite
    | with_reducible refine KFst.of_eq (by assumption) ?_
    | with_reducible refine KOpt.of_eq (by assumption) ?_
    | with_reducible refine KFst.fst ?_
    | fail_if_no_progress (with_reducible apply KSt.mk'; on_goal 2 => rfl)
    | split
    | (dsimp only; split)

theorem execFrequencyWindow_kept {l : Nat} {cycles : Nat} {micros : Nat} {lost : Bool} {s : State} (hs : KSt w0 s) : KOut w0 (execFrequencyWindow l cycles micros lost s) := by
  unfold execFrequencyWindow
  repeat' first
    | with_reducible assumption
    | with_reducible intro _
    | with_reducible apply inRange_kept
    | with_reducible apply when_kept
    | with_reducible apply frequencyWindow_kept
    | with_reducible apply KOut.inRange
    | with_reducible apply KSt.ite
    | with_reducible refine KFst.of_eq (by assumption) ?_
    | with_reducible refine KOpt.of_eq (by assumption) ?_
    | with_reducible refine KFst.fst ?_
    | fail_if_no_progress (with_reducible apply KSt.mk'; on_goal 2 => rfl)
    | split
    | (dsimp only; split)

theorem acLock_kept {l : Nat} {x : AcMeasure} {s : State} (hs : KSt w0 s) : KSt w0 (acLock l x s) := by
  unfold acLock
  repeat' first
    | with_reducible assumption
    | with_reducible intro _
    | with_reducible apply setHm1_kept
    | with_reducible apply KSt.ite
    | with_reducible refine KFst.of_eq (by assumption) ?_
    | with_reducible refine KOpt.of_eq (by assumption) ?_
    | with_reducible refine KFst.fst ?_
    | fail_if_no_progress (with_reducible apply KSt.mk'; on_goal 2 => rfl)
    | split
    | (dsimp only; split)

theorem execAcLock_kept {l : Nat} {x : AcMeasure} {s : State} (hs : KSt w0 s) : KOut w0 (execAcLock l x s) := by
  unfold execAcLock
  repeat' first
    | with_reducible assumption
    | with_reducible intro _
    | with_reducible apply when_kept
    | with_reducible apply acLock_kept
    | with_reducible apply KOut.inRange
    | with_reducible apply KSt.ite
    | with_reducible refine KFst.of_eq (by assumption) ?_
    | with_reducible refine KOpt.of_eq (by assumption) ?_
    | with_reducible refine KFst.fst ?_
    | fail_if_no_progress (with_reducible apply KSt.mk'; on_goal 2 => rfl)
    | split
    | (dsimp only; split)

theorem track_kept {l : Nat} {idx : Nat} {kind : Nat} {phase : Nat} {n : Nat} {cond : Bool} {s : State} (hs0 : KSt w0 s) : KSt w0 (track l idx kind phase n cond s) := by
  unfold track
  repeat' first
    | with_reducible assumption
    | with_reducible intro _
    | with_reducible apply setMet_kept
    | with_reducible apply tamper_kept
    | with_reducible apply KSt.ite

theorem reactTo_kept {l : Nat} {idx : Nat} {imm : Bool} {was : Metrology} {s : State} (hs0 : KSt w0 s) : KSt w0 (reactTo l idx imm was s) := by
  unfold reactTo
  repeat' first
    | with_reducible assumption
    | with_reducible intro _
    | with_reducible apply stopWith_kept
    | with_reducible apply KSt.ite

theorem trackTampers_kept {l : Nat} {s : State} (hs0 : KSt w0 s) : KSt w0 (trackTampers l s) := by
  unfold trackTampers
  repeat' first
    | with_reducible assumption
    | with_reducible intro _
    | with_reducible apply track_kept
    | with_reducible apply reactTo_kept
    | with_reducible apply KSt.foldl

theorem watchCurrent_kept {l : Nat} {s : State} (hs0 : KSt w0 s) : KSt w0 (watchCurrent l s) := by
  unfold watchCurrent
  repeat' first
    | with_reducible assumption
    | with_reducible intro _
    | with_reducible apply setSes_kept
    | with_reducible apply stopWith_kept
    | with_reducible apply KSt.ite

theorem watchStop_kept {l : Nat} {s : State} (hs0 : KSt w0 s) : KSt w0 (watchStop l s) := by
  unfold watchStop
  repeat' first
    | with_reducible assumption
    | with_reducible intro _
    | with_reducible apply finishStop_kept
    | with_reducible apply KSt.ite

theorem settleCredit_kept {l : Nat} {s : State} (hs0 : KSt w0 s) : KSt w0 (settleCredit l s) := by
  unfold settleCredit
  repeat' first
    | with_reducible assumption
    | with_reducible intro _
    | with_reducible apply creditMove_kept
    | with_reducible apply deduct_kept
    | with_reducible apply stopWith_kept
    | with_reducible apply KSt.ite

theorem closeInterval_kept {l : Nat} {x : IntervalCodes} {split : Option Nat} {switch : State → State} {s : State} (hswitch : ∀ y0, KSt w0 y0 → KSt w0 (switch y0)) (hs : KSt w0 s) : KSt w0 (closeInterval l x split switch s) := by
  unfold closeInterval
  repeat' first
    | with_reducible assumption
    | with_reducible intro _
    | with_reducible apply setMet_kept
    | with_reducible apply handOver_kept
    | with_reducible apply setSes_kept
    | with_reducible apply watchStop_kept
    | with_reducible apply watchCurrent_kept
    | with_reducible apply trackTampers_kept
    | with_reducible apply settleCredit_kept
    | with_reducible apply hswitch
    | with_reducible apply KSt.ite
    | with_reducible apply KFst.mk
    | with_reducible apply KFst.ite
    | with_reducible apply KSt.foldl
    | with_reducible apply KFst.foldl
    | with_reducible refine KFst.of_eq (by assumption) ?_
    | with_reducible refine KOpt.of_eq (by assumption) ?_
    | with_reducible refine KFst.fst ?_
    | with_reducible apply KOpt.getD
    | fail_if_no_progress (with_reducible apply KSt.mk'; on_goal 2 => rfl)
    | split
    | (dsimp only; split)

theorem execIntervalEnd_kept {l : Nat} {x : IntervalCodes} {s : State} (hs : KSt w0 s) : KOut w0 (execIntervalEnd l x s) := by
  unfold execIntervalEnd
  repeat' first
    | with_reducible assumption
    | with_reducible intro _
    | with_reducible apply when_kept
    | with_reducible apply closeInterval_kept
    | with_reducible apply KOut.inRange
    | with_reducible apply KSt.ite
    | with_reducible apply KSt.id
    | with_reducible refine KFst.of_eq (by assumption) ?_
    | with_reducible refine KOpt.of_eq (by assumption) ?_
    | with_reducible refine KFst.fst ?_
    | fail_if_no_progress (with_reducible apply KSt.mk'; on_goal 2 => rfl)
    | split
    | (dsimp only; split)

theorem applyTariff_kept {l : Nat} {s : State} (hs : KSt w0 s) : KSt w0 (applyTariff l s) := by
  unfold applyTariff
  repeat' first
    | with_reducible assumption
    | with_reducible intro _
    | with_reducible apply legal_kept
    | with_reducible apply setMet_kept
    | with_reducible apply creditMove_kept
    | with_reducible apply hm1Event_kept
    | with_reducible apply KSt.ite
    | with_reducible apply KFst.mk
    | with_reducible apply KFst.ite
    | with_reducible apply KSt.foldl
    | with_reducible apply KFst.foldl
    | with_reducible refine KFst.of_eq (by assumption) ?_
    | with_reducible refine KOpt.of_eq (by assumption) ?_
    | with_reducible refine KFst.fst ?_
    | fail_if_no_progress (with_reducible apply KSt.mk'; on_goal 2 => rfl)
    | split
    | (dsimp only; split)

theorem execTariffSwitch_kept {l : Nat} {x : IntervalCodes} {s : State} (hs : KSt w0 s) : KOut w0 (execTariffSwitch l x s) := by
  unfold execTariffSwitch
  repeat' first
    | with_reducible assumption
    | with_reducible intro _
    | with_reducible apply when_kept
    | with_reducible apply closeInterval_kept
    | with_reducible apply applyTariff_kept
    | with_reducible apply KOut.inRange
    | with_reducible apply KSt.ite
    | with_reducible refine KFst.of_eq (by assumption) ?_
    | with_reducible refine KOpt.of_eq (by assumption) ?_
    | with_reducible refine KFst.fst ?_
    | fail_if_no_progress (with_reducible apply KSt.mk'; on_goal 2 => rfl)
    | split
    | (dsimp only; split)

theorem refuseSet_kept {l : Nat} {blk : Nat} {code : W16} {s : State} (hs0 : KSt w0 s) : KSt w0 (refuseSet l blk code s) := by
  unfold refuseSet
  repeat' first
    | with_reducible assumption
    | with_reducible intro _
    | with_reducible apply holmiSend_kept
    | with_reducible apply KSt.ite

theorem calApplied_kept {l : Nat} {s : State} (hs : KSt w0 s) : KSt w0 (calApplied l s) := by
  unfold calApplied
  repeat' first
    | with_reducible assumption
    | with_reducible intro _
    | with_reducible apply setMet_kept
    | with_reducible apply refuseSet_kept
    | with_reducible apply legal_kept
    | with_reducible apply hm1Event_kept
    | with_reducible apply KSt.ite
    | with_reducible apply KFst.mk
    | with_reducible apply KFst.ite
    | with_reducible apply KSt.foldl
    | with_reducible apply KFst.foldl
    | with_reducible refine KFst.of_eq (by assumption) ?_
    | with_reducible refine KOpt.of_eq (by assumption) ?_
    | with_reducible refine KFst.fst ?_
    | fail_if_no_progress (with_reducible apply KSt.mk'; on_goal 2 => rfl)
    | split
    | (dsimp only; split)

theorem execCalApplied_kept {l : Nat} {s : State} (hs0 : KSt w0 s) : KOut w0 (execCalApplied l s) := by
  unfold execCalApplied
  repeat' first
    | with_reducible assumption
    | with_reducible apply when_kept
    | with_reducible apply calApplied_kept
    | with_reducible apply KOut.inRange

theorem calEnChange_kept {l : Nat} {high : Bool} {s : State} (hs : KSt w0 s) : KSt w0 (calEnChange l high s) := by
  unfold calEnChange
  repeat' first
    | with_reducible assumption
    | with_reducible intro _
    | with_reducible apply setMet_kept
    | with_reducible apply legal_kept
    | with_reducible apply hm1Event_kept
    | with_reducible apply metFaultEvent_kept
    | with_reducible apply KSt.ite
    | with_reducible refine KFst.of_eq (by assumption) ?_
    | with_reducible refine KOpt.of_eq (by assumption) ?_
    | with_reducible refine KFst.fst ?_
    | fail_if_no_progress (with_reducible apply KSt.mk'; on_goal 2 => rfl)
    | split
    | (dsimp only; split)

theorem execCalEnChange_kept {l : Nat} {high : Bool} {s : State} (hs0 : KSt w0 s) : KOut w0 (execCalEnChange l high s) := by
  unfold execCalEnChange
  repeat' first
    | with_reducible assumption
    | with_reducible apply when_kept
    | with_reducible apply calEnChange_kept
    | with_reducible apply KOut.inRange

theorem checksum_kept {l : Nat} {s : State} (hs0 : KSt w0 s) : KSt w0 (checksum l s) := by
  unfold checksum
  repeat' first
    | with_reducible assumption
    | with_reducible intro _
    | with_reducible apply setMet_kept
    | with_reducible apply legal_kept
    | with_reducible apply setSes_kept
    | with_reducible apply metFaultEvent_kept
    | with_reducible apply stopWith_kept
    | with_reducible apply KSt.ite

theorem execChecksumCheck_kept {l : Nat} {s : State} (hs0 : KSt w0 s) : KOut w0 (execChecksumCheck l s) := by
  unfold execChecksumCheck
  repeat' first
    | with_reducible assumption
    | with_reducible apply when_kept
    | with_reducible apply checksum_kept
    | with_reducible apply KOut.inRange

theorem powerFail_kept {l : Nat} {x : IntervalCodes} {s : State} (hs0 : KSt w0 s) : KSt w0 (powerFail l x s) := by
  unfold powerFail
  repeat' first
    | with_reducible assumption
    | with_reducible intro _
    | with_reducible apply closeInterval_kept
    | with_reducible apply setMet_kept
    | with_reducible apply pqEnd_kept
    | with_reducible apply setHm1_kept
    | with_reducible apply setEnd_kept
    | with_reducible apply drive_kept
    | with_reducible apply KSt.foldl
    | with_reducible apply KSt.id

theorem execPowerFail_kept {l : Nat} {x : IntervalCodes} {s : State} (hs0 : KSt w0 s) : KOut w0 (execPowerFail l x s) := by
  unfold execPowerFail
  repeat' first
    | with_reducible assumption
    | with_reducible apply when_kept
    | with_reducible apply powerFail_kept
    | with_reducible apply KOut.inRange

theorem execEnergySnapshot_kept {l : Nat} {s : State} (hs0 : KSt w0 s) : KOut w0 (execEnergySnapshot l s) := by
  unfold execEnergySnapshot
  repeat' first
    | with_reducible assumption
    | with_reducible intro _
    | with_reducible apply when_kept
    | with_reducible apply setMet_kept
    | with_reducible apply KOut.inRange

theorem metrologyStart_kept {l : Nat} {s : State} (hs0 : KSt w0 s) : KSt w0 (metrologyStart l s) := by
  unfold metrologyStart
  repeat' first
    | with_reducible assumption
    | with_reducible intro _
    | with_reducible apply setHm1_kept
    | with_reducible apply setMet_kept
    | with_reducible apply legal_kept
    | with_reducible apply setSes_kept
    | with_reducible apply checksum_kept
    | with_reducible apply unplug_kept
    | with_reducible apply KSt.ite
    | split

theorem execMetrologyStart_kept {l : Nat} {s : State} (hs0 : KSt w0 s) : KOut w0 (execMetrologyStart l s) := by
  unfold execMetrologyStart
  repeat' first
    | with_reducible assumption
    | with_reducible apply when_kept
    | with_reducible apply metrologyStart_kept
    | with_reducible apply KOut.inRange

theorem hm1Wake_kept {l : Nat} {reason : Byte} {s : State} (hs0 : KSt w0 s) : KSt w0 (hm1Wake l reason s) := by
  unfold hm1Wake
  repeat' first
    | with_reducible assumption
    | with_reducible intro _
    | with_reducible apply coverMove_kept
    | with_reducible apply wakeSource_kept
    | with_reducible apply hm1Event_kept
    | with_reducible apply setHm1_kept
    | with_reducible apply KSt.ite

theorem execHm1Wake_kept {l : Nat} {reason : Byte} {s : State} (hs0 : KSt w0 s) : KOut w0 (execHm1Wake l reason s) := by
  unfold execHm1Wake
  repeat' first
    | with_reducible assumption
    | with_reducible apply hm1Wake_kept
    | with_reducible apply KOut.inRange

theorem execHm1MainSupplyTimeout_kept {l : Nat} {s : State} (hs0 : KSt w0 s) : KOut w0 (execHm1MainSupplyTimeout l s) := by
  unfold execHm1MainSupplyTimeout
  repeat' first
    | with_reducible assumption
    | with_reducible intro _
    | with_reducible apply when_kept
    | with_reducible apply setHm1_kept
    | with_reducible apply KOut.inRange

theorem metRead_kept {l : Nat} {b : Bytes} {s : State} (hs0 : KSt w0 s) : KFst w0 (metRead l b s) := by
  unfold metRead
  repeat' first
    | with_reducible assumption
    | with_reducible intro _
    | with_reducible apply setMet_kept
    | with_reducible apply KFst.mk
    | split

theorem execMetRead_kept {l : Nat} {s : State} (hs0 : KSt w0 s) : KOut w0 (execMetRead l s) := by
  unfold execMetRead
  repeat' first
    | with_reducible assumption
    | with_reducible apply hm1Take_kept
    | with_reducible apply metRead_kept
    | with_reducible apply KOut.inRange

theorem pqConfig_kept {l : Nat} {b : Bytes} {s : State} (hs0 : KSt w0 s) : KFst w0 (pqConfig l b s) := by
  unfold pqConfig
  repeat' first
    | with_reducible assumption
    | with_reducible intro _
    | with_reducible apply setMet_kept
    | with_reducible apply KFst.ite
    | with_reducible apply KFst.mk

theorem execPqConfig_kept {l : Nat} {s : State} (hs0 : KSt w0 s) : KOut w0 (execPqConfig l s) := by
  unfold execPqConfig
  repeat' first
    | with_reducible assumption
    | with_reducible apply hm1Take_kept
    | with_reducible apply pqConfig_kept
    | with_reducible apply KOut.inRange

theorem pqRead_kept {l : Nat} {b : Bytes} {s : State} (hs0 : KSt w0 s) : KFst w0 (pqRead l b s) := by
  unfold pqRead
  repeat' first
    | with_reducible assumption
    | with_reducible apply setMet_kept
    | with_reducible apply KFst.mk
    | split

theorem execPqRead_kept {l : Nat} {s : State} (hs0 : KSt w0 s) : KOut w0 (execPqRead l s) := by
  unfold execPqRead
  repeat' first
    | with_reducible assumption
    | with_reducible apply hm1Take_kept
    | with_reducible apply pqRead_kept
    | with_reducible apply KOut.inRange

theorem metUpdate_kept {l : Nat} {b : Bytes} {s : State} (hs0 : KSt w0 s) : KFst w0 (metUpdate l b s) := by
  unfold metUpdate
  repeat' first
    | with_reducible assumption
    | with_reducible intro _
    | with_reducible apply setMet_kept
    | with_reducible apply legal_kept
    | with_reducible apply KSt.ite
    | with_reducible apply KFst.ite
    | with_reducible apply KFst.mk

theorem execMetUpdate_kept {l : Nat} {s : State} (hs0 : KSt w0 s) : KOut w0 (execMetUpdate l s) := by
  unfold execMetUpdate
  repeat' first
    | with_reducible assumption
    | with_reducible apply hm1Take_kept
    | with_reducible apply metUpdate_kept
    | with_reducible apply KOut.inRange

end Sys2Proof.Machine
end

