-- ==== Sys2Proof/Laws/KeptHolmiPlc.lean ====
section
/-! SUPPORT. What the operations of Machine/HolmiPlc.lean keep. -/

namespace Sys2Proof.Machine

variable {w0 : List Instr}

theorem setNode_kept {s : State} {l : Nat} {n : Nat} {x : PlcNode} (hs0 : KSt w0 s) : KSt w0 (setNode s l n x) := by
  unfold setNode
  repeat' first
    | with_reducible assumption
    | with_reducible apply setHm1_kept

theorem enqueue_kept {l : Nat} {n : Nat} {own : Bool} {f : Bytes} {s : State} (hs0 : KSt w0 s) : KSt w0 (enqueue l n own f s) := by
  unfold enqueue
  repeat' first
    | with_reducible assumption
    | with_reducible apply setNode_kept

theorem originate_kept {l : Nat} {n : Nat} {typ : Nat} {dst : Nat} {port : Nat} {own : Bool} {p : Bytes} {s : State} (hs0 : KSt w0 s) : KSt w0 (originate l n typ dst port own p s) := by
  unfold originate
  repeat' first
    | with_reducible assumption
    | with_reducible apply enqueue_kept
    | with_reducible apply setNode_kept

theorem routeEvent_kept {l : Nat} {pod : Nat} {change : Nat} {hops : Nat} {cost : Nat} {s : State} (hs0 : KSt w0 s) : KSt w0 (routeEvent l pod change hops cost s) := by
  unfold routeEvent
  repeat' first
    | with_reducible assumption
    | with_reducible apply hm1Event_kept

theorem dropRoute_kept {l : Nat} {n : Nat} {pod : Nat} {s : State} (hs0 : KSt w0 s) : KSt w0 (dropRoute l n pod s) := by
  unfold dropRoute
  repeat' first
    | with_reducible assumption
    | with_reducible apply setNode_kept
    | with_reducible apply routeEvent_kept
    | split
    | (dsimp only; split)

theorem keepRoute_kept {l : Nat} {n : Nat} {pod : Nat} {r : PlcRoute} {s : State} (hs0 : KSt w0 s) : KSt w0 (keepRoute l n pod r s) := by
  unfold keepRoute
  repeat' first
    | with_reducible assumption
    | with_reducible intro _
    | with_reducible apply setNode_kept
    | with_reducible apply routeEvent_kept
    | with_reducible apply KSt.ite

theorem sendRep_kept {l : Nat} {n : Nat} {s : State} (hs0 : KSt w0 s) : KSt w0 (sendRep l n s) := by
  unfold sendRep
  repeat' first
    | with_reducible assumption
    | with_reducible apply originate_kept
    | split

theorem flood_kept {l : Nat} {s : State} (hs0 : KSt w0 s) : KSt w0 (flood l s) := by
  unfold flood
  repeat' first
    | with_reducible assumption
    | with_reducible apply setHm1_kept
    | with_reducible apply originate_kept

theorem execRouteReq_kept {l : Nat} {s : State} (hs0 : KSt w0 s) : KOut w0 (execRouteReq l s) := by
  unfold execRouteReq
  repeat' first
    | with_reducible assumption
    | with_reducible apply when_kept
    | with_reducible apply flood_kept
    | with_reducible apply KOut.inRange

theorem routeBroken_kept {l : Nat} {pod : Nat} {s : State} (hs0 : KSt w0 s) : KSt w0 (routeBroken l pod s) := by
  unfold routeBroken
  repeat' first
    | with_reducible assumption
    | with_reducible apply dropRoute_kept
    | with_reducible apply setHm1_kept

theorem execRouteErr_kept {l : Nat} {pod : Nat} {s : State} (hs0 : KSt w0 s) : KOut w0 (execRouteErr l pod s) := by
  unfold execRouteErr
  repeat' first
    | with_reducible assumption
    | with_reducible apply when_kept
    | with_reducible apply routeBroken_kept
    | with_reducible apply KOut.inRange

theorem routeExpiry_kept {l : Nat} {pod : Nat} {s : State} (hs0 : KSt w0 s) : KSt w0 (routeExpiry l pod s) := by
  unfold routeExpiry
  repeat' first
    | with_reducible assumption
    | with_reducible intro _
    | with_reducible apply dropRoute_kept
    | with_reducible apply KSt.foldl
    | split

theorem execRouteExpiry_kept {l : Nat} {pod : Nat} {s : State} (hs0 : KSt w0 s) : KOut w0 (execRouteExpiry l pod s) := by
  unfold execRouteExpiry
  repeat' first
    | with_reducible assumption
    | with_reducible apply routeExpiry_kept
    | with_reducible apply KOut.inRange

theorem reportBroken_kept {l : Nat} {n : Nat} {pod : Nat} {s : State} (hs0 : KSt w0 s) : KSt w0 (reportBroken l n pod s) := by
  unfold reportBroken
  repeat' first
    | with_reducible assumption
    | with_reducible intro _
    | with_reducible apply routeBroken_kept
    | with_reducible apply originate_kept
    | with_reducible apply KSt.ite

theorem rebroadcast_kept {l : Nat} {n : Nat} {s : State} (hs0 : KSt w0 s) : KSt w0 (rebroadcast l n s) := by
  unfold rebroadcast
  repeat' first
    | with_reducible assumption
    | with_reducible apply enqueue_kept
    | with_reducible apply setNode_kept
    | (dsimp only; split)

theorem execRouteReqRebroadcast_kept {l : Nat} {n : Nat} {s : State} (hs0 : KSt w0 s) : KOut w0 (execRouteReqRebroadcast l n s) := by
  unfold execRouteReqRebroadcast
  repeat' first
    | with_reducible assumption
    | with_reducible apply when_kept
    | with_reducible apply rebroadcast_kept
    | with_reducible apply KOut.inRange

theorem routeReply_kept {l : Nat} {n : Nat} {s : State} (hs : KSt w0 s) : KSt w0 (routeReply l n s) := by
  unfold routeReply
  repeat' first
    | with_reducible assumption
    | with_reducible intro _
    | with_reducible apply sendRep_kept
    | with_reducible apply setNode_kept
    | with_reducible apply KSt.ite
    | with_reducible refine KFst.of_eq (by assumption) ?_
    | with_reducible refine KOpt.of_eq (by assumption) ?_
    | with_reducible refine KFst.fst ?_
    | fail_if_no_progress (with_reducible apply KSt.mk'; on_goal 2 => rfl)
    | split
    | (dsimp only; split)

theorem execRouteRep_kept {l : Nat} {n : Nat} {s : State} (hs0 : KSt w0 s) : KOut w0 (execRouteRep l n s) := by
  unfold execRouteRep
  repeat' first
    | with_reducible assumption
    | with_reducible apply when_kept
    | with_reducible apply routeReply_kept
    | with_reducible apply KOut.inRange

theorem plcRx_kept {l : Nat} {f : Bytes} {s : State} (hs0 : KSt w0 s) : KSt w0 (plcRx l f s) := by
  unfold plcRx
  repeat' first
    | with_reducible assumption
    | with_reducible intro _
    | with_reducible apply setNode_kept
    | with_reducible apply hm1Event_kept
    | with_reducible apply KSt.ite

theorem relayOn_kept {l : Nat} {n : Nat} {f : Bytes} {s : State} (hs0 : KSt w0 s) : KSt w0 (relayOn l n f s) := by
  unfold relayOn
  repeat' first
    | with_reducible assumption
    | with_reducible intro _
    | with_reducible apply setNode_kept
    | with_reducible apply enqueue_kept
    | with_reducible apply KSt.ite

theorem acceptData_kept {l : Nat} {n : Nat} {f : Bytes} {s : State} (hs0 : KSt w0 s) : KSt w0 (acceptData l n f s) := by
  unfold acceptData
  repeat' first
    | with_reducible assumption
    | with_reducible intro _
    | with_reducible apply setNode_kept
    | with_reducible apply plcRx_kept
    | with_reducible apply relayOn_kept
    | with_reducible apply KSt.ite

theorem acceptReq_kept {l : Nat} {n : Nat} {f : Bytes} {s : State} (hs0 : KSt w0 s) : KSt w0 (acceptReq l n f s) := by
  unfold acceptReq
  repeat' first
    | with_reducible assumption
    | with_reducible apply setNode_kept
    | (dsimp only; split)

theorem acceptRep_kept {l : Nat} {n : Nat} {f : Bytes} {s : State} (hs0 : KSt w0 s) : KSt w0 (acceptRep l n f s) := by
  unfold acceptRep
  repeat' first
    | with_reducible assumption
    | with_reducible intro _
    | with_reducible apply keepRoute_kept
    | with_reducible apply relayOn_kept
    | with_reducible apply KSt.ite

theorem accept_kept {l : Nat} {n : Nat} {f : Bytes} {s : State} (hs : KSt w0 s) : KSt w0 (accept l n f s) := by
  unfold accept
  repeat' first
    | with_reducible assumption
    | with_reducible intro _
    | with_reducible apply setNode_kept
    | with_reducible apply acceptData_kept
    | with_reducible apply acceptReq_kept
    | with_reducible apply acceptRep_kept
    | with_reducible apply routeBroken_kept
    | with_reducible apply relayOn_kept
    | with_reducible apply KSt.ite
    | with_reducible refine KFst.of_eq (by assumption) ?_
    | with_reducible refine KOpt.of_eq (by assumption) ?_
    | with_reducible refine KFst.fst ?_
    | fail_if_no_progress (with_reducible apply KSt.mk'; on_goal 2 => rfl)
    | split
    | (dsimp only; split)

theorem plcReceive_kept {l : Nat} {n : Nat} {bursts : List PlcBurst} {s : State} (hs : KSt w0 s) : KSt w0 (plcReceive l n bursts s) := by
  unfold plcReceive
  repeat' first
    | with_reducible assumption
    | with_reducible intro _
    | with_reducible apply setNode_kept
    | with_reducible apply accept_kept
    | with_reducible apply KSt.ite
    | with_reducible refine KFst.of_eq (by assumption) ?_
    | with_reducible refine KOpt.of_eq (by assumption) ?_
    | with_reducible refine KFst.fst ?_
    | fail_if_no_progress (with_reducible apply KSt.mk'; on_goal 2 => rfl)
    | split
    | (dsimp only; split)

theorem execPlcFrameReceive_kept {l : Nat} {n : Nat} {preamble : List PlcBurst} {bursts : List PlcBurst} {s : State} (hs : KSt w0 s) : KOut w0 (execPlcFrameReceive l n preamble bursts s) := by
  unfold execPlcFrameReceive
  repeat' first
    | with_reducible assumption
    | with_reducible intro _
    | with_reducible apply when_kept
    | with_reducible apply plcReceive_kept
    | with_reducible apply KOut.inRange
    | with_reducible apply KSt.ite
    | with_reducible refine KFst.of_eq (by assumption) ?_
    | with_reducible refine KOpt.of_eq (by assumption) ?_
    | with_reducible refine KFst.fst ?_
    | fail_if_no_progress (with_reducible apply KSt.mk'; on_goal 2 => rfl)
    | split
    | (dsimp only; split)

theorem txDone_kept {l : Nat} {t : PlcTx} {result : Byte} {s : State} (hs0 : KSt w0 s) : KSt w0 (txDone l t result s) := by
  unfold txDone
  repeat' first
    | with_reducible assumption
    | with_reducible intro _
    | with_reducible apply hm1Event_kept
    | with_reducible apply KSt.ite

theorem plcAccess_kept {l : Nat} {n : Nat} {idle : Nat} {s : State} (hs : KSt w0 s) : KSt w0 (plcAccess l n idle s) := by
  unfold plcAccess
  repeat' first
    | with_reducible assumption
    | with_reducible intro _
    | with_reducible apply setNode_kept
    | with_reducible apply txDone_kept
    | with_reducible apply reportBroken_kept
    | with_reducible apply KSt.ite
    | with_reducible refine KFst.of_eq (by assumption) ?_
    | with_reducible refine KOpt.of_eq (by assumption) ?_
    | with_reducible refine KFst.fst ?_
    | fail_if_no_progress (with_reducible apply KSt.mk'; on_goal 2 => rfl)
    | split
    | (dsimp only; split)

theorem execPlcAccess_kept {l : Nat} {n : Nat} {idle : Nat} {s : State} (hs0 : KSt w0 s) : KOut w0 (execPlcAccess l n idle s) := by
  unfold execPlcAccess
  repeat' first
    | with_reducible assumption
    | with_reducible apply when_kept
    | with_reducible apply plcAccess_kept
    | with_reducible apply KOut.inRange

theorem brokenLink_kept {l : Nat} {n : Nat} {f : Bytes} {s : State} (hs0 : KSt w0 s) : KSt w0 (brokenLink l n f s) := by
  unfold brokenLink
  repeat' first
    | with_reducible assumption
    | with_reducible intro _
    | with_reducible apply reportBroken_kept
    | with_reducible apply sendRep_kept
    | with_reducible apply setNode_kept
    | split
    | (dsimp only; split)

theorem plcAckSlot_kept {l : Nat} {n : Nat} {bursts : List PlcBurst} {s : State} (hs : KSt w0 s) : KSt w0 (plcAckSlot l n bursts s) := by
  unfold plcAckSlot
  repeat' first
    | with_reducible assumption
    | with_reducible intro _
    | with_reducible apply txDone_kept
    | with_reducible apply setNode_kept
    | with_reducible apply brokenLink_kept
    | with_reducible apply KSt.ite
    | with_reducible refine KFst.of_eq (by assumption) ?_
    | with_reducible refine KOpt.of_eq (by assumption) ?_
    | with_reducible refine KFst.fst ?_
    | fail_if_no_progress (with_reducible apply KSt.mk'; on_goal 2 => rfl)
    | split
    | (dsimp only; split)

theorem execPlcAckSlot_kept {l : Nat} {n : Nat} {bursts : List PlcBurst} {s : State} (hs : KSt w0 s) : KOut w0 (execPlcAckSlot l n bursts s) := by
  unfold execPlcAckSlot
  repeat' first
    | with_reducible assumption
    | with_reducible intro _
    | with_reducible apply when_kept
    | with_reducible apply plcAckSlot_kept
    | with_reducible apply KOut.inRange
    | with_reducible apply KSt.ite
    | with_reducible refine KFst.of_eq (by assumption) ?_
    | with_reducible refine KOpt.of_eq (by assumption) ?_
    | with_reducible refine KFst.fst ?_
    | fail_if_no_progress (with_reducible apply KSt.mk'; on_goal 2 => rfl)
    | split
    | (dsimp only; split)

theorem plcHello_kept {l : Nat} {n : Nat} {s : State} (hs0 : KSt w0 s) : KSt w0 (plcHello l n s) := by
  unfold plcHello
  repeat' first
    | with_reducible assumption
    | with_reducible apply originate_kept
    | with_reducible apply setNode_kept

theorem execPlcHello_kept {l : Nat} {n : Nat} {s : State} (hs0 : KSt w0 s) : KOut w0 (execPlcHello l n s) := by
  unfold execPlcHello
  repeat' first
    | with_reducible assumption
    | with_reducible apply when_kept
    | with_reducible apply plcHello_kept
    | with_reducible apply KOut.inRange

theorem wakePattern_kept {l : Nat} {bits : Byte} {s : State} (hs0 : KSt w0 s) : KSt w0 (wakePattern l bits s) := by
  unfold wakePattern
  repeat' first
    | with_reducible assumption
    | with_reducible intro _
    | with_reducible apply hm1Wake_kept
    | with_reducible apply KSt.ite

theorem execWakePattern_kept {l : Nat} {bits : Byte} {s : State} (hs0 : KSt w0 s) : KOut w0 (execWakePattern l bits s) := by
  unfold execWakePattern
  repeat' first
    | with_reducible assumption
    | with_reducible apply wakePattern_kept
    | with_reducible apply KOut.inRange

theorem plcConfig_kept {l : Nat} {b : Bytes} {s : State} (hs0 : KSt w0 s) : KFst w0 (plcConfig l b s) := by
  unfold plcConfig
  repeat' first
    | with_reducible assumption
    | with_reducible intro _
    | with_reducible apply dropRoute_kept
    | with_reducible apply setHm1_kept
    | with_reducible apply KSt.ite
    | with_reducible apply KSt.foldl
    | with_reducible apply KFst.ite
    | with_reducible apply KFst.mk

theorem execPlcConfig_kept {l : Nat} {s : State} (hs0 : KSt w0 s) : KOut w0 (execPlcConfig l s) := by
  unfold execPlcConfig
  repeat' first
    | with_reducible assumption
    | with_reducible apply hm1Take_kept
    | with_reducible apply plcConfig_kept
    | with_reducible apply KOut.inRange

theorem plcSend_kept {l : Nat} {b : Bytes} {s : State} (hs0 : KSt w0 s) : KFst w0 (plcSend l b s) := by
  unfold plcSend
  repeat' first
    | with_reducible assumption
    | with_reducible intro _
    | with_reducible apply originate_kept
    | with_reducible apply KFst.ite
    | with_reducible apply KFst.mk

theorem execPlcSend_kept {l : Nat} {s : State} (hs0 : KSt w0 s) : KOut w0 (execPlcSend l s) := by
  unfold execPlcSend
  repeat' first
    | with_reducible assumption
    | with_reducible apply hm1Take_kept
    | with_reducible apply plcSend_kept
    | with_reducible apply KOut.inRange

theorem plcRouteRead_kept {l : Nat} {b : Bytes} {s : State} (hs0 : KSt w0 s) : KFst w0 (plcRouteRead l b s) := by
  unfold plcRouteRead
  repeat' first
    | with_reducible assumption
    | with_reducible intro _
    | with_reducible apply KFst.mk
    | split

theorem execPlcRouteRead_kept {l : Nat} {s : State} (hs0 : KSt w0 s) : KOut w0 (execPlcRouteRead l s) := by
  unfold execPlcRouteRead
  repeat' first
    | with_reducible assumption
    | with_reducible apply hm1Take_kept
    | with_reducible apply plcRouteRead_kept
    | with_reducible apply KOut.inRange

theorem plcStats_kept {l : Nat} {u1 : Bytes} {s : State} (hs0 : KSt w0 s) : KFst w0 (plcStats l u1 s) := by
  unfold plcStats
  repeat' first
    | with_reducible assumption
    | with_reducible apply setNode_kept
    | with_reducible apply KFst.mk

theorem execPlcStats_kept {l : Nat} {s : State} (hs0 : KSt w0 s) : KOut w0 (execPlcStats l s) := by
  unfold execPlcStats
  repeat' first
    | with_reducible assumption
    | with_reducible apply hm1Take_kept
    | with_reducible apply plcStats_kept
    | with_reducible apply KOut.inRange

theorem plcDiscover_kept {l : Nat} {u1 : Bytes} {s : State} (hs0 : KSt w0 s) : KFst w0 (plcDiscover l u1 s) := by
  unfold plcDiscover
  repeat' first
    | with_reducible assumption
    | with_reducible intro _
    | with_reducible apply flood_kept
    | with_reducible apply KFst.ite
    | with_reducible apply KFst.mk

theorem execPlcDiscover_kept {l : Nat} {s : State} (hs0 : KSt w0 s) : KOut w0 (execPlcDiscover l s) := by
  unfold execPlcDiscover
  repeat' first
    | with_reducible assumption
    | with_reducible apply hm1Take_kept
    | with_reducible apply plcDiscover_kept
    | with_reducible apply KOut.inRange

end Sys2Proof.Machine
end

