-- ==== Sys2Proof/Laws/KeptNetwork.lean ====
section
/-! SUPPORT. What the operations of Machine/Network.lean keep. -/

namespace Sys2Proof.Machine

variable {w0 : List Instr}

theorem takeErrRsp_kept {h : PacketHeader} {s : State} (hs : KSt w0 s) : KSt w0 (takeErrRsp h s) := by
  unfold takeErrRsp
  repeat' first
    | with_reducible assumption
    | with_reducible intro _
    | with_reducible apply setCell_kept
    | with_reducible apply faultCtx_kept
    | with_reducible apply KSt.ite
    | with_reducible apply KFst.mk
    | with_reducible apply KFst.ite
    | with_reducible refine KFst.of_eq (by assumption) ?_
    | with_reducible refine KOpt.of_eq (by assumption) ?_
    | with_reducible refine KFst.fst ?_
    | fail_if_no_progress (with_reducible apply KSt.mk'; on_goal 2 => rfl)
    | split
    | (dsimp only; split)

theorem errRsp_kept {die : Nat} {router : Nat} {h : PacketHeader} {s : State} (hs : KSt w0 s) : KSt w0 (errRsp die router h s) := by
  unfold errRsp
  repeat' first
    | with_reducible assumption
    | with_reducible intro _
    | with_reducible apply faultNotice_kept
    | with_reducible apply countStray_kept
    | with_reducible apply takeErrRsp_kept
    | with_reducible apply noticeDomain_kept
    | with_reducible apply KSt.ite
    | with_reducible refine KFst.of_eq (by assumption) ?_
    | with_reducible refine KOpt.of_eq (by assumption) ?_
    | with_reducible refine KFst.fst ?_
    | with_reducible apply KOpt.getD
    | fail_if_no_progress (with_reducible apply KSt.mk'; on_goal 2 => rfl)
    | split
    | (dsimp only; split)

theorem execErrRsp_kept {die : Nat} {router : Nat} {h : PacketHeader} {s : State} (hs0 : KSt w0 s) : KOut w0 (execErrRsp die router h s) := by
  unfold execErrRsp
  repeat' first
    | with_reducible assumption
    | with_reducible apply errRsp_kept
    | with_reducible apply KOut.inRange

theorem retryTimer_kept {die : Nat} {cell : Nat} {i : Nat} {s : State} (hs0 : KSt w0 s) : KSt w0 (retryTimer die cell i s) := by
  unfold retryTimer
  repeat' first
    | with_reducible assumption
    | with_reducible apply setCell_kept

theorem execRetryTimer_kept {die : Nat} {cell : Nat} {i : Nat} {s : State} (hs0 : KSt w0 s) : KOut w0 (execRetryTimer die cell i s) := by
  unfold execRetryTimer
  repeat' first
    | with_reducible assumption
    | with_reducible apply retryTimer_kept
    | with_reducible apply KOut.inRange

theorem livelockRescue_kept {die : Nat} {router : Nat} {age : Byte} {lost : Nat} {s : State} (hs : KSt w0 s) : KSt w0 (livelockRescue die router age lost s) := by
  unfold livelockRescue
  repeat' first
    | with_reducible assumption
    | with_reducible intro _
    | with_reducible apply setRouter_kept
    | with_reducible apply KSt.ite
    | with_reducible apply KFst.mk
    | with_reducible apply KFst.ite
    | with_reducible refine KFst.of_eq (by assumption) ?_
    | with_reducible refine KOpt.of_eq (by assumption) ?_
    | with_reducible refine KFst.fst ?_
    | fail_if_no_progress (with_reducible apply KSt.mk'; on_goal 2 => rfl)
    | split
    | (dsimp only; split)

theorem execLivelockRescue_kept {die : Nat} {router : Nat} {age : Byte} {lost : Nat} {s : State} (hs0 : KSt w0 s) : KOut w0 (execLivelockRescue die router age lost s) := by
  unfold execLivelockRescue
  repeat' first
    | with_reducible assumption
    | with_reducible apply livelockRescue_kept
    | with_reducible apply KOut.inRange

theorem stallDetect_kept {die : Nat} {router : Nat} {h : PacketHeader} {s : State} (hs : KSt w0 s) : KSt w0 (stallDetect die router h s) := by
  unfold stallDetect
  repeat' first
    | with_reducible assumption
    | with_reducible intro _
    | with_reducible apply faultNotice_kept
    | with_reducible apply startRecovery_kept
    | with_reducible apply systemFault_kept
    | with_reducible apply faultCtx_kept
    | with_reducible apply KSt.ite
    | with_reducible refine KFst.of_eq (by assumption) ?_
    | with_reducible refine KOpt.of_eq (by assumption) ?_
    | with_reducible refine KFst.fst ?_
    | fail_if_no_progress (with_reducible apply KSt.mk'; on_goal 2 => rfl)
    | split
    | (dsimp only; split)

theorem execStallDetect_kept {die : Nat} {router : Nat} {h : PacketHeader} {s : State} (hs : KSt w0 s) : KOut w0 (execStallDetect die router h s) := by
  unfold execStallDetect
  repeat' first
    | with_reducible assumption
    | with_reducible intro _
    | with_reducible apply inRange_kept
    | with_reducible apply stallDetect_kept
    | with_reducible apply KOut.inRange
    | with_reducible apply KSt.ite
    | with_reducible refine KFst.of_eq (by assumption) ?_
    | with_reducible refine KOpt.of_eq (by assumption) ?_
    | with_reducible refine KFst.fst ?_
    | fail_if_no_progress (with_reducible apply KSt.mk'; on_goal 2 => rfl)
    | split
    | (dsimp only; split)

theorem settleBlock_kept {id : Nat} {c : CmdRef} {inForce : Tbl W32} {gen : W16} {s : State} (hs : KSt w0 s) : KSt w0 (settleBlock id c inForce gen s) := by
  unfold settleBlock
  repeat' first
    | with_reducible assumption
    | with_reducible intro _
    | with_reducible apply setBlock_kept
    | with_reducible apply finishCmd_kept
    | with_reducible apply KSt.ite
    | with_reducible apply KSt.id
    | with_reducible refine KFst.of_eq (by assumption) ?_
    | with_reducible refine KOpt.of_eq (by assumption) ?_
    | with_reducible refine KFst.fst ?_
    | fail_if_no_progress (with_reducible apply KSt.mk'; on_goal 2 => rfl)
    | split
    | (dsimp only; split)

theorem applyBlock_kept {id : Nat} {s : State} (hs : KSt w0 s) : KSt w0 (applyBlock id s) := by
  unfold applyBlock
  repeat' first
    | with_reducible assumption
    | with_reducible intro _
    | with_reducible apply settleBlock_kept
    | with_reducible apply KSt.ite
    | with_reducible apply KSt.id
    | with_reducible refine KFst.of_eq (by assumption) ?_
    | with_reducible refine KOpt.of_eq (by assumption) ?_
    | with_reducible refine KFst.fst ?_
    | fail_if_no_progress (with_reducible apply KSt.mk'; on_goal 2 => rfl)
    | split
    | (dsimp only; split)

theorem routeSwitchDrainEnd_kept {die : Nat} {s : State} (hs : KSt w0 s) : KSt w0 (routeSwitchDrainEnd die s) := by
  unfold routeSwitchDrainEnd
  repeat' first
    | with_reducible assumption
    | with_reducible intro _
    | with_reducible apply releaseHeld_kept
    | with_reducible apply nextSwitch_kept
    | with_reducible apply applyBlock_kept
    | with_reducible apply applyInstall_kept
    | with_reducible apply KSt.ite
    | with_reducible refine KFst.of_eq (by assumption) ?_
    | with_reducible refine KOpt.of_eq (by assumption) ?_
    | with_reducible refine KFst.fst ?_
    | fail_if_no_progress (with_reducible apply KSt.mk'; on_goal 2 => rfl)
    | split
    | (dsimp only; split)

end Sys2Proof.Machine
end

