-- ==== Sys2Proof/Laws/KeptHolmiLink.lean ====
section
/-! SUPPORT. What the operations of Machine/HolmiLink.lean keep. -/

namespace Sys2Proof.Machine

variable {w0 : List Instr}

theorem commitRefused_kept {l : Nat} {blk : Nat} {code : W16} {s : State} (hs : KSt w0 s) : KSt w0 (commitRefused l blk code s) := by
  unfold commitRefused
  repeat' first
    | with_reducible assumption
    | with_reducible intro _
    | with_reducible apply setBlock_kept
    | with_reducible apply finishCmd_kept
    | with_reducible apply KSt.ite
    | with_reducible apply KSt.id
    | with_reducible refine KFst.of_eq (by assumption) ?_
    | with_reducible refine KOpt.of_eq (by assumption) ?_
    | with_reducible refine KFst.fst ?_
    | fail_if_no_progress (with_reducible apply KSt.mk'; on_goal 2 => rfl)
    | split
    | (dsimp only; split)

theorem confirmBlock_kept {l : Nat} {blk : Nat} {s : State} (hs : KSt w0 s) : KSt w0 (confirmBlock l blk s) := by
  unfold confirmBlock
  repeat' first
    | with_reducible assumption
    | with_reducible intro _
    | with_reducible apply settleBlock_kept
    | with_reducible apply setBlock_kept
    | with_reducible apply KSt.ite
    | with_reducible apply KSt.id
    | with_reducible refine KFst.of_eq (by assumption) ?_
    | with_reducible refine KOpt.of_eq (by assumption) ?_
    | with_reducible refine KFst.fst ?_
    | fail_if_no_progress (with_reducible apply KSt.mk'; on_goal 2 => rfl)
    | split
    | (dsimp only; split)

theorem takeSet_kept {l : Nat} {p : Bytes} {s : State} (hs : KSt w0 s) : KSt w0 (takeSet l p s) := by
  unfold takeSet
  repeat' first
    | with_reducible assumption
    | with_reducible intro _
    | with_reducible apply holmiSend_kept
    | with_reducible apply setMet_kept
    | with_reducible apply KSt.ite
    | with_reducible refine KFst.of_eq (by assumption) ?_
    | with_reducible refine KOpt.of_eq (by assumption) ?_
    | with_reducible refine KFst.fst ?_
    | fail_if_no_progress (with_reducible apply KSt.mk'; on_goal 2 => rfl)
    | split
    | (dsimp only; split)

theorem relayFetch_kept {x : Relay} {s : State} {o : Option Nat} (hs : KSt w0 s) : KFst w0 (relayFetch x s o) := by
  cases o with
  | none => exact hs
  | some a =>
    unfold relayFetch
    dsimp only
    have h := unitRead_kept (r := .unit x.context.toNat false 5) (src := gatewaySrc s) (a := a) (n := 2048) hs
    generalize unitRead _ _ a 2048 s = r at h
    obtain ⟨t, c, b, ok⟩ := r
    exact KFst.mk (KSt.ite (fun _ => failedRead_kept h) (fun _ => h))

theorem relaySent_kept {l : Nat} {x : Relay} {f : Option (Nat × Bytes)} {s : State} (hs : KSt w0 s) : KSt w0 (relaySent l x f s) := by
  unfold relaySent
  split
  · exact holmiSend_kept hs
  · exact setRelay_kept hs

theorem relayPump_kept {n l : Nat} {s : State} (hs : KSt w0 s) : KSt w0 (relayPump n l s) := by
  induction n generalizing s with
  | zero => exact hs
  | succ n ih =>
    unfold relayPump
    exact KSt.ite (fun _ => hs) (fun _ => ih (relaySent_kept (setRelay_kept (relayFetch_kept hs))))

theorem relayRx_kept {l : Nat} {ch : Nat} {f : Bytes} {s : State} (hs : KSt w0 s) : KSt w0 (relayRx l ch f s) := by
  unfold relayRx
  repeat' first
    | with_reducible assumption
    | with_reducible intro _
    | with_reducible apply setRelay_kept
    | with_reducible apply unitWrite_kept
    | with_reducible apply sendSignal_kept
    | with_reducible apply KSt.ite
    | with_reducible refine KFst.of_eq (by assumption) ?_
    | with_reducible refine KOpt.of_eq (by assumption) ?_
    | with_reducible refine KFst.fst ?_
    | fail_if_no_progress (with_reducible apply KSt.mk'; on_goal 2 => rfl)
    | split
    | (dsimp only; split)

theorem answerMsg_kept {l : Nat} {p : Bytes} {s : State} (hs0 : KSt w0 s) : KSt w0 (answerMsg l p s) := by
  unfold answerMsg
  repeat' first
    | with_reducible assumption
    | with_reducible apply setSeen_kept
    | with_reducible apply commitRefused_kept
    | with_reducible apply respond_kept
    | with_reducible apply setMbx_kept
    | split
    | (dsimp only; split)

theorem holmiDown_kept {far : Bool} {l : Nat} {s : State} (hs0 : KSt w0 s) : KSt w0 (holmiDown far l s) := by
  unfold holmiDown
  repeat' first
    | with_reducible assumption
    | with_reducible intro _
    | with_reducible apply setEnd_kept
    | with_reducible apply commitRefused_kept
    | with_reducible apply answerMsg_kept
    | with_reducible apply KSt.ite

theorem holmiUp_kept {far : Bool} {l : Nat} {s : State} (hs0 : KSt w0 s) : KSt w0 (holmiUp far l s) := by
  unfold holmiUp
  repeat' first
    | with_reducible assumption
    | with_reducible intro _
    | with_reducible apply pump_kept
    | with_reducible apply setEnd_kept
    | with_reducible apply setSeen_kept
    | with_reducible apply confirmBlock_kept
    | with_reducible apply setMet_kept
    | with_reducible apply setBlock_kept
    | with_reducible apply relayPump_kept
    | with_reducible apply KSt.ite

theorem sendHello_kept {far : Bool} {l : Nat} {s : State} (hs0 : KSt w0 s) : KSt w0 (sendHello far l s) := by
  unfold sendHello
  repeat' first
    | with_reducible assumption
    | with_reducible apply holmiUp_kept
    | with_reducible apply setEnd_kept

theorem takeHello_kept {far : Bool} {l : Nat} {f : Bytes} {s : State} (hs0 : KSt w0 s) : KSt w0 (takeHello far l f s) := by
  unfold takeHello
  repeat' first
    | with_reducible assumption
    | with_reducible intro _
    | with_reducible apply holmiDown_kept
    | with_reducible apply setEnd_kept
    | with_reducible apply setSeen_kept
    | with_reducible apply holmiUp_kept
    | with_reducible apply KSt.ite

theorem eventAtKeeper_kept {l : Nat} {p : Bytes} {s : State} (hs0 : KSt w0 s) : KSt w0 (eventAtKeeper l p s) := by
  unfold eventAtKeeper
  repeat' first
    | with_reducible assumption
    | with_reducible apply broadcast_kept
    | with_reducible apply confirmBlock_kept
    | with_reducible apply setSeen_kept
    | split

theorem frameTaken_kept {far : Bool} {l : Nat} {f : Bytes} {s : State} (hs0 : KSt w0 s) : KSt w0 (frameTaken far l f s) := by
  unfold frameTaken
  repeat' first
    | with_reducible assumption
    | with_reducible intro _
    | with_reducible apply takeSet_kept
    | with_reducible apply setHm1_kept
    | with_reducible apply answerMsg_kept
    | with_reducible apply eventAtKeeper_kept
    | with_reducible apply relayRx_kept
    | with_reducible apply commitRefused_kept
    | with_reducible apply KSt.ite
    | split

theorem holmiReceive_kept {far : Bool} {l : Nat} {f : Bytes} {s : State} (hs0 : KSt w0 s) : KSt w0 (holmiReceive far l f s) := by
  unfold holmiReceive
  repeat' first
    | with_reducible assumption
    | with_reducible intro _
    | with_reducible apply setEnd_kept
    | with_reducible apply takeHello_kept
    | with_reducible apply pump_kept
    | with_reducible apply relayPump_kept
    | with_reducible apply frameTaken_kept
    | with_reducible apply KSt.ite

theorem execHolmiFrameReceive_kept {l : Nat} {far : Bool} {f : Bytes} {s : State} (hs0 : KSt w0 s) : KOut w0 (execHolmiFrameReceive l far f s) := by
  unfold execHolmiFrameReceive
  repeat' first
    | with_reducible assumption
    | with_reducible apply holmiReceive_kept
    | with_reducible apply KOut.inRange

theorem resend_kept {far : Bool} {l : Nat} {s : State} (hs0 : KSt w0 s) : KSt w0 (resend far l s) := by
  unfold resend
  repeat' first
    | with_reducible assumption
    | with_reducible intro _
    | with_reducible apply setEnd_kept
    | with_reducible apply KSt.ite

theorem execHolmiResendTimer_kept {l : Nat} {far : Bool} {s : State} (hs0 : KSt w0 s) : KOut w0 (execHolmiResendTimer l far s) := by
  unfold execHolmiResendTimer
  repeat' first
    | with_reducible assumption
    | with_reducible apply when_kept
    | with_reducible apply resend_kept
    | with_reducible apply KOut.inRange

theorem ackOnly_kept {far : Bool} {l : Nat} {s : State} (hs0 : KSt w0 s) : KSt w0 (ackOnly far l s) := by
  unfold ackOnly
  repeat' first
    | with_reducible assumption
    | with_reducible intro _
    | with_reducible apply setEnd_kept
    | with_reducible apply sendHello_kept
    | with_reducible apply KSt.ite

theorem execHolmiAckOnlyTimer_kept {l : Nat} {far : Bool} {s : State} (hs0 : KSt w0 s) : KOut w0 (execHolmiAckOnlyTimer l far s) := by
  unfold execHolmiAckOnlyTimer
  repeat' first
    | with_reducible assumption
    | with_reducible apply when_kept
    | with_reducible apply ackOnly_kept
    | with_reducible apply KOut.inRange

theorem execHolmiLinkDown_kept {l : Nat} {far : Bool} {s : State} (hs0 : KSt w0 s) : KOut w0 (execHolmiLinkDown l far s) := by
  unfold execHolmiLinkDown
  repeat' first
    | with_reducible assumption
    | with_reducible apply when_kept
    | with_reducible apply holmiDown_kept
    | with_reducible apply KOut.inRange

theorem execHolmiReplyTimeout_kept {l : Nat} {s : State} (hs0 : KSt w0 s) : KOut w0 (execHolmiReplyTimeout l s) := by
  unfold execHolmiReplyTimeout
  repeat' first
    | with_reducible assumption
    | with_reducible apply when_kept
    | with_reducible apply answerMsg_kept
    | with_reducible apply KOut.inRange

theorem execHlinkWake_kept {l : Nat} {s : State} (hs0 : KSt w0 s) : KOut w0 (execHlinkWake l s) := by
  unfold execHlinkWake
  repeat' first
    | with_reducible assumption
    | with_reducible apply wakeSource_kept
    | with_reducible apply KOut.inRange

theorem hm1Msg_kept {r : Req} {s : State} (hs0 : KSt w0 s) : KAns w0 (hm1Msg r s) := by
  unfold hm1Msg
  repeat' first
    | with_reducible assumption
    | with_reducible intro _
    | with_reducible apply holmiSend_kept
    | with_reducible apply setSeen_kept
    | with_reducible apply KAns.ite
    | with_reducible apply KAns.hold
    | with_reducible apply KAns.reject
    | with_reducible apply KAns.wait

theorem execHm1Msg_kept {m : Nat} {s : State} (hs0 : KSt w0 s) : KOut w0 (execHm1Msg m s) := by
  unfold execHm1Msg
  repeat' first
    | with_reducible assumption
    | with_reducible apply takeUpCard_kept
    | with_reducible apply hm1Msg_kept
    | with_reducible apply KOut.inRange

theorem hm1Status_kept {r : Req} {s : State} (hs0 : KSt w0 s) : KAns w0 (hm1Status r s) := by
  unfold hm1Status
  repeat' first
    | with_reducible assumption
    | with_reducible intro _
    | with_reducible apply KAns.ite
    | with_reducible apply KAns.reject
    | with_reducible apply KAns.okay

theorem execHm1Status_kept {m : Nat} {s : State} (hs0 : KSt w0 s) : KOut w0 (execHm1Status m s) := by
  unfold execHm1Status
  repeat' first
    | with_reducible assumption
    | with_reducible apply takeUpCard_kept
    | with_reducible apply hm1Status_kept
    | with_reducible apply KOut.inRange

end Sys2Proof.Machine
end

