-- ==== Sys2Proof/Laws/KeptSwarm.lean ====
section
/-! SUPPORT. What the operations of Machine/Swarm.lean keep. -/

namespace Sys2Proof.Machine

variable {w0 : List Instr}

theorem linkEvent_kept {p : Nat} {s : State} (hs0 : KSt w0 s) : KSt w0 (linkEvent p s) := by
  unfold linkEvent
  repeat' first
    | with_reducible assumption
    | with_reducible apply recordCounted_kept
    | with_reducible apply setSlink_kept

theorem endLinkCmd_kept {p : Nat} {code : W16} {s : State} (hs0 : KSt w0 s) : KSt w0 (endLinkCmd p code s) := by
  unfold endLinkCmd
  repeat' first
    | with_reducible assumption
    | with_reducible apply setSlink_kept
    | with_reducible apply finishCmd_kept
    | (dsimp only; split)

theorem failAttempt_kept {p : Nat} {s : State} (hs : KSt w0 s) : KSt w0 (failAttempt p s) := by
  unfold failAttempt
  repeat' first
    | with_reducible assumption
    | with_reducible intro _
    | with_reducible apply setSlink_kept
    | with_reducible apply laneLock_kept
    | with_reducible apply endLinkCmd_kept
    | with_reducible apply linkEvent_kept
    | with_reducible apply KSt.ite
    | with_reducible refine KFst.of_eq (by assumption) ?_
    | with_reducible refine KOpt.of_eq (by assumption) ?_
    | with_reducible refine KFst.fst ?_
    | fail_if_no_progress (with_reducible apply KSt.mk'; on_goal 2 => rfl)
    | split
    | (dsimp only; split)

theorem execPortTrainingStepTimeout_kept {p : Nat} {s : State} (hs0 : KSt w0 s) : KOut w0 (execPortTrainingStepTimeout p s) := by
  unfold execPortTrainingStepTimeout
  repeat' first
    | with_reducible assumption
    | with_reducible apply when_kept
    | with_reducible apply failAttempt_kept
    | with_reducible apply KOut.inRange

theorem execPortTrainingRetry_kept {p : Nat} {s : State} (hs0 : KSt w0 s) : KOut w0 (execPortTrainingRetry p s) := by
  unfold execPortTrainingRetry
  repeat' first
    | with_reducible assumption
    | with_reducible apply when_kept
    | with_reducible apply startTraining_kept
    | with_reducible apply KOut.inRange

theorem laneLock_kept {p : Nat} {lanes : BitVec 4} {s : State} (hs : KSt w0 s) : KSt w0 (laneLock p lanes s) := by
  unfold laneLock
  repeat' first
    | with_reducible assumption
    | with_reducible intro _
    | with_reducible apply setSlink_kept
    | with_reducible apply KSt.ite
    | with_reducible refine KFst.of_eq (by assumption) ?_
    | with_reducible refine KOpt.of_eq (by assumption) ?_
    | with_reducible refine KFst.fst ?_
    | fail_if_no_progress (with_reducible apply KSt.mk'; on_goal 2 => rfl)
    | split
    | (dsimp only; split)

theorem execLaneLock_kept {p : Nat} {lanes : BitVec 4} {s : State} (hs0 : KSt w0 s) : KOut w0 (execLaneLock p lanes s) := by
  unfold execLaneLock
  repeat' first
    | with_reducible assumption
    | with_reducible apply laneLock_kept
    | with_reducible apply KOut.inRange

theorem installNode_kept {s : State} {n : Nat} (hs : KSt w0 s) : KSt w0 (installNode s n) := by
  unfold installNode
  repeat' first
    | with_reducible assumption
    | with_reducible intro _
    | with_reducible apply keeperRoutes_kept
    | with_reducible apply KSt.ite
    | with_reducible apply KSt.foldl
    | with_reducible apply KFst.foldl
    | with_reducible refine KFst.of_eq (by assumption) ?_
    | with_reducible refine KOpt.of_eq (by assumption) ?_
    | with_reducible refine KFst.fst ?_
    | fail_if_no_progress (with_reducible apply KSt.mk'; on_goal 2 => rfl)
    | split
    | (dsimp only; split)

theorem moveRoutes_kept {p : Nat} {s : State} (hs : KSt w0 s) : KSt w0 (moveRoutes p s) := by
  unfold moveRoutes
  repeat' first
    | with_reducible assumption
    | with_reducible intro _
    | with_reducible apply keeperRoutes_kept
    | with_reducible apply KSt.ite
    | with_reducible apply KFst.mk
    | with_reducible apply KFst.ite
    | with_reducible apply KSt.foldl
    | with_reducible apply KFst.foldl
    | with_reducible refine KFst.of_eq (by assumption) ?_
    | with_reducible refine KOpt.of_eq (by assumption) ?_
    | with_reducible refine KFst.fst ?_
    | fail_if_no_progress (with_reducible apply KSt.mk'; on_goal 2 => rfl)
    | split
    | (dsimp only; split)

theorem nodeConflict_kept {node : Nat} {s : State} (hs : KSt w0 s) : KSt w0 (nodeConflict node s) := by
  unfold nodeConflict
  repeat' first
    | with_reducible assumption
    | with_reducible intro _
    | with_reducible apply setMbx_kept
    | with_reducible apply setSlink_kept
    | with_reducible apply KSt.ite
    | with_reducible apply KSt.foldl
    | with_reducible apply KFst.foldl
    | with_reducible refine KFst.of_eq (by assumption) ?_
    | with_reducible refine KOpt.of_eq (by assumption) ?_
    | with_reducible refine KFst.fst ?_
    | fail_if_no_progress (with_reducible apply KSt.mk'; on_goal 2 => rfl)
    | split
    | (dsimp only; split)

theorem acceptLink_kept {p : Nat} {delay : W16} {s : State} (hs : KSt w0 s) : KSt w0 (acceptLink p delay s) := by
  unfold acceptLink
  repeat' first
    | with_reducible assumption
    | with_reducible intro _
    | with_reducible apply setSlink_kept
    | with_reducible apply endLinkCmd_kept
    | with_reducible apply installNode_kept
    | with_reducible apply KSt.ite
    | with_reducible refine KFst.of_eq (by assumption) ?_
    | with_reducible refine KOpt.of_eq (by assumption) ?_
    | with_reducible refine KFst.fst ?_
    | fail_if_no_progress (with_reducible apply KSt.mk'; on_goal 2 => rfl)
    | split
    | (dsimp only; split)

theorem refuseIdent_kept {p : Nat} {node : BitVec 2} {s : State} (hs : KSt w0 s) : KSt w0 (refuseIdent p node s) := by
  unfold refuseIdent
  repeat' first
    | with_reducible assumption
    | with_reducible intro _
    | with_reducible apply setSlink_kept
    | with_reducible apply laneLock_kept
    | with_reducible apply endLinkCmd_kept
    | with_reducible apply systemFault_kept
    | with_reducible apply nodeConflict_kept
    | with_reducible apply KSt.ite
    | with_reducible refine KFst.of_eq (by assumption) ?_
    | with_reducible refine KOpt.of_eq (by assumption) ?_
    | with_reducible refine KFst.fst ?_
    | fail_if_no_progress (with_reducible apply KSt.mk'; on_goal 2 => rfl)
    | split
    | (dsimp only; split)

theorem identStep_kept {p : Nat} {node : BitVec 2} {port : BitVec 3} {version : Byte} {delay : W16} {s : State} (hs : KSt w0 s) : KSt w0 (identStep p node port version delay s) := by
  unfold identStep
  repeat' first
    | with_reducible assumption
    | with_reducible intro _
    | with_reducible apply setSlink_kept
    | with_reducible apply acceptLink_kept
    | with_reducible apply refuseIdent_kept
    | with_reducible apply KSt.ite
    | with_reducible refine KFst.of_eq (by assumption) ?_
    | with_reducible refine KOpt.of_eq (by assumption) ?_
    | with_reducible refine KFst.fst ?_
    | fail_if_no_progress (with_reducible apply KSt.mk'; on_goal 2 => rfl)
    | split
    | (dsimp only; split)

theorem execIdent_kept {p : Nat} {node : BitVec 2} {port : BitVec 3} {version : Byte} {delay : W16} {s : State} (hs0 : KSt w0 s) : KOut w0 (execIdent p node port version delay s) := by
  unfold execIdent
  repeat' first
    | with_reducible assumption
    | with_reducible apply identStep_kept
    | with_reducible apply KOut.inRange

theorem trainingFlit_kept {p : Nat} {l : Bytes} {s : State} (hs : KSt w0 s) : KSt w0 (trainingFlit p l s) := by
  unfold trainingFlit
  repeat' first
    | with_reducible assumption
    | with_reducible intro _
    | with_reducible apply setSlink_kept
    | with_reducible apply refuseIdent_kept
    | with_reducible apply acceptLink_kept
    | with_reducible apply KSt.ite
    | with_reducible refine KFst.of_eq (by assumption) ?_
    | with_reducible refine KOpt.of_eq (by assumption) ?_
    | with_reducible refine KFst.fst ?_
    | fail_if_no_progress (with_reducible apply KSt.mk'; on_goal 2 => rfl)
    | split
    | (dsimp only; split)

theorem sendNak_kept {p : Nat} {s : State} (hs0 : KSt w0 s) : KSt w0 (sendNak p s) := by
  unfold sendNak
  repeat' first
    | with_reducible assumption
    | with_reducible intro _
    | with_reducible apply setSlink_kept
    | with_reducible apply leaveUp_kept
    | with_reducible apply KSt.ite

theorem takeAck_kept {p : Nat} {ack : BitVec 12} {nak : Bool} {s : State} (hs : KSt w0 s) : KSt w0 (takeAck p ack nak s) := by
  unfold takeAck
  repeat' first
    | with_reducible assumption
    | with_reducible intro _
    | with_reducible apply setSlink_kept
    | with_reducible apply leaveUp_kept
    | with_reducible apply KSt.ite
    | with_reducible refine KFst.of_eq (by assumption) ?_
    | with_reducible refine KOpt.of_eq (by assumption) ?_
    | with_reducible refine KFst.fst ?_
    | fail_if_no_progress (with_reducible apply KSt.mk'; on_goal 2 => rfl)
    | split
    | (dsimp only; split)

theorem execLinkIdleTimeout_kept {p : Nat} {s : State} (hs0 : KSt w0 s) : KOut w0 (execLinkIdleTimeout p s) := by
  unfold execLinkIdleTimeout
  repeat' first
    | with_reducible assumption
    | with_reducible apply leaveUp_kept
    | with_reducible apply KOut.inRange

theorem laneLockLoss_kept {p : Nat} {lane : Nat} {s : State} (hs0 : KSt w0 s) : KSt w0 (laneLockLoss p lane s) := by
  unfold laneLockLoss
  repeat' first
    | with_reducible assumption
    | with_reducible apply leaveUp_kept
    | with_reducible apply setSlink_kept

theorem execLaneLockLoss_kept {p : Nat} {lane : Nat} {s : State} (hs0 : KSt w0 s) : KOut w0 (execLaneLockLoss p lane s) := by
  unfold execLaneLockLoss
  repeat' first
    | with_reducible assumption
    | with_reducible apply laneLockLoss_kept
    | with_reducible apply KOut.inRange

theorem handover_kept {p : Nat} {delivered : BitVec 12} {s : State} (hs : KSt w0 s) : KSt w0 (handover p delivered s) := by
  unfold handover
  repeat' first
    | with_reducible assumption
    | with_reducible intro _
    | with_reducible apply setSlink_kept
    | with_reducible apply sendFlit_kept
    | with_reducible apply KSt.ite
    | with_reducible apply KSt.foldl
    | with_reducible apply KFst.foldl
    | with_reducible refine KFst.of_eq (by assumption) ?_
    | with_reducible refine KOpt.of_eq (by assumption) ?_
    | with_reducible refine KFst.fst ?_
    | fail_if_no_progress (with_reducible apply KSt.mk'; on_goal 2 => rfl)
    | split
    | (dsimp only; split)

theorem execHandover_kept {p : Nat} {delivered : BitVec 12} {s : State} (hs0 : KSt w0 s) : KOut w0 (execHandover p delivered s) := by
  unfold execHandover
  repeat' first
    | with_reducible assumption
    | with_reducible apply handover_kept
    | with_reducible apply KOut.inRange

theorem handoverRouteSwitch_kept {p : Nat} {s : State} (hs : KSt w0 s) : KSt w0 (handoverRouteSwitch p s) := by
  unfold handoverRouteSwitch
  repeat' first
    | with_reducible assumption
    | with_reducible intro _
    | with_reducible apply handover_kept
    | with_reducible apply moveRoutes_kept
    | with_reducible apply bringUp_kept
    | with_reducible apply linkEvent_kept
    | with_reducible apply setSlink_kept
    | with_reducible apply KSt.ite
    | with_reducible refine KFst.of_eq (by assumption) ?_
    | with_reducible refine KOpt.of_eq (by assumption) ?_
    | with_reducible refine KFst.fst ?_
    | fail_if_no_progress (with_reducible apply KSt.mk'; on_goal 2 => rfl)
    | split
    | (dsimp only; split)

theorem execHandoverRouteSwitch_kept {p : Nat} {s : State} (hs0 : KSt w0 s) : KOut w0 (execHandoverRouteSwitch p s) := by
  unfold execHandoverRouteSwitch
  repeat' first
    | with_reducible assumption
    | with_reducible apply handoverRouteSwitch_kept
    | with_reducible apply KOut.inRange

theorem loseNode_kept {n : Nat} {s : State} (hs : KSt w0 s) : KSt w0 (loseNode n s) := by
  unfold loseNode
  repeat' first
    | with_reducible assumption
    | with_reducible intro _
    | with_reducible apply poison_kept
    | with_reducible apply collFail_kept
    | with_reducible apply fireSlotError_kept
    | with_reducible apply systemFault_kept
    | with_reducible apply KSt.ite
    | with_reducible apply KFst.mk
    | with_reducible apply KFst.ite
    | with_reducible apply KSt.foldl
    | with_reducible apply KFst.foldl
    | with_reducible refine KFst.of_eq (by assumption) ?_
    | with_reducible refine KOpt.of_eq (by assumption) ?_
    | with_reducible refine KFst.fst ?_
    | fail_if_no_progress (with_reducible apply KSt.mk'; on_goal 2 => rfl)
    | split
    | (dsimp only; split)

theorem form_kept {links : BitVec 6} {times : List W64} {s : State} (hs : KSt w0 s) : KSt w0 (form links times s) := by
  unfold form
  repeat' first
    | with_reducible assumption
    | with_reducible intro _
    | with_reducible apply loseNode_kept
    | with_reducible apply installNode_kept
    | with_reducible apply bringUp_kept
    | with_reducible apply broadcast_kept
    | with_reducible apply releaseHeld_kept
    | with_reducible apply KSt.ite
    | with_reducible apply KSt.foldl
    | with_reducible apply KFst.foldl
    | with_reducible refine KFst.of_eq (by assumption) ?_
    | with_reducible refine KOpt.of_eq (by assumption) ?_
    | with_reducible refine KFst.fst ?_
    | fail_if_no_progress (with_reducible apply KSt.mk'; on_goal 2 => rfl)
    | split
    | (dsimp only; split)

theorem execFormation_kept {links : BitVec 6} {times : List W64} {s : State} (hs : KSt w0 s) : KOut w0 (execFormation links times s) := by
  unfold execFormation
  repeat' first
    | with_reducible assumption
    | with_reducible intro _
    | with_reducible apply inRange_kept
    | with_reducible apply when_kept
    | with_reducible apply form_kept
    | with_reducible apply KOut.inRange
    | with_reducible apply KSt.ite
    | with_reducible refine KFst.of_eq (by assumption) ?_
    | with_reducible refine KOpt.of_eq (by assumption) ?_
    | with_reducible refine KFst.fst ?_
    | fail_if_no_progress (with_reducible apply KSt.mk'; on_goal 2 => rfl)
    | split
    | (dsimp only; split)

theorem execFirstFormationWait_kept {links : BitVec 6} {times : List W64} {waited : Bool} {s : State} (hs0 : KSt w0 s) : KOut w0 (execFirstFormationWait links times waited s) := by
  unfold execFirstFormationWait
  repeat' first
    | with_reducible assumption
    | with_reducible apply when_kept
    | with_reducible apply form_kept
    | with_reducible apply KOut.inRange

theorem execNodeRejoin_kept {links : BitVec 6} {times : List W64} {s : State} (hs0 : KSt w0 s) : KOut w0 (execNodeRejoin links times s) := by
  unfold execNodeRejoin
  repeat' first
    | with_reducible assumption
    | with_reducible apply when_kept
    | with_reducible apply form_kept
    | with_reducible apply KOut.inRange

theorem nodeLoss_kept {n : Nat} {s : State} (hs : KSt w0 s) : KSt w0 (nodeLoss n s) := by
  unfold nodeLoss
  repeat' first
    | with_reducible assumption
    | with_reducible intro _
    | with_reducible apply handover_kept
    | with_reducible apply loseNode_kept
    | with_reducible apply bringUp_kept
    | with_reducible apply KSt.ite
    | with_reducible apply KSt.foldl
    | with_reducible apply KFst.foldl
    | with_reducible refine KFst.of_eq (by assumption) ?_
    | with_reducible refine KOpt.of_eq (by assumption) ?_
    | with_reducible refine KFst.fst ?_
    | fail_if_no_progress (with_reducible apply KSt.mk'; on_goal 2 => rfl)
    | split
    | (dsimp only; split)

theorem execNodeLoss_kept {n : Nat} {s : State} (hs0 : KSt w0 s) : KOut w0 (execNodeLoss n s) := by
  unfold execNodeLoss
  repeat' first
    | with_reducible assumption
    | with_reducible apply nodeLoss_kept
    | with_reducible apply KOut.inRange

theorem nodeLossHoldDown_kept {s : State} (hs0 : KSt w0 s) : KSt w0 (nodeLossHoldDown s) := by
  unfold nodeLossHoldDown
  repeat' first
    | with_reducible assumption
    | with_reducible intro _
    | with_reducible apply KSt.ite
    | fail_if_no_progress (with_reducible apply KSt.mk'; on_goal 2 => rfl)

theorem execNodeLossHoldDown_kept {s : State} (hs0 : KSt w0 s) : KOut w0 (execNodeLossHoldDown s) := by
  unfold execNodeLossHoldDown
  repeat' first
    | with_reducible assumption
    | with_reducible apply nodeLossHoldDown_kept
    | with_reducible apply KOut.inRange

theorem timeSend_kept {s : State} (hs : KSt w0 s) : KSt w0 (timeSend s) := by
  unfold timeSend
  repeat' first
    | with_reducible assumption
    | with_reducible intro _
    | with_reducible apply sendFlit_kept
    | with_reducible apply KSt.ite
    | with_reducible apply KSt.foldl
    | with_reducible apply KFst.foldl
    | with_reducible refine KFst.of_eq (by assumption) ?_
    | with_reducible refine KOpt.of_eq (by assumption) ?_
    | with_reducible refine KFst.fst ?_
    | fail_if_no_progress (with_reducible apply KSt.mk'; on_goal 2 => rfl)
    | split
    | (dsimp only; split)

theorem execTimeSend_kept {s : State} (hs0 : KSt w0 s) : KOut w0 (execTimeSend s) := by
  unfold execTimeSend
  repeat' first
    | with_reducible assumption
    | with_reducible apply timeSend_kept
    | with_reducible apply KOut.inRange

theorem holdStime_kept {s : State} (hs : KSt w0 s) : KSt w0 (holdStime s) := by
  unfold holdStime
  repeat' first
    | with_reducible assumption
    | with_reducible intro _
    | with_reducible apply KSt.ite
    | with_reducible apply KSt.foldl
    | with_reducible apply KFst.foldl
    | with_reducible refine KFst.of_eq (by assumption) ?_
    | with_reducible refine KOpt.of_eq (by assumption) ?_
    | with_reducible refine KFst.fst ?_
    | fail_if_no_progress (with_reducible apply KSt.mk'; on_goal 2 => rfl)
    | split
    | (dsimp only; split)

theorem timeReceive_kept {p : Nat} {sent : W64} {s : State} (hs : KSt w0 s) : KSt w0 (timeReceive p sent s) := by
  unfold timeReceive
  dsimp only
  refine KSt.ite (fun _ => when_kept (fun _ h => releaseHeld_kept h) ?_) (fun _ => hs)
  have h : KSt w0 (when (s.swarm.locked && decide (8 ≤ if decide (-2 ≤ (sent + (getSlink s p).delayNs.zeroExtend 64 - s.swarm.time).toInt
      ∧ (sent + (getSlink s p).delayNs.zeroExtend 64 - s.swarm.time).toInt ≤ 2) = true then 0 else s.swarm.outOfRange + 1)) holdStime s) :=
    when_kept (fun _ h => holdStime_kept h) hs
  exact ⟨h.1, hs.2.1, h.2.2⟩

theorem execTimeReceive_kept {p : Nat} {sent : W64} {s : State} (hs0 : KSt w0 s) : KOut w0 (execTimeReceive p sent s) := by
  unfold execTimeReceive
  repeat' first
    | with_reducible assumption
    | with_reducible apply timeReceive_kept
    | with_reducible apply KOut.inRange

theorem linkDown_kept {p : Nat} {s : State} (hs : KSt w0 s) : KSt w0 (linkDown p s) := by
  unfold linkDown
  repeat' first
    | with_reducible assumption
    | with_reducible intro _
    | with_reducible apply moveRoutes_kept
    | with_reducible apply setSlink_kept
    | with_reducible apply KSt.ite
    | with_reducible refine KFst.of_eq (by assumption) ?_
    | with_reducible refine KOpt.of_eq (by assumption) ?_
    | with_reducible refine KFst.fst ?_
    | fail_if_no_progress (with_reducible apply KSt.mk'; on_goal 2 => rfl)
    | split
    | (dsimp only; split)

theorem linkUp_kept {p : Nat} {c : CmdRef} {s : State} (hs : KSt w0 s) : KSt w0 (linkUp p c s) := by
  unfold linkUp
  repeat' first
    | with_reducible assumption
    | with_reducible intro _
    | with_reducible apply finishCmd_kept
    | with_reducible apply installNode_kept
    | with_reducible apply startTraining_kept
    | with_reducible apply setSlink_kept
    | with_reducible apply KSt.ite
    | with_reducible refine KFst.of_eq (by assumption) ?_
    | with_reducible refine KOpt.of_eq (by assumption) ?_
    | with_reducible refine KFst.fst ?_
    | fail_if_no_progress (with_reducible apply KSt.mk'; on_goal 2 => rfl)
    | split
    | (dsimp only; split)

theorem linkConfig_kept {r : Req} {s : State} (hs : KSt w0 s) : KAns w0 (linkConfig r s) := by
  unfold linkConfig
  repeat' first
    | with_reducible assumption
    | with_reducible intro _
    | with_reducible apply reject_kept
    | with_reducible apply acceptOr_kept
    | with_reducible apply endLinkCmd_kept
    | with_reducible apply finishCmd_kept
    | with_reducible apply linkDown_kept
    | with_reducible apply linkUp_kept
    | with_reducible apply KSt.ite
    | with_reducible apply KAns.ite
    | with_reducible apply KAns.ite
    | with_reducible apply KAns.hold
    | with_reducible apply KAns.reject
    | with_reducible apply KAns.okay
    | with_reducible apply KAns.done
    | with_reducible apply KAns.keep
    | with_reducible apply KAns.wait
    | with_reducible refine KFst.of_eq (by assumption) ?_
    | with_reducible refine KOpt.of_eq (by assumption) ?_
    | with_reducible refine KFst.fst ?_
    | fail_if_no_progress (with_reducible apply KSt.mk'; on_goal 2 => rfl)
    | split
    | (dsimp only; split)

theorem execLinkConfig_kept {m : Nat} {s : State} (hs0 : KSt w0 s) : KOut w0 (execLinkConfig m s) := by
  unfold execLinkConfig
  repeat' first
    | with_reducible assumption
    | with_reducible apply takeUpCard_kept
    | with_reducible apply linkConfig_kept
    | with_reducible apply KOut.inRange

theorem swarmStatus_kept {u0 : Req} {s : State} (hs0 : KSt w0 s) : KAns w0 (swarmStatus u0 s) := by
  unfold swarmStatus
  repeat' first
    | with_reducible assumption
    | with_reducible apply KAns.okay

theorem execSwarmStatus_kept {m : Nat} {s : State} (hs0 : KSt w0 s) : KOut w0 (execSwarmStatus m s) := by
  unfold execSwarmStatus
  repeat' first
    | with_reducible assumption
    | with_reducible apply takeUpCard_kept
    | with_reducible apply swarmStatus_kept
    | with_reducible apply KOut.inRange

end Sys2Proof.Machine
end

