-- ==== Sys2Proof/Laws/KeptRegMap.lean ====
section
/-! SUPPORT. What the operations of Machine/RegMap.lean keep. -/

namespace Sys2Proof.Machine

variable {w0 : List Instr}

theorem readReg_kept {p : RegPlace} {a : Nat} {s : State} (hs0 : KSt w0 s) : KFst w0 (readReg p a s) := by
  unfold readReg
  repeat' first
    | with_reducible assumption
    | with_reducible intro _
    | with_reducible apply KFst.mk
    | fail_if_no_progress (with_reducible apply KSt.mk'; on_goal 2 => rfl)
    | split

end Sys2Proof.Machine
end

