-- ==== Sys2Proof/Laws/KeptPatterns.lean ====
section
/-! SUPPORT. What the operations of Machine/Patterns.lean keep. -/

namespace Sys2Proof.Machine

variable {w0 : List Instr}

theorem patternRun_kept {die : Nat} {g : Nat} {bits : List (List Bool)} {s : State} (hs : KSt w0 s) : KSt w0 (patternRun die g bits s) := by
  unfold patternRun
  repeat' first
    | with_reducible assumption
    | with_reducible intro _
    | with_reducible apply setPat_kept
    | with_reducible apply KSt.ite
    | with_reducible apply KSt.foldl
    | with_reducible apply KFst.foldl
    | with_reducible refine KFst.of_eq (by assumption) ?_
    | with_reducible refine KOpt.of_eq (by assumption) ?_
    | with_reducible refine KFst.fst ?_
    | fail_if_no_progress (with_reducible apply KSt.mk'; on_goal 2 => rfl)
    | split
    | (dsimp only; split)

theorem checkerLocked_kept {die : Nat} {g : Nat} {bits : List (List Bool)} {s : State} (hs : KSt w0 s) : KSt w0 (checkerLocked die g bits s) := by
  unfold checkerLocked
  repeat' first
    | with_reducible assumption
    | with_reducible intro _
    | with_reducible apply patternRun_kept
    | with_reducible apply KSt.ite
    | with_reducible refine KFst.of_eq (by assumption) ?_
    | with_reducible refine KOpt.of_eq (by assumption) ?_
    | with_reducible refine KFst.fst ?_
    | fail_if_no_progress (with_reducible apply KSt.mk'; on_goal 2 => rfl)
    | split
    | (dsimp only; split)

theorem execCheckerLocked_kept {die : Nat} {g : Nat} {bits : List (List Bool)} {s : State} (hs : KSt w0 s) : KOut w0 (execCheckerLocked die g bits s) := by
  unfold execCheckerLocked
  repeat' first
    | with_reducible assumption
    | with_reducible intro _
    | with_reducible apply checkerLocked_kept
    | with_reducible apply KOut.inRange
    | with_reducible apply KSt.ite
    | with_reducible refine KFst.of_eq (by assumption) ?_
    | with_reducible refine KOpt.of_eq (by assumption) ?_
    | with_reducible refine KFst.fst ?_
    | fail_if_no_progress (with_reducible apply KSt.mk'; on_goal 2 => rfl)
    | split
    | (dsimp only; split)

theorem checkerLockLoss_kept {die : Nat} {g : Nat} {before : List (List Bool)} {bits : List (List Bool)} {s : State} (hs : KSt w0 s) : KSt w0 (checkerLockLoss die g before bits s) := by
  unfold checkerLockLoss
  repeat' first
    | with_reducible assumption
    | with_reducible intro _
    | with_reducible apply patternRun_kept
    | with_reducible apply KSt.ite
    | with_reducible refine KFst.of_eq (by assumption) ?_
    | with_reducible refine KOpt.of_eq (by assumption) ?_
    | with_reducible refine KFst.fst ?_
    | fail_if_no_progress (with_reducible apply KSt.mk'; on_goal 2 => rfl)
    | split
    | (dsimp only; split)

theorem execCheckerLockLoss_kept {die : Nat} {g : Nat} {before : List (List Bool)} {bits : List (List Bool)} {s : State} (hs : KSt w0 s) : KOut w0 (execCheckerLockLoss die g before bits s) := by
  unfold execCheckerLockLoss
  repeat' first
    | with_reducible assumption
    | with_reducible intro _
    | with_reducible apply checkerLockLoss_kept
    | with_reducible apply KOut.inRange
    | with_reducible apply KSt.ite
    | with_reducible refine KFst.of_eq (by assumption) ?_
    | with_reducible refine KOpt.of_eq (by assumption) ?_
    | with_reducible refine KFst.fst ?_
    | fail_if_no_progress (with_reducible apply KSt.mk'; on_goal 2 => rfl)
    | split
    | (dsimp only; split)

theorem patCtrl_kept {die : Nat} {g : Nat} {m : W32} {o : W32} {s : State} (hs : KSt w0 s) : KSt w0 (patCtrl die g m o s) := by
  unfold patCtrl
  repeat' first
    | with_reducible assumption
    | with_reducible intro _
    | with_reducible apply setPat_kept
    | with_reducible apply KSt.ite
    | with_reducible refine KFst.of_eq (by assumption) ?_
    | with_reducible refine KOpt.of_eq (by assumption) ?_
    | with_reducible refine KFst.fst ?_
    | fail_if_no_progress (with_reducible apply KSt.mk'; on_goal 2 => rfl)
    | split
    | (dsimp only; split)

end Sys2Proof.Machine
end

