-- ==== Sys2Proof/Laws/KeptRegs.lean ====
section
/-! SUPPORT. What the operations of Machine/Regs.lean keep. -/

namespace Sys2Proof.Machine

variable {w0 : List Instr}

theorem putMbx_kept {i : Nat} {w : Nat} {m : W32} {o : W32} {s : State} (hs0 : KSt w0 s) : KSt w0 (putMbx i w m o s) := by
  unfold putMbx
  repeat' first
    | with_reducible assumption
    | with_reducible apply writeReqTail_kept
    | with_reducible apply writeRspHead_kept
    | with_reducible apply setMbx_kept
    | with_reducible apply writeMbxCtrl_kept
    | split

theorem putSlot_kept {k : Nat} {w : Nat} {m : W32} {o : W32} {s : State} (hs0 : KSt w0 s) : KSt w0 (putSlot k w m o s) := by
  unfold putSlot
  repeat' first
    | with_reducible assumption
    | with_reducible intro _
    | with_reducible apply slotCtrl_kept
    | with_reducible apply setSlot_kept
    | with_reducible apply KSt.ite
    | split

theorem takeTxTail_kept {l : Nat} {v : W32} {s : State} (hs0 : KSt w0 s) : KSt w0 (takeTxTail l v s) := by
  unfold takeTxTail
  repeat' first
    | with_reducible assumption
    | with_reducible intro _
    | with_reducible apply relayPump_kept
    | with_reducible apply setRelay_kept
    | with_reducible apply KSt.ite

theorem takeRxHead_kept {l : Nat} {v : W32} {s : State} (hs0 : KSt w0 s) : KSt w0 (takeRxHead l v s) := by
  unfold takeRxHead
  repeat' first
    | with_reducible assumption
    | with_reducible intro _
    | with_reducible apply setRelay_kept
    | with_reducible apply KSt.ite

theorem putRelayCtrl_kept {l : Nat} {m : W32} {s : State} (hs0 : KSt w0 s) : KFst w0 (putRelayCtrl l m s) := by
  unfold putRelayCtrl
  repeat' first
    | with_reducible assumption
    | with_reducible intro _
    | with_reducible apply setRelay_kept
    | with_reducible apply relayPump_kept
    | with_reducible apply KFst.ite
    | with_reducible apply KFst.mk

theorem putRelay_kept {l : Nat} {w : Nat} {m : W32} {o : W32} {s : State} (hs0 : KSt w0 s) : KFst w0 (putRelay l w m o s) := by
  unfold putRelay
  repeat' first
    | with_reducible assumption
    | with_reducible intro _
    | with_reducible apply takeTxTail_kept
    | with_reducible apply takeRxHead_kept
    | with_reducible apply setRelay_kept
    | with_reducible apply KFst.mk
    | with_reducible refine KFst.fst (putRelayCtrl_kept ?_)
    | split

theorem putIngestCtrl_kept {c : Nat} {m : W32} {s : State} (hs : KSt w0 s) : KFst w0 (putIngestCtrl c m s) := by
  unfold putIngestCtrl
  repeat' first
    | with_reducible assumption
    | with_reducible intro _
    | with_reducible apply stopChannel_kept
    | with_reducible apply setChan_kept
    | with_reducible apply KSt.ite
    | with_reducible apply KFst.ite
    | with_reducible apply KFst.mk
    | with_reducible apply KFst.ite
    | with_reducible refine KFst.of_eq (by assumption) ?_
    | with_reducible refine KOpt.of_eq (by assumption) ?_
    | with_reducible refine KFst.fst ?_
    | fail_if_no_progress (with_reducible apply KSt.mk'; on_goal 2 => rfl)
    | split
    | (dsimp only; split)

theorem putIngest_kept {c : Nat} {w : Nat} {m : W32} {o : W32} {s : State} (hs0 : KSt w0 s) : KFst w0 (putIngest c w m o s) := by
  unfold putIngest
  repeat' first
    | with_reducible assumption
    | with_reducible intro _
    | with_reducible apply takeReleased_kept
    | with_reducible apply setChan_kept
    | with_reducible apply KFst.mk
    | with_reducible refine KFst.fst (putIngestCtrl_kept ?_)
    | split

theorem putCollField_kept {n : Nat} {w : Nat} {m : W32} {s : State} (hs0 : KSt w0 s) : KSt w0 (putCollField n w m s) := by
  unfold putCollField
  repeat' first
    | with_reducible assumption
    | with_reducible intro _
    | with_reducible apply setColl_kept
    | with_reducible apply KSt.ite
    | split

theorem putColl_kept {n : Nat} {w : Nat} {m : W32} {o : W32} {s : State} (hs0 : KSt w0 s) : KSt w0 (putColl n w m o s) := by
  unfold putColl
  repeat' first
    | with_reducible assumption
    | with_reducible intro _
    | with_reducible apply putCollField_kept
    | with_reducible apply collClaim_kept
    | with_reducible apply collCtrl_kept
    | with_reducible apply KSt.ite

theorem putFlashPort_kept {src : W32} {p : Nat} {w : Nat} {m : W32} {o : W32} {mask : W32} {s : State} (hs0 : KSt w0 s) : KSt w0 (putFlashPort src p w m o mask s) := by
  unfold putFlashPort
  repeat' first
    | with_reducible assumption
    | with_reducible intro _
    | with_reducible apply portCmd_kept
    | with_reducible apply setPort_kept
    | with_reducible apply KSt.ite

theorem putHive_kept {p : RegPlace} {m : W32} {o : W32} {s : State} (hs0 : KSt w0 s) : KSt w0 (putHive p m o s) := by
  unfold putHive
  repeat' first
    | with_reducible assumption
    | with_reducible intro _
    | with_reducible apply setQueue_kept
    | with_reducible apply setBank_kept
    | with_reducible apply setDom_kept
    | with_reducible apply setHalted_kept
    | with_reducible apply KSt.ite
    | fail_if_no_progress (with_reducible apply KSt.mk'; on_goal 2 => rfl)
    | split

theorem putDie_kept {p : RegPlace} {m : W32} {o : W32} {s : State} (hs0 : KSt w0 s) : KSt w0 (putDie p m o s) := by
  unfold putDie
  repeat' first
    | with_reducible assumption
    | with_reducible intro _
    | with_reducible apply setSlink_kept
    | with_reducible apply setRegion_kept
    | with_reducible apply setRouter_kept
    | with_reducible apply patCtrl_kept
    | with_reducible apply setPat_kept
    | fail_if_no_progress (with_reducible apply KSt.mk'; on_goal 2 => rfl)
    | split
    | (dsimp only; split)

theorem putReg_kept {p : RegPlace} {v : W32} {mask : W32} {s : State} (hs0 : KSt w0 s) : KFst w0 (putReg p v mask s) := by
  unfold putReg
  repeat' first
    | with_reducible assumption
    | with_reducible intro _
    | with_reducible apply putMbx_kept
    | with_reducible apply setMbx_kept
    | with_reducible apply takeDoorbell_kept
    | with_reducible apply putSlot_kept
    | with_reducible apply putColl_kept
    | with_reducible apply putFlashPort_kept
    | with_reducible apply putDie_kept
    | with_reducible apply putHive_kept
    | with_reducible apply KFst.mk
    | with_reducible refine KFst.fst (putRelay_kept ?_)
    | with_reducible refine KFst.fst (putIngest_kept ?_)
    | split

theorem regWake_kept {p : RegPlace} {s : State} (hs0 : KSt w0 s) : KOpt w0 (regWake p s) := by
  unfold regWake
  repeat' first
    | with_reducible assumption
    | with_reducible intro _
    | with_reducible apply setDom_kept
    | with_reducible apply KSt.foldl
    | with_reducible apply KOpt.ite
    | with_reducible apply KOpt.none
    | with_reducible apply KOpt.some

theorem whenReached_kept {ps : List RegPlace} {f : State → Ans} {s : State} (hf : ∀ y0, KSt w0 y0 → KAns w0 (f y0)) (hs0 : KSt w0 s) : KAns w0 (whenReached ps f s) := by
  unfold whenReached
  repeat' first
    | with_reducible assumption
    | with_reducible intro _
    | with_reducible apply regWake_kept
    | with_reducible apply KAns.reject
    | with_reducible apply KAns.keep
    | with_reducible refine KOpt.of_eq (by assumption) ?_
    | with_reducible apply hf
    | split

theorem readRegs_kept {a : Nat} {l : List RegPlace} {s : State} (h : KSt w0 s) : KFst w0 (readRegs a l s) := by
  induction l generalizing a s with
  | nil => exact h
  | cons p l ih => exact ih (KFst.fst (readReg_kept h))

theorem regRead_kept {r : Req} {s : State} (hs0 : KSt w0 s) : KAns w0 (regRead r s) := by
  unfold regRead
  repeat' first
    | with_reducible assumption
    | with_reducible intro _
    | with_reducible apply remoteAnswer_kept
    | with_reducible apply whenReached_kept
    | with_reducible apply KAns.ite
    | with_reducible apply KAns.reject
    | with_reducible apply KAns.okay
    | with_reducible refine KFst.fst (readRegs_kept ?_)

theorem execRegRead_kept {m : Nat} {s : State} (hs0 : KSt w0 s) : KOut w0 (execRegRead m s) := by
  unfold execRegRead
  repeat' first
    | with_reducible assumption
    | with_reducible apply takeUpCard_kept
    | with_reducible apply regRead_kept
    | with_reducible apply KOut.inRange

theorem regWriteCmd_kept {r : Req} {s : State} (hs0 : KSt w0 s) : KAns w0 (regWriteCmd r s) := by
  unfold regWriteCmd
  repeat' first
    | with_reducible assumption
    | with_reducible intro _
    | with_reducible apply remoteAnswer_kept
    | with_reducible apply whenReached_kept
    | with_reducible apply KAns.ite
    | with_reducible apply KAns.reject
    | with_reducible apply KAns.okay
    | with_reducible refine KFst.fst (putReg_kept ?_)
    | split

theorem execRegWrite_kept {m : Nat} {s : State} (hs0 : KSt w0 s) : KOut w0 (execRegWrite m s) := by
  unfold execRegWrite
  repeat' first
    | with_reducible assumption
    | with_reducible apply takeUpCard_kept
    | with_reducible apply regWriteCmd_kept
    | with_reducible apply KOut.inRange

theorem regWriteRow_kept {q : RegPlace → W32 → W32 → Bool} {m : Nat} {s : State} (hs0 : KSt w0 s) : KSt w0 (regWriteRow q m s) := by
  unfold regWriteRow
  repeat' first
    | with_reducible assumption
    | with_reducible intro _
    | with_reducible apply takeUpCard_kept
    | with_reducible apply regWriteCmd_kept
    | with_reducible apply KSt.ite

theorem execRegionBindWrite_kept {m : Nat} {s : State} (hs0 : KSt w0 s) : KOut w0 (execRegionBindWrite m s) := by
  unfold execRegionBindWrite
  repeat' first
    | with_reducible assumption
    | with_reducible apply regWriteRow_kept
    | with_reducible apply KOut.inRange

theorem execIngestEnable_kept {m : Nat} {s : State} (hs0 : KSt w0 s) : KOut w0 (execIngestEnable m s) := by
  unfold execIngestEnable
  repeat' first
    | with_reducible assumption
    | with_reducible apply regWriteRow_kept
    | with_reducible apply KOut.inRange

theorem execIngestDisable_kept {m : Nat} {s : State} (hs0 : KSt w0 s) : KOut w0 (execIngestDisable m s) := by
  unfold execIngestDisable
  repeat' first
    | with_reducible assumption
    | with_reducible apply regWriteRow_kept
    | with_reducible apply KOut.inRange

theorem execRelayEnable_kept {m : Nat} {s : State} (hs0 : KSt w0 s) : KOut w0 (execRelayEnable m s) := by
  unfold execRelayEnable
  repeat' first
    | with_reducible assumption
    | with_reducible apply regWriteRow_kept
    | with_reducible apply KOut.inRange

theorem execPatternEnable_kept {m : Nat} {s : State} (hs0 : KSt w0 s) : KOut w0 (execPatternEnable m s) := by
  unfold execPatternEnable
  repeat' first
    | with_reducible assumption
    | with_reducible apply regWriteRow_kept
    | with_reducible apply KOut.inRange

end Sys2Proof.Machine
end

