-- ==== Sys2Proof/Laws/KeptStage.lean ====
section
/-! SUPPORT. What the operations of Machine/Stage.lean keep. -/

namespace Sys2Proof.Machine

variable {w0 : List Instr}

theorem regStage_kept {r : Req} {s : State} (hs : KSt w0 s) : KAns w0 (regStage r s) := by
  unfold regStage
  repeat' first
    | with_reducible assumption
    | with_reducible intro _
    | with_reducible apply reject_kept
    | with_reducible apply remoteAnswer_kept
    | with_reducible apply setBlock_kept
    | with_reducible apply KSt.ite
    | with_reducible apply KAns.ite
    | with_reducible apply KAns.ite
    | with_reducible apply KAns.hold
    | with_reducible apply KAns.reject
    | with_reducible apply KAns.okay
    | with_reducible apply KAns.done
    | with_reducible apply KAns.keep
    | with_reducible apply KAns.wait
    | with_reducible apply KSt.id
    | with_reducible refine KFst.of_eq (by assumption) ?_
    | with_reducible refine KOpt.of_eq (by assumption) ?_
    | with_reducible refine KFst.fst ?_
    | fail_if_no_progress (with_reducible apply KSt.mk'; on_goal 2 => rfl)
    | split
    | (dsimp only; split)

theorem execRegStage_kept {m : Nat} {s : State} (hs0 : KSt w0 s) : KOut w0 (execRegStage m s) := by
  unfold execRegStage
  repeat' first
    | with_reducible assumption
    | with_reducible apply takeUpCard_kept
    | with_reducible apply regStage_kept
    | with_reducible apply KOut.inRange

theorem beginSwitch_kept {die : Nat} {s : State} (hs0 : KSt w0 s) : KSt w0 (beginSwitch die s) := by
  unfold beginSwitch
  repeat' first
    | with_reducible assumption
    | with_reducible intro _
    | with_reducible apply KSt.ite
    | fail_if_no_progress (with_reducible apply KSt.mk'; on_goal 2 => rfl)

theorem sendSet_kept {l : Nat} {blk : Nat} {gen : W16} {s : State} (hs0 : KSt w0 s) : KSt w0 (sendSet l blk gen s) := by
  unfold sendSet
  repeat' first
    | with_reducible assumption
    | with_reducible apply holmiSend_kept
    | with_reducible apply setSeen_kept

theorem beginCommit_kept {id : Nat} {gen : W16} {k : BlockKind} {c : CmdRef} {s : State} (hs0 : KSt w0 s) : KSt w0 (beginCommit id gen k c s) := by
  unfold beginCommit
  repeat' first
    | with_reducible assumption
    | with_reducible apply setBlock_kept
    | with_reducible apply beginSwitch_kept
    | with_reducible apply sendSet_kept
    | split

theorem commit_kept {r : Req} {s : State} (hs : KSt w0 s) : KAns w0 (commit r s) := by
  unfold commit
  repeat' first
    | with_reducible assumption
    | with_reducible intro _
    | with_reducible apply reject_kept
    | with_reducible apply remoteAnswer_kept
    | with_reducible apply setBlock_kept
    | with_reducible apply acceptOr_kept
    | with_reducible apply beginCommit_kept
    | with_reducible apply KSt.ite
    | with_reducible apply KAns.ite
    | with_reducible apply KAns.ite
    | with_reducible apply KAns.hold
    | with_reducible apply KAns.reject
    | with_reducible apply KAns.okay
    | with_reducible apply KAns.done
    | with_reducible apply KAns.keep
    | with_reducible apply KAns.wait
    | with_reducible apply KSt.id
    | with_reducible refine KFst.of_eq (by assumption) ?_
    | with_reducible refine KOpt.of_eq (by assumption) ?_
    | with_reducible refine KFst.fst ?_
    | fail_if_no_progress (with_reducible apply KSt.mk'; on_goal 2 => rfl)
    | split
    | (dsimp only; split)

theorem execCommit_kept {m : Nat} {s : State} (hs0 : KSt w0 s) : KOut w0 (execCommit m s) := by
  unfold execCommit
  repeat' first
    | with_reducible assumption
    | with_reducible apply takeUpCard_kept
    | with_reducible apply commit_kept
    | with_reducible apply KOut.inRange

theorem stageDiscard_kept {r : Req} {s : State} (hs : KSt w0 s) : KAns w0 (stageDiscard r s) := by
  unfold stageDiscard
  repeat' first
    | with_reducible assumption
    | with_reducible intro _
    | with_reducible apply reject_kept
    | with_reducible apply remoteAnswer_kept
    | with_reducible apply setBlock_kept
    | with_reducible apply KSt.ite
    | with_reducible apply KAns.ite
    | with_reducible apply KAns.ite
    | with_reducible apply KAns.hold
    | with_reducible apply KAns.reject
    | with_reducible apply KAns.okay
    | with_reducible apply KAns.done
    | with_reducible apply KAns.keep
    | with_reducible apply KAns.wait
    | with_reducible apply KSt.id
    | with_reducible refine KFst.of_eq (by assumption) ?_
    | with_reducible refine KOpt.of_eq (by assumption) ?_
    | with_reducible refine KFst.fst ?_
    | fail_if_no_progress (with_reducible apply KSt.mk'; on_goal 2 => rfl)
    | split
    | (dsimp only; split)

theorem execStageDiscard_kept {m : Nat} {s : State} (hs0 : KSt w0 s) : KOut w0 (execStageDiscard m s) := by
  unfold execStageDiscard
  repeat' first
    | with_reducible assumption
    | with_reducible apply takeUpCard_kept
    | with_reducible apply stageDiscard_kept
    | with_reducible apply KOut.inRange

end Sys2Proof.Machine
end

