-- ==== Sys2Proof/Laws/KeptAccess.lean ====
section
/-! SUPPORT. What the operations of Machine/Access.lean keep. -/

namespace Sys2Proof.Machine

variable {w0 : List Instr}

theorem refuseReg_kept {src : W32} {a : Nat} {s : State} (hs0 : KSt w0 s) : KSt w0 (refuseReg src a s) := by
  unfold refuseReg
  repeat' first
    | with_reducible assumption
    | with_reducible apply refuseWrite_kept

theorem relayIndexWrite_kept {src : W32} {l : Nat} {head : Bool} {v : W32} {s : State} (hs0 : KSt w0 s) : KSt w0 (relayIndexWrite src l head v s) := by
  unfold relayIndexWrite
  repeat' first
    | with_reducible assumption
    | with_reducible intro _
    | with_reducible apply takeRxHead_kept
    | with_reducible apply takeTxTail_kept
    | with_reducible apply answer_kept
    | with_reducible apply refuseReg_kept
    | split

theorem execTxTailWrite_kept {src : W32} {l : Nat} {v : W32} {s : State} (hs0 : KSt w0 s) : KOut w0 (execTxTailWrite src l v s) := by
  unfold execTxTailWrite
  repeat' first
    | with_reducible assumption
    | with_reducible apply relayIndexWrite_kept
    | with_reducible apply KOut.inRange

theorem execRxHeadWrite_kept {src : W32} {l : Nat} {v : W32} {s : State} (hs0 : KSt w0 s) : KOut w0 (execRxHeadWrite src l v s) := by
  unfold execRxHeadWrite
  repeat' first
    | with_reducible assumption
    | with_reducible apply relayIndexWrite_kept
    | with_reducible apply KOut.inRange

theorem directPut_kept {src : W32} {p : RegPlace} {a : Nat} {v : W32} {s : State} (hs : KSt w0 s) : KSt w0 (directPut src p a v s) := by
  unfold directPut
  repeat' first
    | with_reducible assumption
    | with_reducible intro _
    | with_reducible apply answer_kept
    | with_reducible apply refuseReg_kept
    | with_reducible apply mbxWrite_kept
    | with_reducible apply putMbx_kept
    | with_reducible apply mbxDoorbell_kept
    | with_reducible apply queueDoorbell_kept
    | with_reducible apply putSlot_kept
    | with_reducible apply refuseWrite_kept
    | with_reducible apply inboxSubmit_kept
    | with_reducible apply inboxWrite_kept
    | with_reducible apply relayIndexWrite_kept
    | with_reducible apply putFlashPort_kept
    | with_reducible apply partitionHalted_kept
    | with_reducible apply putReg_kept
    | with_reducible apply writeCollCtrl_kept
    | with_reducible apply putCollField_kept
    | with_reducible apply ingestReleasedWrite_kept
    | with_reducible apply KSt.ite
    | with_reducible apply KFst.mk
    | with_reducible apply KFst.ite
    | with_reducible apply KSt.id
    | with_reducible refine KFst.of_eq (by assumption) ?_
    | with_reducible refine KOpt.of_eq (by assumption) ?_
    | with_reducible refine KFst.fst ?_
    | fail_if_no_progress (with_reducible apply KSt.mk'; on_goal 2 => rfl)
    | split
    | (dsimp only; split)

theorem misshapenWrite_kept {src : W32} {p : RegPlace} {a : Nat} {s : State} (hs : KSt w0 s) : KSt w0 (misshapenWrite src p a s) := by
  unfold misshapenWrite
  repeat' first
    | with_reducible assumption
    | with_reducible intro _
    | with_reducible apply answer_kept
    | with_reducible apply foreignWrite_kept
    | with_reducible apply refuseWrite_kept
    | with_reducible apply refuseReg_kept
    | with_reducible apply KSt.ite
    | with_reducible refine KFst.of_eq (by assumption) ?_
    | with_reducible refine KOpt.of_eq (by assumption) ?_
    | with_reducible refine KFst.fst ?_
    | fail_if_no_progress (with_reducible apply KSt.mk'; on_goal 2 => rfl)
    | split
    | (dsimp only; split)

theorem registerOut_kept {src : W32} {a : Nat} {s : State} (hs : KSt w0 s) : KSt w0 (registerOut src a s) := by
  unfold registerOut
  repeat' first
    | with_reducible assumption
    | with_reducible intro _
    | with_reducible apply noticeDomain_kept
    | with_reducible apply answer_kept
    | with_reducible apply noticeOf_kept
    | with_reducible apply KSt.ite
    | with_reducible apply KSt.foldl
    | with_reducible apply KFst.foldl
    | with_reducible refine KFst.of_eq (by assumption) ?_
    | with_reducible refine KOpt.of_eq (by assumption) ?_
    | with_reducible refine KFst.fst ?_
    | fail_if_no_progress (with_reducible apply KSt.mk'; on_goal 2 => rfl)
    | split
    | (dsimp only; split)

theorem registerWrite_kept {src : W32} {a : Nat} {size : Nat} {data : Bytes} {s : State} (hs : KSt w0 s) : KSt w0 (registerWrite src a size data s) := by
  unfold registerWrite
  repeat' first
    | with_reducible assumption
    | with_reducible intro _
    | with_reducible apply registerOut_kept
    | with_reducible apply answer_kept
    | with_reducible apply fencePort_kept
    | with_reducible apply misshapenWrite_kept
    | with_reducible apply directPut_kept
    | with_reducible apply KSt.ite
    | with_reducible refine KFst.of_eq (by assumption) ?_
    | with_reducible refine KOpt.of_eq (by assumption) ?_
    | with_reducible refine KFst.fst ?_
    | fail_if_no_progress (with_reducible apply KSt.mk'; on_goal 2 => rfl)
    | split
    | (dsimp only; split)

theorem registerRead_kept {src : W32} {a : Nat} {size : Nat} {s : State} (hs : KSt w0 s) : KSt w0 (registerRead src a size s) := by
  unfold registerRead
  repeat' first
    | with_reducible assumption
    | with_reducible intro _
    | with_reducible apply registerOut_kept
    | with_reducible apply answer_kept
    | with_reducible apply readReg_kept
    | with_reducible apply KSt.ite
    | with_reducible refine KFst.of_eq (by assumption) ?_
    | with_reducible refine KOpt.of_eq (by assumption) ?_
    | with_reducible refine KFst.fst ?_
    | fail_if_no_progress (with_reducible apply KSt.mk'; on_goal 2 => rfl)
    | split
    | (dsimp only; split)

theorem outOfView_kept {src : W32} {s : State} (hs : KSt w0 s) : KSt w0 (outOfView src s) := by
  unfold outOfView
  repeat' first
    | with_reducible assumption
    | with_reducible intro _
    | with_reducible apply asSeen_kept
    | with_reducible apply answer_kept
    | with_reducible apply KSt.ite
    | with_reducible refine KFst.of_eq (by assumption) ?_
    | with_reducible refine KOpt.of_eq (by assumption) ?_
    | with_reducible refine KFst.fst ?_
    | fail_if_no_progress (with_reducible apply KSt.mk'; on_goal 2 => rfl)
    | split
    | (dsimp only; split)

theorem whenStamped_kept {src : W32} {f : State → State} {s : State} (hf : ∀ y0, KSt w0 y0 → KSt w0 (f y0)) (hs : KSt w0 s) :
    KSt w0 (whenStamped src f s) := when_kept hf hs

theorem execDirectRegisterWrite_kept {src : W32} {addr : BitVec 48} {v : W32} {s : State} (hs : KSt w0 s) : KOut w0 (execDirectRegisterWrite src addr v s) := by
  unfold execDirectRegisterWrite
  repeat' first
    | with_reducible assumption
    | with_reducible intro _
    | with_reducible apply inRange_kept
    | with_reducible apply KOut.inRange
    | with_reducible apply whenStamped_kept
    | with_reducible apply asSeen_kept
    | with_reducible apply registerWrite_kept
    | with_reducible apply outOfView_kept
    | with_reducible apply KOut.inRange
    | with_reducible apply KSt.ite
    | with_reducible refine KFst.of_eq (by assumption) ?_
    | with_reducible refine KOpt.of_eq (by assumption) ?_
    | with_reducible refine KFst.fst ?_
    | fail_if_no_progress (with_reducible apply KSt.mk'; on_goal 2 => rfl)
    | split
    | (dsimp only; split)

theorem ringAccess_kept {src : W32} {m : Nat} {write : Bool} {a : Nat} {n : Nat} {data : Bytes} {s : State} (hs : KSt w0 s) : KSt w0 (ringAccess src m write a n data s) := by
  unfold ringAccess
  repeat' first
    | with_reducible assumption
    | with_reducible intro _
    | with_reducible apply answer_kept
    | with_reducible apply memWrite_kept
    | with_reducible apply failedRead_kept
    | with_reducible apply foreignCount_kept
    | with_reducible apply KSt.ite
    | with_reducible apply KSt.foldl
    | with_reducible apply KFst.foldl
    | with_reducible refine KFst.of_eq (by assumption) ?_
    | with_reducible refine KOpt.of_eq (by assumption) ?_
    | with_reducible refine KFst.fst ?_
    | fail_if_no_progress (with_reducible apply KSt.mk'; on_goal 2 => rfl)
    | split
    | (dsimp only; split)

theorem windowAccess_kept {src : W32} {k : Nat} {write : Bool} {a : Nat} {n : Nat} {data : Bytes} {s : State} (hs : KSt w0 s) : KSt w0 (windowAccess src k write a n data s) := by
  unfold windowAccess
  repeat' first
    | with_reducible assumption
    | with_reducible intro _
    | with_reducible apply answer_kept
    | with_reducible apply tgtPresent_kept
    | with_reducible apply KSt.ite
    | with_reducible apply KFst.mk
    | with_reducible apply KFst.ite
    | with_reducible apply KSt.foldl
    | with_reducible apply KFst.foldl
    | with_reducible refine KFst.of_eq (by assumption) ?_
    | with_reducible refine KOpt.of_eq (by assumption) ?_
    | with_reducible refine KFst.fst ?_
    | fail_if_no_progress (with_reducible apply KSt.mk'; on_goal 2 => rfl)
    | split
    | (dsimp only; split)

theorem portWrite_kept {src : W32} {a : Nat} {n : Nat} {data : Bytes} {s : State} (hs : KSt w0 s) : KSt w0 (portWrite src a n data s) := by
  unfold portWrite
  repeat' first
    | with_reducible assumption
    | with_reducible intro _
    | with_reducible apply registerWrite_kept
    | with_reducible apply KSt.ite
    | with_reducible refine KFst.of_eq (by assumption) ?_
    | with_reducible refine KOpt.of_eq (by assumption) ?_
    | with_reducible refine KFst.fst ?_
    | fail_if_no_progress (with_reducible apply KSt.mk'; on_goal 2 => rfl)
    | split
    | (dsimp only; split)

theorem memoryAccess_kept {src : W32} {write : Bool} {a : Nat} {n : Nat} {data : Bytes} {s : State} (hs : KSt w0 s) : KSt w0 (memoryAccess src write a n data s) := by
  unfold memoryAccess
  repeat' first
    | with_reducible assumption
    | with_reducible intro _
    | with_reducible apply unitWrite_kept
    | with_reducible apply answer_kept
    | with_reducible apply unitRead_kept
    | with_reducible apply failedRead_kept
    | with_reducible apply KSt.ite
    | with_reducible refine KFst.of_eq (by assumption) ?_
    | with_reducible refine KOpt.of_eq (by assumption) ?_
    | with_reducible refine KFst.fst ?_
    | fail_if_no_progress (with_reducible apply KSt.mk'; on_goal 2 => rfl)
    | split
    | (dsimp only; split)

theorem hostAccess_kept {src : W32} {write : Bool} {a : Nat} {size : Nat} {data : Bytes} {s : State} (hs : KSt w0 s) : KSt w0 (hostAccess src write a size data s) := by
  unfold hostAccess
  repeat' first
    | with_reducible assumption
    | with_reducible intro _
    | with_reducible apply collInputWrite_kept
    | with_reducible apply answer_kept
    | with_reducible apply noticeDomain_kept
    | with_reducible apply portWrite_kept
    | with_reducible apply registerRead_kept
    | with_reducible apply ringAccess_kept
    | with_reducible apply windowAccess_kept
    | with_reducible apply memoryAccess_kept
    | with_reducible apply KSt.ite
    | with_reducible refine KFst.of_eq (by assumption) ?_
    | with_reducible refine KOpt.of_eq (by assumption) ?_
    | with_reducible refine KFst.fst ?_
    | fail_if_no_progress (with_reducible apply KSt.mk'; on_goal 2 => rfl)
    | split
    | (dsimp only; split)

theorem execHostAccess_kept {src : W32} {write : Bool} {addr : BitVec 48} {size : Nat} {data : Bytes} {s : State} (hs : KSt w0 s) : KOut w0 (execHostAccess src write addr size data s) := by
  unfold execHostAccess
  repeat' first
    | with_reducible assumption
    | with_reducible intro _
    | with_reducible apply inRange_kept
    | with_reducible apply KOut.inRange
    | with_reducible apply whenStamped_kept
    | with_reducible apply asSeen_kept
    | with_reducible apply hostAccess_kept
    | with_reducible apply outOfView_kept
    | with_reducible apply KOut.inRange
    | with_reducible apply KSt.ite
    | with_reducible refine KFst.of_eq (by assumption) ?_
    | with_reducible refine KOpt.of_eq (by assumption) ?_
    | with_reducible refine KFst.fst ?_
    | fail_if_no_progress (with_reducible apply KSt.mk'; on_goal 2 => rfl)
    | split
    | (dsimp only; split)

end Sys2Proof.Machine
end

