-- ==== Sys2Proof/Laws/KeptArrive.lean ====
section
/-! SUPPORT. What the operations of Machine/Arrive.lean keep. -/

namespace Sys2Proof.Machine

variable {w0 : List Instr}

theorem asideAnswer_kept {f : State → State} {s : State} (hf : ∀ y0, KSt w0 y0 → KSt w0 (f y0)) (hs : KSt w0 s) : KFst w0 (asideAnswer f s) := by
  unfold asideAnswer
  repeat' first
    | with_reducible assumption
    | with_reducible intro _
    | with_reducible apply hf
    | with_reducible apply KSt.ite
    | with_reducible apply KFst.ite
    | with_reducible apply KFst.mk
    | with_reducible apply KFst.ite
    | with_reducible refine KFst.of_eq (by assumption) ?_
    | with_reducible refine KOpt.of_eq (by assumption) ?_
    | with_reducible refine KFst.fst ?_
    | fail_if_no_progress (with_reducible apply KSt.mk'; on_goal 2 => rfl)
    | split
    | (dsimp only; split)

theorem arriveRead_kept {h : PacketHeader} {d : Nat} {a : Nat} {n : Nat} {s : State} (hs : KSt w0 s) : KFst w0 (arriveRead h d a n s) := by
  unfold arriveRead
  repeat' first
    | with_reducible assumption
    | with_reducible intro _
    | with_reducible apply asideAnswer_kept
    | with_reducible apply hostAccess_kept
    | with_reducible apply takeRead_kept
    | with_reducible apply KSt.ite
    | with_reducible apply KFst.ite
    | with_reducible apply KFst.mk
    | with_reducible apply KFst.ite
    | with_reducible refine KFst.of_eq (by assumption) ?_
    | with_reducible refine KOpt.of_eq (by assumption) ?_
    | with_reducible refine KFst.fst ?_
    | fail_if_no_progress (with_reducible apply KSt.mk'; on_goal 2 => rfl)
    | split
    | (dsimp only; split)

theorem arriveWrite_kept {h : PacketHeader} {d : Nat} {a : Nat} {l : Bytes} {s : State} (hs : KSt w0 s) : KFst w0 (arriveWrite h d a l s) := by
  unfold arriveWrite
  repeat' first
    | with_reducible assumption
    | with_reducible intro _
    | with_reducible apply asideAnswer_kept
    | with_reducible apply hostAccess_kept
    | with_reducible apply takeWrite_kept
    | with_reducible apply KSt.ite
    | with_reducible apply KFst.ite
    | with_reducible apply KFst.mk
    | with_reducible apply KFst.ite
    | with_reducible refine KFst.of_eq (by assumption) ?_
    | with_reducible refine KOpt.of_eq (by assumption) ?_
    | with_reducible refine KFst.fst ?_
    | fail_if_no_progress (with_reducible apply KSt.mk'; on_goal 2 => rfl)
    | split
    | (dsimp only; split)

theorem arriveInline_kept {h : PacketHeader} {d : Nat} {mask : W32} {inl : Bytes} {s : State} (hs : KSt w0 s) : KFst w0 (arriveInline h d mask inl s) := by
  unfold arriveInline
  exact KFst.foldl _ (fun _ _ hp => KFst.ite (fun _ => arriveWrite_kept hp) (fun _ => hp)) (KFst.mk hs)

theorem fenceForward_kept {a : Nat} {w : W64} {s : State} (hs : KSt w0 s) : KSt w0 (fenceForward a w s) := by
  unfold fenceForward
  repeat' first
    | with_reducible assumption
    | with_reducible intro _
    | with_reducible apply fireSlot_kept
    | with_reducible apply setSlot_kept
    | with_reducible apply KSt.ite
    | with_reducible apply KFst.mk
    | with_reducible apply KFst.ite
    | with_reducible apply KSt.foldl
    | with_reducible apply KFst.foldl
    | with_reducible refine KFst.of_eq (by assumption) ?_
    | with_reducible refine KOpt.of_eq (by assumption) ?_
    | with_reducible refine KFst.fst ?_
    | fail_if_no_progress (with_reducible apply KSt.mk'; on_goal 2 => rfl)
    | split
    | (dsimp only; split)

theorem arriveSignal_kept {d : Nat} {k : Packet} {s : State} (hs : KSt w0 s) : KSt w0 (arriveSignal d k s) := by
  unfold arriveSignal
  repeat' first
    | with_reducible assumption
    | with_reducible intro _
    | with_reducible apply pushSignal_kept
    | with_reducible apply countStray_kept
    | with_reducible apply KSt.ite
    | with_reducible refine KFst.of_eq (by assumption) ?_
    | with_reducible refine KOpt.of_eq (by assumption) ?_
    | with_reducible refine KFst.fst ?_
    | fail_if_no_progress (with_reducible apply KSt.mk'; on_goal 2 => rfl)
    | split
    | (dsimp only; split)

theorem arriveRequest_kept {d : Nat} {r : Nat} {k : Packet} {s : State} (hs : KSt w0 s) : KSt w0 (arriveRequest d r k s) := by
  unfold arriveRequest
  repeat' first
    | with_reducible assumption
    | with_reducible intro _
    | with_reducible apply replyTo_kept
    | with_reducible apply tgtPresent_kept
    | with_reducible apply arriveRead_kept
    | with_reducible apply arriveWrite_kept
    | with_reducible apply arriveInline_kept
    | with_reducible apply pushSignal_kept
    | with_reducible apply asideAnswer_kept
    | with_reducible apply registerWrite_kept
    | with_reducible apply KSt.ite
    | with_reducible refine KFst.of_eq (by assumption) ?_
    | with_reducible refine KOpt.of_eq (by assumption) ?_
    | with_reducible refine KFst.fst ?_
    | fail_if_no_progress (with_reducible apply KSt.mk'; on_goal 2 => rfl)
    | split
    | (dsimp only; split)

theorem failedCheck_kept {h : PacketHeader} {s : State} (hs : KSt w0 s) : KSt w0 (failedCheck h s) := by
  unfold failedCheck
  repeat' first
    | with_reducible assumption
    | with_reducible intro _
    | with_reducible apply record_kept
    | with_reducible apply KSt.ite
    | with_reducible refine KFst.of_eq (by assumption) ?_
    | with_reducible refine KOpt.of_eq (by assumption) ?_
    | with_reducible refine KFst.fst ?_
    | fail_if_no_progress (with_reducible apply KSt.mk'; on_goal 2 => rfl)
    | split
    | (dsimp only; split)

theorem takePacket_kept {p : Nat} {k : Packet} {s : State} (hs : KSt w0 s) : KOpt w0 (takePacket p k s) := by
  unfold takePacket
  repeat' first
    | with_reducible assumption
    | with_reducible intro _
    | with_reducible apply carry_kept
    | with_reducible apply faultNotice_kept
    | with_reducible apply countStray_kept
    | with_reducible apply replyTo_kept
    | with_reducible apply noticeDomain_kept
    | with_reducible apply failedCheck_kept
    | with_reducible apply arriveRequest_kept
    | with_reducible apply errRsp_kept
    | with_reducible apply sendAway_kept
    | with_reducible apply arriveSignal_kept
    | with_reducible apply fenceForward_kept
    | with_reducible apply faultCtx_kept
    | with_reducible apply KSt.ite
    | with_reducible apply KOpt.ite
    | with_reducible apply KFst.mk
    | with_reducible apply KFst.ite
    | with_reducible apply KOpt.some
    | with_reducible apply KOpt.none
    | with_reducible refine KFst.of_eq (by assumption) ?_
    | with_reducible refine KOpt.of_eq (by assumption) ?_
    | with_reducible refine KFst.fst ?_
    | fail_if_no_progress (with_reducible apply KSt.mk'; on_goal 2 => rfl)
    | split
    | (dsimp only; split)

theorem ingressStep_kept {p : Nat} {k : Packet} {e : State × List Packet} (h : KFst w0 e) : KFst w0 (ingressStep p e k) := by
  unfold ingressStep
  refine KFst.ite (fun _ => h) (fun _ => ?_)
  have hk := takePacket_kept (p := p) (k := k) h
  generalize takePacket p k e.1 = o at hk
  cases o with
  | none => exact h
  | some t => exact setSlink_kept (hk t rfl)

theorem serveIngress_kept {p : Nat} {s : State} (hs : KSt w0 s) : KSt w0 (serveIngress p s) := by
  unfold serveIngress
  exact setSlink_kept (KFst.fst (KFst.foldl _ (fun _ _ h => ingressStep_kept h) (KFst.mk (setSlink_kept hs))))

theorem serveAll_kept {s : State} (hs : KSt w0 s) : KSt w0 (serveAll s) := by
  unfold serveAll
  repeat' first
    | with_reducible assumption
    | with_reducible intro _
    | with_reducible apply serveIngress_kept
    | with_reducible apply KSt.ite
    | with_reducible apply KSt.foldl
    | with_reducible apply KFst.foldl
    | with_reducible refine KFst.of_eq (by assumption) ?_
    | with_reducible refine KOpt.of_eq (by assumption) ?_
    | with_reducible refine KFst.fst ?_
    | fail_if_no_progress (with_reducible apply KSt.mk'; on_goal 2 => rfl)
    | split
    | (dsimp only; split)

theorem controlReceive_kept {p : Nat} {l : Bytes} {s : State} (hs : KSt w0 s) : KSt w0 (controlReceive p l s) := by
  unfold controlReceive
  repeat' first
    | with_reducible assumption
    | with_reducible intro _
    | with_reducible apply timeReceive_kept
    | with_reducible apply handover_kept
    | with_reducible apply KSt.ite
    | with_reducible refine KFst.of_eq (by assumption) ?_
    | with_reducible refine KOpt.of_eq (by assumption) ?_
    | with_reducible refine KFst.fst ?_
    | fail_if_no_progress (with_reducible apply KSt.mk'; on_goal 2 => rfl)
    | split
    | (dsimp only; split)

theorem flitDelivered_kept {p : Nat} {kind : Nat} {h : W64} {slots : List Bytes} {s : State} (hs : KSt w0 s) : KSt w0 (flitDelivered p kind h slots s) := by
  unfold flitDelivered
  repeat' first
    | with_reducible assumption
    | with_reducible intro _
    | with_reducible apply setSlink_kept
    | with_reducible apply serveIngress_kept
    | with_reducible apply controlReceive_kept
    | with_reducible apply KSt.ite
    | with_reducible refine KFst.of_eq (by assumption) ?_
    | with_reducible refine KOpt.of_eq (by assumption) ?_
    | with_reducible refine KFst.fst ?_
    | fail_if_no_progress (with_reducible apply KSt.mk'; on_goal 2 => rfl)
    | split
    | (dsimp only; split)

theorem linkFlitReceive_kept {p : Nat} {flit : Bytes} {s : State} (hs : KSt w0 s) : KSt w0 (linkFlitReceive p flit s) := by
  unfold linkFlitReceive
  repeat' first
    | with_reducible assumption
    | with_reducible intro _
    | with_reducible apply trainingFlit_kept
    | with_reducible apply sendNak_kept
    | with_reducible apply setSlink_kept
    | with_reducible apply leaveUp_kept
    | with_reducible apply flitDelivered_kept
    | with_reducible apply takeAck_kept
    | with_reducible apply KSt.ite
    | with_reducible refine KFst.of_eq (by assumption) ?_
    | with_reducible refine KOpt.of_eq (by assumption) ?_
    | with_reducible refine KFst.fst ?_
    | fail_if_no_progress (with_reducible apply KSt.mk'; on_goal 2 => rfl)
    | split
    | (dsimp only; split)

theorem execLinkFlitReceive_kept {p : Nat} {flit : Bytes} {s : State} (hs : KSt w0 s) : KOut w0 (execLinkFlitReceive p flit s) := by
  unfold execLinkFlitReceive
  repeat' first
    | with_reducible assumption
    | with_reducible intro _
    | with_reducible apply inRange_kept
    | with_reducible apply linkFlitReceive_kept
    | with_reducible apply KOut.inRange
    | with_reducible apply KSt.ite
    | with_reducible refine KFst.of_eq (by assumption) ?_
    | with_reducible refine KOpt.of_eq (by assumption) ?_
    | with_reducible refine KFst.fst ?_
    | fail_if_no_progress (with_reducible apply KSt.mk'; on_goal 2 => rfl)
    | split
    | (dsimp only; split)

theorem execRouteSwitchDrainEnd_kept {die : Nat} {s : State} (hs : KSt w0 s) : KOut w0 (execRouteSwitchDrainEnd die s) := by
  unfold execRouteSwitchDrainEnd
  repeat' first
    | with_reducible assumption
    | with_reducible intro _
    | with_reducible apply inRange_kept
    | with_reducible apply serveAll_kept
    | with_reducible apply routeSwitchDrainEnd_kept
    | with_reducible apply KOut.inRange
    | with_reducible apply KSt.ite
    | with_reducible refine KFst.of_eq (by assumption) ?_
    | with_reducible refine KOpt.of_eq (by assumption) ?_
    | with_reducible refine KFst.fst ?_
    | fail_if_no_progress (with_reducible apply KSt.mk'; on_goal 2 => rfl)
    | split
    | (dsimp only; split)

theorem commitApply_kept {block : Nat} {s : State} (hs : KSt w0 s) : KSt w0 (commitApply block s) := by
  unfold commitApply
  repeat' first
    | with_reducible assumption
    | with_reducible intro _
    | with_reducible apply applyBlock_kept
    | with_reducible apply serveAll_kept
    | with_reducible apply routeSwitchDrainEnd_kept
    | with_reducible apply KSt.ite
    | with_reducible refine KFst.of_eq (by assumption) ?_
    | with_reducible refine KOpt.of_eq (by assumption) ?_
    | with_reducible refine KFst.fst ?_
    | fail_if_no_progress (with_reducible apply KSt.mk'; on_goal 2 => rfl)
    | split
    | (dsimp only; split)

theorem execCommitApply_kept {block : W32} {s : State} (hs : KSt w0 s) : KOut w0 (execCommitApply block s) := by
  unfold execCommitApply
  repeat' first
    | with_reducible assumption
    | with_reducible intro _
    | with_reducible apply inRange_kept
    | with_reducible apply commitApply_kept
    | with_reducible apply KOut.inRange
    | with_reducible apply KSt.ite
    | with_reducible refine KFst.of_eq (by assumption) ?_
    | with_reducible refine KOpt.of_eq (by assumption) ?_
    | with_reducible refine KFst.fst ?_
    | fail_if_no_progress (with_reducible apply KSt.mk'; on_goal 2 => rfl)
    | split
    | (dsimp only; split)

theorem releaseWrites_kept {s : State} (hs : KSt w0 s) : KSt w0 (releaseWrites s) := by
  unfold releaseWrites
  repeat' first
    | with_reducible assumption
    | with_reducible intro _
    | with_reducible apply portWrite_kept
    | with_reducible apply KSt.ite
    | with_reducible apply KFst.mk
    | with_reducible apply KFst.ite
    | with_reducible apply KSt.foldl
    | with_reducible apply KFst.foldl
    | with_reducible refine KFst.of_eq (by assumption) ?_
    | with_reducible refine KOpt.of_eq (by assumption) ?_
    | with_reducible refine KFst.fst ?_
    | fail_if_no_progress (with_reducible apply KSt.mk'; on_goal 2 => rfl)
    | split
    | (dsimp only; split)

theorem execTgrAnswer_kept {k : Nat} {status : W16} {data : Bytes} {s : State} (hs : KSt w0 s) : KOut w0 (execTgrAnswer k status data s) := by
  unfold execTgrAnswer
  repeat' first
    | with_reducible assumption
    | with_reducible intro _
    | with_reducible apply inRange_kept
    | with_reducible apply releaseWrites_kept
    | with_reducible apply tgrAnswer_kept
    | with_reducible apply KOut.inRange
    | with_reducible apply KSt.ite
    | with_reducible refine KFst.of_eq (by assumption) ?_
    | with_reducible refine KOpt.of_eq (by assumption) ?_
    | with_reducible refine KFst.fst ?_
    | fail_if_no_progress (with_reducible apply KSt.mk'; on_goal 2 => rfl)
    | split
    | (dsimp only; split)

theorem execTgtTimeout_kept {k : Nat} {s : State} (hs : KSt w0 s) : KOut w0 (execTgtTimeout k s) := by
  unfold execTgtTimeout
  repeat' first
    | with_reducible assumption
    | with_reducible intro _
    | with_reducible apply inRange_kept
    | with_reducible apply releaseWrites_kept
    | with_reducible apply tgtTimeout_kept
    | with_reducible apply KOut.inRange
    | with_reducible apply KSt.ite
    | with_reducible refine KFst.of_eq (by assumption) ?_
    | with_reducible refine KOpt.of_eq (by assumption) ?_
    | with_reducible refine KFst.fst ?_
    | fail_if_no_progress (with_reducible apply KSt.mk'; on_goal 2 => rfl)
    | split
    | (dsimp only; split)

theorem execRegionDrainEnd_kept {s : State} (hs : KSt w0 s) : KOut w0 (execRegionDrainEnd s) := by
  unfold execRegionDrainEnd
  repeat' first
    | with_reducible assumption
    | with_reducible intro _
    | with_reducible apply inRange_kept
    | with_reducible apply releaseWrites_kept
    | with_reducible apply regionDrainEnd_kept
    | with_reducible apply KOut.inRange
    | with_reducible apply KSt.ite
    | with_reducible refine KFst.of_eq (by assumption) ?_
    | with_reducible refine KOpt.of_eq (by assumption) ?_
    | with_reducible refine KFst.fst ?_
    | fail_if_no_progress (with_reducible apply KSt.mk'; on_goal 2 => rfl)
    | split
    | (dsimp only; split)

end Sys2Proof.Machine
end

