-- ==== Sys2Proof/Laws/KeptFrameCmd.lean ====
section
/-! SUPPORT. What the operations of Machine/FrameCmd.lean keep. -/

namespace Sys2Proof.Machine

variable {w0 : List Instr}

theorem beginLoad_kept {e : MotEntry} {mask : Nat} {key : Nat} {part : Bool} {hold : Bool} {c : CmdRef} {s : State} (hs : KSt w0 s) : KSt w0 (beginLoad e mask key part hold c s) := by
  unfold beginLoad
  repeat' first
    | with_reducible assumption
    | with_reducible intro _
    | with_reducible apply setCfg_kept
    | with_reducible apply endLoad_kept
    | with_reducible apply startLoad_kept
    | with_reducible apply KSt.ite
    | with_reducible refine KFst.of_eq (by assumption) ?_
    | with_reducible refine KOpt.of_eq (by assumption) ?_
    | with_reducible refine KFst.fst ?_
    | fail_if_no_progress (with_reducible apply KSt.mk'; on_goal 2 => rfl)
    | split
    | (dsimp only; split)

theorem frameLoad_kept {r : Req} {s : State} (hs : KSt w0 s) : KAns w0 (frameLoad r s) := by
  unfold frameLoad
  repeat' first
    | with_reducible assumption
    | with_reducible intro _
    | with_reducible apply reject_kept
    | with_reducible apply acceptOr_kept
    | with_reducible apply setCfg_kept
    | with_reducible apply beginLoad_kept
    | with_reducible apply KSt.ite
    | with_reducible apply KAns.ite
    | with_reducible apply KAns.ite
    | with_reducible apply KAns.hold
    | with_reducible apply KAns.reject
    | with_reducible apply KAns.okay
    | with_reducible apply KAns.done
    | with_reducible apply KAns.keep
    | with_reducible apply KAns.wait
    | with_reducible refine KFst.of_eq (by assumption) ?_
    | with_reducible refine KOpt.of_eq (by assumption) ?_
    | with_reducible refine KFst.fst ?_
    | with_reducible apply KOpt.getD
    | fail_if_no_progress (with_reducible apply KSt.mk'; on_goal 2 => rfl)
    | split
    | (dsimp only; split)

theorem execFrameLoad_kept {m : Nat} {s : State} (hs0 : KSt w0 s) : KOut w0 (execFrameLoad m s) := by
  unfold execFrameLoad
  repeat' first
    | with_reducible assumption
    | with_reducible apply takeUpCard_kept
    | with_reducible apply frameLoad_kept
    | with_reducible apply KOut.inRange

theorem frameMismatch_kept {a : Nat} {s : State} (hs0 : KSt w0 s) : KSt w0 (frameMismatch a s) := by
  unfold frameMismatch
  repeat' first
    | with_reducible assumption
    | with_reducible intro _
    | with_reducible apply setCfg_kept
    | with_reducible apply recordCounted_kept
    | with_reducible apply blankRegions_kept
    | with_reducible apply KSt.ite

theorem frameReadback_kept {upset : List Nat} {r : Req} {s : State} (hs0 : KSt w0 s) : KAns w0 (frameReadback upset r s) := by
  unfold frameReadback
  repeat' first
    | with_reducible assumption
    | with_reducible intro _
    | with_reducible apply acceptOr_kept
    | with_reducible apply finishCmd_kept
    | with_reducible apply frameMismatch_kept
    | with_reducible apply KSt.foldl
    | with_reducible apply KAns.ite
    | with_reducible apply KAns.reject

theorem execFrameReadback_kept {m : Nat} {upset : List Nat} {s : State} (hs0 : KSt w0 s) : KOut w0 (execFrameReadback m upset s) := by
  unfold execFrameReadback
  repeat' first
    | with_reducible assumption
    | with_reducible apply takeUpCard_kept
    | with_reducible apply frameReadback_kept
    | with_reducible apply KOut.inRange

end Sys2Proof.Machine
end

