-- ==== Sys2Proof/Laws/KeptSelfTest.lean ====
section
/-! SUPPORT. What the operations of Machine/SelfTest.lean keep. -/

namespace Sys2Proof.Machine

variable {w0 : List Instr}

theorem loseBytes_kept {a : Nat} {n : Nat} {s : State} (hs0 : KSt w0 s) : KSt w0 (loseBytes a n s) := by
  unfold loseBytes
  repeat' first
    | with_reducible assumption
    | with_reducible apply memWrite_kept

theorem testEffect_kept {s : State} {t : Nat} (hs0 : KSt w0 s) : KSt w0 (testEffect s t) := by
  unfold testEffect
  repeat' first
    | with_reducible assumption
    | with_reducible intro _
    | with_reducible apply loseBytes_kept
    | with_reducible apply blankRegions_kept
    | with_reducible apply bringUp_kept
    | with_reducible apply setSlink_kept
    | with_reducible apply linkDown_kept
    | with_reducible apply KSt.ite
    | with_reducible apply KSt.foldl

theorem retireNow_kept {x : W32} {s : State} (hs0 : KSt w0 s) : KSt w0 (retireNow x s) := by
  unfold retireNow
  repeat' first
    | with_reducible assumption
    | with_reducible apply retireDie_kept
    | with_reducible apply setSlink_kept
    | fail_if_no_progress (with_reducible apply KSt.mk'; on_goal 2 => rfl)
    | split

theorem restoreRes_kept {x : W32} {s : State} (hs0 : KSt w0 s) : KSt w0 (restoreRes x s) := by
  unfold restoreRes
  repeat' first
    | with_reducible assumption
    | with_reducible apply bringUp_kept
    | with_reducible apply setSlink_kept
    | fail_if_no_progress (with_reducible apply KSt.mk'; on_goal 2 => rfl)
    | split

theorem runTests_kept {mask : W32} {cut : W32} {failing : List W32} {s : State} (hs0 : KSt w0 s) : KFst w0 (runTests mask cut failing s) := by
  unfold runTests
  repeat' first
    | with_reducible assumption
    | with_reducible intro _
    | with_reducible apply testEffect_kept
    | with_reducible apply record_kept
    | with_reducible apply retireNow_kept
    | with_reducible apply restoreRes_kept
    | with_reducible apply KSt.foldl
    | with_reducible apply KFst.mk

theorem selfTest_kept {cut : W32} {failing : List W32} {r : Req} {s : State} (hs0 : KSt w0 s) : KAns w0 (selfTest cut failing r s) := by
  unfold selfTest
  repeat' first
    | with_reducible assumption
    | with_reducible intro _
    | with_reducible apply acceptOr_kept
    | with_reducible apply finishCmd_kept
    | with_reducible apply KAns.ite
    | with_reducible apply KAns.reject
    | with_reducible refine KFst.fst (runTests_kept ?_)

theorem execSelfTest_kept {m : Nat} {cut : W32} {failing : List W32} {s : State} (hs0 : KSt w0 s) : KOut w0 (execSelfTest m cut failing s) := by
  unfold execSelfTest
  repeat' first
    | with_reducible assumption
    | with_reducible apply takeUpCard_kept
    | with_reducible apply selfTest_kept
    | with_reducible apply KOut.inRange

end Sys2Proof.Machine
end

