-- ==== Sys2Proof/Laws/KeptService.lean ====
section
/-! SUPPORT. What the operations of Machine/Service.lean keep. -/

namespace Sys2Proof.Machine

variable {w0 : List Instr}

theorem withDest_kept {r : Req} {off : Nat} {size : Nat} {anyone : Bool} {f : MotEntry → State → Ans} {s : State} (hf : ∀ y0 y1, KSt w0 y1 → KAns w0 (f y0 y1)) (hs : KSt w0 s) : KAns w0 (withDest r off size anyone f s) := by
  unfold withDest
  repeat' first
    | with_reducible assumption
    | with_reducible intro _
    | with_reducible apply reject_kept
    | with_reducible apply whenAwake_kept
    | with_reducible apply hf
    | with_reducible apply KSt.ite
    | with_reducible apply KAns.ite
    | with_reducible apply KAns.ite
    | with_reducible apply KAns.hold
    | with_reducible apply KAns.reject
    | with_reducible apply KAns.okay
    | with_reducible apply KAns.done
    | with_reducible apply KAns.keep
    | with_reducible apply KAns.wait
    | with_reducible refine KFst.of_eq (by assumption) ?_
    | with_reducible refine KOpt.of_eq (by assumption) ?_
    | with_reducible refine KFst.fst ?_
    | fail_if_no_progress (with_reducible apply KSt.mk'; on_goal 2 => rfl)
    | split
    | (dsimp only; split)

theorem faultRead_kept {r : Req} {s : State} (hs0 : KSt w0 s) : KAns w0 (faultRead r s) := by
  unfold faultRead
  repeat' first
    | with_reducible assumption
    | with_reducible intro _
    | with_reducible apply withDest_kept
    | with_reducible apply memWrite_kept
    | with_reducible apply setMbx_kept
    | with_reducible apply KAns.okay
    | fail_if_no_progress (with_reducible apply KSt.mk'; on_goal 2 => rfl)
    | split

theorem execFaultRead_kept {m : Nat} {s : State} (hs0 : KSt w0 s) : KOut w0 (execFaultRead m s) := by
  unfold execFaultRead
  repeat' first
    | with_reducible assumption
    | with_reducible apply takeUpCard_kept
    | with_reducible apply faultRead_kept
    | with_reducible apply KOut.inRange

theorem faultPolicy_kept {u0 : Req} {s : State} (hs0 : KSt w0 s) : KAns w0 (faultPolicy u0 s) := by
  unfold faultPolicy
  repeat' first
    | with_reducible assumption
    | with_reducible apply KAns.reject

theorem execFaultPolicy_kept {m : Nat} {s : State} (hs0 : KSt w0 s) : KOut w0 (execFaultPolicy m s) := by
  unfold execFaultPolicy
  repeat' first
    | with_reducible assumption
    | with_reducible apply takeUpCard_kept
    | with_reducible apply faultPolicy_kept
    | with_reducible apply KOut.inRange

theorem ctxReset_kept {r : Req} {s : State} (hs0 : KSt w0 s) : KAns w0 (ctxReset r s) := by
  unfold ctxReset
  repeat' first
    | with_reducible assumption
    | with_reducible intro _
    | with_reducible apply withOwnCtx_kept
    | with_reducible apply acceptOr_kept
    | with_reducible apply faultCtx_kept
    | with_reducible apply setCtx_kept

theorem execCtxReset_kept {m : Nat} {s : State} (hs0 : KSt w0 s) : KOut w0 (execCtxReset m s) := by
  unfold execCtxReset
  repeat' first
    | with_reducible assumption
    | with_reducible apply takeUpCard_kept
    | with_reducible apply ctxReset_kept
    | with_reducible apply KOut.inRange

theorem dieRecover_kept {r : Req} {s : State} (hs0 : KSt w0 s) : KAns w0 (dieRecover r s) := by
  unfold dieRecover
  repeat' first
    | with_reducible assumption
    | with_reducible intro _
    | with_reducible apply acceptOr_kept
    | with_reducible apply startRecovery_kept
    | with_reducible apply KAns.ite
    | with_reducible apply KAns.reject

theorem execDieRecover_kept {m : Nat} {s : State} (hs0 : KSt w0 s) : KOut w0 (execDieRecover m s) := by
  unfold execDieRecover
  repeat' first
    | with_reducible assumption
    | with_reducible apply takeUpCard_kept
    | with_reducible apply dieRecover_kept
    | with_reducible apply KOut.inRange

theorem attest_kept {r : Req} {s : State} (hs0 : KSt w0 s) : KAns w0 (attest r s) := by
  unfold attest
  repeat' first
    | with_reducible assumption
    | with_reducible intro _
    | with_reducible apply withDest_kept
    | with_reducible apply memWrite_kept
    | with_reducible apply KAns.okay
    | fail_if_no_progress (with_reducible apply KSt.mk'; on_goal 2 => rfl)

theorem execAttest_kept {m : Nat} {s : State} (hs0 : KSt w0 s) : KOut w0 (execAttest m s) := by
  unfold execAttest
  repeat' first
    | with_reducible assumption
    | with_reducible apply takeUpCard_kept
    | with_reducible apply attest_kept
    | with_reducible apply KOut.inRange

theorem keyRamWrite_kept {r : Req} {s : State} (hs : KSt w0 s) : KAns w0 (keyRamWrite r s) := by
  unfold keyRamWrite
  repeat' first
    | with_reducible assumption
    | with_reducible intro _
    | with_reducible apply reject_kept
    | with_reducible apply whenAwake_kept
    | with_reducible apply keeperCheckRecord_kept
    | with_reducible apply KSt.ite
    | with_reducible apply KAns.ite
    | with_reducible apply KAns.ite
    | with_reducible apply KAns.hold
    | with_reducible apply KAns.reject
    | with_reducible apply KAns.okay
    | with_reducible apply KAns.done
    | with_reducible apply KAns.keep
    | with_reducible apply KAns.wait
    | with_reducible refine KFst.of_eq (by assumption) ?_
    | with_reducible refine KOpt.of_eq (by assumption) ?_
    | with_reducible refine KFst.fst ?_
    | fail_if_no_progress (with_reducible apply KSt.mk'; on_goal 2 => rfl)
    | split
    | (dsimp only; split)

theorem execKeyRamWrite_kept {m : Nat} {s : State} (hs0 : KSt w0 s) : KOut w0 (execKeyRamWrite m s) := by
  unfold execKeyRamWrite
  repeat' first
    | with_reducible assumption
    | with_reducible apply takeUpCard_kept
    | with_reducible apply keyRamWrite_kept
    | with_reducible apply KOut.inRange

theorem settings_kept {r : Req} {s : State} (hs0 : KSt w0 s) : KAns w0 (settings r s) := by
  unfold settings
  repeat' first
    | with_reducible assumption
    | with_reducible intro _
    | with_reducible apply putSetting_kept
    | with_reducible apply KAns.ite
    | with_reducible apply KAns.hold
    | with_reducible apply KAns.reject
    | with_reducible apply KAns.okay
    | split

theorem execSettings_kept {m : Nat} {s : State} (hs0 : KSt w0 s) : KOut w0 (execSettings m s) := by
  unfold execSettings
  repeat' first
    | with_reducible assumption
    | with_reducible apply takeUpCard_kept
    | with_reducible apply settings_kept
    | with_reducible apply KOut.inRange

theorem lifetimeRead_kept {r : Req} {s : State} (hs0 : KSt w0 s) : KAns w0 (lifetimeRead r s) := by
  unfold lifetimeRead
  repeat' first
    | with_reducible assumption
    | with_reducible intro _
    | with_reducible apply withDest_kept
    | with_reducible apply memWrite_kept
    | with_reducible apply KAns.okay

theorem execLifetimeRead_kept {m : Nat} {s : State} (hs0 : KSt w0 s) : KOut w0 (execLifetimeRead m s) := by
  unfold execLifetimeRead
  repeat' first
    | with_reducible assumption
    | with_reducible apply takeUpCard_kept
    | with_reducible apply lifetimeRead_kept
    | with_reducible apply KOut.inRange

theorem safetyStatus_kept {u0 : Req} {s : State} (hs0 : KSt w0 s) : KAns w0 (safetyStatus u0 s) := by
  unfold safetyStatus
  repeat' first
    | with_reducible assumption
    | with_reducible apply KAns.okay

theorem execSafetyStatus_kept {m : Nat} {s : State} (hs0 : KSt w0 s) : KOut w0 (execSafetyStatus m s) := by
  unfold execSafetyStatus
  repeat' first
    | with_reducible assumption
    | with_reducible apply takeUpCard_kept
    | with_reducible apply safetyStatus_kept
    | with_reducible apply KOut.inRange

theorem fuseWrite_kept {f : Nat} {lock : Bool} {v : List Bool} {s : State} (hs0 : KSt w0 s) : KSt w0 (fuseWrite f lock v s) := by
  unfold fuseWrite
  repeat' first
    | with_reducible assumption
    | with_reducible intro _
    | with_reducible apply KSt.ite
    | fail_if_no_progress (with_reducible apply KSt.mk'; on_goal 2 => rfl)

theorem execFuseWrite_kept {field : Nat} {lock : Bool} {v : List Bool} {s : State} (hs0 : KSt w0 s) : KOut w0 (execFuseWrite field lock v s) := by
  unfold execFuseWrite
  repeat' first
    | with_reducible assumption
    | with_reducible apply when_kept
    | with_reducible apply fuseWrite_kept
    | with_reducible apply KOut.inRange

theorem debugUnlock_kept {pubkey : Bytes} {signature : Bytes} {s : State} (hs0 : KSt w0 s) : KSt w0 (debugUnlock pubkey signature s) := by
  unfold debugUnlock
  repeat' first
    | with_reducible assumption
    | with_reducible intro _
    | with_reducible apply lifeCount_kept
    | with_reducible apply KSt.ite
    | fail_if_no_progress (with_reducible apply KSt.mk'; on_goal 2 => rfl)

theorem execDebugUnlock_kept {pubkey : Bytes} {signature : Bytes} {s : State} (hs0 : KSt w0 s) : KOut w0 (execDebugUnlock pubkey signature s) := by
  unfold execDebugUnlock
  repeat' first
    | with_reducible assumption
    | with_reducible apply when_kept
    | with_reducible apply debugUnlock_kept
    | with_reducible apply KOut.inRange

end Sys2Proof.Machine
end

