-- ==== Sys2Proof/Laws/KeptUpdate.lean ====
section
/-! SUPPORT. What the operations of Machine/Update.lean keep. -/

namespace Sys2Proof.Machine

variable {w0 : List Instr}

theorem eraseTarget_kept {nor : Bool} {slot : Bool} {s : State} (hs0 : KSt w0 s) : KSt w0 (eraseTarget nor slot s) := by
  unfold eraseTarget
  repeat' first
    | with_reducible assumption
    | with_reducible intro _
    | with_reducible apply eraseNow_kept
    | with_reducible apply KSt.ite
    | with_reducible apply KSt.foldl
    | fail_if_no_progress (with_reducible apply KSt.mk'; on_goal 2 => rfl)

theorem programTarget_kept {nor : Bool} {slot : Bool} {s : State} {w : Nat × Bytes} (hs0 : KSt w0 s) : KSt w0 (programTarget nor slot s w) := by
  unfold programTarget
  repeat' first
    | with_reducible assumption
    | with_reducible intro _
    | with_reducible apply programNow_kept
    | with_reducible apply KSt.ite
    | fail_if_no_progress (with_reducible apply KSt.mk'; on_goal 2 => rfl)

theorem failTarget_kept {nor : Bool} {slot : Bool} {s : State} (hs0 : KSt w0 s) : KSt w0 (failTarget nor slot s) := by
  unfold failTarget
  repeat' first
    | with_reducible assumption
    | with_reducible intro _
    | with_reducible apply programTarget_kept
    | with_reducible apply setSector_kept
    | with_reducible apply programNow_kept
    | with_reducible apply KSt.ite

theorem applyDelta_kept {l : Bytes} {verifyOk : Bool} {s : State} (hs0 : KSt w0 s) : KFst w0 (applyDelta l verifyOk s) := by
  unfold applyDelta
  repeat' first
    | with_reducible assumption
    | with_reducible intro _
    | with_reducible apply programTarget_kept
    | with_reducible apply eraseTarget_kept
    | with_reducible apply failTarget_kept
    | with_reducible apply programNow_kept
    | with_reducible apply KSt.foldl
    | with_reducible apply KFst.ite
    | with_reducible apply KFst.mk

theorem updateEffect_kept {verifyOk : Bool} {base : Nat} {l : Bytes} {c : CmdRef} {s : State} (hs : KSt w0 s) : KSt w0 (updateEffect verifyOk base l c s) := by
  have hk : KSt w0 (keeperCopy l s).1 := KFst.fst (keeperCopy_kept hs)
  exact finishCmd_kept (freeMot_kept (KSt.fst_ite (fun _ => KFst.fst (applyDelta_kept hk)) (fun _ => keeperCheckRecord_kept hk)))

theorem updateApply_kept {verifyOk : Bool} {r : Req} {s : State} (hs : KSt w0 s) : KAns w0 (updateApply verifyOk r s) := by
  unfold updateApply
  repeat' first
    | with_reducible assumption
    | with_reducible intro _
    | with_reducible apply reject_kept
    | with_reducible apply whenAwake_kept
    | with_reducible apply keeperCopy_kept
    | with_reducible apply acceptOr_kept
    | with_reducible apply updateEffect_kept
    | with_reducible apply KSt.ite
    | with_reducible apply KAns.ite
    | with_reducible apply KAns.ite
    | with_reducible apply KAns.hold
    | with_reducible apply KAns.reject
    | with_reducible apply KAns.okay
    | with_reducible apply KAns.done
    | with_reducible apply KAns.keep
    | with_reducible apply KAns.wait
    | with_reducible refine KFst.of_eq (by assumption) ?_
    | with_reducible refine KOpt.of_eq (by assumption) ?_
    | with_reducible refine KFst.fst ?_
    | fail_if_no_progress (with_reducible apply KSt.mk'; on_goal 2 => rfl)
    | split
    | (dsimp only; split)

theorem execUpdateApply_kept {m : Nat} {verifyOk : Bool} {s : State} (hs0 : KSt w0 s) : KOut w0 (execUpdateApply m verifyOk s) := by
  unfold execUpdateApply
  repeat' first
    | with_reducible assumption
    | with_reducible apply takeUpCard_kept
    | with_reducible apply updateApply_kept
    | with_reducible apply KOut.inRange

theorem rewriteOption_kept {slot : Bool} {trial : Bool} {s : State} (hs0 : KSt w0 s) : KSt w0 (rewriteOption slot trial s) := by
  unfold rewriteOption
  repeat' first
    | with_reducible assumption
    | with_reducible apply writeOption_kept

theorem slotSwitch_kept {r : Req} {s : State} (hs : KSt w0 s) : KAns w0 (slotSwitch r s) := by
  unfold slotSwitch
  repeat' first
    | with_reducible assumption
    | with_reducible intro _
    | with_reducible apply reject_kept
    | with_reducible apply acceptOr_kept
    | with_reducible apply finishCmd_kept
    | with_reducible apply rewriteOption_kept
    | with_reducible apply KSt.ite
    | with_reducible apply KAns.ite
    | with_reducible apply KAns.ite
    | with_reducible apply KAns.hold
    | with_reducible apply KAns.reject
    | with_reducible apply KAns.okay
    | with_reducible apply KAns.done
    | with_reducible apply KAns.keep
    | with_reducible apply KAns.wait
    | with_reducible refine KFst.of_eq (by assumption) ?_
    | with_reducible refine KOpt.of_eq (by assumption) ?_
    | with_reducible refine KFst.fst ?_
    | fail_if_no_progress (with_reducible apply KSt.mk'; on_goal 2 => rfl)
    | split
    | (dsimp only; split)

theorem execSlotSwitch_kept {m : Nat} {s : State} (hs0 : KSt w0 s) : KOut w0 (execSlotSwitch m s) := by
  unfold execSlotSwitch
  repeat' first
    | with_reducible assumption
    | with_reducible apply takeUpCard_kept
    | with_reducible apply slotSwitch_kept
    | with_reducible apply KOut.inRange

end Sys2Proof.Machine
end

