-- ==== Sys2Proof/Laws/Exec.lean ====
section
/-! SUPPORT. What every command keeps: the form of the memories, the node number and the queue. -/

namespace Sys2Proof.Machine

/-- A next state of any command keeps what `KSt` says. -/
theorem exec_kept {p : List Instr} {s : State} (h : KSt p s) (i : Instr) : KOut p (exec i s) := by
  cases i with
  | mbxReqTailWrite => exact execMbxReqTailWrite_kept h
  | mbxRspHeadWrite => exact execMbxRspHeadWrite_kept h
  | mbxDoorbell => exact execMbxDoorbell_kept h
  | ringReset => exact execRingReset_kept h
  | eventDeliver => exact execEventDeliver_kept h
  | cmdDone => exact execCmdDone_kept h
  | getCaps => exact execGetCaps_kept h
  | getOpcodeInfo => exact execGetOpcodeInfo_kept h
  | mbxGrant => exact execMbxGrant_kept h
  | mbxRevoke => exact execMbxRevoke_kept h
  | eventMask => exact execEventMask_kept h
  | ctxCreate => exact execCtxCreate_kept h
  | ctxDestroy => exact execCtxDestroy_kept h
  | moCreate => exact execMoCreate_kept h
  | moDestroy => exact execMoDestroy_kept h
  | moLock => exact execMoLock_kept h
  | queueCreate => exact execQueueCreate_kept h
  | queueDestroy => exact execQueueDestroy_kept h
  | fenceCreate => exact execFenceCreate_kept h
  | fenceRecycle => exact execFenceRecycle_kept h
  | monitorAlloc => exact execMonitorAlloc_kept h
  | jobLoad => exact execJobLoad_kept h
  | regRead => exact execRegRead_kept h
  | regWrite => exact execRegWrite_kept h
  | regStage => exact execRegStage_kept h
  | commit => exact execCommit_kept h
  | stageDiscard => exact execStageDiscard_kept h
  | commitApply => exact execCommitApply_kept h
  | pkgState => exact execPkgState_kept h
  | domainCtrl => exact execDomainCtrl_kept h
  | clockSet => exact execClockSet_kept h
  | wakeConfig => exact execWakeConfig_kept h
  | linkConfig => exact execLinkConfig_kept h
  | swarmStatus => exact execSwarmStatus_kept h
  | frameLoad => exact execFrameLoad_kept h
  | frameReadback => exact execFrameReadback_kept h
  | faultRead => exact execFaultRead_kept h
  | faultPolicy => exact execFaultPolicy_kept h
  | ctxReset => exact execCtxReset_kept h
  | dieRecover => exact execDieRecover_kept h
  | updateApply => exact execUpdateApply_kept h
  | slotSwitch => exact execSlotSwitch_kept h
  | attest => exact execAttest_kept h
  | keyRamWrite => exact execKeyRamWrite_kept h
  | settings => exact execSettings_kept h
  | hm1Msg => exact execHm1Msg_kept h
  | hm1Status => exact execHm1Status_kept h
  | selfTest => exact execSelfTest_kept h
  | lifetimeRead => exact execLifetimeRead_kept h
  | safetyStatus => exact execSafetyStatus_kept h
  | directRegisterWrite => exact execDirectRegisterWrite_kept h
  | queueDoorbell => exact execQueueDoorbell_kept h
  | kernel => exact execKernel_kept h
  | copy => exact execCopy_kept h
  | selectDescriptor => exact execSelectDescriptor_kept h
  | tile => exact execTile_kept h
  | barrier => exact execBarrier_kept h
  | nopDescriptor => exact execNopDescriptor_kept h
  | descriptorFinish => exact execDescriptorFinish_kept h
  | descriptorRetire => exact execDescriptorRetire_kept h
  | fenceSetPort => exact execFenceSetPort_kept h
  | fenceAddPort => exact execFenceAddPort_kept h
  | fenceSignal => exact execFenceSignal_kept h
  | monitorArm => exact execMonitorArm_kept h
  | monitorDisarm => exact execMonitorDisarm_kept h
  | monitorFire => exact execMonitorFire_kept h
  | monitorClosingEvaluate => exact execMonitorClosingEvaluate_kept h
  | nopInstr => exact execNopInstr_kept h
  | endItem => exact execEndItem_kept h
  | jmp => exact execJmp_kept h
  | br => exact execBr_kept h
  | sys => exact execSys_kept h
  | li => exact execLi_kept h
  | lih => exact execLih_kept h
  | add => exact execAdd_kept h
  | sub => exact execSub_kept h
  | andInstr => exact execAndInstr_kept h
  | orInstr => exact execOrInstr_kept h
  | xorInstr => exact execXorInstr_kept h
  | shl => exact execShl_kept h
  | shr => exact execShr_kept h
  | sra => exact execSra_kept h
  | mul => exact execMul_kept h
  | addi => exact execAddi_kept h
  | lda => exact execLda_kept h
  | lds => exact execLds_kept h
  | sts => exact execSts_kept h
  | vld => exact execVld_kept h
  | vst => exact execVst_kept h
  | vldn => exact execVldn_kept h
  | vstn => exact execVstn_kept h
  | vadd => exact execVadd_kept h
  | vsub => exact execVsub_kept h
  | vmul => exact execVmul_kept h
  | vfma => exact execVfma_kept h
  | vdiv => exact execVdiv_kept h
  | vsqrt => exact execVsqrt_kept h
  | vmin => exact execVmin_kept h
  | vmax => exact execVmax_kept h
  | vexp2 => exact execVexp2_kept h
  | vlog2 => exact execVlog2_kept h
  | vrcp => exact execVrcp_kept h
  | vrsqrt => exact execVrsqrt_kept h
  | vtanh => exact execVtanh_kept h
  | vbcast => exact execVbcast_kept h
  | vrsum => exact execVrsum_kept h
  | setnum => exact execSetnum_kept h
  | amax => exact execAmax_kept h
  | mma => exact execMma_kept h
  | aclr => exact execAclr_kept h
  | stacc => exact execStacc_kept h
  | accadd => exact execAccadd_kept h
  | stanc => exact execStanc_kept h
  | ldanc => exact execLdanc_kept h
  | fin => exact execFin_kept h
  | get => exact execGet_kept h
  | put => exact execPut_kept h
  | dmaComplete => exact execDmaComplete_kept h
  | waitf => exact execWaitf_kept h
  | waitfRelease => exact execWaitfRelease_kept h
  | sigf => exact execSigf_kept h
  | collClaim => exact execCollClaim_kept h
  | collRelease => exact execCollRelease_kept h
  | collArm => exact execCollArm_kept h
  | collAbort => exact execCollAbort_kept h
  | collInputWrite => exact execCollInputWrite_kept h
  | collJoin => exact execCollJoin_kept h
  | collAbsorb => exact execCollAbsorb_kept h
  | collResult => exact execCollResult_kept h
  | errRsp => exact execErrRsp_kept h
  | retryTimer => exact execRetryTimer_kept h
  | livelockRescue => exact execLivelockRescue_kept h
  | stallDetect => exact execStallDetect_kept h
  | domainClosed => exact execDomainClosed_kept h
  | domainUp => exact execDomainUp_kept h
  | domainWake => exact execDomainWake_kept h
  | routeSwitchDrainEnd => exact execRouteSwitchDrainEnd_kept h
  | portTrainingStepTimeout => exact execPortTrainingStepTimeout_kept h
  | portTrainingRetry => exact execPortTrainingRetry_kept h
  | ident => exact execIdent_kept h
  | linkFlitReceive => exact execLinkFlitReceive_kept h
  | linkIdleTimeout => exact execLinkIdleTimeout_kept h
  | laneLockLoss => exact execLaneLockLoss_kept h
  | handover => exact execHandover_kept h
  | handoverRouteSwitch => exact execHandoverRouteSwitch_kept h
  | nodeLoss => exact execNodeLoss_kept h
  | nodeLossHoldDown => exact execNodeLossHoldDown_kept h
  | formation => exact execFormation_kept h
  | firstFormationWait => exact execFirstFormationWait_kept h
  | nodeRejoin => exact execNodeRejoin_kept h
  | timeSend => exact execTimeSend_kept h
  | timeReceive => exact execTimeReceive_kept h
  | regionPortRequest => exact execRegionPortRequest_kept h
  | regionPortResponse => exact execRegionPortResponse_kept h
  | tgtRequest => exact execTgtRequest_kept h
  | tgrAnswer => exact execTgrAnswer_kept h
  | tgtTimeout => exact execTgtTimeout_kept h
  | regionBindWrite => exact execRegionBindWrite_kept h
  | tilePortAccess => exact execTilePortAccess_kept h
  | ingestEnable => exact execIngestEnable_kept h
  | ingestDisable => exact execIngestDisable_kept h
  | ingestReleasedWrite => exact execIngestReleasedWrite_kept h
  | frameStart => exact execFrameStart_kept h
  | longPacket => exact execLongPacket_kept h
  | frameEnd => exact execFrameEnd_kept h
  | ethernetFrameReceive => exact execEthernetFrameReceive_kept h
  | ingestFlushTimer => exact execIngestFlushTimer_kept h
  | segmentChecked => exact execSegmentChecked_kept h
  | regionDrainEnd => exact execRegionDrainEnd_kept h
  | regionResetRelease => exact execRegionResetRelease_kept h
  | frameDoneSample => exact execFrameDoneSample_kept h
  | frameDoneStart => exact execFrameDoneStart_kept h
  | startRequestTimeout => exact execStartRequestTimeout_kept h
  | lpddrCheckFail => exact execLpddrCheckFail_kept h
  | residueMismatch => exact execResidueMismatch_kept h
  | hangDetect => exact execHangDetect_kept h
  | contextReset => exact execContextReset_kept h
  | contextResetDrainTimeout => exact execContextResetDrainTimeout_kept h
  | dieRecovery => exact execDieRecovery_kept h
  | flashRead => exact execFlashRead_kept h
  | flashProgram => exact execFlashProgram_kept h
  | flashErase => exact execFlashErase_kept h
  | flashSuspend => exact execFlashSuspend_kept h
  | flashResume => exact execFlashResume_kept h
  | blankCheck => exact execBlankCheck_kept h
  | flashOperationDone => exact execFlashOperationDone_kept h
  | flashWindowRead => exact execFlashWindowRead_kept h
  | flashAutoSuspend => exact execFlashAutoSuspend_kept h
  | flashAutoResume => exact execFlashAutoResume_kept h
  | packageReset => exact execPackageReset_kept h
  | bootChain => exact execBootChain_kept h
  | recoveryHello => exact execRecoveryHello_kept h
  | recoveryErase => exact execRecoveryErase_kept h
  | recoveryWrite => exact execRecoveryWrite_kept h
  | recoveryInstall => exact execRecoveryInstall_kept h
  | recoveryReset => exact execRecoveryReset_kept h
  | vbatRise => exact execVbatRise_kept h
  | wakeSource => exact execWakeSource_kept h
  | pwrEnLower => exact execPwrEnLower_kept h
  | partitionHalted => exact execPartitionHalted_kept h
  | partitionHaltTimeout => exact execPartitionHaltTimeout_kept h
  | supplyStateChange => exact execSupplyStateChange_kept h
  | brownoutReset => exact execBrownoutReset_kept h
  | throttleTick => exact execThrottleTick_kept h
  | thermalHold => exact execThermalHold_kept h
  | thermalTrip => exact execThermalTrip_kept h
  | pmeTurnOff => exact execPmeTurnOff_kept h
  | perstAssert => exact execPerstAssert_kept h
  | perstDeassert => exact execPerstDeassert_kept h
  | wakeAssert => exact execWakeAssert_kept h
  | islandStart => exact execIslandStart_kept h
  | hardwareSafeState r => exact execHardwareSafeState_kept (_reason := r) h
  | windowWatchdogExpiry => exact execWindowWatchdogExpiry_kept h
  | clockSupervisorCheck => exact execClockSupervisorCheck_kept h
  | parameterCrcCheck => exact execParameterCrcCheck_kept h
  | ioCycle => exact execIoCycle_kept h
  | testPulse => exact execTestPulse_kept h
  | outputDarkTest _ low => exact execOutputDarkTest_kept (_low := low) h
  | stopMonitor => exact execStopMonitor_kept h
  | blackChannelFrame => exact execBlackChannelFrame_kept h
  | inboxSubmit => exact execInboxSubmit_kept h
  | connectionSend => exact execConnectionSend_kept h
  | comparisonWindow => exact execComparisonWindow_kept h
  | connectionLost => exact execConnectionLost_kept h
  | connectionDegraded => exact execConnectionDegraded_kept h
  | degradedLimit => exact execDegradedLimit_kept h
  | intervalEnd => exact execIntervalEnd_kept h
  | frequencyWindow => exact execFrequencyWindow_kept h
  | pqEvent => exact execPqEvent_kept h
  | calApplied => exact execCalApplied_kept h
  | calEnChange => exact execCalEnChange_kept h
  | checksumCheck => exact execChecksumCheck_kept h
  | firewallHit => exact execFirewallHit_kept h
  | powerFail => exact execPowerFail_kept h
  | energySnapshot => exact execEnergySnapshot_kept h
  | metRead => exact execMetRead_kept h
  | pqConfig => exact execPqConfig_kept h
  | pqRead => exact execPqRead_kept h
  | metUpdate => exact execMetUpdate_kept h
  | billRead => exact execBillRead_kept h
  | recordRead => exact execRecordRead_kept h
  | meterSign => exact execMeterSign_kept h
  | creditAdd => exact execCreditAdd_kept h
  | creditRead => exact execCreditRead_kept h
  | logRead => exact execLogRead_kept h
  | tamperRead => exact execTamperRead_kept h
  | logArchive => exact execLogArchive_kept h
  | timeSet => exact execTimeSet_kept h
  | certRead => exact execCertRead_kept h
  | sessionConfig => exact execSessionConfig_kept h
  | authorise => exact execAuthorise_kept h
  | startInlet => exact execStartInlet_kept h
  | closeContactors => exact execCloseContactors_kept h
  | stop => exact execStop_kept h
  | setLimit => exact execSetLimit_kept h
  | sessionStatus => exact execSessionStatus_kept h
  | contactorReset => exact execContactorReset_kept h
  | pilotState => exact execPilotState_kept h
  | ppLost => exact execPpLost_kept h
  | contactorCheck => exact execContactorCheck_kept h
  | stopGraceTimeout => exact execStopGraceTimeout_kept h
  | insulation => exact execInsulation_kept h
  | rdcTrip => exact execRdcTrip_kept h
  | tariffSwitch => exact execTariffSwitch_kept h
  | coverOpen => exact execCoverOpen_kept h
  | linkHoldExpiry => exact execLinkHoldExpiry_kept h
  | hm1Wake => exact execHm1Wake_kept h
  | hm1MainSupplyTimeout => exact execHm1MainSupplyTimeout_kept h
  | plcFrameReceive => exact execPlcFrameReceive_kept h
  | plcAccess => exact execPlcAccess_kept h
  | plcAckSlot => exact execPlcAckSlot_kept h
  | plcHello => exact execPlcHello_kept h
  | routeReq => exact execRouteReq_kept h
  | routeReqRebroadcast => exact execRouteReqRebroadcast_kept h
  | routeRep => exact execRouteRep_kept h
  | routeExpiry => exact execRouteExpiry_kept h
  | routeErr => exact execRouteErr_kept h
  | wakePattern => exact execWakePattern_kept h
  | plcConfig => exact execPlcConfig_kept h
  | plcSend => exact execPlcSend_kept h
  | plcRouteRead => exact execPlcRouteRead_kept h
  | plcStats => exact execPlcStats_kept h
  | plcDiscover => exact execPlcDiscover_kept h
  | holmiFrameReceive => exact execHolmiFrameReceive_kept h
  | holmiResendTimer => exact execHolmiResendTimer_kept h
  | holmiAckOnlyTimer => exact execHolmiAckOnlyTimer_kept h
  | holmiLinkDown => exact execHolmiLinkDown_kept h
  | holmiReplyTimeout => exact execHolmiReplyTimeout_kept h
  | hlinkWake => exact execHlinkWake_kept h
  | relayEnable => exact execRelayEnable_kept h
  | txTailWrite => exact execTxTailWrite_kept h
  | rxHeadWrite => exact execRxHeadWrite_kept h
  | patternEnable => exact execPatternEnable_kept h
  | checkerLockLoss => exact execCheckerLockLoss_kept h
  | vbatLoss => exact execVbatLoss_kept h
  | pcieLinkUp => exact execPcieLinkUp_kept h
  | hostAccess => exact execHostAccess_kept h
  | ucieRetrain => exact execUcieRetrain_kept h
  | laneLock => exact execLaneLock_kept h
  | checkerLocked => exact execCheckerLocked_kept h
  | lifetimeRecord => exact execLifetimeRecord_kept h
  | sramMarchTest => exact execSramMarchTest_kept h
  | safeInputSample => exact execSafeInputSample_kept h
  | thermalHoldRelease => exact execThermalHoldRelease_kept h
  | thermalTripRestart => exact execThermalTripRestart_kept h
  | acLock => exact execAcLock_kept h
  | pqEventStart => exact execPqEventStart_kept h
  | metrologyStart => exact execMetrologyStart_kept h
  | coverClose => exact execCoverClose_kept h
  | fuseWrite => exact execFuseWrite_kept h
  | debugUnlock => exact execDebugUnlock_kept h

end Sys2Proof.Machine
end

