-- ==== Sys2Proof/Laws/Keeper.lean ====
section
/-! SUPPORT. What a take-up does (R39, R44): the answer stands in the response ring, and the rest is what the command made. -/

namespace Sys2Proof.Machine

@[simp] theorem toLE_length (n v : Nat) : (toLE n v).length = n := by
  induction n generalizing v with
  | zero => rfl
  | succ n ih => simp [toLE, ih]

@[simp] theorem slice_length (l : Bytes) (i n : Nat) : (slice l i n).length = n := by
  simp [slice]

@[simp] theorem zeros_length (n : Nat) : (zeros n).length = n := by simp [zeros]

@[simp] theorem answerBytes_length (s : State) (m : Nat) (c : W16) (p : Bytes) : (answerBytes s m c p).length = 64 := by
  simp [answerBytes]

/-- An address of a mailbox ring lies on this node and outside the fence area. -/
theorem ring_place (s : State) (hn : s.swarm.node < 4) (m i : Nat) (hm : m < 32) (hi : ringAddr s m ≤ i) (hj : i < ringAddr s m + 0x800) :
    addrNode i = s.swarm.node ∧ fenceIndex s i = none ∧ i < 2 ^ 48 := by
  simp only [ringAddr, here, swarmAddr] at hi hj
  refine ⟨?_, ?_, ?_⟩
  · simp only [addrNode]; omega
  · unfold fenceIndex
    rw [if_neg]
    simp only [addrNode, addrDie, addrLoc, fenceBaseLoc]
    omega
  · omega

@[simp] theorem mbxIrq_rest (m : Nat) (s : State) :
    (mbxIrq m s).obj = s.obj ∧ (mbxIrq m s).mem = s.mem ∧ (mbxIrq m s).cmp = s.cmp ∧ (mbxIrq m s).net = s.net
    ∧ (mbxIrq m s).swarm = s.swarm ∧ (mbxIrq m s).frame = s.frame ∧ (mbxIrq m s).faults = s.faults
    ∧ (mbxIrq m s).flash = s.flash ∧ (mbxIrq m s).boot = s.boot ∧ (mbxIrq m s).power = s.power
    ∧ (mbxIrq m s).island = s.island ∧ (mbxIrq m s).holmi = s.holmi ∧ (mbxIrq m s).test = s.test
    ∧ (mbxIrq m s).free = s.free ∧ (mbxIrq m s).pending = s.pending
    ∧ (mbxIrq m s).keeper.mbx = s.keeper.mbx ∧ (mbxIrq m s).keeper.blocks = s.keeper.blocks := by
  unfold mbxIrq
  split
  · dsimp only
    split <;> simp [raiseIrq]
  · simp

/-- A message put into a response ring: it stands there, RSP_TAIL has advanced, and no other part of the state has changed but the
ring, RSP_TAIL and the interrupts. -/
theorem putMsg_spec (m : Nat) (op : W16) (flags tag : Byte) (status : W16) (p : Bytes) (s : State) (hn : s.swarm.node < 4) (hm : m < 32) :
    let t := putMsg m op flags tag status p s
    lastMessage t m = toLE 2 op.toNat ++ [flags, tag] ++ toLE 2 p.length ++ toLE 2 status.toNat ++ slice p 0 56
    ∧ getMbx t m = { getMbx s m with rspTail := (getMbx s m).rspTail + 1 } := by
  have hmbx : getMbx (putMsg m op flags tag status p s) m = { getMbx s m with rspTail := (getMbx s m).rspTail + 1 } := by
    simp [putMsg, getMbx, setMbx]
  refine ⟨?_, hmbx⟩
  simp only [lastMessage, hmbx]
  have e : (getMbx s m).rspTail + 1 - 1 = (getMbx s m).rspTail := by simp
  rw [e]
  generalize hk : (getMbx s m).rspTail.toNat % 16 = k
  have hk16 : k < 16 := by omega
  generalize hmsg : toLE 2 op.toNat ++ [flags, tag] ++ toLE 2 p.length ++ toLE 2 status.toNat ++ slice p 0 56 = msg
  have hlen : msg.length = 64 := by rw [← hmsg]; simp
  have hr : ringAddr (putMsg m op flags tag status p s) m = ringAddr s m := by simp [putMsg, ringAddr, here]
  have hput : putMsg m op flags tag status p s
      = mbxIrq m (setMbx (memWrite s (ringAddr s m + 0x400 + 64 * k) msg) m { getMbx s m with rspTail := (getMbx s m).rspTail + 1 }) := by
    rw [← hmsg, ← hk]; rfl
  have hb : memRead (putMsg m op flags tag status p s) (ringAddr s m + 0x400 + 64 * k) 64
      = memRead (memWrite s (ringAddr s m + 0x400 + 64 * k) msg) (ringAddr s m + 0x400 + 64 * k) 64 := by
    apply memRead_congr
    intro i _ _
    rw [hput]
    apply memByte_congr <;> simp
  rw [hr, hb]
  have := memRead_memWrite s (ringAddr s m + 0x400 + 64 * k) msg
    (fun i h1 h2 => by
      have := ring_place s hn m i hm (by omega) (by omega)
      exact ⟨this.1, this.2.1⟩)
    (ring_place s hn m (ringAddr s m + 0x400 + 64 * k) hm (by omega) (by omega)).2.2
  rw [hlen] at this
  exact this

/-- What `putMsg` leaves. -/
@[simp] theorem putMsg_rest (m : Nat) (op : W16) (flags tag : Byte) (status : W16) (p : Bytes) (s : State) :
    let t := putMsg m op flags tag status p s
    t.obj = s.obj ∧ t.cmp = s.cmp ∧ t.net = s.net ∧ t.swarm = s.swarm ∧ t.frame = s.frame ∧ t.faults = s.faults
    ∧ t.flash = s.flash ∧ t.boot = s.boot ∧ t.power = s.power ∧ t.island = s.island ∧ t.holmi = s.holmi ∧ t.test = s.test
    ∧ t.free = s.free ∧ t.pending = s.pending ∧ t.keeper.blocks = s.keeper.blocks := by
  simp [putMsg]

/-- The answer that a take-up gives to a request asked, whatever the command does with it. -/
def answered (m : Nat) (s : State) (x : Ans) : State :=
  match x with
  | .hold => roundPast m s
  | .keep t => putBack m s t
  | .wait t => setMbx t m { getMbx t m with waiting := some { m := m, opcode := (reqOf s m).opcode, tag := (reqOf s m).tag } }
  | .done t status p => respond m (reqOf s m).opcode (byteAt (reqBytes s m) 2) (reqOf s m).tag status p t

/-- A request asked is taken up. -/
theorem takeUp_asked {op m : Nat} {s : State} {act : Req → State → Ans} (h : asked op m s = true) :
    takeUp op act m s = answered m s (act (reqOf s m) (taken s m)) := by
  simp only [asked, requestWaits, Bool.and_eq_true, decide_eq_true_eq, beq_iff_eq] at h
  obtain ⟨⟨⟨⟨⟨⟨h1, _⟩, h3⟩, h4⟩, h11⟩, h12⟩, _⟩ := h
  simp only [takeable, Bool.and_eq_true, bne_iff_ne, ne_eq] at h3
  have hr : ¬ (serving s = true ∧ (getMbx s m).rung = true ∧ (getMbx s m).reqTail = (getMbx s m).reqHead) := by
    rintro ⟨_, _, e⟩
    exact h3.1.1.2 e
  have c2 : ¬ (¬ serving s = true ∨ nextServed s ≠ some m) := by simp [h1, h4]
  have c3 : ¬ (leNat (reqBytes s m) 0 2 ≠ op ∧ (card (leNat (reqBytes s m) 0 2)).isSome = true) := by simp [h11]
  have c4 : ¬ (preCheck s m (reqBytes s m) ≠ 0) := by simp [h12]
  unfold takeUp
  rw [if_neg hr, if_neg c2]
  exact (if_neg c3).trans (if_neg c4)

/-- A request asked whose reserved bytes are 0 has the command's own answer. -/
theorem takeUpCard_asked {op m : Nat} {s : State} {act : Req → State → Ans} (h : asked op m s = true) :
    takeUpCard op act m s = answered m s (act (reqOf s m) (taken s m)) := by
  unfold takeUpCard
  rw [takeUp_asked h]
  simp only [asked, Bool.and_eq_true] at h
  rw [if_pos h.2]

/-- A request asked and answered at once. -/
theorem takeUpCard_done {op m : Nat} {s u : State} {act : Req → State → Ans} {c : W16} {p : Bytes} (h : asked op m s = true)
    (ha : act (reqOf s m) (taken s m) = .done u c p) :
    takeUpCard op act m s = respond m (reqOf s m).opcode (byteAt (reqBytes s m) 2) (reqOf s m).tag c p u := by
  rw [takeUpCard_asked h, ha]
  rfl

/-- The free values do not move a message. -/
theorem lastMessage_free (t : State) (hn : t.swarm.node < 4) (m n : Nat) (hm : m < 32) :
    lastMessage { t with free := n } m = lastMessage t m := by
  unfold lastMessage
  apply memRead_congr
  intro i h1 h2
  have hp := ring_place t hn m i hm (le_trans (by simp only [ringAddr, here]; omega) h1) (lt_of_lt_of_le h2 (by
    simp only [ringAddr, here, getMbx]; omega))
  have hf := hp.2.1
  have hf' : fenceIndex { t with free := n } i = none := hf
  have hn' : addrNode i = t.swarm.node := hp.1
  simp only [memByte, hf', hf, hn', if_true]

/-- The answer of a request asked and answered at once, and the state that the command made but for the ring. -/
theorem exec_done {op m : Nat} {s u : State} {act : Req → State → Ans} {c : W16} {p : Bytes} (h : asked op m s = true)
    (ha : act (reqOf s m) (taken s m) = .done u c p) (hu : u.swarm.node < 4) :
    ∃ t, inRange (decide (m < 32)) (takeUpCard op act m s) = .next t ∧ lastMessage t m = answerBytes s m c p
      ∧ t.obj = u.obj ∧ t.cmp = u.cmp ∧ t.net = u.net ∧ t.swarm = u.swarm ∧ t.frame = u.frame ∧ t.faults = u.faults
      ∧ t.flash = u.flash ∧ t.boot = u.boot ∧ t.power = u.power ∧ t.island = u.island ∧ t.holmi = u.holmi ∧ t.test = u.test
      ∧ t.keeper.blocks = u.keeper.blocks ∧ getMbx t m = { getMbx u m with rspTail := (getMbx u m).rspTail + 1 } := by
  have hm : m < 32 := by
    simp only [asked, requestWaits, Bool.and_eq_true, decide_eq_true_eq] at h
    tauto
  refine ⟨_, by rw [takeUpCard_done h ha]; simp only [inRange_eq, decide_eq_true_eq, hm, if_true]; rfl, ?_⟩
  have hs := putMsg_spec m (reqOf s m).opcode ((byteAt (reqBytes s m) 2 &&& 0xFC) ||| 1) (reqOf s m).tag c p u hu hm
  refine ⟨?_, ?_⟩
  · have hn : (respond m (reqOf s m).opcode (byteAt (reqBytes s m) 2) (reqOf s m).tag c p u).swarm.node < 4 := by simpa [respond] using hu
    exact (lastMessage_free _ hn m _ hm).trans hs.1
  · simp [respond, getMbx, putMsg, setMbx]

theorem mbxIrq_keeper (m : Nat) (s : State) : (mbxIrq m s).keeper = { s.keeper with irqs := (mbxIrq m s).keeper.irqs } := by
  unfold mbxIrq
  split
  · dsimp only
    split <;> rfl
  · rfl

/-- A message changes the interrupts and its own mailbox alone of the Keeper, and its slot alone of memory. -/
theorem putMsg_frame (m : Nat) (op : W16) (flags tag : Byte) (status : W16) (p : Bytes) (s : State) :
    let t := putMsg m op flags tag status p s
    t.keeper = { s.keeper with mbx := t.keeper.mbx, irqs := t.keeper.irqs } ∧ (∀ k, k ≠ m → getMbx t k = getMbx s k)
    ∧ ∀ a, ¬ (rspSlot s m ≤ a ∧ a < rspSlot s m + 64) → memByte t a = memByte s a := by
  generalize hmsg : toLE 2 op.toNat ++ [flags, tag] ++ toLE 2 p.length ++ toLE 2 status.toNat ++ slice p 0 56 = msg
  have hlen : msg.length = 64 := by rw [← hmsg]; simp
  have hput : putMsg m op flags tag status p s
      = mbxIrq m (setMbx (memWrite s (rspSlot s m) msg) m { getMbx s m with rspTail := (getMbx s m).rspTail + 1 }) := by
    rw [← hmsg]
    simp only [putMsg, rspSlot]
  have hk : (memWrite s (rspSlot s m) msg).keeper = s.keeper := (memWrite_rest s (rspSlot s m) msg).1
  have hb : ∀ a, ¬ (rspSlot s m ≤ a ∧ a < rspSlot s m + 64) → memByte (memWrite s (rspSlot s m) msg) a = memByte s a := by
    intro a ha
    exact memByte_memWrite_ne s (rspSlot s m) a msg (by rw [hlen]; exact ha)
  dsimp only
  rw [hput]
  generalize memWrite s (rspSlot s m) msg = w at hk hb
  refine ⟨?_, ?_, ?_⟩
  · rw [mbxIrq_keeper]
    simp [setMbx, hk]
  · intro k h
    simp [getMbx, setMbx, Tbl.get_set, h, hk]
  · intro a ha
    rw [← hb a ha]
    apply memByte_congr <;> simp

/-- A command that a request asks for and that answers at once. -/
theorem answers_of_done {op m : Nat} {s u : State} {act : Req → State → Ans} {c : W16} {p : Bytes} (i : Instr)
    (hi : exec i s = inRange (decide (m < 32)) (takeUpCard op act m s)) (h : asked op m s = true)
    (ha : act (reqOf s m) (taken s m) = .done u c p) (hu : u.swarm.node = s.swarm.node) : answersWith i m s c p u := by
  have hm : m < 32 ∧ s.swarm.node < 4 := by
    simp only [asked, requestWaits, Bool.and_eq_true, decide_eq_true_eq] at h
    tauto
  have hu4 : u.swarm.node < 4 := by omega
  have hs := putMsg_spec m (reqOf s m).opcode ((byteAt (reqBytes s m) 2 &&& 0xFC) ||| 1) (reqOf s m).tag c p u hu4 hm.1
  have hf := putMsg_frame m (reqOf s m).opcode ((byteAt (reqBytes s m) 2 &&& 0xFC) ||| 1) (reqOf s m).tag c p u
  have hr := putMsg_rest m (reqOf s m).opcode ((byteAt (reqBytes s m) 2 &&& 0xFC) ||| 1) (reqOf s m).tag c p u
  refine ⟨{ respond m (reqOf s m).opcode (byteAt (reqBytes s m) 2) (reqOf s m).tag c p u with
      free := (respond m (reqOf s m).opcode (byteAt (reqBytes s m) 2) (reqOf s m).tag c p u).free + 1 }, ?_, ?_, ?_, hf.1, hs.2, hf.2.1, ?_⟩
  · rw [hi, takeUpCard_done h ha]
    simp only [inRange, hm.1, decide_true, if_true]
  · exact (lastMessage_free _ (by simpa [respond] using hu4) m _ hm.1).trans hs.1
  · simp [respond]
  · intro a h1 h2
    rw [← hf.2.2 a h1]
    simp only [memByte, fenceIndex, respond, hr, h2, if_true, fenceWord]

/-- A long-running command that a request asks for and that is accepted. -/
theorem answers_of_accepted {op m : Nat} {s : State} {act : Req → State → Ans} {f : CmdRef → State → State} (i : Instr)
    (hi : exec i s = inRange (decide (m < 32)) (takeUpCard op act m s)) (h : asked op m s = true)
    (ha : act (reqOf s m) (taken s m) = accepted (reqOf s m) f (taken s m)) (hu : (f (refOf s m) (acceptedState s m)).swarm.node = s.swarm.node) :
    answersWith i m s 1 [] (f (refOf s m) (acceptedState s m)) :=
  answers_of_done i hi h ha hu

end Sys2Proof.Machine
end

