-- ==== Sys2Proof/Laws/PlcBits.lean ====
section
/-! SUPPORT. The decoder of the power line undoes its encoder: from the coded bits of a frame, all of them heard, it finds the
information bits (R465, R468). -/

namespace Sys2Proof.Machine

/-- The state of the encoder after a bit. -/
theorem conv_next (st : Nat) (u : Bool) (h : st < 64) : (64 * b2n u + st) / 2 = 32 * b2n u + st / 2 ∧ (64 * b2n u + st) / 2 < 64 := by
  cases u <;> simp [b2n] <;> omega

/-- Both coded bits depend on the newest information bit, so that another bit from the same state differs in both. -/
theorem convOut_flip : ∀ st < 64, ∀ u v : Bool,
    bitMiss (some (convOut (64 * b2n u + st)).1) (convOut (64 * b2n v + st)).1 + bitMiss (some (convOut (64 * b2n u + st)).2) (convOut (64 * b2n v + st)).2
      = if u = v then 0 else 2 := by decide +kernel

theorem adjacent_length {α : Type} : ∀ (n : Nat) (l : List α), l.length = 2 * n → (adjacent l).length = n
  | 0, [], _ => rfl
  | n + 1, a :: b :: l, h => by simp [adjacent, adjacent_length n l (by simp at h; omega)]

theorem adjacent_get {α : Type} : ∀ (n : Nat) (l : List α), l.length = 2 * n → ∀ (i : Nat) (a b : α), l[2 * i]? = some a → l[2 * i + 1]? = some b →
    (adjacent l)[i]? = some (a, b)
  | n + 1, x :: y :: l, h, 0, a, b, ha, hb => by simp_all [adjacent]
  | n + 1, x :: y :: l, h, i + 1, a, b, ha, hb => by
    have e : 2 * (i + 1) = 2 * i + 1 + 1 := by omega
    rw [e] at ha hb
    exact adjacent_get n l (by simp at h; omega) i a b (by simpa using ha) (by simpa using hb)
  | 0, [], _, i, a, b, ha, _ => by simp at ha

/-- Every pair of bits that leave the encoder, in order. -/
theorem adjacent_convolve (st : Nat) (u : Bool) (l : List Bool) :
    adjacent ((convolve st (u :: l)).map some) = (some (convOut (64 * b2n u + st)).1, some (convOut (64 * b2n u + st)).2)
      :: adjacent ((convolve ((64 * b2n u + st) / 2) l).map some) := by
  simp [convolve, adjacent]

/-- Distances under which one state alone is at distance 0. -/
def loneState (st : Nat) (m : List Nat) : Prop := m.length = 64 ∧ m.getD st 0 = 0 ∧ ∀ i, i < 64 → i ≠ st → 0 < m.getD i 0

theorem upFrom_get : ∀ (n a i : Nat), i < n → (upFrom a n)[i]? = some (a + i)
  | n + 1, a, 0, _ => by simp [upFrom]
  | n + 1, a, i + 1, h => by simp [upFrom, upFrom_get n (a + 1) i (by omega)]; omega

/-- The distance of a state after a step: the nearer of its two predecessors. -/
theorem viterbiStep_get (known : Bool) (g : Option Bool × Option Bool) (m : List Nat) (h : m.length = 64) :
    (viterbiStep known g m).length = 64 ∧ ∀ i, i < 64 → (viterbiStep known g m).getD i 0
      = min (m.getD (2 * (i % 32)) 0 + stepMiss known g (decide (32 ≤ i)) (2 * (i % 32)))
          (m.getD (2 * (i % 32) + 1) 0 + stepMiss known g (decide (32 ≤ i)) (2 * (i % 32) + 1)) := by
  have la := adjacent_length 32 m (by omega)
  have lu : ∀ n a, (upFrom a n).length = n := by
    intro n
    induction n with
    | zero => simp [upFrom]
    | succ n ih => simp [upFrom, ih]
  have pair : ∀ k, k < 32 → ((adjacent m).zip (upFrom 0 32))[k]? = some ((m.getD (2 * k) 0, m.getD (2 * k + 1) 0), k) := by
    intro k hk
    have e : (adjacent m)[k]? = some (m.getD (2 * k) 0, m.getD (2 * k + 1) 0) :=
      adjacent_get 32 m (by omega) k _ _ (by simp [List.getD, List.getElem?_eq_getElem (show 2 * k < m.length by omega)])
        (by simp [List.getD, List.getElem?_eq_getElem (show 2 * k + 1 < m.length by omega)])
    rw [List.getElem?_zip_eq_some]
    exact ⟨e, by simpa using upFrom_get 32 0 k hk⟩
  have lz : ((adjacent m).zip (upFrom 0 32)).length = 32 := by simp [la, lu]
  refine ⟨by simp [viterbiStep, la, lu], fun i hi => ?_⟩
  by_cases c : i < 32
  · have e : i % 32 = i := Nat.mod_eq_of_lt c
    rw [viterbiStep, List.getD_eq_getElem?_getD, List.getElem?_append_left (by simp [la, lu, c]), List.getElem?_map, pair i c, e]
    simp [show ¬ 32 ≤ i by omega]
  · have e : i % 32 = i - 32 := by omega
    rw [viterbiStep, List.getD_eq_getElem?_getD, List.getElem?_append_right (by simp [la, lu]; omega), List.length_map, lz, List.getElem?_map,
      pair (i - 32) (by omega), e]
    simp [show 32 ≤ i by omega]

/-- A step on the bits that the encoder gives: the state that the encoder reaches alone is at distance 0. -/
theorem loneState_step (known u : Bool) (st : Nat) (m : List Nat) (hs : st < 64) (hk : known = true → u = false) (h : loneState st m) :
    loneState ((64 * b2n u + st) / 2) (viterbiStep known (some (convOut (64 * b2n u + st)).1, some (convOut (64 * b2n u + st)).2) m) := by
  obtain ⟨hl, h0, hp⟩ := h
  have hg := viterbiStep_get known (some (convOut (64 * b2n u + st)).1, some (convOut (64 * b2n u + st)).2) m hl
  have hn := conv_next st u hs
  have own : ∀ v : Bool, stepMiss known (some (convOut (64 * b2n u + st)).1, some (convOut (64 * b2n u + st)).2) v st
      = (if u = v then 0 else 2) + (if known && v then farPath else 0) := fun v => by simp [stepMiss, convOut_flip st hs u v]
  refine ⟨hg.1, ?_, fun i hi ne => ?_⟩
  · rw [hg.2 _ hn.2]
    have hu : decide (32 ≤ (64 * b2n u + st) / 2) = u := by cases u <;> simp [b2n] <;> omega
    have z : m.getD st 0 + stepMiss known (some (convOut (64 * b2n u + st)).1, some (convOut (64 * b2n u + st)).2) u st = 0 := by
      rw [own, h0]
      cases known <;> simp_all
    have hm : 2 * ((64 * b2n u + st) / 2 % 32) = st ∨ 2 * ((64 * b2n u + st) / 2 % 32) + 1 = st := by cases u <;> simp [b2n] <;> omega
    rw [hu]
    rcases hm with e | e <;> rw [e, z] <;> simp
  · rw [hg.2 i hi, Nat.lt_min]
    have one : ∀ p, p < 64 → (p = st → decide (32 ≤ i) ≠ u) →
        0 < m.getD p 0 + stepMiss known (some (convOut (64 * b2n u + st)).1, some (convOut (64 * b2n u + st)).2) (decide (32 ≤ i)) p := by
      intro p lt far
      by_cases e : p = st
      · subst e
        rw [own]
        have := far rfl
        simp [Ne.symm this]
      · have := hp p lt e
        omega
    constructor
    · refine one _ (by omega) (fun e c => ne ?_)
      cases u <;> simp [b2n] at c ⊢ <;> omega
    · refine one _ (by omega) (fun e c => ne ?_)
      cases u <;> simp [b2n] at c ⊢ <;> omega

/-- Forward over the bits of an encoder and back: the information bits. -/
theorem viterbi_back (l : List Bool) : ∀ (k st : Nat) (m : List Nat) (acc : List (List Nat)) (gs : List (Option Bool × Option Bool)) (bs : List Bool),
    st < 64 → loneState st m → (∀ i, 368 ≤ k + i → l.getD i false = false) → viterbiTrace st k gs acc = bs →
    ∃ mf ms, viterbiForward k (adjacent ((convolve st l).map some)) m acc = mf :: ms
      ∧ viterbiTrace (l.foldl (fun st u => (64 * b2n u + st) / 2) st) (k + l.length) ((adjacent ((convolve st l).map some)).reverse ++ gs) ms
        = l.reverse ++ bs := by
  induction l with
  | nil => intro k st m acc gs bs _ _ _ e; exact ⟨m, acc, by simp [convolve, adjacent, viterbiForward], by simpa [convolve, adjacent] using e⟩
  | cons u l ih =>
    intro k st m acc gs bs hs hm hz e
    have hn := conv_next st u hs
    have hk : decide (368 ≤ k) = true → u = false := fun c => by simpa using hz 0 (by simpa using c)
    have back : viterbiTrace ((64 * b2n u + st) / 2) (k + 1) ((some (convOut (64 * b2n u + st)).1, some (convOut (64 * b2n u + st)).2) :: gs) (m :: acc)
        = u :: bs := by
      have hu : decide (32 ≤ (64 * b2n u + st) / 2) = u := by cases u <;> simp [b2n] <;> omega
      have z : m.getD st 0 + stepMiss (decide (368 < k + 1)) (some (convOut (64 * b2n u + st)).1, some (convOut (64 * b2n u + st)).2) u st = 0 := by
        have : decide (368 < k + 1) = decide (368 ≤ k) := by simp
        rw [this, hm.2.1, stepMiss, ← Nat.add_assoc]
        simp only [convOut_flip st hs u u, if_true]
        cases hd : decide (368 ≤ k) <;> simp [hd] at hk ⊢
        simp [hk]
      rw [viterbiTrace, hu]
      by_cases c : st % 2 = 0
      · have ep : 2 * ((64 * b2n u + st) / 2 % 32) = st := by cases u <;> simp [b2n] <;> omega
        have pos := hm.2.2 (st + 1) (by omega) (by omega)
        rw [ep, z, if_pos (by omega), Nat.add_sub_cancel, e]
      · have ep : 2 * ((64 * b2n u + st) / 2 % 32) + 1 = st := by cases u <;> simp [b2n] <;> omega
        have pos := hm.2.2 (2 * ((64 * b2n u + st) / 2 % 32)) (by omega) (by omega)
        rw [ep, z, if_neg (by omega), if_pos (by omega), Nat.add_sub_cancel, e]
    obtain ⟨mf, ms, f, t⟩ := ih (k + 1) ((64 * b2n u + st) / 2) _ (m :: acc) _ (u :: bs) hn.2 (loneState_step (decide (368 ≤ k)) u st m hs hk hm)
      (fun i hi => by simpa using hz (i + 1) (by omega)) back
    refine ⟨mf, ms, by rw [adjacent_convolve, viterbiForward, f], ?_⟩
    rw [adjacent_convolve, List.foldl_cons, List.length_cons, List.reverse_cons, List.append_assoc, List.reverse_cons, List.append_assoc]
    simpa [Nat.add_assoc, Nat.add_comm 1] using t

/-- The decoder finds the information bits whose coded bits it hears, those from 368 on being zero. -/
theorem viterbi_convolve (l : List Bool) (h : l.length = 384) (hz : ∀ i, 368 ≤ i → l.getD i false = false)
    (hend : l.foldl (fun st u => (64 * b2n u + st) / 2) 0 = 0) : viterbi ((convolve 0 l).map some) = l := by
  have start : loneState 0 ((upFrom 0 64).map (fun i => if i = 0 then 0 else farPath)) := by
    refine ⟨by decide, by decide, ?_⟩
    decide +kernel
  obtain ⟨mf, ms, f, t⟩ := viterbi_back l 0 0 _ [] [] [] (by decide) start (fun i hi => hz i (by omega)) (by simp [viterbiTrace])
  rw [hend, h] at t
  simp only [viterbi, f]
  rw [List.append_nil, List.append_nil, Nat.zero_add] at t
  rw [t, List.reverse_reverse]

/-! ### Whole frames -/

theorem upFrom_len : ∀ (n a : Nat), (upFrom a n).length = n
  | 0, _ => rfl
  | n + 1, a => by simp [upFrom, upFrom_len n (a + 1)]

/-- The bits of a burst of three bits. -/
theorem burstBits_burstOf : ∀ a b c : Bool, burstBits (burstOf [a, b, c]) = [a, b, c] := by decide

/-- Bursts carry the bits that they are made of. -/
theorem burstsOf_bits : ∀ (n : Nat) (l : List Bool), l.length = 3 * n → ((burstsOf n l).map burstBits).flatten = l
  | 0, [], _ => rfl
  | n + 1, a :: b :: c :: l, h => by
    simp [burstsOf, burstBits_burstOf, burstsOf_bits n l (by simp at h; omega)]

theorem burstsOf_length : ∀ (n : Nat) (l : List Bool), (burstsOf n l).length = n
  | 0, _ => rfl
  | n + 1, l => by simp [burstsOf, burstsOf_length n]

/-- Each of them carries three. -/
theorem burstsOf_three : ∀ (n : Nat) (l : List Bool), l.length = 3 * n → ∀ b ∈ burstsOf n l, (burstBits b).length = 3
  | n + 1, a :: b :: c :: l, h, x, hx => by
    rcases List.mem_cons.mp hx with rfl | hx
    · simp [burstBits_burstOf]
    · exact burstsOf_three n l (by simp at h; omega) x hx

/-- An element of rows of six. -/
theorem rows_get {α : Type} : ∀ (l : List (List α)), (∀ r ∈ l, r.length = 6) → ∀ (k p : Nat), p < 6 → l.flatten[6 * k + p]? = l[k]?.bind (fun r => r[p]?)
  | [], _, k, p, _ => by simp
  | r :: l, h, 0, p, hp => by
    have e := h r (by simp)
    simp [List.getElem?_append_left (show p < r.length by omega)]
  | r :: l, h, k + 1, p, hp => by
    have e := h r (by simp)
    rw [List.flatten_cons, List.getElem?_append_right (by omega), show 6 * (k + 1) + p - r.length = 6 * k + p by omega,
      rows_get l (fun x hx => h x (by simp [hx])) k p hp]
    simp

theorem lsbBits_length (b : Bytes) : (lsbBits b).length = 8 * b.length := by
  induction b with
  | nil => rfl
  | cons x b ih =>
    simp only [lsbBits, List.map_cons, List.flatten_cons, List.length_append, List.length_map, upFrom_len, List.length_cons] at ih ⊢
    omega

theorem plcSlice_length (b : Bytes) (i n : Nat) : (slice b i n).length = n := by simp [slice]

theorem plcInfo_length (f : Bytes) : (plcInfo f).length = 384 := by simp [plcInfo, lsbBits_length, plcSlice_length]

theorem convolve_length (l : List Bool) : ∀ st, (convolve st l).length = 2 * l.length := by
  induction l with
  | nil => intro st; rfl
  | cons u l ih => intro st; simp [convolve, ih]; omega

/-- The bits that the symbols of a frame carry. -/
def symbolBits (f : Bytes) : List Bool :=
  List.replicate 36 false ++ frameSync
    ++ ((upFrom 0 128).map (fun k => (upFrom 0 6).map (fun p => (plcCoded f).getD (deinterleaved k p) false))).flatten

theorem symbolBits_length (f : Bytes) : (symbolBits f).length = 816 := by
  simp only [symbolBits, List.length_append, List.length_replicate, List.length_flatten, List.map_map]
  have e : (upFrom 0 128).map (List.length ∘ fun k => (upFrom 0 6).map (fun p => (plcCoded f).getD (deinterleaved k p) false)) = List.replicate 128 6 := by
    rw [List.eq_replicate_iff]
    simp [upFrom_len]
  rw [e, List.sum_replicate]
  simp [frameSync, msbBits, upFrom_len]

theorem frameBursts_bits (f : Bytes) : ((frameBursts f).map burstBits).flatten = symbolBits f := burstsOf_bits 272 _ (symbolBits_length f)

/-- The interleaver is undone. -/
theorem deinterleave_symbols (f : Bytes) :
    (upFrom 0 768).map (fun j => (((symbolBits f).map some).drop 48).getD (interleaved j) none) = (plcCoded f).map some := by
  have lc : (plcCoded f).length = 768 := by simp [plcCoded, convolve_length, plcInfo_length]
  have hd : ((symbolBits f).map some).drop 48
      = (((upFrom 0 128).map (fun k => (upFrom 0 6).map (fun p => (plcCoded f).getD (deinterleaved k p) false))).flatten).map some := by
    rw [← List.map_drop, symbolBits, List.drop_left' (by decide)]
  apply List.ext_getElem?
  intro j
  by_cases c : j < 768
  · have u := upFrom_get 768 0 j c
    rw [List.getElem?_map, u, List.getElem?_map, hd, List.getElem?_eq_getElem (show j < (plcCoded f).length by omega)]
    simp only [Option.map_some, Nat.zero_add, interleaved, List.getD_eq_getElem?_getD, List.getElem?_map]
    rw [rows_get _ (fun r hr => by
      obtain ⟨k, -, rfl⟩ := List.mem_map.mp hr
      simp [upFrom_len]) _ _ (show j / 128 < 6 by omega), List.getElem?_map, upFrom_get 128 0 (j % 128) (by omega)]
    have e : j % 128 + 128 * (j / 128) = j := by omega
    simp [upFrom_get 6 0 (j / 128) (by omega), deinterleaved, e, List.getElem?_eq_getElem (show j < (plcCoded f).length by omega)]
  · simp [upFrom_len, lc, show 768 ≤ j by omega]

/-- The eight bits of a byte, and the bytes of bits. -/
theorem lsbBytes_byte : ∀ x : Byte, BitVec.ofNat 8 (((((upFrom 0 8).map (fun i => bitOf x i))).zip (upFrom 0 8)).foldl (fun a e => a + b2n e.1 * 2 ^ e.2) 0) = x := by
  decide +kernel

theorem lsbBytes_lsbBits (b : Bytes) : ∀ l, lsbBytes (lsbBits b ++ l) b.length = b := by
  induction b with
  | nil => intro l; rfl
  | cons x b ih =>
    intro l
    have e : lsbBits (x :: b) ++ l = (upFrom 0 8).map (fun i => bitOf x i) ++ (lsbBits b ++ l) := by simp [lsbBits]
    rw [List.length_cons, lsbBytes, e, List.take_left' (by simp [upFrom_len]), List.drop_left' (by simp [upFrom_len]), lsbBytes_byte, ih l]

/-- The encoder is in state 0 after six zero bits. -/
theorem conv_end (l : List Bool) : ∀ st, st < 64 → l.foldl (fun st u => (64 * b2n u + st) / 2) st < 64 := by
  induction l with
  | nil => intro st h; exact h
  | cons u l ih => intro st h; exact ih _ (conv_next st u h).2

/-- A frame whose symbols are all heard is decoded (R465, R466, R468). -/
theorem plcDecode_frame (f : Bytes) : plcDecode ((((frameBursts f).map burstBits).flatten).map some) = slice f 0 46 := by
  rw [frameBursts_bits]
  have v : viterbi ((plcCoded f).map some) = plcInfo f := by
    refine viterbi_convolve (plcInfo f) (plcInfo_length f) (fun i hi => ?_) ?_
    · rw [plcInfo, List.getD_append_right _ _ _ _ (by simp [lsbBits_length, plcSlice_length, hi])]
      rw [List.getD_eq_getElem?_getD, List.getElem?_replicate]
      split <;> rfl
    · rw [plcInfo, List.foldl_append]
      have h := conv_end (lsbBits (slice f 0 46)) 0 (by decide)
      generalize List.foldl (fun st u => (64 * b2n u + st) / 2) 0 (lsbBits (slice f 0 46)) = k at h
      revert h k
      decide +kernel
  rw [plcDecode, deinterleave_symbols, v, plcInfo]
  have := lsbBytes_lsbBits (slice f 0 46) (List.replicate 16 false)
  rwa [plcSlice_length] at this

/-- Bursts under which no noise rises are all received. -/
theorem takeBursts_quiet (l : List PlcBurst) : ∀ levels, (∀ b ∈ l, b.peak = 0) → (takeBursts levels l).2 = l.map (fun b => some (burstBits b.phases)) := by
  induction l with
  | nil => intro _ _; rfl
  | cons b l ih =>
    intro levels h
    have e : blanked levels b = false := by simp [blanked, h b (by simp)]
    rw [takeBursts, e]
    simp [ih _ (fun x hx => h x (by simp [hx]))]

/-- The bits of received bursts of three. -/
theorem heardBits_all (l : List (List Bool)) (h : ∀ b ∈ l, b.length = 3) : heardBits (l.map some) = l.flatten.map some := by
  induction l with
  | nil => rfl
  | cons b l ih =>
    have e := h b (by simp)
    have i := ih (fun x hx => h x (by simp [hx]))
    match b, e with
    | [x, y, z], _ =>
      simp only [heardBits, List.map_cons, List.flatten_cons] at i ⊢
      rw [i]
      simp [upFrom]

end Sys2Proof.Machine
end

