-- ==== Sys2Proof/Tests/Slice0.lean ====
section
/-! SUPPORT. Tests: what WellFormed refuses, the worked cases of the manual, and a witness for the hypotheses of each statement. -/

namespace Sys2Proof.Tests

open Sys2Proof Sys2Proof.Machine

set_option Elab.async false

/-- Node 0 after its boot: every domain UP, 8 GiB of LPDDR at each Comb die, package READY. -/
def booted : State :=
  { State.reset with
    boot := { (default : Boot) with step := 8, opt := { (default : OptionArea) with lpddrGib := [8, 8, 8, 8] } },
    net := {}, swarm := { State.reset.swarm with locked := true }, power := { State.reset.power with pkg := .ready } }

/-- A request of opcode `op` and payload `p`, tag 7, at the head of mailbox `m`, and its doorbell rung. -/
def mail (m op : Nat) (p : Bytes) (s : State) : State :=
  memWrite (setMbx s m { getMbx s m with reqTail := (getMbx s m).reqHead + 1, rung := true }) (ringAddr s m + 64 * ((getMbx s m).reqHead.toNat % 16))
    (toLE 2 op ++ [0x20, 7] ++ toLE 2 p.length ++ [0, 0] ++ p)

/-- A field of the state after a command, none where it stops. -/
def after {α : Type} (f : State → α) : Host.Outcome State Fault Refusal → Option α
  | .next t => some (f t)
  | _ => none

/-- Mailbox `m` bound to PCIe function `k`, with every permission group. -/
def bind (m k : Nat) (s : State) : State :=
  setMbx s m { bound := some (mkSrc s.swarm.node 5 3 0 k), groups := BitVec.allOnes 64, quota := 4 }

/-- Context 0 of mailbox 0. -/
def ctx0 (s : State) : State := setCtx s 0 { live := true, mailbox := 0 }

/-- An object of context 0 with every right, in LPDDR of die 0 (or where `base` says), as entry `i`. -/
def object (i base size : Nat) (s : State) : State :=
  setMot s i { base := base, size := size, perm := 0xF, kind := 1, owner := 0, creator := 0 }

/-- Fence `i` of context 0 with word `w`. -/
def fence (i : Nat) (w : W64) (s : State) : State :=
  setFence (setMot s i { base := fenceAddr s i, perm := 0xD, kind := 2, lock := 2, owner := 0, place := 2 }) i w

/-- Ring object 2 at 0x10000, completion fence 3, and queue `q` of 16 entries on them for units of kind `target`. -/
def queue (q target : Nat) (mask : W64) (s : State) : State :=
  setQueue (fence 3 0 (object 2 0x10000 4 s)) q
    { live := true, ctx := 0, target := target, log2 := 4, ring := 0x00010002, fence := 0x00010003, unitMask := mask }

/-! ### WellFormed: an ill-formed command for each kind of check; each is refused and stops under its name -/

/-- Whether a command stops with the fault of a unit that does not exist. -/
def stops (i : Instr) : Bool := !i.wf && (match exec i booted with
  | .fault .noSuchUnit => true
  | _ => false)

theorem test_ill_formed_objects : ([.getCaps 32, .mbxReqTailWrite 116 32 0, .eventDeliver 32, .cmdDone 32 0, .copy 1024, .fenceSetPort 116 65536 8 0,
    .monitorFire 4096, .add 4 0, .add 0 32, .dmaComplete 0 0 16, .collArm 52 4 0 0, .collArm 52 0 16 0, .collInputWrite 52 0 0 0x1000000 []].all stops) = true := by
  decide +kernel

theorem test_ill_formed_network : ([.domainUp 64 true, .routeSwitchDrainEnd 6, .livelockRescue 0 36 0 0, .stallDetect 4 16 default, .livelockRescue 5 8 0 0,
    .portTrainingRetry 6, .laneLockLoss 0 4, .nodeLoss 4, .tgtTimeout 7, .longPacket 16 default, .ingestFlushTimer 15, .ingestFlushTimer 20,
    .ingestReleasedWrite 116 20 0, .tilePortAccess 1 2 default, .residueMismatch 6 3 0 0 0, .nodeRejoin 0 [], .ucieRetrain 0 3 0, .ucieRetrain 0 1 2,
    .ucieRetrain 1 0 0].all stops) = true := by decide +kernel

theorem test_ill_formed_hive : ([.contextReset 256, .contextResetDrainTimeout 0 5, .flashProgram 52 2, .flashOperationDone 2 true, .wakeSource 9 0,
    .wakeSource 1 6, .wakeSource 2 4, .wakeSource 0 1, .partitionHaltTimeout 16, .throttleTick [0, 0] 0, .thermalHold 6 0, .testPulse 4 0,
    .outputDarkTest 8 false false, .stopMonitor 32, .connectionSend 32, .inboxSubmit 52 16 0, .fuseWrite 8 false []].all stops) = true := by decide +kernel

theorem test_ill_formed_holmi : ([.metRead 4, .pqEvent 0 [1, 2], .intervalEnd 0 default, .plcHello 0 32, .routeRep 0 0, .routeExpiry 0 32,
    .plcFrameReceive 0 0 [] [], .plcAckSlot 0 0 [], .hlinkWake 4, .checkerLocked 2 100 []].all stops) = true := by decide +kernel

/-! ### The worked cases of the manual: the expected bytes are the manual's own -/

/-- Chapter 00: bytes 41 0A 00 00 are 0x0000_0A41, whose bits [11:4] are 164. -/
theorem test_register_bytes : le32 [0x41, 0x0A, 0, 0] 0 = 0xA41 ∧ field (le32 [0x41, 0x0A, 0, 0] 0) 11 4 = 164 := by decide +kernel

/-- Chapter 02: the depot controller's COMMIT of the tariff block of link 2 is answered ACCEPTED with flags 0x21 and its tag. The
staged table has one season from 1 January and one switching point at 00:00. -/
def tariffCommit : State :=
  let id := hm1BlockId booted 17 2
  let s := setEnd (setEnd booted false 2 { up := true }) true 2 { up := true }
  let s := setBlock s id { getBlock s id with gen := 0x13, holder := some 4, staging := [(16, 0x85), (64, 0x4000)] }
  let s := bind 4 0 s
  memWrite (setMbx s 4 { getMbx s 4 with reqTail := 1, rung := true }) (ringAddr s 4) [4, 2, 0x20, 0x37, 6, 0, 0, 0, 0, 0x0A, 0x11, 0, 0x14, 0]

theorem test_commit_answer : after (fun t => (lastMessage t 4).take 8) (exec (.commit 4) tariffCommit) = some [4, 2, 0x21, 0x37, 0, 0, 1, 0] := by
  decide +kernel

/-- Chapter 03: places of fence 0x123, monitor slot 0x200 and the doorbell of queue 18, and the poisoned word. -/
theorem test_fence_case : fenceAddr booted 0x123 = 0x280800100918 ∧ slotAddr booted 0x200 = here booted 5 0x01004004000
    ∧ placeAt 0x281001012000 = some { die := 5, blk := .queBell, inst := 18, word := 0, hole := false }
    ∧ fenceWord (poison 0x123 0x5001 (fence 0x123 1041 booted)) 0x123 = 0xD001000000000411 := by decide +kernel

/-- Chapter 04: 0.3 in Z8e4 is 0x2A, and 0x29 toward zero; the dot product of five terms gives 1.0 with TRUNCATED. -/
theorem test_z8e4 : (convertTo 3 false false (f32 0x3E99999A)).code = 0x2A ∧ (convertTo 3 true false (f32 0x3E99999A)).code = 0x29 := by decide +kernel

theorem test_window_case :
    let w := windowSum ([.fin false 1 25, .fin false 1 0, .fin true 1 25, .fin false 5 (-103), .fin false 3 (-104)].map (fun t => (t, false)))
    (roundNum fp32 false false w.sum).code = 0x3F800000 ∧ w.truncated = true ∧ w.invalid = false := by decide +kernel

/-- Chapter 05: the MMA word 0x0001_0800_0398_A142. -/
theorem test_mma_word : insOf 0x000108000398A142 = ⟨0x42, 1, 5, 6, 7, false, 0, 0x10800⟩ := by decide +kernel

/-- Chapter 06: twelve Z8e4 keys over three engines; the first two records, and NAN_KEY alone raised. -/
def signKeys : Bytes := [0x42, 0x44, 0x38, 0x44, 0x44, 0x30, 0x45, 0x7F, 0x44, 0x43, 0, 0x42]

theorem test_select_case :
    let p : SelParams := ⟨0, 3, 0, false, false, true, 4, 0, 12, 1, 0x20000, 0x21000, 0, 0, 1000, 256⟩
    let r := rowResult (memWrite booted 0x20000 signKeys) p 3 0
    (outRow p r.1).take 16 = [0x45, 0, 0, 0, 0xEE, 3, 0, 0, 0x44, 0, 0, 0, 0xE9, 3, 0, 0] ∧ r.1.map (·.2) = [1006, 1001, 1003, 1004] := by decide +kernel

/-- Chapter 08: MASK 0x8025 names the dies 0, 2, 5 and 15; position 0 absorbs 1 and 2, position 2 absorbs 3. -/
theorem test_tree_case : collMembers { (default : CollSlot) with members := 0x8025 } = [0, 2, 5, 15] ∧ collChildren 4 0 = [1, 2] ∧ collChildren 4 2 = [3]
    ∧ collParent 3 = 2 := by decide +kernel

/-- Chapter 09: the header of a frame buffer of channel 3 begins with these bytes. -/
theorem test_camera_header :
    let b : OpenBuffer := { index := 1, first := 0, bytes := 8094720, units := 1860, frameNo := 0x127, badCount := 1, firstBad := 913 }
    let h := headerBytes 3 { (default : Channel) with filled := 0x101 } b 2 0
    h.take 8 = [3, 0, 1, 2, 1, 1, 0, 0] ∧ leNat h 24 4 = 0x7B8400 ∧ leNat h 28 4 = 0x744 := by decide +kernel

/-- Chapter 10: one record writes the shared frame to 0x60_0120, 0x60_0920 and 0x60_1120. -/
theorem test_shared_frame :
    let l := [3, 3, 0, 0x20, 1, 0x60, 0x20, 9, 0x60, 0x20, 0x11, 0x60] ++ List.replicate 128 (7 : Byte)
    (parseRecords [3] 4 l).map (fun r => (r.1.map (·.1), r.1.all (fun w => w.2 == List.replicate 128 7))) = some ([0x600120, 0x600920, 0x601120], true) := by
  decide +kernel

/-- Chapter 11: the third record of cell 13 of COMB2 on node 1. -/
theorem test_fault_record :
    let r : FaultRecord := { index := 0x413, code := 0x5002, context := 0x107, kind := 2, flags := 0x38, action := 2, source := mkSrc 1 2 4 13 0,
                             resource := 205, events := 3 }
    (recordBytes r).take 16 = [0x13, 4, 0, 0, 2, 0x50, 7, 1, 2, 0x38, 2, 0, 0x89, 0x34, 0, 0] ∧ slice (recordBytes r) 40 6 = [0xCD, 0, 0, 0, 3, 0] := by
  decide +kernel

/-- Chapter 12: the event of sector 100 of bank 1, INDETERMINATE, as mailbox 0 receives it. -/
theorem test_sector_event :
    let s := sectorEvent 2148 1 (setMbx booted 0 { getMbx booted 0 with seq := 1 })
    after (fun t => (lastMessage t 0).take 13) (exec (.eventDeliver 0) s) = some [8, 0xE0, 0x22, 1, 5, 0, 0, 0, 1, 0, 0x64, 0, 1] := by decide +kernel

/-- Chapter 13: the first operation of the delta copies 1 MiB from offset 0x1000 to the same place. -/
theorem test_delta_copy :
    let l := [1, 0, 0x10, 0, 0, 0, 0x10, 0, 0, 0, 0, 0x10, 0, 0x7F, 2, 0, 0, 0]
    deltaOps (2 ^ 23) (fun a n => toLE 4 a ++ toLE 4 n) 2 2 l 0x1000 0 = ([(0x1000, [0, 0x10, 0, 0, 0, 0, 0x10, 0])], true) := by decide +kernel

/-- Chapter 14: images of WAKE_CAUSE for CAN controller 2, and for Holmi link 1. -/
theorem test_wake_images : (latchCause 1 2 booted).power.wakeCause = 0x00040002 ∧ (latchCause 3 1 booted).power.wakeCause = 0x08000008 := by decide +kernel

/-- Chapter 15: the limit of function 0 at e = 12,090, 12,100 and 12,110 ms, and the violation at the last. -/
theorem test_stop_envelope :
    let p : FuncParam := { w16 := 360, w18 := 500, vTol := 300, vStill := 50, tStill := 500, tMax := 60000 }
    [12090, 12100, 12110].map (envelope p 8500) = [4628, 4624, 4621]
    ∧ [(12090, 4623), (12100, 4624), (12110, 4624)].map (fun e => monitorEnd p { (default : Conn) with valid := true } 8500 e.1 e.2 none)
      = [none, none, some 5] := by decide +kernel

/-- Chapter 16: the GAIN register of channel 4 on link 1, and the corrected gain. -/
theorem test_gain_register : placeAt 0x281006100040 = some { die := 5, blk := .cal, inst := 1, word := 16, hole := false }
    ∧ roundDiv (23068672 * 20000) 20024 = 0x015F93FF := by decide +kernel

/-- Chapter 17: the interval that the switch at 22:00 divides gives 210 mWh before it and 390 mWh after, and keeps its residue of half a mWh. -/
theorem test_tariff_split :
    let u : Nat := unitsPerMwh 3
    let e : Energy := { (default : Energy) with residues := Tbl.set 0 [] 6 (u / 2) }
    let r := giveUp 3 e (600 * u) (210 * u)
    r.2 = (false, 210, 390) ∧ Tbl.get 0 r.1.residues 6 = u / 2 := by decide +kernel

/-- Chapter 18: the costs of the links at cabin B, and the header of the coordinator's frame and of the relay's. -/
theorem test_link_costs :
    let cost := fun (got : W16) => linkCost { (default : PlcNode) with neighbours := Tbl.set {} [] 7 { last := some 0, got := got } } 7
    [0xFFFF, 0x03FF, 0x0FFF, 0x0007, 0x0001].map cost = [some 16, some 26, some 22, some 86, none] := by decide +kernel

theorem test_power_line_headers :
    let f := rehop (plcFrame 1 0x2C 0 12 0 255 6 0x41 2 (zeros 12)) 0 7 6
    f.take 10 = [0x11, 0x2C, 0, 0x0C, 0, 7, 6, 0x41, 0x0C, 2]
    ∧ (rehop (relayed 7 f) 7 12 (leNat (relayed 7 f) 6 1)).take 10 = [0x11, 0x2C, 0, 0x0C, 7, 0x0C, 0x0D, 0x41, 0x0C, 2] := by decide +kernel

/-- R465: a single 1 from state 0 gives the taps of 0o171 and of 0o133, in turn. -/
theorem test_coded_bits : (convolve 0 [true, false, false, false, false, false, false]).map b2n = [1, 1, 1, 0, 1, 1, 1, 1, 0, 0, 0, 1, 1, 1] := by decide

/-- Chapter 19: the frame that carries CREDIT_READ, and the mailbox response to its reply. -/
def creditAsked : State :=
  let s := setEnd booted false 0 { up := true, txSeq := 6, rxSeq := 0x12, unacked := [holmiFrame 1 false 5 0x11 [0x18]] }
  setSeen (setMbx (bind 4 0 s) 4 { getMbx (bind 4 0 s) 4 with waiting := some { m := 4, opcode := 0x0801, tag := 9 } }) 0 { msg := some (.mailbox 4) }

theorem test_credit_frame : (holmiFrame 1 false 5 0x11 [0x18]).take 7 = [1, 0, 5, 0x11, 1, 0, 0x18] := by decide +kernel

theorem test_credit_reply :
    let f := holmiFrame 1 false 0x12 5 [0, 0, 0x38, 4, 0, 0, 0, 0, 0]
    f.take 15 = [1, 0, 0x12, 5, 9, 0, 0, 0, 0x38, 4, 0, 0, 0, 0, 0]
    ∧ after (fun t => ((lastMessage t 4).drop 6).take 11) (exec (.holmiFrameReceive 0 false f) creditAsked)
      = some [0, 0, 7, 0, 0x38, 4, 0, 0, 0, 0, 0] := by decide +kernel

/-- Chapter 20: SELF_TEST with mask 3 on node 1 returns cell 205. -/
theorem test_self_test_case :
    let s := { booted with swarm := { booted.swarm with node := 1 }, faults := { booted.faults with retired := [205] } }
    let r := runTests 3 0 [] s
    r.2 = [3, 0, 0, 0, 0, 0, 0, 0, 0, 0, 0, 0, 1, 0, 0, 0] ∧ r.1.faults.retired = [] := by decide +kernel

/-! ### Witnesses: for each statement with hypotheses, states and operands that meet them, at the boundary where a clause has one -/

theorem witness_StepRunsFront : booted.pending = [] ∧ alarmDue booted = false ∧ booted.swarm.running = false ∧ { booted with power := { booted.power with vbat := false } }.pending = [] := by
  decide +kernel

theorem witness_StepKeepsSafe : State.reset.safe = true ∧ (mail 0 1 [] booted).safe = true := by decide +kernel

theorem witness_MailboxRegisterWrites :
    let x := getMbx booted 0
    x.bound = some 116 ∧ ((16 : BitVec 5) - x.reqHead).toNat ≤ 16 ∧ 16 < ((17 : BitVec 5) - x.reqHead).toNat ∧ x.ringFault = false
    ∧ ((0 : BitVec 5) - x.rspHead).toNat ≤ (x.rspTail - x.rspHead).toNat ∧ (x.rspTail - x.rspHead).toNat < ((1 : BitVec 5) - x.rspHead).toNat
    ∧ (1 : W32).getLsbD 0 = true ∧ (64 : W32).toNat % 32 = 0 := by decide +kernel

theorem witness_ForeignMailboxWrites :
    (getMbx booted 31).bound ≠ some 116 ∧ (31 : W32).toNat % 32 = 31
    ∧ stampsId booted 116 = true ∧ (here booted 5 (mbxReg 31 0x14)) % 4 = 0 ∧ registerReach booted 116 (here booted 5 (mbxReg 31 0x14)) = 0 ∧ addrNode (here booted 5 (mbxReg 31 0x14)) = booted.swarm.node
    ∧ placeAt (here booted 5 (mbxReg 31 0x14)) = some { die := 5, blk := .mbx, inst := 31, word := 5, hole := false }
    ∧ collWindow booted (ringAddr booted 31) = none ∧ rangeOf booted (addrDie (ringAddr booted 31)) (addrLoc (ringAddr booted 31)) ≠ .regs
    ∧ reachCheck booted (.src 116) (ringAddr booted 31) 4 = 0 ∧ inView 116 (ringAddr booted 31) = true ∧ ringsOf booted (ringAddr booted 31) 4 = [31] ∧ ringOf booted (ringAddr booted 31) = some 31
    ∧ (getMbx booted 0).events.length + (getMbx booted 0).accepted.length < 32 ∧ (getMbx booted 0).mask.getLsbD 12 = true := by decide +kernel

theorem witness_EventsAndCompletions :
    let e : Event := ⟨0xE008, [1]⟩
    let a : Accepted := { opcode := 0x0102, tag := 3, result := some { status := 0, time := 0, extra := [] } }
    let b : Accepted := { opcode := 0x0107, tag := 2, result := none }
    let s := setMbx booted 31 { getMbx (bind 31 0 booted) 31 with events := [e], accepted := [b, a] }
    let x := getMbx s 31
    serving s = true ∧ x.bound.isSome = true ∧ x.ringFault = false ∧ freeSlots x ≠ 0 ∧ x.dropped = 0 ∧ x.events = [e]
    ∧ x.accepted = [b] ++ a :: [] ∧ (∀ c ∈ [b], c.result = none) := by decide +kernel

/-- A request with chosen flags and length. -/
def rough (m op : Nat) (flags : Byte) (len : Nat) : State :=
  memWrite (setMbx booted m { getMbx (bind m 0 booted) m with reqTail := 1, rung := true }) (ringAddr booted m) (toLE 2 op ++ [flags, 7] ++ toLE 2 len)

theorem witness_RequestChecks :
    let fails := fun (s : State) (c : W16) => requestWaits 2 s = true ∧ preCheck s 2 (reqBytes s 2) = c
    fails (rough 2 1 0x21 0) 0x1007 ∧ fails (rough 2 0x0FFF 0x20 0) 0x1001 ∧ card 0x0FFF = none ∧ fails (rough 2 0x0801 0x40 54) 0x100B
    ∧ fails (rough 2 0x0103 0x20 15) 0x1002 ∧ fails (rough 2 0x0301 0x20 1) 0x4001
    ∧ (let s := rough 2 0x0103 0x20 16; fails (setMbx s 2 { getMbx s 2 with accepted := [{ opcode := 1, tag := 7, result := none }] }) 0x1003
      ∧ fails (setMbx s 2 { getMbx s 2 with clash := [0] }) 0x1003) := by decide +kernel

theorem witness_DiscoveryCommands :
    let grant := [(31 : Byte), 0, 0x74, 0, 2, 0, 0, 0] ++ toLE 8 1 ++ toLE 2 256 ++ zeros 2
    let g := mail 0 3 ([31, 0] ++ toLE 4 (mkSrc 0 5 3 0 15).toNat ++ [0, 0] ++ toLE 8 1 ++ toLE 2 256) booted
    let r := mail 0 4 [31, 1] (bind 31 0 booted)
    asked 1 31 (mail 31 1 [] (bind 31 0 booted)) = true ∧ asked 2 0 (mail 0 2 [1, 0] booted) = true ∧ (card 1).isSome = true
    ∧ card (leNat (reqOf (mail 0 2 [0xFF, 0x0F] booted) 0).p 0 2) = none ∧ asked 2 0 (mail 0 2 [0xFF, 0x0F] booted) = true ∧ grant.length = 20
    ∧ asked 3 0 g = true ∧ leNat (reqOf g 0).p 0 1 = 31 ∧ (getMbx (taken g 0) 31).bound = none ∧ field (le32 (reqOf g 0).p 2) 31 24 = 0
    ∧ srcUnit (le32 (reqOf g 0).p 2) = 3 ∧ leNat (reqOf g 0).p 16 2 = 256
    ∧ asked 5 31 (mail 31 5 (toLE 8 3) (bind 31 0 booted)) = true
    ∧ askedLong 4 0 r = true ∧ leNat (reqOf r 0).p 1 1 = 1 ∧ (getMbx (taken r 0) 31).bound.isSome = true ∧ (getMbx (taken r 0) 31).revoking = none
    ∧ liveCtxs (taken r 0) = [] ∧ (taken r 0).obj.ctxs = [] := by decide +kernel

theorem witness_ContextCommands :
    let c := mail 2 0x0101 [0, 3, 0, 0, 15] (bind 2 15 booted)
    let d := mail 0 0x0102 [0, 0] (ctx0 booted)
    let e := mail 2 0x0102 [0, 0] (bind 2 1 (ctx0 booted))
    asked 0x0101 2 c = true ∧ leNat (reqOf c 2).p 0 1 = c.swarm.node ∧ leNat (reqOf c 2).p 1 1 = 3 ∧ leNat (reqOf c 2).p 4 1 = 15
    ∧ cmdPending (taken c 2) 0x0901 = false ∧ Tbl.count c.obj.ctxs (fun _ x => x.live && x.mailbox == 2) < (getMbx c 2).quota ∧ (getCtx c 0).live = false
    ∧ c.power.parking = false ∧ c.power.goal = none ∧ inReset (getCtx e 0) = false ∧ leNat (reqOf (mail 0 0x0102 [255, 0] booted) 0).p 0 2 / 256 = booted.swarm.node
    ∧ askedLong 0x0102 0 d = true ∧ localCtx d (leNat (reqOf d 0).p 0 2) = some 0 ∧ inReset (getCtx d 0) = false
    ∧ asked 0x0102 0 (mail 0 0x0102 [255, 0] booted) = true ∧ localCtx booted 255 = none
    ∧ asked 0x0102 2 e = true ∧ localCtx e (leNat (reqOf e 2).p 0 2) = some 0 ∧ (getCtx e 0).mailbox ≠ 2 := by decide +kernel

theorem witness_MemoryObjectCommands :
    let c := mail 0 0x0103 ([0, 0, 0x0F, 0, 0, 3, 0, 0] ++ toLE 8 256) (ctx0 booted)
    let d := mail 0 0x0104 (toLE 4 0x00010005) (object 5 0x10000 1 (ctx0 booted))
    let l := fun (s : State) => mail 0 0x0105 (toLE 4 0x00010005 ++ [1]) s
    let own := object 5 0x10000 1 (ctx0 booted)
    let kept := setMot own 5 { getMot own 5 with lock := 2 }
    asked 0x0103 0 c = true ∧ field (byteAt (reqOf c 0).p 2) 7 4 = 0 ∧ leNat (reqOf c 0).p 8 8 = 256 ∧ leNat (reqOf c 0).p 4 1 = leNat (reqOf c 0).p 0 2 / 256
    ∧ leNat (reqOf c 0).p 5 1 = 3 ∧ localCtx c (leNat (reqOf c 0).p 0 2) = some 0 ∧ dieDown c 3 = false
    ∧ freeEntry c = some 0 ∧ placeLpddr c 3 256 = some (here c 3 0)
    ∧ asked 0x0104 0 d = true ∧ (getMot d 5).kind = 1 ∧ (getMot d 5).gen.toNat = field (le32 (reqOf d 0).p 0) 31 16 ∧ (getMot d 5).refs = 0
    ∧ bitOf (getMot d 5).lock 0 = false
    ∧ (let r := setMot d 5 { getMot d 5 with refs := 1 }; let k := setMot d 5 { getMot d 5 with lock := 1 }
        asked 0x0104 0 r = true ∧ (getMot r 5).refs ≠ 0 ∧ asked 0x0104 0 k = true ∧ (getMot k 5).refs = 0 ∧ bitOf (getMot k 5).lock 0 = true) ∧ (localCtx d (getMot d 5).owner.toNat).any (fun c => inReset (getCtx d c)) = false
    ∧ asked 0x0105 0 (l own) = true ∧ leNat (reqOf (l own) 0).p 4 1 = 1 ∧ bitOf (getMot own 5).lock 1 = false
    ∧ asked 0x0105 0 (l kept) = true ∧ bitOf (getMot (l kept) 5).lock 1 = true := by decide +kernel

theorem witness_QueueCommands :
    let s0 := fence 3 0 (object 2 0x10000 1024 (ctx0 booted))
    let c := mail 0 0x0106 ([0, 0, 3, 12] ++ toLE 4 0x00010002 ++ toLE 4 0x00010003 ++ toLE 8 0) s0
    let d := mail 0 0x0107 [7, 0, 1] (setQueue (queue 7 3 0 (ctx0 booted)) 7 { getQueue (queue 7 3 0 (ctx0 booted)) 7 with
      inflight := [{ num := 0, bytes := zeros 64, started := 0 }] })
    asked 0x0106 0 c = true ∧ maskBad 3 0 = false ∧ leNat (reqOf c 0).p 3 1 = 12 ∧ localCtx c (leNat (reqOf c 0).p 0 2) = some 0
    ∧ 256 * (getMot c 2).size = 64 * 2 ^ leNat (reqOf c 0).p 3 1 ∧ (getMot c 2).place ≠ 1 ∧ bitOf (getMot c 2).perm 0 = true ∧ (getMot c 3).kind = 2
    ∧ (getMot c 2).owner.toNat = leNat (reqOf c 0).p 0 2 ∧ (getQueue c 0).live = false
    ∧ askedLong 0x0107 0 d = true ∧ leNat (reqOf d 0).p 2 1 = 1 ∧ (getQueue d 7).live = true ∧ (getQueue d 7).state ≠ .draining
    ∧ localCtx d (getQueue d 7).ctx.toNat = some 0 ∧ (getQueue d 7).inflight.length = 1 := by decide +kernel

theorem witness_FenceAndMonitorCommands :
    let c := mail 0 0x0108 ([0, 0, 0, 0, 0, 0, 0, 0] ++ toLE 8 (2 ^ 63 - 1)) (ctx0 booted)
    let dead := setMot (fence 3 (2 ^ 63 + 5) (ctx0 booted)) 3 { getMot (fence 3 0 booted) 3 with shadow := 5 }
    let r := mail 0 0x0109 (toLE 4 0x00010003 ++ [0, 0, 0, 0] ++ toLE 8 6) dead
    let a := mail 0 0x010A [0, 0, 0, 0x10] (ctx0 booted)
    asked 0x0108 0 c = true ∧ leNat (reqOf c 0).p 8 8 = 2 ^ 63 - 1 ∧ localCtx c (leNat (reqOf c 0).p 0 2) = some 0 ∧ freeEntry c = some 0
    ∧ asked 0x0109 0 r = true ∧ (getMot r 3).kind = 2 ∧ bitOf (fenceWord r 3) 63 = true ∧ (getMot r 3).shadow < leNat (reqOf r 0).p 8 8
    ∧ asked 0x010A 0 a = true ∧ leNat (reqOf a 0).p 2 2 = 4096 ∧ localCtx a (leNat (reqOf a 0).p 0 2) = some 0 ∧ freeSlotRun a 4096 = some 0 := by
  decide +kernel

theorem witness_JobLoadCommand :
    let p := fun (n : Nat) => [0, 0, 0, 0] ++ toLE 4 0x00010005 ++ toLE 8 n ++ toLE 4 0x00010006
    let s0 := object 6 0x20000 1 (object 5 0x10000 2 (ctx0 booted))
    let s := mail 0 0x010B (p 264) (memWrite s0 0x10000 (toLE 4 0x424F4A5A ++ [1, 0, 0, 0, 1, 0, 0, 0]))
    let t := mail 0 0x010B (p 264) s0
    askedLong 0x010B 0 s = true ∧ leNat (reqOf s 0).p 8 8 = 264 ∧ localCtx s (leNat (reqOf s 0).p 0 2) = some 0 ∧ (getMot s 5).kind = 1 ∧ 264 ≤ 256 * (getMot s 5).size
    ∧ bitOf (getMot s 6).perm 1 = true ∧ bitOf (getMot s 6).lock 0 = false ∧ freeEntry s = some 0 ∧ (placeLpddr s 0 512).isSome = true
    ∧ reachCheck (taken s 0) .keeper 0x10000 264 = 0 ∧ reachCheck (taken s 0) .keeper 0x20000 48 = 0 ∧ checksOk (acceptedState s 0) 0x10000 264 = true
    ∧ imageCount ((memRead (acceptedState s 0) 0x10000 264).take 256) 264 = some 1
    ∧ askedLong 0x010B 0 t = true ∧ imageCount ((memRead (acceptedState t 0) 0x10000 264).take 256) 264 = none := by decide +kernel

/-- A cell job of context 0 with two instruction words at 0x30000. -/
def job0 : CellJob := ⟨0, 0, 0, 0x30000, 2, 0, 2, 0, 1, 0, 0, false⟩

/-- Cell 31 of die 3 at its last instruction, the word `w`, with the rest of the cell as `x`. -/
def runs (w : W64) (x : Cell) : State :=
  setCell (memWrite (object 9 (cellStore booted 3 31) 0x1800 (object 5 0x50000 0x2000 (ctx0 booted))) 0x30008 (toLE 8 w.toNat)) 3 31 { x with state := .running, pc := 1, job := some job0 }

/-- The instruction word with its fields. -/
def word (opc d a b c imm : Nat) : W64 := BitVec.ofNat 64 (opc + 256 * d + 8192 * a + 2 ^ 18 * b + 2 ^ 23 * c + 2 ^ 32 * imm)

/-- No parcel of the state fails its check. -/
theorem ownOk_clean (u : Unit1) (off n al : Nat) (w : Bool) (s : State) (h : s.mem.bad = []) (g : off % al = 0 ∧ off + n ≤ 0x180000
    ∧ hazard (cellStore s u.die u.cell) u.x off n w = false ∧ permCheck s (.unit u.j.ctx.toNat true u.die) (cellStore s u.die u.cell + off) n w = 0) : ownOk u off n al w s = true := by
  obtain ⟨a, b, c, d⟩ := g
  simp [ownOk, h, Tbl.get, a, b, c, d]

theorem witness_ScalarOperations :
    (upFrom 0x12 9).all (fun o => ready o usesAlu 3 31 (runs (word o 31 1 2 0 0) default) && ready o usesAlu 3 31 (runs (word o 0 1 0 0 0) default)) = true
    ∧ ready 0x1B { d := true, a := true, imm := 32 } 3 31 (runs (word 0x1B 31 1 0 0 0xFFFFFFFF) default) = true
    ∧ ready 0x10 { d := true, imm := 32 } 3 31 (runs (word 0x10 0 0 0 0 0xFFFFFFFF) default) = true
    ∧ ready 0x11 { d := true, imm := 32 } 3 31 (runs (word 0x11 31 0 0 0 0xFFFFFFFF) default) = true := by decide +kernel

theorem witness_ControlInstructions :
    let x : Cell := { s := [(1, 5), (2, 5)] }
    ready 0 {} 3 31 (runs 0 x) = true ∧ ready 2 { imm := 32 } 3 31 (runs (word 2 0 0 0 0 1) x) = true ∧ (1 : Nat) < job0.words
    ∧ (upFrom 0 6).all (fun c => ready 3 { a := true, b := true, c := true, imm := 32 } 3 31 (runs (word 3 0 1 2 c 1) x)
        && ready 3 { a := true, b := true, c := true, imm := 32 } 3 31 (runs (word 3 0 1 0 c 1) x)) = true
    ∧ (upFrom 0 6).all (fun k => ready 4 { d := true, imm := 32 } 3 31 (runs (word 4 0 0 0 0 k) x)) = true
    ∧ ready 0x1C { d := true, imm := 32 } 3 31 (runs (word 0x1C 5 0 0 0 248) x) = true
    ∧ ready 0x40 { imm := 16 } 3 31 (runs (word 0x40 0 0 0 0 0x33) x) = true ∧ numctlOk 0x33 = true
    ∧ ready 1 {} 3 31 (runs 1 x) = true ∧ x.dma = [] ∧ x.wait = none ∧ job0.item + job0.n < job0.items
    ∧ ready 1 {} 3 31 (setCell (runs 1 x) 3 31 { getCell (runs 1 x) 3 31 with job := some { job0 with item := 1 } }) = true := by decide +kernel

theorem witness_StoreAccesses :
    let x : Cell := { s := [(1, 0x17FF80), (2, 0x17FFF8)] }
    let at1 := fun (o d b imm : Nat) => runs (word o d 1 b 0 imm) x
    ready 0x1D { d := true, a := true, imm := 32 } 3 31 (runs (word 0x1D 3 2 0 0 0) x) = true ∧ ownOk (unitOf (runs 0 x) 3 31) 0x17FFF8 8 8 false (runs 0 x) = true
    ∧ ready 0x20 { d := true, a := true, imm := 32 } 3 31 (at1 0x20 31 0 0) = true ∧ ownOk (unitOf (runs 0 x) 3 31) 0x17FF80 128 128 false (runs 0 x) = true
    ∧ (upFrom 0 7).all (fun k => ready 0x22 { d := true, a := true, imm := 4 } 3 31 (at1 0x22 31 0 k)
        && ownOk (unitOf (at1 0x22 31 0 k) 3 31) 0x17FF80 (elemBytes k 32) (elemBytes k 32) false (at1 0x22 31 0 k)) = true
    ∧ ready 0x1E { a := true, b := true, imm := 32 } 3 31 (runs (word 0x1E 0 2 1 0 0) x) = true ∧ ownOk (unitOf (runs 0 x) 3 31) 0x17FFF8 8 8 true (runs 0 x) = true
    ∧ ready 0x21 { a := true, b := true, imm := 32 } 3 31 (at1 0x21 0 31 0) = true ∧ ownOk (unitOf (runs 0 x) 3 31) 0x17FF80 128 128 true (runs 0 x) = true
    ∧ (upFrom 0 7).all (fun k => ready 0x23 { a := true, b := true, imm := 6 } 3 31 (at1 0x23 0 31 (48 + k))
        && ownOk (unitOf (at1 0x23 0 31 k) 3 31) 0x17FF80 (elemBytes k 32) (elemBytes k 32) true (at1 0x23 0 31 k)) = true := by decide +kernel

theorem witness_VectorOperations :
    (upFrom 0x24 9).all (fun o => o == 0x27 || ready o usesAlu 3 31 (runs (word o 31 1 1 0 0) default) || ready o uses1 3 31 (runs (word o 31 1 0 0 0) default)) = true
    ∧ ready 0x27 { d := true, a := true, b := true, c := true } 3 31 (runs (word 0x27 0 1 2 3 0) default) = true
    ∧ (upFrom 0x2C 7).all (fun o => ready o uses1 3 31 (runs (word o 31 1 0 0 0) default)) = true := by decide +kernel

/-- The panels of a product at 0, of one column, and the tile and the addends at 0x40000. -/
def tileCell : Cell := { numctl := 0x33, s := [(1, 0), (2, 0x40000), (3, 0x40000)] }

theorem witness_AccumulatorInstructions :
    let s := fun (w : W64) => runs w tileCell
    let ok := fun (off n al : Nat) (wr : Bool) => ownOk (unitOf (s 0) 3 31) off n al wr (s 0)
    (ready 0x42 usesMma 3 31 (s (word 0x42 3 1 1 0 1)) = true ∧ ready 0x41 usesMma 3 31 (s (word 0x41 3 1 1 0 0x10020)) = true
    ∧ ready 0x43 { d := true } 3 31 (s (word 0x43 3 0 0 0 0)) = true ∧ ready 0x45 uses1 3 31 (s (word 0x45 3 2 0 0 0)) = true
    ∧ ready 0x47 { d := true, a := true, imm := 32 } 3 31 (s (word 0x47 3 2 0 0 1)) = true ∧ ready 0x44 uses1 3 31 (s (word 0x44 3 2 0 0 0)) = true
    ∧ ready 0x46 uses1 3 31 (s (word 0x46 3 2 0 0 0)) = true
    ∧ ready 0x48 { d := true, a := true, b := true, c := true, imm := 1 } 3 31 (s (word 0x48 3 2 1 3 1)) = true
    ∧ blocksOk 0x33 = true ∧ (numctl 0x33).out ≠ 7)
    ∧ ok 0 (elemBytes 3 64) 64 false = true ∧ ok 0 (elemBytes 3 2048) 64 false = true ∧ ok 0x40000 64 64 false = true
    ∧ ok 0x40000 131072 256 false = true ∧ ok 0x40000 8192 256 false = true ∧ ok 0x40000 131072 256 true = true ∧ ok 0x40000 8192 256 true = true
    ∧ ok 0x40000 16384 256 false = true := by
  refine ⟨by decide +kernel, ?_, ?_, ?_, ?_, ?_, ?_, ?_, ?_⟩ <;> exact ownOk_clean _ _ _ _ _ _ (by decide +kernel) (by decide +kernel)

theorem equal_terms (n : NumCtl) (z : Bytes) (r c : Nat) (hr : elemAt n.a z r = 0) (hc : elemAt n.b z c = 0) (ha : elemAt n.a z 0 = 0)
    (hb : elemAt n.b z 0 = 0) : entryTerms n 64 1 z z none r c = entryTerms n 64 1 z z none 0 0 := by
  simp [entryTerms, upFrom, hr, hc, ha, hb]

/-- Every entry of a product of zeros takes its terms, and the packed entries of a clear tile are each one. -/
theorem witness_AccumulatorEntries : memRead (runs 0 tileCell) (cellStore booted 3 31) 64 = zeros 64
    ∧ (∀ i, i < 4096 → (mmaEntry (directGroup (numctl 0x33) false) (entryTerms (numctl 0x33) 64 1 (zeros 64) (zeros 64) none (i / 64) (i % 64)) {}).isSome = true
      ∧ (amaxEntry (entryTerms (numctl 0x33) 64 1 (zeros 64) (zeros 64) none (i / 64) (i % 64)) {}).isSome = true)
    ∧ (addEntry {} (unpackEntry (zeros 32))).isSome = true ∧ partialBad (zeros 32) = 0 ∧ (ldancEntry true 0 {}).isSome = true := by
  refine ⟨by decide +kernel, fun i h => ?_, by decide +kernel⟩
  have z : ∀ k, k < 64 → elemAt (numctl 0x33).a (zeros 64) k = 0 ∧ elemAt (numctl 0x33).b (zeros 64) k = 0 := by decide +kernel
  rw [equal_terms _ _ (i / 64) (i % 64) (z _ (by omega)).1 (z _ (by omega)).2 (z 0 (by decide)).1 (z 0 (by decide)).2]
  decide +kernel

theorem witness_DataMovesAndFences :
    let x : Cell := { s := [(1, 0), (2, 0x50000), (3, 256), (4, BitVec.ofNat 64 (fenceAddr booted 3)), (5, 2 ^ 63 - 1)] }
    let s := fun (w : W64) => fence 3 5 (runs w x)
    let d : Dma := { isGet := true, loc := 0, addr := 0x50000, bytes := 256 }
    let o := runs 0 { x with dma := List.replicate 16 d, wait := some ⟨fenceAddr booted 3, 5, 31, true⟩ }
    let stopped := fun (l : List Dma) => setCell o 3 31 { getCell o 3 31 with job := some { job0 with stopped := true }, dma := l }
    ready 0x50 usesDma 3 31 (s (word 0x50 0 1 2 3 0)) = true ∧ ready 0x51 usesDma 3 31 (s (word 0x51 0 1 2 3 0)) = true
    ∧ ownOk (unitOf (s 0) 3 31) 0 256 256 true (s 0) = true ∧ ownOk (unitOf (s 0) 3 31) 0 256 256 false (s 0) = true
    ∧ (getCell o 3 31).dma[15]? = some d ∧ (localCtx o 0).any (fun c => !inReset (getCtx o c)) = true
    ∧ windowAt o 0x50000 256 = none ∧ d.retry = false ∧ job0.stopped = false ∧ ((getCell (stopped [d, d]) 3 31).dma.eraseIdx 1) ≠ []
    ∧ ((getCell (stopped [d]) 3 31).dma.eraseIdx 0) = [] ∧ (getCell (stopped [d]) 3 31).job.map (·.stopped) = some true
    ∧ ¬ (cellStore booted 3 31 ≤ 0x50000 ∧ 0x50000 < cellStore booted 3 31 + 0x180000)
    ∧ accessCheck o (.unit 0 true 3) 0x50000 256 false = 0 ∧ accessCheck o (.unit 0 true 3) 0x50000 256 true = 0 ∧ checksOk o 0x50000 256 = true
    ∧ ready 0x52 { d := true, a := true, b := true, imm := 1 } 3 31 (s (word 0x52 31 4 5 0 1)) = true
    ∧ waitCheck (s 0) (.unit 0 true 3) 0 (fenceAddr booted 3) = 0 ∧ (pathStop (s 0) 2 (portOfFence (fenceAddr booted 3) true) 3 3).1 = 0
    ∧ (getCell (fence 3 5 o) 3 31).wait = some ⟨fenceAddr booted 3, 5, 31, true⟩ ∧ waitWord (fence 3 5 o) (fenceAddr booted 3) = 5
    ∧ ready 0x53 { a := true, b := true, imm := 1 } 3 31 (s (word 0x53 0 4 5 0 1)) = true ∧ fenceIndex (s 0) (fenceAddr booted 3) = some 3 := by
  decide +kernel

/-- The place of a register address of node 0. -/
def placeOf (a : Nat) : RegPlace := (placeAt a).getD ⟨0, .ao, 0, 0, true⟩

/-- Payload of a register command. -/
def regReq (a : Nat) (v mask : W32) : Bytes := toLE 6 a ++ [0, 0] ++ toLE 4 v.toNat ++ toLE 4 mask.toNat

/-- Address of a register of die `d` at offset `o` of its register window. -/
def reg (d o : Nat) : Nat := here booted d (0x01000000000 + o)

theorem witness_RegisterCommands :
    let plain := reg 5 0xA020004
    let low := reg 5 0xA000000
    let vec := reg 5 0xA08003C
    let rd := fun (a : Nat) => mail 31 0x0201 (toLE 6 a ++ [0, 0, 1]) (bind 31 0 booted)
    let rd0 := fun (a : Nat) => mail 0 0x0201 (toLE 6 a ++ [0, 0, 1]) booted
    let wr := fun (m : Nat) (a : Nat) (mask : W32) => mail m 0x0202 (regReq a 0xFFFFFFFF mask) (bind m 0 booted)
    let latched := { rd0 (low + 4) with keeper := { (rd0 (low + 4)).keeper with latches := [(low, some (7 : W32))] } }
    placeAt plain = some (placeOf plain) ∧ zeroIn (reqOf (rd0 plain) 0).p 6 8 = true ∧ plain % 4 = 0 ∧ regReach booted (placeOf plain) = 0
    ∧ regReach booted (placeOf low) = 0 ∧ regReach booted (placeOf vec) = 0
    ∧ asked 0x0201 0 (rd0 plain) = true ∧ leNat (reqOf (rd0 plain) 0).p 8 1 = 1 ∧ mayReadReg booted 0 (placeOf plain) = true ∧ isLow (placeOf plain) = false
    ∧ asked 0x0201 31 (rd (reg 5 0x3000000)) = true ∧ mayReadReg (rd (reg 5 0x3000000)) 31 (placeOf (reg 5 0x3000000)) = true
    ∧ asked 0x0201 0 (rd0 low) = true ∧ isLow (placeOf low) = true ∧ mayReadReg booted 0 (placeOf low) = true
    ∧ asked 0x0201 0 latched = true ∧ isLow (placeOf (low + 4)) = false ∧ Tbl.get none latched.keeper.latches low = some (7 : W32) ∧ (placeOf (low + 4)).word = 1
    ∧ isLow { placeOf (low + 4) with word := 0 } = true
    ∧ asked 0x0202 31 (wr 31 vec 1) = true ∧ regClosed (placeOf vec) = 0 ∧ mayWriteReg (wr 31 vec 1) 31 (placeOf vec) = false
    ∧ asked 0x0202 0 (wr 0 (reg 5 0xA010000) 1) = true ∧ regReach booted (placeOf (reg 5 0xA010000)) = 0 ∧ (1 : W32) &&& stagedMask (placeOf (reg 5 0xA010000)) ≠ 0
    ∧ asked 0x0202 0 (wr 0 vec 0) = true ∧ mayWriteReg (wr 0 vec 0) 0 (placeOf vec) = true
    ∧ asked 0x0202 0 (wr 0 vec 0xFFFFFFFF) = true ∧ (placeOf vec).blk = .vector ∧ (placeOf vec).hole = false := by decide +kernel

theorem witness_StagedCommit :
    let a := reg 5 0xA010020
    let st := mail 0 0x0203 (regReq a 0x1FFFF 0x1FFFF) booted
    let id := kpolId booted
    let held := setBlock booted id { getBlock booted id with holder := some 0 }
    let co := fun (g : W16) => mail 0 0x0204 (toLE 4 id ++ toLE 2 g.toNat) held
    let dis := mail 0 0x0205 (toLE 4 id) booted
    let c : CmdRef := { m := 0, opcode := 0x0204, tag := 7 }
    let pend := setBlock booted id { getBlock booted id with pending := some c }
    let sw := setBlock { booted with net := { booted.net with switching := some 5, waiting := [0] } } (routeId booted 5) { pending := some c }
    let moved := setBlock sw (routeId sw 5) { getBlock sw (routeId sw 5) with staging := [(0, 1)] }
    let busy := { moved with net := { moved.net with bufs := [(4 * (8 * (64 * 5) + 0), [default])] } }
    dieDown st 5 = false ∧ drained sw 5 = true ∧ drained busy 5 = false ∧ (getBlock pend id).applied = false ∧ (getBlock sw (routeId sw 5)).applied = false
    ∧ sw.net.held = [] ∧ sw.net.waiting.head? = some 0
    ∧ asked 0x0203 0 st = true ∧ placeAt a = some (placeOf a) ∧ (placeOf a).word = 8 ∧ mayWriteReg st 0 (placeOf a) = true
    ∧ le32 (reqOf st 0).p 12 &&& stagedMask (placeOf a) ≠ 0 ∧ (getBlock st (blockOf st (placeOf a))).holder = none
    ∧ (getBlock st (blockOf st (placeOf a))).pending = none ∧ zeroIn (reqOf st 0).p 6 8 = true
    ∧ askedLong 0x0204 0 (co ((getBlock held id).gen + 1)) = true ∧ blockKind id = some .policy ∧ id % 256 = held.swarm.node
    ∧ kpolOk (stagingGet held id) = true ∧ (getBlock held id).pending = none ∧ leNat (reqOf (co 1) 0).p 0 4 = id
    ∧ asked 0x0204 0 (co (getBlock held id).gen) = true ∧ asked 0x0205 0 dis = true ∧ mayBlock dis 0 .policy = true
    ∧ (getBlock pend id).pending = some c ∧ (getBlock pend id).orphan = false
    ∧ sw.net.switching = some 5 ∧ (getBlock sw (routeId sw 5)).pending = some c ∧ (getBlock sw (routeId sw 5)).orphan = false
    ∧ booted.net.switching ≠ some 5 := by decide +kernel

theorem witness_EnablingWrites :
    let s0 := fence 3 0 (object 2 0x10000 1024 (ctx0 booted))
    let at0 := fun (a : Nat) (v mask : W32) (s : State) => mail 0 0x0202 (regReq a v mask) s
    let fits := fun (s : State) (a : Nat) => asked 0x0202 0 s && decide (leNat (reqOf s 0).p 0 6 = a) && decide ((placeOf a).word = 0) && !(placeOf a).hole && regReach s (placeOf a) == 0
    let ch : Channel := { bufCount := 2, bufParcels := 2, stride := 1, flush := 1, ring := 0x00010002, fence := BitVec.ofNat 48 (fenceAddr booted 3) }
    let rl : Relay := { txRing := 0x00010002, rxRing := 0x00010002, rxFence := BitVec.ofNat 48 (fenceAddr booted 3) }
    let ing := reg 4 (0x200000 + 0x100 * 19)
    let hl := reg 5 (0x5100000 + 0x100 * 3)
    let pat := reg 5 (0x9200000 + 0x40 * 4)
    let patUp := setEnd (setEnd booted false 3 { up := true }) true 3 { up := true }
    fits (at0 (reg 4 (0xA000000 + 16 * 6)) 0x7FF 0x7FF booted) (reg 4 (0xA000000 + 16 * 6)) = true ∧ (placeOf (reg 4 (0xA000000 + 16 * 6))).blk = .region
    ∧ fits (at0 ing 1 1 (setChan s0 19 ch)) ing = true ∧ (placeOf ing).blk = .ing ∧ (placeOf ing).inst = 19
    ∧ ingestCheck (taken (at0 ing 1 1 (setChan s0 19 ch)) 0) 19 ch = 0 ∧ ingestCheck (taken (at0 ing 1 1 booted) 0) 19 {} ≠ 0
    ∧ fits (at0 ing 0 1 (setChan s0 19 { ch with enable := true })) ing = true
    ∧ fits (at0 hl 0x40400 0x7FFFF (setRelay s0 3 rl)) hl = true ∧ (placeOf hl).blk = .hlink ∧ relayCheck s0 { rl with count := 128 } = 0
    ∧ (relayCheck s0 { rl with count := 129 } ≠ 0) ∧ (getEnd s0 false 3).up = false
    ∧ fits (at0 pat 1 1 booted) pat = true ∧ (placeOf pat).blk = .pat ∧ (placeOf pat).inst = 4 ∧ patIdle booted 5 4 = true ∧ patIdle patUp 5 4 = false := by
  decide +kernel

theorem witness_IndexWrites :
    let s := setChan (setRelay (ctx0 booted) 3 { count := 16, txHead := 0xFFFFFFFF, rxHead := 0xFFFFFFFF }) 19 { filled := 5, released := 0xFFFFFFFF }
    (localCtx s (getChan s 19).bind.toNat).any (srcOfCtx s 116) = true ∧ (localCtx s (getChan s 19).bind.toNat).any (srcOfCtx s 117) = false
    ∧ ((5 : W32) - (getChan s 19).released).toNat ≤ ((getChan s 19).filled - (getChan s 19).released).toNat
    ∧ (localCtx s (getRelay s 3).context.toNat).any (srcOfCtx s 116) = true ∧ (localCtx s (getRelay s 3).context.toNat).any (srcOfCtx s 117) = false
    ∧ ((15 : W32) - (getRelay s 3).txHead).toNat ≤ (getRelay s 3).count.toNat ∧ (getRelay s 3).count.toNat < ((16 : W32) - (getRelay s 3).txHead).toNat
    ∧ (getEnd s false 3).up = false := by decide +kernel

theorem witness_DirectAccesses :
    let s := object 5 0x50000 1 (ctx0 booted)
    let plain := fun (a : Nat) => collWindow s a = none ∧ rangeOf s (addrDie a) (addrLoc a) ≠ .regs ∧ addrNode a = s.swarm.node ∧ ringOf s a = none
    stampsId s 116 = true ∧ stampsId s 5 = false ∧ inView 116 0x50000 = true ∧ inView 116 (reg 5 0xA000000) = false
    ∧ rangeOf s (addrDie 0x50000) (addrLoc 0x50000) = .lpddr ∧ plain 0x50000 ∧ plain 0x500FF ∧ rangeOf s (addrDie 0x50000) (addrLoc 0x50000) = .lpddr ∧ accessCheck s (.src 116) 0x50000 256 true = 0
    ∧ accessCheck s (.src 116) 0x500FF 1 false = 0 ∧ checksOk s 0x500FF 1 = true ∧ reachCheck s (.src 116) 0x500FF 2 = 0 ∧ accessCheck s (.src 116) 0x500FF 2 true ≠ 0
    ∧ reachCheck s (.src 116) 0x50000 256 = 0 ∧ accessCheck s (.src 117) 0x50000 256 false ≠ 0
    ∧ stampsId s (mkSrc 0 5 3 0 15) = true ∧ inView (mkSrc 0 5 3 0 15) (reg 5 0xA08003C) = true ∧ registerReach s (mkSrc 0 5 3 0 15) (reg 5 0xA08003C) = 0 ∧ (placeOf (reg 5 0xA08003C)).blk = .vector ∧ srcSub (mkSrc 0 5 3 0 15) = (placeOf (reg 5 0xA08003C)).word
    ∧ srcUnit (mkSrc 0 5 3 0 15) = 3 ∧ srcNode (mkSrc 0 5 3 0 15) = s.swarm.node
    ∧ ([(5, 0x3000000, RegBlock.mot), (5, 0xA060000, .dom), (5, 0xA020000, .flt), (5, 0xA010000, .kpol), (0, 0x9100000, .rtr), (4, 0xA000000, .region),
        (5, 0x5001000, .published)].all (fun e => (placeOf (reg e.1 e.2.1)).blk == e.2.2 && registerReach s 52 (reg e.1 e.2.1) == 0 && inView 52 (reg e.1 e.2.1) && stampsId s 52)) = true := by decide +kernel

/-- Queue 7 for units of kind `target` with one submitted descriptor: its type, its body, and no wait and no signal. -/
def described (target typ : Nat) (mask : W64) (body : Bytes) : State :=
  let s := object 5 0x50000 0x2000 (queue 7 target mask (ctx0 booted))
  memWrite (setQueue s 7 { getQueue s 7 with submitted := 1 }) 0x10000 (toLE 8 typ ++ zeros 32 ++ body)

/-- A parameter block of a SELECT of 12 Z8e4 keys at 0x50000, in 256 bytes, into 0x51000. -/
def selBlock : Bytes :=
  [0, 3, 0, 0] ++ toLE 2 4 ++ toLE 2 0 ++ toLE 4 12 ++ toLE 4 1 ++ toLE 8 0x50000 ++ toLE 8 0x51000 ++ zeros 16 ++ toLE 4 0 ++ toLE 4 256 ++ zeros 200

/-- A parameter block of a TILE product of one term, from 0x50000 and 0x51000 into 0x52000. -/
def tileBlock : Bytes :=
  zeros 4 ++ toLE 4 1 ++ toLE 8 0x50000 ++ zeros 8 ++ toLE 8 0x51000 ++ zeros 24 ++ toLE 8 0x52000 ++ zeros 24 ++ toLE 4 0x3F800000 ++ toLE 4 0x3F800000 ++ zeros 160

/-- The body of a KERNEL of job image 8, of one item. -/
def kernelBody : Bytes := toLE 4 0x00010008 ++ zeros 12 ++ toLE 2 1 ++ toLE 2 0x33 ++ zeros 4

/-- Queue 7 with a KERNEL of a job image of one instruction. -/
def kernelState : State :=
  memWrite (setMot (described 0 1 (2 ^ 35 + 2 ^ 31 + 1) kernelBody) 8 { base := 0x40000, size := 2, perm := 1, kind := 4, owner := 0, creator := 0, imageBytes := 264 }) 0x40000
    (toLE 4 0x424F4A5A ++ [1, 0, 0, 0, 1, 0, 0, 0])

theorem witness_DoorbellAndStart :
    let d := described 3 5 0 (zeros 24)
    let copy := described 3 2 0 (toLE 8 0x50000 ++ toLE 8 0x51000 ++ toLE 8 256)
    let sel := memWrite (described 1 3 (2 ^ 32 + 3) (toLE 8 0x60000 ++ zeros 16)) 0x60000 selBlock
    let tile := memWrite (described 2 4 3 (toLE 8 0x60000 ++ zeros 4 ++ toLE 2 0x33 ++ toLE 2 1 ++ zeros 8)) 0x60000 tileBlock
    let x := getQueue d 7
    x.live = true ∧ mayRing d 116 x = true ∧ mayRing d 117 x = false ∧ x.state ≠ .halted ∧ x.state ≠ .draining
    ∧ (16 : W32) ≠ x.submitted ∧ ((16 : W32) - x.retired).toNat ≤ 2 ^ x.log2 ∧ ((16 : W32) - x.submitted).toNat < 2 ^ 31
    ∧ 2 ^ x.log2 < ((17 : W32) - x.retired).toNat
    ∧ queueReady 5 7 d = true ∧ queueReady 6 7 (described 3 6 0 (zeros 24)) = true ∧ queueReady 2 7 copy = true
    ∧ queueReady 1 7 kernelState = true ∧ leNat (nextDesc kernelState 7) 48 8 = 0 ∧ gatherUnits 1 (2 ^ 35 + 2 ^ 31 + 1) kernelState = .go [96, 127] []
    ∧ queueReady 3 7 sel = true ∧ readParams 0 0x60000 sel = .inl selBlock ∧ selCheck selBlock = 0 ∧ extentsOk sel 0 (selParams selBlock).extents = true
    ∧ gatherUnits 3 (2 ^ 32 + 3) sel = .go [0, 1] []
    ∧ queueReady 4 7 tile = true ∧ readParams 0 0x60000 tile = .inl tileBlock ∧ tileCheck (nextDesc tile 7) tileBlock = 0
    ∧ extentsOk tile 0 (tileExtents (nextDesc tile 7) tileBlock) = true ∧ gatherUnits 4 3 tile = .go (upFrom 0 16) [] := by decide +kernel

/-- Queue 7 with a descriptor in flight. -/
def flying (target typ : Nat) (body ps : Bytes) (units : List Nat) : State :=
  let s := described target typ 0 body
  setQueue s 7 { getQueue s 7 with startedCount := 1, inflight := [{ num := 0, bytes := toLE 8 typ ++ zeros 32 ++ body, params := ps, started := 0, units := units }] }

theorem witness_FinishAndRetire :
    let c := flying 3 2 (toLE 8 0x50000 ++ toLE 8 0x51000 ++ toLE 8 256) [] []
    let k := flying 0 1 kernelBody [] [0, 127]
    let rep := setMot k 6 { base := 0x51000, size := 1, perm := 3, kind := 1, owner := 0 }
    let s := flying 1 3 (zeros 24) selBlock [0, 31]
    let t := flying 2 4 (zeros 12 ++ toLE 2 0x33 ++ toLE 2 1 ++ zeros 8) tileBlock [95]
    let tb := toLE 8 4 ++ zeros 32 ++ zeros 12 ++ toLE 2 0x33 ++ toLE 2 1 ++ zeros 8
    let f := setQueue c 7 { getQueue c 7 with inflight := (getQueue c 7).inflight.map (fun d => { d with finished := true }) }
    (getQueue c 7).live = true ∧ (getQueue c 7).state ≠ .draining ∧ (localCtx c 0).any (fun i => !inReset (getCtx c i)) = true
    ∧ collWindow c 0x51000 = none ∧ accessCheck c (.unit 0 false 5) 0x50000 256 false = 0 ∧ accessCheck c (.unit 0 false 5) 0x51000 256 true = 0
    ∧ checksOk c 0x50000 256 = true ∧ windowAt c 0x50000 256 = none ∧ windowAt c 0x51000 256 = none ∧ addrNode 0x51000 = c.swarm.node
    ∧ (getCell k 0 0).job = none ∧ (getCell k 3 31).job = none
    ∧ resolve rep 0x00010006 = some 6 ∧ accessCheck rep (.unit 0 false 5) (getMot rep 6).base 8 true = 0 ∧ checksOk rep (getMot rep 6).base 8 = true
    ∧ (runAccess s (fun i => .unit 0 true ([0, 31].getD i 0 / 8)) ((selParams selBlock).accesses 2)).1 = 0
    ∧ (runAccess t (fun _ => .unit 0 true 4) (tileAccesses (tileParams tb tileBlock) 1)).1 = 0
    ∧ (match runItems (tileParams tb tileBlock) 0 [95] (tileParams tb tileBlock).items 0
        (sendReads (fun _ => .unit 0 true 4) (fun _ => mkSrc 0 4 6 95 0) (tileAccesses (tileParams tb tileBlock) 1) t) with | .inl _ => true | .inr _ => false) = true
    ∧ ((getQueue f 7).inflight.map (fun e => (e.finished, e.failed))) = [(true, none)] := by decide +kernel

theorem witness_FenceSignals :
    let g := fun (add : Bool) (v : W64) (src : W32) => ({ fence := 65535, add := add, value := v, origin := .port src } : Signal)
    let s := fence 65535 (2 ^ 63 - 1) (ctx0 booted)
    let bare := setMot s 65535 { getMot s 65535 with lock := 0 }
    signalDue { bare with obj := { bare.obj with signals := [g true 1 116] } } (g true 1 116) = true ∧ ([] : List Signal).all (signalDue bare) = true
    ∧ fromFamily bare (({ g true 1 0 with origin := .region 6 63, ctx := 0 } : Signal)) = true
    ∧ fromFamily bare (g true 1 116) = true ∧ fromFamily s (g false 0 116) = true ∧ fromFamily bare (g false 0 117) = false ∧ (getMot s 65535).kind = 2
    ∧ field (getMot bare 65535).lock 3 2 = 0 ∧ bitOf (fenceWord bare 65535) 63 = false ∧ bitOf (fenceWord (fence 65535 (2 ^ 63) s) 65535) 63 = true
    ∧ field (getMot (setMot s 65535 { getMot s 65535 with lock := 4 }) 65535).lock 3 2 = 1 := by decide +kernel

theorem witness_MonitorSlots :
    let base := object 5 0x50000 1 (fence 3 4 (ctx0 booted))
    let y : Slot := { ctx := some 0, watch := BitVec.ofNat 48 (fenceAddr booted 3), target := 5, notify := 0x50000, vector := 2047 }
    let p : Slot := { y with watch := 0x50008, plain := true, state := .armed }
    let at1 := fun (x : Slot) => setSlot base 4095 x
    let closing := setDom (at1 { p with target := 0 }) 10 { getDom booted 10 with state := .closing }
    slotAllowed (at1 y) 116 4095 = true ∧ slotAllowed (at1 y) 117 4095 = false ∧ armCheck (at1 y) 0 y = 0 ∧ (watchedWord (at1 y) y).toNat < y.target.toNat
    ∧ armCheck (at1 y) 0 { p with state := .idle } = 0 ∧ (objectAt base y.watch.toNat 8).isSome = true
    ∧ (watchedWord (at1 { y with state := .armed, target := 4 }) { y with target := 4 }).toNat = 4 ∧ accessCheck base (.unit 0 false 5) 0x50000 8 true = 0
    ∧ watchesDomain closing 10 (getSlot closing 4095) = true ∧ domainOf closing (addrDie 0x50008) (addrLoc 0x50008) = 10
    ∧ (getDom closing 10).state = .closing ∧ domainBusy closing 10 = false := by decide +kernel

/-- Collective slot 15 of die 0 (number 15), owned by context 0. -/
def coll (x : CollSlot) : State := setColl (fence 3 0 (object 5 0x50000 1 (ctx0 booted))) 15 { x with fence := BitVec.ofNat 48 (fenceAddr booted 3) }

theorem witness_CollectiveSlots :
    let c := coll { state := .claimed, members := 1, value := 1 }
    let a := coll { state := .armed, members := 1, op := 2, count := 8 }
    let w := here booted 0 (0x01100000000 + 0x1000000 * 15)
    reachCheck booted (.src 116) (collAddr booted 15) 4 = 0 ∧ reachCheck booted (.src 116) (collAddr booted 63) 4 = 0 ∧ (getColl booted 15).state = .free ∧ srcOwns (ctx0 booted) 116 0 = true
    ∧ (getColl c 15).state = .claimed ∧ srcOwns c 116 (getColl c 15).owner.toNat = true ∧ srcOwns c 117 (getColl c 15).owner.toNat = false
    ∧ c.cmp.heldJoins = [] ∧ collArmCheck c 15 (getColl c 15) = 0 ∧ field (0x1000 : W32) 20 17 = 0 ∧ bitOf (0x1000 : W32) 12 = true
    ∧ (getColl a 15).state = .armed ∧ reachCheck a (.src 116) w 256 = 0 ∧ collInputCheck a (.src 116) 15 w 256 true = 0 ∧ Tbl.get false (getColl a 15).written 0 = false := by
  decide +kernel

theorem witness_CollectiveProgress :
    let x : CollSlot := { state := .armed, members := 0x11, arms := 1 }
    let s := coll x
    let m := coll { x with op := 1, count := 1, input := [(0, 5)], written := [(0, true)], joined := [4] }
    let one := coll { x with op := 3, count := 1, members := 1, written := [(0, true)], result := 0x50000 }
    (pathStop one 2 (portOfFence (getColl one 15).fence.toNat false) 3 0).1 = 0 ∧
    collWay one 15 (getColl one 15) = 0 ∧ (getColl s 15).state = .armed ∧ (∃ m ∈ collMembers (getColl s 15), m / 4 ≠ s.swarm.node) ∧
    (4 : Nat) / 4 ≠ s.swarm.node ∧ (collPartners s 15 (getColl s 15)).contains 4 = true ∧ (getColl s 15).joined.contains 4 = false
    ∧ contributed (getColl m 15) = true ∧ (collChildren (collMembers (getColl m 15)).length (collPos m 15 (getColl m 15)))[0]? = some 1
    ∧ (collMembers (getColl m 15)).getD 1 0 = 4
    ∧ absorbValue (getColl m 15) [6, 0] = .inl [6, 0] ∧ absorbValue (getColl m 15) [0xFF, 0x7F] = .inr 0x1006
    ∧ resultFor one 15 [] = some (zeros 8) ∧ loneBad (getColl one 15) (zeros 8) = 0 ∧ accessCheck one (collReq 15 (getColl one 15)) 0x50000 8 true = 0 := by decide +kernel

/-- A header of class `cls` of a cell's or a function's request. -/
def header (cls vn : Nat) (src : W32) (retry : Bool) : PacketHeader :=
  { cls := BitVec.ofNat 4 cls, vn := BitVec.ofNat 2 vn, urg := 0, age := 0, retry := retry, src := src, dest := 0x10000, txid := 15, context := 0, status := 0x5003 }

theorem witness_NetworkEvents :
    let d : Dma := { isGet := true, loc := 0, addr := 0x50000, bytes := 256 }
    let s := runs 0 { dma := List.replicate 16 d }
    let h := header 6 1 (mkSrc 0 3 4 31 0) true
    let old := { header 0 0 116 false with age := 255 }
    let jam := { booted with net := { booted.net with bufs := [(4 * (8 * (64 * 4 + 15) + 5), [{ head := old, data := 0, la := 6 }])] } }
    (getDom s (srcDomain h.src)).state ≠ .closed ∧ (getDom s (srcDomain (mkSrc 0 5 3 0 0))).state ≠ .closed ∧ srcNode (mkSrc 0 5 3 0 0) = s.swarm.node
    ∧ (getDie { s with faults := { s.faults with dies := [(3, ({ state := .recovering } : Die))] } } 3).state ≠ .inService ∧ classOk (header 4 1 116 false) = true
    ∧ ((heads jam.net 4 15).find? (fun e => e.2.head.age == 255 && e.2.head.vn != 3 && hasRoom jam.net 4 15 e.2.la e.2)).isSome = true
    ∧ heads booted.net 4 15 = []
    ∧ routersOf 5 ≠ 0 ∧ classOk (header 3 3 0 true) = false ∧ classOk h = true ∧ srcNode h.src = s.swarm.node ∧ (getDie s 3).state = .inService ∧ h.status ≠ 0x2005
    ∧ srcUnit h.src = 4 ∧ field h.src 4 2 = 3 ∧ field h.src 16 10 = 31 ∧ (getCell s 3 31).job.map (fun j => j.ctx) = some h.context
    ∧ (getCell s 3 31).dma[15]? = some d ∧ srcUnit (mkSrc 0 5 3 0 0) = 3 ∧ srcUnit (mkSrc 0 5 2 0 0) = 2 ∧ classOk (header 15 3 0 true) = true
    ∧ localCtx s (1 : W16).toNat = none ∧ (setCtx s 1 { live := true }).swarm.node = 0 ∧ localCtx (setCtx s 1 { live := true }) (1 : W16).toNat = some 1
    ∧ inReset (getCtx (setCtx s 1 { live := true }) 1) = false ∧ (getDie s 4).state = .inService := by decide +kernel

/-- Node 3 of a swarm of four, every port UP, and all four members. -/
def swarm4 : State :=
  { booted with
    boot := { booted.boot with opt := { booted.boot.opt with swarmSize := 4 } },
    swarm := { booted.swarm with
      node := 3, members := 15, coordinator := 0, formed := true, running := true,
      ports := (upFrom 0 6).map (fun p => (p, ({ state := .up } : SlinkPort))) } }

theorem witness_SwarmPortTraining :
    let at0 := fun (x : SlinkPort) => setSlink swarm4 5 x
    let cfg := fun (v : Byte) => mail 0 0x0401 [5, v] (at0 { state := .off })
    swarm4.net.switching = none ∧ nodeClash swarm4 5 2 = false ∧ nodeClash swarm4 5 3 = true ∧ (getSlink (at0 { state := .delay, failedAttempts := 2 }) 5).retryWait = false
    ∧ (getSlink (at0 { state := .ident }) 5).cmd = none ∧ (getSlink (setSlink swarm4 (partner 5) { state := .handover }) (partner 5)).state ≠ .up
    ∧ swarm4.swarm.formed = true ∧ bitOf swarm4.swarm.members 0 = true ∧
    inTraining (getSlink (at0 { state := .delay, failedAttempts := 2 }) 5) = true ∧ inTraining (getSlink (at0 { state := .detect, failedAttempts := 3 }) 5) = true
    ∧ (getSlink (at0 { state := .detect, retryWait := true }) 5).retryWait = true ∧ peerNode swarm4 5 = 0 ∧ peerNode swarm4 0 = 2 ∧ expectedPort swarm4 5 = true
    ∧ askedLong 0x0401 0 (cfg 0) = true ∧ leNat (reqOf (cfg 0) 0).p 0 1 = 5 ∧ leNat (reqOf (cfg 0) 0).p 1 1 = 0 ∧ (getSlink (cfg 0) (partner 5)).state = .up
    ∧ askedLong 0x0401 0 (cfg 1) = true ∧ leNat (reqOf (cfg 1) 0).p 1 1 = 1 ∧ (getSlink (cfg 1) 5).retired = false ∧ portPattern (cfg 1) 5 = false
    ∧ asked 0x0402 0 (mail 0 0x0402 [] swarm4) = true := by decide +kernel

/-- The first 264 bytes of a link flit of kind `kind` with SEQ 4095, and the flit with its check. -/
def flitBody (kind : Nat) : Bytes := toLE 8 (kind + 4 * 4095) ++ zeros 256
def flit (kind : Nat) : Bytes := flitBody kind ++ toLE 8 (crc64 (flitBody kind)).toNat

theorem leNat_append (l m : Bytes) : ∀ n i, leNat (l ++ m) (l.length + i) n = leNat m i n
  | 0, _ => rfl
  | n + 1, i => by
    have h := leNat_append l m n (i + 1)
    rw [← Nat.add_assoc] at h
    simp [leNat, byteAt, h, List.getElem?_append_right]

theorem le64_toLE (x : W64) : le64 (toLE 8 x.toNat) 0 = x := by
  have h := x.isLt
  apply BitVec.eq_of_toNat_eq
  simp [le64, leNat, byteAt, toLE]
  omega

theorem le32_toLE (x : W32) : le32 (toLE 4 x.toNat) 0 = x := by
  have h := x.isLt
  apply BitVec.eq_of_toNat_eq
  simp [le32, leNat, byteAt, toLE]
  omega

theorem flit_check (kind : Nat) : (flit kind).length = 272 ∧ (flit kind).take 264 = flitBody kind
    ∧ crc64 ((flit kind).take 264) = le64 (flit kind) 264 := by
  have h : (flitBody kind).length = 264 := by
    rw [flitBody, zeros, List.length_append, List.length_replicate]
    rfl
  have e : le64 (flit kind) 264 = crc64 (flitBody kind) := by
    rw [← le64_toLE (crc64 (flitBody kind)), le64, le64, flit, ← leNat_append (flitBody kind) _ 8 0, h]
  have t : (flit kind).take 264 = flitBody kind := by rw [flit, ← h, List.take_left]
  exact ⟨by rw [flit, List.length_append, h]; rfl, t, by rw [t, e]⟩

theorem witness_SwarmLinkTraffic :
    let h := fun (k : Nat) => le64 (flitBody k) 0
    let x := getSlink swarm4 5
    let ho := setSlink swarm4 5 { x with state := .handover, replay := [controlFlit 3 (zeros 8)] }
    ingressFits (fillIngress [zeros 64] x) = true ∧ x.naksSent + 1 < 16 ∧ x.replay = [] ∧ x.queued = [] ∧ x.naksReceived < 16 ∧ field (h 2) 63 32 = 0
    ∧ x.sinceMarker ≠ 4095 ∧ byteAt (zeros 64) 0 ≠ 3
    ∧ (getSlink ho 5).relaying = false ∧ (getSlink ho (partner 5)).queued = [] ∧ (getSlink ho (partner 5)).replay.length + 1 ≤ 64
    ∧ (upFrom 0 4).all (fun v => decide ((([controlFlit 3 (zeros 8)].filter (fun f => f.vn == v)).map flitCost).sum ≤ (portUp x 0).credits.getD v 0)) = true
    ∧ (getSlink (setSlink ho 5 { getSlink ho 5 with relaying := true }) 5).relaying = true ∧ ho.net.switching = none ∧
    field (h 0) 13 2 = (4095 : BitVec 12).toNat ∧ field (h 2) 1 0 = 2 ∧ bitOf (h 2) 26 = false ∧ field (h 3) 1 0 = 3 ∧ ([] : Bytes).length ≠ 272
    ∧ expectedPort swarm4 5 = true ∧ (getSlink swarm4 5).state = .up := by decide +kernel

theorem witness_SwarmFormation :
    let s : State := { swarm4 with swarm := { swarm4.swarm with forming := true, lost := 4 } }
    let early : State := { swarm4 with swarm := { swarm4.swarm with formed := false } }
    let alone : State := { swarm4 with swarm := { swarm4.swarm with members := 8, forming := false } }
    let cut := setSlink (setSlink swarm4 4 {}) 5 {}
    leavesOut cut 0 = true ∧ cut.net.held = [] ∧ (upFrom 0 4).all (fun n => bitOf (BitVec.ofNat 4 (ownSet s 63 4 15)) n) = true
    ∧ s.swarm.node < 4 ∧ ([0, 0, 0, 0] : List W64).length = 4 ∧ s.swarm.formed = true ∧ s.swarm.forming = true ∧ ownSet s 63 4 15 = 15
    ∧ early.swarm.formed = false ∧ 3 ≤ early.boot.step.toNat ∧ (upFrom 0 6).all (fun p => (getSlink early p).state == .up) = true
    ∧ (nodesOf alone.swarm.members.toNat).length < (nodesOf (ownSet alone 63 4 15)).length ∧ alone.swarm.forming = false
    ∧ bitOf cut.swarm.members 0 = true ∧ (upFrom 0 6).all (fun p => peerNode cut p != 0 || ((getSlink cut p).state != .up && (getSlink cut p).state != .handover)) = true
    ∧ s.swarm.lost ≠ 0 := by decide +kernel

theorem witness_SwarmTime :
    let s : State := { swarm4 with swarm := { swarm4.swarm with coordinator := 3 } }
    s.swarm.coordinator = s.swarm.node ∧ s.swarm.running = true ∧ swarm4.swarm.coordinator ≠ swarm4.swarm.node
    ∧ (upFrom 0 6).find? (fun p => peerNode s p == 0 && (getSlink s p).state == .up) = some 4 ∧ (getSlink s 4).replay.length < 64 ∧ (getSlink s 4).queued.all (fun f => f.kind != 2) = true
    ∧ swarm4.net.held = [] ∧ swarm4.swarm.locked = true
    ∧ peerNode swarm4 5 = swarm4.swarm.coordinator ∧ (getSlink swarm4 5).state = .up := by decide +kernel

/-- An image header of `n` bytes' object, keys of source 0, mask 1, two segments, at 0x50000. -/
def frameHeader (n : Nat) : Bytes := slice (toLE 4 0x4D52465A ++ toLE 2 1 ++ [0, 1] ++ zeros 8 ++ toLE 4 2 ++ toLE 4 1 ++ zeros 8) 0 n

/-- A load of that image with the record of one frame as its first segment. -/
def loadState (key : Bytes) (stage : LoadStage) : State :=
  let s := memWrite (object 5 0x50000 4 (ctx0 booted)) 0x50100 (toLE 4 0 ++ toLE 4 192 ++ zeros 8 ++ [1, 1, 0, 0, 0, 0])
  setCfg s { s.frame.cfg with load := some { cmd := none, base := 0x50000, size := 1024, part := false, hold := false, header := frameHeader 256, key := key,
                                             regions := [0], stage := stage } }

theorem witness_FrameLoading :
    let w := setRegion (memWrite (object 5 0x50000 4 (ctx0 booted)) 0x50000 (frameHeader 256)) 0 { state := .held }
    let l := mail 0 0x0501 (toLE 4 0x00010005 ++ [1, 0, 0]) w
    let st := mail 0 0x0501 (zeros 7) w
    let rb := mail 0 0x0502 [1] w
    let s := loadState (zeros 48) .loading
    (getMot l 5).creator = 0 ∧ (localCtx l (getMot l 5).owner.toNat).any (fun c => inReset (getCtx l c)) = false ∧ s.keeper.heldWrites = []
    ∧ s.frame.cfg.load.bind (·.ahead) = none ∧ s.frame.cfg.load.bind (·.staging) = none ∧ (getRegion (setRegion rb 0 { state := .running }) 0).state = .running
    ∧ askedLong 0x0501 0 st = true ∧ (getRegion st 0).state = .held ∧ frameBusy (taken st 0) = false ∧ (getDie st 4).state = .inService
    ∧ askedLong 0x0501 0 l = true ∧ leNat (reqOf l 0).p 4 1 = 1 ∧ byteAt (reqOf l 0).p 5 = 0 ∧ (getMot l 5).kind = 1 ∧ field (le32 (reqOf l 0).p 0) 15 0 = 5
    ∧ (getMot l 5).gen.toNat = field (le32 (reqOf l 0).p 0) 31 16 ∧ bitOf (getMot l 5).perm 0 = true ∧ frameBusy (taken l 0) = false
    ∧ maskRegions 1 = [0] ∧ maskRegions 127 = upFrom 0 7 ∧ (getDom l (regionDomain 0)).state = .up ∧ isRetired l 7 0 = false
    ∧ (headerCheck (acceptedState l 0) (zeros 256) 1024 0 1).1 ≠ 0
    ∧ askedLong 0x0502 0 rb = true ∧ leNat (reqOf rb 0).p 0 1 = 1 ∧ frameBusy (taken rb 0) = false ∧ 24575 < regionFrames 0
    ∧ checksOk s 0x50100 224 = true ∧ zeroIn (memRead s 0x50100 16) 8 16 = true ∧ leNat (memRead s 0x50100 16) 4 4 = 192
    ∧ parseRecords [0] 145 ((memRead s 0x50110 192).take 144) = some ([(0, zeros 128)], none) ∧ (memRead s 0x501D0 16).all (· == 0) = true
    ∧ leNat (memRead (loadState (zeros 48) .loading) 0x50100 16) 0 4 ≠ 1 := by decide +kernel

/-- The signature of the header of an image is the one value here that the model leaves open; the digest of a segment is what the image says. -/
theorem witness_FrameLoading_checks :
    let d := zeros 31 ++ [1]
    let l := { booted with boot := { booted.boot with opt := { booted.boot.opt with frameKeyDigest := d } } }
    let s := loadState (Sys2Proof.Config.sha384 (memRead (loadState [] .loading) 0x50100 208)) .loading
    (Sys2Proof.Config.ecdsaVerify d (slice (frameHeader 256) 0 160) (slice (frameHeader 256) 160 96) = true → (headerCheck l (frameHeader 256) 1024 0 1).1 = 0)
    ∧ s.frame.cfg.load.map (·.key) = some (Sys2Proof.Config.sha384 (memRead (loadState [] .loading) 0x50100 208)) := by
  refine ⟨fun h => ?_, rfl⟩
  simp only [headerCheck, sourceKey] at h ⊢
  rw [if_neg (by decide +kernel), if_neg (by rw [h]; decide +kernel), if_neg (by decide +kernel)]
  rfl

theorem witness_FrameStart :
    let s := setCfg (setRegion booted 6 { state := .held }) { booted.frame.cfg with driving := false, startAt := some 0, startRequest := some ⟨0, 0x0501, 7⟩ }
    let sent := setCfg booted { booted.frame.cfg with sentStart := some 7000000, highSamples := 1 }
    sent.swarm.coordinator = sent.swarm.node ∧ sent.swarm.time.toNat < (7000000 : W64).toNat ∧ sent.frame.cfg.highSamples + 1 = 2
    ∧ booted.frame.cfg.sentStart = none ∧ swarm4.swarm.coordinator ≠ swarm4.swarm.node ∧ swarm4.swarm.time.toNat + 1000000 ≤ (7000000 : W64).toNat ∧
    heldReleased s = true ∧ s.swarm.coordinator = s.swarm.node ∧ s.frame.cfg.startAt.map (fun t => decide (t.toNat ≤ s.swarm.time.toNat)) = some true
    ∧ s.frame.cfg.startRequest = some ⟨0, 0x0501, 7⟩ ∧ booted.frame.cfg.startRequest = none ∧ booted.frame.cfg.startAt = none := by decide +kernel

theorem witness_RegionPorts :
    let s := setRegion (fence 3 0 (object 5 0x50000 1 (ctx0 booted))) 6 { state := .running, open_ := true, bindValid := true }
    let full : Region := { getRegion s 6 with outstanding := List.replicate 63 { tag := 0, status := 0, data := [], checkOk := true, check := 0 } }
    let r := fun (op : BitVec 3) (a : Nat) (beats : BitVec 4) => ({ op := op, addr := BitVec.ofNat 48 a, beats := beats, tag := 63, check := 0, value := 1, data := zeros 256 } : RegionRequest)
    let t := object 6 (tileStore booted (8 * 11)) 1 s
    let wr := fun (o : TgtOwner) => ({ src := 116, context := 0, write := true, beats := 15, offset := 0, data := [], owner := o } : TgtPending)
    portBehind s 6 (r 0 0x50000 1) = false ∧ portBehind s 6 (r 1 0x50000 15) = false ∧ portBehind s 6 (r 4 (fenceAddr booted 3) 0) = false
    ∧ windowAt s 0x50000 256 = none ∧ reachCheck s (.unit 0 false 4) (fenceAddr booted 3) 8 = 0
    ∧ (pathStop s 2 (portOfFence (fenceAddr booted 3) true) 3 4).1 = 0 ∧ (pathStop s 2 (portOfFence (fenceAddr booted 3) false) 3 4).1 = 0
    ∧ ((getRegion (setRegion s 6 full) 6).outstanding.find? (fun p => p.tag == 0)).map (fun p => (p.again.isNone, p.ready)) = some (true, true)
    ∧ (wr (.net (header 1 0 116 false))).late = false ∧ srcNode (header 1 0 116 false).src = s.swarm.node ∧ (wr (.port 0 63)).owner = .port 0 63 ∧ s.keeper.heldWrites = [] ∧
    full.outstanding.length < 64 ∧ portAtOnce (setRegion s 6 full) 6 (r 0 0x50000 1) true = 0 ∧ portAtOnce s 6 (r 7 0x50000 1) true ≠ 0
    ∧ accessCheck s (.unit 0 false 4) 0x50000 256 false = 0 ∧ checksOk s 0x50000 256 = true ∧ portAtOnce s 6 (r 1 0x50000 15) true = 0
    ∧ accessCheck s (.unit 0 false 4) 0x50000 256 true = 0 ∧ collWindow s 0x50000 = none
    ∧ portAtOnce s 6 (r 3 (fenceAddr booted 3) 0) true = 0 ∧ portAtOnce s 6 (r 4 (fenceAddr booted 3) 0) true = 0
    ∧ liveFence s (fenceAddr booted 3) = some 3 ∧ inFamily s 0 3 = true
    ∧ portAtOnce t 6 (r 0 (tileStore booted 88) 15) false = 0 ∧ accessCheck t (.unit 0 false 4) (tileStore booted 88) 256 false = 0
    ∧ checksOk t (tileStore booted 88) 256 = true ∧ tileStore t (8 * 11) = tileStore booted 88
    ∧ tgtStatus s 6 (header 0 0 116 false) = 0 ∧ tgtStatus s 6 (header 0 0 117 false) ≠ 0 := by decide +kernel

theorem witness_SensorIngest :
    let b : OpenBuffer := { index := 1, first := 0 }
    let ch : Channel := { enable := true, bufCount := 2, bufParcels := 2, stride := 4, flush := 1, ring := 0x00010002, fence := BitVec.ofNat 48 (fenceAddr booted 3), buffer := some b }
    let s := setChan (setChan (fence 3 0 (object 2 0x10000 1024 (ctx0 booted))) 15 ch) 19 ch
    let p : CameraPacket := { vc := 0, dt := 0x2A, payload := zeros 256, crcOk := true, headerOk := true, corrected := false }
    let live := setRegion s 6 { state := .running }
    ch.streaming = false ∧ ch.discarding = false ∧ (getRegion live 6).state = .running ∧ (pathStop s 2 (portOfFence ch.fence.toNat true) 3 4).1 = 0
    ∧ collWindow s 0x10300 = none
    ∧ s.swarm.locked = true ∧ bufferBase s ch b.index = some 0x10200 ∧ accessCheck s (.unit 0 false 4) 0x10200 256 true = 0 ∧ collWindow s 0x10200 = none
    ∧ checksOk s 0x10200 256 = true ∧ (headerBytes 15 ch b 0 0).length = 256 ∧ liveFence s ch.fence.toNat = some 3
    ∧ 256 + b.units * 256 + 256 ≤ 256 * ch.bufParcels.toNat ∧ p.payload.length ≤ 256 ∧ accessCheck s (.unit 0 false 4) 0x10300 256 true = 0
    ∧ (etherRecord s 19 (zeros 100) true).length = 192 ∧ accessCheck s (.unit 0 false 4) 0x10300 192 true = 0 ∧ checksOk s 0x10300 256 = true
    ∧ ((2 : W32) - ch.released).toNat = ch.bufCount.toNat := by decide +kernel

theorem witness_PowerDomains :
    let cmd := fun (d up : Byte) (s : State) => mail 0 0x0302 [d, up, 1] s
    let at0 := fun (d : Nat) (st : DomState) => setDom booted d { getDom booted d with state := st }
    let c7 := setDom (at0 47 .closed) 7 { getDom booted 7 with state := .closed }
    let reg := setRegion booted 6 { state := .loading }
    let wish : State := { at0 43 .closing with power := { booted.power with domCmds := [(⟨0, 0x0302, 7⟩, 43, true)] } }
    let told := setDom booted 0 { getDom booted 0 with state := .closed, notice := true }
    asked 0x0302 0 (cmd 64 1 booted) = true ∧ asked 0x0302 0 (cmd 56 1 booted) = true ∧ asked 0x0302 0 (cmd 59 0 booted) = true
    ∧ domainRefused (taken (cmd 59 0 booted) 0) 59 false = true ∧ (getDom wish 43).state = .closing ∧ wish.power.domCmds.map (fun e => e.2) = [(43, true)]
    ∧ wish.power.supply ≠ .hold ∧ (getDom (at0 0 .waking) 0).state = .waking ∧ (getDom told 0).notice = true ∧ (getDom told 0).wakeFailed = false
    ∧ (getDom told 0).state = .closed ∧ dieServes told 0 = true ∧ told.power.supply ≠ .hold ∧ (getDom (at0 43 .up) 43).state ≠ .waking ∧
    askedLong 0x0302 0 (cmd 7 0 booted) = true ∧ domainRefused (taken (cmd 7 0 booted) 0) 7 false = false ∧ (getDom booted 7).state = .up
    ∧ askedLong 0x0302 0 (cmd 7 1 c7) = true ∧ domainRefused (taken (cmd 7 1 c7) 0) 7 true = false ∧ booted.power.supply ≠ .hold ∧ booted.power.domCmds = []
    ∧ domainRefused (taken (cmd 7 1 booted) 0) 7 true = false ∧ domainRefused (taken (cmd 7 0 c7) 0) 7 false = false
    ∧ asked 0x0302 0 (cmd 53 1 reg) = true ∧ (getRegion reg 6).state = .loading ∧ domRegions 53 = [5, 6]
    ∧ (getDom (at0 43 .closing) 43).state = .closing ∧ booted.power.goal = none ∧ domainBusy (at0 43 .closing) 43 = false ∧ booted.obj.slots = []
    ∧ (getDom (at0 0 .waking) 0).state = .waking ∧ dieServes booted 63 = true ∧ (getDom booted 63).notice = false := by decide +kernel

theorem witness_PackageStateCommands :
    let pk := fun (t : Byte) (s : State) => mail 0 0x0301 [t] s
    let sb : State := { booted with power := { booted.power with pkg := .standby } }
    let ck := mail 0 0x0303 ([31, 0] ++ toLE 2 1200) booted
    let wk := fun (e : W32) => mail 0 0x0304 (toLE 4 e.toNat ++ zeros 12) booted
    let parked : State := { booted with power := { booted.power with parking := true } }
    let al := fun (n : Nat) => mail 0 0x0304 (toLE 4 0x10 ++ [0, 0, 0, 0] ++ toLE 8 n) booted
    askedLong 0x0301 0 (pk 2 booted) = true ∧ (liveCtxs booted).all (fun c => ctxState booted c == .idle) = true ∧ booted.power.pkg ≠ .standby
    ∧ askedLong 0x0301 0 (pk 3 sb) = true ∧ askedLong 0x0301 0 (pk 4 booted) = true ∧ asked 0x0301 0 (pk 0 booted) = true
    ∧ asked 0x0301 0 (pk 4 parked) = true ∧ parked.power.parking = true
    ∧ asked 0x0304 0 (al 5) = true ∧ (al 5).power.rtc.toNat < 5 ∧ asked 0x0304 0 { al 5 with power := { booted.power with rtc := 5 } } = true
    ∧ asked 0x0304 0 (al (2 ^ 48)) = true ∧ booted.power.goal = none ∧ bitOf ({ booted with power := { booted.power with halting := 1 } } : State).power.halting 0 = true
    ∧ bitOf booted.power.halting 15 = false ∧
    asked 0x0301 0 (pk 1 (ctx0 booted)) = true ∧ liveCtxs (ctx0 booted) ≠ [] ∧ booted.power.goal = none ∧ booted.power.parking = false
    ∧ cmdPending (taken (pk 1 booted) 0) 0x0901 = false ∧ askedLong 0x0301 0 (pk 1 booted) = true ∧ liveCtxs booted = [] ∧ outsideSafe booted = false
    ∧ booted.flash.banks.any (fun e => e.2.activity != .idle) = false ∧ askedLong 0x0301 0 (pk 2 sb) = true ∧ ctxState (ctx0 sb) 0 = .idle
    ∧ askedLong 0x0303 0 ck = true ∧ leNat (reqOf ck 0).p 0 1 = 31 ∧ leNat (reqOf ck 0).p 2 2 = 1200
    ∧ asked 0x0304 0 (wk 0xFFFFFFFF) = true ∧ (0xFFFFFFFF : W32) &&& 0xC000FF81 ≠ 0 ∧ asked 0x0304 0 (wk 0x3FFF007E) = true ∧ (0x3FFF007E : W32) &&& 0xC000FF81 = 0
    ∧ srcUnit (mkSrc 0 5 2 0 15) = 2 ∧ srcSub (mkSrc 0 5 2 0 15) = 15 ∧ srcNode (mkSrc 0 5 2 0 15) = booted.swarm.node
    ∧ bitOf (0x8000 : W16) 15 = true := by decide +kernel

theorem witness_ResetAndSupply :
    let off : State := { booted with power := { booted.power with pkg := .off } }
    booted.power.browned = false ∧ ({ booted with power := { booted.power with browned := true } } : State).power.browned = true ∧
    booted.power.vbat = true ∧ booted.power.pwrEn = true ∧ booted.power.tripped = false ∧ off.power.pkg = .off ∧ off.power.turnOff = false ∧ off.power.goal = none
    ∧ ({ booted with power := { booted.power with parking := true } } : State).power.parking = true ∧ booted.power.pkg ≠ .off ∧ booted.power.pkg ≠ .parked
    ∧ supplyNext booted.power.supply 1600 = booted.power.supply ∧ supplyNext booted.power.supply 1199 = .hold := by decide +kernel

theorem witness_ThermalLimits : (List.replicate 6 (256 : W16)).length = 6 ∧ (256 : Int) ≤ (256 : W16).toInt ∧ (255 : W16).toInt < 256 ∧ (270 : Int) ≤ (270 : W16).toInt
    ∧ booted.power.pkg ≠ .off ∧ booted.power.pkg ≠ .parked ∧ (5 : Nat) < 6 := by decide +kernel

theorem witness_HostResumeAndWake :
    let armed : State := { booted with power := { booted.power with wakeEnable := 0xFFFFFFFF } }
    let off : State := { booted with power := { booted.power with turnOff := true } }
    let d61 := setDom booted 61 { getDom booted 61 with state := .closed }
    let sleeping : State := { armed with power := { armed.power with pkg := .standby } }
    let linked : State := { booted with power := { booted.power with perst := false } }
    booted.power.pcieUp = false ∧ ({ off with power := { off.power with perst := true } } : State).power.perst = true
    ∧ sleeping.power.pkg = .standby ∧ causeArmed sleeping 1 5 = true ∧ sleeping.power.vbat = true ∧ sleeping.power.goal = none
    ∧ linked.power.perst = false ∧ (getDom linked 61).state = .up ∧ linked.power.resetHeld = false ∧ (getPat linked 5 0).enable = false ∧
    causeArmed booted 1 5 = false ∧ causeArmed armed 1 5 = true ∧ causeArmed armed 3 3 = true ∧ causeArmed armed 8 0 = true ∧ armed.power.vbat = true ∧ armed.power.pkg = .ready
    ∧ armed.power.goal = none ∧ armed.power.parking = false ∧ booted.power.turnOff = false ∧ off.power.turnOff = true ∧ (getDom off 61).state = .up
    ∧ d61.power.perst = true ∧ (getDom d61 61).state = .closed ∧ d61.power.supply ≠ .hold ∧ d61.power.resetHeld = false
    ∧ ({ booted with power := { booted.power with perst := false } } : State).power.perst = false := by decide +kernel

theorem witness_LoadingRegions :
    let q := setRegion booted 6 { state := .draining }
    let r := mail 0 0x0302 [53, 0, 0] q
    (loadState [] .draining).power.tripped = false ∧ (loadState [] .draining).power.browned = false ∧
    asked 0x0302 0 r = true ∧ leNat (reqOf r 0).p 0 1 = 53 ∧ (getRegion r 6).state = .draining ∧ (getRegion (setRegion booted 0 { state := .loading }) 0).state = .loading
    ∧ asked 0x0302 0 (mail 0 0x0302 [49, 1, 1] booted) = true ∧ (loadState [] .draining).frame.cfg.load.isSome = true
    ∧ (loadState [] .draining).power.pkg = .ready ∧ (loadState [] .draining).power.vbat = true ∧ (loadState [] .draining).power.pwrEn = true := by decide +kernel

theorem witness_ServiceObjects :
    let s0 := object 5 0x50000 0x2000 (ctx0 booted)
    let dest := fun (s : State) (h : W32) (size : Nat) => resolve s h == some 5 && (getMot s 5).kind == 1 && bitOf (getMot s 5).perm 1
      && decide (size ≤ 256 * (getMot s 5).size) && mineObj (reqOf s 0) s (getMot s 5) && !bitOf (getMot s 5).lock 0
      && !(localCtx s (getMot s 5).owner.toNat).any (fun c => inReset (getCtx s c)) && reachCheck s .keeper 0x50000 (256 * (getMot s 5).size) == 0
    let fr := mail 0 0x0601 (zeros 4 ++ toLE 4 0x00010005) s0
    let lr := mail 0 0x0902 (toLE 4 0x00010005) s0
    let at0 := mail 0 0x0703 (zeros 32 ++ toLE 4 0x00010005) s0
    let kr := mail 0 0x0704 ([7, 0, 0, 0] ++ toLE 4 0x00010005) s0
    asked 0x0601 0 fr = true ∧ dest fr 0x00010005 0 = true ∧ ((0 : W32) - oldestIndex fr).toNat < 2 ^ 31 ∧ asked 0x0602 0 (mail 0 0x0602 [] booted) = true
    ∧ asked 0x0902 0 lr = true ∧ dest lr 0x00010005 24576 = true ∧ asked 0x0703 0 at0 = true ∧ dest at0 0x00010005 8192 = true
        ∧ asked 0x0704 0 kr = true ∧ leNat (reqOf kr 0).p 0 1 = 7 ∧ dest kr 0x00010005 64 = true ∧ reachCheck kr .keeper 0x50000 64 = 0 ∧ checksOk kr 0x50000 64 = true
    ∧ checksOk { kr with mem := { kr.mem with bad := [(0x500, true)] } } 0x50000 64 = false
    ∧ leNat (memRead (taken kr 0) 0x50000 64) 0 1 ≠ 7 ∧ asked 0x0A01 0 (mail 0 0x0A01 [] booted) = true := by decide +kernel

theorem witness_ServiceControl :
    let st := fun (op : Byte) (id n : Nat) => mail 0 0x0705 ([op, 0] ++ toLE 2 id ++ [BitVec.ofNat 8 n] ++ zeros 51) booted
    let busy := setBank (setBank booted 0 { activity := .erasing }) 1 { activity := .erasing }
    let up := mail 0 0x0701 (toLE 4 0x00010005 ++ zeros 4 ++ toLE 8 512) (object 5 0x50000 2 (ctx0 booted))
    let sw := mail 0 0x0702 [1, 0] booted
    let te := fun (k : W32) (s : State) => mail 0 0x0901 (toLE 4 k.toNat) s
    let rom : State := { booted with flash := { booted.flash with romPhase := true } }
    let same := mail 0 0x0702 [0, 1] booted
    asked 0x0705 0 (st 1 2 1) = true ∧ bankBusy (st 1 2 1) 0 = false ∧ askedLong 0x0702 0 sw = true ∧ (asked 0x0702 0 same = true ∧ leNat (reqOf same 0).p 1 1 = 1)
    ∧ checksOk { up with mem := { up.mem with bad := [(0x500, true)] } } 0x50000 512 = false
    ∧ (te 0x1FF booted).power.supply = .normal ∧ ((upFrom 0 7).all (fun k => (getRegion (te 0x1FF booted) k).state == .blank)) = true
    ∧ (Tbl.get {} ({ rom with test := { rom.test with fuses := [(7, { lock := true })] } } : State).test.fuses 7).lock = true ∧
    asked 0x0705 0 (st 0 3 0) = true ∧ zeroIn (reqOf (st 0 3 0) 0).p 8 56 = true ∧ asked 0x0705 0 (st 0 1 2) = true ∧ asked 0x0705 0 (st 1 0x8000 48) = true
    ∧ leNat (reqOf (st 1 0xFFFE 48) 0).p 2 2 = 0xFFFE ∧ bankBusy booted 0 = false ∧ bankBusy busy 0 = true ∧ bankBusy busy 1 = true ∧ booted.power.supply = .normal
    ∧ askedLong 0x0701 0 up = true ∧ resolve up 0x00010005 = some 5 ∧ leNat (reqOf up 0).p 8 8 = 512 ∧ (getMot up 5).kind = 1 ∧ bitOf (getMot up 5).perm 0 = true ∧ reachCheck up .keeper 0x50000 512 = 0
    ∧ cmdPending up 0x0701 = false ∧ cmdPending up 0x0702 = false ∧ (keeperCopy (memRead (taken up 0) 0x50000 512) (acceptedState up 0)).2.isSome = true
    ∧ checksOk up 0x50000 512 = true ∧ deltaCheck up (zeros 512) = 0x4003
    ∧ asked 0x0702 0 sw = true ∧ slotCompleteFrom sw 0 true = false
    ∧ asked 0x0901 0 (te 0x200 booted) = true ∧ field (0x200 : W32) 31 9 ≠ 0 ∧ asked 0x0901 0 (te 0x1FF (ctx0 booted)) = true
    ∧ (ctx0 booted).obj.ctxs.any (fun e => e.2.live) = true ∧ askedLong 0x0901 0 (te 0x1FF booted) = true ∧ booted.obj.ctxs = [] ∧ booted.power.pkg = .ready
    ∧ cmdPending (taken (te 0x1FF booted) 0) 0x0901 = false ∧ (getRegion booted 6).state = .blank
    ∧ pkgAlive rom = true ∧ rom.flash.romPhase = true ∧ (Tbl.get {} rom.test.fuses 7).lock = false ∧ pkgAlive { booted with power := { booted.power with pkg := .off } } = false := by
  decide +kernel

theorem witness_ResetAndRecovery :
    let r := mail 0 0x0603 [0, 0] (ctx0 booted)
    let d := fun (k : Byte) (s : State) => mail 0 0x0604 [k] s
    let gone := { booted with faults := { booted.faults with dies := [(4, ({ state := .recovering } : Die))] } }
    let s := setCtx booted 255 { live := true, mailbox := 0, state := .resetting, fault := some { code := 0x5004 } }
    (getCtx (setCtx s 255 { live := true, state := .destroying }) 255).state = .destroying ∧ (getDie gone 4).state = .recovering ∧
    askedLong 0x0603 0 r = true ∧ localCtx r 0 = some 0 ∧ mineCtx (reqOf r 0) r (getCtx r 0) = true ∧ inReset (getCtx r 0) = false
    ∧ asked 0x0604 0 (d 5 booted) = true ∧ asked 0x0604 0 (d 4 gone) = true ∧ (getDie gone 4).state ≠ .inService
    ∧ askedLong 0x0604 0 (d 4 booted) = true ∧ (getDie booted 4).state = .inService
    ∧ (getCtx s 255).live = true ∧ (getCtx s 255).state = .resetting ∧ (getCtx s 255).fault.map (fun r => decide (r.code.toNat < 2 ^ 15)) = some true
    ∧ (getMbx s 0).revoking = none ∧ inReset (getCtx s 255) = true ∧ inReset (getCtx s 254) = false ∧ (getDie s 4).state = .inService
    ∧ (liveCtxs gone).all (fun c => !inReset (getCtx gone c) || !workOnDie gone c 4) = true := by decide +kernel

theorem witness_CheckAndHangFaults :
    let s := runs 0 {}
    let old := setQueue (ctx0 booted) 0 { live := true, inflight := [{ num := 0, bytes := [], started := 0 }] }
    let late : State := { old with keeper := { old.keeper with tick := 2 ^ 17 } }
    let pat := fun (l : Bool) => setPat booted 5 4 { enable := true, locked := l, lanes := 1 }
    let arm := coll { state := .armed }
    let waits : State := { coll { state := .armed, members := 0x11 } with keeper := { booted.keeper with tick := 2 ^ 17 } }
    let tileRun := setTile (flying 2 4 [] [] [95]) 95 { job := some (7, 0) }
    let run := setPat booted 5 4 { enable := true, locked := true, lanes := 1, checks := [(0, { locked := true, reg := List.replicate 7 true })] }
    localCtx s ((0 : W16)).toNat = some 0 ∧ unitCtx booted 5 3 7 = none ∧ unitCtx tileRun 6 4 95 = some 0 ∧ (getColl arm 15).state = .armed ∧ (getColl arm 14).state ≠ .armed
    ∧ joinsDone waits 15 (getColl waits 15) = false ∧ localCtx waits (getColl waits 15).owner.toNat = some 0 ∧ patienceOf waits 0 < waits.keeper.tick - (getColl waits 15).armedAt
    ∧ checkedLanes 5 4 (getPat (pat false) 5 4) ≠ [] ∧ (getPat (pat false) 5 4).checks = [] ∧ patternSeed (getPat (pat false) 5 4) (List.replicate 7 true) = true
    ∧ patternLength 0 = 7 ∧ (checkedLanes 5 4 (getPat run 5 4)).all (fun i => (laneCheck (getPat run 5 4) i).locked && (laneCheck (getPat run 5 4) i).recent.isEmpty) = true ∧
    addrNode 0x50000 = booted.swarm.node ∧ rangeOf booted (addrDie 0x50000) (addrLoc 0x50000) = .lpddr ∧ srcUnit (mkSrc 0 3 4 31 0) = 4 ∧ srcUnit (116 : W32) = 3
    ∧ localCtx s 0 = some 0 ∧ addrNode (2 ^ 46) ≠ booted.swarm.node ∧ (getCell s 3 31).job.isSome = true ∧ (getCell s 3 30).job = none ∧ inReset (getCtx s 0) = false
    ∧ (getQueue late 0).live = true ∧ localCtx late (getQueue late 0).ctx.toNat = some 0 ∧ patienceOf late 0 < late.keeper.tick
    ∧ dieLink 0 5 = true ∧ dieLink 4 5 = true ∧ patExists 5 4 = true ∧ patExists 5 5 = false ∧ (getPat (pat false) 5 4).enable = true ∧ (getPat (pat true) 5 4).locked = true
    ∧ (getPat booted 5 4).enable = false := by decide +kernel

/-- The island up with two stop functions, an ESTOP on inputs 0 and 1, and connection 31, a receiver on networks 0 and 1. -/
def island (x : SafetyFunc) (c : Conn) : State :=
  let stop : FuncParam := { typ := 1, mode := 1, b3 := 7, b4 := 0xFF, b5 := 31, b6 := 0xFF, w16 := 360, w18 := 500, vTol := 300, vStill := 50, tStill := 500, tMax := 60000 }
  let estop : FuncParam := { typ := 2, b3 := 0, b4 := 1 }
  let recv : ConnParam := { dir := 1, kind := 0, netA := 0, netB := 1, connId := 5, addrA := 9, addrB := 9 }
  let send : ConnParam := { recv with dir := 2 }
  let box : ConnParam := { dir := 1, netA := 16, netB := 0xFF, addrA := 15, source := 116 }
  { booted with island := { released := true, up := true,
                            params := some { inputs := [{}, {}], funcs := [estop] ++ List.replicate 30 {} ++ [stop], conns := [send, box] ++ List.replicate 29 {} ++ [recv] },
                            funcs := [(31, x)], pairs := [(7, ({ energised := true } : OutputPair))], conns := [(31, c)] } }

/-- A black-channel frame of connection 31 with SEQ 5. -/
def frame31 : Bytes :=
  let l := toLE 4 5 ++ [1, 0, 5, 0] ++ zeros 32
  l ++ toLE 4 (crcBlack l).toNat ++ zeros 4

theorem witness_SafetyIsland :
    let s := island { state := .stopping } {}
    let w := island {} { lastSeq := some 5, windows := [(5, false)] }
    let down : State := { s with island := { s.island with up := false } }
    let slow := island { state := .stopping, v0 := 8500, elapsed := 12080 } { speed := 4624, valid := true }
    s.island.up = true ∧ s.island.params.isSome = true ∧ down.island.up = false ∧ down.island.held = false ∧ down.island.released = true
    ∧ (fp s 31).typ = 1 ∧ (fp s 0).typ = 2 ∧ (ip s 0).tp = 0xFF ∧ (getFunc s 31).state = .stopping
    ∧ (getPair s 7).energised = true ∧ namesPair s 7 = [31] ∧ evalInputs (fp s 0) = [0, 1] ∧ (getFunc s 0).state ≠ .fault
    ∧ (getInput s 0).filtered = (getInput s 1).filtered ∧ (getInput s 0).pulseFault = false ∧ (upFrom 0 32).all (fun f => !bitOf (fp s 31).funcDemand f) = true
    ∧ (getConn slow (fp slow 31).b5).speed.natAbs = 4624 ∧ (getFunc slow 31).elapsed + 10 = 12090
    ∧ connFor s 0 9 frame31 = some (31, false) ∧ connFor s 1 9 frame31 = some (31, true) ∧ connFor s 2 9 frame31 = none ∧ (getConn s 31).lastSeq = none
    ∧ (getConn w 31).lastSeq = some (le16 frame31 6) ∧ (getConn w 31).windows.find? (fun v => v.1 == le16 frame31 6) = some (5, false) ∧ frame31 ≠ (getConn w 31).frame
    ∧ 32 < (le16 frame31 6 - (28 : W16)).toNat
    ∧ inboxConn s 15 = some 1 ∧ (cp s 1).source = 116 ∧ inboxConn s 14 = none ∧ (cp s 0).dir = 2 ∧ (getConn w 31).windows ≠ [] := by decide +kernel

/-- A parameter set whose CRC word is not the CRC of its bytes. -/
theorem witness_SafetyIsland_image :
    let l := zeros 12 ++ toLE 4 (~~~ crc32c (zeros 4080)).toNat
    crc32c (slice l 16 4080) ≠ le32 l 12 := by
  intro l
  have a : slice l 16 4080 = zeros 4080 := by rfl
  have b : le32 l 12 = ~~~ crc32c (zeros 4080) := by
    have e := leNat_append (zeros 12) (toLE 4 (~~~ crc32c (zeros 4080)).toNat) 4 0
    have k : le32 l 12 = le32 (toLE 4 (~~~ crc32c (zeros 4080)).toNat) 0 := congrArg (BitVec.ofNat 32) e
    rw [k, le32_toLE]
  rw [a, b]
  intro h
  have k := congrArg (fun x : W32 => x.getLsbD 0) h
  simp at k

/-- Flash port 1 at the address `a`, all sectors the island's, and bank 1 as `b`. -/
def flashState (p : Nat) (a : BitVec 24) (b : FlashBank) : State :=
  let s : State := { booted with boot := { booted.boot with opt := { booted.boot.opt with protect := [{ first := 0, count := 4096, owner := if p = 1 then 2 else 1 }] } } }
  setBank (setPort s p { addr := a }) 1 b

/-- A recovery message. -/
def recMsg (typ : Byte) (l : Bytes) : Bytes :=
  let h := [0x5A, typ] ++ toLE 2 l.length ++ l
  h ++ toLE 4 (crc32c h).toNat

theorem witness_FlashAndBoot :
    let s := flashState 1 0xFFF000 {}
    let er : FlashBank := { activity := .erasing, port := true, sector := 2047, pending := [(0x800000, 0)] }
    let pr : FlashBank := { activity := .programming, sector := 2047, unitAddr := 0xFFF000, unitData := zeros 32 }
    let su : FlashBank := { activity := .suspended, port := true }
    let fresh : State := { State.reset with power := { State.reset.power with pkg := .ready } }
    let rec_ : State := { State.reset with boot := { State.reset.boot with recovery := some 1 } }
    let w := toLE 4 0 ++ zeros 32
    let busy := setPort booted 0 { result := .busy }
    let bad : State := { s with flash := { s.flash with sectors := [(4095, 1)] } }
    let waits := setPort (flashState 1 0xFFF000 { activity := .erasing, sector := 2047 }) 1 { addr := 0xFFF000, waiting := some (1, 2) }
    (getPort busy 0).result = .busy ∧ sectorState s 4095 ≠ 1 ∧ sectorState bad 4095 = 1 ∧ portCheck bad 1 1 = 0 ∧ (getBank bad 1).activity = .idle
    ∧ (upFrom 0 2).all (fun k => (getPort (flashState 1 0xFFF000 er) k).waiting == none) = true ∧ (getPort waits 1).waiting = some (1, 2) ∧ (Machine.placeOf (getPort waits 1)).bank = 1
    ∧ (getBank waits 1).activity = .erasing ∧ (protectOf waits (bankSector 1 (getBank waits 1))).any Protect.noAuto = false
    ∧ (let a := setBank booted 0 { activity := .suspended, auto := true }; (getBank a 0).activity = .suspended ∧ (getBank a 0).pending = [])
    ∧ (getBank (flashState 1 0 er) 1).pending.length < 16 ∧ tooCold { fresh with power := { fresh.power with tj := [(5, (-81 : W16))] } } = true
    ∧
    srcUnit (mkSrc 0 5 1 0 0) = 1 ∧ srcUnit (116 : W32) ≠ 1 ∧ (getPort s 1).result = .idle
    ∧ (upFrom 1 3).all (fun op => portCheck s 1 op == 0) = true ∧ portCheck s 1 6 = 0 ∧ portCheck s 1 4 ≠ 0 ∧ portCheck (flashState 1 0xFFF000 er) 1 4 = 0
    ∧ portCheck (flashState 1 0xFFF000 su) 1 5 = 0 ∧ (getPort (flashState 1 0xFFF000 er) 0).waiting = none
    ∧ (getBank (flashState 1 0xFFF000 pr) 1).activity = .programming ∧ portCheck (flashState 1 0xFFF000 er) 1 1 = 0
    ∧ sectorOwner (flashState 0 0 {}) 0 = 1 ∧ sectorOwner s 4095 = 2 ∧ sectorOwner booted 0 = 3 ∧ sectorState s 4095 ≠ 1
    ∧ (protectOf s 4095).any Protect.noAuto = false ∧ er.pending.length < 16 ∧ (getBank s 1).activity = .idle ∧ (su.port = true ∨ s.power.supply = .normal)
    ∧ booted.boot.step.toNat = 8 ∧ fresh.boot.step.toNat ≤ 1 ∧ fresh.boot.recovery = none ∧ fresh.power.resetHeld = false ∧ tooCold fresh = false
    ∧ (loadOption fresh).copy = 3 ∧ (loadOption fresh).norMib = 0
    ∧ recoveryMsg (recMsg 3 w) = some (3, w) ∧ recoveryMsg (recMsg 6 []) = some (6, []) ∧ recoveryMsg [] = none ∧ rec_.boot.recovery.isSome = true
    ∧ (flashBytes rec_ false 0 32).all (· == 0xFF) = true ∧ w.length = 36
    ∧ bundleCheck rec_ (flashBytes rec_ false) = 0x4003 := by decide +kernel

/-- The HM1 on link 3, its metrology core as `m`. -/
def meter (m : Metrology) : State := setMet booted 3 m

theorem witness_MetrologyEvents :
    let x : IntervalCodes := { codes := List.replicate 10 [], cycles := 0, duration := 0, partialInterval := false, hot := false, split := none }
    let s := meter { calHeld := some { gen := 1, words := [] }, tarHeld := some { gen := 1, words := [] } }
    let ten : IntervalCodes := { x with codes := List.replicate 10 [], cycles := 10 }
    let lockd := meter { locked := true }
    let due := meter { calHeld := some { gen := 1, words := [], due := true } }
    let tarDue := setHm1 booted 3 { getHm1 booted 3 with rtc := 120 * 32768000, met := { tarHeld := some { gen := 1, words := [] } } }
    intervalFormed (getMet lockd 3) 3 ten = true ∧ codesOk ten = true ∧ (getMet s 3).calHeld.map (·.due) = some false ∧ (getMet due 3).calHeld.map (·.due) = some true
    ∧ (getMet due 3).sealed_ = true ∧ (getMet s 3).calEn = false ∧ tariffDue (getHm1 booted 3) = none ∧ (tariffDue (getHm1 tarDue 3)).isSome = true
    ∧ (getMet (meter { sealed_ := false, calHeld := some { gen := 1, words := [], due := true }, refusable := 240 }) 3).refusable = 240
    ∧ pqPhases (getMet s 3) 1 [23000, 23000, 23000] = 0 ∧ pqOpenOf (getMet (meter { open_ := [(1, some { start := 0, phases := 1, extreme := 0 })] }) 3) 1 ≠ none
    ∧ (getMet (meter { main := false, minute := some ⟨0, {}⟩ }) 3).minute.isSome = true
    ∧
    codesOk x = true ∧ (getMet s 3).main = true ∧ (getMet s 3).metFault = false ∧ (getMet s 3).tarHeld.isSome = true
    ∧ (getMet s 3).sealed_ = true ∧ (getMet s 3).refusable ≤ 238 ∧ (getMet (meter { sealed_ := false, refusable := 239 }) 3).refusable < 240
    ∧ (getMet (meter { main := false }) 3).main = false ∧ (getHm1 booted 3).ses.state = .idle ∧ (getHm1 booted 3).waking = false
    ∧ newer (some ⟨1, {}⟩) none = some ⟨1, {}⟩ ∧ pqPhases (getMet s 3) 1 [23000, 20000, 20699] = 6 ∧ pqOpenOf (getMet s 3) 1 = none
    ∧ pqOver (getMet s 3) 1 [23000, 23000, 23000] = true ∧ (getMet s 3).cover = false := by decide +kernel

/-- A message that the HM1 on link 3 has accepted. -/
def told (b : Bytes) (s : State) : State := setHm1 s 3 { getHm1 s 3 with inbox := some b }

theorem witness_MetrologyMessages :
    let ring := meter { pqRing := [⟨7, [], false⟩], pqSeq := 8, sealed_ := false, records := [⟨7, zeros 288, false⟩], prot := [zeros 4 ++ [7, 0, 0, 0] ++ zeros 56] }
    (upFrom 0x10 12).all (fun op => hm1Asked op none 3 (told [BitVec.ofNat 8 op] booted)) = true
    ∧ (getMet ring 3).pqRing.find? (fun r => r.seq == le32 [0x12, 0, 7, 0, 0, 0] 2) = some ⟨7, [], false⟩ ∧ (getMet ring 3).sealed_ = false
    ∧ (2 ^ 31 : Nat) ≤ ((getMet ring 3).pqSeq - le32 [0x12, 0, 9, 0, 0, 0] 2).toNat
    ∧ ((getMet ring 3).records.find? (fun r => r.seq == 7)).isSome = true ∧ (((getMet ring 3).prot).find? (fun e => le32 e 4 == 7)).isSome = true
    ∧ le16 ([0x11, 0] ++ toLE 4 23000 ++ toLE 2 999 ++ toLE 2 1001 ++ toLE 2 998 ++ toLE 2 100) 6 < 1000 := by decide +kernel

theorem witness_SessionMessages :
    let up := setEnd booted true 3 { up := true }
    let ses := fun (b : Bytes) (x : Session) => told b (setSes up 3 x)
    (getSes (ses [] { closedFor := 1000, mirror := 3 }) 3).closedFor = 1000 ∧ (getSes (ses [] { state := .connected, outlet := true }) 3).state = .connected
    ∧ (getSes (ses [] { state := .connected }) 3).outlet = false ∧ (getSes (ses [] { state := .stopping }) 3).state = .stopping
    ∧
    (upFrom 0x20 2).all (fun op => hm1Asked op none 3 (ses [BitVec.ofNat 8 op] {})) = true ∧ hm1Asked 0x23 none 3 (ses [0x23] {}) = true ∧ hm1Asked 0x24 none 3 (ses [0x24] {}) = true
    ∧ (upFrom 1 4).all (fun k => hm1Asked 0x22 (some k) 3 (ses [0x22, BitVec.ofNat 8 k] {})) = true
    ∧ (getEnd up true 3).up = true ∧ (getMet up 3).metFault = false ∧ (getSes up 3).lockout = false ∧ (getHm1 booted 3).inbox = none
    ∧ (getSes (ses [] { state := .authorised, connector := 1, outlet := true, measured := true }) 3).mirror = 3 ∧ (getSes up 3).cmd = 0 := by decide +kernel

theorem witness_SessionEvents :
    let x : Session := { state := .flowing, outlet := true, cmd := 3, mirror := 0, rating := 32, duty := 500 }
    ((upFrom 1 3).all (fun c => (getSes (setSes booted 3 { x with connector := c }) 3).connector == c)) = true
    ∧ (getSes (setSes booted 3 { state := .connected }) 3).rating = 0 ∧ (getSes (setSes booted 3 { state := .fault }) 3).state = .fault
    ∧ (getSes (setSes booted 3 { x with state := .stopping, recorded := true }) 3).recorded = true ∧ (getSes (setSes booted 3 { x with state := .stopping, recorded := false }) 3).recorded = false
    ∧ (getSes (setSes booted 3 { x with state := .stopping }) 3).immediate = false ∧ (getSes (setSes booted 3 { x with cmd := 0 }) 3).lockout = false
    ∧ (getEnd (setEnd booted true 3 { up := true }) true 3).up = true
    ∧
    (getMet booted 3).main = true ∧ (getMet (meter { main := false }) 3).main = false
    ∧ [10501, 7500, 4500, 1500, -1500, -10501].map classify = [some 0, some 1, some 2, some 3, some 4, some 5] ∧ classify (-10500) = none
    ∧ (getSes (setSes booted 3 { outletOk := true }) 3).state = .idle ∧ (getSes (setSes booted 3 x) 3).state = .flowing
    ∧ ppRating 59 = 0 ∧ ppRating 60 = 63 ∧ ppRating 160 = x.rating ∧ ppRating 500 ≠ x.rating ∧ (getSes booted 3).agreed = 3 ∧ (getSes booted 3).cmd = 0
    ∧ (getEnd booted true 3).up = false ∧ (getSes (setSes booted 3 { x with connector := 1, cmd := 3 }) 3).connector ≠ 0 := by decide +kernel

theorem witness_HolmiLinkTraffic :
    let up := setEnd (setEnd booted false 3 { up := true }) true 3 { up := true }
    let r := mail 31 0x0801 ([3, 52, 0x18] ++ zeros 51) (bind 31 0 up)
    let none_ := setMbx r 31 { getMbx r 31 with groups := 0 }
    let hello := holmiFrame 0 false 0 0 (helloPayload false 3)
    let data := holmiFrame 1 false 0 0 [0x18]
    let busy := setSeen (setMbx up 31 { getMbx up 31 with waiting := some { m := 31, opcode := 0x0801, tag := 9 } }) 3 { msg := some (.mailbox 31) }
    let wake : State := { booted with power := { booted.power with wakeEnable := 0xFFFFFFFF } }
    (getEnd up true 3).out = [] ∧ (getEnd booted true 3).up = false ∧ (getEnd booted true 3).heard = false ∧ (getSeen (setSeen up 3 { msg := some (.commit 1) }) 3).msg = some (.commit 1)
    ∧ pkgAlive { booted with power := { booted.power with pkg := .off } } = false ∧ (getSeen up 3).msg = none ∧ wake.power.goal = none ∧ (getSeen (setSeen r 3 { msg := some (.commit 1) }) 3).msg.isSome = true
    ∧
    asked 0x0801 31 r = true ∧ zeroIn (reqOf r 31).p (2 + leNat (reqOf r 31).p 1 1) 54 = true ∧ leNat (reqOf r 31).p 0 1 = 3 ∧ leNat (reqOf r 31).p 1 1 = 52
    ∧ 16 ≤ leNat (reqOf r 31).p 2 1 ∧ bitOf (getMbx r 31).groups 8 = true ∧ asked 0x0801 31 none_ = true ∧ (getEnd r false 3).up = true ∧ (getSeen r 3).msg = none
    ∧ (getEnd r false 3).out = [] ∧ (getEnd r false 3).unacked.length < 8 ∧ asked 0x0802 0 (mail 0 0x0802 [4] up) = true ∧ asked 0x0802 0 (mail 0 0x0802 [3] up) = true
    ∧ endAlive up true 3 = true ∧ endAlive up false 3 = true ∧ endAlive (meter { main := false }) true 3 = false ∧ holmiOk hello = true ∧ isHello hello = true
    ∧ holmiOk data = true ∧ isHello data = false ∧ byteAt data 2 = (getEnd up true 3).rxSeq ∧ leNat data 0 1 = 1 ∧ byteAt data 1 = 0 ∧ byteAt (framePayload data) 0 ≠ 1
    ∧ holmiOk (holmiFrame 0 true 0 0 []) = true ∧ byteAt (holmiFrame 0 true 0 0 []) 1 = 1 ∧ holmiOk [] = false
    ∧ pkgAlive busy = true ∧ (getSeen busy 3).msg = some (.mailbox 31) ∧ (getMbx busy 31).waiting.isSome = true
    ∧ wake.power.vbat = true ∧ causeArmed wake 3 3 = true ∧ causeArmed booted 3 3 = false ∧ wake.power.pkg ≠ .standby := by decide +kernel

/-- The bursts of a frame as a node without noise hears them. -/
def heardAs (f : Bytes) : List PlcBurst := (frameBursts f).map (fun b => { phases := b, level := 0, peak := 0 })

/-- A frame so heard has its sync and no erased burst, and is decoded. -/
theorem witness_PowerLine_frame (f : Bytes) : ((heardAs f).take 16).length = 16 ∧ ((heardAs f).drop 16).length = 256 ∧ frameBegins (nodeBits (heardAs f) {}) = true
    ∧ dataErased (heardAs f) {} = 0 ∧ plcDecode (nodeBits (heardAs f) {}) = slice f 0 46 := by
  have q : (takeBursts [] (heardAs f)).2 = (frameBursts f).map (fun b => some (burstBits b)) := by
    rw [takeBursts_quiet _ _ (fun b h => by obtain ⟨x, -, rfl⟩ := List.mem_map.mp h; rfl), heardAs, List.map_map]
    rfl
  have n : nodeBits (heardAs f) {} = (symbolBits f).map some := by
    rw [nodeBits, q, ← frameBursts_bits, ← heardBits_all _ (fun b h => ?_), List.map_map]
    · rfl
    · obtain ⟨x, hx, rfl⟩ := List.mem_map.mp h
      exact burstsOf_three 272 _ (symbolBits_length f) x hx
  have e : (frameBursts f).length = 272 := burstsOf_length 272 _
  refine ⟨by simp [heardAs, e], by simp [heardAs, e], ?_, ?_, ?_⟩
  · rw [n]
    rfl
  · rw [dataErased, q, erasedBursts, ← List.map_drop, List.length_eq_zero_iff, List.filter_eq_nil_iff]
    intro b h
    obtain ⟨x, -, rfl⟩ := List.mem_map.mp h
    simp
  · rw [n, ← frameBursts_bits]
    exact plcDecode_frame f

/-- The bus of the HM1 on link 3 locked and on, with node `n` as `x`. -/
def bus (n : Nat) (x : PlcNode) : State := setNode (setHm1 booted 3 { met := { locked := true }, plc := { on := true, netId := 0x2C } }) 3 n x

theorem witness_PowerLine :
    let s := bus 31 {}
    let f := plcFrame 1 0x2C 0 31 0 31 6 5 0 [7]
    let hello := plcFrame 5 0x2C 3 255 3 255 6 0 0 [1, 0]
    let t : PlcTx := { bytes := plcFrame 1 0x2C 0 31 0 255 6 5 0 [], own := true }
    let q := bus 0 { queue := [t], routes := [(31, some { next := 7, hops := 2, cost := 32 })] }
    slice f 0 46 = f ∧ slice hello 0 46 = hello ∧ plcValid (plcFrame 9 0x2C 0 31 0 31 6 5 0 [7]) = false ∧ plcCheck (plcFrame 9 0x2C 0 31 0 31 6 5 0 [7]) = true
    ∧ 192 < dataErased (List.replicate 272 { phases := [], level := 0, peak := 1 }) { ({} : PlcNode) with levels := [0] } ∧ frameBegins (nodeBits (List.replicate 272 { phases := [], level := 0, peak := 0 }) {}) = false
    ∧ (q.holmi.hm1 ≠ []) ∧ ackHeard ((((ackBursts.map burstBits).flatten).map some)) = true ∧ ackHeard (nodeBits (List.replicate 8 { phases := [], level := 0, peak := 0 }) {}) = false
    ∧
    plcLive s 3 31 = true ∧ plcLive q 3 0 = true ∧ plcLive booted 3 0 = false ∧ plcCheck f = true ∧ plcValid f = true ∧ byteAt f 1 = (getHm1 s 3).plc.netId
    ∧ leNat f 5 1 = 31 ∧ plcType f = 1 ∧ leNat f 3 1 = 31 ∧ (Tbl.get [] (getNode s 3 31).seen (leNat f 2 1)).contains (byteAt f 7) = false
    ∧ (Tbl.get [] (getNode (bus 31 { seen := [(0, [5])] }) 3 31).seen (leNat f 2 1)).contains (byteAt f 7) = true
    ∧ plcCheck hello = true ∧ plcValid hello = true ∧ leNat hello 5 1 = 255 ∧ plcType hello = 5 ∧ plcCheck [] = false ∧ byteAt (plcFrame 1 0 0 31 0 31 6 5 0 [7]) 1 ≠ 0x2C
    ∧ nextHop (getNode q 3 0) t.bytes = .to 7 ∧ nextHop (getNode (bus 0 {}) 3 0) t.bytes = .none_ ∧ nextHop {} (plcFrame 1 0x2C 3 0 3 255 6 5 0 []) = .waits
    ∧ (getNode q 3 0).queue.map PlcTx.sent = [false] ∧ Tbl.get none (getNode q 3 0).routes 31 = some { next := 7, hops := 2, cost := 32 }
    ∧ leNat (plcFrame 1 0x2C 3 0 3 255 6 5 0 []) 3 1 = 0
    ∧ (getHm1 s 3).plc.on = true ∧ (getHm1 (meter { main := false }) 3).waking = false
    ∧ (upFrom 0x30 5).all (fun op => hm1Asked op none 3 (told [BitVec.ofNat 8 op] s)) = true := by decide +kernel

end Sys2Proof.Tests
end

section
/-! Every command completes exactly when the units that it names exist, every step of a safe state answers a safe state, and runs of
safe states go on. -/

namespace Sys2Proof.Machine

/-! ### Where a meaning and `Instr.wf` name the same units in different words -/

/-- A cell and one of its 16 transfers. -/
theorem cellOk_and_transfer (die cell i : Nat) : (cellOk die cell && decide (i < 16)) = decide (die < 4 ∧ cell < 32 ∧ i < 16) := by
  simp [cellOk, Bool.and_assoc]

/-- The die links are those of R173. -/
theorem dieLink_eq_linkedDies (a b : Nat) : dieLink a b = linkedDies a b := by
  rw [Bool.eq_iff_iff]
  simp [dieLink, linked, linkedDies]
  omega

/-- The register map of a die holds the pattern groups that the die has (R498, R508). -/
theorem patExists_eq_patternGroup {die : Nat} (h : die < 6) (g : Nat) : patExists die g = patternGroup die g := by
  rw [Bool.eq_iff_iff]
  interval_cases die <;>
    simp [patExists, patternGroup, regRows, dieRows, combRows, frameRows, hivePathRows, hiveRows, portsOfDie] <;> omega

/-- A die of the part and one of its pattern groups. -/
theorem die_and_patExists (die g : Nat) : (decide (die < 6) && patExists die g) = (decide (die < 6) && patternGroup die g) := by
  by_cases h : die < 6
  · rw [patExists_eq_patternGroup h]
  · simp [h]

/-- The codes of an interval are there for the ten channels of R402. -/
theorem codesOk_eq_codesMatch (x : IntervalCodes) : codesOk x = codesMatch x := by
  unfold codesMatch
  split
  next c0 c1 c2 c3 c4 c5 c6 c7 c8 c9 hx => simp [codesOk, hx, upFrom, Bool.and_assoc]
  next hx =>
    have hlen : x.codes.length ≠ 10 := fun h =>
      match hc : x.codes, h with
      | [c0, c1, c2, c3, c4, c5, c6, c7, c8, c9], _ => hx c0 c1 c2 c3 c4 c5 c6 c7 c8 c9 hc
    simp [codesOk, hlen]

/-! ### Which commands complete -/

/-- A meaning whose guard is a check of units. -/
theorem inRange_congr {b c : Bool} (h : b = c) (t : State) : inRange b t = inRange c t := by rw [h]

/-- Every command has one effect, which it has when each unit that it names exists (assumption log 4). -/
theorem exec_eq_inRange (i : Instr) (s : State) : ∃ t, exec i s = inRange i.wf t := by
  cases i with
  | dmaComplete die cell i => exact ⟨_, inRange_congr (cellOk_and_transfer die cell i) _⟩
  | intervalEnd l x => exact ⟨_, inRange_congr (congrArg (decide (l < 4) && ·) (codesOk_eq_codesMatch x)) _⟩
  | powerFail l x => exact ⟨_, inRange_congr (congrArg (decide (l < 4) && ·) (codesOk_eq_codesMatch x)) _⟩
  | tariffSwitch l x => exact ⟨_, inRange_congr (congrArg (decide (l < 4) && ·) (codesOk_eq_codesMatch x)) _⟩
  | checkerLockLoss die g => exact ⟨_, inRange_congr (die_and_patExists die g) _⟩
  | checkerLocked die g => exact ⟨_, inRange_congr (die_and_patExists die g) _⟩
  | ucieRetrain a b m => exact ⟨_, inRange_congr (congrArg (· && decide (m < 2)) (dieLink_eq_linkedDies a b)) _⟩
  | _ => exact ⟨_, rfl⟩

/-- A well-formed command answers a next state. -/
theorem exec_next_of_wf {i : Instr} (h : i.wf = true) (s : State) : ∃ t, exec i s = .next t := by
  obtain ⟨t, e⟩ := exec_eq_inRange i s
  exact ⟨{ t with free := t.free + 1 }, by simp [e, h]⟩

/-- A command that names a missing unit stops with the fault noSuchUnit. -/
theorem exec_fault_of_not_wf {i : Instr} (h : i.wf = false) (s : State) : exec i s = .fault .noSuchUnit := by
  obtain ⟨t, e⟩ := exec_eq_inRange i s
  simp [e, h]

/-- Settles O4: every meaning is guarded by the check of its units, and by nothing else. -/
theorem onlyMissingUnitsStop : Obligations.OnlyMissingUnitsStop :=
  fun _ s => ⟨fun h => exec_next_of_wf h s, fun h => exec_fault_of_not_wf h s⟩

/-- A state is safe when it meets the invariant of the Kept lemmas with well-formed commands waiting. -/
theorem safe_iff_kept (s : State) : s.safe = true ↔ KSt s.pending s ∧ s.pending.all Instr.wf = true := by
  simp [State.safe, State.queueOk, KSt, and_assoc]

/-- A state that meets the invariant with a queue of well-formed commands is safe. -/
theorem KSt.safe {p : List Instr} {t : State} (h : KSt p t) (hp : p.all Instr.wf = true) : t.safe = true := by
  obtain rfl : t.pending = p := h.2.2
  exact (safe_iff_kept t).mpr ⟨h, hp⟩

/-- A step of a safe state answers a safe state, from whose queue the front command has gone. -/
theorem step_safe {s : State} (h : s.safe = true) : ∃ t, step s = .next t ∧ t.safe = true ∧ t.pending = s.pending.tail := by
  obtain ⟨hk, hq⟩ := (safe_iff_kept s).mp h
  unfold step
  cases hp : s.pending with
  | nil =>
    rw [hp] at hk
    have ht : KSt [] (tick s) := tick_kept hk
    exact ⟨tick s, rfl, ht.safe rfl, ht.2.2⟩
  | cons c l =>
    simp only [hp, List.all_cons, Bool.and_eq_true] at hq
    obtain ⟨t, e⟩ := exec_next_of_wf hq.1 { s with pending := l }
    have hl : KSt l { s with pending := l } := ⟨hk.1, hk.2.1, rfl⟩
    have ht : KSt l t := exec_kept hl c t e
    exact ⟨t, e, ht.safe hq.2, ht.2.2⟩

/-- Settles O5: the front command is well-formed, so that it answers a next state, and every command keeps the invariant. -/
theorem stepKeepsSafe : Obligations.StepKeepsSafe := by
  intro s h
  obtain ⟨t, e, ht, -⟩ := step_safe h
  exact ⟨t, e, ht⟩

/-- Settles O6, by induction on the number of steps. -/
theorem runsStaySafe : Obligations.RunsStaySafe := by
  intro n
  induction n with
  | zero => exact fun s h => ⟨s, rfl, h, rfl⟩
  | succ n ih =>
    intro s h
    obtain ⟨t, e, ht, hq⟩ := step_safe h
    obtain ⟨u, er, hu, hd⟩ := ih t ht
    exact ⟨u, by simp only [runs, e, er], hu, by rw [hd, hq, List.drop_tail]⟩

end Sys2Proof.Machine
end

section
/-! One step takes the front command, and with none waiting lets one management tick pass. -/

namespace Sys2Proof.Machine

/-! ### The queue under a wake: no event of the power states touches it -/

/-- A field that every pass of a loop leaves is left by the loop. -/
theorem foldl_keeps {α β γ : Type} (g : β → γ) {f : β → α → β} (h : ∀ s x, g (f s x) = g s) (l : List α) (s : β) :
    g (l.foldl f s) = g s := by
  induction l generalizing s with
  | nil => rfl
  | cons x l ih => rw [List.foldl_cons, ih, h]

@[simp] theorem sendTo_pending (m : Nat) (c : W16) (p : Bytes) (s : State) : (sendTo m c p s).pending = s.pending := rfl

@[simp] theorem sendOwner_pending (c : W16) (p : Bytes) (s : State) : (sendOwner c p s).pending = s.pending := by
  unfold sendOwner; split <;> rfl

@[simp] theorem broadcast_pending (c : W16) (p : Bytes) (s : State) : (broadcast c p s).pending = s.pending := by
  refine foldl_keeps State.pending (fun s m => ?_) _ s
  split <;> rfl

@[simp] theorem sendWakeCause_pending (ms : List Nat) (b : Bool) (s : State) : (sendWakeCause ms b s).pending = s.pending :=
  foldl_keeps State.pending (f := fun s m =>
    setMbx s m (if b then arriveFirst (getMbx s m) ⟨0xE002, _⟩ else arrive (getMbx s m) ⟨0xE002, _⟩)) (fun _ _ => rfl) ms s

@[simp] theorem setPkg_pending (p : PkgState) (s : State) : (setPkg p s).pending = s.pending := by
  unfold setPkg; split <;> simp

@[simp] theorem refreshPkg_pending (s : State) : (refreshPkg s).pending = s.pending := by
  unfold refreshPkg; split <;> simp

@[simp] theorem setDomState_pending (d : Nat) (st : DomState) (s : State) : (setDomState d st s).pending = s.pending := by
  unfold setDomState
  dsimp only
  split
  · rfl
  · simp [settlePlls]

@[simp] theorem gate_pending (d : Nat) (s : State) : (gate d s).pending = s.pending := by
  unfold gate; split <;> simp

@[simp] theorem ungate_pending (d : Nat) (s : State) : (ungate d s).pending = s.pending := by
  unfold ungate
  dsimp only
  split <;> simp

@[simp] theorem pushGoal_pending (g : PkgState) (s : State) : (pushGoal g s).pending = s.pending := by
  refine foldl_keeps State.pending (fun s e => ?_) _ s
  split_ifs <;> simp

@[simp] theorem finishCmd_pending (c : CmdRef) (st : W16) (b : Bytes) (s : State) : (finishCmd c st b s).pending = s.pending := rfl

@[simp] theorem reachGoal_pending (c : Option CmdRef) (g : PkgState) (s : State) : (reachGoal c g s).pending = s.pending := by
  unfold reachGoal
  extract_lets wasStandby _ idle _ arrived _ resumed woken
  have harrived : arrived.pending = s.pending := by
    unfold arrived
    cases g with
    | parked => rfl
    | standby => exact setPkg_pending _ _
    | off | ready | active =>
      rw [refreshPkg_pending]
      split
      · exact setPkg_pending _ _
      · rfl
  have hwoken : woken.pending = arrived.pending := by
    unfold woken
    split
    · exact sendWakeCause_pending _ _ _
    · rfl
  cases c with
  | none => exact hwoken.trans harrived
  | some c => exact hwoken.trans harrived

@[simp] theorem stepGoal_pending (s : State) : (stepGoal s).pending = s.pending := by
  unfold stepGoal
  split
  · rfl
  · dsimp only
    split_ifs <;> simp

@[simp] theorem wakeUp_pending (s : State) : (wakeUp s).pending = s.pending := by
  unfold wakeUp
  dsimp only
  split_ifs <;> simp

/-! ### The tick -/

/-- A loop whose every pass writes one part of the state, as `put` says, writes that part alone. -/
theorem foldl_writes {α β : Type} {put : State → β → State} {f : State → α → State} (hf : ∀ s a, ∃ x, f s a = put s x)
    (hp : ∀ s x y, put (put s x) y = put s y) (l : List α) {s : State} (hs : ∃ x, s = put s x) : ∃ x, l.foldl f s = put s x := by
  induction l generalizing s with
  | nil => exact hs
  | cons a l ih =>
    obtain ⟨x, hx⟩ := hf s a
    obtain ⟨y, hy⟩ := ih (s := f s a) ⟨x, by rw [hx, hp]⟩
    exact ⟨y, by rw [List.foldl_cons, hy, hx, hp]⟩

/-- A tick of a minute counter moves the counts of R505 alone. -/
theorem minuteTick_test (i : Nat) (s : State) : ∃ x, minuteTick i s = { s with test := x } := by
  unfold minuteTick
  dsimp only
  split <;> exact ⟨_, rfl⟩

/-- A tick of all minute counters that run moves the counts of R505 alone. -/
theorem minuteTicks_test (l : List Nat) (s : State) : ∃ x, l.foldl (fun s i => minuteTick i s) s = { s with test := x } :=
  foldl_writes (put := fun s x => { s with test := x }) (fun s i => minuteTick_test i s) (fun _ _ _ => rfl) l ⟨s.test, rfl⟩

/-- A tick of the HM1s moves the HM1s alone. -/
theorem hm1Tick_holmi (s : State) : ∃ h, hm1Tick s = { s with holmi := h } :=
  foldl_writes (put := fun s x => { s with holmi := x }) (fun _ _ => ⟨_, rfl⟩) (fun _ _ _ => rfl) _ ⟨s.holmi, rfl⟩

/-- The state in which an alarm that is due has woken the package (R352). -/
def alarmed (s : State) : State := when (alarmDue s) (fun s => wakeUp (latchCause 4 0 s)) s

theorem alarmed_of_not_due {s : State} (h : alarmDue s = false) : alarmed s = s := by simp [alarmed, when, h]

@[simp] theorem alarmed_pending (s : State) : (alarmed s).pending = s.pending := by
  unfold alarmed when
  split <;> simp [latchCause]

/-- What a tick makes of the state: the count of ticks and swarm time go on, reports are allowed again, and but for these, the RTC,
the counts of minutes and the HM1s every part is as the alarm left it. -/
theorem tick_eq (s : State) : ∃ p x h, tick s = { alarmed s with
      keeper := { (alarmed s).keeper with tick := (alarmed s).keeper.tick + 1, reported := [] },
      swarm := { (alarmed s).swarm with
        time := if (alarmed s).swarm.running then (alarmed s).swarm.time + BitVec.ofInt 64 (1000000 + (alarmed s).swarm.trim)
          else (alarmed s).swarm.time },
      power := p, test := x, holmi := h }
    ∧ (s.power.vbat = false → p = (alarmed s).power) := by
  unfold tick
  dsimp only
  obtain ⟨x, hx⟩ := minuteTicks_test (minuteCounters _) _
  rw [hx]
  obtain ⟨h, hh⟩ := hm1Tick_holmi _
  rw [hh]
  exact ⟨_, x, h, rfl, fun hv => by simp [hv, alarmed]⟩

/-- Settles O1: by the definition of a step where a command waits, and by what a tick makes of the state where none does. -/
theorem stepRunsFront : Obligations.StepRunsFront := by
  refine ⟨fun c l s => rfl, fun s hp => ?_⟩
  obtain ⟨p, x, h, ht, hv⟩ := tick_eq s
  refine ⟨tick s, by simp [step, hp], by rw [ht], by rw [ht]; simp [hp], fun ha => ?_⟩
  rw [ht]
  rw [alarmed_of_not_due ha] at hv ⊢
  exact ⟨rfl, rfl, fun hb => by simp [hv hb], rfl, rfl, rfl, rfl, rfl, rfl, rfl, rfl⟩

end Sys2Proof.Machine
end

section
/-! REG_READ and REG_WRITE (R55, R58, R509) of one register within reach. -/

namespace Sys2Proof.Machine

/-! ### What a take-up leaves for the register commands -/

/-- Taking a request up leaves every mailbox its permission groups. -/
@[simp] theorem taken_groups (s : State) (m k : Nat) : (getMbx (taken s m) k).groups = (getMbx s k).groups := by
  simp only [taken, takenUp, getMbx, setMbx, roundPast, Tbl.get_set]
  split
  next h => rw [h]
  next => rfl

@[simp] theorem hasGroup_taken (s : State) (m : Nat) : hasGroup (taken s m) = hasGroup s := by
  funext k g
  simp [hasGroup]

@[simp] theorem mayReadReg_taken (s : State) (m k : Nat) (q : RegPlace) : mayReadReg (taken s m) k q = mayReadReg s k q := by
  simp [mayReadReg]

@[simp] theorem mayWriteReg_taken (s : State) (m k : Nat) (q : RegPlace) : mayWriteReg (taken s m) k q = mayWriteReg s k q := by
  simp [mayWriteReg]

/-- The reach of a register rests on domains and dies alone, which a take-up leaves. -/
@[simp] theorem regReach_taken (s : State) (m : Nat) (q : RegPlace) : regReach (taken s m) q = regReach s q := rfl

/-- A register within reach is acted on at once. -/
theorem whenReached_one {s : State} {q : RegPlace} (h : regReach s q = 0) (f : State → Ans) : whenReached [q] f s = f s := by
  simp [whenReached, h]

/-! ### REG_READ -/

/-- REG_READ of one register that the mailbox may read, on this node and within reach. -/
theorem regRead_one {r : Req} {s t : State} {q : RegPlace} {v : W32} (hz : zeroIn r.p 6 8 = true) (ha : leNat r.p 0 6 % 4 = 0)
    (hn : addrNode (leNat r.p 0 6) = s.swarm.node) (hp : placeAt (leNat r.p 0 6) = some q) (hr : regReach s q = 0)
    (h1 : leNat r.p 8 1 = 1) (hm : mayReadReg s r.m q = true) (hfs : q.blk ≠ .fenceSet) (hfa : q.blk ≠ .fenceAdd)
    (he : readReg q (leNat r.p 0 6) s = (t, v)) : regRead r s = okay t (toLE 4 v.toNat) := by
  simp [regRead, h1, upFrom, hp, hm, hz, ha, hfs, hfa, hn, whenReached_one hr, readRegs, he]

/-- A low half answers its word, and latches the word after it (R58). -/
theorem readReg_low {q : RegPlace} (h : isLow q = true) (a : Nat) (s : State) :
    readReg q a s = ({ s with keeper := { s.keeper with
      latches := Tbl.set none s.keeper.latches a (some (regWord s { q with word := q.word + 1 })) } }, regWord s q) := by
  simp [readReg, h]

/-- Another register without a latched value before it answers its word. -/
theorem readReg_unlatched {q : RegPlace} {a : Nat} {s : State} (h : isLow q = false) (hl : Tbl.get none s.keeper.latches (a - 4) = none) :
    readReg q a s = (s, regWord s q) := by
  simp [readReg, h, hl]

/-- A high half whose low half was read answers the latched value once (R58). -/
theorem readReg_latched {q : RegPlace} {a : Nat} {s : State} {v : W32} (h : isLow q = false)
    (hl : Tbl.get none s.keeper.latches (a - 4) = some v) (hw : 0 < q.word) (hlow : isLow { q with word := q.word - 1 } = true) :
    readReg q a s = ({ s with keeper := { s.keeper with latches := Tbl.set none s.keeper.latches (a - 4) none } }, v) := by
  simp [readReg, h, hl, hw, hlow]

/-! ### REG_WRITE -/

/-- REG_WRITE by a mailbox that may not write the register. -/
theorem regWriteCmd_denied {r : Req} {s : State} {q : RegPlace} (hp : placeAt (leNat r.p 0 6) = some q) (hm : mayWriteReg s r.m q = false) :
    regWriteCmd r s = reject s 0x4001 := by
  simp [regWriteCmd, hp, hm]

section
variable {r : Req} {s : State} {q : RegPlace} (hz : zeroIn r.p 6 8 = true) (ha : leNat r.p 0 6 % 4 = 0)
  (hn : addrNode (leNat r.p 0 6) = s.swarm.node) (hp : placeAt (leNat r.p 0 6) = some q)
  (hc : regClosed q = 0) (hm : mayWriteReg s r.m q = true)
include hz ha hn hp hc hm

/-- REG_WRITE of staged bits (R509). -/
theorem regWriteCmd_staged (hs : le32 r.p 12 &&& stagedMask q ≠ 0) : regWriteCmd r s = reject s 0x1009 := by
  have hs' : ¬ le32 r.p 12 &&& stagedMask q = 0#32 := hs
  simp [regWriteCmd, hp, hm, hc, hz, ha, hn, hs']

/-- REG_WRITE of no bits. -/
theorem regWriteCmd_nothing (hr : regReach s q = 0) (h0 : le32 r.p 12 = 0) : regWriteCmd r s = okay s [] := by
  simp [regWriteCmd, hp, hm, hc, hz, ha, hn, whenReached_one hr, h0]

/-- REG_WRITE of bits of which none is staged, which the register takes. -/
theorem regWriteCmd_put (hr : regReach s q = 0) (hs : le32 r.p 12 &&& stagedMask q = 0) (h0 : le32 r.p 12 ≠ 0) {t : State}
    (he : putReg q (le32 r.p 8) (le32 r.p 12) s = (t, 0)) : regWriteCmd r s = okay t [] := by
  have h0' : ¬ le32 r.p 12 = 0#32 := h0
  simp [regWriteCmd, hp, hm, hc, hz, ha, hn, whenReached_one hr, hs, h0', he]

end

/-- The registers of the MSI-X vectors have no staged bits (R509). -/
theorem stagedMask_vector {q : RegPlace} (h : q.blk = .vector) : stagedMask q = 0 := by simp [stagedMask, h]

/-- A write of an MSI-X vector register replaces the masked bits of its 12 (R488). -/
theorem putReg_vector {q : RegPlace} (h : q.blk = .vector) (hh : q.hole = false) (v mask : W32) (s : State) :
    putReg q v mask s = ({ s with keeper := { s.keeper with
      vectors := Tbl.set 0 s.keeper.vectors q.word (((Tbl.get 0 s.keeper.vectors q.word &&& ~~~mask) ||| (v &&& mask)) &&& 0xFFF) } }, (0 : W16)) := by
  simp [putReg, putHive, regWord, h, hh]

/-- Settles O23: each clause is the command's own answer to a request asked. -/
theorem registerCommands : Obligations.RegisterCommands := by
  intro m s q p u a v mask hz ha hn hp hr
  refine ⟨fun hk h1 hm hfs hfa => ?_, fun hk hc => ⟨fun hm => ?_, fun hm hs => ?_, fun hm h0 => ?_, fun hm h0 hb hh => ?_⟩⟩
  · have hm' : mayReadReg u m q = true := (mayReadReg_taken s m m q).trans hm
    have read {t : State} {w : W32} (he : readReg q a u = (t, w)) : regRead (reqOf s m) u = okay t (toLE 4 w.toNat) :=
      regRead_one hz ha hn hp hr h1 hm' hfs hfa he
    exact ⟨fun hi hl => answers_of_done _ rfl hk (read (readReg_unlatched hi hl)) rfl,
      fun hi => answers_of_done _ rfl hk (read (readReg_low hi a u)) rfl,
      fun h hi hl hw hlow => answers_of_done _ rfl hk (read (readReg_latched hi hl hw hlow)) rfl⟩
  · have hm' : mayWriteReg u m q = false := (mayWriteReg_taken s m m q).trans hm
    exact answers_of_done _ rfl hk (regWriteCmd_denied hp hm') rfl
  · have hm' : mayWriteReg u m q = true := (mayWriteReg_taken s m m q).trans hm
    exact answers_of_done _ rfl hk (regWriteCmd_staged hz ha hn hp hc hm' hs) rfl
  · have hm' : mayWriteReg u m q = true := (mayWriteReg_taken s m m q).trans hm
    exact answers_of_done _ rfl hk (regWriteCmd_nothing hz ha hn hp hc hm' hr h0) rfl
  · subst hm
    have hs : mask &&& stagedMask q = 0 := by simp [stagedMask_vector hb]
    have put := regWriteCmd_put (s := u) hz ha hn hp hc rfl hr hs h0 (putReg_vector hb hh v mask u)
    exact answers_of_done _ rfl hk put rfl

end Sys2Proof.Machine
end

section
/-! JOB_LOAD (R54, R132): its acceptance, the copy of a well-formed image with its digest, and the end of a malformed one; and the state
at reset. -/

namespace Sys2Proof.Machine

/-- Settles O3: the memory at reset is empty, the node is 0, and no command waits. -/
theorem resetSafe : Obligations.ResetSafe := by
  have hm : State.reset.mem.wf = true := by simp [Memory.wf, State.reset, Tbl.wf_nil]
  have hq : State.reset.queueOk = true := rfl
  have hn : State.reset.swarm.node < 4 := Nat.zero_lt_succ 3
  simp [Obligations.ResetSafe, State.safe, hm, hq, hn]

/-! ### What names contexts and entries -/

/-- The swarm context id that a context number stands for (R69). -/
theorem ctxId_of_localCtx {s : State} {id c : Nat} (h : localCtx s id = some c) : ctxId s c = id ∧ id < 1024 ∧ id / 256 = s.swarm.node := by
  simp only [localCtx, Option.ite_none_right_eq_some, Option.some.injEq] at h
  obtain ⟨⟨hid, hnode, -⟩, rfl⟩ := h
  exact ⟨by simp only [ctxId]; omega, hid, hnode⟩

/-- A handle of a live entry with its generation resolves to the entry (R72). -/
theorem resolve_live {s : State} {h : W32} (hk : (getMot s (field h 15 0)).kind ≠ 0)
    (hg : (getMot s (field h 15 0)).gen.toNat = field h 31 16) : resolve s h = some (field h 15 0) :=
  if_pos ⟨hk, hg⟩

/-- A command that names a context of this node outside reset goes on with it. -/
theorem withCtx_own {r : Req} {id n c : Nat} {long : Bool} {f : Nat → State → Ans} {s : State} (hl : localCtx s id = some c)
    (hr : inReset (getCtx s c) = false) : withCtx r id n long f s = f c s := by
  obtain ⟨-, hid, hnode⟩ := ctxId_of_localCtx hl
  simp [withCtx, hl, hr, hnode, Nat.not_le.mpr hid]

/-- Bytes that the Keeper can reach keep no command waiting. -/
theorem whenAwake_reached {a n : Nat} {f : State → Ans} {s : State} (h : reachCheck s .keeper a n = 0) : whenAwake a n f s = f s :=
  if_pos h

/-- A mailbox may act on the objects that it created, and the Owner's on all (R34). -/
theorem mineObj_of {r : Req} {s : State} {e : MotEntry}
    (h : r.m = 0 ∨ field e.creator 1 0 = s.swarm.node ∧ field e.creator 6 2 = r.m) : mineObj r s e = true := by
  rcases h with h | ⟨hn, hm⟩
  · simp [mineObj, h]
  · simp [mineObj, ownCreator, hn, hm]

/-- A mailbox may act on the contexts that it created, and the Owner's on all (R34). -/
theorem mineCtx_of {r : Req} {s : State} {x : Ctx} (h : r.m = 0 ∨ madeBy s r.m x = true) : mineCtx r s x = true := by
  simpa [mineCtx] using h

/-- The lowest free entry is free. -/
theorem freeEntry_kind {s : State} {f : Nat} (h : freeEntry s = some f) : (getMot s f).kind = 0 := by
  have found : ∀ n k, Tbl.findFrom {} s.obj.mot (fun e => e.kind == 0) k n = some f → (getMot s f).kind = 0 := by
    intro n
    induction n with
    | zero => intro k hk; simp [Tbl.findFrom] at hk
    | succ n ih =>
      intro k hk
      unfold Tbl.findFrom at hk
      split at hk
      next hfree => obtain rfl := Option.some.inj hk; simpa [getMot] using hfree
      next => exact ih _ hk
  exact found _ _ h

/-! ### The outcome of an accepted command -/

/-- An accepted command that ends stands among those of its mailbox with its outcome. -/
theorem mem_accepted_finishCmd {k : CmdRef} {c : W16} {b : Bytes} {s : State}
    (h : { opcode := k.opcode, tag := k.tag, result := none } ∈ (getMbx s k.m).accepted) :
    { opcode := k.opcode, tag := k.tag, result := some { status := c, time := s.swarm.time, extra := b } }
      ∈ (getMbx (finishCmd k c b s) k.m).accepted := by
  simp only [finishCmd, getMbx_setMbx, List.mem_append, List.mem_map, List.mem_filter]
  exact Or.inr ⟨_, ⟨h, by simp⟩, rfl⟩

/-- An outcome changes nothing outside the mailboxes. -/
@[simp] theorem finishCmd_rest (k : CmdRef) (c : W16) (b : Bytes) (s : State) :
    let t := finishCmd k c b s
    t.obj = s.obj ∧ t.mem = s.mem ∧ t.cmp = s.cmp ∧ t.net = s.net ∧ t.swarm = s.swarm ∧ t.frame = s.frame ∧ t.faults = s.faults
    ∧ t.power = s.power ∧ ∀ i, getMot t i = getMot s i := by
  simp [finishCmd]

/-- A take-up changes nothing outside the Keeper. -/
@[simp] theorem acceptedState_rest (s : State) (m : Nat) :
    let t := acceptedState s m
    t.obj = s.obj ∧ t.mem = s.mem ∧ t.cmp = s.cmp ∧ t.net = s.net ∧ t.swarm = s.swarm ∧ t.faults = s.faults := by
  simp [acceptedState, taken, takenUp, roundPast]

/-- The accepted request stands among those of its mailbox, without an outcome. -/
theorem mem_accepted_acceptedState (s : State) (m : Nat) :
    { opcode := (refOf s m).opcode, tag := (refOf s m).tag, result := none } ∈ (getMbx (acceptedState s m) (refOf s m).m).accepted := by
  simp [acceptedState, refOf]

/-- A long-running command that a request asks for and that is accepted, with what its run makes of the state. -/
theorem answers_of_run {op m : Nat} {s v : State} {act : Req → State → Ans} {f : CmdRef → State → State} (i : Instr)
    (hi : exec i s = inRange (decide (m < 32)) (takeUpCard op act m s)) (h : asked op m s = true)
    (ha : act (reqOf s m) (taken s m) = accepted (reqOf s m) f (taken s m)) (hv : f (refOf s m) (acceptedState s m) = v)
    (hn : v.swarm.node = s.swarm.node) : answersWith i m s 1 [] v := by
  subst hv
  exact answers_of_accepted i hi h ha hn

/-! ### JOB_LOAD -/

/-- The entry of a job image of `n` bytes that JOB_LOAD makes (R54, R73). -/
def jobImageEntry (s : State) (c f a n : Nat) : MotEntry :=
  { gen := (getMot s f).gen, base := a, size := (n + 255) / 256, perm := 5, kind := 4, lock := 2, owner := BitVec.ofNat 16 (ctxId s c),
    creator := creatorByte s c, imageBytes := n }

/-- The state with the image `b` of `n` bytes copied to the new entry `f` at `a`, and its digest written to the destination object. -/
def jobImageCopied (c dest f a n : Nat) (b : Bytes) (s : State) : State :=
  memWrite (memWrite (zeroMem a (256 * ((n + 255) / 256)) (setMot s f (jobImageEntry s c f a n))) a b) (getMot s dest).base
    (slice (Sys2Proof.Config.sha384 b) 0 48)

/-- The run over a well-formed image `b` at `x`: the copy, and the first 8 bytes of its digest as the result. -/
theorem jobLoadRun_wellFormed {c src dest f a n x : Nat} {k : CmdRef} {b : Bytes} {s : State} (hx : (getMot s src).base = x)
    (hb : memRead s x n = b) (hc : checksOk s x n = true) (hi : (imageCount (b.take 256) n).isSome = true) (hd : dest ≠ f) :
    jobLoadRun c src dest f a n k s = finishCmd k 0 (slice (Sys2Proof.Config.sha384 b) 0 8) (jobImageCopied c dest f a n b s) := by
  have hbase (e : MotEntry) (m : Nat) : getMot (memWrite (zeroMem a m (setMot s f e)) a b) dest = getMot s dest := by
    rw [← getMot_setMot_ne s f e dest hd]
    simp [getMot, zeroMem]
  have hi' : (imageCount (b.take 256) n).isNone = false := by simpa using hi
  simp only [jobLoadRun, hx, hb, hc, hi', not_true_eq_false, if_false, hbase, Bool.false_eq_true, jobImageCopied, jobImageEntry]

/-- The run over a malformed image at `x`. -/
theorem jobLoadRun_malformed {c src dest f a n x : Nat} {k : CmdRef} {s : State} (hx : (getMot s src).base = x)
    (hc : checksOk s x n = true) (hi : imageCount ((memRead s x n).take 256) n = none) :
    jobLoadRun c src dest f a n k s = finishCmd k 0x2001 [] s := by
  simp [jobLoadRun, hx, hc, hi]

/-- What a write makes of the memories depends on them and on the node alone. -/
theorem memWrite_mem_congr {s t : State} (hm : t.mem = s.mem) (hn : t.swarm = s.swarm) (a : Nat) (l : Bytes) :
    (memWrite t a l).mem = (memWrite s a l).mem := by
  simp only [memWrite, hm, hn]
  split
  · rfl
  · exact hm

/-- The copy's entry stands in the table. -/
@[simp] theorem getMot_jobImageCopied (c dest f a n : Nat) (b : Bytes) (s : State) :
    getMot (jobImageCopied c dest f a n b s) f = jobImageEntry s c f a n := by
  simp [getMot, jobImageCopied, zeroMem, setMot]

/-- The copy leaves every other entry. -/
theorem getMot_jobImageCopied_ne {c dest f a n i : Nat} {b : Bytes} {s : State} (h : i ≠ f) :
    getMot (jobImageCopied c dest f a n b s) i = getMot s i := by
  simp [getMot, jobImageCopied, zeroMem, setMot, Tbl.get_set_ne h]

/-- The copy clears the place, writes the image to it and the digest to its destination. -/
theorem jobImageCopied_mem (c dest f a n : Nat) (b : Bytes) (s : State) :
    (jobImageCopied c dest f a n b s).mem = (memWrite (memWrite (zeroMem a (256 * ((n + 255) / 256)) s) a b) (getMot s dest).base
      (slice (Sys2Proof.Config.sha384 b) 0 48)).mem := by
  have hz : zeroMem a (256 * ((n + 255) / 256)) (setMot s f (jobImageEntry s c f a n)) =
      setMot (zeroMem a (256 * ((n + 255) / 256)) s) f (jobImageEntry s c f a n) := rfl
  rw [jobImageCopied, hz]
  exact memWrite_mem_congr (memWrite_mem_congr (by simp) (by simp) a b) (by simp) _ _

/-- The copy leaves the rest of the state. -/
@[simp] theorem jobImageCopied_rest (c dest f a n : Nat) (b : Bytes) (s : State) :
    let t := jobImageCopied c dest f a n b s
    t.keeper = s.keeper ∧ t.cmp = s.cmp ∧ t.net = s.net ∧ t.swarm = s.swarm ∧ t.faults = s.faults := by
  simp [jobImageCopied, zeroMem]

/-- JOB_LOAD of an own readable object that holds the length, with an own writable one for the digest, is accepted where there is a free
entry and place and the Keeper reaches the bytes. -/
theorem jobLoad_accepts {r : Req} {s : State} {c f a : Nat} {e g : MotEntry} (hc : localCtx s (leNat r.p 0 2) = some c)
    (hmine : mineCtx r s (getCtx s c) = true) (hreset : inReset (getCtx s c) = false)
    (hi : resolve s (le32 r.p 4) = some (field (le32 r.p 4) 15 0)) (he : getMot s (field (le32 r.p 4) 15 0) = e)
    (hj : resolve s (le32 r.p 16) = some (field (le32 r.p 16) 15 0)) (hg : getMot s (field (le32 r.p 16) 15 0) = g)
    (hok : jobHandlesBad e g (leNat r.p 8 8) = false) (hown : e.owner.toNat = leNat r.p 0 2) (hmo : mineObj r s g = true)
    (hfull : pendingFull s r.m = false) (hre : reachCheck s .keeper e.base (leNat r.p 8 8) = 0) (hrg : reachCheck s .keeper g.base 48 = 0)
    (hf : freeEntry s = some f)
    (ha : placeLpddr s (if e.place = 0 then addrDie e.base else 0) (256 * ((leNat r.p 8 8 + 255) / 256)) = some a) :
    jobLoad r s = accepted r
      (fun k s => jobLoadRun c (field (le32 r.p 4) 15 0) (field (le32 r.p 16) 15 0) f a (leNat r.p 8 8) k s) s := by
  obtain ⟨hid, hlt, -⟩ := ctxId_of_localCtx hc
  simp only [jobLoad, Nat.not_le.mpr hlt, if_false, withCtx_own hc hreset, hi, hj, he, hg, hok, hmine, hid, hown, hmo, hfull,
    whenAwake_reached hre, whenAwake_reached hrg, hf, ha, not_true_eq_false, ne_eq, or_self, Bool.false_eq_true]

/-- Settles O16: the request is accepted, and its run either copies a well-formed image or ends at a malformed one. -/
theorem jobLoadCommand : Obligations.JobLoadCommand := by
  intro m s p n i j e g w b die hk hn hn' c hc hmine hreset hkind hperm hgen hsize hgkind hggen hgperm hglock hown hgown f a hf ha hre hrg hchk
  simp only [askedLong, Bool.and_eq_true, Bool.not_eq_true'] at hk
  obtain ⟨hasked, hfull⟩ := hk
  obtain ⟨hid, -, -⟩ := ctxId_of_localCtx hc
  have hi : resolve s (le32 p 4) = some i := resolve_live (fun h => by cases hkind.symm.trans h) hgen
  have hj : resolve s (le32 p 16) = some j := resolve_live (fun h => by cases hgkind.symm.trans h) hggen
  have hok : jobHandlesBad e g n = false := by
    have hlen : ¬ (256 * e.size < n ∨ n < 264 ∨ 256 + 8 * 2 ^ 20 < n) := by omega
    simp only [jobHandlesBad, hkind, hperm, hgkind, hgperm, hglock, hlen]
    rfl
  have hacc : jobLoad (reqOf s m) (taken s m) = accepted (reqOf s m) (fun k s => jobLoadRun c i j f a n k s) (taken s m) :=
    jobLoad_accepts (e := e) (g := g) hc (mineCtx_of hmine) hreset hi rfl hj rfl hok hown
      (mineObj_of hgown) hfull hre hrg hf ha
  have hjf : j ≠ f := by
    rintro rfl
    cases hgkind.symm.trans (freeEntry_kind hf)
  have hwmot (k : Nat) : getMot w k = getMot s k := by simp [w, getMot]
  have hx : (getMot w i).base = e.base := congrArg MotEntry.base (hwmot i)
  refine ⟨fun himage => ⟨finishCmd (refOf s m) 0 (slice (Sys2Proof.Config.sha384 b) 0 8) (jobImageCopied c j f a n b w),
    ?_, ?_, ?_, ?_, ?_, ?_, ?_, ?_⟩, fun himage => ?_⟩
  · exact answers_of_run (.jobLoad m) rfl hasked hacc (jobLoadRun_wellFormed hx rfl hchk himage hjf) (by simp [w])
  · have hid' : ctxId w c = leNat p 0 2 := by simp [w, ctxId, ← hid]
    have hctx : getCtx w c = getCtx s c := by simp [w, getCtx]
    simp [jobImageEntry, creatorByte, hid', hwmot, hctx]
  · intro k hk
    simp [getMot_jobImageCopied_ne hk, hwmot]
  · simp [jobImageCopied_mem, hwmot, g]
  · simp [w]
  · simp [w]
  · simp [w]
  · have hin := mem_accepted_finishCmd (c := 0) (b := slice (Sys2Proof.Config.sha384 b) 0 8) (s := jobImageCopied c j f a n b w)
      (by simpa [getMbx] using mem_accepted_acceptedState s m)
    simpa [w, refOf] using hin
  · exact answers_of_run (.jobLoad m) rfl hasked hacc (jobLoadRun_malformed hx hchk himage) (by simp [w])

end Sys2Proof.Machine
end

section
/-! Resets, loss and return of supply, and supply states (R347-R358). -/

namespace Sys2Proof.Machine

/-! ### Words, runs of numbers and tables -/

/-- A bit after a bit has been written. -/
theorem bitOf_setBit {w : Nat} (x : BitVec w) {i : Nat} (hi : i < w) (b : Bool) (j : Nat) :
    bitOf (setBit x i b) j = if j = i then b else bitOf x j := by
  have hp : (BitVec.ofNat w (2 ^ i)).getLsbD j = decide (j = i) := by
    rw [BitVec.getLsbD_ofNat, Nat.testBit_two_pow]
    by_cases h : j = i <;> simp [h, hi, eq_comm (a := i)]
  cases b
  · simp only [bitOf, setBit, Bool.false_eq_true, if_false, BitVec.getLsbD_and, BitVec.getLsbD_not, hp]
    by_cases hj : j < w
    · by_cases h : j = i <;> simp [h, hj]
    · simp [BitVec.getLsbD_of_ge x j (Nat.not_lt.mp hj)]
  · simp only [bitOf, setBit, if_true, BitVec.getLsbD_or, hp]
    by_cases h : j = i <;> simp [h]

/-- The numbers of a run. -/
@[simp] theorem mem_upFrom {a n d : Nat} : d ∈ upFrom a n ↔ a ≤ d ∧ d < a + n := by
  induction n generalizing a with
  | zero => simp [upFrom]
  | succ n ih => simp only [upFrom, List.mem_cons, ih]; omega

/-- What a key holds after a run of writes, each of a value that depends on its key alone, where `skip` leaves keys out. -/
theorem get_foldl_set {α : Type} [DecidableEq α] (z : α) (skip : Nat → Bool) (v : Nat → α) (l : List Nat) (t : Tbl α) (k : Nat) :
    Tbl.get z (l.foldl (fun t i => if skip i then t else Tbl.set z t i (v i)) t) k
      = if k ∈ l ∧ skip k = false then v k else Tbl.get z t k := by
  induction l generalizing t with
  | nil => simp
  | cons i l ih =>
    rw [List.foldl_cons, ih]
    by_cases hk : k = i
    · subst hk
      cases skip k <;> simp
    · cases skip i <;> simp [hk, Tbl.get_set]

/-! ### What a reset leaves -/

/-- What every reset takes from the package and what it leaves, of the parts that R344 and R347 name. -/
def ResetLost (s t : State) : Prop :=
  t.obj = {} ∧ t.mem = {} ∧ t.cmp = {} ∧ t.frame = {} ∧ t.boot.step = 0
    ∧ t.flash.main = s.flash.main ∧ t.flash.info = s.flash.info ∧ t.test.fuses = s.test.fuses ∧ t.boot.settings = s.boot.settings
    ∧ t.faults.retired = s.faults.retired

/-- A reset that is released: what it takes. -/
theorem releaseReset_lost (strap : BitVec 2) (low : Bool) (s : State) : ResetLost s (releaseReset strap low s) :=
  ⟨rfl, rfl, rfl, rfl, rfl, rfl, rfl, rfl, rfl, rfl⟩

/-! ### Domains and PLLs with the rails down -/

/-- With the rails down every domain outside `on` is CLOSED (R347). -/
theorem getDom_railsDown (on : List Nat) (s : State) (d : Nat) :
    getDom (railsDown on s) d = if d < 64 ∧ d ∉ on then { getDom s d with state := .closed } else getDom s d := by
  have h := get_foldl_set ({} : Domain) (fun d => on.contains d) (fun d => { getDom s d with state := .closed }) (upFrom 0 64) s.net.doms d
  simpa [railsDown, settlePlls, getDom] using h

/-- Every PLL serves domains other than domain 56 (R355). -/
theorem pllDomains_ne_56 : ∀ p ∈ allPlls, ∀ d ∈ pllDomains p, d < 64 ∧ d ≠ 56 := by decide

/-- No PLL runs with every domain but 56 CLOSED (R355). -/
theorem settlePlls_off {s : State} (h : ∀ d, d < 64 → d ≠ 56 → (getDom s d).state = .closed) : (settlePlls s).power.plls = [] := by
  simp only [settlePlls, List.filter_eq_nil_iff, List.any_eq_true, not_exists, not_and]
  intro p hp d hd
  obtain ⟨hlt, hne⟩ := pllDomains_ne_56 p hp d hd
  simp [h d hlt hne]

/-- No PLL runs with the rails down and domain 56 at most left on. -/
theorem railsDown_plls {on : List Nat} (h : ∀ d ∈ on, d = 56) (s : State) : (railsDown on s).power.plls = [] := by
  refine settlePlls_off fun d hd hne => ?_
  have hclosed := getDom_railsDown on s d
  rw [if_pos ⟨hd, fun hm => hne (h d hm)⟩] at hclosed
  exact congrArg Domain.state hclosed

/-- The loss of VBAT closes every domain (R347). -/
theorem vbatLoss_closed (s : State) {d : Nat} (h : d < 64) : (getDom (vbatLoss s) d).state = .closed := by
  unfold vbatLoss
  rw [getDom_railsDown, if_pos ⟨h, by simp⟩]

/-- The loss of VBAT stops every PLL (R355). -/
theorem vbatLoss_plls (s : State) : (vbatLoss s).power.plls = [] := by
  unfold vbatLoss
  exact railsDown_plls (by simp) _

/-- The reset that is held as PWR_EN goes down (R350): a wake latched during the entry raises it again at once. -/
def parkedReset (s : State) : State :=
  { heldReset s with power := { (heldReset s).power with pkg := .parked, pwrEn := s.power.startAfterPark } }

/-- PWR_EN goes down at the end of the entry to PARKED (R350). -/
theorem pwrEnLower_parking {s : State} (h : s.power.parking = true) : pwrEnLower s =
    { railsDown [56] (parkedReset s) with power := { (railsDown [56] (parkedReset s)).power with ring := s.power.startAfterPark } } :=
  if_pos h

/-- Domain 56 is UP in every reset that is held (R347). -/
theorem parkedReset_56 (s : State) : (getDom (parkedReset s) 56).state = .up :=
  show (Tbl.get {} State.reset.net.doms 56).state = .up by decide

/-- Domain 56 alone is UP after PWR_EN has gone down (R347). -/
theorem pwrEnLower_doms {s : State} (h : s.power.parking = true) {d : Nat} (hd : d < 64) :
    ((getDom (pwrEnLower s) d).state = .up ↔ d = 56) ∧ (d ≠ 56 → (getDom (pwrEnLower s) d).state = .closed) := by
  have hdoms : (pwrEnLower s).net.doms = (railsDown [56] (parkedReset s)).net.doms := by rw [pwrEnLower_parking h]
  have hdom : getDom (pwrEnLower s) d = getDom (railsDown [56] (parkedReset s)) d := by rw [getDom, hdoms, getDom]
  rw [hdom, getDom_railsDown]
  by_cases h56 : d = 56
  · subst h56
    simp [parkedReset_56]
  · simp [hd, h56]

/-- What PWR_EN going down takes and leaves outside the domains (R344, R350). -/
theorem pwrEnLower_spec {s : State} (h : s.power.parking = true) :
    let t := pwrEnLower s
    ResetLost s t ∧ t.power.pkg = .parked ∧ t.power.pwrEn = s.power.startAfterPark ∧ t.power.resetHeld = true
      ∧ t.power.wakeCause = s.power.wakeCause ∧ t.power.rtc = s.power.rtc ∧ t.boot.keyRam = s.boot.keyRam
      ∧ t.power.ring = s.power.startAfterPark ∧ t.power.plls = [] := by
  have hplls : (railsDown [56] (parkedReset s)).power.plls = [] := railsDown_plls (by simp) _
  dsimp only
  rw [pwrEnLower_parking h]
  refine ⟨⟨rfl, rfl, rfl, rfl, rfl, rfl, rfl, rfl, rfl, rfl⟩, rfl, rfl, rfl, rfl, rfl, rfl, rfl, ?_⟩
  dsimp only
  rw [hplls]

/-- What a brownout takes and leaves of the package that is not OFF or PARKED (R358). -/
theorem brownoutReset_spec {s : State} (ho : s.power.pkg ≠ .off) (hp : s.power.pkg ≠ .parked) :
    let t := brownoutReset s
    ResetLost s t ∧ t.power.resetHeld = true ∧ bitOf t.power.wakeCause 7 = true ∧ t.power.browned = true
      ∧ (∀ m, (getMbx t m).bound = none) ∧ t.power.rtc = s.power.rtc := by
  have ht : brownoutReset s = { lifeCount 8 (latchCause 7 0 (heldReset s)) with
      power := { (lifeCount 8 (latchCause 7 0 (heldReset s))).power with browned := true } } := if_neg (by simp [ho, hp])
  have hcause : (latchCause 7 0 (heldReset s)).power.wakeCause = setBit s.power.wakeCause 7 true := rfl
  dsimp only
  rw [ht]
  refine ⟨⟨rfl, rfl, rfl, rfl, rfl, rfl, rfl, rfl, rfl, rfl⟩, rfl, ?_, rfl, fun _ => rfl, rfl⟩
  simp [lifeCount, hcause, bitOf_setBit]

/-! ### The return of supply -/

/-- A wake of the parked package starts it (R348). -/
theorem wakeUp_parked {s : State} (h : s.power.pkg = .parked) : wakeUp s = { s with
    power := { s.power with pwrEn := true, ring := true, wakeHeld := s.power.wakeHeld || s.power.turnOff } } := by
  cases ht : s.power.turnOff <;> simp [wakeUp, h, ht]

/-- VBAT_RISE from OFF (R348, R352). -/
theorem vbatRise_off {s : State} (h : s.power.pkg = .off) : vbatRise s =
    { setDom s 56 { getDom s 56 with state := .up } with
      power := { s.power with vbat := true, pkg := .parked, pwrEn := true, ring := true, wakeCause := setBit s.power.wakeCause 0 true,
                              wakeHeld := s.power.wakeHeld || s.power.turnOff } } := by
  simp only [vbatRise, h, if_true, latchCause]
  rw [wakeUp_parked rfl]
  rfl

/-! ### What the events of the power states leave -/

/-- The state without what the events of the power states write: the Keeper's mailboxes, the domains, the package state and its
transition, and the records that a suspension and a lifetime record make. -/
def outsidePower (s : State) : State :=
  { s with keeper := {}, net := { s.net with doms := [] }, test := {}, flash := { s.flash with banks := [] },
           power := { s.power with pkg := .off, goal := none, parking := false, halted := 0, resumeIrq := 0, upBefore := [], domCmds := [], plls := [],
                                   wakeCause := 0 } }

@[simp] theorem setMbx_outsidePower (s : State) (m : Nat) (x : Mbx) : outsidePower (setMbx s m x) = outsidePower s := rfl

@[simp] theorem setDom_outsidePower (s : State) (d : Nat) (x : Domain) : outsidePower (setDom s d x) = outsidePower s := rfl

@[simp] theorem saveLifetime_outsidePower (s : State) : outsidePower (saveLifetime s) = outsidePower s := rfl

@[simp] theorem settlePlls_outsidePower (s : State) : outsidePower (settlePlls s) = outsidePower s := rfl

@[simp] theorem suspendKeeperErases_outsidePower (s : State) : outsidePower (suspendKeeperErases s) = outsidePower s := rfl

@[simp] theorem resumeKeeperErases_outsidePower (s : State) : outsidePower (resumeKeeperErases s) = outsidePower s := rfl

@[simp] theorem finishCmd_outsidePower (c : CmdRef) (st : W16) (b : Bytes) (s : State) : outsidePower (finishCmd c st b s) = outsidePower s := rfl

@[simp] theorem sendOwner_outsidePower (c : W16) (p : Bytes) (s : State) : outsidePower (sendOwner c p s) = outsidePower s := by
  unfold sendOwner; split <;> rfl

@[simp] theorem broadcast_outsidePower (c : W16) (p : Bytes) (s : State) : outsidePower (broadcast c p s) = outsidePower s := by
  refine foldl_keeps outsidePower (fun s m => ?_) _ s
  split <;> rfl

@[simp] theorem sendWakeCause_outsidePower (ms : List Nat) (b : Bool) (s : State) : outsidePower (sendWakeCause ms b s) = outsidePower s :=
  foldl_keeps outsidePower (f := fun s m =>
    setMbx s m (if b then arriveFirst (getMbx s m) ⟨0xE002, _⟩ else arrive (getMbx s m) ⟨0xE002, _⟩)) (fun _ _ => rfl) ms s

@[simp] theorem setPkg_outsidePower (p : PkgState) (s : State) : outsidePower (setPkg p s) = outsidePower s := by
  unfold setPkg
  split
  · rfl
  · exact broadcast_outsidePower _ _ _

@[simp] theorem refreshPkg_outsidePower (s : State) : outsidePower (refreshPkg s) = outsidePower s := by
  unfold refreshPkg; split <;> simp

@[simp] theorem setDomState_outsidePower (d : Nat) (st : DomState) (s : State) : outsidePower (setDomState d st s) = outsidePower s := by
  unfold setDomState
  dsimp only
  split <;> simp

@[simp] theorem gate_outsidePower (d : Nat) (s : State) : outsidePower (gate d s) = outsidePower s := by
  unfold gate; split <;> simp

@[simp] theorem ungate_outsidePower (d : Nat) (s : State) : outsidePower (ungate d s) = outsidePower s := by
  unfold ungate
  dsimp only
  split <;> simp

@[simp] theorem pushDomCmds_outsidePower (d : Nat) (s : State) : outsidePower (pushDomCmds d s) = outsidePower s := by
  unfold pushDomCmds; split <;> simp

@[simp] theorem pushGoal_outsidePower (g : PkgState) (s : State) : outsidePower (pushGoal g s) = outsidePower s := by
  refine foldl_keeps outsidePower (fun s e => ?_) _ s
  split_ifs <;> simp

@[simp] theorem reachGoal_outsidePower (c : Option CmdRef) (g : PkgState) (s : State) : outsidePower (reachGoal c g s) = outsidePower s := by
  unfold reachGoal
  extract_lets wasStandby _ idle _ arrived _ resumed woken
  have harrived : outsidePower arrived = outsidePower s := by
    unfold arrived
    cases g with
    | parked => rfl
    | standby => exact setPkg_outsidePower _ _
    | off | ready | active =>
      rw [refreshPkg_outsidePower]
      split
      · exact setPkg_outsidePower _ _
      · rfl
  have hwoken : outsidePower woken = outsidePower arrived := by
    unfold woken
    split
    · exact sendWakeCause_outsidePower _ _ _
    · rfl
  cases c with
  | none => exact hwoken.trans harrived
  | some c => exact hwoken.trans harrived

@[simp] theorem stepGoal_outsidePower (s : State) : outsidePower (stepGoal s) = outsidePower s := by
  unfold stepGoal
  split
  · rfl
  · dsimp only
    split_ifs <;> simp

/-! ### Throttle levels under HOLD -/

theorem level_of_outsidePower {s t : State} (h : outsidePower t = outsidePower s) : t.power.level = s.power.level :=
  (congrArg (fun u : State => u.power.level) h :)

/-- A die's level after one is set (R360). -/
theorem level_setLevel (d l i : Nat) (s : State) :
    Tbl.get 0 (setLevel d l s).power.level i = if i = d then BitVec.ofNat 4 l else Tbl.get 0 s.power.level i := by
  unfold setLevel
  dsimp only
  split
  next h =>
    split
    next hi => rw [hi, h]
    next => rfl
  next => rw [level_of_outsidePower (broadcast_outsidePower _ _ _), Tbl.get_set]

/-- A run of dies set to one level (R358). -/
theorem level_foldl_setLevel (l : Nat) (ds : List Nat) (s : State) (i : Nat) :
    Tbl.get 0 (ds.foldl (fun s d => setLevel d l s) s).power.level i = if i ∈ ds then BitVec.ofNat 4 l else Tbl.get 0 s.power.level i := by
  induction ds generalizing s with
  | nil => rfl
  | cons d ds ih =>
    rw [List.foldl_cons, ih, level_setLevel]
    by_cases hi : i = d <;> simp [hi]

/-- The state without what a supply change writes: that of the power states, and the throttle levels. -/
def outsideSupply (s : State) : State := { outsidePower s with power := { (outsidePower s).power with level := [] } }

theorem outsideSupply_of_outsidePower {s t : State} (h : outsidePower t = outsidePower s) : outsideSupply t = outsideSupply s := by
  simp only [outsideSupply, h]

@[simp] theorem setLevel_outsideSupply (d l : Nat) (s : State) : outsideSupply (setLevel d l s) = outsideSupply s := by
  unfold setLevel
  dsimp only
  split
  · rfl
  · rw [outsideSupply_of_outsidePower (broadcast_outsidePower _ _ _)]
    rfl

/-- The state with the sensed voltage taken over, and the supply state that it leads to. -/
def supplySensed (volts : Nat) (s : State) : State := { s with
  power := { s.power with volts := BitVec.ofNat 12 (min volts 4095), supply := supplyNext s.power.supply volts,
                          browned := s.power.browned && decide (volts ≤ 1650) } }

/-- A supply state that stays takes over the voltage alone. -/
theorem supplyStateChange_same {volts : Nat} {s : State} (ho : s.power.pkg ≠ .off) (hp : s.power.pkg ≠ .parked)
    (h : supplyNext s.power.supply volts = s.power.supply) : supplyStateChange volts s = supplySensed volts s := by
  simp [supplyStateChange, supplySensed, ho, hp, h]

/-- A change of the supply state leaves what `outsideSupply` keeps, and at HOLD sets every die to level 8. -/
theorem supplyStateChange_spec {volts : Nat} {s : State} (ho : s.power.pkg ≠ .off) (hp : s.power.pkg ≠ .parked) :
    outsideSupply (supplyStateChange volts s) = outsideSupply (supplySensed volts s)
    ∧ (supplyNext s.power.supply volts = .hold → s.power.supply ≠ .hold →
        ∀ d, d < 6 → Tbl.get 0 (supplyStateChange volts s).power.level d = 8) := by
  by_cases hn : supplyNext s.power.supply volts = s.power.supply
  · rw [supplyStateChange_same ho hp hn]
    exact ⟨rfl, fun h h' => absurd (hn.symm.trans h) h'⟩
  · unfold supplyStateChange
    rw [if_neg (by simp [ho, hp])]
    extract_lets now n _ sensed told low suspended saved resumed
    rw [if_neg hn]
    have hsus : outsidePower suspended = outsidePower sensed := by
      unfold suspended
      split
      · exact (suspendKeeperErases_outsidePower _).trans (broadcast_outsidePower _ _ _)
      · exact broadcast_outsidePower _ _ _
    have hsav : outsidePower saved = outsidePower suspended := by
      unfold saved
      split
      · exact saveLifetime_outsidePower _
      · rfl
    have hres : outsidePower resumed = outsidePower saved := by
      unfold resumed
      split
      · exact resumeKeeperErases_outsidePower _
      · rfl
    have hall : outsidePower resumed = outsidePower sensed := hres.trans (hsav.trans hsus)
    split
    next hhold =>
      refine ⟨?_, fun _ _ d hd => ?_⟩
      · exact (foldl_keeps outsideSupply (fun s d => setLevel_outsideSupply d 8 s) _ _).trans (outsideSupply_of_outsidePower hall)
      · rw [level_foldl_setLevel, if_pos (mem_upFrom.mpr ⟨Nat.zero_le d, by omega⟩)]
        rfl
    next hhold =>
      refine ⟨outsideSupply_of_outsidePower ?_, fun h => absurd h hhold⟩
      split
      · rw [stepGoal_outsidePower, foldl_keeps outsidePower (fun s d => pushDomCmds_outsidePower d s)]
        exact hall
      · exact hall

/-- Settles O45: each clause is its event's own effect, of which a reset takes what `ResetLost` says. -/
theorem resetAndSupply : Obligations.ResetAndSupply := by
  intro s lost
  refine ⟨fun strap low => ⟨fun hv hp ht hb => ?_, fun h => ?_⟩, fun h => ?_, fun h => ?_, ?_, fun h => ?_, fun h => ?_, fun ho hp => ?_, fun h => ?_,
    fun volts => ⟨fun ho hp => ⟨fun hn => ?_, ?_⟩, fun h => ?_⟩⟩
  · refine ⟨{ releaseReset strap low s with free := s.free + 1 }, ?_, releaseReset_lost strap low s, rfl, rfl, rfl, fun _ => rfl, rfl, rfl, rfl, ?_⟩
    · show inRange true (when _ _ s) = _
      have hguard : (s.power.vbat && s.power.pwrEn && !s.power.tripped && !s.power.browned) = true := by simp [hv, hp, ht, hb]
      rw [when, hguard]
      rfl
    · simp [getMbx, releaseReset, bindMailboxes, setMbx]
  · show inRange true (when _ _ s) = _
    have hguard : (s.power.vbat && s.power.pwrEn && !s.power.tripped && !s.power.browned) = false := by
      rcases h with h | h | h | h <;> simp [h]
    simp [when, hguard]
  · refine ⟨{ vbatRise s with free := s.free + 1 }, ?_, ?_, fun k hk => ?_, ?_, fun d hd => ?_, ?_⟩
    · show inRange true (vbatRise s) = _
      rw [vbatRise_off h]
      rfl
    · simp [vbatRise_off h, bitOf_setBit]
    · simp [vbatRise_off h, bitOf_setBit, hk]
    · rw [vbatRise_off h]
      exact congrArg Domain.state (getDom_setDom s 56 _)
    · rw [vbatRise_off h]
      exact getDom_setDom_ne s 56 _ d hd
    · simp [vbatRise_off h, setDom]
  · show inRange true (vbatRise s) = _
    simp [vbatRise, h]
  · refine ⟨{ vbatLoss s with free := s.free + 1 }, rfl, ⟨rfl, rfl, rfl, rfl, rfl, rfl, rfl, rfl, rfl, rfl⟩, rfl, rfl, rfl, rfl, rfl, rfl, fun _ => rfl,
      fun d hd => vbatLoss_closed s hd, rfl, vbatLoss_plls s⟩
  · obtain ⟨hlost, hpkg, hen, hheld, hcause, hrtc, hkey, hring, hplls⟩ := pwrEnLower_spec h
    exact ⟨{ pwrEnLower s with free := (pwrEnLower s).free + 1 }, rfl, hlost, hpkg, hen, hheld, hcause, hrtc, hkey,
      fun d hd => pwrEnLower_doms h hd, hring, hplls⟩
  · show inRange true (pwrEnLower s) = _
    simp [pwrEnLower, h]
  · obtain ⟨hlost, hheld, hcause, hbrown, hmbx, hrtc⟩ := brownoutReset_spec ho hp
    exact ⟨{ brownoutReset s with free := (brownoutReset s).free + 1 }, rfl, hlost, hheld, hcause, hbrown, hmbx, hrtc⟩
  · show inRange true (brownoutReset s) = _
    simp [brownoutReset, h]
  · show inRange true (supplyStateChange volts s) = _
    rw [supplyStateChange_same ho hp hn, supplySensed, hn]
    rfl
  · obtain ⟨hout, hlevel⟩ := supplyStateChange_spec (volts := volts) ho hp
    refine ⟨{ supplyStateChange volts s with free := (supplyStateChange volts s).free + 1 }, rfl, ?_, ?_, ?_, ?_, hlevel⟩
    · exact (congrArg (fun u : State => u.power.supply) hout :)
    · exact (congrArg (fun u : State => u.power.browned) hout :)
    · exact (congrArg State.mem hout :)
    · exact (congrArg State.obj hout :)
  · show inRange true (supplyStateChange volts s) = _
    simp [supplyStateChange, h]

end Sys2Proof.Machine
end

section
/-! What the work on links, routes, signals and the loss of a node leaves of the state. -/

namespace Sys2Proof.Machine

/-! ### Events to mailboxes -/

/-- The state without the Keeper's mailboxes and counters. -/
def apartFromKeeper (s : State) : State := { s with keeper := {} }

@[simp] theorem setMbx_apartFromKeeper (s : State) (m : Nat) (x : Mbx) : apartFromKeeper (setMbx s m x) = apartFromKeeper s := rfl

@[simp] theorem sendTo_apartFromKeeper (m : Nat) (c : W16) (p : Bytes) (s : State) : apartFromKeeper (sendTo m c p s) = apartFromKeeper s := rfl

@[simp] theorem sendAbout_apartFromKeeper (m : Nat) (c : W16) (p : Bytes) (s : State) :
    apartFromKeeper (sendAbout m c p s) = apartFromKeeper s := by
  unfold sendAbout; dsimp only; split <;> rfl

@[simp] theorem sendMaker_apartFromKeeper (x : Ctx) (c : W16) (p : Bytes) (s : State) :
    apartFromKeeper (sendMaker x c p s) = apartFromKeeper s := by
  unfold sendMaker; split <;> simp

@[simp] theorem sendOwner_apartFromKeeper (c : W16) (p : Bytes) (s : State) : apartFromKeeper (sendOwner c p s) = apartFromKeeper s := by
  unfold sendOwner; split <;> rfl

@[simp] theorem broadcast_apartFromKeeper (c : W16) (p : Bytes) (s : State) : apartFromKeeper (broadcast c p s) = apartFromKeeper s := by
  refine foldl_keeps apartFromKeeper (fun s m => ?_) _ s
  split <;> rfl

@[simp] theorem raiseIrq_apartFromKeeper (src : W32) (v : Nat) (s : State) : apartFromKeeper (raiseIrq src v s) = apartFromKeeper s := rfl

@[simp] theorem violation_apartFromKeeper (src : W32) (a : Nat) (creator : Option Nat) (s : State) :
    apartFromKeeper (violation src a creator s) = apartFromKeeper s := by
  unfold violation
  dsimp only
  split
  · rfl
  · cases creator with
    | none => exact sendOwner_apartFromKeeper _ _ _
    | some m => exact sendAbout_apartFromKeeper _ _ _ _

@[simp] theorem violationIf_apartFromKeeper (c : W16) (src : W32) (a : Nat) (s : State) :
    apartFromKeeper (violationIf c src a s) = apartFromKeeper s := by
  unfold violationIf; split <;> simp

/-! ### Routes and training -/

/-- The state without what a switch of routes, the training of ports and an event write: the Keeper, the network but for the signals
held, and the ports. -/
def apartFromRoutes (s : State) : State :=
  { s with keeper := {}, net := { held := s.net.held }, swarm := { s.swarm with ports := [] } }

theorem apartFromRoutes_of_keeper {s t : State} (h : apartFromKeeper t = apartFromKeeper s) : apartFromRoutes t = apartFromRoutes s :=
  (congrArg apartFromRoutes h :)

@[simp] theorem setSlink_apartFromRoutes (s : State) (p : Nat) (x : SlinkPort) : apartFromRoutes (setSlink s p x) = apartFromRoutes s := rfl

@[simp] theorem startTraining_apartFromRoutes (p : Nat) (s : State) : apartFromRoutes (startTraining p s) = apartFromRoutes s := rfl

@[simp] theorem bringUp_apartFromRoutes (p : Nat) (s : State) : apartFromRoutes (bringUp p s) = apartFromRoutes s := by
  unfold bringUp; dsimp only; split <;> rfl

@[simp] theorem applyInstall_apartFromRoutes (d : Nat) (s : State) : apartFromRoutes (applyInstall d s) = apartFromRoutes s := rfl

@[simp] theorem nextSwitch_apartFromRoutes (n : Nat) (s : State) : apartFromRoutes (nextSwitch n s) = apartFromRoutes s := by
  induction n generalizing s with
  | zero => rfl
  | succ n ih =>
    unfold nextSwitch
    split
    · rfl
    · dsimp only
      split
      · rw [ih]; rfl
      · rfl

@[simp] theorem keeperRoutes_apartFromRoutes (d : Nat) (l : Tbl W32) (s : State) : apartFromRoutes (keeperRoutes d l s) = apartFromRoutes s := by
  unfold keeperRoutes
  dsimp only
  split_ifs
  · rfl
  · rfl
  · rw [nextSwitch_apartFromRoutes]; rfl
  · rfl

@[simp] theorem installNode_apartFromRoutes (s : State) (n : Nat) : apartFromRoutes (installNode s n) = apartFromRoutes s :=
  foldl_keeps apartFromRoutes (fun s d => keeperRoutes_apartFromRoutes d _ s) _ s

@[simp] theorem broadcast_apartFromRoutes (c : W16) (p : Bytes) (s : State) : apartFromRoutes (broadcast c p s) = apartFromRoutes s :=
  apartFromRoutes_of_keeper (broadcast_apartFromKeeper c p s)

/-! ### Slots that fire -/

/-- The state without what a slot that fires writes: the Keeper, the objects but for the fence words, memory, and the log. -/
def apartFromSlots (s : State) : State := { s with keeper := {}, obj := { fences := s.obj.fences }, mem := {}, faults := {} }

theorem apartFromSlots_of_keeper {s t : State} (h : apartFromKeeper t = apartFromKeeper s) : apartFromSlots t = apartFromSlots s :=
  (congrArg apartFromSlots h :)

@[simp] theorem memWrite_apartFromSlots (s : State) (a : Nat) (l : Bytes) : apartFromSlots (memWrite s a l) = apartFromSlots s := by
  unfold memWrite; split <;> rfl

@[simp] theorem record_apartFromSlots (r : FaultRecord) (s : State) : apartFromSlots (record r s) = apartFromSlots s := rfl

@[simp] theorem slotRecord_apartFromSlots (k : Nat) (ctx c : W16) (s : State) : apartFromSlots (slotRecord k ctx c s) = apartFromSlots s := by
  unfold slotRecord
  dsimp only
  split
  · exact (apartFromSlots_of_keeper (sendMaker_apartFromKeeper _ _ _ _)).trans (record_apartFromSlots _ _)
  · rfl

@[simp] theorem unwatch_apartFromSlots (x : Slot) (s : State) : apartFromSlots (unwatch x s) = apartFromSlots s := by
  unfold unwatch
  split
  · split <;> rfl
  · rfl

@[simp] theorem fireSlot_apartFromSlots (k : Nat) (w : W64) (st : SlotState) (s : State) :
    apartFromSlots (fireSlot k w st s) = apartFromSlots s := by
  unfold fireSlot
  extract_lets x ctx n code unwatched noted irq
  have hnoted : apartFromSlots noted = apartFromSlots unwatched := by
    unfold noted
    split
    · rw [slotRecord_apartFromSlots]
      exact apartFromSlots_of_keeper (violationIf_apartFromKeeper _ _ _ _)
    · split <;> simp
  have hirq : apartFromSlots irq = apartFromSlots noted := by
    unfold irq
    split
    · split
      · rfl
      · exact apartFromSlots_of_keeper (raiseIrq_apartFromKeeper _ _ _)
    · rfl
  exact hirq.trans (hnoted.trans (unwatch_apartFromSlots x s))

@[simp] theorem fireSlotError_apartFromSlots (k : Nat) (c : W16) (seen : W64) (s : State) :
    apartFromSlots (fireSlotError k c seen s) = apartFromSlots s := fireSlot_apartFromSlots _ _ _ _

@[simp] theorem systemFault_apartFromSlots (r : FaultRecord) (s : State) : apartFromSlots (systemFault r s) = apartFromSlots s :=
  (apartFromSlots_of_keeper (sendOwner_apartFromKeeper _ _ _)).trans (record_apartFromSlots _ s)

/-! ### Signals, packets and the loss of a node -/

/-- The state without what signals, packets and the loss of a node write: the parts of the package at work, and the ports; swarm time,
the members, the power state and the Frame's regions stay. -/
def apartFromTraffic (s : State) : State :=
  { s with keeper := {}, obj := {}, mem := {}, cmp := {}, net := {}, faults := {}, swarm := { s.swarm with ports := [] } }

theorem apartFromTraffic_of_routes {s t : State} (h : apartFromRoutes t = apartFromRoutes s) : apartFromTraffic t = apartFromTraffic s :=
  (congrArg apartFromTraffic h :)

theorem apartFromTraffic_of_slots {s t : State} (h : apartFromSlots t = apartFromSlots s) : apartFromTraffic t = apartFromTraffic s :=
  (congrArg apartFromTraffic h :)

@[simp] theorem sendFlit_apartFromTraffic (p : Nat) (f : LinkFlit) (s : State) : apartFromTraffic (sendFlit p f s) = apartFromTraffic s := rfl

@[simp] theorem linkSend_apartFromTraffic (p : Nat) (k : Packet) (s : State) : apartFromTraffic (linkSend p k s) = apartFromTraffic s := by
  have flits (q : Nat) : apartFromTraffic ((dataFlitsOf k).foldl (fun s f => sendFlit q f s) s) = apartFromTraffic s :=
    foldl_keeps apartFromTraffic (fun s f => sendFlit_apartFromTraffic q f s) _ s
  unfold linkSend
  dsimp only
  split
  · exact flits p
  · split
    · exact flits (partner p)
    · rfl
  · rfl

@[simp] theorem carryOne_apartFromTraffic (cls : Nat) (src : W32) (ctx dest : Nat) (s : State) :
    apartFromTraffic (carryOne cls src ctx dest s) = apartFromTraffic s := by
  unfold carryOne; split <;> rfl

@[simp] theorem recordOf_apartFromTraffic (res : Option W32) (r : FaultRecord) (s : State) :
    apartFromTraffic (recordOf res r s) = apartFromTraffic s := by
  cases res <;> rfl

@[simp] theorem faultCtx_apartFromTraffic (id : Nat) (r : FaultRecord) (res : Option W32) (s : State) :
    apartFromTraffic (faultCtx id r res s) = apartFromTraffic s := by
  unfold faultCtx
  split
  · rfl
  · dsimp only
    split
    · simp
    · rfl

@[simp] theorem pushSignal_apartFromTraffic (g : Signal) (s : State) : apartFromTraffic (pushSignal g s) = apartFromTraffic s := rfl

@[simp] theorem signalOn_apartFromTraffic (src : W32) (a : Nat) (add : Bool) (v : W64) (o : Origin) (ctx : W16) (s : State) (code : W16)
    (fence port : Option Nat) : apartFromTraffic (signalOn src a add v o ctx s code fence port) = apartFromTraffic s := by
  unfold signalOn
  dsimp only
  split_ifs
  · rfl
  · rfl
  · exact faultCtx_apartFromTraffic _ _ _ _
  · rfl
  · cases fence with
    | some i => exact (pushSignal_apartFromTraffic _ _).trans (carryOne_apartFromTraffic _ _ _ _ _)
    | none =>
      cases port with
      | some p => exact (linkSend_apartFromTraffic _ _ _).trans (carryOne_apartFromTraffic _ _ _ _ _)
      | none => rfl

@[simp] theorem routeSignal_apartFromTraffic (src : W32) (a : Nat) (add : Bool) (v : W64) (o : Origin) (ctx : W16) (s : State) :
    apartFromTraffic (routeSignal src a add v o ctx s) = apartFromTraffic s := by
  unfold routeSignal
  exact signalOn_apartFromTraffic _ _ _ _ _ _ _ _ _ _

@[simp] theorem sendSignal_apartFromTraffic (src : W32) (a : Nat) (add : Bool) (v : W64) (o : Origin) (ctx : W16) (s : State) :
    apartFromTraffic (sendSignal src a add v o ctx s) = apartFromTraffic s := by
  unfold sendSignal
  split
  · split
    · rfl
    · exact routeSignal_apartFromTraffic _ _ _ _ _ _ _
  · split
    · rfl
    · exact routeSignal_apartFromTraffic _ _ _ _ _ _ _

@[simp] theorem releaseHeld_apartFromTraffic (s : State) : apartFromTraffic (releaseHeld s) = apartFromTraffic s := by
  unfold releaseHeld
  rw [foldl_keeps apartFromTraffic (fun s h => sendSignal_apartFromTraffic _ _ _ _ _ _ s)]
  rfl

/-- With no signal held, none goes on. -/
theorem releaseHeld_none {s : State} (h : s.net.held = []) : releaseHeld s = s := by
  simp only [releaseHeld, h, List.foldl_nil]
  simp [← h]

@[simp] theorem poison_apartFromTraffic (i : Nat) (c : W16) (s : State) : apartFromTraffic (poison i c s) = apartFromTraffic s := by
  unfold poison; dsimp only; split <;> rfl

@[simp] theorem collFail_apartFromTraffic (n : Nat) (c : W16) (s : State) : apartFromTraffic (collFail n c s) = apartFromTraffic s := by
  unfold collFail collFailWith
  dsimp only
  split
  · refine foldl_keeps apartFromTraffic (fun s e => ?_) _ s
    split
    · split
      · exact poison_apartFromTraffic _ _ _
      · rfl
    · rfl
  · rfl

@[simp] theorem loseNode_apartFromTraffic (n : Nat) (s : State) : apartFromTraffic (loseNode n s) = apartFromTraffic s := by
  unfold loseNode
  extract_lets hit poisoned failed fired
  calc apartFromTraffic (systemFault _ fired)
      = apartFromTraffic fired := apartFromTraffic_of_slots (systemFault_apartFromSlots _ _)
    _ = apartFromTraffic failed := foldl_keeps apartFromTraffic (fun s e => apartFromTraffic_of_slots (fireSlotError_apartFromSlots _ _ _ s)) _ failed
    _ = apartFromTraffic poisoned := foldl_keeps apartFromTraffic (fun s e => collFail_apartFromTraffic _ _ s) _ poisoned
    _ = apartFromTraffic s := foldl_keeps apartFromTraffic (fun s i => poison_apartFromTraffic i _ s) _ s

/-! ### Fences that stay poisoned -/

/-- A fence poisoned with a code below 0x8000 holds a poisoned word (R89). -/
theorem poison_poisons (i : Nat) {c : W16} (hc : c.toNat < 0x8000) (s : State) : bitOf (fenceWord (poison i c s) i) 63 = true := by
  unfold poison
  dsimp only
  split
  next h => exact h
  next h =>
    have hw : (fenceWord s i).toNat % 2 ^ 48 < 2 ^ 48 := Nat.mod_lt _ (by decide)
    simp only [fenceWord, setFence, Tbl.get_set_self, bitOf, BitVec.getLsbD_ofNat, Nat.testBit_eq_decide_div_mod_eq] at hw ⊢
    simp only [Bool.and_eq_true, decide_eq_true_eq]
    omega

/-- A poisoned fence stays poisoned as another is poisoned (R89). -/
theorem poison_keeps_poisoned {i : Nat} {s : State} (h : bitOf (fenceWord s i) 63 = true) (j : Nat) (c : W16) :
    bitOf (fenceWord (poison j c s) i) 63 = true := by
  unfold poison
  dsimp only
  split
  next => exact h
  next hj =>
    have hij : i ≠ j := by rintro rfl; exact hj h
    simpa [fenceWord, setFence, setMot, Tbl.get_set_ne hij] using h

/-- What every pass of a loop keeps, the loop keeps. -/
theorem foldl_preserves {α β : Type} {P : β → Prop} {f : β → α → β} (hf : ∀ s x, P s → P (f s x)) (l : List α) {s : β} (h : P s) :
    P (l.foldl f s) := by
  induction l generalizing s with
  | nil => exact h
  | cons x l ih => exact ih (hf s x h)

/-- What one pass of a loop makes true, and every pass keeps, holds after a loop that makes this pass. -/
theorem foldl_reaches {α β : Type} {P : β → Prop} {f : β → α → β} {x : α} (hf : ∀ s y, P s → P (f s y)) (hx : ∀ s, P (f s x)) {l : List α}
    (h : x ∈ l) (s : β) : P (l.foldl f s) := by
  induction l generalizing s with
  | nil => cases h
  | cons y l ih =>
    rcases List.mem_cons.mp h with rfl | h
    · exact foldl_preserves hf l (hx s)
    · exact ih h (f s y)

/-- A key that does not hold the default is listed. -/
theorem Tbl.mem_of_get_ne {α : Type} {d : α} {k : Nat} {t : Tbl α} (h : Tbl.get d t k ≠ d) : (k, Tbl.get d t k) ∈ t := by
  induction t with
  | nil => exact absurd rfl h
  | cons e t ih =>
    obtain ⟨j, x⟩ := e
    unfold Tbl.get at h ⊢
    split
    next hj => subst hj; simp
    next hj =>
      rw [if_neg hj] at h
      exact List.mem_cons_of_mem _ (ih h)

/-- A poisoned fence stays poisoned as a collective fails (R229). -/
theorem collFail_keeps_poisoned {i : Nat} {s : State} (h : bitOf (fenceWord s i) 63 = true) (n : Nat) (c : W16) :
    bitOf (fenceWord (collFail n c s) i) 63 = true := by
  unfold collFail collFailWith
  dsimp only
  split
  · refine foldl_preserves (P := fun s => bitOf (fenceWord s i) 63 = true) (fun s e hs => ?_) _ h
    have hset (x : CollSlot) : bitOf (fenceWord (setColl s e.1 x) i) 63 = true := hs
    split
    · split
      · exact poison_keeps_poisoned (hset _) _ _
      · exact hset _
    · exact hset _
  · exact h

theorem fenceWord_of_slots {s t : State} (h : apartFromSlots t = apartFromSlots s) (i : Nat) : fenceWord t i = fenceWord s i :=
  (congrArg (fenceWord · i) h :)

/-- The loss of a node poisons every fence that a context of it signalled (R215, R300). -/
theorem loseNode_poisons {n i : Nat} {s : State} (hk : (getMot s i).kind = 2) (hs : bitOf (getMot s i).signalled n = true) :
    bitOf (fenceWord (loseNode n s) i) 63 = true := by
  unfold loseNode
  extract_lets hit poisoned failed fired
  have hin : i ∈ hit := by
    have hlive : getMot s i ≠ {} := fun h => by
      rw [h] at hk
      cases hk
    have hmem : (i, getMot s i) ∈ s.obj.mot := Tbl.mem_of_get_ne hlive
    exact List.mem_map.mpr ⟨(i, getMot s i), List.mem_filter.mpr ⟨hmem, by simp [hk, hs]⟩, rfl⟩
  have hpoisoned : bitOf (fenceWord poisoned i) 63 = true :=
    foldl_reaches (P := fun s => bitOf (fenceWord s i) 63 = true) (fun s j h => poison_keeps_poisoned h j _)
      (fun s => poison_poisons i (by decide) s) hin s
  have hfailed : bitOf (fenceWord failed i) 63 = true :=
    foldl_preserves (P := fun s => bitOf (fenceWord s i) 63 = true) (f := fun s (e : Nat × CollSlot) => collFail e.1 0x5005 s)
      (fun s e h => collFail_keeps_poisoned h e.1 0x5005) _ hpoisoned
  have hfired : apartFromSlots fired = apartFromSlots failed :=
    foldl_keeps apartFromSlots (fun s e => fireSlotError_apartFromSlots _ _ _ s) _ failed
  rw [fenceWord_of_slots ((systemFault_apartFromSlots _ fired).trans hfired)]
  exact hfailed

end Sys2Proof.Machine
end

section
/-! Formation, rejoin and the loss of a node (R212-R217). -/

namespace Sys2Proof.Machine

/-! ### Sets of nodes -/

/-- A bit of a word, by its number. -/
theorem bitOf_eq_decide {w : Nat} (x : BitVec w) (i : Nat) : bitOf x i = decide (x.toNat / 2 ^ i % 2 = 1) :=
  Nat.testBit_eq_decide_div_mod_eq

/-- A bit of a mask taken as a word that has it. -/
theorem bitOf_ofNat {w i : Nat} (hi : i < w) (m : Nat) : bitOf (BitVec.ofNat w m) i = decide (m / 2 ^ i % 2 = 1) := by
  rw [bitOf, BitVec.getLsbD_ofNat, decide_eq_true hi, Bool.true_and, Nat.testBit_eq_decide_div_mod_eq]

/-- The nodes of a mask. -/
theorem mem_nodesOf {m n : Nat} : n ∈ nodesOf m ↔ n < 4 ∧ m / 2 ^ n % 2 = 1 := by
  simp [nodesOf]

/-- A node is a member of its own swarm (R212). -/
theorem ownSet_own (s : State) (links : BitVec 6) (k among : Nat) : ownSet s links k among / 2 ^ s.swarm.node % 2 = 1 := by
  have hself : 2 ^ s.swarm.node / 2 ^ s.swarm.node % 2 = 1 := by rw [Nat.div_self (Nat.two_pow_pos _)]
  induction k generalizing among with
  | zero => exact hself
  | succ k ih =>
    unfold ownSet
    dsimp only
    split_ifs with hbest
    · exact hbest
    · exact hself
    · exact ih _

/-- Swarm time never goes back in a re-formation (R218). -/
theorem formTime_ge {s : State} (h : s.swarm.formed = true) (m co : Nat) (times : List W64) :
    s.swarm.time.toNat ≤ (formTime s m co times).toNat := by
  have grows : ∀ (l : List Nat) (t : W64), t.toNat
      ≤ (l.foldl (fun t n => if n ≠ s.swarm.node ∧ t.toNat < (times.getD n 0).toNat then times.getD n 0 else t) t).toNat := by
    intro l
    induction l with
    | nil => exact fun t => le_refl _
    | cons n l ih =>
      intro t
      refine le_trans ?_ (ih _)
      dsimp only
      split
      next hlt => exact hlt.2.le
      next => exact le_refl _
  simpa [formTime, h] using grows (nodesOf m) s.swarm.time

/-! ### A formation carried out (R213) -/

/-- The state with the swarm of members `m` and coordinator `co` formed, `w` the swarm's state before. -/
def joined (m co : Nat) (times : List W64) (w : Swarm) (s : State) : State :=
  { s with swarm := { s.swarm with
      members := BitVec.ofNat 4 m, coordinator := co, generation := w.generation + 1, formed := true, forming := w.formAgain,
      formAgain := false, time := formTime s m co times, running := true, locked := w.locked || co == w.node, inRange := 0, outOfRange := 0,
      trim := if co = w.node then 0 else w.trim } }

/-- What a formation writes does not depend on what traffic writes. -/
theorem joined_apartFromTraffic (m co : Nat) (times : List W64) (w : Swarm) (s : State) :
    apartFromTraffic (joined m co times w s) = joined m co times w (apartFromTraffic s) := rfl

/-- The routes installed at a formation and the ports trained leave what `apartFromRoutes` keeps. -/
theorem formed_apartFromRoutes (nodes ports : List Nat) (s : State) :
    apartFromRoutes (ports.foldl (fun s p => bringUp p s) (nodes.foldl installNode s)) = apartFromRoutes s := by
  rw [foldl_keeps apartFromRoutes (fun s p => bringUp_apartFromRoutes p s), foldl_keeps apartFromRoutes (fun s n => installNode_apartFromRoutes s n)]

/-- The members that a formation leaves out (R213). -/
def leftOut (s : State) (m : Nat) : List Nat := (nodesOf s.swarm.members.toNat).filter (fun n => n != s.swarm.node && m / 2 ^ n % 2 == 0)

/-- What a formation makes of swarm time, the members and the rest that traffic leaves. -/
theorem form_apartFromTraffic (links : BitVec 6) (times : List W64) (s : State) :
    apartFromTraffic (form links times s)
      = apartFromTraffic (joined (ownSet s links 4 15) ((nodesOf (ownSet s links 4 15)).headD s.swarm.node) times s.swarm s) := by
  unfold form
  extract_lets m co w left stay lost _ joinedLost routed trained told
  have hlost : apartFromTraffic lost = apartFromTraffic s := foldl_keeps apartFromTraffic (fun s n => loseNode_apartFromTraffic n s) _ s
  have hjoin : apartFromTraffic joinedLost = apartFromTraffic (joined m co times w s) := by
    show apartFromTraffic (joined m co times w lost) = _
    rw [joined_apartFromTraffic, joined_apartFromTraffic, hlost]
  have htold : apartFromTraffic told = apartFromTraffic joinedLost := apartFromTraffic_of_routes
    ((broadcast_apartFromRoutes _ _ trained).trans (formed_apartFromRoutes _ _ joinedLost))
  split
  · rw [releaseHeld_apartFromTraffic, htold, hjoin]
  · rw [htold, hjoin]

/-- A formation that loses no member, with no signal held, leaves all but the Keeper, the network and the ports. -/
theorem form_apartFromRoutes {links : BitVec 6} {times : List W64} {s : State} (hleft : leftOut s (ownSet s links 4 15) = [])
    (hheld : s.net.held = []) :
    apartFromRoutes (form links times s)
      = apartFromRoutes (joined (ownSet s links 4 15) ((nodesOf (ownSet s links 4 15)).headD s.swarm.node) times s.swarm s) := by
  unfold form
  extract_lets m co w left stay lost _ joinedLost routed trained told
  have hlost : lost = s := by
    show List.foldl _ s (leftOut s m) = s
    rw [hleft, List.foldl_nil]
  have hjoin : joinedLost = joined m co times w s := by
    show joined m co times w lost = _
    rw [hlost]
  have htold : apartFromRoutes told = apartFromRoutes joinedLost :=
    (broadcast_apartFromRoutes _ _ trained).trans (formed_apartFromRoutes _ _ joinedLost)
  have hnone : told.net.held = [] := by
    have hsame : told.net.held = joinedLost.net.held := (congrArg (fun u : State => u.net.held) htold :)
    rw [hsame, hjoin]
    exact hheld
  refine Eq.trans ?_ (htold.trans (congrArg apartFromRoutes hjoin))
  split
  · rw [releaseHeld_none hnone]
  · rfl

/-- A formation keeps this node's members that it keeps in its set, and so loses none. -/
theorem leftOut_nil {s : State} {m : Nat} (h : ∀ n, n < 4 → bitOf s.swarm.members n = true → n ≠ s.swarm.node → bitOf (BitVec.ofNat 4 m) n = true) :
    leftOut s m = [] := by
  refine List.filter_eq_nil_iff.mpr fun n hn => ?_
  obtain ⟨hlt, hbit⟩ := mem_nodesOf.mp hn
  by_cases hself : n = s.swarm.node
  · simp [hself]
  · have hin := h n hlt (by rw [bitOf_eq_decide, decide_eq_true hbit]) hself
    rw [bitOf_ofNat hlt, decide_eq_true_eq] at hin
    simp [hin]

/-! ### The loss of a node (R215) -/

/-- The state in which a member counts as lost. -/
def memberLost (n : Nat) (s : State) : State :=
  { s with swarm := { s.swarm with members := setBit s.swarm.members n false, lost := setBit s.swarm.lost n true,
                                   coordinator := (nodesOf (setBit s.swarm.members n false).toNat).headD s.swarm.node } }

/-- NODE_LOSS of a member to which no port is UP or in HANDOVER. -/
theorem nodeLoss_lost {n : Nat} {s : State} (hn : n ≠ s.swarm.node) (hm : bitOf s.swarm.members n = true)
    (hp : ∀ p, p < 6 → peerNode s p = n → (getSlink s p).state ≠ .up ∧ (getSlink s p).state ≠ .handover) :
    nodeLoss n s = ((upFrom 0 6).filter (fun p => peerNode (loseNode n (memberLost n s)) p == n)).foldl (fun s p => bringUp p s)
      (loseNode n (memberLost n s)) := by
  have hports : (upFrom 0 6).all (fun p => peerNode s p ≠ n || !((getSlink s p).state == .up || (getSlink s p).state == .handover)) = true := by
    simp only [List.all_eq_true, mem_upFrom]
    intro p hlt
    by_cases hpeer : peerNode s p = n
    · simp [hp p (by omega) hpeer]
    · simp [hpeer]
  unfold nodeLoss
  exact if_pos ⟨hn, hm, hports⟩

/-- What NODE_LOSS leaves of swarm time and the members. -/
theorem nodeLoss_apartFromTraffic {n : Nat} {s : State} (hn : n ≠ s.swarm.node) (hm : bitOf s.swarm.members n = true)
    (hp : ∀ p, p < 6 → peerNode s p = n → (getSlink s p).state ≠ .up ∧ (getSlink s p).state ≠ .handover) :
    apartFromTraffic (nodeLoss n s) = apartFromTraffic (memberLost n s) := by
  rw [nodeLoss_lost hn hm hp, foldl_keeps apartFromTraffic (fun s p => apartFromTraffic_of_routes (bringUp_apartFromRoutes p s)),
    loseNode_apartFromTraffic]

/-- NODE_LOSS poisons every fence that a context of the member signalled. -/
theorem nodeLoss_poisons {n i : Nat} {s : State} (hn : n ≠ s.swarm.node) (hm : bitOf s.swarm.members n = true)
    (hp : ∀ p, p < 6 → peerNode s p = n → (getSlink s p).state ≠ .up ∧ (getSlink s p).state ≠ .handover)
    (hk : (getMot s i).kind = 2) (hs : bitOf (getMot s i).signalled n = true) : bitOf (fenceWord (nodeLoss n s) i) 63 = true := by
  have hup := foldl_keeps apartFromRoutes (fun s p => bringUp_apartFromRoutes p s)
    ((upFrom 0 6).filter (fun p => peerNode (loseNode n (memberLost n s)) p == n)) (loseNode n (memberLost n s))
  have hword : fenceWord (nodeLoss n s) i = fenceWord (loseNode n (memberLost n s)) i := by
    rw [nodeLoss_lost hn hm hp]
    exact (congrArg (fenceWord · i) hup :)
  rw [hword]
  exact loseNode_poisons (s := memberLost n s) hk hs

/-- Settles O37: a formation writes what `joined` says and what traffic and routes write, and NODE_LOSS what `memberLost` says. -/
theorem swarmFormation : Obligations.SwarmFormation := by
  intro s hnode forms
  have carried (i : Instr) (links : BitVec 6) (times : List W64)
      (hi : exec i s = .next { form links times s with free := (form links times s).free + 1 }) : forms i links := by
    have h := form_apartFromTraffic links times s
    have hmem : (form links times s).swarm.members = BitVec.ofNat 4 (ownSet s links 4 15) :=
      (congrArg (fun u : State => u.swarm.members) h :)
    have hco : (form links times s).swarm.coordinator = (nodesOf (ownSet s links 4 15)).headD s.swarm.node :=
      (congrArg (fun u : State => u.swarm.coordinator) h :)
    have hlocked : (form links times s).swarm.locked = (s.swarm.locked || (form links times s).swarm.coordinator == s.swarm.node) := by
      rw [hco]
      exact (congrArg (fun u : State => u.swarm.locked) h :)
    refine ⟨{ form links times s with free := (form links times s).free + 1 }, hi, hmem, ?_, hco, (congrArg (fun u : State => u.swarm.generation) h :),
      (congrArg (fun u : State => u.swarm.formed) h :), (congrArg (fun u : State => u.swarm.forming) h :),
      (congrArg (fun u : State => u.swarm.running) h :), (congrArg (fun u : State => u.swarm.node) h :), fun hformed => ?_, ?_,
      (congrArg State.power h :), fun hheld hstay => ?_⟩
    · show bitOf (form links times s).swarm.members s.swarm.node = true
      rw [hmem, bitOf_ofNat hnode, ownSet_own, decide_eq_true rfl]
    · have htime : (form links times s).swarm.time = formTime s _ _ times := (congrArg (fun u : State => u.swarm.time) h :)
      show _ ≤ (form links times s).swarm.time.toNat
      rw [htime]
      exact formTime_ge hformed _ _ _
    · show (form links times s).swarm.locked = true ↔ _
      rw [hlocked, Bool.or_eq_true, beq_iff_eq]
    · have hr := form_apartFromRoutes (links := links) (times := times) (leftOut_nil (hmem ▸ hstay)) hheld
      exact ⟨(congrArg State.mem hr :), (congrArg State.obj hr :), (congrArg State.cmp hr :)⟩
  refine ⟨fun links times hlen => ⟨fun hformed hwhy => ?_, fun waited hformed hstep hup => ?_, fun hformed hforming hmore => ?_⟩,
    fun n hlt hn hm hp => ?_, fun hlost => ?_⟩
  · refine carried _ links times ?_
    have hwhy' : (s.swarm.forming || leavesOut s links) = true := by simpa using hwhy
    show inRange (decide (times.length = 4)) (when (s.swarm.formed && (s.swarm.forming || leavesOut s links)) _ s) = _
    rw [hlen, hformed, hwhy']
    rfl
  · refine carried _ links times ?_
    have hup' : (waited || (upFrom 0 6).all (fun p => !expectedPort s p || (getSlink s p).state == .up)) = true := by
      rcases hup with hup | hup
      · simp [hup]
      · refine Bool.or_eq_true_iff.mpr (Or.inr (List.all_eq_true.mpr fun p hp => ?_))
        have hlt : p < 6 := by have := mem_upFrom.mp hp; omega
        cases hexp : expectedPort s p <;> simp [hup p hlt, hexp]
    show inRange (decide (times.length = 4)) (when (!s.swarm.formed && decide (3 ≤ s.boot.step.toNat)
      && (waited || (upFrom 0 6).all (fun p => !expectedPort s p || (getSlink s p).state == .up))) _ s) = _
    rw [hlen, hformed, hup', decide_eq_true hstep]
    rfl
  · refine carried _ links times ?_
    show inRange (decide (times.length = 4)) (when (s.swarm.formed && !s.swarm.forming
      && decide ((nodesOf s.swarm.members.toNat).length < (nodesOf (ownSet s links 4 15)).length)) _ s) = _
    rw [hlen, hformed, hforming, decide_eq_true hmore]
    rfl
  · have h := nodeLoss_apartFromTraffic hn hm hp
    refine ⟨{ nodeLoss n s with free := (nodeLoss n s).free + 1 }, ?_, (congrArg (fun u : State => u.swarm.members) h :),
      (congrArg (fun u : State => u.swarm.lost) h :), (congrArg (fun u : State => u.swarm.node) h :), (congrArg (fun u : State => u.swarm.time) h :),
      fun i hk hs => nodeLoss_poisons hn hm hp hk hs⟩
    show inRange (decide (n < 4)) (nodeLoss n s) = _
    rw [decide_eq_true hlt]
    rfl
  · show inRange true (nodeLossHoldDown s) = _
    rw [nodeLossHoldDown, if_neg hlost]
    rfl

end Sys2Proof.Machine
end

section
/-! Swarm time (R219, R220): TIME flits sent and received. -/

namespace Sys2Proof.Machine

/-! ### TIME_SEND -/

/-- The lowest port toward node `n` that is UP. -/
def timePort (s : State) (n : Nat) : Option Nat := (upFrom 0 6).find? (fun p => peerNode s p == n && (getSlink s p).state == .up)

/-- The TIME flit to node `n`, where a port toward it is UP. -/
def timeStep (s : State) (n : Nat) : State :=
  match timePort s n with
  | some p => sendFlit p (controlFlit 3 (toLE 8 s.swarm.time.toNat)) s
  | none => s

/-- The members but this node. -/
def otherMembers (s : State) : List Nat := (nodesOf s.swarm.members.toNat).filter (fun n => n ≠ s.swarm.node)

/-- The coordinator's TIME_SEND is one TIME flit to each other member. -/
theorem timeSend_coordinator {s : State} (hc : s.swarm.coordinator = s.swarm.node) (hr : s.swarm.running = true) :
    timeSend s = (otherMembers s).foldl timeStep s := by
  unfold timeSend
  rw [if_pos ⟨hc, hr⟩]
  rfl

/-- A flit taken by a port leaves the port's state. -/
@[simp] theorem offerFlit_state (x : SlinkPort) (f : LinkFlit) : (offerFlit x f).state = x.state := by
  unfold offerFlit; split <;> rfl

/-- A flit sent leaves every port's state. -/
theorem sendFlit_state (p q : Nat) (f : LinkFlit) (s : State) : (getSlink (sendFlit p f s) q).state = (getSlink s q).state := by
  by_cases h : q = p
  · subst h; simp [sendFlit]
  · rw [sendFlit, getSlink_setSlink_ne s p _ q h]

/-- A flit sent leaves what the ports face. -/
theorem sendFlit_peerNode (p q : Nat) (f : LinkFlit) (s : State) : peerNode (sendFlit p f s) q = peerNode s q := rfl

/-- A flit sent leaves the port that is chosen toward each node. -/
theorem timePort_sendFlit (p m : Nat) (f : LinkFlit) (s : State) : timePort (sendFlit p f s) m = timePort s m := by
  have h (q : Nat) : (peerNode (sendFlit p f s) q == m && (getSlink (sendFlit p f s) q).state == .up)
      = (peerNode s q == m && (getSlink s q).state == .up) := by rw [sendFlit_peerNode, sendFlit_state]
  unfold timePort
  simp only [h]

/-- A TIME flit changes the ports alone. -/
theorem timeStep_ports (s : State) (n : Nat) : ∃ x, timeStep s n = { s with swarm := { s.swarm with ports := x } } := by
  unfold timeStep
  split <;> exact ⟨_, rfl⟩

theorem timeStep_some {s : State} {n p : Nat} (h : timePort s n = some p) :
    timeStep s n = sendFlit p (controlFlit 3 (toLE 8 s.swarm.time.toNat)) s := by
  simp only [timeStep, h]

theorem timeStep_none {s : State} {n : Nat} (h : timePort s n = none) : timeStep s n = s := by
  simp only [timeStep, h]

/-- A TIME flit moves no port to which a later one goes. -/
theorem timePort_timeStep (s : State) (n m : Nat) : timePort (timeStep s n) m = timePort s m := by
  cases h : timePort s n with
  | none => rw [timeStep_none h]
  | some p => rw [timeStep_some h, timePort_sendFlit]

/-- The port toward a node faces the node. -/
theorem timePort_peer {s : State} {n p : Nat} (h : timePort s n = some p) : peerNode s p = n := by
  have hp := List.find?_some h
  simp only [Bool.and_eq_true, beq_iff_eq] at hp
  exact hp.1

/-- What the port toward node `n` holds after TIME flits to some nodes, `n` among them or not. -/
theorem getSlink_timeSteps {n p : Nat} (l : List Nat) (hl : l.Nodup) {s : State} (h : timePort s n = some p) :
    getSlink (l.foldl timeStep s) p = if n ∈ l then offerFlit (getSlink s p) (controlFlit 3 (toLE 8 s.swarm.time.toNat)) else getSlink s p := by
  induction l generalizing s with
  | nil => rfl
  | cons m l ih =>
    obtain ⟨hm, hl⟩ := List.nodup_cons.mp hl
    have htime : (timeStep s m).swarm.time = s.swarm.time := by
      obtain ⟨x, hx⟩ := timeStep_ports s m
      rw [hx]
    rw [List.foldl_cons, ih hl ((timePort_timeStep s m n).trans h), htime]
    by_cases hnm : n = m
    · subst hnm
      simp [hm, timeStep_some h, sendFlit]
    · have hother : getSlink (timeStep s m) p = getSlink s p := by
        cases hq : timePort s m with
        | none => rw [timeStep_none hq]
        | some q =>
          have hpq : p ≠ q := by
            rintro rfl
            exact hnm ((timePort_peer h).symm.trans (timePort_peer hq))
          rw [timeStep_some hq]
          exact getSlink_setSlink_ne s q _ p hpq
      simp [hnm, hother]

/-- A CONTROL flit goes out at once on a port with room for replay on which no CONTROL flit waits. -/
theorem offerFlit_control {x : SlinkPort} {c : Byte} {l : Bytes} (hr : x.replay.length < 64) (hq : x.queued.all (fun f => f.kind != 2) = true) :
    offerFlit x (controlFlit c l) = putOnWire x (controlFlit c l) := by
  have hnone : x.queued.any (fun g => g.kind == 2 && g.vn == 0) = false := by
    simp only [List.any_eq_false, List.all_eq_true] at hq ⊢
    intro g hg
    have hkind : (g.kind == 2) = false := beq_eq_false_iff_ne.mpr (bne_iff_ne.mp (hq g hg))
    rw [hkind, Bool.false_and]
    exact Bool.false_ne_true
  have hcan : canSend x (controlFlit c l) = true := by simp [canSend, flitCost, controlFlit, hr]
  unfold offerFlit
  exact if_pos ⟨hcan, by simpa [controlFlit] using hnone⟩

/-- The members but this node are distinct. -/
theorem otherMembers_nodup (s : State) : (otherMembers s).Nodup :=
  ((show (upFrom 0 4).Nodup by decide).filter _).filter _

/-- The coordinator's TIME_SEND changes the ports alone. -/
theorem timeSteps_ports (l : List Nat) (s : State) : ∃ x, l.foldl timeStep s = { s with swarm := { s.swarm with ports := x } } :=
  foldl_writes (put := fun s x => { s with swarm := { s.swarm with ports := x } }) timeStep_ports (fun _ _ _ => rfl) l ⟨s.swarm.ports, rfl⟩

/-! ### TIME_RECEIVE -/

/-- What a region port holds after STIME has been set on some of them. -/
theorem get_foldl_stime (v : W64) (l : List Nat) (t : Tbl Region) (k : Nat) :
    Tbl.get {} (l.foldl (fun t k => Tbl.modify {} t k (fun x => { x with stime := v })) t) k
      = if k ∈ l then { Tbl.get {} t k with stime := v } else Tbl.get {} t k := by
  induction l generalizing t with
  | nil => rfl
  | cons i l ih =>
    rw [List.foldl_cons, ih, Tbl.modify, Tbl.get_set]
    by_cases hk : k = i
    · subst hk; simp
    · simp [hk]

/-- The region ports hold STIME at the swarm time of the loss of lock (R242). -/
theorem getRegion_holdStime {s : State} {k : Nat} (h : k < 7) : getRegion (holdStime s) k = { getRegion s k with stime := s.swarm.time } := by
  have hin : k ∈ upFrom 0 7 := mem_upFrom.mpr ⟨Nat.zero_le k, by omega⟩
  unfold getRegion holdStime
  rw [get_foldl_stime, if_pos hin]

/-- The offset that a TIME flit with time `sent` shows on port `p`. -/
def timeOffset (s : State) (p : Nat) (sent : W64) : Int := (sent + (getSlink s p).delayNs.zeroExtend 64 - s.swarm.time).toInt

/-- Whether an offset lies within ±2 ns (R219). -/
def offsetNear (off : Int) : Bool := decide (-2 ≤ off ∧ off ≤ 2)

/-- Whether a TIME flit of this offset takes the lock: the eighth in a row beyond ±2 ns (R220). -/
def lockLost (w : Swarm) (off : Int) : Bool := w.locked && decide (8 ≤ if offsetNear off then 0 else w.outOfRange + 1)

/-- Whether a TIME flit of this offset brings the lock: the eighth in a row within ±2 ns (R220). -/
def lockGained (w : Swarm) (off : Int) : Bool := !w.locked && decide (8 ≤ if offsetNear off then w.inRange + 1 else 0)

/-- Swarm time's registers after a TIME flit of this offset, with a trim of `amount` ppm towards it (R219, R220). -/
def timeTaken (w : Swarm) (off amount : Int) : Swarm :=
  let i := if offsetNear off then w.inRange + 1 else 0
  let o := if offsetNear off then 0 else w.outOfRange + 1
  { w with
    offset := BitVec.ofInt 16 (max (-32767) (min 32767 off)), inRange := min i 8, outOfRange := min o 8,
    locked := if lockLost w off then false else w.locked || decide (8 ≤ i),
    alarms := if lockLost w off then satAdd w.alarms 1 else w.alarms, alarmsOvf := w.alarmsOvf || (lockLost w off && satLost w.alarms 1),
    trim := if off < 0 then -amount else if 0 < off then amount else 0 }

/-- The amount of the next trim: at most 200 ppm (R219), a free value. -/
def trimAmount (s : State) : Int := ((freeW s 1).toNat % 201 : Nat)

/-- A TIME flit taken, before the signals that the lock holds back go on. -/
def timeNoted (s : State) (off : Int) : State :=
  { when (lockLost s.swarm off) holdStime s with swarm := timeTaken s.swarm off (trimAmount s) }

/-- TIME_RECEIVE on an UP port toward the coordinator. -/
theorem timeReceive_taken {p : Nat} {sent : W64} {s : State} (hup : (getSlink s p).state = .up) (hc : s.swarm.coordinator ≠ s.swarm.node)
    (hp : peerNode s p = s.swarm.coordinator) : timeReceive p sent s =
      when (lockGained s.swarm (timeOffset s p sent)) releaseHeld (timeNoted s (timeOffset s p sent)) := by
  unfold timeReceive
  exact if_pos ⟨hup, hc, hp⟩

/-- The signals that the lock lets go leave what `apartFromTraffic` keeps. -/
theorem timeReceive_apartFromTraffic {p : Nat} {sent : W64} {s : State} (hup : (getSlink s p).state = .up)
    (hc : s.swarm.coordinator ≠ s.swarm.node) (hp : peerNode s p = s.swarm.coordinator) :
    apartFromTraffic (timeReceive p sent s) = apartFromTraffic (timeNoted s (timeOffset s p sent)) := by
  rw [timeReceive_taken hup hc hp, when]
  split
  · exact releaseHeld_apartFromTraffic _
  · rfl

/-- With no signal held, a TIME flit writes swarm time's registers and the region ports' STIME alone. -/
theorem timeReceive_none {p : Nat} {sent : W64} {s : State} (hup : (getSlink s p).state = .up)
    (hc : s.swarm.coordinator ≠ s.swarm.node) (hp : peerNode s p = s.swarm.coordinator) (hheld : s.net.held = []) :
    timeReceive p sent s = timeNoted s (timeOffset s p sent) := by
  have hnone : (timeNoted s (timeOffset s p sent)).net.held = [] := by
    unfold timeNoted when
    split <;> exact hheld
  rw [timeReceive_taken hup hc hp, when]
  split
  · exact releaseHeld_none hnone
  · rfl

/-- A TIME flit that takes no lock leaves the regions. -/
theorem timeNoted_frame {s : State} {off : Int} (h : lockLost s.swarm off = false) : (timeNoted s off).frame = s.frame := by
  simp [timeNoted, when, h]

/-- The registers after an offset within ±2 ns. -/
theorem timeTaken_near {w : Swarm} {off amount : Int} (h : offsetNear off = true) :
    (timeTaken w off amount).inRange = min (w.inRange + 1) 8 ∧ (timeTaken w off amount).outOfRange = 0
      ∧ (timeTaken w off amount).locked = (w.locked || decide (7 ≤ w.inRange)) ∧ (timeTaken w off amount).alarms = w.alarms := by
  have hlost : lockLost w off = false := by simp [lockLost, h]
  simp [timeTaken, h, hlost]

/-- The registers after an offset beyond ±2 ns. -/
theorem timeTaken_far {w : Swarm} {off amount : Int} (h : offsetNear off = false) :
    (timeTaken w off amount).inRange = 0 ∧ (timeTaken w off amount).outOfRange = min (w.outOfRange + 1) 8
      ∧ (timeTaken w off amount).locked = (w.locked && decide (w.outOfRange < 7))
      ∧ (timeTaken w off amount).alarms = if w.locked ∧ 7 ≤ w.outOfRange then satAdd w.alarms 1 else w.alarms := by
  have hlost : lockLost w off = (w.locked && decide (7 ≤ w.outOfRange)) := by simp [lockLost, h]
  refine ⟨by simp [timeTaken, h], by simp [timeTaken, h], ?_, by simp [timeTaken, hlost]⟩
  by_cases ho : 7 ≤ w.outOfRange <;> cases hl : w.locked <;> simp [timeTaken, h, hlost, hl, ho, Nat.not_le.mp]

/-- The trim is at most 200 ppm and goes toward the offset (R219). -/
theorem timeTaken_trim {w : Swarm} {off x : Int} {s : State} (hx : x = (timeTaken w off (trimAmount s)).trim) :
    -200 ≤ x ∧ x ≤ 200 ∧ (off < 0 → x ≤ 0) ∧ (0 < off → 0 ≤ x) ∧ (off = 0 → x = 0) := by
  have hlow : 0 ≤ trimAmount s := Int.natCast_nonneg _
  have hhigh : trimAmount s ≤ 200 := by unfold trimAmount; omega
  replace hx : x = if off < 0 then -trimAmount s else if 0 < off then trimAmount s else 0 := hx
  split_ifs at hx <;> omega

/-- The lock is lost where it was held and no longer is. -/
theorem lockLost_iff {w : Swarm} {off amount : Int} : lockLost w off = true ↔ w.locked = true ∧ (timeTaken w off amount).locked = false := by
  cases h : lockLost w off
  · cases hl : w.locked <;> simp [timeTaken, h, hl]
  · have hl : w.locked = true := (Bool.and_eq_true_iff.mp h).1
    simp [timeTaken, h, hl]

/-- The loss of lock writes the regions alone. -/
theorem when_holdStime_eq (c : Bool) (s : State) : when c holdStime s = { s with frame := (when c holdStime s).frame } := by
  cases c
  · rfl
  · simp only [when, if_true]
    unfold holdStime
    dsimp only

/-- Swarm time's registers written where the regions alone have changed. -/
theorem with_swarm_eq {s u : State} (h : u = { s with frame := u.frame }) (w : Swarm) :
    { u with swarm := w } = { s with frame := u.frame, swarm := w } := by
  rw [h]

/-- A TIME flit writes swarm time's registers and the regions alone. -/
theorem timeNoted_eq (s : State) (off : Int) :
    timeNoted s off = { s with frame := (timeNoted s off).frame, swarm := timeTaken s.swarm off (trimAmount s) } :=
  with_swarm_eq (when_holdStime_eq (lockLost s.swarm off) s) _

/-- Settles O38: TIME_SEND is one flit to each other member, and TIME_RECEIVE writes what `timeTaken` says. -/
theorem swarmTime : Obligations.SwarmTime := by
  refine ⟨fun s hnode => ⟨fun hc hr => ?_, fun h => ?_⟩, fun p sent s hlt hup hc hp => ?_⟩
  · obtain ⟨x, hx⟩ := timeSteps_ports (otherMembers s) s
    refine ⟨{ timeSend s with free := s.free + 1 }, ?_, ?_, fun n q hn hne hbit hport hreplay hqueue => ?_⟩
    · show inRange true (timeSend s) = _
      rw [timeSend_coordinator hc hr, hx]
      rfl
    · rw [timeSend_coordinator hc hr, hx]
    · have hin : n ∈ otherMembers s := by
        rw [bitOf_eq_decide, decide_eq_true_eq] at hbit
        exact List.mem_filter.mpr ⟨mem_nodesOf.mpr ⟨hn, hbit⟩, decide_eq_true hne⟩
      have hslink : getSlink (timeSend s) q = putOnWire (getSlink s q) (controlFlit 3 (toLE 8 s.swarm.time.toNat)) := by
        rw [timeSend_coordinator hc hr, getSlink_timeSteps _ (otherMembers_nodup s) hport, if_pos hin, offerFlit_control hreplay hqueue]
      exact ⟨congrArg SlinkPort.replay hslink, congrArg SlinkPort.txSeq hslink⟩
  · show inRange true (timeSend s) = _
    have hno : ¬ (s.swarm.coordinator = s.swarm.node ∧ s.swarm.running = true) := by
      rintro ⟨hc, hr⟩
      rcases h with h | h
      · exact h hc
      · rw [hr] at h
        cases h
    rw [timeSend, if_neg hno]
    rfl
  · intro w off
    have h := timeReceive_apartFromTraffic (sent := sent) hup hc hp
    have hw : ({ (timeReceive p sent s).swarm with ports := [] } : Swarm) = { timeTaken w off (trimAmount s) with ports := [] } :=
      (congrArg State.swarm h :)
    have hframe : (timeReceive p sent s).frame = (timeNoted s off).frame := (congrArg State.frame h :)
    refine ⟨{ timeReceive p sent s with free := (timeReceive p sent s).free + 1 }, ?_, ?_, ?_, ?_, ?_, ?_, ?_, ?_, ?_⟩
    · show inRange (decide (p < 6)) (timeReceive p sent s) = _
      rw [decide_eq_true hlt]
      rfl
    · exact (congrArg Swarm.time hw :)
    · exact (congrArg Swarm.offset hw :)
    · intro hnear
      obtain ⟨hi, ho, hl, ha⟩ := timeTaken_near (w := w) (amount := trimAmount s) (decide_eq_true hnear)
      exact ⟨(congrArg Swarm.inRange hw :).trans hi, (congrArg Swarm.outOfRange hw :).trans ho, (congrArg Swarm.locked hw :).trans hl,
        (congrArg Swarm.alarms hw :).trans ha⟩
    · intro hfar
      obtain ⟨hi, ho, hl, ha⟩ := timeTaken_far (w := w) (amount := trimAmount s) (off := off) (decide_eq_false (by omega))
      exact ⟨(congrArg Swarm.inRange hw :).trans hi, (congrArg Swarm.outOfRange hw :).trans ho, (congrArg Swarm.locked hw :).trans hl,
        (congrArg Swarm.alarms hw :).trans ha⟩
    · exact timeTaken_trim (w := w) (off := off) (congrArg Swarm.trim hw :)
    · intro hlocked hleft k hk
      have hlost : lockLost w off = true := (lockLost_iff (amount := trimAmount s)).mpr ⟨hlocked, (congrArg Swarm.locked hw :).symm.trans hleft⟩
      have hregions : (timeReceive p sent s).frame = (holdStime s).frame :=
        hframe.trans (by simp only [timeNoted, when, show lockLost s.swarm off = true from hlost, if_true])
      rw [← getRegion_holdStime hk]
      exact congrArg (fun f : Frame => Tbl.get {} f.regions k) hregions
    · intro hheld
      have hall := timeReceive_none (sent := sent) hup hc hp hheld
      rw [hall, timeNoted_eq]
      rfl
    · intro hkeep
      have hlost : lockLost w off = false := Bool.eq_false_iff.mpr fun hlost => by
        obtain ⟨hlocked, hleft⟩ := (lockLost_iff (amount := trimAmount s)).mp hlost
        rcases hkeep with hkeep | hkeep
        · cases hlocked.symm.trans hkeep
        · cases hkeep.symm.trans ((congrArg Swarm.locked hw :).trans hleft)
      exact hframe.trans (timeNoted_frame hlost)

end Sys2Proof.Machine
end

section
/-! Package reset, and what the bound source and any other source write to a mailbox (R32-R38, R46-R48). -/

namespace Sys2Proof.Machine

/-! ### Package reset -/

/-- A table listing keys 0 to `n - 1` by a function holds that function there, and the default beyond. -/
theorem Tbl.get_map_range {α : Type} (d : α) (f : Nat → α) (n k : Nat) :
    Tbl.get d ((List.range n).map (fun i => (i, f i))) k = if k < n then f k else d := by
  have append_get (t u : Tbl α) (h : ∀ e ∈ t, e.1 ≠ k) : Tbl.get d (t ++ u) k = Tbl.get d u k := by
    induction t with
    | nil => rfl
    | cons e t ih =>
      obtain ⟨he, ht⟩ := List.forall_mem_cons.mp h
      simp [Tbl.get, he, ih ht]
  have get_append (t u : Tbl α) (h : ∀ e ∈ u, e.1 ≠ k) : Tbl.get d (t ++ u) k = Tbl.get d t k := by
    induction t with
    | nil => simpa [Tbl.get] using append_get u [] h
    | cons e t ih => simp [Tbl.get, ih]
  induction n with
  | zero => simp
  | succ n ih =>
    rw [List.range_succ, List.map_append]
    by_cases hk : k = n
    · subst hk
      rw [append_get _ _ (by simp; omega)]
      simp [Tbl.get]
    · rw [get_append _ _ (by simp; omega), ih]
      have : k < n + 1 ↔ k < n := by omega
      simp [this]

/-- The domains at package reset: those of the Comb and Frame dies by `resetDomain`, those of the Hive at their defaults. -/
theorem getDom_reset (d : Nat) : getDom State.reset d = if d < 56 then resetDomain d else {} := by
  simp only [getDom, State.reset, Tbl.get_map_range]

/-- Mailboxes 2-31 at package reset are as unbound ones. -/
theorem getMbx_reset {m : Nat} (h : 2 ≤ m) : getMbx State.reset m = {} := by
  have h0 : ¬ 0 = m := by omega
  have h1 : ¬ 1 = m := by omega
  simp [getMbx, State.reset, resetMailboxes, Tbl.get, h0, h1]

/-- Settles O2: the two bound mailboxes and the domains stand in their tables, and every other table is empty. -/
theorem resetValues : Obligations.ResetValues := by
  refine ⟨rfl, rfl, rfl, rfl, rfl, fun m => getMbx_reset, fun d hd => ?_, fun d hd => ?_, fun d => ?_, rfl, rfl, rfl,
    fun _ => rfl, fun _ => ⟨rfl, rfl⟩, fun _ => rfl, fun _ => rfl, fun _ _ => rfl, rfl⟩
  · rw [getDom_reset, if_pos hd]
    rfl
  · rw [getDom_reset, if_neg (Nat.not_lt.mpr hd)]
  · rw [getDom_reset]
    split
    · simp [resetDomain, or_assoc]
    · simp
      omega

/-! ### What an event writes -/

/-- An event arriving at a queue moves the queue and its counters alone. -/
theorem arrive_queue (x : Mbx) (e : Event) :
    ∃ l n o d, arrive x e = { x with events := l, evtLost := n, evtLostOvf := o, dropped := d } := by
  have room : ∃ l n o d, makeRoom x = { x with events := l, evtLost := n, evtLostOvf := o, dropped := d } := by
    unfold makeRoom
    split
    · exact ⟨_, _, _, _, rfl⟩
    · split <;> exact ⟨_, _, _, _, rfl⟩
  obtain ⟨l, n, o, d, hr⟩ := room
  unfold arrive
  rw [hr]
  dsimp only
  split
  · exact ⟨_, _, _, _, rfl⟩
  · split <;> exact ⟨_, _, _, _, rfl⟩

/-- An event arriving at a bound mailbox whose queue has a place stands last in it. -/
theorem arrive_room {x : Mbx} (hb : x.bound.isSome = true) (h : x.events.length + x.accepted.length < 32) (e : Event) :
    arrive x e = { x with events := x.events ++ [e] } := by
  have hn : x.bound ≠ none := Option.isSome_iff_ne_none.mp hb
  simp [arrive, makeRoom, h, hn]

/-- An event to mailbox 0 under its mask writes mailbox 0 alone. -/
theorem getMbx_sendOwner (c : W16) (p : Bytes) (s : State) (k : Nat) :
    getMbx (sendOwner c p s) k
      = if k = 0 ∧ bitOf (getMbx s 0).mask (c.toNat % 256) = true then arrive (getMbx s 0) ⟨c, p⟩ else getMbx s k := by
  unfold sendOwner
  split
  next h =>
    by_cases hk : k = 0
    · simp [hk, h, sendTo]
    · simp [hk, sendTo, getMbx_setMbx_ne _ _ _ _ hk]
  next h => simp [h]

/-- An event to mailbox 0 changes nothing outside the mailboxes. -/
theorem sendOwner_mbx (c : W16) (p : Bytes) (s : State) :
    sendOwner c p s = { s with keeper := { s.keeper with mbx := (sendOwner c p s).keeper.mbx } } := by
  unfold sendOwner
  split <;> rfl

/-- An event to mailbox 0 moves the queue and its counters alone of any mailbox. -/
theorem getMbx_sendOwner_queue (c : W16) (p : Bytes) (s : State) (k : Nat) :
    ∃ l n o d, getMbx (sendOwner c p s) k = { getMbx s k with events := l, evtLost := n, evtLostOvf := o, dropped := d } := by
  rw [getMbx_sendOwner]
  split
  next h =>
    obtain ⟨rfl, -⟩ := h
    exact arrive_queue _ _
  next => exact ⟨_, _, _, _, rfl⟩

/-! ### Writes of the bound source (R35-R38) -/

/-- A mailbox that was not frozen is, and mailbox 0 is told. -/
theorem freeze_running {m : Nat} {s : State} (h : (getMbx s m).ringFault = false) :
    freeze m s = sendOwner 0xE00B [BitVec.ofNat 8 m] (setMbx s m { getMbx s m with ringFault := true }) := by
  simp [freeze, h]

/-- A frozen mailbox is frozen after the report. -/
theorem ringFault_sendOwner (c : W16) (p : Bytes) (s : State) (m : Nat) :
    (getMbx (sendOwner c p s) m).ringFault = (getMbx s m).ringFault := by
  obtain ⟨l, n, o, d, h⟩ := getMbx_sendOwner_queue c p s m
  rw [h]

/-- A write that freezes mailbox `m`, once the new index `x` stands in its register. -/
theorem frozen_next {i : Instr} {m : Nat} {x : Mbx} {s h : State} (hx : x.ringFault = false)
    (hi : exec i s = inRange true (freeze m (setMbx h m x))) :
    ∃ t, exec i s = .next t ∧ (getMbx t m).ringFault = true
      ∧ t = { sendOwner 0xE00B [BitVec.ofNat 8 m] (setMbx (setMbx h m x) m { x with ringFault := true }) with free := t.free } := by
  rw [freeze_running (by simpa using hx), getMbx_setMbx] at hi
  refine ⟨_, hi, ?_, rfl⟩
  exact (ringFault_sendOwner _ _ _ m).trans (by simp)

/-- Settles O7: each register's own write, of the bound source. -/
theorem mailboxRegisterWrites : Obligations.MailboxRegisterWrites := by
  intro src m v s hm hb x heard tail
  have hx : getMbx heard m = x := rfl
  have write (off : Nat) (f : State → State) : inRange (decide (m < 32)) (mbxWrite src m off f s) = inRange true (f heard) := by
    simp [mbxWrite, hb, hm, heard]
  refine ⟨⟨fun h => ?_, fun h hf => ?_⟩, ⟨fun h => ?_, fun h hf => ?_⟩, fun hv => ?_, fun hv => ?_⟩
  · have hw : writeReqTail m v heard = setMbx heard m { x with reqTail := tail, clash := clashes heard m tail } := by
      simp only [writeReqTail, hx, tail, h, if_true, Nat.not_lt.mpr h, if_false]
    exact (write 0 _).trans (by rw [hw]; rfl)
  · have hw : writeReqTail m v heard = freeze m (setMbx heard m { x with reqTail := tail }) := by
      simp only [writeReqTail, hx, tail, h, if_true, Nat.not_le.mpr h, if_false]
    exact frozen_next (x := { x with reqTail := tail }) hf ((write 0 _).trans (by rw [hw]))
  · have hw : writeRspHead m v heard = setMbx heard m { x with rspHead := tail } := by
      simp only [writeRspHead, hx, tail, Nat.not_lt.mpr h, if_false]
    exact (write 0xC _).trans (by rw [hw]; rfl)
  · have hw : writeRspHead m v heard = freeze m (setMbx heard m { x with rspHead := tail }) := by
      simp only [writeRspHead, hx, tail, h, if_true]
    exact frozen_next (x := { x with rspHead := tail }) hf ((write 0xC _).trans (by rw [hw]))
  · have hv' : bitOf v 0 = true := hv
    refine ⟨_, write 0x14 _, ?_⟩
    simp only [writeMbxCtrl, hv', if_true, hx]
    simp [getMbx, setMbx, heard, x]
  · have hfield : field v 4 0 = m := by simpa [field] using hv
    show inRange true (mbxDoorbell src v s) = _
    simp [mbxDoorbell, hfield, hb, heard, x]

end Sys2Proof.Machine
end

section
/-! Writes to a mailbox from a source that it is not bound to (R33), and CMD_DONE over blocks that stand in no canonical form. -/

namespace Sys2Proof.Machine

/-! ### A foreign write, counted and reported (R33) -/

@[simp] theorem getMbx_answer (c : W16) (b : Bytes) (s : State) (m : Nat) : getMbx (answer c b s) m = getMbx s m := rfl

theorem setMbx_answer (c : W16) (b : Bytes) (s : State) (m : Nat) (x : Mbx) :
    setMbx (answer c b s) m x = answer c b (setMbx s m x) := rfl

/-- An event to mailbox 0 leaves the answer of an access. -/
theorem sendOwner_answer (e : W16) (p : Bytes) (c : W16) (b : Bytes) (s : State) :
    sendOwner e p (answer c b s) = answer c b (sendOwner e p s) :=
  (apply_ite (answer c b) _ (sendTo 0 e p s) s).symm

/-- The counting of a foreign write leaves the answer of the access. -/
theorem foreignCount_answer (src : W32) (m a : Nat) (c : W16) (b : Bytes) (s : State) :
    foreignCount src m a (answer c b s) = answer c b (foreignCount src m a s) := by
  simp only [foreignCount, getMbx_answer, setMbx_answer, sendOwner_answer]

/-- The counting of a foreign write changes nothing outside the mailboxes. -/
theorem foreignCount_mbx (src : W32) (m a : Nat) (s : State) :
    foreignCount src m a s = { s with keeper := { s.keeper with mbx := (foreignCount src m a s).keeper.mbx } } := by
  unfold foreignCount
  rw [sendOwner_mbx]
  rfl

/-- Another mailbox than 0 and the one written to is left by a foreign write. -/
theorem getMbx_foreignCount_ne (src : W32) (m a : Nat) (s : State) {k : Nat} (hm : k ≠ m) (h0 : k ≠ 0) :
    getMbx (foreignCount src m a s) k = getMbx s k := by
  rw [foreignCount, getMbx_sendOwner, if_neg (fun h => h0 h.1), getMbx_setMbx_ne _ _ _ _ hm]

/-- The mailbox written to counts the write; but for that and its queue of events it is as before. -/
theorem getMbx_foreignCount (src : W32) (m a : Nat) (s : State) :
    ∃ l n o d f, getMbx (foreignCount src m a s) m = { getMbx s m with
      foreignWrites := satAdd (getMbx s m).foreignWrites 1, foreignOvf := f, events := l, evtLost := n, evtLostOvf := o, dropped := d } := by
  obtain ⟨l, n, o, d, h⟩ := getMbx_sendOwner_queue 0xE00C (toLE 4 src.toNat ++ toLE 8 a)
    (setMbx s m { getMbx s m with foreignWrites := satAdd (getMbx s m).foreignWrites 1,
                                  foreignOvf := (getMbx s m).foreignOvf || satLost (getMbx s m).foreignWrites 1 }) m
  exact ⟨l, n, o, d, _, by rw [foreignCount, h, getMbx_setMbx]⟩

/-- LOCK_VIOLATION goes to mailbox 0 where its mask has the bit and its queue a place. -/
theorem events_foreignCount (src : W32) (m a : Nat) (s : State) (hb : (getMbx s 0).bound.isSome = true)
    (hl : (getMbx s 0).events.length + (getMbx s 0).accepted.length < 32) (hk : (getMbx s 0).mask.getLsbD 12 = true) :
    (getMbx (foreignCount src m a s) 0).events = (getMbx s 0).events ++ [⟨0xE00C, toLE 4 src.toNat ++ toLE 8 a⟩] := by
  have reported (t : State) (htb : (getMbx t 0).bound = (getMbx s 0).bound) (htk : (getMbx t 0).mask = (getMbx s 0).mask)
      (hte : (getMbx t 0).events = (getMbx s 0).events) (hta : (getMbx t 0).accepted = (getMbx s 0).accepted) :
      (getMbx (sendOwner 0xE00C (toLE 4 src.toNat ++ toLE 8 a) t) 0).events
        = (getMbx s 0).events ++ [⟨0xE00C, toLE 4 src.toNat ++ toLE 8 a⟩] := by
    have hbit : bitOf (getMbx t 0).mask ((0xE00C : W16).toNat % 256) = true := by rw [htk]; exact hk
    rw [getMbx_sendOwner, if_pos ⟨rfl, hbit⟩, arrive_room (by rw [htb]; exact hb) (by rw [hte, hta]; exact hl), hte]
  unfold foreignCount
  by_cases hm : m = 0
  · subst hm
    apply reported <;> simp
  · apply reported <;> simp [getMbx_setMbx_ne _ _ _ _ (Ne.symm hm)]

/-- A saturating counter of 8 bits counted once. -/
theorem satAdd_byte_one (x : Byte) : satAdd x 1 = if x = 255 then 255 else x + 1 := by
  have : ∀ x : Byte, satAdd x 1 = if x = 255 then 255 else x + 1 := by decide
  exact this x

/-! ### The ways by which a foreign write arrives -/

/-- A mailbox register's write from a source that it is not bound to. -/
theorem mbxWrite_foreign {src : W32} {m off : Nat} {f : State → State} {s : State} (h : (getMbx s m).bound ≠ some src) :
    mbxWrite src m off f s = answer 0x4001 [] (foreignCount src m (here s 5 (mbxReg m off)) s) := by
  rw [mbxWrite, if_neg h, foreignWrite, foreignCount_answer]

/-- A direct register write to a mailbox from a source that it is not bound to. -/
theorem directRegisterWrite_foreign {src : W32} {addr : BitVec 48} {v : W32} {q : RegPlace} {s : State} (hs : stampsId s src = true)
    (hr : registerReach s src addr.toNat = 0) (hn : addrNode addr.toNat = s.swarm.node) (ha : addr.toNat % 4 = 0)
    (hq : placeAt addr.toNat = some q) (hb : q.blk = .mbx) (h : (getMbx s q.inst).bound ≠ some src) :
    exec (.directRegisterWrite src addr v) s
      = inRange true (asSeen src (answer 0x4001 [] (foreignCount src q.inst (here s 5 (mbxReg q.inst (4 * q.word))) s))) := by
  have hview : inView src addr.toNat = true := by simp [inView, hq, barBlock, hb]
  show inRange true _ = _
  simp [whenStamped, when, hs, hview, registerWrite, hr, hn, hq, hb, ha, directPut, mbxWrite_foreign h]

/-- A host write to the rings of a mailbox from a source that it is not bound to. -/
theorem hostAccess_foreign {src : W32} {addr : BitVec 48} {n m : Nat} {data : Bytes} {s : State} (hs : stampsId s src = true)
    (hv : inView src addr.toNat = true) (hc : collWindow s addr.toNat = none)
    (hg : rangeOf s (addrDie addr.toNat) (addrLoc addr.toNat) ≠ .regs) (hr : reachCheck s (.src src) addr.toNat data.length = 0)
    (ho : ringOf s addr.toNat = some m) (hms : ringsOf s addr.toNat data.length = [m]) (h : (getMbx s m).bound ≠ some src) :
    exec (.hostAccess src true addr n data) s = inRange true (asSeen src (answer 0x4001 [] (foreignCount src m addr.toNat s))) := by
  show inRange true _ = _
  simp [whenStamped, when, hs, hv, hostAccess, hc, hg, hr, ho, ringAccess, h, hms]

/-- Settles O8: each way ends in the counting of the write, with an answer 0x4001. -/
theorem foreignMailboxWrites : Obligations.ForeignMailboxWrites := by
  intro src m v s hm hb i a hi
  have plain {x : State} (hx : exec i s = inRange true (answer 0x4001 [] x)) :
      ∃ r : HostRsp, r.status = 0x4001 ∧ exec i s = inRange true { x with keeper := { x.keeper with rsp := r } } := ⟨_, rfl, hx⟩
  have seen {x : State} (hx : exec i s = inRange true (asSeen src (answer 0x4001 [] x))) :
      ∃ r : HostRsp, r.status = 0x4001 ∧ exec i s = inRange true { x with keeper := { x.keeper with rsp := r } } := ⟨_, rfl, hx⟩
  have inMbx (off : Nat) (f : State → State) : inRange (decide (m < 32)) (mbxWrite src m off f s)
      = inRange true (answer 0x4001 [] (foreignCount src m (here s 5 (mbxReg m off)) s)) := by
    rw [mbxWrite_foreign hb, decide_eq_true hm]
  obtain ⟨r, hr, he⟩ : ∃ r : HostRsp, r.status = 0x4001 ∧ exec i s
      = inRange true { foreignCount src m a s with keeper := { (foreignCount src m a s).keeper with rsp := r } } := by
    rcases hi with ⟨rfl, rfl⟩ | ⟨rfl, rfl⟩ | ⟨rfl, rfl⟩ | ⟨rfl, hv, rfl⟩ | ⟨addr, q, rfl, hs, hr, hn, ha, hq, hblk, rfl, rfl⟩
      | ⟨addr, n, data, rfl, hs, hview, hc, hg, hr, ho, hms, rfl⟩
    · exact plain (inMbx 0 _)
    · exact plain (inMbx 0xC _)
    · exact plain (inMbx 0x14 _)
    · have hf : field v 4 0 = m := by simpa [field] using hv
      exact plain (show inRange true (mbxDoorbell src v s) = _ by
        simp only [mbxDoorbell, hf, hb, if_false, foreignWrite, foreignCount_answer])
    · exact seen (directRegisterWrite_foreign hs hr hn ha hq hblk hb)
    · exact seen (hostAccess_foreign hs hview hc hg hr ho hms hb)
  obtain ⟨l, n, o, d, f, hx⟩ := getMbx_foreignCount src m a s
  refine ⟨_, he, hr, ?_⟩
  generalize ht : foreignCount src m a s = t at hx
  have hsame (k : Nat) : getMbx { t with keeper := { t.keeper with rsp := r }, free := t.free + 1 } k = getMbx t k := rfl
  simp only [hsame, hx, satAdd_byte_one, true_and]
  refine ⟨fun k hkm hk0 => ?_, ?_, fun hb0 hl hk => ?_⟩
  · rw [← ht, getMbx_foreignCount_ne src m a s hkm hk0]
  · rw [← ht, foreignCount_mbx]
  · rw [← ht]
    exact events_foreignCount src m a s hb0 hl hk

/-! ### CMD_DONE -/

/-- A command of mailbox 0 that has completed, and a table of blocks that lists block 5 twice, first as its default. -/
def blockListedTwice : State :=
  { keeper := { mbx := [(0, { accepted := [{ opcode := 1, tag := 0, result := some { status := 0, time := 0, extra := [] } }] })],
                blocks := [(5, {}), (5, { gen := 7 })] } }

/-- Refutes O9: the release of committed blocks drops entries that are at their defaults, so that in a table of blocks in no canonical
form a later entry of the same block comes to count, though no COMMIT was reported. -/
theorem not_eventsAndCompletions : ¬ Obligations.EventsAndCompletions := by
  intro h
  obtain ⟨-, hdone⟩ := h 0 blockListedTwice (by decide) (by decide)
  obtain ⟨t, ht, -, hblock, -⟩ := hdone 1 0 { status := 0, time := 0, extra := [] } [] [] rfl (by simp)
  obtain rfl : { cmdDone 0 0 blockListedTwice with free := 1 } = t := Host.Outcome.next.inj ht
  exact absurd (hblock 5) (by decide)

end Sys2Proof.Machine
end

section
/-! Requests that fail a check of R44, and the discovery commands (R53). -/

namespace Sys2Proof.Machine

/-! ### Answers -/

/-- A response of a mailbox of this node is the answer to the request at its head. -/
theorem answersWith_respond {i : Instr} {m : Nat} {s u : State} {c : W16} {p : Bytes} (hm : m < 32) (hn : s.swarm.node < 4)
    (hu : u.swarm.node = s.swarm.node)
    (hi : exec i s = inRange true (respond m (reqOf s m).opcode (byteAt (reqBytes s m) 2) (reqOf s m).tag c p u)) : answersWith i m s c p u := by
  have hu4 : u.swarm.node < 4 := hu ▸ hn
  obtain ⟨hmsg, hmbx⟩ := putMsg_spec m (reqOf s m).opcode ((byteAt (reqBytes s m) 2 &&& 0xFC) ||| 1) (reqOf s m).tag c p u hu4 hm
  obtain ⟨hkeeper, hothers, hmem⟩ := putMsg_frame m (reqOf s m).opcode ((byteAt (reqBytes s m) 2 &&& 0xFC) ||| 1) (reqOf s m).tag c p u
  have hrest := putMsg_rest m (reqOf s m).opcode ((byteAt (reqBytes s m) 2 &&& 0xFC) ||| 1) (reqOf s m).tag c p u
  refine ⟨_, hi, ?_, ?_, hkeeper, hmbx, hothers, fun a h1 h2 => ?_⟩
  · exact (lastMessage_free _ (by simpa [respond] using hu4) m _ hm).trans hmsg
  · simp [respond]
  · rw [← hmem a h1]
    simp only [memByte, fenceIndex, respond, hrest, h2, if_true, fenceWord]

/-- A request that the Keeper takes up, and its mailbox and node. -/
theorem requestWaits_iff {m : Nat} {s : State} : requestWaits m s = true
    ↔ serving s = true ∧ (m < 32 ∧ s.swarm.node < 4) ∧ takeable (getMbx s m) = true ∧ nextServed s = some m := by
  simp [requestWaits, and_assoc]

/-- A request asked is one that the Keeper takes up, of that opcode, that passes the checks of R44. -/
theorem asked_iff {op m : Nat} {s : State} : asked op m s = true
    ↔ requestWaits m s = true ∧ leNat (reqBytes s m) 0 2 = op ∧ preCheck s m (reqBytes s m) = 0
      ∧ (((card op).map Card.holes).getD []).all (fun i => byteAt (reqOf s m).p i == 0) = true := by
  simp [asked, and_assoc]

/-- A request asked of a long-running command has room among the accepted ones of its mailbox. -/
theorem askedLong_iff {op m : Nat} {s : State} : askedLong op m s = true ↔ asked op m s = true ∧ pendingFull (taken s m) m = false := by
  simp [askedLong]

/-- A request of the row's opcode, or of none of the catalogue, that fails a check of R44 up to the role is answered with its code. -/
theorem takeUp_rejected {op m : Nat} {act : Req → State → Ans} {s : State} (hw : requestWaits m s = true)
    (hc : preCheck s m (reqBytes s m) ≠ 0) (ho : leNat (reqBytes s m) 0 2 = op ∨ card (leNat (reqBytes s m) 0 2) = none) :
    takeUp op act m s = respond m (reqOf s m).opcode (byteAt (reqBytes s m) 2) (reqOf s m).tag (preCheck s m (reqBytes s m)) [] (taken s m) := by
  obtain ⟨hserve, -, htake, hnext⟩ := requestWaits_iff.mp hw
  simp only [takeable, Bool.and_eq_true, bne_iff_ne, ne_eq] at htake
  have hempty : ¬ (serving s = true ∧ (getMbx s m).rung = true ∧ (getMbx s m).reqTail = (getMbx s m).reqHead) :=
    fun h => htake.1.1.2 h.2.2
  have hturn : ¬ (¬ serving s = true ∨ nextServed s ≠ some m) := by simp [hserve, hnext]
  have hrow : ¬ (leNat (reqBytes s m) 0 2 ≠ op ∧ (card (leNat (reqBytes s m) 0 2)).isSome = true) := by
    rcases ho with ho | ho <;> simp [ho]
  unfold takeUp
  rw [if_neg hempty, if_neg hturn]
  exact (if_neg hrow).trans (if_pos hc)

/-- The same, as the answer of the row's command. -/
theorem answers_of_rejected {op m : Nat} {act : Req → State → Ans} {s : State} (i : Instr)
    (hi : exec i s = inRange (decide (m < 32)) (takeUpCard op act m s)) (hw : requestWaits m s = true)
    (hc : preCheck s m (reqBytes s m) ≠ 0) (ho : leNat (reqBytes s m) 0 2 = op ∨ card (leNat (reqBytes s m) 0 2) = none) :
    answersWith i m s (preCheck s m (reqBytes s m)) [] (taken s m) := by
  obtain ⟨-, ⟨hm, hn⟩, -, -⟩ := requestWaits_iff.mp hw
  refine answersWith_respond hm hn rfl ?_
  rw [hi, decide_eq_true hm]
  exact congrArg (inRange true) (takeUp_rejected hw hc ho)

/-! ### The checks of R44 -/

/-- The reserved bits of FLAGS. -/
theorem flagsReserved_iff (x : Byte) : x &&& 0x1F = 0 ↔ field x 4 0 = 0 := by
  have h : ∀ x : Byte, x &&& 0x1F = 0 ↔ field x 4 0 = 0 := by decide
  exact h x

/-- What the checks answer once the reserved bits of FLAGS are 0. -/
theorem preCheck_of_flags {s : State} {m : Nat} {b : Bytes} (h : field (byteAt b 2) 4 0 = 0) :
    preCheck s m b = match card (leNat b 0 2) with
      | none => 0x1001
      | some c => if field (byteAt b 2) 7 5 ≠ 1 then 0x100B
          else if (busyTags (getMbx s m)).contains (byteAt b 3) = true ∨ (getMbx s m).clash.contains (getMbx s m).reqHead = true then 0x1003
          else if leNat b 4 2 ≠ c.reqLen then 0x1002 else if c.roles &&& roleOf m = 0 then 0x4001 else 0 := by
  have hf : ¬ (byteAt b 2 &&& 0x1F ≠ 0) := not_not.mpr ((flagsReserved_iff _).mpr h)
  exact if_neg hf

/-- Settles O10: a request that fails a check is answered with what the checks say, which each clause reads off in their order. -/
theorem requestChecks : Obligations.RequestChecks := by
  intro m s hw hc b rejected
  refine ⟨answers_of_rejected _ rfl hw hc, answers_of_rejected _ rfl hw hc, answers_of_rejected _ rfl hw hc,
    answers_of_rejected _ rfl hw hc, fun hf => ?_, fun hf hcard => ?_, fun hf c hcard hv => ?_, fun hf c hcard hv => ⟨fun ht => ?_, fun ht hl => ?_⟩⟩
  · exact if_pos (fun h => hf ((flagsReserved_iff _).mp h))
  · rw [preCheck_of_flags hf, hcard]
  · rw [preCheck_of_flags hf, hcard]
    exact if_pos hv
  · simp [preCheck_of_flags hf, hcard, hv, ht]
  · exact ⟨fun hr => by simp [preCheck_of_flags hf, hcard, hv, ht, hl, hr], fun hr h0 => by simp [preCheck_of_flags hf, hcard, hv, ht, hl, hr, h0]⟩

/-! ### Discovery (R53) -/

/-- Taking a request up leaves the mask of every mailbox. -/
@[simp] theorem taken_mask (s : State) (m k : Nat) : (getMbx (taken s m) k).mask = (getMbx s k).mask := by
  simp only [taken, takenUp, getMbx, setMbx, roundPast, Tbl.get_set]
  split
  next h => rw [h]
  next => rfl

/-- The request of a mailbox names it. -/
@[simp] theorem reqOf_m (s : State) (m : Nat) : (reqOf s m).m = m := rfl

@[simp] theorem taken_swarm (s : State) (m : Nat) : (taken s m).swarm = s.swarm := rfl

/-- The role of a mailbox, as GET_CAPS answers it. -/
theorem roleOf_byte (m : Nat) : BitVec.ofNat 8 (roleOf m) = if m = 0 then 1 else if m = 1 then 4 else 2 := by
  unfold roleOf
  split
  · rfl
  · split <;> rfl

/-- GET_OPCODE_INFO of an opcode of the catalogue. -/
theorem getOpcodeInfo_known {r : Req} {s : State} {c : Card} (h : card (leNat r.p 0 2) = some c) :
    getOpcodeInfo r s = okay s ([1, BitVec.ofNat 8 c.roles] ++ toLE 2 c.reqLen ++ toLE 2 c.rspLen) := by
  simp only [getOpcodeInfo, h]

/-- GET_OPCODE_INFO of another opcode. -/
theorem getOpcodeInfo_unknown {r : Req} {s : State} (h : card (leNat r.p 0 2) = none) :
    getOpcodeInfo r s = okay s [0xFF, 0, 0, 0, 0, 0] := by
  simp only [getOpcodeInfo, h]
  rfl

/-- MBX_GRANT of an unbound mailbox 2-31 to a partition or PCIe function. -/
theorem mbxGrant_unbound {r : Req} {s : State} {k : Nat} (hk : leNat r.p 0 1 = k) (h2 : 2 ≤ k) (h31 : k ≤ 31) (hb : (getMbx s k).bound = none)
    (hf : field (le32 r.p 2) 31 24 = 0) (hu : srcUnit (le32 r.p 2) = 2 ∨ srcUnit (le32 r.p 2) = 3) (h1 : 1 ≤ leNat r.p 16 2)
    (h256 : leNat r.p 16 2 ≤ 256) :
    mbxGrant r s = okay (setMbx s k { getMbx s k with
      bound := some (le32 r.p 2), groups := le64 r.p 8, quota := leNat r.p 16 2, mask := 0, reqTail := 0, reqHead := 0, rspTail := 0,
      rspHead := 0, rung := false, clash := [], events := [], accepted := [], dropped := 0, waiting := none }) [] := by
  have hrange : ¬ (leNat r.p 0 1 < 2 ∨ 31 < leNat r.p 0 1 ∨ leNat r.p 16 2 < 1 ∨ 256 < leNat r.p 16 2
      ∨ (srcUnit (le32 r.p 2) ≠ 2 ∧ srcUnit (le32 r.p 2) ≠ 3)) := by omega
  subst hk
  simp only [mbxGrant, hf, hrange, hb, ne_eq, not_true_eq_false, if_false, Option.isSome_none, Bool.false_eq_true]

/-! ### MBX_REVOKE (R53) -/

/-- A request asked bears a tag that no accepted command of its mailbox bears. -/
theorem tag_fresh_of_asked {op m : Nat} {s : State} (h : asked op m s = true) :
    ∀ a ∈ (getMbx s m).accepted, a.tag ≠ (reqOf s m).tag := by
  obtain ⟨-, hop, hpre, -⟩ := asked_iff.mp h
  have hf : field (byteAt (reqBytes s m) 2) 4 0 = 0 := by
    by_contra hf
    have : preCheck s m (reqBytes s m) = 0x1007 := if_pos (fun h => hf ((flagsReserved_iff _).mp h))
    rw [this] at hpre
    exact absurd hpre (by decide)
  rw [preCheck_of_flags hf] at hpre
  intro a ha htag
  have hbusy : (busyTags (getMbx s m)).contains (byteAt (reqBytes s m) 3) = true := by
    simp only [busyTags, awaitingTags, List.contains_eq_mem, List.mem_append, List.mem_map, decide_eq_true_eq]
    exact Or.inr (Or.inl ⟨a, ha, htag⟩)
  split at hpre
  next => exact absurd hpre (by decide)
  next =>
    rw [if_pos (Or.inl hbusy)] at hpre
    split at hpre <;> exact absurd hpre (by decide)

/-- Making room in the queue of events leaves the rest of a mailbox. -/
theorem makeRoom_queue (x : Mbx) :
    ∃ l n o d, makeRoom x = { x with events := l, evtLost := n, evtLostOvf := o, dropped := d } := by
  unfold makeRoom
  split
  · exact ⟨_, _, _, _, rfl⟩
  · split <;> exact ⟨_, _, _, _, rfl⟩

/-- Taking a request up leaves the accepted commands of every mailbox. -/
@[simp] theorem taken_accepted (s : State) (m k : Nat) : (getMbx (taken s m) k).accepted = (getMbx s k).accepted := by
  simp only [taken, takenUp, getMbx, setMbx, roundPast, Tbl.get_set]
  split
  next h => rw [h]
  next => rfl

/-- The accepted request stands last among the accepted commands of its mailbox. -/
theorem acceptedState_accepted (s : State) (m : Nat) : (getMbx (acceptedState s m) m).accepted
    = (getMbx s m).accepted ++ [{ opcode := (reqOf s m).opcode, tag := (reqOf s m).tag, result := none }] := by
  obtain ⟨l, n, o, d, h⟩ := makeRoom_queue (getMbx (taken s m) m)
  simp [acceptedState, h]

/-- The accepted request, alone of the commands of its mailbox, takes the outcome that its run reports. -/
theorem accepted_finishCmd {op m : Nat} {s t : State} {c : W16} {b : Bytes} (h : asked op m s = true)
    (ht : (getMbx t m).accepted = (getMbx (acceptedState s m) m).accepted) :
    (getMbx (finishCmd (refOf s m) c b t) m).accepted
      = (getMbx s m).accepted ++ [{ opcode := (reqOf s m).opcode, tag := (reqOf s m).tag, result := some { status := c, time := t.swarm.time, extra := b } }] := by
  have hfresh := tag_fresh_of_asked h
  have hold : (getMbx s m).accepted.filter (fun a => a.opcode == (reqOf s m).opcode && a.tag == (reqOf s m).tag && a.result == none) = [] := by
    rw [List.filter_eq_nil_iff]
    intro a ha
    simp [hfresh a ha]
  have hkeep : (getMbx s m).accepted.filter (fun a => !(a.opcode == (reqOf s m).opcode && a.tag == (reqOf s m).tag && a.result == none))
      = (getMbx s m).accepted := by
    rw [List.filter_eq_self]
    intro a ha
    simp [hfresh a ha]
  simp only [finishCmd, refOf, getMbx_setMbx, ht, acceptedState_accepted, List.filter_append, hold, hkeep]
  simp

/-- MBX_REVOKE of a bound mailbox without contexts is accepted. -/
theorem mbxRevoke_accepts {r : Req} {s : State} {k : Nat} (hk : leNat r.p 0 1 = k) (h2 : 2 ≤ k) (h31 : k ≤ 31) (hmode : leNat r.p 1 1 ≤ 1)
    (hb : (getMbx s k).bound.isSome = true) (hr : (getMbx s k).revoking = none) (hc : ∀ c ∈ liveCtxs s, madeBy s k (getCtx s c) = false)
    (hfull : pendingFull s r.m = false) :
    mbxRevoke r s = accepted r (fun c s => finishRevoke k (setMbx s k { getMbx s k with revoking := some c, reqHead := (getMbx s k).reqTail })) s := by
  have hnone : (liveCtxs s).filter (fun c => madeBy s k (getCtx s c)) = [] := List.filter_eq_nil_iff.mpr (fun c h => by simp [hc c h])
  have hrange : ¬ (leNat r.p 0 1 < 2 ∨ 31 < leNat r.p 0 1 ∨ 1 < leNat r.p 1 1 ∨ (getMbx s (leNat r.p 0 1)).bound = none) := by
    simp only [hk, Option.isSome_iff_ne_none.mp hb, or_false]
    omega
  subst hk
  simp only [mbxRevoke, hrange, hr, hnone, acceptOr, hfull, if_false, Option.isSome_none, Bool.false_eq_true, ne_eq, not_true_eq_false,
    and_false, or_self, List.foldl_nil]

/-- The mailbox as a revoke leaves it: unbound, and but for the freeze, the counters and the sequence number as at reset (R53). -/
def revokedMbx (x : Mbx) : Mbx :=
  { ringFault := x.ringFault, foreignWrites := x.foreignWrites, foreignOvf := x.foreignOvf, evtLost := x.evtLost,
    evtLostOvf := x.evtLostOvf, seq := x.seq }

/-- An outcome leaves the binding and the groups of every mailbox. -/
theorem finishCmd_bound (c : CmdRef) (st : W16) (b : Bytes) (s : State) (k : Nat) :
    (getMbx (finishCmd c st b s) k).bound = (getMbx s k).bound ∧ (getMbx (finishCmd c st b s) k).groups = (getMbx s k).groups := by
  unfold finishCmd
  by_cases h : k = c.m
  · subst h
    simp
  · simp [getMbx_setMbx_ne _ _ _ _ h]

/-- The end of a revoke of a mailbox without contexts: it is unbound, its staged blocks are released, and the command has its outcome. -/
theorem finishRevoke_unbound {k : Nat} {c : CmdRef} {s : State} (hr : (getMbx s k).revoking = some c)
    (hc : s.obj.ctxs.any (fun e => e.2.live && madeBy s k e.2) = false) :
    ∃ bs, finishRevoke k s = finishCmd c 0 []
      { setMbx s k (revokedMbx (getMbx s k)) with keeper := { (setMbx s k (revokedMbx (getMbx s k))).keeper with blocks := bs } } := by
  unfold finishRevoke
  simp only [hr, hc, Bool.false_eq_true, if_false]
  exact ⟨_, rfl⟩

/-- The run of a revoke of mailbox `k` without contexts: `k` is unbound, what the Keeper does not hold is left, and of another mailbox only the
command's outcome is written. -/
theorem revokeRun_unbound {k : Nat} {c : CmdRef} {x : Mbx} {s : State} (hx : x.revoking = some c)
    (hc : ∀ e ∈ s.obj.ctxs, e.2.live = true → madeBy s k e.2 = false) :
    let w := finishRevoke k (setMbx s k x)
    (getMbx w k).bound = none ∧ (getMbx w k).groups = 0 ∧ w.obj = s.obj ∧ w.mem = s.mem ∧ w.cmp = s.cmp ∧ w.swarm = s.swarm
    ∧ (k ≠ c.m → (getMbx w c.m).accepted = (getMbx (finishCmd c 0 [] s) c.m).accepted) := by
  have hnone : (setMbx s k x).obj.ctxs.any (fun e => e.2.live && madeBy (setMbx s k x) k e.2) = false := by
    rw [List.any_eq_false]
    intro e he h
    obtain ⟨hl, hm⟩ := Bool.and_eq_true_iff.mp h
    exact Bool.false_ne_true ((hc e he hl).symm.trans hm)
  obtain ⟨bs, hrun⟩ := finishRevoke_unbound (by rwa [getMbx_setMbx]) hnone
  intro w
  have hw : w = _ := hrun
  rw [hw]
  refine ⟨?_, ?_, rfl, rfl, rfl, rfl, fun hk => ?_⟩
  · rw [(finishCmd_bound _ _ _ _ k).1]
    exact congrArg Mbx.bound (getMbx_setMbx _ _ _)
  · rw [(finishCmd_bound _ _ _ _ k).2]
    exact congrArg Mbx.groups (getMbx_setMbx _ _ _)
  · have hleft (t : State) (bs : Tbl StagedBlock) (y : Mbx) : getMbx { setMbx t k y with keeper := { (setMbx t k y).keeper with blocks := bs } } c.m
        = getMbx t c.m := getMbx_setMbx_ne _ _ _ _ (Ne.symm hk)
    simp only [finishCmd, getMbx_setMbx, hleft]
    rfl

/-- Settles O11: each command's own answer to a request asked; the revoke is accepted and runs to its end at once. -/
theorem discoveryCommands : Obligations.DiscoveryCommands := by
  intro m s p u
  refine ⟨fun hk => ?_, fun hk => ⟨fun c hc => ?_, fun hc => ?_⟩, fun hk k h0 h2 h31 hb hf hu h1 h256 => ?_, fun hk => ?_,
    fun hk k h0 h2 h31 hmode hb hr hlive hctx => ?_⟩
  · refine answers_of_done _ rfl hk ?_ rfl
    simp only [getCaps, okay, taken_groups, taken_swarm, roleOf_byte, reqOf_m]
    rfl
  · exact answers_of_done _ rfl hk (getOpcodeInfo_known hc) rfl
  · exact answers_of_done _ rfl hk (getOpcodeInfo_unknown hc) rfl
  · exact ⟨_, answers_of_done _ rfl hk (mbxGrant_unbound h0 h2 h31 hb hf hu h1 h256) rfl, rfl, rfl, rfl, rfl, rfl, rfl, rfl, rfl, rfl⟩
  · refine answers_of_done _ rfl hk ?_ rfl
    simp only [eventMask, okay, taken_mask]
    rfl
  · obtain ⟨hasked, hfull⟩ := askedLong_iff.mp hk
    have hop : (reqOf s m).opcode = 0x0004 := congrArg (BitVec.ofNat 16) (asked_iff.mp hasked).2.1
    have hmade (t : State) (ht : t.swarm = s.swarm) (c : Ctx) (h : c.mailbox ≠ k ∨ c.node ≠ s.swarm.node) : madeBy t k c = false := by
      simp only [madeBy, ht, Bool.and_eq_false_iff, beq_eq_false_iff_ne]
      exact h.symm
    have hacc := mbxRevoke_accepts (r := reqOf s m) (s := u) h0 h2 h31 hmode hb hr (fun c hc => hmade u rfl _ (hctx c hc)) hfull
    obtain ⟨hobj, hmem, hcmp, -, hswarm, -⟩ := acceptedState_rest s m
    obtain ⟨hbound, hgroups, hwobj, hwmem, hwcmp, hwswarm, hdone⟩ := revokeRun_unbound (k := k) (s := acceptedState s m) (c := refOf s m)
      (x := { getMbx (acceptedState s m) k with revoking := some (refOf s m), reqHead := (getMbx (acceptedState s m) k).reqTail }) rfl
      (fun e he hl => hmade _ hswarm _ (hlive e (by rwa [hobj] at he) hl))
    refine ⟨_, answers_of_run (.mbxRevoke m) rfl hasked hacc rfl (by rw [hwswarm, hswarm]), hbound, hgroups, hwobj.trans hobj,
      hwmem.trans hmem, hwcmp.trans hcmp, fun hkm => ?_⟩
    have hout := (hdone hkm).trans (accepted_finishCmd hasked rfl)
    rw [hop, hswarm] at hout
    rw [taken_accepted]
    exact hout

end Sys2Proof.Machine
end

section
/-! The commands of contexts, memory objects, queues, fences and monitor slots (R54, R69-R94). -/

namespace Sys2Proof.Machine

/-! ### What a command names -/

/-- A command that names an own context of this node outside reset goes on with it. -/
theorem withOwnCtx_mine {r : Req} {n c : Nat} {long : Bool} {f : Nat → State → Ans} {s : State} (hl : localCtx s (leNat r.p 0 2) = some c)
    (hm : mineCtx r s (getCtx s c) = true) (hr : inReset (getCtx s c) = false) : withOwnCtx r n long f s = f c s := by
  rw [withOwnCtx, withCtx_own hl hr, if_pos hm]

/-- A context id with a context number of this node has its reserved bits 0. -/
theorem ctxId_lt {s : State} {id c : Nat} (h : localCtx s id = some c) : ¬ 1024 ≤ id :=
  Nat.not_le.mpr (ctxId_of_localCtx h).2.1

/-- A command that names an own live object, fit for it and outside reset, goes on with it. -/
theorem withObject_mine {r : Req} {off : Nat} {bad : Nat → MotEntry → W16} {f : Nat → MotEntry → State → Ans} {s : State}
    (hk : (getMot s (field (le32 r.p off) 15 0)).kind ≠ 0) (hg : (getMot s (field (le32 r.p off) 15 0)).gen.toNat = field (le32 r.p off) 31 16)
    (hb : bad (field (le32 r.p off) 15 0) (getMot s (field (le32 r.p off) 15 0)) = 0) (hm : mineObj r s (getMot s (field (le32 r.p off) 15 0)) = true)
    (hr : (localCtx s (getMot s (field (le32 r.p off) 15 0)).owner.toNat).any (fun c => inReset (getCtx s c)) = false) :
    withObject r off bad f s = f (field (le32 r.p off) 15 0) (getMot s (field (le32 r.p off) 15 0)) s := by
  simp only [withObject, resolve_live hk hg, hb, hm, hr, ne_eq, not_true_eq_false, if_false, Bool.false_eq_true]

/-- The first key that a search meets. -/
theorem Tbl.findFrom_first {α : Type} {d : α} {t : Tbl α} {p : α → Bool} {c : Nat} (hp : p (Tbl.get d t c) = true) :
    ∀ n k, k ≤ c → c < k + n → (∀ j, k ≤ j → j < c → p (Tbl.get d t j) = false) → Tbl.findFrom d t p k n = some c
  | 0, k, hk, hc, _ => absurd hc (by omega)
  | n + 1, k, hk, hc, hj => by
    unfold Tbl.findFrom
    by_cases h : k = c
    · subst h
      rw [if_pos hp]
    · rw [if_neg (by rw [hj k le_rfl (by omega)]; exact Bool.false_ne_true)]
      exact Tbl.findFrom_first hp n (k + 1) (by omega) (by omega) (fun j h1 h2 => hj j (by omega) h2)

/-- Taking a request up leaves the quota of every mailbox. -/
@[simp] theorem taken_quota (s : State) (m k : Nat) : (getMbx (taken s m) k).quota = (getMbx s k).quota := by
  simp only [taken, takenUp, getMbx, setMbx, roundPast, Tbl.get_set]
  split
  next h => rw [h]
  next => rfl

/-- A long-running command is accepted where fewer than 8 are pending. -/
theorem acceptOr_free {r : Req} {f : CmdRef → State → State} {s : State} (h : pendingFull s r.m = false) :
    acceptOr r f s = accepted r f s := by
  simp [acceptOr, h]

/-! ### Contexts -/

/-- A context that mailbox `m` of this node made. -/
theorem madeBy_iff {s : State} {m : Nat} {x : Ctx} : madeBy s m x = true ↔ x.mailbox = m ∧ x.node = s.swarm.node := by
  simp [madeBy, and_comm]

/-- CTX_CREATE with fields in range, no other mailbox on the function and quota left takes the lowest free context (R54, R69). -/
theorem ctxCreate_creates {r : Req} {s : State} {c : Nat} (hnode : s.swarm.node < 4) (hn : leNat r.p 0 1 = s.swarm.node) (hp : leNat r.p 1 1 ≤ 3)
    (hv : leNat r.p 4 1 ≤ 15) (ht : cmdPending s 0x0901 = false) (hpark : s.power.parking = false)
    (hgoal : ∀ g, s.power.goal = some g → g.2 ≠ .parked)
    (hvf : leNat r.p 4 1 = 0 ∨ ∀ e ∈ s.obj.ctxs, e.2.live = true → e.2.vf = leNat r.p 4 1 → madeBy s r.m e.2 = true)
    (hq : Tbl.count s.obj.ctxs (fun _ x => x.live && madeBy s r.m x) < (getMbx s r.m).quota) (hc : c < 256)
    (hfree : (getCtx s c).live = false) (hlow : ∀ k, k < c → (getCtx s k).live = true) :
    ctxCreate r s = okay (setCtx s c
        { live := true, node := s.swarm.node, mailbox := r.m, priority := BitVec.ofNat 2 (leNat r.p 1 1), patience := le16 r.p 2,
          vf := leNat r.p 4 1 }) (toLE 2 (ctxId s c)) := by
  have hrange : ¬ (3 < s.swarm.node ∨ 3 < leNat r.p 1 1 ∨ 15 < leNat r.p 4 1) := by omega
  have hheld : ¬ (cmdPending s 0x0901 = true ∨ s.power.parking = true ∨ s.power.goal.map (·.2) = some .parked) := by
    rw [ht, hpark]
    rintro (h | h | h)
    · cases h
    · cases h
    · obtain ⟨g, hg, he⟩ := Option.map_eq_some_iff.mp h
      exact hgoal g hg he
  have hclash : ¬ (leNat r.p 4 1 ≠ 0 ∧ s.obj.ctxs.any (fun e => e.2.live && e.2.vf == leNat r.p 4 1 && !madeBy s r.m e.2) = true) := by
    rintro ⟨h0, h⟩
    obtain ⟨e, he, hx⟩ := List.any_eq_true.mp h
    simp only [Bool.and_eq_true, beq_iff_eq, Bool.not_eq_true'] at hx
    obtain ⟨⟨hl, hf⟩, hm⟩ := hx
    exact Bool.false_ne_true (hm.symm.trans (hvf.resolve_left h0 e he hl hf))
  have hfind : Tbl.findFrom {} s.obj.ctxs (fun x => !x.live) 0 256 = some c :=
    Tbl.findFrom_first (by simpa [getCtx] using hfree) 256 0 (Nat.zero_le c) (by omega) (fun j _ h => by simpa [getCtx] using hlow j h)
  simp only [ctxCreate, hn, hrange, hheld, hclash, Nat.not_le.mpr hq, hfind, ne_eq, not_true_eq_false, if_false]

/-- The destroy of a context outside reset: it is DESTROYING, and its READY queues are in HOLD with their counts marked (R54, R295). -/
theorem beginDestroy_obj {c id : Nat} {k : CmdRef} {s : State} (hr : inReset (getCtx s c) = false) (hid : ctxId s c = id) :
    beginDestroy c (some k) s = { s with obj := { s.obj with
      ctxs := Tbl.set {} s.obj.ctxs c { getCtx s c with state := .destroying, done := (getCtx s c).done ++ [k] },
      queues := Tbl.mapAll {} (fun _ q => if q.live ∧ q.ctx.toNat = id then
        { q with state := (if q.state = .ready then .hold else q.state), holdMark := q.submitted } else q) s.obj.queues } } := by
  have hctx (x : Ctx) : ctxId (setCtx s c x) c = id := hid
  simp only [beginDestroy, hr, hctx, Bool.false_eq_true, not_false_eq_true, and_true, if_false, Option.toList]
  rfl

/-- CTX_DESTROY of an own context outside reset is accepted. -/
theorem ctxDestroy_accepts {r : Req} {s : State} {c : Nat} (hl : localCtx s (leNat r.p 0 2) = some c) (hm : mineCtx r s (getCtx s c) = true)
    (hr : inReset (getCtx s c) = false) (hf : pendingFull s r.m = false) :
    ctxDestroy r s = accepted r (fun k s => beginDestroy c (some k) s) s := by
  rw [ctxDestroy, withOwnCtx_mine hl hm hr, acceptOr_free hf]

/-- A context that the sender did not make is refused (R34). -/
theorem withOwnCtx_other {r : Req} {n c : Nat} {long : Bool} {f : Nat → State → Ans} {s : State} (hl : localCtx s (leNat r.p 0 2) = some c)
    (hm : mineCtx r s (getCtx s c) = false) (hr : inReset (getCtx s c) = false) : withOwnCtx r n long f s = reject s 0x2002 := by
  rw [withOwnCtx, withCtx_own hl hr, if_neg (by rw [hm]; exact Bool.false_ne_true)]

/-- A context number of this node without a context is refused. -/
theorem withOwnCtx_none {r : Req} {n : Nat} {long : Bool} {f : Nat → State → Ans} {s : State} (hid : leNat r.p 0 2 < 1024)
    (hn : leNat r.p 0 2 / 256 = s.swarm.node) (hl : localCtx s (leNat r.p 0 2) = none) : withOwnCtx r n long f s = reject s 0x1004 := by
  simp only [withOwnCtx, withCtx, Nat.not_le.mpr hid, hn, hl, if_false, ne_eq, not_true_eq_false]

/-- The node of a request that is asked. -/
theorem node_lt_of_asked {op m : Nat} {s : State} (h : asked op m s = true) : s.swarm.node < 4 :=
  (requestWaits_iff.mp (asked_iff.mp h).1).2.1.2

/-- Settles O12: each clause is the command's own answer to a request asked. -/
theorem contextCommands : Obligations.ContextCommands := by
  intro m s p u mine
  refine ⟨fun hk hn hp hv ht hpark hgoal hvf hq c hc hfree hlow => ?_, fun hk c hl hm hr => ?_, fun hk hid hn hl => ?_, fun hk c hl hm hmine hr => ?_⟩
  · have hcreate := ctxCreate_creates (r := reqOf s m) (s := u) (node_lt_of_asked (s := s) hk) hn hp hv ht hpark hgoal
      (hvf.imp_right (fun h e he hlive hf => madeBy_iff.mpr (h e he hlive hf))) (by rw [reqOf_m, taken_quota]; exact hq) hc hfree hlow
    exact answers_of_done _ rfl hk hcreate rfl
  · obtain ⟨hasked, hfull⟩ := askedLong_iff.mp hk
    obtain ⟨hid, -, -⟩ := ctxId_of_localCtx hl
    intro w
    obtain ⟨hobj, -, -, -, hswarm, -⟩ := acceptedState_rest s m
    have hctx : getCtx w c = getCtx s c := by simp only [w, getCtx, hobj]
    have hacc := ctxDestroy_accepts (r := reqOf s m) (s := u) hl (mineCtx_of (hm.imp_right madeBy_iff.mpr)) hr hfull
    have hrun := beginDestroy_obj (c := c) (k := refOf s m) (s := w) (by rw [hctx]; exact hr) (by simp only [w, ctxId, hswarm]; exact hid)
    rw [hctx, show w.obj = s.obj from hobj] at hrun
    exact answers_of_run _ rfl hasked hacc hrun (congrArg Swarm.node hswarm)
  · exact answers_of_done _ rfl hk (withOwnCtx_none (s := u) hid hn hl) rfl
  · have hother : mineCtx (reqOf s m) u (getCtx u c) = false := by
      rw [← Bool.not_eq_true]
      intro h
      simp only [mineCtx, Bool.or_eq_true, beq_iff_eq] at h
      exact h.elim hm (fun h => hmine (madeBy_iff.mp h))
    exact answers_of_done _ rfl hk (withOwnCtx_other (s := u) hl hother hr) rfl

/-! ### Memory objects -/

/-- MO_CREATE in LPDDR with legal fields takes the lowest free entry and place (R54, R77). -/
theorem moCreate_creates {r : Req} {s : State} {c j a : Nat} (hperm : field (byteAt r.p 2) 7 4 = 0) (h256 : leNat r.p 8 8 % 256 = 0)
    (hsize : leNat r.p 8 8 ≠ 0) (hnode : leNat r.p 4 1 = leNat r.p 0 2 / 256) (hplace : leNat r.p 3 1 = 0) (hdie : leNat r.p 5 1 ≤ 3)
    (hcell : leNat r.p 6 1 = 0) (hl : localCtx s (leNat r.p 0 2) = some c) (hm : mineCtx r s (getCtx s c) = true)
    (hr : inReset (getCtx s c) = false) (hdown : dieDown s (leNat r.p 5 1) = false) (hj : freeEntry s = some j)
    (ha : placeLpddr s (leNat r.p 5 1) (leNat r.p 8 8) = some a) :
    moCreate r s = okay (zeroMem a (leNat r.p 8 8) (setMot s j
        { gen := (getMot s j).gen, base := a, size := leNat r.p 8 8 / 256, perm := (byteAt r.p 2).truncate 4, kind := 1,
          owner := BitVec.ofNat 16 (leNat r.p 0 2), creator := creatorByte s c, place := 0 }))
      (toLE 4 (BitVec.ofNat 32 (j + 65536 * (getMot s j).gen.toNat) : W32).toNat ++ toLE 8 a) := by
  have hbad : placeBad 0 (leNat r.p 5 1) 0 (leNat r.p 8 8) = false := by simp [placeBad]; omega
  have hreserved : ¬ (field (byteAt r.p 2) 7 4 ≠ 0 ∨ 1024 ≤ leNat r.p 0 2) := by simp [hperm, ctxId_lt hl]
  have hrange : ¬ (leNat r.p 8 8 = 0 ∨ leNat r.p 4 1 ≠ leNat r.p 0 2 / 256
      ∨ placeBad 0 (leNat r.p 5 1) (leNat r.p 6 1) (leNat r.p 8 8) = true) := by
    simp [hsize, hnode, hcell, hbad]
  have hput : placeObject s 0 (leNat r.p 5 1) (leNat r.p 6 1) (leNat r.p 8 8) = some a := ha
  unfold moCreate
  simp only [hreserved, h256, hplace, hrange, if_false, ne_eq, not_true_eq_false, withOwnCtx_mine hl hm hr, hdown, hj, hput, handleOf,
    getMot_setMot, Bool.false_eq_true]

/-- Settles O13: each clause is the command's own answer to a request asked, for an entry that the sender may act on. -/
theorem memoryObjectCommands : Obligations.MemoryObjectCommands := by
  intro m s p u i e act
  refine ⟨fun hk hperm h256 hsize hnode hplace hdie hcell c hl hm hr hdown j a hj ha => ?_, fun hk hkind hgen hact => ?_,
    fun hk hv hkind hgen hact => ?_⟩
  · exact answers_of_done _ rfl hk (moCreate_creates (s := u) hperm h256 hsize hnode hplace hdie hcell hl (mineCtx_of hm) hr hdown hj ha) rfl
  · obtain ⟨hmine, hreset⟩ := hact
    have named : moDestroy (reqOf s m) u = if e.refs ≠ 0 then reject u 0x2004 else if bitOf e.lock 0 = true ∨ e.kind = 5 then reject u 0x4002
        else okay (freeMot i u) [] := withObject_mine (r := reqOf s m) (s := u) (off := 0) hkind hgen rfl (mineObj_of hmine) hreset
    refine ⟨fun h5 hrefs hlock => ?_, fun hrefs => ?_, fun hrefs hkeep => ?_⟩
    · refine answers_of_done _ rfl hk (named.trans ?_) rfl
      simp only [hrefs, hlock, h5, ne_eq, not_true_eq_false, if_false, Bool.false_eq_true, or_self]
      rfl
    · exact answers_of_done _ rfl hk (named.trans (if_pos hrefs)) rfl
    · exact answers_of_done _ rfl hk (named.trans ((if_neg (not_not.mpr hrefs)).trans (if_pos hkeep.symm))) rfl
  · obtain ⟨hmine, hreset⟩ := hact
    have named : moLock (reqOf s m) u = if bitOf e.lock 1 = true then reject u 0x4001
        else okay (setMot u i { e with lock := setBit e.lock 0 (leNat p 4 1 == 1) }) [] :=
      (if_neg (Nat.not_lt.mpr hv)).trans (withObject_mine (r := reqOf s m) (s := u) (off := 0) hkind hgen rfl (mineObj_of hmine) hreset)
    refine ⟨fun hlock => ⟨_, answers_of_done _ rfl hk (named.trans (if_neg (by rw [hlock]; exact Bool.false_ne_true))) rfl, ?_⟩, fun hlock => ?_⟩
    · exact ⟨by simp [bitOf_setBit], fun k h => by simp [bitOf_setBit, h]⟩
    · exact answers_of_done _ rfl hk (named.trans (if_pos hlock)) rfl

/-! ### Queues -/

/-- QUEUE_CREATE over a ring and a fence of an own context takes the lowest free queue (R54, R80). -/
theorem queueCreate_creates {r : Req} {s : State} {c q : Nat} {e g : MotEntry} (htarget : leNat r.p 2 1 ≤ 3) (h4 : 4 ≤ leNat r.p 3 1)
    (h12 : leNat r.p 3 1 ≤ 12) (hmask : maskBad (leNat r.p 2 1) (le64 r.p 12) = false) (hl : localCtx s (leNat r.p 0 2) = some c)
    (hm : mineCtx r s (getCtx s c) = true) (hr : inReset (getCtx s c) = false) (he : getMot s (field (le32 r.p 4) 15 0) = e)
    (hkind : e.kind = 1 ∨ e.kind = 3) (hgen : e.gen.toNat = field (le32 r.p 4) 31 16) (hplace : e.place ≠ 1) (hperm : bitOf e.perm 0 = true)
    (hsize : 256 * e.size = 64 * 2 ^ leNat r.p 3 1) (hg : getMot s (field (le32 r.p 8) 15 0) = g) (hfence : g.kind = 2)
    (hgen' : g.gen.toNat = field (le32 r.p 8) 31 16) (hown : e.owner.toNat = leNat r.p 0 2) (hown' : g.owner.toNat = leNat r.p 0 2) (hq : q < 1024)
    (hfree : (getQueue s q).live = false) (hlow : ∀ k, k < q → (getQueue s k).live = true) :
    queueCreate r s = okay
      (setQueue (setMot s (field (le32 r.p 4) 15 0) { e with kind := 3, refs := satAdd e.refs 1 }) q
        { live := true, ctx := BitVec.ofNat 16 (leNat r.p 0 2), target := leNat r.p 2 1, log2 := leNat r.p 3 1, ring := le32 r.p 4, fence := le32 r.p 8,
          creator := r.m, unitMask := le64 r.p 12,
          fenceBase := if bitOf (fenceWord s (field (le32 r.p 8) 15 0)) 63 then g.shadow else (fenceWord s (field (le32 r.p 8) 15 0)).toNat,
          blocked := bitOf (fenceWord s (field (le32 r.p 8) 15 0)) 63 })
      (toLE 2 q ++ toLE 8 (swarmAddr s.swarm.node 5 (0x01001000000 + 0x1000 * q))) := by
  obtain ⟨hid, -, -⟩ := ctxId_of_localCtx hl
  have hring : resolve s (le32 r.p 4) = some (field (le32 r.p 4) 15 0) :=
    resolve_live (by rw [he]; omega) (by rw [he]; exact hgen)
  have hfence' : resolve s (le32 r.p 8) = some (field (le32 r.p 8) 15 0) :=
    resolve_live (by rw [hg]; omega) (by rw [hg]; exact hgen')
  have hrange : ¬ (3 < leNat r.p 2 1 ∨ leNat r.p 3 1 < 4 ∨ 12 < leNat r.p 3 1 ∨ maskBad (leNat r.p 2 1) (le64 r.p 12) = true) := by
    rw [hmask]
    simp
    omega
  have hfit : ¬ ((e.kind ≠ 1 ∧ e.kind ≠ 3) ∨ e.place = 1 ∨ ¬ bitOf e.perm 0 = true ∨ 256 * e.size ≠ 64 * 2 ^ leNat r.p 3 1 ∨ g.kind ≠ 2) := by
    simp only [hplace, hperm, hsize, hfence, not_true_eq_false, ne_eq, or_false]
    omega
  have howner : ¬ (¬ mineCtx r s (getCtx s c) = true ∨ e.owner.toNat ≠ leNat r.p 0 2 ∨ g.owner.toNat ≠ leNat r.p 0 2) := by
    simp [hm, hown, hown']
  have hfind : Tbl.findFrom {} s.obj.queues (fun q => !q.live) 0 1024 = some q :=
    Tbl.findFrom_first (by simpa [getQueue] using hfree) 1024 0 (Nat.zero_le q) (by omega) (fun j _ h => by simpa [getQueue] using hlow j h)
  have hid' (x : MotEntry) : ctxId (setMot s (field (le32 r.p 4) 15 0) x) c = leNat r.p 0 2 := hid
  simp only [queueCreate, ctxId_lt hl, hrange, withCtx_own hl hr, hring, hfence', he, hg, hfit, hid, hid', howner, hfind, if_false]
  rfl

/-- Descriptors none of which has failed stay. -/
theorem dropFailed_none {l : List Desc} (h : ∀ d ∈ l, d.failed = none) : dropFailed l = (l, 0) := by
  cases l with
  | nil => rfl
  | cons d l => simp [dropFailed, h d (List.mem_cons_self ..)]

/-- A DRAINING queue with work in flight that has not failed is left (R88). -/
theorem settle_inflight {q : Nat} {x : Queue} {s : State} (hl : x.live = true) (hd : x.state = .draining) (hf : ∀ d ∈ x.inflight, d.failed = none)
    (hi : x.inflight ≠ []) : settle q (setQueue s q x) = setQueue (setQueue s q x) q x := by
  have hsame : { x with live := true, state := .draining, retired := x.retired + BitVec.ofNat 32 0 } = x := by
    cases x
    cases hl
    cases hd
    simp
  unfold settle
  simp only [getQueue_setQueue, hl, hd, and_self, if_true, dropFailed_none hf, hi, false_and, if_false]
  exact congrArg (setQueue _ q) hsame

/-- QUEUE_DESTROY of an own live queue that is not DRAINING is accepted. -/
theorem queueDestroy_accepts {r : Req} {s : State} {c : Nat} {x : Queue} (hmode : leNat r.p 2 1 ≤ 1) (hq : leNat r.p 0 2 < 1024)
    (hx : getQueue s (leNat r.p 0 2) = x) (hlive : x.live = true) (hd : x.state ≠ .draining) (hl : localCtx s x.ctx.toNat = some c)
    (hm : mineCtx r s (getCtx s c) = true) (hr : inReset (getCtx s c) = false) (hf : pendingFull s r.m = false) :
    queueDestroy r s = accepted r (fun k s => settle (leNat r.p 0 2) (setQueue s (leNat r.p 0 2)
      { x with state := .draining, stopped := x.state == .halted || leNat r.p 2 1 == 1,
               destroy := some (k, leNat r.p 2 1 == 1 && !(x.state == .halted)) })) s := by
  have hrange : ¬ (1 < leNat r.p 2 1 ∨ 1024 ≤ leNat r.p 0 2 ∨ ¬ x.live = true ∨ x.state = .draining) := by
    simp only [hlive, hd, not_true_eq_false, or_false]
    omega
  simp only [queueDestroy, hx, hrange, hl, hm, hr, if_false, not_true_eq_false, Bool.false_eq_true, acceptOr_free hf]

/-- Settles O14: the creation answers at once, and the destroy is accepted and leaves the queue DRAINING over its work in flight. -/
theorem queueCommands : Obligations.QueueCommands := by
  intro m s p u i j e g q0 x
  refine ⟨fun hk htarget h4 h12 hmask c hl hm hr hkind hgen hplace hperm hsize hfence hgen' hown hown' q hq hfree hlow => ?_,
    fun hk hmode hq hlive hd c hl hm hr hf hi => ?_⟩
  · exact answers_of_done _ rfl hk (queueCreate_creates (s := u) htarget h4 h12 hmask hl (mineCtx_of hm) hr rfl hkind hgen hplace hperm hsize rfl
      hfence hgen' hown hown' hq hfree hlow) rfl
  · obtain ⟨hasked, hfull⟩ := askedLong_iff.mp hk
    obtain ⟨hobj, -, -, -, hswarm, -⟩ := acceptedState_rest s m
    have hacc := queueDestroy_accepts (r := reqOf s m) (s := u) hmode hq rfl hlive hd hl (mineCtx_of hm) hr hfull
    let y : Queue := { x with
      state := .draining, stopped := x.state == .halted || leNat p 2 1 == 1,
      destroy := some (refOf s m, leNat p 2 1 == 1 && !(x.state == .halted)) }
    have hrun := settle_inflight (q := q0) (x := y) (s := acceptedState s m) hlive rfl hf hi
    have hset : setQueue (setQueue (acceptedState s m) q0 y) q0 y
        = { acceptedState s m with obj := (setQueue (setQueue s q0 y) q0 y).obj } := by simp only [setQueue, hobj]
    exact answers_of_run _ rfl hasked hacc (hrun.trans hset) (congrArg Swarm.node hswarm)

/-! ### Fences and monitor slots -/

/-- FENCE_CREATE for an own context takes the lowest free entry (R54, R89). -/
theorem fenceCreate_creates {r : Req} {s : State} {c j : Nat} (hv : leNat r.p 8 8 < 2 ^ 63) (hl : localCtx s (leNat r.p 0 2) = some c)
    (hm : mineCtx r s (getCtx s c) = true) (hr : inReset (getCtx s c) = false) (hj : freeEntry s = some j) :
    fenceCreate r s = okay (setFence (setMot s j
        { gen := (getMot s j).gen, base := fenceAddr s j, perm := 0xD, kind := 2, lock := 2, owner := BitVec.ofNat 16 (leNat r.p 0 2),
          creator := creatorByte s c, place := 2 }) j (BitVec.ofNat 64 (leNat r.p 8 8)))
      (toLE 4 (BitVec.ofNat 32 (j + 65536 * (getMot s j).gen.toNat) : W32).toNat ++ toLE 8 (fenceAddr s j)) := by
  have haddr (x : MotEntry) : fenceAddr (setMot s j x) j = fenceAddr s j := rfl
  simp only [fenceCreate, ctxId_lt hl, Nat.not_le.mpr hv, withOwnCtx_mine hl hm hr, hj, if_false, handleOf, getMot_setMot, haddr]

/-- The kind of a fence's signals open again in its lock bits: KEEPER_LOCK stays. -/
theorem bitOf_clearKind (l : BitVec 4) : bitOf (setBit (setBit l 2 false) 3 false) 2 = false
    ∧ bitOf (setBit (setBit l 2 false) 3 false) 3 = false ∧ bitOf (setBit (setBit l 2 false) 3 false) 1 = bitOf l 1 := by
  simp [bitOf_setBit]

/-- The objects after the recycle of fence `i` to value `v`: its word, and its entry `e` with the kind of its signals open again (R89, R91). -/
def recycled (i v : Nat) (e : MotEntry) (o : Objects) : Objects :=
  { o with
    mot := Tbl.set {} o.mot i { e with lock := setBit (setBit e.lock 2 false) 3 false, signalled := 0, shadow := 0 },
    fences := Tbl.set 0 o.fences i (BitVec.ofNat 64 v) }

/-- The recycled fence's word, the other words, and its entry. -/
theorem recycled_get (i v : Nat) (e : MotEntry) (o : Objects) :
    Tbl.get 0 (recycled i v e o).fences i = BitVec.ofNat 64 v
    ∧ (∀ k, k ≠ i → Tbl.get 0 (recycled i v e o).fences k = Tbl.get 0 o.fences k)
    ∧ Tbl.get {} (recycled i v e o).mot i = { e with lock := setBit (setBit e.lock 2 false) 3 false, signalled := 0, shadow := 0 } :=
  ⟨Tbl.get_set_self _ _ _ _, fun _ hk => Tbl.get_set_ne hk, Tbl.get_set_self _ _ _ _⟩

/-- FENCE_RECYCLE of an own poisoned fence `i` to a value above its last normal one (R54, R89): but for the queues, the objects are those of
`recycled`. -/
theorem fenceRecycle_recycles {r : Req} {s : State} {i v : Nat} {e : MotEntry} (hi : field (le32 r.p 0) 15 0 = i) (hx : leNat r.p 8 8 = v)
    (hv : v < 2 ^ 63) (he : getMot s i = e) (hkind : e.kind = 2) (hgen : e.gen.toNat = field (le32 r.p 0) 31 16) (hm : mineObj r s e = true)
    (hr : (localCtx s e.owner.toNat).any (fun c => inReset (getCtx s c)) = false) (hp : bitOf (fenceWord s i) 63 = true) (hup : e.shadow < v) :
    ∃ t, fenceRecycle r s = okay { s with obj := t } [] ∧ fenceWord { s with obj := t } i = BitVec.ofNat 64 v
      ∧ (∀ k, k ≠ i → fenceWord { s with obj := t } k = fenceWord s k)
      ∧ getMot { s with obj := t } i = { e with lock := setBit (setBit e.lock 2 false) 3 false, signalled := 0, shadow := 0 }
      ∧ t.ctxs = s.obj.ctxs ∧ t.slots = s.obj.slots ∧ t.signals = s.obj.signals := by
  have hlast : ¬ v ≤ lastValue s i e := by
    simp only [lastValue, hp, if_true]
    omega
  subst he hi
  obtain ⟨hword, hothers, hentry⟩ := recycled_get (field (le32 r.p 0) 15 0) v (getMot s (field (le32 r.p 0) 15 0)) s.obj
  have hnamed : ∃ qs, fenceRecycle r s
      = okay { s with obj := { recycled (field (le32 r.p 0) 15 0) v (getMot s (field (le32 r.p 0) 15 0)) s.obj with queues := qs } } [] := by
    simp only [fenceRecycle, hx]
    rw [if_neg (Nat.not_le.mpr hv), withObject_mine (by omega) hgen (by simp [hkind, hlast]) hm hr]
    simp only [hp, not_true_eq_false, if_false]
    exact ⟨_, rfl⟩
  obtain ⟨qs, hrec⟩ := hnamed
  exact ⟨_, hrec, hword, hothers, hentry, rfl, rfl, rfl⟩

/-- The slots after a run of them has been given. -/
theorem foldl_setSlot (x : Slot) (n : Nat) : ∀ (k : Nat) (s : State),
    ∃ t, (upFrom k n).foldl (fun s i => setSlot s i x) s = { s with obj := { s.obj with slots := t } }
      ∧ ∀ j, Tbl.get {} t j = if k ≤ j ∧ j < k + n then x else getSlot s j := by
  induction n with
  | zero => exact fun k s => ⟨s.obj.slots, rfl, fun j => by rw [if_neg (by omega)]; rfl⟩
  | succ n ih =>
    intro k s
    obtain ⟨t, ht, hget⟩ := ih (k + 1) (setSlot s k x)
    refine ⟨t, ht, fun j => ?_⟩
    rw [hget]
    by_cases hj : j = k
    · subst hj
      rw [if_neg (by omega), if_pos (by omega), getSlot_setSlot]
    · have : k + 1 ≤ j ∧ j < k + 1 + n ↔ k ≤ j ∧ j < k + (n + 1) := by omega
      simp only [this, getSlot_setSlot_ne s k x j hj]

/-- MONITOR_ALLOC for an own context gives the lowest free run of slots (R54, R94). -/
theorem monitorAlloc_gives {r : Req} {s : State} {c n k : Nat} (hl : localCtx s (leNat r.p 0 2) = some c) (hm : mineCtx r s (getCtx s c) = true)
    (hr : inReset (getCtx s c) = false) (hn : leNat r.p 2 2 = n) (h1 : 1 ≤ n) (h4096 : n ≤ 4096) (hk : freeSlotRun s n = some k) :
    monitorAlloc r s = okay ((upFrom k n).foldl (fun s i => setSlot s i { ctx := some (BitVec.ofNat 16 (leNat r.p 0 2)) }) s) (toLE 2 k) := by
  obtain ⟨hid, -, -⟩ := ctxId_of_localCtx hl
  have hrange : ¬ (n = 0 ∨ 4096 < n) := by omega
  have hloop (t : State) (ht : t.swarm = s.swarm) (l : List Nat) :
      l.foldl (fun s i => setSlot s i { ctx := some (BitVec.ofNat 16 (ctxId s c)) }) t
        = l.foldl (fun s i => setSlot s i { ctx := some (BitVec.ofNat 16 (leNat r.p 0 2)) }) t := by
    induction l generalizing t with
    | nil => rfl
    | cons i l ih =>
      have hid' : ctxId t c = leNat r.p 0 2 := by rw [← hid, ctxId, ctxId, ht]
      rw [List.foldl_cons, List.foldl_cons, hid']
      exact ih _ ht
  simp only [monitorAlloc, ctxId_lt hl, hn, hrange, withOwnCtx_mine hl hm hr, hk, hloop s rfl, if_false]

/-- Settles O15: each clause is the command's own answer to a request asked. -/
theorem fenceAndMonitorCommands : Obligations.FenceAndMonitorCommands := by
  intro m s p u i e w
  refine ⟨fun hk hv c hl hm hr j hj => ?_, fun hk hv hkind hgen hm hr hp hup => ?_, fun hk c n k hl hm hr hn h1 h4096 hrun => ?_⟩
  · exact answers_of_done _ rfl hk (fenceCreate_creates (s := u) hv hl (mineCtx_of hm) hr hj) rfl
  · obtain ⟨t, hrec, hword, hothers, hentry, hctxs, hslots, hsignals⟩ :=
      fenceRecycle_recycles (r := reqOf s m) (s := u) rfl rfl hv rfl hkind hgen (mineObj_of hm) hr hp hup
    exact ⟨t, answers_of_done _ rfl hk hrec rfl, hword, hothers, ⟨_, hentry, bitOf_clearKind e.lock⟩, hctxs, hslots, hsignals⟩
  · obtain ⟨t, ht, hget⟩ := foldl_setSlot { ctx := some (BitVec.ofNat 16 (leNat p 0 2)) } n k u
    exact ⟨t, answers_of_done _ rfl hk ((monitorAlloc_gives (s := u) hl (mineCtx_of hm) hr hn h1 h4096 hrun).trans (by rw [ht]; rfl)) rfl, hget⟩

end Sys2Proof.Machine
end

section
/-! The staged-commit commands, and the application of a staged block (R60-R62, R198). -/

namespace Sys2Proof.Machine

/-! ### REG_STAGE -/

/-- What a table holds after a write whose own default is another: the value at its key, the rest as before. -/
theorem Tbl.get_set_default {α : Type} [DecidableEq α] (d : Nat → α) (t : Tbl α) (k i : Nat) (v : α) :
    Tbl.get (d i) (Tbl.set (d k) t k v) i = if i = k then v else Tbl.get (d i) t i := by
  by_cases h : i = k
  · subst h
    simp
  · unfold Tbl.set
    split <;> simp [Tbl.get_del, Tbl.get_put, h]

/-- REG_STAGE of staged bits of a register whose block no other mailbox holds (R55, R61). -/
theorem regStage_stages {r : Req} {s : State} {q : RegPlace} (hz : zeroIn r.p 6 8 = true) (ha : leNat r.p 0 6 % 4 = 0)
    (hn : addrNode (leNat r.p 0 6) = s.swarm.node) (hq : placeAt (leNat r.p 0 6) = some q) (hm : mayWriteReg s r.m q = true)
    (h0 : le32 r.p 12 &&& stagedMask q ≠ 0) (hd : dieDown s q.die = false)
    (hh : (getBlock s (blockOf s q)).holder = none ∨ (getBlock s (blockOf s q)).holder = some r.m) (hp : (getBlock s (blockOf s q)).pending = none) :
    ∃ st, regStage r s = okay (setBlock s (blockOf s q) { getBlock s (blockOf s q) with staging := st, holder := some r.m }) []
      ∧ st = Tbl.set (blockDefault (blockOf s q) q.word)
          (if (getBlock s (blockOf s q)).holder.isNone then (getBlock s (blockOf s q)).inForce else (getBlock s (blockOf s q)).staging) q.word
          ((Tbl.get (blockDefault (blockOf s q) q.word)
            (if (getBlock s (blockOf s q)).holder.isNone then (getBlock s (blockOf s q)).inForce else (getBlock s (blockOf s q)).staging) q.word
              &&& ~~~(le32 r.p 12 &&& stagedMask q)) ||| (le32 r.p 8 &&& (le32 r.p 12 &&& stagedMask q))) := by
  have hmay : ¬ (some q).any (fun p => !mayWriteReg s r.m p) = true := by simp [hm]
  have hheld : ¬ ((getBlock s (blockOf s q)).holder.isSome = true ∧ (getBlock s (blockOf s q)).holder ≠ some r.m) := by
    rcases hh with hh | hh <;> simp [hh]
  refine ⟨_, ?_, rfl⟩
  simp only [regStage, hq, hmay, hz, ha, hn, h0, hd, hheld, hp, if_false, not_true_eq_false, ne_eq, Bool.false_eq_true, Option.isSome_none]

/-! ### COMMIT and STAGE_DISCARD -/

/-- COMMIT of the fault policy by the Owner that holds it, up to its generation (R62). -/
theorem commit_policy {r : Req} {s : State} (hk : blockKind (leNat r.p 0 4) = some .policy) (hm : r.m = 0) (hn : leNat r.p 0 4 % 256 = s.swarm.node)
    (hh : (getBlock s (leNat r.p 0 4)).holder = some r.m) (hp : (getBlock s (leNat r.p 0 4)).pending = none) :
    commit r s = if le16 r.p 4 ≠ (getBlock s (leNat r.p 0 4)).gen + 1 then reject s 0x2003
      else if ¬ kpolOk (stagingGet s (leNat r.p 0 4)) = true then reject s 0x1006
      else acceptOr r (beginCommit (leNat r.p 0 4) (le16 r.p 4) .policy) s := by
  have hmay : mayNamed s r.m (some .policy) = true := by simp [mayNamed, mayBlock, hm]
  simp only [commit, hk, hmay, hn, hh, hp, stagedOk, and_false, if_false, not_true_eq_false, ne_eq, Bool.false_eq_true, Option.isSome_none,
    Option.isNone_some]

/-- STAGE_DISCARD of a block that no other mailbox holds and without a COMMIT (R61). -/
theorem stageDiscard_discards {r : Req} {s : State} {k : BlockKind} (hk : blockKind (leNat r.p 0 4) = some k) (hm : mayBlock s r.m k = true)
    (hn : leNat r.p 0 4 % 256 = s.swarm.node)
    (hh : (getBlock s (leNat r.p 0 4)).holder = none ∨ (getBlock s (leNat r.p 0 4)).holder = some r.m)
    (hp : (getBlock s (leNat r.p 0 4)).pending = none) :
    stageDiscard r s = okay (setBlock s (leNat r.p 0 4) { getBlock s (leNat r.p 0 4) with staging := [], holder := none }) [] := by
  have hmay : mayNamed s r.m (some k) = true := hm
  have hheld : ¬ ((getBlock s (leNat r.p 0 4)).holder.isSome = true ∧ (getBlock s (leNat r.p 0 4)).holder ≠ some r.m) := by
    rcases hh with hh | hh <;> simp [hh]
  simp only [stageDiscard, hk, hmay, hn, hheld, hp, if_false, not_true_eq_false, ne_eq, Bool.false_eq_true, Option.isSome_none]

/-- The acceptance of a request leaves every staged block. -/
@[simp] theorem getBlock_acceptedState (s : State) (m id : Nat) : getBlock (acceptedState s m) id = getBlock s id := rfl

@[simp] theorem mayBlock_taken (s : State) (m k : Nat) (b : BlockKind) : mayBlock (taken s m) k b = mayBlock s k b := by
  cases b <;> simp [mayBlock]

/-! ### The application of a block (R62, R198) -/

/-- A pending COMMIT not yet applied, whose mailbox is bound, takes effect and has its outcome. -/
theorem applyBlock_pending {id : Nat} {c : CmdRef} {s : State} (hc : (getBlock s id).pending = some c) (ho : (getBlock s id).orphan = false)
    (ha : (getBlock s id).applied = false) :
    applyBlock id s = finishCmd c 0 (toLE 2 ((getBlock s id).gen + 1).toNat)
      (setBlock s id { getBlock s id with inForce := (getBlock s id).staging, gen := (getBlock s id).gen + 1, applied := true }) := by
  simp only [applyBlock, hc, ha, settleBlock, ho, Bool.false_eq_true, if_false]

/-- The next switch is the host's, or there is none. -/
theorem nextSwitch_host {n : Nat} {s : State} (h : ∀ y ∈ s.net.waiting.head?, y < 8) :
    nextSwitch (n + 1) s = { s with net := { s.net with switching := s.net.waiting.head?, waiting := s.net.waiting.tail } } := by
  unfold nextSwitch
  cases hw : s.net.waiting with
  | nil => simp [hw]
  | cons y l =>
    have hy : ¬ (8 ≤ y ∧ drained { s with net := { s.net with switching := some y, waiting := l } } (y - 8) = true) := by
      have : y < 8 := h y (by simp [hw])
      omega
    simp only [hy, if_false]
    rfl

/-- An ingress without packets is served without effect on any port, and on nothing else. -/
theorem serveIngress_empty {p : Nat} {s : State} (h : (getSlink s p).ingress = []) :
    (∃ l, serveIngress p s = { s with swarm := { s.swarm with ports := l } }) ∧ ∀ k, getSlink (serveIngress p s) k = getSlink s k := by
  have hx : { getSlink s p with ingress := [] } = getSlink s p := by rw [← h]
  have hserve : serveIngress p s = setSlink (setSlink s p (getSlink s p)) p (getSlink s p) := by
    simp only [serveIngress, h, hx, List.foldl_nil, getSlink_setSlink, List.append_nil]
  rw [hserve]
  refine ⟨⟨_, rfl⟩, fun k => ?_⟩
  by_cases hk : k = p
  · rw [hk, getSlink_setSlink]
  · rw [getSlink_setSlink_ne _ _ _ _ hk, getSlink_setSlink_ne _ _ _ _ hk]

/-- Ingresses without packets are served without effect on any port, and on nothing else. -/
theorem serveAll_empty {s : State} (h : ∀ p, p < 6 → (getSlink s p).ingress = []) :
    (∃ l, serveAll s = { s with swarm := { s.swarm with ports := l } }) ∧ ∀ k, getSlink (serveAll s) k = getSlink s k := by
  have served (ps : List Nat) (hps : ∀ p ∈ ps, p < 6) (t : State) (ht : ∃ l, t = { s with swarm := { s.swarm with ports := l } })
      (hk : ∀ k, getSlink t k = getSlink s k) :
      (∃ l, ps.foldl (fun s p => serveIngress p s) t = { s with swarm := { s.swarm with ports := l } })
        ∧ ∀ k, getSlink (ps.foldl (fun s p => serveIngress p s) t) k = getSlink s k := by
    induction ps generalizing t with
    | nil => exact ⟨ht, hk⟩
    | cons p ps ih =>
      obtain ⟨hp, hps⟩ := List.forall_mem_cons.mp hps
      obtain ⟨⟨l, hl⟩, hsame⟩ := serveIngress_empty (p := p) (s := t) (by rw [hk, h p hp])
      obtain ⟨l', rfl⟩ := ht
      exact ih hps _ ⟨l, hl⟩ (fun k => (hsame k).trans (hk k))
  exact served (upFrom 0 6) (fun p hp => by simpa using hp) s ⟨_, rfl⟩ (fun _ => rfl)

/-- The free values do not move a port. -/
theorem getSlink_free (t : State) (n k : Nat) : getSlink { t with free := n } k = getSlink t k := rfl

/-- Settles O24: the commands' own answers, the pending COMMIT applied, and the end of a drain with no packet and no signal waiting. -/
theorem stagedCommit : Obligations.StagedCommit := by
  refine ⟨fun m s => ?_, fun id s c hc ho ha hid => ?_, fun die s c hd hsw hdr hc ho ha => ?_, fun die s hd hdr hin => ?_⟩
  · intro p u a id b
    refine ⟨fun hk q hz ha hn hq hm => ?_, fun hk hkind hm hn hh hp hg hok => ?_, fun hk hkind hm hn hh hp hg => ?_,
      fun hk k hkind hm hn hh hp => ?_⟩
    · intro k x mask old h0 hdown hh hp
      obtain ⟨st, hst, hval⟩ := regStage_stages (r := reqOf s m) (s := u) hz ha hn hq ((mayWriteReg_taken s m m q).trans hm) h0 hdown hh hp
      refine ⟨st, answers_of_done _ rfl hk hst rfl, fun w => ?_⟩
      rw [hval]
      refine (Tbl.get_set_default (blockDefault k) _ q.word w _).trans ?_
      split
      next h => rw [h]; rfl
      next => rfl
    · obtain ⟨hasked, hfull⟩ := askedLong_iff.mp hk
      obtain ⟨-, -, -, -, hswarm, -⟩ := acceptedState_rest s m
      have hacc := (commit_policy (r := reqOf s m) (s := u) hkind hm hn hh hp).trans
        ((if_neg (not_not.mpr hg)).trans ((if_neg (not_not.mpr hok)).trans (acceptOr_free hfull)))
      have hrun : beginCommit id (le16 p 4) .policy (refOf s m) (acceptedState s m)
          = setBlock (acceptedState s m) id { b with pending := some (refOf s m) } := by
        rw [beginCommit, getBlock_acceptedState]
      exact answers_of_run _ rfl hasked hacc hrun (congrArg Swarm.node hswarm)
    · exact answers_of_done _ rfl hk ((commit_policy (s := u) hkind hm hn hh hp).trans (if_pos hg)) rfl
    · exact answers_of_done _ rfl hk (stageDiscard_discards (s := u) hkind ((mayBlock_taken s m m k).trans hm) hn hh hp) rfl
  · show inRange true (commitApply id.toNat s) = _
    rw [commitApply, if_pos hid, hid, applyBlock_pending hc ho ha]
    rfl
  · intro b done
    have happly : applyBlock (routeId s die) s = done := applyBlock_pending hc ho ha
    have hend : routeSwitchDrainEnd die s = releaseHeld (nextSwitch (s.net.waiting.length + 1) done) := by
      simp only [routeSwitchDrainEnd, hdr, hsw, happly, not_true_eq_false, if_false, if_true]
    have he : exec (.routeSwitchDrainEnd die) s = inRange true (serveAll (releaseHeld (nextSwitch (s.net.waiting.length + 1) done))) := by
      rw [← hend, ← decide_eq_true hd]
      rfl
    refine ⟨_, he, fun hheld hin hwait => ?_⟩
    let v : State := { done with net := { done.net with switching := done.net.waiting.head?, waiting := done.net.waiting.tail } }
    have hnext : nextSwitch (s.net.waiting.length + 1) done = v := nextSwitch_host hwait
    have hquiet : releaseHeld v = v := releaseHeld_none hheld
    rw [hnext, hquiet]
    obtain ⟨⟨l, hl⟩, hports⟩ := serveAll_empty (s := v) hin
    have hswarm : v.swarm = s.swarm := rfl
    refine ⟨?_, ?_, fun k => (getSlink_free _ _ k).trans ((hports k).trans (by simp only [getSlink, hswarm])), ?_, ?_, ?_⟩ <;> rw [hl] <;> rfl
  · have hsame : routeSwitchDrainEnd die s = s := by simp [routeSwitchDrainEnd, hdr]
    have he : exec (.routeSwitchDrainEnd die) s = inRange true (serveAll s) := by
      rw [← decide_eq_true hd]
      exact congrArg (fun t => inRange (decide (die < 6)) (serveAll t)) hsame
    obtain ⟨⟨l, hl⟩, -⟩ := serveAll_empty hin
    exact ⟨_, he, by rw [hl], by rw [hl], by rw [hl]⟩

end Sys2Proof.Machine
end

section
/-! HM1_MSG while another message is out (R45, R493). -/

namespace Sys2Proof.Machine

/-- The Owner asks for an HM1_MSG of one byte on link 0, which is up, while an earlier message on it is not yet answered. -/
def messageOut : State :=
  { keeper := { mbx := [(0, { bound := some 116, rung := true, reqTail := 1 })] },
    boot := { step := 8 },
    mem := { bytes := putBytes 0 [] 0x280800000000 [0x01, 0x08, 0x20, 7, 54, 0, 0, 0, 0, 1, 16] },
    holmi := { pkg := [(0, { up := true })], seen := [(0, { msg := some (.mailbox 0) })] } }

/-- Refutes O59: a request held while another message is out leaves the round gone on past its mailbox (R39, R45), so the state is not
as it was: the Keeper has a round in progress that it did not have. -/
theorem not_holmiLinkTraffic : ¬ Obligations.HolmiLinkTraffic := by
  intro h
  obtain ⟨hmsg, -⟩ := h.1 0 messageOut (by decide)
  obtain ⟨-, -, -, hheld, -⟩ := hmsg (by decide +kernel)
  have hsame : exec (.hm1Msg 0) messageOut = .next { messageOut with free := messageOut.free + 1 } :=
    hheld (Or.inl rfl) (by decide +kernel) (by decide +kernel) (by decide +kernel)
  obtain ⟨t, ht, hround⟩ : ∃ t, exec (.hm1Msg 0) messageOut = .next t ∧ t.keeper.round ≠ [] :=
    ⟨_, rfl, by decide +kernel⟩
  exact hround (congrArg (fun t => t.keeper.round) (Host.Outcome.next.inj (ht.symm.trans hsame)))

end Sys2Proof.Machine
end

section
/-! SELF_TEST that retires a die with an armed collective (R229, R289, R502). -/

namespace Sys2Proof.Machine

/-- The Owner asks for the stores' test (R501) while no context is live and slot 0 of Comb die 0 holds an armed collective, which signals
fence 0. -/
def collectiveLeft : State :=
  { keeper := { mbx := [(0, { bound := some 116, rung := true, reqTail := 1 })] },
    boot := { step := 8 },
    power := { pkg := .ready },
    mem := { bytes := putBytes 0 [] 0x280800000000 [0x01, 0x09, 0x20, 7, 4, 0, 0, 0, 1] },
    cmp := { slots := [(0, { state := .armed, fence := 0x280800100000 })] },
    obj := { mot := [(0, { kind := 2 })] } }

/-- The resource of Comb die 0 of node 0. -/
def combDie0 : W32 := 0x40000000

/-- A state that the test can meet: the objects, the units and the package's place in the swarm as they were, and every die in service. -/
def UnitsOfCollectiveLeft (v : State) : Prop :=
  v.obj = collectiveLeft.obj ∧ v.cmp = collectiveLeft.cmp ∧ v.swarm = collectiveLeft.swarm ∧ v.faults.dies = []

/-- The collective that fails as its die is lost poisons its fence (R229). -/
theorem fenceWord_dieCollFail {v : State} (ho : v.obj = collectiveLeft.obj) (hc : v.cmp = collectiveLeft.cmp)
    (hs : v.swarm = collectiveLeft.swarm) : fenceWord (dieCollFail 0 v) 0 = 0xD007000000000000 := by
  have hbit : bitOf 0#64 63 = false := by decide
  obtain ⟨⟩ := v
  simp only at ho hc hs
  subst ho hc hs
  simp [dieCollFail, collectiveLeft, collFail, collFailWith, sameColl, getColl, Tbl.get, setColl, liveFence, fenceIndex, fenceBaseLoc,
    addrNode, addrDie, addrLoc, getMot, poison, fenceWord, setMot, setFence, hbit, Tbl.get_set_self]

/-- Where no port is UP and no context lives, the recovery of die 0 fails the collective and does nothing else to the objects. -/
theorem fenceWord_startRecovery {v : State} (h : UnitsOfCollectiveLeft v) : fenceWord (startRecovery 0 none [] v) 0 = 0xD007000000000000 := by
  obtain ⟨ho, hc, hs, hd⟩ := h
  have hport : ∀ p, getSlink v p = {} := fun p => by simp [getSlink, hs, collectiveLeft]
  have hctx : liveCtxs v = [] := by simp [liveCtxs, ho, collectiveLeft]
  have hleave : (portsOfDie 0).foldl (fun s p => leaveUp p s) v = v := by simp [portsOfDie, leaveUp, hport]
  have hdie : (getDie v 0).state = .inService := by simp [getDie, hd]
  simp only [startRecovery, hleave, hctx, hdie, List.filter_nil, List.foldl_nil, Nat.zero_lt_succ, and_self, if_true]
  exact fenceWord_dieCollFail ho hc hs

/-- Die 0 retired at once poisons the fence. -/
theorem fenceWord_retireNow {v : State} (h : UnitsOfCollectiveLeft v) : fenceWord (retireNow combDie0 v) 0 = 0xD007000000000000 := by
  have hclass : resClass combDie0 = 4 := by decide
  have hindex : resIndex combDie0 % 6 = 0 := by decide
  simp only [retireNow, hclass, hindex, retireDie, fenceWord, Nat.zero_ne_add_one, if_false]
  rw [foldl_keeps State.obj (fun s c => (finishCmd_rest c 0x2001 [] s).1)]
  exact fenceWord_startRecovery h

/-- A write changes the memory alone. -/
theorem memWrite_mem_only (s : State) (a : Nat) (l : Bytes) : memWrite s a l = { s with mem := (memWrite s a l).mem } := by
  unfold memWrite
  split <;> rfl

/-- Bytes lost change the memory alone. -/
theorem loseBytes_mem_only {s v : State} (a n : Nat) (h : ∃ m, v = { s with mem := m }) : ∃ m, loseBytes a n v = { s with mem := m } := by
  obtain ⟨m, rfl⟩ := h
  exact ⟨_, memWrite_mem_only _ _ _⟩

/-- The tests of the stores change the memory alone (R501). -/
theorem testEffect_stores (s : State) {t : Nat} (ht : t < 2) : ∃ m, testEffect s t = { s with mem := m } := by
  simp only [testEffect, ht, if_true]
  exact foldl_preserves (P := fun v => ∃ m, v = { s with mem := m })
    (fun _ _ hv => foldl_preserves (P := fun v => ∃ m, v = { s with mem := m }) (fun _ _ => loseBytes_mem_only _ _) _ hv) _ ⟨s.mem, rfl⟩

/-- A record leaves the objects, the units, the place in the swarm and the state of the dies as they are. -/
theorem record_units (r : FaultRecord) (s : State) :
    (record r s).obj = s.obj ∧ (record r s).cmp = s.cmp ∧ (record r s).swarm = s.swarm ∧ (record r s).faults.dies = s.faults.dies := by
  unfold record
  refine ⟨rfl, rfl, rfl, ?_⟩
  dsimp only
  split
  · rfl
  · split
    · rfl
    · split <;> rfl

/-- What the test finds of die 0 where only the stores are tested: it fails, and was not retired before. -/
theorem runTests_combDie0 {v : State} (h : UnitsOfCollectiveLeft v) (hn : testsRun v 1 0 = [0]) (hc : testCovers v 0 combDie0 = true)
    (hr : v.faults.retired = []) : fenceWord (runTests 1 0 [combDie0] v).1 0 = 0xD007000000000000 := by
  obtain ⟨ho, hu, hs, hd⟩ := h
  obtain ⟨m, hm⟩ := testEffect_stores v (Nat.zero_lt_two)
  have hclass : resClass combDie0 < 8 := by decide
  have honce : [combDie0].eraseDups = [combDie0] := by decide
  simp only [runTests, hn, hr, hc, honce, List.find?_cons, List.find?_nil, List.filter_cons, List.filter_nil, Option.isSome_some,
    if_true, List.foldl_cons, List.foldl_nil, hm, hclass, decide_true, List.contains_nil, Bool.not_false, Bool.and_true]
  refine fenceWord_retireNow ?_
  obtain ⟨h1, h2, h3, h4⟩ := record_units (testRecord { v with mem := m } ((some 0).getD 0) combDie0) { v with mem := m }
  exact ⟨h1.trans ho, h2.trans hu, h3.trans hs, h4.trans hd⟩

/-- The test asked for is accepted (R43, R501). -/
theorem selfTest_collectiveLeft : selfTest 0 [combDie0] (reqOf collectiveLeft 0) (taken collectiveLeft 0)
    = accepted (reqOf collectiveLeft 0) (fun c s => finishCmd c 0 (runTests 1 0 [combDie0] s).2 (runTests 1 0 [combDie0] s).1) (taken collectiveLeft 0) := by
  have hmask : le32 (reqOf collectiveLeft 0).p 0 = 1 := by decide +kernel
  have hfull : pendingFull (taken collectiveLeft 0) (reqOf collectiveLeft 0).m = false := by decide +kernel
  have hfree : ¬ ((taken collectiveLeft 0).obj.ctxs.any (fun e => e.2.live) ∨ (taken collectiveLeft 0).power.pkg ≠ .ready
      ∨ (taken collectiveLeft 0).power.supply ≠ .normal ∨ cmdPending (taken collectiveLeft 0) 0x0901
      ∨ ((bitOf (1 : W32) 2 ∨ bitOf (1 : W32) 4)
        ∧ (upFrom 0 7).any (fun k => (getRegion (taken collectiveLeft 0) k).state == .held || (getRegion (taken collectiveLeft 0) k).state == .running))) := by
    decide +kernel
  have hhigh : field (1 : W32) 31 9 = 0 := by decide
  simp only [selfTest, hmask, hhigh, ne_eq, not_true, if_false]
  rw [if_neg hfree, acceptOr_free hfull]

/-- The run of the test poisons fence 0. -/
theorem runTests_collectiveLeft : fenceWord (runTests 1 0 [combDie0] (acceptedState collectiveLeft 0)).1 0 = 0xD007000000000000 := by
  obtain ⟨ho, -, hc, -, hs, hf⟩ := acceptedState_rest collectiveLeft 0
  refine runTests_combDie0 ⟨ho, hc, hs, by rw [hf]; rfl⟩ ?_ ?_ (by rw [hf]; rfl)
  · decide +kernel
  · decide +kernel

/-- The objects after a long-running command that is accepted are those that its run leaves. -/
theorem obj_of_accepted {op m : Nat} {s t : State} {act : Req → State → Ans} {f : CmdRef → State → State} (i : Instr)
    (hi : exec i s = inRange (decide (m < 32)) (takeUpCard op act m s)) (hm : m < 32) (h : asked op m s = true)
    (ha : act (reqOf s m) (taken s m) = accepted (reqOf s m) f (taken s m)) (ht : exec i s = .next t) :
    t.obj = (f (refOf s m) (acceptedState s m)).obj := by
  rw [hi, takeUpCard_done h ha] at ht
  simp only [inRange, hm, decide_true, if_true, Host.Outcome.next.injEq] at ht
  subst ht
  exact (putMsg_rest m _ _ _ 1 [] _).1

/-- The objects after an answer are those of the state that it is given in. -/
theorem obj_of_answersWith {i : Instr} {m : Nat} {s u : State} {c : W16} {p : Bytes} (h : answersWith i m s c p u) :
    ∃ t, exec i s = .next t ∧ t.obj = u.obj := by
  obtain ⟨t, ht, -, hrest, -⟩ := h
  exact ⟨t, ht, by rw [hrest]⟩

/-- Refutes O50: a SELF_TEST that retires a die fails the collective armed on it, which poisons its fence (R229, R289), so the objects are
not as they were. -/
theorem not_serviceControl : ¬ Obligations.ServiceControl := by
  intro h
  obtain ⟨-, -, -, htest, -⟩ := h 0 collectiveLeft
  obtain ⟨-, -, hrun⟩ := htest 0 [combDie0]
  obtain ⟨e, t, hanswer, hobj, -⟩ :=
    hrun (by decide +kernel) (by decide +kernel) (by decide) (by decide) (by decide) (by decide +kernel) (by decide)
  obtain ⟨v, hv, hvt⟩ := obj_of_answersWith hanswer
  have hsame : v.obj = collectiveLeft.obj := hvt.trans ((finishCmd_rest (refOf collectiveLeft 0) 0 e t).1.trans hobj)
  have hrunObj := obj_of_accepted (.selfTest 0 0 [combDie0]) rfl (by decide) (by decide +kernel) selfTest_collectiveLeft hv
  have hpoison : fenceWord v 0 = 0xD007000000000000 := by
    rw [fenceWord, hrunObj, (finishCmd_rest _ _ _ _).1]
    exact runTests_collectiveLeft
  rw [fenceWord, hsame] at hpoison
  exact absurd hpoison (by decide)

end Sys2Proof.Machine
end

section
/-! The fault, security and lifetime commands that answer with an object (R291, R293, R333, R334, R396, R505). -/

namespace Sys2Proof.Machine

/-! ### Pieces of a byte string -/

/-- A piece that begins where the first of two parts ends. -/
theorem slice_append_right {a : Bytes} (b : Bytes) {i : Nat} (n : Nat) (h : a.length = i) : slice (a ++ b) i n = slice b 0 n := by
  subst h
  simp [slice]

/-- A piece that is the first of two parts. -/
theorem slice_append_left {a : Bytes} (b : Bytes) {n : Nat} (h : a.length = n) : slice (a ++ b) 0 n = a := by
  subst h
  simp [slice]

/-- The whole of a string. -/
theorem slice_whole {a : Bytes} {n : Nat} (h : a.length = n) : slice a 0 n = a := by
  simpa using slice_append_left [] h

/-- A piece from the start of a string that is long enough. -/
theorem take_eq_slice {a : Bytes} {n : Nat} (h : n ≤ a.length) : a.take n = slice a 0 n := by
  simp [slice, h]

/-! ### A destination that a command may write (R333, R507) -/

/-- Object `i` is a destination of `size` bytes at the handle at byte `off`, which the Keeper reaches. -/
def IsDest (r : Req) (s : State) (off size i : Nat) (anyone : Bool) : Prop :=
  resolve s (le32 r.p off) = some i ∧ (getMot s i).kind = 1 ∧ bitOf (getMot s i).perm 1 = true
    ∧ size ≤ 256 * (getMot s i).size ∧ (anyone = true ∨ mineObj r s (getMot s i) = true) ∧ bitOf (getMot s i).lock 0 = false
    ∧ (localCtx s (getMot s i).owner.toNat).any (fun c => inReset (getCtx s c)) = false
    ∧ reachCheck s .keeper (getMot s i).base (256 * (getMot s i).size) = 0

/-- A take-up leaves a destination one. -/
theorem IsDest.taken {r : Req} {s : State} {off size i : Nat} {anyone : Bool} (m : Nat) (h : IsDest r s off size i anyone) :
    IsDest r (taken s m) off size i anyone := h

/-- A command writes to its destination. -/
theorem withDest_reached {r : Req} {s : State} {off size i : Nat} {anyone : Bool} (f : MotEntry → State → Ans)
    (h : IsDest r s off size i anyone) : withDest r off size anyone f s = f (getMot s i) s := by
  obtain ⟨hi, hkind, hperm, hsize, hown, hlock, hreset, hreach⟩ := h
  have hbytes : motBytes (getMot s i) = 256 * (getMot s i).size := by simp [motBytes, hkind]
  have hmine : ¬ (¬ anyone = true ∧ ¬ mineObj r s (getMot s i) = true) := by tauto
  simp only [withDest, hi, hkind, hperm, hlock, hbytes, Nat.not_lt.mpr hsize, hmine, hreset, whenAwake_reached hreach, ne_eq, not_true_eq_false,
    Bool.false_eq_true, or_self, if_false]

/-! ### FAULT_READ (R293) -/

/-- An index not before the oldest record held reads from there on, and names the index after those that had room. -/
theorem readFrom_held {s : State} {m n : Nat} {i : W32} (h : (i - oldestIndex s).toNat < 2 ^ 31) :
    let l := s.faults.log.filter (fun x => decide ((x.index - i).toNat < 2 ^ 31) && mayRead s m x)
    readFrom s m i n = (l.take n, ((l[n]?).map FaultRecord.index).getD s.faults.next) := by
  have hnot : ¬ (0 < (oldestIndex s - i).toNat ∧ (oldestIndex s - i).toNat < 2 ^ 31) := by
    generalize oldestIndex s = o at h ⊢
    bv_omega
  intro l
  simp only [readFrom, hnot, if_false]
  show (l.take n, _) = _
  cases l[n]? <;> simp [l]

/-- FAULT_READ from an index that is held writes the records from there, marks them read and answers their number and the next index. -/
theorem faultRead_held {r : Req} {s : State} {i : Nat} (hd : IsDest r s 4 0 i (decide (r.m ≤ 1))) (hask : le32 r.p 0 ≠ 0xFFFFFFFF)
    (hheld : (le32 r.p 0 - oldestIndex s).toNat < 2 ^ 31) :
    let l := s.faults.log.filter (fun x => decide ((x.index - le32 r.p 0).toNat < 2 ^ 31) && mayRead s r.m x)
    let n := (getMot s i).size / 16
    ∃ v, faultRead r s = .done v 0 (toLE 2 (l.take n).length ++ [0, 0] ++ toLE 4 (((l[n]?).map FaultRecord.index).getD s.faults.next).toNat)
      ∧ v.mem = (memWrite s (getMot s i).base ((l.take n).map recordBytes).flatten).mem ∧ v.obj = s.obj ∧ v.boot = s.boot ∧ v.swarm = s.swarm
      ∧ v.faults = { s.faults with log := s.faults.log.map (fun x => if (l.take n).any (fun y => y.index == x.index) then { x with read := true } else x) } := by
  intro l n
  have hn : motBytes (getMot s i) / 4096 = n := by
    obtain ⟨-, hkind, -⟩ := hd
    have hbytes : motBytes (getMot s i) = 256 * (getMot s i).size := by simp [motBytes, hkind]
    omega
  have hread : readFrom s r.m (le32 r.p 0) n = (l.take n, ((l[n]?).map FaultRecord.index).getD s.faults.next) := readFrom_held hheld
  rw [faultRead, withDest_reached _ hd]
  simp only [hask, ne_eq, not_false_eq_true, if_true, hn, hread]
  cases (l.take n).getLast? <;> exact ⟨_, rfl, by simp [setMbx], by simp [setMbx], by simp [setMbx], by simp [setMbx], by simp [setMbx]⟩

/-! ### ATTEST (R333) -/

/-- A certificate has 1 to 2,048 bytes. -/
theorem certificate_length (l : Bytes) : 1 ≤ (certificate l).length ∧ (certificate l).length ≤ 2048 := by
  unfold certificate
  split
  · simp
  next h => exact ⟨by have := List.length_pos_iff.mpr h; rw [List.length_take]; omega, by simp⟩

/-- The report begins with its mark, and has the nonce at byte 8, of 272 bytes. -/
theorem attestBody_layout {nonce : Bytes} (chain device : Bytes) (s : State) (h : nonce.length = 32) :
    slice (attestBody nonce chain device s) 8 32 = nonce ∧ slice (attestBody nonce chain device s) 0 4 = [0x5A, 0x41, 0x54, 0x54]
    ∧ (attestBody nonce chain device s).length = 272 := by
  have hmark : toLE 4 0x5454415A = [0x5A, 0x41, 0x54, 0x54] := by decide
  refine ⟨?_, ?_, by simp [attestBody]⟩
  · simp only [attestBody, List.append_assoc]
    rw [← List.append_assoc (toLE 4 _), ← List.append_assoc (_ ++ _) (toLE 2 chain.length), slice_append_right _ _ (by simp), slice_append_left _ (by simp),
      slice_whole h]
  · simp only [attestBody, List.append_assoc]
    rw [slice_append_left _ (by simp), hmark]

/-- A write leaves the boot state. -/
theorem memWrite_boot (s : State) (a : Nat) (l : Bytes) : (memWrite s a l).boot = s.boot := by simp

/-- The certificate over the boot measurements (R333). -/
def aliasChain (s : State) : Bytes :=
  certificate (Config.aliasCertificate (toLE 4 (fuseCounter s) ++ [BitVec.ofNat 8 (b2n s.boot.slot)] ++ slice s.boot.manifestDigest 0 48
    ++ slice s.boot.keeperDigest 0 48 ++ slice (Config.sha384 s.boot.opt.raw) 0 48))

/-- ATTEST to a destination writes the report, its signature and the certificates, and counts the signature. -/
theorem attest_reached {r : Req} {s : State} {i : Nat} (hd : IsDest r s 32 8192 i false) :
    let report := attestBody (r.p.take 32) (aliasChain s) (certificate (Config.productionBytes 1 0)) s
    let l := report ++ slice (Config.ecdsaSign 0 s.boot.signatures report) 0 96 ++ aliasChain s ++ certificate (Config.productionBytes 1 0)
    attest r s = .done { memWrite s (getMot s i).base l with boot := { s.boot with signatures := s.boot.signatures + 1 } } 0 (toLE 2 l.length) := by
  simp only [attest, withDest_reached _ hd, okay, memWrite_boot, aliasChain]

/-- The payload of a request has 56 bytes. -/
theorem reqOf_p_length (s : State) (m : Nat) : (reqOf s m).p.length = 56 := by
  simp [reqOf, reqBytes]

/-! ### KEY_RAM_WRITE (R334), SAFETY_STATUS (R396) -/

/-- A record of a failed check leaves the place in the swarm. -/
@[simp] theorem keeperCheckRecord_swarm (a : Nat) (s : State) : (keeperCheckRecord a s).swarm = s.swarm := by
  unfold keeperCheckRecord recordOf
  split <;> rfl

/-- What KEY_RAM_WRITE makes of the 64 bytes at `a`: their check, their slot and their wrapping decide. -/
def wrappedKey (a : Nat) (r : Req) (s : State) : Ans :=
  let b := memRead s a 64
  if ¬ checksOk s a 64 then .done (keeperCheckRecord a s) 0x4003 []
  else if 7 < leNat r.p 0 1 ∨ leNat b 0 1 ≠ leNat r.p 0 1 then reject s 0x4003
  else match Config.gcmOpen (fuseBytes s 5 32) (slice b 4 12) (slice b 0 4) (slice b 16 32) (slice b 48 16) with
    | none => reject s 0x4003
    | some k => okay { s with boot := { s.boot with keyRam := Tbl.set [] s.boot.keyRam (leNat r.p 0 1) (slice k 0 32) } } []

/-- KEY_RAM_WRITE from an object that the Keeper reads. -/
theorem keyRamWrite_readable {r : Req} {s : State} {i : Nat} (hi : resolve s (le32 r.p 4) = some i) (hk : (getMot s i).kind = 1)
    (hp : bitOf (getMot s i).perm 0 = true) (hc : (localCtx s (getMot s i).owner.toNat).any (fun c => inReset (getCtx s c)) = false)
    (hr : reachCheck s .keeper (getMot s i).base 64 = 0) :
    keyRamWrite r s = wrappedKey (getMot s i).base r s := by
  simp only [keyRamWrite, hi, hk, hp, hc, whenAwake_reached hr, ne_eq, not_true_eq_false, or_self, if_false, Bool.false_eq_true]
  rfl

/-- Bytes that fail their check are answered 0x4003, with a record. -/
theorem wrappedKey_bad {a : Nat} {r : Req} {s : State} (h : checksOk s a 64 = false) :
    wrappedKey a r s = .done (keeperCheckRecord a s) 0x4003 [] := by
  simp [wrappedKey, h]

/-- A key for the slot asked for whose wrapping opens is stored. -/
theorem wrappedKey_opens {a : Nat} {r : Req} {s : State} {k : Bytes} (h : checksOk s a 64 = true) (hs : leNat r.p 0 1 ≤ 7)
    (hm : leNat (memRead s a 64) 0 1 = leNat r.p 0 1)
    (hk : Config.gcmOpen (fuseBytes s 5 32) (slice (memRead s a 64) 4 12) (slice (memRead s a 64) 0 4) (slice (memRead s a 64) 16 32)
      (slice (memRead s a 64) 48 16) = some k) :
    wrappedKey a r s = okay { s with boot := { s.boot with keyRam := Tbl.set [] s.boot.keyRam (leNat r.p 0 1) (slice k 0 32) } } [] := by
  have h7 : ¬ 7 < leNat r.p 0 1 := by omega
  simp only [wrappedKey, h, hm, hk, h7, not_true_eq_false, ne_eq, or_self, if_false]

/-- One for another slot, or whose wrapping does not open, is refused. -/
theorem wrappedKey_refuses {a : Nat} {r : Req} {s : State} (h : checksOk s a 64 = true)
    (hm : Config.gcmOpen (fuseBytes s 5 32) (slice (memRead s a 64) 4 12) (slice (memRead s a 64) 0 4) (slice (memRead s a 64) 16 32)
      (slice (memRead s a 64) 48 16) = none ∨ leNat (memRead s a 64) 0 1 ≠ leNat r.p 0 1) :
    wrappedKey a r s = reject s 0x4003 := by
  simp only [wrappedKey, h, not_true_eq_false, if_false]
  by_cases hslot : 7 < leNat r.p 0 1 ∨ leNat (memRead s a 64) 0 1 ≠ leNat r.p 0 1
  · rw [if_pos hslot]
  · rw [if_neg hslot, hm.resolve_right (fun h => hslot (.inr h))]

/-- The published area holds more than its first 32 bytes. -/
theorem published_long (s : State) : 32 ≤ (published s).length := by
  simp only [published, List.length_append, slice_length]
  omega

/-- Settles O49: each command's own answer, where its destination or source is one that the Keeper reaches. -/
theorem serviceObjects : Obligations.ServiceObjects := by
  intro m s r p u dest
  refine ⟨fun i hk hd hask hheld => ?_, fun hk => ?_, fun i hk hd => ?_, fun i hk hd => ?_, fun i hk hi hkind hperm hreset hreach => ?_, fun hk => ?_⟩
  · have hd' : IsDest r u 4 0 i (decide (r.m ≤ 1)) := IsDest.taken m hd
    obtain ⟨v, hv, hmem, hobj, hboot, hswarm, hfaults⟩ := faultRead_held hd' hask hheld
    exact ⟨v, answers_of_done _ rfl hk hv (congrArg Swarm.node hswarm), hmem, hobj, hboot, hfaults⟩
  · exact answers_of_done _ rfl hk rfl rfl
  · have hd' : IsDest r u 0 24576 i (decide (r.m ≤ 1)) := IsDest.taken m hd
    have hlen : toLE 2 24576 = [0x00, 0x60] := by decide
    refine answers_of_done _ rfl hk ?_ (by simp [u])
    rw [lifetimeRead, withDest_reached _ hd', okay, hlen]
    rfl
  · have hd' : IsDest r u 32 8192 i false := IsDest.taken m hd
    have hnonce : (p.take 32).length = 32 := by
      rw [List.length_take, reqOf_p_length]
      rfl
    obtain ⟨hat8, hat0, hlen⟩ := attestBody_layout (aliasChain u) (certificate (Config.productionBytes 1 0)) u hnonce
    obtain ⟨hpos, hmost⟩ := certificate_length (Config.aliasCertificate (toLE 4 (fuseCounter u) ++ [BitVec.ofNat 8 (b2n u.boot.slot)]
      ++ slice u.boot.manifestDigest 0 48 ++ slice u.boot.keeperDigest 0 48 ++ slice (Config.sha384 u.boot.opt.raw) 0 48))
    exact ⟨aliasChain u, attestBody (p.take 32) (aliasChain u) (certificate (Config.productionBytes 1 0)) u, hat8, hat0, hlen, hpos, hmost,
      answers_of_done _ rfl hk (attest_reached hd') (by simp [u])⟩
  · have hrun := keyRamWrite_readable (r := r) (s := u) hi hkind hperm hreset hreach
    refine ⟨fun hchk => answers_of_done _ rfl hk (hrun.trans (wrappedKey_bad hchk)) (by simp [u]), fun hchk hslot => ⟨fun hmark k hkey => ?_, fun hbad => ?_⟩⟩
    · exact answers_of_done _ rfl hk (hrun.trans (wrappedKey_opens hchk hslot hmark hkey)) rfl
    · exact answers_of_done _ rfl hk (hrun.trans (wrappedKey_refuses hchk hbad)) rfl
  · refine answers_of_done _ rfl hk ?_ rfl
    rw [safetyStatus, take_eq_slice (published_long _)]
    rfl

end Sys2Proof.Machine
end

section
/-! What the events of one HM1 leave as it was (chapters 16 and 17). -/

namespace Sys2Proof.Machine

/-! ### Parts of an HM1 that an event may write -/

/-- An HM1 without its session, its logs and records, and what they count. -/
def apartFromLogs (h : Hm1) : Hm1 :=
  { h with
    ses := {}
    met := { h.met with
      creditState := 0, tampers := [], tamperLog := [], tamperSeq := 0, tamperLost := 0, tamperOvf := false, records := [], recordSeq := 0, prot := [],
      refusable := 0, reserve := 0, ordinary := [], legalSeq := 0, signatures := 0 } }

/-- Without the open power-quality events and their records either. -/
def apartFromPq (h : Hm1) : Hm1 :=
  let x := apartFromLogs h
  { x with met := { x.met with open_ := [], pqRing := [], pqSeq := 0, pqLost := 0, pqLostOvf := false } }

/-- Without the billing registers and the aggregates either: of the energy, the residues and the sequence number are left. -/
def apartFromBills (h : Hm1) : Hm1 :=
  let x := apartFromLogs h
  { x with met := { x.met with
      energy := { residues := x.met.energy.residues, seq := x.met.energy.seq }, short := {}, long := {}, lastShort := none, lastLong := none } }

/-- Without the tariff in force and its block either. -/
def apartFromTariffs (h : Hm1) : Hm1 :=
  let x := apartFromBills h
  { x with met := { x.met with tar := [], tarGen := 0, tarHeld := none, tariff := 0 } }

/-! ### Steps that leave the rest -/

/-- The step from `s` to `t` leaves the memories, the objects, the island, the flash and every HM1 but that on link `l`, and of this one the
part that `f` shows. -/
def Keeps {α : Type} (f : Hm1 → α) (l : Nat) (s t : State) : Prop :=
  (t.mem = s.mem ∧ t.obj = s.obj ∧ t.island = s.island ∧ t.flash = s.flash ∧ ∀ k, k ≠ l → getHm1 t k = getHm1 s k)
    ∧ f (getHm1 t l) = f (getHm1 s l)

section
variable {α β : Type} {f : Hm1 → α} {l : Nat} {s t u : State}

theorem Keeps.refl (f : Hm1 → α) (l : Nat) (s : State) : Keeps f l s s := ⟨⟨rfl, rfl, rfl, rfl, fun _ _ => rfl⟩, rfl⟩

theorem Keeps.trans (h : Keeps f l s t) (g : Keeps f l t u) : Keeps f l s u := by
  obtain ⟨⟨hm, ho, hi, hf, hk⟩, hx⟩ := h
  obtain ⟨⟨gm, go, gi, gf, gk⟩, gx⟩ := g
  exact ⟨⟨gm.trans hm, go.trans ho, gi.trans hi, gf.trans hf, fun k hl => (gk k hl).trans (hk k hl)⟩, gx.trans hx⟩

/-- What shows less is kept too. -/
theorem Keeps.weaken (h : Keeps f l s t) (g : α → β) : Keeps (fun x => g (f x)) l s t := ⟨h.1, congrArg g h.2⟩

/-- A value that `f` shows is kept. -/
theorem Keeps.value {f : Hm1 → Hm1} (h : Keeps f l s t) (g : Hm1 → β) (hg : ∀ x, g (f x) = g x) : g (getHm1 t l) = g (getHm1 s l) := by
  rw [← hg, h.2, hg]

theorem Keeps.logs (h : Keeps id l s t) : Keeps apartFromLogs l s t := h.weaken apartFromLogs

theorem Keeps.pq (h : Keeps apartFromLogs l s t) : Keeps apartFromPq l s t := h.weaken fun x =>
  { x with met := { x.met with open_ := [], pqRing := [], pqSeq := 0, pqLost := 0, pqLostOvf := false } }

theorem Keeps.bills (h : Keeps apartFromLogs l s t) : Keeps apartFromBills l s t := h.weaken fun x =>
  { x with met := { x.met with
      energy := { residues := x.met.energy.residues, seq := x.met.energy.seq }, short := {}, long := {}, lastShort := none, lastLong := none } }

theorem Keeps.tariffs (h : Keeps apartFromBills l s t) : Keeps apartFromTariffs l s t := h.weaken fun x =>
  { x with met := { x.met with tar := [], tarGen := 0, tarHeld := none, tariff := 0 } }

/-- A loop whose passes keep something keeps it. -/
theorem Keeps.foldl {γ : Type} {g : State → γ → State} (hg : ∀ v x, Keeps f l v (g v x)) (xs : List γ) (s : State) :
    Keeps f l s (xs.foldl g s) := by
  induction xs generalizing s with
  | nil => exact .refl f l s
  | cons x xs ih => exact (hg s x).trans (ih _)

/-- The HM1 itself written, where `f` shows the same of it. -/
theorem Keeps.setHm1 {x : Hm1} (h : f x = f (getHm1 s l)) : Keeps f l s (setHm1 s l x) :=
  ⟨⟨rfl, rfl, rfl, rfl, fun k hk => getHm1_setHm1_ne s l x k hk⟩, by rw [getHm1_setHm1, h]⟩

/-- Its metrology core written. -/
theorem Keeps.setMet {m : Metrology} (h : f { getHm1 s l with met := m } = f (getHm1 s l)) : Keeps f l s (setMet s l m) := Keeps.setHm1 h

/-- An end of a link written. -/
theorem Keeps.setEnd (far : Bool) (k : Nat) (x : HolmiEnd) : Keeps f l s (setEnd s far k x) := by
  cases far <;> exact .refl f l s

/-- A step made only in some case. -/
theorem Keeps.ite {c : Prop} [Decidable c] (h : c → Keeps f l s t) (g : ¬ c → Keeps f l s u) : Keeps f l s (if c then t else u) := by
  split
  next hc => exact h hc
  next hc => exact g hc

end

theorem getHm1_setMet (s : State) (l : Nat) (m : Metrology) : getHm1 (setMet s l m) l = { getHm1 s l with met := m } := getHm1_setHm1 s l _

/-! ### Events, logs and records -/

section
variable (l : Nat) (s : State)

/-- A payload sent leaves every HM1. -/
theorem holmiSend_keeps (far : Bool) (k ch : Nat) (p : Bytes) : Keeps id l s (holmiSend far k ch p s) :=
  (Keeps.setEnd far k _).trans (Keeps.setEnd far k _)

/-- So does an event. -/
theorem hm1Event_keeps (k : Nat) (p : Bytes) : Keeps id l s (hm1Event k p s) :=
  .ite (fun _ => holmiSend_keeps l s true k 2 p) (fun _ => Keeps.setEnd true k _)

@[simp] theorem getHm1_hm1Event (k : Nat) (p : Bytes) : getHm1 (hm1Event k p s) l = getHm1 s l := (hm1Event_keeps l s k p).2

@[simp] theorem getMet_hm1Event (k : Nat) (p : Bytes) : getMet (hm1Event k p s) l = getMet s l :=
  congrArg Hm1.met (getHm1_hm1Event l s k p)

@[simp] theorem getMet_setSes (x : Session) : getMet (setSes s l x) l = getMet s l := by simp [getMet, setSes]

/-- A legal entry writes the log alone. -/
theorem legal_keeps (typ : Nat) (data : Bytes) : Keeps apartFromLogs l s (legal l typ data s) := by
  have hset (k : Metrology) (h : apartFromLogs { getHm1 s l with met := k } = apartFromLogs (getHm1 s l)) :
      Keeps apartFromLogs l s (setMet s l k) := Keeps.setHm1 h
  unfold legal
  refine .ite (fun _ => .ite (fun _ => .refl _ l s) fun _ => ?_) fun _ => .ite (fun _ => .ite (fun _ => hset _ ?_) fun _ => hset _ ?_) fun _ => hset _ ?_
  · exact .ite (fun _ => (hset _ (by simp only [apartFromLogs])).trans (hm1Event_keeps l _ l _).logs) fun _ => hset _ (by simp only [apartFromLogs])
  all_goals simp only [apartFromLogs]

/-- An entry of a refusable kind that finds room is counted, and stands in the protected part. -/
theorem legal_refusable {typ : Nat} (data : Bytes) (ht : 1 ≤ typ ∧ typ ≤ 4) (hr : (getMet s l).refusable < 240) :
    (getMet (legal l typ data s) l).refusable = (getMet s l).refusable + 1
    ∧ (getMet (legal l typ data s) l).prot.length = (getMet s l).prot.length + 1 := by
  have hroom : legalRoom (getHm1 s l).met ≠ 0 := by
    simp only [legalRoom, getMet] at hr ⊢
    omega
  simp only [legal, ht, and_self, if_true, hroom, if_false]
  split <;> simp only [getMet_hm1Event, getMet_setMet] <;> exact ⟨rfl, List.length_append⟩

/-- An entry of another kind leaves what counts tampers. -/
theorem legal_tamperSeq (typ : Nat) (data : Bytes) : (getMet (legal l typ data s) l).tamperSeq = (getMet s l).tamperSeq := by
  unfold legal
  dsimp only
  split_ifs <;> simp only [getMet_hm1Event, getMet_setMet] <;> rfl

/-- A session written. -/
theorem setSes_keeps (x : Session) : Keeps apartFromLogs l s (setSes s l x) := Keeps.setHm1 rfl

/-- A start or an end of a tamper kind writes the logs and the session's flags. -/
theorem tamper_keeps (kind phase : Nat) (isEnd : Bool) : Keeps apartFromLogs l s (tamper l kind phase isEnd s) := by
  have hlog (x : List Kept) (n k : W16) (q : W32) (b : Bool) : Keeps apartFromLogs l s (setMet s l { getMet s l with
      tamperLog := x, tamperSeq := q, tamperLost := n, tamperOvf := b }) := Keeps.setHm1 rfl
  refine (hlog _ _ 0 _ _).trans ((hm1Event_keeps l _ l _).logs.trans (.ite (fun _ => .refl _ l _) fun _ => ?_))
  exact (legal_keeps l _ _ _).trans (setSes_keeps l _ _)

/-- It takes one number of the tamper log. -/
theorem tamper_tamperSeq (kind phase : Nat) (isEnd : Bool) :
    (getMet (tamper l kind phase isEnd s) l).tamperSeq = (getMet s l).tamperSeq + 1 := by
  unfold tamper
  dsimp only
  split <;> simp only [getMet_setSes, legal_tamperSeq, getMet_hm1Event, getMet_setMet] <;> rfl

end

end Sys2Proof.Machine
end

section
/-! What the session, the billing and an interval's end leave of an HM1 (chapters 16 and 17). -/

namespace Sys2Proof.Machine

section
variable (l : Nat) (s : State)

/-! ### The session and its records -/

theorem moveSession_keeps (st : SessState) : Keeps apartFromLogs l s (moveSession l st s) :=
  .ite (fun _ => .refl _ l s) fun _ => (setSes_keeps l s _).trans (hm1Event_keeps l _ l _).logs

theorem drive_keeps (close : Bool) : Keeps apartFromLogs l s (drive l close s) :=
  .ite (fun _ => .refl _ l s) fun _ => setSes_keeps l s _

/-- Contactors commanded open are so. -/
theorem drive_open_cmd : (getSes (drive l false s) l).cmd = 0 := by
  simp only [drive, Bool.false_eq_true, if_false]
  split
  next h => exact h
  next h => simp

theorem writeRecord_keeps (reading : Bool) (nonce : Bytes) : Keeps apartFromLogs l s (writeRecord l reading nonce s) := by
  have hring (x : List Kept) (q : W32) (n : Nat) : Keeps apartFromLogs l s (setMet s l { getMet s l with records := x, recordSeq := q, signatures := n }) :=
    Keeps.setHm1 rfl
  exact (hring _ _ _).trans (hm1Event_keeps l _ l _).logs

theorem endRecord_keeps : Keeps apartFromLogs l s (endRecord l s) :=
  .ite (fun _ => .refl _ l s) fun _ => ((setSes_keeps l s _).trans (writeRecord_keeps l _ _ _)).trans (legal_keeps l _ _ _)

theorem finishStop_keeps : Keeps apartFromLogs l s (finishStop l s) := by
  have hend : Keeps apartFromLogs l s (endRecord l (drive l false s)) := (drive_keeps l s false).trans (endRecord_keeps l _)
  exact .ite (fun _ => hend.trans (moveSession_keeps l _ _)) fun _ => hend

theorem stopWith_keeps (cause : Byte) (imm : Bool) : Keeps apartFromLogs l s (stopWith l cause imm s) := by
  refine .ite (fun _ => (setSes_keeps l s _).trans (finishStop_keeps l _)) fun _ => .ite (fun _ => .refl _ l s) fun _ => ?_
  have hstop (x : Session) : Keeps apartFromLogs l s (moveSession l .stopping (setSes s l x)) := (setSes_keeps l s x).trans (moveSession_keeps l _ _)
  exact .ite (fun _ => (hstop _).trans (finishStop_keeps l _)) fun _ => hstop _

theorem unplug_keeps : Keeps apartFromLogs l s (unplug l s) := by
  have hend : Keeps apartFromLogs l s (endRecord l (drive l false s)) := (drive_keeps l s false).trans (endRecord_keeps l _)
  unfold unplug
  exact (hend.trans (setSes_keeps l _ _)).trans (moveSession_keeps l _ _)

/-! ### Tampers and stops at an interval's end -/

theorem track_keeps (idx kind phase n : Nat) (cond : Bool) : Keeps apartFromLogs l s (track l idx kind phase n cond s) := by
  have hput (t : Tbl TamperTrack) : Keeps apartFromLogs l s (setMet s l { getMet s l with tampers := t }) := Keeps.setHm1 rfl
  exact .ite (fun _ => hput _) fun _ => .ite (fun _ => hput _) fun _ => (hput _).trans (tamper_keeps l _ _ _ _)

theorem reactTo_keeps (idx : Nat) (imm : Bool) (was : Metrology) : Keeps apartFromLogs l s (reactTo l idx imm was s) :=
  .ite (fun _ => stopWith_keeps l s 7 imm) fun _ => .refl _ l s

theorem trackTampers_keeps : Keeps apartFromLogs l s (trackTampers l s) := by
  have hpair (v : State) (idx kind n : Nat) (c imm : Bool) (was : Metrology) :
      Keeps apartFromLogs l v (reactTo l idx imm was (track l idx kind 0 n c v)) := (track_keeps l v _ _ _ _ _).trans (reactTo_keeps l _ _ _ _)
  exact ((((Keeps.foldl (fun v _ => track_keeps l v _ _ _ _ _) _ s).trans (hpair _ _ _ _ _ _ _)).trans (hpair _ _ _ _ _ _ _)).trans
    (hpair _ _ _ _ _ _ _)).trans (hpair _ _ _ _ _ _ _)

theorem watchCurrent_keeps : Keeps apartFromLogs l s (watchCurrent l s) := by
  have hset (x : Session) : Keeps apartFromLogs l s (setSes s l x) := setSes_keeps l s x
  exact .ite (fun _ => (hset _).trans (stopWith_keeps l _ _ _)) fun _ => hset _

theorem watchStop_keeps : Keeps apartFromLogs l s (watchStop l s) :=
  .ite (fun _ => finishStop_keeps l s) fun _ => .refl _ l s

/-! ### Credit and billing -/

theorem creditMove_keeps : Keeps apartFromLogs l s (creditMove l s) := by
  have hset (c : Nat) : Keeps apartFromLogs l s (setMet s l { getMet s l with creditState := c }) := Keeps.setHm1 rfl
  exact .ite (fun _ => .refl _ l s) fun _ => (hset _).trans (hm1Event_keeps l _ l _).logs

/-- Energy written whose residues and sequence number are as they were. -/
theorem setEnergy_keeps (e : Energy) (hr : e.residues = (getMet s l).energy.residues) (hs : e.seq = (getMet s l).energy.seq) :
    Keeps apartFromBills l s (setMet s l { getMet s l with energy := e }) :=
  Keeps.setHm1 (by simp only [apartFromBills, apartFromLogs, hr, hs]; rfl)

theorem deduct_keeps : Keeps apartFromBills l s (deduct l s) :=
  .ite (fun _ => setEnergy_keeps l s _ rfl rfl) fun _ => .refl _ l s

theorem addMwh_keeps (i n : Nat) : Keeps apartFromBills l s (addMwh l i n s) := by
  have hset (r : Tbl BillReg) : Keeps apartFromBills l s (setMet s l { getMet s l with energy := { (getMet s l).energy with regs := r } }) :=
    setEnergy_keeps l s _ rfl rfl
  exact .ite (fun _ => .refl _ l s) fun _ => .ite (fun _ => hset _) fun _ => (hset _).trans (legal_keeps l _ _ _).bills

theorem handOver_keeps (tariff acc : Nat) (received : Bool) (n : Nat) : Keeps apartFromBills l s (handOver l tariff acc received n s) := by
  refine .ite (fun _ => addMwh_keeps l s _ _) fun _ => ?_
  have hboth : Keeps apartFromBills l s (if inSession (getSes s l) ∧ ((getSes s l).connector ≠ 0) = (acc == 4)
      then addMwh l (18 + b2n received) n (addMwh l (2 * b2n (acc == 4) + b2n received) n s)
      else addMwh l (2 * b2n (acc == 4) + b2n received) n s) :=
    .ite (fun _ => (addMwh_keeps l s _ _).trans (addMwh_keeps l _ _ _)) fun _ => addMwh_keeps l s _ _
  exact .ite (fun _ => hboth) fun _ => hboth.trans ((addMwh_keeps l _ _ _).trans (setEnergy_keeps l _ _ rfl rfl))

theorem settleCredit_keeps : Keeps apartFromBills l s (settleCredit l s) := by
  have hmove : Keeps apartFromBills l s (creditMove l (deduct l s)) := (deduct_keeps l s).trans (creditMove_keeps l _).bills
  exact .ite (fun _ => hmove.trans (stopWith_keeps l _ _ _).bills) fun _ => hmove

end

end Sys2Proof.Machine
end

section
/-! The end of an interval: the energy that it feeds, its result, and the tariff (R406, R408, R409, R410, R442). -/

namespace Sys2Proof.Machine

/-! ### Residues (R409) -/

/-- The energy after one accumulator has taken the sum of an interval. -/
def feed (e : Energy) (q : (Int × Int) × Nat) : Energy := (giveUp q.2 e q.1.1 0).1

theorem feed_residue (e : Energy) (q : (Int × Int) × Nat) (k : Nat) : Tbl.get 0 (feed e q).residues k
    = if k = 2 * q.2 + b2n (decide (q.1.1 < 0)) then (Tbl.get 0 e.residues k + q.1.1.natAbs) % unitsPerMwh q.2 else Tbl.get 0 e.residues k := by
  simp only [feed, giveUp, Tbl.get_set]
  split
  next h => rw [h]
  next => rfl

/-- The accumulators that a residue is not one of leave it. -/
theorem foldl_feed_other {l : List ((Int × Int) × Nat)} {k : Nat} (h : ∀ q ∈ l, q.2 ≠ k / 2) (e : Energy) :
    Tbl.get 0 (l.foldl feed e).residues k = Tbl.get 0 e.residues k := by
  induction l generalizing e with
  | nil => rfl
  | cons q l ih =>
    have hb : b2n (decide (q.1.1 < 0)) ≤ 1 := by unfold b2n; split <;> omega
    have hq := h q List.mem_cons_self
    rw [List.foldl_cons, ih (fun q hq => h q (List.mem_cons_of_mem _ hq)), feed_residue, if_neg (by omega)]

/-- Where each accumulator takes one sum, a residue is what its own makes of it. -/
theorem foldl_feed_own {l : List ((Int × Int) × Nat)} {q : (Int × Int) × Nat} {k : Nat} (hn : (l.map Prod.snd).Nodup) (hq : q ∈ l) (hk : q.2 = k / 2)
    (e : Energy) : Tbl.get 0 (l.foldl feed e).residues k = Tbl.get 0 (feed e q).residues k := by
  induction l generalizing e with
  | nil => cases hq
  | cons p l ih =>
    obtain ⟨hp, hl⟩ := List.nodup_cons.mp hn
    rw [List.foldl_cons]
    rcases List.mem_cons.mp hq with rfl | hq
    · exact foldl_feed_other (fun x hx hxk => hp (by rw [hk, ← hxk]; exact List.mem_map_of_mem hx)) _
    · have hne : p.2 ≠ k / 2 := fun h => hp (by rw [h, ← hk]; exact List.mem_map_of_mem hq)
      have hb : b2n (decide (p.1.1 < 0)) ≤ 1 := by unfold b2n; split <;> omega
      rw [ih hl hq, feed_residue, feed_residue, feed_residue, if_neg (by omega : ¬ k = 2 * p.2 + _)]

theorem foldl_feed_seq (l : List ((Int × Int) × Nat)) (e : Energy) : (l.foldl feed e).seq = e.seq :=
  foldl_keeps Energy.seq (f := feed) (fun _ _ => rfl) l e

/-! ### An interval closed -/

/-- What the five accumulators take from an interval: nothing under METROLOGY_FAULT. -/
def intervalFeeds (m : Metrology) (l : Nat) (x : IntervalCodes) (k : Nat) : List ((Int × Int) × Nat) :=
  (if m.metFault then [] else intervalEnergy m l (intervalSums m l x) k).zip (upFrom 0 5)

/-- The HM1 as the end of an interval makes it, before whole mWh are handed over and the session takes its part. -/
def intervalClosed (h : Hm1) (l : Nat) (x : IntervalCodes) (k : Nat) : Hm1 :=
  let m := h.met
  let e := (intervalFeeds m l x k).foldl feed m.energy
  { h with met := { m with energy := { e with seq := e.seq + 1 }, last := intervalResult h l x (intervalSums m l x),
                           flagged := (upFrom 1 3).any (fun t => (pqOpenOf m t).isSome), lockMoved := false,
                           calHeld := m.calHeld.map (fun b => { b with due := true }) } }

/-- The aggregates are a part of what billing writes. -/
theorem aggregates_apart (h : Hm1) (was : Nat) (m : Metrology) :
    apartFromBills { h with met := aggregates was m } = apartFromBills { h with met := m } := by
  simp only [aggregates]
  split_ifs <;> rfl

/-- An interval closes in three steps: its result and energy, the tariff switch, and what the session and billing take. -/
theorem closeInterval_steps (l : Nat) (x : IntervalCodes) (split : Option Nat) (switch : State → State) (s : State) :
    ∃ v, Keeps apartFromBills l (setHm1 s l (intervalClosed (getHm1 s l) l x (split.getD (x.codes.getD 0 []).length))) v
      ∧ Keeps apartFromBills l (switch v) (closeInterval l x split switch s) := by
  unfold closeInterval
  dsimp only
  generalize hf : List.foldl _ ((getHm1 s l).met.energy, []) _ = r
  have he : r.1 = (intervalFeeds (getHm1 s l).met l x (split.getD (x.codes.getD 0 []).length)).foldl feed (getHm1 s l).met.energy := by
    rw [← hf]
    exact (List.foldl_hom Prod.fst (fun _ _ => rfl)).symm
  obtain ⟨e, gifts⟩ := r
  subst he
  refine ⟨_, ?_, ((((Keeps.foldl (fun v _ => handOver_keeps l v _ _ _ _) gifts _).trans (.ite (fun _ => (setSes_keeps l _ _).bills) fun _ => .refl _ l _)).trans
    (settleCredit_keeps l _)).trans (trackTampers_keeps l _).bills).trans ((watchCurrent_keeps l _).trans (watchStop_keeps l _)).bills⟩
  refine Keeps.trans ?_ (Keeps.foldl (fun v _ => handOver_keeps l v _ _ _ _) gifts _)
  exact Keeps.setHm1 (aggregates_apart _ _ _)

/-! ### The tariff (R440, R442) -/

/-- The last step of a tariff's change: the tariff in force is written, and told. -/
def tariffTold (l t : Nat) (s : State) : State :=
  let h := getHm1 s l
  creditMove l (hm1Event l ([0xA5, BitVec.ofNat 8 (t + 1)] ++ toLE 2 h.met.tarGen.toNat) (setMet s l { h.met with tariff := t }))

theorem tariffTold_fields (l t : Nat) (s : State) :
    Keeps apartFromTariffs l s (tariffTold l t s) ∧ (getMet (tariffTold l t s) l).tariff = t ∧ (getMet (tariffTold l t s) l).tar = (getMet s l).tar
    ∧ (getMet (tariffTold l t s) l).tarHeld = (getMet s l).tarHeld ∧ (getMet (tariffTold l t s) l).tarGen = (getMet s l).tarGen := by
  have hk : Keeps apartFromLogs l (setMet s l { getMet s l with tariff := t }) (tariffTold l t s) :=
    (hm1Event_keeps l _ l _).logs.trans (creditMove_keeps l _)
  have hset : Keeps apartFromTariffs l s (setMet s l { getMet s l with tariff := t }) := .setMet rfl
  have hval {β : Type} (g : Hm1 → β) (hg : ∀ x, g (apartFromLogs x) = g x) :
      g (getHm1 (tariffTold l t s) l) = g { getHm1 s l with met := { getMet s l with tariff := t } } := by
    rw [hk.value g hg, getHm1_setMet]
  exact ⟨hset.trans hk.bills.tariffs, hval (fun h => h.met.tariff) fun _ => rfl, hval (fun h => h.met.tar) fun _ => rfl,
    hval (fun h => h.met.tarHeld) fun _ => rfl, hval (fun h => h.met.tarGen) fun _ => rfl⟩

/-- No block is due: the tariff follows the clock by the block in force. -/
theorem applyTariff_none {l : Nat} {s : State} (h : tariffDue (getHm1 s l) = none) :
    Keeps apartFromTariffs l s (applyTariff l s) ∧ (getMet (applyTariff l s) l).tar = (getMet s l).tar
    ∧ (getMet (applyTariff l s) l).tarHeld = (getMet s l).tarHeld
    ∧ (getMet (applyTariff l s) l).tariff = tariffAt (tarInForce (getMet s l)) (rtcSec (getHm1 s l)) := by
  simp only [applyTariff, h, Option.isNone_none, and_true]
  split
  next ht => exact ⟨.refl _ l s, rfl, rfl, ht.symm⟩
  next =>
    obtain ⟨hk, ht, htar, hheld, -⟩ := tariffTold_fields l (tariffAt (tarInForce (getMet s l)) (rtcSec (getHm1 s l))) s
    exact ⟨hk, htar, hheld, ht⟩

/-- A block that is due takes effect first. -/
theorem applyTariff_due {l : Nat} {s : State} {b : HeldSet} (h : tariffDue (getHm1 s l) = some b) :
    Keeps apartFromTariffs l s (applyTariff l s) ∧ (getMet (applyTariff l s) l).tarGen = b.gen ∧ (getMet (applyTariff l s) l).tarHeld = none := by
  obtain ⟨t, tar, d, happly⟩ : ∃ t tar d, applyTariff l s
      = tariffTold l t (legal l 0x11 d (setMet s l { getMet s l with tar := tar, tarGen := b.gen, tarHeld := none })) := by
    simp only [applyTariff, h, Option.isNone_some, Bool.false_eq_true, and_false, if_false]
    exact ⟨_, _, _, rfl⟩
  obtain ⟨u, hu⟩ : ∃ u, u = setMet s l { getMet s l with tar := tar, tarGen := b.gen, tarHeld := none } := ⟨_, rfl⟩
  have hset : Keeps apartFromTariffs l s u := hu ▸ .setMet rfl
  have hlegal := legal_keeps l u 0x11 d
  have hval {β : Type} (g : Hm1 → β) (hg : ∀ x, g (apartFromLogs x) = g x) :
      g (getHm1 (legal l 0x11 d u) l) = g { getHm1 s l with met := { getMet s l with tar := tar, tarGen := b.gen, tarHeld := none } } := by
    rw [hlegal.value g hg, hu, getHm1_setMet]
  obtain ⟨hk, -, -, hheld, hgen⟩ := tariffTold_fields l t (legal l 0x11 d u)
  rw [happly, ← hu]
  exact ⟨(hset.trans hlegal.bills.tariffs).trans hk, hgen.trans (hval (fun h => h.met.tarGen) fun _ => rfl),
    hheld.trans (hval (fun h => h.met.tarHeld) fun _ => rfl)⟩

theorem applyTariff_keeps (l : Nat) (s : State) : Keeps apartFromTariffs l s (applyTariff l s) := by
  cases h : tariffDue (getHm1 s l) with
  | none => exact (applyTariff_none h).1
  | some b => exact (applyTariff_due h).1

end Sys2Proof.Machine
end

section
/-! The power-quality events of a half-cycle (R411, R412), and the seal, the checksum, the start and the wake of an HM1 (R415, R420, R421, R423,
R457). -/

namespace Sys2Proof.Machine

/-! ### Open events -/

@[simp] theorem pqOpenOf_setPqOpen (m : Metrology) (t : Nat) (e : Option PqOpen) (k : Nat) :
    pqOpenOf (setPqOpen m t e) k = if k = t then e else pqOpenOf m k := Tbl.get_set none m.open_ t k e

/-- An open event with a window taken in. -/
def followed (m : Metrology) (rms : List Nat) (t : Nat) (e : PqOpen) : PqOpen :=
  { e with phases := e.phases ||| pqPhases m t rms, extreme := if t = 2 then max e.extreme (pqExtreme t rms) else min e.extreme (pqExtreme t rms) }

/-- One type's pass of `pqFollow`. -/
def followPass (rms : List Nat) (m : Metrology) (t : Nat) : Metrology :=
  match pqOpenOf m t with
  | some e => setPqOpen m t (some (followed m rms t e))
  | none => m

/-- A pass writes the open events alone. -/
theorem followPass_rest (rms : List Nat) (m : Metrology) (t : Nat) : { followPass rms m t with open_ := [] } = { m with open_ := [] } := by
  unfold followPass
  split <;> rfl

theorem pqOpenOf_followPass (rms : List Nat) (m : Metrology) (t k : Nat) :
    pqOpenOf (followPass rms m t) k = if k = t then (pqOpenOf m t).map (followed m rms t) else pqOpenOf m k := by
  unfold followPass
  split
  next e h => rw [pqOpenOf_setPqOpen, h, Option.map_some]
  next h =>
    split
    next hk => rw [hk, h, Option.map_none]
    next => rfl

/-- What starts, follows and ends an event by a window are the thresholds, which open events do not move. -/
theorem pqPhases_congr {m n : Metrology} (h : { n with open_ := [] } = { m with open_ := [] }) (t : Nat) (rms : List Nat) :
    pqPhases n t rms = pqPhases m t rms :=
  show pqPhases { n with open_ := [] } t rms = pqPhases { m with open_ := [] } t rms by rw [h]

theorem pqOver_congr {m n : Metrology} (h : { n with open_ := [] } = { m with open_ := [] }) (t : Nat) (rms : List Nat) :
    pqOver n t rms = pqOver m t rms :=
  show pqOver { n with open_ := [] } t rms = pqOver { m with open_ := [] } t rms by rw [h]

theorem followed_congr {m n : Metrology} (h : { n with open_ := [] } = { m with open_ := [] }) (rms : List Nat) (t : Nat) (e : PqOpen) :
    followed n rms t e = followed m rms t e := by
  rw [followed, followed, pqPhases_congr h]

theorem pqFollow_rest (rms : List Nat) (m : Metrology) : { pqFollow rms m with open_ := [] } = { m with open_ := [] } :=
  foldl_keeps (fun m : Metrology => { m with open_ := [] }) (f := followPass rms) (followPass_rest rms) (upFrom 1 3) m

/-- Each open event takes the window in. -/
theorem pqOpenOf_pqFollow (rms : List Nat) (m : Metrology) {k : Nat} (hk : k = 1 ∨ k = 2 ∨ k = 3) :
    pqOpenOf (pqFollow rms m) k = (pqOpenOf m k).map (followed m rms k) := by
  have h1 := followPass_rest rms m 1
  have h2 := (followPass_rest rms (followPass rms m 1) 2).trans h1
  have hdef : pqFollow rms m = followPass rms (followPass rms (followPass rms m 1) 2) 3 := rfl
  have e2 : followed (followPass rms m 1) rms 2 = followed m rms 2 := funext (followed_congr h1 rms 2)
  have e3 : followed (followPass rms (followPass rms m 1) 2) rms 3 = followed m rms 3 := funext (followed_congr h2 rms 3)
  rw [hdef]
  rcases hk with rfl | rfl | rfl <;> simp [pqOpenOf_followPass, e2, e3]

/-! ### PQ_EVENT_START -/

/-- One type's pass of the starts. -/
def startPass (now : Nat) (rms : List Nat) (m : Metrology) (t : Nat) : Metrology :=
  if (pqOpenOf m t).isSome ∨ pqPhases m t rms = 0 then m
  else { setPqOpen m t (some { phases := pqPhases m t rms, start := now, extreme := pqExtreme t rms }) with flagged := true }

/-- An event that a window starts. -/
def startedBy (m : Metrology) (now : Nat) (rms : List Nat) (t : Nat) : Option PqOpen :=
  if pqPhases m t rms = 0 then none else some { phases := pqPhases m t rms, start := now, extreme := pqExtreme t rms }

theorem startPass_rest (now : Nat) (rms : List Nat) (m : Metrology) (t : Nat) :
    { startPass now rms m t with open_ := [], flagged := false } = { m with open_ := [], flagged := false } := by
  unfold startPass
  split <;> rfl

theorem pqPhases_startPass (now : Nat) (rms : List Nat) (m : Metrology) (t k : Nat) : pqPhases (startPass now rms m t) k rms = pqPhases m k rms :=
  show pqPhases { startPass now rms m t with open_ := [], flagged := false } k rms = pqPhases { m with open_ := [], flagged := false } k rms by
    rw [startPass_rest]

theorem pqOpenOf_startPass (now : Nat) (rms : List Nat) (m : Metrology) (t k : Nat) :
    pqOpenOf (startPass now rms m t) k = if k = t then (pqOpenOf m t).or (startedBy m now rms t) else pqOpenOf m k := by
  unfold startPass
  split
  next h =>
    have hor : (pqOpenOf m t).or (startedBy m now rms t) = pqOpenOf m t := by
      rcases h with h | h
      · exact Option.or_of_isSome h
      · simp [startedBy, h]
    rw [hor]
    split
    next hk => rw [hk]
    next => rfl
  next h =>
    obtain ⟨ho, hp⟩ := not_or.mp h
    refine (pqOpenOf_setPqOpen m t (some { phases := pqPhases m t rms, start := now, extreme := pqExtreme t rms }) k).trans ?_
    rw [Option.not_isSome_iff_eq_none.mp ho, Option.none_or, startedBy, if_neg hp]

theorem startPass_flagged (now : Nat) (rms : List Nat) (m : Metrology) (t : Nat) :
    (startPass now rms m t).flagged = (m.flagged || ((pqOpenOf m t).isNone && decide (pqPhases m t rms ≠ 0))) := by
  unfold startPass
  split
  next h => rcases h with h | h <;> simp [h, Option.isNone_eq_false_iff.mpr]
  next h =>
    obtain ⟨ho, hp⟩ := not_or.mp h
    rw [Option.not_isSome_iff_eq_none.mp ho, decide_eq_true hp]
    simp

/-- The open events after the starts: those of before with the window taken in, and the new ones. -/
def startedPq (now : Nat) (rms : List Nat) (m : Metrology) : Metrology := (upFrom 1 3).foldl (startPass now rms) (pqFollow rms m)

theorem pqOpenOf_startedPq (now : Nat) (rms : List Nat) (m : Metrology) {k : Nat} (hk : k = 1 ∨ k = 2 ∨ k = 3) :
    pqOpenOf (startedPq now rms m) k = ((pqOpenOf m k).map (followed m rms k)).or (startedBy m now rms k) := by
  have hp (t k : Nat) (n : Metrology) : startedBy (startPass now rms n t) now rms k = startedBy n now rms k := by
    simp only [startedBy, pqPhases_startPass]
  have hf (k : Nat) : startedBy (pqFollow rms m) now rms k = startedBy m now rms k := by
    simp only [startedBy, pqPhases_congr (pqFollow_rest rms m)]
  rw [← pqOpenOf_pqFollow rms m hk]
  rcases hk with rfl | rfl | rfl <;> simp [startedPq, upFrom, pqOpenOf_startPass, hp, hf]

/-- An event that starts flags the interval. -/
theorem startedPq_flagged (now : Nat) (rms : List Nat) (m : Metrology) {k : Nat} (hk : k = 1 ∨ k = 2 ∨ k = 3) (ho : pqOpenOf m k = none)
    (hp : pqPhases m k rms ≠ 0) : (startedPq now rms m).flagged = true := by
  have hnone : pqOpenOf (pqFollow rms m) k = none := by rw [pqOpenOf_pqFollow rms m hk, ho, Option.map_none]
  have hphases : ¬ pqPhases (pqFollow rms m) k rms = 0#3 := by rwa [pqPhases_congr (pqFollow_rest rms m)]
  rcases hk with rfl | rfl | rfl <;>
    simp [startedPq, upFrom, startPass_flagged, pqOpenOf_startPass, pqPhases_startPass, hnone, hphases]

/-- A sag with an interruption in it is marked. -/
def innerMarked (m : Metrology) : Metrology :=
  match pqOpenOf m 1, pqOpenOf m 3 with
  | some e, some _ => setPqOpen m 1 (some { e with inner := true })
  | _, _ => m

theorem innerMarked_open (m : Metrology) :
    (innerMarked m).flagged = m.flagged ∧ ∀ k, ∃ b, pqOpenOf (innerMarked m) k = (pqOpenOf m k).map (fun e => { e with inner := e.inner || b }) := by
  have hplain (k : Nat) : ∃ b, pqOpenOf m k = (pqOpenOf m k).map (fun e => { e with inner := e.inner || b }) :=
    ⟨false, by cases pqOpenOf m k <;> simp⟩
  unfold innerMarked
  split
  next e _ h1 h3 =>
    refine ⟨rfl, fun k => ?_⟩
    rw [pqOpenOf_setPqOpen]
    split
    next hk => exact ⟨true, by rw [hk, h1]; simp⟩
    next => exact hplain k
  next => exact ⟨rfl, hplain⟩

/-- PQ_EVENT_START writes the open events, and whether one was open. -/
theorem pqStart_eq (l : Nat) (rms : List Nat) (s : State) :
    pqStart l rms s = setMet s l (innerMarked (startedPq (getHm1 s l).rtc rms (getMet s l))) := by
  have hdef (m : Metrology) : (match pqOpenOf m 1, pqOpenOf m 3 with
      | some e, some _ => setPqOpen m 1 (some { e with inner := true })
      | _, _ => m) = innerMarked m := rfl
  exact congrArg (setMet s l) (hdef (startedPq (getHm1 s l).rtc rms (getMet s l)))

/-! ### PQ_EVENT and the end of an event -/

section
variable (l : Nat) (s : State)

theorem pqEnd_keeps (t flags : Nat) : Keeps apartFromPq l s (pqEnd l t flags s) := by
  have hset (k : Metrology) (h : apartFromPq { getHm1 s l with met := k } = apartFromPq (getHm1 s l)) : Keeps apartFromPq l s (setMet s l k) := .setMet h
  unfold pqEnd
  dsimp only
  split
  · exact .refl _ l s
  · refine (hset _ ?_).trans (hm1Event_keeps l _ l _).logs.pq
    rfl

theorem pqOpenOf_pqEnd (t flags k : Nat) : pqOpenOf (getMet (pqEnd l t flags s) l) k = if k = t then none else pqOpenOf (getMet s l) k := by
  unfold pqEnd
  dsimp only
  split
  next h =>
    split
    next hk => rw [hk]; exact h
    next => rfl
  next =>
    rw [getMet_hm1Event, getMet_setMet]
    exact pqOpenOf_setPqOpen (getMet s l) t none k

/-- Whether an event is over lies in the thresholds. -/
theorem Keeps.pqOver {l : Nat} {s v : State} (h : Keeps apartFromPq l s v) (t : Nat) (rms : List Nat) :
    pqOver (getMet v l) t rms = pqOver (getMet s l) t rms :=
  h.value (fun x => Machine.pqOver x.met t rms) fun _ => rfl

/-- One type's pass of PQ_EVENT. -/
def endPass (rms : List Nat) (s : State) (t : Nat) : State := if pqOver (getMet s l) t rms then pqEnd l t 0 s else s

theorem endPass_keeps (rms : List Nat) (t : Nat) : Keeps apartFromPq l s (endPass l rms s t) :=
  .ite (fun _ => pqEnd_keeps l s t 0) fun _ => .refl _ l s

theorem pqOpenOf_endPass (rms : List Nat) (t k : Nat) : pqOpenOf (getMet (endPass l rms s t) l) k
    = if k = t ∧ pqOver (getMet s l) t rms = true then none else pqOpenOf (getMet s l) k := by
  unfold endPass
  split
  next h => simp [pqOpenOf_pqEnd, h]
  next h => simp [h]

end

/-- PQ_EVENT: an event that is over has ended, another has taken the window in. -/
theorem pqWindow_open (l : Nat) (rms : List Nat) (s : State) {k : Nat} (hk : k = 1 ∨ k = 2 ∨ k = 3) :
    pqOpenOf (getMet (pqWindow l rms s) l) k
      = if pqOver (getMet s l) k rms = true then none else (pqOpenOf (getMet s l) k).map (followed (getMet s l) rms k) := by
  obtain ⟨u, hu⟩ : ∃ u, u = setMet s l (pqFollow rms (getMet s l)) := ⟨_, rfl⟩
  have hover (t : Nat) : pqOver (getMet u l) t rms = pqOver (getMet s l) t rms := by
    rw [hu, getMet_setMet, pqOver_congr (pqFollow_rest rms (getMet s l))]
  have hopen : pqOpenOf (getMet u l) k = (pqOpenOf (getMet s l) k).map (followed (getMet s l) rms k) := by
    rw [hu, getMet_setMet, pqOpenOf_pqFollow _ _ hk]
  have hdef : pqWindow l rms s = endPass l rms (endPass l rms (endPass l rms u 3) 1) 2 := by rw [hu]; rfl
  have h3 := endPass_keeps l u rms 3
  have h1 := h3.trans (endPass_keeps l (endPass l rms u 3) rms 1)
  rw [hdef, ← hopen, ← hover]
  rcases hk with rfl | rfl | rfl <;> simp [pqOpenOf_endPass, h1.pqOver, h3.pqOver]

theorem pqWindow_keeps (l : Nat) (rms : List Nat) (s : State) : Keeps apartFromPq l s (pqWindow l rms s) := by
  have hfollow : Keeps apartFromPq l s (setMet s l (pqFollow rms (getMet s l))) := by
    refine .setMet ?_
    have h := congrArg (fun m => apartFromPq { getHm1 s l with met := m }) (pqFollow_rest rms (getMet s l))
    exact h
  exact hfollow.trans (Keeps.foldl (endPass_keeps l · rms ·) [3, 1, 2] _)

end Sys2Proof.Machine
end

section
/-! The seal, the checksum, the start, power fail and the wake of an HM1 (R415, R420, R421, R423, R446, R457). -/

namespace Sys2Proof.Machine

/-! ### What a step makes of one HM1 -/

/-- The step from `s` to `t` leaves the memories, the objects, the island, the flash and every HM1 but that on link `l`, which it makes `x` as far
as `f` shows. -/
def Makes {α : Type} (f : Hm1 → α) (l : Nat) (s : State) (x : Hm1) (t : State) : Prop :=
  (t.mem = s.mem ∧ t.obj = s.obj ∧ t.island = s.island ∧ t.flash = s.flash ∧ ∀ k, k ≠ l → getHm1 t k = getHm1 s k) ∧ f (getHm1 t l) = f x

section
variable {α β : Type} {f : Hm1 → α} {l : Nat} {s t u : State} {x y : Hm1}

theorem Makes.setHm1 (f : Hm1 → α) (l : Nat) (s : State) (x : Hm1) : Makes f l s x (setHm1 s l x) :=
  ⟨⟨rfl, rfl, rfl, rfl, fun k hk => getHm1_setHm1_ne s l x k hk⟩, by rw [getHm1_setHm1]⟩

theorem Makes.setMet (f : Hm1 → α) (l : Nat) (s : State) (m : Metrology) : Makes f l s { getHm1 s l with met := m } (setMet s l m) :=
  .setHm1 f l s _

/-- A step that leaves what `f` shows comes after. -/
theorem Makes.step (h : Makes f l s x t) (g : Keeps f l t u) : Makes f l s x u := by
  obtain ⟨⟨hm, ho, hi, hf, hk⟩, hx⟩ := h
  obtain ⟨⟨gm, go, gi, gf, gk⟩, gx⟩ := g
  exact ⟨⟨gm.trans hm, go.trans ho, gi.trans hi, gf.trans hf, fun k hl => (gk k hl).trans (hk k hl)⟩, gx.trans hx⟩

/-- A second step comes after, which makes of the HM1 what it is now. -/
theorem Makes.next {γ : Type} {g : Hm1 → γ} (h : Makes f l s x t) (i : Makes g l t y u) : Makes g l s y u := by
  obtain ⟨⟨hm, ho, hi, hf, hk⟩, -⟩ := h
  obtain ⟨⟨gm, go, gi, gf, gk⟩, gx⟩ := i
  exact ⟨⟨gm.trans hm, go.trans ho, gi.trans hi, gf.trans hf, fun k hl => (gk k hl).trans (hk k hl)⟩, gx⟩

/-- A step that keeps what `f` shows makes the HM1 what it was. -/
theorem Keeps.makes (h : Keeps f l s t) : Makes f l s (getHm1 s l) t := h

theorem Makes.weaken (h : Makes f l s x t) (g : α → β) : Makes (fun x => g (f x)) l s x t := ⟨h.1, congrArg g h.2⟩

theorem Makes.value {f : Hm1 → Hm1} (h : Makes f l s x t) (g : Hm1 → β) (hg : ∀ x, g (f x) = g x) : g (getHm1 t l) = g x := by
  rw [← hg, h.2, hg]

end

/-! ### CAL_APPLIED (R415) -/

section
variable {l : Nat} {s : State}

theorem refuseSet_keeps (l blk : Nat) (c : W16) (s : State) : Keeps id l s (refuseSet l blk c s) :=
  .ite (fun _ => holmiSend_keeps l s true l 0 _) fun _ => .refl id l s

/-- A set that is due where the seal has closed, or the log has no room, is dropped. -/
theorem calApplied_refused {b : HeldSet} (hb : ((getHm1 s l).met).calHeld = some b) (hd : b.due = true)
    (h : ((getHm1 s l).met).sealed_ = true ∨ 240 ≤ ((getHm1 s l).met).refusable) :
    Makes id l s { getHm1 s l with met := { (getHm1 s l).met with calHeld := none } } (calApplied l s) := by
  have hdrop (c : W16) : Makes id l s { getHm1 s l with met := { (getHm1 s l).met with calHeld := none } }
      (refuseSet l 16 c (setMet s l { (getHm1 s l).met with calHeld := none })) := (Makes.setMet id l s _).step (refuseSet_keeps l 16 c _)
  have hcal : calApplied l s = if ((getHm1 s l).met).sealed_ then refuseSet l 16 0x4005 (setMet s l { (getHm1 s l).met with calHeld := none })
      else if legalRoom ((getHm1 s l).met) = 0 then refuseSet l 16 0x3008 (setMet s l { (getHm1 s l).met with calHeld := none }) else calApplied l s := by
    simp only [calApplied, hb, hd, not_true_eq_false, if_false]
    split_ifs <;> rfl
  rw [hcal]
  split
  · exact hdrop _
  next hs =>
    have hroom : legalRoom ((getHm1 s l).met) = 0 := by
      have := h.resolve_left (by simpa using hs)
      unfold legalRoom
      omega
    rw [if_pos hroom]
    exact hdrop _

/-- A set that is due while the seal is open and the log has room is applied, with its legal entry. -/
theorem calApplied_applied {b : HeldSet} (hb : ((getHm1 s l).met).calHeld = some b) (hd : b.due = true) (hs : ((getHm1 s l).met).sealed_ = false)
    (hr : ((getHm1 s l).met).refusable < 240) : ∃ cal d p, calApplied l s
      = hm1Event l p (legal l 0x01 d (setMet s l { (getHm1 s l).met with cal := cal, calGen := b.gen, calHeld := none })) := by
  have hroom : ¬ legalRoom (getHm1 s l).met = 0 := by
    simp only [legalRoom]
    omega
  simp only [calApplied, hb, hd, hs, hroom, not_true_eq_false, if_false, Bool.false_eq_true]
  exact ⟨_, _, _, rfl⟩

/-! ### CAL_EN_CHANGE (R420) -/

/-- The state with the level of CAL_EN kept. -/
def levelKept (l : Nat) (high : Bool) (s : State) : State := setMet s l { (getHm1 s l).met with calEn := high }

theorem levelKept_makes (l : Nat) (high : Bool) (s : State) :
    Makes id l s { getHm1 s l with met := { (getHm1 s l).met with calEn := high } } (levelKept l high s) := Makes.setMet id l s _

/-- The seal moved, with its legal entry and SEAL_CHANGE. -/
def sealMoved (l : Nat) (closed : Bool) (typ : Nat) (s : State) : State :=
  let t := legal l typ [] (setMet s l { (getHm1 s l).met with sealed_ := closed })
  hm1Event l ([0x92, sealByte (getMet t l)] ++ toLE 6 (rtcSec (getHm1 s l))) t

theorem calEnChange_eq (l : Nat) (high : Bool) (s : State) : calEnChange l high s =
    let u := levelKept l high s
    let rising : Bool := high && !(getHm1 s l).met.calEn
    if rising = true ∧ (getHm1 u l).met.sealed_ = true then
      (if legalRoom (getHm1 u l).met < 2 then metFaultEvent l 2 u else sealMoved l false 3 u)
    else if ¬ high = true ∧ ¬ (getHm1 u l).met.sealed_ = true then sealMoved l true 4 u
    else u := rfl

/-- The HM1 whose seal has moved. -/
theorem sealMoved_makes (l : Nat) (closed : Bool) (typ : Nat) (s : State) :
    ∃ p v, sealMoved l closed typ s = hm1Event l p (legal l typ [] v)
      ∧ Makes id l s { getHm1 s l with met := { (getHm1 s l).met with sealed_ := closed } } v :=
  ⟨_, _, rfl, Makes.setMet id l s _⟩

/-- The seal opened or closed by a level of CAL_EN, which needs room in the log to open. -/
theorem calEnChange_moves {high : Bool} (h : high = true ∧ (getHm1 s l).met.sealed_ = true ∧ (getHm1 s l).met.calEn = false ∧ (getHm1 s l).met.refusable ≤ 238
      ∨ high = false ∧ (getHm1 s l).met.sealed_ = false) :
    ∃ p v, calEnChange l high s = hm1Event l p (legal l (if high then 3 else 4) [] v)
      ∧ Makes id l s { getHm1 s l with met := { (getHm1 s l).met with calEn := high, sealed_ := !high } } v := by
  have hk := levelKept_makes l high s
  have hx : getHm1 (levelKept l high s) l = _ := hk.2
  obtain ⟨p, v, hmoved, hv⟩ := sealMoved_makes l (!high) (if high then 3 else 4) (levelKept l high s)
  rw [hx] at hv
  refine ⟨p, v, ?_, hk.next hv⟩
  rw [← hmoved, calEnChange_eq]
  simp only [hx]
  rcases h with ⟨rfl, hsealed, hen, hroom⟩ | ⟨rfl, hopen⟩
  · have hr : ¬ legalRoom (getHm1 s l).met < 2 := by
      simp only [legalRoom]
      omega
    rw [if_pos ⟨by rw [hen]; rfl, hsealed⟩]
    exact if_neg hr
  · simp [hopen]

/-- A rising level without room leaves the seal closed. -/
theorem calEnChange_noRoom (hs : (getHm1 s l).met.sealed_ = true) (he : (getHm1 s l).met.calEn = false) (hr : 238 < (getHm1 s l).met.refusable) :
    Makes id l s { getHm1 s l with met := { (getHm1 s l).met with calEn := true } } (calEnChange l true s) := by
  have hk := levelKept_makes l true s
  have hx : getHm1 (levelKept l true s) l = _ := hk.2
  have hroom : legalRoom (getHm1 s l).met < 2 := by
    simp only [legalRoom]
    omega
  rw [calEnChange_eq]
  simp only [hx]
  rw [if_pos ⟨by rw [he]; rfl, hs⟩]
  exact (if_pos hroom).symm ▸ hk.step (hm1Event_keeps l _ l _)

/-- A level that does not move the seal is kept alone. -/
theorem calEnChange_still {high : Bool} (h : high = true ∧ ((getHm1 s l).met.sealed_ = false ∨ (getHm1 s l).met.calEn = true)
      ∨ high = false ∧ (getHm1 s l).met.sealed_ = true) : calEnChange l high s = setMet s l { (getHm1 s l).met with calEn := high } := by
  have hx : getHm1 (levelKept l high s) l = _ := (levelKept_makes l high s).2
  rw [calEnChange_eq]
  simp only [hx]
  rcases h with ⟨rfl, h | h⟩ | ⟨rfl, h⟩ <;> simp [h, levelKept]

/-! ### CHECKSUM_CHECK and METROLOGY_START (R421, R423) -/

/-- The HM1 with its checksum taken. -/
def checksumTaken (l : Nat) (h : Hm1) : Hm1 :=
  { h with met := { h.met with legalId := (Config.sha256 (metImage h.met l)).take 8, metFault := h.met.metFault || !imageOk (metImage h.met l) } }

/-- METROLOGY_FAULT told: the session's mark, the event, and the stop of an outlet session (R456). -/
def faultTold (l : Nat) (s : State) : State :=
  let x := getSes s l
  let s := if inSession x then setSes s l { x with faulted := true } else s
  let s := metFaultEvent l 3 s
  if x.outlet then stopWith l 8 true s else s

theorem metFaultEvent_keeps (l reason : Nat) (s : State) : Keeps id l s (metFaultEvent l reason s) := hm1Event_keeps l s l _

theorem faultTold_keeps (l : Nat) (s : State) : Keeps apartFromLogs l s (faultTold l s) := by
  have hses : Keeps apartFromLogs l s (if inSession (getSes s l) then setSes s l { getSes s l with faulted := true } else s) :=
    .ite (fun _ => setSes_keeps l s _) fun _ => .refl _ l s
  have hev := hses.trans (metFaultEvent_keeps l 3 _).logs
  exact .ite (fun _ => hev.trans (stopWith_keeps l _ 8 true)) fun _ => hev

/-- METROLOGY_FAULT raised, with its legal entry. -/
def faultRaised (l : Nat) (s : State) : State := faultTold l (legal l 0x05 [] (setMet s l { (getHm1 s l).met with metFault := true }))

theorem faultRaised_makes (l : Nat) (s : State) :
    Makes apartFromLogs l s { getHm1 s l with met := { (getHm1 s l).met with metFault := true } } (faultRaised l s) :=
  (Makes.setMet apartFromLogs l s _).step ((legal_keeps l _ 0x05 []).trans (faultTold_keeps l _))

theorem checksum_makes (l : Nat) (s : State) : Makes apartFromLogs l s (checksumTaken l (getHm1 s l)) (checksum l s) := by
  obtain ⟨u, hu⟩ : ∃ u, u = setMet s l { (getHm1 s l).met with legalId := (Config.sha256 (metImage (getHm1 s l).met l)).take 8 } := ⟨_, rfl⟩
  have hdef : checksum l s = if imageOk (metImage (getHm1 s l).met l) = true ∨ (getHm1 s l).met.metFault = true then u else faultRaised l u := by
    rw [hu]
    rfl
  have h1 : Makes id l s { getHm1 s l with met := { (getHm1 s l).met with legalId := (Config.sha256 (metImage (getHm1 s l).met l)).take 8 } } u :=
    hu ▸ Makes.setMet id l s _
  have hx : getHm1 u l = _ := h1.2
  rw [hdef]
  by_cases hok : imageOk (metImage (getHm1 s l).met l) = true ∨ (getHm1 s l).met.metFault = true
  · have hf : ((getHm1 s l).met.metFault || !imageOk (metImage (getHm1 s l).met l)) = (getHm1 s l).met.metFault := by
      rcases hok with h | h <;> simp [h]
    rw [if_pos hok, checksumTaken, hf]
    exact h1.weaken apartFromLogs
  · obtain ⟨hi, hm⟩ := not_or.mp hok
    have hf : ((getHm1 s l).met.metFault || !imageOk (metImage (getHm1 s l).met l)) = true := by simp [hi]
    rw [if_neg hok, checksumTaken, hf]
    have h2 := h1.next (faultRaised_makes l u)
    rwa [hx] at h2

/-- The energy that a start restores: power fail's newest record, else the newest snapshot, else what stands. -/
def restoredEnergy (m : Metrology) : Energy :=
  match newer m.ram m.slot, m.minute with
  | some r, _ => r.energy
  | none, some r => r.energy
  | none, none => m.energy

/-- The HM1 as a start finds it, before its checksum. -/
def startedHm1 (h : Hm1) : Hm1 :=
  { h with waking := false, met := { h.met with main := true, ram := none, slot := none, energy := restoredEnergy h.met } }

/-- A session that a start finds is marked as restored (R449). -/
def sessionRestored (l : Nat) (s : State) : State := if inSession (getSes s l) then setSes s l { getSes s l with restored := true } else s

theorem sessionRestored_keeps (l : Nat) (s : State) : Keeps apartFromLogs l s (sessionRestored l s) :=
  .ite (fun _ => setSes_keeps l s _) fun _ => .refl _ l s

/-- A start restores the energy. -/
def energyRestored (l : Nat) (s : State) : State :=
  let h := getHm1 s l
  let m' := { h.met with main := true, ram := none, slot := none }
  let u := setHm1 s l { h with met := m', waking := false }
  match newer h.met.ram h.met.slot, h.met.minute with
  | some r, _ => setMet u l { m' with energy := r.energy }
  | none, some r =>
    sessionRestored l (legal l 0x06 (toLE 4 ((h.rtc - r.at_) / 32768000)) (setMet u l { m' with energy := r.energy }))
  | none, none => u

theorem energyRestored_makes (l : Nat) (s : State) : Makes apartFromLogs l s (startedHm1 (getHm1 s l)) (energyRestored l s) := by
  have h1 := Makes.setHm1 apartFromLogs l s
    { getHm1 s l with waking := false, met := { (getHm1 s l).met with main := true, ram := none, slot := none } }
  have h2 (e : Energy) := h1.next (Makes.setMet apartFromLogs l _ { (getHm1 s l).met with main := true, ram := none, slot := none, energy := e })
  simp only [getHm1_setHm1] at h2
  unfold energyRestored startedHm1 restoredEnergy
  dsimp only
  split
  · exact h2 _
  · exact (h2 _).step ((legal_keeps l _ _ _).trans (sessionRestored_keeps l _))
  · exact h1

theorem apartFromLogs_checksumTaken (l : Nat) (h : Hm1) : apartFromLogs (checksumTaken l h) = checksumTaken l (apartFromLogs h) := rfl

/-- A session that the loss of the supply has cut is brought to its end (R423). -/
theorem metrologyStart_eq (l : Nat) (s : State) : metrologyStart l s =
    let u := checksum l (energyRestored l s)
    if inSession (getSes u l) then unplug l u else u := by
  unfold metrologyStart energyRestored
  rfl

theorem metrologyStart_makes (l : Nat) (s : State) :
    Makes apartFromLogs l s (checksumTaken l (startedHm1 (getHm1 s l))) (metrologyStart l s) := by
  have h1 := energyRestored_makes l s
  obtain ⟨hframe, hx⟩ := h1.next (checksum_makes l (energyRestored l s))
  rw [apartFromLogs_checksumTaken, h1.2, ← apartFromLogs_checksumTaken] at hx
  have h2 : Makes apartFromLogs l s (checksumTaken l (startedHm1 (getHm1 s l))) (checksum l (energyRestored l s)) := ⟨hframe, hx⟩
  rw [metrologyStart_eq]
  exact h2.step (.ite (fun _ => unplug_keeps l _) fun _ => .refl _ l _)

end

end Sys2Proof.Machine
end

section
/-! Tamper inputs, the wake and the power fail of an HM1 (R352, R418, R423, R424, R446, R457). -/

namespace Sys2Proof.Machine

/-! ### What a wake leaves of the package (R348, R352) -/

theorem sendOwner_flash (c : W16) (p : Bytes) (s : State) : (sendOwner c p s).flash = s.flash := by
  unfold sendOwner; split <;> rfl

theorem broadcast_flash (c : W16) (p : Bytes) (s : State) : (broadcast c p s).flash = s.flash := by
  refine foldl_keeps State.flash (fun s m => ?_) _ s
  split <;> rfl

theorem sendWakeCause_flash (ms : List Nat) (b : Bool) (s : State) : (sendWakeCause ms b s).flash = s.flash :=
  foldl_keeps State.flash (f := fun s m =>
    setMbx s m (if b then arriveFirst (getMbx s m) ⟨0xE002, _⟩ else arrive (getMbx s m) ⟨0xE002, _⟩)) (fun _ _ => rfl) ms s

theorem setPkg_flash (p : PkgState) (s : State) : (setPkg p s).flash = s.flash := by
  unfold setPkg
  split
  · rfl
  · exact broadcast_flash _ _ _

theorem refreshPkg_flash (s : State) : (refreshPkg s).flash = s.flash := by
  unfold refreshPkg
  split
  · exact setPkg_flash _ _
  · rfl

theorem setDomState_flash (d : Nat) (st : DomState) (s : State) : (setDomState d st s).flash = s.flash := by
  unfold setDomState
  dsimp only
  split
  · rfl
  · exact (refreshPkg_flash _).trans (sendOwner_flash _ _ _)

theorem gate_flash (d : Nat) (s : State) : (gate d s).flash = s.flash := by
  unfold gate
  split
  · exact setDomState_flash _ _ _
  · rfl

theorem ungate_flash (d : Nat) (s : State) : (ungate d s).flash = s.flash := by
  unfold ungate
  dsimp only
  split
  · exact setDomState_flash _ _ _
  · rfl

theorem pushGoal_flash (g : PkgState) (s : State) : (pushGoal g s).flash = s.flash := by
  refine foldl_keeps State.flash (fun s e => ?_) _ s
  split_ifs
  · exact ungate_flash _ _
  · rfl
  · exact gate_flash _ _

theorem reachGoal_flash (c : Option CmdRef) (g : PkgState) (s : State) : (reachGoal c g s).flash = s.flash := by
  unfold reachGoal
  extract_lets wasStandby _ idle _ arrived _ resumed woken
  have harrived : arrived.flash = s.flash := by
    unfold arrived
    cases g with
    | parked => rfl
    | standby => exact setPkg_flash _ _
    | off | ready | active =>
      rw [refreshPkg_flash]
      split
      · exact setPkg_flash _ _
      · rfl
  have hwoken : woken.flash = arrived.flash := by
    unfold woken
    split
    · exact sendWakeCause_flash _ _ _
    · rfl
  cases c with
  | none => exact hwoken.trans harrived
  | some c => exact hwoken.trans harrived

theorem stepGoal_flash (s : State) : (stepGoal s).flash = s.flash := by
  unfold stepGoal
  split
  · rfl
  · dsimp only
    split_ifs
    · rfl
    · exact (reachGoal_flash _ _ _).trans (pushGoal_flash _ _)
    · exact pushGoal_flash _ _

/-- A transition moved on leaves every HM1. -/
theorem stepGoal_keeps (l : Nat) (s : State) : Keeps id l s (stepGoal s) := by
  have hval {β : Type} (g : State → β) (hg : ∀ v, g (outsidePower v) = g v) : g (stepGoal s) = g s := by
    rw [← hg, stepGoal_outsidePower, hg]
  exact ⟨⟨hval State.mem fun _ => rfl, hval State.obj fun _ => rfl, hval State.island fun _ => rfl, stepGoal_flash s,
    fun k _ => hval (fun v => getHm1 v k) fun _ => rfl⟩, hval (fun v => getHm1 v l) fun _ => rfl⟩

theorem setPower_keeps (l : Nat) (s : State) (p : Power) : Keeps id l s { s with power := p } := .refl id l s

theorem latchCause_keeps (l cause unit : Nat) (s : State) : Keeps id l s (latchCause cause unit s) := setPower_keeps l s _

theorem wakeUp_keeps (l : Nat) (s : State) : Keeps id l s (wakeUp s) := by
  have hheld : Keeps id l s (if s.power.turnOff then { s with power := { s.power with wakeHeld := true } } else s) :=
    .ite (fun _ => setPower_keeps l s _) fun _ => .refl id l s
  exact .ite (fun _ => hheld.trans (setPower_keeps l _ _)) fun _ => .ite (fun _ => hheld.trans (setPower_keeps l _ _)) fun _ =>
    .ite (fun _ => hheld.trans ((setPower_keeps l _ _).trans (stepGoal_keeps l _))) fun _ => hheld

/-- A wake source leaves every HM1. -/
theorem wakeSource_keeps (l cause unit : Nat) (s : State) : Keeps id l s (wakeSource cause unit s) :=
  .ite (fun _ => (latchCause_keeps l cause unit s).trans (wakeUp_keeps l _)) fun _ => .refl id l s

/-! ### COVER_OPEN, COVER_CLOSE and FIREWALL_HIT (R418, R446) -/

section
variable {l : Nat} {s : State}

theorem coverMove_same {on : Bool} (h : (getHm1 s l).met.cover = on) : coverMove l on s = s := if_pos h

theorem coverMove_makes {on : Bool} (h : (getHm1 s l).met.cover ≠ on) :
    Makes apartFromLogs l s { getHm1 s l with met := { (getHm1 s l).met with cover := on } } (coverMove l on s)
    ∧ (getMet (coverMove l on s) l).tamperSeq = (getHm1 s l).met.tamperSeq + 1 := by
  have hdef : coverMove l on s = tamper l 6 0 (!on) (setMet s l { (getHm1 s l).met with cover := on }) := if_neg h
  rw [hdef]
  refine ⟨(Makes.setMet apartFromLogs l s _).step (tamper_keeps l _ 6 0 _), ?_⟩
  rw [tamper_tamperSeq, getMet_setMet]

theorem firewallHit_makes (l : Nat) (s : State) :
    (∃ b, Makes apartFromLogs l s { getHm1 s l with met := { (getHm1 s l).met with hits := satAdd (getHm1 s l).met.hits 1, hitsOvf := b } } (firewallHit l s))
    ∧ (getMet (firewallHit l s) l).tamperSeq = (getHm1 s l).met.tamperSeq + 2 := by
  have hdef : firewallHit l s = tamper l 7 0 true (tamper l 7 0 false (metFaultEvent l 1 (setMet s l { (getHm1 s l).met with
    hits := satAdd (getHm1 s l).met.hits 1, hitsOvf := (getHm1 s l).met.hitsOvf || satLost (getHm1 s l).met.hits 1 }))) := rfl
  have hev (v : State) : getMet (metFaultEvent l 1 v) l = getMet v l := getMet_hm1Event l v l _
  rw [hdef]
  refine ⟨⟨_, (Makes.setMet apartFromLogs l s _).step (((metFaultEvent_keeps l 1 _).logs.trans (tamper_keeps l _ 7 0 false)).trans (tamper_keeps l _ 7 0 true))⟩, ?_⟩
  rw [tamper_tamperSeq, tamper_tamperSeq, hev, getMet_setMet, BitVec.add_assoc]
  rfl

/-! ### HM1_WAKE (R457) -/

/-- A wake out of sealed standby: the cover's opening, where it is a reason, is kept. -/
theorem hm1Wake_makes {r : Byte} (hm : (getHm1 s l).met.main = false) (hw : (getHm1 s l).waking = false) (hr : r ≠ 0) :
    Makes apartFromLogs l s { getHm1 s l with waking := true, met := { (getHm1 s l).met with cover := (getHm1 s l).met.cover || bitOf r 1 } } (hm1Wake l r s) := by
  obtain ⟨u, hu⟩ : ∃ u, u = if bitOf r 1 then coverMove l true s else s := ⟨_, rfl⟩
  have hdef : hm1Wake l r s = wakeSource 3 l (hm1Event l [0xA7, r] (setHm1 u l { getHm1 u l with waking := true })) := by
    rw [hu]
    simp only [hm1Wake, hm, hw, hr, Bool.false_eq_true, or_self, if_false]
  have hcover : Makes apartFromLogs l s { getHm1 s l with met := { (getHm1 s l).met with cover := (getHm1 s l).met.cover || bitOf r 1 } } u := by
    rw [hu]
    by_cases hb : bitOf r 1 = true
    · rw [if_pos hb, hb, Bool.or_true]
      by_cases hc : (getHm1 s l).met.cover = true
      · rw [coverMove_same hc, ← hc]
        exact (Keeps.refl apartFromLogs l s).makes
      · exact (coverMove_makes hc).1
    · rw [if_neg hb, Bool.eq_false_iff.mpr hb, Bool.or_false]
      exact (Keeps.refl apartFromLogs l s).makes
  have hwaking : apartFromLogs { getHm1 u l with waking := true }
      = { apartFromLogs { getHm1 s l with met := { (getHm1 s l).met with cover := (getHm1 s l).met.cover || bitOf r 1 } } with waking := true } :=
    congrArg (fun x => { x with waking := true }) hcover.2
  have hset : Makes apartFromLogs l s { getHm1 s l with waking := true, met := { (getHm1 s l).met with cover := (getHm1 s l).met.cover || bitOf r 1 } }
      (setHm1 u l { getHm1 u l with waking := true }) := by
    obtain ⟨hframe, hx⟩ := hcover.next (Makes.setHm1 apartFromLogs l u { getHm1 u l with waking := true })
    exact ⟨hframe, hx.trans hwaking⟩
  rw [hdef]
  exact hset.step ((hm1Event_keeps l _ l _).logs.trans (wakeSource_keeps l 3 l _).logs)

end

end Sys2Proof.Machine
end

section
/-! INTERVAL_END, TARIFF_SWITCH and POWER_FAIL (R406, R409, R410, R423, R442). -/

namespace Sys2Proof.Machine

/-! ### What every interval's end makes of the metrology core -/

/-- The residues of accumulator `a`, of `u` product units, after the sum `e` (R409): it is added on the side of its sign. -/
def TookSum (m n : Metrology) (a u : Nat) (e : Int) : Prop :=
  Tbl.get 0 n.energy.residues (2 * a + b2n (decide (e < 0))) = (Tbl.get 0 m.energy.residues (2 * a + b2n (decide (e < 0))) + e.natAbs) % u
    ∧ Tbl.get 0 n.energy.residues (2 * a + b2n (decide (0 ≤ e))) = Tbl.get 0 m.energy.residues (2 * a + b2n (decide (0 ≤ e)))

theorem b2n_le_one (b : Bool) : b2n b ≤ 1 := by cases b <;> decide

/-- Each accumulator that takes one sum takes it on the side of its sign. -/
theorem tookSum_foldl_feed {m n : Metrology} {l : List ((Int × Int) × Nat)} {q : (Int × Int) × Nat} (hn : (l.map Prod.snd).Nodup) (hq : q ∈ l)
    (h : n.energy.residues = (l.foldl feed m.energy).residues) : TookSum m n q.2 (unitsPerMwh q.2) q.1.1 := by
  have hown (b : Bool) : Tbl.get 0 n.energy.residues (2 * q.2 + b2n b) = Tbl.get 0 (feed m.energy q).residues (2 * q.2 + b2n b) := by
    have hb := b2n_le_one b
    rw [h]
    exact foldl_feed_own hn hq (by omega) m.energy
  have hsides : decide (0 ≤ q.1.1) = !decide (q.1.1 < 0) := by
    rw [← decide_not, decide_eq_decide]
    omega
  have hne (b : Bool) : ¬ 2 * q.2 + b2n (!b) = 2 * q.2 + b2n b := by cases b <;> simp [b2n]
  refine ⟨?_, ?_⟩
  · rw [hown, feed_residue, if_pos rfl]
  · rw [hown, feed_residue, hsides, if_neg (hne _)]

/-- The sum of an accumulator that a start current holds back, and its part before a tariff switch. -/
def heldBack (below : Bool) (l : List Int) (k : Nat) : Int × Int := if below then (0, 0) else (total l, total (l.take k))

theorem heldBack_sum (below : Bool) (l : List Int) (k : Nat) : (heldBack below l k).1 = if below then 0 else total l := by
  unfold heldBack; split <;> rfl

/-- An interval has three phases. -/
theorem intervalSums_phases (m : Metrology) (l : Nat) (x : IntervalCodes) :
    ∃ p0 p1 p2 q0 q1 q2, (intervalSums m l x).phases = [p0, p1, p2] ∧ (intervalSums m l x).products = [q0, q1, q2] :=
  ⟨_, _, _, _, _, _, rfl, rfl⟩

/-- What the accumulators take from three phases (R409, R410): each phase, their total, and DC. -/
theorem intervalEnergy_phases {m : Metrology} {l k : Nat} {y : IntervalSums} {p0 p1 p2 : PhaseSums} {q0 q1 q2 : List Int}
    (hp : y.phases = [p0, p1, p2]) (hq : y.products = [q0, q1, q2]) : ∃ tot, intervalEnergy m l y k
      = [heldBack (belowStart m l p0) q0 k, heldBack (belowStart m l p1) q1 k, heldBack (belowStart m l p2) q2 k, tot,
         heldBack (belowStartDc m l y.id) ((y.vd.zip y.id).map (fun q => q.1 * q.2)) (4 * k)] := by
  rw [intervalEnergy, hp, hq]
  exact ⟨_, rfl⟩

/-- Under METROLOGY_FAULT none takes any. -/
theorem intervalFeeds_fault {m : Metrology} (l k : Nat) (x : IntervalCodes) (hf : m.metFault = true) : intervalFeeds m l x k = [] := by
  simp [intervalFeeds, hf]

/-- Without it the five accumulators take one sum each. -/
theorem intervalFeeds_sums {m : Metrology} (l k : Nat) (x : IntervalCodes) (hf : m.metFault = false) :
    intervalFeeds m l x k = (intervalEnergy m l (intervalSums m l x) k).zip [0, 1, 2, 3, 4] := by
  simp [intervalFeeds, hf, upFrom]

/-- Where no METROLOGY_FAULT is in force, each phase and DC have taken their sum of the interval. -/
theorem tookSum_interval {m n : Metrology} {l k : Nat} {x : IntervalCodes} (hf : m.metFault = false)
    (hn : n.energy.residues = ((intervalFeeds m l x k).foldl feed m.energy).residues) :
    let y := intervalSums m l x
    (∀ a p q, a < 3 → y.phases[a]? = some p → y.products[a]? = some q → TookSum m n a 2880000000000 (if belowStart m l p then 0 else total q))
    ∧ TookSum m n 4 11520000000000 (if belowStartDc m l y.id then 0 else total ((y.vd.zip y.id).map (fun q => q.1 * q.2))) := by
  intro y
  obtain ⟨p0, p1, p2, q0, q1, q2, hp, hq⟩ := intervalSums_phases m l x
  obtain ⟨tot, hsums⟩ := intervalEnergy_phases (m := m) (l := l) (k := k) hp hq
  rw [intervalFeeds_sums l k x hf, hsums] at hn
  have htook {q : (Int × Int) × Nat} (hmem : q ∈ List.zip [heldBack (belowStart m l p0) q0 k, heldBack (belowStart m l p1) q1 k,
      heldBack (belowStart m l p2) q2 k, tot, heldBack (belowStartDc m l y.id) ((y.vd.zip y.id).map (fun q => q.1 * q.2)) (4 * k)] [0, 1, 2, 3, 4]) :
      TookSum m n q.2 (unitsPerMwh q.2) q.1.1 := tookSum_foldl_feed (by simp) hmem hn
  refine ⟨fun a p q ha hpa hqa => ?_, ?_⟩
  · rw [hp] at hpa
    rw [hq] at hqa
    rw [← heldBack_sum _ _ k]
    have hmem : (heldBack (belowStart m l p) q k, a) ∈ List.zip [heldBack (belowStart m l p0) q0 k, heldBack (belowStart m l p1) q1 k,
        heldBack (belowStart m l p2) q2 k, tot, heldBack (belowStartDc m l y.id) ((y.vd.zip y.id).map (fun q => q.1 * q.2)) (4 * k)] [0, 1, 2, 3, 4] := by
      obtain rfl | rfl | rfl : a = 0 ∨ a = 1 ∨ a = 2 := by omega
      all_goals
        cases hpa
        cases hqa
        simp
    have hunits : unitsPerMwh a = 2880000000000 := if_neg (by omega)
    exact hunits ▸ htook hmem
  · rw [← heldBack_sum _ _ (4 * k)]
    exact htook (q := (heldBack (belowStartDc m l y.id) ((y.vd.zip y.id).map (fun q => q.1 * q.2)) (4 * k), 4)) (by simp)

/-- The flags of a result (R406, R410, R413). -/
theorem intervalResult_flags (h : Hm1) (l : Nat) (x : IntervalCodes) (y : IntervalSums) :
    bitOf (intervalResult h l x y).flags 2 = x.codes.any overrange
    ∧ bitOf (intervalResult h l x y).flags 3 = (y.phases.any (belowStart h.met l) || belowStartDc h.met l y.id)
    ∧ bitOf (intervalResult h l x y).flags 5 = x.partialInterval := by
  have hbit (a b c d e f g k : Bool) : let v := BitVec.ofNat 16 (b2n a + 2 * b2n b + 4 * b2n c + 8 * b2n d + 16 * b2n e + 32 * b2n f + 64 * b2n g + 128 * b2n k)
      bitOf v 2 = c ∧ bitOf v 3 = d ∧ bitOf v 5 = f := by
    revert a b c d e f g k
    decide +kernel
  exact hbit _ _ _ _ _ _ _ _

/-! ### INTERVAL_END and TARIFF_SWITCH -/

/-- What an interval closed makes of the HM1, the tariff apart. -/
theorem closeInterval_makes (l : Nat) (x : IntervalCodes) (split : Option Nat) {switch : State → State}
    (hw : ∀ v, Keeps apartFromTariffs l v (switch v)) (s : State) :
    Makes apartFromTariffs l s (intervalClosed (getHm1 s l) l x (split.getD (x.codes.getD 0 []).length)) (closeInterval l x split switch s) := by
  obtain ⟨v, hv, hend⟩ := closeInterval_steps l x split switch s
  exact (Makes.setHm1 apartFromTariffs l s _).step ((hv.tariffs.trans (hw v)).trans hend.tariffs)

/-- What the end of an interval reports, and what its energy takes. -/
def IntervalTaken (h : Hm1) (l : Nat) (x : IntervalCodes) (partial_ : Bool) (n : Metrology) : Prop :=
  let m := h.met
  let y := intervalSums m l x
  n.energy.seq = m.energy.seq + 1 ∧ n.last.seq = m.energy.seq ∧ n.last.at_ = rtcSec h
    ∧ bitOf n.last.flags 2 = x.codes.any overrange ∧ bitOf n.last.flags 3 = (y.phases.any (belowStart m l) || belowStartDc m l y.id)
    ∧ bitOf n.last.flags 5 = partial_
    ∧ (m.metFault = true → n.energy.residues = m.energy.residues)
    ∧ (m.metFault = false →
        (∀ a p q, a < 3 → y.phases[a]? = some p → y.products[a]? = some q → TookSum m n a 2880000000000 (if belowStart m l p then 0 else total q))
        ∧ TookSum m n 4 11520000000000 (if belowStartDc m l y.id then 0 else total ((y.vd.zip y.id).map (fun q => q.1 * q.2))))

theorem intervalTaken_of_makes {l k : Nat} {x : IntervalCodes} {s t : State}
    (h : Makes apartFromTariffs l s (intervalClosed (getHm1 s l) l x k) t) : IntervalTaken (getHm1 s l) l x x.partialInterval (getMet t l) := by
  have hseq := h.value (fun y => y.met.energy.seq) fun _ => rfl
  have hres := h.value (fun y => y.met.energy.residues) fun _ => rfl
  have hlast : (getMet t l).last = intervalResult (getHm1 s l) l x (intervalSums (getHm1 s l).met l x) := h.value (fun y => y.met.last) fun _ => rfl
  obtain ⟨h2, h3, h5⟩ := intervalResult_flags (getHm1 s l) l x (intervalSums (getHm1 s l).met l x)
  refine ⟨hseq.trans ?_, ?_, ?_, ?_, ?_, ?_, fun hf => hres.trans ?_, fun hf => tookSum_interval (k := k) hf hres⟩
  · exact congrArg (· + 1) (foldl_feed_seq _ _)
  · rw [hlast]; rfl
  · rw [hlast]; rfl
  · rw [hlast, h2]
  · rw [hlast, h3]
  · rw [hlast, h5]
  · show ((intervalFeeds (getHm1 s l).met l x k).foldl feed (getHm1 s l).met.energy).residues = _
    rw [intervalFeeds_fault l k x hf]
    rfl

/-- It depends on the energy and the result alone. -/
theorem IntervalTaken.congr {h : Hm1} {l : Nat} {x : IntervalCodes} {b : Bool} {n m : Metrology} (hn : IntervalTaken h l x b n)
    (he : m.energy = n.energy) (hl : m.last = n.last) : IntervalTaken h l x b m := by
  unfold IntervalTaken TookSum
  rw [he, hl]
  exact hn

/-- What a tariff switch makes of the tariff: it follows the clock, or a block that is due has taken effect. -/
theorem tariffSwitch_tariff {l : Nat} {x : IntervalCodes} {s t : State} (ht : closeInterval l x x.split (applyTariff l) s = t) :
    (tariffDue (getHm1 s l) = none → (getMet t l).tar = (getHm1 s l).met.tar ∧ (getMet t l).tarHeld = (getHm1 s l).met.tarHeld
      ∧ (getMet t l).tariff = tariffAt (tarInForce (getHm1 s l).met) (rtcSec (getHm1 s l)))
    ∧ ∀ b, tariffDue (getHm1 s l) = some b → (getMet t l).tarGen = b.gen ∧ (getMet t l).tarHeld = none := by
  obtain ⟨v, hv, hend⟩ := closeInterval_steps l x x.split (applyTariff l) s
  obtain ⟨w, hw⟩ : ∃ w, applyTariff l v = w := ⟨_, rfl⟩
  rw [ht, hw] at hend
  have hbefore {β : Type} (g : Hm1 → β) (hg : ∀ y, g (apartFromBills y) = g y)
      (hc : g (intervalClosed (getHm1 s l) l x (x.split.getD (x.codes.getD 0 []).length)) = g (getHm1 s l)) : g (getHm1 v l) = g (getHm1 s l) := by
    rw [hv.value g hg, getHm1_setHm1, hc]
  have hdue := hbefore tariffDue (fun _ => rfl) rfl
  have hlater {β : Type} (g : Hm1 → β) (hg : ∀ y, g (apartFromBills y) = g y) :
      g (getHm1 t l) = g (getHm1 w l) := hend.value g hg
  refine ⟨fun hnone => ?_, fun b hb => ?_⟩
  · obtain ⟨-, htar, hheld, htariff⟩ := applyTariff_none (hdue.trans hnone)
    rw [hw] at htar hheld htariff
    have htarv : (getMet v l).tar = (getHm1 s l).met.tar := hbefore (fun y => y.met.tar) (fun _ => rfl) rfl
    have hrtc : (getHm1 v l).rtc = (getHm1 s l).rtc := hbefore Hm1.rtc (fun _ => rfl) rfl
    refine ⟨(hlater (fun y => y.met.tar) fun _ => rfl).trans (htar.trans htarv),
      (hlater (fun y => y.met.tarHeld) fun _ => rfl).trans (hheld.trans (hbefore (fun y => y.met.tarHeld) (fun _ => rfl) rfl)),
      (hlater (fun y => y.met.tariff) fun _ => rfl).trans (htariff.trans ?_)⟩
    have hforce : tarInForce (getMet v l) = tarInForce (getHm1 s l).met := funext fun i => congrArg (fun tar => Tbl.get 0 tar i) htarv
    have hsec : rtcSec (getHm1 v l) = rtcSec (getHm1 s l) := congrArg (· / 32768000) hrtc
    rw [hforce, hsec]
  · obtain ⟨-, hgen, hheld⟩ := applyTariff_due (hdue.trans hb)
    rw [hw] at hgen hheld
    exact ⟨(hlater (fun y => y.met.tarGen) fun _ => rfl).trans hgen, (hlater (fun y => y.met.tarHeld) fun _ => rfl).trans hheld⟩

/-! ### POWER_FAIL (R423) -/

/-- The energy saved as the supply fails, to the RAM and its snapshot. -/
def energySaved (l : Nat) (s : State) : State :=
  let r : Saved := ⟨(getHm1 s l).rtc, (getHm1 s l).met.energy⟩
  setMet s l { (getHm1 s l).met with ram := some r, slot := some r }

/-- Every open power-quality event ended by the loss of the supply. -/
def eventsEnded (l : Nat) (s : State) : State := ([3, 1, 2] : List Nat).foldl (fun s t => pqEnd l t 2 s) s

theorem eventsEnded_keeps (l : Nat) (s : State) : Keeps apartFromPq l s (eventsEnded l s) :=
  Keeps.foldl (fun v t => pqEnd_keeps l v t 2) _ s

theorem pqOpenOf_eventsEnded (l : Nat) (s : State) {k : Nat} (hk : k = 1 ∨ k = 2 ∨ k = 3) : pqOpenOf (getMet (eventsEnded l s) l) k = none := by
  rcases hk with rfl | rfl | rfl <;> simp [eventsEnded, pqOpenOf_pqEnd]

/-- The metrology core without its supply. -/
def supplyLost (m : Metrology) : Metrology :=
  { m with main := false, setLost := m.setLost || m.calHeld.isSome, calHeld := none, tarHeld := none, flagged := false, locked := false }

/-- The HM1 without its supply: the contactors open, and its end of the link down. -/
def unpowered (l : Nat) (s : State) : State :=
  let s := setHm1 s l { getHm1 s l with met := supplyLost (getMet s l), inbox := none, waking := false }
  let e := getEnd s true l
  setEnd (drive l false s) true l { e with up := false, heard := false, greeted := false, wire := [],
                                           out := e.out.filter (fun q => q.1 == 2), unacked := [] }

theorem powerFail_eq (l : Nat) (x : IntervalCodes) (s : State) :
    powerFail l x s = unpowered l (eventsEnded l (energySaved l (closeInterval l { x with partialInterval := true } none id s))) := rfl

theorem unpowered_makes (l : Nat) (s : State) :
    Makes apartFromLogs l s { getHm1 s l with met := supplyLost (getMet s l), inbox := none, waking := false } (unpowered l s)
    ∧ (getSes (unpowered l s) l).cmd = 0 ∧ (getEnd (unpowered l s) true l).up = false := by
  obtain ⟨u, hu⟩ : ∃ u, setHm1 s l { getHm1 s l with met := supplyLost (getMet s l), inbox := none, waking := false } = u := ⟨_, rfl⟩
  have hdef : ∃ e : HolmiEnd, e.up = false ∧ unpowered l s = setEnd (drive l false u) true l e := by
    rw [← hu]
    exact ⟨_, rfl, rfl⟩
  obtain ⟨e, he, hdef⟩ := hdef
  have hmakes := Makes.setHm1 apartFromLogs l s { getHm1 s l with met := supplyLost (getMet s l), inbox := none, waking := false }
  rw [hu] at hmakes
  rw [hdef]
  exact ⟨hmakes.step ((drive_keeps l u false).trans (Keeps.setEnd true l e)), drive_open_cmd l u, by rw [getEnd_setEnd, he]⟩

/-- POWER_FAIL closes the interval, saves its energy, ends the open events and leaves the HM1 without supply. -/
theorem powerFail_makes {l : Nat} {x : IntervalCodes} {s t : State} (ht : powerFail l x s = t) :
    Makes (fun _ => ()) l s (getHm1 s l) t ∧ IntervalTaken (getHm1 s l) l x true (getMet t l) ∧ (getMet t l).lockMoved = false
    ∧ (getMet t l).main = false ∧ (getMet t l).ram = some ⟨(getHm1 s l).rtc, (getMet t l).energy⟩ ∧ (getMet t l).slot = (getMet t l).ram
    ∧ (getSes t l).cmd = 0 ∧ (getEnd t true l).up = false ∧ (getHm1 t l).inbox = none ∧ (getMet t l).calHeld = none
    ∧ ∀ k, k = 1 ∨ k = 2 ∨ k = 3 → pqOpenOf (getMet t l) k = none := by
  obtain ⟨u, hu⟩ : ∃ u, closeInterval l { x with partialInterval := true } none id s = u := ⟨_, rfl⟩
  obtain ⟨v, hv⟩ : ∃ v, eventsEnded l (energySaved l u) = v := ⟨_, rfl⟩
  have h1 := closeInterval_makes l { x with partialInterval := true } none (switch := id) (fun v => .refl _ l v) s
  have h2 := Makes.setMet apartFromPq l u
    { (getHm1 u l).met with ram := some ⟨(getHm1 u l).rtc, (getHm1 u l).met.energy⟩, slot := some ⟨(getHm1 u l).rtc, (getHm1 u l).met.energy⟩ }
  have h3 := h2.step (eventsEnded_keeps l (energySaved l u))
  have hopen {k : Nat} (hk : k = 1 ∨ k = 2 ∨ k = 3) := pqOpenOf_eventsEnded l (energySaved l u) hk
  obtain ⟨h4, hcmd, hup⟩ := unpowered_makes l v
  rw [hu] at h1
  rw [hv] at h3
  simp only [hv] at hopen
  rw [powerFail_eq, hu, hv] at ht
  rw [ht] at h4 hcmd hup
  have hrtc : (getHm1 u l).rtc = (getHm1 s l).rtc := h1.value Hm1.rtc fun _ => rfl
  have henergy : (getMet t l).energy = (getMet u l).energy :=
    (h4.value (fun y => y.met.energy) fun _ => rfl).trans (h3.value (fun y => y.met.energy) fun _ => rfl)
  have hlast : (getMet t l).last = (getMet u l).last := (h4.value (fun y => y.met.last) fun _ => rfl).trans (h3.value (fun y => y.met.last) fun _ => rfl)
  have hmoved : (getMet t l).lockMoved = false := ((h4.value (fun y => y.met.lockMoved) fun _ => rfl).trans
    (h3.value (fun y => y.met.lockMoved) fun _ => rfl)).trans (h1.value (fun y => y.met.lockMoved) fun _ => rfl)
  have hram : (getMet t l).ram = some ⟨(getHm1 u l).rtc, (getHm1 u l).met.energy⟩ :=
    (h4.value (fun y => y.met.ram) fun _ => rfl).trans (h3.value (fun y => y.met.ram) fun _ => rfl)
  have hslot : (getMet t l).slot = some ⟨(getHm1 u l).rtc, (getHm1 u l).met.energy⟩ :=
    (h4.value (fun y => y.met.slot) fun _ => rfl).trans (h3.value (fun y => y.met.slot) fun _ => rfl)
  have hpq (k : Nat) : pqOpenOf (getMet t l) k = pqOpenOf (getMet v l) k := h4.value (fun y => pqOpenOf y.met k) fun _ => rfl
  refine ⟨?_, (intervalTaken_of_makes h1).congr henergy hlast, hmoved, h4.value (fun y => y.met.main) fun _ => rfl, ?_, hslot.trans hram.symm, hcmd, hup,
    h4.value Hm1.inbox fun _ => rfl, h4.value (fun y => y.met.calHeld) fun _ => rfl, fun k hk => (hpq k).trans (hopen hk)⟩
  · exact ⟨((h1.next h3).next h4).1, rfl⟩
  · rw [hram, hrtc, henergy]
    rfl

end Sys2Proof.Machine
end

section
/-! The events of metrology (R406-R423, R442, R446, R457). -/

namespace Sys2Proof.Machine

/-! ### Instructions that act where a condition holds -/

/-- The instruction gives a next state that `f` describes, with the metrology core on link `l`, and that differs from `s` in the HM1 on this link
and outside the memories, the objects, the island and the flash. -/
def Gives (l : Nat) (s : State) (i : Instr) (f : State → Metrology → Prop) : Prop :=
  ∃ t, exec i s = .next t ∧ f t (getMet t l) ∧ t.mem = s.mem ∧ t.obj = s.obj ∧ t.island = s.island ∧ t.flash = s.flash
    ∧ ∀ k, k ≠ l → getHm1 t k = getHm1 s k

section
variable {l : Nat} {s u : State} {i : Instr} {x : Hm1} {α : Type} {g : Hm1 → α}

theorem gives_of {f : State → Metrology → Prop} (hi : exec i s = .next { u with free := u.free + 1 }) (hu : Makes g l s x u)
    (hf : f { u with free := u.free + 1 } (getMet u l)) : Gives l s i f := ⟨_, hi, hf, hu.1⟩

theorem exec_when {b c : Bool} {f : State → State} (hi : exec i s = inRange b (when c f s)) (hb : b = true) (hc : c = true) :
    exec i s = .next { f s with free := (f s).free + 1 } := by
  rw [hi, hb, hc]
  rfl

theorem exec_when_not {b c : Bool} {f : State → State} (hi : exec i s = inRange b (when c f s)) (hb : b = true) (hc : c = false) :
    exec i s = .next { s with free := s.free + 1 } := by
  rw [hi, hb, hc]
  rfl

theorem exec_inRange {b : Bool} {v : State} (hi : exec i s = inRange b v) (hb : b = true) : exec i s = .next { v with free := v.free + 1 } := by
  rw [hi, hb]
  rfl

end

/-! ### Intervals -/

/-- When an interval is one that R406 forms. -/
theorem intervalFormed_iff (m : Metrology) (l : Nat) (x : IntervalCodes) :
    intervalFormed m l x = true ↔ x.partialInterval = m.lockMoved ∧ (m.lockMoved = true
      ∨ (m.locked = true ∧ x.cycles = if bitOf (calWord m l 43) 0 then 12 else 10)
      ∨ (m.locked = false ∧ (x.codes.getD 0 []).length = 1600 ∧ (x.codes.getD 7 []).length = 6400)) := by
  have hcycles : (if nominal m l = 60000 then 12 else 10) = if bitOf (calWord m l 43) 0 then 12 else 10 := by
    unfold nominal
    split <;> rfl
  unfold intervalFormed
  rw [hcycles]
  cases hm : m.lockMoved <;> cases hl : m.locked <;> simp

/-- The end of an interval that is formed, or of one that the loss of the supply cuts. -/
theorem gives_interval {l : Nat} {s : State} (hl : l < 4) {x : IntervalCodes} {i : Instr} (hx : codesOk x = true)
    (hi : i = .intervalEnd l x ∨ i = .tariffSwitch l x ∨ i = .powerFail l x) (hm : (getHm1 s l).met.main = true)
    (hf : intervalFormed (getHm1 s l).met l x = true ∨ i = .powerFail l x) :
    Gives l s i (fun t n => IntervalTaken (getHm1 s l) l x (x.partialInterval || decide (i = .powerFail l x)) n
      ∧ n.lockMoved = false ∧ (i ≠ .powerFail l x → n.calHeld = (getHm1 s l).met.calHeld.map (fun b => { b with due := true }))
      ∧ (i = .tariffSwitch l x → tariffDue (getHm1 s l) = none → n.tar = (getHm1 s l).met.tar ∧ n.tarHeld = (getHm1 s l).met.tarHeld
          ∧ n.tariff = tariffAt (tarInForce (getHm1 s l).met) (rtcSec (getHm1 s l)))
      ∧ (i = .tariffSwitch l x → ∀ b, tariffDue (getHm1 s l) = some b → n.tarGen = b.gen ∧ n.tarHeld = none)
      ∧ (i = .powerFail l x → n.main = false ∧ n.ram = some ⟨(getHm1 s l).rtc, n.energy⟩ ∧ n.slot = n.ram ∧ (getSes t l).cmd = 0
          ∧ (getEnd t true l).up = false ∧ (getHm1 t l).inbox = none ∧ n.calHeld = none ∧ ∀ k, k = 1 ∨ k = 2 ∨ k = 3 → pqOpenOf n k = none)) := by
  have hok : (decide (l < 4) && codesOk x) = true := by rw [decide_eq_true hl, hx]; rfl
  rcases hi with rfl | rfl | rfl
  · have hne : Instr.intervalEnd l x ≠ .powerFail l x := fun h => by cases h
    have hnt : Instr.intervalEnd l x ≠ .tariffSwitch l x := fun h => by cases h
    have hrun : exec (.intervalEnd l x) s = _ := exec_when rfl hok (by rw [getMet, hm, hf.resolve_right hne]; rfl)
    obtain ⟨t, ht⟩ : ∃ t, closeInterval l x none id s = t := ⟨_, rfl⟩
    have h1 := closeInterval_makes l x none (switch := id) (fun v => .refl _ l v) s
    rw [ht] at h1 hrun
    refine gives_of hrun h1 ⟨?_, h1.value (fun y => y.met.lockMoved) fun _ => rfl, fun _ => h1.value (fun y => y.met.calHeld) fun _ => rfl,
      fun h => absurd h hnt, fun h => absurd h hnt, fun h => absurd h hne⟩
    rw [decide_eq_false hne, Bool.or_false]
    exact intervalTaken_of_makes h1
  · have hne : Instr.tariffSwitch l x ≠ .powerFail l x := fun h => by cases h
    have hrun : exec (.tariffSwitch l x) s = _ := exec_when rfl hok (by rw [getMet, hm, hf.resolve_right hne]; rfl)
    obtain ⟨t, ht⟩ : ∃ t, closeInterval l x x.split (applyTariff l) s = t := ⟨_, rfl⟩
    have h1 := closeInterval_makes l x x.split (applyTariff_keeps l) s
    obtain ⟨hnone, hdue⟩ := tariffSwitch_tariff ht
    rw [ht] at h1 hrun
    refine gives_of hrun h1 ⟨?_, h1.value (fun y => y.met.lockMoved) fun _ => rfl, fun _ => h1.value (fun y => y.met.calHeld) fun _ => rfl,
      fun _ => hnone, fun _ => hdue, fun h => absurd h hne⟩
    rw [decide_eq_false hne, Bool.or_false]
    exact intervalTaken_of_makes h1
  · have hnt : Instr.powerFail l x ≠ .tariffSwitch l x := fun h => by cases h
    have hrun : exec (.powerFail l x) s = _ := exec_when rfl hok (by rw [getMet, hm])
    obtain ⟨t, ht⟩ : ∃ t, powerFail l x s = t := ⟨_, rfl⟩
    obtain ⟨h1, htaken, hmoved, hrest⟩ := powerFail_makes ht
    rw [ht] at hrun
    refine gives_of hrun h1 ⟨?_, hmoved, fun h => absurd rfl h, fun h => absurd h hnt, fun h => absurd h hnt, fun _ => hrest⟩
    rwa [decide_eq_true rfl, Bool.or_true]

/-! ### Calibration, the seal and the checksum -/

section
variable {l : Nat} {s : State} (hl : l < 4) (hm : (getHm1 s l).met.main = true)
include hl hm

theorem gives_calApplied_refused {b : HeldSet} (hb : (getHm1 s l).met.calHeld = some b) (hd : b.due = true)
    (h : (getHm1 s l).met.sealed_ = true ∨ 240 ≤ (getHm1 s l).met.refusable) :
    Gives l s (.calApplied l) (fun _ n => n = { (getHm1 s l).met with calHeld := none }) :=
  gives_of (exec_when rfl (decide_eq_true hl) hm) (calApplied_refused hb hd h) (congrArg Hm1.met (calApplied_refused hb hd h).2)

theorem gives_calApplied {b : HeldSet} (hb : (getHm1 s l).met.calHeld = some b) (hd : b.due = true) (hs : (getHm1 s l).met.sealed_ = false)
    (hr : (getHm1 s l).met.refusable < 240) :
    Gives l s (.calApplied l) (fun _ n => n.calGen = b.gen ∧ n.calHeld = none ∧ n.refusable = (getHm1 s l).met.refusable + 1
      ∧ n.prot.length = (getHm1 s l).met.prot.length + 1 ∧ n.energy = (getHm1 s l).met.energy) := by
  obtain ⟨cal, d, p, hdef⟩ := calApplied_applied hb hd hs hr
  obtain ⟨v, hv⟩ : ∃ v, setMet s l { (getHm1 s l).met with cal := cal, calGen := b.gen, calHeld := none } = v := ⟨_, rfl⟩
  have hset := Makes.setMet apartFromLogs l s { (getHm1 s l).met with cal := cal, calGen := b.gen, calHeld := none }
  have hroom : (getMet v l).refusable < 240 := by rw [← hv, getMet_setMet]; exact hr
  obtain ⟨hcount, hprot⟩ := legal_refusable l v d (typ := 1) (by omega) hroom
  rw [← hv, getMet_setMet, hv] at hcount hprot
  rw [hv] at hset hdef
  have h1 := hset.step ((legal_keeps l v 1 d).trans (hm1Event_keeps l _ l p).logs)
  rw [← hdef] at h1
  have hlast : getMet (calApplied l s) l = getMet (legal l 1 d v) l := by rw [hdef, getMet_hm1Event]
  refine gives_of (exec_when rfl (decide_eq_true hl) hm) h1 ⟨h1.value (fun y => y.met.calGen) fun _ => rfl, h1.value (fun y => y.met.calHeld) fun _ => rfl,
    ?_, ?_, h1.value (fun y => y.met.energy) fun _ => rfl⟩
  · rw [hlast, hcount]
  · rw [hlast, hprot]

/-- The seal moves with the level of CAL_EN. -/
theorem gives_calEnChange_moves {high : Bool} (h : high = true ∧ (getHm1 s l).met.sealed_ = true ∧ (getHm1 s l).met.calEn = false ∧ (getHm1 s l).met.refusable ≤ 238
      ∨ high = false ∧ (getHm1 s l).met.sealed_ = false) :
    Gives l s (.calEnChange l high) (fun _ n => n.sealed_ = !high ∧ n.calEn = high
      ∧ (high = true → n.refusable = (getHm1 s l).met.refusable + 1) ∧ n.energy = (getHm1 s l).met.energy) := by
  obtain ⟨p, v, hdef, hv⟩ := calEnChange_moves h
  have hv' : getMet v l = { (getHm1 s l).met with calEn := high, sealed_ := !high } := congrArg Hm1.met hv.2
  have h1 := (hv.weaken apartFromLogs).step ((legal_keeps l v (if high then 3 else 4) []).trans (hm1Event_keeps l _ l p).logs)
  rw [← hdef] at h1
  refine gives_of (exec_when rfl (decide_eq_true hl) hm) h1 ⟨h1.value (fun y => y.met.sealed_) fun _ => rfl, h1.value (fun y => y.met.calEn) fun _ => rfl,
    fun hh => ?_, h1.value (fun y => y.met.energy) fun _ => rfl⟩
  subst hh
  have hroom : (getHm1 s l).met.refusable ≤ 238 := by
    rcases h with ⟨-, -, -, h⟩ | ⟨h, -⟩
    · exact h
    · cases h
  have hlast : getMet (calEnChange l true s) l = getMet (legal l 3 [] v) l := by rw [hdef, getMet_hm1Event]; rfl
  rw [hlast, (legal_refusable l v [] (typ := 3) (by omega) (by rw [hv']; exact Nat.lt_of_le_of_lt hroom (by omega))).1, hv']

theorem gives_checksum : Gives l s (.checksumCheck l) (fun _ n => n.legalId = (Config.sha256 (metImage (getHm1 s l).met l)).take 8
    ∧ n.metFault = ((getHm1 s l).met.metFault || !imageOk (metImage (getHm1 s l).met l))
    ∧ n.energy = (getHm1 s l).met.energy ∧ n.sealed_ = (getHm1 s l).met.sealed_) := by
  have h1 := checksum_makes l s
  exact gives_of (exec_when rfl (decide_eq_true hl) hm) h1 ⟨h1.value (fun y => y.met.legalId) fun _ => rfl, h1.value (fun y => y.met.metFault) fun _ => rfl,
    h1.value (fun y => y.met.energy) fun _ => rfl, h1.value (fun y => y.met.sealed_) fun _ => rfl⟩

/-! ### Power quality and the lock -/

theorem gives_pqStart {rms : List Nat} (hr : rms.length = 3) :
    Gives l s (.pqEventStart l rms) (fun _ n => ∀ k, k = 1 ∨ k = 2 ∨ k = 3 →
      (pqOpenOf (getHm1 s l).met k = none → pqPhases (getHm1 s l).met k rms = 0 → pqOpenOf n k = none)
      ∧ (pqOpenOf (getHm1 s l).met k = none → pqPhases (getHm1 s l).met k rms ≠ 0
          → ∃ e, pqOpenOf n k = some e ∧ e.phases = pqPhases (getHm1 s l).met k rms ∧ e.start = (getHm1 s l).rtc ∧ n.flagged = true)
      ∧ (∀ o, pqOpenOf (getHm1 s l).met k = some o
          → ∃ e, pqOpenOf n k = some e ∧ e.start = o.start ∧ e.phases = (o.phases ||| pqPhases (getHm1 s l).met k rms))) := by
  have hset := Makes.setMet id l s (innerMarked (startedPq (getHm1 s l).rtc rms (getMet s l)))
  rw [← pqStart_eq] at hset
  have hn : getMet (pqStart l rms s) l = innerMarked (startedPq (getHm1 s l).rtc rms (getHm1 s l).met) := congrArg Hm1.met hset.2
  obtain ⟨hflag, hopen⟩ := innerMarked_open (startedPq (getHm1 s l).rtc rms (getHm1 s l).met)
  refine gives_of (exec_when rfl (decide_eq_true ⟨hl, hr⟩) hm) hset fun k hk => ?_
  rw [hn]
  obtain ⟨b, hb⟩ := hopen k
  rw [pqOpenOf_startedPq _ _ _ hk] at hb
  refine ⟨fun ho hp => ?_, fun ho hp => ?_, fun o ho => ?_⟩
  · rw [hb, ho, startedBy, if_pos hp]
    rfl
  · rw [ho, startedBy, if_neg hp] at hb
    exact ⟨_, hb, rfl, rfl, hflag.trans (startedPq_flagged _ _ _ hk ho hp)⟩
  · rw [ho] at hb
    exact ⟨_, hb, rfl, rfl⟩

theorem gives_pqEvent {rms : List Nat} (hr : rms.length = 3) :
    Gives l s (.pqEvent l rms) (fun _ n => ∀ k, k = 1 ∨ k = 2 ∨ k = 3 →
      (pqOver (getHm1 s l).met k rms = true → pqOpenOf n k = none)
      ∧ (pqOver (getHm1 s l).met k rms = false → (pqOpenOf n k).map PqOpen.start = (pqOpenOf (getHm1 s l).met k).map PqOpen.start)
      ∧ n.energy = (getHm1 s l).met.energy) := by
  have hkeeps := pqWindow_keeps l rms s
  refine gives_of (exec_when rfl (decide_eq_true ⟨hl, hr⟩) hm) hkeeps.makes fun k hk => ⟨fun ho => ?_, fun ho => ?_, hkeeps.value (fun y => y.met.energy) fun _ => rfl⟩
  · rw [pqWindow_open l rms s hk]
    exact if_pos ho
  · rw [pqWindow_open l rms s hk]
    simp only [getMet, ho, Bool.false_eq_true, if_false, Option.map_map]
    rfl

theorem gives_acLock (x : AcMeasure) :
    Gives l s (.acLock l x) (fun t n => n = { (getHm1 s l).met with
        locked := acLocked (getHm1 s l).met l x, lockMoved := (getHm1 s l).met.lockMoved || (acLocked (getHm1 s l).met l x != (getHm1 s l).met.locked),
        lockLost := (getHm1 s l).met.lockLost || !acLocked (getHm1 s l).met l x }
      ∧ (getHm1 t l).ses = (getHm1 s l).ses ∧ (acLocked (getHm1 s l).met l x = true → (getHm1 t l).plc = (getHm1 s l).plc)) := by
  have hset : Makes id l s _ (acLock l x s) := Makes.setHm1 id l s _
  refine gives_of (exec_when rfl (decide_eq_true hl) hm) hset ⟨congrArg Hm1.met hset.2, hset.value Hm1.ses fun _ => rfl, fun h => ?_⟩
  have hplc := hset.value Hm1.plc fun _ => rfl
  simp only [h, if_true] at hplc
  exact hplc

theorem gives_firewallHit : Gives l s (.firewallHit l) (fun _ n => n.hits = satAdd (getHm1 s l).met.hits 1
    ∧ n.tamperSeq = (getHm1 s l).met.tamperSeq + 2 ∧ n.energy = (getHm1 s l).met.energy ∧ n.cal = (getHm1 s l).met.cal) := by
  obtain ⟨⟨b, h1⟩, hseq⟩ := firewallHit_makes l s
  have hrun : exec (.firewallHit l) s = _ := exec_when rfl (decide_eq_true hl) hm
  generalize firewallHit l s = t at h1 hseq hrun
  exact gives_of hrun h1 ⟨h1.value (fun y => y.met.hits) fun _ => rfl, hseq,
    h1.value (fun y => y.met.energy) fun _ => rfl, h1.value (fun y => y.met.cal) fun _ => rfl⟩

end

/-! ### Sealed standby -/

section
variable {l : Nat} {s : State} (hl : l < 4) (hm : (getHm1 s l).met.main = false)
include hl hm

theorem gives_metrologyStart : Gives l s (.metrologyStart l) (fun t n => n.main = true ∧ n.ram = none ∧ n.slot = none ∧ (getHm1 t l).waking = false
    ∧ n.energy = restoredEnergy (getHm1 s l).met) := by
  have h1 := metrologyStart_makes l s
  exact gives_of (exec_when rfl (decide_eq_true hl) (by rw [getMet, hm]; rfl)) h1 ⟨h1.value (fun y => y.met.main) fun _ => rfl,
    h1.value (fun y => y.met.ram) fun _ => rfl, h1.value (fun y => y.met.slot) fun _ => rfl, h1.value Hm1.waking fun _ => rfl,
    h1.value (fun y => y.met.energy) fun _ => rfl⟩

theorem gives_hm1Wake {r : Byte} (hw : (getHm1 s l).waking = false) (hr : r ≠ 0) :
    Gives l s (.hm1Wake l r) (fun t n => (getHm1 t l).waking = true ∧ n.main = false ∧ n.energy = (getHm1 s l).met.energy
      ∧ n.cover = ((getHm1 s l).met.cover || bitOf r 1)) := by
  have h1 := hm1Wake_makes hm hw hr
  exact gives_of (exec_inRange rfl (decide_eq_true hl)) h1 ⟨h1.value Hm1.waking fun _ => rfl, (h1.value (fun y => y.met.main) fun _ => rfl).trans hm,
    h1.value (fun y => y.met.energy) fun _ => rfl, h1.value (fun y => y.met.cover) fun _ => rfl⟩

end

theorem gives_coverMove {l : Nat} {s : State} {i : Instr} {on : Bool} (hi : exec i s = .next { coverMove l on s with free := (coverMove l on s).free + 1 })
    (h : (getHm1 s l).met.cover ≠ on) :
    Gives l s i (fun _ n => n.cover = on ∧ n.tamperSeq = (getHm1 s l).met.tamperSeq + 1 ∧ n.energy = (getHm1 s l).met.energy) := by
  obtain ⟨h1, hseq⟩ := coverMove_makes h
  exact gives_of hi h1 ⟨h1.value (fun y => y.met.cover) fun _ => rfl, hseq, h1.value (fun y => y.met.energy) fun _ => rfl⟩

end Sys2Proof.Machine
end

section
/-! The obligation on the events of metrology. -/

namespace Sys2Proof.Machine

/-- Where a record of power fail is held, it is what a start restores; else the newest snapshot; else what stands. -/
theorem restoredEnergy_cases (m : Metrology) :
    (∀ r, newer m.ram m.slot = some r → restoredEnergy m = r.energy)
    ∧ (m.ram = none → m.slot = none → ∀ r, m.minute = some r → restoredEnergy m = r.energy)
    ∧ (m.ram = none → m.slot = none → m.minute = none → restoredEnergy m = m.energy) := by
  refine ⟨fun r h => ?_, fun hr hs r h => ?_, fun hr hs h => ?_⟩
  · simp [restoredEnergy, h]
  · simp [restoredEnergy, newer, hr, hs, h]
  · simp [restoredEnergy, newer, hr, hs, h]

/-- An interval that does not run, or is not one that R406 forms, changes nothing. -/
theorem exec_interval_same {l : Nat} {s : State} (hl : l < 4) {x : IntervalCodes} {i : Instr} (hx : codesOk x = true)
    (hi : i = .intervalEnd l x ∨ i = .tariffSwitch l x ∨ i = .powerFail l x)
    (h : (getHm1 s l).met.main = false ∨ ¬ (intervalFormed (getHm1 s l).met l x = true ∨ i = .powerFail l x)) :
    exec i s = .next { s with free := s.free + 1 } := by
  have hok : (decide (l < 4) && codesOk x) = true := by rw [decide_eq_true hl, hx]; rfl
  have hnot : i ≠ .powerFail l x → ((getMet s l).main && intervalFormed (getMet s l) l x) = false := by
    intro hne
    rcases h with h | h
    · rw [getMet, h, Bool.false_and]
    · rw [getMet, Bool.eq_false_iff.mpr (not_or.mp h).1, Bool.and_false]
  rcases hi with rfl | rfl | rfl
  · exact exec_when_not rfl hok (hnot fun h => by cases h)
  · exact exec_when_not rfl hok (hnot fun h => by cases h)
  · exact exec_when_not rfl hok (h.resolve_right fun h => h (.inr rfl))

/-- CAL_APPLIED without a set that is due changes nothing. -/
theorem exec_calApplied_same {l : Nat} {s : State} (hl : l < 4) (h : (getHm1 s l).met.main = false ∨ (getHm1 s l).met.calHeld = none
    ∨ (getHm1 s l).met.calHeld.any (fun b => !b.due) = true) : exec (.calApplied l) s = .next { s with free := s.free + 1 } := by
  by_cases hm : (getHm1 s l).met.main = true
  · have hsame : calApplied l s = s := by
      cases hc : (getHm1 s l).met.calHeld with
      | none => simp [calApplied, hc]
      | some b =>
        have hd : b.due = false := by simpa [hm, hc] using h
        simp [calApplied, hc, hd]
    have hrun : exec (.calApplied l) s = _ := exec_when rfl (decide_eq_true hl) hm
    rwa [hsame] at hrun
  · exact exec_when_not rfl (decide_eq_true hl) (Bool.eq_false_iff.mpr hm)

/-- What acts within its range and leaves the state as it was changes nothing. -/
theorem exec_inRange_same {b : Bool} {s v : State} {i : Instr} (hi : exec i s = inRange b v) (hb : b = true) (hv : v = s) :
    exec i s = .next { s with free := s.free + 1 } := by
  rw [exec_inRange hi hb, hv]

/-- HM1_WAKE with the supply up, with the die awake or without a reason changes nothing. -/
theorem hm1Wake_same {l : Nat} {s : State} {r : Byte} (h : (getHm1 s l).met.main = true ∨ (getHm1 s l).waking = true ∨ r = 0) :
    hm1Wake l r s = s := if_pos h

/-- A level that does not move the seal is kept alone. -/
theorem exec_calEnChange_still {l : Nat} {s : State} (hl : l < 4) (hm : (getHm1 s l).met.main = true) {high : Bool}
    (h : high = true ∧ ((getHm1 s l).met.sealed_ = false ∨ (getHm1 s l).met.calEn = true) ∨ high = false ∧ (getHm1 s l).met.sealed_ = true) :
    exec (.calEnChange l high) s = .next { setMet s l { (getHm1 s l).met with calEn := high } with free := s.free + 1 } := by
  have hrun : exec (.calEnChange l high) s = _ := exec_when rfl (decide_eq_true hl) hm
  rwa [calEnChange_still h] at hrun

/-- A rising level of CAL_EN without room for its two legal entries keeps the level alone. -/
theorem gives_calEnChange_noRoom {l : Nat} {s : State} (hl : l < 4) (hm : (getHm1 s l).met.main = true) (hs : (getHm1 s l).met.sealed_ = true)
    (he : (getHm1 s l).met.calEn = false) (hr : 238 < (getHm1 s l).met.refusable) :
    Gives l s (.calEnChange l true) (fun _ n => n = { (getHm1 s l).met with calEn := true }) :=
  gives_of (exec_when rfl (decide_eq_true hl) hm) (calEnChange_noRoom hs he hr) (congrArg Hm1.met (calEnChange_noRoom hs he hr).2)

/-- The frequency of a window of R414. -/
theorem exec_frequencyWindow {l : Nat} {s : State} (hl : l < 4) (hm : (getHm1 s l).met.main = true) (c us : Nat) (lost : Bool) :
    exec (.frequencyWindow l c us lost) s = .next { setMet s l { (getHm1 s l).met with
      lockLost := false,
      freq := if lost = true ∨ (getHm1 s l).met.lockLost = true ∨ (getHm1 s l).met.locked = false ∨ us = 0 then 0
              else BitVec.ofNat 32 ((2 * c * 10 ^ 9 + us) / (2 * us)) } with free := s.free + 1 } := by
  have hrun : exec (.frequencyWindow l c us lost) s = _ := exec_when rfl (decide_eq_true hl) hm
  rw [hrun]
  simp only [frequencyWindow, getMet, Bool.or_eq_true, Bool.not_eq_true', beq_iff_eq, or_assoc]
  rfl

/-- Settles O55: an interval by its three steps, the other events each by what it makes of its HM1. -/
theorem metrologyEvents : Obligations.MetrologyEvents := by
  intro l s hl h m same ends gives side
  have hl' : decide (l < 4) = true := decide_eq_true hl
  refine ⟨?intervals, fun hn => exec_calApplied_same hl hn, ?calApplied, ?unsupplied, ?calEn, fun hm => gives_checksum hl hm,
    ?supplied, ?started, ?startedAny, ?standby, ?powerQuality, ?frequency, ?lock, ?cover, fun hm => gives_firewallHit hl hm,
    fun hm => exec_when_not rfl hl' hm⟩
  case intervals =>
    intro x i hx hi y formed
    refine ⟨fun hn => exec_interval_same hl hx hi hn, intervalFormed_iff m l x, fun hm hf => ?_⟩
    obtain ⟨t, ht, ⟨⟨hseq, hlast, hat, h2, h3, h5, hfault, hsums⟩, hevent⟩, hrest⟩ := gives_interval hl hx hi hm hf
    exact ⟨t, ht, ⟨hseq, hlast, hat, h2, h3, h5, hfault, hsums, hevent⟩, hrest⟩
  case calApplied =>
    intro hm b hb hd
    exact ⟨fun hs => gives_calApplied_refused hl hm hb hd (.inl hs), fun hs hr => gives_calApplied hl hm hb hd hs hr,
      fun hs hr => gives_calApplied_refused hl hm hb hd (.inr hr)⟩
  case unsupplied =>
    intro hm rms hr
    exact ⟨fun b => exec_when_not rfl hl' hm, exec_when_not rfl hl' hm, exec_when_not rfl hl' hm,
      exec_when_not rfl (decide_eq_true ⟨hl, hr⟩) hm, exec_when_not rfl (decide_eq_true ⟨hl, hr⟩) hm, fun x => exec_when_not rfl hl' hm⟩
  case calEn =>
    intro hm
    refine ⟨fun hs he hr => ?_, fun hs he hr => gives_calEnChange_noRoom hl hm hs he hr, fun hs => ?_,
      fun h => exec_calEnChange_still hl hm (.inl ⟨rfl, h⟩), fun hs => exec_calEnChange_still hl hm (.inr ⟨rfl, hs⟩)⟩
    · obtain ⟨t, ht, ⟨hsealed, hen, hcount, henergy⟩, hrest⟩ := gives_calEnChange_moves hl hm (.inl ⟨rfl, hs, he, hr⟩)
      exact ⟨t, ht, ⟨hsealed, hen, hcount rfl, henergy⟩, hrest⟩
    · obtain ⟨t, ht, ⟨hsealed, hen, -, henergy⟩, hrest⟩ := gives_calEnChange_moves hl hm (.inr ⟨rfl, hs⟩)
      exact ⟨t, ht, ⟨hsealed, hen, henergy⟩, hrest⟩
  case supplied =>
    intro hm
    have hsupplied : (!(getMet s l).main) = false := by rw [getMet, hm]; rfl
    have hrun : exec (.energySnapshot l) s = _ := exec_when rfl hl' hm
    exact ⟨hrun, exec_when_not rfl hl' hsupplied, exec_when_not rfl hl' hsupplied,
      fun r => exec_inRange_same rfl hl' (hm1Wake_same (.inl hm))⟩
  case started =>
    intro hm hidle
    obtain ⟨hrecord, hminute, hnone⟩ := restoredEnergy_cases m
    obtain ⟨t, ht, ⟨hmain, hram, hslot, hwaking, he⟩, hrest⟩ := gives_metrologyStart hl hm
    exact ⟨t, ht, ⟨hmain, hram, hslot, hwaking, fun r h => he.trans (hrecord r h), fun hr hs r h => he.trans (hminute hr hs r h),
      fun hr hs h => he.trans (hnone hr hs h)⟩, hrest⟩
  case startedAny =>
    intro hm
    obtain ⟨t, ht, ⟨hmain, hram, hslot, hwaking, -⟩, hrest⟩ := gives_metrologyStart hl hm
    exact ⟨t, ht, ⟨hmain, hram, hslot, hwaking⟩, hrest⟩
  case standby =>
    intro hm
    have hstandby : (!(getMet s l).main) = true := by rw [getMet, hm]; rfl
    have hrun : exec (.hm1MainSupplyTimeout l) s = _ := exec_when rfl hl' hstandby
    exact ⟨hrun, fun hw r => exec_inRange_same rfl hl' (hm1Wake_same (.inr (.inl hw))),
      exec_inRange_same rfl hl' (hm1Wake_same (.inr (.inr rfl))), fun hw r hr => gives_hm1Wake hl hm hw hr⟩
  case powerQuality =>
    intro rms hr hm
    exact ⟨gives_pqStart hl hm hr, gives_pqEvent hl hm hr⟩
  case frequency =>
    intro c us lost
    exact ⟨fun hm => exec_frequencyWindow hl hm c us lost, fun hm => exec_when_not rfl hl' hm⟩
  case lock =>
    intro x hm nominal on
    exact gives_acLock hl hm x
  case cover =>
    intro i on hi
    have hrun : exec i s = inRange (decide (l < 4)) (coverMove l on s) := by
      rcases hi with ⟨rfl, rfl⟩ | ⟨rfl, rfl⟩ <;> rfl
    exact ⟨fun h => exec_inRange_same hrun hl' (coverMove_same h), fun h => gives_coverMove (exec_inRange hrun hl') h⟩

end Sys2Proof.Machine
end

section
/-! What a refused write to a register counts (R78, R79), and the index writes of ingest channels and relays (R254, R255, R494). -/

namespace Sys2Proof.Machine

/-! ### Refused writes -/

/-- What differs in the Keeper alone is the other state with that Keeper. -/
theorem eq_of_apartFromKeeper {s t : State} (h : apartFromKeeper t = apartFromKeeper s) : t = { s with keeper := t.keeper } :=
  congrArg (fun u : State => { u with keeper := t.keeper }) h

/-- An event to a mailbox leaves the answer of an access, the count of violations and the interrupts. -/
def answerAndCount (s : State) : HostRsp × W32 × List (W32 × Nat) := (s.keeper.rsp, s.keeper.violations, s.keeper.irqs)

@[simp] theorem sendTo_answerAndCount (m : Nat) (c : W16) (p : Bytes) (s : State) : answerAndCount (sendTo m c p s) = answerAndCount s := rfl

@[simp] theorem sendAbout_answerAndCount (m : Nat) (c : W16) (p : Bytes) (s : State) :
    answerAndCount (sendAbout m c p s) = answerAndCount s := by
  unfold sendAbout; dsimp only; split <;> rfl

@[simp] theorem sendOwner_answerAndCount (c : W16) (p : Bytes) (s : State) : answerAndCount (sendOwner c p s) = answerAndCount s := by
  unfold sendOwner; split <;> rfl

/-- A violation is counted once; the answer of the access and the interrupts stay (R78, R79). -/
theorem violation_answerAndCount (src : W32) (a : Nat) (creator : Option Nat) (s : State) :
    answerAndCount (violation src a creator s) = (s.keeper.rsp, satAdd s.keeper.violations 1, s.keeper.irqs) := by
  unfold violation
  dsimp only
  split
  · rfl
  · cases creator with
    | none => exact sendOwner_answerAndCount _ _ _
    | some m => exact sendAbout_answerAndCount _ _ _ _

/-- A violation changes the Keeper alone. -/
theorem violation_eq (src : W32) (a : Nat) (creator : Option Nat) (s : State) :
    violation src a creator s = { s with keeper := (violation src a creator s).keeper } :=
  eq_of_apartFromKeeper (violation_apartFromKeeper src a creator s)

@[simp] theorem violation_rsp (src : W32) (a : Nat) (creator : Option Nat) (s : State) :
    (violation src a creator s).keeper.rsp = s.keeper.rsp := congrArg Prod.fst (violation_answerAndCount src a creator s)

@[simp] theorem violation_violations (src : W32) (a : Nat) (creator : Option Nat) (s : State) :
    (violation src a creator s).keeper.violations = satAdd s.keeper.violations 1 :=
  congrArg (fun x : HostRsp × W32 × List (W32 × Nat) => x.2.1) (violation_answerAndCount src a creator s)

/-- A command whose units exist answers the state that its meaning comes to. -/
theorem exec_comes {i : Instr} {b : Bool} {s u v : State} (hi : exec i s = inRange b u) (hb : b = true) (hu : u = v) :
    exec i s = .next { v with free := v.free + 1 } := hu ▸ exec_inRange hi hb

/-- A step that refuses a write answers its code, counts it once and changes the Keeper alone (R78, R79). -/
theorem exec_refused {i : Instr} {b : Bool} {src : W32} {a : Nat} {creator : Option Nat} {code : W16} {s : State}
    (hi : exec i s = inRange b (refuseWrite src a creator code s)) (hb : b = true) :
    ∃ t, exec i s = .next t ∧ t.keeper.rsp.status = code ∧ t.keeper.violations = satAdd s.keeper.violations 1
      ∧ t = { s with keeper := t.keeper, free := s.free + 1 } := by
  refine ⟨_, exec_inRange hi hb, ?_, ?_, ?_⟩
  · exact congrArg HostRsp.status (violation_rsp src a creator (answer code [] s))
  · exact violation_violations src a creator (answer code [] s)
  · exact congrArg (fun t : State => { t with free := t.free + 1 }) (violation_eq src a creator (answer code [] s))

/-! ### Index writes -/

/-- A count within what is outstanding is taken by RELEASED, one beyond sets the flag (R255). -/
theorem takeReleased_eq (c : Nat) (v : W32) (s : State) : takeReleased c v s
    = setChan s c (if (v - (getChan s c).released).toNat ≤ ((getChan s c).filled - (getChan s c).released).toNat
        then { getChan s c with released := v } else { getChan s c with badRelease := true }) :=
  (apply_ite (setChan s c) _ _ _).symm

/-- A count within what is outstanding is taken by RX_HEAD, one beyond sets the flag (R494). -/
theorem takeRxHead_eq (l : Nat) (v : W32) (s : State) : takeRxHead l v s
    = setRelay s l (if (v - (getRelay s l).rxHead).toNat ≤ ((getRelay s l).rxTail - (getRelay s l).rxHead).toNat
        then { getRelay s l with rxHead := v } else { getRelay s l with badIndex := true }) :=
  (apply_ite (setRelay s l) _ _ _).symm

/-- A relay that is off, has nothing to send or whose link is down sends nothing (R494). -/
theorem relayPump_still {n l : Nat} {s : State}
    (h : (getRelay s l).enable = false ∨ (getRelay s l).txHead = (getRelay s l).txTail ∨ (getEnd s false l).up = false) :
    relayPump n l s = s := by
  cases n with
  | zero => rfl
  | succ n => exact if_pos (by rcases h with h | h | h <;> simp [h])

/-- RELEASED is taken from the sources of the channel's context, and refused from any other (R78, R254). -/
theorem ingestReleasedWrite_eq (src : W32) (c : Nat) (v : W32) (s : State) : ingestReleasedWrite src c v s
    = if (localCtx s (getChan s c).bind.toNat).any (srcOfCtx s src) then takeReleased c v (answer 0 [] s)
      else refuseWrite src (here s 4 (0x01000200000 + 0x100 * c + 0x20)) none 0x4001 s := by
  unfold ingestReleasedWrite
  cases hk : localCtx s (getChan s c).bind.toNat with
  | none => simp [hk]
  | some k => cases hs : srcOfCtx s src k <;> simp [hk, hs]

/-- Settles O26: each write is taken or refused by its source, and a count taken moves its index alone. -/
theorem indexWrites : Obligations.IndexWrites := by
  intro src v s heard
  refine ⟨fun c hc => ?_, fun l hl => ?_⟩
  · intro x
    have hrun : exec (.ingestReleasedWrite src c v) s = inRange (decide (c < 20)) (ingestReleasedWrite src c v s) := rfl
    refine ⟨fun hown => ?_, fun hown => ?_⟩
    · rw [exec_inRange hrun (decide_eq_true hc), ingestReleasedWrite_eq, if_pos hown, takeReleased_eq]
      rfl
    · have hrefused : ingestReleasedWrite src c v s = _ :=
        (ingestReleasedWrite_eq src c v s).trans (if_neg (fun h => Bool.false_ne_true (hown.symm.trans h)))
      exact exec_refused (hrun.trans (congrArg _ hrefused)) (decide_eq_true hc)
  · intro x own
    have htail : exec (.txTailWrite src l v) s = inRange (decide (l < 4)) (relayIndexWrite src l false v s) := rfl
    have hhead : exec (.rxHeadWrite src l v) s = inRange (decide (l < 4)) (relayIndexWrite src l true v s) := rfl
    have hl' := decide_eq_true hl
    refine ⟨fun hown => ?_, fun hown hbeyond => ?_, fun hown hin hstill => ?_, fun hown i hi => ?_⟩
    · have htake : relayIndexWrite src l true v s = takeRxHead l v heard := if_pos hown
      rw [exec_inRange hhead hl', htake, takeRxHead_eq]
      rfl
    · have htake : relayIndexWrite src l false v s = takeTxTail l v heard := if_pos hown
      have hflag : takeTxTail l v heard = setRelay heard l { x with badIndex := true } := if_neg (Nat.not_le.mpr hbeyond)
      rw [exec_inRange htail hl', htake, hflag]
      rfl
    · have htake : relayIndexWrite src l false v s = takeTxTail l v heard := if_pos hown
      have hpump : takeTxTail l v heard = relayPump 128 l (setRelay heard l { x with txTail := v }) := if_pos hin
      rw [exec_inRange htail hl', htake, hpump, relayPump_still]
      · rfl
      · rw [getRelay_setRelay]
        exact hstill.imp_right (Or.imp_left Eq.symm)
    · have refused (head : Bool) : relayIndexWrite src l head v s
          = refuseWrite src (here s 5 (0x01005100000 + 0x100 * l + (if head then 0x20 else 0x14))) none 0x4001 s :=
        if_neg (fun h => Bool.false_ne_true (hown.symm.trans h))
      rcases hi with rfl | rfl
      · exact exec_refused (htail.trans (congrArg _ (refused false))) hl'
      · exact exec_refused (hhead.trans (congrArg _ (refused true))) hl'

end Sys2Proof.Machine
end

section
/-! Fence-monitor slots: ARM, DISARM, firing and the evaluation as a domain closes (R93-R96, R101). -/

namespace Sys2Proof.Machine

/-! ### CTRL of a slot -/

/-- ARM of a slot that was not armed (R94). -/
theorem slotCtrl_arm {k : Nat} {v : W32} {s : State} {c : W16} (hc : (getSlot s k).ctx = some c) (ha : (getSlot s k).state ≠ .armed)
    (h18 : bitOf v 18 = false) (h17 : bitOf v 17 = true) : slotCtrl k v v s
      = armSlot k c (setSlot s k { getSlot s k with vector := v.truncate 16, plain := bitOf v 16 }) := by
  simp only [slotCtrl, h18, h17, ha, hc, if_false, Bool.false_eq_true, ne_eq, not_false_eq_true, and_self, if_true]

/-- DISARM of a slot that was not armed (R94). -/
theorem slotCtrl_disarm_still {k : Nat} {v : W32} {s : State} (ha : (getSlot s k).state ≠ .armed) (h18 : bitOf v 18 = true) :
    slotCtrl k v v s = setSlot s k { getSlot s k with vector := v.truncate 16, plain := bitOf v 16, state := .idle } := by
  simp only [slotCtrl, unwatch, h18, ha, if_false, if_true]

/-- DISARM of an armed slot (R94). -/
theorem slotCtrl_disarm_armed {k : Nat} {v : W32} {s : State} (ha : (getSlot s k).state = .armed) (h18 : bitOf v 18 = true) :
    slotCtrl k v v s = setSlot (unwatch (getSlot s k) s) k { getSlot s k with state := .idle } := by
  simp only [slotCtrl, h18, ha, if_true]

/-- The object that a slot watches, counted once more (R95). -/
def watched (x : Slot) (s : State) : State :=
  match objectAt s x.watch.toNat 8 with
  | some (i, e) => setMot s i { e with refs := satAdd e.refs 1 }
  | none => s

/-- ARM that passes its checks, with the target not yet met, leaves the slot armed with the word observed (R95). -/
theorem armSlot_armed {k : Nat} {c : W16} {s : State} (hc : armCheck s c.toNat (getSlot s k) = 0)
    (ht : (watchedWord s (getSlot s k)).toNat < (getSlot s k).target.toNat) : armSlot k c s
      = setSlot (watched (getSlot s k) s) k { getSlot s k with state := .armed, seen := watchedWord s (getSlot s k) } := by
  unfold armSlot
  dsimp only
  rw [if_neg (not_not.mpr hc), if_neg (Nat.not_le.mpr ht)]
  rfl

/-- Counting a watch writes the object table alone. -/
theorem watched_mot (x : Slot) (s : State) : watched x s = { s with obj := { s.obj with mot := (watched x s).obj.mot } } := by
  unfold watched
  split <;> rfl

/-- The end of a watch writes the object table alone. -/
theorem unwatch_mot (x : Slot) (s : State) : unwatch x s = { s with obj := { s.obj with mot := (unwatch x s).obj.mot } } := by
  unfold unwatch
  split
  · split <;> rfl
  · rfl

/-- The count of the object that a slot comes to watch rises by 1, and no other entry changes. -/
theorem getMot_watched {x : Slot} {s : State} {i : Nat} {e : MotEntry} (h : objectAt s x.watch.toNat 8 = some (i, e)) (j : Nat) :
    getMot (watched x s) j = if j = i then { e with refs := satAdd e.refs 1 } else getMot s j := by
  simp only [watched, h, getMot, setMot, Tbl.get_set]

/-- The count of the object that an armed slot watched falls by 1. -/
theorem getMot_unwatch {x : Slot} {s : State} {i : Nat} {e : MotEntry} (ha : x.state = .armed) (h : objectAt s x.watch.toNat 8 = some (i, e)) :
    getMot (unwatch x s) i = { e with refs := e.refs - 1 } := by
  simp only [unwatch, ha, h, if_true, getMot_setMot]

/-! ### Firing -/

/-- Who an interrupt of a context goes to rests on the contexts, the mailboxes and the node. -/
theorem irqTarget_congr {s t : State} (hc : t.obj.ctxs = s.obj.ctxs) (hk : t.keeper = s.keeper) (hw : t.swarm = s.swarm) (c : W16) :
    irqTarget t c = irqTarget s c := by
  have hctx (i : Nat) : getCtx t i = getCtx s i := by rw [getCtx, hc, getCtx]
  have hlocal : localCtx t c.toNat = localCtx s c.toNat := by rw [localCtx, hw, hctx, localCtx]
  simp only [irqTarget, hlocal, hctx, getMbx, hk, hw]

/-- The state in which a slot that fires has written its notification (R96). -/
def notified (x : Slot) (w : W64) (s : State) : State :=
  if x.notify.toNat = 0 then unwatch x s else memWrite (unwatch x s) x.notify.toNat (toLE 8 w.toNat)

theorem notified_rest (x : Slot) (w : W64) (s : State) :
    (notified x w s).obj.ctxs = s.obj.ctxs ∧ (notified x w s).keeper = s.keeper ∧ (notified x w s).swarm = s.swarm := by
  unfold notified
  split
  · rw [unwatch_mot]
    exact ⟨rfl, rfl, rfl⟩
  · simp only [memWrite_rest]
    rw [unwatch_mot]
    exact ⟨rfl, rfl, rfl⟩

theorem notified_mem (x : Slot) (w : W64) (s : State) :
    (notified x w s).mem = (if x.notify.toNat = 0 then s else memWrite s x.notify.toNat (toLE 8 w.toNat)).mem := by
  unfold notified
  split
  · rw [unwatch_mot]
  · exact memWrite_mem_congr (by rw [unwatch_mot]) (by rw [unwatch_mot]) _ _

/-- The interrupt of a slot that fires (R96). -/
def slotIrq (x : Slot) (s : State) : State :=
  match irqTarget s (x.ctx.getD 0) with
  | some t => if x.vector = 0xFFFF then s else raiseIrq t x.vector.toNat s
  | none => s

theorem slotIrq_keeper (x : Slot) (s : State) : slotIrq x s = { s with keeper := (slotIrq x s).keeper } := by
  unfold slotIrq
  split
  · split <;> rfl
  · rfl

theorem slotIrq_irqs {x : Slot} {s : State} {a : W32} (h : irqTarget s (x.ctx.getD 0) = some a) : (slotIrq x s).keeper
    = { s.keeper with irqs := s.keeper.irqs ++ (if x.vector = 0xFFFF then [] else [(a, x.vector.toNat)]) } := by
  simp only [slotIrq, h]
  split
  · simp
  · rfl

/-- A slot whose notification is taken, or that has none, fires: the notification, the interrupt, and then its state (R96). -/
theorem fireSlot_taken {k : Nat} {w : W64} {to_ : SlotState} {s : State} (h : (getSlot s k).notify.toNat = 0
      ∨ accessCheck s (.unit ((getSlot s k).ctx.getD 0).toNat false 5) (getSlot s k).notify.toNat 8 true = 0) :
    fireSlot k w to_ s = setSlot (slotIrq (getSlot s k) (notified (getSlot s k) w s)) k { getSlot s k with state := to_, seen := w } := by
  have hcode : (if (getSlot s k).notify.toNat = 0 then 0
      else accessCheck s (.unit ((getSlot s k).ctx.getD 0).toNat false 5) (getSlot s k).notify.toNat 8 true) = (0 : W16) := by
    rcases h with h | h
    · exact if_pos h
    · rw [h, ite_self]
  unfold fireSlot
  dsimp only
  rw [hcode, if_neg (not_not.mpr rfl), if_neg (not_not.mpr rfl)]
  rfl

/-- A slot that fires for an error ends FIRED_ERROR, whether its notification is taken or not (R96). -/
theorem fireSlotError_state (k : Nat) (c : W16) (seen : W64) (s : State) : (getSlot (fireSlotError k c seen s) k).state = .firedError := by
  simp only [fireSlotError, fireSlot, getSlot_setSlot, ite_self]

/-- Settles O31: CTRL as its bits say, and firing as the target and the notification say. -/
theorem monitorSlots : Obligations.MonitorSlots := by
  intro k s hk x heard w
  have hk' := decide_eq_true hk
  have harm (src v : W32) : exec (.monitorArm src k v) s = inRange (decide (k < 4096)) (writeSlotCtrl src k v s) := rfl
  have hdisarm (src v : W32) : exec (.monitorDisarm src k v) s = inRange (decide (k < 4096)) (writeSlotCtrl src k v s) := rfl
  have hfire : exec (.monitorFire k) s = inRange (decide (k < 4096)) (monitorFire k s) := rfl
  have allowed {src : W32} (v : W32) (h : slotAllowed s src k = true) : writeSlotCtrl src k v s = slotCtrl k v v heard :=
    if_neg (not_not.mpr h)
  refine ⟨?arm, ?disarm, ?refused, ?below, ?idle, ?fires, ?closes⟩
  case arm =>
    intro src v c hc hsrc ha h18 h17 y hcheck ht
    have hget : getSlot (setSlot heard k y) k = y := getSlot_setSlot heard k y
    have hrun := armSlot_armed (k := k) (c := c) (s := setSlot heard k y) (by rw [hget]; exact hcheck) (by rw [hget]; exact ht)
    rw [hget] at hrun
    have hctrl : writeSlotCtrl src k v s = _ := (allowed v hsrc).trans ((slotCtrl_arm (s := heard) hc ha h18 h17).trans hrun)
    refine ⟨_, exec_comes (harm src v) hk' hctrl, getSlot_setSlot _ _ _, fun j hj => ?_, fun i e he => ?_, ?_⟩
    · have hslot : getSlot (watched y (setSlot heard k y)) j = getSlot (setSlot heard k y) j := by
        rw [watched_mot]
        rfl
      exact (getSlot_setSlot_ne _ _ _ _ hj).trans (hslot.trans (getSlot_setSlot_ne heard _ _ _ hj))
    · have hmot := getMot_watched (x := y) (s := setSlot heard k y) he
      exact ⟨(hmot i).trans (if_pos rfl), fun j hj => (hmot j).trans (if_neg hj)⟩
    · rw [watched_mot]
      rfl
  case disarm =>
    intro src v hsrc h18
    refine ⟨fun ha => ?_, fun ha => ?_⟩
    · exact exec_comes (hdisarm src v) hk' ((allowed v hsrc).trans (slotCtrl_disarm_still (s := heard) ha h18))
    · refine ⟨_, exec_comes (hdisarm src v) hk' ((allowed v hsrc).trans (slotCtrl_disarm_armed (s := heard) ha h18)),
        getSlot_setSlot _ _ _, fun i e he => getMot_unwatch (s := heard) ha he, ?_⟩
      rw [unwatch_mot]
      rfl
  case refused =>
    intro src v hsrc i hi
    have hrefused : writeSlotCtrl src k v s = refuseWrite src (slotAddr s k + 0x18) (slotCreator s k) 0x4001 s :=
      if_pos (fun h => Bool.false_ne_true (hsrc.symm.trans h))
    have hrun : exec i s = inRange (decide (k < 4096)) (writeSlotCtrl src k v s) := by
      rcases hi with rfl | rfl <;> rfl
    obtain ⟨t, ht, hstatus, -, hrest⟩ := exec_refused (hrun.trans (congrArg _ hrefused)) hk'
    exact ⟨t, ht, hstatus, hrest⟩
  case below =>
    intro ha hw
    have hseen : monitorFire k s = setSlot s k { x with seen := w } := (if_pos ha).trans (if_neg (Nat.not_le.mpr hw))
    exact exec_comes hfire hk' hseen
  case idle =>
    intro ha
    have hsame : monitorFire k s = s := if_neg ha
    exact exec_comes hfire hk' hsame
  case fires =>
    intro ha hw c hc hn
    have hctx : x.ctx.getD 0 = c := by rw [hc]; rfl
    have hfired : monitorFire k s = setSlot (slotIrq x (notified x w s)) k { x with state := .fired, seen := w } :=
      (if_pos ha).trans ((if_pos hw).trans (fireSlot_taken (hn.imp (fun h => by rw [h]; rfl) (fun h => by rw [hctx]; exact h))))
    obtain ⟨hctxs, hkeeper, hswarm⟩ := notified_rest x w s
    refine ⟨_, exec_comes hfire hk' hfired, getSlot_setSlot _ _ _, ?_, fun a hirq => ?_⟩
    · have hmem : (slotIrq x (notified x w s)).mem = (notified x w s).mem := by rw [slotIrq_keeper]
      have hnone : x.notify = 0 ↔ x.notify.toNat = 0 := BitVec.toNat_inj.symm
      simp only [setSlot_rest, hmem, notified_mem, hnone]
    · refine (slotIrq_irqs (a := a) ?_).trans ?_
      · rw [hctx, irqTarget_congr hctxs hkeeper hswarm]
        exact hirq
      · rw [hkeeper]
  case closes =>
    intro hd hcl hb
    have hrun : exec (.monitorClosingEvaluate k) s = inRange (decide (k < 4096)) (monitorClosingEvaluate k s) := rfl
    have heval : monitorClosingEvaluate k s = closingEvaluate k s := if_pos ⟨hd, hcl, fun h => Bool.false_ne_true (hb.symm.trans h)⟩
    refine ⟨_, exec_comes hrun hk' heval, fun ht hn => ?_, fun ht => ?_⟩
    · have hfired : closingEvaluate k s = _ := (if_pos ht).trans (fireSlot_taken (.inl (congrArg BitVec.toNat hn)))
      exact (congrArg (fun u => (getSlot u k).state) hfired).trans (congrArg Slot.state (getSlot_setSlot _ _ _))
    · have hfailed : closingEvaluate k s = fireSlotError k 0x2005 w s := if_neg (Nat.not_le.mpr ht)
      exact (congrArg (fun u => (getSlot u k).state) hfailed).trans (fireSlotError_state k 0x2005 w s)

end Sys2Proof.Machine
end

section
/-! Fence ports and the fence unit: SET, ADD, overflow, poison and rejection (R89-R91, R220, R238). -/

namespace Sys2Proof.Machine

/-! ### A signal applied -/

/-- Only fence `i` and its entry have changed: the fence holds `w`, and its entry stands where it stood. -/
structure FenceBecame (i : Nat) (w : W64) (s t : State) : Prop where
  word : fenceWord t i = w
  others : ∀ k, k ≠ i → fenceWord t k = fenceWord s k ∧ getMot t k = getMot s k
  base : (getMot t i).base = (getMot s i).base
  rest : t = { s with obj := { s.obj with fences := t.obj.fences, mot := t.obj.mot } }

/-- The entry of a fence written, with its place left. -/
theorem FenceBecame.setMot {i : Nat} {w : W64} {s t : State} (h : FenceBecame i w s t) {e : MotEntry} (he : e.base = (getMot t i).base) :
    FenceBecame i w s (setMot t i e) where
  word := h.word
  others := fun k hk => ⟨(h.others k hk).1, (getMot_setMot_ne t i e k hk).trans (h.others k hk).2⟩
  base := by rw [getMot_setMot, he, h.base]
  rest := by
    rw [h.rest]
    rfl

theorem FenceBecame.mem {i : Nat} {w : W64} {s t : State} (h : FenceBecame i w s t) : t.mem = s.mem := by rw [h.rest]
theorem FenceBecame.keeper {i : Nat} {w : W64} {s t : State} (h : FenceBecame i w s t) : t.keeper = s.keeper := by rw [h.rest]
theorem FenceBecame.frame {i : Nat} {w : W64} {s t : State} (h : FenceBecame i w s t) : t.frame = s.frame := by rw [h.rest]

/-- The word that an accepted signal makes of a fence's word (R91). -/
def signalledWord (w : W64) (add : Bool) (v : W64) : W64 :=
  if bitOf w 63 then w
  else if (if add then w.toNat + v.toNat else max w.toNat v.toNat) < 2 ^ 63
    then BitVec.ofNat 64 (if add then w.toNat + v.toNat else max w.toNat v.toNat)
  else BitVec.ofNat 64 (2 ^ 63 + 0x1008 * 2 ^ 48 + w.toNat % 2 ^ 48)

/-- A signal that the word and the fence's kind of signal take (R91). -/
def signalFits (w : W64) (kind : Nat) (add : Bool) (v : W64) : Prop :=
  bitOf w 63 = true ∨ ((add = true → v ≠ 0) ∧ (kind = 0 ∨ kind = if add then 2 else 1))

theorem signalResult_fits {w : W64} {kind : Nat} {add : Bool} {v : W64} (h : signalFits w kind add v) :
    signalResult w kind add v = .inl (signalledWord w add v) := by
  unfold signalResult signalledWord
  by_cases hw : bitOf w 63 = true
  · rw [if_pos hw, if_pos hw]
  · obtain ⟨hv, hkind⟩ := h.resolve_left hw
    rw [if_neg hw, if_neg hw, if_neg (fun h => hv h.1 h.2), if_neg (fun h => hkind.elim h.1 h.2)]
    exact (apply_ite Sum.inl _ _ _).symm

/-- A signal of 0 to ADD, or of the other kind than the fence's, is rejected (R91). -/
theorem signalResult_rejected {w : W64} {kind : Nat} {add : Bool} {v : W64} (hw : bitOf w 63 = false)
    (h : (add = true ∧ v = 0) ∨ kind = if add then 1 else 2) : signalResult w kind add v = .inr 0x1006 := by
  unfold signalResult
  rw [if_neg (by rw [hw]; exact Bool.false_ne_true)]
  by_cases hv : add = true ∧ v = 0
  · rw [if_pos hv]
  · have hkind := h.resolve_left hv
    rw [if_neg hv, if_pos (by cases add <;> simp_all)]

/-- An accepted signal makes its fence's word, and changes no other fence (R91). -/
theorem applySignal_fits {i : Nat} {add : Bool} {v : W64} {s : State} (h : signalFits (fenceWord s i) (field (getMot s i).lock 3 2) add v) :
    ∃ t, applySignal i add v s = (t, 0) ∧ FenceBecame i (signalledWord (fenceWord s i) add v) s t := by
  unfold applySignal
  dsimp only
  rw [signalResult_fits h]
  dsimp only
  by_cases hw : bitOf (fenceWord s i) 63 = true
  · rw [if_pos hw]
    exact ⟨s, rfl, (if_pos hw).symm, fun _ _ => ⟨rfl, rfl⟩, rfl, rfl⟩
  · rw [if_neg hw]
    refine ⟨_, rfl, Tbl.get_set_self _ _ _ _, fun k hk => ⟨Tbl.get_set_ne hk, Tbl.get_set_ne hk⟩, ?_, rfl⟩
    exact (congrArg MotEntry.base (Tbl.get_set_self _ _ _ _) :)

theorem applySignal_rejected {i : Nat} {add : Bool} {v : W64} {s : State} (hw : bitOf (fenceWord s i) 63 = false)
    (h : (add = true ∧ v = 0) ∨ field (getMot s i).lock 3 2 = if add then 1 else 2) : applySignal i add v s = (s, 0x1006) := by
  unfold applySignal
  dsimp only
  rw [signalResult_rejected hw h]

/-! ### The fence unit -/

/-- The state in which the fence unit has taken the oldest signal. -/
def signalTaken (s : State) (l : List Signal) : State := { s with obj := { s.obj with signals := l } }

/-- A rejected signal counted under R78, in the name of its sender. -/
def signalCounted (s : State) (g : Signal) : State → State :=
  violation (signalSrc s g) (fenceAddr s g.fence) (ownCreator s (getMot s g.fence))

/-- The node whose context has signalled (R300). -/
def signalNode (g : Signal) : Nat :=
  match g.origin with
  | .port src => srcNode src
  | .remote src => srcNode src
  | _ => field g.ctx 9 8

/-- Whether a rejected signal of this origin comes from a source, whose write is counted (R78, R91). -/
def fromSource (g : Signal) : Bool :=
  match g.origin with
  | .port _ => true
  | .remote _ => true
  | _ => false

/-- What an accepted signal's sender is answered (R238). -/
def signalAnswered (g : Signal) (s : State) : State :=
  match g.origin with
  | .region k tag => portAnswered k tag (fun p => { p with ready := true }) s
  | _ => s

/-- The fence's entry with the signal's node among those that have signalled (R300). -/
def signalNoted (g : Signal) (s : State) : State :=
  setMot s g.fence { getMot s g.fence with signalled := setBit (getMot s g.fence).signalled (signalNode g) true }

/-- The fence unit takes the oldest signal: it is rejected, or applied and its sender answered (R91). -/
theorem fenceSignal_eq {s : State} {g : Signal} {l : List Signal} (hs : s.obj.signals = g :: l) (hd : signalDue s g = true)
    (hk : (getMot s g.fence).kind = 2) : fenceSignal s
      = if fromFamily s g then
          if (applySignal g.fence g.add g.value (signalTaken s l)).2 ≠ 0 then
            signalRejected g (applySignal g.fence g.add g.value (signalTaken s l)).2
              (when (fromSource g) (signalCounted s g) (applySignal g.fence g.add g.value (signalTaken s l)).1)
          else signalAnswered g (signalNoted g (applySignal g.fence g.add g.value (signalTaken s l)).1)
        else signalRejected g 0x4001 (signalCounted s g (signalTaken s l)) := by
  have hkind (u : List Signal) : (getMot { s with obj := { s.obj with signals := u } } g.fence).kind = 2 := hk
  have hfamily (u : List Signal) : fromFamily { s with obj := { s.obj with signals := u } } g = fromFamily s g := rfl
  unfold fenceSignal
  rw [hs, List.find?_cons_of_pos hd]
  dsimp only
  rw [List.eraseP_cons_of_pos hd]
  simp only [hkind, hfamily, ne_eq, not_true_eq_false, false_or, if_true]
  cases fromFamily s g with
  | false => rfl
  | true =>
    show (if _ then _ else _) = if _ then _ else _
    obtain ⟨fence, add, value, origin, ctx⟩ := g
    cases origin <;> rfl

/-- A signal of the family that the fence takes changes its fence alone, and its sender is answered. -/
theorem fenceSignal_fits {s : State} {g : Signal} {l : List Signal} (hs : s.obj.signals = g :: l) (hd : signalDue s g = true)
    (hk : (getMot s g.fence).kind = 2) (hf : fromFamily s g = true)
    (hfit : signalFits (fenceWord s g.fence) (field (getMot s g.fence).lock 3 2) g.add g.value) :
    ∃ t, fenceSignal s = signalAnswered g t ∧ FenceBecame g.fence (signalledWord (fenceWord s g.fence) g.add g.value) (signalTaken s l) t := by
  obtain ⟨t, ht, hbecame⟩ := applySignal_fits (s := signalTaken s l) hfit
  refine ⟨signalNoted g t, ?_, hbecame.setMot rfl⟩
  rw [fenceSignal_eq hs hd hk, if_pos hf, ht, if_neg (not_not.mpr rfl)]

/-- A signal of the family that the fence does not take is rejected, and counted where it comes from a source. -/
theorem fenceSignal_rejected {s : State} {g : Signal} {l : List Signal} (hs : s.obj.signals = g :: l) (hd : signalDue s g = true)
    (hk : (getMot s g.fence).kind = 2) (hf : fromFamily s g = true) (hw : bitOf (fenceWord s g.fence) 63 = false)
    (h : (g.add = true ∧ g.value = 0) ∨ field (getMot s g.fence).lock 3 2 = if g.add then 1 else 2) :
    fenceSignal s = signalRejected g 0x1006 (when (fromSource g) (signalCounted s g) (signalTaken s l)) := by
  rw [fenceSignal_eq hs hd hk, if_pos hf, applySignal_rejected (s := signalTaken s l) hw h]
  exact if_pos (by dsimp only; decide)

/-- No queue waits for a signal that comes from no descriptor and no completion (R88). -/
theorem fenceUnit_eq {s : State} {g : Signal} {l : List Signal} (hs : s.obj.signals = g :: l) (hd : signalDue s g = true)
    (hq : ∀ q d, g.origin ≠ .descriptor q d) (hc : ∀ q, g.origin ≠ .completion q) : fenceUnit s = fenceSignal s := by
  unfold fenceUnit
  rw [hs, List.find?_cons_of_pos hd]
  dsimp only
  split
  next q d hg => exact absurd hg (hq q d)
  next q hg => exact absurd hg (hc q)
  next => rfl

/-- With no signal that is due, the fence unit changes nothing. -/
theorem fenceUnit_none {s : State} (h : ∀ g ∈ s.obj.signals, signalDue s g = false) : fenceUnit s = s := by
  have hnone : s.obj.signals.find? (signalDue s) = none :=
    List.find?_eq_none.mpr (fun g hg => by rw [h g hg]; exact Bool.false_ne_true)
  unfold fenceUnit
  rw [hnone]

/-- A port's signal that is rejected is answered its code and counted. -/
theorem exec_fenceSignal_port {s : State} {g : Signal} {l : List Signal} {src : W32} {code : W16} (hp : g.origin = .port src)
    (h : fenceUnit s = signalRejected g code (signalCounted s g (signalTaken s l))) :
    ∃ t, exec .fenceSignal s = .next t ∧ t.keeper.rsp.status = code ∧ t.keeper.violations = satAdd s.keeper.violations 1
      ∧ t = { s with keeper := t.keeper, obj := { s.obj with signals := l }, free := s.free + 1 } := by
  have hanswer : fenceUnit s = answer code [] (signalCounted s g (signalTaken s l)) := by
    rw [h, signalRejected, hp]
  refine ⟨_, exec_comes (i := .fenceSignal) (b := true) rfl rfl hanswer, rfl, violation_violations (signalSrc s g) _ _ (signalTaken s l), ?_⟩
  rw [signalCounted, violation_eq]
  rfl

/-- Settles O30: a port queues its signal, and the fence unit takes the oldest that is due. -/
theorem fenceSignals : Obligations.FenceSignals := by
  refine ⟨fun src i size v s hi c add hc => ?_, fun s g l hs hd hk => ?_, fun s h => exec_comes (i := .fenceSignal) (b := true) rfl rfl (fenceUnit_none h)⟩
  · have hrun : exec c s = inRange (decide (i < 65536)) (fencePort src i size v add s) := by
      rcases hc with ⟨rfl, rfl⟩ | ⟨rfl, rfl⟩ <;> rfl
    exact ⟨fun h => exec_comes hrun (decide_eq_true hi) (if_neg (not_not.mpr h)), fun h => exec_comes hrun (decide_eq_true hi) (if_pos h)⟩
  · intro f w kind y
    have hword (h : bitOf w 63 = false) (hy : y < 2 ^ 63) : signalledWord w g.add g.value = BitVec.ofNat 64 y :=
      (if_neg (fun hw => Bool.false_ne_true (h.symm.trans hw))).trans (if_pos hy)
    have ofPort {src : W32} (hp : g.origin = .port src) : fenceUnit s = fenceSignal s :=
      fenceUnit_eq hs hd (fun q d h => nomatch hp.symm.trans h) (fun q h => nomatch hp.symm.trans h)
    have ofRegion {k : Nat} {tag : BitVec 6} (hp : g.origin = .region k tag) : fenceUnit s = fenceSignal s :=
      fenceUnit_eq hs hd (fun q d h => nomatch hp.symm.trans h) (fun q h => nomatch hp.symm.trans h)
    refine ⟨?fits, fun src hp hf => ?_, fun src hp hf hw h => ?_, fun k tag hp hf hw h => ?_, ?answers⟩
    case fits =>
      intro hf hq hc hr hfit
      obtain ⟨t, ht, hbecame⟩ := fenceSignal_fits hs hd hk hf hfit
      have hsame : signalAnswered g t = t := by
        unfold signalAnswered
        split
        next k tag hg => exact absurd hg (hr k tag)
        next => rfl
      refine ⟨_, exec_comes (i := .fenceSignal) (b := true) rfl rfl ((fenceUnit_eq hs hd hq hc).trans (ht.trans hsame)), hbecame.word, hbecame.others, hbecame.base, ?_⟩
      exact congrArg (fun u : State => { u with free := u.free + 1 }) hbecame.rest
    · refine exec_fenceSignal_port hp ?_
      rw [ofPort hp, fenceSignal_eq hs hd hk, if_neg (by rw [hf]; exact Bool.false_ne_true)]
    · have hsource : fromSource g = true := by rw [fromSource, hp]
      refine exec_fenceSignal_port hp ?_
      rw [ofPort hp, fenceSignal_rejected hs hd hk hf hw h, hsource]
      rfl
    · have hsource : fromSource g = false := by rw [fromSource, hp]
      refine exec_comes (i := .fenceSignal) (b := true) rfl rfl ?_
      rw [ofRegion hp, fenceSignal_rejected hs hd hk hf hw h, hsource, signalRejected, hp]
      rfl
    case answers =>
      intro k tag hp hf hw hv hkind hy
      obtain ⟨t, ht, hbecame⟩ := fenceSignal_fits hs hd hk hf (.inr ⟨hv, hkind⟩)
      have hanswer : signalAnswered g t = portAnswered k tag (fun p => { p with ready := true }) t := by
        rw [signalAnswered, hp]
      have hregion : getRegion t k = getRegion s k := by rw [getRegion, hbecame.frame, getRegion]; rfl
      refine ⟨_, exec_comes (i := .fenceSignal) (b := true) rfl rfl ((ofRegion hp).trans (ht.trans hanswer)), hbecame.word.trans (hword hw hy), ?_, hbecame.mem, hbecame.keeper⟩
      refine (getRegion_setRegion t k _).trans ?_
      rw [hregion]
      exact (getRegion_setRegion s k _).symm

end Sys2Proof.Machine
end

section
/-! GET, PUT and their completion, and WAITF, its release and SIGF (R90, R93, R138, R148-R150). -/

namespace Sys2Proof.Machine

/-! ### Packets leave all but the network and the ports -/

/-- The state without what packets on their way write: the network, and the ports of the swarm links. -/
def apartFromWires (s : State) : State := { s with net := {}, swarm := { s.swarm with ports := [] } }

@[simp] theorem linkSend_apartFromWires (p : Nat) (k : Packet) (s : State) : apartFromWires (linkSend p k s) = apartFromWires s := by
  have flits (q : Nat) : apartFromWires ((dataFlitsOf k).foldl (fun s f => sendFlit q f s) s) = apartFromWires s :=
    foldl_keeps apartFromWires (f := fun s f => sendFlit q f s) (fun _ _ => rfl) _ s
  unfold linkSend
  dsimp only
  split
  · exact flits p
  · split
    · exact flits (partner p)
    · rfl
  · rfl

@[simp] theorem sendAccess_apartFromWires (src : W32) (ctx : Nat) (write : Bool) (a n : Nat) (l : Bytes) (s : State) :
    apartFromWires (sendAccess src ctx write a n l s) = apartFromWires s := by
  unfold sendAccess
  split
  · rfl
  · refine foldl_keeps apartFromWires (fun s e => ?_) _ s
    split
    · rfl
    · exact linkSend_apartFromWires _ _ _

/-- Packets of an access through the meshes of this package write the network alone. -/
theorem carryAccess_net (src : W32) (ctx : Nat) (write : Bool) (a n : Nat) (c : W16) (retry : Bool) (s : State) :
    carryAccess src ctx write a n c retry s = { s with net := (carryAccess src ctx write a n c retry s).net } := by
  unfold carryAccess
  split <;> rfl

/-- A packet of one header writes the network alone. -/
theorem carryOne_net (cls : Nat) (src : W32) (ctx dest : Nat) (s : State) :
    carryOne cls src ctx dest s = { s with net := (carryOne cls src ctx dest s).net } := by
  unfold carryOne
  split <;> rfl

@[simp] theorem sendPackets_apartFromWires (r : Requester) (src : W32) (write : Bool) (a n : Nat) (l : Bytes) (c : W16) (s : State) :
    apartFromWires (sendPackets r src write a n l c s) = apartFromWires s := by
  unfold sendPackets
  dsimp only
  rw [carryAccess_net]
  show apartFromWires (if _ then _ else _) = _
  split
  · exact sendAccess_apartFromWires _ _ _ _ _ _ _
  · rfl

/-- Bytes are read alike where but packets have moved. -/
theorem memRead_of_wires {s t : State} (h : apartFromWires t = apartFromWires s) (a n : Nat) : memRead t a n = memRead s a n :=
  memRead_congr n a (fun i _ _ => (congrArg (memByte · i) h :))

/-- A window lies where it lay where but packets have moved. -/
theorem windowAt_of_wires {s t : State} (h : apartFromWires t = apartFromWires s) (a n : Nat) : windowAt t a n = windowAt s a n :=
  (congrArg (windowAt · a n) h :)

theorem cellStore_of_wires {s t : State} (h : apartFromWires t = apartFromWires s) (die cell : Nat) : cellStore t die cell = cellStore s die cell :=
  (congrArg (cellStore · die cell) h :)

/-- No answer but 0x2005 and 0x2006 carries RETRY 1 (R188). -/
theorem retryOne_zero (s : State) (r : Requester) (a : Nat) : retryOne s r 0 a = false := rfl

/-! ### GET and PUT -/

/-- A GET or PUT that passes its checks, with room among those outstanding and no hazard, joins them (R150). -/
theorem issueDma_joins {isGet : Bool} {u : Unit1} {s : State} (hn : (u.x.sreg u.i.c).toNat % 256 = 0) (h256 : 256 ≤ (u.x.sreg u.i.c).toNat)
    (hmax : (u.x.sreg u.i.c).toNat ≤ 0x180000) (hb : (u.x.sreg u.i.b).toNat % 256 = 0) (h48 : (u.x.sreg u.i.b).toNat < 2 ^ 48)
    (hroom : u.x.dma.length < 16) (hawait : u.x.dma.any (·.awaited) = false)
    (hhaz : ¬ (cellStore s u.die u.cell ≤ (u.x.sreg u.i.b).toNat ∧ (u.x.sreg u.i.b).toNat < cellStore s u.die u.cell + 0x180000
      ∧ hazard (cellStore s u.die u.cell) u.x ((u.x.sreg u.i.b).toNat - cellStore s u.die u.cell) (u.x.sreg u.i.c).toNat (!isGet) = true))
    (hown : ownOk u (u.x.sreg u.i.a).toNat (u.x.sreg u.i.c).toNat 256 isGet s = true) :
    issueDma isGet u s = .next s { u.x with dma := u.x.dma
      ++ [{ isGet := isGet, loc := (u.x.sreg u.i.a).toNat, addr := (u.x.sreg u.i.b).toNat, bytes := (u.x.sreg u.i.c).toNat }] } := by
  unfold issueDma
  dsimp only
  rw [if_neg (by simp [hn, hb]), if_neg (by omega), if_neg (by rw [hawait]; exact Bool.false_ne_true), if_neg (Nat.not_le.mpr hroom),
    if_neg hhaz, ownAccess_ok hown]

/-- The state in which the packets of transfer `d` of a cell in context `ctx` have crossed the network. -/
def dmaSent (die cell ctx : Nat) (d : Dma) (s : State) : State :=
  sendPackets (.unit ctx true die) (mkSrc s.swarm.node die 4 cell 0) (!d.isGet) d.addr d.bytes
    (memRead s (cellStore s die cell + d.loc) d.bytes) 0 s

/-- The completion of a transfer whose checks pass moves its bytes and takes it from the outstanding ones (R150). -/
theorem dmaComplete_moves {die cell i : Nat} {s : State} {j : CellJob} {d : Dma} (hj : (getCell s die cell).job = some j)
    (hd : (getCell s die cell).dma[i]? = some d) (hretry : d.retry = false)
    (hlive : (localCtx s j.ctx.toNat).any (fun c => !inReset (getCtx s c)) = true) (hwin : windowAt s d.addr d.bytes = none)
    (hacc : accessCheck s (.unit j.ctx.toNat true die) d.addr d.bytes (!d.isGet) = 0) (hok : d.isGet = true → checksOk s d.addr d.bytes = true) :
    dmaComplete die cell i s
      = setCell (moveDma die cell d (dmaSent die cell j.ctx.toNat d s)) die cell (dmaDone i (getCell s die cell)) := by
  have hbad : (d.isGet && addrNode d.addr == s.swarm.node && !checksOk s d.addr d.bytes) = false := by
    cases hg : d.isGet with
    | false => rfl
    | true => simp [hok hg]
  have hsent : windowAt (dmaSent die cell j.ctx.toNat d s) d.addr d.bytes = none :=
    (windowAt_of_wires (sendPackets_apartFromWires _ _ _ _ _ _ _ s) _ _).trans hwin
  unfold dmaSent at hsent ⊢
  unfold dmaComplete
  simp only [hj, hd, hlive, hretry, hwin, hacc, hbad, Bool.false_eq_true, not_false_eq_true, and_self, and_false, if_true, if_false, not_true_eq_false,
    or_self, hsent, retryOne_zero, ne_eq]

/-- The bytes that a transfer has moved, as they stood before its packets crossed the network. -/
theorem moveDma_sent (die cell ctx : Nat) (d : Dma) (s : State) : moveDma die cell d (dmaSent die cell ctx d s)
    = if d.isGet then memWrite (dmaSent die cell ctx d s) (cellStore s die cell + d.loc) (memRead s d.addr d.bytes)
      else writeMem d.addr (memRead s (cellStore s die cell + d.loc) d.bytes) (dmaSent die cell ctx d s) := by
  have hsent : apartFromWires (dmaSent die cell ctx d s) = apartFromWires s := sendPackets_apartFromWires _ _ _ _ _ _ _ s
  simp only [moveDma, cellStore_of_wires hsent, memRead_of_wires hsent]

/-! ### WAITF and SIGF -/

theorem bitOf_63 (x : W64) : bitOf x 63 = decide (2 ^ 63 ≤ x.toNat) := by
  have := x.isLt
  simp only [bitOf, BitVec.getLsbD, Nat.testBit_eq_decide_div_mod_eq, decide_eq_decide]
  omega

/-- A WAITF on a fence that passes its check waits (R149). -/
theorem waitf_waits {u : Unit1} {s : State} (ha : (u.x.sreg u.i.a).toNat % 8 = 0) (ht : (u.x.sreg u.i.b).toNat < 2 ^ 63)
    (hc : waitCheck s (.unit u.j.ctx.toNat true u.die) u.j.ctx.toNat (u.x.sreg u.i.a).toNat = 0) : waitf u s
      = .next s { u.x with wait := some { addr := (u.x.sreg u.i.a).toNat, target := u.x.sreg u.i.b, dest := u.i.d, trap := u.i.imm == 1 } } := by
  unfold waitf
  dsimp only
  rw [if_neg (not_not.mpr ha), if_neg (by rw [bitOf_63]; simpa using ht), if_neg (not_not.mpr hc)]

/-- The release of a wait whose word has reached its target, and is not poisoned under TRAP (R93, R149). -/
theorem waitfRelease_goes {die cell : Nat} {s : State} {j : CellJob} {w : CellWait} (hj : (getCell s die cell).job = some j)
    (hw : (getCell s die cell).wait = some w) (hlive : (localCtx s j.ctx.toNat).any (fun c => !inReset (getCtx s c)) = true)
    (ht : w.target.toNat ≤ (waitWord s w.addr).toNat) (htrap : w.trap = false ∨ (waitWord s w.addr).toNat < 2 ^ 63) :
    waitfRelease die cell s
      = setCell s die cell { (getCell s die cell).setS w.dest (waitWord s w.addr) with wait := none, state := .running } := by
  have hgoes : ¬ (w.trap = true ∧ bitOf (waitWord s w.addr) 63 = true) := by
    rw [bitOf_63, decide_eq_true_eq]
    rintro ⟨h1, h2⟩
    rcases htrap with h | h
    · exact Bool.false_ne_true (h.symm.trans h1)
    · omega
  unfold waitfRelease
  simp only [hj, hw, hlive, Nat.not_lt.mpr ht, hgoes, not_true_eq_false, or_self, if_false]

/-- The die of a cell's source id (R174). -/
theorem srcDie_cell {node die cell : Nat} (hn : node < 4) (hd : die < 4) : field (mkSrc node die 4 cell 0) 4 2 = die := by
  simp only [field, mkSrc, BitVec.toNat_ofNat]
  omega

/-- A signal from a cell to a fence of this node whose way is open is queued at the fence unit (R90). -/
theorem sendSignal_cell {die cell a f : Nat} {add : Bool} {v : W64} {o : Origin} {ctx : W16} {s : State} (hd : die < 4)
    (hf : fenceIndex s a = some f) (hway : (pathStop s 2 (portOfFence a add) 3 die).1 = 0) :
    ∃ n, sendSignal (mkSrc s.swarm.node die 4 cell 0) a add v o ctx s
      = { s with net := n, obj := { s.obj with signals := s.obj.signals ++ [{ fence := f, add := add, value := v, origin := o, ctx := ctx }] } } := by
  have hnode : addrNode a = s.swarm.node := by
    unfold fenceIndex at hf
    split at hf
    next h => exact h.1
    next => cases hf
  have hn4 : s.swarm.node < 4 := hnode ▸ Nat.mod_lt _ (by decide)
  have hdie := srcDie_cell (cell := cell) hn4 hd
  have hrouted : routeSignal (mkSrc s.swarm.node die 4 cell 0) a add v o ctx s = pushSignal { fence := f, add := add, value := v, origin := o, ctx := ctx }
      (carryOne 8 (mkSrc s.swarm.node die 4 cell 0) ctx.toNat (portOfFence a add) s) := by
    simp only [routeSignal, signalOn, hdie, hway, hnode, hf, nodePresent, beq_self_eq_true, Bool.true_or, ne_eq, not_true_eq_false, false_and, or_self,
      if_false]
    rfl
  have h5 : die ≠ 5 := by omega
  refine ⟨(carryOne 8 (mkSrc s.swarm.node die 4 cell 0) ctx.toNat (portOfFence a add) s).net, ?_⟩
  simp only [sendSignal, hf, hdie, h5, if_false, hrouted]
  rw [carryOne_net]
  rfl

/-- A SIGF to a fence of this node with nothing outstanding sends its signal (R148). -/
theorem sigf_sends {u : Unit1} {s : State} {f : Nat} (ha : (u.x.sreg u.i.a).toNat % 8 = 0) (hd : u.x.dma = [])
    (hf : fenceIndex s (u.x.sreg u.i.a).toNat = some f) : sigf u s
      = .next (sendSignal (mkSrc s.swarm.node u.die 4 u.cell 0) (u.x.sreg u.i.a).toNat (u.i.imm == 1) (u.x.sreg u.i.b) (.cell u.die u.cell) u.j.ctx s)
          u.x := by
  unfold sigf
  dsimp only
  rw [if_neg (not_not.mpr hd), if_neg (not_not.mpr ha), if_pos (.inr (.inr (by rw [hf]; rfl)))]

/-- A cell that is ready is one of the part. -/
theorem cellOk_of_ready {op die cell : Nat} {uses : Uses} {s : State} (h : ready op uses die cell s = true) : cellOk die cell = true := by
  simp only [ready, Bool.and_eq_true] at h
  exact h.1.1.1.1.1.1.1.1.1.1.1

/-- Settles O22: the issue of each instruction, the completion of a transfer and the release of a wait. -/
theorem dataMovesAndFences : Obligations.DataMovesAndFences := by
  intro die cell s u ra rb n x base moves
  refine ⟨?get, ?put, ?completes, ?waits, ?releases, ?signals⟩
  case get =>
    intro hr hn h256 hmax hb h48 hroom hawait hhaz hown
    exact ready_cell hr (issueDma_joins (u := u) hn h256 hmax hb h48 hroom hawait hhaz hown)
  case put =>
    intro hr hn h256 hmax hb h48 hroom hawait hhaz hown
    exact ready_cell hr (issueDma_joins (u := u) hn h256 hmax hb h48 hroom hawait hhaz hown)
  case completes =>
    intro i j d hcell hi hj hd hretry hlive hwin hacc hok own sent moved left
    have hrun : exec (.dmaComplete die cell i) s = inRange (cellOk die cell && decide (i < 16)) (dmaComplete die cell i s) := rfl
    have hunits : (cellOk die cell && decide (i < 16)) = true := by rw [hcell, decide_eq_true hi]; rfl
    have hdone : dmaComplete die cell i s = setCell moved die cell (dmaDone i x) :=
      (dmaComplete_moves hj hd hretry hlive hwin hacc hok).trans (by rw [moveDma_sent]; rfl)
    have hjob : x.job.any (·.stopped) = j.stopped := by rw [show x.job = some j from hj]; rfl
    have gives (y : Cell) (hy : dmaDone i x = y) : ∃ t, exec (.dmaComplete die cell i) s = .next t
        ∧ t = { setCell moved die cell y with free := t.free } := ⟨_, exec_comes hrun hunits (hy ▸ hdone), rfl⟩
    refine ⟨fun hs => gives _ ?_, fun hs hl => gives _ ?_, fun hs hl => gives _ ?_⟩
    · unfold dmaDone
      rw [hjob, hs]
      rfl
    · unfold dmaDone
      rw [hjob, hs]
      exact (if_pos rfl).trans (if_neg hl)
    · unfold dmaDone
      rw [hjob, hs]
      exact (if_pos rfl).trans (if_pos hl)
  case waits =>
    intro hr ha ht hc
    obtain ⟨t, hexec, ht⟩ := ready_cell (s := s) hr (waitf_waits (u := u) ha ht hc)
    refine ⟨t, hexec, ht, ?_⟩
    rw [ht]
    exact congrArg Cell.state (getCell_setCell s die cell _)
  case releases =>
    intro j w hcell hj hw hlive ht htrap
    exact ⟨_, exec_comes rfl hcell (waitfRelease_goes hj hw hlive ht htrap), rfl⟩
  case signals =>
    intro hr ha hd f hf hway
    obtain ⟨hdie, -⟩ := of_decide_eq_true (cellOk_of_ready hr)
    obtain ⟨n, hn⟩ := sendSignal_cell (cell := cell) (v := u.x.sreg u.i.b) (o := .cell die cell) (ctx := u.j.ctx) hdie hf hway
    exact ⟨_, ready_next hr ((sigf_sends (u := u) ha hd hf).trans (congrArg (Issue.next · u.x) hn)), rfl, rfl, rfl,
      congrArg Cell.pc (getCell_setCell _ die cell _)⟩

end Sys2Proof.Machine
end

section
/-! QUEUE_DOORBELL and the start of descriptors (R81-R84, R133, R134, R157, R248). -/

namespace Sys2Proof.Machine

/-! ### Doorbells -/

/-- A count within the ring is taken at the doorbell of a queue that works (R84). -/
theorem takeDoorbell_taken {q : Nat} {v : W32} {s : State} (hh : (getQueue s q).state ≠ .halted) (hd : (getQueue s q).state ≠ .draining)
    (hv : v ≠ (getQueue s q).submitted)
    (hin : (v - (getQueue s q).retired).toNat ≤ 2 ^ (getQueue s q).log2 ∧ (v - (getQueue s q).submitted).toNat < 2 ^ 31) :
    takeDoorbell q v s = setQueue s q { getQueue s q with submitted := v } := by
  unfold takeDoorbell
  dsimp only
  rw [if_neg (not_or.mpr ⟨hh, hd⟩), if_neg hv, if_pos hin]

/-- A count beyond the ring halts the queue (R84). -/
theorem takeDoorbell_beyond {q : Nat} {v : W32} {s : State} (hh : (getQueue s q).state ≠ .halted) (hd : (getQueue s q).state ≠ .draining)
    (hv : v ≠ (getQueue s q).submitted) (hout : 2 ^ (getQueue s q).log2 < (v - (getQueue s q).retired).toNat) :
    takeDoorbell q v s = haltQueue q 0xFFFFFFFF 0x1006 none s := by
  unfold takeDoorbell
  dsimp only
  rw [if_neg (not_or.mpr ⟨hh, hd⟩), if_neg hv, if_neg (fun h => Nat.not_le.mpr hout h.1)]

/-- Poisoning makes one word of the fence, and keeps its value in the entry (R89). -/
theorem poison_eq (i : Nat) (c : W16) (s : State) : ∃ w, poison i c s = if bitOf (fenceWord s i) 63 then s
    else setFence (setMot s i { getMot s i with shadow := (fenceWord s i).toNat }) i w := ⟨_, rfl⟩

/-- Poisoning a fence writes the fences and the object table alone. -/
theorem poison_obj (i : Nat) (c : W16) (s : State) :
    poison i c s = { s with obj := { s.obj with fences := (poison i c s).obj.fences, mot := (poison i c s).obj.mot } } := by
  obtain ⟨w, h⟩ := poison_eq i c s
  rw [h]
  split
  · rfl
  · rfl

/-- A fence poisoned, where a queue has one (R83). -/
def poisonOf (f : Option Nat) (c : W16) (s : State) : State :=
  match f with
  | some i => poison i c s
  | none => s

theorem poisonOf_obj (f : Option Nat) (c : W16) (s : State) :
    poisonOf f c s = { s with obj := { s.obj with fences := (poisonOf f c s).obj.fences, mot := (poisonOf f c s).obj.mot } } := by
  cases f with
  | none => rfl
  | some i => exact poison_obj i c s

/-- A live queue that is halted without a signal fence: stopped, and its completion fence poisoned, before the halt is recorded (R83). -/
def haltedQueue (q : Nat) (c : W16) (s : State) : State :=
  poisonOf (resolve s (getQueue s q).fence) c
    (setQueue s q { getQueue s q with state := if (getQueue s q).state = .draining then .draining else .halted, stopped := true })

/-- The record of a halt changes neither queues nor fences. -/
theorem haltQueue_obj {q : Nat} {d : W32} {c : W16} {s : State} (hl : (getQueue s q).live = true) :
    (haltQueue q d c none s).obj = (haltedQueue q c s).obj := by
  have told (x : Ctx) (p : Bytes) (t : State) : (sendMaker x 0xE003 p t).obj = t.obj := by
    rw [eq_of_apartFromKeeper (sendMaker_apartFromKeeper x 0xE003 p t)]
  have hresolve (x : Queue) : resolve (setQueue s q x) (getQueue s q).fence = resolve s (getQueue s q).fence := rfl
  unfold haltQueue
  rw [if_neg (not_not.mpr hl)]
  simp only [hresolve]
  cases hf : resolve s (getQueue s q).fence with
  | none =>
    simp only [haltedQueue, hf, poisonOf]
    split
    · exact told _ _ _
    · rfl
  | some i =>
    simp only [haltedQueue, hf, poisonOf]
    split
    · exact told _ _ _
    · rfl

theorem getQueue_haltQueue {q : Nat} {d : W32} {c : W16} {s : State} (hl : (getQueue s q).live = true) (hd : (getQueue s q).state ≠ .draining) :
    getQueue (haltQueue q d c none s) q = { getQueue s q with state := .halted, stopped := true } := by
  have hqueues : (haltedQueue q c s).obj.queues = _ := congrArg (fun u : State => u.obj.queues) (poisonOf_obj _ c _)
  rw [getQueue, haltQueue_obj hl, hqueues, if_neg hd]
  exact Tbl.get_set_self _ _ _ _

theorem fenceWord_haltQueue {q f : Nat} {d : W32} {c : W16} {s : State} (hl : (getQueue s q).live = true)
    (hf : resolve s (getQueue s q).fence = some f) (hc : c.toNat < 0x8000) : bitOf (fenceWord (haltQueue q d c none s) f) 63 = true := by
  rw [fenceWord, haltQueue_obj hl, haltedQueue, hf]
  exact poison_poisons f hc _

/-! ### What a start leaves -/

/-- The DISPATCH packets of a start write the network alone. -/
theorem dispatchTo_net (typ ctx : Nat) (us : List Nat) (s : State) :
    dispatchTo typ ctx us s = { s with net := (dispatchTo typ ctx us s).net } := by
  obtain ⟨n, hn⟩ := foldl_writes (put := fun s n => { s with net := n }) (f := fun s u => carryOne 11 (mkSrc s.swarm.node 5 7 0 0) ctx (unitAddr s typ u) s)
    (fun s u => ⟨_, carryOne_net 11 _ ctx _ s⟩) (fun _ _ _ => rfl) us (s := s) ⟨s.net, rfl⟩
  have h : dispatchTo typ ctx us s = { s with net := n } := hn
  rw [h]

theorem withStarted_rest (typ : Nat) (s : State) (q : Nat) (us : List Nat) (ps : Bytes) :
    (withStarted typ s q us ps).cmp = s.cmp ∧ (withStarted typ s q us ps).free = s.free
      ∧ getQueue (withStarted typ s q us ps) q = { getQueue s q with startedCount := (getQueue s q).startedCount + 1,
                                                                     inflight := (getQueue s q).inflight ++ [startedDesc s q us ps] } := by
  unfold withStarted
  rw [dispatchTo_net]
  exact ⟨rfl, rfl, getQueue_setQueue s q _⟩

/-- The units that a descriptor starts on are distinct. -/
theorem gatherUnits_nodup {typ : Nat} {mask : W64} {s : State} {us : List Nat} {ps : Bytes} (h : gatherUnits typ mask s = .go us ps) : us.Nodup := by
  have hfrom (a n : Nat) : (upFrom a n).Nodup := by
    induction n generalizing a with
    | zero => exact List.nodup_nil
    | succ n ih => exact List.nodup_cons.mpr ⟨fun h => absurd (mem_upFrom.mp h).1 (by omega), ih (a + 1)⟩
  have hmask : (maskUnits typ mask).Nodup := by
    unfold maskUnits
    split
    · exact (hfrom 0 128).filter _
    · exact (hfrom 0 32).filter _
    · exact (hfrom 0 96).filter _
    · exact List.nodup_nil
  have hus : us = (maskUnits typ mask).filter (fun u => !unitRetired s typ u) := by
    unfold gatherUnits at h
    dsimp only at h
    split_ifs at h
    split at h
    · cases h
    · cases h
      rfl
  exact hus ▸ hmask.filter _

/-- A loop over numbered units that makes of each unit's value another one. -/
theorem foldl_units {α β : Type} {get : β → Nat → α} {f : β → Nat × Nat → β} {h : α → Nat → α}
    (hf : ∀ s p u, get (f s p) u = if u = p.1 then h (get s u) p.2 else get s u) (l : List Nat) :
    ∀ (b : Nat) (s : β), l.Nodup → (∀ i u, l[i]? = some u → get ((l.zip (upFrom b l.length)).foldl f s) u = h (get s u) (b + i))
      ∧ ∀ u, u ∉ l → get ((l.zip (upFrom b l.length)).foldl f s) u = get s u := by
  induction l with
  | nil => exact fun b s _ => ⟨fun i u hi => by simp at hi, fun u _ => rfl⟩
  | cons v l ih =>
    intro b s hn
    obtain ⟨hv, hn⟩ := List.nodup_cons.mp hn
    obtain ⟨hin, hout⟩ := ih (b + 1) (f s (v, b)) hn
    refine ⟨fun i u hi => ?_, fun u hu => ?_⟩
    · cases i with
      | zero =>
        obtain rfl : v = u := Option.some.inj hi
        exact (hout v hv).trans ((hf s (v, b) v).trans (if_pos rfl))
      | succ i =>
        have hu : u ∈ l := List.mem_of_getElem? hi
        have hne : u ≠ v := fun e => hv (e ▸ hu)
        refine (hin i u hi).trans ?_
        rw [hf, if_neg hne, Nat.add_right_comm, Nat.add_assoc]
    · obtain ⟨hne, hu⟩ := not_or.mp (fun h => hu (List.mem_cons.mpr h))
      exact (hout u hu).trans ((hf s (v, b) u).trans (if_neg hne))

/-! ### Starting on units -/

/-- A cell at the start of a KERNEL: item `i` where there is one, else none (R134). -/
def kernelCell (c : Cell) (job : CellJob) (i : Nat) : Cell := if i < job.items then startItem c { job with position := i } i else c

/-- A cell as a KERNEL finds it: the argument block taken, its flags clear (R134). -/
def freshCell (buf : Tbl Byte) (ctx : BitVec 10) (x : Cell) : Cell := { itemsDone := x.itemsDone, args := buf, context := ctx }

/-- The cell of unit `u`. -/
def cellOf (s : State) (u : Nat) : Cell := Tbl.get {} s.cmp.cells u

theorem getCell_unit (s : State) (u : Nat) : getCell s (u / 32) (u % 32) = cellOf s u := by
  rw [getCell, Nat.div_add_mod, cellOf]

theorem cellOf_setCell (s : State) (v u : Nat) (x : Cell) :
    cellOf (setCell s (v / 32) (v % 32) x) u = if u = v then x else cellOf s u := by
  simp only [cellOf, setCell, Tbl.get_set, Nat.div_add_mod]

/-- The job on which the cells of a KERNEL start (R133, R134). -/
def kernelJob (q : Nat) (e : Desc) (s : State) : CellJob :=
  let image := (imageOf s (getQueue s q).ctx.toNat e.bytes).getD (0, 0)
  { queue := q, desc := e.num, ctx := (getQueue s q).ctx, code := image.1 + 256, words := (imageCount (memRead s image.1 256) image.2).getD 0,
    entry := leNat e.bytes 44 4, items := leNat e.bytes 56 2, item := 0, n := e.units.length, position := 0, numctl := le16 e.bytes 58 }

/-- The argument block of a KERNEL (R134). -/
def kernelArgs (e : Desc) (s : State) : Tbl Byte := if leNat e.bytes 48 8 = 0 then [] else putBytes 0 [] 0 (memRead s (leNat e.bytes 48 8) 256)

/-- A cell of a KERNEL's `i`-th unit as it starts (R134). -/
def kernelStarted (q : Nat) (e : Desc) (s : State) (x : Cell) (i : Nat) : Cell :=
  kernelCell (freshCell (kernelArgs e s) ((getQueue s q).ctx.truncate 10) x) (kernelJob q e s) i

/-- A cell without an item is idle as the KERNEL starts. -/
theorem kernelStarted_idle {q i : Nat} {e : Desc} {s : State} {x : Cell} (h : ¬ i < leNat e.bytes 56 2) :
    (kernelStarted q e s x i).state = .idle ∧ (kernelStarted q e s x i).job = none := by
  have hcell : kernelStarted q e s x i = freshCell (kernelArgs e s) ((getQueue s q).ctx.truncate 10) x := if_neg h
  rw [hcell]
  exact ⟨rfl, rfl⟩

/-- The start of a KERNEL is a loop over its cells, which begin on one job (R134). -/
theorem kernelBegin_eq (q : Nat) (e : Desc) (s : State) : kernelBegin q e s
    = (e.units.zip (upFrom 0 e.units.length)).foldl (fun t p =>
        setCell t (p.1 / 32) (p.1 % 32) (kernelStarted q e s (getCell t (p.1 / 32) (p.1 % 32)) p.2)) s := by
  unfold kernelBegin kernelStarted kernelJob
  dsimp only
  generalize (imageOf s (getQueue s q).ctx.toNat e.bytes).getD (0, 0) = image
  obtain ⟨base, n⟩ := image
  rfl

/-- What a cell that starts an item reads (R134). -/
theorem startItem_spec (c : Cell) (j : CellJob) (i : Nat) :
    (startItem c j i).state = .running ∧ (startItem c j i).item = BitVec.ofNat 16 i ∧ (startItem c j i).pc = BitVec.ofNat 20 j.entry
      ∧ (startItem c j i).numctl = j.numctl ∧ (startItem c j i).sreg 1 = BitVec.ofNat 64 i ∧ (startItem c j i).sreg 2 = BitVec.ofNat 64 j.items
      ∧ (startItem c j i).invalid = c.invalid ∧ (startItem c j i).overflow = c.overflow ∧ (startItem c j i).truncated = c.truncated := by
  have h1 : (startItem c j i).sreg 1 = BitVec.ofNat 64 i := by simp [startItem, sreg_setS]
  have h2 : (startItem c j i).sreg 2 = BitVec.ofNat 64 j.items := by simp [startItem, sreg_setS]
  refine ⟨?_, ?_, ?_, ?_, h1, h2, ?_, ?_, ?_⟩ <;> (unfold startItem; rw [setS_rest, setS_rest])

/-- A cell with an item runs it from the KERNEL's entry, with its flags clear (R134). -/
theorem kernelStarted_running {q i : Nat} {e : Desc} {s : State} {x : Cell} (h : i < leNat e.bytes 56 2) :
    let y := kernelStarted q e s x i
    y.state = .running ∧ y.item = BitVec.ofNat 16 i ∧ y.pc = BitVec.ofNat 20 (leNat e.bytes 44 4) ∧ y.numctl = le16 e.bytes 58
      ∧ y.sreg 1 = BitVec.ofNat 64 i ∧ y.sreg 2 = BitVec.ofNat 64 (leNat e.bytes 56 2) ∧ y.invalid = false ∧ y.overflow = false
      ∧ y.truncated = false := by
  have hcell : kernelStarted q e s x i = startItem (freshCell (kernelArgs e s) ((getQueue s q).ctx.truncate 10) x)
      { kernelJob q e s with position := i } i := if_pos h
  rw [hcell]
  exact startItem_spec _ _ i

/-- A loop over units that writes the cells writes nothing else. -/
theorem foldl_setCell_rest (v : State → Nat × Nat → Cell) (l : List (Nat × Nat)) (s : State) :
    ∃ x, l.foldl (fun s p => setCell s (p.1 / 32) (p.1 % 32) (v s p)) s = { s with cmp := { s.cmp with cells := x } } :=
  foldl_writes (put := fun s x => { s with cmp := { s.cmp with cells := x } }) (fun _ _ => ⟨_, rfl⟩) (fun _ _ _ => rfl) l ⟨s.cmp.cells, rfl⟩

/-- The tables of a unit kind hold what each unit of a loop makes of its own. -/
theorem selectBegin_spec (q : Nat) (e : Desc) (s : State) :
    (∃ x, selectBegin q e s = { s with cmp := { s.cmp with engines := x } })
      ∧ ∀ u, getEngine (selectBegin q e s) u = if u ∈ e.units then
          { getEngine s u with state := .streaming, context := (getQueue s q).ctx.truncate 10, fill := 0, job := some (q, e.num.toNat) }
        else getEngine s u := by
  refine ⟨foldl_writes (put := fun s x => { s with cmp := { s.cmp with engines := x } }) (fun _ _ => ⟨_, rfl⟩) (fun _ _ _ => rfl) e.units ⟨s.cmp.engines, rfl⟩,
    fun u => ?_⟩
  unfold selectBegin
  dsimp only
  generalize e.units = l
  generalize hctx : (getQueue s q).ctx.truncate 10 = ctx
  clear hctx
  induction l generalizing s with
  | nil => simp
  | cons v l ih =>
    have hv : ∀ x, getEngine (setEngine s v x) u = if u = v then x else getEngine s u := fun x => Tbl.get_set _ _ _ _ _
    rw [List.foldl_cons, ih, hv]
    by_cases hu : u = v
    · subst hu
      simp
    · simp [hu]

/-- A tile at the start of a TILE: its flags clear, on item `i` where there is one (R248, R253). -/
def tileStarted (ctx : BitVec 10) (items : Nat) (st : TileState) (job : Nat × Nat) (x : TileUnit) (i : Nat) : TileUnit :=
  if i < items then { itemsDone := x.itemsDone, context := ctx, item := BitVec.ofNat 16 i, state := st, job := some job }
  else { itemsDone := x.itemsDone, context := ctx, item := BitVec.ofNat 16 i }

theorem tileStarted_spec (ctx : BitVec 10) (items : Nat) (st : TileState) (job : Nat × Nat) (x : TileUnit) (i : Nat) :
    let y := tileStarted ctx items st job x i
    y.itemsDone = x.itemsDone ∧ y.invalid = false ∧ if i < items then y.state = st ∧ y.job = some job else y.state = .idle := by
  unfold tileStarted
  split
  · exact ⟨rfl, rfl, rfl, rfl⟩
  · exact ⟨rfl, rfl, rfl⟩

/-- The tiles of a TILE's units, and the other tiles, as it starts (R248). -/
theorem tileBegin_spec {q : Nat} {e : Desc} {s : State} (hn : e.units.Nodup) :
    (∃ x, tileBegin q e s = { s with cmp := { s.cmp with tiles := x } })
      ∧ (∀ i u, e.units[i]? = some u → getTile (tileBegin q e s) u = tileStarted ((getQueue s q).ctx.truncate 10) (leNat e.bytes 54 2)
          (if (tileParams e.bytes e.params).anchors then .anchoring else .running) (q, e.num.toNat) (getTile s u) i)
      ∧ ∀ u, u ∉ e.units → getTile (tileBegin q e s) u = getTile s u := by
  refine ⟨foldl_writes (put := fun s x => { s with cmp := { s.cmp with tiles := x } }) (fun _ _ => ⟨_, rfl⟩) (fun _ _ _ => rfl) _ ⟨s.cmp.tiles, rfl⟩, ?_⟩
  have hstep (started : TileUnit → Nat → TileUnit) (t : State) (p : Nat × Nat) (u : Nat) :
      getTile (setTile t p.1 (started (getTile t p.1) p.2)) u = if u = p.1 then started (getTile t u) p.2 else getTile t u := by
    rw [getTile, setTile, Tbl.get_set]
    split
    next h => rw [h]
    next => rfl
  obtain ⟨hin, hout⟩ := foldl_units (hstep (tileStarted ((getQueue s q).ctx.truncate 10) (leNat e.bytes 54 2)
      (if (tileParams e.bytes e.params).anchors then .anchoring else .running) (q, e.num.toNat))) e.units 0 s hn
  exact ⟨fun i u hi => (hin i u hi).trans (by rw [Nat.zero_add]), hout⟩

/-- The cells of a KERNEL's units, and the other cells, as it starts (R134). -/
theorem kernelBegin_spec {q : Nat} {e : Desc} {s : State} (hn : e.units.Nodup) :
    (∃ x, kernelBegin q e s = { s with cmp := { s.cmp with cells := x } })
      ∧ (∀ i u, e.units[i]? = some u → cellOf (kernelBegin q e s) u = kernelStarted q e s (cellOf s u) i)
      ∧ ∀ u, u ∉ e.units → cellOf (kernelBegin q e s) u = cellOf s u := by
  have hstep (started : Cell → Nat → Cell) (t : State) (p : Nat × Nat) (u : Nat) :
      cellOf (setCell t (p.1 / 32) (p.1 % 32) (started (getCell t (p.1 / 32) (p.1 % 32)) p.2)) u
        = if u = p.1 then started (cellOf t u) p.2 else cellOf t u := by
    rw [cellOf_setCell, getCell_unit]
    split
    next h => rw [h]
    next => rfl
  obtain ⟨hin, hout⟩ := foldl_units (hstep (kernelStarted q e s)) e.units 0 s hn
  rw [kernelBegin_eq]
  exact ⟨foldl_setCell_rest _ _ _, fun i u hi => (hin i u hi).trans (by rw [Nat.zero_add]), hout⟩

/-- A KERNEL without an argument block needs its cells alone (R133). -/
theorem kernelLate_noArgs {x : Queue} {b : Bytes} {s : State} (h : leNat b 48 8 = 0) : kernelLate x b s = gatherUnits 1 x.unitMask s := by
  unfold kernelLate
  dsimp only
  rw [if_neg (not_not.mpr h)]

/-- What a descriptor with a parameter block needs is had once the block has been read and passes its checks (R157, R251). -/
theorem paramsLate_go {typ : Nat} {check : Bytes → Bytes → W16} {extents : Bytes → Bytes → List (Nat × Nat × Bool)} {x : Queue} {b ps : Bytes}
    {s : State} {us : List Nat} (hp : readParams x.ctx.toNat (leNat b 40 8) s = .inl ps) (hc : check b ps = 0)
    (he : extentsOk s x.ctx.toNat (extents b ps) = true) (hg : gatherUnits typ x.unitMask s = .go us []) :
    paramsLate typ check extents x b s = .go us ps := by
  simp only [paramsLate, hp, paramsGo, hc, he, hg, startWith, ne_eq, not_true_eq_false, if_false]

/-- Settles O28: the doorbell by its source and count, and each descriptor that passes every check by its type. -/
theorem doorbellAndStart : Obligations.DoorbellAndStart := by
  intro q s hq x b heard started
  have hq' := decide_eq_true hq
  have hbell (src v : W32) : exec (.queueDoorbell src q v) s = inRange (decide (q < 1024)) (queueDoorbell src q v s) := rfl
  refine ⟨?bell, ?refused, ?alone, ?copy, ?kernel, ?select, ?tile⟩
  case bell =>
    intro src v hl hr hh hd hv
    have hring : queueDoorbell src q v s = takeDoorbell q v heard := if_neg (by simp only [not_or, not_not]; exact ⟨hl, hr⟩)
    refine ⟨fun hin => exec_comes (hbell src v) hq' (hring.trans (takeDoorbell_taken (s := heard) hh hd hv hin)), fun hout => ?_⟩
    have hhalt := hring.trans (takeDoorbell_beyond (s := heard) hh hd hv hout)
    have hqueue : getQueue (haltQueue q 0xFFFFFFFF 0x1006 none heard) q = _ := getQueue_haltQueue (s := heard) hl hd
    exact ⟨_, exec_comes (hbell src v) hq' hhalt, congrArg Queue.state hqueue, (congrArg Queue.submitted hqueue :), congrArg Queue.stopped hqueue,
      fun f hf => fenceWord_haltQueue (s := heard) hl hf (by decide)⟩
  case refused =>
    intro src v h
    have hring : queueDoorbell src q v s = refuseWrite src (doorbellAddr s q) (if x.live then some x.creator else none) 0x4001 s :=
      if_pos (h.imp (fun h => by simp only [show (getQueue s q).live = false from h]; decide) (fun h => by simp only [show mayRing s src (getQueue s q) = false from h]; decide))
    exact exec_refused ((hbell src v).trans (congrArg _ hring)) hq'
  case alone =>
    intro typ i hi hready
    have hrun : exec i s = inRange (decide (q < 1024)) (startDesc typ noUnits (fun q e s => markFinished q e.num s) q s) := by
      rcases hi with ⟨rfl, rfl⟩ | ⟨rfl, rfl⟩ <;> rfl
    have hqueue : getQueue (withStarted typ s q [] []) q = _ := (withStarted_rest typ s q [] []).2.2
    refine ⟨_, exec_comes hrun hq' (startDesc_go hready rfl), rfl, fun k hk => ?_, ?_⟩
    · exact (getQueue_setQueue_ne _ _ _ _ hk).trans (getQueue_setQueue_ne s _ _ _ hk)
    · refine (getQueue_setQueue _ q _).trans ?_
      rw [hqueue]
      rfl
  case copy =>
    intro hready
    exact ⟨_, exec_comes (i := .copy q) rfl hq' (startDesc_go hready rfl), rfl⟩
  case kernel =>
    intro hready h0 us hus
    have hrun : exec (.kernel q) s = inRange (decide (q < 1024)) (startDesc 1 kernelLate kernelBegin q s) := rfl
    have hlate : kernelLate x b s = .go us [] := (kernelLate_noArgs h0).trans hus
    have hgo := startDesc_go (beg := kernelBegin) hready hlate
    obtain ⟨hcmp, hfree, -⟩ := withStarted_rest 1 s q us []
    obtain ⟨⟨cells, hcells⟩, hin, hout⟩ :=
      kernelBegin_spec (q := q) (e := startedDesc s q us []) (s := withStarted 1 s q us []) (gatherUnits_nodup hus)
    have hcell (u : Nat) : cellOf (withStarted 1 s q us []) u = cellOf s u := by rw [cellOf, hcmp, cellOf]
    refine ⟨_, exec_comes hrun hq' hgo, ?_, fun i u hi => ?_, fun u hu => (hout u hu).trans (hcell u)⟩
    · simp only [hcells, hcmp, hfree, started]
    · have hu : getCell (kernelBegin q (startedDesc s q us []) (withStarted 1 s q us [])) (u / 32) (u % 32) = _ := (getCell_unit _ u).trans (hin i u hi)
      intro y
      have hy : y = _ := hu
      rw [hy]
      split
      next h => exact kernelStarted_running h
      next h => exact kernelStarted_idle h
  case select =>
    intro hready us ps hp hc he hg
    have hrun : exec (.selectDescriptor q) s
        = inRange (decide (q < 1024)) (startDesc 3 (paramsLate 3 (fun _ p => selCheck p) (fun _ p => (selParams p).extents)) selectBegin q s) := rfl
    have hlate : paramsLate 3 (fun _ p => selCheck p) (fun _ p => (selParams p).extents) x b s = .go us ps := paramsLate_go hp hc he hg
    have hgo := startDesc_go (beg := selectBegin) hready hlate
    obtain ⟨hcmp, hfree, hqueue⟩ := withStarted_rest 3 s q us ps
    obtain ⟨⟨engines, hengines⟩, hspec⟩ := selectBegin_spec q (startedDesc s q us ps) (withStarted 3 s q us ps)
    have hengine (u : Nat) : getEngine (withStarted 3 s q us ps) u = getEngine s u := by rw [getEngine, hcmp, getEngine]
    refine ⟨_, exec_comes hrun hq' hgo, ?_, fun u => (hspec u).trans ?_⟩
    · simp only [hengines, hcmp, hfree, started]
    · rw [hengine, hqueue]
      rfl
  case tile =>
    intro hready us ps hp hc he hg
    have hrun : exec (.tile q) s = inRange (decide (q < 1024)) (startDesc 4 (paramsLate 4 tileCheck tileExtents) tileBegin q s) := rfl
    have hlate : paramsLate 4 tileCheck tileExtents x b s = .go us ps := paramsLate_go hp hc he hg
    have hgo := startDesc_go (beg := tileBegin) hready hlate
    obtain ⟨hcmp, hfree, hqueue⟩ := withStarted_rest 4 s q us ps
    obtain ⟨⟨tiles, htiles⟩, hin, hout⟩ :=
      tileBegin_spec (q := q) (e := startedDesc s q us ps) (s := withStarted 4 s q us ps) (gatherUnits_nodup hg)
    have htile (u : Nat) : getTile (withStarted 4 s q us ps) u = getTile s u := by rw [getTile, hcmp, getTile]
    refine ⟨_, exec_comes hrun hq' hgo, ?_, fun i u hi => ?_, fun u hu => (hout u hu).trans (htile u)⟩
    · simp only [htiles, hcmp, hfree, started]
    · have hu : getTile (tileBegin q (startedDesc s q us ps) (withStarted 4 s q us ps)) u = _ := hin i u hi
      rw [htile] at hu
      obtain ⟨hitems, hinvalid, hstate⟩ := tileStarted_spec ((getQueue (withStarted 4 s q us ps) q).ctx.truncate 10) (leNat b 54 2)
        (if (tileParams b ps).anchors then .anchoring else .running) (q, x.startedCount.toNat) (getTile s u) i
      exact ⟨(congrArg TileUnit.itemsDone hu).trans hitems, (congrArg TileUnit.invalid hu).trans hinvalid, hu ▸ hstate⟩

end Sys2Proof.Machine
end

section
/-! The end of a descriptor and its retirement (R82, R85, R135, R164, R166, R250). -/

namespace Sys2Proof.Machine

/-! ### A queue that is not DRAINING -/

/-- A queue that is not DRAINING has nothing to settle (R88). -/
theorem settle_still {q : Nat} {s : State} (h : (getQueue s q).state ≠ .draining) : settle q s = s := by
  unfold settle
  dsimp only
  exact if_neg (fun hd => h hd.2)

/-- A descriptor among those in flight shown as finished. -/
def withFinished (x : Queue) (d : W32) : Queue := { x with inflight := x.inflight.map (fun e => if e.num = d then { e with finished := true } else e) }

theorem getQueue_markFinished (q : Nat) (d : W32) (s : State) : getQueue (markFinished q d s) q = withFinished (getQueue s q) d :=
  getQueue_setQueue s q _

/-- Marking a descriptor as finished writes the queues alone. -/
theorem markFinished_queues (q : Nat) (d : W32) (s : State) :
    markFinished q d s = { s with obj := { s.obj with queues := (markFinished q d s).obj.queues } } := rfl

/-- A descriptor marked as finished in a queue that is not DRAINING stays in flight until it retires. -/
theorem settle_markFinished {q : Nat} {d : W32} {s : State} (h : (getQueue s q).state ≠ .draining) :
    settle q (markFinished q d s) = markFinished q d s :=
  settle_still (by rw [getQueue_markFinished]; exact h)

/-- DESCRIPTOR_FINISH of a descriptor that runs, in a context that is not in reset, is the end of its type. -/
theorem descriptorFinish_of_running {q : Nat} {d : W32} {s : State} {e : Desc} (hf : (getQueue s q).inflight.find? (fun e => e.num == d) = some e)
    (he : e.finished = false) (hc : (localCtx s (getQueue s q).ctx.toNat).any (fun c => !inReset (getCtx s c)) = true) :
    (byteAt e.bytes 0 = 1 → descriptorFinish q d s = settle q (kernelFinish q e s))
      ∧ (byteAt e.bytes 0 = 2 → descriptorFinish q d s = settle q (copyRun q e s))
      ∧ (byteAt e.bytes 0 = 3 → descriptorFinish q d s = selectFinish q e s)
      ∧ (byteAt e.bytes 0 = 4 → descriptorFinish q d s = tileFinish q e s) := by
  refine ⟨fun h => ?_, fun h => ?_, fun h => ?_, fun h => ?_⟩ <;>
  · unfold descriptorFinish
    simp only [hf, he, hc, h, Bool.false_eq_true, not_true_eq_false, or_self, if_false]
    rfl

/-! ### COPY -/

/-- Packets of an access within this package write the network alone. -/
theorem sendPackets_local {a : Nat} {s : State} (h : addrNode a = s.swarm.node) (r : Requester) (src : W32) (write : Bool) (n : Nat) (l : Bytes)
    (c : W16) : ∃ m, sendPackets r src write a n l c s = { s with net := m } := by
  have hsend : sendAccess src (reqCtx r) write a n l s = s := if_pos (.inl h)
  refine ⟨(sendPackets r src write a n l c s).net, ?_⟩
  unfold sendPackets
  dsimp only
  rw [hsend, ite_self]
  exact carryAccess_net _ _ _ _ _ _ _ _

theorem memWrite_withNet (s : State) (m : Network) (a : Nat) (l : Bytes) : memWrite { s with net := m } a l = { memWrite s a l with net := m } := by
  unfold memWrite
  split <;> rfl

/-- A COPY between ranges of this node that are no windows and pass their checks moves its bytes (R82). -/
theorem copyRun_moves {q : Nat} {e : Desc} {s : State} (hin : collWindow s (leNat e.bytes 48 8) = none)
    (hsrc : addrNode (leNat e.bytes 40 8) = s.swarm.node) (hdst : addrNode (leNat e.bytes 48 8) = s.swarm.node)
    (hrd : accessCheck s (.unit (getQueue s q).ctx.toNat false 5) (leNat e.bytes 40 8) (leNat e.bytes 56 8) false = 0)
    (hwr : accessCheck s (.unit (getQueue s q).ctx.toNat false 5) (leNat e.bytes 48 8) (leNat e.bytes 56 8) true = 0)
    (hok : checksOk s (leNat e.bytes 40 8) (leNat e.bytes 56 8) = true) (hsw : windowAt s (leNat e.bytes 40 8) (leNat e.bytes 56 8) = none)
    (hdw : windowAt s (leNat e.bytes 48 8) (leNat e.bytes 56 8) = none) :
    ∃ m, copyRun q e s = markFinished q e.num
      { memWrite s (leNat e.bytes 48 8) (memRead s (leNat e.bytes 40 8) (leNat e.bytes 56 8)) with net := m } := by
  have hcheck {a n : Nat} {w : Bool} (h : windowAt s a n = none) (hacc : accessCheck s (.unit (getQueue s q).ctx.toNat false 5) a n w = 0) :
      copyCheck s (getQueue s q).ctx.toNat a n w = 0 := by
    unfold copyCheck
    rw [h]
    exact hacc
  obtain ⟨m, hm⟩ := sendPackets_local hsrc (.unit (getQueue s q).ctx.toNat false 5) (mkSrc s.swarm.node 5 7 0 0) false (leNat e.bytes 56 8) [] 0
  obtain ⟨k, hk⟩ := sendPackets_local (s := { s with net := m }) hdst (.unit (getQueue s q).ctx.toNat false 5) (mkSrc s.swarm.node 5 7 0 0) true
    (leNat e.bytes 56 8) (memRead s (leNat e.bytes 40 8) (leNat e.bytes 56 8)) 0
  have hwrite (l : Bytes) : writeMem (leNat e.bytes 48 8) l { s with net := k } = { memWrite s (leNat e.bytes 48 8) l with net := k } := by
    have h : collWindow { s with net := k } (leNat e.bytes 48 8) = none := hin
    rw [writeMem, h]
    exact memWrite_withNet _ _ _ _
  refine ⟨k, ?_⟩
  unfold copyRun
  simp only [hcheck hsw hrd, hcheck hdw hwr, hsw, hdw, hsrc, hdst, hok, retryOne_zero, ne_eq, not_true_eq_false, false_and, and_false, if_false,
    Option.isSome_none, Bool.false_eq_true, hm]
  rw [hk, hwrite]

/-! ### KERNEL -/

/-- The flag word of a KERNEL (R135). -/
def kernelFlags (s : State) (us : List Nat) : Nat :=
  let flag := fun (f : Cell → Bool) => if us.any (fun u => f (getCell s (u / 32) (u % 32))) then 1 else 0
  flag (·.invalid) + 2 * flag (·.overflow) + 4 * flag (·.truncated)

/-- A KERNEL whose cells have ended their items writes its report (R135). -/
theorem kernelFinish_reports {q : Nat} {e : Desc} {s : State} (hf : e.failed = none) (hj : ∀ u ∈ e.units, (getCell s (u / 32) (u % 32)).job = none) :
    kernelFinish q e s = writeReport q e (le32 e.bytes 60) (kernelFlags s e.units) s := by
  have hended : (e.units.map (fun u => getCell s (u / 32) (u % 32))).any (fun x => x.job.isSome) = false := by
    simp only [List.any_map, List.any_eq_false, Function.comp_apply]
    intro u hu
    rw [hj u hu]
    exact Bool.false_ne_true
  unfold kernelFinish
  dsimp only
  rw [hended, if_neg Bool.false_ne_true, hf, if_neg (by decide)]
  simp only [List.any_map]
  rfl

/-- Without a REPORT the descriptor is finished at once. -/
theorem writeReport_none {q w : Nat} {e : Desc} {h : W32} {s : State} (h0 : h = 0) : writeReport q e h w s = markFinished q e.num s := if_pos h0

/-- A REPORT that can be written takes the word at its offset 0 (R135). -/
theorem writeReport_writes {q w i : Nat} {e : Desc} {h : W32} {s : State} (h0 : h ≠ 0) (hi : resolve s h = some i)
    (hacc : accessCheck s (.unit (getQueue s q).ctx.toNat false 5) (getMot s i).base 8 true = 0) (hok : checksOk s (getMot s i).base 8 = true) :
    writeReport q e h w s = markFinished q e.num (memWrite s (getMot s i).base (toLE 8 w)) := by
  unfold writeReport
  simp only [h0, hi, hacc, hok, retryOne_zero, Bool.false_eq_true, ne_eq, not_true_eq_false, if_false]

/-! ### What writes do apart from the wires -/

theorem poison_apartFromWires (i : Nat) (c : W16) (s : State) : apartFromWires (poison i c s) = poison i c (apartFromWires s) := by
  have hword : fenceWord (apartFromWires s) i = fenceWord s i := rfl
  unfold poison
  simp only [hword]
  split <;> rfl

theorem poisonOf_apartFromWires (f : Option Nat) (c : W16) (s : State) : apartFromWires (poisonOf f c s) = poisonOf f c (apartFromWires s) := by
  cases f with
  | none => rfl
  | some i => exact poison_apartFromWires i c s

/-- A loop whose steps commute with a projection commutes with it. -/
theorem foldl_comm {α β : Type} {p : β → β} {f : β → α → β} (hf : ∀ s x, p (f s x) = f (p s) x) (l : List α) (s : β) :
    p (l.foldl f s) = l.foldl f (p s) := by
  induction l generalizing s with
  | nil => rfl
  | cons x l ih => rw [List.foldl_cons, ih, hf, List.foldl_cons]

theorem collFailWith_apartFromWires (n : Nat) (c m : W16) (s : State) :
    apartFromWires (collFailWith n c m s) = collFailWith n c m (apartFromWires s) := by
  have hsame : sameColl (apartFromWires s) n = sameColl s n := rfl
  unfold collFailWith
  simp only [hsame]
  split
  · refine foldl_comm (fun t e => ?_) _ s
    split
    · exact poisonOf_apartFromWires (liveFence (setColl t e.1 _) _) c _
    · rfl
  · rfl

theorem inputStore_apartFromWires (n off : Nat) (l : Bytes) (s : State) :
    apartFromWires (inputStore n off l s) = inputStore n off l (apartFromWires s) := by
  refine foldl_comm (fun t i => ?_) _ s
  have hslot : getColl (apartFromWires t) n = getColl t n := rfl
  simp only [hslot]
  split
  · rfl
  · split
    · exact collFailWith_apartFromWires _ _ _ _
    · rfl

/-- A write is the same whatever packets are on their way. -/
theorem writeMem_apartFromWires (a : Nat) (l : Bytes) (s : State) : apartFromWires (writeMem a l s) = writeMem a l (apartFromWires s) := by
  have hwin : collWindow (apartFromWires s) a = collWindow s a := rfl
  unfold writeMem
  rw [hwin]
  split
  · exact inputStore_apartFromWires _ _ _ _
  · unfold memWrite
    split
    next h => exact (if_pos (c := addrNode a = (apartFromWires s).swarm.node ∧ a < 2 ^ 48) h).symm
    next h => exact (if_neg (c := addrNode a = (apartFromWires s).swarm.node ∧ a < 2 ^ 48) h).symm

theorem poison_queues (i : Nat) (c : W16) (s : State) : (poison i c s).obj.queues = s.obj.queues := by
  rw [poison_obj]

theorem collFailWith_queues (n : Nat) (c m : W16) (s : State) : (collFailWith n c m s).obj.queues = s.obj.queues := by
  unfold collFailWith
  dsimp only
  split
  · refine foldl_keeps (fun t : State => t.obj.queues) (fun t e => ?_) _ s
    split
    · split
      · exact poison_queues _ _ _
      · rfl
    · rfl
  · rfl

/-- A write, to memory or to an input window, leaves the queues. -/
theorem writeMem_queues (a : Nat) (l : Bytes) (s : State) : (writeMem a l s).obj.queues = s.obj.queues := by
  unfold writeMem
  split
  · refine foldl_keeps (fun t : State => t.obj.queues) (fun t i => ?_) _ s
    dsimp only
    split
    · rfl
    · split
      · exact collFailWith_queues _ _ _ _
      · rfl
  · rw [memWrite_mem_only]

/-- The rows of an output written, each with its packets, leave what they leave without them. -/
theorem foldl_writeMem_wires {α : Type} {a : α → Nat} {l : α → Bytes} {send : State → α → State} (hs : ∀ t x, apartFromWires (send t x) = apartFromWires t)
    (xs : List α) {s t : State} (h : apartFromWires t = apartFromWires s) :
    apartFromWires (xs.foldl (fun t x => writeMem (a x) (l x) (send t x)) t) = apartFromWires (xs.foldl (fun t x => writeMem (a x) (l x) t) s) := by
  induction xs generalizing s t with
  | nil => exact h
  | cons x xs ih =>
    refine ih ?_
    rw [writeMem_apartFromWires, writeMem_apartFromWires, hs, h]

theorem mem_of_wires {s t : State} (h : apartFromWires t = apartFromWires s) : t.mem = s.mem := (congrArg State.mem h :)

theorem obj_of_wires {s t : State} (h : apartFromWires t = apartFromWires s) : t.obj = s.obj := (congrArg State.obj h :)

theorem sendReads_apartFromWires (who : Nat → Requester) (src : Nat → W32) (l : List UnitAccess) (s : State) :
    apartFromWires (sendReads who src l s) = apartFromWires s :=
  foldl_keeps apartFromWires (fun s (e : UnitAccess) => sendPackets_apartFromWires (who e.1) (src e.1) false e.2.1 e.2.2.1 [] 0 s) _ s

/-! ### SELECT and TILE -/

/-- Nothing is awaited of a descriptor without a REPORT. -/
theorem reportAsleep_none {s : State} {ctx : Nat} {h : W32} (h0 : h = 0) : reportAsleep s ctx h = none := by
  unfold reportAsleep
  split
  · exact if_neg (fun h => h.1 h0)
  · rfl

/-- The accesses of units all pass. -/
theorem runAccess_eq {s : State} {who : Nat → Requester} {l : List UnitAccess} (h : (runAccess s who l).1 = 0) :
    runAccess s who l = (0, (runAccess s who l).2) := by
  rw [← h]

theorem foldl_setEngine_rest {α : Type} (v : State → α → SelEngine) (i : α → Nat) (l : List α) (s : State) :
    (l.foldl (fun t u => setEngine t (i u) (v t u)) s).mem = s.mem ∧ (l.foldl (fun t u => setEngine t (i u) (v t u)) s).obj = s.obj := by
  obtain ⟨x, h⟩ := foldl_writes (put := fun s x => { s with cmp := { s.cmp with engines := x } }) (f := fun t u => setEngine t (i u) (v t u))
    (fun _ _ => ⟨_, rfl⟩) (fun _ _ _ => rfl) l (s := s) ⟨s.cmp.engines, rfl⟩
  rw [h]
  exact ⟨rfl, rfl⟩

/-- An engine has ended its work. -/
def EngineIdle (u : Nat) (s : State) : Prop := (getEngine s u).state = .idle ∧ (getEngine s u).job = none

theorem engineIdle_setEngine {u v : Nat} {s : State} {x : SelEngine} (hx : x.state = .idle ∧ x.job = none) (h : u = v ∨ EngineIdle u s) :
    EngineIdle u (setEngine s v x) := by
  have hget : getEngine (setEngine s v x) u = if u = v then x else getEngine s u := Tbl.get_set _ _ _ _ _
  unfold EngineIdle
  rw [hget]
  split
  · exact hx
  next hne => exact h.resolve_left hne

theorem foldl_setTile_mem {α : Type} (v : State → α → TileUnit) (i : α → Nat) (l : List α) (s : State) :
    (l.foldl (fun t u => setTile t (i u) (v t u)) s).mem = s.mem :=
  foldl_keeps State.mem (f := fun t u => setTile t (i u) (v t u)) (fun _ _ => rfl) l s

/-- A tile has ended its work. -/
def TileIdle (u : Nat) (s : State) : Prop := (getTile s u).state = .idle ∧ (getTile s u).job = none

theorem tileIdle_setTile {u v : Nat} {s : State} {x : TileUnit} (hx : x.state = .idle ∧ x.job = none) (h : u = v ∨ TileIdle u s) :
    TileIdle u (setTile s v x) := by
  have hget : getTile (setTile s v x) u = if u = v then x else getTile s u := Tbl.get_set _ _ _ _ _
  unfold TileIdle
  rw [hget]
  split
  · exact hx
  next hne => exact h.resolve_left hne

theorem mem_zip_upFrom {us : List Nat} {u : Nat} (h : u ∈ us) : ∀ b, ∃ i, (u, i) ∈ us.zip (upFrom b us.length) := by
  induction us with
  | nil => cases h
  | cons v us ih =>
    intro b
    rcases List.mem_cons.mp h with rfl | h
    · exact ⟨b, List.mem_cons_self⟩
    · obtain ⟨i, hi⟩ := ih h (b + 1)
      exact ⟨i, List.mem_cons_of_mem _ hi⟩

/-- The end of a SELECT without a REPORT whose accesses pass (R166): its rows are written, its engines idle, and it is finished. -/
theorem selectFinish_spec {q : Nat} {e : Desc} {s : State} (h0 : le32 e.bytes 48 = 0)
    (hrun : (runAccess s (fun i => .unit (getQueue s q).ctx.toNat true (e.units.getD i 0 / 8)) ((selParams e.params).accesses e.units.length)).1 = 0) :
    (selectFinish q e s).mem = ((upFrom 0 (selParams e.params).rows).foldl (fun t r => writeMem ((selParams e.params).dst + r * (selParams e.params).outStride)
        (outRow (selParams e.params) (rowResult s (selParams e.params) e.units.length r).1) t) s).mem
      ∧ (∀ u ∈ e.units, EngineIdle u (selectFinish q e s)) ∧ getQueue (selectFinish q e s) q = withFinished (getQueue s q) e.num := by
  unfold selectFinish
  dsimp only
  rw [reportAsleep_none h0, runAccess_eq hrun, writeReport_none h0, List.foldl_map]
  refine ⟨?mem, fun u hu => ?idle, ?queue⟩
  case mem =>
    show State.mem (List.foldl _ _ _) = _
    refine (foldl_setEngine_rest _ _ _ _).1.trans ?_
    exact mem_of_wires (foldl_writeMem_wires (fun t r => sendPackets_apartFromWires _ _ _ _ _ _ _ t) _ (sendReads_apartFromWires _ _ _ s))
  case idle =>
    obtain ⟨i, hi⟩ := mem_zip_upFrom hu 0
    show EngineIdle u (List.foldl _ _ _)
    refine foldl_reaches (fun t v h => ?_) (fun t => ?_) hi _
    · exact engineIdle_setEngine ⟨rfl, rfl⟩ (.inr h)
    · exact engineIdle_setEngine ⟨rfl, rfl⟩ (.inl rfl)
  case queue =>
    show getQueue (markFinished q e.num _) q = _
    rw [getQueue_markFinished]
    refine congrArg (fun x => withFinished x e.num) ?_
    refine congrArg (fun l => Tbl.get {} l q) ((congrArg Objects.queues (foldl_setEngine_rest _ _ _ _).2).trans ?_)
    refine (foldl_keeps (fun t : State => t.obj.queues) (fun t r => ?_) _ _).trans
      (congrArg Objects.queues (obj_of_wires (sendReads_apartFromWires _ _ _ s)))
    exact (writeMem_queues _ _ _).trans (congrArg Objects.queues (obj_of_wires (sendPackets_apartFromWires _ _ _ _ _ _ _ t)))

/-- The end of a TILE without a REPORT whose accesses pass (R250): its items are written, and its tiles idle. -/
theorem tileFinish_spec {q : Nat} {e : Desc} {s r : State} (h0 : le32 e.bytes 48 = 0)
    (hrun : (runAccess s (fun _ => .unit (getQueue s q).ctx.toNat true 4) (tileAccesses (tileParams e.bytes e.params) e.units.length)).1 = 0)
    (hr : runItems (tileParams e.bytes e.params) (getQueue s q).ctx.toNat e.units (tileParams e.bytes e.params).items 0
      (sendReads (fun _ => .unit (getQueue s q).ctx.toNat true 4) (fun i => mkSrc s.swarm.node 4 6 (e.units.getD i 0) 0)
        (tileAccesses (tileParams e.bytes e.params) e.units.length) s) = .inl r) :
    (tileFinish q e s).mem = r.mem ∧ ∀ u ∈ e.units, TileIdle u (tileFinish q e s) := by
  unfold tileFinish
  dsimp only
  rw [reportAsleep_none h0, runAccess_eq hrun]
  simp only [hr]
  rw [writeReport_none h0]
  refine ⟨?mem, fun u hu => ?idle⟩
  case mem =>
    show State.mem (List.foldl _ _ _) = _
    exact foldl_setTile_mem _ _ _ _
  case idle =>
    show TileIdle u (List.foldl _ _ _)
    refine foldl_reaches (fun t v h => ?_) (fun t => ?_) hu _
    · exact tileIdle_setTile ⟨rfl, rfl⟩ (.inr h)
    · exact tileIdle_setTile ⟨rfl, rfl⟩ (.inl rfl)

/-! ### Retirement -/

/-- A fence signal of a descriptor, queued at the fence unit of this node where its address is a fence (R85). -/
def ownSignal (s : State) (q : Nat) (e : Desc) (ctx : W16) : List Signal :=
  if bitOf (byteAt e.bytes 1) 1 then (fenceIndex s (leNat e.bytes 24 8)).toList.map (fun i =>
    { fence := i, add := leNat e.bytes 4 1 == 1, value := le64 e.bytes 32, origin := .descriptor q e.num, ctx := ctx }) else []

/-- Signals queued at the fence unit of this node. -/
def pushSignals (l : List Signal) (s : State) : State := { s with obj := { s.obj with signals := s.obj.signals ++ l } }

theorem pushSignals_append (k l : List Signal) (s : State) : pushSignals l (pushSignals k s) = pushSignals (k ++ l) s :=
  congrArg (fun x => { s with obj := { s.obj with signals := x } }) (List.append_assoc _ _ _)

/-- A signal of a queue to an address of this node is queued at once where the address is a fence (R85, R90). -/
theorem sendSignal_queue {a : Nat} {add : Bool} {v : W64} {o : Origin} {ctx : W16} {s : State} (ha : addrNode a = s.swarm.node) :
    sendSignal (mkSrc s.swarm.node 5 7 0 0) a add v o ctx s
      = pushSignals ((fenceIndex s a).toList.map (fun i => { fence := i, add := add, value := v, origin := o, ctx := ctx })) s := by
  have hdie : field (mkSrc s.swarm.node 5 7 0 0) 4 2 = 5 := by
    have hn : s.swarm.node < 4 := ha ▸ Nat.mod_lt _ (by decide)
    simp only [field, mkSrc, BitVec.toNat_ofNat]
    omega
  unfold sendSignal
  cases hf : fenceIndex s a with
  | some i => exact if_pos hdie
  | none =>
    refine (if_pos (.inl ha)).trans ?_
    show s = { s with obj := { s.obj with signals := s.obj.signals ++ [] } }
    rw [List.append_nil]

/-- The signals of a retirement (R85): the descriptor's own, then the SET of the completion fence. -/
theorem descriptorRetire_eq {q : Nat} {s : State} {e : Desc} {l : List Desc} (hl : (getQueue s q).inflight = e :: l) (hlive : (getQueue s q).live = true)
    (hstate : (getQueue s q).state ≠ .draining) (hfin : e.finished = true) (hfail : e.failed = none)
    (hc : (localCtx s (getQueue s q).ctx.toNat).any (fun c => !inReset (getCtx s c)) = true)
    (hown : bitOf (byteAt e.bytes 1) 1 = true → addrNode (leNat e.bytes 24 8) = s.swarm.node) :
    descriptorRetire q s = pushSignals (ownSignal s q e (getQueue s q).ctx ++ (resolve s (getQueue s q).fence).toList.map (fun i =>
        { fence := i, add := false, value := BitVec.ofNat 64 ((getQueue s q).fenceBase + ((getQueue s q).retired + 1 - (getQueue s q).retiredBase).toNat),
          origin := .completion q, ctx := (getQueue s q).ctx }))
      (setQueue s q { getQueue s q with inflight := l, retired := (getQueue s q).retired + 1 }) := by
  have hresolve (k : List Signal) (x : Queue) : resolve (pushSignals k (setQueue s q x)) (getQueue s q).fence = resolve s (getQueue s q).fence := rfl
  have hsent (x : Queue) : (if bitOf (byteAt e.bytes 1) 1 = true then
        sendSignal (mkSrc (setQueue s q x).swarm.node 5 7 0 0) (leNat e.bytes 24 8) (leNat e.bytes 4 1 == 1) (le64 e.bytes 32) (.descriptor q e.num)
          (getQueue s q).ctx (setQueue s q x) else setQueue s q x)
      = pushSignals (ownSignal s q e (getQueue s q).ctx) (setQueue s q x) := by
    unfold ownSignal
    split
    next h => exact sendSignal_queue (s := setQueue s q x) (hown h)
    next h => exact (congrArg (fun l => { setQueue s q x with obj := { (setQueue s q x).obj with signals := l } }) (List.append_nil s.obj.signals)).symm
  unfold descriptorRetire
  dsimp only
  rw [hl]
  dsimp only
  rw [if_pos ⟨hlive, hfin, hfail, hc⟩, hsent, hresolve]
  have hstill (k : List Signal) : settle q (pushSignals k (setQueue s q { getQueue s q with inflight := l, retired := (getQueue s q).retired + 1 }))
      = pushSignals k (setQueue s q { getQueue s q with inflight := l, retired := (getQueue s q).retired + 1 }) := by
    refine settle_still ?_
    rw [show getQueue (pushSignals k (setQueue s q _)) q = _ from getQueue_setQueue s q _]
    exact hstate
  cases resolve s (getQueue s q).fence with
  | none => exact (hstill _).trans (congrArg (pushSignals · _) (List.append_nil _).symm)
  | some i =>
    exact (congrArg (settle q) (pushSignals_append _ [_] _)).trans (hstill _)

/-- Settles O29: the end of a running descriptor by its type, and the retirement of a finished one at the head. -/
theorem finishAndRetire : Obligations.FinishAndRetire := by
  intro q s hq x done hlive hstate hc
  have hq' := decide_eq_true hq
  refine ⟨fun d e hf he => ?finish, ?retire⟩
  case finish =>
    have hrun : exec (.descriptorFinish q d) s = inRange (decide (q < 1024)) (descriptorFinish q d s) := rfl
    obtain ⟨hkernel, hcopy, hselect, htile⟩ := descriptorFinish_of_running hf he hc
    have hdone (t : State) (ht : getQueue t q = x) : done { markFinished q e.num t with free := t.free + 1 } e :=
      (getQueue_markFinished q e.num t).trans (by rw [ht]; rfl)
    have hsettled (t : State) (ht : getQueue t q = x) : settle q (markFinished q e.num t) = markFinished q e.num t :=
      settle_markFinished (by rw [ht]; exact hstate)
    refine ⟨?copy, ?kernel, ?select, ?tile⟩
    case copy =>
      intro htype hin hsrc hdst hrd hwr hok hsw hdw
      obtain ⟨m, hm⟩ := copyRun_moves (q := q) (e := e) hin hsrc hdst hrd hwr hok hsw hdw
      have hrest := memWrite_mem_only s (leNat e.bytes 48 8) (memRead s (leNat e.bytes 40 8) (leNat e.bytes 56 8))
      generalize memWrite s (leNat e.bytes 48 8) (memRead s (leNat e.bytes 40 8) (leNat e.bytes 56 8)) = w at hm hrest ⊢
      have hqueue : getQueue { w with net := m } q = x := by
        rw [hrest]
        rfl
      refine ⟨_, exec_comes hrun hq' ((hcopy htype).trans ((congrArg (settle q) hm).trans (hsettled _ hqueue))), hdone _ hqueue, ?_⟩
      rw [hrest]
      rfl
    case kernel =>
      intro htype hfail hjobs flag word
      have hreport : descriptorFinish q d s = settle q (writeReport q e (le32 e.bytes 60) word s) :=
        (hkernel htype).trans (congrArg (settle q) (kernelFinish_reports (q := q) hfail hjobs))
      refine ⟨fun h0 => ?_, fun i h0 hi hacc hok => ?_⟩
      · exact ⟨_, exec_comes hrun hq' (hreport.trans (by rw [writeReport_none h0, hsettled s rfl])), hdone s rfl, rfl⟩
      · have hrest := memWrite_mem_only s (getMot s i).base (toLE 8 word)
        have hwritten := writeReport_writes (q := q) (w := word) (e := e) h0 hi hacc hok
        generalize memWrite s (getMot s i).base (toLE 8 word) = w at hwritten hrest ⊢
        have hqueue : getQueue w q = x := by
          rw [hrest]
          rfl
        refine ⟨_, exec_comes hrun hq' (hreport.trans ((congrArg (settle q) hwritten).trans (hsettled _ hqueue))), hdone _ hqueue, ?_⟩
        rw [hrest]
        rfl
    case select =>
      intro htype h0 p hpass
      obtain ⟨hmem, hidle, hqueue⟩ := selectFinish_spec (q := q) h0 hpass
      have hexec := exec_comes hrun hq' (hselect htype)
      generalize selectFinish q e s = r at hexec hmem hidle hqueue
      exact ⟨_, hexec, hqueue, hmem, hidle⟩
    case tile =>
      intro htype h0 p who l hpass r hr
      obtain ⟨hmem, hidle⟩ := tileFinish_spec h0 hpass hr
      have hexec := exec_comes hrun hq' (htile htype)
      generalize tileFinish q e s = t at hexec hmem hidle
      exact ⟨_, hexec, hmem, hidle⟩
  case retire =>
    intro e l hl hfin hfail hown own completion u
    have hretire := descriptorRetire_eq hl hlive hstate hfin hfail hc hown
    refine (exec_comes (i := .descriptorRetire q) rfl hq' hretire).trans ?_
    rw [List.append_assoc]
    rfl

end Sys2Proof.Machine
end

section
/-! CLAIM, RELEASE, ARM, ABORT and the input window of a collective slot (R78, R222, R223, R225, R229). -/

namespace Sys2Proof.Machine

/-! ### CTRL by the slot's state and the writer -/

section
variable {src v : W32} {die k : Nat} {s : State} (hreach : reachCheck s (.src src) (collAddr s (16 * die + k)) 4 = 0)
include hreach

/-- A write to CTRL of a slot not FREE by the owner's sources is taken (R223). -/
theorem writeCollCtrl_taken (hfree : (getColl s (16 * die + k)).state ≠ .free) (hown : srcOwns s src (getColl s (16 * die + k)).owner.toNat = true) :
    writeCollCtrl src die k v s = collCtrl (16 * die + k) v v (answer 0 [] s) := by
  unfold writeCollCtrl
  dsimp only
  rw [if_neg (not_not.mpr hreach), if_neg hfree, if_neg (not_not.mpr hown)]

/-- CLAIM of a FREE slot by a source of the context it names is taken (R223). -/
theorem writeCollCtrl_claims (hfree : (getColl s (16 * die + k)).state = .free) (hv : bitOf v 10 = true) (hown : srcOwns s src (field v 9 0) = true) :
    writeCollCtrl src die k v s = collClaim (16 * die + k) v (answer 0 [] s) := by
  unfold writeCollCtrl
  dsimp only
  rw [if_neg (not_not.mpr hreach), if_pos hfree, if_pos ⟨hv, hown⟩]

/-- A write to CTRL of a slot not FREE by any other source is refused (R78, R223). -/
theorem writeCollCtrl_refused (hfree : (getColl s (16 * die + k)).state ≠ .free) (hown : srcOwns s src (getColl s (16 * die + k)).owner.toNat = false) :
    writeCollCtrl src die k v s
      = refuseWrite src (collAddr s (16 * die + k)) (collCreator s (getColl s (16 * die + k))) 0x4001 s := by
  unfold writeCollCtrl
  dsimp only
  rw [if_neg (not_not.mpr hreach), if_neg hfree, if_pos (by rw [hown]; exact Bool.false_ne_true)]

end

/-- CTRL of an ARMED slot takes ABORT (R223, R229). -/
theorem collCtrl_abort {n : Nat} {v o : W32} {s : State} (harmed : (getColl s n).state = .armed) (ho : bitOf o 13 = true) :
    collCtrl n v o s = collFail n 0x5004 s := by
  unfold collCtrl
  dsimp only
  rw [if_pos harmed, if_pos ho]

/-- A slot freed (R223). -/
def freedColl (x : CollSlot) : CollSlot := { x with state := .free, input := [], written := [], joined := [], absorbed := [], value0 := [], arrived := none }

/-- CTRL of a slot not ARMED takes RELEASE (R223). -/
theorem collCtrl_release {n : Nat} {v o : W32} {s : State} (harmed : (getColl s n).state ≠ .armed) (ho : bitOf o 11 = true) :
    collCtrl n v o s = setColl s n (freedColl { getColl s n with op := BitVec.ofNat 4 (field v 20 17) }) := by
  unfold collCtrl
  dsimp only
  rw [if_neg harmed, if_pos ho]
  rfl

/-- CTRL of a slot not ARMED takes ARM without RELEASE (R223, R225). -/
theorem collCtrl_arm {n : Nat} {v o : W32} {s : State} (harmed : (getColl s n).state ≠ .armed) (hrel : bitOf o 11 = false) (ho : bitOf o 12 = true) :
    collCtrl n v o s = armColl n (setColl s n { getColl s n with op := BitVec.ofNat 4 (field v 20 17) }) := by
  unfold collCtrl
  dsimp only
  rw [if_neg harmed, if_neg (by rw [hrel]; exact Bool.false_ne_true), if_pos ho]

/-! ### ARM -/

/-- A slot armed at time `now` with its inputs empty (R225). -/
def armedColl (now : Nat) (x : CollSlot) : CollSlot :=
  { x with state := .armed, arms := x.arms + 1, armedAt := now, code := 0, missed := 0, input := [], written := [], joined := [], absorbed := [],
           value0 := [], arrived := none }

/-- Where no join is held for a slot, none is taken as it arms. -/
theorem takeHeld_none {n : Nat} {s : State} (h : ∀ e ∈ s.cmp.heldJoins, e.1 ≠ n) : takeHeld n s = s := by
  have hnone : s.cmp.heldJoins.filter (fun e => e.1 == n) = [] := List.filter_eq_nil_iff.mpr (fun e he => by simpa using h e he)
  have hall : s.cmp.heldJoins.filter (fun e => e.1 != n) = s.cmp.heldJoins := List.filter_eq_self.mpr (fun e he => by simpa using h e he)
  unfold takeHeld
  rw [hnone, hall]
  rfl

/-- ARM that passes its checks arms the slot (R225). -/
theorem armColl_arms {n : Nat} {s : State} (hc : collArmCheck s n (getColl s n) = 0) (hj : ∀ e ∈ s.cmp.heldJoins, e.1 ≠ n) :
    armColl n s = setColl s n (armedColl s.keeper.tick (getColl s n)) := by
  unfold armColl
  dsimp only
  rw [hc, if_neg (fun h => h rfl)]
  exact takeHeld_none hj

/-! ### A collective that fails -/

theorem getColl_poison (i : Nat) (c : W16) (s : State) (n : Nat) : getColl (poison i c s) n = getColl s n := by
  rw [poison_obj]
  rfl

theorem kind_poison (i : Nat) (c : W16) (s : State) (j : Nat) : (getMot (poison i c s) j).kind = (getMot s j).kind := by
  obtain ⟨w, h⟩ := poison_eq i c s
  have hset : (getMot (setMot s i { getMot s i with shadow := (fenceWord s i).toNat }) j).kind = (getMot s j).kind := by
    rw [getMot, setMot, Tbl.get_set]
    split
    next hj => rw [hj]
    next => rfl
  rw [h]
  split
  · rfl
  · exact hset

/-- Poisoning a fence makes no entry a fence, and none another. -/
theorem liveFence_poison (i : Nat) (c : W16) (s : State) (a : Nat) : liveFence (poison i c s) a = liveFence s a := by
  have hindex : fenceIndex (poison i c s) a = fenceIndex s a := by rw [poison_obj]; rfl
  simp only [liveFence, hindex, kind_poison]

/-- A member slot of a collective failed with a code (R229). -/
def failedColl (code missed : W16) (x : CollSlot) : CollSlot :=
  { x with state := .failed, code := code, missed := missed, input := [], written := [], value0 := [], arrived := none }

/-- A member of a collective fails: its slot FAILED, and its fence poisoned where it was ARMED (R229). -/
def failMember (code missed : W16) (s : State) (e : Nat × CollSlot) : State :=
  poisonOf (if e.2.state = .armed then liveFence s e.2.fence.toNat else none) code (setColl s e.1 (failedColl code missed e.2))

/-- The members of a collective that take part here fail one by one (R229). -/
theorem collFailWith_eq (n : Nat) (code missed : W16) (s : State) : collFailWith n code missed s
    = if (sameColl s n).any (fun e => e.2.state == .armed) then (sameColl s n).foldl (failMember code missed) s else s := by
  unfold collFailWith
  dsimp only
  split
  · refine List.foldl_ext _ _ _ (fun t e _ => ?_)
    unfold failMember
    split
    · rfl
    · rfl
  · rfl

theorem getColl_failMember (code missed : W16) (s : State) (e : Nat × CollSlot) (n : Nat) :
    getColl (failMember code missed s e) n = if n = e.1 then failedColl code missed e.2 else getColl s n := by
  have hset : getColl (setColl s e.1 (failedColl code missed e.2)) n = if n = e.1 then failedColl code missed e.2 else getColl s n :=
    Tbl.get_set _ _ _ _ _
  unfold failMember
  cases (if e.2.state = .armed then liveFence s e.2.fence.toNat else none) with
  | none => exact hset
  | some i => exact (getColl_poison i code _ n).trans hset

theorem liveFence_failMember (code missed : W16) (s : State) (e : Nat × CollSlot) (a : Nat) :
    liveFence (failMember code missed s e) a = liveFence s a := by
  unfold failMember
  cases (if e.2.state = .armed then liveFence s e.2.fence.toNat else none) with
  | none => rfl
  | some i => exact liveFence_poison i code _ a

/-- A poisoned fence stays poisoned as a member fails. -/
theorem failMember_keeps_poisoned {code missed : W16} {s : State} {e : Nat × CollSlot} {f : Nat} (h : bitOf (fenceWord s f) 63 = true) :
    bitOf (fenceWord (failMember code missed s e) f) 63 = true := by
  unfold failMember
  cases (if e.2.state = .armed then liveFence s e.2.fence.toNat else none) with
  | none => exact h
  | some i => exact poison_keeps_poisoned (s := setColl s e.1 (failedColl code missed e.2)) h i code

/-- The fence of an ARMED member is poisoned as it fails. -/
theorem failMember_poisons {code missed : W16} (hc : code.toNat < 0x8000) {s : State} {e : Nat × CollSlot} {f : Nat} (he : e.2.state = .armed)
    (hf : liveFence s e.2.fence.toNat = some f) : bitOf (fenceWord (failMember code missed s e) f) 63 = true := by
  unfold failMember
  rw [if_pos he, hf]
  exact poison_poisons f hc _

/-- The slot by which a collective fails is FAILED with the code, and its fence poisoned; memory and the cells stay (R229). -/
theorem collFail_fails {n : Nat} {code : W16} (hc : code.toNat < 0x8000) {s : State} (harmed : (getColl s n).state = .armed) :
    ((getColl (collFail n code s) n).state = .failed ∧ (getColl (collFail n code s) n).code = code)
      ∧ (∀ f, liveFence s (getColl s n).fence.toNat = some f → bitOf (fenceWord (collFail n code s) f) 63 = true)
      ∧ (collFail n code s).mem = s.mem ∧ (collFail n code s).cmp.cells = s.cmp.cells := by
  have hlisted : (n, getColl s n) ∈ s.cmp.slots := Tbl.mem_of_get_ne (d := ({} : CollSlot)) (fun h => by
    rw [show getColl s n = {} from h] at harmed
    cases harmed)
  have hmem : (n, getColl s n) ∈ sameColl s n := List.mem_filter.mpr ⟨hlisted, by simp [harmed]⟩
  have hloop : collFail n code s = (sameColl s n).foldl (failMember code 0) s :=
    (collFailWith_eq n code 0 s).trans (if_pos (List.any_eq_true.mpr ⟨_, hmem, by simp [harmed]⟩))
  rw [hloop]
  refine ⟨?slot, fun f hf => ?fence, ?mem, ?cells⟩
  case slot =>
    refine foldl_reaches (P := fun t => (getColl t n).state = .failed ∧ (getColl t n).code = code) (fun t e ht => ?_) (fun t => ?_) hmem s
    · rw [getColl_failMember]
      split
      · exact ⟨rfl, rfl⟩
      · exact ht
    · rw [getColl_failMember, if_pos rfl]
      exact ⟨rfl, rfl⟩
  case fence =>
    have hreached : liveFence ((sameColl s n).foldl (failMember code 0) s) (getColl s n).fence.toNat = some f →
        bitOf (fenceWord ((sameColl s n).foldl (failMember code 0) s) f) 63 = true := by
      refine foldl_reaches (P := fun t => liveFence t (getColl s n).fence.toNat = some f → bitOf (fenceWord t f) 63 = true)
        (fun t e ht hlive => ?_) (fun t hlive => ?_) hmem s
      · rw [liveFence_failMember] at hlive
        exact failMember_keeps_poisoned (ht hlive)
      · rw [liveFence_failMember] at hlive
        exact failMember_poisons hc harmed hlive
    refine hreached ?_
    rw [foldl_keeps (fun t => liveFence t (getColl s n).fence.toNat) (fun t e => liveFence_failMember code 0 t e _), hf]
  case mem =>
    refine foldl_keeps State.mem (fun t e => ?_) _ s
    unfold failMember
    rw [poisonOf_obj]
    rfl
  case cells =>
    refine foldl_keeps (fun t : State => t.cmp.cells) (fun t e => ?_) _ s
    unfold failMember
    rw [poisonOf_obj]
    rfl

/-! ### The input window -/

/-- What has become of a slot's input window after `m` parcels of `data` from the `i`-th on, the first of the data at byte `off` (R222). -/
structure ParcelsStored (x y : CollSlot) (off : Nat) (data : Bytes) (i m : Nat) : Prop where
  inside : ∀ j, 256 * i ≤ j → j < 256 * (i + m) → Tbl.get 0 y.input (off + j) = byteAt data j
  outside : ∀ j, (j < off + 256 * i ∨ off + 256 * (i + m) ≤ j) → Tbl.get 0 y.input j = Tbl.get 0 x.input j
  written : ∀ p, Tbl.get false y.written p = (Tbl.get false x.written p || decide (off / 256 + i ≤ p ∧ p < off / 256 + i + m))
  state : y.state = x.state

/-- A slot with one parcel of data stored (R222). -/
def storedParcel (off : Nat) (data : Bytes) (x : CollSlot) (i : Nat) : CollSlot :=
  { x with input := putBytes 0 x.input (256 * (off / 256 + i)) (slice data (256 * i) 256),
           written := Tbl.set false x.written (off / 256 + i) true }

theorem byteAt_slice {l : Bytes} {i n j : Nat} (hj : j < n) (h : i + n ≤ l.length) : (slice l i n).getD j 0 = byteAt l (i + j) := by
  unfold slice byteAt
  have hlen : ((l.drop i).take n).length = n := by simp; omega
  simp [List.getD_eq_getElem?_getD, hlen, hj]
  rw [List.getElem?_eq_getElem (by omega), Option.getD_some]

theorem storedParcel_stored {off i : Nat} {data : Bytes} (x : CollSlot) (hoff : off % 256 = 0) (hi : 256 * (i + 1) ≤ data.length) :
    ParcelsStored x (storedParcel off data x i) off data i 1 := by
  have hinput (j : Nat) : Tbl.get 0 (storedParcel off data x i).input j
      = if off + 256 * i ≤ j ∧ j < off + 256 * i + 256 then (slice data (256 * i) 256).getD (j - (off + 256 * i)) 0 else Tbl.get 0 x.input j := by
    have hat : 256 * (off / 256 + i) = off + 256 * i := by omega
    exact (get_putBytes 0 j _ _ _).trans (by rw [hat, slice_length])
  refine ⟨fun j h1 h2 => ?_, fun j hj => ?_, fun p => ?_, rfl⟩
  · rw [hinput, if_pos (by omega), byteAt_slice (by omega) (by omega)]
    exact congrArg (byteAt data) (by omega)
  · rw [hinput, if_neg (by omega)]
  · refine (show Tbl.get false (Tbl.set false x.written (off / 256 + i) true) p = _ from Tbl.get_set _ _ _ _ _).trans ?_
    by_cases hp : p = off / 256 + i
    · rw [if_pos hp, decide_eq_true (by omega), Bool.or_true]
    · rw [if_neg hp, decide_eq_false (by omega), Bool.or_false]

theorem ParcelsStored.none {x : CollSlot} {off i : Nat} {data : Bytes} : ParcelsStored x x off data i 0 :=
  ⟨fun j h1 h2 => absurd h2 (Nat.not_lt.mpr h1), fun _ _ => rfl, fun p => by
    have hp : ¬ (off / 256 + i ≤ p ∧ p < off / 256 + i + 0) := by omega
    rw [decide_eq_false hp, Bool.or_false], rfl⟩

theorem ParcelsStored.cons {x y z : CollSlot} {off i m : Nat} {data : Bytes} (h : ParcelsStored x y off data i 1) (hm : ParcelsStored y z off data (i + 1) m) :
    ParcelsStored x z off data i (m + 1) := by
  refine ⟨fun j h1 h2 => ?_, fun j hj => ?_, fun p => ?_, hm.state.trans h.state⟩
  · by_cases hj : j < 256 * (i + 1)
    · rw [hm.outside _ (by omega), h.inside j h1 hj]
    · exact hm.inside j (by omega) (by omega)
  · rcases hj with hj | hj
    · exact (hm.outside j (.inl (by omega))).trans (h.outside j (.inl hj))
    · have hfirst : 256 * (i + 1) ≤ 256 * (i + (m + 1)) := Nat.mul_le_mul_left 256 (by omega)
      exact (hm.outside j (.inr (by omega))).trans (h.outside j (.inr ((Nat.add_le_add_left hfirst off).trans hj)))
  · rw [hm.written, h.written, Bool.or_assoc, ← Bool.decide_or]
    exact congrArg _ (decide_eq_decide.mpr (by omega))

/-- One parcel of a write into the input window of slot `n` (R222). -/
def storeParcel (n off : Nat) (data : Bytes) (s : State) (i : Nat) : State :=
  if (getColl s n).state ≠ .armed then s
  else if Tbl.get false (getColl s n).written (off / 256 + i) then collFail n 0x1006 s
  else setColl s n (storedParcel off data (getColl s n) i)

theorem inputStore_eq (n off : Nat) (data : Bytes) (s : State) :
    inputStore n off data s = (upFrom 0 (data.length / 256)).foldl (storeParcel n off data) s := rfl

/-- Parcels not yet written are stored in the input window of an ARMED slot, and nothing else changes (R222). -/
theorem storeParcels_stored {n off : Nat} {data : Bytes} (hoff : off % 256 = 0) (m : Nat) : ∀ (i : Nat) (s : State), 256 * (i + m) ≤ data.length →
    (getColl s n).state = .armed → (∀ p, off / 256 + i ≤ p → p < off / 256 + i + m → Tbl.get false (getColl s n).written p = false) →
    ParcelsStored (getColl s n) (getColl ((upFrom i m).foldl (storeParcel n off data) s) n) off data i m
      ∧ (∀ j, j ≠ n → getColl ((upFrom i m).foldl (storeParcel n off data) s) j = getColl s j)
      ∧ ((upFrom i m).foldl (storeParcel n off data) s).mem = s.mem ∧ ((upFrom i m).foldl (storeParcel n off data) s).obj = s.obj := by
  induction m with
  | zero => exact fun i s _ _ _ => ⟨.none, fun _ _ => rfl, rfl, rfl⟩
  | succ m ih =>
    intro i s hlen harmed hfresh
    have hone := storedParcel_stored (getColl s n) hoff (i := i) (data := data) (by omega)
    have hstep : storeParcel n off data s i = setColl s n (storedParcel off data (getColl s n) i) := by
      unfold storeParcel
      rw [if_neg (not_not.mpr harmed), if_neg (by rw [hfresh _ (by omega) (by omega)]; exact Bool.false_ne_true)]
    have hslot : getColl (setColl s n (storedParcel off data (getColl s n) i)) n = storedParcel off data (getColl s n) i := getColl_setColl _ _ _
    obtain ⟨hstored, hother, hmem, hobj⟩ := ih (i + 1) (setColl s n (storedParcel off data (getColl s n) i)) (by omega) (by rw [hslot]; exact harmed) (fun p h1 h2 => by
      rw [hslot, hone.written, hfresh p (by omega) (by omega), decide_eq_false (by omega), Bool.or_false])
    rw [hslot] at hstored
    rw [upFrom, List.foldl_cons, hstep]
    exact ⟨hone.cons hstored, fun j hj => (hother j hj).trans (getColl_setColl_ne _ _ _ _ hj), hmem, hobj⟩

/-- The offset of an address within the input window that holds it (R222). -/
theorem inputOffset {s : State} {die k off : Nat} (_ : die < 4) (_ : k < 16) (_ : off < 0x1000000) :
    addrLoc (here s die (0x01100000000 + 0x1000000 * k) + off) % 0x1000000 = off := by
  unfold addrLoc here swarmAddr
  omega

/-- A check that ends with 0 has not met a condition that gives another code. -/
theorem ite_code {p : Prop} [Decidable p] {c x : W16} (hc : c ≠ 0) (h : (if p then c else x) = 0) : ¬ p ∧ x = 0 := by
  split at h
  · exact absurd h hc
  next hp => exact ⟨hp, h⟩

/-- A write into an input window that passes its check is of whole parcels, to an ARMED slot (R222). -/
theorem collInputCheck_passed {s : State} {r : Requester} {n a len : Nat} (h : collInputCheck s r n a len true = 0) :
    addrLoc a % 0x1000000 % 256 = 0 ∧ len % 256 = 0 ∧ (getColl s n).state = .armed := by
  unfold collInputCheck at h
  dsimp only at h
  rw [if_neg (by decide)] at h
  obtain ⟨halign, h⟩ := ite_code (by decide) h
  obtain ⟨-, h⟩ := ite_code (by decide) h
  obtain ⟨harmed, -⟩ := ite_code (by decide) h
  obtain ⟨hoff, hlen, -⟩ := (not_or.mp halign).imp_right not_or.mp
  exact ⟨not_not.mp hoff, not_not.mp hlen, not_not.mp harmed⟩

/-- A write into an input window that is reached and passes its check is stored (R222). -/
theorem collInputWrite_stores {src : W32} {die k off : Nat} {data : Bytes} {s : State}
    (hreach : reachCheck s (.src src) (here s die (0x01100000000 + 0x1000000 * k) + off) data.length = 0)
    (hc : collInputCheck s (.src src) (16 * die + k) (here s die (0x01100000000 + 0x1000000 * k) + off) data.length true = 0) :
    collInputWrite src die k off data s = inputStore (16 * die + k) off data (answer 0 [] s) := by
  unfold collInputWrite
  dsimp only
  rw [if_neg (not_not.mpr hreach), if_neg (not_not.mpr hc)]

/-- Settles O32: each write to CTRL by the slot's state and the writer, and a write into the input window. -/
theorem collectiveSlots : Obligations.CollectiveSlots := by
  intro src v die k s hdie hk n x heard op hreach
  have hunits := decide_eq_true (And.intro hdie hk)
  have hwrite (i : Instr) (hi : i = .collClaim src die k v ∨ i = .collRelease src die k v ∨ i = .collArm src die k v ∨ i = .collAbort src die k v) :
      exec i s = inRange (decide (die < 4 ∧ k < 16)) (writeCollCtrl src die k v s) := by
    rcases hi with rfl | rfl | rfl | rfl <;> rfl
  refine ⟨?claim, ?release, ?arm, ?abort, ?refused, ?input⟩
  case claim =>
    intro hfree hv hown
    exact exec_comes (hwrite _ (.inl rfl)) hunits (writeCollCtrl_claims hreach hfree hv hown)
  case release =>
    intro hfree harmed hown hv
    exact exec_comes (hwrite _ (.inr (.inl rfl))) hunits
      ((writeCollCtrl_taken hreach hfree hown).trans (collCtrl_release (s := heard) harmed hv))
  case arm =>
    intro hfree harmed hown hrel hv hjoins hcheck
    have hslot : getColl (setColl heard n { x with op := op }) n = { x with op := op } := getColl_setColl _ _ _
    have harms : armColl n (setColl heard n { x with op := op }) = _ := armColl_arms (by rw [hslot]; exact hcheck) hjoins
    rw [hslot] at harms
    refine ⟨_, exec_comes (hwrite _ (.inr (.inr (.inl rfl)))) hunits
      ((writeCollCtrl_taken hreach hfree hown).trans ((collCtrl_arm (s := heard) harmed hrel hv).trans harms)), ?_, fun j hj => ?_, rfl⟩
    · exact getColl_setColl _ n _
    · exact (getColl_setColl_ne _ n _ j hj).trans (getColl_setColl_ne heard n _ j hj)
  case abort =>
    intro harmed hown hv
    have hfree : x.state ≠ .free := fun h => by rw [harmed] at h; cases h
    obtain ⟨⟨hstate, hcode⟩, hfence, hmem, hcells⟩ := collFail_fails (code := 0x5004) (by decide) (s := heard) harmed
    exact ⟨_, exec_comes (hwrite _ (.inr (.inr (.inr rfl)))) hunits ((writeCollCtrl_taken hreach hfree hown).trans (collCtrl_abort (s := heard) harmed hv)),
      hstate, hcode, hfence, hmem, hcells⟩
  case refused =>
    intro hfree hown i hi
    exact exec_refused ((hwrite i hi).trans (congrArg _ (writeCollCtrl_refused hreach hfree hown))) hunits
  case input =>
    intro off data hoff a hr hc hfresh
    obtain ⟨halign, hlen, harmed⟩ := collInputCheck_passed hc
    rw [inputOffset hdie hk hoff] at halign
    have hend : (off + data.length) / 256 = off / 256 + data.length / 256 := by omega
    have hall : 256 * (data.length / 256) = data.length := by omega
    obtain ⟨hstored, hother, hmem, hobj⟩ := storeParcels_stored (n := n) halign (data := data) (data.length / 256) 0 heard (by omega) harmed
      (fun p h1 h2 => hfresh p (by omega) (by omega))
    have hexec := exec_comes (i := .collInputWrite src die k off data) rfl (decide_eq_true ⟨hdie, hk, hoff⟩)
      ((collInputWrite_stores hr hc).trans (inputStore_eq n off data heard))
    generalize (upFrom 0 (data.length / 256)).foldl (storeParcel n off data) heard = t at hstored hother hmem hobj hexec
    refine ⟨_, hexec, fun i hi => hstored.inside i (by omega) (by omega), fun i hi => hstored.outside i (by omega), fun p => ?_, hother, hmem, hobj,
      hstored.state.trans harmed⟩
    rw [hend]
    exact hstored.written p

end Sys2Proof.Machine
end

section
/-! PKG_STATE, CLOCK_SET, WAKE_CONFIG and the partitions that halt (R71, R348-R350, R352, R353, R356). -/

namespace Sys2Proof.Machine

/-! ### What events and the moves of domains leave -/

/-- The state without the mailboxes, which events and outcomes write. -/
def apartFromMail (s : State) : State := { s with keeper := { s.keeper with mbx := [] } }

@[simp] theorem finishCmd_apartFromMail (c : CmdRef) (st : W16) (b : Bytes) (s : State) : apartFromMail (finishCmd c st b s) = apartFromMail s := rfl

@[simp] theorem sendOwner_apartFromMail (c : W16) (p : Bytes) (s : State) : apartFromMail (sendOwner c p s) = apartFromMail s := by
  unfold sendOwner; split <;> rfl

@[simp] theorem broadcast_apartFromMail (c : W16) (p : Bytes) (s : State) : apartFromMail (broadcast c p s) = apartFromMail s := by
  refine foldl_keeps apartFromMail (fun s m => ?_) _ s
  split <;> rfl

/-- WAKE_CAUSE sent clears the causes (R353). -/
theorem sendWakeCause_apartFromMail (ms : List Nat) (b : Bool) (s : State) :
    apartFromMail (sendWakeCause ms b s) = apartFromMail { s with power := { s.power with wakeCause := 0 } } :=
  congrArg (fun t : State => { t with power := { t.power with wakeCause := 0 } }) (foldl_keeps apartFromMail (f := fun s m =>
    setMbx s m (if b then arriveFirst (getMbx s m) ⟨0xE002, _⟩ else arrive (getMbx s m) ⟨0xE002, _⟩)) (fun _ _ => rfl) ms s)

/-- The package state set, apart from the event that tells it (R347). -/
theorem setPkg_apartFromMail (p : PkgState) (s : State) :
    apartFromMail (setPkg p s) = apartFromMail { s with power := { s.power with pkg := p } } := by
  unfold setPkg
  split
  next h => rw [← h]
  next => exact broadcast_apartFromMail _ _ _

/-- READY and ACTIVE alone follow the compute domains (R347). -/
theorem refreshPkg_apartFromMail (s : State) : ∃ p, (p = .standby ↔ s.power.pkg = .standby)
    ∧ apartFromMail (refreshPkg s) = apartFromMail { s with power := { s.power with pkg := p } } := by
  unfold refreshPkg
  split
  next h =>
    refine ⟨_, ?_, setPkg_apartFromMail _ s⟩
    rcases h with h | h <;> rw [h] <;> split <;> decide
  next => exact ⟨s.power.pkg, Iff.rfl, rfl⟩

/-- The state without what the moves of the domains write: mailboxes, domains, PLLs, and READY or ACTIVE. -/
def apartFromDoms (s : State) : State :=
  { apartFromMail s with net := { s.net with doms := [] }, power := { s.power with plls := [], pkg := if s.power.pkg = .standby then .standby else .off } }

theorem apartFromDoms_of_mail {s t : State} (h : apartFromMail t = apartFromMail s) : apartFromDoms t = apartFromDoms s :=
  (congrArg apartFromDoms h :)

@[simp] theorem refreshPkg_apartFromDoms (s : State) : apartFromDoms (refreshPkg s) = apartFromDoms s := by
  obtain ⟨p, hp, h⟩ := refreshPkg_apartFromMail s
  rw [apartFromDoms_of_mail h]
  simp only [apartFromDoms, apartFromMail, hp]

@[simp] theorem setDomState_apartFromDoms (d : Nat) (st : DomState) (s : State) : apartFromDoms (setDomState d st s) = apartFromDoms s := by
  unfold setDomState
  dsimp only
  split
  · rfl
  · rw [refreshPkg_apartFromDoms, apartFromDoms_of_mail (sendOwner_apartFromMail _ _ _)]
    rfl

@[simp] theorem gate_apartFromDoms (d : Nat) (s : State) : apartFromDoms (gate d s) = apartFromDoms s := by
  unfold gate
  split
  · exact setDomState_apartFromDoms _ _ _
  · rfl

@[simp] theorem ungate_apartFromDoms (d : Nat) (s : State) : apartFromDoms (ungate d s) = apartFromDoms s := by
  unfold ungate
  dsimp only
  split
  · exact setDomState_apartFromDoms _ _ _
  · rfl

@[simp] theorem pushGoal_apartFromDoms (g : PkgState) (s : State) : apartFromDoms (pushGoal g s) = apartFromDoms s := by
  refine foldl_keeps apartFromDoms (fun s e => ?_) _ s
  split_ifs <;> simp

/-- The moves towards a goal change neither the goal nor the domains that it waits for. -/
theorem pushGoal_rest (g : PkgState) (s : State) : (pushGoal g s).power.goal = s.power.goal ∧ goalDomains (pushGoal g s) g = goalDomains s g
    ∧ (pushGoal g s).faults = s.faults ∧ (pushGoal g s).power.halted = s.power.halted ∧ (pushGoal g s).keeper.rsp = s.keeper.rsp := by
  have h := pushGoal_apartFromDoms g s
  have hpkg : ((pushGoal g s).power.pkg = .standby) = (s.power.pkg = .standby) := by
    have hcode : (if (pushGoal g s).power.pkg = .standby then PkgState.standby else .off) = if s.power.pkg = .standby then PkgState.standby else .off :=
      congrArg (fun t : State => t.power.pkg) h
    refine propext ?_
    split at hcode <;> split at hcode <;> simp_all
  have hup : (pushGoal g s).power.upBefore = s.power.upBefore := (congrArg (fun t : State => t.power.upBefore) h :)
  have hfaults : (pushGoal g s).faults = s.faults := (congrArg State.faults h :)
  have hserves : dieServes (pushGoal g s) = dieServes s := by
    funext d
    simp only [dieServes, getDie, hfaults]
  refine ⟨(congrArg (fun t : State => t.power.goal) h :), ?_, hfaults, (congrArg (fun t : State => t.power.halted) h :),
    (congrArg (fun t : State => t.keeper.rsp) h :)⟩
  unfold goalDomains
  simp only [hpkg, hup, hserves]

/-! ### A transition -/

/-- The end of a transition writes, beside the mailboxes, the lifetime record and the power state alone (R349, R350). -/
theorem reachGoal_writes (c : Option CmdRef) (g : PkgState) (s : State) : ∃ l p, apartFromMail (reachGoal c g s) = apartFromMail { s with test := l, power := p }
    ∧ p.goal = none ∧ (p.halted = s.power.halted ∨ p.halted = 0) ∧ (g = .parked → p.parking = true) ∧ (g = .standby → p.pkg = .standby) := by
  unfold reachGoal
  extract_lets wasStandby _ idle _ arrived _ resumed woken
  obtain ⟨l, p, harrived, hgoal, hhalted, hparking, hpkg⟩ : ∃ l p, apartFromMail arrived = apartFromMail { s with test := l, power := p }
      ∧ p.goal = none ∧ p.halted = s.power.halted ∧ (g = .parked → p.parking = true) ∧ (g = .standby → p.pkg = .standby) := by
    unfold arrived
    cases g with
    | parked => exact ⟨_, _, rfl, rfl, rfl, fun _ => rfl, nofun⟩
    | standby => exact ⟨_, _, setPkg_apartFromMail .standby idle, rfl, rfl, nofun, fun _ => rfl⟩
    | off | ready | active =>
      obtain ⟨p, -, hp⟩ := refreshPkg_apartFromMail (if idle.power.pkg = .standby then setPkg .ready idle else idle)
      refine ⟨s.test, { idle.power with pkg := p }, hp.trans ?_, rfl, rfl, nofun, nofun⟩
      split
      · exact congrArg (fun t : State => { t with power := { t.power with pkg := p } }) (setPkg_apartFromMail .ready idle)
      · rfl
  obtain ⟨q, hwoken, hgoal', hhalted', hparking', hpkg'⟩ : ∃ q, apartFromMail woken = apartFromMail { arrived with power := q }
      ∧ q.goal = arrived.power.goal ∧ (q.halted = arrived.power.halted ∨ q.halted = 0) ∧ q.parking = arrived.power.parking ∧ q.pkg = arrived.power.pkg := by
    unfold woken
    split
    · exact ⟨_, sendWakeCause_apartFromMail _ _ resumed, rfl, .inr rfl, rfl, rfl⟩
    · exact ⟨arrived.power, rfl, rfl, .inl rfl, rfl, rfl⟩
  have hpower : arrived.power = p := (congrArg State.power harrived :)
  rw [hpower] at hgoal' hhalted' hparking' hpkg'
  have hall : apartFromMail woken = apartFromMail { s with test := l, power := q } :=
    hwoken.trans (congrArg (fun t : State => { t with power := q }) harrived)
  refine ⟨l, q, ?_, hgoal'.trans hgoal, hhalted ▸ hhalted', fun h => hparking'.trans (hparking h), fun h => hpkg'.trans (hpkg h)⟩
  cases c with
  | none => exact hall
  | some c => exact (finishCmd_apartFromMail _ _ _ _).trans hall

/-- A transition goes on, or its domains are in the states that it waits for and it ends. -/
theorem stepGoal_cases {s : State} {c : Option CmdRef} {g : PkgState} (h : s.power.goal = some (c, g)) :
    stepGoal s = s ∨ stepGoal s = pushGoal g s
      ∨ (stepGoal s = reachGoal c g (pushGoal g s)
        ∧ ∀ e ∈ goalDomains (pushGoal g s) g, (getDom (pushGoal g s) e.1).state = e.2 ∨ dieServes (pushGoal g s) e.1 = false) := by
  unfold stepGoal
  rw [h]
  dsimp only
  split
  · exact .inl rfl
  · split
    next hall => exact .inr (.inr ⟨rfl, fun e he => by simpa using List.all_eq_true.mp hall e he⟩)
    next => exact .inr (.inl rfl)

/-- What a transition in progress comes to: it goes on, or it ends with its domains in the states that it waited for (R348-R350). -/
theorem stepGoal_spec {s : State} {c : Option CmdRef} {g : PkgState} (h : s.power.goal = some (c, g)) :
    (stepGoal s).keeper.rsp = s.keeper.rsp ∧ (stepGoal s).boot = s.boot ∧ (stepGoal s).mem = s.mem ∧ (stepGoal s).obj = s.obj
      ∧ (stepGoal s).swarm = s.swarm
      ∧ (((stepGoal s).power.goal = some (c, g) ∧ (stepGoal s).power.halted = s.power.halted)
        ∨ ((stepGoal s).power.goal = none ∧ ((stepGoal s).power.halted = s.power.halted ∨ (stepGoal s).power.halted = 0)
          ∧ (g = .parked → (stepGoal s).power.parking = true) ∧ (g = .standby → (stepGoal s).power.pkg = .standby)
          ∧ ∀ e ∈ goalDomains s g, (getDom (stepGoal s) e.1).state = e.2 ∨ dieServes s e.1 = false)) := by
  have hout := stepGoal_outsidePower s
  obtain ⟨hgoal, hdomains, hfaults, hhalted, hrsp⟩ := pushGoal_rest g s
  refine ⟨?rsp, (congrArg State.boot hout :), (congrArg State.mem hout :), (congrArg State.obj hout :), (congrArg State.swarm hout :), ?goal⟩
  case rsp =>
    rcases stepGoal_cases h with he | he | ⟨he, -⟩
    · rw [he]
    · rw [he, hrsp]
    · obtain ⟨l, p, hreach, -⟩ := reachGoal_writes c g (pushGoal g s)
      rw [he]
      exact (congrArg (fun t : State => t.keeper.rsp) hreach :).trans hrsp
  case goal =>
    rcases stepGoal_cases h with he | he | ⟨he, hdoms⟩
    · exact .inl ⟨by rw [he, h], by rw [he]⟩
    · exact .inl ⟨by rw [he, hgoal, h], by rw [he, hhalted]⟩
    · obtain ⟨l, p, hreach, hnone, hhalt, hparking, hpkg⟩ := reachGoal_writes c g (pushGoal g s)
      have hp : (reachGoal c g (pushGoal g s)).power = p := (congrArg State.power hreach :)
      have hd (d : Nat) : getDom (reachGoal c g (pushGoal g s)) d = getDom (pushGoal g s) d := (congrArg (getDom · d) hreach :)
      have hserves (d : Nat) : dieServes (pushGoal g s) d = dieServes s d := by simp only [dieServes, getDie, hfaults]
      rw [he, hp]
      refine .inr ⟨hnone, hhalted ▸ hhalt, hparking, hpkg, fun e hmem => ?_⟩
      rw [hd, ← hserves]
      exact hdoms e (hdomains ▸ hmem)

/-! ### PKG_STATE -/

/-- No transition is in progress, none to PARKED has been made, and no SELF_TEST runs. -/
def transitionFree (s : State) : Prop := s.power.goal = none ∧ s.power.parking = false ∧ cmdPending s 0x0901 = false

/-- Whether a package-state transition is refused for another one. -/
theorem transitionFree_iff (s : State) : transitionFree s ↔ (s.power.goal.isSome || s.power.parking || cmdPending s 0x0901) = false := by
  simp [transitionFree, and_assoc]

/-- The state in which the transition to PARKED sets out (R350): no partition is started. -/
def parkingOut (c : CmdRef) (s : State) : State :=
  { s with boot := { s.boot with started := 0 }, power := { s.power with goal := some (some c, .parked) } }

/-- The transition to PARKED as it sets out (R350). -/
def parkFrom (c : CmdRef) (s : State) : State := stepGoal (parkingOut c s)

/-- The domains that are UP or on their way there, which the exit from STANDBY ungates again (R349). -/
def domainsUp (s : State) : List Nat := (upFrom 0 56).filter (fun d => (getDom s d).state == .up || (getDom s d).state == .waking)

/-- The transition to STANDBY as it sets out, or its end where the package is there (R349). -/
def standbyFrom (c : CmdRef) (s : State) : State :=
  if s.power.pkg = .standby then finishCmd c 0 [] s
  else stepGoal { s with power := { s.power with
    goal := some (some c, .standby), upBefore := domainsUp s, halting := s.boot.started &&& ~~~s.power.halted } }

/-- The transition to READY or ACTIVE as it sets out (R349). -/
def riseFrom (g : PkgState) (c : CmdRef) (s : State) : State := stepGoal { s with power := { s.power with goal := some (some c, g) } }

theorem standbyFrom_there {c : CmdRef} {s : State} (h : s.power.pkg = .standby) : standbyFrom c s = finishCmd c 0 [] s := if_pos h

theorem parkFrom_spec (c : CmdRef) (s : State) : (parkFrom c s).swarm = s.swarm ∧ (parkFrom c s).boot.started = 0
    ∧ ((parkFrom c s).power.goal = some (some c, .parked) ∨ (parkFrom c s).power.parking = true) ∧ (parkFrom c s).mem = s.mem ∧ (parkFrom c s).obj = s.obj := by
  obtain ⟨-, hboot, hmem, hobj, hswarm, hgoal⟩ := stepGoal_spec (s := parkingOut c s) rfl
  unfold parkFrom
  refine ⟨hswarm, congrArg Boot.started hboot, ?_, hmem, hobj⟩
  rcases hgoal with ⟨hgoal, -⟩ | ⟨-, -, hparking, -⟩
  · exact .inl hgoal
  · exact .inr (hparking rfl)

theorem standbyFrom_spec {c : CmdRef} {s : State} (h : s.power.pkg ≠ .standby) : (standbyFrom c s).swarm = s.swarm ∧ (standbyFrom c s).mem = s.mem
    ∧ (standbyFrom c s).obj = s.obj ∧ ((standbyFrom c s).power.goal = some (some c, .standby)
      ∨ ((standbyFrom c s).power.goal = none ∧ (standbyFrom c s).power.pkg = .standby)) := by
  have hgoes : standbyFrom c s = stepGoal { s with power := { s.power with
    goal := some (some c, .standby), upBefore := domainsUp s, halting := s.boot.started &&& ~~~s.power.halted } } := if_neg h
  obtain ⟨-, -, hmem, hobj, hswarm, hgoal⟩ := stepGoal_spec (s := { s with power := { s.power with
    goal := some (some c, .standby), upBefore := domainsUp s, halting := s.boot.started &&& ~~~s.power.halted } }) rfl
  rw [hgoes]
  refine ⟨hswarm, hmem, hobj, ?_⟩
  rcases hgoal with ⟨hgoal, -⟩ | ⟨hnone, -, -, hpkg, -⟩
  · exact .inl hgoal
  · exact .inr ⟨hnone, hpkg rfl⟩

theorem riseFrom_spec (g : PkgState) (c : CmdRef) (s : State) : (riseFrom g c s).swarm = s.swarm ∧ (riseFrom g c s).mem = s.mem
    ∧ (riseFrom g c s).obj = s.obj ∧ ((riseFrom g c s).power.goal = some (some c, g)
      ∨ ((riseFrom g c s).power.goal = none ∧ ∀ e ∈ goalDomains s g, (getDom (riseFrom g c s) e.1).state = e.2 ∨ dieServes s e.1 = false)) := by
  obtain ⟨-, -, hmem, hobj, hswarm, hgoal⟩ := stepGoal_spec (s := { s with power := { s.power with goal := some (some c, g) } }) rfl
  refine ⟨hswarm, hmem, hobj, ?_⟩
  rcases hgoal with ⟨hgoal, -⟩ | ⟨hnone, -, -, -, hdoms⟩
  · exact .inl hgoal
  · exact .inr ⟨hnone, hdoms⟩

section
variable {r : Req} {s : State}

theorem pkgState_range (h : leNat r.p 0 1 = 0 ∨ 4 < leNat r.p 0 1) : pkgState r s = reject s 0x1006 :=
  if_pos (h.imp_left (fun h => by omega))

theorem pkgState_busy (h1 : 1 ≤ leNat r.p 0 1) (h4 : leNat r.p 0 1 ≤ 4) (hb : ¬ transitionFree s) : pkgState r s = reject s 0x2001 := by
  unfold pkgState
  dsimp only
  rw [if_neg (by omega), if_pos (by rw [← Bool.not_eq_false]; exact mt (transitionFree_iff s).mpr hb)]

theorem pkgState_of_free (h1 : 1 ≤ leNat r.p 0 1) (h4 : leNat r.p 0 1 ≤ 4) (hf : transitionFree s) {a : Ans}
    (ha : (if leNat r.p 0 1 = 1 then
        if ¬ (liveCtxs s).isEmpty ∨ outsideSafe s ∨ s.flash.banks.any (fun e => e.2.activity != .idle) then reject s 0x2001
        else acceptOr r parkFrom s
      else if leNat r.p 0 1 = 2 then
        if (liveCtxs s).any (fun c => ctxState s c != .idle) then reject s 0x2001 else acceptOr r standbyFrom s
      else acceptOr r (riseFrom (if leNat r.p 0 1 = 3 then .ready else .active)) s) = a) : pkgState r s = a := by
  unfold pkgState
  dsimp only
  rw [if_neg (by omega), if_neg (by rw [(transitionFree_iff s).mp hf]; exact Bool.false_ne_true)]
  exact ha

/-- PKG_STATE to PARKED is refused while a context exists (R350). -/
theorem pkgState_parkRefused (h1 : leNat r.p 0 1 = 1) (hf : transitionFree s) (hl : liveCtxs s ≠ []) : pkgState r s = reject s 0x2001 := by
  refine pkgState_of_free (by omega) (by omega) hf ?_
  rw [if_pos h1, if_pos (.inl (by simpa using hl))]

/-- PKG_STATE to PARKED is accepted where no context exists, the outside is safe and the flash is idle (R350). -/
theorem pkgState_parks (h1 : leNat r.p 0 1 = 1) (hf : transitionFree s) (hl : liveCtxs s = []) (ho : outsideSafe s = false)
    (hb : s.flash.banks.any (fun e => e.2.activity != .idle) = false) (hp : pendingFull s r.m = false) :
    pkgState r s = accepted r parkFrom s := by
  refine pkgState_of_free (by omega) (by omega) hf ?_
  rw [if_pos h1, if_neg (by simp [hl, ho, hb]), acceptOr_free hp]

/-- PKG_STATE to STANDBY is accepted where every context is IDLE (R349). -/
theorem pkgState_standsBy (h2 : leNat r.p 0 1 = 2) (hf : transitionFree s) (hi : ∀ c ∈ liveCtxs s, ctxState s c = .idle)
    (hp : pendingFull s r.m = false) : pkgState r s = accepted r standbyFrom s := by
  refine pkgState_of_free (by omega) (by omega) hf ?_
  have hany : (liveCtxs s).any (fun c => ctxState s c != .idle) = false := by simpa using hi
  rw [if_neg (by omega), if_pos h2, if_neg (by rw [hany]; exact Bool.false_ne_true), acceptOr_free hp]

/-- PKG_STATE to READY or ACTIVE is accepted (R349). -/
theorem pkgState_rises {g : PkgState} (hg : (leNat r.p 0 1 = 3 ∧ g = .ready) ∨ (leNat r.p 0 1 = 4 ∧ g = .active)) (hf : transitionFree s)
    (hp : pendingFull s r.m = false) : pkgState r s = accepted r (riseFrom g) s := by
  have hgoal : (if leNat r.p 0 1 = 3 then PkgState.ready else .active) = g := by
    rcases hg with ⟨h, rfl⟩ | ⟨h, rfl⟩
    · exact if_pos h
    · exact if_neg (by omega)
  refine pkgState_of_free (by omega) (by omega) hf ?_
  rw [if_neg (by omega), if_neg (by omega), hgoal, acceptOr_free hp]

end

/-! ### CLOCK_SET and WAKE_CONFIG -/

/-- The clocks with those of the dies in a mask set (R356). -/
def withClocks (mask mhz : Nat) (t : Tbl Nat) : Tbl Nat := (upFrom 0 5).foldl (fun t d => if mask / 2 ^ d % 2 = 1 then Tbl.set 0 t d mhz else t) t

theorem get_withClocks (mask mhz : Nat) (t : Tbl Nat) (d : Nat) :
    Tbl.get 0 (withClocks mask mhz t) d = if d < 5 ∧ mask / 2 ^ d % 2 = 1 then mhz else Tbl.get 0 t d := by
  have hskip : (fun (t : Tbl Nat) d => if mask / 2 ^ d % 2 = 1 then Tbl.set 0 t d mhz else t)
      = fun t d => if decide (mask / 2 ^ d % 2 ≠ 1) then t else Tbl.set 0 t d mhz := by
    funext t d
    by_cases h : mask / 2 ^ d % 2 = 1 <;> simp [h]
  rw [withClocks, hskip, get_foldl_set 0 (fun d => decide (mask / 2 ^ d % 2 ≠ 1)) (fun _ => mhz)]
  simp

/-- The run of CLOCK_SET (R356). -/
def clockFrom (mask mhz : Nat) (c : CmdRef) (s : State) : State :=
  finishCmd c 0 [] { s with power := { s.power with clock := withClocks mask mhz s.power.clock } }

theorem clockFrom_swarm (mask mhz : Nat) (c : CmdRef) (s : State) : (clockFrom mask mhz c s).swarm = s.swarm := rfl

/-- CLOCK_SET in range is accepted (R356). -/
theorem clockSet_sets {r : Req} {s : State} (h1 : 1 ≤ leNat r.p 0 1) (h31 : leNat r.p 0 1 ≤ 31) (h25 : leNat r.p 2 2 % 25 = 0)
    (hlo : 400 ≤ leNat r.p 2 2) (hhi : leNat r.p 2 2 ≤ 1200) (hp : pendingFull s r.m = false) :
    clockSet r s = accepted r (clockFrom (leNat r.p 0 1) (leNat r.p 2 2)) s := by
  unfold clockSet
  dsimp only
  rw [if_neg (by omega), acceptOr_free hp]
  rfl

theorem leNat_lt (l : Bytes) (i n : Nat) : leNat l i n < 256 ^ n := by
  induction n generalizing i with
  | zero => exact Nat.one_pos
  | succ n ih =>
    have hb := (byteAt l i).isLt
    have hn := ih (i + 1)
    simp only [leNat, Nat.pow_succ]
    omega

/-- The wake settings with a mask and an alarm (R352). -/
def withWake (mask : W32) (alarm : BitVec 48) (s : State) : State := { s with power := { s.power with wakeEnable := mask ||| 0x181, alarm := alarm } }

/-- What both branches leave, the choice leaves. -/
theorem ite_keeps {α : Type} {f : State → α} {p : Prop} [Decidable p] {a b s : State} (ha : f a = f s) (hb : f b = f s) :
    f (if p then a else b) = f s := by
  split
  · exact ha
  · exact hb

theorem wakeUp_swarm (s : State) : (wakeUp s).swarm = s.swarm := by
  have hheld : (if s.power.turnOff then { s with power := { s.power with wakeHeld := true } } else s).swarm = s.swarm := ite_keeps rfl rfl
  have hstep (t : State) : (stepGoal t).swarm = t.swarm := (congrArg State.swarm (stepGoal_outsidePower t) :)
  exact ite_keeps hheld (ite_keeps hheld (ite_keeps ((hstep _).trans hheld) hheld))

/-- WAKE_CONFIG with reserved bits or an alarm beyond the RTC's range is rejected (R352). -/
theorem wakeConfig_rejects {r : Req} {s : State} (h : le32 r.p 0 &&& 0xC000FF81 ≠ 0 ∨ 2 ^ 48 ≤ leNat r.p 8 8) : wakeConfig r s = reject s 0x1006 := by
  have h8 := leNat_lt r.p 8 8
  refine if_pos (h.imp_right fun h => ?_)
  simp only [le64, BitVec.toNat_ofNat]
  omega

/-- WAKE_CONFIG in range writes mask and alarm; an armed alarm that is not in the future wakes at once (R352). -/
theorem wakeConfig_writes {r : Req} {s : State} (hm : le32 r.p 0 &&& 0xC000FF81 = 0) (ht : leNat r.p 8 8 < 2 ^ 48) :
    wakeConfig r s = okay (if leNat r.p 8 8 ≠ 0 ∧ leNat r.p 8 8 ≤ s.power.rtc.toNat ∧ bitOf (le32 r.p 0) 4 = true
      then wakeUp (latchCause 4 0 (withWake (le32 r.p 0) (BitVec.ofNat 48 (leNat r.p 8 8)) s))
      else withWake (le32 r.p 0) (BitVec.ofNat 48 (leNat r.p 8 8)) s) [] := by
  have h8 := leNat_lt r.p 8 8
  have hbits : (le64 r.p 8).toNat = leNat r.p 8 8 := by
    simp only [le64, BitVec.toNat_ofNat]
    omega
  have hzero : le64 r.p 8 ≠ 0 ↔ leNat r.p 8 8 ≠ 0 := by rw [← hbits, ne_eq, ne_eq, ← BitVec.toNat_inj]; rfl
  have halarm : (le64 r.p 8).truncate 48 = BitVec.ofNat 48 (leNat r.p 8 8) := by
    refine BitVec.eq_of_toNat_eq ?_
    rw [BitVec.toNat_setWidth, hbits, BitVec.toNat_ofNat]
  have harmed (x : BitVec 48) : causeArmed (withWake (le32 r.p 0) x s) 4 0 = bitOf (le32 r.p 0) 4 := by
    show (bitOf (le32 r.p 0 ||| 0x181) 4 && true) = _
    simp [bitOf]
  have hgo : ¬ (le32 r.p 0 &&& 0xC000FF81 ≠ 0 ∨ 2 ^ 48 ≤ (le64 r.p 8).toNat) := by
    rw [hbits]
    exact not_or.mpr ⟨not_not.mpr hm, Nat.not_le.mpr ht⟩
  refine (if_neg hgo).trans ?_
  have hcond (x : BitVec 48) : (le64 r.p 8 ≠ 0 ∧ (le64 r.p 8).toNat ≤ s.power.rtc.toNat ∧ causeArmed (withWake (le32 r.p 0) x s) 4 0 = true)
      ↔ leNat r.p 8 8 ≠ 0 ∧ leNat r.p 8 8 ≤ s.power.rtc.toNat ∧ bitOf (le32 r.p 0) 4 = true := by
    rw [hzero, hbits, harmed]
  rw [halarm]
  refine congrArg (okay · []) ?_
  exact if_congr (hcond _) rfl rfl

/-! ### The partitions -/

/-- The write of HALTED by partition `n` (R349). -/
def haltedWord (n : Nat) (v : Bool) (s : State) : State :=
  { s with power := { s.power with halted := setBit s.power.halted n v, halting := if v then setBit s.power.halting n false else s.power.halting } }

theorem setHalted_eq (n : Nat) (v : Bool) (s : State) : setHalted n v s = if v then stepGoal (haltedWord n v s) else haltedWord n v s := by
  cases v <;> rfl

/-- A partition that has not halted in time, held in reset (R349). -/
def heldPartition (n : Nat) (s : State) : State :=
  { s with power := { s.power with halting := setBit s.power.halting n false }, boot := { s.boot with started := setBit s.boot.started n false } }

theorem stepGoal_none {s : State} (h : s.power.goal = none) : stepGoal s = s := by
  unfold stepGoal
  rw [h]

/-- The write of HALTED by a partition, and what the transition that waited for it comes to (R349). -/
theorem setHalted_spec {n : Nat} (hn : n < 16) (v : Bool) (s : State) :
    (bitOf (setHalted n v s).power.halted n = v ∨ ((setHalted n v s).power.goal = none ∧ (setHalted n v s).power.halted = 0))
      ∧ (setHalted n v s).keeper.rsp = s.keeper.rsp ∧ (setHalted n v s).mem = s.mem ∧ (setHalted n v s).obj = s.obj ∧ (setHalted n v s).boot = s.boot := by
  have hbit : bitOf (haltedWord n v s).power.halted n = v := (bitOf_setBit _ hn v n).trans (if_pos rfl)
  rw [setHalted_eq]
  split
  · cases hg : (haltedWord n v s).power.goal with
    | none =>
      rw [stepGoal_none hg]
      exact ⟨.inl hbit, rfl, rfl, rfl, rfl⟩
    | some cg =>
      obtain ⟨c, g⟩ := cg
      obtain ⟨hrsp, hboot, hmem, hobj, -, hgoal⟩ := stepGoal_spec hg
      refine ⟨?_, hrsp, hmem, hobj, hboot⟩
      rcases hgoal with ⟨-, hhalted⟩ | ⟨hnone, hhalted | hhalted, -⟩
      · exact .inl (hhalted ▸ hbit)
      · exact .inl (hhalted ▸ hbit)
      · exact .inr ⟨hnone, hhalted⟩
  · exact ⟨.inl hbit, rfl, rfl, rfl, rfl⟩

theorem isPartition_iff {s : State} {src : W32} {n : Nat} :
    isPartition s src n = true ↔ srcUnit src = 2 ∧ srcSub src = n ∧ srcNode src = s.swarm.node := by
  simp [isPartition, and_assoc]

/-- Settles O44: each command in its range and state, and each write of a partition by its source. -/
theorem packageStateCommands : Obligations.PackageStateCommands := by
  refine ⟨?commands, ?partitions⟩
  case commands =>
    intro m s p w idle
    have hpkg : exec (.pkgState m) s = inRange (decide (m < 32)) (takeUpCard 0x0301 pkgState m s) := rfl
    obtain ⟨hwobj, hwmem, -, -, hswarm, hfaults⟩ := acceptedState_rest s m
    have hpower : (acceptedState s m).power = s.power := rfl
    have hfree (h : idle) : transitionFree (taken s m) := h
    refine ⟨?parkRefused, ?parks, ?stays, ?standsBy, ?rises, ?range, ?busy, ?clock, ?wake⟩
    case parkRefused =>
      intro h h1 hi hl
      exact answers_of_done (.pkgState m) hpkg h (pkgState_parkRefused h1 (hfree hi) hl) rfl
    case parks =>
      intro h h1 hi hl ho hb
      obtain ⟨hask, hroom⟩ := askedLong_iff.mp h
      obtain ⟨hto, hstarted, hgoal, hmem, hobj⟩ := parkFrom_spec (refOf s m) (acceptedState s m)
      have haccepts := pkgState_parks (r := reqOf s m) h1 (hfree hi) hl ho hb hroom
      exact ⟨_, answers_of_accepted (.pkgState m) hpkg hask haccepts (congrArg Swarm.node (hto.trans hswarm)),
        hstarted, hgoal, hmem.trans hwmem, hobj.trans hwobj⟩
    case stays =>
      intro h h2 hi hc hstandby
      obtain ⟨hask, hroom⟩ := askedLong_iff.mp h
      have hthere : standbyFrom (refOf s m) w = finishCmd (refOf s m) 0 [] w := standbyFrom_there (hpower ▸ hstandby)
      have hnode : (finishCmd (refOf s m) 0 [] w).swarm.node = s.swarm.node := congrArg Swarm.node hswarm
      have haccepts := pkgState_standsBy (r := reqOf s m) h2 (hfree hi) hc hroom
      exact answers_of_run (.pkgState m) hpkg hask haccepts hthere hnode
    case standsBy =>
      intro h h2 hi hc hstandby
      obtain ⟨hask, hroom⟩ := askedLong_iff.mp h
      obtain ⟨hto, hmem, hobj, hgoal⟩ := standbyFrom_spec (c := refOf s m) (s := w) hstandby
      have haccepts := pkgState_standsBy (r := reqOf s m) h2 (hfree hi) hc hroom
      exact ⟨_, answers_of_accepted (.pkgState m) hpkg hask haccepts (congrArg Swarm.node (hto.trans hswarm)),
        hmem.trans hwmem, hobj.trans hwobj, hgoal⟩
    case rises =>
      intro g h hg hi
      obtain ⟨hask, hroom⟩ := askedLong_iff.mp h
      obtain ⟨hto, hmem, hobj, hgoal⟩ := riseFrom_spec g (refOf s m) w
      have hserves (d : Nat) : dieServes w d = dieServes s d := by simp only [dieServes, getDie, show w.faults = s.faults from hfaults]
      simp only [hserves] at hgoal
      have haccepts := pkgState_rises (r := reqOf s m) hg (hfree hi) hroom
      exact ⟨_, answers_of_accepted (.pkgState m) hpkg hask haccepts (congrArg Swarm.node (hto.trans hswarm)),
        hmem.trans hwmem, hobj.trans hwobj, hgoal⟩
    case range =>
      intro h hr
      exact answers_of_done (.pkgState m) hpkg h (pkgState_range hr) rfl
    case busy =>
      intro h h1 h4 hi
      exact answers_of_done (.pkgState m) hpkg h (pkgState_busy h1 h4 hi) rfl
    case clock =>
      intro h h1 h31 h25 hlo hhi
      obtain ⟨hask, hroom⟩ := askedLong_iff.mp h
      have hclock : exec (.clockSet m) s = inRange (decide (m < 32)) (takeUpCard 0x0303 clockSet m s) := rfl
      have haccepts := clockSet_sets (r := reqOf s m) h1 h31 h25 hlo hhi hroom
      have hsets : clockFrom (leNat p 0 1) (leNat p 2 2) (refOf s m) w
          = finishCmd (refOf s m) 0 [] { w with power := { s.power with clock := withClocks (leNat p 0 1) (leNat p 2 2) s.power.clock } } := rfl
      have hnode := congrArg Swarm.node ((clockFrom_swarm (leNat p 0 1) (leNat p 2 2) (refOf s m) w).trans hswarm)
      exact ⟨_, hsets ▸ answers_of_accepted (.clockSet m) hclock hask haccepts hnode, get_withClocks _ _ _⟩
    case wake =>
      intro h
      have hrun : exec (.wakeConfig m) s = inRange (decide (m < 32)) (takeUpCard 0x0304 wakeConfig m s) := rfl
      refine ⟨?reserved, ?noAlarm, ?beyond, ?alarm⟩
      case reserved =>
        intro hm
        exact answers_of_done (.wakeConfig m) hrun h (wakeConfig_rejects (.inl hm)) rfl
      case noAlarm =>
        intro hm h0
        have hzero : withWake (le32 p 0) (BitVec.ofNat 48 (leNat p 8 8)) (taken s m) = withWake (le32 p 0) 0 (taken s m) := by rw [h0]; rfl
        exact answers_of_done (.wakeConfig m) hrun h ((wakeConfig_writes hm (h0 ▸ by decide)).trans
          (congrArg (okay · []) ((if_neg (fun h => h.1 h0)).trans hzero))) rfl
      case beyond =>
        intro hm hbig
        exact answers_of_done (.wakeConfig m) hrun h (wakeConfig_rejects (.inr hbig)) rfl
      case alarm =>
        intro hm hlt h0 u
        refine ⟨fun hlater => ?_, fun hpast hbit => ?_⟩
        · have hquiet : ¬ (leNat p 8 8 ≠ 0 ∧ leNat p 8 8 ≤ (taken s m).power.rtc.toNat ∧ bitOf (le32 p 0) 4 = true) := fun ⟨_, hdue, harmed⟩ =>
            hlater.elim (Nat.not_lt.mpr hdue) (fun h => Bool.false_ne_true (h.symm.trans harmed))
          exact answers_of_done (.wakeConfig m) hrun h ((wakeConfig_writes hm hlt).trans (congrArg (okay · []) (if_neg hquiet))) rfl
        · have hnode : (wakeUp (latchCause 4 0 u)).swarm.node = s.swarm.node := congrArg Swarm.node (wakeUp_swarm _)
          exact answers_of_done (.wakeConfig m) hrun h ((wakeConfig_writes hm hlt).trans (congrArg (okay · []) (if_pos ⟨h0, hpast, hbit⟩))) hnode
  case partitions =>
    intro src v n s hn own
    have hrun : exec (.partitionHalted src n v) s = inRange (decide (n < 16)) (partitionHalted src n v s) := rfl
    have hn' := decide_eq_true hn
    have hbit (k : Nat) (b : Bool) : bitOf (setBit s.power.halted n b) k = if k = n then b else bitOf s.power.halted k := bitOf_setBit _ hn b k
    have htaken (ho : own) : partitionHalted src n v s = setHalted n (bitOf v 0) (answer 0 [] s) := if_pos (isPartition_iff.mpr ho)
    refine ⟨?quiet, ?own, ?other, ?timeout, ?running⟩
    case quiet =>
      intro ho hstill
      have hset : setHalted n (bitOf v 0) (answer 0 [] s) = haltedWord n (bitOf v 0) (answer 0 [] s) := by
        rw [setHalted_eq]
        rcases hstill with h | h
        · rw [stepGoal_none (s := haltedWord n (bitOf v 0) (answer 0 [] s)) h, ite_self]
        · rw [h]
          rfl
      refine ⟨_, exec_comes hrun hn' ((htaken ho).trans hset), (hbit n _).trans (if_pos rfl), fun k hk => (hbit k _).trans (if_neg hk), rfl⟩
    case own =>
      intro ho
      obtain ⟨hhalted, hrsp, hmem, hobj, hboot⟩ := setHalted_spec hn (bitOf v 0) (answer 0 [] s)
      have hexec := exec_comes hrun hn' (htaken ho)
      generalize setHalted n (bitOf v 0) (answer 0 [] s) = t at hhalted hrsp hmem hobj hboot hexec
      exact ⟨_, hexec, hhalted, hrsp, hmem, hobj, hboot⟩
    case other =>
      intro ho
      exact exec_refused (hrun.trans (congrArg _ (if_neg (fun h => ho (isPartition_iff.mp h))))) hn'
    case timeout =>
      intro h
      have hgoes : partitionHaltTimeout n s = stepGoal (heldPartition n s) := if_pos h
      have hout := stepGoal_outsidePower (heldPartition n s)
      have hboot : (stepGoal (heldPartition n s)).boot.started = setBit s.boot.started n false := (congrArg (fun t : State => t.boot.started) hout :)
      have hmem : (stepGoal (heldPartition n s)).mem = s.mem := (congrArg State.mem hout :)
      have hobj : (stepGoal (heldPartition n s)).obj = s.obj := (congrArg State.obj hout :)
      have hstarted (k : Nat) : bitOf (setBit s.boot.started n false) k = if k = n then false else bitOf s.boot.started k := bitOf_setBit _ hn _ _
      rw [← hboot] at hstarted
      have hexec := exec_comes (i := .partitionHaltTimeout n) rfl hn' hgoes
      generalize stepGoal (heldPartition n s) = t at hstarted hmem hobj hexec
      exact ⟨_, hexec, (hstarted n).trans (if_pos rfl), fun k hk => (hstarted k).trans (if_neg hk), hmem, hobj⟩
    case running =>
      intro h
      exact exec_comes (i := .partitionHaltTimeout n) rfl hn' (if_neg (by rw [h]; exact Bool.false_ne_true))

end Sys2Proof.Machine
end

section
/-! FRAME_LOAD, its drain, segments and release, and FRAME_READBACK (R262, R264, R267, R268, R270, R273, R274, R278, R279). -/

namespace Sys2Proof.Machine

/-! ### Regions and frames of a load -/

/-- A region is the same after a change made twice. -/
def Settles (f : Nat → Region → Region) : Prop := ∀ k r, f k (f k r) = f k r

/-- Regions changed one by one. -/
def changeRegions (f : Nat → Region → Region) (l : List Nat) (s : State) : State := l.foldl (fun s k => setRegion s k (f k (getRegion s k))) s

theorem getRegion_changeRegions {f : Nat → Region → Region} (hf : Settles f) (l : List Nat) (s : State) (j : Nat) :
    getRegion (changeRegions f l s) j = if j ∈ l then f j (getRegion s j) else getRegion s j := by
  unfold changeRegions
  induction l generalizing s with
  | nil => rfl
  | cons k l ih =>
    have hset : getRegion (setRegion s k (f k (getRegion s k))) j = if j = k then f k (getRegion s k) else getRegion s j := Tbl.get_set _ _ _ _ _
    rw [List.foldl_cons, ih, hset]
    by_cases hj : j = k
    · subst hj
      simp [hf j]
    · simp [hj]

/-- Regions changed leave all but the regions. -/
theorem changeRegions_rest (f : Nat → Region → Region) (l : List Nat) (s : State) :
    changeRegions f l s = { s with frame := { s.frame with regions := (changeRegions f l s).frame.regions } } := by
  obtain ⟨x, hx⟩ := foldl_writes (put := fun s x => { s with frame := { s.frame with regions := x } })
    (f := fun s k => setRegion s k (f k (getRegion s k))) (fun _ _ => ⟨_, rfl⟩) (fun _ _ _ => rfl) l (s := s) ⟨s.frame.regions, rfl⟩
  have h : changeRegions f l s = { s with frame := { s.frame with regions := x } } := hx
  rw [h]

/-- A table without the entries of some keys. -/
theorem Tbl.get_filter {α : Type} (d : α) (p : Nat → Bool) (t : Tbl α) (k : Nat) :
    Tbl.get d (t.filter (fun e => p e.1)) k = if p k then Tbl.get d t k else d := by
  induction t with
  | nil => simp
  | cons e t ih =>
    rw [List.filter_cons]
    by_cases he : e.1 = k
    · subst he
      cases hp : p e.1 <;> simp [hp, Tbl.get, ih]
    · cases hp : p e.1 <;> simp [Tbl.get, he, ih]

/-- Frames of blanked regions hold 0 (R268, R270). -/
theorem get_blankRegions (l : List Nat) (t : Tbl Bytes) (a : Nat) :
    Tbl.get (zeros 128) (l.foldl blankRegion t) a = if a / 2 ^ 21 ∈ l then zeros 128 else Tbl.get (zeros 128) t a := by
  induction l generalizing t with
  | nil => rfl
  | cons k l ih =>
    have hone : Tbl.get (zeros 128) (blankRegion t k) a = if a / 2 ^ 21 = k then zeros 128 else Tbl.get (zeros 128) t a := by
      have h := Tbl.get_filter (zeros 128) (fun a => decide (a / 2 ^ 21 ≠ k)) t a
      by_cases hk : a / 2 ^ 21 = k <;> simpa [blankRegion, hk] using h
    rw [List.foldl_cons, ih, hone]
    by_cases hk : a / 2 ^ 21 = k
    · rw [if_pos hk, ite_self, if_pos (List.mem_cons.mpr (.inl hk))]
    · rw [if_neg hk]
      exact if_congr (by rw [List.mem_cons, or_iff_right hk]) rfl rfl

/-! ### The end of a load -/

/-- A load that ends with an error leaves regions, frames and memory, and frees its staging entry alone (R279). -/
theorem endLoad_spec (x : FrameLoad) (c : W16) (s : State) :
    (endLoad x c s).frame.regions = s.frame.regions ∧ (endLoad x c s).frame.cfg.frames = s.frame.cfg.frames ∧ (endLoad x c s).frame.cfg.load = none
      ∧ (endLoad x c s).frame.cfg.loadFails = satAdd s.frame.cfg.loadFails 1 ∧ (endLoad x c s).mem = s.mem ∧ (endLoad x c s).swarm = s.swarm
      ∧ (endLoad x c s).obj = { s.obj with mot := (endLoad x c s).obj.mot } ∧ ∀ i, x.staging ≠ some i → getMot (endLoad x c s) i = getMot s i := by
  have hfree (i j : Nat) (h : some j ≠ some i) : getMot (freeMot j s) i = getMot s i := getMot_setMot_ne s j _ i (fun e => h (congrArg some e.symm))
  unfold endLoad freeStaging
  dsimp only
  cases x.staging with
  | none => cases x.cmd <;> exact ⟨rfl, rfl, rfl, rfl, rfl, rfl, rfl, fun _ _ => rfl⟩
  | some j => cases x.cmd <;> exact ⟨rfl, rfl, rfl, rfl, rfl, rfl, rfl, fun i => hfree i j⟩

/-- A region of a load that has failed (R268). -/
def failedRegion (r : Region) : Region := { r with state := .failed, open_ := false }

/-- A load that fails leaves its regions FAILED with blank frames (R268). -/
theorem failLoad_spec (x : FrameLoad) (s : State) :
    (∀ k, getRegion (failLoad x s) k = if k ∈ x.regions then failedRegion (getRegion s k) else getRegion s k)
      ∧ (∀ a, a / 2 ^ 21 ∈ x.regions → Tbl.get (zeros 128) (failLoad x s).frame.cfg.frames a = zeros 128) ∧ (failLoad x s).frame.cfg.load = none
      ∧ (failLoad x s).frame.cfg.loadFails = satAdd s.frame.cfg.loadFails 1 ∧ (failLoad x s).mem = s.mem ∧ (failLoad x s).swarm = s.swarm
      ∧ (failLoad x s).obj = { s.obj with mot := (failLoad x s).obj.mot } ∧ ∀ i, x.staging ≠ some i → getMot (failLoad x s) i = getMot s i := by
  have hmarked := changeRegions_rest (fun _ => failedRegion) x.regions s
  have hregion := getRegion_changeRegions (f := fun _ => failedRegion) (fun _ _ => rfl) x.regions s
  have hdef : failLoad x s = endLoad x 0x4003 (setCfg (changeRegions (fun _ => failedRegion) x.regions s)
      { (changeRegions (fun _ => failedRegion) x.regions s).frame.cfg with
        frames := x.regions.foldl blankRegion (changeRegions (fun _ => failedRegion) x.regions s).frame.cfg.frames }) := rfl
  rw [hdef]
  generalize changeRegions (fun _ => failedRegion) x.regions s = t at hmarked hregion
  obtain ⟨hregions, hframes, hload, hfails, hmem, hswarm, hobj, hmot⟩ := endLoad_spec x 0x4003
    (setCfg t { t.frame.cfg with frames := x.regions.foldl blankRegion t.frame.cfg.frames })
  refine ⟨fun k => ?_, fun a ha => ?_, hload, hfails.trans ?_, hmem.trans ?_, hswarm.trans ?_, hobj.trans ?_, fun i hi => (hmot i hi).trans ?_⟩
  · rw [getRegion, hregions]
    exact hregion k
  · rw [hframes]
    exact (get_blankRegions _ _ _).trans (if_pos ha)
  all_goals
    rw [hmarked]
    rfl

/-! ### Segments in staging -/

/-- The state differs in memory alone, and there in the staging buffers of the load alone. -/
def StagedOnly (x : FrameLoad) (s t : State) : Prop :=
  t = { s with mem := t.mem } ∧ ∀ a, addrNode a = s.swarm.node →
    (∀ i, x.staging = some i → ¬ ((getMot s i).base ≤ a ∧ a < (getMot s i).base + 131584)) → memByte t a = memByte s a

theorem StagedOnly.refl (x : FrameLoad) (s : State) : StagedOnly x s s := ⟨rfl, fun _ _ _ => rfl⟩

/-- A segment copied into its buffer stays within the staging buffers (R264, R268). -/
theorem stageSegment_staged (x : FrameLoad) (i : Nat) {l : Bytes} (h : l.length ≤ 65792) (s : State) : StagedOnly x s (stageSegment x i l s) := by
  unfold stageSegment
  cases hk : x.staging with
  | none => exact .refl x s
  | some k =>
    refine ⟨memWrite_mem_only _ _ _, fun a _ ha => memByte_memWrite_ne _ _ _ _ (fun hin => ha k hk ?_)⟩
    omega

theorem StagedOnly.trans {x y : FrameLoad} {s t u : State} (hy : y.staging = x.staging) (h : StagedOnly x s t) (hu : StagedOnly y t u) :
    StagedOnly x s u := by
  obtain ⟨hts, hmem⟩ := h
  obtain ⟨hut, hmem'⟩ := hu
  have hmot (i : Nat) : getMot t i = getMot s i := by rw [hts]; rfl
  have hnode : t.swarm.node = s.swarm.node := by rw [hts]
  refine ⟨by rw [hut, hts], fun a ha hout => (hmem' a (hnode ▸ ha) (fun i hi => ?_)).trans (hmem a ha hout)⟩
  rw [hmot]
  exact hout i (hy ▸ hi)

theorem StagedOnly.configured {x : FrameLoad} {s t : State} (h : StagedOnly x s t) (c : Config) : StagedOnly x (setCfg s c) (setCfg t c) := by
  obtain ⟨hts, hmem⟩ := h
  exact ⟨congrArg (fun u => setCfg u c) hts, hmem⟩

theorem fetchSegment_length (s : State) (x : FrameLoad) (o : Nat) : (fetchSegment s x o).1.length ≤ 65792 := by
  unfold fetchSegment
  dsimp only
  rw [memRead_length]
  split <;> omega

/-- A segment fetched ahead or not (R268): the load goes on with it, and only staging may have been written. -/
theorem fetchAhead_goes (y : FrameLoad) (s : State) : ∃ t a, StagedOnly y s t ∧ fetchAhead y s = setCfg t { s.frame.cfg with load := some { y with ahead := a } } := by
  unfold fetchAhead
  split
  · have hstaged := stageSegment_staged y y.segment (fetchSegment_length s y y.offset) s
    refine ⟨_, _, hstaged, congrArg (fun c : Config => setCfg _ { c with load := some { y with ahead := some (fetchSegment s y y.offset) } }) ?_⟩
    rw [hstaged.1]
  · exact ⟨s, none, .refl y s, rfl⟩

theorem memRead_append (s : State) (m n : Nat) : ∀ a, memRead s a (m + n) = memRead s a m ++ memRead s (a + m) n := by
  induction m with
  | zero => intro a; rw [Nat.zero_add]; rfl
  | succ m ih =>
    intro a
    rw [Nat.succ_add]
    simp only [memRead, ih, List.cons_append, Nat.add_assoc, Nat.add_comm 1 m]

/-- A segment whose header is out of order has no text (R264). -/
theorem segmentText_outOfOrder {x : FrameLoad} {l : Bytes} (h : leNat (slice l 0 16) 0 4 ≠ x.segment) : segmentText x l = none := by
  unfold segmentText
  dsimp only
  rw [if_pos (.inr (.inr (.inr (.inr (.inl h)))))]

theorem segmentText_short {x : FrameLoad} {l : Bytes} (h : l.length < 32) : segmentText x l = none := by
  unfold segmentText
  dsimp only
  rw [if_pos (.inl (by omega))]

/-- The text of a segment of plain frames that checks (R264). -/
theorem segmentText_plain {x : FrameLoad} {h payload tag : Bytes} (hh : h.length = 16) (hp : payload.length = leNat h 4 4) (ht : tag.length = 16)
    (h16 : leNat h 4 4 % 16 = 0) (h64 : 64 ≤ leNat h 4 4) (hmax : leNat h 4 4 ≤ 65536) (hseg : leNat h 0 4 = x.segment) (hz : zeroIn h 8 16 = true)
    (hplain : leNat x.header 6 1 = 0) (hkey : Sys2Proof.Config.sha384 (h ++ payload) = x.key) (htag : tag.all (· == 0) = true) :
    segmentText x (h ++ (payload ++ tag)) = some payload := by
  have hhead : slice (h ++ (payload ++ tag)) 0 16 = h := slice_append_left _ hh
  have hpay : slice (h ++ (payload ++ tag)) 16 (leNat h 4 4) = payload := (slice_append_right _ _ hh).trans (slice_append_left _ hp)
  have hlast : slice (h ++ (payload ++ tag)) (16 + leNat h 4 4) 16 = tag := by
    rw [← List.append_assoc]
    exact (slice_append_right _ _ (by simp [hh, hp])).trans (slice_whole ht)
  have hlen : (h ++ (payload ++ tag)).length = leNat h 4 4 + 32 := by simp [hh, hp, ht]; omega
  unfold segmentText
  simp only [hhead, hpay, hlast]
  rw [if_neg (by simp [hlen, h16, hseg, hz]; omega), if_pos hplain, if_pos ⟨hkey, htag⟩]

/-- A record, counted or not, writes the fault log alone. -/
theorem recordOf_faults (res : Option W32) (r : FaultRecord) (s : State) : ∃ f, recordOf res r s = { s with faults := f } := by
  cases res <;> exact ⟨_, rfl⟩

/-- A segment is fetched with its header and as many bytes as this says, or is cut short (R264). -/
theorem fetchSegment_cases (s : State) (x : FrameLoad) (o : Nat) : (fetchSegment s x o).1.length < 32
    ∨ (fetchSegment s x o).1 = memRead s (x.base + o) 16 ++ memRead s (x.base + o + 16) (leNat (memRead s (x.base + o) 16) 4 4 + 16) := by
  unfold fetchSegment
  dsimp only
  split
  · left
    rw [memRead_length]
    omega
  · right
    rw [← memRead_append]
    exact congrArg (memRead s (x.base + o)) (by omega)

section
variable {s : State} {x : FrameLoad} (hload : s.frame.cfg.load = some x) (hstage : x.stage = .loading) (hahead : x.ahead = none)
include hload hstage hahead

/-- A segment out of order fails the load (R264, R268). -/
theorem segmentChecked_outOfOrder (h : leNat (memRead s (x.base + x.offset) 16) 0 4 ≠ x.segment) :
    ∃ u f, StagedOnly x s u ∧ segmentChecked s = failLoad x { u with faults := f } := by
  have hstaged := stageSegment_staged x x.segment (fetchSegment_length s x x.offset) s
  have htext : segmentText x (fetchSegment s x x.offset).1 = none := by
    rcases fetchSegment_cases s x x.offset with hshort | hwhole
    · exact segmentText_short hshort
    · refine segmentText_outOfOrder ?_
      rwa [hwhole, slice_append_left _ (memRead_length _ _ _)]
  unfold segmentChecked
  simp only [hload, hstage, if_true, hahead, Option.getD_none]
  generalize fetchSegment s x x.offset = fetched at hstaged htext
  obtain ⟨l, ok⟩ := fetched
  dsimp only at hstaged htext ⊢
  split
  · obtain ⟨f, hf⟩ := recordOf_faults (checkResource (stageSegment x x.segment l s) (x.base + x.offset)) _ (stageSegment x x.segment l s)
    exact ⟨_, f, hstaged, congrArg (failLoad x) hf⟩
  · rw [htext]
    exact ⟨_, _, hstaged, rfl⟩

/-- A good segment that is not the last commits its frame writes, and the load goes on (R264, R268). -/
theorem segmentChecked_commits {t body trailer : Bytes} {ws : List (Nat × Bytes)} (hok : (fetchSegment s x x.offset).2 = true)
    (htext : segmentText x (fetchSegment s x x.offset).1 = some t) (hbody : t.take (t.length - 48) = body) (htrailer : t.drop (t.length - 48) = trailer)
    (hparse : parseRecords x.regions (body.length + 1) body = some (ws, none)) (hlast : x.segment + 1 ≠ leNat x.header 16 4)
    (hn : x.writes + ws.length ≤ leNat x.header 20 4) (hplain : leNat x.header 6 1 = 0) :
    ∃ u, StagedOnly x s u ∧ segmentChecked s = fetchAhead
      { x with segment := x.segment + 1, offset := x.offset + (fetchSegment s x x.offset).1.length, writes := x.writes + ws.length, ahead := none, key := trailer }
      (setCfg u { s.frame.cfg with frames := ws.foldl (fun t w => Tbl.set (zeros 128) t w.1 w.2) s.frame.cfg.frames }) := by
  have hstaged := stageSegment_staged x x.segment (fetchSegment_length s x x.offset) s
  refine ⟨_, hstaged, ?_⟩
  have hcfg : (stageSegment x x.segment (fetchSegment s x x.offset).1 s).frame.cfg = s.frame.cfg := by rw [hstaged.1]
  unfold segmentChecked
  simp only [hload, hstage, if_true, hahead, Option.getD_none]
  generalize fetchSegment s x x.offset = fetched at hok htext hcfg
  obtain ⟨l, ok⟩ := fetched
  dsimp only at hok htext hcfg ⊢
  rw [if_neg (not_not.mpr hok), htext]
  dsimp only
  rw [hbody, hparse]
  dsimp only
  rw [if_neg (by simp [hlast, hplain]; omega), if_neg hlast, if_pos hplain, htrailer, hcfg, hload]

end

/-- A byte of this node reads the same where memory and fence words are the same. -/
theorem memByte_here {s t : State} (hs : t.swarm = s.swarm) (ho : t.obj.fences = s.obj.fences) (hm : t.mem = s.mem) {a : Nat} (ha : addrNode a = s.swarm.node) :
    memByte t a = memByte s a := by
  simp [memByte, fenceIndex, fenceWord, hs, ho, hm, ha]

/-- What a load keeps beside its staging buffers and the regions. -/
def LoadKept (x : FrameLoad) (s t : State) : Prop :=
  (∀ a, addrNode a = s.swarm.node →
      (∀ i, x.staging = some i → ¬ ((getMot s i).base ≤ a ∧ a < (getMot s i).base + 131584)) → memByte t a = memByte s a)
    ∧ (∀ i, x.staging ≠ some i → getMot t i = getMot s i) ∧ t.obj = { s.obj with mot := t.obj.mot }

theorem LoadKept.of_staged {x : FrameLoad} {s u t : State} (hu : StagedOnly x s u) (hswarm : t.swarm = u.swarm) (hmem : t.mem = u.mem)
    (hobj : t.obj = { u.obj with mot := t.obj.mot }) (hmot : ∀ i, x.staging ≠ some i → getMot t i = getMot u i) : LoadKept x s t := by
  obtain ⟨hus, hbytes⟩ := hu
  have hnode : u.swarm.node = s.swarm.node := by rw [hus]
  have hswap : u.obj = s.obj := by rw [hus]
  refine ⟨fun a ha hout => ?_, fun i hi => (hmot i hi).trans ?_, hswap ▸ hobj⟩
  · exact (memByte_here hswarm (by rw [hobj]) hmem (ha.trans hnode.symm)).trans (hbytes a ha hout)
  · rw [hus]
    rfl

/-- A load that has committed, staged and gone on has kept the rest. -/
theorem LoadKept.goes_on {x : FrameLoad} {s v : State} {c d : Config} {f : Nat} (h : StagedOnly x (setCfg s c) v) :
    LoadKept x s { setCfg v d with free := f } :=
  LoadKept.of_staged (s := setCfg s c) h rfl rfl rfl (fun _ _ => rfl)

/-- A segment out of order: the step fails the load (R264, R268). -/
theorem exec_segmentChecked_outOfOrder {s : State} {x : FrameLoad} (hload : s.frame.cfg.load = some x) (hstage : x.stage = .loading) (hahead : x.ahead = none)
    (h : leNat (memRead s (x.base + x.offset) 16) 0 4 ≠ x.segment) :
    ∃ t, exec .segmentChecked s = .next t
      ∧ (∀ k, k ∈ x.regions → (getRegion t k).state = .failed ∧ (getRegion t k).open_ = false) ∧ (∀ k, k ∉ x.regions → getRegion t k = getRegion s k)
      ∧ t.frame.cfg.load = none ∧ t.frame.cfg.loadFails = satAdd s.frame.cfg.loadFails 1
      ∧ (∀ a, a / 2 ^ 21 ∈ x.regions → Tbl.get (zeros 128) t.frame.cfg.frames a = zeros 128) ∧ LoadKept x s t := by
  obtain ⟨u, f, hu, heq⟩ := segmentChecked_outOfOrder hload hstage hahead h
  obtain ⟨hregion, hframes, hnone, hfails, hmem, hswarm, hobj, hmot⟩ := failLoad_spec x { u with faults := f }
  have hsame (k : Nat) : getRegion { u with faults := f } k = getRegion s k := by rw [hu.1]; rfl
  have hcfg : u.frame.cfg = s.frame.cfg := by rw [hu.1]
  generalize failLoad x { u with faults := f } = v at heq hregion hframes hnone hfails hmem hswarm hobj hmot
  have hin {k : Nat} (hk : k ∈ x.regions) : getRegion v k = failedRegion (getRegion s k) := by rw [hregion, if_pos hk, hsame]
  refine ⟨_, exec_comes (b := true) rfl rfl heq, fun k hk => ?_, fun k hk => ?_, hnone, ?_, hframes, .of_staged hu hswarm hmem hobj hmot⟩
  · exact ⟨(congrArg Region.state (hin hk) :), (congrArg Region.open_ (hin hk) :)⟩
  · exact (hregion k).trans ((if_neg hk).trans (hsame k))
  · rw [← hcfg]
    exact hfails

/-- A segment that fits the image is fetched whole (R264). -/
theorem fetchSegment_whole {s : State} {x : FrameLoad} {o len : Nat} (hlen : leNat (memRead s (x.base + o) 16) 4 4 = len) (h16 : len % 16 = 0) (h64 : 64 ≤ len)
    (hmax : len ≤ 65536) (hfit : o + 32 + len ≤ x.size) : fetchSegment s x o = (memRead s (x.base + o) (len + 32), checksOk s (x.base + o) (len + 32)) := by
  unfold fetchSegment
  dsimp only
  rw [hlen, if_neg (by omega)]

/-- A good segment: the step commits its frame writes (R264, R268). -/
theorem exec_segmentChecked_commits {s : State} {x : FrameLoad} (hload : s.frame.cfg.load = some x) (hstage : x.stage = .loading) (hahead : x.ahead = none)
    {h payload tag : Bytes} {len : Nat} {ws : List (Nat × Bytes)} (hhead : memRead s (x.base + x.offset) 16 = h) (hlen : leNat h 4 4 = len)
    (hpay : memRead s (x.base + x.offset + 16) len = payload) (htag : memRead s (x.base + x.offset + 16 + len) 16 = tag)
    (hfit : x.offset + 32 + len ≤ x.size) (hseg : leNat h 0 4 = x.segment) (h16 : len % 16 = 0) (h64 : 64 ≤ len) (hmax : len ≤ 65536)
    (hz : zeroIn h 8 16 = true) (hchecks : checksOk s (x.base + x.offset) (len + 32) = true) (hplain : leNat x.header 6 1 = 0)
    (hkey : Sys2Proof.Config.sha384 (h ++ payload) = x.key) (hzero : tag.all (· == 0) = true)
    (hparse : parseRecords x.regions (len - 48 + 1) (payload.take (len - 48)) = some (ws, none)) (hlast : x.segment + 1 ≠ leNat x.header 16 4)
    (hn : x.writes + ws.length ≤ leNat x.header 20 4) :
    ∃ t a, exec .segmentChecked s = .next t ∧ t.frame.cfg = { s.frame.cfg with
        frames := ws.foldl (fun t w => Tbl.set (zeros 128) t w.1 w.2) s.frame.cfg.frames,
        load := some { x with segment := x.segment + 1, offset := x.offset + (len + 32), writes := x.writes + ws.length, key := payload.drop (len - 48), ahead := a } }
      ∧ LoadKept x s t ∧ t = { s with mem := t.mem, frame := { s.frame with cfg := t.frame.cfg }, free := s.free + 1 } := by
  have hwhole := fetchSegment_whole (hhead ▸ hlen) h16 h64 hmax hfit
  have hsplit : memRead s (x.base + x.offset) (len + 32) = h ++ (payload ++ tag) := by
    rw [show len + 32 = 16 + (len + 16) by omega, memRead_append, memRead_append, hhead, hpay, htag]
  have hpayload : payload.length = len := hpay ▸ memRead_length _ _ _
  have htext : segmentText x (fetchSegment s x x.offset).1 = some payload := by
    rw [hwhole, hsplit]
    exact segmentText_plain (hhead ▸ memRead_length _ _ _) (hpayload.trans hlen.symm) (htag ▸ memRead_length _ _ _) (hlen ▸ h16) (hlen ▸ h64) (hlen ▸ hmax)
      hseg hz hplain hkey hzero
  have hbody : (payload.take (len - 48)).length = len - 48 := by rw [List.length_take]; omega
  obtain ⟨u, hu, heq⟩ := segmentChecked_commits hload hstage hahead (hwhole ▸ hchecks) htext (by rw [hpayload]) (by rw [hpayload])
    (by rw [hbody]; exact hparse) hlast hn hplain
  obtain ⟨v, a, hv, hgoes⟩ := fetchAhead_goes
    { x with segment := x.segment + 1, offset := x.offset + (fetchSegment s x x.offset).1.length, writes := x.writes + ws.length, ahead := none,
             key := payload.drop (len - 48) }
    (setCfg u { s.frame.cfg with frames := ws.foldl (fun t w => Tbl.set (zeros 128) t w.1 w.2) s.frame.cfg.frames })
  have hcount : (fetchSegment s x x.offset).1.length = len + 32 := by rw [hwhole]; exact memRead_length _ _ _
  rw [hcount] at heq hgoes hv
  have hstaged := StagedOnly.trans (x := x) rfl (hu.configured _) hv
  refine ⟨_, a, exec_comes (b := true) rfl rfl (heq.trans hgoes), rfl, .goes_on hstaged, ?_⟩
  rw [hstaged.1]
  rfl

end Sys2Proof.Machine
end

section
/-! The drain of a partial load and the release of its regions (R240, R274). -/

namespace Sys2Proof.Machine

/-! ### Regions that begin to load -/

/-- A region as it begins to load (R270, R274). -/
def loadingRegion (x : FrameLoad) (k : Nat) (r : Region) : Region :=
  { r with state := if x.regions.contains k then .loading else .blank, open_ := false,
           imageId := if x.regions.contains k then le64 x.header 8 else r.imageId }

theorem getRegion_beginLoading (x : FrameLoad) (l : List Nat) (s : State) (j : Nat) :
    getRegion (beginLoading x l s) j = if j ∈ l then loadingRegion x j (getRegion s j) else getRegion s j := by
  refine getRegion_changeRegions (f := loadingRegion x) (fun k r => ?_) l s j
  unfold loadingRegion
  cases x.regions.contains k <;> rfl

/-- Regions that begin to load write the regions, the load and the frames (R270, R274). -/
theorem beginLoading_rest (x : FrameLoad) (l : List Nat) (s : State) : ∃ r, beginLoading x l s = { s with frame := { s.frame with
    regions := r, cfg := { s.frame.cfg with load := some { x with stage := .loading }, frames := l.foldl blankRegion s.frame.cfg.frames } } } := by
  have h := congrArg (fun t : State => setCfg t { t.frame.cfg with load := some { x with stage := .loading }, frames := l.foldl blankRegion t.frame.cfg.frames })
    (changeRegions_rest (loadingRegion x) l s)
  exact ⟨_, h⟩

/-! ### Answers of a drain -/

@[simp] theorem replyTo_apartFromWires (d r : Nat) (h : PacketHeader) (cls : BitVec 4) (status : W16) (retry : Bool) (l : Bytes) (s : State) :
    apartFromWires (replyTo d r h cls status retry l s) = apartFromWires s := by
  unfold replyTo sendAway
  split
  · exact linkSend_apartFromWires _ _ _
  · rfl

/-- What the answer of a TGT request keeps: memory, channels, the configuration controller and the held writes. -/
def drainKept (s : State) : Memory × Tbl Channel × Config × List (W32 × Nat × Nat × Bytes) :=
  (s.mem, s.frame.channels, s.frame.cfg, s.keeper.heldWrites)

/-- A region that waits for nothing. -/
def Quiet (k : Nat) (s : State) : Prop := (getRegion s k).outstanding = [] ∧ (getRegion s k).tgt = []

theorem quiet_setRegion {j k : Nat} {s : State} {r : Region} (hr : j = k → r.outstanding = [] ∧ r.tgt = []) (h : Quiet j s) : Quiet j (setRegion s k r) := by
  by_cases hj : j = k
  · subst hj
    rw [Quiet, getRegion_setRegion]
    exact hr rfl
  · rw [Quiet, getRegion_setRegion_ne s k r j hj]
    exact h

theorem tgtAnswered_kept_drain (k : Nat) (q : TgtPending) (c : W16) (l : Bytes) (s : State) : drainKept (tgtAnswered k q c l s) = drainKept s := by
  unfold tgtAnswered
  dsimp only
  cases q.owner with
  | net h =>
    refine ite_keeps rfl ?_
    exact (congrArg drainKept (replyTo_apartFromWires _ _ _ _ _ _ _ _) :)
  | host n => rfl
  | port j tag => rfl
  | cell d c => rfl
  | copy n d => rfl

theorem quiet_tgtAnswered {j : Nat} (k : Nat) (q : TgtPending) (c : W16) (l : Bytes) {s : State} (h : Quiet j s) : Quiet j (tgtAnswered k q c l s) := by
  have hasked : Quiet j (setRegion s k { getRegion s k with tgtAnswer := some (q.src, c, if q.write ∨ c ≠ 0 then [] else l) }) :=
    quiet_setRegion (fun hj => hj ▸ h) h
  unfold tgtAnswered
  dsimp only
  generalize setRegion s k _ = t at hasked
  cases q.owner with
  | net n =>
    dsimp only
    split
    · exact hasked
    · exact ((congrArg (Quiet j) (replyTo_apartFromWires _ _ _ _ _ _ _ _)).mpr hasked :)
  | host n => exact hasked
  | port i tag =>
    obtain ⟨hout, htgt⟩ := hasked
    refine quiet_setRegion (fun hj => ?_) ⟨hout, htgt⟩
    subst hj
    exact ⟨by rw [hout]; rfl, htgt⟩
  | cell d c => exact hasked
  | copy n d => exact hasked

/-- A region left without requests. -/
def emptiedRegion (r : Region) : Region := { r with outstanding := [], tgt := [] }

/-- A region drained (R274): what it still owes is answered 0x5003, and it waits for nothing. -/
def drainRegion (s : State) (k : Nat) : State :=
  ((getRegion s k).tgt.filter (fun q => !q.late)).foldl (fun s q => tgtAnswered k q 0x5003 [] s)
    (setRegion s k (emptiedRegion (getRegion s k)))

theorem drainRegion_kept (s : State) (k : Nat) : drainKept (drainRegion s k) = drainKept s :=
  foldl_keeps drainKept (f := fun s q => tgtAnswered k q 0x5003 [] s) (fun t q => tgtAnswered_kept_drain k q 0x5003 [] t) _ _

theorem quiet_drainRegion {j k : Nat} {s : State} (h : j = k ∨ Quiet j s) : Quiet j (drainRegion s k) := by
  refine foldl_preserves (f := fun s q => tgtAnswered k q 0x5003 [] s) (fun t q ht => quiet_tgtAnswered k q 0x5003 [] ht) _ ?_
  rcases h with rfl | h
  · rw [Quiet, getRegion_setRegion]
    exact ⟨rfl, rfl⟩
  · exact quiet_setRegion (fun _ => ⟨rfl, rfl⟩) h

/-- A region whose requests have all been answered by the timeout is left without them, and nothing else changes. -/
theorem drainRegion_late {s : State} {k : Nat} (h : ∀ q ∈ (getRegion s k).tgt, q.late = true) :
    drainRegion s k = setRegion s k (emptiedRegion (getRegion s k)) := by
  unfold drainRegion
  rw [List.filter_eq_nil_iff.mpr (fun q hq => by simp [h q hq])]
  rfl

theorem drainRegions_late (l : List Nat) {s : State} (h : ∀ k ∈ l, ∀ q ∈ (getRegion s k).tgt, q.late = true) :
    l.foldl drainRegion s = changeRegions (fun _ => emptiedRegion) l s := by
  induction l generalizing s with
  | nil => rfl
  | cons k l ih =>
    unfold changeRegions
    rw [List.foldl_cons, List.foldl_cons, drainRegion_late (h k (List.mem_cons_self ..))]
    refine ih (fun j hj q hq => ?_)
    by_cases hjk : j = k
    · subst hjk
      simp [emptiedRegion] at hq
    · rw [getRegion_setRegion_ne _ _ _ _ hjk] at hq
      exact h j (List.mem_cons_of_mem _ hj) q hq

theorem regionDrainEnd_drains {s : State} {x : FrameLoad} (hload : s.frame.cfg.load = some x) (hstage : x.stage = .draining) :
    regionDrainEnd s = beginLoading x x.regions (x.regions.foldl drainRegion s) := by
  unfold regionDrainEnd
  simp only [hload, hstage, if_true]
  rfl

theorem releaseWrites_nil {s : State} (h : s.keeper.heldWrites = []) : releaseWrites s = s := by
  unfold releaseWrites
  rw [h, List.foldl_nil, ← h]

/-- The end of a drain (R274). -/
theorem exec_regionDrainEnd {s : State} {x : FrameLoad} (hload : s.frame.cfg.load = some x) (hstage : x.stage = .draining) (hheld : s.keeper.heldWrites = []) :
    ∃ t, exec .regionDrainEnd s = .next t
      ∧ (∀ k, k ∈ x.regions → (getRegion t k).state = .loading ∧ (getRegion t k).open_ = false ∧ (getRegion t k).outstanding = [] ∧ (getRegion t k).tgt = [])
      ∧ t.frame.cfg.load = some { x with stage := .loading }
      ∧ (∀ a, a / 2 ^ 21 ∈ x.regions → Tbl.get (zeros 128) t.frame.cfg.frames a = zeros 128) ∧ t.mem = s.mem ∧ t.frame.channels = s.frame.channels
      ∧ ((∀ k ∈ x.regions, ∀ q ∈ (getRegion s k).tgt, q.late = true) → (∀ k, k ∉ x.regions → getRegion t k = getRegion s k) ∧ t.obj = s.obj) := by
  have hkept : drainKept (x.regions.foldl drainRegion s) = drainKept s := foldl_keeps drainKept drainRegion_kept _ _
  have hquiet {k : Nat} (hk : k ∈ x.regions) : Quiet k (x.regions.foldl drainRegion s) :=
    foldl_reaches (P := Quiet k) (f := drainRegion) (fun _ _ h => quiet_drainRegion (.inr h)) (fun _ => quiet_drainRegion (.inl rfl)) hk s
  have hlate (h : ∀ k ∈ x.regions, ∀ q ∈ (getRegion s k).tgt, q.late = true) := drainRegions_late x.regions h
  have hrun := regionDrainEnd_drains hload hstage
  generalize x.regions.foldl drainRegion s = u at hkept hquiet hlate hrun
  obtain ⟨hmem, hchan, hcfg, hwrites⟩ : u.mem = s.mem ∧ u.frame.channels = s.frame.channels ∧ u.frame.cfg = s.frame.cfg
      ∧ u.keeper.heldWrites = s.keeper.heldWrites := by simpa [drainKept] using hkept
  have hregion := getRegion_beginLoading x x.regions u
  obtain ⟨r, hbegin⟩ := beginLoading_rest x x.regions u
  generalize beginLoading x x.regions u = v at hregion hbegin hrun
  have hnone : v.keeper.heldWrites = [] := by rw [hbegin]; exact hwrites.trans hheld
  have hframes (a : Nat) (ha : a / 2 ^ 21 ∈ x.regions) : Tbl.get (zeros 128) v.frame.cfg.frames a = zeros 128 := by
    rw [hbegin]
    exact (get_blankRegions _ _ _).trans (if_pos ha)
  refine ⟨_, exec_comes (b := true) rfl rfl ((congrArg releaseWrites hrun).trans (releaseWrites_nil hnone)), fun k hk => ?_, by rw [hbegin], hframes,
    by rw [hbegin]; exact hmem, by rw [hbegin]; exact hchan, fun h => ?_⟩
  · have hin : getRegion v k = loadingRegion x k (getRegion u k) := (hregion k).trans (if_pos hk)
    obtain ⟨hout, htgt⟩ := hquiet hk
    refine ⟨(congrArg Region.state hin :).trans (if_pos (List.contains_iff_mem.mpr hk)), (congrArg Region.open_ hin :), ?_, ?_⟩
    · exact (congrArg Region.outstanding hin :).trans hout
    · exact (congrArg Region.tgt hin :).trans htgt
  · have hu := hlate h
    refine ⟨fun k hk => ?_, ?_⟩
    · have hsame : getRegion u k = getRegion s k := by
        rw [hu]
        exact (getRegion_changeRegions (f := fun _ => emptiedRegion) (fun _ _ => rfl) _ _ _).trans (if_neg hk)
      exact ((hregion k).trans (if_neg hk)).trans hsame
    · rw [hbegin, hu, changeRegions_rest]

/-! ### Release -/

/-- A region released (R274). -/
def releasedRegion (r : Region) : Region := { r with state := .running, open_ := true }

/-- The regions of a load released, and the load over (R274). -/
def releasedLoad (x : FrameLoad) (s : State) : State :=
  setCfg (changeRegions (fun _ => releasedRegion) x.regions s) { (changeRegions (fun _ => releasedRegion) x.regions s).frame.cfg with load := none }

/-- 1 ms after the last commit the regions of a partial load run (R274). -/
theorem exec_regionResetRelease {s : State} {x : FrameLoad} (hload : s.frame.cfg.load = some x) (hstage : x.stage = .releasing) :
    ∃ t, exec .regionResetRelease s = .next t ∧ (∀ k, k ∈ x.regions → (getRegion t k).state = .running ∧ (getRegion t k).open_ = true)
      ∧ (∀ k, k ∉ x.regions → getRegion t k = getRegion s k) ∧ t.frame.cfg = { s.frame.cfg with load := none } ∧ t.mem = s.mem ∧ t.obj = s.obj := by
  have hregion := getRegion_changeRegions (f := fun _ => releasedRegion) (fun _ _ => rfl) x.regions s
  have hreleased : (releasedLoad x s).frame.regions = (changeRegions (fun _ => releasedRegion) x.regions s).frame.regions
      ∧ (releasedLoad x s).frame.cfg = { s.frame.cfg with load := none } ∧ (releasedLoad x s).mem = s.mem ∧ (releasedLoad x s).obj = s.obj := by
    unfold releasedLoad
    rw [changeRegions_rest]
    exact ⟨rfl, rfl, rfl, rfl⟩
  have hrun : ∃ t, regionResetRelease s = t ∧ t.frame.regions = (changeRegions (fun _ => releasedRegion) x.regions s).frame.regions
      ∧ t.frame.cfg = { s.frame.cfg with load := none } ∧ t.mem = s.mem ∧ t.obj = s.obj := by
    cases hcmd : x.cmd with
    | none =>
      have hfree : regionResetRelease s = releasedLoad x s := by
        unfold regionResetRelease
        simp only [hload, hstage, if_true, hcmd]
        rfl
      exact ⟨_, hfree, hreleased⟩
    | some k =>
      have hdone : regionResetRelease s = finishCmd k 0 (toLE 8 (releasedLoad x s).swarm.time.toNat) (releasedLoad x s) := by
        unfold regionResetRelease
        simp only [hload, hstage, if_true, hcmd]
        rfl
      exact ⟨_, hdone, hreleased⟩
  obtain ⟨t, ht, hregions, hcfg, hmem, hobj⟩ := hrun
  have hget (k : Nat) : getRegion t k = if k ∈ x.regions then releasedRegion (getRegion s k) else getRegion s k := by
    rw [getRegion, hregions]
    exact hregion k
  refine ⟨_, exec_comes (b := true) rfl rfl ht, fun k hk => ?_, fun k hk => (hget k).trans (if_neg hk), hcfg, hmem, hobj⟩
  have hin : getRegion t k = releasedRegion (getRegion s k) := (hget k).trans (if_pos hk)
  exact ⟨(congrArg Region.state hin :), (congrArg Region.open_ hin :)⟩

end Sys2Proof.Machine
end

section
/-! FRAME_LOAD and FRAME_READBACK as commands, and the obligation (R267, R270, R273, R278, R279). -/

namespace Sys2Proof.Machine

/-! ### FRAME_LOAD -/

/-- A start request runs: the DONE line is released (R273). -/
def requestStart (c : CmdRef) (s : State) : State := setCfg s { s.frame.cfg with driving := false, startRequest := some c }

/-- The start request (R273). -/
theorem frameLoad_requests {r : Req} {s : State} (hmask : leNat r.p 4 1 = 0) (hmode : byteAt r.p 5 = 0) (hobj : le32 r.p 0 = 0)
    (hdie : (getDie s 4).state = .inService) (hheld : ∃ k, k < 7 ∧ (getRegion s k).state = .held) (hfree : frameBusy s = false)
    (hp : pendingFull s r.m = false) : frameLoad r s = accepted r requestStart s := by
  have hany : (upFrom 0 7).any (fun k => (getRegion s k).state == .held) = true := by
    obtain ⟨k, hk, hstate⟩ := hheld
    exact List.any_eq_true.mpr ⟨k, mem_upFrom.mpr (by omega), by rw [hstate]; rfl⟩
  unfold frameLoad
  simp only [hmask, hmode, hobj]
  rw [if_neg (by decide), if_pos (by decide), if_neg (not_not.mpr hdie), if_neg (by simp [hfree, hany]), acceptOr_free hp]
  rfl

/-- The static region is of the mask where bit 0 is set (R262). -/
theorem zero_mem_maskRegions {mask : Nat} (h : mask % 2 = 1) : 0 ∈ maskRegions mask := by
  simp [maskRegions, mem_upFrom, h]

/-- A full start of an image that its mailbox may load (R267). -/
theorem frameLoad_loads {r : Req} {s : State} (hmask : leNat r.p 4 1 < 128) (hstatic : leNat r.p 4 1 % 2 = 1) (hmode : byteAt r.p 5 = 0 ∨ byteAt r.p 5 = 2)
    (hkind : (getMot s (field (le32 r.p 0) 15 0)).kind = 1) (hgen : (getMot s (field (le32 r.p 0) 15 0)).gen.toNat = field (le32 r.p 0) 31 16)
    (hread : bitOf (getMot s (field (le32 r.p 0) 15 0)).perm 0 = true) (hmine : mineObj r s (getMot s (field (le32 r.p 0) 15 0)) = true)
    (hreset : (localCtx s (getMot s (field (le32 r.p 0) 15 0)).owner.toNat).any (fun c => inReset (getCtx s c)) = false)
    (hdie : (getDie s 4).state = .inService) (hfree : frameBusy s = false)
    (hup : ∀ k ∈ maskRegions (leNat r.p 4 1), (getDom s (regionDomain k)).state = .up) (hp : pendingFull s r.m = false) :
    frameLoad r s = accepted r (beginLoad (getMot s (field (le32 r.p 0) 15 0)) (leNat r.p 4 1) (leNat r.p 6 1) false (bitOf (byteAt r.p 5) 1)) s := by
  have hpart : bitOf (byteAt r.p 5) 0 = false ∧ field (byteAt r.p 5) 7 2 = 0 := by rcases hmode with h | h <;> rw [h] <;> decide
  have hdoms : (maskRegions (leNat r.p 4 1)).any (fun k => (getDom s (regionDomain k)).state != .up) = false := by
    simpa using hup
  have hres := resolve_live (s := s) (h := le32 r.p 0) (by rw [hkind]; decide) hgen
  unfold frameLoad
  dsimp only
  rw [if_neg (by simp [hpart.2]; omega), if_neg (fun h => by simp [h.1] at hstatic), if_neg (fun h => by simp [h.1] at hstatic), hres]
  dsimp only
  rw [if_neg (by simp [hkind, hread, hmine]), hreset, if_neg Bool.false_ne_true, if_neg (not_not.mpr hdie),
    if_neg (by simp [hfree, hdoms, zero_mem_maskRegions hstatic, hpart.1]), acceptOr_free hp, hpart.1]

/-- A load as it is accepted: a full start (R270). -/
def fullLoad (cmd : Option CmdRef) (base size mask : Nat) (hold : Bool) (header key : Bytes) (staging : Option Nat) : FrameLoad :=
  { cmd := cmd, base := base, size := size, part := false, hold := hold, header := header, key := key, regions := maskRegions mask, stage := .loading,
    staging := staging }

/-- The DONE line driven for a full start (R270). -/
def drivesDone (s : State) : State := setCfg s { s.frame.cfg with driving := true, startAt := none }

/-- What the header check reads is not the DONE line (R263). -/
theorem headerCheck_drivesDone (s : State) (h : Bytes) (size keySource mask : Nat) :
    headerCheck (drivesDone s) h size keySource mask = headerCheck s h size keySource mask := rfl

/-- A full start with a bad header ends with its code (R267, R279). -/
theorem startLoad_bad {c : CmdRef} {base size keySource mask : Nat} {hold : Bool} {s : State} {code : W16}
    (hcode : (headerCheck s (memRead s base (min size 256)) size keySource mask).1 = code) (h : code ≠ 0) :
    startLoad (some c) base size keySource mask false hold s
      = endLoad (fullLoad (some c) base size mask hold (memRead s base (min size 256)) [] none) code (drivesDone s) := by
  subst hcode
  unfold startLoad
  exact if_pos h

/-- A full start with a good header begins to load, with a staging buffer where there is room (R76, R270). -/
theorem startLoad_good {c : CmdRef} {base size keySource mask : Nat} {hold : Bool} {s : State}
    (h : (headerCheck s (memRead s base (min size 256)) size keySource mask).1 = 0) :
    startLoad (some c) base size keySource mask false hold s
      = beginLoading (fullLoad (some c) base size mask hold (memRead s base (min size 256))
          (headerCheck s (memRead s base (min size 256)) size keySource mask).2 (keeperObject (2 * 65792) (drivesDone s)).2) (upFrom 0 7)
          (stopStreams (upFrom 0 7) (keeperObject (2 * 65792) (drivesDone s)).1) := by
  have hsame := headerCheck_drivesDone s (memRead s base (min size 256)) size keySource mask
  unfold startLoad
  simp only [Bool.false_eq_true, if_false, ← drivesDone.eq_1, hsame]
  generalize headerCheck s (memRead s base (min size 256)) size keySource mask = checked at h
  generalize keeperObject (2 * 65792) (drivesDone s) = made
  exact if_neg (not_not.mpr h)

/-- A Keeper system object made, or no room for it (R76, R323). -/
theorem keeperObject_spec (n : Nat) (s : State) :
    (keeperObject n s).1 = { s with obj := { s.obj with mot := (keeperObject n s).1.obj.mot } }
      ∧ (∀ i, (getMot s i).kind ≠ 0 → getMot (keeperObject n s).1 i = getMot s i)
      ∧ ∀ i, (keeperObject n s).2 = some i →
          (getMot (keeperObject n s).1 i).kind = 5 ∧ (getMot (keeperObject n s).1 i).lock = 2 ∧ (getMot (keeperObject n s).1 i).size = (n + 255) / 256 := by
  unfold keeperObject
  cases hfree : freeEntry s with
  | none => exact ⟨rfl, fun _ _ => rfl, nofun⟩
  | some f =>
    cases placeLpddr s 0 (256 * ((n + 255) / 256)) with
    | none => exact ⟨rfl, fun _ _ => rfl, nofun⟩
    | some a =>
      refine ⟨rfl, fun i hi => getMot_setMot_ne s f _ i (fun e => hi (e ▸ freeEntry_kind hfree)), fun i hi => ?_⟩
      obtain rfl := Option.some.inj hi
      rw [keeperEntry, getMot_setMot]
      exact ⟨rfl, rfl, rfl⟩

/-- Streams stopped write the channels alone (R274). -/
theorem stopStreams_rest (ks : List Nat) (s : State) : ∃ x, stopStreams ks s = { s with frame := { s.frame with channels := x } } := ⟨_, rfl⟩

/-- A full start with a good header blanks every region and begins to load those named (R267, R268, R270). -/
theorem startLoad_loads {c : CmdRef} {base size keySource mask : Nat} {hold : Bool} {s : State}
    (h : (headerCheck s (memRead s base (min size 256)) size keySource mask).1 = 0) :
    ∃ v, startLoad (some c) base size keySource mask false hold s = v
      ∧ (∀ k, k < 7 → (getRegion v k).state = (if k ∈ maskRegions mask then .loading else .blank) ∧ (getRegion v k).open_ = false
          ∧ (getRegion v k).bindContext = (getRegion s k).bindContext)
      ∧ (∀ a, a < 7 * 2 ^ 21 → Tbl.get (zeros 128) v.frame.cfg.frames a = zeros 128)
      ∧ v.frame.cfg.load.map (·.stage) = some .loading ∧ v.frame.cfg.load.map (·.regions) = some (maskRegions mask) ∧ v.mem = s.mem
      ∧ v.obj = { s.obj with mot := v.obj.mot } ∧ (∀ i, (getMot s i).kind ≠ 0 → getMot v i = getMot s i)
      ∧ (∀ i, v.frame.cfg.load.bind (·.staging) = some i → (getMot v i).kind = 5 ∧ (getMot v i).lock = 2 ∧ (getMot v i).size = 514)
      ∧ v.swarm = s.swarm := by
  refine ⟨_, startLoad_good h, ?_⟩
  generalize (headerCheck s (memRead s base (min size 256)) size keySource mask).2 = key
  obtain ⟨hrest, hlive, hnew⟩ := keeperObject_spec (2 * 65792) (drivesDone s)
  generalize keeperObject (2 * 65792) (drivesDone s) = made at hrest hlive hnew
  obtain ⟨t, staging⟩ := made
  dsimp only at hrest hlive hnew ⊢
  obtain ⟨ch, hstop⟩ := stopStreams_rest (upFrom 0 7) t
  generalize hload : fullLoad (some c) base size mask hold (memRead s base (min size 256)) key staging = x
  have hregions : x.regions = maskRegions mask := by rw [← hload]; rfl
  have hstaging : x.staging = staging := by rw [← hload]; rfl
  have hsame (k : Nat) : getRegion (stopStreams (upFrom 0 7) t) k = getRegion s k := by rw [hstop, hrest]; rfl
  have hget := getRegion_beginLoading x (upFrom 0 7) (stopStreams (upFrom 0 7) t)
  obtain ⟨r, hbegin⟩ := beginLoading_rest x (upFrom 0 7) (stopStreams (upFrom 0 7) t)
  generalize beginLoading x (upFrom 0 7) (stopStreams (upFrom 0 7) t) = v at hget hbegin
  have hvload : v.frame.cfg.load = some { x with stage := .loading } := by rw [hbegin]
  have hmot (i : Nat) : getMot v i = getMot t i := by rw [hbegin, hstop]; rfl
  refine ⟨fun k hk => ?_, fun a ha => ?_, by rw [hvload]; rfl, by rw [hvload, ← hregions]; rfl, ?_, ?_, fun i hi => (hmot i).trans (hlive i hi), fun i hi => ?_, ?_⟩
  · have hin : getRegion v k = loadingRegion x k (getRegion s k) := (hget k).trans ((if_pos (mem_upFrom.mpr (by omega))).trans (by rw [hsame]))
    rw [hin, ← hregions]
    exact ⟨if_congr List.contains_iff_mem rfl rfl, rfl, rfl⟩
  · rw [hbegin]
    exact (get_blankRegions _ _ _).trans (if_pos (mem_upFrom.mpr (by omega)))
  · rw [hbegin, hstop, hrest]
    rfl
  · rw [hbegin, hstop, hrest]
    rfl
  · rw [hmot]
    refine hnew i ?_
    rw [hvload] at hi
    exact hstaging ▸ hi
  · rw [hbegin, hstop, hrest]
    rfl

/-- A full start with a bad header changes the configuration controller and the outcome of its command alone (R279). -/
theorem startLoad_ends {c : CmdRef} {base size keySource mask : Nat} {hold : Bool} {s : State}
    (h : (headerCheck s (memRead s base (min size 256)) size keySource mask).1 ≠ 0)
    (hwaits : { opcode := c.opcode, tag := c.tag, result := none } ∈ (getMbx s c.m).accepted) :
    ∃ v, startLoad (some c) base size keySource mask false hold s = v ∧ v.frame.regions = s.frame.regions ∧ v.frame.cfg.load = none
      ∧ v.frame.cfg.loadFails = satAdd s.frame.cfg.loadFails 1
      ∧ { opcode := c.opcode, tag := c.tag,
          result := some { status := (headerCheck s (memRead s base (min size 256)) size keySource mask).1, time := s.swarm.time, extra := [] } }
            ∈ (getMbx v c.m).accepted
      ∧ v.mem = s.mem ∧ v.obj = s.obj ∧ v.swarm = s.swarm := by
  refine ⟨_, startLoad_bad rfl h, ?_⟩
  generalize (headerCheck s (memRead s base (min size 256)) size keySource mask).1 = code
  exact ⟨rfl, rfl, rfl, mem_accepted_finishCmd hwaits, rfl, rfl, rfl⟩

/-- A load of no retired region starts (R288). -/
theorem beginLoad_starts {e : MotEntry} {mask key : Nat} {hold : Bool} {c : CmdRef} {s : State} (hkind : e.kind = 1)
    (h : ∀ k ∈ maskRegions mask, isRetired s 7 (s.swarm.node * 7 + k) = false) :
    beginLoad e mask key false hold c s = startLoad (some c) e.base (256 * e.size) key mask false hold s := by
  have hany : (maskRegions mask).any (fun k => isRetired s 7 (s.swarm.node * 7 + k)) = false := by simpa using h
  have hbytes : motBytes e = 256 * e.size := if_neg (by rw [hkind]; decide)
  unfold beginLoad
  rw [hany, hbytes]
  rfl

/-! ### FRAME_READBACK -/

/-- The frames of the regions named that are found different. -/
def upsetIn (mask : Nat) (upset : List Nat) : List Nat :=
  (upset.filter (fun a => (maskRegions mask).contains (a / 2 ^ 21) && a % 2 ^ 21 < regionFrames (a / 2 ^ 21))).eraseDups

/-- A readback runs (R278). -/
def readBack (mask : Nat) (upset : List Nat) (c : CmdRef) (s : State) : State :=
  finishCmd c 0 (toLE 4 (upsetIn mask upset).length) ((upsetIn mask upset).foldl (fun s a => frameMismatch a s) s)

theorem frameReadback_reads {r : Req} {s : State} {upset : List Nat} (hmask : leNat r.p 0 1 < 128) (hdie : (getDie s 4).state = .inService)
    (hfree : frameBusy s = false) (hruns : ∀ k ∈ maskRegions (leNat r.p 0 1), (getRegion s k).state = .running ∨ (getRegion s k).state = .held)
    (hp : pendingFull s r.m = false) : frameReadback upset r s = accepted r (readBack (leNat r.p 0 1) upset) s := by
  have hany : (maskRegions (leNat r.p 0 1)).any (fun k => (getRegion s k).state != .running && (getRegion s k).state != .held) = false := by
    refine List.any_eq_false.mpr (fun k hk => ?_)
    rcases hruns k hk with h | h <;> rw [h] <;> decide
  unfold frameReadback
  dsimp only
  rw [if_neg (by omega), if_neg (not_not.mpr hdie), if_neg (by simp [hfree, hany]), acceptOr_free hp]
  rfl

theorem readBack_good (mask : Nat) (c : CmdRef) (s : State) : readBack mask [] c s = finishCmd c 0 (toLE 4 0) s := rfl

/-- One frame found different is counted, whatever becomes of its region (R278). -/
theorem frameMismatch_spec (a : Nat) (s : State) : (frameMismatch a s).frame.cfg.mismatches = satAdd s.frame.cfg.mismatches 1
    ∧ (frameMismatch a s).mem = s.mem ∧ (frameMismatch a s).swarm = s.swarm ∧ (frameMismatch a s).keeper = s.keeper := by
  unfold frameMismatch
  extract_lets
  split
  · exact ⟨rfl, rfl, rfl, rfl⟩
  · exact ⟨rfl, rfl, rfl, rfl⟩

theorem upsetIn_one {mask a : Nat} (hk : a / 2 ^ 21 ∈ maskRegions mask) (ha : a % 2 ^ 21 < regionFrames (a / 2 ^ 21)) : upsetIn mask [a] = [a] := by
  have hcontains : (maskRegions mask).contains (a / 2 ^ 21) = true := List.contains_iff_mem.mpr hk
  have hfilter : [a].filter (fun a => (maskRegions mask).contains (a / 2 ^ 21) && a % 2 ^ 21 < regionFrames (a / 2 ^ 21)) = [a] := by
    rw [List.filter_cons_of_pos (by rw [hcontains, Bool.true_and]; exact decide_eq_true ha)]
    rfl
  rw [upsetIn, hfilter]
  rfl

/-- A readback that finds one frame different (R278). -/
theorem readBack_one {mask a : Nat} {c : CmdRef} {s : State} (hk : a / 2 ^ 21 ∈ maskRegions mask) (ha : a % 2 ^ 21 < regionFrames (a / 2 ^ 21))
    (hwaits : { opcode := c.opcode, tag := c.tag, result := none } ∈ (getMbx s c.m).accepted) :
    ∃ v, readBack mask [a] c s = v ∧ v.frame.cfg.mismatches = satAdd s.frame.cfg.mismatches 1
      ∧ { opcode := c.opcode, tag := c.tag, result := some { status := 0, time := s.swarm.time, extra := toLE 4 1 } } ∈ (getMbx v c.m).accepted
      ∧ v.mem = s.mem ∧ v.swarm = s.swarm := by
  obtain ⟨hcount, hmem, hswarm, hkeeper⟩ := frameMismatch_spec a s
  have hone : readBack mask [a] c s = finishCmd c 0 (toLE 4 1) (frameMismatch a s) := by
    rw [readBack, upsetIn_one hk ha]
    rfl
  refine ⟨_, hone, hcount, ?_, hmem, hswarm⟩
  have hmbx : getMbx (frameMismatch a s) c.m = getMbx s c.m := (congrArg (fun k => Tbl.get {} k.mbx c.m) hkeeper :)
  rw [← hswarm]
  exact mem_accepted_finishCmd (hmbx.symm ▸ hwaits)

/-! ### The answers -/

theorem acceptedState_swarm (s : State) (m : Nat) : (acceptedState s m).swarm = s.swarm := by
  obtain ⟨-, -, -, -, h, -⟩ := acceptedState_rest s m
  exact h

section
variable {m : Nat} {s : State}

/-- A start request is accepted, and releases the DONE line (R273). -/
theorem answers_startRequest (h : askedLong 0x0501 m s = true) (hmask : leNat (reqOf s m).p 4 1 = 0) (hmode : byteAt (reqOf s m).p 5 = 0)
    (hobj : le32 (reqOf s m).p 0 = 0) (hdie : (getDie s 4).state = .inService) (hheld : ∃ k, k < 7 ∧ (getRegion s k).state = .held)
    (hfree : frameBusy (taken s m) = false) : answersWith (.frameLoad m) m s 1 []
      (setCfg (acceptedState s m) { s.frame.cfg with driving := false, startRequest := some (refOf s m) }) := by
  obtain ⟨hask, hroom⟩ := askedLong_iff.mp h
  have haccepts := frameLoad_requests (r := reqOf s m) (s := taken s m) hmask hmode hobj hdie hheld hfree hroom
  have hcfg : (acceptedState s m).frame = s.frame := rfl
  have hstart : requestStart (refOf s m) (acceptedState s m)
      = setCfg (acceptedState s m) { s.frame.cfg with driving := false, startRequest := some (refOf s m) } := by
    rw [requestStart, hcfg]
  exact answers_of_run (.frameLoad m) rfl hask haccepts hstart (congrArg Swarm.node (acceptedState_swarm s m))

/-- A full start that may be loaded is accepted, and does what a load of no retired region does (R267, R270). -/
theorem answers_fullLoad {e : MotEntry} {mask : Nat} {v : State} (h : askedLong 0x0501 m s = true) (he : getMot s (field (le32 (reqOf s m).p 0) 15 0) = e)
    (hmask : leNat (reqOf s m).p 4 1 = mask) (h128 : mask < 128) (hstatic : mask % 2 = 1) (hmode : byteAt (reqOf s m).p 5 = 0 ∨ byteAt (reqOf s m).p 5 = 2)
    (hkind : e.kind = 1) (hgen : e.gen.toNat = field (le32 (reqOf s m).p 0) 31 16) (hread : bitOf e.perm 0 = true)
    (hmine : m = 0 ∨ (field e.creator 6 2 = m ∧ field e.creator 1 0 = s.swarm.node))
    (hreset : (localCtx s e.owner.toNat).any (fun c => inReset (getCtx s c)) = false) (hdie : (getDie s 4).state = .inService)
    (hfree : frameBusy (taken s m) = false) (hup : ∀ k ∈ maskRegions mask, (getDom s (regionDomain k)).state = .up)
    (hret : ∀ k ∈ maskRegions mask, isRetired s 7 (s.swarm.node * 7 + k) = false)
    (hv : startLoad (some (refOf s m)) e.base (256 * e.size) (leNat (reqOf s m).p 6 1) mask false (bitOf (byteAt (reqOf s m).p 5) 1) (acceptedState s m) = v)
    (hto : v.swarm = (acceptedState s m).swarm) : answersWith (.frameLoad m) m s 1 [] v := by
  obtain ⟨hask, hroom⟩ := askedLong_iff.mp h
  subst he hmask
  have haccepts := frameLoad_loads (r := reqOf s m) (s := taken s m) h128 hstatic hmode hkind hgen hread (mineObj_of (hmine.imp_right And.symm)) hreset hdie
    hfree hup hroom
  have hstarts := (beginLoad_starts (key := leNat (reqOf s m).p 6 1) (hold := bitOf (byteAt (reqOf s m).p 5) 1) (c := refOf s m)
    (s := acceptedState s m) hkind hret).trans hv
  exact answers_of_run (.frameLoad m) rfl hask haccepts hstarts (congrArg Swarm.node (hto.trans (acceptedState_swarm s m)))

section
variable {base size keySource mask : Nat} {hold : Bool}
  {checked : W16 × Bytes} (hchecked : headerCheck (acceptedState s m) (memRead (acceptedState s m) base (min size 256)) size keySource mask = checked)
  (hanswers : ∀ v, startLoad (some (refOf s m)) base size keySource mask false hold (acceptedState s m) = v → v.swarm = (acceptedState s m).swarm →
    answersWith (.frameLoad m) m s 1 [] v)
include hchecked hanswers

/-- The answer and the outcome of a full start with a good header (R268, R270). -/
theorem answers_goodLoad (h : checked.1 = 0) :
    ∃ v, answersWith (.frameLoad m) m s 1 [] v
      ∧ (∀ k, k < 7 → (getRegion v k).state = (if k ∈ maskRegions mask then .loading else .blank) ∧ (getRegion v k).open_ = false
          ∧ (getRegion v k).bindContext = (getRegion s k).bindContext)
      ∧ (∀ a, a < 7 * 2 ^ 21 → Tbl.get (zeros 128) v.frame.cfg.frames a = zeros 128)
      ∧ v.frame.cfg.load.map (·.stage) = some .loading ∧ v.frame.cfg.load.map (·.regions) = some (maskRegions mask) ∧ v.mem = s.mem
      ∧ v.obj = { s.obj with mot := v.obj.mot } ∧ (∀ i, (getMot s i).kind ≠ 0 → getMot v i = getMot s i)
      ∧ (∀ i, v.frame.cfg.load.bind (·.staging) = some i → (getMot v i).kind = 5 ∧ (getMot v i).lock = 2 ∧ (getMot v i).size = 514) := by
  obtain ⟨hobj, hmem, -, -, -, -⟩ := acceptedState_rest s m
  subst hchecked
  obtain ⟨v, hv, hregions, hframes, hstage, hnamed, hkept, hmot, hlive, hstaging, hto⟩ := startLoad_loads (c := refOf s m) (hold := hold) h
  rw [hobj] at hmot
  exact ⟨v, hanswers v hv hto, hregions, hframes, hstage, hnamed, hkept.trans hmem, hmot, hlive, hstaging⟩

/-- The answer and the outcome of a full start with a bad header (R267, R279). -/
theorem answers_badLoad (h : checked.1 ≠ 0) :
    ∃ v, answersWith (.frameLoad m) m s 1 [] v ∧ v.frame.regions = s.frame.regions ∧ v.frame.cfg.load = none
      ∧ v.frame.cfg.loadFails = satAdd s.frame.cfg.loadFails 1
      ∧ { opcode := (reqOf s m).opcode, tag := (reqOf s m).tag,
          result := some { status := checked.1, time := s.swarm.time, extra := [] } } ∈ (getMbx v m).accepted
      ∧ v.mem = s.mem ∧ v.obj = s.obj := by
  obtain ⟨hobj, hmem, -, -, -, -⟩ := acceptedState_rest s m
  subst hchecked
  obtain ⟨v, hv, hregions, hnone, hfails, hended, hkept, hsame, hto⟩ :=
    startLoad_ends (c := refOf s m) (hold := hold) h (mem_accepted_acceptedState s m)
  exact ⟨v, hanswers v hv hto, hregions, hnone, hfails, hended, hkept.trans hmem, hsame.trans hobj⟩

end

/-- A readback of running or held regions is accepted, and reads them (R278). -/
theorem answers_readback {upset : List Nat} {v : State} (h : askedLong 0x0502 m s = true) (hmask : leNat (reqOf s m).p 0 1 < 128)
    (hdie : (getDie s 4).state = .inService) (hfree : frameBusy (taken s m) = false)
    (hruns : ∀ k ∈ maskRegions (leNat (reqOf s m).p 0 1), (getRegion s k).state = .running ∨ (getRegion s k).state = .held)
    (hv : readBack (leNat (reqOf s m).p 0 1) upset (refOf s m) (acceptedState s m) = v) (hto : v.swarm = (acceptedState s m).swarm) :
    answersWith (.frameReadback m upset) m s 1 [] v := by
  obtain ⟨hask, hroom⟩ := askedLong_iff.mp h
  have haccepts := frameReadback_reads (r := reqOf s m) (s := taken s m) (upset := upset) hmask hdie hfree hruns hroom
  exact answers_of_run (.frameReadback m upset) rfl hask haccepts hv (congrArg Swarm.node (hto.trans (acceptedState_swarm s m)))

end

/-! ### The obligation -/

/-- Settles O39: FRAME_LOAD, its drain, segments and release, and FRAME_READBACK. -/
theorem frameLoading : Obligations.FrameLoading := by
  refine ⟨?commands, ?steps⟩
  case commands =>
    intro m s p w mask e ended
    obtain ⟨hobj, hmem, -, -, -, -⟩ := acceptedState_rest s m
    have hwaits := mem_accepted_acceptedState s m
    refine ⟨answers_startRequest, ?load, ?readback⟩
    case load =>
      intro h hm hstatic hmode hkind hgen hperm hmine hreset hdie hfree hup hret r
      have he : getMot s (field (le32 p 0) 15 0) = e := rfl
      have hmask : leNat p 4 1 = mask := rfl
      have hr : headerCheck (acceptedState s m) (memRead (acceptedState s m) e.base (min (256 * e.size) 256)) (256 * e.size) (leNat p 6 1) mask = r := rfl
      clear_value r e mask
      have hanswers (v : State) := answers_fullLoad (v := v) h he hmask hm hstatic hmode hkind hgen hperm hmine hreset hdie hfree hup hret
      exact ⟨answers_goodLoad hr hanswers, answers_badLoad hr hanswers⟩
    case readback =>
      intro upset h hm hdie hfree hruns
      refine ⟨fun hnone => ?_, fun a hone hk ha => ?_⟩
      · subst hnone
        exact answers_readback h hm hdie hfree hruns (readBack_good _ _ _) rfl
      · subst hone
        obtain ⟨v, hv, hcount, hended, hkept, hto⟩ := readBack_one (c := refOf s m) (s := acceptedState s m) hk ha hwaits
        exact ⟨v, answers_readback h hm hdie hfree hruns hv hto, hcount, hended, hkept.trans hmem⟩
  case steps =>
    intro s x hload c h len payload tag kept
    refine ⟨exec_regionDrainEnd hload, exec_segmentChecked_outOfOrder hload, ?commits, exec_regionResetRelease hload⟩
    case commits =>
      intro ws n hstage hahead hfit hseg h16 h64 hmax hz hchecks hplain hkey hzero hparse hlast hn hframes
      subst hn
      exact exec_segmentChecked_commits hload hstage hahead rfl rfl rfl rfl hfit hseg h16 h64 hmax hz hchecks hplain hkey hzero hparse hlast hframes

end Sys2Proof.Machine
end

section
/-! Lane-wise vector operations, VBCAST and VRSUM (R126, R138, R146, R147). -/

namespace Sys2Proof.Machine

/-- Command `i` makes its cell go on to the next instruction with v[D] = `l` and the flags `inv`, `ovf` and `trunc` raised: every
other vector register keeps its lanes, and nothing else of the state changes. -/
def givesLanes (i : Instr) (die cell : Nat) (s : State) (l : List W32) (inv ovf trunc : Bool) : Prop :=
  let u := unitOf s die cell
  ∃ t x, exec i s = .next t ∧ cellWent s t die cell x
    ∧ x = { u.x with v := x.v, invalid := u.x.invalid || inv, overflow := u.x.overflow || ovf, truncated := u.x.truncated || trunc }
    ∧ ∀ k, x.vreg k = if k = u.i.d then l else u.x.vreg k

/-- Command `i` writes rounded lanes, each of which raises its own flags (R112). -/
def roundsLanes (i : Instr) (die cell : Nat) (s : State) (l : List Rounded) : Prop :=
  givesLanes i die cell s (l.map (fun r => BitVec.ofNat 32 r.code)) (l.any (·.invalid)) (l.any (·.overflow)) false

/-- Raising no flag leaves a cell as it is. -/
@[simp] theorem raise_none (x : Cell) : x.raise false false false = x := by simp [Cell.raise]

section
variable {op : Nat} {uses : Uses} {die cell : Nat} {s : State} {i : Instr} (hready : ready op uses die cell s = true)
include hready

/-- A cell that is ready for an instruction which writes the 32 lanes of v[D] and raises flags. -/
theorem givesLanes_of_setV {f : Unit1 → Cell} {l : List W32} {inv ovf trunc : Bool} (hl : l.length = 32)
    (hexec : exec i s = inRange (cellOk die cell) (issue op uses (onCell f) die cell s))
    (hf : f (unitOf s die cell) = ((unitOf s die cell).x.setV (unitOf s die cell).i.d l).raise inv ovf trunc) :
    givesLanes i die cell s l inv ovf trunc := by
  obtain ⟨t, hnext, hwent⟩ := ready_cell (run := onCell f) hready (congrArg (Issue.next s) hf)
  exact ⟨t, _, hexec.trans hnext, hwent, rfl, fun k => vreg_setV _ _ k l hl⟩

/-- An operation on the lanes of v[A]. -/
theorem lanes1_rounds {f : Rnd → W32 → Rounded}
    (hexec : exec i s = inRange (cellOk die cell) (issue op uses (lanes1 f) die cell s)) :
    let u := unitOf s die cell
    roundsLanes i die cell s ((u.x.vreg u.i.a).map (f (rndOf u.x.numctl))) :=
  givesLanes_of_setV hready (by simp) hexec rfl

/-- An operation on the lanes of v[A] and v[B]. -/
theorem lanes2_rounds {f : Rnd → W32 → W32 → Rounded}
    (hexec : exec i s = inRange (cellOk die cell) (issue op uses (lanes2 f) die cell s)) :
    let u := unitOf s die cell
    roundsLanes i die cell s (((u.x.vreg u.i.a).zip (u.x.vreg u.i.b)).map (fun e => f (rndOf u.x.numctl) e.1 e.2)) :=
  givesLanes_of_setV hready (by simp) hexec rfl

end

/-- VFMA takes in every lane the lanes of v[A], v[B] and v[C]. -/
theorem vfma_rounds {die cell : Nat} {s : State} (h : ready 0x27 { d := true, a := true, b := true, c := true } die cell s = true) :
    let u := unitOf s die cell
    roundsLanes (.vfma die cell) die cell s (((u.x.vreg u.i.a).zip ((u.x.vreg u.i.b).zip (u.x.vreg u.i.c))).map
      (fun e => laneFma (rndOf u.x.numctl) e.1 e.2.1 e.2.2)) :=
  givesLanes_of_setV h (by simp) rfl rfl

/-- VBCAST writes the low word of s[A] to every lane, and raises no flag. -/
theorem vbcast_gives {die cell : Nat} {s : State} (h : ready 0x31 uses1 die cell s = true) :
    let u := unitOf s die cell
    givesLanes (.vbcast die cell) die cell s (List.replicate 32 (BitVec.ofNat 32 (u.x.sreg u.i.a).toNat)) false false false :=
  givesLanes_of_setV h List.length_replicate rfl (by rw [raise_none, BitVec.ofNat_toNat])

/-- VRSUM writes the reduction of v[A] to lane 0 and +0 to the others, with the flags of the reduction (R147). -/
theorem vrsum_gives {die cell : Nat} {s : State} (h : ready 0x32 uses1 die cell s = true) :
    let u := unitOf s die cell
    let r := laneSum (rndOf u.x.numctl) (u.x.vreg u.i.a)
    givesLanes (.vrsum die cell) die cell s (BitVec.ofNat 32 r.1.code :: List.replicate 31 0) r.1.invalid r.1.overflow r.2 :=
  givesLanes_of_setV h rfl rfl rfl

/-- Settles O20: each operation's lanes, by the number of its sources. -/
theorem vectorOperations : Obligations.VectorOperations := by
  intro die cell s u rnd va vb vc gives rounds
  refine ⟨?vadd, ?vsub, ?vmul, vfma_rounds, ?vdiv, ?vsqrt, ?vmin, ?vmax, ?vexp2, ?vlog2, ?vrcp, ?vrsqrt, ?vtanh, vbcast_gives, vrsum_gives⟩
  case vadd => exact fun h => lanes2_rounds h rfl
  case vsub => exact fun h => lanes2_rounds h rfl
  case vmul => exact fun h => lanes2_rounds h rfl
  case vdiv => exact fun h => lanes2_rounds h rfl
  case vmin => exact fun h => lanes2_rounds (f := fun _ => laneMinMax false) h rfl
  case vmax => exact fun h => lanes2_rounds (f := fun _ => laneMinMax true) h rfl
  case vsqrt => exact fun h => lanes1_rounds h rfl
  case vexp2 => exact fun h => lanes1_rounds h rfl
  case vlog2 => exact fun h => lanes1_rounds h rfl
  case vrcp => exact fun h => lanes1_rounds h rfl
  case vrsqrt => exact fun h => lanes1_rounds h rfl
  case vtanh => exact fun h => lanes1_rounds h rfl

end Sys2Proof.Machine
end

section
/-! Scalar and control instructions of a cell program (R134, R136-R139). -/

namespace Sys2Proof.Machine

/-! ### Scalar results -/

/-- Command `i` makes its cell go on to the next instruction with s[D] = `v`: every other scalar register keeps its value (s0 reads 0),
and nothing else of the state changes. -/
def givesScalar (i : Instr) (die cell : Nat) (s : State) (v : W64) : Prop :=
  let u := unitOf s die cell
  ∃ t x, exec i s = .next t ∧ cellWent s t die cell x ∧ x = { u.x with s := x.s }
    ∧ ∀ k, x.sreg k = if k = 0 then 0 else if k = u.i.d then v else u.x.sreg k

section
variable {op : Nat} {uses : Uses} {die cell : Nat} {s : State} {i : Instr} (hready : ready op uses die cell s = true)
include hready

/-- A cell that is ready for an instruction which writes s[D]. -/
theorem givesScalar_of_setS {f : Unit1 → Cell} {v : W64} (hexec : exec i s = inRange (cellOk die cell) (issue op uses (onCell f) die cell s))
    (hf : f (unitOf s die cell) = (unitOf s die cell).x.setS (unitOf s die cell).i.d v) : givesScalar i die cell s v := by
  obtain ⟨t, hnext, hwent⟩ := ready_cell (run := onCell f) hready (congrArg (Issue.next s) hf)
  exact ⟨t, _, hexec.trans hnext, hwent, setS_rest _ _ _, fun k => sreg_setS _ _ k v⟩

/-- An operation on s[A] and s[B]. -/
theorem alu_gives {f : W64 → W64 → W64} (hexec : exec i s = inRange (cellOk die cell) (issue op uses (alu f) die cell s)) :
    let u := unitOf s die cell
    givesScalar i die cell s (f (u.x.sreg u.i.a) (u.x.sreg u.i.b)) :=
  givesScalar_of_setS hready hexec rfl

end

/-- LIH puts IMM above the low half of s[D]. -/
theorem lihValue_eq (imm : Nat) (v : W64) : lihValue imm v = BitVec.ofNat 64 (2 ^ 32 * imm + v.toNat % 2 ^ 32) := by
  rw [lihValue, Nat.mul_comm]

/-- Settles O17: each operation writes s[D] alone, by the operands it takes. -/
theorem scalarOperations : Obligations.ScalarOperations := by
  intro die cell s u a b gives
  refine ⟨?add, ?sub, ?and, ?or, ?xor, ?shl, ?shr, ?sra, ?mul, ?addi, ?li, ?lih⟩
  case add => exact fun h => alu_gives h rfl
  case sub => exact fun h => alu_gives h rfl
  case and => exact fun h => alu_gives h rfl
  case or => exact fun h => alu_gives h rfl
  case xor => exact fun h => alu_gives h rfl
  case shl => exact fun h => alu_gives (f := fun a b => a <<< (b.toNat % 64)) h rfl
  case shr => exact fun h => alu_gives (f := fun a b => a >>> (b.toNat % 64)) h rfl
  case sra => exact fun h => alu_gives (f := fun a b => a.sshiftRight (b.toNat % 64)) h rfl
  case mul => exact fun h => alu_gives h rfl
  case addi => exact fun h => givesScalar_of_setS h rfl rfl
  case li => exact fun h => givesScalar_of_setS h rfl rfl
  case lih => exact fun h => givesScalar_of_setS h rfl (congrArg (u.x.setS u.i.d) (lihValue_eq _ _))

/-! ### Jumps and branches -/

/-- A cell that is ready and waits for nothing goes on at the target of its jump. -/
theorem ready_goto {op : Nat} {uses : Uses} {run : Unit1 → State → Issue} {die cell pc : Nat} {s : State} {x : Cell}
    (h : ready op uses die cell s = true) (hr : run (unitOf s die cell) s = .goto s x pc) (hw : x.wait = none) :
    ∃ t, inRange (cellOk die cell) (issue op uses run die cell s) = .next t ∧ cellMoved s t die cell x (BitVec.ofNat 20 pc) false := by
  have hsome : x.wait.isSome = false := by rw [hw]; rfl
  refine ⟨_, if_pos (cellOk_of_ready h), ?_⟩
  rw [issue_ready h, hr, cellMoved, hsome]
  rfl

/-- A jump to a target below the instruction count goes there (R139). -/
theorem jumpTo_below {u : Unit1} {s : State} {x : Cell} {pc : Nat} (h : pc < u.j.words) : jumpTo u s x pc = .goto s x pc :=
  if_neg (Nat.not_le.mpr h)

/-- The comparison `c` of BR holds of its two operands (R138). -/
def BrHolds (c : Nat) (a b : W64) : Prop :=
  (c = 0 ∧ a = b) ∨ (c = 1 ∧ a ≠ b) ∨ (c = 2 ∧ a.toInt < b.toInt) ∨ (c = 3 ∧ b.toInt ≤ a.toInt)
    ∨ (c = 4 ∧ a.toNat < b.toNat) ∨ (c = 5 ∧ b.toNat ≤ a.toNat)

/-- The six comparisons each have an answer, which is whether they hold. -/
theorem brCompare_spec {c : Nat} (hc : c ≤ 5) (a b : W64) : ∃ t, brCompare c a b = some t ∧ (t = true ↔ BrHolds c a b) := by
  match c, hc with
  | 0, _ => exact ⟨_, rfl, by simp [BrHolds]⟩
  | 1, _ => exact ⟨_, rfl, by simp [BrHolds]⟩
  | 2, _ => exact ⟨_, rfl, by simp [BrHolds, BitVec.slt]⟩
  | 3, _ => exact ⟨_, rfl, by simp [BrHolds, BitVec.slt]⟩
  | 4, _ => exact ⟨_, rfl, by simp [BrHolds, BitVec.ult]⟩
  | 5, _ => exact ⟨_, rfl, by simp [BrHolds, BitVec.ult]⟩

/-- A branch within the instruction count goes to its target where its comparison holds, else to the next instruction. -/
theorem branch_spec {u : Unit1} {s : State} (hc : u.i.c ≤ 5) (ht : u.i.imm < u.j.words) :
    (BrHolds u.i.c (u.x.sreg u.i.a) (u.x.sreg u.i.b) → branch u s = .goto s u.x u.i.imm)
      ∧ (¬ BrHolds u.i.c (u.x.sreg u.i.a) (u.x.sreg u.i.b) → branch u s = .next s u.x) := by
  obtain ⟨t, hcompare, ht'⟩ := brCompare_spec hc (u.x.sreg u.i.a) (u.x.sreg u.i.b)
  rw [← ht', branch, hcompare]
  exact ⟨fun h => (if_neg (Nat.not_le.mpr ht)).trans (if_pos h), fun h => (if_neg (Nat.not_le.mpr ht)).trans (if_neg h)⟩

/-! ### System values and arguments -/

/-- The six system values (R138). -/
theorem sysValue_spec {u : Unit1} {s : State} (h : u.i.imm ≤ 5) : ∃ v, sysValue u s = some v
    ∧ (u.i.imm = 0 → v = BitVec.ofNat 64 u.j.item) ∧ (u.i.imm = 1 → v = BitVec.ofNat 64 u.j.items)
    ∧ (u.i.imm = 2 → v = BitVec.ofNat 64 (128 * s.swarm.node + 32 * u.die + u.cell)) ∧ (u.i.imm = 3 → v = BitVec.ofNat 64 u.j.n)
    ∧ (u.i.imm = 4 → v = BitVec.ofNat 64 u.j.position) ∧ (u.i.imm = 5 → v = s.swarm.time) := by
  unfold sysValue
  match u.i.imm, h with
  | 0, _ | 1, _ | 3, _ | 4, _ | 5, _ => exact ⟨_, rfl, by simp⟩
  | 2, _ => exact ⟨_, rfl, by simp [Nat.mul_comm]⟩

/-- SYS writes the system value that there is. -/
theorem sysIns_some {u : Unit1} {s : State} {v : W64} (h : sysValue u s = some v) : sysIns u s = .next s (u.x.setS u.i.d v) := by
  rw [sysIns, h]

/-- LDA of an aligned offset within the argument buffer. -/
theorem lda_reads {u : Unit1} {s : State} (h8 : u.i.imm % 8 = 0) (h256 : u.i.imm < 256) : lda u s
    = .next s (u.x.setS u.i.d (BitVec.ofNat 64 (leNat ((upFrom u.i.imm 8).map (Tbl.get 0 u.x.args)) 0 8))) :=
  (if_neg (not_not.mpr h8)).trans (if_neg (Nat.not_le.mpr h256))

/-- SETNUM of a word that satisfies R107. -/
theorem setnum_ok {u : Unit1} {s : State} (h : numctlOk (BitVec.ofNat 16 u.i.imm) = true) :
    setnum u s = .next s { u.x with numctl := BitVec.ofNat 16 u.i.imm } := if_pos h

/-! ### The end of an item -/

/-- The cell of an item that has ended: at its next item, or with none. -/
def itemEnded (u : Unit1) : Cell :=
  let x := { u.x with itemsDone := u.x.itemsDone + 1 }
  if u.j.item + u.j.n < u.j.items then startItem x u.j (u.j.item + u.j.n) else stopCell x

theorem startItem_itemsDone (c : Cell) (j : CellJob) (i : Nat) : (startItem c j i).itemsDone = c.itemsDone := by
  unfold startItem
  rw [setS_rest, setS_rest]

/-- An item that ends is counted, and the cell's next one starts at the entry point, or the cell goes idle (R134). -/
theorem itemEnded_spec (u : Unit1) : (itemEnded u).itemsDone = u.x.itemsDone + 1
    ∧ (if u.j.item + u.j.n < u.j.items then (itemEnded u).state = .running ∧ (itemEnded u).item = BitVec.ofNat 16 (u.j.item + u.j.n)
        ∧ (itemEnded u).pc = BitVec.ofNat 20 u.j.entry ∧ (itemEnded u).sreg 1 = BitVec.ofNat 64 (u.j.item + u.j.n)
        ∧ (itemEnded u).sreg 2 = BitVec.ofNat 64 u.j.items
      else (itemEnded u).state = .idle ∧ (itemEnded u).job = none) := by
  unfold itemEnded
  dsimp only
  split
  · obtain ⟨hstate, hitem, hpc, -, h1, h2, -⟩ := startItem_spec { u.x with itemsDone := u.x.itemsDone + 1 } u.j (u.j.item + u.j.n)
    exact ⟨startItem_itemsDone _ _ _, hstate, hitem, hpc, h1, h2⟩
  · exact ⟨rfl, rfl, rfl⟩

/-- END of a cell with no GET or PUT outstanding ends the item of that cell alone. -/
theorem ready_end {die cell : Nat} {s : State} (h : ready 0x01 {} die cell s = true) (hd : (unitOf s die cell).x.dma = []) :
    exec (.endItem die cell) s = .next { setCell s die cell (itemEnded (unitOf s die cell)) with free := s.free + 1 } := by
  refine exec_comes (i := .endItem die cell) rfl (cellOk_of_ready h) ?_
  rw [issue_ready h, show endIns (unitOf s die cell) s = .done (endItem (unitOf s die cell) s) from if_neg (not_not.mpr hd)]
  rfl

/-- Settles O18: each instruction goes on as its conditions say, and END ends its item. -/
theorem controlInstructions : Obligations.ControlInstructions := by
  intro die cell s u a b goes steps holds
  refine ⟨fun h => ready_cell h rfl, ?jmp, ?br, ?sys, ?lda, ?setnum, ?ends⟩
  case jmp => exact fun h ht hw => ready_goto h (jumpTo_below ht) hw
  case br =>
    intro h ht hc hw
    obtain ⟨htaken, hnot⟩ := branch_spec (u := u) (s := s) hc ht
    exact ⟨fun hb => ready_goto h (htaken hb) hw, fun hb => ready_cell h (hnot hb)⟩
  case sys =>
    intro h himm
    obtain ⟨v, hv, hvalues⟩ := sysValue_spec (u := u) (s := s) himm
    exact ⟨v, ready_cell h (sysIns_some hv), hvalues⟩
  case lda => exact fun h h8 h256 => ready_cell h (lda_reads h8 h256)
  case setnum => exact fun h hok => ready_cell h (setnum_ok hok)
  case ends =>
    intro h hd
    have hcell : getCell { setCell s die cell (itemEnded u) with free := s.free + 1 } die cell = itemEnded u := getCell_setCell s die cell _
    refine ⟨_, ready_end h hd, ?_⟩
    rw [hcell]
    exact ⟨rfl, itemEnded_spec u⟩

end Sys2Proof.Machine
end

section
/-! Loads and stores of a cell in its own store (R138, R140, R141). -/

namespace Sys2Proof.Machine

/-- A load that meets its conditions takes its bytes. -/
theorem loadOwn_ok {u : Unit1} {off n align : Nat} {s : State} {f : Bytes → Issue} (h : ownOk u off n align false s = true) :
    loadOwn u off n align s f = f (memRead s (cellStore s u.die u.cell + off) n) := ownAccess_ok h

/-- A store that meets its conditions writes its bytes. -/
theorem storeOwn_ok {u : Unit1} {off align : Nat} {l : Bytes} {x : Cell} {s : State} (h : ownOk u off l.length align true s = true) :
    storeOwn u off align l x s = .next (memWrite s (cellStore s u.die u.cell + off) l) x := ownAccess_ok h

/-- A byte of this node reads the same where but a cell has gone on. -/
theorem memByte_cellWent {die cell k : Nat} {s t : State} {x : Cell} (h : cellWent s t die cell x) (hk : addrNode k = s.swarm.node) :
    memByte t k = memByte s k := by
  unfold cellWent cellMoved at h
  exact memByte_here (s := s) (t := t) (congrArg State.swarm h :) (congrArg (·.obj.fences) h :) (congrArg State.mem h :) hk

/-- A cell that is ready whose instruction stores bytes: it goes on to the next instruction, and every byte of this node outside those
written reads as before. -/
theorem ready_store {op : Nat} {uses : Uses} {run : Unit1 → State → Issue} {die cell off align : Nat} {l : Bytes} {s : State} {x : Cell}
    (h : ready op uses die cell s = true) (hr : run (unitOf s die cell) s = storeOwn (unitOf s die cell) off align l x s)
    (hown : ownOk (unitOf s die cell) off l.length align true s = true) :
    let a := cellStore s die cell + off
    ∃ t, inRange (cellOk die cell) (issue op uses run die cell s) = .next t ∧ cellWent (memWrite s a l) t die cell x
      ∧ ∀ k, ¬ (a ≤ k ∧ k < a + l.length) → addrNode k = s.swarm.node → memByte t k = memByte s k := by
  intro a
  have hnode : (memWrite s a l).swarm.node = s.swarm.node := by simp only [memWrite_rest]
  refine ⟨_, ready_next h (hr.trans (storeOwn_ok hown)), rfl, fun k hout hk => ?_⟩
  exact (memByte_cellWent rfl (hk.trans hnode.symm)).trans (memByte_memWrite_ne s a k l hout)

/-- VLDN of a format that there is. -/
theorem vldn_reads {u : Unit1} {s : State} (hk : u.i.imm ≤ 6)
    (hown : ownOk u (u.x.sreg u.i.a).toNat (elemBytes u.i.imm 32) (elemBytes u.i.imm 32) false s = true) : vldn u s
      = .next s (u.x.setV u.i.d ((upFrom 0 32).map (fun i => widen u.i.imm
          (elemAt u.i.imm (memRead s (cellStore s u.die u.cell + (u.x.sreg u.i.a).toNat) (elemBytes u.i.imm 32)) i)))) :=
  (if_neg (Nat.not_lt.mpr hk)).trans (loadOwn_ok hown)

/-- The lane that VSTN stores of a lane of v[B], by IMM (R113). -/
def vstnLane (imm : Nat) (x : W32) : Rounded :=
  if imm % 16 = 0 then { code := x.toNat } else convertTo (imm % 16) (imm / 16 % 2 == 1) (imm / 32 % 2 == 1) (f32 x)

/-- VSTN of a format that there is stores the packed lanes and raises their flags, TRUNCATED never. -/
theorem vstn_stores {u : Unit1} {s : State} (hk : u.i.imm % 16 ≤ 6) :
    let r := (u.x.vreg u.i.b).map (vstnLane u.i.imm)
    vstn u s = storeOwn u (u.x.sreg u.i.a).toNat (elemBytes (u.i.imm % 16) 32) (packElems (u.i.imm % 16) (r.map (·.code)))
      { u.x with invalid := u.x.invalid || r.any (·.invalid), overflow := u.x.overflow || r.any (·.overflow) } s := by
  intro r
  refine (if_neg (Nat.not_lt.mpr hk)).trans (congrArg (storeOwn u _ _ _ · s) ?_)
  rw [Cell.raise, Bool.or_false]
  rfl

/-- Settles O19: a load writes its register, and a store its bytes, through the one access that meets its conditions. -/
theorem storeAccesses : Obligations.StoreAccesses := by
  intro die cell s u ai ra base loads stores k conv r
  refine ⟨?lds, ?vld, ?vldn, ?sts, ?vst, ?vstn⟩
  case lds => exact fun h hown => ready_cell h (loadOwn_ok hown)
  case vld => exact fun h hown => ready_cell h (loadOwn_ok hown)
  case vldn => exact fun h hk hown => ready_cell h (vldn_reads hk hown)
  case sts => exact fun h hown => ready_store h rfl hown
  case vst => exact fun h hown => ready_store h rfl hown
  case vstn => exact fun h hk hown => ready_store h (vstn_stores hk) hown

end Sys2Proof.Machine
end

section
/-! The instructions over a tile of a cell's accumulator (R142-R145, R506). -/

namespace Sys2Proof.Machine

/-! ### Instructions that change a tile -/

/-- Command `i` makes its cell go on to the next instruction with `f` applied to each entry of acc[D]: every other entry keeps its value, and
nothing else of the state changes. -/
def givesTile (i : Instr) (die cell : Nat) (s : State) (f : Nat → AccEntry → Option AccEntry) : Prop :=
  let u := unitOf s die cell
  ∃ t x, exec i s = .next t ∧ cellWent s t die cell x ∧ x = { u.x with acc := x.acc }
    ∧ (∀ e, e < 4096 → some (Tbl.get {} x.acc (4096 * u.i.d + e)) = f e (Tbl.get {} u.x.acc (4096 * u.i.d + e)))
    ∧ ∀ j, (j < 4096 * u.i.d ∨ 4096 * u.i.d + 4096 ≤ j) → Tbl.get {} x.acc j = Tbl.get {} u.x.acc j

/-- An instruction over a tile that there is. -/
theorem onTile_ok {u : Unit1} {f : Issue} (h : u.i.d ≤ 3) : onTile u f = f := if_neg (Nat.not_lt.mpr h)

/-- A cell that is ready for an instruction which changes a tile entry by entry, none of which faults. -/
theorem givesTile_of_putTile {op : Nat} {uses : Uses} {run : Unit1 → State → Issue} {die cell : Nat} {s : State} {i : Instr}
    {f : Nat → AccEntry → Option AccEntry} (hready : ready op uses die cell s = true)
    (hexec : exec i s = inRange (cellOk die cell) (issue op uses run die cell s))
    (hrun : run (unitOf s die cell) s = putTile (unitOf s die cell) f s)
    (hf : ∀ e, e < 4096 → (f e (Tbl.get {} (unitOf s die cell).x.acc (4096 * (unitOf s die cell).i.d + e))).isSome = true) :
    givesTile i die cell s f := by
  obtain ⟨acc, hmap, hin, hout⟩ := mapTile_spec f (unitOf s die cell).i.d 4096 (unitOf s die cell).x.acc hf
  have hput : putTile (unitOf s die cell) f s = .next s { (unitOf s die cell).x with acc := acc } := by rw [putTile, hmap]
  obtain ⟨t, hnext, hwent⟩ := ready_cell hready (hrun.trans hput)
  exact ⟨t, _, hexec.trans hnext, hwent, rfl, hin, hout⟩

/-! ### Operand panels -/

section
variable (u : Unit1) (s : State)

/-- `n` bytes at offset `off` of the unit's own store. -/
def ownRead (off n : Nat) : Bytes := memRead s (cellStore s u.die u.cell + off) n

/-- The number of steps of a product, from IMM (R142). -/
def sliceLen : Nat := u.i.imm % 65536

/-- The panels of operands A and B of a product (R142). -/
def panelA : Bytes := ownRead u s (u.x.sreg u.i.a).toNat (elemBytes (numctl u.x.numctl).a (64 * sliceLen u))
def panelB : Bytes := ownRead u s (u.x.sreg u.i.b).toNat (elemBytes (numctl u.x.numctl).b (64 * sliceLen u))

/-- The block scales of a product, where IMM asks for them (R142). -/
def panelScales : Option (Bytes × Bytes) :=
  if u.i.imm / 65536 % 2 = 1 then
    some (ownRead u s ((u.x.sreg u.i.c).toNat % 2 ^ 32) (2 * sliceLen u), ownRead u s ((u.x.sreg u.i.c).toNat / 2 ^ 32) (2 * sliceLen u))
  else none

/-- The operands of a product may be read (R142). -/
def PanelsOk : Prop :=
  sliceLen u ≠ 0 ∧ ownOk u (u.x.sreg u.i.a).toNat (elemBytes (numctl u.x.numctl).a (64 * sliceLen u)) 64 false s = true
    ∧ ownOk u (u.x.sreg u.i.b).toNat (elemBytes (numctl u.x.numctl).b (64 * sliceLen u)) 64 false s = true
    ∧ (u.i.imm / 65536 % 2 = 1 → sliceLen u % 32 = 0 ∧ blocksOk u.x.numctl = true
        ∧ ownOk u ((u.x.sreg u.i.c).toNat % 2 ^ 32) (2 * sliceLen u) 64 false s = true
        ∧ ownOk u ((u.x.sreg u.i.c).toNat / 2 ^ 32) (2 * sliceLen u) 64 false s = true)

/-- The product terms of entry `e` of a tile (R142). -/
def tileTerms (e : Nat) : List (Num × Bool) :=
  entryTerms (numctl u.x.numctl) 64 (sliceLen u) (panelA u s) (panelB u s) (panelScales u s) (e / 64) (e % 64)

/-- A product has block scales where IMM asks for them. -/
theorem panelScales_isSome : (panelScales u s).isSome = decide (u.i.imm / 65536 % 2 = 1) := by
  unfold panelScales
  split
  next h => exact (decide_eq_true h).symm
  next h => exact (decide_eq_false h).symm

end

section
variable {u : Unit1} {s : State} (hd : u.i.d ≤ 3)
include hd

/-- Operands that may be read are those of the product. -/
theorem withPanels_ok {f : NumCtl → Nat → Bytes → Bytes → Option (Bytes × Bytes) → Issue} (h : PanelsOk u s) :
    withPanels u s f = f (numctl u.x.numctl) (sliceLen u) (panelA u s) (panelB u s) (panelScales u s) := by
  obtain ⟨hk, ha, hb, hscales⟩ := h
  have hgood : ¬ (sliceLen u = 0 ∨ (u.i.imm / 65536 % 2 = 1 ∧ (sliceLen u % 32 ≠ 0 ∨ ¬ blocksOk u.x.numctl = true))) := by
    rintro (h | ⟨hblock, h | h⟩)
    · exact hk h
    · exact h (hscales hblock).1
    · exact h (hscales hblock).2.1
  refine (onTile_ok hd).trans ((if_neg hgood).trans ((loadOwn_ok ha).trans ((loadOwn_ok hb).trans ?_)))
  unfold panelScales
  split
  next hblock =>
    obtain ⟨-, -, hsa, hsb⟩ := hscales hblock
    exact (loadOwn_ok hsa).trans (loadOwn_ok hsb)
  next => rfl

/-- AMAX of operands that may be read. -/
theorem amax_ok (h : PanelsOk u s) : amax u s = putTile u (fun i e => amaxEntry (tileTerms u s i) e) s := withPanels_ok hd h

/-- MMA of operands that may be read. -/
theorem mma_ok (h : PanelsOk u s) : mma u s
    = putTile u (fun i e => mmaEntry (directGroup (numctl u.x.numctl) (decide (u.i.imm / 65536 % 2 = 1))) (tileTerms u s i) e) s := by
  rw [← panelScales_isSome u s]
  exact withPanels_ok hd h

/-! ### Partial forms, anchors and finished outputs -/

/-- ACCADD of partial forms that are all well-formed (R144). -/
theorem accadd_ok (hown : ownOk u (u.x.sreg u.i.a).toNat 131072 256 false s = true)
    (hgood : ∀ e, e < 4096 → partialBad (slice (ownRead u s (u.x.sreg u.i.a).toNat 131072) (32 * e) 32) = 0) :
    accadd u s = putTile u (fun i e => addEntry e (unpackEntry (slice (ownRead u s (u.x.sreg u.i.a).toNat 131072) (32 * i) 32))) s := by
  refine (onTile_ok hd).trans ((loadOwn_ok hown).trans ?_)
  split
  next c hfound =>
    obtain ⟨e, he, hc⟩ := List.mem_map.mp (List.mem_of_find?_eq_some hfound)
    have hbad := List.find?_some hfound
    rw [← hc] at hbad
    exact absurd (hgood e (by simpa using (mem_upFrom.mp he).2)) (of_decide_eq_true hbad)
  next => rfl

/-- LDANC in one of its two ways (R506). -/
theorem ldanc_ok (himm : u.i.imm ≤ 1) (hown : ownOk u (u.x.sreg u.i.a).toNat 8192 256 false s = true) :
    ldanc u s = putTile u (fun i e => ldancEntry (u.i.imm == 1) (le16 (ownRead u s (u.x.sreg u.i.a).toNat 8192) (2 * i)) e) s :=
  (onTile_ok hd).trans ((if_neg (Nat.not_lt.mpr himm)).trans (loadOwn_ok hown))

/-- ACLR clears the tile. -/
theorem aclr_ok : aclr u s = .next s { u.x with acc := u.x.acc.filter (fun e => e.1 / 4096 ≠ u.i.d) } := onTile_ok hd

/-- STACC stores the partial forms of the tile's entries. -/
theorem stacc_ok : stacc u s = storeOwn u (u.x.sreg u.i.a).toNat 256 ((tileEntries u.x u.i.d).map packEntry).flatten u.x s := onTile_ok hd

/-- STANC stores the anchors of the tile's entries. -/
theorem stanc_ok : stanc u s
    = storeOwn u (u.x.sreg u.i.a).toNat 256 ((tileEntries u.x u.i.d).map (fun e => toLE 2 (anchorCode e).toNat)).flatten u.x s := onTile_ok hd

end

/-- The tile's entries finished with the addends `c` (R145). -/
def finOutputs (u : Unit1) (c : Nat → Option W32) : List (Rounded × Bool) :=
  ((upFrom 0 4096).zip (tileEntries u.x u.i.d)).map (fun e => finishEntry (numctl u.x.numctl) (BitVec.ofNat 32 (u.x.sreg u.i.b).toNat)
    (BitVec.ofNat 32 ((u.x.sreg u.i.b).toNat / 2 ^ 32)) (c e.1) e.2)

/-- Finished outputs stored at s[A], with the flags that they raise. -/
def finStore (u : Unit1) (s : State) (l : List (Rounded × Bool)) : Issue :=
  storeOwn u (u.x.sreg u.i.a).toNat 256 (packElems (numctl u.x.numctl).out (l.map (fun r => r.1.code)))
    (u.x.raise (l.any (fun r => r.1.invalid)) (l.any (fun r => r.1.overflow)) (l.any (fun r => r.2))) s

/-- FIN with scales of 1 where the output is INT32, and addends that may be read where IMM asks for them. -/
theorem fin_ok {u : Unit1} {s : State} (hd : u.i.d ≤ 3)
    (hone : (numctl u.x.numctl).out = 7 → (BitVec.ofNat 32 (u.x.sreg u.i.b).toNat : W32) = f32One
      ∧ (BitVec.ofNat 32 ((u.x.sreg u.i.b).toNat / 2 ^ 32) : W32) = f32One)
    (hown : u.i.imm = 1 → ownOk u (u.x.sreg u.i.c).toNat 16384 256 false s = true) : fin u s
      = finStore u s (finOutputs u (fun i => if u.i.imm = 1 then some (le32 (ownRead u s (u.x.sreg u.i.c).toNat 16384) (4 * i)) else none)) := by
  refine (onTile_ok hd).trans ((if_neg ?_).trans ?_)
  · rintro ⟨h7, hne⟩
    obtain ⟨ha, hb⟩ := hone h7
    exact hne.elim (· ha) (· hb)
  · by_cases himm : u.i.imm = 1
    · simp only [himm, if_true]
      exact loadOwn_ok (hown himm)
    · simp only [himm, if_false]
      rfl

/-! ### The obligation -/

/-- A table without the entries of tile `d`. -/
theorem get_clearTile (t : Tbl AccEntry) (d j : Nat) :
    Tbl.get {} (t.filter (fun e => e.1 / 4096 ≠ d)) j = if j / 4096 = d then {} else Tbl.get {} t j := by
  rw [Tbl.get_filter {} (fun k => decide (k / 4096 ≠ d)) t j]
  by_cases h : j / 4096 = d <;> simp [h]

/-- Settles O21: each instruction over a tile by its entries, and each store by its bytes. -/
theorem accumulatorInstructions : Obligations.AccumulatorInstructions := by
  intro die cell s u d old n k base ra rb kk block sc a b scales panels part anch tiles stores es sa sb addends outs hd
  refine ⟨?mma, ?amax, ?aclr, ?accadd, ?ldanc, ?stacc, ?stanc, ?fin⟩
  case mma => exact fun h hp hf => givesTile_of_putTile h rfl (mma_ok hd hp) hf
  case amax => exact fun h hp hf => givesTile_of_putTile h rfl (amax_ok hd hp) hf
  case aclr =>
    intro h
    obtain ⟨t, hnext, hwent⟩ := ready_cell h (aclr_ok (u := u) (s := s) hd)
    exact ⟨t, _, hnext, hwent, rfl, get_clearTile u.x.acc d⟩
  case accadd => exact fun h hown hgood hf => givesTile_of_putTile h rfl (accadd_ok hd hown hgood) hf
  case ldanc => exact fun h himm hown hf => givesTile_of_putTile h rfl (ldanc_ok hd himm hown) hf
  case stacc => exact fun h hown => ready_store h (stacc_ok hd) hown
  case stanc => exact fun h hown => ready_store h (stanc_ok hd) hown
  case fin => exact fun h hone hadd hown => ready_store h (fin_ok hd hone hadd) hown

end Sys2Proof.Machine
end

section
/-! ERR_RSP, RETRY_TIMER, LIVELOCK_RESCUE and STALL_DETECT (R176, R186, R187, R189, R190, R199, R287, R298). -/

namespace Sys2Proof.Machine

/-! ### Transfers marked to be sent again (R189) -/

/-- Transfer `i` with its mark to be sent again written. -/
def markRetry (i : Nat) (b : Bool) (l : List Dma) : List Dma :=
  (l.zip (upFrom 0 l.length)).map (fun e => if e.2 = i then { e.1 with retry := b } else e.1)

theorem markRetry_length (i : Nat) (b : Bool) (l : List Dma) : (markRetry i b l).length = l.length := by
  simp [markRetry, upFrom_length]

theorem markRetry_getElem? (i : Nat) (b : Bool) {l : List Dma} {j : Nat} {e : Dma} (h : l[j]? = some e) :
    (markRetry i b l)[j]? = some (if j = i then { e with retry := b } else e) := by
  obtain ⟨hj, -⟩ := List.getElem?_eq_some_iff.mp h
  have hnumber : (upFrom 0 l.length)[j]? = some j := by rw [upFrom_getD _ _ _ hj, Nat.zero_add]
  have hzip : (l.zip (upFrom 0 l.length))[j]? = some (e, j) := List.getElem?_zip_eq_some.mpr ⟨h, hnumber⟩
  rw [markRetry, List.getElem?_map, hzip]
  rfl

/-- A cell whose transfer `i` has its mark written keeps all else, its other transfers among them (R189). -/
theorem markRetry_spec (d c i : Nat) (b : Bool) (s : State) :
    let x := getCell s d c
    let t := { setCell s d c { x with dma := markRetry i b x.dma } with free := s.free + 1 }
    (getCell t d c).dma.length = x.dma.length
      ∧ (∀ j e, x.dma[j]? = some e → (getCell t d c).dma[j]? = some (if j = i then { e with retry := b } else e))
      ∧ t = { setCell s d c { x with dma := (getCell t d c).dma } with free := s.free + 1 } := by
  intro x t
  have hcell : getCell t d c = { x with dma := markRetry i b x.dma } := getCell_setCell s d c _
  rw [hcell]
  exact ⟨markRetry_length i b x.dma, fun j e h => markRetry_getElem? i b h, rfl⟩

/-! ### ERR_RSP (R176, R189, R190) -/

section
variable {die router : Nat} {h : PacketHeader} {s : State}

/-- The requester that an error response names takes packets: its die is in service and its domain is not CLOSED (R190). -/
def takesResponse (s : State) (src : W32) : Prop :=
  (5 ≤ field src 4 2 ∨ (getDie s (field src 4 2)).state = .inService) ∧ (getDom s (srcDomain src)).state ≠ .closed

theorem takesResponse_iff (s : State) (src : W32) : takesResponse s src
    ↔ ¬ ((field src 4 2 < 5 ∧ (getDie s (field src 4 2)).state ≠ .inService) ∨ (getDom s (srcDomain src)).state = .closed) := by
  rw [takesResponse, not_or, not_and_or, not_not, Nat.not_lt]

/-- A packet of no issued class is a stray that the Keeper is told of (R176). -/
theorem errRsp_unissued (hc : classOk h = false) : errRsp die router h s = faultNotice
    { die := die, router := router, port := 0, vn := h.vn.toNat, src := h.src, context := h.context, code := h.status } (countStray die router 1 s) :=
  if_pos (by simp [hc])

/-- A packet of an issued class that is no error response, nor READ_DATA that failed its check, is no matter of ERR_RSP. -/
theorem errRsp_other (hc : classOk h = true) (h6 : h.cls ≠ 6) (h4 : ¬ (h.cls = 4 ∧ h.status = 0x5001)) : errRsp die router h s = s := by
  unfold errRsp
  dsimp only
  rw [if_neg (by simp [hc]), if_pos (.inl ⟨h6, h4⟩)]

/-- An error response to a requester of this node that takes no packets is a stray (R190). -/
theorem errRsp_stray (hc : classOk h = true) (h6 : h.cls = 6) (hn : srcNode h.src = s.swarm.node) (ht : ¬ takesResponse s h.src) :
    errRsp die router h s = countStray die router 1 s := by
  unfold errRsp
  dsimp only
  rw [if_neg (by simp [hc]), if_neg (by simp [h6, hn]), if_pos (not_not.mp (mt (takesResponse_iff s h.src).mpr ht))]

/-- An error response that no closed domain caused is taken by its requester (R189). -/
theorem errRsp_taken (hc : classOk h = true) (h6 : h.cls = 6) (hn : srcNode h.src = s.swarm.node) (ht : takesResponse s h.src)
    (hs : h.status ≠ 0x2005) : errRsp die router h s = takeErrRsp h s := by
  unfold errRsp
  dsimp only
  rw [if_neg (by simp [hc]), if_neg (by simp [h6, hn]), if_neg ((takesResponse_iff s h.src).mp ht), if_neg (by simp [h6]), if_neg hs]

/-- A core or a PCIe function sees the status alone (R189). -/
theorem takeErrRsp_program (hu : srcUnit h.src = 2 ∨ srcUnit h.src = 3) :
    takeErrRsp h s = { s with keeper := { s.keeper with rsp := { status := h.status } } } := by
  unfold takeErrRsp
  rcases hu with hu | hu
  · rw [hu]; rfl
  · rw [hu]; rfl

/-- With RETRY, a cell marks its transfer to be sent again (R189). -/
theorem takeErrRsp_cellRetry (hu : srcUnit h.src = 4) (hd : field h.src 4 2 < 4) (hi : field h.src 16 10 < 32)
    (hj : (getCell s (field h.src 4 2) (field h.src 16 10)).job.map (fun j => j.ctx) = some h.context) (hr : h.retry = true) :
    takeErrRsp h s = setCell s (field h.src 4 2) (field h.src 16 10)
      { getCell s (field h.src 4 2) (field h.src 16 10) with
        dma := markRetry h.txid.toNat true (getCell s (field h.src 4 2) (field h.src 16 10)).dma } := by
  unfold takeErrRsp
  rw [hu]
  dsimp only
  rw [if_pos ⟨hd, hi, hj⟩, if_pos hr]
  rfl

end

/-! ### LIVELOCK_RESCUE (R187) -/

/-- A rescue counted at a router (R199). -/
def rescued (die router : Nat) (s : State) : State :=
  let x := getRouter s die router
  setRouter s die router { x with rescues := satAdd x.rescues 1, rescuesOvf := x.rescuesOvf || satLost x.rescues 1 }

/-- The header of AGE 255 that waits at a router with room ahead (R187). -/
def stuckAt (die router : Nat) (s : State) : Option (Nat × Flight) :=
  (heads s.net die router).find? (fun e => e.2.head.age == 255 && e.2.head.vn != 3 && hasRoom s.net die router e.2.la e.2)

section
variable {die router lost : Nat} {age : Byte} {s : State}

theorem livelockRescue_idle (h : ¬ (age = 255 ∧ 256 ≤ lost)) : livelockRescue die router age lost s = s := if_neg h

theorem livelockRescue_none (ha : age = 255) (hl : 256 ≤ lost) (hn : stuckAt die router (rescued die router s) = none) :
    livelockRescue die router age lost s = rescued die router s := by
  refine (if_pos ⟨ha, hl⟩).trans ?_
  unfold stuckAt rescued at hn
  dsimp only at hn ⊢
  rw [hn]
  rfl

theorem livelockRescue_grants (ha : age = 255) (hl : 256 ≤ lost) {e : Nat × Flight} (he : stuckAt die router (rescued die router s) = some e) :
    livelockRescue die router age lost s = { rescued die router s with
      net := advance (rescued die router s) die router e.2.la e.1 { e.2 with lost := 0 } (rescued die router s).net } := by
  refine (if_pos ⟨ha, hl⟩).trans ?_
  unfold stuckAt rescued at he
  dsimp only at he ⊢
  rw [he]
  rfl

end

/-! ### A context that hangs (R287, R294) -/

/-- A context whose reset a fault has started (R294). -/
def hungCtx (id : Nat) (r : FaultRecord) (res : Option W32) (x : Ctx) : Ctx :=
  { x with state := .resetting, fault := some { r with context := BitVec.ofNat 16 id, action := 2 }, counted := res }

/-- The queues of a context held as its reset starts (R294). -/
def queuesHeld (id : Nat) (s : State) : State :=
  { s with obj := { s.obj with queues := Tbl.mapAll {} (fun _ q => if q.live ∧ q.ctx.toNat = id then
      { q with state := if q.state = .ready then .hold else q.state, holdMark := q.submitted } else q) s.obj.queues } }

/-- The first fault of a context starts its reset (R294). -/
theorem faultCtx_hangs {id c : Nat} {s : State} (hc : localCtx s id = some c) (hr : inReset (getCtx s c) = false) (r : FaultRecord)
    (res : Option W32) : faultCtx id r res s = queuesHeld id (setCtx s c (hungCtx id r res (getCtx s c))) := by
  unfold faultCtx
  rw [hc]
  exact if_neg (by rw [hr]; exact Bool.false_ne_true)

/-! ### The recovery of a die as it starts (R298) -/

/-- The dies and the memory, which no event of a recovery's start writes but its own. -/
def diesAndMemory (s : State) : Tbl Die × Memory := (s.faults.dies, s.mem)

theorem getDie_of_diesAndMemory {s : State} {x : Tbl Die × Memory} (h : diesAndMemory s = x) (e : Nat) : getDie s e = Tbl.get {} x.1 e :=
  congrArg (fun x : Tbl Die × Memory => Tbl.get ({} : Die) x.1 e) h

theorem sendOwner_diesAndMemory (c : W16) (p : Bytes) (s : State) : diesAndMemory (sendOwner c p s) = diesAndMemory s :=
  (congrArg diesAndMemory (sendOwner_apartFromKeeper c p s) :)

theorem record_diesAndMemory (r : FaultRecord) (s : State) : diesAndMemory (record r s) = diesAndMemory s := by
  unfold record diesAndMemory
  dsimp only
  split
  · rfl
  · split
    · rfl
    · split <;> rfl

theorem systemFault_diesAndMemory (r : FaultRecord) (s : State) : diesAndMemory (systemFault r s) = diesAndMemory s :=
  (sendOwner_diesAndMemory _ _ _).trans (record_diesAndMemory _ s)

theorem faultCtx_diesAndMemory (id : Nat) (r : FaultRecord) (s : State) : diesAndMemory (faultCtx id r none s) = diesAndMemory s := by
  cases hc : localCtx s id with
  | none =>
    unfold faultCtx
    rw [hc]
    exact record_diesAndMemory _ s
  | some c =>
    cases hr : inReset (getCtx s c) with
    | false =>
      rw [faultCtx_hangs hc hr]
      rfl
    | true =>
      unfold faultCtx
      rw [hc]
      exact (congrArg diesAndMemory (if_pos hr)).trans (record_diesAndMemory _ s)

theorem leaveUp_diesAndMemory (p : Nat) (s : State) : diesAndMemory (leaveUp p s) = diesAndMemory s := by
  unfold leaveUp
  dsimp only
  split_ifs <;> rfl

theorem collFail_diesAndMemory (n : Nat) (code : W16) (s : State) : diesAndMemory (collFail n code s) = diesAndMemory s := by
  rw [collFail, collFailWith_eq]
  split
  · refine foldl_keeps diesAndMemory (fun s e => ?_) _ s
    unfold failMember
    rw [poisonOf_obj]
    rfl
  · rfl

theorem dieCollFail_diesAndMemory (d : Nat) (s : State) : diesAndMemory (dieCollFail d s) = diesAndMemory s := by
  unfold dieCollFail
  refine foldl_keeps diesAndMemory (fun s e => ?_) _ s
  exact collFail_diesAndMemory e.1 _ s

/-- A die in service goes into recovery; no other die and no memory is written (R298). -/
theorem startRecovery_recovers {d : Nat} {s : State} (hd : d < 5) (hs : (getDie s d).state = .inService) :
    (getDie (startRecovery d none [] s) d).state = .recovering ∧ (∀ e, e ≠ d → getDie (startRecovery d none [] s) e = getDie s e)
      ∧ (startRecovery d none [] s).mem = s.mem := by
  generalize ht : startRecovery d none [] s = t
  unfold startRecovery at ht
  rw [if_pos ⟨hd, hs⟩] at ht
  extract_lets left work first faults marked failed at ht
  have hleft : diesAndMemory left = diesAndMemory s := foldl_keeps diesAndMemory (fun s p => leaveUp_diesAndMemory p s) _ s
  have hfailed : diesAndMemory failed = diesAndMemory marked := dieCollFail_diesAndMemory d marked
  have hmarked : diesAndMemory marked = (Tbl.set {} s.faults.dies d { state := .recovering, firstCtx := first, cmds := [] }, s.mem) :=
    congrArg (fun x : Tbl Die × Memory => (Tbl.set ({} : Die) x.1 d { state := .recovering, firstCtx := first, cmds := [] }, x.2)) hleft
  have hall : diesAndMemory t = (Tbl.set {} s.faults.dies d { state := .recovering, firstCtx := first, cmds := [] }, s.mem) := by
    rw [← ht, foldl_keeps diesAndMemory (fun s c => faultCtx_diesAndMemory _ _ s), hfailed, hmarked]
  have hdie (e : Nat) : getDie t e = if e = d then { state := .recovering, firstCtx := first, cmds := [] } else getDie s e := by
    rw [getDie_of_diesAndMemory hall, Tbl.get_set]
    rfl
  exact ⟨by rw [hdie, if_pos rfl], fun e he => by rw [hdie, if_neg he], congrArg Prod.snd hall⟩

/-! ### STALL_DETECT (R187, R287) -/

/-- A stall that has been noticed (R187). -/
def stallNoticed (die router : Nat) (h : PacketHeader) (s : State) : State :=
  faultNotice { die := die, router := router, port := outPort s h die router, vn := h.vn.toNat, src := h.src, context := h.context, code := 0x5003 } s

/-- The record of a stall (R287). -/
def stallRecord (h : PacketHeader) : FaultRecord := { code := 0x5003, kind := 4, source := h.src, address := h.dest.zeroExtend 64 }

theorem stallDetect_hangs {die router : Nat} {h : PacketHeader} {s : State} (hc : h.context ≠ 0) (hv : h.vn ≠ 3) :
    stallDetect die router h s = faultCtx h.context.toNat (stallRecord h) (unitResource h.src) (stallNoticed die router h s) :=
  if_neg (not_or.mpr ⟨fun hk => hc hk.1, hv⟩)

theorem stallDetect_recovers {die router : Nat} {h : PacketHeader} {s : State} (hv : h.vn = 3) : stallDetect die router h s
    = startRecovery die none [] (systemFault { stallRecord h with action := 3 } (stallNoticed die router h s)) :=
  if_pos (.inr hv)

/-! ### The obligation -/

/-- Settles O34: each event by its header, and each requester by what it takes. -/
theorem networkEvents : Obligations.NetworkEvents := by
  refine ⟨?errRsp, ?retryTimer, ?rescue, ?stall⟩
  case errRsp =>
    intro die router h s hd hr d inst x cell strayed served
    have hrun (v : State) (hv : errRsp die router h s = v) : exec (.errRsp die router h) s = .next { v with free := v.free + 1 } :=
      exec_comes rfl (decide_eq_true ⟨hd, hr⟩) hv
    refine ⟨fun hc => hrun _ (errRsp_unissued hc), fun hc h6 hn hs => ⟨?stray, ?program, ?cell⟩, fun hc h6 h4 => hrun _ (errRsp_other hc h6 h4)⟩
    case stray => exact fun ht => hrun _ (errRsp_stray hc h6 hn ht)
    case program => exact fun ht hu => hrun _ ((errRsp_taken hc h6 hn ht hs).trans (takeErrRsp_program hu))
    case cell =>
      intro ht hu h4 h32 hj hretry
      exact ⟨_, hrun _ ((errRsp_taken hc h6 hn ht hs).trans (takeErrRsp_cellRetry hu h4 h32 hj hretry)),
        markRetry_spec d inst h.txid.toNat true s⟩
  case retryTimer =>
    intro die cell i s hd hc hi
    exact ⟨_, exec_comes (u := retryTimer die cell i s) rfl (decide_eq_true ⟨hd, hc, hi⟩) rfl, markRetry_spec die cell i false s⟩
  case rescue =>
    intro die router age lost s hd hr x counted stuck
    have hrun (v : State) (hv : livelockRescue die router age lost s = v) :
        exec (.livelockRescue die router age lost) s = .next { v with free := v.free + 1 } := exec_comes rfl (decide_eq_true ⟨hd, hr⟩) hv
    exact ⟨fun h => hrun _ (livelockRescue_idle h), fun ha hl hn => hrun _ (livelockRescue_none ha hl hn),
      fun ha hl e he => hrun _ (livelockRescue_grants ha hl he)⟩
  case stall =>
    intro die router h s hd hr
    have hrun (v : State) (hv : stallDetect die router h s = v) : exec (.stallDetect die router h) s = .next { v with free := v.free + 1 } :=
      exec_comes rfl (decide_eq_true ⟨hd, hr⟩) hv
    refine ⟨?hangs, ?recovers⟩
    case hangs =>
      intro c hc hv hl hreset
      have hfault := faultCtx_hangs (s := stallNoticed die router h s) hl hreset (stallRecord h) (unitResource h.src)
      have hctx (k : Nat) (x : Ctx) : getCtx (setCtx s c x) k = if k = c then x else getCtx s k := Tbl.get_set _ _ _ _ _
      refine ⟨_, hrun _ ((stallDetect_hangs hc hv).trans hfault), ?state, ?code, rfl, ?others, rfl, rfl⟩
      case state => exact congrArg Ctx.state ((hctx c _).trans (if_pos rfl))
      case code => exact congrArg (fun x : Ctx => x.fault.map (·.code)) ((hctx c _).trans (if_pos rfl))
      case others => exact fun k hk => (hctx k _).trans (if_neg hk)
    case recovers =>
      intro hv h5 hs
      have hkept := systemFault_diesAndMemory { stallRecord h with action := 3 } (stallNoticed die router h s)
      have hdie (e : Nat) : getDie (systemFault { stallRecord h with action := 3 } (stallNoticed die router h s)) e = getDie s e :=
        getDie_of_diesAndMemory hkept e
      obtain ⟨hrec, hothers, hmem⟩ := startRecovery_recovers h5 ((congrArg Die.state (hdie die)).trans hs)
      exact ⟨_, hrun _ (stallDetect_recovers hv), hrec, fun e he => (hothers e he).trans (hdie e), hmem.trans (congrArg Prod.snd hkept)⟩

end Sys2Proof.Machine
end

section
/-! What moves one power domain: a gate, an ungate, the end of DOMAIN_CTRL commands and the wishes that wait (R190, R344-R346, R358). -/

namespace Sys2Proof.Machine

/-- DOMAIN_CTRL commands that wait, each with its domain and whether it ungates (R345). -/
abbrev DomCmds := List (CmdRef × Nat × Bool)

/-! ### One domain moved -/

/-- Domain `d` is moved with the commands `l` left waiting: of the rest, the mailboxes, the PLLs and READY or ACTIVE alone may follow. -/
structure OnlyDomain (d : Nat) (l : DomCmds) (s t : State) : Prop where
  rest : apartFromDoms t = apartFromDoms { s with power := { s.power with domCmds := l } }
  others : ∀ e, e ≠ d → getDom t e = getDom s e

namespace OnlyDomain
variable {d : Nat} {l l' : DomCmds} {s t u : State}

theorem same (d : Nat) (s : State) : OnlyDomain d s.power.domCmds s s := ⟨rfl, fun _ _ => rfl⟩

theorem trans (h : OnlyDomain d l s t) (h' : OnlyDomain d l' t u) : OnlyDomain d l' s u where
  rest := h'.rest.trans (congrArg (fun t : State => { t with power := { t.power with domCmds := l' } }) h.rest)
  others := fun e he => (h'.others e he).trans (h.others e he)

theorem cmds (h : OnlyDomain d l s t) : t.power.domCmds = l := (congrArg (fun t : State => t.power.domCmds) h.rest :)

theorem goal (h : OnlyDomain d l s t) : t.power.goal = s.power.goal := (congrArg (fun t : State => t.power.goal) h.rest :)

theorem supply (h : OnlyDomain d l s t) : t.power.supply = s.power.supply := (congrArg (fun t : State => t.power.supply) h.rest :)

theorem mem (h : OnlyDomain d l s t) : t.mem = s.mem := (congrArg State.mem h.rest :)

theorem obj (h : OnlyDomain d l s t) : t.obj = s.obj := (congrArg State.obj h.rest :)

theorem cmp (h : OnlyDomain d l s t) : t.cmp = s.cmp := (congrArg State.cmp h.rest :)

theorem swarm (h : OnlyDomain d l s t) : t.swarm = s.swarm := (congrArg State.swarm h.rest :)

end OnlyDomain

theorem setDom_only (d : Nat) (x : Domain) (s : State) : OnlyDomain d s.power.domCmds s (setDom s d x) :=
  ⟨rfl, fun e he => getDom_setDom_ne s d x e he⟩

theorem getDom_of_mail {s t : State} (h : apartFromMail t = apartFromMail s) (e : Nat) : getDom t e = getDom s e :=
  (congrArg (getDom · e) h :)

/-- What a change of a domain's state makes of the domains (R346). -/
theorem getDom_setDomState (d : Nat) (st : DomState) (s : State) (e : Nat) :
    getDom (setDomState d st s) e = if e = d then { getDom s d with state := st } else getDom s e := by
  unfold setDomState
  dsimp only
  split
  next h =>
    split
    next he => rw [he, ← h]
    next => rfl
  next =>
    obtain ⟨p, -, hp⟩ := refreshPkg_apartFromMail (sendOwner 0xE005
      [BitVec.ofNat 8 (pkgCode s.power.pkg), BitVec.ofNat 8 d, BitVec.ofNat 8 (domCode st)] (settlePlls (setDom s d { getDom s d with state := st })))
    rw [getDom_of_mail hp]
    exact (getDom_of_mail (sendOwner_apartFromMail _ _ _) e).trans (Tbl.get_set _ _ _ _ _)

theorem setDomState_only (d : Nat) (st : DomState) (s : State) : OnlyDomain d s.power.domCmds s (setDomState d st s) :=
  ⟨setDomState_apartFromDoms d st s, fun e he => by rw [getDom_setDomState, if_neg he]⟩

/-! ### Gate and ungate -/

/-- A CLOSED domain as its wake begins (R190, R192). -/
def wokenDomain (x : Domain) : Domain :=
  { x with state := .waking, wakeFailed := false, wakes := satAdd x.wakes 1, wakesOvf := x.wakesOvf || satLost x.wakes 1 }

/-- An ungate or a gate. -/
def moveDomain (up : Bool) (d : Nat) (s : State) : State := if up then ungate d s else gate d s

theorem getDom_gate (d : Nat) (s : State) (e : Nat) :
    getDom (gate d s) e = if e = d ∧ (getDom s d).state = .up then { getDom s d with state := .closing } else getDom s e := by
  unfold gate
  by_cases h : (getDom s d).state = .up
  · simp only [h, if_true, and_true, getDom_setDomState]
  · simp only [h, if_false, and_false]

theorem getDom_ungate (d : Nat) (s : State) (e : Nat) :
    getDom (ungate d s) e = if e = d ∧ (getDom s d).state = .closed ∧ s.power.supply ≠ .hold then wokenDomain (getDom s d) else getDom s e := by
  unfold ungate
  dsimp only
  by_cases h : (getDom s d).state = .closed ∧ s.power.supply ≠ .hold
  · rw [if_pos h, getDom_setDomState, getDom_setDom]
    by_cases he : e = d
    · rw [if_pos he, if_pos ⟨he, h⟩]
      rfl
    · rw [if_neg he, if_neg (fun hk => he hk.1), getDom_setDom_ne _ _ _ _ he]
  · rw [if_neg h, if_neg (fun hk => h hk.2)]

theorem gate_only (d : Nat) (s : State) : OnlyDomain d s.power.domCmds s (gate d s) :=
  ⟨gate_apartFromDoms d s, fun e he => by rw [getDom_gate, if_neg (fun h => he h.1)]⟩

theorem ungate_only (d : Nat) (s : State) : OnlyDomain d s.power.domCmds s (ungate d s) :=
  ⟨ungate_apartFromDoms d s, fun e he => by rw [getDom_ungate, if_neg (fun h => he h.1)]⟩

theorem moveDomain_only (up : Bool) (d : Nat) (s : State) : OnlyDomain d s.power.domCmds s (moveDomain up d s) := by
  cases up
  · exact gate_only d s
  · exact ungate_only d s

/-- A gate begins the CLOSING of an UP domain. -/
theorem gate_closes {d : Nat} {s : State} (h : (getDom s d).state = .up) : (getDom (moveDomain false d s) d).state = .closing :=
  (congrArg Domain.state (getDom_gate d s d)).trans (by rw [if_pos ⟨rfl, h⟩])

/-- An ungate begins the WAKING of a CLOSED domain outside HOLD (R358). -/
theorem ungate_wakes {d : Nat} {s : State} (h : (getDom s d).state = .closed) (hs : s.power.supply ≠ .hold) :
    getDom (moveDomain true d s) d = wokenDomain (getDom s d) :=
  (getDom_ungate d s d).trans (if_pos ⟨rfl, h, hs⟩)

/-- A domain that is neither UP, nor CLOSED outside HOLD, takes no move. -/
theorem moveDomain_idle {d : Nat} {s : State} (hup : (getDom s d).state ≠ .up)
    (hclosed : ¬ ((getDom s d).state = .closed ∧ s.power.supply ≠ .hold)) (up : Bool) : moveDomain up d s = s := by
  cases up
  · exact if_neg hup
  · exact if_neg hclosed

/-- What a domain keeps under every gate and ungate. -/
structure Steady (P : Domain → Prop) : Prop where
  gated : ∀ x, P x → x.state = .up → P { x with state := .closing }
  ungated : ∀ x, P x → x.state = .closed → P (wokenDomain x)

theorem gate_steady {P : Domain → Prop} (hP : Steady P) {d : Nat} {s : State} (h : P (getDom s d)) (e : Nat) : P (getDom (gate e s) d) := by
  rw [getDom_gate]
  split
  next hk =>
    obtain ⟨rfl, hup⟩ := hk
    exact hP.gated _ h hup
  next => exact h

theorem ungate_steady {P : Domain → Prop} (hP : Steady P) {d : Nat} {s : State} (h : P (getDom s d)) (e : Nat) : P (getDom (ungate e s) d) := by
  rw [getDom_ungate]
  split
  next hk =>
    obtain ⟨rfl, hclosed, -⟩ := hk
    exact hP.ungated _ h hclosed
  next => exact h

/-! ### DOMAIN_CTRL commands that wait -/

/-- A command waits that wishes domain `d` UP, or CLOSED. -/
def wished (d : Nat) (up : Bool) (l : DomCmds) : Prop := ∃ e ∈ l, e.2.1 = d ∧ e.2.2 = up

/-- The commands left as those of a domain that wished this end. -/
def unmet (d : Nat) (up : Bool) (l : DomCmds) : DomCmds := l.filter (fun e => !(e.2.1 == d && e.2.2 == up))

/-- A command that wished the other of UP and CLOSED is left. -/
theorem mem_unmet {d : Nat} {up : Bool} {l : DomCmds} {e : CmdRef × Nat × Bool} (hd : e.2.1 = d) : e ∈ unmet d up l ↔ e ∈ l ∧ e.2.2 = !up := by
  simp only [unmet, List.mem_filter, hd, beq_self_eq_true, Bool.true_and]
  cases e.2.2 <;> cases up <;> simp

theorem unmet_append_own (d : Nat) (up : Bool) (c : CmdRef) (l : DomCmds) : unmet d up (l ++ [(c, d, up)]) = unmet d up l := by
  simp [unmet]

/-- Commands end with a code, and the domains stay (R345). -/
theorem endDomCmds_writes (d : Nat) (up : Bool) (code : W16) (s : State) :
    apartFromMail (endDomCmds d up code s) = apartFromMail { s with power := { s.power with domCmds := unmet d up s.power.domCmds } } := by
  unfold endDomCmds
  refine foldl_keeps apartFromMail (fun s e => ?_) _ _
  exact finishCmd_apartFromMail _ _ _ s

theorem getDom_endDomCmds (d : Nat) (up : Bool) (code : W16) (s : State) (e : Nat) : getDom (endDomCmds d up code s) e = getDom s e :=
  getDom_of_mail (endDomCmds_writes d up code s) e

theorem endDomCmds_only (d : Nat) (up : Bool) (code : W16) (s : State) :
    OnlyDomain d (unmet d up s.power.domCmds) s (endDomCmds d up code s) :=
  ⟨apartFromDoms_of_mail (endDomCmds_writes d up code s), fun e _ => getDom_endDomCmds d up code s e⟩

section
variable {d : Nat} {s : State}

theorem pushDomCmds_of_none (h : ∀ e ∈ s.power.domCmds, e.2.1 ≠ d) : pushDomCmds d s = s := by
  have hfind : s.power.domCmds.find? (fun e => e.2.1 == d) = none := List.find?_eq_none.mpr (fun e he => by simpa using h e he)
  unfold pushDomCmds
  rw [hfind]

/-- Of commands that all wish the same of a domain, the oldest moves it. -/
theorem pushDomCmds_of_all {up : Bool} (hall : ∀ e ∈ s.power.domCmds, e.2.1 = d → e.2.2 = up) (hsome : ∃ e ∈ s.power.domCmds, e.2.1 = d) :
    pushDomCmds d s = moveDomain up d s := by
  unfold pushDomCmds
  cases hfind : s.power.domCmds.find? (fun e => e.2.1 == d) with
  | none =>
    obtain ⟨e, he, hd⟩ := hsome
    exact absurd hd (by simpa using List.find?_eq_none.mp hfind e he)
  | some e =>
    obtain ⟨c, k, b⟩ := e
    have hup : b = up := hall _ (List.mem_of_find?_eq_some hfind) (by simpa using List.find?_some hfind)
    subst hup
    cases b <;> rfl

theorem pushDomCmds_cases (d : Nat) (s : State) : pushDomCmds d s = s ∨ ∃ up, pushDomCmds d s = moveDomain up d s := by
  unfold pushDomCmds
  split
  · exact .inr ⟨true, rfl⟩
  · exact .inr ⟨false, rfl⟩
  · exact .inl rfl

theorem pushDomCmds_only (d : Nat) (s : State) : OnlyDomain d s.power.domCmds s (pushDomCmds d s) := by
  rcases pushDomCmds_cases d s with h | ⟨up, h⟩
  · rw [h]
    exact .same d s
  · rw [h]
    exact moveDomain_only up d s

theorem pushDomCmds_idle (hup : (getDom s d).state ≠ .up) (hclosed : ¬ ((getDom s d).state = .closed ∧ s.power.supply ≠ .hold)) :
    pushDomCmds d s = s := by
  rcases pushDomCmds_cases d s with h | ⟨up, h⟩
  · exact h
  · rw [h, moveDomain_idle hup hclosed]

theorem pushDomCmds_steady {P : Domain → Prop} (hP : Steady P) (h : P (getDom s d)) : P (getDom (pushDomCmds d s) d) := by
  rcases pushDomCmds_cases d s with hs | ⟨up, hs⟩
  · rwa [hs]
  · rw [hs]
    cases up
    · exact gate_steady hP h d
    · exact ungate_steady hP h d

/-- A transition in progress moves a domain by gates and ungates alone (R348-R350). -/
theorem stepGoal_steady {P : Domain → Prop} (hP : Steady P) (h : P (getDom s d)) : P (getDom (stepGoal s) d) := by
  cases hg : s.power.goal with
  | none => rwa [stepGoal_none hg]
  | some cg =>
    obtain ⟨c, g⟩ := cg
    have hpush : P (getDom (pushGoal g s) d) := by
      refine foldl_preserves (P := fun s => P (getDom s d)) (fun s e hs => ?_) _ h
      split_ifs
      · exact ungate_steady hP hs e.1
      · exact hs
      · exact gate_steady hP hs e.1
    rcases stepGoal_cases hg with hs | hs | ⟨hs, -⟩
    · rwa [hs]
    · rwa [hs]
    · obtain ⟨l, p, hreach, -⟩ := reachGoal_writes c g (pushGoal g s)
      have hdom : getDom (reachGoal c g (pushGoal g s)) d = getDom (pushGoal g s) d := getDom_of_mail hreach d
      rwa [hs, hdom]

end

/-! ### A state reached -/

/-- A domain reaches a state, and the commands that wished it end (R345, R346). -/
def domainReaches (d : Nat) (st : DomState) (up : Bool) (s : State) : State := endDomCmds d up 0 (setDomState d st s)

/-- A later wish of a domain is met, and a transition goes on (R345, R348). -/
def wishesMet (d : Nat) (s : State) : State := stepGoal (pushDomCmds d s)

theorem domainReaches_only (d : Nat) (st : DomState) (up : Bool) (s : State) :
    OnlyDomain d (unmet d up s.power.domCmds) s (domainReaches d st up s) := by
  have hset := setDomState_only d st s
  have hend := endDomCmds_only d up 0 (setDomState d st s)
  rw [hset.cmds] at hend
  exact hset.trans hend

theorem getDom_domainReaches (d : Nat) (st : DomState) (up : Bool) (s : State) :
    getDom (domainReaches d st up s) d = { getDom s d with state := st } := by
  rw [domainReaches, getDom_endDomCmds, getDom_setDomState, if_pos rfl]

theorem wishesMet_steady {P : Domain → Prop} (hP : Steady P) {d : Nat} {s : State} (h : P (getDom s d)) : P (getDom (wishesMet d s) d) :=
  stepGoal_steady hP (pushDomCmds_steady hP h)

theorem wishesMet_outsidePower (d : Nat) (s : State) : outsidePower (wishesMet d s) = outsidePower s :=
  (stepGoal_outsidePower _).trans (pushDomCmds_outsidePower d s)

section
variable {d : Nat} {up : Bool} {l : DomCmds} {s : State}

theorem wishesMet_only (hg : s.power.goal = none) : OnlyDomain d s.power.domCmds s (wishesMet d s) := by
  have hpush := pushDomCmds_only d s
  rw [wishesMet, stepGoal_none (hpush.goal.trans hg)]
  exact hpush

/-- With the commands of one wish ended, a command of the other wish moves the domain. -/
theorem wishesMet_wished (hg : s.power.goal = none) (hl : s.power.domCmds = unmet d up l) (hw : wished d (!up) l) :
    wishesMet d s = moveDomain (!up) d s := by
  obtain ⟨e, he, hd, hup⟩ := hw
  have hpush : pushDomCmds d s = moveDomain (!up) d s :=
    pushDomCmds_of_all (fun e he hd => ((mem_unmet hd).mp (hl ▸ he)).2) ⟨e, hl ▸ (mem_unmet hd).mpr ⟨he, hup⟩, hd⟩
  rw [wishesMet, hpush, stepGoal_none ((moveDomain_only (!up) d s).goal.trans hg)]

/-- With the commands of one wish ended, and none of the other, the domain stays. -/
theorem wishesMet_unwished (hg : s.power.goal = none) (hl : s.power.domCmds = unmet d up l) (hw : ¬ wished d (!up) l) : wishesMet d s = s := by
  have hpush : pushDomCmds d s = s := pushDomCmds_of_none (fun e he hd =>
    hw ⟨e, ((mem_unmet hd).mp (hl ▸ he)).1, hd, ((mem_unmet hd).mp (hl ▸ he)).2⟩)
  rw [wishesMet, hpush, stepGoal_none hg]

end

end Sys2Proof.Machine
end

section
/-! DOMAIN_CTRL, DOMAIN_CLOSED, DOMAIN_UP and DOMAIN_WAKE (R190, R192, R269, R344-R346, R358). -/

namespace Sys2Proof.Machine

/-! ### What a domain's units lose and how they come UP (R344) -/

/-- The state without what the loss and the start of a domain's units write. -/
def besideUnits (s : State) : State :=
  { s with keeper := {}, cmp := {}, net := { doms := s.net.doms }, swarm := {}, frame := {}, holmi := {},
           power := { s.power with pcieUp := false, port62Up := false, xspiBusy := false } }

theorem cmp_besideUnits (c : Compute) (s : State) : besideUnits { s with cmp := c } = besideUnits s := rfl

theorem frame_besideUnits (f : Frame) (s : State) : besideUnits { s with frame := f } = besideUnits s := rfl

theorem blankRegions_besideUnits (ks : List Nat) (s : State) : besideUnits (blankRegions ks s) = besideUnits s := frame_besideUnits _ s

theorem loseDomain_besideUnits (d : Nat) (s : State) : besideUnits (loseDomain d s) = besideUnits s := by
  have hports (die : Nat) : besideUnits ((portsOfDie die).foldl (fun s p =>
      setSlink s p { retired := (getSlink s p).retired, configuredOff := (getSlink s p).configuredOff }) s) = besideUnits s := by
    refine foldl_keeps besideUnits (fun s p => ?_) _ s
    rfl
  unfold loseDomain
  dsimp only
  split_ifs
  · exact cmp_besideUnits _ s
  · exact cmp_besideUnits _ s
  · exact hports (d / 12)
  · rfl
  · split
    · rfl
    · exact blankRegions_besideUnits _ s
    · exact frame_besideUnits _ s
    · exact blankRegions_besideUnits _ s
    · exact blankRegions_besideUnits _ s
    · exact blankRegions_besideUnits _ s
    · exact cmp_besideUnits _ s
    · exact cmp_besideUnits _ s
    · rfl
    · rfl
    · rfl
    · rfl

theorem freshUnits_besideUnits (d : Nat) (s : State) : besideUnits (freshUnits d s) = besideUnits s := by
  unfold freshUnits
  dsimp only
  split_ifs
  · exact cmp_besideUnits _ s
  · exact cmp_besideUnits _ s
  · rfl
  · exact cmp_besideUnits _ s
  · exact cmp_besideUnits _ s
  · rfl

theorem getDom_of_besideUnits {s t : State} (h : besideUnits t = besideUnits s) (e : Nat) : getDom t e = getDom s e :=
  (congrArg (getDom · e) h :)

/-- Each of the four cells of a domain, after they have been written alike, holds what was written. -/
theorem get_cellRun (d : Nat) {i : Nat} (hi : i < 4) (v : Cell) (t : Tbl Cell) :
    Tbl.get {} ((upFrom 0 4).foldl (fun t i => Tbl.set {} t (32 * (d / 12) + 4 * (d % 12) + i) v) t) (32 * (d / 12) + (4 * (d % 12) + i)) = v := by
  rw [← Nat.add_assoc]
  refine foldl_reaches (P := fun t => Tbl.get {} t (32 * (d / 12) + 4 * (d % 12) + i) = v)
    (f := fun t i => Tbl.set {} t (32 * (d / 12) + 4 * (d % 12) + i) v) (x := i) (fun t j ht => ?_) (fun t => ?_)
    (mem_upFrom.mpr ⟨Nat.zero_le i, by omega⟩) t
  · rw [Tbl.get_set, ht, ite_self]
  · exact Tbl.get_set_self {} t _ v

section
variable {d i : Nat} (hd : d < 48) (hg : d % 12 < 8) (hi : i < 4)
include hd hg hi

/-- The cells of a domain that becomes CLOSED are gated (R344). -/
theorem loseDomain_cells (s : State) : getCell (loseDomain d s) (d / 12) (4 * (d % 12) + i) = { state := .gated } := by
  unfold loseDomain
  dsimp only
  rw [if_pos hd, if_pos hg]
  exact get_cellRun d hi { state := .gated } s.cmp.cells

/-- The cells of a domain that comes UP are IDLE. -/
theorem freshUnits_cells (s : State) : getCell (freshUnits d s) (d / 12) (4 * (d % 12) + i) = {} := by
  unfold freshUnits
  dsimp only
  rw [if_pos hd, if_pos hg]
  exact get_cellRun d hi {} s.cmp.cells

end

theorem getCell_of_outsidePower {s t : State} (h : outsidePower t = outsidePower s) (d c : Nat) : getCell t d c = getCell s d c :=
  (congrArg (getCell · d c) h :)

/-! ### DOMAIN_CLOSED (R190, R344) -/

section
variable {d : Nat} {s : State}

/-- A domain as it becomes CLOSED, before a later wish is met. -/
def closedDomain (d : Nat) (s : State) : State := domainReaches d .closed false (loseDomain d s)

theorem domainClosed_closes (hc : (getDom s d).state = .closing) (hb : domainBusy s d = false)
    (hw : s.obj.slots.any (fun e => watchesDomain s d e.2) = false) : domainClosed d s = wishesMet d (closedDomain d s) :=
  if_pos ⟨hc, by simp [hb], by simp [hw]⟩

theorem domainClosed_idle (h : (getDom s d).state ≠ .closing ∨ domainBusy s d = true ∨ s.obj.slots.any (fun e => watchesDomain s d e.2) = true) :
    domainClosed d s = s :=
  if_neg (fun ⟨hc, hb, hw⟩ => h.elim (fun h => h hc) (fun h => h.elim hb hw))

/-! ### DOMAIN_UP (R190, R192) -/

/-- A domain as its wake ends with its units IDLE. -/
def wakeEnded (d : Nat) (s : State) : State := setDom (freshUnits d s) d { getDom s d with notice := false, wakeFailed := false }

/-- A domain as it comes UP, before a later wish is met. -/
def upDomain (d : Nat) (s : State) : State := domainReaches d .up true (wakeEnded d s)

theorem domainUp_ready (h : (getDom s d).state = .waking) : domainUp d true s = wishesMet d (upDomain d s) :=
  (if_pos h).trans (if_pos rfl)

/-- A wake that fails leaves the domain CLOSED, and the commands that wished it UP end (R192). -/
theorem domainUp_fails (h : (getDom s d).state = .waking) : ∃ t, domainUp d false s = t ∧ OnlyDomain d (unmet d true s.power.domCmds) s t
    ∧ getDom t d = { getDom s d with state := .closed, wakeFailed := true } := by
  have hset := (setDom_only d { getDom s d with wakeFailed := true } s).trans (setDomState_only d .closed _)
  have hend := endDomCmds_only d true (pickStatus s 1 (cardCodes 0x0302))
    (setDomState d .closed (setDom s d { getDom s d with wakeFailed := true }))
  rw [hset.cmds] at hend
  exact ⟨_, (if_pos h).trans (if_neg Bool.false_ne_true), hset.trans hend,
    by rw [getDom_endDomCmds, getDom_setDomState, if_pos rfl, getDom_setDom]⟩

theorem domainUp_idle (h : (getDom s d).state ≠ .waking) (ready : Bool) : domainUp d ready s = s := if_neg h

/-! ### DOMAIN_WAKE (R192, R358) -/

/-- A notice wakes a CLOSED domain of a die in service outside HOLD. -/
theorem domainWake_wakes (hn : (getDom s d).notice = true) (hf : (getDom s d).wakeFailed = false) (hd : dieServes s d = true)
    (hc : (getDom s d).state = .closed) (hs : s.power.supply ≠ .hold) :
    ∃ t, domainWake d s = t ∧ OnlyDomain d s.power.domCmds s t ∧ getDom t d = wokenDomain (getDom s d) :=
  ⟨moveDomain true d s, if_pos ⟨hn, by simp [hf], hd⟩, moveDomain_only true d s, ungate_wakes hc hs⟩

/-- Without a notice, after a failed wake, on a die out of service, or where an ungate does nothing, no domain is woken. -/
theorem domainWake_idle (h : (getDom s d).notice = false ∨ (getDom s d).wakeFailed = true ∨ dieServes s d = false ∨ (getDom s d).state ≠ .closed
    ∨ s.power.supply = .hold) : domainWake d s = s := by
  have hungate (hk : ¬ ((getDom s d).state = .closed ∧ s.power.supply ≠ .hold)) : domainWake d s = s := by
    have hsame : ungate d s = s := if_neg hk
    unfold domainWake
    dsimp only
    rw [hsame, ite_self]
  rcases h with hnotice | hfailed | hserves | hstate | hhold
  · exact if_neg (by simp [hnotice])
  · exact if_neg (by simp [hfailed])
  · exact if_neg (by simp [hserves])
  · exact hungate (fun hk => hstate hk.1)
  · exact hungate (fun hk => hk.2 hhold)

end

/-! ### What holds of a domain after DOMAIN_CLOSED and DOMAIN_UP whatever follows -/

/-- A domain that is CLOSED or on its way UP again. -/
def ClosedOrWaking (x : Domain) : Prop := x.state = .closed ∨ x.state = .waking

theorem closedOrWaking_steady : Steady ClosedOrWaking where
  gated x h hup := by rcases h with h | h <;> rw [h] at hup <;> cases hup
  ungated _ _ _ := .inr rfl

/-- A domain whose wake has succeeded: UP or CLOSING again, without a notice or a failed wake. -/
def UpOrClosing (x : Domain) : Prop := (x.state = .up ∨ x.state = .closing) ∧ x.notice = false ∧ x.wakeFailed = false

theorem upOrClosing_steady : Steady UpOrClosing where
  gated _ h _ := ⟨.inr rfl, h.2⟩
  ungated x h hclosed := by rcases h.1 with h | h <;> rw [h] at hclosed <;> cases hclosed

/-- No gate or ungate writes the wake-on-access bit. -/
theorem woa_steady (w : Bool) : Steady (fun x => x.woa = w) where
  gated _ h _ := h
  ungated _ h _ := h

/-! ### DOMAIN_CTRL (R269, R345) -/

section
variable {r : Req} {d b w : Nat} {c : CmdRef} {s : State}

/-- An accepted DOMAIN_CTRL as it begins: the wake-on-access bit is set, and it waits (R345). -/
def ctrlTaken (d b w : Nat) (c : CmdRef) (s : State) : State :=
  { setDom s d { getDom s d with woa := w == 1 } with power := { s.power with domCmds := s.power.domCmds ++ [(c, d, b == 1)] } }

/-- The run of DOMAIN_CTRL (R345). -/
def ctrlFrom (d b w : Nat) (c : CmdRef) (s : State) : State :=
  if b = 1 ∧ (getDom (ctrlTaken d b w c s) d).state = .up then endDomCmds d true 0 (ctrlTaken d b w c s)
  else if b = 0 ∧ (getDom (ctrlTaken d b w c s) d).state = .closed then endDomCmds d false 0 (ctrlTaken d b w c s)
  else pushDomCmds d (ctrlTaken d b w c s)

theorem ctrlTaken_only (d b w : Nat) (c : CmdRef) (s : State) :
    OnlyDomain d (s.power.domCmds ++ [(c, d, b == 1)]) s (ctrlTaken d b w c s) :=
  ⟨rfl, fun e he => getDom_setDom_ne s d _ e he⟩

theorem getDom_ctrlTaken (d b w : Nat) (c : CmdRef) (s : State) : getDom (ctrlTaken d b w c s) d = { getDom s d with woa := w == 1 } :=
  getDom_setDom s d _

/-- The domain is already in the state that the command wishes. -/
def wishHolds (b : Nat) (x : DomState) : Prop := (b = 1 ∧ x = .up) ∨ (b = 0 ∧ x = .closed)

theorem ctrlFrom_ends (h : wishHolds b (getDom s d).state) : ctrlFrom d b w c s = endDomCmds d (b == 1) 0 (ctrlTaken d b w c s) := by
  unfold ctrlFrom
  rw [getDom_ctrlTaken]
  rcases h with ⟨rfl, hst⟩ | ⟨rfl, hst⟩
  · exact if_pos ⟨rfl, hst⟩
  · rw [if_neg (by simp), if_pos ⟨rfl, hst⟩]
    rfl

theorem ctrlFrom_waits (h : ¬ wishHolds b (getDom s d).state) : ctrlFrom d b w c s = pushDomCmds d (ctrlTaken d b w c s) := by
  unfold ctrlFrom
  rw [getDom_ctrlTaken, if_neg (fun hk => h (.inl hk)), if_neg (fun hk => h (.inr hk))]

/-- The commands left after a DOMAIN_CTRL: it has ended with the others of its wish, or it waits. -/
theorem ctrlFrom_only_ends (h : wishHolds b (getDom s d).state) :
    OnlyDomain d (unmet d (b == 1) s.power.domCmds) s (ctrlFrom d b w c s) := by
  have hend := endDomCmds_only d (b == 1) 0 (ctrlTaken d b w c s)
  rw [(ctrlTaken_only d b w c s).cmds, unmet_append_own] at hend
  rw [ctrlFrom_ends h]
  exact (ctrlTaken_only d b w c s).trans hend

theorem ctrlFrom_only_waits (h : ¬ wishHolds b (getDom s d).state) :
    OnlyDomain d (s.power.domCmds ++ [(c, d, b == 1)]) s (ctrlFrom d b w c s) := by
  have hpush := pushDomCmds_only d (ctrlTaken d b w c s)
  rw [(ctrlTaken_only d b w c s).cmds] at hpush
  rw [ctrlFrom_waits h]
  exact (ctrlTaken_only d b w c s).trans hpush

theorem ctrlFrom_only (d b w : Nat) (c : CmdRef) (s : State) : ∃ l, OnlyDomain d l s (ctrlFrom d b w c s) := by
  by_cases h : wishHolds b (getDom s d).state
  · exact ⟨_, ctrlFrom_only_ends h⟩
  · exact ⟨_, ctrlFrom_only_waits h⟩

theorem ctrlFrom_woa (d b w : Nat) (c : CmdRef) (s : State) : (getDom (ctrlFrom d b w c s) d).woa = (w == 1) := by
  have hwoa : (getDom (ctrlTaken d b w c s) d).woa = (w == 1) := congrArg Domain.woa (getDom_ctrlTaken d b w c s)
  by_cases h : wishHolds b (getDom s d).state
  · rwa [ctrlFrom_ends h, getDom_endDomCmds]
  · rw [ctrlFrom_waits h]
    exact pushDomCmds_steady (woa_steady (w == 1)) hwoa

theorem ctrlFrom_state_ends (h : wishHolds b (getDom s d).state) : (getDom (ctrlFrom d b w c s) d).state = (getDom s d).state := by
  rw [ctrlFrom_ends h, getDom_endDomCmds, getDom_ctrlTaken]

/-- A command whose domain takes no move waits with it as it was. -/
theorem ctrlFrom_state_idle (hb : ¬ wishHolds b (getDom s d).state) (hup : (getDom s d).state ≠ .up)
    (hclosed : ¬ ((getDom s d).state = .closed ∧ s.power.supply ≠ .hold)) : (getDom (ctrlFrom d b w c s) d).state = (getDom s d).state := by
  have hst : (getDom (ctrlTaken d b w c s) d).state = (getDom s d).state := by rw [getDom_ctrlTaken]
  rw [ctrlFrom_waits hb, pushDomCmds_idle (by rwa [hst]) (by rwa [hst]), hst]

/-- A command whose wish no older one of the domain opposes moves the domain. -/
theorem ctrlFrom_moves (hb : ¬ wishHolds b (getDom s d).state) (h : ∀ e ∈ s.power.domCmds, e.2.1 = d → e.2.2 = (b == 1)) :
    ctrlFrom d b w c s = moveDomain (b == 1) d (ctrlTaken d b w c s) := by
  have hcmds := (ctrlTaken_only d b w c s).cmds
  rw [ctrlFrom_waits hb]
  refine pushDomCmds_of_all (fun e he hd => ?_) ⟨(c, d, b == 1), by simp [hcmds], rfl⟩
  rw [hcmds, List.mem_append, List.mem_singleton] at he
  rcases he with he | rfl
  · exact h e he hd
  · rfl

/-- A gate of an UP domain that no older wish opposes begins its CLOSING (R345). -/
theorem ctrlFrom_gates (hb : b = 0) (hst : (getDom s d).state = .up) (h : ∀ e ∈ s.power.domCmds, e.2.1 = d → e.2.2 = false) :
    (getDom (ctrlFrom d b w c s) d).state = .closing := by
  subst hb
  rw [ctrlFrom_moves (by simp [wishHolds, hst]) h]
  exact gate_closes (by rw [getDom_ctrlTaken, hst])

/-- An ungate of a CLOSED domain that no older wish opposes begins its WAKING outside HOLD (R345, R358). -/
theorem ctrlFrom_ungates (hb : b = 1) (hst : (getDom s d).state = .closed) (hs : s.power.supply ≠ .hold)
    (h : ∀ e ∈ s.power.domCmds, e.2.1 = d → e.2.2 = true) : (getDom (ctrlFrom d b w c s) d).state = .waking := by
  subst hb
  rw [ctrlFrom_moves (by simp [wishHolds, hst]) h]
  exact congrArg Domain.state (ungate_wakes (s := ctrlTaken d 1 w c s) (by rw [getDom_ctrlTaken, hst]) hs)

/-- DOMAIN_CTRL with a domain or a flag out of range is rejected (R345). -/
theorem domainCtrl_range (h : 63 < leNat r.p 0 1 ∨ leNat r.p 0 1 = 56 ∨ 1 < leNat r.p 1 1 ∨ 1 < leNat r.p 2 1) : domainCtrl r s = reject s 0x1006 :=
  if_pos h

theorem domainCtrl_refused (hd : leNat r.p 0 1 < 64) (h56 : leNat r.p 0 1 ≠ 56) (hb : leNat r.p 1 1 ≤ 1) (hw : leNat r.p 2 1 ≤ 1)
    (hr : domainRefused s (leNat r.p 0 1) (leNat r.p 1 1 = 1) = true) : domainCtrl r s = reject s 0x2001 :=
  (if_neg (by omega)).trans (if_pos hr)

theorem domainCtrl_accepts (hd : leNat r.p 0 1 < 64) (h56 : leNat r.p 0 1 ≠ 56) (hb : leNat r.p 1 1 ≤ 1) (hw : leNat r.p 2 1 ≤ 1)
    (hr : domainRefused s (leNat r.p 0 1) (leNat r.p 1 1 = 1) = false) (hp : pendingFull s r.m = false) :
    domainCtrl r s = accepted r (ctrlFrom (leNat r.p 0 1) (leNat r.p 1 1) (leNat r.p 2 1)) s := by
  unfold domainCtrl
  dsimp only
  rw [if_neg (by omega), if_neg (by rw [hr]; exact Bool.false_ne_true), acceptOr_free hp]
  rfl

/-- A domain whose region drains or loads is refused in both directions (R269). -/
theorem domainRefused_of_region {k : Nat} (hk : k ∈ domRegions d) (h : (getRegion s k).state = .draining ∨ (getRegion s k).state = .loading)
    (up : Bool) : domainRefused s d up = true := by
  have hany : (domRegions d).any (fun k => (getRegion s k).state == .draining || (getRegion s k).state == .loading) = true :=
    List.any_eq_true.mpr ⟨k, hk, by simpa using h⟩
  simp only [domainRefused, hany, Bool.or_true, Bool.true_or]

end

end Sys2Proof.Machine
end

section
/-! The obligation on the power domains (R190, R192, R269, R344-R346, R358). -/

namespace Sys2Proof.Machine

section
variable {d : Nat} {s : State}

/-- What DOMAIN_CLOSED and DOMAIN_UP leave of the rest, where the domain's units are as in `w` and the domain as in `u` (R344, R345): `st` is the
state that the domain reaches, and `up` the wish that it meets. -/
theorem wishesMet_rest {w u : State} (hw : besideUnits w = besideUnits s) (hu : OnlyDomain d w.power.domCmds w u) (st : DomState) (up : Bool) :
    let v := domainReaches d st up u
    let t := wishesMet d v
    t.mem = s.mem ∧ t.obj = s.obj ∧ (∀ e c, getCell t e c = getCell w e c)
      ∧ v.power.goal = s.power.goal ∧ v.power.supply = s.power.supply ∧ v.power.domCmds = unmet d up s.power.domCmds
      ∧ (s.power.goal = none → (∀ e, e ≠ d → getDom t e = getDom s e) ∧ t.power.domCmds = unmet d up s.power.domCmds) := by
  intro v t
  have hcmds : w.power.domCmds = s.power.domCmds := (congrArg (fun t : State => t.power.domCmds) hw :)
  have hv : OnlyDomain d (unmet d up s.power.domCmds) w v := hcmds ▸ hu.cmds ▸ hu.trans (domainReaches_only d st up u)
  have hgoal : v.power.goal = s.power.goal := hv.goal.trans (congrArg (fun t : State => t.power.goal) hw :)
  have hout : outsidePower t = outsidePower v := wishesMet_outsidePower d v
  refine ⟨?mem, ?obj, fun e c => ?cell, hgoal, ?supply, hv.cmds, fun hg => ?still⟩
  case mem => exact ((congrArg State.mem hout :).trans hv.mem).trans (congrArg State.mem hw :)
  case obj => exact ((congrArg State.obj hout :).trans hv.obj).trans (congrArg State.obj hw :)
  case cell =>
    rw [getCell_of_outsidePower hout]
    exact congrArg (fun x : Compute => Tbl.get ({} : Cell) x.cells (32 * e + c)) hv.cmp
  case supply => exact hv.supply.trans (congrArg (fun t : State => t.power.supply) hw :)
  case still =>
    have ht := wishesMet_only (d := d) (hgoal.trans hg)
    exact ⟨fun e he => (ht.others e he).trans ((hv.others e he).trans (getDom_of_besideUnits hw e)), ht.cmds.trans hv.cmds⟩

/-- DOMAIN_CLOSED of a CLOSING domain without work (R190, R344, R345). -/
theorem domainClosed_spec (hc : (getDom s d).state = .closing) (hb : domainBusy s d = false)
    (hw : s.obj.slots.any (fun e => watchesDomain s d e.2) = false) : ∃ t, domainClosed d s = t
      ∧ ((getDom t d).state = .closed ∨ (getDom t d).state = .waking) ∧ t.mem = s.mem ∧ t.obj = s.obj
      ∧ (d < 48 → d % 12 < 8 → ∀ i, i < 4 → getCell t (d / 12) (4 * (d % 12) + i) = { state := .gated })
      ∧ (s.power.goal = none → (∀ e, e ≠ d → getDom t e = getDom s e) ∧ t.power.domCmds = unmet d false s.power.domCmds
        ∧ (¬ wished d true s.power.domCmds → (getDom t d).state = .closed)
        ∧ (wished d true s.power.domCmds → s.power.supply ≠ .hold → (getDom t d).state = .waking)) := by
  obtain ⟨hmem, hobj, hcell, hgoal, hsupply, hcmds, hstill⟩ := wishesMet_rest (loseDomain_besideUnits d s) (.same d _) .closed false
  have hclosed : (getDom (closedDomain d s) d).state = .closed := congrArg Domain.state (getDom_domainReaches d .closed false _)
  refine ⟨_, domainClosed_closes hc hb hw, wishesMet_steady closedOrWaking_steady (.inl hclosed), hmem, hobj, fun hd hg i hi => ?cells, fun hg => ?still⟩
  case cells => exact (hcell _ _).trans (loseDomain_cells hd hg hi s)
  case still =>
    obtain ⟨hothers, hleft⟩ := hstill hg
    refine ⟨hothers, hleft, fun hw => ?stays, fun hw hs => ?wakes⟩
    case stays => exact (congrArg (fun t => (getDom t d).state) (wishesMet_unwished (hgoal.trans hg) hcmds hw)).trans hclosed
    case wakes =>
      have hwoken := ungate_wakes hclosed (hsupply ▸ hs)
      exact (congrArg (fun t => (getDom t d).state) (wishesMet_wished (hgoal.trans hg) hcmds hw)).trans (congrArg Domain.state hwoken)

/-- DOMAIN_UP of a WAKING domain that reports ready (R190, R192, R345). -/
theorem domainUp_spec (hw : (getDom s d).state = .waking) : ∃ t, domainUp d true s = t
      ∧ ((getDom t d).state = .up ∨ (getDom t d).state = .closing) ∧ (getDom t d).notice = false ∧ (getDom t d).wakeFailed = false
      ∧ t.mem = s.mem ∧ t.obj = s.obj
      ∧ (d < 48 → d % 12 < 8 → ∀ i, i < 4 → getCell t (d / 12) (4 * (d % 12) + i) = {})
      ∧ (s.power.goal = none → (∀ e, e ≠ d → getDom t e = getDom s e) ∧ t.power.domCmds = unmet d true s.power.domCmds
        ∧ (¬ wished d false s.power.domCmds → (getDom t d).state = .up)
        ∧ (wished d false s.power.domCmds → (getDom t d).state = .closing)) := by
  obtain ⟨hmem, hobj, hcell, hgoal, -, hcmds, hstill⟩ := wishesMet_rest (freshUnits_besideUnits d s) (setDom_only d _ _) .up true
  have hup : getDom (upDomain d s) d = { getDom s d with state := .up, notice := false, wakeFailed := false } := by
    rw [upDomain, getDom_domainReaches, wakeEnded, getDom_setDom]
  have hstate : (getDom (upDomain d s) d).state = .up := congrArg Domain.state hup
  obtain ⟨hst, hnotice, hfailed⟩ : UpOrClosing (getDom (wishesMet d (upDomain d s)) d) :=
    wishesMet_steady upOrClosing_steady (hup ▸ ⟨.inl rfl, rfl, rfl⟩)
  refine ⟨_, domainUp_ready hw, hst, hnotice, hfailed, hmem, hobj, fun hd hg i hi => ?cells, fun hg => ?still⟩
  case cells => exact (hcell _ _).trans (freshUnits_cells hd hg hi s)
  case still =>
    obtain ⟨hothers, hleft⟩ := hstill hg
    refine ⟨hothers, hleft, fun hw => ?stays, fun hw => ?closes⟩
    case stays => exact (congrArg (fun t => (getDom t d).state) (wishesMet_unwished (hgoal.trans hg) hcmds hw)).trans hstate
    case closes =>
      exact (congrArg (fun t => (getDom t d).state) (wishesMet_wished (hgoal.trans hg) hcmds hw)).trans (gate_closes hstate)

end

theorem getDom_acceptedState (s : State) (m d : Nat) : getDom (acceptedState s m) d = getDom s d := by
  obtain ⟨-, -, -, hnet, -, -⟩ := acceptedState_rest s m
  rw [getDom, hnet, getDom]

/-- What an accepted DOMAIN_CTRL leaves of the state in which it was asked. -/
theorem ctrlFrom_accepted {d m : Nat} {l : DomCmds} {s v : State} (h : OnlyDomain d l (acceptedState s m) v) :
    (∀ e, e ≠ d → getDom v e = getDom s e) ∧ v.mem = s.mem ∧ v.obj = s.obj ∧ v.cmp = s.cmp := by
  obtain ⟨hobj, hmem, hcmp, -, -, -⟩ := acceptedState_rest s m
  exact ⟨fun e he => (h.others e he).trans (getDom_acceptedState s m e), h.mem.trans hmem, h.obj.trans hobj, h.cmp.trans hcmp⟩

/-- Settles O43: the command by the state of its domain, and each event by the state that it ends. -/
theorem powerDomains : Obligations.PowerDomains := by
  refine ⟨?command, ?events⟩
  case command =>
    intro m s p d up x
    have hrun : exec (.domainCtrl m) s = inRange (decide (m < 32)) (takeUpCard 0x0302 domainCtrl m s) := rfl
    refine ⟨?accepts, ?range, ?refused⟩
    case accepts =>
      intro h hd h56 hb hw hr older after waits ends
      obtain ⟨hask, hroom⟩ := askedLong_iff.mp h
      have hacc := domainCtrl_accepts (r := reqOf s m) hd h56 hb hw hr hroom
      have hdom : getDom (acceptedState s m) d = x := getDom_acceptedState s m d
      obtain ⟨-, -, -, -, hswarm, -⟩ := acceptedState_rest s m
      have hpower : (acceptedState s m).power = s.power := rfl
      have hleft {l : DomCmds} {v : State} (h : OnlyDomain d l (acceptedState s m) v) := ctrlFrom_accepted h
      have hnode (v : State) (hv : v.swarm = (acceptedState s m).swarm) : v.swarm.node = s.swarm.node :=
        congrArg Swarm.node (hv.trans hswarm)
      have hans := answers_of_accepted (.domainCtrl m) hrun hask hacc
      generalize acceptedState s m = u at hdom hpower hleft hnode hans
      obtain ⟨l, honly⟩ := ctrlFrom_only d (leNat p 1 1) (leNat p 2 1) (refOf s m) u
      specialize hans (hnode _ honly.swarm)
      have hwoa := ctrlFrom_woa d (leNat p 1 1) (leNat p 2 1) (refOf s m) u
      have hends (h : wishHolds (leNat p 1 1) x.state) : ends x.state := by
        rw [← hdom] at h
        have honly := ctrlFrom_only_ends (w := leNat p 2 1) (c := refOf s m) h
        rw [hpower] at honly
        exact ⟨_, hans, (ctrlFrom_state_ends h).trans (congrArg Domain.state hdom), hwoa, honly.cmds, hleft honly⟩
      have hwaits {st : DomState} (h : ¬ wishHolds (leNat p 1 1) x.state)
          (hst : (getDom (ctrlFrom d (leNat p 1 1) (leNat p 2 1) (refOf s m) u) d).state = st) : waits st := by
        rw [← hdom] at h
        have honly := ctrlFrom_only_waits (w := leNat p 2 1) (c := refOf s m) h
        rw [hpower] at honly
        exact ⟨_, hans, hst, hwoa, honly.cmds, hleft honly⟩
      have hidle (h : ¬ wishHolds (leNat p 1 1) x.state) (hup : x.state ≠ .up) (hclosed : ¬ (x.state = .closed ∧ s.power.supply ≠ .hold)) :
          waits x.state := by
        have hstays := ctrlFrom_state_idle (d := d) (b := leNat p 1 1) (w := leNat p 2 1) (c := refOf s m) (s := u)
        rw [hdom, hpower] at hstays
        exact hwaits h (hstays h hup hclosed)
      refine ⟨fun hb hst hold => ?gate, fun hb hst hold hs => ?ungate, fun hb hst hs => ?hold, fun hb hst => ?upAlready, fun hb hst => ?closedAlready,
        fun hst => ?closing, fun hst => ?waking, _, hans, hwoa, hleft honly⟩
      case gate =>
        have hb0 : leNat p 1 1 = 0 := by omega
        exact hwaits (by simp [wishHolds, hb0, hst]) (ctrlFrom_gates hb0 (by rw [hdom, hst]) (hpower ▸ hold))
      case ungate =>
        have hb1 : leNat p 1 1 = 1 := hb
        exact hwaits (by simp [wishHolds, hb1, hst]) (ctrlFrom_ungates hb1 (by rw [hdom, hst]) (hpower ▸ hs) (hpower ▸ hold))
      case hold =>
        have hb1 : leNat p 1 1 = 1 := hb
        exact hst ▸ hidle (by simp [wishHolds, hst, hb1]) (by simp [hst]) (fun h => h.2 hs)
      case upAlready => exact hst ▸ hends (.inl ⟨hb, hst⟩)
      case closedAlready =>
        have hb0 : leNat p 1 1 = 0 := by omega
        exact hst ▸ hends (.inr ⟨hb0, hst⟩)
      case closing => exact hst ▸ hidle (by simp [wishHolds, hst]) (by simp [hst]) (by simp [hst])
      case waking => exact hst ▸ hidle (by simp [wishHolds, hst]) (by simp [hst]) (by simp [hst])
    case range =>
      intro h hr
      exact answers_of_done (.domainCtrl m) hrun h (domainCtrl_range hr) rfl
    case refused =>
      intro h hb hw h56 hd hr
      have hrefused : domainRefused (taken s m) d (leNat p 1 1 = 1) = true := by
        rcases hr with ⟨k, hk, hst⟩ | hr
        · exact domainRefused_of_region (s := taken s m) hk hst _
        · exact hr
      exact answers_of_done (.domainCtrl m) hrun h (domainCtrl_refused hd h56 hb hw hrefused) rfl
  case events =>
    intro d s hd x still wish left idle
    have hd' := decide_eq_true hd
    refine ⟨?closed, ?notClosed, ?up, ?fails, ?notUp, ?wakes, ?notWoken⟩
    case closed =>
      intro hc hb hw
      obtain ⟨t, ht, hspec⟩ := domainClosed_spec hc hb hw
      exact ⟨_, exec_comes rfl hd' ht, hspec⟩
    case notClosed => exact fun h => exec_comes rfl hd' (domainClosed_idle h)
    case up =>
      intro hw
      obtain ⟨t, ht, hspec⟩ := domainUp_spec hw
      exact ⟨_, exec_comes rfl hd' ht, hspec⟩
    case fails =>
      intro hw
      obtain ⟨t, ht, honly, hdom⟩ := domainUp_fails hw
      exact ⟨_, exec_comes rfl hd' ht, congrArg Domain.state hdom, congrArg Domain.wakeFailed hdom, honly.cmds, honly.others,
        honly.mem, honly.obj, honly.cmp⟩
    case notUp => exact fun h ready => exec_comes rfl hd' (domainUp_idle h ready)
    case wakes =>
      intro hn hf hserves hc hs
      obtain ⟨t, ht, honly, hdom⟩ := domainWake_wakes hn hf hserves hc hs
      exact ⟨_, exec_comes rfl hd' ht, congrArg Domain.state hdom, congrArg Domain.wakes hdom, honly.others,
        honly.mem, honly.obj, honly.cmp⟩
    case notWoken => exact fun h => exec_comes rfl hd' (domainWake_idle h)

end Sys2Proof.Machine
end

section
/-! A collective's result that fails its own slot where the slots stand in no canonical form (R222, R227, R229). -/

namespace Sys2Proof.Machine

/-- An ARMED slot of a lone member that is to write its result of 256 bytes into its own input window, whose parcel is already written. -/
def resultInOwnWindow (owner : BitVec 10) : CollSlot :=
  { owner := owner, state := .armed, op := 1, members := 1, count := 128, result := 0x01100000000, written := [(0, true)] }

/-- Slot 0 of die 0 listed twice, for contexts 0 and 1. -/
def slotListedTwice : State := { cmp := { slots := [(0, resultInOwnWindow 0), (0, resultInOwnWindow 1)] } }

/-- Refutes O33: the result meets a parcel that is already written, so that the collective fails on every entry listed for the slot; in a
table of slots in no canonical form the last of them, which belongs to another context, then stands for the slot. -/
theorem not_collectiveProgress : ¬ Obligations.CollectiveProgress := by
  intro h
  obtain ⟨-, -, hresult, -⟩ := h 0 0 slotListedTwice (by decide) (by decide)
  obtain ⟨t, ht, -, -, howner, -⟩ :=
    hresult [] (zeros 256) (by decide +kernel) (by decide +kernel) (by decide +kernel) (fun _ => by decide +kernel) (by decide +kernel)
  obtain ⟨u, hu, hother⟩ : ∃ u, exec (.collResult 0 0 true []) slotListedTwice = .next u ∧ (getColl u 0).owner = 1 :=
    ⟨_, rfl, by decide +kernel⟩
  obtain rfl : t = u := Host.Outcome.next.inj (ht.symm.trans hu)
  exact absurd (howner.symm.trans hother) (by decide +kernel)

end Sys2Proof.Machine
end

section
/-! CTX_DESTROY where the objects stand in no canonical form (R54, R73, R97). -/

namespace Sys2Proof.Machine

/-- Context 0 at its destroy, with an armed slot that watches address 0, and a table of objects that lists entry 5 twice: first as an object of
the context, then as one of context 1 that holds the address. -/
def objectListedTwice : State :=
  { obj := { ctxs := [(0, { live := true, state := .destroying })],
             mot := [(5, { kind := 1, owner := 0 }), (5, { kind := 1, owner := 1, size := 1 })],
             slots := [(0, { ctx := some 0, state := .armed })] } }

/-- Refutes O51: as the slots of a context are freed, the object that an armed one watches counts it no longer, by the first entry that holds
the watched address; in a table of objects in no canonical form this is written over another entry of the same number, and the object of the
context, which it hides, is never freed. -/
theorem not_resetAndRecovery : ¬ Obligations.ResetAndRecovery := by
  intro h
  obtain ⟨-, hctx, -⟩ := h
  obtain ⟨-, hdestroy, -⟩ := hctx 0 objectListedTwice (by decide) (by decide)
  obtain ⟨t, ht, -, -, -, hfreed, -⟩ := hdestroy rfl rfl
  obtain ⟨u, hu, hlives⟩ : ∃ u, exec (.contextReset 0) objectListedTwice = .next u ∧ (getMot u 5).kind = 1 := ⟨_, rfl, by decide +kernel⟩
  obtain rfl : t = u := Host.Outcome.next.inj (ht.symm.trans hu)
  exact absurd (hlives.symm.trans (hfreed 5 (by decide) (by decide))) (by decide)

end Sys2Proof.Machine
end

section
/-! Swarm-link ports: what training, an IDENT, the loss of a link and LINK_CONFIG write (R203, R204, R208, R211, R231). -/

namespace Sys2Proof.Machine

/-! ### Ports and their partners (R200) -/

theorem partner_ne {p : Nat} (h : p < 6) : partner p ≠ p := by interval_cases p <;> decide

theorem partner_partner {p : Nat} (h : p < 6) : partner (partner p) = p := by interval_cases p <;> rfl

theorem getSlink_setSlink_partner {p : Nat} (h : p < 6) (s : State) (x : SlinkPort) :
    getSlink (setSlink s p x) (partner p) = getSlink s (partner p) := getSlink_setSlink_ne _ _ _ _ (partner_ne h)

/-- What the ports of the swarm links hold decides what each of them holds. -/
theorem getSlink_of_swarm {s t : State} (h : t.swarm = s.swarm) (k : Nat) : getSlink t k = getSlink s k := by
  rw [getSlink, h, getSlink]

/-- Nothing but ports of the swarm links is written. -/
def PortsOnly (s t : State) : Prop := ∃ l, t = { s with swarm := { s.swarm with ports := l } }

namespace PortsOnly

variable {s t : State}

theorem refl (s : State) : PortsOnly s s := ⟨s.swarm.ports, rfl⟩

theorem setSlink (h : PortsOnly s t) (p : Nat) (x : SlinkPort) : PortsOnly s (setSlink t p x) := by
  obtain ⟨l, rfl⟩ := h
  exact ⟨_, rfl⟩

theorem sendFlit (h : PortsOnly s t) (p : Nat) (f : LinkFlit) : PortsOnly s (sendFlit p f t) := h.setSlink _ _

theorem trans {u : State} (h : PortsOnly s t) (h' : PortsOnly t u) : PortsOnly s u := by
  obtain ⟨l, rfl⟩ := h
  obtain ⟨k, rfl⟩ := h'
  exact ⟨k, rfl⟩

/-- The state as the command leaves it, where it wrote nothing but ports. -/
theorem next (h : PortsOnly s t) : { t with free := t.free + 1 }
    = { s with swarm := { s.swarm with ports := t.swarm.ports }, free := s.free + 1 } := by
  obtain ⟨l, rfl⟩ := h
  rfl

end PortsOnly

/-! ### A port that leaves UP (R208, R211) -/

/-- What a port that is UP in `s` and leaves UP makes of the state. -/
structure LeavesUp (p : Nat) (s t : State) : Prop where
  ports : PortsOnly s t
  others : ∀ k, k ≠ p → k ≠ partner p → getSlink t k = getSlink s k
  lanes : (getSlink t p).laneLock = 0
  txSeq : (getSlink t p).txSeq = (getSlink s p).txSeq
  rxSeq : (getSlink t p).rxSeq = (getSlink s p).rxSeq
  handed : (getSlink s (partner p)).state = .up → (getSlink t p).state = .handover
    ∧ getSlink t (partner p) = offerFlit (getSlink s (partner p)) (controlFlit 4 (toLE 2 ((getSlink s p).rxSeq - 1).toNat))
  off : (getSlink s (partner p)).state ≠ .up → (getSlink t p).state = .off ∧ (getSlink t p).replay = []
    ∧ getSlink t (partner p)
      = if (getSlink s (partner p)).state = .handover then portOff (getSlink s (partner p)) else getSlink s (partner p)

/-- A port that is UP leaves UP over a partner that is UP by HANDOVER. -/
theorem leaveUp_handover {p : Nat} {s : State} (hp : p < 6) (hx : (getSlink s p).state = .up) (hy : (getSlink s (partner p)).state = .up) :
    leaveUp p s = setSlink (setSlink s p { getSlink s p with state := .handover, laneLock := 0 }) (partner p)
      (offerFlit (getSlink s (partner p)) (controlFlit 4 (toLE 2 ((getSlink s p).rxSeq - 1).toNat))) := by
  simp only [leaveUp, hx, hy, ne_eq, not_true_eq_false, if_false, if_true, sendFlit, getSlink_setSlink_partner hp]

/-- A port that is UP leaves UP without such a partner by going OFF, a partner that was itself in HANDOVER with it. -/
theorem leaveUp_off {p : Nat} {s : State} (hx : (getSlink s p).state = .up) (hy : (getSlink s (partner p)).state ≠ .up) :
    leaveUp p s = if (getSlink s (partner p)).state = .handover then setSlink (setSlink s p (portOff (getSlink s p))) (partner p)
      (portOff (getSlink s (partner p))) else setSlink s p (portOff (getSlink s p)) := by
  simp only [leaveUp, hx, hy, ne_eq, not_true_eq_false, if_false]

/-- A port leaves UP, from a state in which but its lane locks nothing has changed. -/
theorem leaveUp_leaves {p : Nat} {s w : State} {l : BitVec 4} (hp : p < 6) (hx : (getSlink s p).state = .up) (hw : PortsOnly s w)
    (hothers : ∀ k, k ≠ p → getSlink w k = getSlink s k) (hport : getSlink w p = { getSlink s p with laneLock := l }) :
    LeavesUp p s (leaveUp p w) := by
  have hup : (getSlink w p).state = .up := by rw [hport]; exact hx
  have hpp : partner p ≠ p := partner_ne hp
  have hrx : (getSlink w p).rxSeq = (getSlink s p).rxSeq := by rw [hport]
  have htx : (getSlink w p).txSeq = (getSlink s p).txSeq := by rw [hport]
  have hy : getSlink w (partner p) = getSlink s (partner p) := hothers _ hpp
  by_cases hup' : (getSlink s (partner p)).state = .up
  case pos =>
    have ht := leaveUp_handover hp hup (by rw [hy]; exact hup')
    have hself : getSlink (leaveUp p w) p = { getSlink w p with state := .handover, laneLock := 0 } := by
      rw [ht, getSlink_setSlink_ne _ _ _ _ hpp.symm, getSlink_setSlink]
    refine ⟨ht ▸ (hw.setSlink _ _).setSlink _ _, fun k hk hk' => ?_, ?_, ?_, ?_, fun _ => ⟨?_, ?_⟩, fun h => absurd hup' h⟩
    · rw [ht, getSlink_setSlink_ne _ _ _ _ hk', getSlink_setSlink_ne _ _ _ _ hk, hothers k hk]
    · rw [hself]
    · rw [hself]; exact htx
    · rw [hself]; exact hrx
    · rw [hself]
    · rw [ht, getSlink_setSlink, hy, hrx]
  case neg =>
    have ht := leaveUp_off hup (by rw [hy]; exact hup')
    rw [hy] at ht
    have hself : getSlink (leaveUp p w) p = portOff (getSlink w p) := by
      rw [ht]
      split
      · rw [getSlink_setSlink_ne _ _ _ _ hpp.symm, getSlink_setSlink]
      · rw [getSlink_setSlink]
    refine ⟨?_, fun k hk hk' => ?_, ?_, ?_, ?_, fun h => absurd h hup', fun _ => ⟨?_, ?_, ?_⟩⟩
    · rw [ht]
      split
      · exact (hw.setSlink _ _).setSlink _ _
      · exact hw.setSlink _ _
    · rw [ht]
      split
      · rw [getSlink_setSlink_ne _ _ _ _ hk', getSlink_setSlink_ne _ _ _ _ hk, hothers k hk]
      · rw [getSlink_setSlink_ne _ _ _ _ hk, hothers k hk]
    · rw [hself]; rfl
    · rw [hself]; exact htx
    · rw [hself]; exact hrx
    · rw [hself]; rfl
    · rw [hself]; rfl
    · rw [ht]
      split
      · rw [getSlink_setSlink]
      · rw [getSlink_setSlink_partner hp, hy]

/-! ### Route switches of the Keeper (R196, R198) -/

/-- The state without what the Keeper's route switches write. -/
def apartFromSwitches (s : State) : State := { s with keeper := {}, net := {} }

theorem nextSwitch_apartFromSwitches (n : Nat) (s : State) : apartFromSwitches (nextSwitch n s) = apartFromSwitches s := by
  induction n generalizing s with
  | zero => rfl
  | succ n ih =>
    unfold nextSwitch
    split
    · rfl
    · dsimp only
      split
      · rw [ih]; rfl
      · rfl

theorem keeperRoutes_apartFromSwitches (d : Nat) (l : Tbl W32) (s : State) : apartFromSwitches (keeperRoutes d l s) = apartFromSwitches s := by
  unfold keeperRoutes
  dsimp only
  split_ifs
  · rfl
  · rfl
  · rw [nextSwitch_apartFromSwitches]; rfl
  · rfl

theorem installNode_apartFromSwitches (s : State) (n : Nat) : apartFromSwitches (installNode s n) = apartFromSwitches s :=
  foldl_keeps apartFromSwitches (fun s d => keeperRoutes_apartFromSwitches d _ s) _ s

theorem moveRoutes_apartFromSwitches (p : Nat) (s : State) : apartFromSwitches (moveRoutes p s) = apartFromSwitches s :=
  foldl_keeps apartFromSwitches (fun s (e : Nat × Tbl W32) => keeperRoutes_apartFromSwitches e.1 e.2 s) _ s

/-- What a switch of the Keeper leaves: everything that a port's training and a command's answer look at. -/
theorem kept_of_switches {s t : State} (h : apartFromSwitches t = apartFromSwitches s) :
    t.swarm = s.swarm ∧ t.mem = s.mem ∧ t.obj = s.obj ∧ t.faults = s.faults ∧ t.boot = s.boot ∧ t.test = s.test :=
  ⟨(congrArg State.swarm h :), (congrArg State.mem h :), (congrArg State.obj h :), (congrArg State.faults h :), (congrArg State.boot h :),
    (congrArg State.test h :)⟩

/-! ### Link events and the end of a LINK_CONFIG -/

theorem getSlink_linkEvent (p : Nat) (s : State) : ∃ r, getSlink (linkEvent p s) p = { getSlink s p with retired := r } :=
  ⟨_, getSlink_setSlink _ _ _⟩

theorem getSlink_linkEvent_ne {p k : Nat} (h : k ≠ p) (s : State) : getSlink (linkEvent p s) k = getSlink s k :=
  getSlink_setSlink_ne _ _ _ _ h

/-- A link event leaves all but the fault log, the windows and its port. -/
theorem linkEvent_rest (p : Nat) (s : State) : (linkEvent p s).mem = s.mem ∧ (linkEvent p s).obj = s.obj
    ∧ (linkEvent p s).swarm.members = s.swarm.members ∧ (linkEvent p s).swarm.node = s.swarm.node ∧ (linkEvent p s).boot = s.boot
    ∧ (linkEvent p s).test = s.test := ⟨rfl, rfl, rfl, rfl, rfl, rfl⟩

theorem endLinkCmd_swarm (p : Nat) (c : W16) (s : State) :
    (endLinkCmd p c s).swarm = (setSlink s p { getSlink s p with cmd := none }).swarm := by
  unfold endLinkCmd
  dsimp only
  split <;> rfl

theorem getSlink_endLinkCmd (p : Nat) (c : W16) (s : State) (k : Nat) :
    getSlink (endLinkCmd p c s) k = if k = p then { getSlink s p with cmd := none } else getSlink s k := by
  rw [getSlink_of_swarm (endLinkCmd_swarm p c s)]
  exact Tbl.get_set _ _ _ k _

/-- The end of a LINK_CONFIG leaves all but the mailboxes and its port. -/
theorem endLinkCmd_rest (p : Nat) (c : W16) (s : State) : (endLinkCmd p c s).mem = s.mem ∧ (endLinkCmd p c s).obj = s.obj
    ∧ (endLinkCmd p c s).swarm.members = s.swarm.members ∧ (endLinkCmd p c s).swarm.node = s.swarm.node ∧ (endLinkCmd p c s).boot = s.boot
    ∧ (endLinkCmd p c s).test = s.test ∧ (endLinkCmd p c s).net = s.net ∧ (endLinkCmd p c s).faults = s.faults := by
  unfold endLinkCmd
  dsimp only
  split <;> exact ⟨rfl, rfl, rfl, rfl, rfl, rfl, rfl, rfl⟩

/-- Where no LINK_CONFIG waits for the port, none ends. -/
theorem endLinkCmd_none {p : Nat} {c : W16} {s : State} {x : SlinkPort} (h : x.cmd = none) :
    endLinkCmd p c (setSlink s p x) = setSlink (setSlink s p x) p x := by
  have hx : { x with cmd := none } = x := by rw [← h]
  simp only [endLinkCmd, getSlink_setSlink, h, hx]

/-! ### Training (R203) -/

/-- An attempt that fails with less than three before it is tried again. -/
theorem failAttempt_retries {p : Nat} {s : State} (h : (getSlink s p).failedAttempts + 1 < 4) : failAttempt p s = setSlink s p
    { getSlink s p with failedAttempts := (getSlink s p).failedAttempts + 1, retryWait := true, state := .detect, laneLock := 0 } := if_pos h

/-- A port whose attempts have all failed. -/
def triedOut (x : SlinkPort) : SlinkPort := { x with failedAttempts := x.failedAttempts + 1, retryWait := false, state := .off, laneLock := 0 }

/-- The fourth attempt that fails leaves the port OFF. -/
theorem failAttempt_off {p : Nat} {s : State} (h : 4 ≤ (getSlink s p).failedAttempts + 1) :
    (getSlink (failAttempt p s) p).state = .off ∧ (getSlink (failAttempt p s) p).retryWait = false ∧ (failAttempt p s).mem = s.mem
      ∧ (failAttempt p s).obj = s.obj ∧ (failAttempt p s).swarm.members = s.swarm.members := by
  have hoff : failAttempt p s
      = endLinkCmd p (pickStatus s 1 (cardCodes 0x0401)) (linkEvent p (setSlink s p (triedOut (getSlink s p)))) := if_neg (Nat.not_lt.mpr h)
  rw [hoff]
  obtain ⟨r, hr⟩ := getSlink_linkEvent p (setSlink s p (triedOut (getSlink s p)))
  obtain ⟨hmem, hobj, hmembers, -⟩ :=
    endLinkCmd_rest p (pickStatus s 1 (cardCodes 0x0401)) (linkEvent p (setSlink s p (triedOut (getSlink s p))))
  obtain ⟨hmem', hobj', hmembers', -⟩ := linkEvent_rest p (setSlink s p (triedOut (getSlink s p)))
  rw [getSlink_endLinkCmd, if_pos rfl, hr, getSlink_setSlink, hmem, hobj, hmembers, hmem', hobj', hmembers']
  exact ⟨rfl, rfl, rfl, rfl, rfl⟩

/-- A port whose training starts. -/
def trainingStarted (x : SlinkPort) : SlinkPort :=
  { x with state := .detect, laneLock := 0, retryWait := false, trains := satAdd x.trains 1, trainsOvf := x.trainsOvf || satLost x.trains 1,
           replay := [], queued := [], rxPacket := [], delays := 0 }

theorem startTraining_eq (p : Nat) (s : State) : startTraining p s = setSlink s p (trainingStarted (getSlink s p)) := rfl

/-! ### IDENT (R204) -/

/-- A matching IDENT brings the port UP; its entries return where its peer is a member of a formed swarm. -/
theorem acceptLink_up {p : Nat} {delay : W16} {s : State} (hc : (getSlink s p).cmd = none) :
    (∀ k, getSlink (acceptLink p delay s) k = if k = p then portUp (getSlink s p) delay else getSlink s k)
      ∧ ((s.swarm.formed = false ∨ bitOf s.swarm.members (peerNode s p) = false) → PortsOnly s (acceptLink p delay s)) := by
  have hport : { portUp (getSlink s p) delay with cmd := none } = portUp (getSlink s p) delay := by
    rw [← show (portUp (getSlink s p) delay).cmd = none from hc]
  refine ⟨fun k => ?ports, fun h => ?only⟩
  case ports =>
    have hroutes : (if s.swarm.formed ∧ bitOf s.swarm.members (peerNode s p)
        then installNode (setSlink s p (portUp (getSlink s p) delay)) (peerNode s p) else setSlink s p (portUp (getSlink s p) delay)).swarm
        = (setSlink s p (portUp (getSlink s p) delay)).swarm :=
      ite_keeps (kept_of_switches (installNode_apartFromSwitches _ _)).1 rfl
    have hrouted := getSlink_of_swarm hroutes
    refine (getSlink_endLinkCmd _ _ _ k).trans ?_
    split
    next => exact (congrArg (fun x : SlinkPort => { x with cmd := none }) ((hrouted p).trans (getSlink_setSlink _ _ _))).trans hport
    next hk => exact (hrouted k).trans (getSlink_setSlink_ne _ _ _ _ hk)
  case only =>
    have hnone : ¬ (s.swarm.formed = true ∧ bitOf s.swarm.members (peerNode s p) = true) := by
      rcases h with h | h <;> simp [h]
    have hlink : acceptLink p delay s = endLinkCmd p 0 (setSlink s p (portUp (getSlink s p) delay)) :=
      congrArg (endLinkCmd p 0) (if_neg hnone)
    rw [hlink, endLinkCmd_none (x := portUp (getSlink s p) delay) hc]
    exact ((PortsOnly.refl s).setSlink _ _).setSlink _ _

/-- Whether a node number clashes is decided by the other ports (R19). -/
theorem nodeClash_congr {p : Nat} {s t : State} (hn : t.swarm.node = s.swarm.node) (h : ∀ k, k ≠ p → getSlink t k = getSlink s k)
    (node : BitVec 2) : nodeClash t p node = nodeClash s p node := by
  have hpeer (q : Nat) : peerNode t q = peerNode s q := by rw [peerNode, hn, peerNode]
  have hport (q : Nat) : (peerNode t q != peerNode t p && (getSlink t q).state == .up && (getSlink t q).peerNode == node)
      = (peerNode s q != peerNode s p && (getSlink s q).state == .up && (getSlink s q).peerNode == node) := by
    rw [hpeer, hpeer]
    by_cases hq : q = p
    · simp [hq]
    · rw [h q hq]
  simp only [nodeClash, hn, hport]

/-- A record takes the next index of the log. -/
theorem record_next (r : FaultRecord) (s : State) : (record r s).faults.next = s.faults.next + 1 := by
  unfold record
  dsimp only
  split
  · rfl
  · split
    · rfl
    · split <;> rfl

theorem systemFault_swarm (r : FaultRecord) (s : State) : (systemFault r s).swarm = s.swarm :=
  (congrArg State.swarm (systemFault_apartFromSlots r s) :)

theorem systemFault_next (r : FaultRecord) (s : State) : (systemFault r s).faults.next = s.faults.next + 1 :=
  (congrArg (fun t : State => t.faults.next) (sendOwner_apartFromKeeper _ _ _)).trans (record_next _ s)

/-- A port refused by IDENT. -/
def identRefused (x : SlinkPort) : SlinkPort := { x with state := .off, identMismatch := true, noRetry := true, laneLock := 0 }

/-- An IDENT that fails, where its node number is no other package's: OFF without retry, one record, and no other port changed. -/
theorem refuseIdent_off {p : Nat} {node : BitVec 2} {s : State} (hc : (getSlink s p).cmd = none) (hn : nodeClash s p node = false) :
    (∀ k, getSlink (refuseIdent p node s) k = if k = p then identRefused (getSlink s p) else getSlink s k)
      ∧ (refuseIdent p node s).faults.next = s.faults.next + 1 := by
  obtain ⟨u, hu⟩ : ∃ u, u = setSlink (setSlink s p (identRefused (getSlink s p))) p (identRefused (getSlink s p)) := ⟨_, rfl⟩
  obtain ⟨r, hr⟩ : ∃ r, refuseIdent p node s
      = if nodeClash (systemFault r u) p node then nodeConflict node.toNat (systemFault r u) else systemFault r u := by
    have hended (c : W16) : endLinkCmd p c (setSlink s p (identRefused (getSlink s p))) = u :=
      (endLinkCmd_none (x := identRefused (getSlink s p)) hc).trans hu.symm
    exact ⟨_, by rw [← hended]; rfl⟩
  have hports (k : Nat) : getSlink (systemFault r u) k = if k = p then identRefused (getSlink s p) else getSlink s k := by
    rw [getSlink_of_swarm (systemFault_swarm r u), hu]
    split
    next hk => rw [hk, getSlink_setSlink]
    next hk => rw [getSlink_setSlink_ne _ _ _ _ hk, getSlink_setSlink_ne _ _ _ _ hk]
  have hnode : (systemFault r u).swarm.node = s.swarm.node := by
    rw [systemFault_swarm, hu]
    rfl
  have hclash : nodeClash (systemFault r u) p node = false :=
    (nodeClash_congr hnode (fun k hk => (hports k).trans (if_neg hk)) node).trans hn
  rw [hr, if_neg (by rw [hclash]; exact Bool.false_ne_true)]
  refine ⟨hports, (systemFault_next r u).trans ?_⟩
  rw [hu]
  rfl

/-- IDENT on a port in DESKEW, IDENT or DELAY. -/
theorem identStep_eq {p : Nat} {node : BitVec 2} {port : BitVec 3} {version : Byte} {delay : W16} {s : State}
    (h : (getSlink s p).state = .deskew ∨ (getSlink s p).state = .ident ∨ (getSlink s p).state = .delay) :
    identStep p node port version delay s = if identOk s p node port version
      then acceptLink p delay (setSlink s p { getSlink s p with peerNode := node, peerPort := port })
      else refuseIdent p node (setSlink s p { getSlink s p with peerNode := node, peerPort := port }) := if_pos h

section
variable {p : Nat} {node : BitVec 2} {port : BitVec 3} {version : Byte} {delay : W16} {s : State}

/-- An IDENT that matches brings its port UP (R204). -/
theorem identStep_accepts (h : (getSlink s p).state = .deskew ∨ (getSlink s p).state = .ident ∨ (getSlink s p).state = .delay)
    (hc : (getSlink s p).cmd = none) (hok : identOk s p node port version = true) :
    (∀ k, getSlink (identStep p node port version delay s) k
        = if k = p then portUp { getSlink s p with peerNode := node, peerPort := port } delay else getSlink s k)
      ∧ ((s.swarm.formed = false ∨ bitOf s.swarm.members (peerNode s p) = false) → PortsOnly s (identStep p node port version delay s)) := by
  rw [identStep_eq h, if_pos hok]
  obtain ⟨hports, honly⟩ := acceptLink_up (p := p) (delay := delay)
    (s := setSlink s p { getSlink s p with peerNode := node, peerPort := port }) (by rw [getSlink_setSlink]; exact hc)
  refine ⟨fun k => (hports k).trans ?_, fun hm => ((PortsOnly.refl s).setSlink _ _).trans (honly hm)⟩
  split
  next => rw [getSlink_setSlink]
  next hk => rw [getSlink_setSlink_ne _ _ _ _ hk]

/-- An IDENT that does not match, from a node number that is no other package's, leaves its port OFF (R204). -/
theorem identStep_refuses (h : (getSlink s p).state = .deskew ∨ (getSlink s p).state = .ident ∨ (getSlink s p).state = .delay)
    (hc : (getSlink s p).cmd = none) (hno : identOk s p node port version = false) (hn : nodeClash s p node = false) :
    (∀ k, getSlink (identStep p node port version delay s) k
        = if k = p then identRefused { getSlink s p with peerNode := node, peerPort := port } else getSlink s k)
      ∧ (identStep p node port version delay s).faults.next = s.faults.next + 1 := by
  rw [identStep_eq h, if_neg (by rw [hno]; exact Bool.false_ne_true)]
  have hclash : nodeClash (setSlink s p { getSlink s p with peerNode := node, peerPort := port }) p node = false := by
    refine (nodeClash_congr ?_ (fun k hk => ?_) node).trans hn
    · rfl
    · exact getSlink_setSlink_ne _ _ _ _ hk
  obtain ⟨hports, hnext⟩ := refuseIdent_off (by rw [getSlink_setSlink]; exact hc) hclash
  refine ⟨fun k => (hports k).trans ?_, hnext⟩
  split
  next => rw [getSlink_setSlink]
  next hk => rw [getSlink_setSlink_ne _ _ _ _ hk]

end

/-! ### LINK_CONFIG (R231) -/

/-- A LINK_CONFIG in its ranges, at an expected port, with its partner UP unless it only starts the port, with no pattern and no retirement in
its way unless it only stops it, and with no switch running, is accepted. -/
theorem linkConfig_accepts {r : Req} {s : State} {p a : Nat} (hp : leNat r.p 0 1 = p) (ha : leNat r.p 1 1 = a) (hp6 : p < 6) (ha2 : a ≤ 1)
    (hexp : expectedPort s p = true) (hdown : a = 0 → (getSlink s (partner p)).state = .up)
    (hup : a = 1 → portPattern s p = false ∧ (getSlink s p).retired = false) (hsw : s.net.switching = none)
    (hfull : pendingFull s r.m = false) :
    linkConfig r s = accepted r (fun c s =>
      let s := endLinkCmd p (pickStatus s 1 (cardCodes 0x0401)) s
      if a = 0 then finishCmd c 0 [] (linkDown p s) else linkUp p c s) s := by
  unfold linkConfig
  have h01 : a = 0 ∨ a = 1 := by omega
  rcases h01 with h | h
  · subst h
    simp [hp, ha, hexp, hdown, hsw, acceptOr_free hfull, show ¬ 5 < p by omega]
  · subst h
    simp [hp, ha, hexp, hup, hsw, acceptOr_free hfull, show ¬ 5 < p by omega]

/-- The port taken down: OFF and held there, with no other port, memory or object changed. -/
theorem linkDown_off (p : Nat) (s : State) :
    (∀ k, getSlink (linkDown p s) k = if k = p then { portOff (getSlink s p) with configuredOff := true } else getSlink s k)
      ∧ (linkDown p s).mem = s.mem ∧ (linkDown p s).obj = s.obj ∧ (linkDown p s).swarm.node = s.swarm.node := by
  obtain ⟨hswarm, hmem, hobj, -⟩ := kept_of_switches (moveRoutes_apartFromSwitches p s)
  unfold linkDown
  generalize moveRoutes p s = t at hswarm hmem hobj ⊢
  refine ⟨fun k => ?_, hmem, hobj, (congrArg Swarm.node hswarm :)⟩
  split
  next hk => rw [hk, getSlink_setSlink, getSlink_of_swarm hswarm]
  next hk => rw [getSlink_setSlink_ne _ _ _ _ hk, getSlink_of_swarm hswarm]

/-- The port brought up from a state below UP: its training starts, and its command waits. -/
theorem linkUp_trains {p : Nat} {c : CmdRef} {s : State} (h : (getSlink s p).state ≠ .up) : linkUp p c s
    = setSlink (setSlink s p { getSlink s p with configuredOff := false, identMismatch := false, noRetry := false, failedAttempts := 0, cmd := some c }) p
      (trainingStarted { getSlink s p with configuredOff := false, identMismatch := false, noRetry := false, failedAttempts := 0, cmd := some c }) := by
  refine (if_neg h).trans ?_
  rw [startTraining_eq, getSlink_setSlink]

/-- LINK_CONFIG 0 once accepted: an earlier command of the port ends, and the port goes OFF. -/
theorem linkStop_off (p : Nat) (c : CmdRef) (code : W16) {s u : State} (hswarm : u.swarm = s.swarm) (hm : u.mem = s.mem) (ho : u.obj = s.obj) :
    let w := finishCmd c 0 [] (linkDown p (endLinkCmd p code u))
    ((getSlink w p).state = .off ∧ (getSlink w p).configuredOff = true ∧ (∀ k, k ≠ p → getSlink w k = getSlink s k)
      ∧ w.mem = s.mem ∧ w.obj = s.obj) ∧ w.swarm.node = s.swarm.node := by
  obtain ⟨hmem, hobj, -, hnode, -⟩ := endLinkCmd_rest p code u
  obtain ⟨hports, hmem', hobj', hnode'⟩ := linkDown_off p (endLinkCmd p code u)
  generalize linkDown p (endLinkCmd p code u) = t at hports hmem' hobj' hnode' ⊢
  intro w
  have hw (k : Nat) : getSlink w k = getSlink t k := rfl
  have hself := (hw p).trans ((hports p).trans (if_pos rfl))
  refine ⟨⟨congrArg SlinkPort.state hself, congrArg SlinkPort.configuredOff hself, fun k hk => ?_,
    hmem'.trans (hmem.trans hm), hobj'.trans (hobj.trans ho)⟩, hnode'.trans (hnode.trans (congrArg Swarm.node hswarm))⟩
  rw [hw, hports, if_neg hk, getSlink_endLinkCmd, if_neg hk, getSlink_of_swarm hswarm]

/-- LINK_CONFIG 1 once accepted, of a port that is not UP: its training starts, and the command waits for it. -/
theorem linkStart_trains {p : Nat} {s u : State} (hx : (getSlink s p).state ≠ .up) (c : CmdRef) (code : W16)
    (hswarm : u.swarm = s.swarm) (hm : u.mem = s.mem) (ho : u.obj = s.obj) :
    let w := linkUp p c (endLinkCmd p code u)
    ((getSlink w p).state = .detect ∧ (getSlink w p).configuredOff = false ∧ (getSlink w p).noRetry = false ∧ (getSlink w p).cmd = some c
      ∧ (∀ k, k ≠ p → getSlink w k = getSlink s k) ∧ w.mem = s.mem ∧ w.obj = s.obj) ∧ w.swarm.node = s.swarm.node := by
  obtain ⟨hmem, hobj, -, hnode, -⟩ := endLinkCmd_rest p code u
  have hport := getSlink_endLinkCmd p code u
  generalize endLinkCmd p code u = t at hmem hobj hnode hport ⊢
  have hbelow : (getSlink t p).state ≠ .up := by
    rw [hport, if_pos rfl, getSlink_of_swarm hswarm]
    exact hx
  rw [linkUp_trains hbelow]
  refine ⟨⟨?_, ?_, ?_, ?_, fun k hk => ?_, hmem.trans hm, hobj.trans ho⟩, hnode.trans (congrArg Swarm.node hswarm)⟩
  · rw [getSlink_setSlink]; rfl
  · rw [getSlink_setSlink]; rfl
  · rw [getSlink_setSlink]; rfl
  · rw [getSlink_setSlink]; rfl
  · rw [getSlink_setSlink_ne _ _ _ _ hk, getSlink_setSlink_ne _ _ _ _ hk, hport, if_neg hk, getSlink_of_swarm hswarm]

/-- Lanes that lock before all four have (R203). -/
theorem laneLock_locks {p : Nat} {lanes : BitVec 4} {s : State} (h : (getSlink s p).state = .detect ∨ (getSlink s p).state = .equalise)
    (hw : (getSlink s p).retryWait = false) : laneLock p lanes s
      = setSlink s p { getSlink s p with laneLock := lanes, state := if lanes = 15 then .deskew else .equalise } := by
  have hd : (getSlink s p).state ≠ .deskew := by rcases h with h | h <;> simp [h]
  exact (if_neg hd).trans (if_pos ⟨h, by simp [hw]⟩)

/-- Lanes aligned in DESKEW, or not yet (R203). -/
theorem laneLock_aligns {p : Nat} {lanes : BitVec 4} {s : State} (h : (getSlink s p).state = .deskew) : laneLock p lanes s
    = setSlink s p (if lanes = 15 then { getSlink s p with laneLock := 15, state := .ident, flitsTx := (getSlink s p).flitsTx + 1 }
        else { getSlink s p with laneLock := lanes }) := by
  refine (if_pos h).trans (congrArg (setSlink s p) ?_)
  by_cases hl : lanes = 15
  · simp only [hl, if_true]
  · simp only [if_neg hl, ← h]

section
variable {p m : Nat} {s : State}

/-- LINK_CONFIG 0 takes its port down (R231). -/
theorem linkConfig_stops (hp : p < 6) (hask : askedLong 0x0401 m s = true) (hpo : leNat (reqOf s m).p 0 1 = p) (ha : leNat (reqOf s m).p 1 1 = 0)
    (hexp : expectedPort s p = true) (hy : (getSlink s (partner p)).state = .up) (hsw : s.net.switching = none) :
    ∃ w, answersWith (.linkConfig m) m s 1 [] w ∧ (getSlink w p).state = .off ∧ (getSlink w p).configuredOff = true
      ∧ (∀ k, k ≠ p → getSlink w k = getSlink s k) ∧ w.mem = s.mem ∧ w.obj = s.obj := by
  obtain ⟨hasked, hfull⟩ := askedLong_iff.mp hask
  obtain ⟨hobj, hmem, -, -, hswarm, -⟩ := acceptedState_rest s m
  obtain ⟨hspec, hnode⟩ := linkStop_off p (refOf s m) (pickStatus (acceptedState s m) 1 (cardCodes 0x0401)) hswarm hmem hobj
  have hact := linkConfig_accepts (s := taken s m) hpo ha hp (by omega) hexp (fun _ => hy) (by omega) hsw hfull
  exact ⟨_, answers_of_run _ rfl hasked hact (if_pos rfl) hnode, hspec⟩

/-- LINK_CONFIG 1 starts the training of a port that is not UP (R231). -/
theorem linkConfig_starts (hp : p < 6) (hask : askedLong 0x0401 m s = true) (hpo : leNat (reqOf s m).p 0 1 = p) (ha : leNat (reqOf s m).p 1 1 = 1)
    (hexp : expectedPort s p = true) (hx : (getSlink s p).state ≠ .up) (hret : (getSlink s p).retired = false)
    (hpat : portPattern s p = false) (hsw : s.net.switching = none) :
    ∃ w, answersWith (.linkConfig m) m s 1 [] w ∧ (getSlink w p).state = .detect ∧ (getSlink w p).configuredOff = false
      ∧ (getSlink w p).noRetry = false ∧ (getSlink w p).cmd = some (refOf s m) ∧ (∀ k, k ≠ p → getSlink w k = getSlink s k)
      ∧ w.mem = s.mem ∧ w.obj = s.obj := by
  obtain ⟨hasked, hfull⟩ := askedLong_iff.mp hask
  obtain ⟨hobj, hmem, -, -, hswarm, -⟩ := acceptedState_rest s m
  obtain ⟨hspec, hnode⟩ := linkStart_trains hx (refOf s m) (pickStatus (acceptedState s m) 1 (cardCodes 0x0401)) hswarm hmem hobj
  have hact := linkConfig_accepts (s := taken s m) hpo ha hp (by omega) hexp (by omega) (fun _ => ⟨hpat, hret⟩) hsw hfull
  exact ⟨_, answers_of_run _ rfl hasked hact (if_neg (by decide)) hnode, hspec⟩

end

/-- What a port holds as its command ends. -/
theorem getSlink_next {t : State} {k : Nat} {x : SlinkPort} (h : getSlink t k = x) : getSlink { t with free := t.free + 1 } k = x :=
  (getSlink_free t _ k).trans h

/-- Settles O35: each event writes its port, and the ends of LINK_CONFIG and the records of the Keeper nothing of the others. -/
theorem swarmPortTraining : Obligations.SwarmPortTraining := by
  intro p s hp x y ports only leaves
  have hp' : decide (p < 6) = true := decide_eq_true hp
  have onlyPort {t : State} (ht : PortsOnly s t) (ho : ∀ k, k ≠ p → getSlink t k = getSlink s k) : only { t with free := t.free + 1 } :=
    ⟨ht.next, fun k hk => getSlink_next (ho k hk)⟩
  have left {t : State} (ht : LeavesUp p s t) : leaves { t with free := t.free + 1 } :=
    ⟨ht.ports.next, ht.others, ht.lanes, ht.txSeq, ht.rxSeq, ht.handed, ht.off⟩
  refine ⟨fun ht hw => ⟨fun h => ?retries, fun h => ?triedOut⟩, fun hr => ?retry, fun lanes hs hw => ?locks, fun lanes hs => ?aligns,
    fun node port version delay hs hc => ⟨fun hn hpo hv => ?accepted, fun hno hclash => ?refused⟩, fun hup => ⟨?idle, fun lane hl => ?unlocked⟩,
    fun m hask hpo hexp hsw => ⟨fun ha hyup => ?down, fun ha hnup hret hpat => ?up⟩, fun m hask => ?status⟩
  case retries =>
    refine exec_comes rfl hp' ?_
    rw [when, if_pos (by rw [ht, hw]; rfl)]
    exact failAttempt_retries h
  case triedOut =>
    obtain ⟨hoff, hwait, hmem, hobj, hmembers⟩ := failAttempt_off (s := s) h
    refine ⟨_, exec_comes rfl hp' ?_, hoff, hwait, hmem, hobj, hmembers⟩
    rw [when, if_pos (by rw [ht, hw]; rfl)]
  case retry =>
    have hself := getSlink_next (t := startTraining p s) (k := p) (getSlink_setSlink s p (trainingStarted x))
    exact ⟨_, exec_comes rfl hp' (if_pos hr), onlyPort ((PortsOnly.refl s).setSlink _ _) (fun k hk => getSlink_setSlink_ne _ _ _ _ hk),
      congrArg SlinkPort.state hself, congrArg SlinkPort.retryWait hself, congrArg SlinkPort.trains hself,
      (congrArg SlinkPort.failedAttempts hself :)⟩
  case locks => exact exec_comes rfl hp' (laneLock_locks hs hw)
  case aligns => exact exec_comes rfl hp' (laneLock_aligns hs)
  case accepted =>
    obtain ⟨hports, honly⟩ := identStep_accepts (delay := delay) hs hc (decide_eq_true ⟨hn, hpo, hv⟩)
    have hself := getSlink_next ((hports p).trans (if_pos rfl))
    have hothers (k : Nat) (hk : k ≠ p) := (hports k).trans (if_neg hk)
    refine ⟨_, exec_comes rfl hp' rfl, fun h => onlyPort (honly (h.imp_right (fun h => by rwa [hn] at h))) hothers,
      fun k hk => getSlink_next (hothers k hk),
      congrArg SlinkPort.credits hself, congrArg SlinkPort.state hself, congrArg SlinkPort.delayNs hself, congrArg SlinkPort.peerNode hself,
      congrArg SlinkPort.peerPort hself, congrArg SlinkPort.failedAttempts hself, congrArg SlinkPort.txSeq hself, congrArg SlinkPort.rxSeq hself⟩
  case refused =>
    have hno' : identOk s p node port version = false := decide_eq_false (fun h => by
      rcases hno with hno | hno | hno
      · exact hno h.1
      · exact hno h.2.1
      · exact hno h.2.2)
    obtain ⟨hports, hnext⟩ := identStep_refuses (delay := delay) hs hc hno' hclash
    have hself := getSlink_next ((hports p).trans (if_pos rfl))
    exact ⟨_, exec_comes rfl hp' rfl, congrArg SlinkPort.state hself, congrArg SlinkPort.identMismatch hself, congrArg SlinkPort.noRetry hself, hnext,
      fun k hk => getSlink_next ((hports k).trans (if_neg hk))⟩
  case idle =>
    exact ⟨_, exec_comes rfl hp' rfl, left (leaveUp_leaves (l := x.laneLock) hp hup (PortsOnly.refl s) (fun _ _ => rfl) rfl)⟩
  case unlocked =>
    refine ⟨_, exec_comes rfl (decide_eq_true ⟨hp, hl⟩) rfl,
      left (leaveUp_leaves (l := setBit x.laneLock lane false) hp hup ((PortsOnly.refl s).setSlink _ _) (fun k hk => ?_) ?_)⟩
    · exact getSlink_setSlink_ne _ _ _ _ hk
    · exact getSlink_setSlink s p _
  case down => exact linkConfig_stops hp hask hpo ha hexp hyup hsw
  case up => exact linkConfig_starts hp hask hpo ha hexp hnup hret hpat hsw
  case status => exact answers_of_done _ rfl hask rfl rfl

end Sys2Proof.Machine
end

section
/-! Pattern checkers: bits that lock a lane, bits that end its lock, and what a group counts (R499, R500). -/

namespace Sys2Proof.Machine

/-! ### Counters that saturate (R59) -/

theorem satAdd_zero {w : Nat} (x : BitVec w) : satAdd x 0 = x := by
  simp only [satAdd, Nat.add_zero, x.isLt, if_true]
  exact (BitVec.ofNat_toNat w x).trans (BitVec.setWidth_eq x)

theorem satLost_zero {w : Nat} (x : BitVec w) : satLost x 0 = false := by
  simp only [satLost, Nat.add_zero, decide_eq_false_iff_not, Nat.not_le]
  exact x.isLt

theorem satAdd_satAdd {w : Nat} (x : BitVec w) (a b : Nat) : satAdd (satAdd x a) b = satAdd x (a + b) := by
  by_cases ha : x.toNat + a < 2 ^ w
  · have hx : (satAdd x a).toNat = x.toNat + a := by
      rw [satAdd, if_pos ha, BitVec.toNat_ofNat, Nat.mod_eq_of_lt ha]
    rw [satAdd, hx, satAdd, Nat.add_assoc]
  · have hx : satAdd x a = BitVec.allOnes w := if_neg ha
    rw [hx, satAdd, BitVec.toNat_allOnes, satAdd, if_neg (show ¬ x.toNat + (a + b) < 2 ^ w by omega)]
    by_cases hb : b = 0
    · have hpos := Nat.two_pow_pos w
      rw [if_pos (by omega), hb]
      exact BitVec.eq_of_toNat_eq (by rw [BitVec.toNat_ofNat, BitVec.toNat_allOnes]; exact Nat.mod_eq_of_lt (by omega))
    · rw [if_neg (by omega)]

/-! ### The bits of a pattern (R499) -/

@[simp] theorem patternBits_length (code n : Nat) (reg : List Bool) : (patternBits code n reg).length = n := by
  induction n generalizing reg with
  | zero => rfl
  | succ n ih => rw [patternBits, List.length_cons, ih]

/-- Bit `k` that follows a register is what follows the register after `k` bits. -/
theorem patternBits_getElem? {code n k : Nat} (h : k < n) (reg : List Bool) :
    (patternBits code n reg)[k]? = some (patternNext code ((patternShift code)^[k] reg)) := by
  induction n generalizing k reg with
  | zero => omega
  | succ n ih =>
    cases k with
    | zero => rfl
    | succ k => exact ih (by omega) (patternShift code reg)

/-- The taps of each polynomial: the second lies below the degree. -/
theorem prbsTaps_lt {code n m : Nat} (h : prbsTaps code = some (n, m)) : m < n ∧ 0 < m := by
  unfold prbsTaps at h
  split at h <;> cases h <;> decide

theorem userBits_length (v : W64) : (userBits v).length = 64 := by rw [userBits, List.length_map, upFrom_length]

theorem rotateLeft_eq_rotate {l : List Bool} (h : 1 < l.length) (k : Nat) : l.rotateLeft k = l.rotate k := by
  simp only [List.rotateLeft, Nat.not_le.mpr h, if_false]
  exact List.rotate_eq_drop_append_take_mod.symm

/-- How long a register that can be a state of the pattern is. -/
theorem patternSeed_length {x : PatGroup} {reg : List Bool} (h : patternSeed x reg = true) : reg.length = patternLength x.pattern.toNat := by
  unfold patternSeed at h
  unfold patternLength
  cases hc : prbsTaps x.pattern.toNat with
  | some taps =>
    rw [hc] at h
    simp only [Bool.and_eq_true, beq_iff_eq] at h
    exact h.1
  | none =>
    rw [hc] at h
    simp only [List.any_eq_true, mem_upFrom, beq_iff_eq] at h
    obtain ⟨k, -, hk⟩ := h
    rw [hk, rotateLeft_eq_rotate (by rw [userBits_length]; decide), List.length_rotate, userBits_length]
    rfl

theorem patternLength_pos (code : Nat) : 0 < patternLength code := by
  unfold patternLength
  cases hc : prbsTaps code with
  | some taps =>
    have := prbsTaps_lt hc
    simp only [Option.map_some, Option.getD_some]
    omega
  | none => decide

/-- The user bits rotated on by one (R499). -/
theorem rotateLeft_tail (v : W64) (k : Nat) : ((userBits v).rotateLeft k).tail ++ [((userBits v).rotateLeft k).headD false]
    = (userBits v).rotateLeft ((k + 1) % 64) := by
  have hlen := userBits_length v
  rw [rotateLeft_eq_rotate (by omega), rotateLeft_eq_rotate (by omega), ← hlen, List.rotate_mod, ← List.rotate_rotate]
  cases hr : (userBits v).rotate k with
  | nil => simpa [hlen] using congrArg List.length hr
  | cons b l => simp

/-- A state of the pattern is followed by one (R499). -/
theorem patternSeed_shift {x : PatGroup} {reg : List Bool} (h : patternSeed x reg = true) :
    patternSeed x (patternShift x.pattern.toNat reg) = true := by
  have hlen := patternSeed_length h
  have hpos := patternLength_pos x.pattern.toNat
  unfold patternSeed at h ⊢
  unfold patternLength at hlen hpos
  unfold patternShift patternNext
  cases hc : prbsTaps x.pattern.toNat with
  | some taps =>
    obtain ⟨n, m⟩ := taps
    obtain ⟨hm, hm0⟩ := prbsTaps_lt hc
    rw [hc] at h hlen hpos
    simp only [Bool.and_eq_true, beq_iff_eq] at h ⊢
    obtain ⟨hn, hany⟩ := h
    cases reg with
    | nil => cases hany
    | cons b l =>
      obtain ⟨j, hj⟩ : ∃ j, n - m = j + 1 := ⟨n - m - 1, by omega⟩
      refine ⟨by simpa using hn, ?_⟩
      rw [hj]
      by_cases hl : l.any id = true
      · simp [hl]
      · have hb : b = true := by simpa [hl] using hany
        have hzero : (l[j]?).getD false = false := by
          cases hg : l[j]? with
          | none => rfl
          | some v =>
            have hv := List.mem_of_getElem? hg
            by_contra hv'
            exact hl (List.any_eq_true.mpr ⟨v, hv, by simpa using hv'⟩)
        simp [hb, hzero]
  | none =>
    rw [hc] at h
    simp only [List.any_eq_true, mem_upFrom, beq_iff_eq] at h ⊢
    obtain ⟨k, hk, rfl⟩ := h
    exact ⟨(k + 1) % 64, ⟨Nat.zero_le _, by omega⟩, rotateLeft_tail x.user k⟩

/-- Every register that follows a state of the pattern is one. -/
theorem patternSeed_iterate {x : PatGroup} {reg : List Bool} (h : patternSeed x reg = true) (n : Nat) :
    patternSeed x ((patternShift x.pattern.toNat)^[n] reg) = true := by
  induction n with
  | zero => exact h
  | succ n ih =>
    rw [Function.iterate_succ_apply']
    exact patternSeed_shift ih

/-! ### One lane's checker (R499) -/

/-- A checker that has as yet no full register takes one more bit. -/
theorem laneBit_fills {x : PatGroup} {l : List Bool} {k : Nat} (hl : l.length = patternLength x.pattern.toNat) (hk : k < l.length) :
    laneBit x ((l[k]?).getD false) { reg := l.take k } = { reg := l.take (k + 1) } := by
  have hshort : ¬ patternSeed x (l.take k) = true := fun h => by
    have hlen := patternSeed_length h
    rw [List.length_take] at hlen
    omega
  have htake : l.take k ++ [(l[k]?).getD false] = l.take (k + 1) := by
    rw [List.getElem?_eq_getElem hk, Option.getD_some, List.take_append_getElem]
  simp only [laneBit, Bool.false_eq_true, if_false, hshort, false_and, htake]
  rw [← hl, List.length_take, show min (k + 1) l.length - l.length = 0 by omega]
  rfl

/-- A checker whose register is a state of the pattern counts the bit that follows it. -/
theorem laneBit_agrees {x : PatGroup} {reg : List Bool} (h : patternSeed x reg = true) (j : Nat) :
    laneBit x (patternNext x.pattern.toNat reg) { reg := reg, run := j }
      = { reg := patternShift x.pattern.toNat reg, run := j + 1, locked := decide (64 ≤ j + 1) } := by
  have hlen := patternSeed_length h
  have hpos := patternLength_pos x.pattern.toNat
  have hdrop : (reg ++ [patternNext x.pattern.toNat reg]).drop ((reg ++ [patternNext x.pattern.toNat reg]).length - patternLength x.pattern.toNat)
      = patternShift x.pattern.toNat reg := by
    rw [List.length_append, List.length_singleton, ← hlen, Nat.add_sub_cancel_left, patternShift, List.drop_append_of_le_length (by omega),
      List.drop_one]
  simp only [laneBit, Bool.false_eq_true, if_false, h, true_and, if_true, hdrop]

/-- A LOCKED lane that has seen `j` errors in a row after bits without one. -/
def laneRuns (reg : List Bool) (run j m : Nat) : LaneCheck :=
  { reg := reg, run := run, locked := true, recent := List.replicate j true ++ List.replicate m false }

/-- A LOCKED lane without errors takes a bit that agrees. -/
theorem laneBit_right (x : PatGroup) (reg : List Bool) (run m : Nat) :
    ∃ m', laneBit x (patternNext x.pattern.toNat reg) (laneRuns reg run 0 m) = laneRuns (patternShift x.pattern.toNat reg) run 0 m' := by
  refine ⟨min 64 (m + 1), ?_⟩
  have hrecent : (false :: List.replicate m false).take 64 = List.replicate (min 64 (m + 1)) false := by
    rw [← List.replicate_succ, List.take_replicate]
  simp [laneBit, laneRuns, hrecent]

/-- A LOCKED lane takes a wrong bit: it runs on until the sixteenth. -/
theorem laneBit_wrong (x : PatGroup) (reg : List Bool) (run m : Nat) {j : Nat} (hj : j < 15) :
    ∃ m', laneBit x (!patternNext x.pattern.toNat reg) (laneRuns reg run j m) = laneRuns (patternShift x.pattern.toNat reg) run (j + 1) m' := by
  refine ⟨min (63 - j) m, ?_⟩
  have hrecent : (true :: (List.replicate j true ++ List.replicate m false)).take 64
      = List.replicate (j + 1) true ++ List.replicate (min (63 - j) m) false := by
    rw [← List.cons_append, ← List.replicate_succ, List.take_append, List.take_replicate, List.take_replicate, List.length_replicate]
    congr 2 <;> omega
  simp [laneBit, laneRuns, hrecent, show ¬ 16 ≤ j + 1 by omega]

/-- The sixteenth error of a LOCKED lane ends its lock. -/
theorem laneBit_loses (x : PatGroup) (reg : List Bool) (run m : Nat) :
    laneBit x (!patternNext x.pattern.toNat reg) (laneRuns reg run 15 m) = {} := by
  simp [laneBit, laneRuns]

/-! ### One bit time of a group (R498, R499) -/

/-- The bits that a group's lanes receive, INVERT applied. -/
def laneRow (die g : Nat) (x : PatGroup) (f : Nat → Bool) : List Bool := (upFrom 0 (patternWidth die g)).map (fun i => f i ^^ x.invert)

theorem laneRow_received {die g i : Nat} {x : PatGroup} (hi : i ∈ checkedLanes die g x) (f : Nat → Bool) :
    (((laneRow die g x f)[i]?).getD false ^^ x.invert) = f i := by
  have hlt : i < patternWidth die g := by
    have := mem_upFrom.mp (List.mem_filter.mp hi).1
    omega
  rw [laneRow, List.getElem?_map, upFrom_getD _ _ _ hlt]
  simp

/-- The lanes' checkers after a bit time. -/
def checksAfter (die g : Nat) (received : List Bool) (x : PatGroup) : Tbl LaneCheck :=
  (checkedLanes die g x).foldl (fun t i => Tbl.set {} t i (laneBit x ((received[i]?).getD false ^^ x.invert) (laneCheck x i))) x.checks

theorem get_checksAfter {die g i : Nat} {x : PatGroup} (hi : i ∈ checkedLanes die g x) (f : Nat → Bool) :
    Tbl.get {} (checksAfter die g (laneRow die g x f) x) i = laneBit x (f i) (laneCheck x i) := by
  rw [← laneRow_received hi f]
  refine foldl_reaches (x := i) (P := fun t => Tbl.get {} t i = laneBit x (((laneRow die g x f)[i]?).getD false ^^ x.invert) (laneCheck x i))
    (fun t j ht => ?_) (fun t => Tbl.get_set_self _ _ _ _) hi x.checks
  rw [Tbl.get_set]
  split
  next h => rw [h]
  next => exact ht

/-- A group is LOCKED as its lanes are, where they agree. -/
theorem lanesLocked_of_lanes {die g : Nat} {x : PatGroup} {b : Bool} (hn : checkedLanes die g x ≠ [])
    (h : ∀ i ∈ checkedLanes die g x, (laneCheck x i).locked = b) : lanesLocked die g x = b := by
  cases b with
  | false =>
    obtain ⟨i, hi⟩ := List.exists_mem_of_ne_nil _ hn
    rw [lanesLocked, List.all_eq_false.mpr ⟨i, hi, by simp [h i hi]⟩, Bool.and_false]
  | true =>
    rw [lanesLocked, List.all_eq_true.mpr h, Bool.and_true, Bool.not_eq_true', List.isEmpty_eq_false_iff]
    exact hn

/-- A group whose generator and checkers have gone one bit further. -/
def bitFed (die g : Nat) (received : List Bool) (x : PatGroup) : PatGroup :=
  { x with gen := patternShift x.pattern.toNat x.gen, checks := checksAfter die g received x }

/-- The lanes on which a bit time brings a wrong bit. -/
def wrongLanes (die g : Nat) (received : List Bool) (x : PatGroup) : List Nat :=
  (checkedLanes die g x).filter (fun i => (((received[i]?).getD false ^^ x.invert) != patternNext x.pattern.toNat (laneCheck x i).reg))

/-- The lanes that lose their lock at a bit time. -/
def lostLanes (die g : Nat) (received : List Bool) (x : PatGroup) : List Nat :=
  (checkedLanes die g x).filter (fun i => (laneCheck x i).locked && !(laneCheck (bitFed die g received x) i).locked)

/-- What a bit time counts, and whether the group is LOCKED after it. -/
theorem patternBit_eq (die g : Nat) (received : List Bool) (x : PatGroup) : patternBit die g received x
    = let wrong := if x.locked then (wrongLanes die g received x).length else 0
      let lost := (lostLanes die g received x).length
      { bitFed die g received x with
        locked := lanesLocked die g (bitFed die g received x), bits := if x.locked then x.bits + 1 else x.bits,
        errors := satAdd x.errors wrong, errorsOvf := x.errorsOvf || satLost x.errors wrong,
        lockLosses := satAdd x.lockLosses lost, lossesOvf := x.lossesOvf || satLost x.lockLosses lost } := rfl

section
variable {die g : Nat} {x : PatGroup} {f : Nat → Bool}

theorem laneCheck_bitFed {i : Nat} (hi : i ∈ checkedLanes die g x) :
    laneCheck (bitFed die g (laneRow die g x f) x) i = laneBit x (f i) (laneCheck x i) := get_checksAfter hi f

/-- A bit time of a group none of whose lanes is locked counts nothing. -/
theorem patternBit_unlocked (hx : x.locked = false) (hl : ∀ i ∈ checkedLanes die g x, (laneCheck x i).locked = false) :
    let y := bitFed die g (laneRow die g x f) x
    patternBit die g (laneRow die g x f) x = { y with locked := lanesLocked die g y } := by
  have hlost : lostLanes die g (laneRow die g x f) x = [] := List.filter_eq_nil_iff.mpr (fun i hi => by simp [hl i hi])
  rw [patternBit_eq]
  simp only [hx, hlost, Bool.false_eq_true, if_false, List.length_nil, satAdd_zero, satLost_zero, Bool.or_false]
  rfl

/-- A bit time of a LOCKED group, whose lanes are all right (`e` false) or all wrong, and all keep or all lose their lock. -/
theorem patternBit_locked {e stay : Bool} (hx : x.locked = true) (hn : checkedLanes die g x ≠ [])
    (hf : ∀ i ∈ checkedLanes die g x, f i = (patternNext x.pattern.toNat (laneCheck x i).reg ^^ e))
    (hl : ∀ i ∈ checkedLanes die g x, (laneCheck x i).locked = true)
    (hs : ∀ i ∈ checkedLanes die g x, (laneBit x (f i) (laneCheck x i)).locked = stay) :
    ∃ eo lo, patternBit die g (laneRow die g x f) x
      = { bitFed die g (laneRow die g x f) x with
          locked := stay, bits := x.bits + 1, errorsOvf := eo, lossesOvf := lo,
          errors := satAdd x.errors (if e then (checkedLanes die g x).length else 0),
          lockLosses := satAdd x.lockLosses (if stay then 0 else (checkedLanes die g x).length) } := by
  have hwrong : (wrongLanes die g (laneRow die g x f) x).length = if e then (checkedLanes die g x).length else 0 := by
    cases e with
    | false => exact congrArg List.length (List.filter_eq_nil_iff.mpr (fun i hi => by simp [laneRow_received hi, hf i hi]))
    | true => exact congrArg List.length (List.filter_eq_self.mpr (fun i hi => by simp [laneRow_received hi, hf i hi]))
  have hlane (i : Nat) (hi : i ∈ checkedLanes die g x) :
      ((laneCheck x i).locked && !(laneCheck (bitFed die g (laneRow die g x f) x) i).locked) = !stay := by
    rw [hl i hi, laneCheck_bitFed hi, hs i hi, Bool.true_and]
  have hlost : (lostLanes die g (laneRow die g x f) x).length = if stay then 0 else (checkedLanes die g x).length := by
    cases stay with
    | false => exact congrArg List.length (List.filter_eq_self.mpr (fun i hi => hlane i hi))
    | true => exact congrArg List.length (List.filter_eq_nil_iff.mpr (fun i hi => by rw [hlane i hi]; decide))
  have hlocked : lanesLocked die g (bitFed die g (laneRow die g x f) x) = stay :=
    lanesLocked_of_lanes hn (fun i hi => (congrArg LaneCheck.locked (laneCheck_bitFed (x := x) hi)).trans (hs i hi))
  rw [patternBit_eq]
  simp only [hx, if_true, hwrong, hlost, hlocked]
  exact ⟨_, _, rfl⟩

end

/-! ### Runs of bits (R499) -/

/-- What one bit time after another keeps, a run of them reaches. -/
theorem rows_reach {die g m n : Nat} {row : Nat → List Bool} {P : Nat → PatGroup → Prop} {x : PatGroup} (h : P m x)
    (hstep : ∀ k y, m ≤ k → k < m + n → P k y → P (k + 1) (patternBit die g (row k) y)) :
    P (m + n) (((upFrom m n).map row).foldl (fun y received => patternBit die g received y) x) := by
  induction n generalizing m x with
  | zero => exact h
  | succ n ih =>
    have := ih (hstep m x (Nat.le_refl m) (by omega) h) (fun k y hk hk' => hstep k y (by omega) (by omega))
    rwa [show m + 1 + n = m + (n + 1) by omega] at this

/-- A group with the settings of another. -/
structure SameSettings (x y : PatGroup) : Prop where
  enable : y.enable = x.enable
  pattern : y.pattern = x.pattern
  lanes : y.lanes = x.lanes
  invert : y.invert = x.invert
  user : y.user = x.user

namespace SameSettings

variable {x y : PatGroup}

theorem checkedLanes (h : SameSettings x y) (die g : Nat) : checkedLanes die g y = checkedLanes die g x := by
  rw [Machine.checkedLanes, h.lanes, Machine.checkedLanes]

theorem laneRow (h : SameSettings x y) (die g : Nat) : laneRow die g y = laneRow die g x := by
  funext f
  rw [Machine.laneRow, h.invert, Machine.laneRow]

theorem laneBit (h : SameSettings x y) : laneBit y = laneBit x := by
  have hseed : patternSeed y = patternSeed x := by
    funext reg
    unfold patternSeed
    rw [h.pattern, h.user]
  funext b c
  simp only [Machine.laneBit, h.pattern, hseed]

theorem patternBit (h : SameSettings x y) (die g : Nat) (received : List Bool) : SameSettings x (patternBit die g received y) :=
  ⟨h.enable, h.pattern, h.lanes, h.invert, h.user⟩

end SameSettings

theorem patternRows_settings (die g : Nat) (bits : List (List Bool)) (x : PatGroup) :
    SameSettings x (bits.foldl (fun y received => patternBit die g received y) x) :=
  foldl_preserves (P := SameSettings x) (fun _ received h => h.patternBit die g received) bits ⟨rfl, rfl, rfl, rfl, rfl⟩

theorem Tbl.put_put {α : Type} (t : Tbl α) (k : Nat) (x y : α) : Tbl.put (Tbl.put t k x) k y = Tbl.put t k y := by
  induction t with
  | nil => simp [Tbl.put]
  | cons e t ih =>
    obtain ⟨j, z⟩ := e
    by_cases hj : j = k
    · simp [Tbl.put, hj]
    · by_cases hk : k < j
      · simp [Tbl.put, hj, hk]
      · simp [Tbl.put, hj, hk, ih]

/-- Only the last of two writes of an enabled group stands. -/
theorem setPat_setPat {die g : Nat} {x y : PatGroup} (s : State) (hx : x.enable = true) (hy : y.enable = true) :
    setPat (setPat s die g x) die g y = setPat s die g y := by
  have hxd : x ≠ {} := fun h => by rw [h] at hx; cases hx
  have hyd : y ≠ {} := fun h => by rw [h] at hy; cases hy
  have hset (t : Tbl PatGroup) (k : Nat) (z : PatGroup) (hz : z ≠ {}) : Tbl.set {} t k z = Tbl.put t k z := if_neg hz
  simp only [setPat, hset _ _ _ hxd, hset _ _ _ hyd, Tbl.put_put]

section
variable {die g : Nat} {s : State}

theorem patternRun_enabled (h : (getPat s die g).enable = true) (bits : List (List Bool)) : patternRun die g bits s
    = setPat s die g (bits.foldl (fun x received => patternBit die g received x) (getPat s die g)) := if_pos h

theorem patternRun_disabled (h : (getPat s die g).enable = false) (bits : List (List Bool)) : patternRun die g bits s = s :=
  if_neg (by rw [h]; exact Bool.false_ne_true)

/-- Bits before and bits after are one run of bits. -/
theorem patternRun_append (h : (getPat s die g).enable = true) (before bits : List (List Bool)) :
    patternRun die g bits (patternRun die g before s) = patternRun die g (before ++ bits) s := by
  have hfed := (patternRows_settings die g before (getPat s die g)).enable.trans h
  have hall := (patternRows_settings die g (before ++ bits) (getPat s die g)).enable.trans h
  rw [patternRun_enabled h before, patternRun_enabled (by rw [getPat_setPat]; exact hfed), getPat_setPat, ← List.foldl_append,
    setPat_setPat s hfed hall, patternRun_enabled h]

end

/-! ### Bits that lock (R499) -/

/-- A checker of no bits, `k` bits into a seed and the 64 bits that follow it. -/
def seedingLane (x : PatGroup) (seed : List Bool) (k : Nat) : LaneCheck :=
  if k ≤ seed.length then { reg := seed.take k }
  else { reg := (patternShift x.pattern.toNat)^[k - seed.length] seed, run := k - seed.length, locked := decide (64 ≤ k - seed.length) }

/-- One more bit of a seed or of what follows it. -/
theorem laneBit_seedingLane {x : PatGroup} {seed : List Bool} (hs : patternSeed x seed = true) {k : Nat} (hk : k < seed.length + 64) :
    laneBit x (((seed ++ patternBits x.pattern.toNat 64 seed)[k]?).getD false) (seedingLane x seed k) = seedingLane x seed (k + 1) := by
  have hlen := patternSeed_length hs
  by_cases hfill : k < seed.length
  · rw [List.getElem?_append_left hfill, seedingLane, if_pos (by omega), seedingLane, if_pos (by omega)]
    exact laneBit_fills hlen hfill
  · obtain ⟨j, rfl⟩ := Nat.exists_eq_add_of_le (Nat.not_lt.mp hfill)
    have hlane : seedingLane x seed (seed.length + j) = { reg := (patternShift x.pattern.toNat)^[j] seed, run := j } := by
      cases j with
      | zero => simp [seedingLane]
      | succ j =>
        rw [seedingLane, if_neg (by omega), Nat.add_sub_cancel_left, decide_eq_false (by omega)]
    rw [List.getElem?_append_right (by omega), Nat.add_sub_cancel_left, patternBits_getElem? (by omega), Option.getD_some, hlane,
      laneBit_agrees (patternSeed_iterate hs j), seedingLane, if_neg (by omega), Nat.add_assoc, Nat.add_sub_cancel_left,
      Function.iterate_succ_apply']

/-- Only all the bits lock the lane. -/
theorem seedingLane_locked {x : PatGroup} {seed : List Bool} (hs : patternSeed x seed = true) (k : Nat) :
    (seedingLane x seed k).locked = decide (patternLength x.pattern.toNat + 64 ≤ k) := by
  rw [← patternSeed_length hs, seedingLane]
  split
  · exact (decide_eq_false (by omega)).symm
  · exact decide_eq_decide.mpr (by omega)

/-- A group that no bits have locked before, `k` bits into its lanes' seeds and what follows them. -/
structure Seeding (die g : Nat) (x : PatGroup) (seed : Nat → List Bool) (k : Nat) (y : PatGroup) : Prop where
  settings : SameSettings x y
  counts : y.bits = x.bits ∧ y.errors = x.errors ∧ y.lockLosses = x.lockLosses
  locked : y.locked = decide (patternLength x.pattern.toNat + 64 ≤ k)
  lanes : ∀ i ∈ checkedLanes die g x, laneCheck y i = seedingLane x (seed i) k

/-- One more bit of the seeds and what follows them. -/
theorem Seeding.step {die g k : Nat} {x y : PatGroup} {seed : Nat → List Bool} (hn : checkedLanes die g x ≠ [])
    (hs : ∀ i, patternSeed x (seed i) = true) (hk : k < patternLength x.pattern.toNat + 64) (h : Seeding die g x seed k y) :
    Seeding die g x seed (k + 1)
      (patternBit die g (laneRow die g x (fun i => ((seed i ++ patternBits x.pattern.toNat 64 (seed i))[k]?).getD false)) y) := by
  obtain ⟨hset, hcounts, hlocked, hlanes⟩ := h
  have hmem := hset.checkedLanes die g
  have hbelow : decide (patternLength x.pattern.toNat + 64 ≤ k) = false := decide_eq_false (Nat.not_le.mpr hk)
  have hnext (i : Nat) (hi : i ∈ checkedLanes die g x) :
      laneCheck (bitFed die g (laneRow die g y (fun i => ((seed i ++ patternBits x.pattern.toNat 64 (seed i))[k]?).getD false)) y) i
        = seedingLane x (seed i) (k + 1) := by
    rw [laneCheck_bitFed (hmem ▸ hi), hset.laneBit, hlanes i hi, laneBit_seedingLane (hs i) (by rw [patternSeed_length (hs i)]; exact hk)]
  have hstep := patternBit_unlocked (die := die) (g := g) (x := y)
    (f := fun i => ((seed i ++ patternBits x.pattern.toNat 64 (seed i))[k]?).getD false) (hlocked.trans hbelow) (fun i hi => by
      rw [hlanes i (hmem ▸ hi), seedingLane_locked (hs i)]
      exact hbelow)
  rw [← hset.laneRow]
  refine ⟨hset.patternBit _ _ _, ?_, ?_, ?_⟩
  · rw [hstep]
    exact hcounts
  · rw [hstep]
    refine lanesLocked_of_lanes (by rw [← hmem] at hn; exact hn) (fun i hi => ?_)
    rw [hnext i (hmem ▸ hi), seedingLane_locked (hs i)]
  · rw [hstep]
    exact hnext

/-- Seeds and the 64 bits that follow them lock a group that has no lane checked yet, and count nothing (R499). -/
theorem patternRows_lock {die g : Nat} {x : PatGroup} {seed : Nat → List Bool} (hx : x.locked = false) (hc : x.checks = [])
    (hn : checkedLanes die g x ≠ []) (hs : ∀ i, patternSeed x (seed i) = true) :
    let row := fun k => laneRow die g x (fun i => ((seed i ++ patternBits x.pattern.toNat 64 (seed i))[k]?).getD false)
    let y := ((upFrom 0 (patternLength x.pattern.toNat + 64)).map row).foldl (fun y received => patternBit die g received y) x
    y.locked = true ∧ y.bits = x.bits ∧ y.errors = x.errors ∧ y.lockLosses = x.lockLosses := by
  intro row y
  have hstart : Seeding die g x seed 0 x := by
    refine ⟨⟨rfl, rfl, rfl, rfl, rfl⟩, ⟨rfl, rfl, rfl⟩, hx.trans (decide_eq_false (by omega)).symm, fun i _ => ?_⟩
    rw [laneCheck, hc]
    rfl
  have hend : Seeding die g x seed (0 + (patternLength x.pattern.toNat + 64)) y :=
    rows_reach (P := Seeding die g x seed) hstart (fun k z _ hk h => h.step hn hs (by omega))
  exact ⟨hend.locked.trans (decide_eq_true (by omega)), hend.counts⟩

/-! ### Bits that end a lock (R499) -/

/-- A LOCKED group, `k` bits on, of which those from the `n`-th on were wrong on every lane. -/
structure Running (die g : Nat) (x : PatGroup) (n k : Nat) (y : PatGroup) : Prop where
  settings : SameSettings x y
  locked : y.locked = true
  bits : y.bits = x.bits + BitVec.ofNat 64 k
  errors : y.errors = satAdd x.errors ((k - n) * (checkedLanes die g x).length)
  losses : y.lockLosses = x.lockLosses
  lanes : ∀ i ∈ checkedLanes die g x, ∃ run m, laneCheck y i = laneRuns ((patternShift x.pattern.toNat)^[k] (laneCheck x i).reg) run (k - n) m

section
variable {die g n k : Nat} {x y : PatGroup} {f : Nat → Bool}

/-- A lane takes one more bit: the `n`-th and those after it are wrong. -/
theorem laneBit_runs (x : PatGroup) (reg : List Bool) (run m : Nat) {n k : Nat} (hk : k - n < 15) :
    ∃ m', laneBit x (patternNext x.pattern.toNat reg ^^ decide (n ≤ k)) (laneRuns reg run (k - n) m)
      = laneRuns (patternShift x.pattern.toNat reg) run (k + 1 - n) m' := by
  by_cases h : n ≤ k
  · rw [decide_eq_true h, Bool.xor_true, Nat.sub_add_comm h]
    exact laneBit_wrong x reg run m hk
  · rw [decide_eq_false h, Bool.xor_false, show k - n = 0 by omega, show k + 1 - n = 0 by omega]
    exact laneBit_right x reg run m

theorem Running.bits_succ (h : Running die g x n k y) : y.bits + 1 = x.bits + BitVec.ofNat 64 (k + 1) := by
  rw [h.bits, BitVec.ofNat_add, BitVec.add_assoc]
  rfl

theorem Running.errors_succ (h : Running die g x n k y) :
    satAdd y.errors (if decide (n ≤ k) = true then (checkedLanes die g x).length else 0)
      = satAdd x.errors ((k + 1 - n) * (checkedLanes die g x).length) := by
  rw [h.errors, satAdd_satAdd]
  by_cases hk : n ≤ k
  · rw [if_pos (decide_eq_true hk), Nat.sub_add_comm hk, Nat.add_mul, Nat.one_mul]
  · rw [if_neg (by simpa using hk), show k - n = 0 by omega, show k + 1 - n = 0 by omega, Nat.add_zero]

/-- What a bit brings to each lane of a running group. -/
theorem Running.compares (h : Running die g x n k y) (hf : ∀ i ∈ checkedLanes die g x,
      f i = (patternNext x.pattern.toNat ((patternShift x.pattern.toNat)^[k] (laneCheck x i).reg) ^^ decide (n ≤ k))) :
    ∀ i ∈ checkedLanes die g y, f i = (patternNext y.pattern.toNat (laneCheck y i).reg ^^ decide (n ≤ k)) := by
  intro i hi
  rw [h.settings.checkedLanes] at hi
  obtain ⟨run, m, hrun⟩ := h.lanes i hi
  rw [hf i hi, hrun, h.settings.pattern]
  rfl

theorem Running.lanesLocked (h : Running die g x n k y) : ∀ i ∈ checkedLanes die g y, (laneCheck y i).locked = true := by
  intro i hi
  rw [h.settings.checkedLanes] at hi
  obtain ⟨run, m, hrun⟩ := h.lanes i hi
  rw [hrun]
  rfl

/-- One more bit of a running group, up to the fifteenth that is wrong. -/
theorem Running.step (hn : checkedLanes die g x ≠ []) (hk : k - n < 15) (h : Running die g x n k y)
    (hf : ∀ i ∈ checkedLanes die g x,
      f i = (patternNext x.pattern.toNat ((patternShift x.pattern.toNat)^[k] (laneCheck x i).reg) ^^ decide (n ≤ k))) :
    Running die g x n (k + 1) (patternBit die g (laneRow die g x f) y) := by
  have hmem := h.settings.checkedLanes die g
  have hlane (i : Nat) (hi : i ∈ checkedLanes die g x) : ∃ run m, laneBit y (f i) (laneCheck y i)
      = laneRuns ((patternShift x.pattern.toNat)^[k + 1] (laneCheck x i).reg) run (k + 1 - n) m := by
    obtain ⟨run, m, hrun⟩ := h.lanes i hi
    obtain ⟨m', hm'⟩ := laneBit_runs x ((patternShift x.pattern.toNat)^[k] (laneCheck x i).reg) run m hk
    exact ⟨run, m', by rw [hrun, h.settings.laneBit, hf i hi, Function.iterate_succ_apply', hm']⟩
  obtain ⟨eo, lo, hstep⟩ := patternBit_locked (stay := true) h.locked (by rw [hmem]; exact hn) (h.compares hf) h.lanesLocked (fun i hi => by
    obtain ⟨run, m, hrun⟩ := hlane i (hmem ▸ hi)
    rw [hrun]
    rfl)
  rw [hmem] at hstep
  rw [← h.settings.laneRow]
  refine ⟨h.settings.patternBit _ _ _, ?_, ?_, ?_, ?_, fun i hi => ?_⟩
  · rw [hstep]
  · rw [hstep]; exact h.bits_succ
  · rw [hstep]; exact h.errors_succ
  · rw [hstep]; exact (satAdd_zero _).trans h.losses
  · rw [hstep]
    obtain ⟨run, m, hrun⟩ := hlane i hi
    exact ⟨run, m, (laneCheck_bitFed (x := y) (hmem ▸ hi)).trans hrun⟩

/-- The sixteenth wrong bit ends the lock of every lane, and counts each. -/
theorem Running.loses (hn : checkedLanes die g x ≠ []) (h : Running die g x n (n + 15) y)
    (hf : ∀ i ∈ checkedLanes die g x,
      f i = (patternNext x.pattern.toNat ((patternShift x.pattern.toNat)^[n + 15] (laneCheck x i).reg) ^^ decide (n ≤ n + 15))) :
    let z := patternBit die g (laneRow die g x f) y
    z.locked = false ∧ z.bits = x.bits + BitVec.ofNat 64 (n + 16) ∧ z.errors = satAdd x.errors (16 * (checkedLanes die g x).length)
      ∧ z.lockLosses = satAdd x.lockLosses (checkedLanes die g x).length := by
  have hmem := h.settings.checkedLanes die g
  obtain ⟨eo, lo, hstep⟩ := patternBit_locked (stay := false) h.locked (by rw [hmem]; exact hn) (h.compares hf) h.lanesLocked (fun i hi => by
    rw [hmem] at hi
    obtain ⟨run, m, hrun⟩ := h.lanes i hi
    rw [hrun, h.settings.laneBit, hf i hi, decide_eq_true (Nat.le_add_right n 15), Bool.xor_true, Nat.add_sub_cancel_left, laneBit_loses])
  have herrors := h.errors_succ
  rw [show n + 15 + 1 - n = 16 by omega] at herrors
  rw [hmem] at hstep
  rw [← h.settings.laneRow]
  intro z
  rw [show z = _ from hstep, ← h.losses]
  exact ⟨rfl, h.bits_succ, herrors, rfl⟩

end

theorem upFrom_append (a m n : Nat) : upFrom a (m + n) = upFrom a m ++ upFrom (a + m) n := by
  induction m generalizing a with
  | zero => rw [Nat.zero_add]; rfl
  | succ m ih => rw [Nat.succ_add, upFrom, ih, upFrom, List.cons_append, Nat.add_right_comm, Nat.add_assoc]

/-- The row of bit `k` that agrees on every lane, or that is wrong on every lane from the `n`-th on. -/
def checkedRow (die g : Nat) (x : PatGroup) (n k : Nat) : List Bool :=
  laneRow die g x (fun i => patternNext x.pattern.toNat ((patternShift x.pattern.toNat)^[k] (laneCheck x i).reg) ^^ decide (n ≤ k))

/-- Bits that agree on every lane of a LOCKED group without errors, then sixteen that do not, end its lock and count (R499). -/
theorem patternRows_lose {die g : Nat} (n : Nat) {x : PatGroup} (hx : x.locked = true) (hn : checkedLanes die g x ≠ [])
    (hl : ∀ i ∈ checkedLanes die g x, (laneCheck x i).locked = true ∧ (laneCheck x i).recent = []) :
    let y := ((upFrom 0 (n + 16)).map (checkedRow die g x n)).foldl (fun y received => patternBit die g received y) x
    y.locked = false ∧ y.bits = x.bits + BitVec.ofNat 64 (n + 16) ∧ y.errors = satAdd x.errors (16 * (checkedLanes die g x).length)
      ∧ y.lockLosses = satAdd x.lockLosses (checkedLanes die g x).length := by
  have hstart : Running die g x n 0 x := by
    refine ⟨⟨rfl, rfl, rfl, rfl, rfl⟩, hx, (BitVec.add_zero _).symm, ?_, rfl, fun i hi => ⟨(laneCheck x i).run, 0, ?_⟩⟩
    · rw [Nat.zero_sub, Nat.zero_mul, satAdd_zero]
    · obtain ⟨hlocked, hrecent⟩ := hl i hi
      generalize laneCheck x i = c at hlocked hrecent
      obtain ⟨reg, run, locked, recent⟩ := c
      subst hlocked hrecent
      simp [laneRuns]
  have hrun : Running die g x n (0 + (n + 15)) _ :=
    rows_reach (row := checkedRow die g x n) hstart (fun k z _ hk h => h.step hn (by omega) (fun _ _ => rfl))
  rw [Nat.zero_add] at hrun
  have hlose := hrun.loses hn (fun _ _ => rfl)
  rw [upFrom_append 0 (n + 15) 1, List.map_append, List.foldl_append, Nat.zero_add]
  exact hlose

/-! ### The events of the checkers -/

section
variable {die g : Nat} {s : State}

theorem patternRow_exists (hd : die < 6) (hg : patExists die g = true) : (decide (die < 6) && patExists die g) = true := by
  rw [decide_eq_true hd, hg]
  rfl

theorem checkerLocked_runs (hd : die < 6) (hg : patExists die g = true) (hx : (getPat s die g).enable = true) (bits : List (List Bool)) :
    exec (.checkerLocked die g bits) s = .next
      { setPat s die g (bits.foldl (fun x received => patternBit die g received x) (getPat s die g)) with free := s.free + 1 } :=
  exec_comes rfl (patternRow_exists hd hg) (patternRun_enabled hx bits)

/-- Bits before and bits after count as one run. -/
theorem checkerLockLoss_runs (hd : die < 6) (hg : patExists die g = true) (hx : (getPat s die g).enable = true) (before bits : List (List Bool)) :
    exec (.checkerLockLoss die g before bits) s = exec (.checkerLocked die g (before ++ bits)) s := by
  rw [checkerLocked_runs hd hg hx]
  exact exec_comes rfl (patternRow_exists hd hg) ((patternRun_append hx before bits).trans (patternRun_enabled hx _))

/-- A group that is not enabled takes no bits. -/
theorem checkers_disabled (hd : die < 6) (hg : patExists die g = true) (hx : (getPat s die g).enable = false) (before bits : List (List Bool)) :
    exec (.checkerLocked die g bits) s = .next { s with free := s.free + 1 }
      ∧ exec (.checkerLockLoss die g before bits) s = .next { s with free := s.free + 1 } :=
  ⟨exec_comes rfl (patternRow_exists hd hg) (patternRun_disabled hx bits),
    exec_comes rfl (patternRow_exists hd hg) ((congrArg (patternRun die g bits) (patternRun_disabled hx before)).trans (patternRun_disabled hx bits))⟩

end

/-- The rows of a LOCKED group's bits before and of sixteen wrong ones after them. -/
theorem checkedRows_eq {die g n : Nat} {x : PatGroup} {before bits : List (List Bool)}
    (hb : before = (upFrom 0 n).map (fun k => laneRow die g x (fun i => ((patternBits x.pattern.toNat n (laneCheck x i).reg)[k]?).getD false)))
    (hw : bits = ((upFrom 0 (n + 16)).map (fun k => laneRow die g x (fun i =>
      (((patternBits x.pattern.toNat (n + 16) (laneCheck x i).reg).map (!·))[k]?).getD false))).drop n) :
    before ++ bits = (upFrom 0 (n + 16)).map (checkedRow die g x n) := by
  have hlen : ((upFrom 0 n).map (fun k => laneRow die g x (fun i =>
      (((patternBits x.pattern.toNat (n + 16) (laneCheck x i).reg).map (!·))[k]?).getD false))).length = n := by
    rw [List.length_map, upFrom_length]
  rw [hw, hb, upFrom_append 0 n 16, List.map_append, List.map_append, List.drop_left' hlen]
  refine congrArg₂ _ (List.map_congr_left fun k hk => ?_) (List.map_congr_left fun k hk => ?_)
  · obtain ⟨-, hk⟩ := mem_upFrom.mp hk
    refine congrArg (laneRow die g x) (funext fun i => ?_)
    rw [patternBits_getElem? (by omega), decide_eq_false (by omega), Bool.xor_false]
    rfl
  · obtain ⟨hk, hk'⟩ := mem_upFrom.mp hk
    refine congrArg (laneRow die g x) (funext fun i => ?_)
    rw [List.getElem?_map, patternBits_getElem? (by omega), decide_eq_true (by omega), Bool.xor_true]
    rfl

end Sys2Proof.Machine
end

section
/-! Faults that reset contexts: what a fault leaves, failing parcels, residue mismatches, hangs, and dies lost with their modules (R225, R283-R289). -/

namespace Sys2Proof.Machine

/-! ### Tables mapped as a whole -/

/-- A key whose entry and its image are not the default holds the image. -/
theorem Tbl.get_mapAll {α : Type} [DecidableEq α] {d : α} {f : Nat → α → α} {t : Tbl α} {k : Nat} (h : Tbl.get d t k ≠ d)
    (hf : f k (Tbl.get d t k) ≠ d) : Tbl.get d (Tbl.mapAll d f t) k = f k (Tbl.get d t k) := by
  induction t with
  | nil => exact absurd rfl h
  | cons e t ih =>
    obtain ⟨j, x⟩ := e
    by_cases hj : j = k
    · subst hj
      simp only [Tbl.get, if_true] at hf ⊢
      simp [Tbl.mapAll, hf, Tbl.get]
    · simp only [Tbl.get, if_neg hj] at h hf ⊢
      rw [← ih h hf]
      by_cases hx : f j x = d
      · simp [Tbl.mapAll, hx]
      · simp [Tbl.mapAll, hx, Tbl.get, hj]

/-! ### What a fault leaves (R294) -/

/-- A fault starts the reset of its context, or is recorded alone: of no context of this node, or of one in reset. -/
theorem faultCtx_cases (id : Nat) (r : FaultRecord) (res : Option W32) (s : State) :
    (∃ c, localCtx s id = some c ∧ inReset (getCtx s c) = false
        ∧ faultCtx id r res s = queuesHeld id (setCtx s c (hungCtx id r res (getCtx s c))))
      ∨ (∀ c, localCtx s id = some c → inReset (getCtx s c) = true) ∧ ∃ f, faultCtx id r res s = { s with faults := f } := by
  cases hc : localCtx s id with
  | none =>
    refine .inr ⟨fun c h => (Option.some_ne_none c h.symm).elim, (record { r with context := BitVec.ofNat 16 id } s).faults, ?_⟩
    unfold faultCtx
    rw [hc]
    rfl
  | some c =>
    cases hr : inReset (getCtx s c) with
    | false => exact .inl ⟨c, rfl, hr, faultCtx_hangs hc hr r res⟩
    | true =>
      obtain ⟨f, hf⟩ := recordOf_faults res { r with context := BitVec.ofNat 16 id, flags := setBit r.flags 2 true } s
      refine .inr ⟨fun k hk => Option.some.inj hk ▸ hr, f, Eq.trans ?_ hf⟩
      unfold faultCtx
      rw [hc]
      exact if_pos hr

/-- What faults of contexts make of a state. -/
structure ContextsFaulted (s t : State) : Prop where
  rest : t = { s with obj := { s.obj with ctxs := t.obj.ctxs, queues := t.obj.queues }, faults := t.faults }
  live : ∀ c, (getCtx t c).live = (getCtx s c).live
  patience : ∀ c, (getCtx t c).patience = (getCtx s c).patience
  reset : ∀ c, inReset (getCtx s c) = true → inReset (getCtx t c) = true
  queues : ∀ q, (getQueue s q).live = true →
    (getQueue t q).live = true ∧ (getQueue t q).ctx = (getQueue s q).ctx ∧ (getQueue t q).inflight = (getQueue s q).inflight

namespace ContextsFaulted

theorem refl (s : State) : ContextsFaulted s s :=
  ⟨rfl, fun _ => rfl, fun _ => rfl, fun _ h => h, fun _ h => ⟨h, rfl, rfl⟩⟩

variable {s t u : State}

theorem trans (h : ContextsFaulted s t) (h' : ContextsFaulted t u) : ContextsFaulted s u := by
  refine ⟨?_, fun c => (h'.live c).trans (h.live c), fun c => (h'.patience c).trans (h.patience c), fun c hc => h'.reset c (h.reset c hc),
    fun q hq => ?_⟩
  · have hu := h'.rest
    have ht := h.rest
    rw [ht] at hu
    exact hu
  · obtain ⟨hlive, hctx, hflight⟩ := h.queues q hq
    obtain ⟨hlive', hctx', hflight'⟩ := h'.queues q hlive
    exact ⟨hlive', hctx'.trans hctx, hflight'.trans hflight⟩

theorem localCtx (h : ContextsFaulted s t) (id : Nat) : localCtx t id = localCtx s id := by
  have hnode : t.swarm.node = s.swarm.node := by rw [h.rest]
  rw [Machine.localCtx, hnode, h.live, Machine.localCtx]

end ContextsFaulted

/-- A queue as a reset of context `id` leaves it. -/
def heldQueue (id : Nat) (x : Queue) : Queue :=
  if x.live ∧ x.ctx.toNat = id then { x with state := if x.state = .ready then .hold else x.state, holdMark := x.submitted } else x

/-- A queue held in a reset keeps what it has in flight. -/
theorem getQueue_queuesHeld (id : Nat) {s : State} {q : Nat} (hq : (getQueue s q).live = true) :
    (getQueue (queuesHeld id s) q).live = true ∧ (getQueue (queuesHeld id s) q).ctx = (getQueue s q).ctx
      ∧ (getQueue (queuesHeld id s) q).inflight = (getQueue s q).inflight := by
  have hlive (x : Queue) (h : x.live = true) : x ≠ {} := fun hx => by rw [hx] at h; cases h
  have hkept (x : Queue) (h : x.live = true) : (heldQueue id x).live = true ∧ (heldQueue id x).ctx = x.ctx
      ∧ (heldQueue id x).inflight = x.inflight := by
    unfold heldQueue
    split
    · exact ⟨h, rfl, rfl⟩
    · exact ⟨h, rfl, rfl⟩
  have hheld : getQueue (queuesHeld id s) q = heldQueue id (getQueue s q) :=
    Tbl.get_mapAll (f := fun _ => heldQueue id) (hlive _ hq) (hlive _ (hkept _ hq).1)
  rw [hheld]
  exact hkept _ hq

/-- A context whose reset a fault starts. -/
theorem getCtx_hung (id c : Nat) (x : Ctx) (s : State) (k : Nat) :
    getCtx (queuesHeld id (setCtx s c x)) k = if k = c then x else getCtx s k := Tbl.get_set _ _ _ _ _

/-- A fault of a context. -/
theorem faultCtx_contextsFaulted (id : Nat) (r : FaultRecord) (res : Option W32) (s : State) : ContextsFaulted s (faultCtx id r res s) := by
  rcases faultCtx_cases id r res s with ⟨c, hc, hr, ht⟩ | ⟨-, f, ht⟩
  case inl =>
    rw [ht]
    refine ⟨rfl, fun k => ?_, fun k => ?_, fun k hk => ?_, fun q hq => ?_⟩
    · rw [getCtx_hung]
      split
      next h => rw [h]; rfl
      next => rfl
    · rw [getCtx_hung]
      split
      next h => rw [h]; rfl
      next => rfl
    · rw [getCtx_hung]
      split
      next => rfl
      next => exact hk
    · exact getQueue_queuesHeld id (s := setCtx s c (hungCtx id r res (getCtx s c))) hq
  case inr =>
    rw [ht]
    exact ⟨rfl, fun _ => rfl, fun _ => rfl, fun _ h => h, fun _ h => ⟨h, rfl, rfl⟩⟩

/-- The context that a fault names is in reset after it (R294). -/
theorem faultCtx_resets {id c : Nat} {s : State} (hc : localCtx s id = some c) (r : FaultRecord) (res : Option W32) :
    inReset (getCtx (faultCtx id r res s) c) = true := by
  rcases faultCtx_cases id r res s with ⟨k, hk, -, ht⟩ | ⟨h, f, ht⟩
  case inl =>
    obtain rfl : c = k := Option.some.inj (hc.symm.trans hk)
    rw [ht, getCtx_hung, if_pos rfl]
    rfl
  case inr =>
    rw [ht]
    exact h c hc

/-- The first fault of a context puts it alone in reset, with the fault's code (R294). -/
theorem faultCtx_first {id c : Nat} {s : State} (hc : localCtx s id = some c) (hr : inReset (getCtx s c) = false) (r : FaultRecord)
    (res : Option W32) :
    let t := faultCtx id r res s
    (getCtx t c).state = .resetting ∧ ((getCtx t c).fault).map FaultRecord.code = some r.code
      ∧ t.mem = s.mem ∧ t.cmp = s.cmp ∧ ∀ k, k ≠ c → getCtx t k = getCtx s k := by
  intro t
  have ht : t = queuesHeld id (setCtx s c (hungCtx id r res (getCtx s c))) := faultCtx_hangs hc hr r res
  rw [ht]
  refine ⟨?_, ?_, rfl, rfl, fun k hk => ?_⟩
  · rw [getCtx_hung, if_pos rfl]; rfl
  · rw [getCtx_hung, if_pos rfl]; rfl
  · rw [getCtx_hung, if_neg hk]

/-! ### HANG_DETECT (R286, R225) -/

/-- The patience of a context is what it was (R286). -/
theorem ContextsFaulted.patienceOf {s t : State} (h : ContextsFaulted s t) (c : Nat) : patienceOf t c = patienceOf s c := by
  have hpolicy : policyPatience t = policyPatience s := by
    rw [h.rest]
    rfl
  simp only [Machine.patienceOf, h.patience, hpolicy]

theorem hangQueue_contextsFaulted (s : State) (q : Nat) : ContextsFaulted s (hangQueue s q) := by
  unfold hangQueue
  dsimp only
  split
  · split
    · exact faultCtx_contextsFaulted _ _ _ s
    · exact .refl s
  · exact .refl s

theorem hangSlot_contextsFaulted (s : State) (n : Nat) : ContextsFaulted s (hangSlot s n) := by
  unfold hangSlot
  dsimp only
  split
  · split
    · exact faultCtx_contextsFaulted _ _ _ s
    · exact .refl s
  · exact .refl s

/-- A queue with nothing in flight does not hang. -/
theorem hangQueue_idle {s : State} {q : Nat} (h : (getQueue s q).inflight = []) : hangQueue s q = s := by
  unfold hangQueue
  simp only [h, List.find?_nil]
  cases localCtx s (getQueue s q).ctx.toNat <;> rfl

/-- A slot that is not ARMED does not hang. -/
theorem hangSlot_idle {s : State} {n : Nat} (h : (getColl s n).state ≠ .armed) : hangSlot s n = s := by
  unfold hangSlot
  dsimp only
  split
  · exact if_neg (fun hw => h hw.1)
  · rfl

/-- A context is numbered by its id. -/
theorem localCtx_mod {s : State} {id c : Nat} (h : localCtx s id = some c) : id % 256 = c := by
  unfold localCtx at h
  split at h
  · exact Option.some.inj h
  · cases h

/-- A descriptor older than its context's patience puts the context in reset (R286). -/
theorem hangQueue_resets {s : State} {q c : Nat} (hq : (getQueue s q).live = true) (hc : localCtx s (getQueue s q).ctx.toNat = some c)
    (hold : ∃ d ∈ (getQueue s q).inflight, patienceOf s c < s.keeper.tick - d.started) : inReset (getCtx (hangQueue s q) c) = true := by
  obtain ⟨d, hd, hlate⟩ := hold
  rw [← localCtx_mod hc] at hlate
  obtain ⟨e, he⟩ := Option.isSome_iff_exists.mp (List.find?_isSome.mpr
    (⟨d, hd, decide_eq_true hlate⟩ : ∃ d ∈ (getQueue s q).inflight, decide (patienceOf s ((getQueue s q).ctx.toNat % 256) < s.keeper.tick - d.started) = true))
  unfold hangQueue
  simp only [hc, he, hq, true_and]
  split
  next => exact faultCtx_resets hc _ _
  next h => simpa using h

/-- An armed slot that waits for joins longer than its context's patience puts the context in reset (R225). -/
theorem hangSlot_resets {s : State} {n c : Nat} (ha : (getColl s n).state = .armed) (hj : joinsDone s n (getColl s n) = false)
    (hc : localCtx s (getColl s n).owner.toNat = some c) (hold : patienceOf s c < s.keeper.tick - (getColl s n).armedAt) :
    inReset (getCtx (hangSlot s n) c) = true := by
  unfold hangSlot
  simp only [hc, ha, hj, hold, true_and]
  split
  next => exact faultCtx_resets hc _ _
  next h => simpa using h

/-- A loop of hangs: the state stays one that faults of contexts made. -/
theorem foldl_contextsFaulted {α : Type} {f : State → α → State} (hf : ∀ s x, ContextsFaulted s (f s x)) (l : List α) (s : State) :
    ContextsFaulted s (l.foldl f s) := foldl_preserves (fun t x h => h.trans (hf t x)) l (.refl s)

/-- A context that one pass of such a loop puts in reset from any state the loop can reach is in reset after it. -/
theorem foldl_resets {α : Type} {f : State → α → State} (hf : ∀ s x, ContextsFaulted s (f s x)) {l : List α} {x : α} (hx : x ∈ l) {s : State} {c : Nat}
    (hr : ∀ t, ContextsFaulted s t → inReset (getCtx (f t x) c) = true) : inReset (getCtx (l.foldl f s) c) = true := by
  obtain ⟨before, after, rfl⟩ := List.append_of_mem hx
  rw [List.foldl_append, List.foldl_cons]
  exact (foldl_contextsFaulted hf after _).reset c (hr _ (foldl_contextsFaulted hf before s))

/-- The hangs of the queues, then of the slots. -/
def hangs (s : State) : State := (s.cmp.slots.map (·.1)).foldl hangSlot ((s.obj.queues.map (·.1)).foldl hangQueue s)

theorem hangDetect_runs (s : State) : exec .hangDetect s = .next { hangs s with free := (hangs s).free + 1 } := exec_comes rfl rfl rfl

theorem queueHangs_contextsFaulted (s : State) : ContextsFaulted s ((s.obj.queues.map (·.1)).foldl hangQueue s) :=
  foldl_contextsFaulted hangQueue_contextsFaulted _ s

theorem hangs_contextsFaulted (s : State) : ContextsFaulted s (hangs s) :=
  (queueHangs_contextsFaulted s).trans (foldl_contextsFaulted hangSlot_contextsFaulted _ _)

/-- With nothing in flight and no slot ARMED nothing hangs. -/
theorem hangs_idle {s : State} (hq : ∀ e ∈ s.obj.queues, e.2.inflight = []) (hs : ∀ e ∈ s.cmp.slots, e.2.state ≠ .armed) : hangs s = s := by
  have hqueue (q : Nat) : (getQueue s q).inflight = [] := by
    by_cases h : getQueue s q = {}
    · rw [h]
    · exact hq _ (Tbl.mem_of_get_ne h)
  have hslot (n : Nat) : (getColl s n).state ≠ .armed := by
    by_cases h : getColl s n = {}
    · rw [h]; decide
    · exact hs _ (Tbl.mem_of_get_ne h)
  have hqueues : (s.obj.queues.map (·.1)).foldl hangQueue s = s :=
    foldl_preserves (P := fun t => t = s) (fun t q ht => by rw [ht, hangQueue_idle (hqueue q)]) _ rfl
  rw [hangs, hqueues]
  exact foldl_preserves (P := fun t => t = s) (fun t n ht => by rw [ht, hangSlot_idle (hslot n)]) _ rfl

/-- The context of a descriptor older than its patience is in reset (R286). -/
theorem hangs_queue {s : State} {q c : Nat} (hq : (getQueue s q).live = true) (hc : localCtx s (getQueue s q).ctx.toNat = some c)
    (hold : ∃ d ∈ (getQueue s q).inflight, patienceOf s c < s.keeper.tick - d.started) : inReset (getCtx (hangs s) c) = true := by
  have hlisted : q ∈ s.obj.queues.map (·.1) := List.mem_map_of_mem (f := (·.1)) (Tbl.mem_of_get_ne (d := ({} : Queue)) (fun h => by
    rw [show getQueue s q = {} from h] at hq
    cases hq))
  refine (foldl_contextsFaulted hangSlot_contextsFaulted _ _).reset c (foldl_resets hangQueue_contextsFaulted hlisted (fun t h => ?_))
  obtain ⟨hlive, hctx, hflight⟩ := h.queues q hq
  refine hangQueue_resets hlive (by rw [hctx, h.localCtx]; exact hc) ?_
  rw [hflight, h.patienceOf, show t.keeper = s.keeper by rw [h.rest]]
  exact hold

/-- The context of an armed slot that waits too long for its joins is in reset (R225). -/
theorem hangs_slot {s : State} {n c : Nat} (ha : (getColl s n).state = .armed) (hj : joinsDone s n (getColl s n) = false)
    (hc : localCtx s (getColl s n).owner.toNat = some c) (hold : patienceOf s c < s.keeper.tick - (getColl s n).armedAt) :
    inReset (getCtx (hangs s) c) = true := by
  have hlisted : n ∈ s.cmp.slots.map (·.1) := List.mem_map_of_mem (f := (·.1)) (Tbl.mem_of_get_ne (d := ({} : CollSlot)) (fun h => by
    rw [show getColl s n = {} from h] at ha
    cases ha))
  refine foldl_resets hangSlot_contextsFaulted hlisted (fun t h => ?_)
  have h := (queueHangs_contextsFaulted s).trans h
  have hcoll : getColl t n = getColl s n := by
    rw [h.rest]
    rfl
  refine hangSlot_resets (by rw [hcoll]; exact ha) ?_ (by rw [hcoll, h.localCtx]; exact hc) ?_
  · rw [hcoll, ← hj, h.rest]
    rfl
  · rw [hcoll, h.patienceOf, show t.keeper = s.keeper by rw [h.rest]]
    exact hold

/-! ### LPDDR_CHECK_FAIL (R283) -/

/-- A record written is the last of the log, under the index and the time of its writing. -/
theorem record_last (r : FaultRecord) (s : State) :
    (record r s).faults.log.getLast? = some { r with index := s.faults.next, time := s.swarm.time } := by
  unfold record
  dsimp only
  rw [List.getLast?_append, List.getLast?_singleton]
  rfl

theorem recordCounted_last (res : W32) (r : FaultRecord) (s : State) : ∃ n l k, (recordCounted res r s).faults.log.getLast?
    = some { r with resource := res, events := n, flags := setBit (setBit r.flags 4 l) 5 k, index := s.faults.next, time := s.swarm.time } :=
  ⟨_, _, _, record_last _ _⟩

theorem recordCounted_writes (res : W32) (r : FaultRecord) (s : State) :
    recordCounted res r s = { s with faults := (recordCounted res r s).faults } := rfl

section
variable {src : W32} {ctx : W16} {addr : BitVec 48} {s : State}

/-- The record of a parcel that failed its check. -/
def checkRecord (src : W32) (ctx : W16) (addr : BitVec 48) : FaultRecord :=
  { code := 0x5001, kind := 1, source := src, context := ctx, address := BitVec.ofNat 64 addr.toNat, action := 6 }

/-- The resource of the page in which a parcel failed its check. -/
def checkedPage (addr : BitVec 48) (s : State) : W32 :=
  resourceId 3 ((s.swarm.node * 4 + addrDie addr.toNat) * 2 ^ 23 + addrLoc addr.toNat / 4096)

/-- The memory with the failed parcel marked. -/
def parcelMarked (addr : BitVec 48) (s : State) : State := { s with mem := { s.mem with bad := Tbl.set false s.mem.bad (addr.toNat / 256) true } }

/-- A parcel whose second read checks is recorded. -/
theorem lpddrCheckFail_passes (hn : addrNode addr.toNat = s.swarm.node) (hr : rangeOf s (addrDie addr.toNat) (addrLoc addr.toNat) = .lpddr) :
    lpddrCheckFail src ctx addr true s = recordCounted (checkedPage addr s) { checkRecord src ctx addr with flags := 2 } s := if_pos ⟨hn, hr⟩

/-- A parcel that fails at a unit faults the unit's context. -/
theorem lpddrCheckFail_unit (hn : addrNode addr.toNat = s.swarm.node) (hr : rangeOf s (addrDie addr.toNat) (addrLoc addr.toNat) = .lpddr)
    (hu : 4 ≤ srcUnit src ∧ srcUnit src ≤ 7 ∨ srcUnit src = 10) : lpddrCheckFail src ctx addr false s
      = faultCtx ctx.toNat (checkRecord src ctx addr) (some (checkedPage addr s)) (parcelMarked addr s) := (if_pos ⟨hn, hr⟩).trans (if_pos hu)

/-- A parcel that fails for another requester is answered. -/
theorem lpddrCheckFail_answers (hn : addrNode addr.toNat = s.swarm.node) (hr : rangeOf s (addrDie addr.toNat) (addrLoc addr.toNat) = .lpddr)
    (hu : ¬ (4 ≤ srcUnit src ∧ srcUnit src ≤ 7 ∨ srcUnit src = 10)) : lpddrCheckFail src ctx addr false s
      = recordCounted (checkedPage addr s) (if srcUnit src = 2 then { checkRecord src ctx addr with kind := 11 } else checkRecord src ctx addr)
          { parcelMarked addr s with keeper := { s.keeper with rsp := { status := 0x5001 } } } := (if_pos ⟨hn, hr⟩).trans (if_neg hu)

/-- No parcel of this node's LPDDR fails. -/
theorem lpddrCheckFail_elsewhere {ok : Bool}
    (h : addrNode addr.toNat ≠ s.swarm.node ∨ rangeOf s (addrDie addr.toNat) (addrLoc addr.toNat) ≠ .lpddr) : lpddrCheckFail src ctx addr ok s = s :=
  if_neg (fun hw => h.elim (fun hn => hn hw.1) (fun hr => hr hw.2))

/-- A parcel whose second read checks is recorded, and nothing else written (R283). -/
theorem checkFail_recorded (hn : addrNode addr.toNat = s.swarm.node) (hr : rangeOf s (addrDie addr.toNat) (addrLoc addr.toNat) = .lpddr) :
    ∃ t, exec (.lpddrCheckFail src ctx addr true) s = .next t ∧ (t.faults.log.getLast?).map (fun r => (r.code, r.kind, bitOf r.flags 1)) = some (0x5001, 1, true)
      ∧ t = { s with faults := t.faults, free := s.free + 1 } := by
  refine ⟨_, exec_comes rfl rfl (lpddrCheckFail_passes hn hr), ?_, rfl⟩
  obtain ⟨n, l, k, hlast⟩ := recordCounted_last (checkedPage addr s) { checkRecord src ctx addr with flags := 2 } s
  dsimp only
  rw [hlast]
  have hflag : ∀ l k : Bool, bitOf (setBit (setBit (2 : Byte) 4 l) 5 k) 1 = true := by decide
  exact congrArg (fun b => some ((0x5001 : W16), (1 : Byte), b)) (hflag l k)

/-- A parcel that fails again is marked; it faults a unit's context, and is answered to another requester (R283). -/
theorem checkFail_fails (hn : addrNode addr.toNat = s.swarm.node) (hr : rangeOf s (addrDie addr.toNat) (addrLoc addr.toNat) = .lpddr) :
    let unit := 4 ≤ srcUnit src ∧ srcUnit src ≤ 7 ∨ srcUnit src = 10
    ∃ t, exec (.lpddrCheckFail src ctx addr false) s = .next t ∧ t.mem = { s.mem with bad := Tbl.set false s.mem.bad (addr.toNat / 256) true }
      ∧ (unit → ∀ c, localCtx s ctx.toNat = some c → inReset (getCtx t c) = true)
      ∧ (¬ unit → t.keeper.rsp.status = 0x5001 ∧ (t.faults.log.getLast?).map FaultRecord.code = some 0x5001 ∧ t.obj = s.obj) := by
  intro unit
  by_cases hu : unit
  case pos =>
    refine ⟨_, exec_comes rfl rfl (lpddrCheckFail_unit hn hr hu), ?_, fun _ c hc => ?_, fun h => absurd hu h⟩
    · have hrest := (faultCtx_contextsFaulted ctx.toNat (checkRecord src ctx addr) (some (checkedPage addr s)) (parcelMarked addr s)).rest
      exact (congrArg State.mem hrest :)
    · exact faultCtx_resets (s := parcelMarked addr s) hc _ _
  case neg =>
    refine ⟨_, exec_comes rfl rfl (lpddrCheckFail_answers hn hr hu), rfl, fun h => absurd h hu, fun _ => ⟨rfl, ?_, rfl⟩⟩
    have hcode : (if srcUnit src = 2 then { checkRecord src ctx addr with kind := 11 } else checkRecord src ctx addr).code = 0x5001 := by
      split <;> rfl
    generalize (if srcUnit src = 2 then { checkRecord src ctx addr with kind := 11 } else checkRecord src ctx addr) = r at hcode ⊢
    obtain ⟨n, l, k, hlast⟩ := recordCounted_last (checkedPage addr s) r { parcelMarked addr s with keeper := { s.keeper with rsp := { status := 0x5001 } } }
    dsimp only
    rw [hlast]
    exact congrArg some hcode

end

/-! ### RESIDUE_MISMATCH (R285) -/

section
variable {kind die inst : Nat} {e f : Byte} {s : State}

/-- The unit kinds of R174 that a mismatch names. -/
def residueUnit (kind die inst : Nat) : Prop :=
  (kind = 4 ∧ die < 4 ∧ inst < 32) ∨ (kind = 5 ∧ die < 4 ∧ inst < 8) ∨ (kind = 6 ∧ die = 4 ∧ inst < 96)

theorem residueUnit_inRange (h : residueUnit kind die inst) : decide ((kind = 0 ∧ die < 4 ∧ inst < 16) ∨ (kind = 4 ∧ die < 4 ∧ inst < 32)
    ∨ (kind = 5 ∧ die < 4 ∧ inst < 8) ∨ (kind = 6 ∧ die = 4 ∧ inst < 96)) = true := decide_eq_true (.inr h)

theorem residueUnit_ne (h : residueUnit kind die inst) : kind ≠ 0 := by
  rintro rfl
  rcases h with h | h | h <;> cases h.1

/-- A unit without a context mismatches without effect. -/
theorem residueMismatch_idle (h : residueUnit kind die inst) (hu : unitCtx s kind die inst = none) :
    exec (.residueMismatch kind die inst e f) s = .next { s with free := s.free + 1 } := by
  refine exec_comes rfl (residueUnit_inRange h) ((if_neg (residueUnit_ne h)).trans ?_)
  rw [hu]

/-- The mismatch of a unit resets the unit's context (R285). -/
theorem residueMismatch_resets (h : residueUnit kind die inst) {i : W16} {c : Nat} (hu : unitCtx s kind die inst = some i)
    (hc : localCtx s i.toNat = some c) (hr : inReset (getCtx s c) = false) :
    ∃ t, exec (.residueMismatch kind die inst e f) s = .next t ∧ (getCtx t c).state = .resetting ∧ ((getCtx t c).fault).map FaultRecord.code = some 0x5002
      ∧ t.mem = s.mem ∧ t.cmp = s.cmp ∧ ∀ k, k ≠ c → getCtx t k = getCtx s k := by
  have hfault : ∃ r res, r.code = 0x5002 ∧ residueMismatch kind die inst e f s = faultCtx i.toNat r res s := by
    refine ⟨_, _, ?_, (if_neg (residueUnit_ne h)).trans (by rw [hu])⟩
    dsimp only
    split <;> rfl
  obtain ⟨r, res, hcode, hrun⟩ := hfault
  obtain ⟨hstate, hrecord, hmem, hcmp, hothers⟩ := faultCtx_first hc hr r res
  exact ⟨_, exec_comes rfl (residueUnit_inRange h) hrun, hstate, hcode ▸ hrecord, hmem, hcmp, hothers⟩

end

/-- The failure of a collective leaves contexts and nodes. -/
theorem collFail_contexts (n : Nat) (code : W16) (s : State) : (collFail n code s).obj.ctxs = s.obj.ctxs ∧ (collFail n code s).swarm = s.swarm := by
  have h : ∀ t e, (fun u : State => (u.obj.ctxs, u.swarm)) (failMember code 0 t e) = (fun u : State => (u.obj.ctxs, u.swarm)) t := fun t e => by
    unfold failMember
    rw [poisonOf_obj]
    rfl
  rw [collFail, collFailWith_eq]
  split
  · have hall := foldl_keeps (fun u : State => (u.obj.ctxs, u.swarm)) h (sameColl s n) s
    exact ⟨congrArg Prod.fst hall, congrArg Prod.snd hall⟩
  · exact ⟨rfl, rfl⟩

/-- What names a context is what its contexts and its node say. -/
theorem localCtx_of_ctxs {s t : State} (hc : t.obj.ctxs = s.obj.ctxs) (hs : t.swarm = s.swarm) (id : Nat) : localCtx t id = localCtx s id := by
  rw [localCtx, getCtx, hc, hs, localCtx, getCtx]

/-- An armed slot takes part in its own collective. -/
theorem mem_sameColl {s : State} {n : Nat} (h : (getColl s n).state = .armed) : (n, getColl s n) ∈ sameColl s n := by
  refine List.mem_filter.mpr ⟨Tbl.mem_of_get_ne (d := ({} : CollSlot)) (fun hx => ?_), by simp [h]⟩
  rw [show getColl s n = {} from hx] at h
  cases h

/-- The collective that fails by a mismatch at its slot. -/
theorem residueMismatch_slot {die inst : Nat} {e f : Byte} {s : State} (ha : (getColl s (16 * die + inst)).state = .armed) :
    ∃ r : State → FaultRecord, residueMismatch 0 die inst e f s = ((sameColl s (16 * die + inst)).map (fun x => x.2.owner.toNat)).foldl
      (fun s o => faultCtx o (r s) none s) (collFail (16 * die + inst) 0x5002 s) :=
by
  refine ⟨fun s => { code := 0x5002, kind := 2, expected := e.zeroExtend 64, found := f.zeroExtend 64, source := mkSrc s.swarm.node die 0 0 0 }, ?_⟩
  unfold residueMismatch
  dsimp only
  rw [if_pos rfl, if_pos ha]

/-- A slot that is not ARMED mismatches without effect. -/
theorem residueMismatch_unarmed {die inst : Nat} {e f : Byte} {s : State} (hd : die < 4) (hi : inst < 16)
    (ha : (getColl s (16 * die + inst)).state ≠ .armed) : exec (.residueMismatch 0 die inst e f) s = .next { s with free := s.free + 1 } := by
  refine exec_comes rfl (decide_eq_true (.inl ⟨rfl, hd, hi⟩)) ?_
  unfold residueMismatch
  dsimp only
  rw [if_pos rfl, if_neg ha]

/-- The mismatch of an armed slot fails its collective and resets its owner's context (R285, R229). -/
theorem residueMismatch_fails {die inst : Nat} {e f : Byte} {s : State} (hd : die < 4) (hi : inst < 16)
    (ha : (getColl s (16 * die + inst)).state = .armed) :
    ∃ t, exec (.residueMismatch 0 die inst e f) s = .next t ∧ t.mem = s.mem ∧ (getColl t (16 * die + inst)).state = .failed
      ∧ (getColl t (16 * die + inst)).code = 0x5002
      ∧ ∀ c, localCtx s (getColl s (16 * die + inst)).owner.toNat = some c → inReset (getCtx t c) = true := by
  obtain ⟨r, hrun⟩ := residueMismatch_slot (e := e) (f := f) ha
  obtain ⟨⟨hstate, hcode⟩, -, hmem, -⟩ := collFail_fails (code := 0x5002) (by decide) ha
  obtain ⟨hctxs, hswarm⟩ := collFail_contexts (16 * die + inst) 0x5002 s
  have hfaulted (t : State) (o : Nat) : ContextsFaulted t (faultCtx o (r t) none t) := faultCtx_contextsFaulted o (r t) none t
  have hrest := (foldl_contextsFaulted hfaulted ((sameColl s (16 * die + inst)).map (fun x => x.2.owner.toNat)) (collFail (16 * die + inst) 0x5002 s)).rest
  refine ⟨_, exec_comes rfl (decide_eq_true (.inl ⟨rfl, hd, hi⟩)) hrun, ?_, ?_, ?_, fun c hc => ?_⟩
  · exact (congrArg State.mem hrest :).trans hmem
  · exact (congrArg (fun t => (getColl t (16 * die + inst)).state) hrest :).trans hstate
  · exact (congrArg (fun t => (getColl t (16 * die + inst)).code) hrest :).trans hcode
  · refine foldl_resets hfaulted (List.mem_map_of_mem (f := fun x : Nat × CollSlot => x.2.owner.toNat) (mem_sameColl ha)) (fun t ht => ?_)
    exact faultCtx_resets (by rw [ht.localCtx, localCtx_of_ctxs hctxs hswarm]; exact hc) _ _

/-! ### A die lost with its last module (R288, R289, R298) -/

theorem leaveUp_portsOnly (p : Nat) (s : State) : PortsOnly s (leaveUp p s) := by
  have h := PortsOnly.refl s
  unfold leaveUp
  dsimp only
  split_ifs
  · exact h
  · exact (h.setSlink _ _).sendFlit _ _
  · exact (h.setSlink _ _).setSlink _ _
  · exact h.setSlink _ _

/-- Ports that leave UP change neither which contexts live nor which of them works on a die. -/
theorem work_of_portsOnly {s t : State} (h : PortsOnly s t) (d : Nat) :
    (liveCtxs t).filter (fun c => workOnDie t c d) = (liveCtxs s).filter (fun c => workOnDie s c d) := by
  obtain ⟨l, rfl⟩ := h
  rfl

/-- A live context is among those of its node. -/
theorem mem_liveCtxs {s : State} {c : Nat} (h : (getCtx s c).live = true) : c ∈ liveCtxs s :=
  List.mem_filterMap.mpr ⟨(c, getCtx s c), Tbl.mem_of_get_ne (d := ({} : Ctx)) (fun hx => by
    rw [show getCtx s c = {} from hx] at h
    cases h), if_pos h⟩

theorem localCtx_ctxId {s : State} {c : Nat} (hn : s.swarm.node < 4) (hc : c < 256) (h : (getCtx s c).live = true) :
    localCtx s (ctxId s c) = some c := by
  have hmod : (256 * s.swarm.node + c) % 256 = c := by omega
  rw [localCtx, ctxId, hmod, if_pos ⟨by omega, by omega, h⟩]

/-- What no recovery writes but the contexts' resets: the retired resources, the contexts and their node. -/
def retiredAndContexts (s : State) : List W32 × Tbl Ctx × Nat := (s.faults.retired, s.obj.ctxs, s.swarm.node)

theorem dieCollFail_retiredAndContexts (d : Nat) (s : State) : retiredAndContexts (dieCollFail d s) = retiredAndContexts s := by
  refine foldl_keeps retiredAndContexts (fun s e => ?_) _ s
  rw [collFail, collFailWith_eq]
  split
  · refine foldl_keeps retiredAndContexts (fun s e => ?_) _ s
    unfold failMember
    rw [poisonOf_obj]
    rfl
  · rfl

theorem record_retired (r : FaultRecord) (s : State) : (record r s).faults.retired = s.faults.retired := by
  unfold record
  dsimp only
  split
  · rfl
  · split
    · rfl
    · split <;> rfl

theorem faultCtx_retired (id : Nat) (r : FaultRecord) (s : State) : (faultCtx id r none s).faults.retired = s.faults.retired := by
  unfold faultCtx
  split
  · exact record_retired _ s
  · dsimp only
    split
    · exact record_retired _ s
    · rfl

/-- The start of a die's recovery resets every context with work on the die, and retires nothing (R298). -/
theorem startRecovery_resets {d : Nat} {s : State} (hd : d < 5) (hs : (getDie s d).state = .inService) :
    (startRecovery d none [] s).faults.retired = s.faults.retired
      ∧ (s.swarm.node < 4 → ∀ c, c < 256 → (getCtx s c).live = true → workOnDie s c d = true →
          inReset (getCtx (startRecovery d none [] s) c) = true) := by
  generalize ht : startRecovery d none [] s = t
  unfold startRecovery at ht
  rw [if_pos ⟨hd, hs⟩] at ht
  extract_lets left work first faults marked failed at ht
  have hleft : PortsOnly s left := foldl_preserves (fun t p h => h.trans (leaveUp_portsOnly p t)) (portsOfDie d) (.refl s)
  have hfailed : retiredAndContexts failed = retiredAndContexts s := by
    obtain ⟨l, hl⟩ := hleft
    refine (dieCollFail_retiredAndContexts d marked).trans ?_
    show retiredAndContexts left = _
    rw [hl]
    rfl
  refine ⟨?_, fun hn c hc hlive hwork => ?_⟩
  · rw [← ht, foldl_keeps (fun t : State => t.faults.retired) (fun s c => faultCtx_retired _ _ s)]
    exact congrArg Prod.fst hfailed
  · have hmem : c ∈ work := by
      rw [show work = _ from work_of_portsOnly hleft d]
      exact List.mem_filter.mpr ⟨mem_liveCtxs hlive, hwork⟩
    have hctxs : failed.obj.ctxs = s.obj.ctxs := congrArg (fun x => x.2.1) hfailed
    have hnode : failed.swarm.node = s.swarm.node := congrArg (fun x => x.2.2) hfailed
    rw [← ht]
    refine foldl_resets (fun s c => faultCtx_contextsFaulted _ _ _ s) hmem (fun v hv => faultCtx_resets ?_ _ _)
    have hnode' : v.swarm.node = s.swarm.node := by rw [hv.rest]; exact hnode
    exact localCtx_ctxId (by rw [hnode']; exact hn) hc (by rw [hv.live, getCtx, hctxs]; exact hlive)

/-- The start of a recovery writes no memory and retires nothing. -/
theorem startRecovery_rest {d : Nat} (hd : d < 5) (s : State) :
    (startRecovery d none [] s).mem = s.mem ∧ (startRecovery d none [] s).faults.retired = s.faults.retired := by
  by_cases hs : (getDie s d).state = .inService
  case pos => exact ⟨(startRecovery_recovers hd hs).2.2, (startRecovery_resets hd hs).1⟩
  case neg =>
    unfold startRecovery
    rw [if_neg (fun h => hs h.2)]
    split
    · exact ⟨rfl, rfl⟩
    · exact ⟨rfl, rfl⟩

/-- A die retired: its state, the resources retired before, and what its recovery's start made of contexts and memory (R289). -/
theorem retireDie_retires (d : Nat) (s : State) :
    (getDie (retireDie d s) d).state = .retired ∧ (retireDie d s).mem = (startRecovery d none [] s).mem
      ∧ (retireDie d s).obj = (startRecovery d none [] s).obj
      ∧ ∀ r ∈ (startRecovery d none [] s).faults.retired, r ∈ (retireDie d s).faults.retired := by
  generalize ht : retireDie d s = t
  unfold retireDie at ht
  extract_lets res started cmds faults retired at ht
  have hblank : (if d = 4 then blankFrame retired else retired).faults = retired.faults
      ∧ (if d = 4 then blankFrame retired else retired).mem = retired.mem ∧ (if d = 4 then blankFrame retired else retired).obj = retired.obj := by
    split
    · exact ⟨rfl, rfl, rfl⟩
    · exact ⟨rfl, rfl, rfl⟩
  obtain ⟨hfaults, hmem, hobj⟩ := hblank
  have hends : t.faults = retired.faults ∧ t.mem = retired.mem ∧ t.obj = retired.obj := by
    rw [← ht, ← hfaults, ← hmem, ← hobj]
    exact ⟨foldl_keeps State.faults (f := fun s c => finishCmd c 0x2001 [] s) (fun s c => rfl) cmds _,
      foldl_keeps State.mem (f := fun s c => finishCmd c 0x2001 [] s) (fun s c => rfl) cmds _,
      foldl_keeps State.obj (f := fun s c => finishCmd c 0x2001 [] s) (fun s c => rfl) cmds _⟩
  obtain ⟨hfaults, hmem, hobj⟩ := hends
  refine ⟨?_, hmem, hobj, fun r hr => ?_⟩
  · rw [getDie, hfaults]
    show (Tbl.get {} (Tbl.modify {} started.faults.dies d (fun x => { x with state := .retired, cmds := [] })) d).state = .retired
    rw [Tbl.modify, Tbl.get_set_self]
  · rw [hfaults]
    show r ∈ (if started.faults.retired.contains res then started.faults.retired else res :: started.faults.retired)
    split
    · exact hr
    · exact List.mem_cons_of_mem _ hr

theorem record_dies (r : FaultRecord) (s : State) : (record r s).faults.dies = s.faults.dies := congrArg Prod.fst (record_diesAndMemory r s)

theorem recordCounted_dies (res : W32) (r : FaultRecord) (s : State) : (recordCounted res r s).faults.dies = s.faults.dies := by
  unfold recordCounted
  rw [record_dies]
  rfl

/-- The retraining of a module as it is counted (R288). -/
def retrainCounted (a b m : Nat) (s : State) : State :=
  recordCounted (resourceId 5 (s.swarm.node * 64 + (a * 6 + b) * 2 + m)) { code := 0x5008, kind := 7, flags := 1, action := 4, source := keeperSrc s } s

/-- Counting a retraining writes the fault log alone, and no die of it. -/
theorem retrainCounted_rest (a b m : Nat) (s : State) :
    ∃ f, retrainCounted a b m s = { s with faults := f } ∧ f.dies = s.faults.dies ∧ (f.log.getLast?).map FaultRecord.code = some 0x5008 := by
  refine ⟨(retrainCounted a b m s).faults, rfl, recordCounted_dies _ _ s, ?_⟩
  obtain ⟨n, l, k, hlast⟩ := recordCounted_last (resourceId 5 (s.swarm.node * 64 + (a * 6 + b) * 2 + m))
      { code := 0x5008, kind := 7, flags := 1, action := 4, source := keeperSrc s } s
  exact (congrArg (Option.map FaultRecord.code) hlast).trans rfl

/-- A retraining is recorded; with the last module of a link its die is retired, and the work on it is reset (R288, R289). -/
theorem ucieRetrain_counts {a b k : Nat} {s : State} (hl : dieLink a b = true) (hk : k < 2) (hn : s.swarm.node < 4) :
    let idx := s.swarm.node * 64 + (a * 6 + b) * 2
    let d := if b = 5 then a else b
    ∃ t, exec (.ucieRetrain a b k) s = .next t ∧ t.mem = s.mem
      ∧ (¬ (isRetired t 5 idx = true ∧ isRetired t 5 (idx + 1) = true) →
        (t.faults.log.getLast?).map FaultRecord.code = some 0x5008 ∧ t.obj = s.obj ∧ t.keeper = s.keeper)
      ∧ (isRetired t 5 idx = true → isRetired t 5 (idx + 1) = true → (getDie t d).state = .retired
        ∧ ((getDie s d).state = .inService → ∀ c, c < 256 → (getCtx s c).live = true → workOnDie s c d = true → inReset (getCtx t c) = true)) := by
  intro idx d
  have hin : (dieLink a b && decide (k < 2)) = true := by rw [hl, decide_eq_true hk]; rfl
  have hd : d < 5 := by
    simp only [dieLink, linked, Bool.and_eq_true, decide_eq_true_eq] at hl
    show (if b = 5 then a else b) < 5
    split <;> omega
  obtain ⟨f, hf, hdies, hcode⟩ := retrainCounted_rest a b k s
  have hrun (v : State) (hv : (if isRetired (retrainCounted a b k s) 5 idx = true ∧ isRetired (retrainCounted a b k s) 5 (idx + 1) = true
      then retireDie d (retrainCounted a b k s) else retrainCounted a b k s) = v) :
      exec (.ucieRetrain a b k) s = .next { v with free := v.free + 1 } := exec_comes rfl hin hv
  rw [hf] at hrun
  generalize hs' : { s with faults := f } = s' at hrun
  by_cases hlost : isRetired s' 5 idx = true ∧ isRetired s' 5 (idx + 1) = true
  case neg =>
    refine ⟨_, hrun _ (if_neg hlost), ?_, fun _ => ⟨?_, ?_, ?_⟩, fun h h' => absurd ⟨h, h'⟩ hlost⟩
    · rw [← hs']
    · rw [← hs']; exact hcode
    · rw [← hs']
    · rw [← hs']
  case pos =>
    have hdie : getDie s' d = getDie s d := by
      rw [getDie, ← hs', hdies, getDie]
    obtain ⟨hretired, hmem, hobj, hkept⟩ := retireDie_retires d s'
    obtain ⟨hmem', hkept'⟩ := startRecovery_rest hd s'
    have hstays (i : Nat) (h : isRetired s' 5 i = true) : isRetired (retireDie d s') 5 i = true :=
      List.contains_iff_mem.mpr (hkept _ (by rw [hkept']; exact List.contains_iff_mem.mp h))
    refine ⟨_, hrun _ (if_pos hlost), hmem.trans (hmem'.trans (by rw [← hs'])), fun h => absurd ⟨hstays _ hlost.1, hstays _ hlost.2⟩ h,
      fun _ _ => ⟨hretired, fun hs c hc hlive hwork => ?_⟩⟩
    have hreset := (startRecovery_resets hd (hdie ▸ hs)).2 (by rw [← hs']; exact hn) c hc (by rw [← hs']; exact hlive) (by rw [← hs']; exact hwork)
    rw [getCtx, ← hobj] at hreset
    exact hreset

/-! ### The obligation -/

/-- Settles O52: each event by the faults it raises, and the checkers lane by lane. -/
theorem checkAndHangFaults : Obligations.CheckAndHangFaults := by
  intro s hnode
  refine ⟨?parcel, fun src ctx addr ok h => ?elsewhere,
    fun die inst e f hd hi => ⟨fun hj => ?cellIdle, fun j c hj hc hr => ?cell⟩, fun kind die inst e f hk => ⟨fun hu => ?unitIdle, fun i c hu hc hr => ?unit⟩,
    ?slot, ?hang, ?joins, ?retrain, ?checkers⟩
  case parcel =>
    intro src ctx addr d unit hn hr
    exact ⟨checkFail_recorded hn hr, checkFail_fails hn hr⟩
  case elsewhere => exact exec_comes rfl rfl (lpddrCheckFail_elsewhere h)
  case cellIdle => exact residueMismatch_idle (.inl ⟨rfl, hd, hi⟩) (congrArg (Option.map CellJob.ctx) hj)
  case cell => exact residueMismatch_resets (.inl ⟨rfl, hd, hi⟩) (congrArg (Option.map CellJob.ctx) hj) hc hr
  case unitIdle => exact residueMismatch_idle (.inr hk) hu
  case unit => exact residueMismatch_resets (.inr hk) hu hc hr
  case slot =>
    intro die inst e f hd hi x
    exact ⟨fun ha => residueMismatch_unarmed hd hi ha, fun ha => residueMismatch_fails hd hi ha⟩
  case hang =>
    have hrest := (hangs_contextsFaulted s).rest
    refine ⟨_, hangDetect_runs s, (congrArg State.mem hrest :), (congrArg State.cmp hrest :), fun hq hs => ?_,
      fun q c hq hc hold => hangs_queue hq hc hold⟩
    rw [hangs_idle hq hs]
  case joins => exact ⟨_, hangDetect_runs s, fun n c ha hj hc hold => hangs_slot ha hj hc hold⟩
  case retrain =>
    intro a b k hl hk idx d
    exact ucieRetrain_counts hl hk hnode
  case checkers =>
    intro die g before bits hd hg x code lanes rows kept
    have hkept (l : List (List Bool)) (he : x.enable = true) : kept (l.foldl (fun y received => patternBit die g received y) x) := by
      obtain ⟨henable, hpattern, hlanes, hinvert, huser⟩ := patternRows_settings die g l x
      exact ⟨henable.trans he, hpattern, hlanes, hinvert, huser⟩
    refine ⟨fun he => checkers_disabled hd hg he before bits, fun he => ⟨?locked, ?lossOfLock⟩, fun he hl hc hn seed hs hb => ?locks, fun he hl hn hlanes => ?loses⟩
    case locked => exact ⟨_, checkerLocked_runs hd hg he bits, hkept bits he, fun h => by rw [h]; rfl⟩
    case lossOfLock =>
      have hrun := checkerLockLoss_runs hd hg he before bits
      exact ⟨_, hrun.trans (checkerLocked_runs hd hg he _), hkept _ he, hrun⟩
    case locks =>
      have hrun := checkerLocked_runs hd hg he bits
      rw [hb] at hrun
      exact ⟨_, hb ▸ hrun, patternRows_lock hl hc hn hs⟩
    case loses =>
      intro sent hb hw
      have hrun := checkerLockLoss_runs hd hg he before bits
      rw [checkerLocked_runs hd hg he, checkedRows_eq hb hw] at hrun
      exact ⟨_, hrun, patternRows_lose before.length hl hn hlanes⟩

end Sys2Proof.Machine
end

section
/-! What the state's operations leave of the swarm: none but those of the links themselves writes a port, a member or the swarm's time. -/

namespace Sys2Proof.Machine

/-! ### Packets, notices and records -/

@[simp] theorem carry_swarm (l : List Sent) (s : State) : (carry l s).swarm = s.swarm := rfl

@[simp] theorem faultNotice_swarm (x : Notice) (s : State) : (faultNotice x s).swarm = s.swarm := rfl

@[simp] theorem countStray_swarm (d r n : Nat) (s : State) : (countStray d r n s).swarm = s.swarm := rfl

@[simp] theorem noticeOf_swarm (d : Nat) (s : State) : (noticeOf d s).swarm = s.swarm := by
  unfold noticeOf
  dsimp only
  split <;> rfl

@[simp] theorem noticeDomain_swarm (s : State) (r : Requester) (a : Nat) : (noticeDomain s r a).swarm = s.swarm := by
  unfold noticeDomain
  dsimp only
  split <;> simp

@[simp] theorem record_swarm (r : FaultRecord) (s : State) : (record r s).swarm = s.swarm := rfl

@[simp] theorem failedCheck_swarm (h : PacketHeader) (s : State) : (failedCheck h s).swarm = s.swarm := rfl

@[simp] theorem tgtPresent_swarm (k : Nat) (h : PacketHeader) (owner : TgtOwner) (write : Bool) (beats : BitVec 4) (data : Bytes) (s : State) :
    (tgtPresent k h owner write beats data s).swarm = s.swarm := by
  unfold tgtPresent
  dsimp only
  split <;> rfl

/-! ### Answers, events and refused writes -/

@[simp] theorem answer_swarm (status : W16) (data : Bytes) (s : State) : (answer status data s).swarm = s.swarm := rfl

@[simp] theorem sendTo_swarm (m : Nat) (code : W16) (payload : Bytes) (s : State) : (sendTo m code payload s).swarm = s.swarm := rfl

@[simp] theorem sendAbout_swarm (m : Nat) (code : W16) (payload : Bytes) (s : State) : (sendAbout m code payload s).swarm = s.swarm := by
  unfold sendAbout
  split <;> rfl

@[simp] theorem sendOwner_swarm (code : W16) (payload : Bytes) (s : State) : (sendOwner code payload s).swarm = s.swarm := by
  unfold sendOwner
  split <;> rfl

@[simp] theorem violation_swarm (src : W32) (a : Nat) (creator : Option Nat) (s : State) : (violation src a creator s).swarm = s.swarm := by
  unfold violation
  dsimp only
  repeat' split
  all_goals simp

@[simp] theorem refuseWrite_swarm (src : W32) (a : Nat) (creator : Option Nat) (code : W16) (s : State) :
    (refuseWrite src a creator code s).swarm = s.swarm := by
  simp [refuseWrite]

/-! ### Fences and collectives -/

@[simp] theorem poison_swarm (i : Nat) (code : W16) (s : State) : (poison i code s).swarm = s.swarm := by
  unfold poison
  dsimp only
  split <;> rfl

@[simp] theorem collFailWith_swarm (n : Nat) (code missed : W16) (s : State) : (collFailWith n code missed s).swarm = s.swarm := by
  rw [collFailWith_eq]
  split
  · refine foldl_keeps State.swarm (fun s e => ?_) _ s
    unfold failMember
    rw [poisonOf_obj]
    rfl
  · rfl

@[simp] theorem collFail_swarm (n : Nat) (code : W16) (s : State) : (collFail n code s).swarm = s.swarm := by
  simp [collFail]

@[simp] theorem inputStore_swarm (n off : Nat) (l : Bytes) (s : State) : (inputStore n off l s).swarm = s.swarm := by
  unfold inputStore
  refine foldl_keeps State.swarm (fun s x => ?_) _ s
  dsimp only
  split_ifs <;> simp

/-! ### Registers out of reach, mailboxes and queues -/

@[simp] theorem collInputWrite_swarm (src : W32) (die k off : Nat) (data : Bytes) (s : State) : (collInputWrite src die k off data s).swarm = s.swarm := by
  unfold collInputWrite
  extract_lets n a reach c
  split_ifs
  · exact (answer_swarm _ _ _).trans (noticeDomain_swarm _ _ _)
  · exact refuseWrite_swarm _ _ _ _ _
  · exact (inputStore_swarm _ _ _ _).trans (answer_swarm _ _ _)

@[simp] theorem registerOut_swarm (src : W32) (a : Nat) (s : State) : (registerOut src a s).swarm = s.swarm := by
  unfold registerOut
  dsimp only
  rw [answer_swarm]
  split
  · rw [foldl_keeps State.swarm (fun s d => noticeOf_swarm d s)]
    exact noticeDomain_swarm _ _ _
  · exact noticeDomain_swarm _ _ _

@[simp] theorem pushSignal_swarm (g : Signal) (s : State) : (pushSignal g s).swarm = s.swarm := rfl

@[simp] theorem fencePort_swarm (src : W32) (i size : Nat) (v : W64) (add : Bool) (s : State) : (fencePort src i size v add s).swarm = s.swarm := by
  unfold fencePort
  split <;> rfl

@[simp] theorem foreignCount_swarm (src : W32) (m a : Nat) (s : State) : (foreignCount src m a s).swarm = s.swarm := by
  simp [foreignCount]

@[simp] theorem foreignWrite_swarm (src : W32) (m a : Nat) (s : State) : (foreignWrite src m a s).swarm = s.swarm := by
  simp [foreignWrite]

@[simp] theorem refuseReg_swarm (src : W32) (a : Nat) (s : State) : (refuseReg src a s).swarm = s.swarm := by
  simp [refuseReg]

@[simp] theorem misshapenWrite_swarm (src : W32) (p : RegPlace) (a : Nat) (s : State) : (misshapenWrite src p a s).swarm = s.swarm := by
  unfold misshapenWrite
  repeat' split
  all_goals simp

theorem mbxWrite_swarm {f : State → State} (hf : ∀ s, (f s).swarm = s.swarm) (src : W32) (m off : Nat) (s : State) :
    (mbxWrite src m off f s).swarm = s.swarm := by
  unfold mbxWrite
  split
  · exact hf _
  · simp

@[simp] theorem freeze_swarm (m : Nat) (s : State) : (freeze m s).swarm = s.swarm := by
  unfold freeze
  dsimp only
  split <;> simp

@[simp] theorem writeReqTail_swarm (m : Nat) (v : W32) (s : State) : (writeReqTail m v s).swarm = s.swarm := by
  unfold writeReqTail
  dsimp only
  split <;> simp

@[simp] theorem writeRspHead_swarm (m : Nat) (v : W32) (s : State) : (writeRspHead m v s).swarm = s.swarm := by
  unfold writeRspHead
  dsimp only
  split <;> simp

@[simp] theorem writeMbxCtrl_swarm (m : Nat) (v : W32) (s : State) : (writeMbxCtrl m v s).swarm = s.swarm := by
  unfold writeMbxCtrl
  split <;> rfl

@[simp] theorem putMbx_swarm (i w : Nat) (m o : W32) (s : State) : (putMbx i w m o s).swarm = s.swarm := by
  unfold putMbx
  split <;> simp

@[simp] theorem mbxDoorbell_swarm (src v : W32) (s : State) : (mbxDoorbell src v s).swarm = s.swarm := by
  unfold mbxDoorbell
  dsimp only
  split <;> simp

/-! ### Queues and monitor slots -/

@[simp] theorem sendMaker_swarm (x : Ctx) (code : W16) (payload : Bytes) (s : State) : (sendMaker x code payload s).swarm = s.swarm := by
  unfold sendMaker
  split <;> simp

@[simp] theorem haltQueue_swarm (q : Nat) (d : W32) (code : W16) (sigFence : Option Nat) (s : State) : (haltQueue q d code sigFence s).swarm = s.swarm := by
  unfold haltQueue
  dsimp only
  repeat' split
  all_goals simp

@[simp] theorem takeDoorbell_swarm (q : Nat) (v : W32) (s : State) : (takeDoorbell q v s).swarm = s.swarm := by
  unfold takeDoorbell
  dsimp only
  split_ifs <;> simp

@[simp] theorem queueDoorbell_swarm (src : W32) (q : Nat) (v : W32) (s : State) : (queueDoorbell src q v s).swarm = s.swarm := by
  unfold queueDoorbell
  dsimp only
  split <;> simp

@[simp] theorem unwatch_swarm (x : Slot) (s : State) : (unwatch x s).swarm = s.swarm := by
  unfold unwatch
  repeat' split
  all_goals rfl

@[simp] theorem slotRecord_swarm (k : Nat) (ctx code : W16) (s : State) : (slotRecord k ctx code s).swarm = s.swarm := by
  unfold slotRecord
  dsimp only
  split <;> simp

@[simp] theorem violationIf_swarm (code : W16) (src : W32) (a : Nat) (s : State) : (violationIf code src a s).swarm = s.swarm := by
  unfold violationIf
  split <;> simp

@[simp] theorem memWrite_swarm (s : State) (a : Nat) (l : Bytes) : (memWrite s a l).swarm = s.swarm := by
  unfold memWrite
  split <;> rfl

@[simp] theorem raiseIrq_swarm (target : W32) (vector : Nat) (s : State) : (raiseIrq target vector s).swarm = s.swarm := rfl

@[simp] theorem fireSlot_swarm (k : Nat) (w : W64) (to_ : SlotState) (s : State) : (fireSlot k w to_ s).swarm = s.swarm := by
  unfold fireSlot
  dsimp only
  repeat' split
  all_goals simp

@[simp] theorem armSlot_swarm (k : Nat) (ctx : W16) (s : State) : (armSlot k ctx s).swarm = s.swarm := by
  unfold armSlot
  dsimp only
  repeat' split
  all_goals simp

@[simp] theorem slotCtrl_swarm (k : Nat) (v o : W32) (s : State) : (slotCtrl k v o s).swarm = s.swarm := by
  unfold slotCtrl
  dsimp only
  repeat' split
  all_goals simp

@[simp] theorem putSlot_swarm (k w : Nat) (m o : W32) (s : State) : (putSlot k w m o s).swarm = s.swarm := by
  unfold putSlot
  dsimp only
  repeat' split
  all_goals simp

/-! ### The safety island's inboxes -/

@[simp] theorem inboxWrite_swarm (src : W32) (n w : Nat) (v : W32) (s : State) : (inboxWrite src n w v s).swarm = s.swarm := by
  unfold inboxWrite
  split_ifs <;> simp

@[simp] theorem islandLog_swarm (func cause source state : Nat) (s : State) : (islandLog func cause source state s).swarm = s.swarm := by
  unfold islandLog
  rfl

@[simp] theorem resetFunc_swarm (k src : Nat) (okPulse : Bool) (s : State) : (resetFunc k src okPulse s).swarm = s.swarm := by
  unfold resetFunc
  dsimp only
  split <;> rfl

@[simp] theorem deliver_swarm (k : Nat) (netB : Bool) (l : Bytes) (gap : Bool) (s : State) : (deliver k netB l gap s).swarm = s.swarm := by
  unfold deliver
  extract_lets c x y t
  split
  · refine (foldl_keeps State.swarm (fun s f => ?_) _ t).trans rfl
    split <;> simp
  · rfl

@[simp] theorem compareCopy_swarm (k : Nat) (netB : Bool) (l : Bytes) (s : State) : (compareCopy k netB l s).swarm = s.swarm := by
  unfold compareCopy
  dsimp only
  repeat' split
  all_goals rfl

@[simp] theorem acceptFrame_swarm (k : Nat) (netB : Bool) (l : Bytes) (s : State) : (acceptFrame k netB l s).swarm = s.swarm := by
  unfold acceptFrame
  dsimp only
  repeat' split
  all_goals simp

@[simp] theorem inboxSubmit_swarm (src : W32) (n : Nat) (v : W32) (s : State) : (inboxSubmit src n v s).swarm = s.swarm := by
  unfold inboxSubmit
  dsimp only
  repeat' split
  all_goals simp

/-! ### Reads, counted events and relays -/

@[simp] theorem takeRxHead_swarm (l : Nat) (v : W32) (s : State) : (takeRxHead l v s).swarm = s.swarm := by
  unfold takeRxHead
  dsimp only
  split <;> rfl

@[simp] theorem takeRead_swarm (r : Requester) (a n : Nat) (s : State) : (takeRead r a n s).1.swarm = s.swarm := by
  unfold takeRead
  dsimp only
  split <;> simp

@[simp] theorem carryAccess_swarm (src : W32) (ctx : Nat) (write : Bool) (a n : Nat) (status : W16) (retry : Bool) (s : State) :
    (carryAccess src ctx write a n status retry s).swarm = s.swarm := by
  unfold carryAccess
  split <;> rfl

@[simp] theorem countEvent_swarm (res : W32) (s : State) : (countEvent res s).1.swarm = s.swarm := rfl

@[simp] theorem recordCounted_swarm (res : W32) (r : FaultRecord) (s : State) : (recordCounted res r s).swarm = s.swarm := rfl

@[simp] theorem recordOf_swarm (res : Option W32) (r : FaultRecord) (s : State) : (recordOf res r s).swarm = s.swarm := by
  unfold recordOf
  split <;> rfl

@[simp] theorem failedRead_swarm (src : W32) (ctx : W16) (a n : Nat) (s : State) : (failedRead src ctx a n s).swarm = s.swarm := by
  simp [failedRead]

@[simp] theorem pump_swarm (far : Bool) (l : Nat) (s : State) : (pump far l s).swarm = s.swarm := rfl

@[simp] theorem holmiSend_swarm (far : Bool) (l ch : Nat) (p : Bytes) (s : State) : (holmiSend far l ch p s).swarm = s.swarm := rfl

@[simp] theorem relaySent_swarm (l : Nat) (x : Relay) (f : Option (Nat × Bytes)) (s : State) : (relaySent l x f s).swarm = s.swarm := by
  unfold relaySent
  split <;> rfl

/-! ### Flash ports -/

@[simp] theorem countEcc_swarm (b : Nat) (s : State) : (countEcc b s).swarm = s.swarm := rfl

@[simp] theorem flashPut_swarm (s : State) (info : Bool) (key : Nat) (l : Bytes) : (flashPut s info key l).swarm = s.swarm := by
  unfold flashPut
  split <;> rfl

@[simp] theorem journalPut_swarm (b : Nat) (start : Bool) (g : Nat) (s : State) : (journalPut b start g s).swarm = s.swarm := rfl

@[simp] theorem flashWipe_swarm (s : State) (info : Bool) (key : Nat) : (flashWipe s info key).swarm = s.swarm := by
  unfold flashWipe
  split <;> rfl

@[simp] theorem journal_swarm (b : Nat) (start : Bool) (g : Nat) (s : State) : (journal b start g s).swarm = s.swarm := by
  unfold journal
  dsimp only
  split
  · rw [foldl_keeps State.swarm (fun s e => journalPut_swarm _ _ _ s)]
    simp
  · rfl

@[simp] theorem portEnd_swarm (p : Nat) (r : PortResult) (code : W16) (s : State) : (portEnd p r code s).swarm = s.swarm := rfl

@[simp] theorem portStart_swarm (p op ecc : Nat) (s : State) : (portStart p op ecc s).swarm = s.swarm := by
  unfold portStart
  dsimp only
  repeat' split
  all_goals simp

@[simp] theorem runWaiting_swarm (b : Nat) (s : State) : (runWaiting b s).swarm = s.swarm := by
  unfold runWaiting
  refine foldl_keeps State.swarm (fun s p => ?_) _ s
  split
  · split <;> simp
  · rfl

@[simp] theorem portCmd_swarm (src : W32) (p op ecc : Nat) (s : State) : (portCmd src p op ecc s).swarm = s.swarm := by
  unfold portCmd
  dsimp only
  split_ifs <;> simp

@[simp] theorem putFlashPort_swarm (src : W32) (p w : Nat) (m o mask : W32) (s : State) : (putFlashPort src p w m o mask s).swarm = s.swarm := by
  unfold putFlashPort
  split_ifs <;> simp

/-! ### Package states and domains -/

@[simp] theorem broadcast_swarm (code : W16) (payload : Bytes) (s : State) : (broadcast code payload s).swarm = s.swarm := by
  unfold broadcast
  refine foldl_keeps State.swarm (fun s x => ?_) _ s
  split <;> rfl

@[simp] theorem setPkg_swarm (p : PkgState) (s : State) : (setPkg p s).swarm = s.swarm := by
  unfold setPkg
  split <;> simp

@[simp] theorem refreshPkg_swarm (s : State) : (refreshPkg s).swarm = s.swarm := by
  unfold refreshPkg
  split <;> simp

@[simp] theorem settlePlls_swarm (s : State) : (settlePlls s).swarm = s.swarm := rfl

@[simp] theorem setDomState_swarm (d : Nat) (st : DomState) (s : State) : (setDomState d st s).swarm = s.swarm := by
  unfold setDomState
  dsimp only
  split <;> simp

@[simp] theorem ungate_swarm (d : Nat) (s : State) : (ungate d s).swarm = s.swarm := by
  unfold ungate
  dsimp only
  split <;> simp

@[simp] theorem gate_swarm (d : Nat) (s : State) : (gate d s).swarm = s.swarm := by
  unfold gate
  split <;> simp

@[simp] theorem pushGoal_swarm (g : PkgState) (s : State) : (pushGoal g s).swarm = s.swarm := by
  unfold pushGoal
  refine foldl_keeps State.swarm (fun s e => ?_) _ s
  split_ifs <;> simp

@[simp] theorem saveLifetime_swarm (s : State) : (saveLifetime s).swarm = s.swarm := rfl

@[simp] theorem sendWakeCause_swarm (ms : List Nat) (atFront : Bool) (s : State) : (sendWakeCause ms atFront s).swarm = s.swarm := by
  unfold sendWakeCause
  refine foldl_keeps State.swarm (fun s x => ?_) _ s
  rfl

@[simp] theorem finishCmd_swarm (c : CmdRef) (status : W16) (extra : Bytes) (s : State) : (finishCmd c status extra s).swarm = s.swarm := rfl

@[simp] theorem reachGoal_swarm (c : Option CmdRef) (g : PkgState) (s : State) : (reachGoal c g s).swarm = s.swarm := by
  unfold reachGoal
  dsimp only
  repeat' split
  all_goals simp

@[simp] theorem stepGoal_swarm (s : State) : (stepGoal s).swarm = s.swarm := by
  unfold stepGoal
  dsimp only
  repeat' split
  all_goals simp

@[simp] theorem setHalted_swarm (n : Nat) (v : Bool) (s : State) : (setHalted n v s).swarm = s.swarm := by
  unfold setHalted
  split <;> simp

@[simp] theorem partitionHalted_swarm (src : W32) (n : Nat) (v : W32) (s : State) : (partitionHalted src n v s).swarm = s.swarm := by
  unfold partitionHalted
  split <;> simp

/-! ### Writes of units -/

@[simp] theorem countRefused_swarm (src : W32) (a : Nat) (creator : Option Nat) (s : State) (ms : List Nat) :
    (countRefused src a creator s ms).swarm = s.swarm := by
  cases ms with
  | nil => exact violation_swarm src a creator s
  | cons m ms => exact foldl_keeps State.swarm (fun s m => foreignCount_swarm src m a s) _ s

@[simp] theorem refusedWrite_swarm (src : W32) (a n : Nat) (creator : Option Nat) (s : State) : (refusedWrite src a n creator s).swarm = s.swarm := by
  simp [refusedWrite]

@[simp] theorem writeMem_swarm (a : Nat) (l : Bytes) (s : State) : (writeMem a l s).swarm = s.swarm := by
  unfold writeMem
  split <;> simp

@[simp] theorem faultCtx_swarm (id : Nat) (r : FaultRecord) (counted : Option W32) (s : State) : (faultCtx id r counted s).swarm = s.swarm := by
  unfold faultCtx
  dsimp only
  repeat' split
  all_goals simp

@[simp] theorem carryOne_swarm (cls : Nat) (src : W32) (ctx dest : Nat) (s : State) : (carryOne cls src ctx dest s).swarm = s.swarm := by
  unfold carryOne
  split <;> rfl

/-! ### Collective slots -/

@[simp] theorem takeReleased_swarm (c : Nat) (v : W32) (s : State) : (takeReleased c v s).swarm = s.swarm := by
  unfold takeReleased
  dsimp only
  split <;> rfl

@[simp] theorem putCollField_swarm (n w : Nat) (m : W32) (s : State) : (putCollField n w m s).swarm = s.swarm := by
  unfold putCollField
  dsimp only
  repeat' split
  all_goals rfl

@[simp] theorem collClaim_swarm (n : Nat) (v : W32) (s : State) : (collClaim n v s).swarm = s.swarm := rfl

@[simp] theorem collRecord_swarm (n : Nat) (code missed : W16) (kind : Byte) (s : State) : (collRecord n code missed kind s).swarm = s.swarm := by
  unfold collRecord
  dsimp only
  split <;> simp

@[simp] theorem joinSlot_swarm (n : Nat) (j : CollJoin) (s : State) : (joinSlot n j s).swarm = s.swarm := by
  unfold joinSlot
  dsimp only
  split_ifs <;> simp

@[simp] theorem takeHeld_swarm (n : Nat) (s : State) : (takeHeld n s).swarm = s.swarm := by
  unfold takeHeld
  dsimp only
  rw [foldl_keeps State.swarm (fun s e => joinSlot_swarm _ _ s)]

@[simp] theorem armColl_swarm (n : Nat) (s : State) : (armColl n s).swarm = s.swarm := by
  unfold armColl
  dsimp only
  repeat' split
  all_goals simp

@[simp] theorem collCtrl_swarm (n : Nat) (v o : W32) (s : State) : (collCtrl n v o s).swarm = s.swarm := by
  unfold collCtrl
  dsimp only
  split_ifs <;> simp

@[simp] theorem writeCollCtrl_swarm (src : W32) (die k : Nat) (v : W32) (s : State) : (writeCollCtrl src die k v s).swarm = s.swarm := by
  unfold writeCollCtrl
  extract_lets n x a reach
  split_ifs
  · exact (answer_swarm _ _ _).trans (noticeDomain_swarm _ _ _)
  · exact (collClaim_swarm _ _ _).trans (answer_swarm _ _ _)
  · exact refuseWrite_swarm _ _ _ _ _
  · exact (collCtrl_swarm _ _ _ _).trans (answer_swarm _ _ _)
  · exact refuseWrite_swarm _ _ _ _ _

@[simp] theorem ingestReleasedWrite_swarm (src : W32) (c : Nat) (v : W32) (s : State) : (ingestReleasedWrite src c v s).swarm = s.swarm := by
  unfold ingestReleasedWrite
  dsimp only
  split_ifs <;> simp

/-! ### Reads of registers and rings, answers, signals and forwards -/

@[simp] theorem readReg_swarm (p : RegPlace) (a : Nat) (s : State) : (readReg p a s).1.swarm = s.swarm := by
  unfold readReg
  repeat' split
  all_goals rfl

@[simp] theorem registerRead_swarm (src : W32) (a size : Nat) (s : State) : (registerRead src a size s).swarm = s.swarm := by
  unfold registerRead
  dsimp only
  repeat' split
  all_goals simp

@[simp] theorem ringAccess_swarm (src : W32) (m : Nat) (write : Bool) (a n : Nat) (data : Bytes) (s : State) :
    (ringAccess src m write a n data s).swarm = s.swarm := by
  unfold ringAccess
  dsimp only
  split
  · split
    · split <;> simp
    · split <;> simp
  · split
    · rw [answer_swarm]
      refine foldl_keeps State.swarm (fun s k => ?_) _ s
      split <;> simp
    · rfl

@[simp] theorem windowAccess_swarm (src : W32) (k : Nat) (write : Bool) (a n : Nat) (data : Bytes) (s : State) :
    (windowAccess src k write a n data s).swarm = s.swarm := by
  unfold windowAccess
  dsimp only
  split
  · rfl
  · exact foldl_keeps State.swarm (fun s e => tgtPresent_swarm _ _ _ _ _ _ s) _ s

@[simp] theorem takeWrite_swarm (r : Requester) (src : W32) (a : Nat) (l : Bytes) (s : State) : (takeWrite r src a l s).1.swarm = s.swarm := by
  unfold takeWrite
  dsimp only
  split_ifs <;> simp

@[simp] theorem takeErrRsp_swarm (h : PacketHeader) (s : State) : (takeErrRsp h s).swarm = s.swarm := by
  unfold takeErrRsp
  dsimp only
  repeat' split
  all_goals simp

@[simp] theorem errRsp_swarm (die router : Nat) (h : PacketHeader) (s : State) : (errRsp die router h s).swarm = s.swarm := by
  unfold errRsp
  dsimp only
  split_ifs <;> simp

@[simp] theorem arriveSignal_swarm (d : Nat) (k : Packet) (s : State) : (arriveSignal d k s).swarm = s.swarm := by
  unfold arriveSignal
  split <;> rfl

@[simp] theorem fenceForward_swarm (a : Nat) (w : W64) (s : State) : (fenceForward a w s).swarm = s.swarm := by
  unfold fenceForward
  refine foldl_keeps State.swarm (fun s e => ?_) _ s
  dsimp only
  split_ifs <;> simp

end Sys2Proof.Machine
end

section
/-! What a port has received stays as packets arrive: flits are sent, and no operation on a packet writes the SEQ expected or the NAK state of a port
(R206, R207). -/

namespace Sys2Proof.Machine

/-! ### What a port has received -/

/-- The SEQ that a port expects, and its NAK state. -/
def received (x : SlinkPort) : BitVec 12 × Bool × Nat := (x.rxSeq, x.nakSent, x.naksSent)

/-- What port `p` of a swarm state has received. -/
def receivedAt (w : Swarm) (p : Nat) : BitVec 12 × Bool × Nat := received (Tbl.get {} w.ports p)

theorem receivedAt_eq (s : State) (p : Nat) : receivedAt s.swarm p = received (getSlink s p) := rfl

theorem received_offerFlit (x : SlinkPort) (f : LinkFlit) : received (offerFlit x f) = received x := by
  unfold offerFlit
  split <;> rfl

/-- The flits that wait at a port, sent, leave what it has received. -/
theorem received_pumpPort (x : SlinkPort) : received (pumpPort x) = received x :=
  foldl_keeps received (fun x f => received_offerFlit x f) x.queued _

theorem receivedAt_setSlink {s : State} {q : Nat} {x : SlinkPort} (h : received x = received (getSlink s q)) (p : Nat) :
    receivedAt (setSlink s q x).swarm p = receivedAt s.swarm p := by
  by_cases hp : p = q
  · subst hp
    exact (congrArg received (getSlink_setSlink s p x)).trans h
  · exact congrArg received (getSlink_setSlink_ne s q x p hp)

section
variable (p : Nat)

@[simp] theorem sendFlit_received (q : Nat) (f : LinkFlit) (s : State) : receivedAt (sendFlit q f s).swarm p = receivedAt s.swarm p :=
  receivedAt_setSlink (received_offerFlit _ f) p

theorem sendFlits_received (q : Nat) (l : List LinkFlit) (s : State) :
    receivedAt (l.foldl (fun s f => sendFlit q f s) s).swarm p = receivedAt s.swarm p :=
  foldl_keeps (fun s : State => receivedAt s.swarm p) (fun s f => sendFlit_received p q f s) l s

/-! ### Packets that leave -/

@[simp] theorem linkSend_received (q : Nat) (k : Packet) (s : State) : receivedAt (linkSend q k s).swarm p = receivedAt s.swarm p := by
  unfold linkSend
  dsimp only
  split
  · exact sendFlits_received p _ _ s
  · split
    · exact sendFlits_received p _ _ s
    · refine receivedAt_setSlink ?_ p
      rfl
  · rw [countStray_swarm]

@[simp] theorem sendAway_received (d r : Nat) (k : Packet) (s : State) : receivedAt (sendAway d r k s).swarm p = receivedAt s.swarm p := by
  unfold sendAway
  split <;> simp

@[simp] theorem replyTo_received (d r : Nat) (h : PacketHeader) (cls : BitVec 4) (status : W16) (retry : Bool) (l : Bytes) (s : State) :
    receivedAt (replyTo d r h cls status retry l s).swarm p = receivedAt s.swarm p := sendAway_received p d r _ s

@[simp] theorem sendAccess_received (src : W32) (ctx : Nat) (write : Bool) (a n : Nat) (l : Bytes) (s : State) :
    receivedAt (sendAccess src ctx write a n l s).swarm p = receivedAt s.swarm p := by
  unfold sendAccess
  split
  · rfl
  · refine foldl_keeps (fun s : State => receivedAt s.swarm p) (fun s e => ?_) _ s
    split
    · rfl
    · exact linkSend_received p _ _ s

@[simp] theorem sendPackets_received (r : Requester) (src : W32) (write : Bool) (a n : Nat) (l : Bytes) (c : W16) (s : State) :
    receivedAt (sendPackets r src write a n l c s).swarm p = receivedAt s.swarm p := by
  unfold sendPackets
  dsimp only
  split <;> simp

/-! ### Accesses of units, and the relay's -/

@[simp] theorem unitRead_received (r : Requester) (src : W32) (a n : Nat) (s : State) :
    receivedAt (unitRead r src a n s).1.swarm p = receivedAt s.swarm p := by
  unfold unitRead
  simp

@[simp] theorem unitWrite_received (r : Requester) (src : W32) (a : Nat) (l : Bytes) (s : State) :
    receivedAt (unitWrite r src a l s).1.swarm p = receivedAt s.swarm p := by
  unfold unitWrite
  simp

@[simp] theorem relayFetch_received (x : Relay) (s : State) (e : Option Nat) :
    receivedAt (relayFetch x s e).1.swarm p = receivedAt s.swarm p := by
  unfold relayFetch
  split
  · dsimp only
    split <;> simp
  · rfl

@[simp] theorem relayPump_received (n l : Nat) (s : State) : receivedAt (relayPump n l s).swarm p = receivedAt s.swarm p := by
  induction n generalizing s with
  | zero => rfl
  | succ n ih =>
    unfold relayPump
    dsimp only
    split
    · rfl
    · simp [ih]

@[simp] theorem takeTxTail_received (l : Nat) (v : W32) (s : State) : receivedAt (takeTxTail l v s).swarm p = receivedAt s.swarm p := by
  unfold takeTxTail
  dsimp only
  split <;> simp

@[simp] theorem relayIndexWrite_received (src : W32) (l : Nat) (head : Bool) (v : W32) (s : State) :
    receivedAt (relayIndexWrite src l head v s).swarm p = receivedAt s.swarm p := by
  unfold relayIndexWrite
  split
  · split <;> simp
  · simp

/-! ### Registers -/

theorem putReg_vector_swarm {q : RegPlace} (h : q.blk = .vector) (v mask : W32) (s : State) : (putReg q v mask s).1.swarm = s.swarm := by
  cases hh : q.hole with
  | false => rw [putReg_vector h hh]
  | true =>
    unfold putReg
    simp [hh]

@[simp] theorem directPut_received (src : W32) (q : RegPlace) (a : Nat) (v : W32) (s : State) :
    receivedAt (directPut src q a v s).swarm p = receivedAt s.swarm p := by
  unfold directPut
  dsimp only
  split
  case h_1 => rw [mbxWrite_swarm (putMbx_swarm _ _ _ _)]
  case h_2 => split <;> simp
  case h_3 => split <;> simp
  case h_4 => simp
  case h_5 => simp
  case h_6 => split <;> simp
  case h_7 => split <;> simp
  case h_8 => simp
  case h_9 => split_ifs <;> simp
  case h_10 => split_ifs <;> simp
  case h_11 => simp
  case h_12 h =>
    split
    · rw [putReg_vector_swarm h, answer_swarm]
    · simp
  case h_13 => split_ifs <;> simp
  case h_14 => split <;> simp
  case h_15 => simp

@[simp] theorem registerWrite_received (src : W32) (a n : Nat) (data : Bytes) (s : State) :
    receivedAt (registerWrite src a n data s).swarm p = receivedAt s.swarm p := by
  unfold registerWrite
  split
  · simp
  · split
    · simp
    · split
      · rfl
      · split_ifs <;> simp

@[simp] theorem portWrite_received (src : W32) (a n : Nat) (data : Bytes) (s : State) :
    receivedAt (portWrite src a n data s).swarm p = receivedAt s.swarm p := by
  unfold portWrite
  split
  · rfl
  · exact registerWrite_received p src a n data s

/-! ### Accesses of a host -/

@[simp] theorem memoryAccess_received (src : W32) (write : Bool) (a n : Nat) (data : Bytes) (s : State) :
    receivedAt (memoryAccess src write a n data s).swarm p = receivedAt s.swarm p := by
  unfold memoryAccess
  split
  · simp
  · dsimp only
    split_ifs <;> simp

@[simp] theorem hostAccess_received (src : W32) (write : Bool) (a n : Nat) (data : Bytes) (s : State) :
    receivedAt (hostAccess src write a n data s).swarm p = receivedAt s.swarm p := by
  unfold hostAccess
  extract_lets size loc who
  split
  · split_ifs <;> simp
  · split
    · split
      · exact portWrite_received p src a size data s
      · rw [registerRead_swarm]
    · split
      · rw [answer_swarm, noticeDomain_swarm]
      · split
        · rw [ringAccess_swarm]
        · split
          · rw [windowAccess_swarm]
          · exact memoryAccess_received p src write a size data s
        · exact memoryAccess_received p src write a size data s

/-! ### Packets that arrive (R176, R183) -/

theorem asideAnswer_received {f : State → State} (hf : ∀ s, receivedAt (f s).swarm p = receivedAt s.swarm p) (s : State) :
    receivedAt (asideAnswer f s).1.swarm p = receivedAt s.swarm p := hf s

@[simp] theorem arriveRead_received (h : PacketHeader) (d a n : Nat) (s : State) :
    receivedAt (arriveRead h d a n s).1.swarm p = receivedAt s.swarm p := by
  unfold arriveRead
  split
  · exact asideAnswer_received p (hostAccess_received p _ _ _ _ _) s
  · simp

@[simp] theorem arriveWrite_received (h : PacketHeader) (d a : Nat) (l : Bytes) (s : State) :
    receivedAt (arriveWrite h d a l s).1.swarm p = receivedAt s.swarm p := by
  unfold arriveWrite
  split
  · exact asideAnswer_received p (hostAccess_received p _ _ _ _ _) s
  · simp

@[simp] theorem arriveInline_received (h : PacketHeader) (d : Nat) (mask : W32) (l : Bytes) (s : State) :
    receivedAt (arriveInline h d mask l s).1.swarm p = receivedAt s.swarm p := by
  unfold arriveInline
  refine foldl_keeps (fun x : State × W16 => receivedAt x.1.swarm p) (fun x r => ?_) _ (s, 0)
  split
  · exact arriveWrite_received p _ _ _ _ _
  · rfl

/-- What port `p` has received, as a function of the whole state: a proof about it need not look for the swarm of a state that a branch gives. -/
def receivedIn (s : State) : BitVec 12 × Bool × Nat := receivedAt s.swarm p

/-- What a request's arrival leaves. -/
theorem arriveRequest_receivedIn (d r : Nat) (k : Packet) (s : State) : receivedIn p (arriveRequest d r k s) = receivedIn p s := by
  unfold arriveRequest
  extract_lets h a n who mask done
  have hdone (s : State) (cls : BitVec 4) (c : W16) (l : Bytes) : receivedIn p (done s cls c l) = receivedIn p s :=
    replyTo_received p _ _ _ _ _ _ _ s
  have htarget (w : Nat) (o : TgtOwner) (b : Bool) (m : BitVec 4) (l : Bytes) : receivedIn p (tgtPresent w h o b m l s) = receivedIn p s :=
    congrArg (receivedAt · p) (tgtPresent_swarm w h o b m l s)
  split
  · split_ifs
    · exact hdone s _ _ _
    · exact hdone s _ _ _
    · exact htarget _ _ _ _ _
    · exact htarget _ _ _ _ _
    · exact htarget _ _ _ _ _
  · split
    · exact (hdone _ _ _ _).trans (arriveRead_received p h d a n s)
    · by_cases hk : k.data ≠ []
      · rw [if_pos hk]
        exact (hdone _ _ _ _).trans (arriveWrite_received p h d a _ s)
      · rw [if_neg hk]
        exact (hdone _ _ _ _).trans (arriveInline_received p h d mask _ s)
    · split
      · exact (hdone _ 5 0 []).trans (congrArg (receivedAt · p) (pushSignal_swarm _ s))
      · exact hdone s _ _ _
      · exact (hdone _ 5 _ []).trans (asideAnswer_received p (registerWrite_received p _ _ _ _) s)

/-- A state that stays as far as port `p` has received is what an outcome gives, if any. -/
def KeepsReceived (s : State) (o : Option State) : Prop := ∀ t, o = some t → receivedIn p t = receivedIn p s

variable {p} in
theorem KeepsReceived.some {s t : State} (h : receivedIn p t = receivedIn p s) : KeepsReceived p s (some t) :=
  fun _ ht => Option.some.inj ht ▸ h

theorem KeepsReceived.none (s : State) : KeepsReceived p s none := fun _ ht => (Option.some_ne_none _ ht.symm).elim

variable {p} in
theorem receivedIn_of_swarm {s t : State} (h : t.swarm = s.swarm) : receivedIn p t = receivedIn p s := congrArg (receivedAt · p) h

/-- A packet taken from a port leaves what every port has received. -/
theorem takePacket_keepsReceived (q : Nat) (k : Packet) (s : State) : KeepsReceived p s (takePacket q k s) := by
  have hreply (d r : Nat) (h : PacketHeader) (cls : BitVec 4) (c : W16) (b : Bool) (l : Bytes) {u : State} (hu : u.swarm = s.swarm) :
      receivedIn p (replyTo d r h cls c b l u) = receivedIn p s := (replyTo_received p d r h cls c b l u).trans (receivedIn_of_swarm hu)
  unfold takePacket
  extract_lets h d r code t
  have ht : t.swarm = s.swarm := carry_swarm _ s
  split
  · exact .some (receivedIn_of_swarm ((faultNotice_swarm _ _).trans (countStray_swarm _ _ _ s)))
  split
  · exact .none p s
  split
  · split
    · exact .some (hreply _ _ _ _ _ _ _ (noticeDomain_swarm s _ _))
    · split
      · exact .some (hreply _ _ _ _ _ _ _ (failedCheck_swarm h s))
      · exact .some ((arriveRequest_receivedIn p d r k t).trans (receivedIn_of_swarm ht))
  split
  · split
    · exact .some (receivedIn_of_swarm ((errRsp_swarm _ _ _ _).trans ((failedCheck_swarm h t).trans ht)))
    · exact .some (receivedIn_of_swarm ((errRsp_swarm _ _ _ _).trans ht))
  split
  · exact .some (sendAway_received p d r _ s)
  split
  · exact .some (receivedIn_of_swarm (countStray_swarm d r 1 s))
  split
  · exact .some (receivedIn_of_swarm ((arriveSignal_swarm d k t).trans ht))
  · exact .some (receivedIn_of_swarm ((fenceForward_swarm _ _ t).trans ht))
  · refine .some (receivedIn_of_swarm ?_)
    split
    · exact (faultCtx_swarm _ _ _ _).trans ((faultNotice_swarm _ t).trans ht)
    · exact (faultNotice_swarm _ t).trans ht
  · exact .some (receivedIn_of_swarm ht)

/-! ### Signals (R90, R220) -/

@[simp] theorem signalOn_received (src : W32) (a : Nat) (add : Bool) (v : W64) (o : Origin) (ctx : W16) (s : State) (code : W16)
    (fence port : Option Nat) : receivedIn p (signalOn src a add v o ctx s code fence port) = receivedIn p s := by
  unfold signalOn
  dsimp only
  split_ifs
  · rfl
  · rfl
  · exact receivedIn_of_swarm ((faultCtx_swarm _ _ _ _).trans (faultNotice_swarm _ s))
  · exact receivedIn_of_swarm (countStray_swarm _ _ _ s)
  · split
    · exact receivedIn_of_swarm ((pushSignal_swarm _ _).trans (carryOne_swarm _ _ _ _ s))
    · exact (linkSend_received p _ _ _).trans (receivedIn_of_swarm (carryOne_swarm _ _ _ _ s))
    · rfl

@[simp] theorem sendSignal_received (src : W32) (a : Nat) (add : Bool) (v : W64) (o : Origin) (ctx : W16) (s : State) :
    receivedIn p (sendSignal src a add v o ctx s) = receivedIn p s := by
  have hroute : receivedIn p (routeSignal src a add v o ctx s) = receivedIn p s := signalOn_received p _ _ _ _ _ _ s _ _ _
  unfold sendSignal
  split
  · split
    · exact receivedIn_of_swarm (pushSignal_swarm _ s)
    · exact hroute
  · split
    · rfl
    · exact hroute

theorem releaseHeld_received (s : State) : receivedIn p (releaseHeld s) = receivedIn p s :=
  foldl_keeps (receivedIn p) (fun s _ => sendSignal_received p _ _ _ _ _ _ s) s.net.held { s with net := { s.net with held := [] } }

/-- A TIME flit leaves what every port has received (R219). -/
theorem timeReceive_received (q : Nat) (sent : W64) (s : State) : receivedIn p (timeReceive q sent s) = receivedIn p s := by
  unfold timeReceive
  extract_lets w off near i o leave amount
  split
  · rw [when]
    split
    · exact (releaseHeld_received p _).trans rfl
    · rfl
  · rfl

/-- HANDOVER leaves what every port has received (R211). -/
theorem handover_received (q : Nat) (delivered : BitVec 12) (s : State) : receivedIn p (handover q delivered s) = receivedIn p s := by
  unfold handover
  extract_lets x n rest t
  split
  · refine (sendFlits_received p _ _ t).trans (receivedAt_setSlink ?_ p)
    rfl
  · rfl

theorem controlReceive_received (q : Nat) (l : Bytes) (s : State) : receivedIn p (controlReceive q l s) = receivedIn p s := by
  unfold controlReceive
  split
  · exact timeReceive_received p _ _ s
  · split
    · exact handover_received p _ _ s
    · rfl

/-! ### The ingress served (R209) -/

/-- One packet of an ingress leaves what every port has received. -/
theorem ingressStep_received (q : Nat) (e : State × List Packet) (k : Packet) : receivedIn p (ingressStep q e k).1 = receivedIn p e.1 := by
  unfold ingressStep
  split
  · rfl
  · have htaken := takePacket_keepsReceived p q k e.1
    cases ht : takePacket q k e.1 with
    | none => rfl
    | some t =>
      refine Eq.trans ?_ (htaken t ht)
      exact receivedAt_setSlink (s := t) (q := q) (x := { getSlink t q with owed := linkCredit (getSlink t q).owed k.head.vn.toNat (1 + k.data.length) }) rfl p

theorem serveIngress_received (q : Nat) (s : State) : receivedIn p (serveIngress q s) = receivedIn p s := by
  have hserved : receivedIn p ((getSlink s q).ingress.foldl (ingressStep q) (setSlink s q { getSlink s q with ingress := [] }, [])).1 = receivedIn p s :=
    (foldl_keeps (fun e : State × List Packet => receivedIn p e.1) (fun e k => ingressStep_received p q e k) _ _).trans
      (receivedAt_setSlink (s := s) (q := q) (x := { getSlink s q with ingress := [] }) rfl p)
  unfold serveIngress
  generalize (getSlink s q).ingress.foldl (ingressStep q) (setSlink s q { getSlink s q with ingress := [] }, []) = r at hserved ⊢
  exact (receivedAt_setSlink (s := r.1) (q := q) (x := { getSlink r.1 q with ingress := r.2 ++ (getSlink r.1 q).ingress }) rfl p).trans hserved

end

/-! ### A flit delivered in order (R207) -/

/-- A DATA or CONTROL flit delivered advances the SEQ expected and ends the NAK state. -/
theorem flitDelivered_receives {p kind : Nat} (hk : kind = 0 ∨ kind = 2) (h : W64) (slots : List Bytes) (s : State) :
    received (getSlink (flitDelivered p kind h slots s) p) = ((getSlink s p).rxSeq + 1, false, 0) := by
  have hcredits : received (takeCredits h (getSlink s p)) = received (getSlink s p) := received_pumpPort _
  have hseq : (takeCredits h (getSlink s p)).rxSeq = (getSlink s p).rxSeq := congrArg Prod.fst hcredits
  unfold flitDelivered
  extract_lets t x
  have hx : x = takeCredits h (getSlink s p) := getSlink_setSlink s p _
  rcases hk with rfl | rfl
  · rw [if_pos rfl]
    refine (serveIngress_received p p _).trans ?_
    refine (congrArg received (getSlink_setSlink t p _)).trans ?_
    show (x.rxSeq + 1, false, 0) = _
    rw [hx, hseq]
  · rw [if_neg (by decide), if_pos rfl]
    refine (controlReceive_received p p _ _).trans ?_
    refine (congrArg received (getSlink_setSlink t p _)).trans ?_
    show (x.rxSeq + 1, false, 0) = _
    rw [hx, hseq]

end Sys2Proof.Machine
end

section
/-! Link flits and the handover of a swarm-link port: CRC failures, delivery in order, what HANDOVER gives to the partner, and the route switch that
ends it (R205-R211). -/

namespace Sys2Proof.Machine

/-! ### Link flits (R206, R207) -/

/-- The 272 bytes of a link flit carry the CRC of what they hold (R206). -/
def flitGood (flit : Bytes) : Prop := flit.length = 272 ∧ crc64 (flit.take 264) = le64 flit 264

/-- The network flits or the contents of a link flit, by its mask of slots (R206). -/
def flitSlots (flit : Bytes) : List Bytes :=
  ((upFrom 0 4).filter (fun i => bitOf (le64 flit 0) (27 + i))).map (fun i => slice flit (8 + 64 * i) 64)

section
variable {p : Nat} {flit : Bytes} {s : State}

/-- A flit with a wrong CRC is answered with NAK. -/
theorem linkFlitReceive_bad (hx : (getSlink s p).state = .up) (hbad : ¬ flitGood flit) : linkFlitReceive p flit s
    = sendNak p (setSlink s p { getSlink s p with sinceMarker := if (getSlink s p).sinceMarker = 4095 then 0 else (getSlink s p).sinceMarker + 1 }) := by
  unfold linkFlitReceive
  simp only [hx, reduceCtorEq, or_self, if_false, not_true_eq_false, ne_eq]
  exact if_pos hbad

/-- A MARKER where none is due takes the port out of UP. -/
theorem linkFlitReceive_marker (hx : (getSlink s p).state = .up) (hgood : flitGood flit) (hk : field (le64 flit 0) 1 0 = 3)
    (hm : (getSlink s p).sinceMarker ≠ 4095) : linkFlitReceive p flit s = leaveUp p s := by
  unfold linkFlitReceive
  simp only [hx, reduceCtorEq, or_self, if_false, not_true_eq_false, ne_eq]
  exact (if_neg (not_not.mpr hgood)).trans (if_pos ⟨hk, hm⟩)

/-- A flit that the port expects, and has room for, is delivered after its acknowledgement has been taken. -/
theorem linkFlitReceive_expected (hx : (getSlink s p).state = .up) (hgood : flitGood flit)
    (hseq : field (le64 flit 0) 13 2 = (getSlink s p).rxSeq.toNat)
    (hk : (field (le64 flit 0) 1 0 = 0 ∧ ingressFits (fillIngress (flitSlots flit) (getSlink s p)) = true) ∨ field (le64 flit 0) 1 0 = 2) :
    linkFlitReceive p flit s = flitDelivered p (field (le64 flit 0) 1 0) (le64 flit 0) (flitSlots flit)
      (takeAck p (BitVec.ofNat 12 (field (le64 flit 0) 25 14)) (bitOf (le64 flit 0) 26)
        (setSlink s p { getSlink s p with sinceMarker := (getSlink s p).sinceMarker + 1 })) := by
  have hnot3 : field (le64 flit 0) 1 0 ≠ 3 := by rcases hk with ⟨hk, -⟩ | hk <;> simp [hk]
  have hexpected : BitVec.ofNat 12 (field (le64 flit 0) 13 2) = (getSlink s p).rxSeq := by
    rw [hseq]
    exact (BitVec.ofNat_toNat 12 _).trans (BitVec.setWidth_eq _)
  have hfits : ¬ (field (le64 flit 0) 1 0 = 0 ∧ ¬ ingressFits (fillIngress (flitSlots flit) (getSlink s p)) = true) := by
    rcases hk with ⟨-, hf⟩ | hk
    · exact fun h => h.2 hf
    · exact fun h => by rw [hk] at h; cases h.1
  unfold linkFlitReceive
  simp only [hx, reduceCtorEq, or_self, if_false, not_true_eq_false, ne_eq, hnot3, false_and]
  refine (if_neg (not_not.mpr hgood)).trans (if_neg ?_)
  exact not_or.mpr ⟨not_not.mpr hexpected, hfits⟩

end

/-! ### NAK and acknowledgement (R207) -/

/-- A NAK that is not the sixteenth in a row is counted. -/
theorem sendNak_counts {p : Nat} {s : State} (h : (getSlink s p).naksSent + 1 < 16) :
    sendNak p s = setSlink s p { getSlink s p with nakSent := true, naksSent := (getSlink s p).naksSent + 1 } := if_neg (Nat.not_le.mpr h)

/-- A port that leaves UP expects the same SEQ. -/
theorem leaveUp_rxSeq {p : Nat} (hp : p < 6) (s : State) : (getSlink (leaveUp p s) p).rxSeq = (getSlink s p).rxSeq := by
  by_cases hx : (getSlink s p).state = .up
  · exact (leaveUp_leaves (l := (getSlink s p).laneLock) hp hx (PortsOnly.refl s) (fun _ _ => rfl) rfl).rxSeq
  · rw [show leaveUp p s = s from if_pos hx]

/-- An acknowledgement leaves the SEQ that the port expects. -/
theorem takeAck_rxSeq {p : Nat} (hp : p < 6) (ack : BitVec 12) (nak : Bool) (s : State) :
    (getSlink (takeAck p ack nak s) p).rxSeq = (getSlink s p).rxSeq := by
  unfold takeAck
  extract_lets x outstanding k rest n y z t
  have hz : z.rxSeq = x.rxSeq := by
    unfold z
    split <;> rfl
  have ht : (getSlink t p).rxSeq = x.rxSeq := by
    rw [show getSlink t p = pumpPort z from getSlink_setSlink s p _]
    exact (congrArg Prod.fst (received_pumpPort z)).trans hz
  split
  · exact (leaveUp_rxSeq hp t).trans ht
  · exact ht

/-- A port with no flit waiting sends none. -/
theorem pumpPort_idle {x : SlinkPort} (hq : x.queued = []) : pumpPort x = x := by
  rw [pumpPort, hq, List.foldl_nil, ← hq]

/-- With nothing sent and nothing waiting, and no NAK, an acknowledgement changes nothing. -/
theorem takeAck_idle {p : Nat} {s : State} (hr : (getSlink s p).replay = []) (hq : (getSlink s p).queued = []) (hn : (getSlink s p).naksReceived < 16)
    (ack : BitVec 12) : takeAck p ack false s = setSlink s p (getSlink s p) := by
  unfold takeAck
  simp only [hr, List.length_nil, Nat.zero_sub, ite_self, List.drop_nil, Nat.lt_irrefl, Bool.false_eq_true, if_false, Nat.not_le.mpr hn]
  rw [← hr]
  exact congrArg (setSlink s p) (pumpPort_idle hq)

/-- No credit added. -/
theorem linkCredit_zero (l : List Nat) (v : Nat) : linkCredit l v 0 = l := by
  by_cases hv : v < l.length
  · rw [linkCredit, Nat.add_zero, List.getD_eq_getElem _ _ hv, List.set_getElem_self]
  · exact List.set_eq_of_length_le (Nat.not_lt.mp hv)

/-- A flit that returns no credits changes nothing where none waits for them. -/
theorem takeCredits_idle {h : W64} {x : SlinkPort} (hc : field h 63 32 = 0) (hq : x.queued = []) : takeCredits h x = x := by
  have hlow : h.toNat < 2 ^ 32 := by
    have := h.isLt
    simp only [field] at hc
    omega
  have hfield (v : Nat) : field h (39 + 8 * v) (32 + 8 * v) = 0 := by
    rw [field, Nat.div_eq_of_lt (hlow.trans_le (Nat.pow_le_pow_right (by decide) (by omega))), Nat.zero_mod]
  have hcredits : (upFrom 0 4).foldl (fun l v => linkCredit l v (field h (39 + 8 * v) (32 + 8 * v))) x.credits = x.credits :=
    foldl_preserves (P := fun l => l = x.credits) (fun l v hl => by rw [hfield, linkCredit_zero, hl]) _ rfl
  rw [takeCredits, hcredits]
  exact pumpPort_idle hq

/-! ### HANDOVER (R211) -/

/-- Flits offered to a port one by one. -/
theorem getSlink_sendFlits (q : Nat) (l : List LinkFlit) (s : State) (k : Nat) : getSlink (l.foldl (fun s f => sendFlit q f s) s) k
    = if k = q then l.foldl offerFlit (getSlink s q) else getSlink s k := by
  induction l generalizing s with
  | nil => split <;> simp_all
  | cons f l ih =>
    rw [List.foldl_cons, ih, sendFlit, getSlink_setSlink]
    split
    · rfl
    next hk => exact getSlink_setSlink_ne _ _ _ _ hk

theorem sendFlits_portsOnly (q : Nat) (l : List LinkFlit) (s : State) : PortsOnly s (l.foldl (fun s f => sendFlit q f s) s) :=
  foldl_preserves (fun _ f h => h.sendFlit q f) l (.refl s)

/-- The credits of a virtual network after a flit has used some. -/
theorem getD_set_self (l : List Nat) (v c : Nat) (h : c ≤ l.getD v 0) : (l.set v (l.getD v 0 - c)).getD v 0 = l.getD v 0 - c := by
  by_cases hv : v < l.length
  · rw [List.getD_eq_getElem?_getD, List.getElem?_set_self hv, Option.getD_some]
  · rw [List.set_eq_of_length_le (by omega), List.getD_eq_default _ _ (by omega)] at *
    omega

theorem getD_set_ne (l : List Nat) {v w : Nat} (h : v ≠ w) (x : Nat) : (l.set v x).getD w 0 = l.getD w 0 := by
  rw [List.getD_eq_getElem?_getD, List.getElem?_set_ne h, List.getD_eq_getElem?_getD]

/-- Flits that the replay buffer and the credits of a port take are sent in order. -/
theorem offerFlits_sent {l : List LinkFlit} {y : SlinkPort} (hlen : y.replay.length + l.length ≤ 64) (hq : y.queued = [])
    (hc : ∀ v, ((l.filter (fun f => f.vn == v)).map flitCost).sum ≤ y.credits.getD v 0) :
    (l.foldl offerFlit y).replay = y.replay ++ l ∧ (l.foldl offerFlit y).queued = [] := by
  induction l generalizing y with
  | nil => exact ⟨(List.append_nil _).symm, hq⟩
  | cons f l ih =>
    rw [List.length_cons] at hlen
    have hcost : flitCost f ≤ y.credits.getD f.vn 0 := by
      have := hc f.vn
      rw [List.filter_cons_of_pos (by simp), List.map_cons, List.sum_cons] at this
      omega
    have hput : offerFlit y f = putOnWire y f := if_pos ⟨decide_eq_true ⟨by omega, hcost⟩, by simp [hq]⟩
    have hleft (v : Nat) : ((l.filter (fun f => f.vn == v)).map flitCost).sum ≤ (putOnWire y f).credits.getD v 0 := by
      have hall := hc v
      by_cases hv : f.vn = v
      · subst hv
        rw [List.filter_cons_of_pos (by simp), List.map_cons, List.sum_cons] at hall
        exact (show _ ≤ y.credits.getD f.vn 0 - flitCost f by omega).trans_eq (getD_set_self _ _ _ hcost).symm
      · rw [List.filter_cons_of_neg (by simpa using hv)] at hall
        exact hall.trans_eq (getD_set_ne _ hv _).symm
    obtain ⟨hreplay, hqueued⟩ := ih (y := putOnWire y f) (by simp only [putOnWire, List.length_append, List.length_singleton]; omega) hq hleft
    rw [List.foldl_cons, hput]
    exact ⟨hreplay.trans (List.append_assoc _ _ _), hqueued⟩

/-! ### A port brought up afresh (R202, R203, R204, R500) -/

/-- Whether a port may train. -/
def mayTrain (s : State) (p : Nat) : Prop := expectedPort s p = true ∧ (getSlink s p).retired = false ∧ (getSlink s p).configuredOff = false
  ∧ (getSlink s p).noRetry = false ∧ portPattern s p = false

/-- A port brought up starts its training where it may, and else stays as it is. -/
theorem bringUp_writes (p : Nat) (s : State) :
    (getSlink (bringUp p s) p).relaying = (getSlink s p).relaying ∧ (getSlink (bringUp p s) p).retired = (getSlink s p).retired
      ∧ (mayTrain s p → (getSlink (bringUp p s) p).state = .detect) ∧ (¬ mayTrain s p → bringUp p s = s) ∧ PortsOnly s (bringUp p s)
      ∧ ∀ k, k ≠ p → getSlink (bringUp p s) k = getSlink s k := by
  have hcond : (expectedPort s p ∧ ¬ (getSlink s p).retired ∧ ¬ (getSlink s p).configuredOff ∧ ¬ (getSlink s p).noRetry ∧ ¬ portPattern s p)
      ↔ mayTrain s p := by
    simp [mayTrain]
  by_cases h : mayTrain s p
  case pos =>
    have hup : bringUp p s = setSlink (setSlink s p { getSlink s p with failedAttempts := 0 }) p
        (trainingStarted { getSlink s p with failedAttempts := 0 }) := by
      refine (if_pos (hcond.mpr h)).trans ?_
      rw [startTraining_eq, getSlink_setSlink]
    rw [hup, getSlink_setSlink]
    refine ⟨rfl, rfl, fun _ => rfl, fun hn => absurd h hn, ((PortsOnly.refl s).setSlink _ _).setSlink _ _, fun k hk => ?_⟩
    rw [getSlink_setSlink_ne _ _ _ _ hk, getSlink_setSlink_ne _ _ _ _ hk]
  case neg =>
    have hstays : bringUp p s = s := if_neg (fun hc => h (hcond.mp hc))
    rw [hstays]
    exact ⟨rfl, rfl, fun hy => absurd hy h, fun _ => rfl, .refl s, fun _ _ => rfl⟩

/-! ### A CONTROL flit without effect, HANDOVER, and the route switch that ends it -/

/-- The port that has received one more flit in sequence. -/
def inSequence (x : SlinkPort) : SlinkPort := { x with rxSeq := x.rxSeq + 1, nakSent := false, naksSent := 0 }

/-- A CONTROL flit of another subtype, with no credits to return, is received and has no other effect. -/
theorem flitDelivered_control {p : Nat} {h : W64} {slots : List Bytes} {s : State} (hc : field h 63 32 = 0) (hq : (getSlink s p).queued = [])
    (h3 : byteAt (slots.headD []) 0 ≠ 3) (h4 : byteAt (slots.headD []) 0 ≠ 4) :
    flitDelivered p 2 h slots s = setSlink (setSlink s p (getSlink s p)) p (inSequence (getSlink s p)) := by
  unfold flitDelivered
  simp only [takeCredits_idle hc hq, getSlink_setSlink, show ¬ (2 : Nat) = 0 by decide, if_false, if_true]
  exact (if_neg h3).trans (if_neg h4)

section
variable {p : Nat} {flit : Bytes} {s : State}

/-- A flit with a wrong CRC changes but the NAK state and the place of the next MARKER (R206, R207). -/
theorem flitReceive_bad (hp : p < 6) (hx : (getSlink s p).state = .up) (hbad : ¬ flitGood flit) (hn : (getSlink s p).naksSent + 1 < 16) :
    let x := getSlink s p
    ∃ t, exec (.linkFlitReceive p flit) s = .next t
      ∧ getSlink t p = { x with sinceMarker := if x.sinceMarker = 4095 then 0 else x.sinceMarker + 1, nakSent := true, naksSent := x.naksSent + 1 }
      ∧ (∀ k, k ≠ p → getSlink t k = getSlink s k) ∧ t = { s with swarm := { s.swarm with ports := t.swarm.ports }, free := s.free + 1 } := by
  intro x
  have hnak := sendNak_counts (p := p) (s := setSlink s p { x with sinceMarker := if x.sinceMarker = 4095 then 0 else x.sinceMarker + 1 })
    (by rw [getSlink_setSlink]; exact hn)
  rw [getSlink_setSlink] at hnak
  refine ⟨_, exec_comes rfl (decide_eq_true hp) ((linkFlitReceive_bad hx hbad).trans hnak), getSlink_next (getSlink_setSlink _ _ _),
    fun k hk => getSlink_next ?_, (((PortsOnly.refl s).setSlink _ _).setSlink _ _).next⟩
  rw [getSlink_setSlink_ne _ _ _ _ hk, getSlink_setSlink_ne _ _ _ _ hk]

/-- A flit that is expected advances the SEQ and ends the NAK state (R207). -/
theorem flitReceive_expected (hp : p < 6) (hx : (getSlink s p).state = .up) (hgood : flitGood flit)
    (hseq : field (le64 flit 0) 13 2 = (getSlink s p).rxSeq.toNat)
    (hk : (field (le64 flit 0) 1 0 = 0 ∧ ingressFits (fillIngress (flitSlots flit) (getSlink s p)) = true) ∨ field (le64 flit 0) 1 0 = 2) :
    received (getSlink (linkFlitReceive p flit s) p) = ((getSlink s p).rxSeq + 1, false, 0) := by
  rw [linkFlitReceive_expected hx hgood hseq hk, flitDelivered_receives (hk.imp_left And.left), takeAck_rxSeq hp, getSlink_setSlink]

/-- A CONTROL flit with nothing to acknowledge, to return or to do changes nothing else (R206, R207). -/
theorem flitReceive_control (hx : (getSlink s p).state = .up) (hgood : flitGood flit) (hseq : field (le64 flit 0) 13 2 = (getSlink s p).rxSeq.toNat)
    (hk : field (le64 flit 0) 1 0 = 2) (hnak : bitOf (le64 flit 0) 26 = false) (hr : (getSlink s p).replay = []) (hq : (getSlink s p).queued = [])
    (hn : (getSlink s p).naksReceived < 16) (hc : field (le64 flit 0) 63 32 = 0) (h3 : byteAt ((flitSlots flit).headD []) 0 ≠ 3)
    (h4 : byteAt ((flitSlots flit).headD []) 0 ≠ 4) :
    getSlink (linkFlitReceive p flit s) p = inSequence { getSlink s p with sinceMarker := (getSlink s p).sinceMarker + 1 }
      ∧ PortsOnly s (linkFlitReceive p flit s) := by
  have hport := getSlink_setSlink s p { getSlink s p with sinceMarker := (getSlink s p).sinceMarker + 1 }
  have hmarked := (PortsOnly.refl s).setSlink p { getSlink s p with sinceMarker := (getSlink s p).sinceMarker + 1 }
  rw [linkFlitReceive_expected hx hgood hseq (.inr hk), hnak, hk]
  generalize setSlink s p { getSlink s p with sinceMarker := (getSlink s p).sinceMarker + 1 } = u at hport hmarked ⊢
  rw [takeAck_idle (by rw [hport]; exact hr) (by rw [hport]; exact hq) (by rw [hport]; exact hn),
    flitDelivered_control hc (by rw [getSlink_setSlink, hport]; exact hq) h3 h4, getSlink_setSlink, getSlink_setSlink, hport]
  exact ⟨rfl, ((hmarked.setSlink _ _).setSlink _ _).setSlink _ _⟩

/-- HANDOVER: what the other end has not delivered, then what waited, is offered to the partner, and the port relays (R211). -/
theorem handover_relays (hx : (getSlink s p).state = .handover) (hr : (getSlink s p).relaying = false) (delivered : BitVec 12) :
    let x := getSlink s p
    let n := (x.txSeq - 1 - delivered).toNat
    let rest := (if n ≤ x.replay.length then x.replay.drop (x.replay.length - n) else x.replay) ++ x.queued
    handover p delivered s = rest.foldl (fun s f => sendFlit (partner p) f s) (setSlink s p { x with relaying := true, replay := [], queued := [] }) :=
  if_pos ⟨hx, by simp [hr]⟩

/-- What the route switch that ends a handover makes of its port (R211). -/
theorem handoverRouteSwitch_ends (hx : (getSlink s p).state = .handover) (hr : (getSlink s p).relaying = true) (hs : s.net.switching = none) :
    let x := getSlink s p
    let t := handoverRouteSwitch p s
    (getSlink t p).relaying = false
      ∧ (getSlink t p).state = (if expectedPort s p = true ∧ (getSlink t p).retired = false ∧ x.configuredOff = false ∧ x.noRetry = false
            ∧ portPattern s p = false then .detect else .off)
      ∧ (∀ k, k ≠ p → getSlink t k = getSlink s k) ∧ t.mem = s.mem ∧ t.obj = s.obj ∧ t.swarm.members = s.swarm.members := by
  obtain ⟨hswarm, hmem, hobj, -, hboot, htest⟩ := kept_of_switches (moveRoutes_apartFromSwitches p s)
  have hrun : handoverRouteSwitch p s = bringUp p (linkEvent p (setSlink (moveRoutes p s) p (portOff (getSlink (moveRoutes p s) p)))) :=
    if_pos ⟨hx, hr, by rw [hs]; rfl⟩
  intro x t
  rw [getSlink_of_swarm hswarm] at hrun
  generalize moveRoutes p s = v at hswarm hmem hobj hboot htest hrun
  obtain ⟨retired, hport⟩ := getSlink_linkEvent p (setSlink v p (portOff x))
  obtain ⟨hmem', hobj', hmembers', hnode', hboot', htest'⟩ := linkEvent_rest p (setSlink v p (portOff x))
  have hothers (k : Nat) (hk : k ≠ p) : getSlink (linkEvent p (setSlink v p (portOff x))) k = getSlink s k := by
    rw [getSlink_linkEvent_ne hk, getSlink_setSlink_ne _ _ _ _ hk, getSlink_of_swarm hswarm]
  rw [getSlink_setSlink] at hport
  generalize linkEvent p (setSlink v p (portOff x)) = w at hport hmem' hobj' hmembers' hnode' hboot' htest' hothers hrun
  have hnode : w.swarm.node = s.swarm.node := hnode'.trans (congrArg Swarm.node hswarm :)
  have hmembers : v.swarm.members = s.swarm.members := by rw [hswarm]
  have hexpected : expectedPort w p = expectedPort s p := by
    rw [expectedPort, peerNode, hnode, show w.boot = s.boot from hboot'.trans hboot, expectedPort, peerNode]
  have hpattern : portPattern w p = portPattern s p := by
    rw [portPattern, getPat, show w.test = s.test from htest'.trans htest, portPattern, getPat]
  have hmay : mayTrain w p ↔ (expectedPort s p = true ∧ (getSlink w p).retired = false ∧ x.configuredOff = false ∧ x.noRetry = false
      ∧ portPattern s p = false) := by
    rw [mayTrain, hexpected, hpattern, hport]
    rfl
  obtain ⟨hrelay, hretired, htrains, hstays, ⟨l, hl⟩, hleft⟩ := bringUp_writes p w
  rw [← show t = bringUp p w from hrun] at hrelay hretired htrains hstays hl hleft
  refine ⟨hrelay.trans (by rw [hport]; rfl), ?_, fun k hk => (hleft k hk).trans (hothers k hk), ?_, ?_, ?_⟩
  · rw [hretired]
    by_cases h : mayTrain w p
    · rw [if_pos (hmay.mp h), htrains h]
    · rw [if_neg (fun hc => h (hmay.mpr hc)), hstays h, hport]
      rfl
  · exact (congrArg State.mem hl).trans (hmem'.trans hmem)
  · exact (congrArg State.obj hl).trans (hobj'.trans hobj)
  · exact (congrArg (fun u : State => u.swarm.members) hl).trans (hmembers'.trans hmembers)

end

/-- Settles O36: the port that receives keeps what it has received over all that a flit's contents bring about. -/
theorem swarmLinkTraffic : Obligations.SwarmLinkTraffic := by
  intro p s hp x
  refine ⟨fun flit hx => ?flit, fun delivered hx hr => ?handover, fun hx hr hs => ?switch⟩
  case flit =>
    intro h kind slots
    refine ⟨fun hbad hn => flitReceive_bad hp hx hbad hn, fun hlen hcrc hseq hk => ?expected, fun hlen hcrc hk hm => ?marker⟩
    case expected =>
      have hrecv := getSlink_next (t := linkFlitReceive p flit s) (k := p) rfl
      have hgot := flitReceive_expected hp hx ⟨hlen, hcrc⟩ hseq hk
      refine ⟨_, exec_comes rfl (decide_eq_true hp) rfl, congrArg Prod.fst hgot, congrArg (fun x => x.2.1) hgot, congrArg (fun x => x.2.2) hgot,
        fun hk hnak hreplay hq hn hc h3 h4 => ?_⟩
      obtain ⟨hport, honly⟩ := flitReceive_control hx ⟨hlen, hcrc⟩ hseq hk hnak hreplay hq hn hc h3 h4
      exact ⟨getSlink_next hport, honly.next⟩
    case marker =>
      have hleaves := leaveUp_leaves (l := x.laneLock) hp hx (PortsOnly.refl s) (fun _ _ => rfl) rfl
      refine ⟨_, exec_comes rfl (decide_eq_true hp) (linkFlitReceive_marker hx ⟨hlen, hcrc⟩ hk hm), ?_⟩
      split
      next hup => exact congrArg SlinkPort.state (getSlink_next (t := leaveUp p s) (k := p) rfl) |>.trans (hleaves.handed hup).1
      next hup => exact congrArg SlinkPort.state (getSlink_next (t := leaveUp p s) (k := p) rfl) |>.trans (hleaves.off hup).1
  case handover =>
    intro n rest y
    have hpp := partner_ne hp
    have hrelay : PortsOnly s (setSlink s p { x with relaying := true, replay := [], queued := [] }) := (PortsOnly.refl s).setSlink _ _
    have hpartner := (getSlink_sendFlits (partner p) rest (setSlink s p { x with relaying := true, replay := [], queued := [] }) (partner p)).trans
      ((if_pos rfl).trans (by rw [getSlink_setSlink_partner hp]))
    refine ⟨_, exec_comes rfl (decide_eq_true hp) (handover_relays hx hr delivered), ?_, getSlink_next hpartner, fun hlen hq hc => ?_,
      fun k hk hk' => getSlink_next ?_, (hrelay.trans (sendFlits_portsOnly _ _ _)).next⟩
    · exact getSlink_next ((getSlink_sendFlits _ _ _ p).trans ((if_neg hpp.symm).trans (getSlink_setSlink _ _ _)))
    · have hsent := offerFlits_sent hlen hq hc
      rw [← hpartner] at hsent
      exact hsent
    · rw [getSlink_sendFlits, if_neg hk', getSlink_setSlink_ne _ _ _ _ hk]
  case switch => exact ⟨_, exec_comes rfl (decide_eq_true hp) rfl, handoverRouteSwitch_ends hx hr hs⟩

end Sys2Proof.Machine
end
